-- ==== Sys2Proof/Word.lean ====
section
/-! DEFINITION. Words, bytes and the sparse tables that hold every indexed piece of state. -/

namespace Sys2Proof

/-- A byte, the smallest addressable unit of every memory of the device. -/
abbrev Byte := BitVec 8

/-- A scalar or address register, an instruction word, an address while it is computed. -/
abbrev W64 := BitVec 64

/-- An FP32 value by its binary32 bits, or a 32-bit register. -/
abbrev W32 := BitVec 32

/-- A table from numbers to values, holding only the entries that differ from the table's default,
in strictly rising order of key. Its accessors are in `Machine/Tab.lean`. -/
abbrev Tab (α : Type) := List (Nat × α)

end Sys2Proof
end

