-- ==== Sys2Proof/Syntax.lean ====
section
/-! DEFINITION. The commands that the PX1216 takes: one constructor of `Instr` for each row of the
spec's table of operations and events, with the row's operands, and the operand types. -/

namespace Sys2Proof

/-- A sequencer: that of a device logical tile, 0 to 191 (tile profile), or Miller core, 0 to 15
(service profile). R199, R249. -/
inductive Core
  | tile (l : Nat)
  | miller (c : Nat)
deriving DecidableEq, Repr

/-- The guard of an instruction: predicate G, inverted when GN is set. R236, R240. -/
structure Guard where
  g : BitVec 3
  gn : Bool
deriving DecidableEq, Repr

/-- The unit queues of a tile. R204 and the table of unit queues. -/
inductive TileUnit
  | hopper | lookup | bin | stream
deriving DecidableEq, Repr

/-- A unit with an enable state machine. R631, R634. -/
inductive EnUnit
  | tile (p : Nat)      -- physical tile, 0 to 199
  | engine (e : Nat)    -- device attention engine, 0 to 47
  | lane (n : Nat)      -- device codec lane, 0 to 31
  | port (p : Nat)      -- Headrace port, 0 to 15
  | core (c : Nat)      -- Miller core, 0 to 15
deriving DecidableEq, Repr

/-- The stall causes and their codes. R234. -/
inductive Cause
  | weight | table | bin | ringSpace | ringData | sluice | fabric | page | codec | rate | bank
deriving DecidableEq, Repr

/-- The agents that count stalls. R233, R235, R379. -/
inductive StallAgent
  | tile (p : Nat)
  | engine (e : Nat)
  | slot (k : Nat)
deriving DecidableEq, Repr

/-- A Headrace packet as it stands at its receiver: the fields of the head (R463) and its data
words, each with the check bits it arrived with. -/
structure Packet where
  operand : W64
  resp : Bool
  status : Nat
  len : Nat
  op : Nat
  dst : Nat
  src : Nat
  oclass : Nat
  oseq : Nat
  tag : Nat
  group : Nat
  addr : W64
  data : List (BitVec 256 × W32)
deriving DecidableEq, Repr

/-- What the receiver of a port sees of one flit: whether RS decoding and the CRC succeeded, and the
header fields. R450 to R453. -/
structure FlitIn where
  fecOk : Bool
  fecBytes : Nat
  crcOk : Bool
  ftype : Nat
  seq : Nat
  ack : Nat
  nak : Bool
  cclass : Nat
  cred : Nat
  kind : Nat
deriving DecidableEq, Repr

/-- Transport of a management frame. -/
inductive Transport
  | mailbox | i3c
deriving DecidableEq, Repr

/-- A request frame of the management controller. R644. -/
structure Frame where
  role : Nat
  signed : Bool
  nonce : W64
  keyFpr : BitVec 128
  payload : List Byte
  sig : List Byte
deriving DecidableEq, Repr

/-- A Fantail message as written to a mailbox word. R610. -/
structure FanMsg where
  sender : Nat
  group : Nat
  subj : Nat
  mseq : Nat
  value0 : W32
  value1 : W32
deriving DecidableEq, Repr

/-- One run of a step as the run plan names it: internal to the firmware, so an operand. R537. -/
structure PlanRun where
  progAddr : W64
  die : Nat
  tileMask : Nat
  nAttn : Nat
  nStrm : Nat
  nGrist : Nat
  nRegions : Nat
  regionList : Nat
  runLimit : Nat
  cplRing : Nat
  seqno : Nat
deriving DecidableEq, Repr

/-- A failing row of a march: bank, sub-bank, row, and whether the first spare tried fails as well. -/
structure RowFail where
  bank : Nat
  sub : Nat
  row : Nat
  badSpares : Nat
deriving DecidableEq, Repr

/-- Outcome of a bring-up step as the hardware finds it. R674, R677. -/
inductive BootOutcome
  | good
  | vinUnsettled
  | stackFail
  | imageBad
  /-- physical tiles whose regulator is not at its setpoint -/
  | tilesFailed (ps : List Nat)
  /-- the start-up march, with the rows that fail by physical tile -/
  | marched (fails : List (Nat × List RowFail))
  | hbmFail (frames : List Nat) (pcs : List (Nat × Nat))
deriving DecidableEq, Repr

inductive Instr
  -- control (06)
  | nop (c : Core) (g : Guard)
  | opEnd (c : Core) (g : Guard)
  | br (c : Core) (g : Guard) (imm : BitVec 32)
  | jal (c : Core) (g : Guard) (sd : BitVec 5) (imm : BitVec 32)
  | jr (c : Core) (g : Guard) (sa : BitVec 5)
  | undefinedEncoding (c : Core) (w0 w1 : W64)
  -- integer arithmetic, RR
  | add (c : Core) (g : Guard) (sd sa sb : BitVec 5)
  | sub (c : Core) (g : Guard) (sd sa sb : BitVec 5)
  | mul (c : Core) (g : Guard) (sd sa sb : BitVec 5)
  | mulhu (c : Core) (g : Guard) (sd sa sb : BitVec 5)
  | opAnd (c : Core) (g : Guard) (sd sa sb : BitVec 5)
  | opOr (c : Core) (g : Guard) (sd sa sb : BitVec 5)
  | opXor (c : Core) (g : Guard) (sd sa sb : BitVec 5)
  | shl (c : Core) (g : Guard) (sd sa sb : BitVec 5)
  | shr (c : Core) (g : Guard) (sd sa sb : BitVec 5)
  | sra (c : Core) (g : Guard) (sd sa sb : BitVec 5)
  | opMin (c : Core) (g : Guard) (sd sa sb : BitVec 5)
  | opMax (c : Core) (g : Guard) (sd sa sb : BitVec 5)
  | minu (c : Core) (g : Guard) (sd sa sb : BitVec 5)
  | maxu (c : Core) (g : Guard) (sd sa sb : BitVec 5)
  | divu (c : Core) (g : Guard) (sd sa sb : BitVec 5)
  | remu (c : Core) (g : Guard) (sd sa sb : BitVec 5)
  -- integer arithmetic, RI
  | addI (c : Core) (g : Guard) (sd sa : BitVec 5) (imm : BitVec 32)
  | subI (c : Core) (g : Guard) (sd sa : BitVec 5) (imm : BitVec 32)
  | mulI (c : Core) (g : Guard) (sd sa : BitVec 5) (imm : BitVec 32)
  | mulhuI (c : Core) (g : Guard) (sd sa : BitVec 5) (imm : BitVec 32)
  | andI (c : Core) (g : Guard) (sd sa : BitVec 5) (imm : BitVec 32)
  | orI (c : Core) (g : Guard) (sd sa : BitVec 5) (imm : BitVec 32)
  | xorI (c : Core) (g : Guard) (sd sa : BitVec 5) (imm : BitVec 32)
  | shlI (c : Core) (g : Guard) (sd sa : BitVec 5) (imm : BitVec 32)
  | shrI (c : Core) (g : Guard) (sd sa : BitVec 5) (imm : BitVec 32)
  | sraI (c : Core) (g : Guard) (sd sa : BitVec 5) (imm : BitVec 32)
  | minI (c : Core) (g : Guard) (sd sa : BitVec 5) (imm : BitVec 32)
  | maxI (c : Core) (g : Guard) (sd sa : BitVec 5) (imm : BitVec 32)
  | minuI (c : Core) (g : Guard) (sd sa : BitVec 5) (imm : BitVec 32)
  | maxuI (c : Core) (g : Guard) (sd sa : BitVec 5) (imm : BitVec 32)
  | divuI (c : Core) (g : Guard) (sd sa : BitVec 5) (imm : BitVec 32)
  | remuI (c : Core) (g : Guard) (sd sa : BitVec 5) (imm : BitVec 32)
  -- moves, compares, FP32
  | li (c : Core) (g : Guard) (sd : BitVec 5) (imm : W64)
  | movRv (c : Core) (g : Guard) (sd : BitVec 5) (imm : BitVec 32)
  | movSa (c : Core) (g : Guard) (sd : BitVec 5) (ab : BitVec 4) (imm : BitVec 32)
  | movAs (c : Core) (g : Guard) (ad : BitVec 4) (sa : BitVec 5) (imm : BitVec 32)
  | addaI (c : Core) (g : Guard) (ad ab : BitVec 4) (imm : BitVec 32)
  | cmpCc (c : Core) (g : Guard) (pd : BitVec 3) (cc : BitVec 4) (sa sb : BitVec 5) (useImm : Bool) (imm : BitVec 32)
  | pLop (c : Core) (g : Guard) (pd pa pb : BitVec 3) (lop : BitVec 2)
  | fadd (c : Core) (g : Guard) (sd sa sb : BitVec 5)
  | fsub (c : Core) (g : Guard) (sd sa sb : BitVec 5)
  | fmul (c : Core) (g : Guard) (sd sa sb : BitVec 5)
  | fdiv (c : Core) (g : Guard) (sd sa sb : BitVec 5)
  | fmin (c : Core) (g : Guard) (sd sa sb : BitVec 5)
  | fmax (c : Core) (g : Guard) (sd sa sb : BitVec 5)
  | fcvtFI (c : Core) (g : Guard) (sd sa : BitVec 5)
  | fcvtIF (c : Core) (g : Guard) (sd sa : BitVec 5)
  -- loads and stores
  | ld (c : Core) (g : Guard) (sd : BitVec 5) (ab : BitVec 4) (sz : BitVec 2) (sx : Bool) (off : BitVec 32)
  | st (c : Core) (g : Guard) (sd : BitVec 5) (ab : BitVec 4) (sz : BitVec 2) (off : BitVec 32)
  | ldc (c : Core) (g : Guard) (sd : BitVec 5) (ab : BitVec 4) (sz : BitVec 2) (sx : Bool) (sc : BitVec 5) (off : BitVec 32)
  | stc (c : Core) (g : Guard) (sd : BitVec 5) (ab : BitVec 4) (sz : BitVec 2) (sc : BitVec 5) (off : BitVec 32)
  -- tables, lookup-accumulate, bins, attention
  | tblBuild (c : Core) (g : Guard) (as_ : BitVec 4) (h : Bool) (enc : BitVec 3) (bpos : BitVec 2) (ifmt : BitVec 4)
      (m : BitVec 6) (nb : BitVec 12) (ars acb : BitVec 4) (rsn : Bool) (krem rstride : BitVec 16)
  | tblSave (c : Core) (g : Guard) (ab : BitVec 4) (h : Bool) (off : BitVec 32)
  | tblLoad (c : Core) (g : Guard) (as_ : BitVec 4) (h : Bool) (enc : BitVec 3) (bpos : BitVec 2) (ifmt : BitVec 4)
      (m : BitVec 6) (nb : BitVec 12) (ars acb : BitVec 4) (rsn : Bool)
  | laccBin (c : Core) (g : Guard) (aw : BitVec 4) (h : Bool) (bin0 : BitVec 3) (m : BitVec 6) (blk0 nblk : BitVec 12)
      (wring : BitVec 16) (n : BitVec 15) (woff : BitVec 32)
  | laccTer (c : Core) (g : Guard) (aw : BitVec 4) (h : Bool) (bin0 : BitVec 3) (m : BitVec 6) (blk0 nblk : BitVec 12)
      (wring : BitVec 16) (n : BitVec 15) (woff : BitVec 32)
  | laccI2 (c : Core) (g : Guard) (aw : BitVec 4) (h : Bool) (bin0 : BitVec 3) (m : BitVec 6) (blk0 nblk : BitVec 12)
      (wring : BitVec 16) (n : BitVec 15) (woff : BitVec 32)
  | laccI3 (c : Core) (g : Guard) (aw : BitVec 4) (h : Bool) (bin0 : BitVec 3) (m : BitVec 6) (blk0 nblk : BitVec 12)
      (wring : BitVec 16) (n : BitVec 15) (woff : BitVec 32)
  | laccI4 (c : Core) (g : Guard) (aw : BitVec 4) (h : Bool) (bin0 : BitVec 3) (m : BitVec 6) (blk0 nblk : BitVec 12)
      (wring : BitVec 16) (n : BitVec 15) (woff : BitVec 32)
  | laccCb (c : Core) (g : Guard) (aw : BitVec 4) (h : Bool) (bin0 : BitVec 3) (m : BitVec 6) (blk0 nblk : BitVec 12)
      (wring : BitVec 16) (n : BitVec 15) (woff : BitVec 32)
  | laccFp4 (c : Core) (g : Guard) (aw : BitVec 4) (h : Bool) (bin0 : BitVec 3) (m : BitVec 6) (blk0 nblk : BitVec 12)
      (wring : BitVec 16) (n : BitVec 15) (woff : BitVec 32)
  | binOpen (c : Core) (g : Guard) (bin : BitVec 3) (src : BitVec 2) (anchMode : Bool) (head : BitVec 4) (gsMode gsize : BitVec 2)
      (apre ags : BitVec 4) (nRow : BitVec 12) (linb : BitVec 3) (anch : BitVec 16) (nCh : BitVec 15)
  | binClose (c : Core) (g : Guard) (bin : BitVec 3) (dest : BitVec 2) (ab : BitVec 4) (off : BitVec 32)
  | attn (c : Core) (g : Guard) (ab eng : BitVec 4) (off : BitVec 32)
  -- streams and rings
  | strmArm (c : Core) (g : Guard) (ab : BitVec 4) (slot : BitVec 6) (off : BitVec 32)
  | strmRearm (c : Core) (g : Guard) (slot : BitVec 6) (sa sb : BitVec 5) (kd ki : Bool)
  | strmWait (c : Core) (g : Guard) (slot : BitVec 6)
  | strmHalt (c : Core) (g : Guard) (slot : BitVec 6)
  | strmResume (c : Core) (g : Guard) (sa sb : BitVec 5)
  | ringAttachP (c : Core) (g : Guard) (sa : BitVec 5) (imm : BitVec 32)
  | ringAttachC (c : Core) (g : Guard) (sa : BitVec 5) (imm : BitVec 32)
  | ringDetach (c : Core) (g : Guard) (sa : BitVec 5) (imm : BitVec 32)
  | ringClaim (c : Core) (g : Guard) (sd sa : BitVec 5) (imm : BitVec 32)
  | ringPost (c : Core) (g : Guard) (sa : BitVec 5) (imm : BitVec 32)
  | ringTake (c : Core) (g : Guard) (sd sa : BitVec 5) (imm : BitVec 32)
  | ringGive (c : Core) (g : Guard) (sa : BitVec 5) (imm : BitVec 32)
  | sluiceArrive (c : Core) (g : Guard) (sa : BitVec 5) (imm : BitVec 32)
  | sluiceWait (c : Core) (g : Guard) (sa : BitVec 5) (imm : BitVec 32)
  | sluiceReset (c : Core) (g : Guard) (sd sa sb : BitVec 5)
  | fence (c : Core) (g : Guard)
  | hringPeek (c : Core) (g : Guard) (pd : BitVec 3) (sa : BitVec 5) (ab : BitVec 4) (off : BitVec 32)
  | hringPop (c : Core) (g : Guard) (sa : BitVec 5)
  | hringPush (c : Core) (g : Guard) (pd : BitVec 3) (sa : BitVec 5) (ab : BitVec 4) (off : BitVec 32)
  | atomAddI32 (c : Core) (g : Guard) (sd sa : BitVec 5) (ab : BitVec 4) (off : BitVec 32)
  | atomAddF32 (c : Core) (g : Guard) (sd sa : BitVec 5) (ab : BitVec 4) (off : BitVec 32)
  | atomAddP64 (c : Core) (g : Guard) (sd sa : BitVec 5) (ab : BitVec 4) (off : BitVec 32)
  | atomSwap32 (c : Core) (g : Guard) (sd sa : BitVec 5) (ab : BitVec 4) (off : BitVec 32)
  | atomSwap64 (c : Core) (g : Guard) (sd sa : BitVec 5) (ab : BitVec 4) (off : BitVec 32)
  | atomSwap256 (c : Core) (g : Guard) (aw ab : BitVec 4) (off : BitVec 32)
  | gtabGrant (c : Core) (g : Guard) (sa sb : BitVec 5)
  | gtabRevoke (c : Core) (g : Guard) (sa : BitVec 5)
  | gtabInstall (c : Core) (g : Guard) (sd sa : BitVec 5) (ab aw : BitVec 4) (off : BitVec 32)
  | evtPost (c : Core) (g : Guard) (pd : BitVec 3) (sa : BitVec 5) (ab : BitVec 4) (off : BitVec 32)
  | runSubmit (c : Core) (g : Guard) (pd : BitVec 3) (ab : BitVec 4) (off : BitVec 32)
  | runCancel (c : Core) (g : Guard) (sa sb : BitVec 5)
  | resGrant (c : Core) (g : Guard) (sd sa sb : BitVec 5)
  | resFree (c : Core) (g : Guard) (sd sa sb : BitVec 5)
  | psort (c : Core) (g : Guard) (sd : BitVec 5) (ab : BitVec 4) (off : BitVec 32)
  -- tile units
  | queuedOperationStart (l : Nat) (u : TileUnit)
  | sequencerResume (c : Core)
  | tableBuildDone (l : Nat)
  | tableSaveDone (l : Nat)
  | wave (l : Nat)
  | anchorRaise (l bin : Nat)
  | preloadDone (l : Nat)
  | binCloseReadDone (l : Nat)
  | binCloseDone (l iseq : Nat)
  | attnOperationStart (e : Nat)
  | attnPage (e : Nat)
  | attnOperationDone (e : Nat)
  -- Governor
  | dispatchCheck (die : Nat)
  | dispatch (die : Nat) (rid : Nat)
  | runEnd (die : Nat) (rid : Nat)
  | runStopped (die : Nat) (rid : Nat)
  | runDeadlockWatchdog (die : Nat) (rid : Nat)
  | runLimit (die : Nat) (rid : Nat)
  | runAged (die : Nat) (rid : Nat)
  | stallTick (a : StallAgent) (phys : List (Nat × Cause))
  -- Millrace
  | transferIssue (k : Nat)
  | transferAck (k xid : Nat)
  | passEnd (k : Nat)
  | streamHalt (k : Nat)
  | haltNoticeWrite (die : Nat)
  | deadlockWatchdog (k : Nat)
  | weirRefill (die ctx : Nat)
  -- Millpond
  | bankAtomicApply (c : Core)
  | eccWriteback (p word : Nat)
  | retentionEntry (p bank : Nat)
  | bankWakeDone (p bank : Nat)
  | marchDone (p : Nat) (fails : List RowFail)
  | tileRemapComplete (l : Nat)
  -- Grist
  | gristDecodeBlock (k xid : Nat)
  | gristEncodeBlock (k xid : Nat)
  | gtabInstallDone (slot : Nat)
  | resFreeDone (c : Nat)
  -- memory
  | patrolScrub (stack : Nat)
  | sparingCopyDone (stack : Nat)
  | memXlatInvalWrite (val : W64) (va48 : Bool)
  | xlatInvalDone
  | hdrTblInvalWrite (val : W32)
  | tblInvalDone
  -- Headrace
  | flitReceive (port : Nat) (f : FlitIn)
  | laneAlignmentLoss (port : Nat)
  | portSilence (port : Nat)
  | portId (port : Nat) (switchId : BitVec 16) (switchPort : BitVec 8) (plane : BitVec 4)
  | creditInit (port : Nat)
  | packetSend
  | fabricLoad (pkt : Packet)
  | fabricStore (pkt : Packet)
  | fabricRead (pkt : Packet)
  | fabricWrite (pkt : Packet)
  | fabricAddI32 (pkt : Packet)
  | fabricAddF32 (pkt : Packet)
  | fabricAddP64 (pkt : Packet)
  | fabricAddP64x4 (pkt : Packet)
  | fabricSwap32 (pkt : Packet)
  | fabricSwap64 (pkt : Packet)
  | fabricSwap256 (pkt : Packet)
  | fabricSluiceArrive (pkt : Packet)
  | fabricResponse (pkt : Packet)
  | reorderRelease (src oclass : Nat)
  | requestTimeout (tag : Nat)
  | keeperAnnounce
  | slotReport (slot : Nat) (pid : BitVec 48) (leaf : BitVec 16)
  | rackReport (leaf : BitVec 16) (slots : W32)
  | hallWait
  | mapDistribution (gen : W32) (map : List (Nat × W32)) (devnum : Option Nat) (cause : Nat)
  | join (slot : Nat) (pid : BitVec 48) (leaf : BitVec 16)
  | mapChange (gen : W32) (dev : Nat) (present : Bool)
  | joinRetry
  | keeperHeartbeat
  | keeperFailover (hall : Bool)
  | heartbeatMiss (slot : Nat)
  -- serving loop
  | bind (ring : Nat)
  | unbind (ring : Nat)
  | opAdmit (ring : Nat)
  | cancel (ring : Nat)
  | load (ring : Nat)
  | activate (ring : Nat)
  | discard (ring : Nat)
  | heldRecordRetake (ring : Nat)
  | planStep (ctx : Nat) (ver : Bool) (runs : List PlanRun) (sluices : List (Nat × Nat)) (combine : List (Nat × Nat))
      (logitFmt : Nat)
  | sequenceSpill (ctx seq : Nat)
  | stepSample (ctx : Nat)
  | completionRecordRetry (ring : Nat)
  | manifestVerified (ctx : Nat)
  | shardFetchDone (ctx shard : Nat)
  | sourceReadyPoll (ctx shard : Nat)
  | shardMissing (ctx shard : Nat)
  | slotDiscard (ctx : Nat)
  | coreHandover (c : Nat) (ctx : Nat) (dest : Nat)
  | coreHalt (c : Nat)
  | millerCoreRestart (c : Nat)
  | drainedUpdate
  -- host interface
  | submitDoorbell (fn k : Nat) (value : W32) (written : List (Nat × Byte))
  | headDoorbell (fn k : Nat) (value : W32)
  | ringArm (fn k : Nat) (value : W32)
  | moderationExpiry (ring : Nat)
  | ringDescWrite (fn k : Nat) (off size : Nat) (val : W64)
  | ringEnable (fn k : Nat)
  | ringDisable (fn k : Nat)
  | ringDisableDone (ring : Nat)
  | hifFnRingsWrite (f : Nat) (val : W64)
  | hifFnVecWrite (f : Nat) (val : W64)
  | bar4Access (off : Nat) (data : Option (List Byte)) (size : Nat)
  | vfFlr (v : Nat)
  | pfFlr
  | hotReset
  | pcieLinkDown
  | perstNRelease
  | registerWrite (fn off size : Nat) (val : W64)
  | registerReadClear (fn off size : Nat)
  | bankWakeRequest (p : Nat)
  | unitEnableRequest (u : EnUnit)
  | unitDisableRequest (u : EnUnit)
  | enableComplete (u : EnUnit)
  | enableFail (u : EnUnit)
  | disableComplete (u : EnUnit)
  -- Fantail
  | rateWindow (p : Nat)
  | oscCalibration (tiles dies ports : List (Nat × W32))
  | powerSample (deciwatts : Nat)
  | capLoop
  | sensorRead (readings : List (Nat × Int))
  | brakeRelease
  | brakeLevelRaise
  | readyLevelRaise
  | avsTransactionDone (rail : Nat) (good : Bool)
  | thermalTrip (p : Nat)
  | slowdown (m : FanMsg)
  | recover (m : FanMsg)
  | skew (m : FanMsg)
  | tokens (m : FanMsg)
  | mode (m : FanMsg)
  | slowdownRepeat
  | slowdownNoticeExpiry (dev : Nat)
  -- bring-up
  | powerGoodRise (slot : BitVec 5) (rkeep hkeep : BitVec 2)
  | bringupStepDone (o : BootOutcome) (ms : Nat)
  | bringupBoundMissed (ms : Nat)
  | pwrGoodFall (ns : Nat)
  -- I3C
  | entdaa (addr : BitVec 7)
  | rstdaa
  | setnewda (addr : BitVec 7)
  | getpid
  | getbcr
  | getdcr
  | getstatus
  | enec
  | disec
  | setmwl (n : Nat)
  | getmwl
  | setmrl (n : Nat)
  | getmrl
  | rstact (action : Byte)
  | hotJoin
  | i3cPrivateRead
  -- management frames
  | getInfo (t : Transport) (f : Frame)
  | getNonce (t : Transport) (f : Frame)
  | nonceExpiry (t : Transport) (nonce : W64)
  | auditRead (t : Transport) (f : Frame)
  | auditHead (t : Transport) (f : Frame)
  | auditAck (t : Transport) (f : Frame)
  | setCap (t : Transport) (f : Frame)
  | setCapRange (t : Transport) (f : Frame)
  | setGroupCfg (t : Transport) (f : Frame)
  | setDroop (t : Transport) (f : Frame)
  | vtabWithdraw (t : Transport) (f : Frame)
  | vtabRestore (t : Transport) (f : Frame)
  | setTopology (t : Transport) (f : Frame)
  | setLoadSpan (t : Transport) (f : Frame)
  | pubkeyAdd (t : Transport) (f : Frame)
  | pubkeyRemove (t : Transport) (f : Frame)
  | pubkeyList (t : Transport) (f : Frame)
  | opkeyAdd (t : Transport) (f : Frame)
  | opkeyRemove (t : Transport) (f : Frame)
  | installerKeySet (t : Transport) (f : Frame)
  | fwStage (t : Transport) (f : Frame)
  | fwApprove (t : Transport) (f : Frame)
  | fwCommitSvn (t : Transport) (f : Frame)
  | fwChunk (t : Transport) (f : Frame)
  | marchReq (t : Transport) (f : Frame)
  | tileRetire (t : Transport) (f : Frame)
  | frameRetire (t : Transport) (f : Frame)
  | pcSpare (t : Transport) (f : Frame)
  | bar4Open (t : Transport) (f : Frame)
  | bar4Close (t : Transport) (f : Frame)
  | rtvConsent (t : Transport) (f : Frame)
  | rtvEnter (t : Transport) (f : Frame)
  | makerDiag (t : Transport) (f : Frame)
  | makerProvision (t : Transport) (f : Frame)
  | unknownCommand (t : Transport) (opc : BitVec 16) (f : Frame)
  | mgtRestart
  | pcieLinkUp (width speed : Nat)
  | laneAlignment (port : Nat) (lanes : BitVec 8)
  | crossingClockStop (x : Nat)
  | crossingClockReturn (x : Nat)
  | setpointReached (p : Nat)
  | stackRetraining (stack : Nat)
  | d2dLinkRetraining (link : Nat)
  | mgtReachesService
  | submissionUndefinedKind (ring : Nat)
deriving DecidableEq, Repr

end Sys2Proof
end

