-- ==== Sys2Proof/Decode.lean ====
section
/-! DEFINITION. The words of the spec's table of operations and events. No row of the table gives bits, so no word spells a
command. The instruction words of Jaend, which R236 to R311 give, are in `Machine/Encoding.lean`. -/

namespace Sys2Proof

/-- The command that a word spells by the bits of the table: none, since no row of the table has bits. -/
def decodeTableWord (_nbits _w : Nat) : Option Instr := none

end Sys2Proof
end

