-- ==== Sys2Proof/Machine/State.lean ====
section
/-! DEFINITION. The state of the PX1216 as plain data: one structure for each unit of the package,
their reset values as field defaults, and `State.reset`. Tables are sparse: an entry that is not
listed has the default value of its type. -/

namespace Sys2Proof.Machine
open Sys2Proof

/-- The machine never stops with a fault of its own: every fault that the spec names (R232, R230,
R390 to R413, R646, R677) is a next state. No constructor, so nobody raises one. -/
inductive Fault
deriving DecidableEq, Repr

/-- Why a command has no meaning. -/
inductive Refusal
  /-- Raised by an arm of `exec` whose command has no meaning yet; safe: the machine stops. -/
  | notModelled (mnemonic : String)
deriving DecidableEq, Repr

/-- The fault codes. R232. -/
inductive Flt
  | none | operandInvalid | binBusy | binLimit | rankOrder | fenced | pageAbsent | eccUncorrectable
  | deadlockWatchdog | runLimit
deriving DecidableEq, Repr

/-! ## Units with an enable state machine (16) -/

/-- ENSTATE. R631. -/
inductive EnState
  | off | enabling | on | disabling | disablingThenOn
deriving DecidableEq, Repr

/-- EN, ERR and ENSTATE of a unit. QRN_EN, GOV_ATTN_EN, GRS_LANE_EN, HDR_PORT_CTL, GOV_MCORE. -/
structure UnitEn where
  st : EnState := .off
  en : Bool := true
  err : Bool := false
deriving DecidableEq, Repr

/-! ## Sequencers (05, 06) -/

/-- Why a sequencer issues nothing more for now. R223, R224, R242, R257, R280, R286, R296, R307. -/
inductive Hold
  | none
  | reg (r : Nat)
  | sluice (ctx n : Nat)
  | fence
  /-- until `n` passes of the stream of slot `k` have ended -/
  | strm (k n : Nat)
  | swap256
  | claim (ring : Nat) (sd : Nat)
  | take (ring : Nat) (sd : Nat)
  | sluiceReset
  | resFree
  /-- the block that a load or store reaches is still in use by an earlier operation of the tile. R205 -/
  | hazard
  /-- the queue of engine `e` is full. R152 -/
  | attnRoom (e : Nat)
  | halted (why : Flt) (addr : Nat)
deriving DecidableEq, Repr

/-- A sequencer runs only while its tile is held by a run, or its core's RUN field is RUNNING. -/
inductive SeqMode
  | idle | running | ended | stopped | faulted
deriving DecidableEq, Repr

/-- A bucket ring attachment of a sequencer, with the slot indexes it has claimed or taken,
oldest first. R283 to R286. -/
structure Attach where
  ring : Nat
  producer : Bool
  slots : List Nat := []
deriving DecidableEq, Repr

/-- The registers of one sequencer. Registers of a table that are not listed hold zero. R199 to R201. -/
structure Seqr where
  mode : SeqMode := .idle
  pc : W64 := 0
  sreg : Tab W64 := []
  areg : Tab W64 := []
  preg : Tab Bool := []
  /-- registers that wait for the data of a load or atomic, with whether it comes from the fabric. R242 -/
  waiting : List (Nat × Bool) := []
  hold : Hold := .none
  attached : List Attach := []
  /-- the release that a held `sluice.wait` waits for has come. R367, R369 -/
  released : Bool := false
  /-- words of a stream descriptor read at a global address, for the `strm.arm` that waits for them. R277 -/
  desc : Option (W64 × List (BitVec 256 × W32)) := none
  /-- loads that a bad word of another device halted, with register, size and sign extension: sent again when the halt is over. R257 -/
  again : List (Nat × Nat × Bool × W64 × Packet) := []
deriving DecidableEq, Repr

/-! ## Unit operations of a tile -/

/-- Table encodings. R259. -/
inductive Enc
  | plane2 | plane3 | plane4 | bin | ter | cb | fp4
deriving DecidableEq, Repr

/-- Number formats, by the codes of 02. R53. -/
inductive Fmt
  | fp32 | bf16 | fp16 | e4m3 | e5m2 | int8 | bs12 | fp4 | int4 | int3 | int2 | ter | bin | cb | p64
deriving DecidableEq, Repr

/-- The half record. R263. -/
structure HalfRec where
  enc : Enc
  bpos : Nat
  m : Nat
  nb : Nat
  rs : Option Nat
  cb : Option Nat
deriving DecidableEq, Repr

/-- A table build or load with the values read at issue. R241, R260, R265. -/
structure BuildOp where
  pc : W64
  half : Bool
  hr : HalfRec
  ifmt : Fmt
  src : Nat
  krem : Nat
  rstride : Nat
deriving DecidableEq, Repr

/-- Operations of the Hopper queue. -/
inductive HopOp
  | build (iseq : Nat) (o : BuildOp)
  | load (iseq : Nat) (o : BuildOp)
  | save (iseq : Nat) (pc : W64) (half : Bool) (addr : Nat)
deriving DecidableEq, Repr

/-- The weight class of a lookup-accumulate. R267. -/
inductive LaccKind
  | bin | ter | i2 | i3 | i4 | cb | fp4
deriving DecidableEq, Repr

/-- A lookup-accumulate with the values read at issue. R266. -/
structure LaccOp where
  iseq : Nat
  pc : W64
  kind : LaccKind
  half : Bool
  bin0 : Nat
  m : Nat
  blk0 : Nat
  nblk : Nat
  n : Nat
  ring : Option Nat
  addr : Nat
  /-- the codebook scale and the group scales that it reads, by the issue-order state. R202, R206 -/
  reads : List (Nat × Nat) := []
deriving DecidableEq, Repr

/-- Position of the next wave of a running lookup-accumulate, in the order of R48, with the address
of the ring slot that holds its image. -/
structure LaccRun where
  op : LaccOp
  blk : Nat
  plane : Nat
  cw : Nat
  row : Nat
  image : Nat
  slot : Option Nat
deriving DecidableEq, Repr

/-- Group-scale modes. R95 to R99. -/
inductive GsMode
  | none | array | codebook
deriving DecidableEq, Repr

/-- `bin.open` with the values read at issue. R101, R272. -/
structure OpenOp where
  iseq : Nat
  pc : W64
  bin : Nat
  preload : Option Nat
  clear : Bool
  nRow : Nat
  nCh : Nat
  linBase : Nat
  fixed : Option Int
  head : Nat
  gs : GsMode
  gsAddr : Nat
  gsize : Nat
deriving DecidableEq, Repr

/-- A Tailrace descriptor. R120. -/
structure TailDesc where
  grsGen : Nat
  grsSlot : Nat
  kvHeadW : Nat
  grsEn : Bool
  kvqEn : Bool
  outEn : Bool
  kvFmt : Nat
  act : Nat
  biasFmt : Nat
  outFmt : Nat
  kvSlotAddr : W64
  outQscale : W32
  pwlAddr : Nat
  biasAddr : Option Nat
  chScaleAddr : Option Nat
  rowScaleAddr : Option Nat
  hdrAddr : Nat
  outStride : Nat
  outAddr : Nat
deriving DecidableEq, Repr

/-- Destination of a close. R110. -/
inductive CloseDest
  | tailrace (d : TailDesc)
  | p64Store (addr : Nat)
  | p64Add (addr : W64)
deriving DecidableEq, Repr

/-- `bin.close` with the values read at issue. R274. -/
structure CloseOp where
  iseq : Nat
  pc : W64
  bin : Nat
  dest : CloseDest
  /-- what it reads and writes of its tile's Millpond, by the issue-order state; the scales of a group that it completes first stand
  apart. R100, R202, R206 -/
  reads : List (Nat × Nat) := []
  writes : List (Nat × Nat) := []
  scales : List (Nat × Nat) := []
deriving DecidableEq, Repr

/-- Operations of the bin queue. -/
inductive BinOp
  | opn (o : OpenOp)
  | cls (o : CloseOp)
deriving DecidableEq, Repr

/-- One accumulator: its 48-bit value, its group register and its sticky poison flag. R84, R94, R98. -/
structure Acc where
  acc : Int := 0
  grp : Int := 0
  poison : Bool := false
deriving DecidableEq, Repr

/-- Issue-order or actual state of a bin. R104 to R106. -/
inductive BinSt
  | closed | opened | closing
deriving DecidableEq, Repr

/-- What the issue-order state keeps of a bin. R83, R91, R97, R99, R202. -/
structure BinIss where
  st : BinSt := .closed
  nRow : Nat := 0
  nCh : Nat := 0
  linBase : Nat := 0
  gs : GsMode := .none
  gsAddr : Nat := 0
  gsize : Nat := 0
  count : Nat := 0
  posIss : Nat := 0
  rowScale : Option (Option Nat) := none
deriving DecidableEq, Repr

/-- A raise under way: the new anchor, and the group products of the wave that wait for it, each as
accumulator, exact mantissa product and its exponent. R89, R90. -/
structure Raise where
  dest : Int
  prods : List (Nat × Int × Int)
deriving DecidableEq, Repr

/-- A bin. Accumulators that are not listed hold zero. R84 to R105. -/
structure Bin where
  st : BinSt := .closed
  acc : Tab Acc := []
  anchor : Option Int := none
  raise : Option Raise := none
  nRow : Nat := 0
  nCh : Nat := 0
  linBase : Nat := 0
  head : Nat := 0
  gs : GsMode := .none
  gsAddr : Nat := 0
  gsize : Nat := 0
  count : Nat := 0
  /-- block positions entered since the open. R96 -/
  pos : Nat := 0
  /-- row-scale vector recorded from the first lookup-accumulate. R271 -/
  rowScale : Option (Option Nat) := none
  /-- codebook whose CB_SCALE closes the present group. R99 -/
  codebook : Option Nat := none
deriving DecidableEq, Repr

/-- A close whose bin has been read and whose writes are not all acknowledged: the values it took
from the bin. R105, R112, R146. -/
structure CloseRun where
  op : CloseOp
  anchor : Option Int
  acc : Tab Acc
  nRow : Nat
  nCh : Nat
  linBase : Nat
  rowScale : Option (Option Nat)
  /-- remote adds not yet acknowledged -/
  remote : Nat := 0
  started : Bool := false
  failed : Option Flt := none
deriving DecidableEq, Repr

/-- A stream descriptor. R345. -/
structure StrmDesc where
  encGen : Nat
  grsSlots : List Nat
  grsValid : Nat
  codec : Nat
  mcast : Bool
  oclass : Nat
  persist : Bool
  mcastMask : Nat
  ctx : Nat
  sluice : Option Nat
  dstRing : Option Nat
  srcRing : Option Nat
  listLen : Nat
  listAddr : W64
  indexBase : W64
  dataBase : W64
deriving DecidableEq, Repr

/-- A reference on a Grist generation: slot and generation. R211. -/
structure GRef where
  slot : Nat
  gen : Nat
deriving DecidableEq, Repr

/-- Stream and ring queue operations; a post waits there for what it releases. `n` numbers the passes of a slot in issue order.
R202, R204, R278, R287, R722. -/
inductive StrmOp
  | arm (iseq : Nat) (pc : W64) (k n : Nat) (desc : StrmDesc) (refs : List GRef) (halt : Bool)
  | rearm (iseq : Nat) (pc : W64) (k n : Nat) (data : Option W64) (index : Option W64) (halt : Bool)
  | post (iseq : Nat) (ring : Nat)
deriving DecidableEq, Repr

/-- The single-word operations of the atomic unit. R324. -/
inductive AtomKind
  | addI32 | addF32 | addP64 | swap32 | swap64 | swap256 | store (bytes : Nat) | arrive | sluiceReset
  | addP64x4
deriving DecidableEq, Repr

/-- An entry of an atomic queue: bank atomics, stores to other tiles and global addresses, and
sluice arrivals. R222, R295, R371. `sent` marks an entry whose request is on the fabric. -/
structure AtomOp where
  iseq : Nat
  pc : W64
  kind : AtomKind
  addr : W64
  operand : W64
  local256 : Nat := 0
  sd : Nat := 0
  ctx : Nat := 0
  sluice : Nat := 0
  sent : Bool := false
  tag : Nat := 0
deriving DecidableEq, Repr

/-! ## Quern tile (01, 03, 05, 07) -/

/-- One block record entry. R43. -/
structure BlkRec where
  s : Nat := 0
  poison : Bool := false
deriving DecidableEq, Repr

/-- A half of the table file. Table words and block records that are not listed hold zero. R43. -/
structure Half where
  words : Tab (BitVec 16) := []
  blocks : Tab BlkRec := []
  hr : Option HalfRec := none
deriving DecidableEq, Repr

/-- A bank's power state. R326 to R328. -/
inductive BankSt
  | awake | retained | waking
deriving DecidableEq, Repr

/-- A bank: power state and the tile tick of its last access. R326. -/
structure Bank where
  st : BankSt := .awake
  lastAccess : Nat := 0
deriving DecidableEq, Repr

/-- MPD_MARCH_STAT.STATE. -/
inductive MarchSt
  | idle | running | pass | repaired | fail | aborted
deriving DecidableEq, Repr

/-- An entry of MPD_REPAIR_LOG. -/
structure RepairEntry where
  bank : Nat
  sub : Nat
  row : Nat
  spare : Nat
  preserving : Bool
deriving DecidableEq, Repr

/-- The Millpond of a physical tile: its registers, the repair map and the pending write-backs. -/
structure Mpd where
  banks : Tab Bank := []
  idle : Nat := 244
  retEn : BitVec 3 := 7
  marchAbort : Bool := false
  marchStart : Bool := false
  marchPreserving : Bool := false
  marchBanks : BitVec 3 := 0
  rowsFailed : Nat := 0
  rowsRepaired : Nat := 0
  marchSt : MarchSt := .idle
  /-- rows mapped to spare rows: (bank × sub-bank × row, spare). R334, R336 -/
  repairs : List RepairEntry := []
  log : List RepairEntry := []
  ce : Nat := 0
  ue : Nat := 0
  /-- words corrected by a read that wait for their write-back. R316 -/
  writeback : List Nat := []
deriving DecidableEq, Repr

/-- A physical Quern tile. -/
structure Tile where
  unit : UnitEn := {}
  hs : Nat := 0
  ticks : Nat := 0
  stall : Tab Nat := []
  /-- handshakes let through in the present rate window. R595 -/
  window : Nat := 0
  seqr : Seqr := {}
  /-- issue-order number of the next unit operation -/
  iseq : Nat := 0
  half0 : Half := {}
  half1 : Half := {}
  iss0 : Option HalfRec := none
  iss1 : Option HalfRec := none
  hopQ : List HopOp := []
  hopRun : Option HopOp := none
  lookQ : List LaccOp := []
  lookRun : Option LaccRun := none
  lookRings : List Nat := []
  bins : Tab Bin := []
  issBins : Tab BinIss := []
  binQ : List BinOp := []
  binRun : Option BinOp := none
  closes : List CloseRun := []
  strmQ : List StrmOp := []
  atomQ : List AtomOp := []
  mpd : Mpd := {}
  /-- machine-class faults since reset. R681 -/
  machineFaults : Nat := 0
  /-- no longer behind any logical tile, and not a spare. R216, R217 -/
  retired : Bool := false
deriving DecidableEq, Repr

/-! ## Attention engines (04) -/

/-- An attention descriptor. R154. -/
structure AttnDesc where
  sluice : Option Nat
  partIndex : Nat
  nParts : Nat
  mode : Nat
  outFmt : Nat
  qFmt : Nat
  kvFmt : Nat
  g : Nat
  w : Nat
  pageCount : Nat
  pageFirst : Nat
  partAddr : W64
  ptAddr : W64
  seqLen : Nat
  hdrAddr : Nat
  outQscale : W32
  outAddr : Nat
  scoreScale : W32
  qAddr : Nat
deriving DecidableEq, Repr

/-- An issued attention operation: tile that issued it and its descriptor. -/
structure AttnOp where
  tile : Nat
  iseq : Nat
  pc : W64
  desc : AttnDesc
deriving DecidableEq, Repr

/-- Per query head: the BS12 blocks of the query and the running softmax. R156, R162, R170. -/
structure Head where
  blocks : List (Nat × List Int) := []
  poison : Bool := false
  m : W32 := 0xFF800000
  l : W32 := 0
  o : List W32 := []
deriving DecidableEq, Repr

/-- A word that a stream has fetched in this pass, or an engine in this operation: word number of its address, data, and whether it holds good data. -/
structure Fetched where
  word : Nat
  data : BitVec 256
  good : Bool
deriving DecidableEq, Repr

/-- The running operation of an engine: how many pages of it are done, the part-record words that it has read, and once it writes
its results, how many requests are not yet answered. -/
structure AttnRun where
  op : AttnOp
  heads : List Head
  page : Nat
  fetched : List Fetched := []
  ending : Bool := false
  remote : Nat := 0
deriving DecidableEq, Repr

/-- A slot of a flume: the logical page of the pass that it holds, its words, which of them hold no good data, and whether it is
posted. R149, R170. -/
structure FlumePage where
  elem : Nat
  words : Tab (BitVec 256) := []
  bad : List Nat := []
  posted : Bool := false
deriving DecidableEq, Repr

/-- An attention engine. -/
structure Engine where
  unit : UnitEn := {}
  /-- run that holds the engine. R151 -/
  grant : Option Nat := none
  queue : List AttnOp := []
  run : Option AttnRun := none
  flume : List FlumePage := []
  stall : Tab Nat := []
deriving DecidableEq, Repr

/-! ## Governors (05, 12) -/

/-- A region. R189. -/
structure Region where
  base : Nat
  size : Nat
  scope : Nat
  rw : Bool
deriving DecidableEq, Repr

/-- A run record. R188. -/
structure RunRec where
  args : List W64
  rsvd : Bool
  tileMask : Nat
  cplRing : Nat
  limit : Nat
  regionList : Nat
  nRegions : Nat
  ver : Bool
  nGrist : Nat
  nStrm : Nat
  nAttn : Nat
  die : Nat
  ctx : Nat
  step : Nat
  seqno : Nat
  progAddr : W64
deriving DecidableEq, Repr

/-- Phase of a run. `raw` waits for its checks, `ready` waits to dispatch, `stopping` is between
steps 1 and 4 of R228, `ended` has reached step 5. -/
inductive RunPhase
  | raw | ready | active | stopping | ended
deriving DecidableEq, Repr

/-- A run in a Governor: its record, what it was granted, and its counts. -/
structure Run where
  rid : Nat
  rr : RunRec
  phase : RunPhase := .raw
  regions : List Region := []
  engines : List Nat := []
  slots : List Nat := []
  lanes : List Nat := []
  aged : Bool := false
  /-- tick of the die's Millrace oscillator at which the run began to wait. R198 -/
  waitFrom : Nat := 0
  /-- tick of the run's lowest-numbered tile at dispatch and at its last handshake and at its end. R226, R227, R231 -/
  startTick : Nat := 0
  progressTick : Nat := 0
  endTick : Nat := 0
  stall : Tab Nat := []
  cancelled : Bool := false
  /-- the reason of a sequencer that stood halted when the run was cancelled. R229 -/
  haltWhy : Flt := .none
  fault : Flt := .none
  faultPc : Option W64 := none
  faultTile : Nat := 0xFF
  faultClass : Nat := 0
deriving DecidableEq, Repr

/-- GOV_TILE_STATE. -/
inductive TileSt
  | free | held | retiring | off
deriving DecidableEq, Repr

/-- A logical tile: state, holding run, whether it is retired as failed, and a retirement that waits for the run to end. R215, R635. -/
structure LTile where
  st : TileSt := .free
  run : Option Nat := none
  failed : Bool := false
  retire : Bool := false
deriving DecidableEq, Repr

/-- How a run ended, as its completion record says, with the class of its fault, for the firmware's retry. R229, R231. -/
structure RunOutcome where
  ctx : Nat
  seqno : Nat
  status : Nat
  fault : Flt
  cls : Nat
deriving DecidableEq, Repr

/-- The Governor of a die. -/
structure Gov where
  runqRing : Nat := 0
  wdog : Nat := 12207
  age : Nat := 244
  faultCnt : Nat := 0
  runs : List Run := []
  /-- runs that have ended and that the firmware has not yet taken account of -/
  outcomes : List RunOutcome := []
deriving DecidableEq, Repr

/-! ## Millrace (08) -/

/-- MRC_SLOT_STATE.STATE. -/
inductive SlotSt
  | free | running | passDone | halted
deriving DecidableEq, Repr

/-- A saved position. MRC_SLOT_POS. -/
structure Pos where
  desc : Nat := 0
  elem : Nat := 0
  part : Nat := 0
deriving DecidableEq, Repr

/-- An element that has begun: its index entry's byte offset, its first block, and the ring slots that it holds, one source and
one for each destination ring. `whole` once its last part has issued. R347, R352, R376. -/
structure ElemRec where
  desc : Nat
  elem : Nat
  idx : Nat
  block : Nat
  src : Option Nat := none
  dst : List Nat := []
  whole : Bool := false
deriving DecidableEq, Repr

/-- A transfer in flight: it holds a tag. It covers parts of `n` elements from `pos` on. R340, R342. -/
structure Xfer where
  xid : Nat
  pos : Pos
  n : Nat := 1
  /-- address of the first source byte; none writes zeros -/
  src : Option W64
  /-- the source is a page address rather than a stream address. R148 -/
  page : Bool := false
  dst : List W64
  /-- for a flume, the first byte within its page; for a coded stream, the bytes to write once the lane has served it -/
  off : Nat := 0
  bytes : Nat
  fabric : Bool := false
  /-- block of the pass, for a coded stream -/
  block : Nat := 0
  lane : Option Nat := none
  /-- the words to write: as read, or as decoded or coded -/
  buf : Option (List (BitVec 256 × W32)) := none
  coded : Bool := false
  /-- fabric requests not yet answered -/
  remote : Nat := 0
  written : Bool := false
deriving DecidableEq, Repr

/-- A stream slot. `engine` is set for a flume stream. R345 to R376. -/
structure Slot where
  st : SlotSt := .free
  ctx : Nat := 0
  reason : Flt := .none
  actionFault : Bool := false
  run : Option Nat := none
  tile : Option Nat := none
  service : Option Nat := none
  engine : Option Nat := none
  desc : Option StrmDesc := none
  seqno : W32 := 0xFFFFFFFF
  /-- saved position, its index entry and its block. R373 -/
  pos : Pos := {}
  faddr : W64 := 0
  idxPos : Nat := 0
  posBlock : Nat := 0
  /-- the next part to issue, index bytes read before its element, blocks before its element -/
  next : Pos := {}
  nextIdx : Nat := 0
  nextBlock : Nat := 0
  issuedAll : Bool := false
  elems : List ElemRec := []
  xfers : List Xfer := []
  fetched : List Fetched := []
  /-- the earliest failure so far: part, reason, address. R373 -/
  failing : Option (Pos × Flt × W64) := none
  haltReq : Bool := false
  notice : Bool := false
  noticeOrder : Nat := 0
  /-- a `strm.resume` that came while the halt notice waits. R375, R376 -/
  resume : Bool := false
  refs : List GRef := []
  /-- Grist causes already reported in this pass, and 3 for POISON_CONSUMED under R717. R413 -/
  reported : List Nat := []
  /-- present ring wait: ring, the sum of its counters, and the tick at which the wait began. R363 -/
  ringWait : Option (Nat × W32 × Nat) := none
deriving DecidableEq, Repr

/-- The token bucket of a context on a die: bytes and the carried 1/256 fractions. R380. -/
structure Weir where
  rate : Nat := 0
  depth : Nat := 1048576
  tokens : Int := 1048576
  frac : Nat := 0
  /-- RATE and DEPTH as written last, which take effect in the next tick. R383 -/
  rateNext : Option Nat := none
  depthNext : Option Nat := none
deriving DecidableEq, Repr

/-- The Millrace of a die. -/
structure Mrc where
  haltRing : Nat := 0
  fwSlots : Nat := 32
  wdog : Nat := 6103
  period : W32 := 65536
  ticks : Nat := 0
  weirSel : Nat := 0
  weir : Tab Weir := []
  stall : Tab Nat := []
  slots : Tab Slot := []
  /-- for each slot: passes issued, and passes ended. R202, R280 -/
  passIss : Tab Nat := []
  passEnd : Tab Nat := []
  /-- for each engine: the slot whose turn comes first. R343 -/
  served : Tab Nat := []
  nextXid : Nat := 0
  nextNotice : Nat := 0
  /-- notices that wait although their slot has been freed: order and bytes. R375 -/
  orphans : List (Nat × List Byte) := []
deriving DecidableEq, Repr

/-- A codec lane: its unit and the run that holds it. R634. -/
structure Lane where
  unit : UnitEn := {}
  run : Option Nat := none
  busy : Bool := false
deriving DecidableEq, Repr

/-- The Grist block of a die: lanes and counters. 09. -/
structure Grs where
  lanes : Tab Lane := []
  decBlocks : Nat := 0
  decRaw : Nat := 0
  encBlocks : Nat := 0
  encRaw : Tab Nat := []
  bad : Tab Nat := []
  bytesRead : Nat := 0
  bytesOut : Nat := 0
deriving DecidableEq, Repr

/-- One generation of a Grist slot. R391, R395, R211. -/
structure GGen where
  valid : Bool := false
  gen : Nat := 0
  kind : Nat := 0
  lens : Tab Nat := []
  refs : Nat := 0
deriving DecidableEq, Repr

/-- An install that has issued and not completed, with the encodes that wait for its generation. R211 to R213, R300. -/
structure Install where
  gen : Nat
  refs : Nat := 0
  bytes : List Byte
  flagCore : Nat
  flagAddr : Nat
deriving DecidableEq, Repr

/-- A Grist table slot. GRS_SLOT. -/
structure GSlot where
  ctx : Option Nat := none
  e0 : GGen := {}
  e1 : GGen := {}
  /-- entry that an install would replace: false 0, true 1 -/
  older : Bool := false
  installs : List Install := []
deriving DecidableEq, Repr

/-! ## Rings and functions (08, 14) -/

/-- Ring kinds. R569. -/
inductive RingKind
  | free | bucket | submit | complete | event | internal
deriving DecidableEq, Repr

/-- Ring states. R569. -/
inductive RingSt
  | off | on | disabling | error
deriving DecidableEq, Repr

/-- An agent attached to a bucket ring. R208, R269. -/
inductive Agent
  | seq (c : Core)
  | look (tile : Nat)
  | slot (k : Nat)
deriving DecidableEq, Repr

/-- A completion record that waits for room, with the submission ring or the sequence that it holds. R528 -/
structure Waiting where
  bytes : List Byte
  sub : Option Nat := none
  seq : Option Nat := none
deriving DecidableEq, Repr

/-- What a record of a submission ring will complete: its REQ_ID and its ring. R494, R526 -/
structure Done where
  reqId : W64
  sub : Nat
deriving DecidableEq, Repr

/-- A ring of the ring table. `c0` to `c3` are HEAD, TAIL, 0, 0, or CLAIM, POST, TAKE, GIVE, and `i0` to
`i3` the slot indexes of R360. R569. -/
structure Ring where
  shadow : W64 := 0
  base : W64 := 0
  c0 : W32 := 0
  c1 : W32 := 0
  c2 : W32 := 0
  c3 : W32 := 0
  i0 : Nat := 0
  i1 : Nat := 0
  i2 : Nat := 0
  i3 : Nat := 0
  vector : Nat := 0
  modTicks : Nat := 0
  modRecs : Nat := 0
  rank : Nat := 0
  ctx : Nat := 0
  entryUnits : Nat := 0
  entries : Nat := 0
  func : Nat := 0
  kind : RingKind := .free
  armed : Bool := false
  msixEn : Bool := false
  waitFull : Bool := false
  en : Bool := false
  enPend : Bool := false
  st : RingSt := .off
  prod : Option Agent := none
  cons : Option Agent := none
  lost : Nat := 0
  cseq : W32 := 0
  /-- core that serves a submission ring. R490 -/
  server : Option Nat := none
  /-- the record at the head waits for a table entry. R506 -/
  held : Bool := false
  /-- completion records waiting for room, oldest first. R528 -/
  waiting : List Waiting := []
deriving DecidableEq, Repr

/-- The function registers. 14. -/
structure Fn where
  descErr : Bool := false
  evtValid : Bool := false
  evtMirror : Bool := false
  evtRing : Nat := 0
  evtLost : Nat := 0
  ringsCount : Nat := 0
  ringsBase : Nat := 0
  vecCount : Nat := 0
  vecBase : Nat := 0
deriving DecidableEq, Repr

/-- The host interface. -/
structure Hif where
  speed : Nat := 0
  width : Nat := 0
  flit : Bool := false
  fwRings : Nat := 4096
  fns : Tab Fn := []
  rings : Tab Ring := []
  bar4En : Bool := false
  bar4Base : Nat := 0
  esq : W32 := 0
  /-- MSI-X messages sent: function and pool slot -/
  msix : List (Nat × Nat) := []
  /-- data returned to the last host read, none for an unsupported request -/
  rdata : Option W64 := none
  /-- PERST_N has been released: configuration requests are answered. R679 -/
  config : Bool := false
deriving DecidableEq, Repr

/-! ## Memory stacks (10) -/

/-- An entry of MEM_UE_LOG. -/
structure UeEntry where
  src : Nat
  addr : Nat
deriving DecidableEq, Repr

/-- A memory stack. -/
structure Stack where
  degraded : Bool := false
  /-- channels whose copy is under way, and how many stack blocks of the first have been copied. R443 -/
  sparing : List Nat := []
  copied : Nat := 0
  spared : BitVec 16 := 0
  spareMember : Tab Nat := []
  scrubInt : Nat := 6866
  scrubPasses : Nat := 0
  scrubBlk : Nat := 0
  ce : Nat := 0
  ue : Nat := 0
  ueLog : List UeEntry := []
  pcCe : Tab Nat := []
  /-- correctable-error counts of the 256 most recently affected frames, most recent first. R438 -/
  frameCe : List (Nat × Nat) := []
deriving DecidableEq, Repr

/-- A cached page-map entry: context, level, the part of the address that selects it, and its bits. R428. -/
structure XlatEntry where
  ctx : Nat
  level : Nat
  idx : Nat
  entry : Nat
deriving DecidableEq, Repr

/-- The memory block. -/
structure MemBlk where
  stks : Tab Stack := []
  pcCeLimit : Nat := 16
  ceLimit : Nat := 4
  /-- retired frames, by frame number (device address / 65,536). R439 -/
  retired : List Nat := []
  /-- frames on the retired list at the last reset. R441 -/
  withheld : List Nat := []
  invDone : Bool := false
  invAll : Bool := false
  invCtx : Nat := 0
  invVpage : Nat := 0
  invCount : Nat := 0
  invVa48 : Bool := false
  /-- VA48 as the invalidation under way took it -/
  invHi : Bool := false
  invBusy : Bool := false
  /-- contexts of invalidations that a later write has overtaken before they were done -/
  invOld : List Nat := []
  xlat : List XlatEntry := []
  roots : Tab Nat := []
deriving DecidableEq, Repr

/-! ## Headrace (11) -/

/-- An enumeration message that the device has sent. R484 to R488, R687 to R690. -/
inductive CtrlMsg
  /-- a rack keeper announces itself, or a new one asks for reports -/
  | announce
  /-- a new hall keeper asks the rack keepers for their reports -/
  | announceHall
  | slotReport (slot : Nat) (pid : BitVec 48) (leaf : BitVec 16)
  | rackReport (leaf : BitVec 16) (slots : W32)
  /-- the map, to every rack keeper -/
  | mapToKeepers (gen : W32) (map : Tab W32)
  /-- the map relayed to the member in a slot: its number, or none with the cause -/
  | mapToMember (gen : W32) (map : Tab W32) (slot : Nat) (dev : Option Nat) (cause : Nat)
  | join (slot : Nat) (pid : BitVec 48) (leaf : BitVec 16)
  | mapChange (gen : W32) (dev : Nat) (present : Bool)
  /-- a rack keeper asks the hall keeper to clear a map bit -/
  | clearAsk (dev : Nat)
  | heartbeat
  | heartbeatAnswer (slot : Nat)
deriving DecidableEq, Repr

/-- A flit that is kept until it is acknowledged: SEQ, FTYPE, the kinds of its slots and the slots, with the packet whose last flit it is,
or the enumeration message that it carries. R450 to R454. -/
structure SentFlit where
  seq : Nat := 0
  ftype : Nat
  kinds : List Nat := []
  slots : List (BitVec 256) := []
  packet : Option Packet := none
  ctrl : Option CtrlMsg := none
deriving DecidableEq, Repr

/-- HDR_PORT_STATUS.LINK. -/
inductive Link
  | down | training | up | miswired
deriving DecidableEq, Repr

/-- A Headrace port. -/
structure Port where
  unit : UnitEn := {}
  plane : Nat := 0
  lanesOk : BitVec 8 := 0
  link : Link := .down
  /-- the PORT_ID exchange of this training is done. R456 -/
  idDone : Bool := false
  switchId : BitVec 16 := 0
  switchPort : BitVec 8 := 0
  replayed : Nat := 0
  fecBytes : Nat := 0
  downs : Nat := 0
  /-- SEQ of the next flit to send and the next one expected. R451, R453 -/
  txSeq : Nat := 0
  rxSeq : Nat := 0
  /-- flits not yet acknowledged, oldest first. R454 -/
  unacked : List SentFlit := []
  naks : Nat := 0
  nakSeq : Nat := 0
  sendNak : Bool := false
  /-- slot credits held per class, 0 to 3 requests, 4 responses. R457 -/
  credit : Tab Nat := []
  lastUse : Nat := 0
deriving DecidableEq, Repr

/-- Who waits for the response of a request. -/
inductive Requester
  | load (c : Core) (pc : W64) (sd : Nat) (sz : Nat) (sx : Bool)
  | atom (c : Core) (iseq : Nat)
  | swap (c : Core) (iseq : Nat)
  /-- the words of a stream descriptor -/
  | desc (c : Core) (addr : W64)
  /-- a word that a stream fetches: descriptor, index entry or block header -/
  | strmWord (k : Nat) (word : Nat)
  | close (tile iseq : Nat)
  /-- a KV slot list entry: the address of its next byte, the bytes read before it, the head row's elements and its scale -/
  | kvEntry (tile iseq : Nat) (addr : Nat) (got : List Byte) (q : List Int) (scale : Nat)
  /-- a word of a KV page, with the bits that the write replaces and their values; `again` once another write of the device has stored
  to the word meanwhile -/
  | kvWord (tile iseq : Nat) (mask val : BitVec 256) (again : Bool)
  | xferRead (k xid off : Nat)
  | xferWrite (k xid : Nat)
  | engine (e : Nat)
  /-- a word of a part record -/
  | engineWord (e word : Nat)
  | service (c : Nat)
  /-- a word of a spilled copy that a sequence is restored from: its sequence, and the word's place among the copies -/
  | spillRead (seq place : Nat)
  /-- words of a copy that a sequence is spilled to -/
  | spillWrite (seq : Nat)
  | fantail
  /-- what waited for the answer has been torn down: the answer is dropped. R228 -/
  | nobody
deriving DecidableEq, Repr

/-- A request not yet answered, with its requester, the ticks of the two port dies when it was made, the port that it has left on, and
the context that a Miller core's request names. R258, R466, R473. -/
structure OutReq where
  tag : Nat
  pkt : Packet
  who : Requester
  since : Nat
  since1 : Nat := 0
  port : Option Nat := none
  ctx : Option Nat := none
deriving DecidableEq, Repr

/-- FABRIC_STATE. -/
inductive FabSt
  | down | training | enumerating | ready | fenced
deriving DecidableEq, Repr

/-- An ordering counter: device and class, and the next OSEQ. R469. -/
structure Order where
  dev : Nat
  oclass : Nat
  next : Nat
deriving DecidableEq, Repr

/-- A member's report as a rack keeper holds it. R484. -/
structure Report where
  slot : Nat
  pid : BitVec 48
  leaf : BitVec 16
  /-- why the roster leaves the device out: 0 it does not, 2 leaf mismatch, 3 slot conflict -/
  out : Nat := 0
deriving DecidableEq, Repr

/-- Keeper state of this device. R484 to R490, R687 to R690. -/
structure Keeper where
  rackActing : Bool := false
  hallActing : Bool := false
  standby : Bool := false
  hallStandby : Bool := false
  announced : Bool := false
  slotMask : W32 := 0
  roster : List Report := []
  rosterClosed : Bool := false
  /-- rack number, and the SWITCH_IDs of its leaf switches on planes 0 and 1 -/
  topology : List (Nat × BitVec 16 × BitVec 16) := []
  racks : List (BitVec 16 × W32) := []
  hallClosed : Bool := false
  heartbeats : Nat := 0
deriving DecidableEq, Repr

/-- The Headrace block. -/
structure Hdr where
  fenceCause : Nat := 0
  fabSt : FabSt := .down
  devValid : Bool := false
  devnum : Nat := 0
  slot : BitVec 5 := 0
  rkeep : BitVec 2 := 0
  hkeep : BitVec 2 := 0
  mapGen : W32 := 0
  map : Tab W32 := []
  rightsBase : Nat := 0
  groupBase : Nat := 0
  groupLimit : Nat := 0
  invDone : Bool := false
  invKind : Bool := false
  invIndex : Nat := 0
  invBusy : Bool := false
  /-- cached rights tables (context) and group entries, each by its bytes. R479 -/
  rightsCache : List (Nat × List Byte) := []
  groupCache : List (Nat × List Byte) := []
  timeout : Nat := 24414
  cnt : Tab Nat := []
  periods : Tab W32 := []
  ticks0 : Nat := 0
  ticks1 : Nat := 0
  ports : Tab Port := []
  useCount : Nat := 0
  nextTag : Nat := 0
  /-- packets that wait to be sent, oldest first -/
  sendQ : List Packet := []
  outst : List OutReq := []
  txOrder : List Order := []
  rxOrder : List Order := []
  reorder : List Packet := []
  joinPending : Bool := false
  joinRefused : Bool := false
  keeper : Keeper := {}
  /-- enumeration messages sent, oldest first, and those that wait for room among a port's unacknowledged flits -/
  ctrl : List CtrlMsg := []
  ctrlQ : List CtrlMsg := []
deriving DecidableEq, Repr

/-! ## Contexts, sequences, weight packages (12, 13) -/

/-- The BIND body. R496. -/
structure BindRec where
  spill2 : Nat := 0
  spill : Nat := 0
  spillVa : W64 := 0
  endTok : List W32 := []
  vocab : Nat := 0
  detokOff : Nat := 0
  spillTab : Option Nat := none
  grsSlots : Nat := 0
  weirDepth : Nat := 0
  weirRate : Nat := 0
  group : Option Nat := none
  sltCount : Nat := 0
  w : Nat := 0
  kvf : Nat := 0
  nKvh : Nat := 0
  nLayers : Nat := 0
  prefillMin : Nat := 0
  stepRows : Nat := 0
  maxSeq : Nat := 0
  maxTokens : Nat := 0
  kvPages : Nat := 0
  hostBytes : Nat := 0
  hostBase : Nat := 0
deriving DecidableEq, Repr

/-- The state of a version slot. R531. -/
inductive VerSt
  | empty | staging | verified | active | retained
deriving DecidableEq, Repr

/-- A shard of a load: attempts made and whether its digest has matched. R551. -/
structure Shard where
  attempts : Nat := 0
  ready : Bool := false
  verified : Bool := false
deriving DecidableEq, Repr

/-- A LOAD body. R541. -/
structure LoadRec where
  peerBase : W64
  peerBytes : Nat
  tileListOff : Nat
  nTiles : Nat
  maxInflight : Nat
  dropPinned : Bool
  hold : Bool
  srcListOff : Nat
  manOff : Nat
  manBytes : Nat
deriving DecidableEq, Repr

/-- A version slot with its manifest, its load in progress and what it holds. -/
structure Version where
  st : VerSt := .empty
  version : W32 := 0
  manifest : List Byte := []
  load : Option LoadRec := none
  /-- the manifest is verified and checked, and what the shards need is held -/
  placed : Bool := false
  shards : Tab Shard := []
  /-- device address of each PLACE 0 shard, and global address of each PLACE 1 shard -/
  places : Tab Nat := []
  /-- the LOAD, ACTIVATE and DISCARD under way -/
  loading : Option Done := none
  activate : Option Done := none
  discard : Option Done := none
  /-- ranges of HBM frames held, and Millpond blocks: tile, first block, blocks -/
  frames : List (Nat × Nat) := []
  millpond : List (Nat × Nat × Nat) := []
  /-- the slot is to be discarded -/
  dropping : Bool := false
deriving DecidableEq, Repr

/-- A row entry of a step: sequence, first row, rows, and the index of its sampled row. R514. -/
structure StepEnt where
  seq : Nat
  row0 : Nat
  rows : Nat
  sample : Option Nat
deriving DecidableEq, Repr

/-- A step in flight. R492. -/
structure StepRun where
  step : Nat
  ver : Bool
  retried : Bool := false
  /-- the first fault of a run of this step, with its class and SEQNO -/
  faulted : Option (Flt × Nat × Nat) := none
  /-- runs of the step, those not yet submitted, and those that have not ended -/
  runs : List PlanRun
  unsent : List PlanRun
  live : List PlanRun
  entries : List StepEnt
  nRows : Nat
  logitFmt : Nat
  sluices : List (Nat × Nat)
  combine : List (Nat × Nat)
deriving DecidableEq, Repr

/-- A bound context. R491 to R503, R531. -/
structure Ctx where
  bound : Bool := false
  fn : Nat := 0
  ring : Nat := 0
  bind : BindRec := {}
  core : Nat := 0
  homes : List (Nat × Nat) := []
  poolTile : Nat := 0
  poolOff : Nat := 0
  /-- device addresses of the free ring, the page table area, the step area and the detokenisation table -/
  ringAddr : Nat := 0
  ptArea : Nat := 0
  stepArea : Nat := 0
  detok : Nat := 0
  /-- context-virtual addresses of the page table area, the step area and the pool -/
  ptVa : Nat := 0
  stepVa : Nat := 0
  poolVa : Nat := 0
  /-- HBM frames held: first and count -/
  frames : List (Nat × Nat) := []
  grist : List Nat := []
  spillSlot : Option Nat := none
  ver0 : Version := {}
  ver1 : Version := {}
  activeVer : Bool := false
  /-- version slot of the last step planned. R513 -/
  lastVer : Bool := false
  step : Nat := 0
  inFlight : Option StepRun := none
  gcap : Nat := 0
  /-- 4 KiB blocks of the two spill regions in use: first and count. R183 -/
  spill1 : List (Nat × Nat) := []
  spill2 : List (Nat × Nat) := []
  /-- an UNBIND under way, with what it completes; none for one of a function reset -/
  unbinding : Option (Option Done) := none
  handTo : Option Nat := none
  /-- CANCELs to apply at the next step boundary -/
  cancels : List (Nat × Done) := []
deriving DecidableEq, Repr

/-- The ADMIT body. R500. -/
structure AdmitRec where
  stops : List (List W32) := []
  seed : W64 := 0
  repWin : Nat := 0
  topK : Nat := 0
  repPen : W32 := 0
  topP : W32 := 0
  temp : W32 := 0
  flush : Nat := 1
  includeStop : Bool := false
  pin : Bool := false
  cplRing : Nat := 0
  outBytes : Nat := 0
  outOff : Nat := 0
  promptOff : Nat := 0
  maxNew : Nat := 0
  promptLen : Nat := 0
deriving DecidableEq, Repr

/-- The copies of a spilled sequence: whether they lie in the tier-2 region, and the first 4 KiB block of each page's copy. R183. -/
structure Spill where
  tier2 : Bool
  blocks : List Nat
deriving DecidableEq, Repr

/-- A sequence held by the device. R504 to R527. -/
structure SeqEnt where
  held : Bool := false
  ctx : Nat := 0
  slot : Nat := 0
  reqId : W64 := 0
  order : Nat := 0
  adm : AdmitRec := {}
  /-- tokens of the sequence known so far, prompt first, and how many of them have their KV -/
  tokens : List W32 := []
  done : Nat := 0
  decoding : Bool := false
  generated : Nat := 0
  /-- tokens withheld, tokens delivered and not yet reported, and the bytes of those. R520, R525 -/
  withheld : List W32 := []
  waiting : List W32 := []
  waitBytes : Nat := 0
  genPos : Nat := 0
  outPos : Nat := 0
  /-- paused; its pages are being spilled; where its copies lie; words of them read back, the places of those
  that hold no good data, and whether they are being read. R182 to R184 -/
  paused : Bool := false
  pausing : Bool := false
  spilled : Option Spill := none
  staging : Tab (BitVec 256) := []
  badWords : List Nat := []
  reading : Bool := false
  /-- first word and number of the copies' words that have been read; a request for a copy has been refused -/
  got : List (Nat × Nat) := []
  refused : Bool := false
  pinned : Option Bool := none
  lastStep : Nat := 0
  /-- logical pages held -/
  pages : Nat := 0
  ended : Bool := false
deriving DecidableEq, Repr

/-- The fields of GOV_MCORE and the sequencer of a Miller core. -/
inductive CoreRun
  | stopped | loading | running | halted | handingOver
deriving DecidableEq, Repr

/-- A Miller core. -/
structure Miller where
  unit : UnitEn := {}
  run : CoreRun := .stopped
  stateFmt : Nat := 0
  seqr : Seqr := {}
  atomQ : List AtomOp := []
  iseq : Nat := 0
  /-- res.free ranges under way: context, logical tile, first block, count. R307 -/
  freeing : Option (Nat × Nat × Nat × Nat) := none
  /-- firmware slot of the image that it runs: 2 SVC_A, 3 SVC_B -/
  image : Option Nat := none
deriving DecidableEq, Repr

/-! ## Fantail (15) -/

/-- Voltage and rate fuses and state of a physical tile. R587, R593, R595. -/
structure FanTile where
  vtab : Tab (Nat × Bool × Bool) := []   -- entry: MV, fused invalid, WITHDRAWN
  fbRate : Nat := 1300
  fbMv : Nat := 650
  period : W32 := 65536
  tj : Int := 0
  limit : Nat := 0
  capFallback : Bool := false
  capG : Bool := false
  capAll : Bool := false
  /-- regulator millivolts: now, at the end of the present step, and the newest target. R599, R600 -/
  setpoint : Nat := 0
  going : Nat := 0
  target : Nat := 0
  /-- GCAP of the run that holds the tile, and the PERIOD from which LIMIT was last computed -/
  gcap : Nat := 0
  limPeriod : W32 := 65536
deriving DecidableEq, Repr

/-- A SLOWDOWN notice: floor and age. R615. -/
structure Notice where
  dev : Nat
  floor : Nat
deriving DecidableEq, Repr

/-- A sluice round under way: its arrivals' first and last stamps and devices, and whether they came from more than one. R612 -/
structure GroupRound where
  ctx : Nat
  sluice : Nat
  first : Nat
  firstDev : Nat
  last : Nat
  lastDev : Nat
  several : Bool := false
deriving DecidableEq, Repr

/-- Fantail. -/
structure Fan where
  gradeH : Bool := false
  levelOp : Nat := 11
  level : Nat := 0
  levelCap : Nat := 0
  levelBrake : Nat := 0
  /-- limit of local bring-up and of the rise after READY. R675 -/
  levelBoot : Nat := 6
  droop : Nat := 60
  avsErr : Bool := false
  avsFails : Tab Nat := []
  slowed : Bool := false
  brake : Bool := false
  brakeReleasing : Bool := false
  capAll : Nat := 0
  cap : Nat := 2400
  capMin : Nat := 600
  capMax : Nat := 2400
  /-- samples of the last 1 ms, in 0.1 W, newest first. R603 -/
  samples : List Nat := []
  /-- 100 µs periods since the last lowering, and for which the raise test has held. R604 -/
  sinceLower : Nat := 100
  raiseHeld : Nat := 0
  coolHeld : Nat := 0
  group : Nat := 0
  groupCtx : Nat := 0
  mode : Nat := 0
  refLevel : Nat := 0
  commonRate : Nat := 0
  tokenStep : Nat := 20
  tokenMax : Nat := 200
  skewMin : Nat := 100
  gcap : Nat := 0
  rateFloor : Nat := 0
  balance : Int := 0
  mboxBase : Nat := 0
  skewRounds : Nat := 0
  skewMax : Nat := 0
  /-- VIN rails: present millivolts, and those of the write under way; an unlisted rail stands at its boot output of 800. R598 to R600, R698 -/
  vin : Tab Nat := []
  vinTarget : Tab Nat := []
  /-- ticks of the management clock, sluice rounds under way, and when SKEW was last sent for a sluice. R612 -/
  mclk : Nat := 0
  rounds : List GroupRound := []
  skewSent : List (Nat × Nat × Nat) := []
  notices : List Notice := []
  lastMseq : List (Nat × W32) := []
  mseq : W32 := 0
  balances : List (Nat × Int) := []
  lastSkew : Option (Nat × Nat) := none
  memberFloor : List (Nat × Nat) := []
  /-- the fan tiles -/
  tiles : Tab FanTile := []
deriving DecidableEq, Repr

/-! ## Management controller (17, 18, 19) -/

/-- An audit entry. R669. -/
structure AuditEnt where
  seq : Nat
  role : Nat
  overI3c : Bool
  action : Nat
  result : Nat
  target : Nat
  keyFpr : BitVec 128
  detail : Nat
  prev : BitVec 384
deriving DecidableEq, Repr

/-- Firmware slot states. R657. -/
inductive FwSt
  | empty | staged | trial | active | fallback
deriving DecidableEq, Repr

/-- A firmware slot with the fields of its image header. R656. -/
structure FwSlot where
  st : FwSt := .empty
  image : Tab Byte := []
  version : W32 := 0
  svn : Nat := 0
  stateFmt : Nat := 0
  failedBoots : Nat := 0
deriving DecidableEq, Repr

/-- A publisher key: algorithm and fingerprint. R665. -/
structure PubKey where
  alg : Nat
  bytes : List Byte
  fpr : BitVec 384
deriving DecidableEq, Repr

/-- A response frame. R646. -/
structure Resp where
  opc : Nat
  status : Nat
  auditSeq : Option Nat
  data : List Byte
deriving DecidableEq, Repr

/-- The management controller, its fuses, its flash and the pins it drives. -/
structure Mgt where
  serial : BitVec 128 := 0
  mfr : BitVec 15 := 0
  instance32 : W32 := 0
  makerKeys : List (BitVec 384) := []
  makerRevoked : Nat := 0
  svnFloor : Nat := 0
  installerKey : Option (List Byte) := none
  operatorKeys : List (List Byte) := []
  pubKeys : List PubKey := []
  rtv : Bool := false
  consent : Option (BitVec 384) := none
  recovery : Bool := false
  loadSpan : Nat := 120
  mgtA : FwSlot := { st := .active }
  mgtB : FwSlot := {}
  svcA : FwSlot := { st := .active }
  svcB : FwSlot := {}
  replacing : Bool := false
  svcHalts : Nat := 0
  noncesMbox : List W64 := []
  noncesI3c : List W64 := []
  nonceCount : Nat := 0
  audit : List AuditEnt := []
  auditNext : Nat := 0
  auditAcked : Nat := 0
  mboxBusy : Bool := false
  mboxDone : Bool := false
  req : Tab W32 := []
  mboxRsp : Option Resp := none
  i3cRsp : Option Resp := none
  restarting : Bool := false
  /-- a restart into another image is due. R664, R685 -/
  restartDue : Bool := false
  /-- pending audited commands that end later: action, target, role, key -/
  openAudit : List (Nat × Nat × Nat × BitVec 128) := []
deriving DecidableEq, Repr

/-- The I3C target. R637 to R643. -/
structure I3c where
  addr : Option (BitVec 7) := none
  ibi : Bool := false
  mwl : Nat := 4096
  mrl : Nat := 4096
  rstact : Byte := 0
  hotJoined : Bool := false
  /-- in-band interrupts raised, by mandatory byte, newest first -/
  ibis : List Byte := []
  /-- answer to the last common command code or private read; none is a NACK -/
  answer : Option (List Byte) := none
deriving DecidableEq, Repr

/-- Local bring-up. R674. -/
structure Boot where
  pwrGood : Bool := false
  step : Nat := 0
  cause : Nat := 0
  ms : Nat := 0
  stopped : Bool := false
  /-- bring-up went on after a failure: its bounds have passed. R664, R677 -/
  resumed : Bool := false
  drainUpd : Bool := false
  tilesFailed : Nat := 0
  sparesEngaged : Nat := 0
  framesRetired : Nat := 0
  pcsSpared : Nat := 0
deriving DecidableEq, Repr

/-- The sideband lands that the device drives. R704. -/
structure Pins where
  ready : Bool := false
  faultN : Bool := true
  alertN : Bool := true
  thermtripN : Bool := true
  ledAct : Bool := false
  ledFlt : Bool := false
  ledLoc : Bool := false
deriving DecidableEq, Repr

/-- A crossing: whether the clock of its clocked side has stopped. R627. -/
structure Crossing where
  stopped : Bool := false
  resets : Nat := 0
deriving DecidableEq, Repr

/-! ## The device -/

/-- The whole device, with the queue of waiting commands. -/
structure State where
  /-- bytes of HBM, Millpond (by physical tile), host memory and service memory that are not zero -/
  mem : List Host.Cell
  /-- stored check bits exclusive-or the check bits of the data, by word; zero when not listed. R430 -/
  chk : Tab W32
  /-- owner of a Millpond block of a physical tile, by 1,536 × tile + block: context + 1, 0 for FREE. R191 -/
  owner : Tab Nat
  tiles : Tab Tile
  ltiles : Tab LTile
  /-- one more than the physical tile behind a device logical tile, 201 for none; not listed where it is the fused one. R187, R215 -/
  lmap : Tab Nat
  /-- one more than the fused physical tile of a device logical tile; not listed where it is 50 × die + i. R676 -/
  fuseLmap : Tab Nat
  engines : Tab Engine
  govs : Tab Gov
  nextRid : Nat
  mrcs : Tab Mrc
  grss : Tab Grs
  gslots : Tab GSlot
  memb : MemBlk
  hdr : Hdr
  hif : Hif
  ctxs : Tab Ctx
  seqs : Tab SeqEnt
  seqOrder : Nat
  millers : Tab Miller
  fan : Fan
  mgt : Mgt
  i3c : I3c
  boot : Boot
  pins : Pins
  crossings : Tab Crossing
  /-- the model's own counter of free values read so far; no rule of the spec names it -/
  free : Nat
  /-- commands that are waiting, first in, first out -/
  pending : List Instr
deriving DecidableEq, Repr

/-- The device right after reset, before local bring-up. Function 0 holds the whole MSI-X pool (R566). -/
def State.reset : State where
  mem := []
  chk := []
  owner := []
  tiles := []
  ltiles := []
  lmap := []
  fuseLmap := []
  engines := []
  govs := []
  nextRid := 0
  mrcs := []
  grss := []
  gslots := []
  memb := {}
  hdr := {}
  hif := { fns := [(0, { vecCount := 2048 })] }
  ctxs := []
  seqs := []
  seqOrder := 0
  millers := []
  fan := {}
  mgt := {}
  i3c := {}
  boot := {}
  pins := {}
  crossings := []
  free := 0
  pending := []

end Sys2Proof.Machine
end

