-- ==== Sys2Proof/Machine/Tab.lean ====
section
/-! DEFINITION. Reading and writing sparse tables. A write removes an entry that equals the default, so equal
tables are equal data. -/

namespace Sys2Proof.Machine
open Sys2Proof

variable {α : Type}

/-- The value of key `k`, or the default `d`. -/
def tget (d : α) : Tab α → Nat → α
  | [], _ => d
  | (j, v) :: t, k => if j = k then v else tget d t k

/-- The table without key `k`. -/
def tdel (t : Tab α) (k : Nat) : Tab α := t.filter (fun p => p.1 != k)

/-- The table with `k` placed before the first greater key. -/
def tins : Tab α → Nat → α → Tab α
  | [], k, v => [(k, v)]
  | (j, w) :: t, k, v => if k < j then (k, v) :: (j, w) :: t else (j, w) :: tins t k v

/-- The table with `v` at `k`. -/
def tset [DecidableEq α] (d : α) (t : Tab α) (k : Nat) (v : α) : Tab α :=
  if v = d then tdel t k else tins (tdel t k) k v

/-- The table with the value at `k` changed by `f`. -/
def tmod [DecidableEq α] (d : α) (t : Tab α) (k : Nat) (f : α → α) : Tab α := tset d t k (f (tget d t k))

/-- Values written at consecutive keys. -/
def tsetList [DecidableEq α] (d : α) (t : Tab α) (k : Nat) : List α → Tab α
  | [] => t
  | v :: vs => tsetList d (tset d t k v) (k + 1) vs

/-- The values of `n` consecutive keys. -/
def tgetList (d : α) (t : Tab α) (k : Nat) : Nat → List α
  | 0 => []
  | n + 1 => tget d t k :: tgetList d t (k + 1) n

/-- Keys rise strictly. -/
def tsorted : Tab α → Bool
  | [] => true
  | (k, _) :: t => t.all (fun p => decide (k < p.1)) && tsorted t

/-- The canonical form: keys rise strictly and no entry equals the default. -/
def twf [DecidableEq α] (d : α) (t : Tab α) : Bool := tsorted t && t.all (fun p => decide (p.2 ≠ d))

/-- The least of a list, or a default. -/
def listMin (d : Nat) : List Nat → Nat
  | [] => d
  | x :: xs => min x (listMin d xs)

/-- The greatest of a list of integers, if any. -/
def intMax? : List Int → Option Int
  | [] => none
  | x :: xs => match intMax? xs with
    | none => some x
    | some y => some (max x y)

/-- Element `i` of a list, or a default. -/
def nth (d : α) : List α → Nat → α
  | [], _ => d
  | x :: _, 0 => x
  | _ :: xs, i + 1 => nth d xs i

/-- The list with element `i` changed by `f`. -/
def modAt (f : α → α) : List α → Nat → List α
  | [], _ => []
  | x :: xs, 0 => f x :: xs
  | x :: xs, i + 1 => x :: modAt f xs i

/-- The first number from `k` on, among `n`, that satisfies `p`. -/
def findFrom (p : Nat → Bool) (k : Nat) : Nat → Option Nat
  | 0 => none
  | n + 1 => if p k then some k else findFrom p (k + 1) n

end Sys2Proof.Machine
end

