-- ==== Sys2Proof/Machine/Ecc.lean ====
section
/-! DEFINITION. The 256-bit Reed-Solomon code (10). The state keeps, for each word, its stored check bits
exclusive-or the check bits of its data; syndromes are linear, so they are computed from this difference. -/

namespace Sys2Proof.Machine
open Sys2Proof

/-- A word with its check difference: zero for clean. -/
abbrev Word288 := BitVec 256 × W32

/-- Multiplication by α in GF(2^8). R430. -/
def gfX (a : Byte) : Byte := if a.msb then (a <<< 1) ^^^ 0x1D else a <<< 1

/-- Product in GF(2^8), by the bits of the second factor from `n` − 1 down. -/
def gfMulBits (a b : Byte) : Nat → Byte
  | 0 => 0
  | n + 1 => gfX (gfMulBits a (b >>> 1) n) ^^^ (if b.getLsbD 0 then a else 0)

def gfMul (a b : Byte) : Byte := gfMulBits a b 8

/-- α^n. -/
def gfPow : Nat → Byte
  | 0 => 1
  | n + 1 => gfX (gfPow n)

/-- The product of a^2, a^4 and so on, `n` factors. -/
def gfSquares (a : Byte) : Nat → Byte
  | 0 => 1
  | n + 1 => gfMul (gfMul a a) (gfSquares (gfMul a a) n)

/-- The inverse, a^254 = a^2 · a^4 · … · a^128. -/
def gfInv (a : Byte) : Byte := gfSquares a 7

/-- Byte `i` of a check field. -/
def chkSym (k : W32) (i : Nat) : Byte := k.extractLsb' (8 * i) 8

/-- Byte `i` of a word. R430. -/
def dataSym (d : BitVec 256) (i : Nat) : Byte := d.extractLsb' (8 * i) 8

/-- Syndrome m of a check difference. R430. -/
def synd (k : W32) (m : Nat) : Byte :=
  chkSym k 0 ^^^ gfMul (chkSym k 1) (gfPow m) ^^^ gfMul (chkSym k 2) (gfPow (2 * m)) ^^^ gfMul (chkSym k 3) (gfPow (3 * m))

/-- Symbol j of K_M. R431. -/
def kmSym (j : Nat) : Byte :=
  gfInv (([0, 1, 2, 3].filter (fun i => i != j)).foldl (fun p i => gfMul p (gfPow j ^^^ gfPow i)) 1)

/-- K_M: the check difference of a marked word. R431. -/
def kMark : W32 := kmSym 3 ++ kmSym 2 ++ kmSym 1 ++ kmSym 0

/-- What a checker finds. R432. -/
inductive WordClass
  | clean
  | marked
  | correctable (p : Nat) (sym : Byte)
  | uncorrectable
deriving DecidableEq, Repr

/-- Classification by check difference. R432. -/
def classify (k : W32) : WordClass :=
  if k = 0 then .clean
  else if k = kMark then .marked
  else
    let s0 := synd k 0
    let ok (p : Nat) : Bool :=
      synd k 1 == gfMul s0 (gfPow p) && synd k 2 == gfMul (synd k 1) (gfPow p) && synd k 3 == gfMul (synd k 2) (gfPow p)
    if s0 = 0 then .uncorrectable
    else match findFrom ok 0 36 with
      | some p => .correctable p s0
      | none => .uncorrectable

/-- The word with symbol p corrected: data symbols stand at positions 4 to 35. -/
def correct (d : BitVec 256) (p : Nat) (sym : Byte) : BitVec 256 :=
  if p < 4 then d else d ^^^ ((sym.setWidth 256) <<< (8 * (p - 4)))

/-- One step of the division of x^4 · D(x) by g(x): the remainder after one more data symbol, highest first.
g(x) = (x + 1)(x + α)(x + α²)(x + α³). R430. -/
def rsStep (k : W32) (d : Byte) : W32 :=
  let f := chkSym k 3 ^^^ d
  let g3 : Byte := 1 ^^^ gfPow 1 ^^^ gfPow 2 ^^^ gfPow 3
  let g2 : Byte := gfPow 1 ^^^ gfPow 2 ^^^ gfPow 3 ^^^ gfPow 3 ^^^ gfPow 4 ^^^ gfPow 5
  let g1 : Byte := gfPow 3 ^^^ gfPow 4 ^^^ gfPow 5 ^^^ gfPow 6
  let g0 : Byte := gfPow 6
  (chkSym k 2 ^^^ gfMul f g3) ++ (chkSym k 1 ^^^ gfMul f g2) ++ (chkSym k 0 ^^^ gfMul f g1) ++ gfMul f g0

/-- The check symbols of a word's data. R430. -/
def rsCheck (d : BitVec 256) : W32 :=
  (List.range 32).foldl (fun k i => rsStep k (dataSym d (31 - i))) 0

/-- The word stored with explicit check bits, as data and difference. -/
def ofStored (d : BitVec 256) (k : W32) : Word288 := (d, k ^^^ rsCheck d)

end Sys2Proof.Machine
end

