-- ==== Sys2Proof/Machine/Ops.lean ====
section
/-! DEFINITION. The named operations over the state that every family shares: accessors of the units, bytes and words of
memory, the ring table's records, notification and event records (14). -/

namespace Sys2Proof.Machine
open Sys2Proof

/-! ## Numbers and bytes -/

/-- Little-endian bytes to a number. R2. -/
def bytesToNat : List Byte → Nat
  | [] => 0
  | b :: bs => b.toNat + 256 * bytesToNat bs

/-- The `n` low bytes of a number, little-endian. R2. -/
def natToBytes (v : Nat) : Nat → List Byte
  | 0 => []
  | n + 1 => BitVec.ofNat 8 v :: natToBytes (v / 256) n

/-- Bits [lo + n − 1 : lo] of a number. R1. -/
def bitsOf (v lo n : Nat) : Nat := v / 2 ^ lo % 2 ^ n

/-- Field of `n` bytes at byte `o` of a record. -/
def fieldAt (bs : List Byte) (o n : Nat) : Nat := bytesToNat ((bs.drop o).take n)

/-- 64-bit field at byte `o` of a record. -/
def field64 (bs : List Byte) (o : Nat) : W64 := BitVec.ofNat 64 (fieldAt bs o 8)

/-- 32-bit field at byte `o` of a record. -/
def field32 (bs : List Byte) (o : Nat) : W32 := BitVec.ofNat 32 (fieldAt bs o 4)

/-- 0xFFFF_FFFF means "none" in a Millpond field. -/
def noneAddr : Nat := 0xFFFFFFFF

/-- A Millpond field, with "none". -/
def optAddr (v : Nat) : Option Nat := if v = noneAddr then none else some v

def ceilDiv (a b : Nat) : Nat := (a + b - 1) / b

/-- Addition to a counter that saturates. -/
def satAdd (bits a b : Nat) : Nat := min (a + b) (2 ^ bits - 1)

/-- The list without the first element that satisfies `p`. -/
def dropFirst (p : α → Bool) : List α → List α
  | [] => []
  | x :: xs => if p x then xs else x :: dropFirst p xs

/-- The list with `f` applied to the elements that satisfy `p`. -/
def mapWhere (p : α → Bool) (f : α → α) (xs : List α) : List α := xs.map (fun x => if p x then f x else x)

/-! ## Units -/

def State.tile (s : State) (p : Nat) : Tile := tget {} s.tiles p
def State.setTile (s : State) (p : Nat) (t : Tile) : State := { s with tiles := tset {} s.tiles p t }
def State.modTile (s : State) (p : Nat) (f : Tile → Tile) : State := s.setTile p (f (s.tile p))

def State.ltile (s : State) (l : Nat) : LTile := tget {} s.ltiles l
def State.modLTile (s : State) (l : Nat) (f : LTile → LTile) : State :=
  { s with ltiles := tset {} s.ltiles l (f (s.ltile l)) }

/-- Physical tile of a fuse or map entry: one more than the tile, or zero where nothing is recorded. -/
def fusedPhys (s : State) (l : Nat) : Nat :=
  match tget 0 s.fuseLmap l with
  | 0 => 50 * (l / 48) + l % 48
  | p + 1 => p

/-- The physical tile behind device logical tile `l`; 200 for none. R187, R215. -/
def State.phys (s : State) (l : Nat) : Nat :=
  match tget 0 s.lmap l with
  | 0 => fusedPhys s l
  | p + 1 => p

def State.setPhys (s : State) (l p : Nat) : State := { s with lmap := tset 0 s.lmap l (p + 1) }

/-- The logical tile that stands before physical tile `p`, if any. -/
def State.logOf (s : State) (p : Nat) : Option Nat := findFrom (fun l => s.phys l == p) 0 192

def State.engine (s : State) (e : Nat) : Engine := tget {} s.engines e
def State.modEngine (s : State) (e : Nat) (f : Engine → Engine) : State :=
  { s with engines := tset {} s.engines e (f (s.engine e)) }

def State.gov (s : State) (d : Nat) : Gov := tget {} s.govs d
def State.modGov (s : State) (d : Nat) (f : Gov → Gov) : State := { s with govs := tset {} s.govs d (f (s.gov d)) }

def State.mrc (s : State) (d : Nat) : Mrc := tget {} s.mrcs d
def State.modMrc (s : State) (d : Nat) (f : Mrc → Mrc) : State := { s with mrcs := tset {} s.mrcs d (f (s.mrc d)) }

/-- Stream slot `k` of the device: slot k mod 256 of die k div 256. -/
def State.slot (s : State) (k : Nat) : Slot := tget {} (s.mrc (k / 256)).slots (k % 256)
def State.modSlot (s : State) (k : Nat) (f : Slot → Slot) : State :=
  s.modMrc (k / 256) (fun m => { m with slots := tset {} m.slots (k % 256) (f (tget {} m.slots (k % 256))) })

def State.grs (s : State) (d : Nat) : Grs := tget {} s.grss d
def State.modGrs (s : State) (d : Nat) (f : Grs → Grs) : State := { s with grss := tset {} s.grss d (f (s.grs d)) }

/-- Codec lane `n` of the device: lane n mod 8 of die n div 8. -/
def State.lane (s : State) (n : Nat) : Lane := tget {} (s.grs (n / 8)).lanes (n % 8)
def State.modLane (s : State) (n : Nat) (f : Lane → Lane) : State :=
  s.modGrs (n / 8) (fun g => { g with lanes := tset {} g.lanes (n % 8) (f (tget {} g.lanes (n % 8))) })

def State.gslot (s : State) (i : Nat) : GSlot := tget {} s.gslots i
def State.modGSlot (s : State) (i : Nat) (f : GSlot → GSlot) : State :=
  { s with gslots := tset {} s.gslots i (f (s.gslot i)) }

def State.ring (s : State) (r : Nat) : Ring := tget {} s.hif.rings r
def State.modRing (s : State) (r : Nat) (f : Ring → Ring) : State :=
  { s with hif := { s.hif with rings := tset {} s.hif.rings r (f (s.ring r)) } }

def State.fn (s : State) (f : Nat) : Fn := tget {} s.hif.fns f
def State.modFn (s : State) (i : Nat) (f : Fn → Fn) : State :=
  { s with hif := { s.hif with fns := tset {} s.hif.fns i (f (s.fn i)) } }

def State.ctx (s : State) (c : Nat) : Ctx := tget {} s.ctxs c
def State.modCtx (s : State) (c : Nat) (f : Ctx → Ctx) : State := { s with ctxs := tset {} s.ctxs c (f (s.ctx c)) }

def State.seqEnt (s : State) (q : Nat) : SeqEnt := tget {} s.seqs q
def State.modSeqEnt (s : State) (q : Nat) (f : SeqEnt → SeqEnt) : State :=
  { s with seqs := tset {} s.seqs q (f (s.seqEnt q)) }

def State.miller (s : State) (c : Nat) : Miller := tget {} s.millers c
def State.modMiller (s : State) (c : Nat) (f : Miller → Miller) : State :=
  { s with millers := tset {} s.millers c (f (s.miller c)) }

def State.stack (s : State) (i : Nat) : Stack := tget {} s.memb.stks i
def State.modStack (s : State) (i : Nat) (f : Stack → Stack) : State :=
  { s with memb := { s.memb with stks := tset {} s.memb.stks i (f (s.stack i)) } }

def State.port (s : State) (p : Nat) : Port := tget {} s.hdr.ports p
def State.modPort (s : State) (p : Nat) (f : Port → Port) : State :=
  { s with hdr := { s.hdr with ports := tset {} s.hdr.ports p (f (s.port p)) } }

def State.fanTile (s : State) (p : Nat) : FanTile := tget {} s.fan.tiles p
def State.modFanTile (s : State) (p : Nat) (f : FanTile → FanTile) : State :=
  { s with fan := { s.fan with tiles := tset {} s.fan.tiles p (f (s.fanTile p)) } }

/-- Millpond of physical tile `p`. -/
def State.modMpd (s : State) (p : Nat) (f : Mpd → Mpd) : State := s.modTile p (fun t => { t with mpd := f t.mpd })

/-- The next free value's number, and the state past it. -/
def State.takeFree (s : State) : State × Nat := ({ s with free := s.free + 1 }, s.free)

/-- What waited for the answers of the requests that `p` names is gone: they are dropped when they come. R228. -/
def State.disown (s : State) (p : Requester → Bool) : State :=
  { s with hdr := { s.hdr with outst := mapWhere (fun o => p o.who) (fun o => { o with who := .nobody }) s.hdr.outst } }

/-! ## Storage keys of the memory list -/

/-- Millpond offset `off` of physical tile `p`. -/
def millKey (p off : Nat) : Nat := 0x100000000000 + p * 0x800000 + off

/-- Host bus address. -/
def hostKey (a : Nat) : Nat := 2 ^ 64 + a

/-- Service address `a` of Miller core `c`. -/
def svcKey (c a : Nat) : Nat := 2 ^ 68 + c * 2 ^ 64 + a

/-- What an address of the device reaches. -/
inductive Place
  | hbm (a : Nat)
  | mill (p off : Nat)
  | host (a : Nat)
deriving DecidableEq, Repr

/-- The storage key of a place. -/
def Place.key : Place → Nat
  | .hbm a => a
  | .mill p o => millKey p o
  | .host a => hostKey a

/-- The place `n` bytes further on. -/
def Place.plus : Place → Nat → Place
  | .hbm a, n => .hbm (a + n)
  | .mill p o, n => .mill p (o + n)
  | .host a, n => .host (a + n)

/-- HBM, 576 GiB. R417. -/
def hbmEnd : Nat := 0x9000000000

/-- The place of a device address; none where it is reserved. R417, R418. -/
def locate (s : State) (a : Nat) : Option Place :=
  if a < hbmEnd then some (.hbm a)
  else if 0x100000000000 ≤ a ∧ a < 0x100060000000 then
    let l := (a - 0x100000000000) / 0x800000
    let o := (a - 0x100000000000) % 0x800000
    if o < 0x600000 ∧ s.phys l < 200 then some (.mill (s.phys l) o) else none
  else none

/-! ## Bytes and words -/

def State.byte (s : State) (k : Nat) : Byte := tget 0 s.mem k
def State.bytes (s : State) (k n : Nat) : List Byte := tgetList 0 s.mem k n
def State.setBytes (s : State) (k : Nat) (bs : List Byte) : State := { s with mem := tsetList 0 s.mem k bs }
def State.num (s : State) (k n : Nat) : Nat := bytesToNat (s.bytes k n)
def State.setNum (s : State) (k n v : Nat) : State := s.setBytes k (natToBytes v n)

/-- The word that holds storage key `k`: 256 data bits and the check difference. -/
def State.word (s : State) (k : Nat) : Word288 :=
  (BitVec.ofNat 256 (s.num (k / 32 * 32) 32), tget 0 s.chk (k / 32))

/-- A full-word write of 288 bits. R314. -/
def State.setWord (s : State) (k : Nat) (w : Word288) : State :=
  { (s.setNum (k / 32 * 32) 32 w.1.toNat) with chk := tset 0 s.chk (k / 32) w.2 }

/-- The check difference alone. -/
def State.setChk (s : State) (k : Nat) (d : W32) : State := { s with chk := tset 0 s.chk (k / 32) d }

/-- `n` words from storage key `k`. -/
def State.words (s : State) (k : Nat) : Nat → List Word288
  | 0 => []
  | n + 1 => s.word k :: s.words (k + 32) n

/-- Consecutive words, stored as given. -/
def State.setWords (s : State) (k : Nat) : List Word288 → State
  | [] => s
  | w :: ws => (s.setWord k w).setWords (k + 32) ws

/-- A range of storage zeroed, with zero check bits, that is clean. R191. -/
def State.zero (s : State) (k n : Nat) : State :=
  { s with
    mem := s.mem.filter (fun c => !(decide (k ≤ c.1) && decide (c.1 < k + n)))
    chk := s.chk.filter (fun c => !(decide (k ≤ 32 * c.1) && decide (32 * c.1 < k + n))) }

/-! ## Rings and records (14) -/

/-- HEAD to TAIL of a host or internal ring. R569. -/
def Ring.count (r : Ring) : Nat := (r.c1 - r.c0).toNat

/-- A host or internal ring that serves records: ON. -/
def Ring.isOn (r : Ring) : Bool := r.st == .on

/-- A free entry exists. -/
def Ring.room (r : Ring) : Bool := r.isOn && decide (r.count < r.entries)

/-- Entries that the host reaches lie in host memory, others at device addresses. R569. -/
def Ring.inHost (r : Ring) : Bool := r.kind == .submit || r.kind == .complete || r.kind == .event

/-- Where entry `i` of a ring lies: in host memory, or at a device address; none where that is reserved. R417, R418, R570. -/
def State.entryPlace (s : State) (r : Ring) (i : Nat) : Option Place :=
  let o := r.base.toNat + 32 * r.entryUnits * (i % r.entries)
  if r.inHost then some (.host o) else locate s o

/-- A frame on the retired list refuses writes. R439. -/
def frameRetired (s : State) : Place → Bool
  | .hbm a => (a / 65536) ∈ s.memb.retired
  | _ => false

/-- Bytes of whole words of this device's memory replace them with fresh check bits. R314. -/
def State.putBytes (s : State) (k : Nat) (bs : List Byte) : State :=
  { (s.setBytes k bs) with chk := s.chk.filter (fun c => !(decide (k ≤ 32 * c.1) && decide (32 * c.1 + 32 ≤ k + bs.length))) }

/-- A record at entry `i` of a ring: the write is refused at a reserved address and in a retired frame. R418, R439, R570. -/
def State.putEntry (s : State) (r : Ring) (i : Nat) (bs : List Byte) : State :=
  match s.entryPlace r i with
  | none => s
  | some pl => if frameRetired s pl then s else s.putBytes pl.key bs

/-- Global number of local ring `k` of function `f`. R568. -/
def globalRing (s : State) (f k : Nat) : Option Nat :=
  if k < (s.fn f).ringsCount then some ((s.fn f).ringsBase + k) else none

/-- The MSI-X message of entry `e` of function `f`, where it fires. R566. -/
def msixSend (s : State) (f e : Nat) : State :=
  if e < (s.fn f).vecCount then { s with hif := { s.hif with msix := s.hif.msix ++ [(f, (s.fn f).vecBase + e)] } } else s

/-- A message sent where the unread count reaches MOD_RECS, or `force` holds and a record is unread. R579. -/
def notify (s : State) (r : Nat) (force : Bool) : State :=
  let g := s.ring r
  if g.msixEn && g.armed && (decide (max 1 g.modRecs ≤ g.count) || (force && decide (0 < g.count))) then
    msixSend (s.modRing r (fun g => { g with armed := false })) g.func g.vector
  else s

/-- Shadow word of a host ring: the counter in bytes 3 to 0 and zero above. R577, R578. -/
def shadowWrite (s : State) (r : Nat) (v : W32) : State :=
  if (s.ring r).inHost then s.setNum (hostKey (s.ring r).shadow.toNat) 8 v.toNat else s

/-- A record written at the tail of a ring that has room; then the shadow word, then the message. R578, R579. -/
def pushRecord (s : State) (r : Nat) (bs : List Byte) : State :=
  let g := s.ring r
  let s1 := s.putEntry g g.c1.toNat bs
  let s2 := s1.modRing r (fun g => { g with c1 := g.c1 + 1 })
  notify (shadowWrite s2 r (g.c1 + 1)) r false


/-- HEAD advances; a SUBMIT ring's shadow word follows. R577. -/
def popHead (s : State) (r : Nat) : State :=
  let g := s.ring r
  let s1 := s.modRing r (fun g => { g with c0 := g.c0 + 1 })
  if g.kind = .submit then shadowWrite s1 r (g.c0 + 1) else s1

/-- The Miller core that serves a submission ring: the one it was handed to, or core r mod 16. R490. -/
def ringCore (s : State) (r : Nat) : Nat := (s.ring r).server.getD (r % 16)

/-- Submission rings that a core serves. GOV_MCORE. -/
def coreRings (s : State) (c : Nat) : List Nat :=
  (s.hif.rings.filter (fun r => r.2.kind == .submit && r.2.st != .off && ringCore s r.1 == c)).map (fun r => r.1)

/-! ## Event records (14) -/

/-- What an event says, apart from its context and number. R581. -/
structure Evt where
  code : Nat
  sev : Nat
  seq : Nat := 0xFFFF
  srcKind : Nat := 0
  srcDie : Nat := 0xFF
  srcIndex : Nat := 0
  addr : Nat := 0
  d0 : Nat := 0
  d1 : Nat := 0
  d2 : Nat := 0
deriving DecidableEq, Repr

/-- The 64 bytes of an event record. R581. -/
def Evt.bytes (e : Evt) (ctx : Option Nat) (esq : W32) (lost : Nat) : List Byte :=
  natToBytes esq.toNat 4 ++ natToBytes e.code 2 ++ natToBytes e.sev 1 ++ natToBytes (min lost 255) 1 ++
  natToBytes (ctx.getD 0xFFFF) 2 ++ natToBytes e.seq 2 ++ natToBytes e.srcKind 1 ++ natToBytes e.srcDie 1 ++
  natToBytes e.srcIndex 2 ++ natToBytes e.addr 8 ++ natToBytes e.d0 8 ++ natToBytes e.d1 8 ++ natToBytes e.d2 8 ++
  natToBytes 0 16

/-- One record for the event ring of function `f`, written or dropped. R582, R583. -/
def evtTo (s : State) (f : Nat) (e : Evt) (ctx : Option Nat) (esq : W32) : State :=
  let fn := s.fn f
  let lostBy (s : State) : State := s.modFn f (fun n => { n with evtLost := satAdd 32 n.evtLost 1 })
  match (if fn.evtValid then globalRing s f fn.evtRing else none) with
  | none => lostBy s
  | some r =>
    let g := s.ring r
    if g.kind = .event ∧ g.room then
      (pushRecord s r (e.bytes ctx esq g.lost)).modRing r (fun g => { g with lost := 0 })
    else (lostBy s).modRing r (fun g => { g with lost := g.lost + 1 })

/-- An event posted for one context, or for none. R581 to R583. -/
def postEvent (s : State) (ctx : Option Nat) (e : Evt) : State :=
  let esq := s.hif.esq
  let s1 := { s with hif := { s.hif with esq := esq + 1 } }
  match ctx with
  | none => evtTo s1 0 e none esq
  | some c =>
    let f := (s.ctx c).fn
    let s2 := evtTo s1 f e ctx esq
    if (s.fn 0).evtMirror && f != 0 then evtTo s2 0 e ctx esq else s2

/-- An event that concerns several contexts: one record for each and one with none. R582. -/
def postEvents (s : State) (cs : List Nat) (e : Evt) : State :=
  postEvent (cs.foldl (fun s c => postEvent s (some c) e) s) none e

/-! ## Runs (05) -/

/-- A run of a die by its number. -/
def State.run? (s : State) (d rid : Nat) : Option Run := (s.gov d).runs.find? (fun r => r.rid == rid)

/-- The run that holds device logical tile `l`. R186. -/
def State.runOf (s : State) (l : Nat) : Option Run :=
  match (s.ltile l).run with
  | none => none
  | some rid => s.run? (l / 48) rid

def State.modRun (s : State) (d rid : Nat) (f : Run → Run) : State :=
  s.modGov d (fun g => { g with runs := mapWhere (fun r => r.rid == rid) f g.runs })

/-- The device logical tiles of a run's tile set, ascending. R187, R201. -/
def RunRec.tileList (r : RunRec) : List Nat :=
  ((List.range 48).filter (fun i => r.tileMask.testBit i)).map (fun i => 48 * r.die + i)

/-- Index of logical tile `l` in the set. R201. -/
def RunRec.indexOf (r : RunRec) (l : Nat) : Nat := ((r.tileList).filter (fun j => decide (j < l))).length

/-! ## Sequencers -/

/-- The sequencer of a core. -/
def State.seqr (s : State) : Core → Seqr
  | .tile l => (s.tile (s.phys l)).seqr
  | .miller c => (s.miller c).seqr

def State.modSeqr (s : State) (c : Core) (f : Seqr → Seqr) : State :=
  match c with
  | .tile l => s.modTile (s.phys l) (fun t => { t with seqr := f t.seqr })
  | .miller m => s.modMiller m (fun t => { t with seqr := f t.seqr })

/-- Scalar register n; s0 reads zero. R200. -/
def Seqr.s (q : Seqr) (n : BitVec 5) : W64 := if n = 0 then 0 else tget 0 q.sreg n.toNat

/-- Address register n. -/
def Seqr.a (q : Seqr) (n : BitVec 4) : W64 := tget 0 q.areg n.toNat

/-- Predicate n; p0 reads true. R200. -/
def Seqr.p (q : Seqr) (n : BitVec 3) : Bool := if n = 0 then true else tget false q.preg n.toNat

/-- A write to s0 is ignored. R200. -/
def Seqr.setS (q : Seqr) (n : BitVec 5) (v : W64) : Seqr :=
  if n = 0 then q else { q with sreg := tset 0 q.sreg n.toNat v }

def Seqr.setA (q : Seqr) (n : BitVec 4) (v : W64) : Seqr := { q with areg := tset 0 q.areg n.toNat v }

/-- A write to p0 is ignored. R200. -/
def Seqr.setP (q : Seqr) (n : BitVec 3) (v : Bool) : Seqr :=
  if n = 0 then q else { q with preg := tset false q.preg n.toNat v }

end Sys2Proof.Machine
end

