-- ==== Sys2Proof/Machine/Flits.lean ====
section
/-! DEFINITION. What Headrace puts on the wire (11, R450 to R452, R463): packet heads, the flits of a packet with their kinds and CHECK
flits, the flit header, its CRC and the Reed-Solomon parity. -/

namespace Sys2Proof.Machine
open Sys2Proof

/-! ## Packet heads (R463) -/

/-- The 32 bytes of a packet's head. R463. -/
def headBytes (k : Packet) : List Byte :=
  natToBytes k.addr.toNat 8 ++ natToBytes k.group 2 ++ natToBytes k.tag 2 ++ natToBytes k.oseq 2 ++
  natToBytes (k.oclass % 4 * 16384 + k.src % 16384) 2 ++ natToBytes (k.dst % 16384) 2 ++ natToBytes k.op 1 ++
  natToBytes (k.len % 128) 1 ++ natToBytes k.status 1 ++ natToBytes (if k.resp then 1 else 0) 1 ++
  natToBytes k.operand.toNat 8 ++ natToBytes 0 2

/-- The packet that a head and its data slots make; a reserved bit is not read. R463. -/
def packetOf (h : List Byte) (data : List Word288) : Packet :=
  { addr := field64 h 0, group := fieldAt h 8 2, tag := fieldAt h 10 2, oseq := fieldAt h 12 2,
    src := fieldAt h 14 2 % 16384, oclass := fieldAt h 14 2 / 16384, dst := fieldAt h 16 2 % 16384, op := fieldAt h 18 1,
    len := fieldAt h 19 1 % 128, status := fieldAt h 20 1, resp := fieldAt h 21 1 % 2 == 1, operand := field64 h 22, data := data }

/-! ## The flits of a packet (R450 to R452) -/

/-- A slot as it is sent: its kind, its 32 bytes, and the check symbols that travel apart. -/
structure SlotOut where
  kind : Nat
  word : BitVec 256
  check : W32 := 0
deriving DecidableEq, Repr

/-- A data word goes as kind 2 where its syndromes are zero and as kind 3 otherwise. R452. -/
def dataSlot (w : Word288) : SlotOut :=
  if w.2 = 0 then { kind := 2, word := w.1 } else { kind := 3, word := w.1, check := w.2 ^^^ rsCheck w.1 }

/-- The slots of a packet: its head, and then its data in order. R462, R463. -/
def packetSlots (k : Packet) : List SlotOut :=
  { kind := 1, word := BitVec.ofNat 256 (bytesToNat (headBytes k)) } :: k.data.map dataSlot

/-- The DATA flit of eight slots. -/
def dataFlit (g : List SlotOut) : SentFlit := { ftype := 0, kinds := g.map (fun x => x.kind), slots := g.map (fun x => x.word) }

/-- The CHECK flit of a DATA flit: four check symbols for each slot of kind 3, at body bits [32s + 31 : 32s]. R452. -/
def checkFlit (g : List SlotOut) : SentFlit :=
  { ftype := 1, slots := [BitVec.ofNat 256 (bytesToNat (g.flatMap (fun x => natToBytes (if x.kind = 3 then x.check.toNat else 0) 4)))] }

/-- Slots in flits of eight, each followed by its CHECK flit where one of its slots is of kind 3. R450, R452. -/
def slotFlits (xs : List SlotOut) : Nat → List SentFlit
  | 0 => []
  | n + 1 =>
    if xs.isEmpty then []
    else
      let g := xs.take 8
      dataFlit g :: ((if g.any (fun x => x.kind == 3) then [checkFlit g] else []) ++ slotFlits (xs.drop 8) n)

/-- The flits of a packet. -/
def packetFlits (k : Packet) : List SentFlit := slotFlits (packetSlots k) (k.data.length + 1)

/-- Flits of a packet. R450, R452. -/
def pktFlits (k : Packet) : Nat := (packetFlits k).length

/-- The flits of a packet, numbered from `seq`; the last one stands for the packet. R451, R454. -/
def numberFlits (k : Packet) (seq : Nat) : List SentFlit :=
  (packetFlits k).zipIdx.map (fun f => { f.1 with seq := (seq + f.2) % 2048, packet := if f.2 + 1 = pktFlits k then some k else none })

/-! ## The wire form of a flit (R450, R451) -/

/-- One bit into the CRC of x^16 + x^12 + x^5 + 1. -/
def crcBit (c : BitVec 16) (b : Bool) : BitVec 16 := if c.msb != b then (c <<< 1) ^^^ 0x1021 else c <<< 1

/-- One byte into the CRC, its most significant bit first. -/
def crcByte (c : BitVec 16) (b : Byte) : BitVec 16 := [7, 6, 5, 4, 3, 2, 1, 0].foldl (fun c i => crcBit c (b.getLsbD i)) c

/-- CRC-16 with an initial value of all ones. R451. -/
def crc16 (bs : List Byte) : BitVec 16 := bs.foldl crcByte 0xFFFF

/-- Product of a polynomial, lowest coefficient first, with x + a. -/
def polyMulRoot (p : List Byte) (a : Byte) : List Byte := List.zipWith (fun x y => x ^^^ y) (p.map (gfMul a) ++ [0]) (0 :: p)

/-- The generator of RS(272, 264), lowest coefficient first: the product of x + α^i for i from 0 to 7. R450. -/
def fecGen : List Byte := (List.range 8).foldl (fun p i => polyMulRoot p (gfPow i)) [1]

/-- One step of the division of x^8 · D(x) by the generator: eight remainder coefficients, lowest first. -/
def fecStep (r : List Byte) (d : Byte) : List Byte :=
  let f := (r.getLast?).getD 0 ^^^ d
  List.zipWith (fun x y => x ^^^ y) (0 :: r.dropLast) ((fecGen.take 8).map (gfMul f))

/-- The eight parity bytes over bytes 0 to 263; byte i is the coefficient of x^(i + 8). R450. -/
def fecParity (bs : List Byte) : List Byte := bs.reverse.foldl fecStep (List.replicate 8 0)

/-- The 256 bytes of a flit's body. R450. -/
def SentFlit.body (f : SentFlit) : List Byte := (List.range 8).flatMap (fun i => natToBytes (nth 0 f.slots i).toNat 32)

/-- KIND: two bits for each slot. R451. -/
def kindField : List Nat → Nat
  | [] => 0
  | k :: ks => k % 4 + 4 * kindField ks

/-- The header of a flit with an acknowledgement; it returns no credit (CCLASS 7). R451. -/
def SentFlit.header (f : SentFlit) (ack : Nat) (nak : Bool) (crc : BitVec 16) : Nat :=
  f.ftype % 4 * 2 ^ 62 + f.seq % 2048 * 2 ^ 51 + ack % 2048 * 2 ^ 40 + (if nak then 2 ^ 39 else 0) + 7 * 2 ^ 36 +
  crc.toNat * 2 ^ 16 + kindField f.kinds % 2 ^ 16

/-- The 272 bytes of a flit as a port sends it, with the last SEQ that the port has accepted as ACK. R450, R451, R453. -/
def Port.wire (q : Port) (f : SentFlit) : List Byte :=
  let ack := (q.rxSeq + 2047) % 2048
  let bare := f.body ++ natToBytes (f.header ack q.sendNak 0) 8
  let bs := f.body ++ natToBytes (f.header ack q.sendNak (crc16 bare)) 8
  bs ++ fecParity bs

end Sys2Proof.Machine
end

