-- ==== Sys2Proof/Config.lean ====
section
/-! DEFINITION. What the spec leaves to an outside standard, to the silicon or to an implementation: constants
without a body, so that nothing can be proved of their values. Each is named in the assumption log. -/

namespace Sys2Proof

/-- SHA-384 of a byte string: named by R535, R551, R665, R669 and defined by its own standard. -/
opaque Config.sha384 : List Byte → BitVec 384

/-- Verification of an ECDSA P-384 signature with SHA-384: key, message, signature. R536, R645. -/
opaque Config.ecdsaOk : List Byte → List Byte → List Byte → Bool

/-- Verification of an ML-DSA-65 signature. R534. -/
opaque Config.mldsaOk : List Byte → List Byte → List Byte → Bool

/-- Signature by the device identity key, whose private part no rule gives. R673. -/
opaque Config.identitySign : List Byte → List Byte

/-- The random value of the n-th nonce. R650. -/
opaque Config.nonce : Nat → BitVec 64

/-- What an implementation computes for activation functions 2 to 5, of which R125 states only a bound: ACT and FP32 bits. -/
opaque Config.actFn : Nat → W32 → W32

/-- A byte that the spec does not state, by the model's counter of free values. -/
opaque Config.freeByte : Nat → Byte

/-- A register value that the spec does not state, by the model's counter of free values. -/
opaque Config.freeWord : Nat → W64

/-- Answer to GETSTATUS, whose content is the I3C standard's. R638. -/
opaque Config.i3cStatus : Nat → List Byte

/-- The data of GET_INFO, whose layout the spec does not give, from what it tells: serial number, provisioned identifier, whether the
grade is H, the versions of the four firmware slots, claim and RTV state. R652. -/
opaque Config.infoBytes : BitVec 128 → BitVec 48 → Bool → List W32 → Bool → Bool → List Byte

/-- What maker diagnostics return, which the spec does not give, by the model's counter of free values. R652. -/
opaque Config.diagBytes : Nat → List Byte

end Sys2Proof
end

