-- ==== Sys2Proof/Machine/Num.lean ====
section
/-! DEFINITION. Number formats and arithmetic (02): exact dyadic values, the one rounding (R54), the floating
formats of R57, the integer narrowings, P64 addition, and the exponential of R161. -/

namespace Sys2Proof.Machine
open Sys2Proof

/-- m / 2^n to nearest, ties to even. R54. -/
def rneDiv (m : Int) (n : Nat) : Int :=
  if n = 0 then m
  else
    let q := m / (2 : Int) ^ n
    let r := m % (2 : Int) ^ n
    let h := (2 : Int) ^ (n - 1)
    if r < h then q else if h < r then q + 1 else if q % 2 = 0 then q else q + 1

/-- m × 2^e in units of 2^a, to nearest even. R87. -/
def rneAt (m e a : Int) : Int :=
  if a ≤ e then m * (2 : Int) ^ (e - a).toNat else rneDiv m (a - e).toNat

/-- A decoded floating value: `fin m e` is m × 2^e with m not zero. -/
inductive FV
  | nan
  | inf (neg : Bool)
  | zero (neg : Bool)
  | fin (m e : Int)
deriving DecidableEq, Repr

/-- A floating format by its exponent and fraction widths and bias; `ocp` is FP8-E4M3, which has no infinity. R57. -/
structure FloatFmt where
  eb : Nat
  fb : Nat
  bias : Int
  ocp : Bool := false

def fmtFp32 : FloatFmt := { eb := 8, fb := 23, bias := 127 }
def fmtBf16 : FloatFmt := { eb := 8, fb := 7, bias := 127 }
def fmtFp16 : FloatFmt := { eb := 5, fb := 10, bias := 15 }
def fmtE4m3 : FloatFmt := { eb := 4, fb := 3, bias := 7, ocp := true }
def fmtE5m2 : FloatFmt := { eb := 5, fb := 2, bias := 15 }

/-- The value of the bits of a floating format. R57. -/
def fdecode (f : FloatFmt) (b : Nat) : FV :=
  let neg := (b / 2 ^ (f.eb + f.fb)) % 2 = 1
  let ex := (b / 2 ^ f.fb) % 2 ^ f.eb
  let fr := b % 2 ^ f.fb
  let sg : Int := if neg then -1 else 1
  if f.ocp && ex = 15 && fr = 7 then .nan
  else if !f.ocp && ex = 2 ^ f.eb - 1 then (if fr = 0 then .inf neg else .nan)
  else if ex = 0 then
    (if fr = 0 then .zero neg else .fin (sg * fr) (1 - f.bias - f.fb))
  else .fin (sg * (2 ^ f.fb + fr : Nat)) (ex - f.bias - f.fb)

/-- The sign bit of a format. -/
def fsign (f : FloatFmt) (neg : Bool) : Nat := if neg then 2 ^ (f.eb + f.fb) else 0

/-- Bits of the largest finite magnitude. R57. -/
def fmaxBits (f : FloatFmt) : Nat := if f.ocp then 0x7E else (2 ^ f.eb - 1) * 2 ^ f.fb - 1

/-- Bits of the canonical NaN. R57. -/
def fnan (f : FloatFmt) : Nat := if f.ocp then 0x7F else (2 ^ f.eb - 1) * 2 ^ f.fb + 2 ^ (f.fb - 1)

/-- Bits of an infinity; FP8-E4M3 has none and takes 0x7F. R57, R62. -/
def finf (f : FloatFmt) (neg : Bool) : Nat :=
  if f.ocp then 0x7F else fsign f neg + (2 ^ f.eb - 1) * 2 ^ f.fb

/-- m × 2^e, m not zero, rounded to the format. With `sat` an overflow gives the largest finite value (R60),
without it an infinity (R55). -/
def froundFin (f : FloatFmt) (sat : Bool) (m e : Int) : Nat :=
  let neg := decide (m < 0)
  let a := m.natAbs
  let top : Int := e + Nat.log2 a
  let q : Int := max top (1 - f.bias) - f.fb
  let k := (rneAt a e q).toNat
  let bits := if k < 2 ^ f.fb then k else ((q + f.fb + f.bias).toNat) * 2 ^ f.fb + (k - 2 ^ f.fb)
  if fmaxBits f < bits then (if sat then fsign f neg + fmaxBits f else finf f neg)
  else fsign f neg + bits

/-- A value rounded to the format. R54 to R56, R58, R60, R62. -/
def fround (f : FloatFmt) (sat : Bool) : FV → Nat
  | .nan => fnan f
  | .inf n => finf f n
  | .zero n => fsign f n
  | .fin m e => if m = 0 then 0 else froundFin f sat m e

/-- Exact negation. -/
def FV.neg : FV → FV
  | .nan => .nan
  | .inf n => .inf (!n)
  | .zero n => .zero (!n)
  | .fin m e => .fin (-m) e

/-- Exact product, with the IEEE 754 results for zeros, infinities and NaN. R55. -/
def FV.mul : FV → FV → FV
  | .nan, _ => .nan
  | _, .nan => .nan
  | .inf a, .inf b => .inf (a != b)
  | .inf a, .fin m _ => .inf (a != decide (m < 0))
  | .fin m _, .inf b => .inf (b != decide (m < 0))
  | .inf _, .zero _ => .nan
  | .zero _, .inf _ => .nan
  | .zero a, .zero b => .zero (a != b)
  | .zero a, .fin m _ => .zero (a != decide (m < 0))
  | .fin m _, .zero b => .zero (b != decide (m < 0))
  | .fin m e, .fin n g => .fin (m * n) (e + g)

/-- Exact sum. A sum of opposite values is +0. R55. -/
def FV.add : FV → FV → FV
  | .nan, _ => .nan
  | _, .nan => .nan
  | .inf a, .inf b => if a = b then .inf a else .nan
  | .inf a, _ => .inf a
  | _, .inf b => .inf b
  | .zero a, .zero b => .zero (a && b)
  | .zero _, y => y
  | x, .zero _ => x
  | .fin m e, .fin n g =>
    let q := min e g
    let t := m * (2 : Int) ^ (e - q).toNat + n * (2 : Int) ^ (g - q).toNat
    if t = 0 then .zero false else .fin t q

/-- Quotient with a sticky last bit: exact for every later rounding to at most 60 bits. -/
def FV.div : FV → FV → FV
  | .nan, _ => .nan
  | _, .nan => .nan
  | .inf _, .inf _ => .nan
  | .inf a, .zero b => .inf (a != b)
  | .inf a, .fin m _ => .inf (a != decide (m < 0))
  | .zero a, .inf b => .zero (a != b)
  | .fin m _, .inf b => .zero (b != decide (m < 0))
  | .zero _, .zero _ => .nan
  | .zero a, .fin m _ => .zero (a != decide (m < 0))
  | .fin m _, .zero b => .inf (b != decide (m < 0))
  | .fin m e, .fin n g =>
    let k := 128 + Nat.log2 n.natAbs
    let num := m.natAbs * 2 ^ k
    let q := num / n.natAbs
    let st := if num % n.natAbs = 0 then 0 else 1
    let v : Int := (2 * q + st : Nat)
    .fin (if (m < 0) != (n < 0) then -v else v) (e - g - k - 1)

/-- x < y on values that are not NaN. -/
def FV.lt : FV → FV → Bool
  | .nan, _ => false
  | _, .nan => false
  | .inf a, .inf b => a && !b
  | .inf a, _ => a
  | _, .inf b => !b
  | x, y => match FV.add x y.neg with
    | .fin m _ => decide (m < 0)
    | _ => false

/-- x = y, with +0 equal to −0. R251. -/
def FV.eq : FV → FV → Bool
  | .nan, _ => false
  | _, .nan => false
  | .inf a, .inf b => a == b
  | .inf _, _ => false
  | _, .inf _ => false
  | x, y => match FV.add x y.neg with
    | .fin _ _ => false
    | _ => true

/-- The largest integer not above a finite value. -/
def FV.floor : FV → Int
  | .fin m e => if 0 ≤ e then m * (2 : Int) ^ e.toNat else m / (2 : Int) ^ (-e).toNat
  | _ => 0

/-- The nearest integer, ties to even; infinities and NaN give 0. -/
def FV.toInt : FV → Int
  | .fin m e => rneAt m e 0
  | _ => 0

def FV.isNan : FV → Bool
  | .nan => true
  | _ => false

/-- NaN or infinite. -/
def FV.bad : FV → Bool
  | .nan => true
  | .inf _ => true
  | _ => false

def FV.isZero : FV → Bool
  | .zero _ => true
  | .fin m _ => decide (m = 0)
  | _ => false

def FV.ofInt (i : Int) : FV := if i = 0 then .zero false else .fin i 0

/-- The value of FP32 bits. -/
def f32 (b : W32) : FV := fdecode fmtFp32 b.toNat

/-- One rounding to FP32 as binary32: an overflow gives an infinity. R54 to R56. -/
def rne32 (v : FV) : W32 := BitVec.ofNat 32 (fround fmtFp32 false v)

/-- One rounding to FP32 that saturates. R60. -/
def sat32 (v : FV) : W32 := BitVec.ofNat 32 (fround fmtFp32 true v)

def nan32 : W32 := 0x7FC00000

def fadd32 (a b : W32) : W32 := rne32 ((f32 a).add (f32 b))
def fsub32 (a b : W32) : W32 := rne32 ((f32 a).add (f32 b).neg)
def fmul32 (a b : W32) : W32 := rne32 ((f32 a).mul (f32 b))
def fdiv32 (a b : W32) : W32 := rne32 ((f32 a).div (f32 b))

/-- The smaller value, with −0 below +0; NaN when either is NaN. R252. -/
def fmin32 (a b : W32) : W32 :=
  let x := f32 a
  let y := f32 b
  if x.isNan || y.isNan then nan32
  else if x.lt y then a else if y.lt x then b else if a.msb then a else b

/-- The larger value, with +0 above −0; NaN when either is NaN. R252. -/
def fmax32 (a b : W32) : W32 :=
  let x := f32 a
  let y := f32 b
  if x.isNan || y.isNan then nan32
  else if x.lt y then b else if y.lt x then a else if a.msb then b else a

/-- FP32 add of the atomic unit: saturates. R298. -/
def fadd32Sat (a b : W32) : W32 := sat32 ((f32 a).add (f32 b))

/-- FP32 to a signed 64-bit integer, clamped; NaN gives 0. R252. -/
def f32ToI64 (a : W32) : W64 :=
  match f32 a with
  | .nan => 0
  | .inf true => BitVec.ofInt 64 (-(2 ^ 63))
  | .inf false => BitVec.ofInt 64 (2 ^ 63 - 1)
  | v => BitVec.ofInt 64 (max (-(2 ^ 63)) (min (2 ^ 63 - 1) v.toInt))

/-- BF16 bits to FP32 bits: exact. R59. -/
def bf16To32 (b : Nat) : W32 := rne32 (fdecode fmtBf16 b)

/-! ## Formats -/

/-- The format of a code. R53. -/
def fmtOf : Nat → Option Fmt
  | 0 => some .fp32
  | 1 => some .bf16
  | 2 => some .fp16
  | 3 => some .e4m3
  | 4 => some .e5m2
  | 5 => some .int8
  | 6 => some .bs12
  | 7 => some .fp4
  | 8 => some .int4
  | 9 => some .int3
  | 10 => some .int2
  | 11 => some .ter
  | 12 => some .bin
  | 13 => some .cb
  | 14 => some .p64
  | _ => none

/-- Bytes of one element of a format that a memory field names. -/
def fmtBytes : Fmt → Nat
  | .fp32 => 4
  | .bf16 => 2
  | .fp16 => 2
  | .p64 => 8
  | _ => 1

/-- The real value of an element of a Hopper input, bias or logit format. R57, R65 applies elsewhere. -/
def fmtValue (f : Fmt) (b : Nat) : FV :=
  match f with
  | .fp32 => fdecode fmtFp32 b
  | .bf16 => fdecode fmtBf16 b
  | .fp16 => fdecode fmtFp16 b
  | .e4m3 => fdecode fmtE4m3 b
  | .e5m2 => fdecode fmtE5m2 b
  | _ => FV.ofInt (BitVec.ofNat 8 b).toInt

/-- A Hopper or query input: a BF16 value whose exponent field is zero is zero. R65. -/
def inputValue (f : Fmt) (b : Nat) : FV :=
  match f with
  | .bf16 => if (b / 128) % 256 = 0 then .zero false else fdecode fmtBf16 b
  | _ => fmtValue f b

/-- Hopper inputs and queries. R14, R155. -/
def isInputFmt : Fmt → Bool
  | .bf16 | .fp16 | .e4m3 | .e5m2 | .int8 => true
  | _ => false

/-- Tailrace and attention outputs. R78. -/
def isOutFmt : Fmt → Bool
  | .fp32 | .bf16 | .fp16 | .e4m3 | .e5m2 | .int8 => true
  | _ => false

/-- KV elements. R78. -/
def isKvFmt : Fmt → Bool
  | .int4 | .int3 | .int2 => true
  | _ => false

/-- Bias vectors and logits: FP32, BF16 or FP16. R120, R308. -/
def isWideFmt : Fmt → Bool
  | .fp32 | .bf16 | .fp16 => true
  | _ => false

/-- The bits that a narrowing writes. R60 to R62, R132. -/
def narrowBits (f : Fmt) (v : FV) : Nat :=
  match f with
  | .fp32 => fround fmtFp32 true v
  | .bf16 => fround fmtBf16 true v
  | .fp16 => fround fmtFp16 true v
  | .e4m3 => fround fmtE4m3 true v
  | .e5m2 => fround fmtE5m2 true v
  | _ => match v with
    | .nan => 0
    | .inf true => 0x80
    | .inf false => 0x7F
    | w => (BitVec.ofInt 8 (max (-128) (min 127 w.toInt))).toNat

/-- Width in bits of a KV element. R140. -/
def kvBits : Nat → Nat
  | 8 => 4
  | 9 => 3
  | _ => 2

/-- The plane weight of plane p of a b-bit format. R68. -/
def planeWeight (b p : Nat) : Int := if p + 1 = b then -(2 ^ p) else 2 ^ p

/-! ## P64 (R71 to R75) -/

/-- A P64 value: exponent −32,768 is poison. R71, R72. -/
structure P64 where
  mant : Int
  exp : Int
deriving DecidableEq, Repr

def P64.poison : P64 := { mant := 0, exp := -32768 }

def P64.bits (p : P64) : W64 := BitVec.ofInt 16 p.exp ++ BitVec.ofInt 48 p.mant

def P64.of (b : W64) : P64 :=
  { mant := (b.extractLsb' 0 48).toInt, exp := (b.extractLsb' 48 16).toInt }

/-- Addition with one rounding. R74. -/
def P64.add (a b : P64) : P64 :=
  if a.exp = -32768 ∨ b.exp = -32768 then .poison
  else if a.mant = 0 then b
  else if b.mant = 0 then a
  else
    let e := max a.exp b.exp
    let q := min a.exp b.exp
    let x := a.mant * (2 : Int) ^ (a.exp - q).toNat + b.mant * (2 : Int) ^ (b.exp - q).toNat
    let r := rneAt x q e
    if -(2 ^ 47) ≤ r ∧ r ≤ 2 ^ 47 - 1 then { mant := r, exp := e }
    else if e = 32767 then .poison
    else { mant := rneAt x q (e + 1), exp := e + 1 }

/-- P64 addition on bits. -/
def p64Add (a b : W64) : W64 := (P64.add (.of a) (.of b)).bits

/-- One rounding of a P64 value to FP32. R75. -/
def p64To32 (b : W64) : W32 :=
  let p := P64.of b
  if p.exp = -32768 then nan32 else if p.mant = 0 then 0 else sat32 (.fin p.mant p.exp)

/-! ## BS12 blocks (R16 to R20) -/

/-- The mantissa of one input at block exponent s. R17, R19. -/
def bsMant (s : Int) : FV → Int
  | .fin m e => rneAt m e (s - 137)
  | _ => 0

/-- floor(log2 |v|) of a finite value that is not zero. -/
def fvLog2 : FV → Option Int
  | .fin m e => if m = 0 then none else some (e + Nat.log2 m.natAbs)
  | _ => none

/-- Exponent, mantissas and poison of a block of inputs. R16 to R19, R63. -/
def bs12 (xs : List FV) : Nat × List Int × Bool :=
  let poison := xs.any FV.bad
  match intMax? (xs.filterMap fvLog2) with
  | none => (0, xs.map (fun _ => 0), poison)
  | some e =>
    let s := max 1 (min 254 (e + 127))
    let ms := xs.map (bsMant s)
    if ms.any (fun m => decide (2048 ≤ m.natAbs)) then ((s + 1).toNat, xs.map (bsMant (s + 1)), poison)
    else (s.toNat, ms, poison)

/-! ## Lookup words (R22 to R33) -/

def bitAt (n i : Nat) : Nat := n / 2 ^ i % 2

/-- T[i] of a plane group. R22. -/
def planeWord (ms : List Int) (i : Nat) : Int :=
  (ms.zipIdx.map (fun p => (bitAt i p.2 : Int) * p.1)).foldl (· + ·) 0

/-- T[i] of a BIN group. R24. -/
def binWord (ms : List Int) (i : Nat) : Int :=
  (ms.zipIdx.map (fun p => (2 * (bitAt i p.2 : Int) - 1) * p.1)).foldl (· + ·) 0

/-- T[i] of a TER group, zero at offsets 27 to 31. R28. -/
def terWord (ms : List Int) (i : Nat) : Int :=
  if 27 ≤ i then 0 else (ms.zipIdx.map (fun p => ((i / 3 ^ p.2 % 3 : Nat) - 1 : Int) * p.1)).foldl (· + ·) 0

/-- T[k] of a CB8/4 group for one codeword. R30. -/
def cbWord (ms cw : List Int) : Int :=
  rneDiv ((List.zipWith (· * ·) cw ms).foldl (· + ·) 0) 5

/-- Twice the value of an E2M1 code. R33, R66. -/
def e2m1x2 (c : Nat) : Int :=
  let mag : Int := match c % 8 with
    | 0 => 0
    | 1 => 1
    | 2 => 2
    | 3 => 3
    | 4 => 4
    | 5 => 6
    | 6 => 8
    | _ => 12
  if 8 ≤ c % 16 then -mag else mag

/-- T[i] of an FP4 pair group. R33. -/
def fp4Word (ms : List Int) (i : Nat) : Int :=
  rneDiv (e2m1x2 (i % 16) * nth 0 ms 0 + e2m1x2 (i / 16) * nth 0 ms 1) 1

/-! ## The exponential (R161) -/

/-- The largest n below 2^24 with (2n − 1)^256 ≤ 2^(i + 24 × 256), bit by bit from the top. -/
def etabSearch (i : Nat) : Nat → Nat → Nat
  | 0, acc => acc
  | b + 1, acc =>
    let c := acc + 2 ^ b
    if (2 * c - 1) ^ 256 ≤ 2 ^ (i + 24 * 256) then etabSearch i b c else etabSearch i b acc

/-- etab[i] = RNE(2^(i/256)) in FP32. R161. -/
def etab (i : Nat) : FV := .fin (etabSearch i 24 0) (-23)

/-- e^x for x ≤ 0, by the procedure of R161. -/
def expT (x : W32) : W32 :=
  match f32 x with
  | .nan => nan32
  | .inf _ => 0
  | v =>
    let y := f32 (rne32 (v.mul (f32 0x3FB8AA3B)))
    if y.lt (.fin (-126) 0) then 0
    else
      let n := y.floor
      let f := y.add (FV.ofInt (-n))
      let i := (f.mul (.fin 1 8)).floor.toNat
      let r := f.add (if i = 0 then .zero false else .fin (-(i : Int)) (-8))
      let inner := f32 (rne32 ((f32 0x3F317218).add (r.mul (f32 0x3E75FDF0))))
      let c := f32 (rne32 ((FV.ofInt 1).add (f32 (rne32 (r.mul inner)))))
      let p := f32 (rne32 ((etab i).mul c))
      let out := p.mul (.fin 1 n)
      if out.lt (.fin 1 (-126)) then 0 else rne32 out

end Sys2Proof.Machine
end

