-- ==== Sys2Proof/Machine/Memory.lean ====
section
/-! DEFINITION. Checked accesses to Millpond, HBM and host memory: bank state, error counts, frame retirement and
sparing, sub-word writes and the word atomics (07, 10). -/

namespace Sys2Proof.Machine
open Sys2Proof

/-! ## Geometry -/

def hbmDie (a : Nat) : Nat := a / 0x2400000000
/-- Stack, stack block and pseudo-channel of an HBM device address. R419. -/
def hbmStack (a : Nat) : Nat := 3 * hbmDie a + a % 0x2400000000 / 4096 % 3
def hbmSblk (a : Nat) : Nat := a % 0x2400000000 / 4096 / 3
def hbmPc (a : Nat) : Nat := a % 4096 / 64
/-- Device address of a stack block. R419. -/
def hbmBlockAddr (stk sblk : Nat) : Nat := stk / 3 * 0x2400000000 + (3 * sblk + stk % 3) * 4096

/-- Bank of a Millpond offset: 0 W, 1 A, 2 O. R312. -/
def bankOf (off : Nat) : Nat := if off < 0x300000 then 0 else if off < 0x500000 then 1 else 2

/-- First offset and bytes of a bank. R312. -/
def bankRange (b : Nat) : Nat × Nat := if b = 0 then (0, 0x300000) else if b = 1 then (0x300000, 0x200000) else (0x500000, 0x100000)

/-- Sub-banks of a bank. R312. -/
def subBanks (b : Nat) : Nat := if b = 0 then 256 else if b = 1 then 32 else 16

/-- Rows of a sub-bank, without its four spare rows. R312. -/
def subRows (b : Nat) : Nat := if b = 0 then 48 else 256

/-- Bank, sub-bank and row of the word at a Millpond offset. R313. -/
def bankRow (off : Nat) : Nat × Nat × Nat :=
  let b := bankOf off
  let wi := (off - (bankRange b).1) / 32
  (b, wi % subBanks b, wi / subBanks b / 8)

/-- A sub-bank and a row that the bank has. R312. -/
def rowExists (b sub row : Nat) : Bool := decide (b < 3) && decide (sub < subBanks b) && decide (row < subRows b)

/-- The channel that holds stack block `sblk` of pseudo-channel `pc`: one of the three partners, in ascending number, once the block has
been copied off the spared member of its group. R442, R443. -/
def Stack.serving (t : Stack) (pc sblk : Nat) : Nat :=
  let q := pc / 4
  let moved := !t.sparing.contains pc || (t.sparing.head? == some pc && decide (sblk < t.copied))
  if t.spared.getLsbD q && tget 0 t.spareMember q == pc % 4 && moved then
    4 * q + nth 0 ([0, 1, 2, 3].filter (fun m => m != pc % 4)) (sblk % 3)
  else pc

/-! ## Frames, counts and events -/

/-- Raw page-map entry, as it stands in memory. -/
def rawEntry (s : State) (a : Nat) : Nat := s.num a 8

def entFrame (e : Nat) : Nat := e / 65536 * 65536

/-- A table of a page map names a page that lies in frame `f`. -/
def entMaps (e size f : Nat) : Bool :=
  e % 2 == 1 && bitsOf e 1 2 == 1 && bitsOf e 6 2 == 0 &&
  decide (entFrame e < (f + 1) * 65536) && decide (f * 65536 < entFrame e + size)

/-- Context `c` maps frame `f` in its page map. R439. -/
def ctxMaps (s : State) (f c : Nat) : Bool :=
  match tget 0 s.memb.roots c with
  | 0 => false
  | r + 1 =>
    (List.range 16384).any (fun i =>
      let e2 := rawEntry s (r + 8 * i)
      e2 % 2 == 1 && (List.range 16384).any (fun j =>
        let e1 := rawEntry s (entFrame e2 + 8 * j)
        e1 % 2 == 1 && (entMaps e1 0x200000 f ||
          (bitsOf e1 1 2 == 0 && (List.range 32).any (fun k => entMaps (rawEntry s (entFrame e1 + 8 * k)) 65536 f)))))

/-- The bound contexts that map frame `f`. -/
def frameCtxs (s : State) (f : Nat) : List Nat :=
  (s.ctxs.filter (fun c => c.2.bound && ctxMaps s f c.1)).map (fun c => c.1)

/-- Retired frames of a die. R441. -/
def retiredOf (s : State) (d : Nat) : Nat := (s.memb.retired.filter (fun f => hbmDie (f * 65536) == d)).length

/-- A frame is retired: listed, unless its die already lists 4,096, and FRAME_RETIRED is posted. R438, R439, R441. -/
def retireFrame (s : State) (f cause : Nat) : State :=
  if f ∈ s.memb.retired then s
  else
    let a := f * 65536
    let s1 := if retiredOf s (hbmDie a) < 4096 then { s with memb := { s.memb with retired := s.memb.retired ++ [f] } } else s
    postEvents s1 (frameCtxs s f)
      { code := 0x42, sev := 1, srcKind := 6, srcDie := hbmDie a, srcIndex := hbmStack a, addr := a, d0 := cause }

/-- A pseudo-channel is spared, or its stack is marked DEGRADED where its group already has another spared channel. R442, R443, R445. -/
def sparePc (s : State) (stk pc : Nat) : State :=
  let q := pc / 4
  let t := s.stack stk
  if t.spared.getLsbD q then
    postEvent (s.modStack stk (fun t => { t with degraded := true })) none
      { code := 0x41, sev := 0, srcKind := 6, srcDie := stk / 3, srcIndex := stk, d0 := pc, d1 := 1 }
  else
    s.modStack stk (fun t => { t with
      spared := t.spared ||| (1 <<< q)
      spareMember := tset 0 t.spareMember q (pc % 4)
      sparing := t.sparing ++ [pc] })

/-- The frame counts with one more error of frame `f`, the most recent first, at most 256 frames. R438. -/
def bumpFrame (cs : List (Nat × Nat)) (f : Nat) : List (Nat × Nat) :=
  let n := match cs.find? (fun c => c.1 == f) with
    | some c => c.2
    | none => 0
  ((f, n + 1) :: cs.filter (fun c => c.1 != f)).take 256

/-- A word corrected at its memory is counted there. R316, R434, R438, R442. -/
def countCe (s : State) : Place → State
  | .host _ => s
  | .mill p _ => s.modMpd p (fun m => { m with ce := satAdd 32 m.ce 1 })
  | .hbm a =>
    let stk := hbmStack a
    let pc := (s.stack stk).serving (hbmPc a) (hbmSblk a)
    let old := tget 0 (s.stack stk).pcCe pc
    let s1 := s.modStack stk (fun t => { t with
      ce := satAdd 32 t.ce 1
      pcCe := tset 0 t.pcCe pc (satAdd 32 (tget 0 t.pcCe pc) 1)
      frameCe := bumpFrame t.frameCe (a / 65536) })
    let t1 := s1.stack stk
    let n := match t1.frameCe.head? with
      | some c => c.2
      | none => 0
    let s2 := if s.memb.ceLimit ≠ 0 ∧ s.memb.ceLimit ≤ n then retireFrame s1 (a / 65536) 1 else s1
    let own := t1.spared.getLsbD (pc / 4) && tget 0 t1.spareMember (pc / 4) == pc % 4
    if s.memb.pcCeLimit ≤ tget 0 t1.pcCe pc ∧ !own ∧ (old < s.memb.pcCeLimit ∨ !t1.spared.getLsbD (pc / 4)) then sparePc s2 stk pc else s2

/-- An uncorrectable word is counted; a read or the scrubber retires its HBM frame. `src` is SRC of MEM_UE_LOG.
R317, R434, R437, R438. -/
def countUe (s : State) (pl : Place) (src : Nat) : State :=
  match pl with
  | .host _ => s
  | .mill p _ => s.modMpd p (fun m => { m with ue := satAdd 32 m.ue 1 })
  | .hbm a =>
    let s1 := s.modStack (hbmStack a) (fun t => { t with
      ue := satAdd 32 t.ue 1
      ueLog := ({ src := src, addr := a / 32 * 32 } :: t.ueLog).take 8 })
    if src = 0 ∨ src = 1 then retireFrame s1 (a / 65536) 0 else s1

/-- A bank reached by an access at tick `now`: one in retention begins to wake. R326 to R328. -/
def Bank.reach (b : Bank) (now : Nat) : Bank :=
  { st := if b.st = .retained then .waking else b.st, lastAccess := now }

/-- An access wakes a bank that is retained, and restarts its idle span. R326 to R328. -/
def touch (s : State) : Place → State
  | .mill p off =>
    let now := (s.tile p).ticks
    s.modMpd p (fun m => { m with banks := tmod {} m.banks (bankOf off) (fun b => b.reach now) })
  | _ => s

/-- A zeroing or a copy reaches `n` bytes of a tile's Millpond: the banks that they lie in. R326, R327. -/
def touchRange (s : State) (p off n : Nat) : State :=
  [0, 1, 2].foldl (fun s b =>
    let (o, k) := bankRange b
    if off < o + k ∧ o < off + n then touch s (.mill p o) else s) s

/-! ## Checked accesses -/

/-- What a checked read delivers. R316, R317, R716. -/
inductive RdSt
  | ok | marked | bad
deriving DecidableEq, Repr

/-- A write drops the pending write-back of its word. R316. -/
def dropWriteback (s : State) : Place → State
  | .mill p off => s.modMpd p (fun m => { m with writeback := m.writeback.filter (fun w => w != off / 32) })
  | _ => s

/-- A read of one word that delivers values to a unit. R315 to R317, R436, R716. -/
def readWord (s : State) (pl : Place) : State × BitVec 256 × RdSt :=
  let s0 := touch s pl
  let w := s.word pl.key
  match pl with
  | .host _ => (s0, w.1, .ok)
  | _ =>
    match classify w.2 with
    | .clean => (s0, w.1, .ok)
    | .marked => (s0, w.1, .marked)
    | .uncorrectable => (countUe s0 pl 0, w.1, .bad)
    | .correctable p sym =>
      let s1 := countCe s0 pl
      let s2 := match pl with
        | .mill t off => s1.modMpd t (fun m => { m with writeback := m.writeback ++ [off / 32] })
        | _ => s1
      (s2, correct w.1 p sym, .ok)

/-- `n` bytes within one word. -/
def readSub (s : State) (pl : Place) (n : Nat) : State × Nat × RdSt :=
  let (s1, w, st) := readWord s pl
  (s1, w.toNat / 2 ^ (8 * (pl.key % 32)) % 2 ^ (8 * n), st)

/-- The worse of two outcomes. -/
def RdSt.max : RdSt → RdSt → RdSt
  | .bad, _ => .bad
  | _, .bad => .bad
  | .marked, _ => .marked
  | _, x => x

/-- The bytes of `n` consecutive words, with the worst outcome. -/
def readWords (s : State) (pl : Place) : Nat → State × List Byte × RdSt
  | 0 => (s, [], .ok)
  | n + 1 =>
    let (s1, w, st) := readWord s pl
    let (s2, bs, st2) := readWords s1 (pl.plus 32) n
    (s2, natToBytes w.toNat 32 ++ bs, st.max st2)

/-- `n` bytes from a place, reading every word that they touch. -/
def readBytes (s : State) (pl : Place) (n : Nat) : State × List Byte × RdSt :=
  let o := pl.key % 32
  let base : Place := match pl with
    | .hbm a => .hbm (a - o)
    | .mill p f => .mill p (f - o)
    | .host a => .host (a - o)
  let (s1, bs, st) := readWords s base (ceilDiv (o + n) 32)
  (s1, (bs.drop o).take n, st)

/-- Entry `i` of a ring as its reader sees it: every word is checked, and a reserved address answers no good data. R418, R436. -/
def ringEntry (s : State) (r : Ring) (i : Nat) : State × List Byte × RdSt :=
  match s.entryPlace r i with
  | none => (s, List.replicate (32 * r.entryUnits) 0, .bad)
  | some pl => readBytes s pl (32 * r.entryUnits)

/-- The record at the head of a ring. -/
def headRecord (s : State) (r : Nat) : State × List Byte × RdSt := ringEntry s (s.ring r) (s.ring r).c0.toNat

/-- A word of `d` with `n` bytes at byte `o` replaced. -/
def mergeWord (d : BitVec 256) (o n v : Nat) : BitVec 256 :=
  let bs := natToBytes d.toNat 32
  BitVec.ofNat 256 (bytesToNat (bs.take o ++ natToBytes v n ++ bs.drop (o + n)))

/-- The word `d` with the bits of `mask` taken from `v`. -/
def maskWord (d mask v : BitVec 256) : BitVec 256 := (d &&& ~~~mask) ||| (v &&& mask)

/-- A read-modify-write of the bits of `mask` in one word: made, or not made at an uncorrectable word. R314, R317, R435, R716. -/
def writeMask (s : State) (pl : Place) (mask v : BitVec 256) : State × Flt :=
  let s0 := dropWriteback (touch s pl) pl
  let w := s.word pl.key
  match pl with
  | .host _ => (s.setNum (pl.key / 32 * 32) 32 (maskWord w.1 mask v).toNat, .none)
  | _ =>
    match classify w.2 with
    | .clean => (s0.setWord pl.key (maskWord w.1 mask v, 0), .none)
    | .marked => (s0.setWord pl.key (maskWord w.1 mask v, kMark), .none)
    | .correctable p sym => ((countCe s0 pl).setWord pl.key (maskWord (correct w.1 p sym) mask v, 0), .none)
    | .uncorrectable => (countUe (touch s pl) pl 0, .eccUncorrectable)

/-- Bits of `n` bytes at byte `o` of a word. -/
def byteMask (o n : Nat) : BitVec 256 := BitVec.ofNat 256 ((2 ^ (8 * n) - 1) * 2 ^ (8 * o))

/-- A write of `n` bytes within one word. R314, R317, R716. -/
def writeSub (s : State) (pl : Place) (n v : Nat) : State × Flt :=
  writeMask s pl (byteMask (pl.key % 32) n) (BitVec.ofNat 256 (v * 2 ^ (8 * (pl.key % 32))))

/-- A full-word write by a unit of the device: stored as delivered, with its check bits. R314. -/
def writeWord (s : State) (pl : Place) (w : Word288) : State :=
  match pl with
  | .host a => s.setNum (hostKey a) 32 w.1.toNat
  | _ => (dropWriteback (touch s pl) pl).setWord pl.key w

/-- Full words with fresh check bits. -/
def writeWords (s : State) (pl : Place) : List (BitVec 256) → State
  | [] => s
  | w :: ws => writeWords (writeWord s pl (w, 0)) (pl.plus 32) ws

/-- Bytes written by a unit over at most `k` words: full words whole, parts of words as sub-word writes. R314. -/
def writeSpan (s : State) (pl : Place) (bs : List Byte) : Nat → State × Flt
  | 0 => (s, .none)
  | k + 1 =>
    if bs.isEmpty then (s, .none)
    else
      let n := min bs.length (32 - pl.key % 32)
      let v := bytesToNat (bs.take n)
      let (s1, f) := if n = 32 then (writeWord s pl (BitVec.ofNat 256 v, 0), Flt.none) else writeSub s pl n v
      let (s2, g) := writeSpan s1 (pl.plus n) (bs.drop n) k
      (s2, if f = .none then g else f)

/-- Bytes written by a unit. -/
def writeBytes (s : State) (pl : Place) (bs : List Byte) : State × Flt := writeSpan s pl bs (bs.length / 32 + 2)

/-- The destination check of an arriving word. R434, R717: answers the state and whether the word was refused. -/
def arriveWord (s : State) (pl : Place) (w : Word288) : State × Bool :=
  match classify w.2 with
  | .clean => (writeWord s pl w, true)
  | .marked => (writeWord s pl w, true)
  | .correctable p sym =>
    let s1 := match pl with
      | .host _ => s
      | _ => countCe s pl
    (writeWord s1 pl (correct w.1 p sym, 0), true)
  | .uncorrectable => (countUe s pl 3, false)


/-- Owner of the Millpond block of a place: context + 1, 0 for FREE; places elsewhere have none. R191. -/
def ownerOf (s : State) (p off : Nat) : Nat := tget 0 s.owner (1536 * p + off / 4096)

/-- The owner-tag check. R194. -/
def owned (s : State) (ctx : Nat) : Place → Bool
  | .mill p off => ownerOf s p off == ctx + 1
  | _ => true

/-! ## Word atomics (R324, R325, R435) -/

/-- Width in bytes of an atomic's operand. R324. -/
def AtomKind.width : AtomKind → Nat
  | .addI32 | .addF32 | .swap32 | .arrive | .sluiceReset => 4
  | .addP64 | .swap64 => 8
  | .swap256 | .addP64x4 => 32
  | .store n => n

/-- The new value of a 32- or 64-bit atomic. R324, R298, R74. -/
def atomNew (k : AtomKind) (old : Nat) (opd : W64) : Nat :=
  match k with
  | .addI32 => (BitVec.ofNat 32 old + opd.setWidth 32).toNat
  | .addF32 => (fadd32Sat (BitVec.ofNat 32 old) (opd.setWidth 32)).toNat
  | .addP64 => (p64Add (BitVec.ofNat 64 old) opd).toNat
  | .swap32 => (opd.setWidth 32).toNat
  | _ => opd.toNat

/-- Poison of an atomic on a word that holds no good data: an FP32 add stores the canonical NaN, a P64 add stores
poison, any other is not made. R317, R716. -/
def atomPoison : AtomKind → Option Nat
  | .addF32 => some nan32.toNat
  | .addP64 => some P64.poison.bits.toNat
  | _ => none

/-- A 32- or 64-bit atomic at a word: state, old value, and `ok` where it is made, else what the word was. The old value that
a requester reads from a bad word is not stated, so it is a free value. R324, R317, R716. -/
def atomApply (s : State) (pl : Place) (k : AtomKind) (opd : W64) : State × W64 × RdSt :=
  let n := k.width
  let o := pl.key % 32
  let put (s : State) (d : BitVec 256) (v : Nat) : State := writeWord s pl (mergeWord d o n v, 0)
  let (s1, d, st) := readWord s pl
  let old := d.toNat / 2 ^ (8 * o) % 2 ^ (8 * n)
  match st with
  | .ok => (put s1 d (atomNew k old opd), BitVec.ofNat 64 old, .ok)
  | _ =>
    match atomPoison k with
    | some v =>
      let (s2, i) := s1.takeFree
      (put s2 d v, Config.freeWord i, .ok)
    | none => (s1, 0, st)

/-- The four lanes of an ADD_P64X4. R324. -/
def p64x4 (d v : BitVec 256) : BitVec 256 :=
  p64Add (d.extractLsb' 192 64) (v.extractLsb' 192 64) ++ p64Add (d.extractLsb' 128 64) (v.extractLsb' 128 64) ++
  p64Add (d.extractLsb' 64 64) (v.extractLsb' 64 64) ++ p64Add (d.extractLsb' 0 64) (v.extractLsb' 0 64)

/-- A four-lane P64 add at a word; a bad word takes poison in every lane. R324, R317, R716. -/
def atomP64x4 (s : State) (pl : Place) (v : BitVec 256) : State :=
  let (s1, d, st) := readWord s pl
  let p := P64.poison.bits
  match st with
  | .ok => writeWord s1 pl (p64x4 d v, 0)
  | _ => writeWord s1 pl (p ++ p ++ p ++ p, 0)

/-- A 256-bit swap moves the words with the check bits that they carried. R325, R317. -/
def atomSwap256 (s : State) (pl : Place) (w : Word288) : State × Word288 :=
  let old := s.word pl.key
  let (s1, d, st) := readWord s pl
  let out : Word288 := match st with
    | .ok => (d, 0)
    | _ => old
  (writeWord s1 pl w, out)

end Sys2Proof.Machine
end

