-- ==== Sys2Proof/Machine/Operands.lean ====
section
/-! DEFINITION. Operand forms: Millpond addresses and regions (05), context-virtual addresses and the page walk (10),
global addresses and fabric rights (11), and the requests that a unit sends. -/

namespace Sys2Proof.Machine
open Sys2Proof

/-! ## Page maps (R420 to R425, R428) -/

/-- Outcome of a translation. -/
inductive XR
  | ok (tier addr : Nat)
  | absent
  | fenced
  | ecc
deriving DecidableEq, Repr

/-- A valid entry with a reserved bit or code. R424. -/
def entReserved (e : Nat) : Bool :=
  bitsOf e 8 8 != 0 || bitsOf e 3 1 != 0 || bitsOf e 6 2 == 3 || decide (2 ≤ bitsOf e 1 2)

/-- A table entry that its level allows: TYPE table, no TIER, EXEC or WRITE, and its table of `n` bytes in HBM. R424. -/
def tableOk (e n : Nat) : Bool :=
  bitsOf e 1 2 == 0 && bitsOf e 4 4 == 0 && decide (entFrame e + n ≤ hbmEnd)

/-- A page of `size` bytes that R424 allows. -/
def pageOk (e size : Nat) : Bool :=
  let f := entFrame e
  match bitsOf e 6 2 with
  | 0 => f % size == 0 && (decide (f + size ≤ hbmEnd) || (decide (0x100000000000 ≤ f) && decide (f + size ≤ 0x100060000000)))
  | 1 => f % size == 0 && decide (2 ^ 63 ≤ f)
  | _ => f % size == 0

/-- An entry lies in the range of an invalidation under way. R428. -/
def invalCovers (m : MemBlk) (ctx level idx : Nat) : Bool :=
  m.invCtx == ctx && (m.invAll ||
    (let lo := m.invVpage + (if m.invHi then 2 ^ 32 else 0)
     let hi := lo + m.invCount - 1
     let sh := if level = 0 then 1 else if level = 1 then 32 else 524288
     decide (0 < m.invCount) && decide (lo / sh ≤ idx) && decide (idx ≤ hi / sh)))

/-- A page-map entry: from the cache, or read from memory and cached when valid. None when its word is
uncorrectable or marked. R428, R436. -/
def readEntry (s : State) (ctx level idx a : Nat) : State × Option Nat :=
  let live := s.memb.invBusy && invalCovers s.memb ctx level idx
  match s.memb.xlat.find? (fun x => x.ctx == ctx && x.level == level && x.idx == idx && !live) with
  | some x => (s, some x.entry)
  | none =>
    let (s1, e, st) := readSub s (.hbm a) 8
    match st with
    | .ok =>
      if e % 2 = 1 ∧ !live then
        ({ s1 with memb := { s1.memb with xlat := s1.memb.xlat ++ [{ ctx := ctx, level := level, idx := idx, entry := e }] } },
          some e)
      else (s1, some e)
    | _ => (s1, none)

/-- The page that an entry names, with the checks of R424 and R425. -/
def pageResult (e size off : Nat) (write exec : Bool) : XR :=
  if !pageOk e size then .fenced
  else if write && bitsOf e 4 1 == 0 then .fenced
  else if exec && bitsOf e 5 1 == 0 then .fenced
  else .ok (bitsOf e 6 2) (entFrame e + off)

/-- The walk. R423 to R425, R436. -/
def translate (s : State) (ctx va : Nat) (write exec : Bool) : State × XR :=
  if 2 ^ 49 ≤ va then (s, .fenced)
  else match tget 0 s.memb.roots ctx with
  | 0 => (s, .absent)
  | root + 1 =>
    match readEntry s ctx 2 (va / 2 ^ 35) (root + 8 * (va / 2 ^ 35)) with
    | (s1, none) => (s1, .ecc)
    | (s1, some e2) =>
      if e2 % 2 = 0 then (s1, .absent)
      else if entReserved e2 || !tableOk e2 0x20000 then (s1, .fenced)
      else match readEntry s1 ctx 1 (va / 2 ^ 21) (entFrame e2 + 8 * bitsOf va 21 14) with
      | (s2, none) => (s2, .ecc)
      | (s2, some e1) =>
        if e1 % 2 = 0 then (s2, .absent)
        else if entReserved e1 then (s2, .fenced)
        else if bitsOf e1 1 2 = 1 then (s2, pageResult e1 0x200000 (va % 0x200000) write exec)
        else if !tableOk e1 256 then (s2, .fenced)
        else match readEntry s2 ctx 0 (va / 65536) (entFrame e1 + 8 * bitsOf va 16 5) with
        | (s3, none) => (s3, .ecc)
        | (s3, some e0) =>
          if e0 % 2 = 0 then (s3, .absent)
          else if entReserved e0 || bitsOf e0 1 2 != 1 then (s3, .fenced)
          else (s3, pageResult e0 65536 (va % 65536) write exec)

/-! ## Fabric rights (R474 to R477) -/

/-- Words of a rights table or a group entry, checked where they are read: a word that holds no good data reads as zero, and so
grants nothing. R436. -/
def peekWords (s : State) (a : Nat) : Nat → State × List Byte
  | 0 => (s, [])
  | n + 1 =>
    let (s1, d, st) := readWord s (.hbm a)
    let (s2, bs) := peekWords s1 (a + 32) n
    (s2, natToBytes (if st = .ok then d.toNat else 0) 32 ++ bs)

/-- PERM bits. R474. -/
def permRead : Nat := 0
def permWrite : Nat := 1
def permAtomic : Nat := 2
def permSluice : Nat := 3

/-- The rights table of a context, from the cache or from memory. R474, R479. -/
def rightsTable (s : State) (ctx : Nat) : State × List Byte :=
  match s.hdr.rightsCache.find? (fun x => x.1 == ctx) with
  | some x => (s, x.2)
  | none =>
    let (s1, bs) := peekWords s (s.hdr.rightsBase + 512 * ctx) 16
    ({ s1 with hdr := { s1.hdr with rightsCache := s1.hdr.rightsCache ++ [(ctx, bs)] } }, bs)

/-- The entry of a group, from the cache or from memory. R476, R479. -/
def groupEntry (s : State) (g : Nat) : State × List Byte :=
  match s.hdr.groupCache.find? (fun x => x.1 == g) with
  | some x => (s, x.2)
  | none =>
    let (s1, bs) := peekWords s (s.hdr.groupBase + 256 * g) 8
    ({ s1 with hdr := { s1.hdr with groupCache := s1.hdr.groupCache ++ [(g, bs)] } }, bs)

/-- A rights entry that covers an access of `n` bytes at `off`, or an arrival when `n` is zero. R475. -/
def rightsEntryOk (e : List Byte) (dev perm off n : Nat) : Bool :=
  fieldAt e 0 1 % 2 == 1 && (fieldAt e 1 1).testBit perm &&
  decide (fieldAt e 4 2 ≤ dev) && decide (dev ≤ fieldAt e 6 2) &&
  (n == 0 || (decide (fieldAt e 8 4 ≤ off / 65536) && decide ((off + n - 1) / 65536 < fieldAt e 12 4)))

/-- GROUP of the lowest-numbered entry that qualifies. R475. -/
def rightsGroup (bs : List Byte) (dev perm off n : Nat) : Option Nat :=
  match findFrom (fun i => rightsEntryOk ((bs.drop (16 * i)).take 16) dev perm off n) 0 32 with
  | none => none
  | some i => some (fieldAt bs (16 * i + 2) 2)

/-- An export window that holds every byte and grants the permission. R476, R477. -/
def exportOk (e : List Byte) (perm off n : Nat) : Bool :=
  (List.range (min 6 (fieldAt e 6 1))).any (fun i =>
    let o := 32 + 16 * i
    decide (fieldAt e o 4 ≤ off / 65536) && decide ((off + n - 1) / 65536 < fieldAt e (o + 4) 4) &&
    (fieldAt e (o + 8) 1).testBit perm)

/-- A device is a member of a group entry. R476. -/
def groupMember (e : List Byte) (dev : Nat) : Bool :=
  decide (fieldAt e 12 2 ≤ dev) && decide (dev < fieldAt e 12 2 + 1024) &&
  (fieldAt e 128 128).testBit (dev - fieldAt e 12 2)

/-- `n` bytes of Millpond that other devices may reach: no PRIVATE or SET region of the run that holds the tile covers one of them. R190. -/
def scopeOk (s : State) (n : Nat) : Place → Bool
  | .mill p off => match (s.logOf p).bind s.runOf with
    | none => true
    | some r => r.phase == .ended || r.regions.all (fun g => g.scope == 2 || decide (off + n ≤ g.base) || decide (g.base + g.size ≤ off))
  | _ => true

/-- The target's checks: LOCAL_CTX of the group when every check passes. With `n` zero the access is an arrival at sluice
number `off`. R190, R477. -/
def groupCheck (s : State) (src group perm off n : Nat) : State × Option Nat :=
  if s.hdr.groupLimit ≤ group then (s, none)
  else
    let (s1, e) := groupEntry s group
    let c := fieldAt e 8 2 % 4096
    if fieldAt e 0 1 % 2 = 1 ∧ groupMember e src ∧ (s1.ctx c).bound then
      if n = 0 then (s1, if off < (s1.ctx c).bind.sltCount then some c else none)
      else match locate s1 off with
        | none => (s1, none)
        | some pl => (s1, if exportOk e perm off n && owned s1 c pl && (src == s.hdr.devnum || scopeOk s1 n pl) then some c else none)
    else (s1, none)

def bumpHdr (s : State) (i : Nat) : State :=
  { s with hdr := { s.hdr with cnt := tset 0 s.hdr.cnt i (satAdd 64 (tget 0 s.hdr.cnt i) 1) } }

/-- Present in the map held. R462. -/
def inMap (s : State) (dev : Nat) : Bool :=
  s.hdr.fabSt != .fenced && (tget 0 s.hdr.map (dev / 32)).getLsbD (dev % 32)

/-- What a global address reaches for a context: this device's own memory for the context named by the group,
another device under a group, or nothing. R461, R462, R475, R477. -/
inductive GTarget
  | fenced
  | here (ctx : Nat) (off : Nat)
  | remote (dev group off : Nat)
deriving DecidableEq, Repr

/-- The device number of a global address. R460. -/
def gDev (a : Nat) : Nat := bitsOf a 49 14
def gOff (a : Nat) : Nat := a % 2 ^ 49

/-- The global address of an offset on a device. R460. -/
def gAddr (dev off : Nat) : W64 := BitVec.ofNat 64 (2 ^ 63 + dev * 2 ^ 49 + off)

/-- Source checks of an access of `n` bytes, and for this device's own number the target's checks as well. -/
def resolveGlobal (s : State) (ctx a perm n : Nat) : State × GTarget :=
  let dev := gDev a
  let own := s.hdr.devValid && dev == s.hdr.devnum
  if !own && !inMap s dev then (bumpHdr s 0, .fenced)
  else
    let (s1, bs) := rightsTable s ctx
    let off := if n = 0 then a % 65536 else gOff a
    match rightsGroup bs dev perm (gOff a) n with
    | none => (bumpHdr s1 0, .fenced)
    | some g =>
      if own then
        match groupCheck s1 dev g perm off n with
        | (s2, none) => (bumpHdr s2 1, .fenced)
        | (s2, some c) => (s2, .here c off)
      else (s1, .remote dev g off)

/-! ## Requests sent (R463 to R469) -/


/-- A tag that no outstanding request holds. -/
def freeTag (s : State) : Nat :=
  match findFrom (fun t => !s.hdr.outst.any (fun o => o.tag == t % 65536)) s.hdr.nextTag 65536 with
  | some t => t % 65536
  | none => s.hdr.nextTag % 65536

/-- The next OSEQ to a device and class, and the counters past it. R469. -/
def nextOseq (os : List Order) (dev oclass : Nat) : Nat × List Order :=
  match os.find? (fun o => o.dev == dev && o.oclass == oclass) with
  | some o => (o.next, mapWhere (fun o => o.dev == dev && o.oclass == oclass) (fun o => { o with next := (o.next + 1) % 65536 }) os)
  | none => (0, os ++ [{ dev := dev, oclass := oclass, next := 1 }])

/-- A request queued for sending, with its requester. R463, R467, R469. -/
def sendReq (s : State) (dev group oclass op len : Nat) (addr operand : W64) (data : List Word288) (who : Requester) : State :=
  let tag := freeTag s
  let (oseq, os) := nextOseq s.hdr.txOrder dev oclass
  let pkt : Packet := { operand := operand, resp := false, status := 0, len := len, op := op, dst := dev, src := s.hdr.devnum,
                        oclass := oclass, oseq := oseq, tag := tag, group := group, addr := addr, data := data }
  { s with hdr := { s.hdr with
      nextTag := (tag + 1) % 65536
      txOrder := os
      sendQ := s.hdr.sendQ ++ [pkt]
      outst := s.hdr.outst ++ [{ tag := tag, pkt := pkt, who := who, since := s.hdr.ticks0, since1 := s.hdr.ticks1 }] } }

/-- The request sent last was made by service firmware for a context. R258. -/
def State.requestFor (s : State) (ctx : Nat) : State :=
  { s with hdr := { s.hdr with outst := modAt (fun o => { o with ctx := some ctx }) s.hdr.outst (s.hdr.outst.length - 1) } }

/-! ## Millpond addresses (05) -/

/-- A Millpond address: tile index in the set, or none for the own tile, and offset. -/
structure MpAddr where
  set : Option Nat
  off : Nat
deriving DecidableEq, Repr

/-- The Millpond form: reserved bits zero, TIDX zero when SET is 0. -/
def mpDecode (a : Nat) : Option MpAddr :=
  if 2 ^ 32 ≤ a then none
  else if bitsOf a 31 1 ≠ 0 ∨ bitsOf a 29 1 ≠ 0 then none
  else if bitsOf a 30 1 = 0 then (if bitsOf a 23 6 = 0 then some { set := none, off := a % 0x800000 } else none)
  else some { set := some (bitsOf a 23 6), off := a % 0x800000 }

/-- The device logical tile that a Millpond address names for tile `l` of a run; none beyond the set. -/
def mpTile (r : Run) (l : Nat) (m : MpAddr) : Option Nat :=
  match m.set with
  | none => some l
  | some i => if i < r.rr.tileList.length then some (nth 0 r.rr.tileList i) else none

/-- How far regions that follow on one another cover the bytes from `lo` on. -/
def coverFrom (gs : List Region) : Nat → Nat → Nat
  | 0, lo => lo
  | n + 1, lo =>
    match gs.find? (fun g => decide (g.base ≤ lo) && decide (lo < g.base + g.size)) with
    | some g => coverFrom gs n (g.base + g.size)
    | none => lo

/-- Every byte lies in a region of the run, for the tile itself or for another tile of the set; regions may adjoin. R189, R190, R255. -/
def regionOk (r : Run) (own write : Bool) (off n : Nat) : Bool :=
  let gs := r.regions.filter (fun g => (!write || g.rw) && (own || g.scope != 0))
  decide (off + n ≤ coverFrom gs gs.length off)

/-- Every block of a range is owned by the context. R194. -/
def rangeOwned (s : State) (ctx p off n : Nat) : Bool :=
  n == 0 || (List.range ((off + n - 1) / 4096 - off / 4096 + 1)).all (fun i => ownerOf s p (off + 4096 * i) == ctx + 1)

/-- A range of the tile's own Millpond that an instruction or descriptor names: FENCED outside the run's regions or
owned by another context. R194, R255, R718. -/
def ownRange (s : State) (r : Run) (l : Nat) (write : Bool) (off n : Nat) : Flt :=
  if n = 0 then .none
  else if !regionOk r true write off n then .fenced
  else if !rangeOwned s r.rr.ctx (s.phys l) off n then .fenced
  else .none

/-- The offset of an own-tile Millpond address; SET naming the tile itself is the tile itself. -/
def ownOff (r : Run) (l a : Nat) : Option Nat :=
  match mpDecode a with
  | none => none
  | some m => if mpTile r l m = some l then some m.off else none

/-- A Millpond address with the tile's own offset in place of any form that names the tile itself. -/
def mpNorm (r : Run) (l a : Nat) : Option Nat :=
  match mpDecode a with
  | none => none
  | some m => match mpTile r l m with
    | none => none
    | some t => some (if t = l then m.off else a)

/-- The logical tile and offset of a Millpond address. -/
def mpTarget (r : Run) (l a : Nat) : Option (Nat × Nat) :=
  match mpDecode a with
  | none => none
  | some m => (mpTile r l m).map (fun t => (t, m.off))

/-- The place of a Millpond address of a run. -/
def mpPlace (s : State) (r : Run) (l a : Nat) : Option Place := (mpTarget r l a).map (fun x => .mill (s.phys x.1) x.2)

/-- `n` bytes at a Millpond address: a wrong form, or a tile beyond the set, is OPERAND_INVALID; FENCED outside the regions or
where the block belongs to another context. R190, R194, R255. -/
def mpRange (s : State) (r : Run) (l a : Nat) (write : Bool) (n : Nat) : Flt :=
  match mpTarget r l a with
  | none => .operandInvalid
  | some (t, off) =>
    if n = 0 then .none
    else if !regionOk r (t == l) write off n then .fenced
    else if !rangeOwned s r.rr.ctx (s.phys t) off n then .fenced
    else .none

/-- A range lies wholly in one bank, 0 W, 1 A, 2 O. R312. -/
def inBank (bank off n : Nat) : Bool :=
  let lo := if bank = 0 then 0 else if bank = 1 then 0x300000 else 0x500000
  let hi := if bank = 0 then 0x300000 else if bank = 1 then 0x500000 else 0x600000
  decide (lo ≤ off) && decide (off + n ≤ hi)

/-- The first fault of a list of checks, in order. R718. -/
def firstFlt : List Flt → Flt
  | [] => .none
  | .none :: fs => firstFlt fs
  | f :: _ => f

/-- A check that raises `f` when `b` holds. -/
def faultIf (b : Bool) (f : Flt) : Flt := if b then f else .none

/-! ## Addresses of a context (R420, R426, R435, R439) -/

/-- What an address of an operation done for a context reaches. -/
inductive CA
  | flt (f : Flt)
  | here (pl : Place)
  | remote (dev group off : Nat)
deriving DecidableEq, Repr

/-- A place of this device for a context: owner tags (R194), and for a write the retired list (R439). -/
def placeFor (s : State) (ctx : Nat) (write : Bool) (a : Nat) : CA :=
  match locate s a with
  | none => .flt .fenced
  | some pl => if !owned s ctx pl || (write && frameRetired s pl) then .flt .fenced else .here pl

/-- A global address of a context. R426, R461. -/
def globalAddr (s : State) (ctx a perm n : Nat) : State × CA :=
  match resolveGlobal s ctx a perm n with
  | (s1, .fenced) => (s1, .flt .fenced)
  | (s1, .here c off) => (s1, placeFor s1 c (perm != permRead) off)
  | (s1, .remote d g off) => (s1, .remote d g off)

/-- A device or global address of a context, for `n` bytes within one word. R420, R425, R426. -/
def ctxAddr (s : State) (ctx a perm n : Nat) (exec : Bool) : State × CA :=
  if 2 ^ 63 ≤ a then globalAddr s ctx a perm n
  else match translate s ctx a (perm != permRead) exec with
    | (s1, .ok 0 d) => (s1, placeFor s1 ctx (perm != permRead) d)
    | (s1, .ok 1 d) => globalAddr s1 ctx d perm n
    | (s1, .ok _ d) => (s1, .here (.host d))
    | (s1, .absent) => (s1, .flt .pageAbsent)
    | (s1, .fenced) => (s1, .flt .fenced)
    | (s1, .ecc) => (s1, .flt .eccUncorrectable)

/-! ## Generations and references (R211 to R213) -/

/-- The entry of a slot that holds a generation: false 0, true 1. -/
def GSlot.entryOf (g : GSlot) (gen : Nat) : Option Bool :=
  if g.e0.valid && g.e0.gen == gen then some false
  else if g.e1.valid && g.e1.gen == gen then some true
  else none

def GSlot.entry (g : GSlot) (e : Bool) : GGen := if e then g.e1 else g.e0

def GSlot.modEntry (g : GSlot) (e : Bool) (f : GGen → GGen) : GSlot :=
  if e then { g with e1 := f g.e1 } else { g with e0 := f g.e0 }

/-- A generation is the target of an install issued earlier. -/
def GSlot.installing (g : GSlot) (gen : Nat) : Bool := g.installs.any (fun i => i.gen == gen)

/-- A reference taken on a generation that is resident, or on the install that brings it. R211, R213. -/
def gtake (s : State) (slot gen : Nat) : State :=
  s.modGSlot slot (fun g =>
    match g.entryOf gen with
    | some e => g.modEntry e (fun x => { x with refs := x.refs + 1 })
    | none => { g with installs := mapWhere (fun i => i.gen == gen) (fun i => { i with refs := i.refs + 1 }) g.installs })

/-- A reference returned. R211. -/
def gdrop (s : State) (slot gen : Nat) : State :=
  s.modGSlot slot (fun g =>
    match g.entryOf gen with
    | some e => g.modEntry e (fun x => { x with refs := x.refs - 1 })
    | none => { g with installs := mapWhere (fun i => i.gen == gen) (fun i => { i with refs := i.refs - 1 }) g.installs })

def takeRefs (s : State) (rs : List GRef) : State := rs.foldl (fun s r => gtake s r.slot r.gen) s
def dropRefs (s : State) (rs : List GRef) : State := rs.foldl (fun s r => gdrop s r.slot r.gen) s

end Sys2Proof.Machine
end

