-- ==== Sys2Proof/Machine/Ports.lean ====
section
/-! DEFINITION. The ports of Headrace (11, R446 to R459, R472): flits, acknowledgements and credits, training, going DOWN, and the
choice of a port for a packet. Crossings that stop (16, R623 to R630). -/

namespace Sys2Proof.Machine
open Sys2Proof

/-! ## Crossings (R623 to R630) -/

/-- Numbers of the crossings: PCIe, one for each stack, one for each port, the management controller, one for each link of a mill die. -/
def xPcie : Nat := 0
def xStack (i : Nat) : Nat := 1 + i
def xPort (p : Nat) : Nat := 13 + p
def xMgt : Nat := 29
def xLink (l : Nat) : Nat := 30 + l

def State.crossing (s : State) (x : Nat) : Crossing := tget {} s.crossings x
def State.modCrossing (s : State) (x : Nat) (f : Crossing → Crossing) : State :=
  { s with crossings := tset {} s.crossings x (f (s.crossing x)) }

/-- The clock of a crossing's clocked side has stopped: it delivers nothing until the clock returns. R627. -/
def stopped (s : State) (x : Nat) : Bool := (s.crossing x).stopped

/-- An access by a unit of mill die `d` blocks at a crossing whose clock has stopped: that of the stack, or of the die's link and of PCIe
for host memory. R627, R628. -/
def barred (s : State) (d : Nat) (pl : Place) : Bool :=
  match pl with
  | .hbm a => stopped s (xStack (hbmStack a))
  | .host _ => stopped s (xLink d) || stopped s xPcie
  | .mill _ _ => false

/-- The same for an address as a context reaches it: a request to another device passes the die's link. R627, R628. -/
def barredAt (s : State) (d : Nat) (ca : CA) : Bool :=
  match ca with
  | .here pl => barred s d pl
  | .remote _ _ _ => stopped s (xLink d)
  | .flt _ => false

/-- A reset of a crossing's group. R629, R630. -/
def resetGroup (s : State) (x : Nat) : State := s.modCrossing x (fun c => { c with resets := c.resets + 1 })

/-- R627. -/
def execCrossingClockStop (x : Nat) (s : State) : Host.Outcome State Fault Refusal :=
  .next (if x < 34 then s.modCrossing x (fun c => { c with stopped := true }) else s)

/-- R627. -/
def execCrossingClockReturn (x : Nat) (s : State) : Host.Outcome State Fault Refusal :=
  .next (if x < 34 then s.modCrossing x (fun c => { c with stopped := false }) else s)

/-! ## Going DOWN (R455, R472, R630) -/

/-- Packets of which a port has not seen the last flit acknowledged. R472. -/
def Port.unseen (q : Port) : List Packet := q.unacked.filterMap (fun u => u.packet)

/-- The HDR group of a port is reset: its flits are discarded, and its unacknowledged packets are sent again over other ports. R472, R630. -/
def resetPort (s : State) (p : Nat) : State :=
  let s1 := resetGroup s (xPort p)
  ({ s1 with hdr := { s1.hdr with sendQ := (s.port p).unseen ++ s1.hdr.sendQ } }).modPort p (fun q =>
    { q with txSeq := 0, rxSeq := 0, unacked := [], naks := 0, nakSeq := 0, sendNak := false, credit := [],
             lanesOk := 0, idDone := false })

/-- A port goes DOWN and is retrained. R455. -/
def portDown (s : State) (p cause : Nat) : State :=
  let q := s.port p
  if q.unit.st ≠ .on ∨ q.link = .down then s
  else
    let s1 := (resetPort s p).modPort p (fun x =>
      { x with link := .training, downs := if q.link = .up then satAdd 64 x.downs 1 else x.downs })
    postEvent s1 none { code := 0x50, sev := 1, srcKind := 5, srcDie := 4 + p / 8, srcIndex := p, d0 := cause }

/-- R455. -/
def execLaneAlignmentLoss (port : Nat) (s : State) : Host.Outcome State Fault Refusal :=
  .next (if port < 16 ∧ (s.port port).link ≠ .training then portDown s port 1
    else if port < 16 then s.modPort port (fun q => { q with lanesOk := 0, idDone := false }) else s)

/-- R455. -/
def execPortSilence (port : Nat) (s : State) : Host.Outcome State Fault Refusal :=
  .next (if port < 16 ∧ (s.port port).link ≠ .training then portDown s port 2 else s)

/-! ## Training (R448, R456, R457) -/

/-- R448, R456. -/
def execLaneAlignment (port : Nat) (lanes : BitVec 8) (s : State) : Host.Outcome State Fault Refusal :=
  .next (if port < 16 ∧ (s.port port).link = .training ∧ (s.port port).unit.st = .on then
      s.modPort port (fun q => { q with lanesOk := lanes })
    else s)

/-- A port whose eight lanes are aligned. R456. -/
def aligned (s : State) (p : Nat) : Bool :=
  decide (p < 16) && (s.port p).link == .training && (s.port p).lanesOk == 0xFF && (s.port p).unit.st == .on

/-- R456: a wrong plane leaves the port MISWIRED. -/
def execPortId (port : Nat) (switchId : BitVec 16) (switchPort : BitVec 8) (plane : BitVec 4) (s : State) :
    Host.Outcome State Fault Refusal :=
  .next (if aligned s port then
      s.modPort port (fun q => { q with switchId := switchId, switchPort := switchPort, plane := plane.toNat, idDone := true,
                                        link := if plane.toNat = port then q.link else .miswired })
    else s)

/-- A port that carries enumeration messages is UP. R483. -/
def enumPortUp (s : State) : Bool := (s.port 0).link == .up || (s.port 1).link == .up

/-- R456, R457: with its credit the port is UP; enumeration follows once port 0 or 1 is. -/
def execCreditInit (port : Nat) (s : State) : Host.Outcome State Fault Refusal :=
  .next (if aligned s port && (s.port port).idDone then
      let s1 := s.modPort port (fun q => { q with link := .up, credit := [(0, 768), (1, 768), (2, 768), (3, 768), (4, 1536)] })
      (if s1.hdr.fabSt = .training ∧ enumPortUp s1 then { s1 with hdr := { s1.hdr with fabSt := .enumerating } } else s1)
    else s)

/-! ## Flits (R451 to R454) -/

/-- Flits that an acknowledgement does not cover. R454. -/
def Port.after (q : Port) (ack : Nat) : List SentFlit :=
  q.unacked.filter (fun u => decide (1024 ≤ (ack + 2048 - u.seq % 2048) % 2048))

/-- A DATA flit whose slots are all empty: it carries the next SEQ without consuming it. R452. -/
def idleFlit (f : FlitIn) : Bool := f.ftype == 0 && f.kind == 0

/-- The port that carries CTRL flits: 0, or 1 while port 0 is not UP; none while neither is. R483. -/
def ctrlPort (s : State) : Option Nat :=
  if (s.port 0).link = .up then some 0 else if (s.port 1).link = .up then some 1 else none

/-- A CTRL flit takes the next SEQ of its port and is kept like every other flit. R451, R454. -/
def Port.sendCtrl (q : Port) (m : CtrlMsg) : Port :=
  { q with unacked := q.unacked ++ [{ seq := q.txSeq % 2048, ftype := 2, ctrl := some m }], txSeq := (q.txSeq + 1) % 2048 }

/-- An enumeration message leaves on a port. R454, R483. -/
def ctrlOut (s : State) (p : Nat) (m : CtrlMsg) : State :=
  ({ s with hdr := { s.hdr with ctrl := s.hdr.ctrl ++ [m] } }).modPort p (fun q => q.sendCtrl m)

/-- The oldest enumeration message that waits for room leaves. R454. -/
def ctrlNext (s : State) : State :=
  match s.hdr.ctrlQ, ctrlPort s with
  | m :: ms, some p => if (s.port p).unacked.length < 1024 then ctrlOut { s with hdr := { s.hdr with ctrlQ := ms } } p m else s
  | _, _ => s

/-- An accepted flit: sequence, acknowledgement, credit and replay. R451, R453, R454, R457. -/
def Port.accept (q : Port) (f : FlitIn) : Port :=
  let left := q.after (f.ack % 2048)
  let again := (f.ack + 1) % 2048
  { q with
    rxSeq := if idleFlit f then q.rxSeq else (q.rxSeq + 1) % 2048
    sendNak := false
    unacked := left
    replayed := if f.nak then satAdd 64 q.replayed left.length else q.replayed
    naks := if !f.nak then 0 else if q.nakSeq = again then q.naks + 1 else 1
    nakSeq := if f.nak then again else q.nakSeq
    credit := if f.cclass < 5 then tmod 0 q.credit f.cclass (fun c => c + 32 * f.cred) else q.credit }

/-- A flit arrives: accepted, or discarded with a NAK. Eight NAKs in a row for one SEQ take the port DOWN. R453, R455. -/
def execFlitReceive (port : Nat) (f : FlitIn) (s : State) : Host.Outcome State Fault Refusal :=
  let q := s.port port
  .next (if 16 ≤ port ∨ q.link = .down ∨ stopped s (xPort port) then s
    else
      let s1 := s.modPort port (fun q => { q with fecBytes := if f.fecOk then satAdd 64 q.fecBytes f.fecBytes else q.fecBytes })
      if f.fecOk ∧ f.crcOk ∧ f.seq = q.rxSeq then
        (let s2 := s1.modPort port (fun q => q.accept f)
         if 8 ≤ (s2.port port).naks then portDown s2 port 0 else s2)
      else s1.modPort port (fun q => { q with sendNak := true }))

/-! ## The choice of a port (R457, R458) -/

/-- Credit class of a packet. R451, R457. -/
def pktClass (p : Packet) : Nat := if p.resp then 4 else p.oclass % 4

/-- Slots of a packet: its head and its data. -/
def pktSlots (p : Packet) : Nat := 1 + p.data.length

/-- Other requests to the packet's destination in its class that have left on a port and have no answer yet. R469. -/
def unanswered (s : State) (k : Packet) : Nat :=
  (s.hdr.outst.filter (fun o => o.port.isSome && o.tag != k.tag && o.pkt.dst == k.dst && o.pkt.oclass % 4 == k.oclass % 4)).length

/-- A port that may take a packet now. R454, R457, R458, R469, R627, R636. -/
def mayTake (s : State) (k : Packet) (p : Nat) : Bool :=
  let q := s.port p
  q.link == .up && q.unit.st == .on && decide (pktSlots k ≤ tget 0 q.credit (pktClass k)) && decide (q.unacked.length + pktFlits k ≤ 1024) &&
  !stopped s (xPort p) && (k.resp || decide (unanswered s k < 32767))

/-- The port used least recently among those that may take a packet. R458. -/
def choosePort (s : State) (k : Packet) : Option Nat :=
  let ps := (List.range 16).filter (mayTake s k)
  ps.find? (fun p => ps.all (fun j => decide ((s.port p).lastUse ≤ (s.port j).lastUse)))


/-- A packet leaves whole on a port, using its credit. R457, R458. -/
def Port.send (q : Port) (k : Packet) (use : Nat) : Port :=
  { q with
    credit := tmod 0 q.credit (pktClass k) (fun c => c - pktSlots k)
    unacked := q.unacked ++ numberFlits k q.txSeq
    txSeq := (q.txSeq + pktFlits k) % 2048
    sendNak := false
    lastUse := use }

/-- The oldest packet that some port may take is sent, once the fabric is READY; with none, an enumeration message that waits.
R454, R458, R483, R486. -/
def execPacketSend (s : State) : Host.Outcome State Fault Refusal :=
  .next (if s.hdr.fabSt ≠ .ready then ctrlNext s
    else match s.hdr.sendQ.find? (fun k => (choosePort s k).isSome) with
    | none => ctrlNext s
    | some k =>
      match choosePort s k with
      | none => s
      | some p =>
        let use := s.hdr.useCount + 1
        ({ s with hdr := { s.hdr with
            sendQ := dropFirst (fun x => (choosePort s x).isSome) s.hdr.sendQ
            outst := if k.resp then s.hdr.outst else mapWhere (fun o => o.tag == k.tag) (fun o => { o with port := some p }) s.hdr.outst
            useCount := use } }).modPort p (fun q => q.send k use))

/-! ## Retraining of stacks and links (R630) -/

/-- R630. -/
def execStackRetraining (stack : Nat) (s : State) : Host.Outcome State Fault Refusal :=
  .next (if stack < 12 then resetGroup s (xStack stack) else s)

/-- R630. -/
def execD2dLinkRetraining (link : Nat) (s : State) : Host.Outcome State Fault Refusal :=
  .next (if link < 4 then resetGroup s (xLink link) else s)

end Sys2Proof.Machine
end

