-- ==== Sys2Proof/Machine/Audit.lean ====
section
/-! DEFINITION. The audit record (17, R669 to R671), response frames (R646), ALERT_N and in-band interrupts. -/

namespace Sys2Proof.Machine
open Sys2Proof

/-- The 128 bytes of an entry. R669. -/
def AuditEnt.bytes (e : AuditEnt) : List Byte :=
  natToBytes e.seq 8 ++ natToBytes 0 4 ++ natToBytes (e.role + if e.overI3c then 4 else 0) 1 ++ natToBytes e.result 1 ++
  natToBytes e.action 2 ++ natToBytes e.target 16 ++ natToBytes e.keyFpr.toNat 16 ++ natToBytes e.detail 32 ++
  natToBytes e.prev.toNat 48

/-- Entries that AUDIT holds. R671. -/
def auditArea : Nat := 262144

/-- Entries that AUDIT_ACK does not cover. R671. -/
def auditOpen (s : State) : Nat := s.mgt.auditNext - s.mgt.auditAcked

/-- Every entry held is uncovered: audited commands are answered AUDIT_FULL. R671. -/
def auditFull (s : State) : Bool := decide (auditArea ≤ auditOpen s)

/-- An in-band interrupt with a mandatory byte, where ENEC has enabled them. R642 -/
def raiseIbi (s : State) (b : Byte) : State :=
  if s.i3c.ibi then { s with i3c := { s.i3c with ibis := b :: s.i3c.ibis } } else s

/-- A cause holds ALERT_N: 235,930 or more uncovered entries (R671), AVS_ERR (R601), or the Brake until its level is back (R607). -/
def alertCause (s : State) : Bool :=
  decide (235930 ≤ auditOpen s) || s.fan.avsErr || s.fan.brake || s.fan.brakeReleasing

/-- ALERT_N follows its causes; asserting it raises an in-band interrupt. R601, R607, R642, R671. -/
def refreshAlert (s : State) : State :=
  let s1 := { s with pins := { s.pins with alertN := !alertCause s } }
  if alertCause s && s.pins.alertN then raiseIbi s1 0x02 else s1

/-- PREV of the next entry. R669. -/
def auditPrev (s : State) : BitVec 384 :=
  match s.mgt.audit.getLast? with
  | some e => Config.sha384 e.bytes
  | none => Config.sha384 (natToBytes s.mgt.serial.toNat 16)

/-- An entry appended; a full record takes none. R669, R671. -/
def auditAppend (s : State) (role : Nat) (overI3c : Bool) (action result target : Nat) (key : BitVec 128) (detail : Nat) : State :=
  if auditFull s then s
  else
    let e : AuditEnt := { seq := s.mgt.auditNext, role := role, overI3c := overI3c, action := action, result := result,
                          target := target, keyFpr := key, detail := detail, prev := auditPrev s }
    let old := if auditArea ≤ s.mgt.audit.length then s.mgt.audit.drop 1 else s.mgt.audit
    refreshAlert { s with mgt := { s.mgt with audit := old ++ [e], auditNext := s.mgt.auditNext + 1 } }

/-- RESULT codes. R669. -/
def resAccepted : Nat := 0
def resDone : Nat := 1
def resFailed : Nat := 2

/-- An entry of the device itself, in consequence of an action. R669. -/
def auditDevice (s : State) (action result target detail : Nat) : State := auditAppend s 3 false action result target 0 detail

/-- The outcome of an accepted command whose effect ends now. R670. -/
def auditEnd (s : State) (action target result : Nat) : State :=
  match s.mgt.openAudit.find? (fun o => o.1 == action && o.2.1 == target) with
  | none => s
  | some o =>
    auditAppend { s with mgt := { s.mgt with openAudit := dropFirst (fun o => o.1 == action && o.2.1 == target) s.mgt.openAudit } }
      (o.2.2.1 % 4) (o.2.2.1.testBit 2) action result target o.2.2.2 0

/-- The bytes of a response frame. R646. -/
def Resp.bytes (r : Resp) : List Byte :=
  natToBytes r.opc 2 ++ natToBytes r.status 1 ++ natToBytes 0 1 ++ natToBytes r.data.length 4 ++
  natToBytes (r.auditSeq.getD (2 ^ 64 - 1)) 8 ++ natToBytes 0 16 ++ r.data

end Sys2Proof.Machine
end

