-- ==== Sys2Proof/Machine/Power.lean ====
section
/-! DEFINITION. The shared operations of Fantail (15): voltage entries, the level, rate caps and LIMIT, regulators and VIN rails,
messages of a group, and the stamps of a group round. -/

namespace Sys2Proof.Machine
open Sys2Proof

/-! ## Voltage entries and rates (R587, R588, R592, R593) -/

/-- RATE_i in M hs/s. R587. -/
def rateOf (i : Nat) : Nat := 700 + 100 * i

/-- The grade's top entry. R588. -/
def gradeTop (s : State) : Nat := if s.fan.gradeH then 15 else 11

/-- What the fuses and the flash say of entry `i` of a tile: MV, fused invalid, WITHDRAWN. -/
def FanTile.raw (t : FanTile) (i : Nat) : Nat × Bool × Bool := tget (0, false, false) t.vtab i

/-- MV_i; a fuse left at zero stands for 530 + 20 · i. -/
def FanTile.mv (t : FanTile) (i : Nat) : Nat := if (t.raw i).1 = 0 then 530 + 20 * i else (t.raw i).1

/-- VALID of entry `i`. R587, R588. -/
def entryValid (s : State) (t : FanTile) (i : Nat) : Bool := decide (i ≤ gradeTop s) && !(t.raw i).2.1

/-- The entry that a level gives a tile: never an invalid one. R587, R589. -/
def tileEntry (s : State) (t : FanTile) (level : Nat) : Nat :=
  (((List.range (level + 1)).reverse).find? (entryValid s t)).getD 0

/-- Entry `level` of a tile is withdrawn. R593. -/
def withdrawn (s : State) (t : FanTile) : Bool := (t.raw (tileEntry s t s.fan.level)).2.2

/-! ## Rate caps (R593, R595, R596, R604) -/

/-- The caps that apply to a tile. R596. -/
def fallbackCap (s : State) (t : FanTile) : Option Nat :=
  if withdrawn s t then some (min t.fbRate (rateOf (tileEntry s t s.fan.level))) else none

def nonzero (n : Nat) : Option Nat := if n = 0 then none else some n

def caps (s : State) (t : FanTile) : List Nat :=
  (fallbackCap s t).toList ++ (nonzero t.gcap).toList ++ (nonzero s.fan.capAll).toList

/-- A tile's rate cap, if any. R596. -/
def rateCap (s : State) (t : FanTile) : Option Nat :=
  match caps s t with
  | [] => none
  | c :: cs => some (listMin c cs)

/-- LIMIT := floor(rate × 1,024 × period), with the rate in M hs/s and the period in 2^−16 ns. R595. -/
def limitOf (rate : Nat) (period : W32) : Nat := min 4095 (rate * period.toNat / 64000)

/-- A tile with its LIMIT computed again, and the caps that set it. R595, R596. -/
def FanTile.recompute (s : State) (t : FanTile) : FanTile :=
  let c := rateCap s t
  { t with
    limit := match c with
      | none => 0
      | some r => limitOf r t.period
    capFallback := c.isSome && fallbackCap s t == c
    capG := c.isSome && nonzero t.gcap == c
    capAll := c.isSome && nonzero s.fan.capAll == c
    limPeriod := t.period }

def setTileRate (s : State) (p : Nat) : State := s.modFanTile p (fun t => t.recompute s)

/-- GCAP of the run that holds a tile. R596. -/
def setTileGcap (s : State) (p g : Nat) : State := setTileRate (s.modFanTile p (fun t => { t with gcap := g })) p

/-- RATE_level of a tile with its fallback and CAP_ALL caps. R614. -/
def tileFloor (s : State) (p : Nat) : Nat :=
  let t := s.fanTile p
  listMin (rateOf (tileEntry s t s.fan.level)) ((fallbackCap s t).toList ++ (nonzero s.fan.capAll).toList)

/-- Physical tiles in state ON. -/
def tilesOn (s : State) : List Nat := (List.range 200).filter (fun p => (s.tile p).unit.st == .on)

/-- The device's rate floor; zero while no tile is ON. R614. -/
def rateFloor (s : State) : Nat :=
  match (tilesOn s).map (tileFloor s) with
  | [] => 0
  | r :: rs => listMin r rs

/-! ## Regulators and VIN (R590, R593, R598 to R601) -/

/-- A tile's regulator runs: its tile is ON or being enabled, and THERMTRIP_N does not hold it off. R608. -/
def regulated (s : State) (p : Nat) : Bool := s.pins.thermtripN && ((s.tile p).unit.st == .on || (s.tile p).unit.st == .enabling)

/-- The setpoint that a tile's regulator is to have. R590, R593. -/
def wantMv (s : State) (p : Nat) : Nat :=
  let t := s.fanTile p
  if regulated s p then (if withdrawn s t then t.fbMv else t.mv (tileEntry s t s.fan.level)) + s.fan.droop else 0

/-- VIN for a highest regulator setpoint, in mV. R598. -/
def vinFor (mv : Nat) : Nat := max 800 (min 1100 (ceilDiv (mv + 150) 5 * 5))

def dieTiles (d : Nat) : List Nat := (List.range 50).map (fun i => 50 * d + i)

/-- VIN_d that the regulators of a die need, now and at the end of their changes. R598. -/
def vinWant (s : State) (d : Nat) : Nat :=
  vinFor ((dieTiles d).foldl (fun m p => let t := s.fanTile p; max m (max t.going t.target)) 0)

def vinNow (s : State) (d : Nat) : Nat := tget 800 s.fan.vin d

/-- A VIN write of die `d` is under way. -/
def vinBusy (s : State) (d : Nat) : Bool := tget 800 s.fan.vinTarget d != vinNow s d

/-- A rail of the bus of die `d` has failed three transactions in a row. R597, R601. -/
def busFailed (s : State) (d : Nat) : Bool :=
  decide (3 ≤ tget 0 s.fan.avsFails (d / 2 * 2)) || decide (3 ≤ tget 0 s.fan.avsFails (d / 2 * 2 + 1))

/-- An idle regulator starts towards its newest target: down at once, up once VIN allows it. R599, R600. -/
def startStep (s : State) (d p : Nat) : State :=
  s.modFanTile p (fun t =>
    if t.going = t.setpoint ∧ t.target ≠ t.setpoint ∧ (t.target < t.setpoint ∨ vinFor t.target ≤ vinNow s d) then { t with going := t.target }
    else t)

/-- A die's regulators and rail move on: a rail rises before its regulators and falls after them. R598 to R601. -/
def driveDie (s : State) (d : Nat) : State :=
  let s1 := (dieTiles d).foldl (fun s p => startStep s d p) s
  let want := vinWant s1 d
  let calm := (dieTiles d).all (fun p => let t := s1.fanTile p; t.going == t.setpoint && t.target == t.setpoint)
  if !vinBusy s1 d && ((decide (vinNow s1 d < want) && !busFailed s1 d) || (decide (want < vinNow s1 d) && calm)) then
    { s1 with fan := { s1.fan with vinTarget := tset 800 s1.fan.vinTarget d want } }
  else s1

def driveAll (s : State) : State := (List.range 4).foldl driveDie s

/-- A tile's cap and target follow the level and its withdrawals: the cap first. R590, R593 to R595. -/
def applyTile (s : State) (p : Nat) : State :=
  let s1 := setTileRate s p
  s1.modFanTile p (fun t => { t with target := wantMv s1 p })

/-! ## The level (R589, R601, R675) -/

/-- The level that the settings give. R589, R675. -/
def levelNow (s : State) : Nat :=
  if s.pins.ready then min (min s.fan.levelOp s.fan.levelCap) (min (min s.fan.levelBrake s.fan.levelBoot) (gradeTop s)) else 6

/-- No rail of a failed bus would have to rise for level `l`. R601. -/
def canRaise (s : State) (l : Nat) : Bool :=
  (List.range 4).all (fun d => !busFailed s d || (dieTiles d).all (fun p =>
    !regulated s p || decide (vinFor ((s.fanTile p).mv (tileEntry s (s.fanTile p) l) + s.fan.droop) ≤ vinNow s d)))

/-! ## Group messages (R609 to R617) -/

/-- The devices of the balancing group but this one, and its head mill. R476, R609. -/
def groupMembers (s : State) : State × List Nat × Nat :=
  let (s1, e) := groupEntry s s.fan.group
  let b := fieldAt e 12 2
  (s1, ((List.range 1024).map (fun i => b + i)).filter (fun d => groupMember e d && d != s.hdr.devnum), fieldAt e 14 2)

/-- The bytes of a message. R610. -/
def fanBytes (type group subj : Nat) (mseq v0 v1 : W32) : List Byte :=
  natToBytes type 4 ++ natToBytes group 2 ++ natToBytes subj 2 ++ natToBytes mseq.toNat 4 ++ natToBytes v0.toNat 4 ++
  natToBytes v1.toNat 4 ++ natToBytes 0 12

/-- One message to one device, as one SERVICE-class WRITE. A sender's MSEQ starts at 1. R610, R611. -/
def fanSend (s : State) (type subj : Nat) (v0 v1 : W32) (dev : Nat) : State :=
  if !s.hdr.devValid || !inMap s dev then s
  else
    let q := s.fan.mseq + 1
    let w : Word288 := (BitVec.ofNat 256 (bytesToNat (fanBytes type s.fan.group subj q v0 v1)), 0)
    sendReq { s with fan := { s.fan with mseq := q } } dev s.fan.group 3 0x04 0
      (gAddr dev (s.fan.mboxBase + 32 * s.hdr.devnum)) 0 [w] .fantail

def fanSendAll (s : State) (type subj : Nat) (v0 v1 : W32) (devs : List Nat) : State :=
  devs.foldl (fun s d => fanSend s type subj v0 v1 d) s

/-- This device leads the balancing. R609. -/
def isHead (s : State) (head : Nat) : Bool := s.hdr.devValid && head == s.hdr.devnum

/-- GCAP of the balancing context, and of the tiles that its runs hold. R596, R615. -/
def setGcap (s : State) (g : Nat) : State :=
  let s1 := ({ s with fan := { s.fan with gcap := g } }).modCtx s.fan.groupCtx (fun c => { c with gcap := g })
  (List.range 192).foldl (fun (s : State) l => match s.runOf l with
    | some r => if r.rr.ctx = s.fan.groupCtx then setTileGcap s (s.phys l) g else s
    | none => s) s1

/-- GCAP by the notices that have not expired, and by the common rate in LOCKSTEP. R615, R617. -/
def gcapNow (s : State) : Nat :=
  let floors := s.fan.notices.map (fun n => n.floor) ++ (if s.fan.mode = 2 ∧ s.fan.commonRate ≠ 0 then [s.fan.commonRate] else [])
  match floors with
  | [] => 0
  | f :: fs => listMin f fs

def refreshGcap (s : State) : State := setGcap s (gcapNow s)

/-- The balance that the head holds for a device. -/
def balanceOf (s : State) (dev : Nat) : Int := ((s.fan.balances.find? (fun b => b.1 == dev)).map (fun b => b.2)).getD 0

def setBalance (s : State) (dev : Nat) (v : Int) : State :=
  let s1 := { s with fan := { s.fan with balances := (dev, v) :: s.fan.balances.filter (fun b => b.1 != dev) } }
  if isHead s dev then { s1 with fan := { s1.fan with balance := v } } else fanSend s1 4 dev (BitVec.ofInt 32 v) 0 dev

/-- TOKEN_STEP watts moved to a device from the first arriver of the last SKEW report: within one rack and within TOKEN_MAX. R616. -/
def moveTokens (s : State) (dev : Nat) : State :=
  match s.fan.lastSkew with
  | none => s
  | some (donor, _) =>
    let up := balanceOf s dev + s.fan.tokenStep
    let down := balanceOf s donor - s.fan.tokenStep
    if s.fan.mode = 1 ∧ donor ≠ dev ∧ donor / 32 = dev / 32 ∧ up ≤ s.fan.tokenMax ∧ -(s.fan.tokenMax : Int) ≤ down then
      setBalance (setBalance s dev up) donor down
    else s

/-- MODE to every member. R613, R617. -/
def sendMode (s : State) (devs : List Nat) : State :=
  fanSendAll s 5 s.fan.refLevel (if s.fan.mode = 2 then 1 else 0) (BitVec.ofNat 32 (if s.fan.mode = 2 then s.fan.commonRate else 0)) devs

/-- The head takes account of a member's rate floor: tokens in NORMAL, a lower common rate in LOCKSTEP. R616, R617. -/
def headSlow (s : State) (devs : List Nat) (dev floor : Nat) : State :=
  let s1 := { s with fan := { s.fan with memberFloor := (dev, floor) :: s.fan.memberFloor.filter (fun m => m.1 != dev) } }
  if s1.fan.mode = 1 then moveTokens s1 dev
  else if s1.fan.mode = 2 ∧ (s1.fan.commonRate = 0 ∨ floor < s1.fan.commonRate) then
    refreshGcap (sendMode { s1 with fan := { s1.fan with commonRate := floor } } devs)
  else s1

/-- SLOWDOWN to the head mill and every member. R614. -/
def sendSlowdown (s : State) : State :=
  let (s1, devs, head) := groupMembers s
  let s2 := fanSendAll s1 1 s.hdr.devnum (BitVec.ofNat 32 s.fan.rateFloor) 0 devs
  if isHead s2 head then headSlow s2 devs s.hdr.devnum s.fan.rateFloor else s2

/-- SLOWDOWN_NOTICE. R584. -/
def postSlowdown (s : State) (dev floor : Nat) : State := postEvent s none { code := 0x30, sev := 1, d0 := dev, d1 := floor }

/-- The rate floor, and whether the device is slowed: a new floor is told at once, and RECOVER once it is no longer slowed. R614. -/
def checkSlowed (s : State) : State :=
  let f := rateFloor s
  let slow := s.fan.mode != 0 && f != 0 && decide (f < rateOf s.fan.refLevel)
  let s1 := { s with fan := { s.fan with rateFloor := f, slowed := slow } }
  if slow then
    (if !s.fan.slowed || s.fan.rateFloor != f then postSlowdown (sendSlowdown s1) s.hdr.devnum f else s1)
  else if s.fan.slowed then
    (let (s2, devs, _) := groupMembers s1
     fanSendAll s2 2 s.hdr.devnum 0 0 devs)
  else s1

/-- The level is applied to every tile. R589, R590. -/
def applyLevel (s : State) : State :=
  let s1 := { s with fan := { s.fan with level := levelNow s } }
  checkSlowed (driveAll ((List.range 200).foldl applyTile s1))

/-! ## Group rounds (R612) -/

/-- A sluice's round with one more arrival. -/
def GroupRound.arrive (r : GroupRound) (dev now : Nat) : GroupRound :=
  { r with last := now, lastDev := dev, several := r.several || dev != r.firstDev }

/-- Nanoseconds between two stamps of the 400 MHz clock. -/
def skewNs (r : GroupRound) : Nat := (r.last - r.first) * 5 / 2

/-- SKEW goes to the head mill at most once per sluice per millisecond. R612. -/
def sendSkew (s : State) (r : GroupRound) : State :=
  let recent := s.fan.skewSent.any (fun x => x.1 == r.ctx && x.2.1 == r.sluice && decide (s.fan.mclk < x.2.2 + 400000))
  if s.fan.mode = 0 ∨ skewNs r < 10 * s.fan.skewMin ∨ recent then s
  else
    let others := s.fan.skewSent.filter (fun x => x.1 != r.ctx || x.2.1 != r.sluice)
    let s1 := { s with fan := { s.fan with skewSent := (r.ctx, r.sluice, s.fan.mclk) :: others } }
    let (s2, _, head) := groupMembers s1
    if isHead s2 head then moveTokens { s2 with fan := { s2.fan with lastSkew := some (r.firstDev, r.lastDev) } } r.lastDev
    else fanSend s2 3 r.lastDev (BitVec.ofNat 32 r.firstDev) (BitVec.ofNat 32 (skewNs r)) head

/-- A round of arrivals from several devices is released here. R612. -/
def endRound (s : State) (r : GroupRound) : State :=
  if !r.several then s
  else
    let most := max s.fan.skewMax (min (skewNs r) (2 ^ 32 - 1))
    sendSkew { s with fan := { s.fan with skewRounds := satAdd 32 s.fan.skewRounds 1, skewMax := most } } r

/-- An arrival is stamped; at release its round ends. R612. -/
def stampArrival (s : State) (ctx n dev : Nat) (released : Bool) : State :=
  let now := s.fan.mclk
  let r := match s.fan.rounds.find? (fun r => r.ctx == ctx && r.sluice == n) with
    | some r => r.arrive dev now
    | none => { ctx := ctx, sluice := n, first := now, firstDev := dev, last := now, lastDev := dev }
  let rest := s.fan.rounds.filter (fun r => r.ctx != ctx || r.sluice != n)
  if released then endRound { s with fan := { s.fan with rounds := rest } } r
  else { s with fan := { s.fan with rounds := rest ++ [r] } }

end Sys2Proof.Machine
end

