-- ==== Sys2Proof/Machine/Firmware.lean ====
section
/-! DEFINITION. Firmware slots (17, R656 to R661): their states, the image that the Miller cores run, and the end of a trial. -/

namespace Sys2Proof.Machine
open Sys2Proof

/-- Slots by number: 0 MGT_A, 1 MGT_B, 2 SVC_A, 3 SVC_B. -/
def fwSlot (s : State) : Nat → FwSlot
  | 0 => s.mgt.mgtA
  | 1 => s.mgt.mgtB
  | 2 => s.mgt.svcA
  | _ => s.mgt.svcB

def modFwSlot (s : State) (i : Nat) (f : FwSlot → FwSlot) : State :=
  match i with
  | 0 => { s with mgt := { s.mgt with mgtA := f s.mgt.mgtA } }
  | 1 => { s with mgt := { s.mgt with mgtB := f s.mgt.mgtB } }
  | 2 => { s with mgt := { s.mgt with svcA := f s.mgt.svcA } }
  | _ => { s with mgt := { s.mgt with svcB := f s.mgt.svcB } }

def setFwSt (s : State) (i : Nat) (st : FwSt) : State := modFwSlot s i (fun x => { x with st := st })

/-- The slots of an image KIND: 1 MGT, 2 SERVICE. R656. -/
def kindSlots (kind : Nat) : List Nat := if kind = 1 then [0, 1] else [2, 3]

/-- The slot of a KIND that is in a state. -/
def slotWith (s : State) (kind : Nat) (st : FwSt) : Option Nat := (kindSlots kind).find? (fun i => (fwSlot s i).st == st)

/-- The image that a Miller core loads: the one on trial, or the ACTIVE one. While a drained update waits the running image is still
the one that fell back. R529, R660, R683. -/
def coreImage (s : State) : Option Nat :=
  if s.boot.drainUpd then slotWith s 2 .fallback
  else match slotWith s 2 .trial with
    | some i => some i
    | none => slotWith s 2 .active

/-- ACTION of FW_APPROVE entries. R652. -/
def opcFwApprove : Nat := 0x0041

/-- Every Miller core runs the image of slot `i`. -/
def allRun (s : State) (i : Nat) : Bool := (List.range 16).all (fun c => (s.miller c).run == .running && (s.miller c).image == some i)

/-- A service image on trial is ACTIVE once all cores run it; a return to the other image is over once all run that. R661. -/
def checkTrial (s : State) : State :=
  match slotWith s 2 .trial with
  | some t =>
    if !s.boot.drainUpd && allRun s t then
      auditEnd (auditDevice { (setFwSt s t .active) with mgt := { (setFwSt s t .active).mgt with replacing := false, svcHalts := 0 } }
        opcFwApprove resDone t 0) opcFwApprove t resDone
    else s
  | none =>
    match slotWith s 2 .active with
    | some a => if s.mgt.replacing && allRun s a then { s with mgt := { s.mgt with replacing := false } } else s
    | none => s

/-- A trial fails: the image that fell back is ACTIVE again. R661. -/
def failTrial (s : State) (kind t : Nat) : State :=
  let s1 := setFwSt s t .staged
  let s2 := match slotWith s1 kind .fallback with
    | some f => setFwSt s1 f .active
    | none => s1
  auditEnd (auditDevice { s2 with mgt := { s2.mgt with svcHalts := 0 } } opcFwApprove resFailed t 0) opcFwApprove t resFailed

end Sys2Proof.Machine
end

