-- ==== Sys2Proof/Machine/Encoding.lean ====
section
/-! DEFINITION. Jaend instruction words (06): the words of each instruction and the rule that says which words are defined. -/

namespace Sys2Proof.Machine
open Sys2Proof

/-! ## Words of an instruction -/

/-- A body format's field placed at its lowest bit. -/
def at_ (v : Nat) (lo : Nat) : Nat := v * 2 ^ lo

/-- OP, X, G and GN of a first word. R236. -/
def head (op : Nat) (x : Bool) (g : Guard) : Nat :=
  at_ op 56 + at_ x.toNat 55 + at_ g.g.toNat 52 + at_ g.gn.toNat 51

/-- A 64-bit instruction's words. -/
def short (op : Nat) (g : Guard) (body : Nat) : W64 × Option W64 := (BitVec.ofNat 64 (head op false g + body), none)

/-- A 128-bit instruction's words. R237. -/
def long (op : Nat) (g : Guard) (body ext : Nat) : W64 × Option W64 :=
  (BitVec.ofNat 64 (head op true g + body), some (BitVec.ofNat 64 ext))

/-- Body formats of R244. -/
def bodyRR (sd sa sb : BitVec 5) : Nat := at_ sd.toNat 46 + at_ sa.toNat 41 + at_ sb.toNat 36
def bodyRI (sd sa : BitVec 5) (imm : BitVec 32) : Nat := at_ sd.toNat 46 + at_ sa.toNat 41 + imm.toNat
def bodyAR (sd : BitVec 5) (ad ab : BitVec 4) (sa : BitVec 5) (imm : BitVec 32) : Nat :=
  at_ sd.toNat 46 + at_ ad.toNat 42 + at_ ab.toNat 38 + at_ sa.toNat 33 + imm.toNat
def bodyPC (pd : BitVec 3) (cc : BitVec 4) (sa sb : BitVec 5) (i : Bool) (imm : BitVec 32) : Nat :=
  at_ pd.toNat 48 + at_ cc.toNat 44 + at_ sa.toNat 39 + at_ sb.toNat 34 + at_ i.toNat 33 + imm.toNat
def bodyPL (pd pa pb : BitVec 3) (lop : BitVec 2) : Nat :=
  at_ pd.toNat 48 + at_ pa.toNat 45 + at_ pb.toNat 42 + at_ lop.toNat 40
def bodyM (sd : BitVec 5) (ab : BitVec 4) (sz : BitVec 2) (sx : Bool) (sc : BitVec 5) (off : BitVec 32) : Nat :=
  at_ sd.toNat 46 + at_ ab.toNat 42 + at_ sz.toNat 40 + at_ sx.toNat 39 + at_ sc.toNat 34 + off.toNat
def bodyAT (sd sa : BitVec 5) (ab aw : BitVec 4) (off : BitVec 32) : Nat :=
  at_ sd.toNat 46 + at_ sa.toNat 41 + at_ ab.toNat 37 + at_ aw.toNat 33 + off.toNat
def bodyHR (pd : BitVec 3) (sa : BitVec 5) (ab : BitVec 4) (off : BitVec 32) : Nat :=
  at_ pd.toNat 48 + at_ sa.toNat 41 + at_ ab.toNat 37 + off.toNat

/-- First and extension word of `tbl.build` and `tbl.load`. R259. -/
def tblBody (as_ : BitVec 4) (h : Bool) (enc : BitVec 3) (bpos : BitVec 2) (ifmt : BitVec 4) (m : BitVec 6) (nb : BitVec 12) : Nat :=
  at_ as_.toNat 47 + at_ h.toNat 46 + at_ enc.toNat 43 + at_ bpos.toNat 41 + at_ ifmt.toNat 37 + at_ m.toNat 31 + at_ nb.toNat 19
def tblExt (ars acb : BitVec 4) (rsn : Bool) (krem rstride : BitVec 16) : Nat :=
  at_ ars.toNat 60 + at_ acb.toNat 56 + at_ rsn.toNat 55 + at_ krem.toNat 32 + at_ rstride.toNat 16

/-- First and extension word of a lookup-accumulate. R266. -/
def laccBody (aw : BitVec 4) (h : Bool) (bin0 : BitVec 3) (m : BitVec 6) (blk0 nblk : BitVec 12) : Nat :=
  at_ aw.toNat 47 + at_ h.toNat 46 + at_ bin0.toNat 43 + at_ m.toNat 37 + at_ blk0.toNat 25 + at_ nblk.toNat 13
def laccExt (wring : BitVec 16) (n : BitVec 15) (woff : BitVec 32) : Nat := at_ wring.toNat 48 + at_ n.toNat 33 + woff.toNat

/-- The words of a Jaend instruction; none for the other commands. 06. -/
def words : Instr → Option (W64 × Option W64)
  | .nop _ g => some (short 0x01 g 0)
  | .opEnd _ g => some (short 0x02 g 0)
  | .br _ g imm => some (short 0x03 g (bodyRI 0 0 imm))
  | .jal _ g sd imm => some (short 0x04 g (bodyRI sd 0 imm))
  | .jr _ g sa => some (short 0x05 g (bodyRI 0 sa 0))
  | .undefinedEncoding _ w0 w1 => some (w0, some w1)
  | .add _ g sd sa sb => some (short 0x10 g (bodyRR sd sa sb))
  | .sub _ g sd sa sb => some (short 0x11 g (bodyRR sd sa sb))
  | .mul _ g sd sa sb => some (short 0x12 g (bodyRR sd sa sb))
  | .mulhu _ g sd sa sb => some (short 0x13 g (bodyRR sd sa sb))
  | .opAnd _ g sd sa sb => some (short 0x14 g (bodyRR sd sa sb))
  | .opOr _ g sd sa sb => some (short 0x15 g (bodyRR sd sa sb))
  | .opXor _ g sd sa sb => some (short 0x16 g (bodyRR sd sa sb))
  | .shl _ g sd sa sb => some (short 0x17 g (bodyRR sd sa sb))
  | .shr _ g sd sa sb => some (short 0x18 g (bodyRR sd sa sb))
  | .sra _ g sd sa sb => some (short 0x19 g (bodyRR sd sa sb))
  | .opMin _ g sd sa sb => some (short 0x1A g (bodyRR sd sa sb))
  | .opMax _ g sd sa sb => some (short 0x1B g (bodyRR sd sa sb))
  | .minu _ g sd sa sb => some (short 0x1C g (bodyRR sd sa sb))
  | .maxu _ g sd sa sb => some (short 0x1D g (bodyRR sd sa sb))
  | .divu _ g sd sa sb => some (short 0x1E g (bodyRR sd sa sb))
  | .remu _ g sd sa sb => some (short 0x1F g (bodyRR sd sa sb))
  | .addI _ g sd sa imm => some (short 0x20 g (bodyRI sd sa imm))
  | .subI _ g sd sa imm => some (short 0x21 g (bodyRI sd sa imm))
  | .mulI _ g sd sa imm => some (short 0x22 g (bodyRI sd sa imm))
  | .mulhuI _ g sd sa imm => some (short 0x23 g (bodyRI sd sa imm))
  | .andI _ g sd sa imm => some (short 0x24 g (bodyRI sd sa imm))
  | .orI _ g sd sa imm => some (short 0x25 g (bodyRI sd sa imm))
  | .xorI _ g sd sa imm => some (short 0x26 g (bodyRI sd sa imm))
  | .shlI _ g sd sa imm => some (short 0x27 g (bodyRI sd sa imm))
  | .shrI _ g sd sa imm => some (short 0x28 g (bodyRI sd sa imm))
  | .sraI _ g sd sa imm => some (short 0x29 g (bodyRI sd sa imm))
  | .minI _ g sd sa imm => some (short 0x2A g (bodyRI sd sa imm))
  | .maxI _ g sd sa imm => some (short 0x2B g (bodyRI sd sa imm))
  | .minuI _ g sd sa imm => some (short 0x2C g (bodyRI sd sa imm))
  | .maxuI _ g sd sa imm => some (short 0x2D g (bodyRI sd sa imm))
  | .divuI _ g sd sa imm => some (short 0x2E g (bodyRI sd sa imm))
  | .remuI _ g sd sa imm => some (short 0x2F g (bodyRI sd sa imm))
  | .li _ g sd imm => some (long 0x30 g (bodyRI sd 0 0) imm.toNat)
  | .movRv _ g sd imm => some (short 0x31 g (bodyRI sd 0 imm))
  | .movSa _ g sd ab imm => some (short 0x32 g (bodyAR sd 0 ab 0 imm))
  | .movAs _ g ad sa imm => some (short 0x33 g (bodyAR 0 ad 0 sa imm))
  | .addaI _ g ad ab imm => some (short 0x34 g (bodyAR 0 ad ab 0 imm))
  | .cmpCc _ g pd cc sa sb i imm => some (short 0x35 g (bodyPC pd cc sa sb i imm))
  | .pLop _ g pd pa pb lop => some (short 0x36 g (bodyPL pd pa pb lop))
  | .fadd _ g sd sa sb => some (short 0x38 g (bodyRR sd sa sb))
  | .fsub _ g sd sa sb => some (short 0x39 g (bodyRR sd sa sb))
  | .fmul _ g sd sa sb => some (short 0x3A g (bodyRR sd sa sb))
  | .fdiv _ g sd sa sb => some (short 0x3B g (bodyRR sd sa sb))
  | .fmin _ g sd sa sb => some (short 0x3C g (bodyRR sd sa sb))
  | .fmax _ g sd sa sb => some (short 0x3D g (bodyRR sd sa sb))
  | .fcvtFI _ g sd sa => some (short 0x3E g (bodyRR sd sa 0))
  | .fcvtIF _ g sd sa => some (short 0x3F g (bodyRR sd sa 0))
  | .ld _ g sd ab sz sx off => some (short 0x40 g (bodyM sd ab sz sx 0 off))
  | .st _ g sd ab sz off => some (short 0x41 g (bodyM sd ab sz false 0 off))
  | .ldc _ g sd ab sz sx sc off => some (short 0x42 g (bodyM sd ab sz sx sc off))
  | .stc _ g sd ab sz sc off => some (short 0x43 g (bodyM sd ab sz false sc off))
  | .tblBuild _ g a h enc bpos ifmt m nb ars acb rsn krem rstride =>
    some (long 0x50 g (tblBody a h enc bpos ifmt m nb) (tblExt ars acb rsn krem rstride))
  | .tblSave _ g ab h off => some (short 0x51 g (at_ ab.toNat 47 + at_ h.toNat 46 + off.toNat))
  | .tblLoad _ g a h enc bpos ifmt m nb ars acb rsn =>
    some (long 0x52 g (tblBody a h enc bpos ifmt m nb) (tblExt ars acb rsn 0 0))
  | .laccBin _ g aw h bin0 m blk0 nblk wring n woff =>
    some (long 0x58 g (laccBody aw h bin0 m blk0 nblk) (laccExt wring n woff))
  | .laccTer _ g aw h bin0 m blk0 nblk wring n woff =>
    some (long 0x59 g (laccBody aw h bin0 m blk0 nblk) (laccExt wring n woff))
  | .laccI2 _ g aw h bin0 m blk0 nblk wring n woff =>
    some (long 0x5A g (laccBody aw h bin0 m blk0 nblk) (laccExt wring n woff))
  | .laccI3 _ g aw h bin0 m blk0 nblk wring n woff =>
    some (long 0x5B g (laccBody aw h bin0 m blk0 nblk) (laccExt wring n woff))
  | .laccI4 _ g aw h bin0 m blk0 nblk wring n woff =>
    some (long 0x5C g (laccBody aw h bin0 m blk0 nblk) (laccExt wring n woff))
  | .laccCb _ g aw h bin0 m blk0 nblk wring n woff =>
    some (long 0x5D g (laccBody aw h bin0 m blk0 nblk) (laccExt wring n woff))
  | .laccFp4 _ g aw h bin0 m blk0 nblk wring n woff =>
    some (long 0x5E g (laccBody aw h bin0 m blk0 nblk) (laccExt wring n woff))
  | .binOpen _ g bin src anchMode head gsMode gsize apre ags nRow linb anch nCh =>
    some (long 0x60 g (at_ bin.toNat 48 + at_ src.toNat 46 + at_ anchMode.toNat 45 + at_ head.toNat 41 + at_ gsMode.toNat 39 +
      at_ gsize.toNat 37 + at_ apre.toNat 33 + at_ ags.toNat 29 + at_ nRow.toNat 17 + at_ linb.toNat 14)
      (at_ anch.toNat 48 + at_ nCh.toNat 33))
  | .binClose _ g bin dest ab off => some (short 0x61 g (at_ bin.toNat 48 + at_ dest.toNat 46 + at_ ab.toNat 42 + off.toNat))
  | .attn _ g ab eng off => some (short 0x68 g (at_ ab.toNat 47 + at_ eng.toNat 43 + off.toNat))
  | .strmArm _ g ab slot off => some (short 0x70 g (at_ ab.toNat 47 + at_ slot.toNat 41 + off.toNat))
  | .strmRearm _ g slot sa sb kd ki =>
    some (short 0x71 g (at_ slot.toNat 45 + at_ sa.toNat 40 + at_ sb.toNat 35 + at_ kd.toNat 34 + at_ ki.toNat 33))
  | .strmWait _ g slot => some (short 0x72 g (at_ slot.toNat 45))
  | .strmHalt _ g slot => some (short 0x73 g (at_ slot.toNat 45))
  | .strmResume _ g sa sb => some (short 0x74 g (bodyRR 0 sa sb))
  | .ringAttachP _ g sa imm => some (short 0x78 g (bodyRI 0 sa imm))
  | .ringAttachC _ g sa imm => some (short 0x79 g (bodyRI 0 sa imm))
  | .ringDetach _ g sa imm => some (short 0x7A g (bodyRI 0 sa imm))
  | .ringClaim _ g sd sa imm => some (short 0x7B g (bodyRI sd sa imm))
  | .ringPost _ g sa imm => some (short 0x7C g (bodyRI 0 sa imm))
  | .ringTake _ g sd sa imm => some (short 0x7D g (bodyRI sd sa imm))
  | .ringGive _ g sa imm => some (short 0x7E g (bodyRI 0 sa imm))
  | .sluiceArrive _ g sa imm => some (short 0x80 g (bodyRI 0 sa imm))
  | .sluiceWait _ g sa imm => some (short 0x81 g (bodyRI 0 sa imm))
  | .sluiceReset _ g sd sa sb => some (short 0x82 g (bodyRR sd sa sb))
  | .fence _ g => some (short 0x83 g 0)
  | .hringPeek _ g pd sa ab off => some (short 0x84 g (bodyHR pd sa ab off))
  | .hringPop _ g sa => some (short 0x85 g (bodyRI 0 sa 0))
  | .hringPush _ g pd sa ab off => some (short 0x86 g (bodyHR pd sa ab off))
  | .atomAddI32 _ g sd sa ab off => some (short 0x88 g (bodyAT sd sa ab 0 off))
  | .atomAddF32 _ g sd sa ab off => some (short 0x89 g (bodyAT sd sa ab 0 off))
  | .atomAddP64 _ g sd sa ab off => some (short 0x8A g (bodyAT sd sa ab 0 off))
  | .atomSwap32 _ g sd sa ab off => some (short 0x8B g (bodyAT sd sa ab 0 off))
  | .atomSwap64 _ g sd sa ab off => some (short 0x8C g (bodyAT sd sa ab 0 off))
  | .atomSwap256 _ g aw ab off => some (short 0x8D g (bodyAT 0 0 ab aw off))
  | .gtabGrant _ g sa sb => some (short 0x90 g (bodyRR 0 sa sb))
  | .gtabRevoke _ g sa => some (short 0x91 g (bodyRR 0 sa 0))
  | .gtabInstall _ g sd sa ab aw off => some (short 0x92 g (bodyAT sd sa ab aw off))
  | .evtPost _ g pd sa ab off => some (short 0x93 g (bodyHR pd sa ab off))
  | .runSubmit _ g pd ab off => some (short 0xA0 g (bodyHR pd 0 ab off))
  | .runCancel _ g sa sb => some (short 0xA1 g (bodyRR 0 sa sb))
  | .resGrant _ g sd sa sb => some (short 0xA2 g (bodyRR sd sa sb))
  | .resFree _ g sd sa sb => some (short 0xA3 g (bodyRR sd sa sb))
  | .psort _ g sd ab off => some (short 0xA8 g (bodyAT sd 0 ab 0 off))
  | _ => none

/-! ## Which words are defined (R238, R245) -/

/-- Profiles that accept an opcode. -/
inductive Prof
  | both | tile | svc
deriving DecidableEq, Repr

/-- An opcode: its form X, its profile, and the fields it uses in the first and the extension word, each as lowest bit
and width. Every other bit of the body is zero. -/
structure Row where
  op : Nat
  x : Bool
  prof : Prof
  used : List (Nat × Nat)
  ext : List (Nat × Nat) := []

def fRR : List (Nat × Nat) := [(46, 5), (41, 5), (36, 5)]
def fRI : List (Nat × Nat) := [(46, 5), (41, 5), (0, 32)]
def fAT : List (Nat × Nat) := [(46, 5), (41, 5), (37, 4), (0, 32)]
def fHR : List (Nat × Nat) := [(48, 3), (41, 5), (37, 4), (0, 32)]
def fTbl : List (Nat × Nat) := [(47, 4), (46, 1), (43, 3), (41, 2), (37, 4), (31, 6), (19, 12)]
def fLacc : List (Nat × Nat) := [(47, 4), (46, 1), (43, 3), (37, 6), (25, 12), (13, 12)]
def eLacc : List (Nat × Nat) := [(48, 16), (33, 15), (0, 32)]

/-- The opcodes of control, scalar and memory instructions. -/
def rowsA : List Row :=
  [ ⟨0x01, false, .both, [], []⟩, ⟨0x02, false, .both, [], []⟩, ⟨0x03, false, .both, [(0, 32)], []⟩,
    ⟨0x04, false, .both, [(46, 5), (0, 32)], []⟩, ⟨0x05, false, .both, [(41, 5)], []⟩ ] ++
  (List.range 16).map (fun i => ⟨0x10 + i, false, .both, fRR, []⟩) ++
  (List.range 16).map (fun i => ⟨0x20 + i, false, .both, fRI, []⟩) ++
  [ ⟨0x30, true, .both, [(46, 5)], [(0, 64)]⟩, ⟨0x31, false, .both, [(46, 5), (0, 32)], []⟩,
    ⟨0x32, false, .both, [(46, 5), (38, 4), (0, 32)], []⟩, ⟨0x33, false, .both, [(42, 4), (33, 5), (0, 32)], []⟩,
    ⟨0x34, false, .both, [(42, 4), (38, 4), (0, 32)], []⟩,
    ⟨0x35, false, .both, [(48, 3), (44, 4), (39, 5), (34, 5), (33, 1), (0, 32)], []⟩,
    ⟨0x36, false, .both, [(48, 3), (45, 3), (42, 3), (40, 2)], []⟩ ] ++
  (List.range 6).map (fun i => ⟨0x38 + i, false, .both, fRR, []⟩) ++
  [ ⟨0x3E, false, .both, [(46, 5), (41, 5)], []⟩, ⟨0x3F, false, .both, [(46, 5), (41, 5)], []⟩,
    ⟨0x40, false, .both, [(46, 5), (42, 4), (40, 2), (39, 1), (0, 32)], []⟩,
    ⟨0x41, false, .both, [(46, 5), (42, 4), (40, 2), (0, 32)], []⟩,
    ⟨0x42, false, .svc, [(46, 5), (42, 4), (40, 2), (39, 1), (34, 5), (0, 32)], []⟩,
    ⟨0x43, false, .svc, [(46, 5), (42, 4), (40, 2), (34, 5), (0, 32)], []⟩ ]

/-- The opcodes of the unit, stream, ring, sluice, atomic and service instructions. -/
def rowsB : List Row :=
  [ ⟨0x50, true, .tile, fTbl, [(60, 4), (56, 4), (55, 1), (32, 16), (16, 16)]⟩,
    ⟨0x51, false, .tile, [(47, 4), (46, 1), (0, 32)], []⟩, ⟨0x52, true, .tile, fTbl, [(60, 4), (56, 4), (55, 1)]⟩ ] ++
  (List.range 7).map (fun i => ⟨0x58 + i, true, .tile, fLacc, eLacc⟩) ++
  [ ⟨0x60, true, .tile, [(14, 37)], [(48, 16), (33, 15)]⟩, ⟨0x61, false, .tile, [(42, 9), (0, 32)], []⟩,
    ⟨0x68, false, .tile, [(43, 8), (0, 32)], []⟩, ⟨0x70, false, .both, [(41, 10), (0, 32)], []⟩,
    ⟨0x71, false, .both, [(33, 18)], []⟩, ⟨0x72, false, .both, [(45, 6)], []⟩, ⟨0x73, false, .both, [(45, 6)], []⟩,
    ⟨0x74, false, .svc, [(41, 5), (36, 5)], []⟩, ⟨0x78, false, .both, [(41, 5), (0, 32)], []⟩,
    ⟨0x79, false, .both, [(41, 5), (0, 32)], []⟩, ⟨0x7A, false, .both, [(41, 5), (0, 32)], []⟩,
    ⟨0x7B, false, .both, fRI, []⟩, ⟨0x7C, false, .both, [(41, 5), (0, 32)], []⟩, ⟨0x7D, false, .both, fRI, []⟩,
    ⟨0x7E, false, .both, [(41, 5), (0, 32)], []⟩, ⟨0x80, false, .both, [(41, 5), (0, 32)], []⟩,
    ⟨0x81, false, .both, [(41, 5), (0, 32)], []⟩, ⟨0x82, false, .svc, fRR, []⟩, ⟨0x83, false, .both, [], []⟩,
    ⟨0x84, false, .svc, fHR, []⟩, ⟨0x85, false, .svc, [(41, 5)], []⟩, ⟨0x86, false, .svc, fHR, []⟩ ] ++
  (List.range 5).map (fun i => ⟨0x88 + i, false, .both, fAT, []⟩) ++
  [ ⟨0x8D, false, .both, [(37, 4), (33, 4), (0, 32)], []⟩, ⟨0x90, false, .svc, [(41, 5), (36, 5)], []⟩,
    ⟨0x91, false, .svc, [(41, 5)], []⟩, ⟨0x92, false, .svc, [(46, 5), (41, 5), (37, 4), (33, 4), (0, 32)], []⟩,
    ⟨0x93, false, .svc, fHR, []⟩, ⟨0xA0, false, .svc, [(48, 3), (37, 4), (0, 32)], []⟩,
    ⟨0xA1, false, .svc, [(41, 5), (36, 5)], []⟩, ⟨0xA2, false, .svc, fRR, []⟩, ⟨0xA3, false, .svc, fRR, []⟩,
    ⟨0xA8, false, .svc, [(46, 5), (37, 4), (0, 32)], []⟩ ]

/-- Every defined opcode. -/
def rows : List Row := rowsA ++ rowsB

/-- A field of a word. -/
def wf (w lo n : Nat) : Nat := w / 2 ^ lo % 2 ^ n

/-- The bits of a word that lie in a list of fields. -/
def keepFields (w : Nat) (fs : List (Nat × Nat)) : Nat := (fs.map (fun f => wf w f.1 f.2 * 2 ^ f.1)).foldl (· + ·) 0

/-- The field values that an instruction does not define, and its fields that other fields leave unused. R238, R245. -/
def fieldsOk (op w e : Nat) : Bool :=
  if op = 0x31 then decide (wf w 0 32 < 10)
  else if op = 0x35 then decide (wf w 44 4 < 10) && (if wf w 33 1 = 1 then wf w 34 5 == 0 else wf w 0 32 == 0)
  else if op = 0x50 ∨ op = 0x52 then
    wf w 43 3 != 7 && wf w 41 2 != 3 && (decide (wf w 37 4 < 6) && wf w 37 4 != 0) && (wf w 43 3 == 5 || wf e 56 4 == 0) &&
    (wf e 55 1 == 0 || wf e 60 4 == 0)
  else if 0x58 ≤ op ∧ op ≤ 0x5E then wf e 48 16 == 0xFFFF || (wf w 47 4 == 0 && wf e 0 32 == 0)
  else if op = 0x60 then
    wf w 46 2 != 3 && wf w 39 2 != 3 && wf w 37 2 != 3 && (wf w 39 2 == 1 || (wf w 37 2 == 0 && wf w 29 4 == 0)) &&
    (wf w 46 2 != 0 || wf w 33 4 == 0) && wf e 48 16 != 0x8000 && (wf w 45 1 == 1 || wf e 48 16 == 0)
  else if op = 0x61 then wf w 46 2 != 3
  else if op = 0x71 then (wf w 34 1 == 0 || wf w 40 5 == 0) && (wf w 33 1 == 0 || wf w 35 5 == 0)
  else true

/-- The row of an opcode. -/
def rowOf (op : Nat) : Option Row := rows.find? (fun r => r.op == op)

/-- The words are a defined encoding. R238, R245. -/
def definedWords (w0 w1 : W64) : Bool :=
  let w := w0.toNat
  match rowOf (wf w 56 8) with
  | none => false
  | some r =>
    (wf w 55 1 == r.x.toNat) && (keepFields w r.used == w % 2 ^ 51) &&
    (!r.x || keepFields w1.toNat r.ext == w1.toNat) && fieldsOk r.op w w1.toNat

/-- A profile accepts the opcode of a defined encoding. R199. -/
def profileOk (tile : Bool) (w0 : W64) : Bool :=
  match rowOf (wf w0.toNat 56 8) with
  | none => false
  | some r => match r.prof with
    | .both => true
    | .tile => tile
    | .svc => !tile

end Sys2Proof.Machine
end

