-- ==== Sys2Proof/WellFormed.lean ====
section
/-! DEFINITION. Well-formedness of a command: the field values that an encoding leaves undefined (R238, R245), and the numbers of units
that the package has. -/

namespace Sys2Proof

/-- `mov.rv` accepts indexes 0 to 9. R249. -/
def wfMovRv (imm : BitVec 32) : Bool := imm.ult 10

/-- CC 10 to 15 are undefined; the field that I does not select is zero. R244, R245, R250. -/
def wfCmp (cc : BitVec 4) (sb : BitVec 5) (i : Bool) (imm : BitVec 32) : Bool :=
  cc.ult 10 && (if i then sb == 0 else imm == 0)

/-- ENC 7 and BPOS 3 are undefined; IFMT is BF16, FP16, FP8-E4M3, FP8-E5M2 or INT8; ACB is zero unless ENC is CB, and ARS
is zero with RSN. R259. -/
def wfTbl (enc : BitVec 3) (bpos : BitVec 2) (ifmt ars acb : BitVec 4) (rsn : Bool) : Bool :=
  enc != 7 && bpos != 3 && (ifmt.ult 6 && ifmt != 0) && (enc == 5 || acb == 0) && (!rsn || ars == 0)

/-- With a ring, AW and WOFF are zero. R266. -/
def wfLacc (aw : BitVec 4) (wring : BitVec 16) (woff : BitVec 32) : Bool :=
  wring == 0xFFFF || (aw == 0 && woff == 0)

/-- The undefined values and the unused fields of `bin.open`. R272. -/
def wfBinOpen (src : BitVec 2) (anchMode : Bool) (gsMode gsize : BitVec 2) (apre ags : BitVec 4) (anch : BitVec 16) : Bool :=
  src != 3 && gsMode != 3 && gsize != 3 && (gsMode == 1 || (gsize == 0 && ags == 0)) && (src != 0 || apre == 0) &&
  anch != 0x8000 && (anchMode || anch == 0)

/-- DEST 3 is undefined. R274. -/
def wfBinClose (dest : BitVec 2) : Bool := dest != 3

/-- SA is zero with KD, SB is zero with KI. R278. -/
def wfRearm (sa sb : BitVec 5) (kd ki : Bool) : Bool := (!kd || sa == 0) && (!ki || sb == 0)

/-- The core exists. -/
def Core.wf : Core → Bool
  | .tile l => decide (l < 192)
  | .miller c => decide (c < 16)

/-- The core is a tile's sequencer. -/
def Core.isTile : Core → Bool
  | .tile _ => true
  | .miller _ => false

/-- The unit exists. -/
def EnUnit.wf : EnUnit → Bool
  | .tile p => decide (p < 200)
  | .engine e => decide (e < 48)
  | .lane n => decide (n < 32)
  | .port p => decide (p < 16)
  | .core c => decide (c < 16)

/-- A stall agent exists. -/
def StallAgent.wf : StallAgent → Bool
  | .tile p => decide (p < 200)
  | .engine e => decide (e < 48)
  | .slot k => decide (k < 1024)

/-- The field values that R238 and R245 leave undefined are refused, and so are numbers of cores, units, tiles, dies, rings, contexts,
devices and the like that the package does not have. -/
def Instr.wf : Instr → Bool
  | .nop c _ => c.wf
  | .opEnd c _ => c.wf
  | .br c _ _ => c.wf
  | .jal c _ _ _ => c.wf
  | .jr c _ _ => c.wf
  | .undefinedEncoding c _ _ => c.wf
  | .add c _ _ _ _ => c.wf
  | .sub c _ _ _ _ => c.wf
  | .mul c _ _ _ _ => c.wf
  | .mulhu c _ _ _ _ => c.wf
  | .opAnd c _ _ _ _ => c.wf
  | .opOr c _ _ _ _ => c.wf
  | .opXor c _ _ _ _ => c.wf
  | .shl c _ _ _ _ => c.wf
  | .shr c _ _ _ _ => c.wf
  | .sra c _ _ _ _ => c.wf
  | .opMin c _ _ _ _ => c.wf
  | .opMax c _ _ _ _ => c.wf
  | .minu c _ _ _ _ => c.wf
  | .maxu c _ _ _ _ => c.wf
  | .divu c _ _ _ _ => c.wf
  | .remu c _ _ _ _ => c.wf
  | .addI c _ _ _ _ => c.wf
  | .subI c _ _ _ _ => c.wf
  | .mulI c _ _ _ _ => c.wf
  | .mulhuI c _ _ _ _ => c.wf
  | .andI c _ _ _ _ => c.wf
  | .orI c _ _ _ _ => c.wf
  | .xorI c _ _ _ _ => c.wf
  | .shlI c _ _ _ _ => c.wf
  | .shrI c _ _ _ _ => c.wf
  | .sraI c _ _ _ _ => c.wf
  | .minI c _ _ _ _ => c.wf
  | .maxI c _ _ _ _ => c.wf
  | .minuI c _ _ _ _ => c.wf
  | .maxuI c _ _ _ _ => c.wf
  | .divuI c _ _ _ _ => c.wf
  | .remuI c _ _ _ _ => c.wf
  | .li c _ _ _ => c.wf
  | .movRv c _ _ imm => c.wf && wfMovRv imm
  | .movSa c _ _ _ _ => c.wf
  | .movAs c _ _ _ _ => c.wf
  | .addaI c _ _ _ _ => c.wf
  | .cmpCc c _ _ cc _ sb useImm imm => c.wf && wfCmp cc sb useImm imm
  | .pLop c _ _ _ _ _ => c.wf
  | .fadd c _ _ _ _ => c.wf
  | .fsub c _ _ _ _ => c.wf
  | .fmul c _ _ _ _ => c.wf
  | .fdiv c _ _ _ _ => c.wf
  | .fmin c _ _ _ _ => c.wf
  | .fmax c _ _ _ _ => c.wf
  | .fcvtFI c _ _ _ => c.wf
  | .fcvtIF c _ _ _ => c.wf
  | .ld c _ _ _ _ _ _ => c.wf
  | .st c _ _ _ _ _ => c.wf
  | .ldc c _ _ _ _ _ _ _ => c.wf
  | .stc c _ _ _ _ _ _ => c.wf
  | .tblBuild c _ _ _ enc bpos ifmt _ _ ars acb rsn _ _ => c.wf && wfTbl enc bpos ifmt ars acb rsn
  | .tblSave c _ _ _ _ => c.wf
  | .tblLoad c _ _ _ enc bpos ifmt _ _ ars acb rsn => c.wf && wfTbl enc bpos ifmt ars acb rsn
  | .laccBin c _ aw _ _ _ _ _ wring _ woff => c.wf && wfLacc aw wring woff
  | .laccTer c _ aw _ _ _ _ _ wring _ woff => c.wf && wfLacc aw wring woff
  | .laccI2 c _ aw _ _ _ _ _ wring _ woff => c.wf && wfLacc aw wring woff
  | .laccI3 c _ aw _ _ _ _ _ wring _ woff => c.wf && wfLacc aw wring woff
  | .laccI4 c _ aw _ _ _ _ _ wring _ woff => c.wf && wfLacc aw wring woff
  | .laccCb c _ aw _ _ _ _ _ wring _ woff => c.wf && wfLacc aw wring woff
  | .laccFp4 c _ aw _ _ _ _ _ wring _ woff => c.wf && wfLacc aw wring woff
  | .binOpen c _ _ src anchMode _ gsMode gsize apre ags _ _ anch _ => c.wf && wfBinOpen src anchMode gsMode gsize apre ags anch
  | .binClose c _ _ dest _ _ => c.wf && wfBinClose dest
  | .attn c _ _ _ _ => c.wf
  | .strmArm c _ _ _ _ => c.wf
  | .strmRearm c _ _ sa sb kd ki => c.wf && wfRearm sa sb kd ki
  | .strmWait c _ _ => c.wf
  | .strmHalt c _ _ => c.wf
  | .strmResume c _ _ _ => c.wf
  | .ringAttachP c _ _ _ => c.wf
  | .ringAttachC c _ _ _ => c.wf
  | .ringDetach c _ _ _ => c.wf
  | .ringClaim c _ _ _ _ => c.wf
  | .ringPost c _ _ _ => c.wf
  | .ringTake c _ _ _ _ => c.wf
  | .ringGive c _ _ _ => c.wf
  | .sluiceArrive c _ _ _ => c.wf
  | .sluiceWait c _ _ _ => c.wf
  | .sluiceReset c _ _ _ _ => c.wf
  | .fence c _ => c.wf
  | .hringPeek c _ _ _ _ _ => c.wf
  | .hringPop c _ _ => c.wf
  | .hringPush c _ _ _ _ _ => c.wf
  | .atomAddI32 c _ _ _ _ _ => c.wf
  | .atomAddF32 c _ _ _ _ _ => c.wf
  | .atomAddP64 c _ _ _ _ _ => c.wf
  | .atomSwap32 c _ _ _ _ _ => c.wf
  | .atomSwap64 c _ _ _ _ _ => c.wf
  | .atomSwap256 c _ _ _ _ => c.wf
  | .gtabGrant c _ _ _ => c.wf
  | .gtabRevoke c _ _ => c.wf
  | .gtabInstall c _ _ _ _ _ _ => c.wf
  | .evtPost c _ _ _ _ _ => c.wf
  | .runSubmit c _ _ _ _ => c.wf
  | .runCancel c _ _ _ => c.wf
  | .resGrant c _ _ _ _ => c.wf
  | .resFree c _ _ _ _ => c.wf
  | .psort c _ _ _ _ => c.wf
  | .queuedOperationStart l _ => decide (l < 192)
  | .sequencerResume c => c.wf
  | .tableBuildDone l => decide (l < 192)
  | .tableSaveDone l => decide (l < 192)
  | .wave l => decide (l < 192)
  | .anchorRaise l bin => decide (l < 192) && decide (bin < 8)
  | .preloadDone l => decide (l < 192)
  | .binCloseReadDone l => decide (l < 192)
  | .binCloseDone l _ => decide (l < 192)
  | .attnOperationStart e => decide (e < 48)
  | .attnPage e => decide (e < 48)
  | .attnOperationDone e => decide (e < 48)
  | .dispatchCheck die => decide (die < 4)
  | .dispatch die _ => decide (die < 4)
  | .runEnd die _ => decide (die < 4)
  | .runStopped die _ => decide (die < 4)
  | .runDeadlockWatchdog die _ => decide (die < 4)
  | .runLimit die _ => decide (die < 4)
  | .runAged die _ => decide (die < 4)
  | .stallTick a _ => a.wf
  | .transferIssue k => decide (k < 1024)
  | .transferAck k _ => decide (k < 1024)
  | .passEnd k => decide (k < 1024)
  | .streamHalt k => decide (k < 1024)
  | .haltNoticeWrite die => decide (die < 4)
  | .deadlockWatchdog k => decide (k < 1024)
  | .weirRefill die ctx => decide (die < 4) && decide (ctx < 4096)
  | .bankAtomicApply c => c.wf
  | .eccWriteback p word => decide (p < 200) && decide (word < 196608)
  | .retentionEntry p bank => decide (p < 200) && decide (bank < 3)
  | .bankWakeDone p bank => decide (p < 200) && decide (bank < 3)
  | .marchDone p _ => decide (p < 200)
  | .tileRemapComplete l => decide (l < 192)
  | .gristDecodeBlock k _ => decide (k < 1024)
  | .gristEncodeBlock k _ => decide (k < 1024)
  | .gtabInstallDone slot => decide (slot < 256)
  | .resFreeDone c => decide (c < 16)
  | .patrolScrub stack => decide (stack < 12)
  | .sparingCopyDone stack => decide (stack < 12)
  | .memXlatInvalWrite _ _ => true
  | .xlatInvalDone => true
  | .hdrTblInvalWrite _ => true
  | .tblInvalDone => true
  | .flitReceive port _ => decide (port < 16)
  | .laneAlignmentLoss port => decide (port < 16)
  | .portSilence port => decide (port < 16)
  | .portId port _ _ _ => decide (port < 16)
  | .creditInit port => decide (port < 16)
  | .packetSend => true
  | .fabricLoad _ => true
  | .fabricStore _ => true
  | .fabricRead _ => true
  | .fabricWrite _ => true
  | .fabricAddI32 _ => true
  | .fabricAddF32 _ => true
  | .fabricAddP64 _ => true
  | .fabricAddP64x4 _ => true
  | .fabricSwap32 _ => true
  | .fabricSwap64 _ => true
  | .fabricSwap256 _ => true
  | .fabricSluiceArrive _ => true
  | .fabricResponse _ => true
  | .reorderRelease src oclass => decide (src < 16384) && decide (oclass < 4)
  | .requestTimeout _ => true
  | .keeperAnnounce => true
  | .slotReport slot _ _ => decide (slot < 32)
  | .rackReport _ _ => true
  | .hallWait => true
  | .mapDistribution _ map devnum _ => map.all (fun x => decide (x.1 < 512)) && devnum.all (fun d => decide (d < 16384))
  | .join slot _ _ => decide (slot < 32)
  | .mapChange _ dev _ => decide (dev < 16384)
  | .joinRetry => true
  | .keeperHeartbeat => true
  | .keeperFailover _ => true
  | .heartbeatMiss slot => decide (slot < 32)
  | .bind ring => decide (ring < 65536)
  | .unbind ring => decide (ring < 65536)
  | .opAdmit ring => decide (ring < 65536)
  | .cancel ring => decide (ring < 65536)
  | .load ring => decide (ring < 65536)
  | .activate ring => decide (ring < 65536)
  | .discard ring => decide (ring < 65536)
  | .heldRecordRetake ring => decide (ring < 65536)
  | .planStep ctx _ _ _ _ _ => decide (ctx < 4096)
  | .sequenceSpill ctx seq => decide (ctx < 4096) && decide (seq < 32768)
  | .stepSample ctx => decide (ctx < 4096)
  | .completionRecordRetry ring => decide (ring < 65536)
  | .manifestVerified ctx => decide (ctx < 4096)
  | .shardFetchDone ctx shard => decide (ctx < 4096) && decide (shard < 16384)
  | .sourceReadyPoll ctx shard => decide (ctx < 4096) && decide (shard < 16384)
  | .shardMissing ctx shard => decide (ctx < 4096) && decide (shard < 16384)
  | .slotDiscard ctx => decide (ctx < 4096)
  | .coreHandover c ctx dest => decide (c < 16) && decide (ctx < 4096) && decide (dest < 16)
  | .coreHalt c => decide (c < 16)
  | .millerCoreRestart c => decide (c < 16)
  | .drainedUpdate => true
  | .submitDoorbell fn _ _ _ => decide (fn < 256)
  | .headDoorbell fn _ _ => decide (fn < 256)
  | .ringArm fn _ _ => decide (fn < 256)
  | .moderationExpiry ring => decide (ring < 65536)
  | .ringDescWrite fn _ _ _ _ => decide (fn < 256)
  | .ringEnable fn _ => decide (fn < 256)
  | .ringDisable fn _ => decide (fn < 256)
  | .ringDisableDone ring => decide (ring < 65536)
  | .hifFnRingsWrite f _ => decide (f < 256)
  | .hifFnVecWrite f _ => decide (f < 256)
  | .bar4Access _ _ _ => true
  | .vfFlr v => decide (1 ≤ v) && decide (v < 256)
  | .pfFlr => true
  | .hotReset => true
  | .pcieLinkDown => true
  | .perstNRelease => true
  | .registerWrite fn _ _ _ => decide (fn < 256)
  | .registerReadClear fn _ _ => decide (fn < 256)
  | .bankWakeRequest p => decide (p < 200)
  | .unitEnableRequest u => u.wf
  | .unitDisableRequest u => u.wf
  | .enableComplete u => u.wf
  | .enableFail u => u.wf
  | .disableComplete u => u.wf
  | .rateWindow p => decide (p < 200)
  | .oscCalibration tiles dies ports =>
    tiles.all (fun x => decide (x.1 < 200)) && dies.all (fun x => decide (x.1 < 4)) && ports.all (fun x => decide (x.1 < 2))
  | .powerSample _ => true
  | .capLoop => true
  | .sensorRead readings => readings.all (fun x => decide (x.1 < 200))
  | .brakeRelease => true
  | .brakeLevelRaise => true
  | .readyLevelRaise => true
  | .avsTransactionDone rail _ => decide (rail < 4)
  | .thermalTrip p => decide (p < 200)
  | .slowdown _ => true
  | .recover _ => true
  | .skew _ => true
  | .tokens _ => true
  | .mode _ => true
  | .slowdownRepeat => true
  | .slowdownNoticeExpiry dev => decide (dev < 16384)
  | .powerGoodRise _ _ _ => true
  | .bringupStepDone _ _ => true
  | .bringupBoundMissed _ => true
  | .pwrGoodFall _ => true
  | .entdaa _ => true
  | .rstdaa => true
  | .setnewda _ => true
  | .getpid => true
  | .getbcr => true
  | .getdcr => true
  | .getstatus => true
  | .enec => true
  | .disec => true
  | .setmwl _ => true
  | .getmwl => true
  | .setmrl _ => true
  | .getmrl => true
  | .rstact _ => true
  | .hotJoin => true
  | .i3cPrivateRead => true
  | .getInfo _ _ => true
  | .getNonce _ _ => true
  | .nonceExpiry _ _ => true
  | .auditRead _ _ => true
  | .auditHead _ _ => true
  | .auditAck _ _ => true
  | .setCap _ _ => true
  | .setCapRange _ _ => true
  | .setGroupCfg _ _ => true
  | .setDroop _ _ => true
  | .vtabWithdraw _ _ => true
  | .vtabRestore _ _ => true
  | .setTopology _ _ => true
  | .setLoadSpan _ _ => true
  | .pubkeyAdd _ _ => true
  | .pubkeyRemove _ _ => true
  | .pubkeyList _ _ => true
  | .opkeyAdd _ _ => true
  | .opkeyRemove _ _ => true
  | .installerKeySet _ _ => true
  | .fwStage _ _ => true
  | .fwApprove _ _ => true
  | .fwCommitSvn _ _ => true
  | .fwChunk _ _ => true
  | .marchReq _ _ => true
  | .tileRetire _ _ => true
  | .frameRetire _ _ => true
  | .pcSpare _ _ => true
  | .bar4Open _ _ => true
  | .bar4Close _ _ => true
  | .rtvConsent _ _ => true
  | .rtvEnter _ _ => true
  | .makerDiag _ _ => true
  | .makerProvision _ _ => true
  | .unknownCommand _ _ _ => true
  | .mgtRestart => true
  | .pcieLinkUp _ _ => true
  | .laneAlignment port _ => decide (port < 16)
  | .crossingClockStop x => decide (x < 34)
  | .crossingClockReturn x => decide (x < 34)
  | .setpointReached p => decide (p < 200)
  | .stackRetraining stack => decide (stack < 12)
  | .d2dLinkRetraining link => decide (link < 4)
  | .mgtReachesService => true
  | .submissionUndefinedKind ring => decide (ring < 65536)

end Sys2Proof
end

