-- ==== Sys2Proof/Machine/Issue.lean ====
section
/-! DEFINITION. What every instruction shares (05, 06): when a sequencer issues, the checks before an instruction executes,
guards, and how a fault stops a run or a Miller core. -/

namespace Sys2Proof.Machine
open Sys2Proof

/-! ## Faults of a run (R203, R228) and of a service core (R230) -/

/-- Step 1 of R228 at a tile: nothing more issues, and every queued operation that has not started is discarded. Requests that
are on their way complete. -/
def Tile.stop (t : Tile) (m : SeqMode) : Tile :=
  { t with
    seqr := { t.seqr with mode := if t.seqr.mode = .faulted then .faulted else m, hold := .none, released := false }
    hopQ := [], lookQ := [], binQ := [], strmQ := []
    closes := t.closes.filter (fun c => c.started)
    atomQ := t.atomQ.filter (fun a => a.sent) }

/-- The generation that a close refers to. R211. -/
def CloseOp.refs (o : CloseOp) : List GRef :=
  match o.dest with
  | .tailrace d => if d.grsEn then [{ slot := d.grsSlot, gen := d.grsGen }] else []
  | _ => []

def BinOp.refs : BinOp → List GRef
  | .opn _ => []
  | .cls o => o.refs

/-- The references of the operations that step 1 of R228 discards. R211. -/
def Tile.queuedRefs (t : Tile) : List GRef :=
  t.binQ.flatMap BinOp.refs ++ (t.closes.filter (fun c => !c.started)).flatMap (fun c => c.op.refs) ++
  t.strmQ.flatMap (fun o => match o with
    | .arm _ _ _ _ _ rs _ => rs
    | .rearm _ _ _ _ _ _ _ => []
    | .post _ _ => [])

/-- Step 1 of R228 at a physical tile. -/
def stopTile (s : State) (p : Nat) : State := (dropRefs s (s.tile p).queuedRefs).modTile p (fun t => t.stop .stopped)

/-- Step 1 of R228 for every tile and engine of a run. -/
def stopRun (s : State) (r : Run) : State :=
  let s1 := r.rr.tileList.foldl (fun s l => stopTile s (s.phys l)) s
  r.engines.foldl (fun s e => s.modEngine e (fun g => { g with queue := [] })) s1

/-- Fault classes. 05, "Faults and their delivery". -/
def clsIssue : Nat := 0
def clsOperation : Nat := 1
def clsMachine : Nat := 2
def clsWatchdog : Nat := 3
def clsHalt : Nat := 4
def clsDispatch : Nat := 5

/-- An active run faults: the first fault is kept. R203, R228, R231. -/
def faultRun (s : State) (d rid : Nat) (f : Flt) (pc : Option W64) (tile cls : Nat) : State :=
  match s.run? d rid with
  | none => s
  | some r =>
    if r.phase = .active then
      (stopRun s r).modRun d rid (fun r => { r with phase := .stopping, fault := f, faultPc := pc, faultTile := tile, faultClass := cls })
    else s

/-- The run of logical tile `l` faults by an instruction of that tile. R203, R231. -/
def faultTile (s : State) (l : Nat) (f : Flt) (pc : W64) (cls : Nat) : State :=
  match s.runOf l with
  | none => s
  | some r => faultRun s (l / 48) r.rid f (some (pc - r.rr.progAddr)) (r.rr.indexOf l) cls

/-- A machine-class fault of a tile's access; `counted` against the physical tile unless the word was marked. R317, R681, R716. -/
def machineFault (s : State) (l : Nat) (pc : W64) (counted : Bool) : State :=
  faultTile (if counted then s.modTile (s.phys l) (fun t => { t with machineFaults := t.machineFaults + 1 }) else s)
    l .eccUncorrectable pc clsMachine

/-- A service-profile fault halts the Miller core. R230. -/
def serviceFault (s : State) (m : Nat) : State :=
  s.modMiller m (fun k => { k with run := .halted, seqr := { k.seqr with mode := .faulted, hold := .none, released := false } })

/-- A fault of the instruction at the pc of a core. R203, R230. -/
def coreFault (s : State) (c : Core) (f : Flt) (cls : Nat) : State :=
  match c with
  | .tile l =>
    faultTile (s.modSeqr c (fun q => { q with mode := .faulted })) l f (s.seqr c).pc cls
  | .miller m => serviceFault s m

/-! ## Handshakes (R226, R595, R618) -/

/-- The tile's rate governor lets `n` more handshakes through in the present window; a tile whose regulator is off makes none.
R595, R608. -/
def rateOk (s : State) (p n : Nat) : Bool :=
  s.pins.thermtripN && ((s.fanTile p).limit == 0 || decide ((s.tile p).window + n ≤ (s.fanTile p).limit))

/-- Ticks of the oscillator of a run's lowest-numbered tile. R226. -/
def runTicks (s : State) (r : Run) : Nat := (s.tile (s.phys (nth 0 r.rr.tileList 0))).ticks

/-- A run of which a tile, engine or stream completed a handshake. R226. -/
def progress (s : State) (d rid : Nat) : State :=
  match s.run? d rid with
  | none => s
  | some r => s.modRun d rid (fun x => { x with progressTick := runTicks s r })

/-- `n` handshakes of logical tile `l`. R226, R595, R618. -/
def tileHs (s : State) (l n : Nat) : State :=
  let s1 := s.modTile (s.phys l) (fun t => { t with hs := (t.hs + n) % 2 ^ 64, window := t.window + n })
  match (s.ltile l).run with
  | none => s1
  | some rid => progress s1 (l / 48) rid

def coreHs (s : State) (c : Core) (n : Nat) : State :=
  match c with
  | .tile l => tileHs s l n
  | .miller _ => s

/-! ## Issue -/

/-- The sequencer may issue: its run is active, or its core is running, and nothing holds it. R186, R203, R228. -/
def canIssue (s : State) (c : Core) : Bool :=
  (s.seqr c).mode == .running && (s.seqr c).hold == .none &&
  (match c with
   | .tile l => decide (l < 192) && (s.ltile l).st == .held && rateOk s (s.phys l) 1 &&
      (match s.runOf l with
       | some r => r.phase == .active
       | none => false)
   | .miller m => decide (m < 16) && ((s.miller m).run == .running || (s.miller m).run == .handingOver))

/-- What an instruction's own effect comes to. -/
inductive Iss
  /-- executed: the pc moves past the instruction -/
  | done (s : State)
  /-- executed: the pc moves to a target, in two handshakes -/
  | jump (s : State) (pc : W64)
  /-- faults at issue -/
  | fault (s : State) (f : Flt)
  /-- holds the sequencer at the instruction -/
  | hold (s : State) (h : Hold)
  /-- cannot issue yet: a queue is full, or a block hazard stands -/
  | stay (s : State)

/-- The same outcome with its state changed by `f`. -/
def Iss.map (f : State → State) : Iss → Iss
  | .done s => .done (f s)
  | .jump s pc => .jump (f s) pc
  | .fault s e => .fault (f s) e
  | .hold s h => .hold (f s) h
  | .stay s => .stay (f s)

/-- Length, profiles and source registers of an instruction. R199, R236, R242. -/
structure Form where
  wf : Bool := true
  tile : Bool := true
  svc : Bool := true
  long : Bool := false
  reads : List (BitVec 5) := []

/-- Bytes of an instruction. R237. -/
def Form.size (f : Form) : W64 := if f.long then 16 else 8

/-- The guard's value. R240. -/
def guardOn (q : Seqr) (g : Guard) : Bool := q.p g.g != g.gn

/-- The first source register that waits for data. R242. -/
def waitingReg (q : Seqr) (rs : List (BitVec 5)) : Option (BitVec 5) :=
  rs.find? (fun r => q.waiting.any (fun w => w.1 == r.toNat))

/-- The pc past the instruction, with its handshake. R237, R243. -/
def advance (s : State) (c : Core) (n : W64) : State :=
  coreHs (s.modSeqr c (fun q => { q with pc := q.pc + n })) c 1

/-- The result of an instruction's own effect on the sequencer. -/
def finish (c : Core) (f : Form) : Iss → State
  | .done s => advance s c f.size
  | .jump s pc => coreHs (s.modSeqr c (fun q => { q with pc := pc })) c 2
  | .fault s e => coreFault s c e clsIssue
  | .hold s h => s.modSeqr c (fun q => { q with hold := h })
  | .stay s => s

/-- Issue of an instruction: profile and encoding before the guard (R199, R238, R239, R718), a skipped instruction takes one
handshake (R240), a source register that waits for data holds the sequencer (R242), then the instruction's own effect. -/
def issue (s : State) (c : Core) (g : Guard) (f : Form) (body : State → Iss) : Host.Outcome State Fault Refusal :=
  .next
    (if canIssue s c then
      (if !f.wf || !(if c.isTile then f.tile else f.svc) then coreFault s c .operandInvalid clsIssue
       else if !guardOn (s.seqr c) g then advance s c f.size
       else match waitingReg (s.seqr c) f.reads with
         | some r => s.modSeqr c (fun q => { q with hold := .reg r.toNat })
         | none => finish c f (body s))
     else s)

/-- A write of scalar register `sd` by an instruction: it also takes the place of a load's data still to come. R200, R242. -/
def Seqr.writeS (q : Seqr) (sd : BitVec 5) (v : W64) : Seqr :=
  { q.setS sd v with waiting := q.waiting.filter (fun w => w.1 != sd.toNat) }

/-- An instruction whose whole effect is on the registers of its sequencer. -/
def issueReg (s : State) (c : Core) (g : Guard) (f : Form) (eff : Seqr → Seqr) : Host.Outcome State Fault Refusal :=
  issue s c g f (fun s => .done (s.modSeqr c eff))

/-- IMM and OFF fields are sign-extended to 64 bits. 06. -/
def sext32 (i : BitVec 32) : W64 := i.signExtend 64

/-- The effective address a[AB] + OFF. 06. -/
def effAddr (q : Seqr) (ab : BitVec 4) (off : BitVec 32) : W64 := q.a ab + sext32 off

end Sys2Proof.Machine
end

