-- ==== Sys2Proof/Machine/Units.lean ====
section
/-! DEFINITION. The enable state machine of tiles, engines, lanes, ports and Miller cores (16, R631 to R636, R728), the banks of a tile
and its march engine (07), and regulators that reach their setpoints (15, R599). -/

namespace Sys2Proof.Machine
open Sys2Proof

/-! ## The enable state machine (R631, R632) -/

/-- A write of EN. R631. -/
def UnitEn.request (u : UnitEn) (on : Bool) : UnitEn :=
  { u with
    en := on
    st := match u.st, on with
      | .off, true => .enabling
      | .enabling, false => .disabling
      | .on, false => .disabling
      | .disabling, true => .disablingThenOn
      | .disablingThenOn, false => .disabling
      | x, _ => x }

/-- Enable complete. R631. -/
def UnitEn.complete (u : UnitEn) : UnitEn := { u with st := if u.st = .enabling then .on else u.st }

/-- Enable fails. R631, R728. -/
def UnitEn.fail (u : UnitEn) : UnitEn := if u.st = .enabling then { u with st := .off, err := true } else u

/-- Disable complete. R631. -/
def UnitEn.disabled (u : UnitEn) : UnitEn :=
  { u with st := match u.st with
      | .disabling => .off
      | .disablingThenOn => .enabling
      | x => x }

/-- The units that exist. -/
def unitOk : EnUnit → Bool
  | .tile p => decide (p < 200)
  | .engine e => decide (e < 48)
  | .lane n => decide (n < 32)
  | .port p => decide (p < 16)
  | .core c => decide (c < 16)

def unitOf (s : State) : EnUnit → UnitEn
  | .tile p => (s.tile p).unit
  | .engine e => (s.engine e).unit
  | .lane n => (s.lane n).unit
  | .port p => (s.port p).unit
  | .core c => (s.miller c).unit

def modUnit (s : State) (u : EnUnit) (f : UnitEn → UnitEn) : State :=
  match u with
  | .tile p => s.modTile p (fun t => { t with unit := f t.unit })
  | .engine e => s.modEngine e (fun t => { t with unit := f t.unit })
  | .lane n => s.modLane n (fun t => { t with unit := f t.unit })
  | .port p => s.modPort p (fun t => { t with unit := f t.unit })
  | .core c => s.modMiller c (fun t => { t with unit := f t.unit })

/-! ## Banks (R326 to R329) -/

/-- A wake of every retained bank of a tile. R327. -/
def wakeBanks (s : State) (p : Nat) : State :=
  s.modMpd p (fun m => { m with
    banks := [0, 1, 2].foldl (fun b i => tmod {} b i (fun k => { k with st := if k.st = .retained then .waking else k.st })) m.banks })

/-- Every bank of a tile in retention, keeping its contents. R327, R634. -/
def retainBanks (s : State) (p : Nat) : State :=
  s.modMpd p (fun m => { m with banks := [0, 1, 2].foldl (fun b i => tmod {} b i (fun k => { k with st := .retained })) m.banks })

def banksAwake (s : State) (p : Nat) : Bool := [0, 1, 2].all (fun i => (tget {} (s.tile p).mpd.banks i).st == .awake)

/-! ## Retirement for service (R215, R216) -/

/-- A physical tile behind a logical tile retires once no run holds it. R215, R216. -/
def serviceRetire (s : State) (p : Nat) : State :=
  match s.logOf p with
  | none => s
  | some l => s.modLTile l (fun x => if x.run.isSome then { x with retire := true } else if x.st = .free then { x with st := .retiring } else x)

/-! ## March (R330 to R337) -/

def opcMarchReq : Nat := 0x0050

/-- A march is running. MPD_STATUS. -/
def Mpd.marching (m : Mpd) : Bool := m.marchSt == .running

/-- A march of a tile that leaves ON is to end early. R337. -/
def abortMarch (s : State) (p : Nat) : State :=
  if (s.tile p).mpd.marching then s.modMpd p (fun m => { m with marchAbort := true }) else s

/-- Spare rows of a sub-bank that are in use. R334, R336. -/
def Mpd.sparesUsed (m : Mpd) (bank sub : Nat) : Nat := (m.repairs.filter (fun r => r.bank == bank && r.sub == sub)).length

/-- A row that fails is mapped to the next unused spare row, once for itself and once for each spare that fails. False once no spare
is left. R334, R335. -/
def repairRow (m : Mpd) (f : RowFail) : Nat → Mpd × Bool
  | 0 => (m, true)
  | n + 1 =>
    let used := m.sparesUsed f.bank f.sub
    if 4 ≤ used then (m, false)
    else
      let e : RepairEntry := { bank := f.bank, sub := f.sub, row := f.row, spare := used, preserving := m.marchPreserving }
      repairRow { m with repairs := m.repairs ++ [e], log := (e :: m.log).take 16, rowsRepaired := min 4095 (m.rowsRepaired + 1) } f n

/-- The rows that fail, of those that the banks have, in order, until one has no spare. R312, R334, R335. -/
def repairRows (m : Mpd) : List RowFail → Mpd × Bool
  | [] => (m, true)
  | f :: fs =>
    if !rowExists f.bank f.sub f.row then repairRows m fs
    else match repairRow { m with rowsFailed := min 4095 (m.rowsFailed + 1) } f (f.badSpares + 1) with
    | (m1, true) => repairRows m1 fs
    | (m1, false) => (m1, false)


/-- What a destructive march leaves: zero words with zero check bits, and FREE blocks. R331. -/
def marchZero (s : State) (p : Nat) (banks : BitVec 3) : State :=
  [0, 1, 2].foldl (fun s b =>
    if banks.getLsbD b then
      let (o, n) := bankRange b
      { (s.zero (millKey p o) n) with
        owner := s.owner.filter (fun x => !(decide (1536 * p + o / 4096 ≤ x.1) && decide (x.1 < 1536 * p + (o + n) / 4096))) }
    else s) s

/-- A march ends with PASS, REPAIRED, FAIL or ABORTED; a tile that fails a preserving march retires. The rows that
failed before an abort keep their repairs, and a bank keeps its contents. R331, R334, R335, R337. -/
def execMarchDone (p : Nat) (fails : List RowFail) (s : State) : Host.Outcome State Fault Refusal :=
  let m := (s.tile p).mpd
  let (m1, ok) := repairRows { m with rowsFailed := 0, rowsRepaired := 0 } fails
  .next (if !m.marching || !banksAwake s p then s
    else if m.marchAbort then
      auditEnd (s.modMpd p (fun _ => { m1 with marchSt := .aborted, marchStart := false, marchAbort := false })) opcMarchReq p resFailed
    else
      let st : MarchSt := if !ok then .fail else if m1.rowsRepaired = 0 then .pass else .repaired
      let s1 := if m.marchPreserving then s else marchZero s p m.marchBanks
      let s2 := s1.modMpd p (fun x => { m1 with marchSt := st, marchStart := false, ce := x.ce, ue := x.ue,
                                                writeback := if m.marchPreserving then x.writeback else [] })
      let s3 := auditEnd s2 opcMarchReq p (if ok then resDone else resFailed)
      if !ok && m.marchPreserving then serviceRetire s3 p else s3)

/-- R316: the corrected word is written back unless it has been written since. -/
def execEccWriteback (p word : Nat) (s : State) : Host.Outcome State Fault Refusal :=
  .next (if word ∈ (s.tile p).mpd.writeback then
      let s1 := s.modMpd p (fun m => { m with writeback := dropFirst (fun w => w == word) m.writeback })
      let k := millKey p (32 * word)
      (match classify (s.word k).2 with
       | .correctable i sym => s1.setWord k (correct (s.word k).1 i sym, 0)
       | _ => s1)
    else s)

/-- A bank may enter retention. R326. -/
def mayRetain (s : State) (p b : Nat) : Bool :=
  let t := s.tile p
  let k := tget {} t.mpd.banks b
  k.st == .awake && t.mpd.retEn.getLsbD b && !t.mpd.marching &&
  (match s.logOf p with
   | some l => (s.ltile l).run.isNone
   | none => true) &&
  decide (k.lastAccess + 4096 * max 1 t.mpd.idle ≤ t.ticks)

/-- R326. -/
def execRetentionEntry (p bank : Nat) (s : State) : Host.Outcome State Fault Refusal :=
  .next (if p < 200 ∧ bank < 3 ∧ mayRetain s p bank then
      s.modMpd p (fun m => { m with banks := tmod {} m.banks bank (fun k => { k with st := .retained }) })
    else s)

/-- R327. -/
def execBankWakeRequest (p : Nat) (s : State) : Host.Outcome State Fault Refusal := .next (if p < 200 then wakeBanks s p else s)

/-- R328. -/
def execBankWakeDone (p bank : Nat) (s : State) : Host.Outcome State Fault Refusal :=
  .next (if p < 200 ∧ bank < 3 ∧ (tget {} (s.tile p).mpd.banks bank).st = .waking then
      s.modMpd p (fun m => { m with banks := tmod {} m.banks bank (fun k => { k with st := .awake }) })
    else s)

/-! ## Enable and disable (R631 to R636, R728) -/

/-- A tile's regulator follows its state. R590, R634. -/
def driveTile (s : State) (p : Nat) : State := checkSlowed (driveDie (applyTile s p) (p / 50))

/-- A tile's regulator is off. R634. -/
def tileOff (s : State) (p : Nat) : State :=
  driveTile ((retainBanks s p).modFanTile p (fun t => { t with setpoint := 0, going := 0, target := 0 })) p

/-- What a unit does as it enters ENABLING. R634, R728. -/
def beginEnable (s : State) : EnUnit → State
  | .tile p => driveTile (wakeBanks s p) p
  | .core c => s.modMiller c (fun k => { k with run := .loading, unit := { k.unit with err := false } })
  | _ => s

/-- What a unit does as it enters DISABLING. R337, R529, R634. -/
def beginDisable (s : State) : EnUnit → State
  | .tile p => abortMarch s p
  | .core c => s.modMiller c (fun k => { k with run := if k.run = .running then .handingOver else k.run })
  | _ => s

/-- What a unit that has gone OFF leaves. R472, R634, R636. -/
def turnOff (s : State) : EnUnit → State
  | .tile p => tileOff s p
  | .port p => (resetPort s p).modPort p (fun q => { q with link := .down })
  | .core c => s.modMiller c (fun k => { k with run := .stopped, image := none, seqr := {}, atomQ := [], freeing := none })
  | _ => s

/-- A write of EN at a unit. R631, R632. -/
def requestUnit (s : State) (u : EnUnit) (on : Bool) : State :=
  if !unitOk u then s
  else
    let old := (unitOf s u).st
    let s1 := modUnit s u (fun x => x.request on)
    if on then (if old = .off then beginEnable s1 u else s1)
    else if old = .on ∨ old = .enabling then beginDisable s1 u else s1

/-- R631. -/
def execUnitEnableRequest (u : EnUnit) (s : State) : Host.Outcome State Fault Refusal := .next (requestUnit s u true)

/-- R631, R632. -/
def execUnitDisableRequest (u : EnUnit) (s : State) : Host.Outcome State Fault Refusal := .next (requestUnit s u false)

/-- A unit's enable can be complete. R634. -/
def enabledWhen (s : State) : EnUnit → Bool
  | .tile p => banksAwake s p && (s.fanTile p).setpoint == (s.fanTile p).target && (s.fanTile p).setpoint != 0
  | .core _ => (coreImage s).isSome
  | _ => true

/-- A Miller core starts the image that it has loaded. R529, R634, R661. -/
def startCore (s : State) (c : Nat) : State :=
  match coreImage s with
  | none => s
  | some i =>
    let s1 := s.modMiller c (fun k => { k with run := .running, image := some i, stateFmt := (fwSlot s i).stateFmt, seqr := { mode := .running } })
    if s.mgt.replacing then checkTrial (auditDevice s1 opcFwApprove resDone c 0) else s1

/-- What a unit that is ON begins. R456, R589, R634. -/
def turnOn (s : State) : EnUnit → State
  | .tile p => driveTile s p
  | .port p => s.modPort p (fun q => { q with link := .training })
  | .core c => startCore s c
  | _ => s

/-- R634. -/
def execEnableComplete (u : EnUnit) (s : State) : Host.Outcome State Fault Refusal :=
  .next (if unitOk u && (unitOf s u).st == .enabling && enabledWhen s u then turnOn (modUnit s u UnitEn.complete) u else s)

/-- R728: the steps taken are undone, and ERR is set. -/
def execEnableFail (u : EnUnit) (s : State) : Host.Outcome State Fault Refusal :=
  .next (if unitOk u && (unitOf s u).st == .enabling then
      let s1 := turnOff (modUnit s u UnitEn.fail) u
      (match u with
       | .core c => auditDevice s1 opcFwApprove resFailed c 0
       | _ => s1)
    else s)

/-- A unit's disable can be complete. R634. -/
def disabledWhen (s : State) : EnUnit → Bool
  | .tile p => !(s.tile p).mpd.marching && (match s.logOf p with
    | some l => (s.ltile l).run.isNone
    | none => true)
  | .engine e => (s.engine e).grant.isNone
  | .lane n => (s.lane n).run.isNone && !(s.lane n).busy &&
      s.mrcs.all (fun m => m.2.slots.all (fun k => k.2.xfers.all (fun x => x.lane != some n)))
  | .port _ => true
  | .core c => (s.miller c).seqr.mode != .running && !s.ctxs.any (fun x => x.2.bound && x.2.core == c) &&
      (coreRings s c).isEmpty

/-- R631, R632, R634, R636. -/
def execDisableComplete (u : EnUnit) (s : State) : Host.Outcome State Fault Refusal :=
  .next (if unitOk u && ((unitOf s u).st == .disabling || (unitOf s u).st == .disablingThenOn) && disabledWhen s u then
      let again := (unitOf s u).st == .disablingThenOn
      let s1 := turnOff (modUnit s u UnitEn.disabled) u
      (if again then beginEnable s1 u else s1)
    else s)

/-! ## Setpoints (R599, R600) -/

/-- A regulator's step ends; then its newest target is taken up, and a rail that may fall is written. R599, R600. -/
def execSetpointReached (p : Nat) (s : State) : Host.Outcome State Fault Refusal :=
  .next (if p < 200 then driveDie (s.modFanTile p (fun t => { t with setpoint := t.going })) (p / 50) else s)

end Sys2Proof.Machine
end

