-- ==== Sys2Proof/Machine/Fantail.lean ====
section
/-! DEFINITION. Fantail (15): calibration, the power cap loop, the Brake, AVSBus, and the messages of a mill group. -/

namespace Sys2Proof.Machine
open Sys2Proof

/-! ## Calibration and rate windows (R595, R621) -/

/-- R595. -/
def execRateWindow (p : Nat) (s : State) : Host.Outcome State Fault Refusal :=
  .next (if p < 200 then s.modTile p (fun t => { t with window := 0 }) else s)

/-- PERIOD has moved by more than 1/1,024 since LIMIT was last computed. R595. -/
def FanTile.moved (t : FanTile) : Bool :=
  decide (t.limPeriod.toNat < 1024 * ((t.period.toNat - t.limPeriod.toNat) + (t.limPeriod.toNat - t.period.toNat)))

/-- A tile's PERIOD is measured. R595, R621. -/
def setPeriod (s : State) (p : Nat) (v : W32) : State :=
  let s1 := s.modFanTile p (fun t => { t with period := v })
  if (s1.fanTile p).moved then setTileRate s1 p else s1

/-- R621: the PERIOD of every tile, Millrace and port die that is measured. -/
def execOscCalibration (tiles dies ports : List (Nat × W32)) (s : State) : Host.Outcome State Fault Refusal :=
  let s1 := (tiles.filter (fun x => decide (x.1 < 200))).foldl (fun s x => setPeriod s x.1 x.2) s
  let s2 := (dies.filter (fun x => decide (x.1 < 4))).foldl (fun s x => s.modMrc x.1 (fun m => { m with period := x.2 })) s1
  .next ((ports.filter (fun x => decide (x.1 < 2))).foldl (fun s x =>
    { s with hdr := { s.hdr with periods := tset 65536 s.hdr.periods x.1 x.2 } }) s2)

/-! ## The power cap (R602 to R604) -/

/-- CAP_EFF in W. R602. -/
def capEff (s : State) : Nat :=
  (max (s.fan.capMin : Int) (min (s.fan.capMax : Int) ((s.fan.cap : Int) + s.fan.balance))).toNat

/-- The 1 ms average in 0.1 W: FAN_POWER. R603. -/
def avgPower (s : State) : Nat := s.fan.samples.foldl (fun a b => a + b) 0 / max 1 s.fan.samples.length

/-- R603. -/
def execPowerSample (deciwatts : Nat) (s : State) : Host.Outcome State Fault Refusal :=
  .next { s with fan := { s.fan with samples := (min deciwatts 65535 :: s.fan.samples).take 10 } }

/-- CAP_ALL one step lower. R604. -/
def lowerCapAll (s : State) : State :=
  { s with fan := { s.fan with capAll := if s.fan.capAll = 0 then 665 else max 350 (s.fan.capAll - 35) } }

/-- The loop lowers its level, or CAP_ALL at entry 0. R604. -/
def capLower (s : State) : State :=
  let s1 := if s.fan.levelCap = 0 then lowerCapAll s else { s with fan := { s.fan with levelCap := s.fan.levelCap - 1 } }
  applyLevel { s1 with fan := { s1.fan with sinceLower := 0, raiseHeld := 0 } }

/-- The raise test: the average at one entry more would stay within CAP_EFF. R604. -/
def raiseTest (s : State) : Bool :=
  let l := s.fan.levelCap
  decide (avgPower s * rateOf (l + 1) ≤ 10 * capEff s * rateOf l)

/-- One raise: CAP_ALL is released first, then the level rises. R601, R604. -/
def capRaise (s : State) : State :=
  if s.fan.capAll ≠ 0 then applyLevel { s with fan := { s.fan with capAll := 0, raiseHeld := 0 } }
  else if s.fan.levelCap < s.fan.levelOp ∧ canRaise s (s.fan.levelCap + 1) then
    applyLevel { s with fan := { s.fan with levelCap := s.fan.levelCap + 1, raiseHeld := 0 } }
  else s

/-- R604: one round of the cap loop; it rests while the management controller restarts. R686. -/
def execCapLoop (s : State) : Host.Outcome State Fault Refusal :=
  .next (if s.mgt.restarting then s
    else if 10 * capEff s < avgPower s then capLower s
    else
      let held := if raiseTest s then s.fan.raiseHeld + 1 else 0
      let since := min 100 (s.fan.sinceLower + 1)
      let s1 := { s with fan := { s.fan with raiseHeld := min 10 held, sinceLower := since } }
      if 10 ≤ held ∧ 100 ≤ since then capRaise s1 else s1)

/-! ## The Brake (R606 to R608) -/

/-- The hottest tile. R607. -/
def hottest (s : State) : Nat := (List.range 200).foldl (fun b p => if (s.fanTile b).tj < (s.fanTile p).tj then p else b) 0

/-- THERMAL_BRAKE. R584, R607. -/
def postBrake (s : State) (d1 : Nat) : State :=
  let p := hottest s
  postEvent s none { code := 0x31, sev := 2, srcKind := 1, srcDie := p / 50, srcIndex := p,
                     d0 := (BitVec.ofInt 64 (s.fanTile p).tj).toNat, d1 := d1 }

/-- The Brake level two entries lower; at entry 0 CAP_ALL goes lower. R607. -/
def brakeDown (s : State) (from_ : Nat) : State :=
  if from_ = 0 then lowerCapAll { s with fan := { s.fan with levelBrake := 0 } } else { s with fan := { s.fan with levelBrake := from_ - 2 } }

/-- The Brake engages, or goes further down while it is engaged. R607. -/
def brakeOn (s : State) : State :=
  if s.fan.brake then applyLevel (brakeDown s s.fan.levelBrake)
  else
    let s1 := brakeDown s s.fan.level
    refreshAlert (postBrake (applyLevel { s1 with fan := { s1.fan with brake := true, brakeReleasing := false } }) 0)

/-- R606, R607: every 100 µs. -/
def execSensorRead (readings : List (Nat × Int)) (s : State) : Host.Outcome State Fault Refusal :=
  let s1 := (readings.filter (fun r => decide (r.1 < 200))).foldl (fun s r => s.modFanTile r.1 (fun t => { t with tj := r.2 })) s
  .next (if s.mgt.restarting then s1
    else if (List.range 200).any (fun p => decide (800 ≤ (s1.fanTile p).tj)) then
      brakeOn { s1 with fan := { s1.fan with coolHeld := 0 } }
    else
      let cool := (List.range 200).all (fun p => decide ((s1.fanTile p).tj ≤ 760))
      { s1 with fan := { s1.fan with coolHeld := if cool then min 100 (s1.fan.coolHeld + 1) else 0 } })

/-- R607. -/
def execBrakeRelease (s : State) : Host.Outcome State Fault Refusal :=
  .next (if s.fan.brake ∧ 100 ≤ s.fan.coolHeld ∧ s.mgt.restarting = false then
      { s with fan := { s.fan with brake := false, brakeReleasing := true } }
    else s)

/-- One entry more, up to LEVEL_OP, where the Brake is over. R601, R607. -/
def execBrakeLevelRaise (s : State) : Host.Outcome State Fault Refusal :=
  .next (if !s.fan.brakeReleasing || s.mgt.restarting then s
    else if s.fan.levelBrake < s.fan.levelOp ∧ canRaise s (s.fan.levelBrake + 1) = false then s
    else
      let s1 := applyLevel { s with fan := { s.fan with levelBrake := min s.fan.levelOp (s.fan.levelBrake + 1) } }
      if s.fan.levelOp ≤ s1.fan.levelBrake then
        refreshAlert (postBrake { s1 with fan := { s1.fan with brakeReleasing := false } } 1)
      else s1)

/-- R601, R675. -/
def execReadyLevelRaise (s : State) : Host.Outcome State Fault Refusal :=
  .next (if s.pins.ready ∧ s.fan.levelBoot < 15 ∧ canRaise s (s.fan.levelBoot + 1) ∧ s.mgt.restarting = false then
      applyLevel { s with fan := { s.fan with levelBoot := s.fan.levelBoot + 1 } }
    else s)

/-- R608: THERMTRIP_N, and every tile regulator off. -/
def execThermalTrip (p : Nat) (s : State) : Host.Outcome State Fault Refusal :=
  .next (if 200 ≤ p then s
    else
      let s1 := { s with pins := { s.pins with thermtripN := false } }
      (List.range 200).foldl (fun (s : State) q => s.modFanTile q (fun t => { t with setpoint := 0, going := 0, target := 0 })) s1)

/-! ## AVSBus (R597 to R601) -/

/-- AVS_ERR while a rail has failed three transactions in a row. R601. -/
def refreshAvs (s : State) : State :=
  refreshAlert { s with fan := { s.fan with avsErr := (List.range 4).any (fun d => decide (3 ≤ tget 0 s.fan.avsFails d)) } }

/-- A transaction of a rail ends: on success the write is made and the die's regulators go on; after the third failure in a row it is
given up. R599, R601. -/
def execAvsTransactionDone (rail : Nat) (good : Bool) (s : State) : Host.Outcome State Fault Refusal :=
  .next (if 4 ≤ rail then s
    else if good then
      let clear := tset 0 (tset 0 s.fan.avsFails (rail / 2 * 2) 0) (rail / 2 * 2 + 1) 0
      let s1 := { s with fan := { s.fan with
        vin := tset 800 s.fan.vin rail (tget 800 s.fan.vinTarget rail)
        avsFails := clear } }
      driveDie (refreshAvs s1) rail
    else
      let n := min 3 (tget 0 s.fan.avsFails rail + 1)
      let back := if n = 3 then vinNow s rail else tget 800 s.fan.vinTarget rail
      refreshAvs { s with fan := { s.fan with
        avsFails := tset 0 s.fan.avsFails rail n
        vinTarget := tset 800 s.fan.vinTarget rail back } })

/-! ## Messages of a group (R609 to R617) -/

/-- FAN_GROUP names a balancing group: a MODE is set, or the group's entry is VALID and of KIND WIDEN or DEEPEN. R609. -/
def hasGroup (s : State) : State × Bool :=
  if s.fan.mode ≠ 0 then (s, true)
  else
    let (s1, e) := groupEntry s s.fan.group
    (s1, decide (s.fan.group < s.hdr.groupLimit) && fieldAt e 0 1 % 2 == 1 && decide (fieldAt e 7 1 ≤ 1))

/-- A mailbox word is acted on: its group is the balancing group and its MSEQ lies ahead. R611. -/
def takeMsg (s : State) (m : FanMsg) : Option State :=
  let (s0, known) := hasGroup s
  let old := s.fan.lastMseq.find? (fun x => x.1 == m.sender)
  let ahead : Bool := match old with
    | none => true
    | some x => decide (1 ≤ (BitVec.ofNat 32 m.mseq - x.2).toNat) && decide ((BitVec.ofNat 32 m.mseq - x.2).toNat ≤ 2 ^ 31 - 1)
  if known ∧ m.group = s.fan.group ∧ ahead then
    some { s0 with fan := { s0.fan with lastMseq := (m.sender, BitVec.ofNat 32 m.mseq) :: s.fan.lastMseq.filter (fun x => x.1 != m.sender) } }
  else none

/-- The notices with a newer one from a device. R615. -/
def setNotice (s : State) (dev floor : Nat) : State :=
  { s with fan := { s.fan with notices := { dev := dev, floor := floor } :: s.fan.notices.filter (fun n => n.dev != dev) } }

def dropNotice (s : State) (dev : Nat) : State :=
  refreshGcap { s with fan := { s.fan with notices := s.fan.notices.filter (fun n => n.dev != dev) } }

/-- R615 to R617. -/
def execSlowdown (m : FanMsg) (s : State) : Host.Outcome State Fault Refusal :=
  .next (match takeMsg s m with
    | none => s
    | some s1 =>
      let f := m.value0.toNat
      let s2 := refreshGcap (setNotice (postSlowdown s1 m.subj f) m.subj f)
      let (s3, devs, head) := groupMembers s2
      if isHead s3 head then headSlow s3 devs m.subj f else s3)

/-- R615. -/
def execRecover (m : FanMsg) (s : State) : Host.Outcome State Fault Refusal :=
  .next (match takeMsg s m with
    | none => s
    | some s1 => dropNotice s1 m.subj)

/-- R612, R616: the head mill keeps the report and moves tokens to the last arriver. -/
def execSkew (m : FanMsg) (s : State) : Host.Outcome State Fault Refusal :=
  .next (match takeMsg s m with
    | none => s
    | some s1 =>
      let (s2, _, head) := groupMembers s1
      if isHead s2 head then moveTokens { s2 with fan := { s2.fan with lastSkew := some (m.value0.toNat, m.subj) } } m.subj else s2)

/-- R616. -/
def execTokens (m : FanMsg) (s : State) : Host.Outcome State Fault Refusal :=
  .next (match takeMsg s m with
    | none => s
    | some s1 => if s1.hdr.devValid ∧ m.subj = s1.hdr.devnum then { s1 with fan := { s1.fan with balance := m.value0.toInt } } else s1)

/-- A change of MODE sets every balance to zero and forgets the senders' numbers. R611, R613, R617. -/
def setMode (s : State) (mode ref common : Nat) : State :=
  let s1 := { s with fan := { s.fan with mode := mode, refLevel := ref, commonRate := if mode = 2 then common else 0 } }
  let s2 := if mode = s.fan.mode then s1 else { s1 with fan := { s1.fan with balance := 0, balances := [], lastMseq := [] } }
  checkSlowed (refreshGcap s2)

/-- R613, R617. -/
def execMode (m : FanMsg) (s : State) : Host.Outcome State Fault Refusal :=
  .next (match takeMsg s m with
    | none => s
    | some s1 => if m.value0 = 0 then setMode s1 1 (m.subj % 16) 0
      else if m.value0 = 1 then setMode s1 2 (m.subj % 16) m.value1.toNat else s1)

/-- R614: every 10 ms while the device is slowed. -/
def execSlowdownRepeat (s : State) : Host.Outcome State Fault Refusal := .next (if s.fan.slowed then sendSlowdown s else s)

/-- R615. -/
def execSlowdownNoticeExpiry (dev : Nat) (s : State) : Host.Outcome State Fault Refusal :=
  .next (if s.fan.notices.any (fun n => n.dev == dev) then dropNotice s dev else s)

/-- FAN_GROUP written by service firmware. The head mill's firmware sets MODE, and the head mill tells every member, with the least
floor that a member has reported. R609, R613, R617. -/
def writeFanGroup (s : State) (mode ctx group : Nat) : State :=
  let s1 := { s with fan := { s.fan with group := group, groupCtx := ctx } }
  let floors := s1.fan.rateFloor :: s1.fan.memberFloor.map (fun m => m.2)
  let common := listMin (rateOf s1.fan.levelOp) (floors.filter (fun f => f != 0))
  let s2 := setMode s1 mode s1.fan.levelOp common
  if mode = 0 then s2
  else
    let (s3, devs, head) := groupMembers s2
    if isHead s3 head then sendMode s3 devs else s3

end Sys2Proof.Machine
end

