-- ==== Sys2Proof/Machine/Bucket.lean ====
section
/-! DEFINITION. Bucket ring counters (08, R359, R360) and who is attached (05, R207, R208). -/

namespace Sys2Proof.Machine
open Sys2Proof

/-- CLAIM − GIVE < SLOTS. R360. -/
def Ring.canClaim (r : Ring) : Bool := decide ((r.c0 - r.c3).toNat < r.entries)

/-- TAKE < POST, modulo 2^32. R360. -/
def Ring.canTake (r : Ring) : Bool := decide (0 < (r.c1 - r.c2).toNat)

/-- A slot index one further round the ring. R360. -/
def Ring.nextIdx (r : Ring) (i : Nat) : Nat := if r.entries ≤ i + 1 then 0 else i + 1

def Ring.claim (r : Ring) : Ring := { r with c0 := r.c0 + 1, i0 := r.nextIdx r.i0 }
def Ring.post (r : Ring) : Ring := { r with c1 := r.c1 + 1, i1 := r.nextIdx r.i1 }
def Ring.take (r : Ring) : Ring := { r with c2 := r.c2 + 1, i2 := r.nextIdx r.i2 }
def Ring.give (r : Ring) : Ring := { r with c3 := r.c3 + 1, i3 := r.nextIdx r.i3 }

/-- Bytes of a slot. R359. -/
def Ring.slotBytes (r : Ring) : Nat := 32 * r.entryUnits

/-- Stream address of slot `i`. R359. -/
def Ring.slotAddr (r : Ring) (i : Nat) : W64 := r.base + BitVec.ofNat 64 (i * r.slotBytes)

/-- Logical tile and offset of slot `i` where BASE is a Millpond stream address. Service firmware sets BASE, which has the form of the
service profile (DEDUCED). R344, R359. -/
def Ring.slotTile (g : Ring) (i : Nat) : Option (Nat × Nat) :=
  let a := (g.slotAddr i).toNat
  if bitsOf a 62 2 = 1 ∧ bitsOf a 40 22 = 0 ∧ bitsOf a 23 9 = 0 ∧ bitsOf a 32 8 < 192 then some (bitsOf a 32 8, a % 0x800000) else none

/-- Offset of slot `i` in the Millpond of logical tile `l`, when it lies there. -/
def slotOff (l : Nat) (g : Ring) (i : Nat) : Option Nat :=
  match g.slotTile i with
  | some (t, o) => if t = l then some o else none
  | none => none

/-- The Millpond address by which tile `l` of a run names an offset of tile `t`; none outside the set. R201. -/
def mpName (run : Run) (l t off : Nat) : Option Nat :=
  if t = l then some off
  else if run.rr.tileList.contains t then some (2 ^ 30 + run.rr.indexOf t * 2 ^ 23 + off) else none

/-- Kind before context: a ring of another kind is OPERAND_INVALID, a ring of another context FENCED. R207, R209. -/
def ringPlaceFlt (s : State) (ctx r : Nat) : List Flt :=
  [faultIf ((s.ring r).kind != .bucket) .operandInvalid, faultIf ((s.ring r).ctx != ctx) .fenced]

/-- One producer and one consumer at a time. R208. -/
def consFree (g : Ring) (a : Agent) : Bool := g.cons == none || g.cons == some a
def prodFree (g : Ring) (a : Agent) : Bool := g.prod == none || g.prod == some a

end Sys2Proof.Machine
end

