-- ==== Sys2Proof/Machine/Hazard.lean ====
section
/-! DEFINITION. Block hazards (05, R205, R206): the bytes of its own Millpond that each operation of a tile reads and writes, and
the encodings' layout numbers (01). -/

namespace Sys2Proof.Machine
open Sys2Proof

/-! ## Encodings (01, the table before R21) -/

def Enc.group : Enc → Nat
  | .plane2 => 2 | .plane3 => 3 | .plane4 => 4 | .bin => 4 | .ter => 3 | .cb => 4 | .fp4 => 2

def Enc.span : Enc → Nat
  | .plane2 => 2 | .fp4 => 2 | _ => 4

def Enc.slot : Enc → Nat
  | .plane2 => 4 | .plane3 => 8 | .plane4 => 16 | .bin => 16 | .ter => 32 | .cb => 256 | .fp4 => 256

def Enc.idxWidth : Enc → Nat
  | .plane2 => 2 | .plane3 => 3 | .plane4 => 4 | .bin => 4 | .ter => 5 | .cb => 8 | .fp4 => 8

/-- Three-of-four layout. R15. -/
def Enc.threeOfFour : Enc → Bool
  | .plane3 => true | .ter => true | _ => false

/-- Activations that a block of `bpos` positions carries. R15. -/
def Enc.acts (e : Enc) (bpos : Nat) : Nat := if e.threeOfFour then 3 * bpos / 4 else bpos

/-- Tree width, which is also the groups of a block. R21. -/
def Enc.width (e : Enc) (bpos : Nat) : Nat := bpos / e.span

/-- The combinations of R21. -/
def encBposOk (e : Enc) (bpos : Nat) : Bool :=
  match e with
  | .plane2 => bpos == 16 || bpos == 32
  | .fp4 => bpos == 32
  | _ => true

def encOf : Nat → Enc
  | 0 => .plane2 | 1 => .plane3 | 2 => .plane4 | 3 => .bin | 4 => .ter | 5 => .cb | _ => .fp4

def bposOf : Nat → Nat
  | 0 => 16 | 1 => 32 | _ => 64

/-- Bytes of a saved half. R44, R264. -/
def imageBytes : Nat := 135168

/-! ## Ranges -/

/-- A range of own-tile Millpond: first offset and bytes. -/
abbrev Rng := Nat × Nat

/-- Two ranges touch one 4 KiB block. -/
def Rng.hits (a b : Rng) : Bool :=
  a.2 != 0 && b.2 != 0 && decide (a.1 / 4096 ≤ (b.1 + b.2 - 1) / 4096) && decide (b.1 / 4096 ≤ (a.1 + a.2 - 1) / 4096)

def rngsHit (xs ys : List Rng) : Bool := xs.any (fun x => ys.any (fun y => x.hits y))

/-- What an operation reads and writes of its tile's own Millpond, with its place in issue order. -/
structure Foot where
  iseq : Nat
  reads : List Rng := []
  writes : List Rng := []
deriving DecidableEq, Repr

/-- A later operation touches a block that the earlier one writes, or writes one that it reads. R205. -/
def Foot.blocks (e : Foot) (rd wr : List Rng) : Bool := rngsHit e.writes (rd ++ wr) || rngsHit e.reads wr

/-! ## Footprints (R206) -/

/-- What an address of a tile's access names, as one number: a storage key, or the global address itself. -/
def accessKey (s : State) (r : Run) (l a : Nat) : Nat :=
  if a < 2 ^ 32 then
    (match mpPlace s r l a with
     | some pl => pl.key
     | none => a)
  else if s.hdr.devValid && gDev a == s.hdr.devnum then
    (match locate s (gOff a) with
     | some pl => pl.key
     | none => a)
  else a

/-- The offset of an address in the tile's own Millpond, by whatever form it names it. R206. -/
def ownAt (s : State) (l a : Nat) : Option Nat :=
  match s.runOf l with
  | none => none
  | some r =>
    let k := accessKey s r l a
    let b := millKey (s.phys l) 0
    if b ≤ k ∧ k < b + 0x600000 then some (k - b) else none

/-- Source rows of a build: only activations before KREM are read. R260. -/
def BuildOp.rows (o : BuildOp) : List Rng :=
  let n := min o.krem (o.hr.nb * o.hr.enc.acts o.hr.bpos)
  (List.range o.hr.m).map (fun r => (o.src + 32 * o.rstride * r, n * fmtBytes o.ifmt))

def BuildOp.cbRange (o : BuildOp) : List Rng :=
  match o.hr.cb with
  | some a => [(a, 1024)]
  | none => []

def HopOp.foot : HopOp → Foot
  | .build n o => { iseq := n, reads := o.rows ++ o.cbRange }
  | .load n o => { iseq := n, reads := [(o.src, imageBytes)] }
  | .save n _ _ a => { iseq := n, writes := [(a, imageBytes)] }

/-- Scales of the groups `g0` up to `g1` of a bin. R95. -/
def BinIss.scales (i : BinIss) (g0 g1 : Nat) : Rng := (i.gsAddr + 2 * (g0 * i.nCh), 2 * i.nCh * (g1 - g0))

/-- The scales that a lookup-accumulate of `pos` positions reads for a bin: its codebook's, or those of the groups that end. R95, R98, R99. -/
def BinIss.laccReads (i : BinIss) (cb : Option Nat) (pos : Nat) : List Rng :=
  match i.gs, cb with
  | .array, _ => [i.scales (i.posIss / max 1 i.gsize) ((i.posIss + pos) / max 1 i.gsize)]
  | .codebook, some a => [(a + 1024, 4)]
  | _, _ => []

/-- The lookup path's reads other than wave images. -/
def LaccOp.foot (o : LaccOp) : Foot := { iseq := o.iseq, reads := o.reads }

def OpenOp.foot (o : OpenOp) : Foot :=
  match o.preload with
  | none => { iseq := o.iseq }
  | some a => { iseq := o.iseq, reads := [(a, 32768)], writes := if o.clear then [(a, 32768)] else [] }

/-- Rows that a bin holds part of: the first, and how many. R127. -/
def binRows (nRow nCh lin : Nat) : Nat × Nat :=
  let last := min (nRow * nCh) (lin + 4096)
  (lin / max 1 nCh, (last - 1) / max 1 nCh - lin / max 1 nCh + 1)

/-- Channels of row `r` that a bin holds: the first, and how many. R82, R127. -/
def rowPart (nRow nCh lin r : Nat) : Nat × Nat :=
  let a := max lin (r * nCh)
  (a - r * nCh, min (min (nRow * nCh) (lin + 4096)) ((r + 1) * nCh) - a)

/-- Bytes of the output rows that a close writes: the accumulators of its own bin. R127. -/
def outRows (d : TailDesc) (nRow nCh lin w : Nat) : List Rng :=
  let (r0, n) := binRows nRow nCh lin
  (List.range n).map (fun i =>
    let (c, k) := rowPart nRow nCh lin (r0 + i)
    (d.outAddr + (r0 + i) * d.outStride + c * w, k * w))

def optRng (a : Option Nat) (n : Nat) : List Rng :=
  match a with
  | some x => [(x, n)]
  | none => []

def outWidth (d : TailDesc) : Nat := fmtBytes ((fmtOf d.outFmt).getD .int8)

/-- Bytes per element of a format code. -/
def codeWidth (c : Nat) : Nat := fmtBytes ((fmtOf c).getD .int8)

/-- The output blocks that a close writes in, ascending. R133. -/
def outBlocks (d : TailDesc) (nRow nCh lin : Nat) : List Nat :=
  ((outRows d nRow nCh lin (outWidth d)).flatMap (fun x =>
    let o := x.1 - d.outAddr
    if x.2 = 0 then [] else (List.range ((o + x.2 - 1) / 4096 - o / 4096 + 1)).map (fun k => o / 4096 + k))).eraseDups

/-- What a close writes of its output and header arrays: with GRS_EN, whole blocks. R127, R133, R134, R399. -/
def outWrites (d : TailDesc) (nRow nCh lin : Nat) : List Rng :=
  if !d.outEn then []
  else
    let bs := outBlocks d nRow nCh lin
    (if d.grsEn then bs.map (fun k => (d.outAddr + 4096 * k, 4096)) else outRows d nRow nCh lin (outWidth d)) ++
    bs.map (fun k => (d.hdrAddr + 8 * k, 8))

/-- What the Tailrace reads of the vectors that its descriptor names, and of the row scales that the bin recorded. R122 to R126. -/
def TailDesc.reads (d : TailDesc) (nRow nCh lin : Nat) (rs : Option Nat) : List Rng :=
  let (r0, n) := binRows nRow nCh lin
  optRng (((d.rowScaleAddr <|> rs)).map (· + 4 * r0)) (4 * n) ++ optRng d.chScaleAddr (4 * nCh) ++
  optRng d.biasAddr (codeWidth d.biasFmt * nCh) ++ (if d.act = 6 then [(d.pwlAddr, 2064)] else [])

/-- A close with what it reads and writes, by the issue-order state of its bin. R100, R202, R206. -/
def CloseOp.withFoot (s : State) (l : Nat) (i : BinIss) (o : CloseOp) : CloseOp :=
  { o with
    reads := (match o.dest with
      | .tailrace d => d.reads i.nRow i.nCh i.linBase (i.rowScale.getD none)
      | _ => [])
    writes := (match o.dest with
      | .tailrace d => outWrites d i.nRow i.nCh i.linBase
      | .p64Store a => [(a, 32768)]
      | .p64Add a => optRng (ownAt s l a.toNat) 32768)
    scales := if i.gs = .array ∧ i.posIss % max 1 i.gsize ≠ 0 then [i.scales (i.posIss / max 1 i.gsize) (i.posIss / max 1 i.gsize + 1)] else [] }

/-- A close once the group that it completes first is done. R100. -/
def CloseOp.foot (o : CloseOp) : Foot := { iseq := o.iseq, reads := o.reads, writes := o.writes }

def BinOp.foot : BinOp → Foot
  | .opn o => o.foot
  | .cls o => { iseq := o.iseq, reads := o.reads ++ o.scales, writes := o.writes }

/-- The own words of an atomic or a store that waits in the tile's atomic queue. -/
def atomFoot (s : State) (l : Nat) (a : AtomOp) : Foot :=
  let w := if a.kind = .swap256 then [(a.local256, 32)] else []
  if a.kind = .arrive then { iseq := a.iseq }
  else { iseq := a.iseq, writes := optRng (ownAt s l a.addr.toNat) a.kind.width ++ w }


/-- The Millpond fields that an attention descriptor names. R154, R206. -/
def AttnDesc.foot (d : AttnDesc) (n : Nat) : Foot :=
  { iseq := n
    reads := if d.mode = 2 then [] else [(d.qAddr, d.g * d.w * codeWidth d.qFmt)]
    writes := if d.mode = 1 then [] else
      let n := d.g * d.w * codeWidth d.outFmt
      [(d.outAddr, n), (d.hdrAddr, 8 * ceilDiv n 4096)] }

/-- Every operation of a tile that has issued and not completed. -/
def pendingFeet (s : State) (l : Nat) : List Foot :=
  let p := s.phys l
  let t := s.tile p
  let attn := s.engines.flatMap (fun e =>
    ((e.2.queue ++ (match e.2.run with
      | some r => [r.op]
      | none => [])).filter (fun o => o.tile == l)).map (fun o => o.desc.foot o.iseq))
  t.hopQ.map HopOp.foot ++ (t.hopRun.map HopOp.foot).toList ++
  t.lookQ.map LaccOp.foot ++ (t.lookRun.map (fun r => r.op.foot)).toList ++
  t.binQ.map BinOp.foot ++ (t.binRun.map BinOp.foot).toList ++ t.closes.map (fun c => c.op.foot) ++
  t.atomQ.map (atomFoot s l) ++ attn

/-- An earlier-issued operation of the tile orders an access after it. R205. -/
def blocked (s : State) (l before : Nat) (rd wr : List Rng) : Bool :=
  (pendingFeet s l).any (fun f => decide (f.iseq < before) && f.blocks rd wr)

/-- The next issue-order number of a tile, and the state past it. -/
def takeIseq (s : State) (l : Nat) : State × Nat :=
  let n := (s.tile (s.phys l)).iseq
  (s.modTile (s.phys l) (fun t => { t with iseq := n + 1 }), n)

end Sys2Proof.Machine
end

