-- ==== Sys2Proof/Machine/Tables.lean ====
section
/-! DEFINITION. Table builds, saves and loads: issue (06, R259 to R265) and completion (01, R13 to R44). -/

namespace Sys2Proof.Machine
open Sys2Proof

/-! ## Issue -/

/-- The half record that a build or load sets. R263. -/
def mkHalfRec (e : Enc) (bpos m nb : Nat) (rs cb : Option Nat) : HalfRec :=
  { enc := e, bpos := bpos, m := m, nb := nb, rs := rs, cb := cb }

/-- R21, R36 and R37 for M rows of `nb` blocks. -/
def buildFits (e : Enc) (bpos m nb : Nat) : Bool :=
  encBposOk e bpos && decide (m * (nb * e.width bpos) * e.slot ≤ 65536) && decide (0 < nb)

/-- The own-tile offset of an address register, with its checks: a wrong form is OPERAND_INVALID. -/
def regOff (s : State) (r : Run) (l : Nat) (a : BitVec 4) : Option Nat := ownOff r l ((s.seqr (.tile l)).a a).toNat

/-- The registers of a build or load themselves: row-scale vector 4-byte aligned, codebook record word-aligned, each a Millpond address.
R261, R718. -/
def vecRegsFlt (s : State) (r : Run) (l : Nat) (ars acb : BitVec 4) (rsn cb : Bool) : List Flt :=
  let v := ((s.seqr (.tile l)).a ars).toNat
  [faultIf (!rsn && (v % 4 != 0 || (mpTarget r l v).isNone)) .operandInvalid,
   faultIf (cb && (match regOff s r l acb with
     | some o => o % 32 != 0
     | none => true)) .operandInvalid]

/-- Row-scale vector within the run's regions. R261. -/
def rowScaleFlt (s : State) (r : Run) (l : Nat) (ars : BitVec 4) (rsn : Bool) (m : Nat) : List Flt :=
  if rsn then [] else [mpRange s r l ((s.seqr (.tile l)).a ars).toNat false (4 * m)]

/-- Codebook record in the A bank, and within the run's regions. R70, R261. -/
def codebookFlt (s : State) (r : Run) (l : Nat) (acb : BitVec 4) (cb : Bool) : List Flt :=
  if !cb then []
  else match regOff s r l acb with
    | none => [.operandInvalid]
    | some o => [faultIf (!inBank 1 o 1056) .operandInvalid, ownRange s r l false o 1056]

/-- The address of the image of a save or load: a word-aligned address of the own tile. R264, R265, R718. -/
def imageRegFlt (a : Option Nat) : Flt :=
  faultIf (match a with
    | some o => o % 32 != 0
    | none => true) .operandInvalid

/-- The image of a save or load whole in the A bank, and within the run's regions. R264, R265. -/
def imageFlt (s : State) (r : Run) (l : Nat) (write : Bool) (a : Option Nat) : List Flt :=
  match a with
  | none => [.operandInvalid]
  | some o => [faultIf (!inBank 1 o imageBytes) .operandInvalid, ownRange s r l write o imageBytes]

/-- The half record in the issue-order state, set when a build or load issues. R263. -/
def Tile.setIss (t : Tile) (h : Bool) (r : HalfRec) : Tile :=
  if h then { t with iss1 := some r } else { t with iss0 := some r }

/-- An operation enters the Hopper queue, which holds four. -/
def enqHop (s : State) (l : Nat) (mk : Nat → HopOp) (upd : Tile → Tile) : Iss :=
  if 4 ≤ (s.tile (s.phys l)).hopQ.length then .stay s
  else
    let (s1, n) := takeIseq s l
    .done (s1.modTile (s.phys l) (fun t => upd { t with hopQ := t.hopQ ++ [mk n] }))

/-- An instruction of the tile profile, with its run. -/
def onTile (s : State) (c : Core) (k : Nat → Run → Iss) : Iss :=
  match c with
  | .miller _ => .stay s
  | .tile l =>
    match s.runOf l with
    | none => .stay s
    | some r => k l r

/-- R259 to R263. -/
def execTblBuild (c : Core) (g : Guard) (as_ : BitVec 4) (h : Bool) (enc : BitVec 3) (bpos : BitVec 2) (ifmt : BitVec 4)
    (m : BitVec 6) (nb : BitVec 12) (ars acb : BitVec 4) (rsn : Bool) (krem rstride : BitVec 16) (s : State) :
    Host.Outcome State Fault Refusal :=
  issue s c g { wf := wfTbl enc bpos ifmt ars acb rsn, svc := false, long := true } (fun s => onTile s c (fun l r =>
    let e := encOf enc.toNat
    let bp := bposOf bpos.toNat
    let f := (fmtOf ifmt.toNat).getD .bf16
    let rows := m.toNat + 1
    let blks := nb.toNat + 1
    let src := regOff s r l as_
    let rs := if rsn then none else mpNorm r l ((s.seqr c).a ars).toNat
    let cb := if enc = 5 then regOff s r l acb else none
    let op : BuildOp := { pc := (s.seqr c).pc, half := h, hr := mkHalfRec e bp rows blks rs cb, ifmt := f, src := src.getD 0,
                          krem := krem.toNat, rstride := rstride.toNat }
    let flt := firstFlt ([ faultIf (!buildFits e bp rows blks) .operandInvalid,
        faultIf (((s.seqr c).a as_).toNat % fmtBytes f != 0 || (src.isNone && op.rows.any (fun x => x.2 != 0))) .operandInvalid ] ++ vecRegsFlt s r l ars acb rsn (enc == 5) ++
      [ faultIf (op.rows.any (fun x => x.2 != 0 && !inBank 1 x.1 x.2)) .operandInvalid ] ++
      codebookFlt s r l acb (enc == 5) ++ op.rows.map (fun x => ownRange s r l false x.1 x.2) ++ rowScaleFlt s r l ars rsn rows)
    if flt ≠ .none then .fault s flt else enqHop s l (fun n => .build n op) (fun t => t.setIss h op.hr)))

/-- R264. -/
def execTblSave (c : Core) (g : Guard) (ab : BitVec 4) (h : Bool) (off : BitVec 32) (s : State) : Host.Outcome State Fault Refusal :=
  issue s c g { svc := false } (fun s => onTile s c (fun l r =>
    let a := ownOff r l (effAddr (s.seqr c) ab off).toNat
    let flt := firstFlt (imageRegFlt a :: imageFlt s r l true a)
    if flt ≠ .none then .fault s flt else enqHop s l (fun n => .save n (s.seqr c).pc h (a.getD 0)) id))

/-- R265. -/
def execTblLoad (c : Core) (g : Guard) (as_ : BitVec 4) (h : Bool) (enc : BitVec 3) (bpos : BitVec 2) (ifmt : BitVec 4)
    (m : BitVec 6) (nb : BitVec 12) (ars acb : BitVec 4) (rsn : Bool) (s : State) : Host.Outcome State Fault Refusal :=
  issue s c g { wf := wfTbl enc bpos ifmt ars acb rsn, svc := false, long := true } (fun s => onTile s c (fun l r =>
    let e := encOf enc.toNat
    let bp := bposOf bpos.toNat
    let rows := m.toNat + 1
    let blks := nb.toNat + 1
    let src := regOff s r l as_
    let rs := if rsn then none else mpNorm r l ((s.seqr c).a ars).toNat
    let cb := if enc = 5 then regOff s r l acb else none
    let op : BuildOp := { pc := (s.seqr c).pc, half := h, hr := mkHalfRec e bp rows blks rs cb,
                          ifmt := (fmtOf ifmt.toNat).getD .bf16, src := src.getD 0, krem := 0, rstride := 0 }
    let flt := firstFlt ([ faultIf (!buildFits e bp rows blks) .operandInvalid, imageRegFlt src ] ++ vecRegsFlt s r l ars acb rsn (enc == 5) ++
      imageFlt s r l false src ++ codebookFlt s r l acb (enc == 5) ++ rowScaleFlt s r l ars rsn rows)
    if flt ≠ .none then .fault s flt else enqHop s l (fun n => .load n op) (fun t => t.setIss h op.hr)))

/-! ## Completion -/

/-- One activation: zero at or beyond KREM, otherwise its value, NaN when its word holds no good data. R20, R260, R317, R412. -/
def readAct (s : State) (p : Nat) (o : BuildOp) (r i : Nat) : State × FV :=
  if o.krem ≤ i then (s, .zero false)
  else
    let w := fmtBytes o.ifmt
    let (s1, v, st) := readSub s (.mill p (o.src + 32 * o.rstride * r + i * w)) w
    (s1, match st with
      | .ok => inputValue o.ifmt v
      | _ => .nan)

/-- `n` activations from index `i` of row `r`. -/
def readActs (s : State) (p : Nat) (o : BuildOp) (r i : Nat) : Nat → State × List FV
  | 0 => (s, [])
  | n + 1 =>
    let (s1, v) := readAct s p o r i
    let (s2, vs) := readActs s1 p o r (i + 1) n
    (s2, v :: vs)

/-- Consecutive pieces of `n` elements. -/
def chunks (n : Nat) (xs : List α) : Nat → List (List α)
  | 0 => []
  | k + 1 => xs.take n :: chunks n (xs.drop n) k

/-- The words of one group's slot. R22 to R33; `cw` is the codebook. -/
def slotWords (e : Enc) (cw : List (List Int)) (ms : List Int) : List (BitVec 16) :=
  ((List.range e.slot).map (fun i =>
    match e with
    | .bin => binWord ms i
    | .ter => terWord ms i
    | .cb => cbWord ms (nth [] cw i)
    | .fp4 => fp4Word ms i
    | _ => planeWord ms i)).map (BitVec.ofInt 16)

/-- The codewords of a codebook, and whether every word of them holds good data. R30, R31. DESIGN CHOICE (log 58): the codewords of a
word that does not are taken from its data bits as read; only the table words of poisoned blocks rest on them. -/
def readCodebook (s : State) (p : Nat) (cb : Option Nat) : State × List (List Int) × Bool :=
  match cb with
  | none => (s, [], true)
  | some a =>
    let (s1, bs, st) := readBytes s (.mill p a) 1024
    (s1, chunks 4 (bs.map (fun b => b.toInt)) 256, st == .ok)

/-- One block of a build: its table words and its block record. R16 to R33, R262. -/
def buildBlock (s : State) (p : Nat) (o : BuildOp) (cw : List (List Int)) (bad : Bool) (r k : Nat) (h : Half) : State × Half :=
  let e := o.hr.enc
  let d := e.acts o.hr.bpos
  let w := e.width o.hr.bpos
  let (s1, vs) := readActs s p o r (k * d) d
  let (x, ms, pz) := bs12 vs
  let words := (chunks e.group ms w).flatMap (slotWords e cw)
  (s1, { h with
    words := tsetList 0 h.words ((r * (o.hr.nb * w) + k * w) * e.slot) words
    blocks := tset {} h.blocks (r * o.hr.nb + k) { s := x, poison := pz || bad } })

/-- Blocks `i` on, in the order of the pseudocode of R263. -/
def buildBlocks (s : State) (p : Nat) (o : BuildOp) (cw : List (List Int)) (bad : Bool) (i : Nat) (h : Half) : Nat → State × Half
  | 0 => (s, h)
  | n + 1 =>
    let (s1, h1) := buildBlock s p o cw bad (i / o.hr.nb) (i % o.hr.nb) h
    buildBlocks s1 p o cw bad (i + 1) h1 n

/-- The half after a build. A build leaves the words beyond its last group; its block record is new. R43, R262. -/
def buildHalf (s : State) (p : Nat) (o : BuildOp) (h : Half) : State × Half :=
  let (s1, cw, ok) := readCodebook s p o.hr.cb
  buildBlocks s1 p o cw (!ok) 0 { h with blocks := [], hr := some o.hr } (o.hr.m * o.hr.nb)

/-- Table words from image bytes, a word that holds no good data counted as poisoning the whole image. R44, R264. -/
def wordsFrom (i : Nat) : List Byte → Tab (BitVec 16)
  | lo :: hi :: bs => (if hi ++ lo = (0 : BitVec 16) then [] else [(i, hi ++ lo)]) ++ wordsFrom (i + 1) bs
  | _ => []

def blocksFrom (i : Nat) : List Byte → Tab BlkRec
  | x :: f :: bs =>
    let b : BlkRec := { s := x.toNat, poison := f.getLsbD 0 }
    (if b = {} then [] else [(i, b)]) ++ blocksFrom (i + 1) bs
  | _ => []

/-- The half after a load. A word of the image that holds no good data poisons the blocks whose tables or records it
carries. R44, R265, R317. DESIGN CHOICE (log 58): the table words and block exponents that such a word carries are its data bits as read. -/
def loadHalf (s : State) (p : Nat) (o : BuildOp) : State × Half :=
  let (s1, bs, _) := readBytes s (.mill p o.src) imageBytes
  let badWord (i : Nat) : Bool :=
    match classify (s.word (millKey p (o.src + 32 * i))).2 with
    | .clean => false
    | .correctable _ _ => false
    | _ => true
  let per := o.hr.enc.width o.hr.bpos * o.hr.enc.slot
  let blk := blocksFrom 0 (bs.drop 131072)
  let badBlk (b : Nat) : Bool :=
    badWord (4096 + b / 16) ||
      (List.range ((per * (b + 1) - 1) / 16 - per * b / 16 + 1)).any (fun i => badWord (per * b / 16 + i))
  let n := o.hr.m * o.hr.nb
  let bad := (List.range n).filter badBlk
  (s1, { words := wordsFrom 0 (bs.take 131072),
         blocks := bad.foldl (fun t b => tmod {} t b (fun r => { r with poison := true })) blk,
         hr := some o.hr })

/-- The image of a half, with zero block record entries beyond the last block. R264. -/
def saveImage (h : Half) : List Byte :=
  let n := match h.hr with
    | some r => r.m * r.nb
    | none => 0
  (List.range 65536).flatMap (fun i => natToBytes (tget 0 h.words i).toNat 2) ++
  (List.range 2048).flatMap (fun b =>
    if b < n then
      let r := tget {} h.blocks b
      [BitVec.ofNat 8 r.s, if r.poison then 1 else 0]
    else [0, 0])

/-- Words of a byte string. -/
def toWords (bs : List Byte) : List (BitVec 256) :=
  (chunks 32 bs (bs.length / 32)).map (fun b => BitVec.ofNat 256 (bytesToNat b))

def Tile.half (t : Tile) (h : Bool) : Half := if h then t.half1 else t.half0
def Tile.setHalf (t : Tile) (h : Bool) (x : Half) : Tile := if h then { t with half1 := x } else { t with half0 := x }

/-- The Hopper completes a build or load. R39. -/
def execTableBuildDone (l : Nat) (s : State) : Host.Outcome State Fault Refusal :=
  let p := s.phys l
  let t := s.tile p
  .next (match t.hopRun with
    | some (.build _ o) =>
      let (s1, h) := buildHalf s p o (t.half o.half)
      tileHs (s1.modTile p (fun t => { t.setHalf o.half h with hopRun := none })) l 1
    | some (.load _ o) =>
      let (s1, h) := loadHalf s p o
      tileHs (s1.modTile p (fun t => { t.setHalf o.half h with hopRun := none })) l 1
    | _ => s)

/-- The run of a logical tile is active: its started operations go on. R228. -/
def tileActive (s : State) (l : Nat) : Bool :=
  match s.runOf l with
  | some r => r.phase == .active
  | none => false

/-- A save completes its copy; one that its run's end stops writes no more. R44, R228, R264. -/
def execTableSaveDone (l : Nat) (s : State) : Host.Outcome State Fault Refusal :=
  let p := s.phys l
  .next (match (s.tile p).hopRun with
    | some (.save _ _ h a) =>
      if !tileActive s l then s
      else
        let s1 := writeWords s (.mill p a) (toWords (saveImage ((s.tile p).half h)))
        tileHs (s1.modTile p (fun t => { t with hopRun := none })) l 1
    | _ => s)

end Sys2Proof.Machine
end

