-- ==== Sys2Proof/Machine/Lookup.lean ====
section
/-! DEFINITION. Lookup-accumulates: issue (06, R266 to R271), the waves of the lookup path (01, R45 to R51), and what bins
do with tree values (03, R81 to R99). -/

namespace Sys2Proof.Machine
open Sys2Proof

/-! ## Images -/

/-- Planes of a weight class. 06. -/
def LaccKind.planes : LaccKind → Nat
  | .i2 => 2 | .i3 => 3 | .i4 => 4 | _ => 1

/-- The encoding that a weight class reads. 06, the table before R266. -/
def LaccKind.accepts (k : LaccKind) (e : Enc) : Bool :=
  match k, e with
  | .bin, .bin => true
  | .ter, .ter => true
  | .cb, .cb => true
  | .fp4, .fp4 => true
  | .i2, x => x == .plane2 || x == .plane3 || x == .plane4
  | .i3, x => x == .plane2 || x == .plane3 || x == .plane4
  | .i4, x => x == .plane2 || x == .plane3 || x == .plane4
  | _, _ => false

/-- Bytes B of a tree string. R26, R49. -/
def treeBytes (e : Enc) (w : Nat) : Nat :=
  match e with
  | .ter => ceilDiv (3 * w) 5
  | _ => ceilDiv (e.idxWidth * w) 8

def treesOf (w : Nat) : Nat := 4096 / w

/-- Bytes of a wave image. R49. -/
def waveBytes (e : Enc) (w : Nat) : Nat :=
  treesOf w * treeBytes e w + (match e with
    | .fp4 => treesOf w
    | _ => 0)

def HalfRec.width (h : HalfRec) : Nat := h.enc.width h.bpos

/-- Channel waves of n channels. R48. -/
def chWaves (w n : Nat) : Nat := ceilDiv n (treesOf w)

/-- Bins of a lookup-accumulate. R82. -/
def laccBins (m n : Nat) : Nat := ceilDiv (m * n) 4096

/-! ## Issue -/

/-- Scales of the groups that `nblk` blocks reach from the issue-order position. R95, R721. -/
def gsRange (i : BinIss) (positions : Nat) : Rng :=
  let g0 := i.posIss / max 1 i.gsize
  let g1 := (i.posIss + positions - 1) / max 1 i.gsize
  (i.gsAddr + 2 * (g0 * i.nCh), 2 * i.nCh * (g1 - g0 + 1))

/-- R83, R97, R99 and R267 for one bin of the range. -/
def binMatches (i : BinIss) (k : LaccKind) (o m n bpos : Nat) : Bool :=
  i.st == .opened && i.nRow == m && i.nCh == n && i.linBase == 4096 * o &&
  (i.gs != .codebook || k == .cb) && (i.gs != .array || i.gsize % bpos == 0)

/-- The issue-order state after a lookup-accumulate: an open bin keeps the row-scale vector of the first. R91, R96, R271. -/
def issueLacc (t : Tile) (bin0 nb add pos : Nat) (rs : Option Nat) : Tile :=
  { t with issBins := (List.range nb).foldl (fun x b =>
      tmod {} x (bin0 + b) (fun i => { i with count := i.count + add, posIss := i.posIss + pos,
                                              rowScale := if i.rowScale = none then some rs else i.rowScale })) t.issBins }

/-- Every lookup-accumulate: one meaning over its weight class. R266 to R271. -/
def issueLookup (k : LaccKind) (c : Core) (g : Guard) (aw : BitVec 4) (h : Bool) (bin0 : BitVec 3) (m : BitVec 6)
    (blk0 nblk : BitVec 12) (wring : BitVec 16) (n : BitVec 15) (woff : BitVec 32) (s : State) : Host.Outcome State Fault Refusal :=
  issue s c g { wf := wfLacc aw wring woff, svc := false, long := true } (fun s => onTile s c (fun l r =>
    let p := s.phys l
    let t := s.tile p
    let rows := m.toNat + 1
    let ch := n.toNat + 1
    let nb := nblk.toNat + 1
    let b0 := bin0.toNat
    let nBins := laccBins rows ch
    let ring := if wring = 0xFFFF then none else some wring.toNat
    let hr := if h then t.iss1 else t.iss0
    match hr with
    | none =>
      .fault s (match ring with
        | some q => firstFlt (ringPlaceFlt s r.rr.ctx q ++ [.operandInvalid])
        | none => .operandInvalid)
    | some hr =>
      let w := hr.width
      let img := waveBytes hr.enc w
      let total := nb * k.planes * chWaves w ch * img
      let a := ownOff r l (effAddr (s.seqr c) aw woff).toNat
      let iss (b : Nat) : BinIss := tget {} t.issBins (b0 + b)
      let place : List Flt := match ring with
        | none => match a with
          | none => [.operandInvalid]
          | some o => [faultIf (!inBank 0 o total) .operandInvalid, ownRange s r l false o total]
        | some q => ringPlaceFlt s r.rr.ctx q ++ [faultIf (decide ((s.ring q).slotBytes < img)) .operandInvalid]
      let scales : List Flt := (List.range nBins).map (fun b =>
        if (iss b).gs = .array then ownRange s r l false (gsRange (iss b) (nb * hr.bpos)).1 (gsRange (iss b) (nb * hr.bpos)).2
        else .none)
      let state : List Flt :=
        [ faultIf (!k.accepts hr.enc) .operandInvalid,
          faultIf (decide (hr.m < rows) || decide (hr.nb < blk0.toNat + nb)) .operandInvalid,
          faultIf (decide (8 < b0 + nBins)) .operandInvalid,
          faultIf ((List.range nBins).any (fun b => !binMatches (iss b) k b rows ch hr.bpos)) .operandInvalid,
          (match ring with
            | some q => faultIf (!consFree (s.ring q) (.look l)) .operandInvalid
            | none => .none) ]
      let limit : List Flt :=
        [faultIf ((List.range nBins).any (fun b => decide (65536 < (iss b).count + nb * k.planes))) .binLimit]
      let flt := firstFlt (place ++ scales ++ state ++ limit)
      if flt ≠ .none then .fault s flt
      else if 8 ≤ t.lookQ.length then .stay s
      else
        let (s1, q) := takeIseq s l
        let op : LaccOp := { iseq := q, pc := (s.seqr c).pc, kind := k, half := h, bin0 := b0, m := rows, blk0 := blk0.toNat,
                             nblk := nb, n := ch, ring := ring, addr := a.getD 0,
                             reads := (List.range nBins).flatMap (fun b => (iss b).laccReads hr.cb (nb * hr.bpos)) }
        let s2 := s1.modTile p (fun t => issueLacc { t with lookQ := t.lookQ ++ [op] } b0 nBins (nb * k.planes) (nb * hr.bpos) hr.rs)
        .done (match ring with
          | none => s2
          | some q => (s2.modRing q (fun g => { g with cons := some (.look l) })).modTile p
              (fun t => { t with lookRings := if q ∈ t.lookRings then t.lookRings else t.lookRings ++ [q] }))))

def execLaccBin (c : Core) (g : Guard) (aw : BitVec 4) (h : Bool) (bin0 : BitVec 3) (m : BitVec 6) (blk0 nblk : BitVec 12)
    (wring : BitVec 16) (n : BitVec 15) (woff : BitVec 32) (s : State) : Host.Outcome State Fault Refusal :=
  issueLookup .bin c g aw h bin0 m blk0 nblk wring n woff s

def execLaccTer (c : Core) (g : Guard) (aw : BitVec 4) (h : Bool) (bin0 : BitVec 3) (m : BitVec 6) (blk0 nblk : BitVec 12)
    (wring : BitVec 16) (n : BitVec 15) (woff : BitVec 32) (s : State) : Host.Outcome State Fault Refusal :=
  issueLookup .ter c g aw h bin0 m blk0 nblk wring n woff s

def execLaccI2 (c : Core) (g : Guard) (aw : BitVec 4) (h : Bool) (bin0 : BitVec 3) (m : BitVec 6) (blk0 nblk : BitVec 12)
    (wring : BitVec 16) (n : BitVec 15) (woff : BitVec 32) (s : State) : Host.Outcome State Fault Refusal :=
  issueLookup .i2 c g aw h bin0 m blk0 nblk wring n woff s

def execLaccI3 (c : Core) (g : Guard) (aw : BitVec 4) (h : Bool) (bin0 : BitVec 3) (m : BitVec 6) (blk0 nblk : BitVec 12)
    (wring : BitVec 16) (n : BitVec 15) (woff : BitVec 32) (s : State) : Host.Outcome State Fault Refusal :=
  issueLookup .i3 c g aw h bin0 m blk0 nblk wring n woff s

def execLaccI4 (c : Core) (g : Guard) (aw : BitVec 4) (h : Bool) (bin0 : BitVec 3) (m : BitVec 6) (blk0 nblk : BitVec 12)
    (wring : BitVec 16) (n : BitVec 15) (woff : BitVec 32) (s : State) : Host.Outcome State Fault Refusal :=
  issueLookup .i4 c g aw h bin0 m blk0 nblk wring n woff s

def execLaccCb (c : Core) (g : Guard) (aw : BitVec 4) (h : Bool) (bin0 : BitVec 3) (m : BitVec 6) (blk0 nblk : BitVec 12)
    (wring : BitVec 16) (n : BitVec 15) (woff : BitVec 32) (s : State) : Host.Outcome State Fault Refusal :=
  issueLookup .cb c g aw h bin0 m blk0 nblk wring n woff s

def execLaccFp4 (c : Core) (g : Guard) (aw : BitVec 4) (h : Bool) (bin0 : BitVec 3) (m : BitVec 6) (blk0 nblk : BitVec 12)
    (wring : BitVec 16) (n : BitVec 15) (woff : BitVec 32) (s : State) : Host.Outcome State Fault Refusal :=
  issueLookup .fp4 c g aw h bin0 m blk0 nblk wring n woff s

/-! ## Bins: anchors and raises (R84 to R90) -/

/-- Largest unit exponent, if any. -/
def maxQ (vs : List (Nat × Int × Int × Bool)) : Option Int :=
  intMax? ((vs.filter (fun v => !v.2.2.2)).map (fun v => v.2.2.1))

/-- A bin after a raise from its anchor to `a'`, with the products that waited for it entered. R90, R98. -/
def Bin.raised (b : Bin) (r : Raise) : Bin :=
  match b.anchor with
  | none => { b with anchor := some r.dest, raise := none }
  | some a =>
    let sh := (r.dest - a).toNat
    let scaled : Tab Acc := (b.acc.map (fun x => (x.1, { x.2 with acc := rneDiv x.2.acc sh, grp := rneDiv x.2.grp sh }))).filter
      (fun x => x.2 != {})
    { b with
      anchor := some r.dest, raise := none
      acc := r.prods.foldl (fun t p => tmod {} t p.1 (fun x => { x with acc := x.acc + rneAt p.2.1 p.2.2 r.dest, grp := 0 })) scaled }

/-- A tree value enters: the group register with group scaling, else the accumulator; poison sets the flag. R81, R87, R94. -/
def enterVal (gs : Bool) (a : Option Int) (t : Tab Acc) (v : Nat × Int × Int × Bool) : Tab Acc :=
  if v.2.2.2 then tmod {} t v.1 (fun x => { x with poison := true })
  else match a with
  | none => t
  | some a => tmod {} t v.1 (fun x =>
      if gs then { x with grp := x.grp + rneAt v.2.1 v.2.2.1 a } else { x with acc := x.acc + rneAt v.2.1 v.2.2.1 a })

/-- Exact product of a group register at anchor `a` and a scale: mantissa and exponent, none for a scale that poisons. R98, R77. -/
def groupProduct (a : Int) (grp : Int) : FV → Option (Int × Int)
  | .fin m e => some (grp * m, a + e)
  | .zero _ => some (0, a)
  | _ => none

/-- The least a' from `a` on at which |m × 2^e| < 2^(a' + 31). R89. -/
def raiseFor (a m e : Int) : Int :=
  if m = 0 then a else max a (e + Nat.log2 m.natAbs + 1 - 31)

/-- Group products of some accumulators with their scales: entered at once, or held by a raise. R89, R98. -/
def enterProducts (b : Bin) (xs : List (Nat × FV)) : Bin :=
  match b.anchor with
  | none => { b with acc := xs.foldl (fun t x => if x.2.bad then tmod {} t x.1 (fun y => { y with poison := true }) else t) b.acc }
  | some a =>
    let prods : List (Nat × Int × Int) := xs.filterMap (fun x =>
      match groupProduct a (tget {} b.acc x.1).grp x.2 with
      | some (m, e) => some (x.1, m, e)
      | none => none)
    let t1 := xs.foldl (fun t x => if x.2.bad then tmod {} t x.1 (fun y => { y with poison := true, grp := 0 }) else t) b.acc
    let a' := prods.foldl (fun q p => max q (raiseFor a p.2.1 p.2.2)) a
    if a < a' then { b with acc := t1, raise := some { dest := a', prods := prods } }
    else { b with acc := prods.foldl (fun t p => tmod {} t p.1 (fun y => { y with acc := y.acc + rneAt p.2.1 p.2.2 a, grp := 0 })) t1 }

/-! ## A wave -/

/-- Bits [lo + n − 1 : lo] of a byte string. R47. -/
def strBits (bs : List Byte) (lo n : Nat) : Nat := bytesToNat bs / 2 ^ lo % 2 ^ n

/-- The indexes of a tree's lanes, and whether a TER byte poisons the tree. R25 to R29, R47. -/
def treeIdx (e : Enc) (w : Nat) (bs : List Byte) : List Nat × Bool :=
  match e with
  | .ter =>
    let trits := bs.flatMap (fun b =>
      if 243 ≤ b.toNat then List.replicate 5 1 else (List.range 5).map (fun k => b.toNat / 3 ^ k % 3))
    ((List.range w).map (fun p => nth 0 trits (3 * p) + 3 * nth 0 trits (3 * p + 1) + 9 * nth 0 trits (3 * p + 2)),
      bs.any (fun b => decide (243 ≤ b.toNat)))
  | _ => ((List.range w).map (fun p => strBits bs (e.idxWidth * p) e.idxWidth), false)

/-- A range of image bytes touches a word that holds no good data. R317. -/
def badBytes (bad : List Bool) (base lo n : Nat) : Bool :=
  (List.range ((base + lo + n - 1) / 32 - (base + lo) / 32 + 1)).any (fun i => nth false bad ((base + lo) / 32 - base / 32 + i))

/-- Words of an image as read: bytes, and which words hold no good data. R315, R317. -/
def readImage (s : State) (pl : Place) : Nat → State × List Byte × List Bool
  | 0 => (s, [], [])
  | n + 1 =>
    let (s1, w, st) := readWord s pl
    let (s2, bs, bad) := readImage s1 (pl.plus 32) n
    (s2, natToBytes w.toNat 32 ++ bs, (st != .ok) :: bad)

/-- Tree values of one wave: accumulator's linear index, mantissa, unit exponent and poison. R35, R45 to R47, R85. -/
def waveValues (h : Half) (hr : HalfRec) (o : LaccOp) (blk plane cw row : Nat) (bs : List Byte) (bad : List Bool) (base : Nat) :
    List (Nat × Int × Int × Bool) :=
  let e := hr.enc
  let w := hr.width
  let tr := treesOf w
  let tb := treeBytes e w
  let rec_ := tget {} h.blocks (row * hr.nb + blk)
  let slotBase := (row * (hr.nb * w) + blk * w) * e.slot
  (List.range (min tr (o.n - cw * tr))).map (fun i =>
    let str := (bs.drop (base % 32 + i * tb)).take tb
    let (ix, terBad) := treeIdx e w str
    let sum : Int := (ix.zipIdx.map (fun p => (tget (0 : BitVec 16) h.words (slotBase + p.2 * e.slot + p.1)).toInt)).foldl (· + ·) 0
    let e8 := (nth 0 bs (base % 32 + tr * tb + i)).toNat
    let isFp4 := e == .fp4
    let f : Int := if e == .plane2 || e == .plane3 || e == .plane4 then planeWeight o.kind.planes plane else 1
    let z : Int := if isFp4 then e8 - 127 else if f = 1 then 0 else plane
    let u : Int := if e == .cb then 5 else 0
    let sgn : Int := if f < 0 then -1 else 1
    let pz := rec_.poison || terBad || (isFp4 && e8 == 255) || badBytes bad base (i * tb) tb ||
      (isFp4 && badBytes bad base (tr * tb + i) 1)
    (row * o.n + cw * tr + i, sgn * sum, u + rec_.s - 137 + z, pz))

/-- The scale of group `g`, channel `c` of a bin, NaN where its word holds no good data. R95, R317. -/
def groupScale (s : State) (p : Nat) (b : Bin) (g c : Nat) : State × FV :=
  match b.gs with
  | .array =>
    let (s1, v, st) := readSub s (.mill p (b.gsAddr + 2 * (g * b.nCh + c))) 2
    (s1, if st = .ok then fdecode fmtBf16 v else .nan)
  | .codebook =>
    match b.codebook with
    | none => (s, .ofInt 1)
    | some a =>
      let (s1, v, st) := readSub s (.mill p (a + 1024)) 4
      (s1, if st = .ok then fdecode fmtFp32 v else .nan)
  | .none => (s, .ofInt 1)

/-- Scales for a list of accumulators of a bin. -/
def groupScales (s : State) (p : Nat) (b : Bin) (g : Nat) : List Nat → State × List (Nat × FV)
  | [] => (s, [])
  | i :: is =>
    let (s1, v) := groupScale s p b g ((b.linBase + i) % max 1 b.nCh)
    let (s2, vs) := groupScales s1 p b g is
    (s2, (i, v) :: vs)

/-- The anchor that a wave gives a bin, or the raise that it needs first. R86, R88. -/
def waveAnchor (b : Bin) (sNonZero : Bool) (vs : List (Nat × Int × Int × Bool)) : Bin × Bool :=
  match maxQ vs with
  | none => (b, false)
  | some q =>
    match b.anchor with
    | none => (if sNonZero then { b with anchor := some (q - 12 + b.head) } else b, false)
    | some a => if a + 12 < q then ({ b with raise := some { dest := q - 12, prods := [] } }, true) else (b, false)

/-- The values of a wave that deliver to bin `b0 + k`, by accumulator. R82. -/
def valsFor (vs : List (Nat × Int × Int × Bool)) (k : Nat) : List (Nat × Int × Int × Bool) :=
  (vs.filter (fun v => v.1 / 4096 == k)).map (fun v => (v.1 % 4096, v.2))

/-- A wave's values delivered to one bin, with its group products where a group ends. R81, R94, R98. -/
def deliver (s : State) (p bi : Nat) (groupEnd : Option Nat) (vs : List (Nat × Int × Int × Bool)) : State :=
  let b := tget {} (s.tile p).bins bi
  let b1 := { b with acc := vs.foldl (enterVal (b.gs != .none) b.anchor) b.acc }
  match groupEnd with
  | none => s.modTile p (fun t => { t with bins := tset {} t.bins bi b1 })
  | some g =>
    let (s1, xs) := groupScales s p b1 g (vs.map (fun v => v.1))
    s1.modTile p (fun t => { t with bins := tset {} t.bins bi (enterProducts b1 xs) })

/-- The next position of a running lookup-accumulate in the order of R48; none past the last. -/
def LaccRun.next (r : LaccRun) (w : Nat) : Option LaccRun :=
  let o := r.op
  if r.row + 1 < o.m then some { r with row := r.row + 1 }
  else if r.cw + 1 < chWaves w o.n then some { r with row := 0, cw := r.cw + 1, image := r.image + 1, slot := none }
  else if r.plane + 1 < o.kind.planes then some { r with row := 0, cw := 0, plane := r.plane + 1, image := r.image + 1, slot := none }
  else if r.blk + 1 < o.blk0 + o.nblk then
    some { r with row := 0, cw := 0, plane := 0, blk := r.blk + 1, image := r.image + 1, slot := none }
  else none

/-- The group that ends for a bin with the present wave, if any. R96, R99. -/
def groupEnds (b : Bin) (r : LaccRun) (bpos : Nat) : Option Nat :=
  let o := r.op
  if r.plane + 1 ≠ o.kind.planes then none
  else match b.gs with
  | .array =>
    let pos := b.pos + (r.blk - o.blk0 + 1) * bpos
    if 0 < b.gsize ∧ pos % b.gsize = 0 then some (pos / b.gsize - 1) else none
  | .codebook => if r.blk + 1 = o.blk0 + o.nblk then some 0 else none
  | .none => none

/-- The end of a lookup-accumulate: its bins' positions advance. R96. -/
def laccEnd (t : Tile) (o : LaccOp) (bpos : Nat) : Tile :=
  { t with
    lookRun := none
    bins := (List.range (laccBins o.m o.n)).foldl (fun x b =>
      tmod {} x (o.bin0 + b) (fun i => { i with pos := i.pos + o.nblk * bpos })) t.bins }

/-- The ring slot of a wave's image: taken with the image's first row wave, returned after its last. R270. -/
def waveSlot (s : State) (l : Nat) (r : LaccRun) : Option (State × LaccRun × Nat) :=
  match r.op.ring with
  | none => some (s, r, r.image)
  | some q =>
    let g := s.ring q
    match r.slot with
    | some i => (slotOff l g i).map (fun o => (s, r, o))
    | none =>
      if g.canTake then
        (slotOff l g g.i2).map (fun o => (s.modRing q Ring.take, { r with slot := some g.i2 }, o))
      else none

/-- The bins that the next wave of a lookup-accumulate delivers to, counted from its first. R82. -/
def LaccRun.hits (r : LaccRun) (hr : HalfRec) : List Nat :=
  let o := r.op
  let lo := (r.row * o.n + r.cw * treesOf hr.width) / 4096
  let hi := (r.row * o.n + min o.n ((r.cw + 1) * treesOf hr.width) - 1) / 4096
  (List.range (hi - lo + 1)).map (fun k => lo + k)

/-- A bin that the next wave delivers to is raising. R90. -/
def raiseHolds (t : Tile) (r : LaccRun) (hr : HalfRec) : Bool :=
  (r.hits hr).any (fun k => (tget {} t.bins (r.op.bin0 + k)).raise.isSome)

/-- One handshake of the lookup path. R48. It waits while a bin raises, preloads, or its image is not present; an image in a block of
another context is refused. R51, R90, R194. -/
def doWave (s : State) (l : Nat) (run : Run) (r : LaccRun) (hr : HalfRec) : State :=
  let p := s.phys l
  let o := r.op
  let binsHit := r.hits hr
  if raiseHolds (s.tile p) r hr then s
  else match waveSlot s l r with
  | none => s
  | some (s1, r1, off0) =>
    let off := if o.ring.isSome then off0 else o.addr + r.image * waveBytes hr.enc hr.width
    let h := (s1.tile p).half o.half
    let n := waveBytes hr.enc hr.width
    if !rangeOwned s run.rr.ctx p off n then faultTile s l .fenced o.pc clsOperation
    else
      let (s2, bs, bad) := readImage s1 (.mill p (off / 32 * 32)) (ceilDiv (off % 32 + n) 32)
      let vs := waveValues h hr o r.blk r.plane r.cw r.row bs bad off
      let nz := (tget {} h.blocks (r.row * hr.nb + r.blk)).s != 0
      let anch := binsHit.map (fun k => (k, waveAnchor (tget {} (s2.tile p).bins (o.bin0 + k)) nz (valsFor vs k)))
      if anch.any (fun a => a.2.2) then
        s1.modTile p (fun t => { t with lookRun := some r1, bins := anch.foldl (fun x a =>
          if a.2.2 then tset {} x (o.bin0 + a.1) a.2.1 else x) t.bins })
      else
        let s3 := s2.modTile p (fun t => { t with bins := anch.foldl (fun x a => tset {} x (o.bin0 + a.1) a.2.1) t.bins })
        let s4 := binsHit.foldl (fun s k =>
          deliver s p (o.bin0 + k) (groupEnds (tget {} (s.tile p).bins (o.bin0 + k)) r hr.bpos) (valsFor vs k)) s3
        let lastRow := decide (o.m ≤ r.row + 1)
        let s5 := match o.ring with
          | some q => if lastRow then s4.modRing q Ring.give else s4
          | none => s4
        let s6 := match r1.next hr.width with
          | some r2 => s5.modTile p (fun t => { t with lookRun := some r2 })
          | none => s5.modTile p (fun t => laccEnd t o hr.bpos)
        tileHs s6 l 1

/-- R48. -/
def execWave (l : Nat) (s : State) : Host.Outcome State Fault Refusal :=
  let p := s.phys l
  let t := s.tile p
  .next (match t.lookRun, s.runOf l with
    | some r, some run =>
      (match (t.half r.op.half).hr with
       | some hr => if run.phase = .active && rateOk s p 1 then doWave s l run r hr else s
       | none => s)
    | _, _ => s)

/-- A raise completes. Bins that raise for one wave each take their own handshakes (DESIGN CHOICE, log entry 60). R90. -/
def execAnchorRaise (l bin : Nat) (s : State) : Host.Outcome State Fault Refusal :=
  let p := s.phys l
  let b := tget {} (s.tile p).bins bin
  .next (match b.raise with
    | none => s
    | some r =>
      tileHs (s.modTile p (fun t => { t with bins := tset {} t.bins bin (b.raised r) })) l (if b.gs = .none then 4 else 8))

/-- What the next wave of a running lookup-accumulate waits for. R51, R90, R233. -/
def waveCauses (s : State) (l : Nat) (r : LaccRun) (hr : HalfRec) : List Cause :=
  (if raiseHolds (s.tile (s.phys l)) r hr then [.bin] else []) ++ (if (waveSlot s l r).isNone then [.weight] else []) ++
  (if rateOk s (s.phys l) 1 then [] else [.rate])

/-! ## The start of a queued lookup-accumulate -/

/-- What a queued lookup-accumulate waits for: earlier builds into its half (R39), earlier opens of its bins (R108), and blocks (R205). -/
def laccCauses (s : State) (l : Nat) (t : Tile) (o : LaccOp) : List Cause :=
  let hop := t.hopQ ++ t.hopRun.toList
  let builds := hop.any (fun x => match x with
    | .build n b => decide (n < o.iseq) && b.half == o.half
    | .load n b => decide (n < o.iseq) && b.half == o.half
    | .save _ _ _ _ => false)
  let opens := (t.binQ ++ t.binRun.toList).any (fun x => match x with
    | .opn b => decide (b.iseq < o.iseq) && decide (o.bin0 ≤ b.bin) && decide (b.bin < o.bin0 + laccBins o.m o.n)
    | .cls _ => false)
  (if builds then [.table] else []) ++ (if opens then [.bin] else []) ++ (if blocked s l o.iseq o.foot.reads [] then [.bank] else [])

def laccReady (s : State) (l : Nat) (t : Tile) (o : LaccOp) : Bool := (laccCauses s l t o).isEmpty

/-- The bins of a starting lookup-accumulate record its row-scale vector, if they have none, and its codebook. R271. -/
def startLacc (t : Tile) (o : LaccOp) (hr : HalfRec) : Tile :=
  { t with
    lookQ := t.lookQ.drop 1
    lookRun := some { op := o, blk := o.blk0, plane := 0, cw := 0, row := 0, image := 0, slot := none }
    bins := (List.range (laccBins o.m o.n)).foldl (fun x b =>
      tmod {} x (o.bin0 + b) (fun i => { i with rowScale := if i.rowScale = none then some hr.rs else i.rowScale,
                                                codebook := hr.cb })) t.bins }

def startLook (s : State) (l : Nat) : State :=
  let p := s.phys l
  let t := s.tile p
  match t.lookQ.head?, t.lookRun with
  | some o, none =>
    (match (t.half o.half).hr with
     | some hr => if laccReady s l t o then s.modTile p (fun t => startLacc t o hr) else s
     | none => s)
  | _, _ => s

end Sys2Proof.Machine
end

