-- ==== Sys2Proof/Machine/Bins.lean ====
section
/-! DEFINITION. Bins: opening, preloading, the reading of a close (03, R100 to R111), and the issue of `bin.open` (06, R272, R273). -/

namespace Sys2Proof.Machine
open Sys2Proof

/-! ## bin.open -/

def gsModeOf : Nat → GsMode
  | 0 => .none | 1 => .array | _ => .codebook

def gsizeOf : Nat → Nat
  | 0 => 64 | 1 => 128 | _ => 256

/-- The issue-order state of a bin after an open. R91, R101, R104. -/
def openIss (o : OpenOp) : BinIss :=
  { st := .opened, nRow := o.nRow, nCh := o.nCh, linBase := o.linBase, gs := o.gs, gsAddr := o.gsAddr, gsize := o.gsize,
    count := if o.preload.isSome then 1 else 0, posIss := 0 }

/-- The registers of an open themselves: PRE_ADDR word-aligned, GS_ADDR 2-byte aligned, each an own-tile address. R273, R718. -/
def openRegsFlt (src gs : Nat) (pre gsa : Option Nat) : List Flt :=
  let off (a : Option Nat) (n : Nat) : Bool := match a with
    | some o => o % n != 0
    | none => true
  [faultIf (src != 0 && off pre 32) .operandInvalid, faultIf (gs == 1 && off gsa 2) .operandInvalid]

/-- The places that an open names: PRE_ADDR in the O bank, GS_ADDR in the A or O bank, and the scales of group 0. R273, R721.
DESIGN CHOICE (log 59): a GS_ADDR that names another tile is OPERAND_INVALID. -/
def openPlaceFlt (s : State) (r : Run) (l : Nat) (src gs nCh : Nat) (pre gsa : Option Nat) : List Flt :=
  (if src = 0 then [] else match pre with
    | none => [.operandInvalid]
    | some o => [faultIf (!inBank 2 o 32768) .operandInvalid, ownRange s r l (src == 2) o 32768]) ++
  (if gs ≠ 1 then [] else match gsa with
    | none => [.operandInvalid]
    | some o => [faultIf (!(inBank 1 o 2 || inBank 2 o 2)) .operandInvalid, ownRange s r l false o (2 * nCh)])

/-- R101 to R105, R272, R273. -/
def execBinOpen (c : Core) (g : Guard) (bin : BitVec 3) (src : BitVec 2) (anchMode : Bool) (head : BitVec 4) (gsMode gsize : BitVec 2)
    (apre ags : BitVec 4) (nRow : BitVec 12) (linb : BitVec 3) (anch : BitVec 16) (nCh : BitVec 15) (s : State) :
    Host.Outcome State Fault Refusal :=
  issue s c g { wf := wfBinOpen src anchMode gsMode gsize apre ags anch, svc := false, long := true } (fun s => onTile s c (fun l r =>
    let p := s.phys l
    let t := s.tile p
    let rows := nRow.toNat + 1
    let ch := nCh.toNat + 1
    let lin := linb.toNat * 4096
    let pre := regOff s r l apre
    let gsa := regOff s r l ags
    let b := bin.toNat
    let flt := firstFlt ([faultIf (decide (rows * ch ≤ lin)) .operandInvalid] ++ openRegsFlt src.toNat gsMode.toNat pre gsa ++
      openPlaceFlt s r l src.toNat gsMode.toNat ch pre gsa ++ [faultIf ((tget {} t.issBins b).st == .opened) .binBusy])
    if flt ≠ .none then .fault s flt
    else if 8 ≤ t.binQ.length then .stay s
    else
      let (s1, q) := takeIseq s l
      let o : OpenOp := { iseq := q, pc := (s.seqr c).pc, bin := b, preload := if src = 0 then none else some (pre.getD 0),
                          clear := src == 2, nRow := rows, nCh := ch, linBase := lin, fixed := if anchMode then some anch.toInt else none,
                          head := head.toNat, gs := gsModeOf gsMode.toNat, gsAddr := if gsMode = 1 then gsa.getD 0 else 0,
                          gsize := if gsMode = 1 then gsizeOf gsize.toNat else 0 }
      .done (s1.modTile p (fun t => { t with binQ := t.binQ ++ [.opn o], issBins := tset {} t.issBins b (openIss o) }))))

/-- An opened bin, zeroed. R86, R91. -/
def openBin (o : OpenOp) : Bin :=
  { st := .opened, anchor := o.fixed, nRow := o.nRow, nCh := o.nCh, linBase := o.linBase, head := o.head, gs := o.gs,
    gsAddr := o.gsAddr, gsize := o.gsize, count := if o.preload.isSome then 1 else 0 }

/-! ## Preload (R102, R103, R108) -/

/-- `n` preloaded words of four values each, and the worst outcome. With CLEAR each word is swapped with zero; a swap at a word that
holds no good data is not made. R103, R317, R324, R716. -/
def readPre (s : State) (pl : Place) (clear : Bool) : Nat → State × List P64 × RdSt
  | 0 => (s, [], .ok)
  | n + 1 =>
    let (s1, w, st) := readWord s pl
    let s2 := if clear ∧ st = .ok then writeWord s1 pl (0, 0) else s1
    let (s3, vs, st2) := readPre s2 (pl.plus 32) clear n
    let lane (i : Nat) : P64 := if st = .ok then P64.of (w.extractLsb' (64 * i) 64) else .poison
    (s3, lane 0 :: lane 1 :: lane 2 :: lane 3 :: vs, st.max st2)

/-- The least anchor at which a value is below 2^(a + 31). R102. -/
def preAnchor (v : P64) : Option Int :=
  if v.exp = -32768 ∨ v.mant = 0 then none else some (v.exp + Nat.log2 v.mant.natAbs + 1 - 31)

/-- The bin after a preload. R102. -/
def preloadBin (o : OpenOp) (vs : List P64) : Bin :=
  let a := intMax? (vs.filterMap preAnchor)
  let accs : Tab Acc := (vs.zipIdx.filterMap (fun x =>
    if x.1.exp = -32768 then some (x.2, ({ poison := true } : Acc))
    else match a with
      | none => none
      | some a => some (x.2, ({ acc := rneAt x.1.mant x.1.exp a } : Acc)))).filter (fun x => x.2 != {})
  { openBin o with anchor := a, acc := accs }

/-- A preloading open completes. A bad word poisons its values; where CLEAR cannot swap one, the run faults in the machine class.
R102, R103, R108, R115, R317, R716. -/
def execPreloadDone (l : Nat) (s : State) : Host.Outcome State Fault Refusal :=
  let p := s.phys l
  .next (match (s.tile p).binRun with
    | some (.opn o) =>
      (match o.preload with
       | some a =>
         if !tileActive s l then s
         else
           let (s1, vs, st) := readPre s (.mill p a) o.clear 1024
           if o.clear ∧ st ≠ .ok then machineFault s1 l o.pc (st == .bad)
           else tileHs (s1.modTile p (fun t => { t with binRun := none, bins := tset {} t.bins o.bin (preloadBin o vs) })) l
             (if o.clear then 128 else 64)
       | none => s)
    | _ => s)

/-! ## The start of a queued open or close, and the reading of a close -/

/-- Accumulations pending on a bin: earlier lookup-accumulates, or a raise. R109. -/
def binPending (t : Tile) (iseq bin : Nat) : Bool :=
  let hit (o : LaccOp) : Bool := decide (o.iseq < iseq) && decide (o.bin0 ≤ bin) && decide (bin < o.bin0 + laccBins o.m o.n)
  t.lookQ.any hit || (match t.lookRun with
    | some r => hit r.op
    | none => false) || (tget {} t.bins bin).raise.isSome

/-- A partial group that a close completes first: its number. R100. -/
def partialGroup (b : Bin) : Option Nat :=
  if b.gs = .array ∧ 0 < b.gsize ∧ b.pos % b.gsize ≠ 0 then some (b.pos / b.gsize) else none

/-- R100: the partial group's products are formed for every accumulator of the bin, and its position count rounds up. DESIGN CHOICE
(log 60): they belong to no wave, and are formed together, with one raise where one of them needs it. -/
def closeGroup (s : State) (p bi g : Nat) : State :=
  let b := tget {} (s.tile p).bins bi
  let n := min 4096 (b.nRow * b.nCh - b.linBase)
  let (s1, xs) := groupScales s p b g (List.range n)
  s1.modTile p (fun t => { t with bins := tset {} t.bins bi { enterProducts b xs with pos := (g + 1) * b.gsize } })

/-- What the head of the bin queue waits for: an open for its bin to be CLOSED (R105), a close for its accumulations (R109), and either
for blocks (R205). -/
def binCauses (s : State) (l : Nat) (o : BinOp) : List Cause :=
  let t := s.tile (s.phys l)
  match o with
  | .opn o =>
    (if (tget {} t.bins o.bin).st ≠ .closed then [.bin] else []) ++
    (if blocked s l o.iseq o.foot.reads o.foot.writes then [.bank] else [])
  | .cls o =>
    (if binPending t o.iseq o.bin then [.bin] else []) ++
    (match partialGroup (tget {} t.bins o.bin) with
     | some _ => if blocked s l o.iseq o.scales [] then [.bank] else []
     | none => if blocked s l o.iseq o.foot.reads o.foot.writes then [.bank] else [])

/-- The head of the bin queue starts: an open of a CLOSED bin (R105), or a close whose accumulations have drained (R109). -/
def startBin (s : State) (l : Nat) : State :=
  let p := s.phys l
  let t := s.tile p
  match t.binQ.head?, t.binRun with
  | some o, none =>
    if !(binCauses s l o).isEmpty then s
    else match o with
      | .opn o =>
        (match o.preload with
         | none => tileHs (s.modTile p (fun t => { t with binQ := t.binQ.drop 1, bins := tset {} t.bins o.bin (openBin o) })) l 1
         | some _ => s.modTile p (fun t => { t with binQ := t.binQ.drop 1, binRun := some (.opn o) }))
      | .cls o =>
        let b := tget {} t.bins o.bin
        match partialGroup b with
        | some g => closeGroup s p o.bin g
        | none => s.modTile p (fun t => { t with binQ := t.binQ.drop 1, binRun := some (.cls o),
                                                 bins := tset {} t.bins o.bin { b with st := .closing } })
  | _, _ => s

/-- A close has read its last accumulator: the bin is CLOSED and its values go on with the close. R105, R111, R115. -/
def execBinCloseReadDone (l : Nat) (s : State) : Host.Outcome State Fault Refusal :=
  let p := s.phys l
  .next (match (s.tile p).binRun with
    | some (.cls o) =>
      let b := tget {} (s.tile p).bins o.bin
      let run : CloseRun := { op := o, anchor := b.anchor, acc := b.acc, nRow := b.nRow, nCh := b.nCh, linBase := b.linBase,
                              rowScale := b.rowScale }
      let hs := match o.dest with
        | .tailrace d => if d.kvqEn then 32 else 16
        | _ => 64
      tileHs (s.modTile p (fun t => { t with binRun := none, bins := tset {} t.bins o.bin {}, closes := t.closes ++ [run] })) l hs
    | _ => s)

/-- The issue-order state of a bin becomes CLOSED once its close has read it and no later open has issued. -/
def BinIss.closing (i : BinIss) : BinIss := { i with st := .closing }

end Sys2Proof.Machine
end

