-- ==== Sys2Proof/Machine/Sluice.lean ====
section
/-! DEFINITION. Sluice words (08, R365 to R372, R726). -/

namespace Sys2Proof.Machine
open Sys2Proof

/-- The place of a sluice word: home tile, and table base there. R365. -/
def sluicePlace (s : State) (ctx n : Nat) : Option Place :=
  if (s.ctx ctx).bind.sltCount ≤ n then none
  else match ((s.ctx ctx).homes.drop (n / 16384)).head? with
    | none => none
    | some (l, base) => some (.mill (s.phys l) (base + 16 * (n % 16384)))

/-- The 16 bytes of a sluice word after an arrival. R365, R367, R368. -/
def sluiceAfter (v : Nat) : Nat :=
  let arrived := (bitsOf v 0 32 + 1) % 2 ^ 32
  let expect := bitsOf v 32 32
  let rel := v.testBit 64
  let st := bitsOf v 64 2
  let st' := if rel then (st ||| 2) else if arrived = expect then (st ||| 1) else st
  arrived + 2 ^ 32 * expect + 2 ^ 64 * st' + v / 2 ^ 66 * 2 ^ 66

/-- The 16 bytes that a reset leaves. R366. -/
def sluiceFresh (expect : Nat) : Nat := 2 ^ 32 * (expect % 2 ^ 32)

/-- One access to a sluice word: made with fresh check bits, or not made at a word that holds no good data. R726. -/
def sluiceAccess (s : State) (pl : Place) (f : Nat → Nat) : State × RdSt :=
  let (s1, d, st) := readWord s pl
  match st with
  | .ok => (writeWord s1 pl (mergeWord d (pl.key % 32) 16 (f (bitsOf d.toNat (8 * (pl.key % 32)) 128)), 0), .ok)
  | _ => (s1, st)

/-- A word's data as a checked reader has them, none where they are not good. -/
def goodData (w : Word288) : Option (BitVec 256) :=
  match classify w.2 with
  | .clean => some w.1
  | .correctable p sym => some (correct w.1 p sym)
  | _ => none

/-- RELEASED of a sluice. R369. -/
def sluiceReleased (s : State) (ctx n : Nat) : Bool :=
  match sluicePlace s ctx n with
  | none => false
  | some pl => match goodData (s.word pl.key) with
    | none => false
    | some d => (bitsOf d.toNat (8 * (pl.key % 32)) 128).testBit 64

/-- A sequencer that waits for the released round is told of it. R367, R369. -/
def Seqr.told (q : Seqr) (ctx n : Nat) : Seqr := if q.hold = .sluice ctx n then { q with released := true } else q

/-- The Governors pass a release on to every wait that has issued. R367, R369. -/
def tellRelease (s : State) (ctx n : Nat) : State :=
  { s with
    tiles := s.tiles.map (fun t => (t.1, { t.2 with seqr := t.2.seqr.told ctx n }))
    millers := s.millers.map (fun t => (t.1, { t.2 with seqr := t.2.seqr.told ctx n })) }

/-- The block of a sluice word belongs to its context. R194, R325. -/
def sluiceOwned (s : State) (ctx n : Nat) : Bool :=
  match sluicePlace s ctx n with
  | none => true
  | some pl => owned s ctx pl

/-- An arrival at the home tile from a device, with its stamp. R367, R612. -/
def sluiceArriveFrom (s : State) (src ctx n : Nat) : State × RdSt :=
  match sluicePlace s ctx n with
  | none => (s, .ok)
  | some pl =>
    let was := sluiceReleased s ctx n
    match sluiceAccess s pl sluiceAfter with
    | (s1, .ok) =>
      let now := sluiceReleased s1 ctx n && !was
      (stampArrival (if now then tellRelease s1 ctx n else s1) ctx n src now, .ok)
    | (s1, st) => (s1, st)

/-- An arrival of this device. R367. -/
def sluiceArrive (s : State) (ctx n : Nat) : State × RdSt := sluiceArriveFrom s s.hdr.devnum ctx n

end Sys2Proof.Machine
end

