-- ==== Sys2Proof/Machine/Activation.lean ====
section
/-! DEFINITION. The activation functions of stage 4 that the spec gives within a bound (03, R125): their exact values in fixed point, and the
free value that each takes within the bound. -/

namespace Sys2Proof.Machine
open Sys2Proof

/-! ## Fixed point

Numbers of this section count units of 2^−320, which is far below the bound that any of them is held to. -/

def fxOne : Nat := 2 ^ 320

/-- A finite FP32 value. -/
def fxOf (m e : Int) : Int := m * (2 : Int) ^ (e + 320).toNat

/-- The terms of the series of e^−z from term `k` on, for z below one half. -/
def expTerms (z : Nat) (neg : Bool) (k term : Nat) (acc : Int) : Nat → Int
  | 0 => acc
  | n + 1 => expTerms z (!neg) (k + 1) (term * z / fxOne / (k + 1)) (if neg then acc - term else acc + term) n

/-- The square, taken `n` times. -/
def fxSquares (x : Nat) : Nat → Nat
  | 0 => x
  | n + 1 => fxSquares (x * x / fxOne) n

/-- e^−x for x not negative; from 256 on it is below every bound. -/
def expNeg (x : Nat) : Nat := if 256 * fxOne ≤ x then 0 else fxSquares (expTerms (x / 512) false 0 fxOne 0 80).toNat 9

/-- The terms x^(2k+1) / (1·3·…·(2k+1)) summed, from one of divisor `d` on. -/
def gaussTerms (x2 d term acc : Nat) : Nat → Nat
  | 0 => acc
  | n + 1 => gaussTerms x2 (d + 2) (term * x2 / fxOne / (d + 2)) (acc + term) n

/-- 1 / √(2π). -/
def invSqrt2Pi : Nat := 0x662114cf50d942343f2cf1402eae38bfd3829f30512706d8c0471b4802639d2e9df8ac55447d3db7

/-- Φ(x) − 1/2 for x not negative; from 16 on it is 1/2 to within every bound. -/
def gaussHalf (x : Nat) : Nat :=
  if 16 * fxOne ≤ x then fxOne / 2
  else
    let x2 := x * x / fxOne
    let phi := expNeg (x2 / 2) * invSqrt2Pi / fxOne
    phi * gaussTerms x2 1 x 0 640 / fxOne

/-- 1 / (1 + e^−y). -/
def fxSigmoid (y : Int) : Nat :=
  let t := expNeg y.natAbs
  if y < 0 then t * fxOne / (fxOne + t) else fxOne * fxOne / (fxOne + t)

def fxTanh (y : Int) : Int :=
  let u := expNeg (2 * y.natAbs)
  let v : Int := ((fxOne - u) * fxOne / (fxOne + u) : Nat)
  if y < 0 then -v else v

/-- Φ(y), the standard normal distribution function. -/
def fxPhi (y : Int) : Nat := if y < 0 then fxOne / 2 - gaussHalf y.natAbs else fxOne / 2 + gaussHalf y.natAbs

/-- The exact value of ACT 2 to 5. R125. -/
def actExact (act : Nat) (y : Int) : Int :=
  match act with
  | 2 => y * fxPhi y / fxOne
  | 3 => y * fxSigmoid y / fxOne
  | 4 => fxTanh y
  | _ => fxSigmoid y

/-! ## The bound (R125) -/

/-- Two units in the last place of FP32 at `x`, or 2^−126 where `x` is below that; with the error of the fixed point. -/
def actBound (x : Int) : Nat :=
  (if x.natAbs < 2 ^ 194 then 2 ^ 194 else 2 * 2 ^ (Nat.log2 x.natAbs - 23)) + 2 ^ 70

/-- A result lies within the bound. -/
def actWithin (x : Int) (r : W32) : Bool :=
  match f32 r with
  | .fin m e => decide ((fxOf m e - x).natAbs ≤ actBound x)
  | .zero _ => decide (x.natAbs ≤ actBound x)
  | _ => false

/-- ACT 2 to 5: a free value within the bound; where Config's lies outside it, the exact value rounded. Of an infinite input the spec
states no result, and it is free. R125. DESIGN CHOICE (log 12). -/
def actValue (act : Nat) (y : W32) : W32 :=
  let r := Config.actFn act y
  let held (x : Int) : W32 := if actWithin x r then r else rne32 (.fin x (-320))
  match f32 y with
  | .fin m e => held (actExact act (fxOf m e))
  | .zero _ => held (actExact act 0)
  | _ => r

end Sys2Proof.Machine
end

