-- ==== Sys2Proof/Machine/Codec.lean ====
section
/-! DEFINITION. The Grist code (09): canonical tables, the coded block, encoding and decoding of one block, and the references
on table generations (R210 to R213). -/

namespace Sys2Proof.Machine
open Sys2Proof

/-! ## Kinds (R384) -/

/-- KIND is defined. R384. -/
def kindOk (k : Nat) : Bool := decide (1 ≤ k) && decide (k ≤ 3)

/-- NSYM of a kind. R386. -/
def kindSyms (k : Nat) : Nat := if k = 3 then 4096 else 2048

/-- LIT of a kind. R387. -/
def kindLit (k : Nat) : Nat := if k = 1 then 2048 else if k = 2 then 2816 else 0

/-- The 16-bit values of a block. -/
def halves : List Byte → List Nat
  | lo :: hi :: bs => (lo.toNat + 256 * hi.toNat) :: halves bs
  | _ => []

/-- The symbols of a raw block. R384. -/
def blockSyms (k : Nat) (raw : List Byte) : List Nat :=
  if k = 3 then raw.map BitVec.toNat
  else (halves raw).map (fun v => if k = 1 then v / 128 % 256 else v / 1024 % 32)

/-- Literal of a 16-bit value. R384. -/
def literal (k v : Nat) : Nat := if k = 1 then v / 32768 * 128 + v % 128 else v / 32768 * 1024 + v % 1024

/-- Value from symbol and literal. R384. -/
def joinValue (k sym lit : Nat) : Nat :=
  if k = 1 then lit / 128 * 32768 + sym * 128 + lit % 128 else lit / 1024 * 32768 + sym * 1024 + lit % 1024

/-! ## Canonical codes (R391 to R393) -/

/-- A code: symbol, length and value. -/
abbrev Code := Nat × Nat × Nat

/-- The codes of one length and those after it. R392. -/
def assignCodes (lens : Tab Nat) (next len : Nat) : Nat → List Code
  | 0 => []
  | n + 1 =>
    let syms := (List.range 256).filter (fun s => tget 0 lens s == len)
    syms.zipIdx.map (fun p => (p.1, len, 2 * next + p.2)) ++ assignCodes lens (2 * next + syms.length) (len + 1) n

/-- The canonical codes of a table. R392. -/
def codesOf (lens : Tab Nat) : List Code := assignCodes lens 0 1 12

/-- LEN of symbol s in a table record. R391. -/
def recordLen (bs : List Byte) (s : Nat) : Nat := bitsOf (fieldAt bs (s / 2) 1) (4 * (s % 2)) 4

/-- The lengths of a record as a table. -/
def recordLens (bs : List Byte) : Tab Nat :=
  (List.range 256).filterMap (fun s => if recordLen bs s = 0 then none else some (s, recordLen bs s))

/-- Σ 2^(12 − LEN). R393. -/
def kraftSum (lens : Tab Nat) : Nat := (lens.map (fun x => 2 ^ (12 - x.2))).foldl (· + ·) 0

/-- A record that R393 accepts. -/
def recordOk (bs : List Byte) : Bool :=
  let k := fieldAt bs 128 1
  let lens := recordLens bs
  kindOk k && fieldAt bs 129 31 == 0 && !lens.isEmpty && decide (kraftSum lens ≤ 4096) &&
  (k != 2 || lens.all (fun x => decide (x.1 < 32))) && lens.all (fun x => decide (x.2 ≤ 12))

/-! ## Encoding (R386 to R390, R396) -/

/-- The bits of a code, most significant first. R388. -/
def codeBits (len code : Nat) : List Bool := (List.range len).map (fun i => code.testBit (len - 1 - i))

/-- Bits to bytes, the first bit lowest, padded with zeros. R388. -/
def packBits (bs : List Bool) : List Byte :=
  (chunks 8 bs (ceilDiv bs.length 8)).map (fun c => BitVec.ofNat 8 ((c.zipIdx.map (fun p => if p.1 then 2 ^ p.2 else 0)).foldl (· + ·) 0))

/-- Every eighth element from position k on. R388. -/
def every8 (xs : List Nat) (k : Nat) : List Nat := ((xs.zipIdx).filter (fun p => p.2 % 8 == k)).map (fun p => p.1)

/-- The code of a symbol. -/
def codeFor (cs : List Code) (sym : Nat) : List Bool :=
  match cs.find? (fun c => c.1 == sym) with
  | some c => codeBits c.2.1 c.2.2
  | none => []

/-- The literal area of a raw block. R390. -/
def literalArea (k : Nat) (raw : List Byte) : List Byte :=
  if k = 1 then (halves raw).map (fun v => BitVec.ofNat 8 (literal 1 v))
  else if k = 2 then packBits ((halves raw).flatMap (fun v => (List.range 11).map (fun i => (literal 2 v).testBit i)))
  else []

/-- Byte offsets of the substreams and END. R396. -/
def offsets (o : Nat) : List (List Byte) → List Nat
  | [] => [o]
  | b :: bs => o :: offsets (o + b.length) bs

/-- Why a block is stored raw, by the numbers of GRS_ENC_RAW. R396. -/
inductive Escape
  | size | noCode | kind
deriving DecidableEq, Repr

def Escape.index : Escape → Nat
  | .size => 0 | .noCode => 1 | .kind => 2

/-- The bytes 0 to CLEN − 1 of a coded block, or the escape. `fits` is the KIND condition. R396, R397. -/
def encodeBlock (g : GGen) (slot : Nat) (poison fits : Bool) (raw : List Byte) : List Byte × Option Escape :=
  let k := g.kind
  let syms := blockSyms k raw
  let cs := codesOf g.lens
  if !fits then (raw, some .kind)
  else if syms.any (fun x => tget 0 g.lens x == 0) then (raw, some .noCode)
  else
    let bits := (List.range 8).map (fun j => (every8 syms j).flatMap (codeFor cs))
    let subs := bits.map packBits
    let offs := offsets 32 subs
    let fin := nth 0 offs 8
    let pad := ((bits.zipIdx).map (fun p => (8 * ceilDiv p.1.length 8 - p.1.length) * 8 ^ p.2)).foldl (· + ·) 0
    if 4096 < fin + kindLit k then (raw, some .size)
    else
      (natToBytes slot 1 ++ natToBytes (16 * g.gen + (if poison then 8 else 0) + k) 1 ++ natToBytes (kindSyms k) 2 ++
        offs.flatMap (fun o => natToBytes o 2) ++ natToBytes pad 3 ++ natToBytes 0 7 ++ subs.flatten ++ literalArea k raw, none)

/-! ## Decoding (R387 to R390, R409) -/

/-- The causes of R409, by the numbers of GRS_BAD. -/
inductive Cause3
  | invalid | over | under
deriving DecidableEq, Repr

def Cause3.index : Cause3 → Nat
  | .invalid => 0 | .over => 1 | .under => 2

/-- The fields of a codec header. R386. -/
structure CodecHdr where
  slot : Nat
  gen : Nat
  poison : Bool
  kind : Nat
  nsym : Nat
  offs : List Nat
  pad : Nat
  rsvd : Nat
deriving DecidableEq, Repr

def codecHdr (bs : List Byte) : CodecHdr :=
  { slot := fieldAt bs 0 1, gen := bitsOf (fieldAt bs 1 1) 4 4, poison := (fieldAt bs 1 1).testBit 3,
    kind := fieldAt bs 1 1 % 8, nsym := fieldAt bs 2 2,
    offs := (List.range 9).map (fun k => fieldAt bs (4 + 2 * k) 2), pad := fieldAt bs 22 3, rsvd := fieldAt bs 25 7 }

/-- END. -/
def CodecHdr.fin (h : CodecHdr) : Nat := nth 0 h.offs 8

/-- CLEN. R387. -/
def CodecHdr.clen (h : CodecHdr) : Nat := h.fin + kindLit h.kind

/-- Check 1 of R409. -/
def CodecHdr.wellFormed (h : CodecHdr) : Bool :=
  h.rsvd == 0 && kindOk h.kind && h.nsym == kindSyms h.kind && nth 0 h.offs 0 == 32 &&
  (List.range 8).all (fun k => decide (nth 0 h.offs k ≤ nth 0 h.offs (k + 1))) && decide (h.clen ≤ 4096)

/-- D_k. R389. -/
def CodecHdr.declared (h : CodecHdr) (k : Nat) : Nat := 8 * (nth 0 h.offs (k + 1) - nth 0 h.offs k) - bitsOf h.pad (3 * k) 3

/-- The bits of bytes, lowest first. -/
def unpackBits (bs : List Byte) : List Bool := bs.flatMap (fun b => (List.range 8).map (fun i => b.toNat.testBit i))

/-- Some code continues the bits `acc` of length `len`. -/
def prefixLives (cs : List Code) (len acc : Nat) : Bool := cs.any (fun c => decide (len < c.2.1) && c.2.2 / 2 ^ (c.2.1 - len) == acc)

/-- `need` symbols from the bits before D_k; `len` and `acc` are the bits of the code under way. Answers the symbols and the
bits left over. R409, check 3. -/
def decodeBits (cs : List Code) (need len acc : Nat) (out : List Nat) : List Bool → Except Cause3 (List Nat)
  | [] => if need = 0 then .ok out.reverse else .error .over
  | b :: bs =>
    if need = 0 then .error .under
    else
      let a := 2 * acc + b.toNat
      match cs.find? (fun c => c.2.1 == len + 1 && c.2.2 == a) with
      | some c => decodeBits cs (need - 1) 0 0 (c.1 :: out) bs
      | none => if prefixLives cs (len + 1) a then decodeBits cs need (len + 1) a out bs else .error .invalid

/-- Substream k. R389, R409. -/
def decodeSub (cs : List Code) (h : CodecHdr) (place : List Byte) (k : Nat) : Except Cause3 (List Nat) :=
  let o := nth 0 h.offs k
  let bits := unpackBits ((place.drop o).take (nth 0 h.offs (k + 1) - o))
  match decodeBits cs (kindSyms h.kind / 8) 0 0 [] (bits.take (h.declared k)) with
  | .error e => .error e
  | .ok xs => if (bits.drop (h.declared k)).any id then .error .under else .ok xs

/-- Substreams k to 7, in order. -/
def decodeSubs (cs : List Code) (h : CodecHdr) (place : List Byte) (k : Nat) : Nat → Except Cause3 (List (List Nat))
  | 0 => .ok []
  | n + 1 =>
    match decodeSub cs h place k with
    | .error e => .error e
    | .ok xs => match decodeSubs cs h place (k + 1) n with
      | .error e => .error e
      | .ok ys => .ok (xs :: ys)

/-- Symbol i is symbol i div 8 of substream i mod 8. R388. -/
def interleave (xss : List (List Nat)) : Nat → List Nat
  | 0 => []
  | n + 1 => xss.map (fun xs => xs.headD 0) ++ interleave (xss.map (fun xs => xs.drop 1)) n

/-- Literals of a coded block. R390. -/
def literals (h : CodecHdr) (place : List Byte) : List Nat :=
  let area := (place.drop h.fin).take (kindLit h.kind)
  if h.kind = 1 then area.map BitVec.toNat
  else (chunks 11 (unpackBits area) 2048).map (fun c => (c.zipIdx.map (fun p => if p.1 then 2 ^ p.2 else 0)).foldl (· + ·) 0)

/-- The decoded 4,096 bytes of a coded block whose checks 1 and 2 pass. R409, check 3. -/
def decodeBlock (g : GGen) (h : CodecHdr) (place : List Byte) : Except Cause3 (List Byte) :=
  match decodeSubs (codesOf g.lens) h place 0 8 with
  | .error e => .error e
  | .ok xss =>
    let syms := interleave xss (kindSyms h.kind / 8)
    .ok (if h.kind = 3 then syms.map (BitVec.ofNat 8)
      else (List.zipWith (joinValue h.kind) syms (literals h place)).flatMap (fun v => natToBytes v 2))

/-- One block coded by a lane of die `d`, counted. -/
def countEnc (s : State) (d : Nat) (e : Option Escape) : State :=
  s.modGrs d (fun g => { g with
    encBlocks := satAdd 64 g.encBlocks 1
    encRaw := match e with
      | none => g.encRaw
      | some x => tset 0 g.encRaw x.index (satAdd 64 (tget 0 g.encRaw x.index) 1) })

end Sys2Proof.Machine
end

