-- ==== Sys2Proof/Machine/Tailrace.lean ====
section
/-! DEFINITION. Closing a bin (03, R109 to R136; 04, R140 to R146): the issue of `bin.close` (06, R274), the seven stages of
the Tailrace, KV page writes, P64 stores and adds. -/

namespace Sys2Proof.Machine
open Sys2Proof

/-! ## The descriptor (R120, R121) -/


/-- The descriptor of 64 bytes, with its Millpond fields in the tile's own form. -/
def tailDesc (r : Run) (l : Nat) (bs : List Byte) : TailDesc :=
  let mp (o : Nat) : Option Nat := (optAddr (fieldAt bs o 4)).map (fun a => (mpNorm r l a).getD a)
  { grsGen := fieldAt bs 47 1 % 16, grsSlot := fieldAt bs 46 1, kvHeadW := fieldAt bs 44 2,
    grsEn := (fieldAt bs 43 1).testBit 2, kvqEn := (fieldAt bs 43 1).testBit 1, outEn := (fieldAt bs 43 1).testBit 0,
    kvFmt := fieldAt bs 42 1 % 16, act := fieldAt bs 41 1 % 16, biasFmt := fieldAt bs 40 1 / 16, outFmt := fieldAt bs 40 1 % 16,
    kvSlotAddr := field64 bs 32, outQscale := field32 bs 28, pwlAddr := (mpNorm r l (fieldAt bs 24 4)).getD (fieldAt bs 24 4),
    biasAddr := mp 20, chScaleAddr := mp 16, rowScaleAddr := mp 12, hdrAddr := (mpNorm r l (fieldAt bs 8 4)).getD (fieldAt bs 8 4),
    outStride := fieldAt bs 4 4, outAddr := (mpNorm r l (fieldAt bs 0 4)).getD (fieldAt bs 0 4) }

def fmtIs (p : Fmt → Bool) (c : Nat) : Bool :=
  match fmtOf c with
  | some f => p f
  | none => false

/-- Reserved bits, codes, ranges and alignments of the descriptor's fields. R79, R121, R398. -/
def tailFieldsOk (bs : List Byte) (d : TailDesc) (nRow nCh nGrist : Nat) : Bool :=
  let aligned (a : Option Nat) (n : Nat) : Bool := match a with
    | some x => x % n == 0
    | none => true
  fieldAt bs 48 16 == 0 && fieldAt bs 47 1 / 16 == 0 && fieldAt bs 43 1 / 8 == 0 && fieldAt bs 42 1 / 16 == 0 &&
  fieldAt bs 41 1 / 16 == 0 && d.kvFmt != 15 && d.biasFmt != 15 && d.outFmt != 15 && decide (d.act ≤ 6) &&
  (!d.outEn || fmtIs isOutFmt d.outFmt) && (d.biasAddr.isNone || fmtIs isWideFmt d.biasFmt) && (!d.kvqEn || fmtIs isKvFmt d.kvFmt) &&
  aligned d.rowScaleAddr 4 && aligned d.chScaleAddr 4 && aligned d.biasAddr (codeWidth d.biasFmt) && d.pwlAddr % 32 == 0 &&
  d.hdrAddr % 8 == 0 && d.outStride % 32 == 0 && d.outAddr % 32 == 0 &&
  (!d.kvqEn || (decide (4 ≤ d.kvHeadW) && decide (d.kvHeadW ≤ 256) && d.kvHeadW % 4 == 0 && nCh % d.kvHeadW == 0 &&
    (decide (nRow * nCh ≤ 4096) || 4096 % d.kvHeadW == 0))) &&
  (!d.grsEn || (nGrist != 0 && d.outAddr % 4096 == 0 && d.outEn))

/-- A Millpond field outside the run's regions is OPERAND_INVALID; a read-only region or another owner is FENCED. R121, R194, R255. -/
def fieldRange (s : State) (r : Run) (l a : Nat) (write : Bool) (n : Nat) : Flt :=
  match mpTarget r l a with
  | none => .operandInvalid
  | some (t, off) => if n != 0 && !regionOk r (t == l) false off n then .operandInvalid else mpRange s r l a write n

def optRange (s : State) (r : Run) (l : Nat) (a : Option Nat) (n : Nat) : Flt :=
  match a with
  | none => .none
  | some a => fieldRange s r l a false n

/-- An O-bank field of the closing tile itself. R120. -/
def outRange (s : State) (r : Run) (l a n : Nat) : Flt :=
  match ownOff r l a with
  | none => .operandInvalid
  | some o => if !inBank 2 o n then .operandInvalid else fieldRange s r l a true n

/-- An address of a field that the close does not use: outside the run's regions it is OPERAND_INVALID all the same. R121, R155. -/
def outsideFlt (s : State) (r : Run) (l a : Nat) : Flt :=
  match mpTarget r l a with
  | none => .operandInvalid
  | some (t, off) => faultIf (!regionOk r (t == l) false off 1) .operandInvalid

/-- The places that the descriptor names, and its Grist slot: for an OPEN bin, whose extent is known, exactly the bytes that the close
reads and writes, else the first element of each; of a field that is not in use the address itself. R121, R123, R210.
DESIGN CHOICE (log 59) of the bytes that `any address` covers. -/
def tailPlaces (s : State) (r : Run) (l : Nat) (d : TailDesc) (opened : Bool) (nRow nCh lin : Nat) : List Flt :=
  let (r0, n) := binRows nRow nCh lin
  let ext (k w : Nat) : Nat := if opened then k * w else w
  [ if d.act = 6 then fieldRange s r l d.pwlAddr false 2064 else outsideFlt s r l d.pwlAddr,
    optRange s r l (d.rowScaleAddr.map (fun a => if opened then a + 4 * r0 else a)) (ext n 4), optRange s r l d.chScaleAddr (ext nCh 4),
    optRange s r l d.biasAddr (ext nCh (codeWidth d.biasFmt)) ] ++
  (if !d.outEn then [outsideFlt s r l d.outAddr, outsideFlt s r l d.hdrAddr]
   else if opened then (outWrites d nRow nCh lin).map (fun x => outRange s r l x.1 x.2)
   else [outRange s r l d.outAddr (outWidth d), outRange s r l d.hdrAddr 8]) ++
  [faultIf (d.grsEn && (s.gslot d.grsSlot).ctx != some r.rr.ctx) .fenced]

/-! ## Issue (R274) -/

/-- A close enters the bin queue, which holds eight. -/
def enqClose (s : State) (c : Core) (l bin : Nat) (dest : CloseDest) : State :=
  let (s1, q) := takeIseq s l
  let i := tget {} (s.tile (s.phys l)).issBins bin
  let o : CloseOp := { iseq := q, pc := (s.seqr c).pc, bin := bin, dest := dest }
  s1.modTile (s.phys l) (fun t => { t with
    binQ := t.binQ ++ [.cls (o.withFoot s l i)]
    issBins := tmod {} t.issBins bin BinIss.closing })

/-- A close to the Tailrace. R110, R121, R210, R213, R398, R719. DESIGN CHOICE (log 59): a TR_DESC that names another tile is
OPERAND_INVALID, since the spec gives the reading of a descriptor no path to another tile's bank. -/
def closeTail (s : State) (c : Core) (l : Nat) (r : Run) (bin ea : Nat) : Iss :=
  let t := s.tile (s.phys l)
  let b := tget {} t.issBins bin
  match ownOff r l ea with
  | none => .fault s .operandInvalid
  | some o =>
    if o % 64 ≠ 0 ∨ !(inBank 1 o 64 || inBank 2 o 64) then .fault s .operandInvalid
    else if ownRange s r l false o 64 ≠ .none then .fault s (ownRange s r l false o 64)
    else if 8 ≤ t.binQ.length then .stay s
    else
      let (s1, bs, st) := readBytes s (.mill (s.phys l) o) 64
      let d := tailDesc r l bs
      let flt := firstFlt ([faultIf (st != .ok) .eccUncorrectable,
        faultIf (!tailFieldsOk bs d b.nRow b.nCh r.rr.nGrist) .operandInvalid] ++
        tailPlaces s r l d (b.st == .opened) b.nRow b.nCh b.linBase ++
        [faultIf (b.st != .opened) .operandInvalid,
        faultIf (d.grsEn && (s.gslot d.grsSlot).entryOf d.grsGen == none && !(s.gslot d.grsSlot).installing d.grsGen)
          .operandInvalid])
      if flt ≠ .none then .fault s1 flt
      else
        let s2 := enqClose s1 c l bin (.tailrace d)
        .done (if d.grsEn then gtake s2 d.grsSlot d.grsGen else s2)

/-- A close to P64 words of the tile's own O bank. R110. -/
def closeStore (s : State) (c : Core) (l : Nat) (r : Run) (bin ea : Nat) : Iss :=
  let t := s.tile (s.phys l)
  match ownOff r l ea with
  | none => .fault s .operandInvalid
  | some o =>
    let flt := firstFlt [faultIf (o % 32 != 0 || ea.testBit 30) .operandInvalid, faultIf (!inBank 2 o 32768) .operandInvalid, ownRange s r l true o 32768,
      faultIf ((tget {} t.issBins bin).st != .opened) .operandInvalid]
    if flt ≠ .none then .fault s flt
    else if 8 ≤ t.binQ.length then .stay s
    else .done (enqClose s c l bin (.p64Store o))

/-- A close by P64 adds, at a Millpond address of the set or at a global address. R110, R256. -/
def closeAdd (s : State) (c : Core) (l : Nat) (r : Run) (bin ea : Nat) : Iss :=
  let t := s.tile (s.phys l)
  let glob := decide (2 ^ 63 ≤ ea)
  let flt := firstFlt [faultIf (ea % 32 != 0) .operandInvalid, if glob then .none else mpRange s r l ea true 32768,
    faultIf ((tget {} t.issBins bin).st != .opened) .operandInvalid]
  if flt ≠ .none then .fault s flt
  else if 8 ≤ t.binQ.length then .stay s
  else .done (enqClose s c l bin (.p64Add (BitVec.ofNat 64 (if glob then ea else (mpNorm r l ea).getD ea))))

/-- R274. -/
def execBinClose (c : Core) (g : Guard) (bin : BitVec 3) (dest : BitVec 2) (ab : BitVec 4) (off : BitVec 32) (s : State) :
    Host.Outcome State Fault Refusal :=
  issue s c g { wf := wfBinClose dest, svc := false } (fun s => onTile s c (fun l r =>
    let ea := (effAddr (s.seqr c) ab off).toNat
    if dest = 0 then closeTail s c l r bin.toNat ea
    else if dest = 1 then closeStore s c l r bin.toNat ea
    else closeAdd s c l r bin.toNat ea))

/-! ## Values read by the stages -/

/-- The values of `w` bytes in words read for a unit, each with whether its word holds no good data. R317, R716. -/
def wordVals (w : Nat) : List (BitVec 256 × Bool) → List (Nat × Bool)
  | [] => []
  | (d, bad) :: ds => (chunks w (natToBytes d.toNat 32) (32 / w)).map (fun b => (bytesToNat b, bad)) ++ wordVals w ds

/-- Words read by a unit, with whether each holds no good data. -/
def readRaw (s : State) (pl : Place) : Nat → State × List (BitVec 256 × Bool)
  | 0 => (s, [])
  | n + 1 =>
    let (s1, d, st) := readWord s pl
    let (s2, ds) := readRaw s1 (pl.plus 32) n
    (s2, (d, st != .ok) :: ds)

/-- The place of the word that holds a place. -/
def Place.base : Place → Place
  | .hbm a => .hbm (a / 32 * 32)
  | .mill p o => .mill p (o / 32 * 32)
  | .host a => .host (a / 32 * 32)

/-- `n` values of `w` bytes, aligned to their width. -/
def readVals (s : State) (pl : Place) (w n : Nat) : State × List (Nat × Bool) :=
  let o := pl.key % 32
  let (s1, ds) := readRaw s pl.base (if n = 0 then 0 else ceilDiv (o + n * w) 32)
  (s1, ((wordVals w ds).drop (o / w)).take n)

/-- A vector of a run named by an optional Millpond address. -/
def readVec (s : State) (r : Run) (l : Nat) (a : Option Nat) (w n : Nat) : State × Option (List (Nat × Bool)) :=
  match a with
  | none => (s, none)
  | some a => match mpPlace s r l a with
    | none => (s, none)
    | some pl =>
      let (s1, vs) := readVals s pl w n
      (s1, some vs)

/-- The value of a read element, NaN where its word holds no good data. -/
def elemOf (f : Nat → FV) (v : Nat × Bool) : FV := if v.2 then .nan else f v.1

/-! ## Stages 1 to 4 (R122 to R126) -/

/-- An element on its way through the Tailrace. -/
structure El where
  r : Nat
  c : Nat
  y : W32
  poison : Bool
deriving DecidableEq, Repr

/-- Stage 1. R122. -/
def stage1 (anchor : Option Int) (a : Acc) : W32 :=
  match anchor with
  | none => 0
  | some x => if a.acc = 0 then 0 else sat32 (.fin a.acc x)

/-- Stage 2; none where a scale poisons. R77, R123. -/
def stage2 (v : W32) (rho gam : FV) : Option W32 :=
  if rho.bad || gam.bad then none else some (sat32 (((f32 v).mul rho).mul gam))

/-- Segment and result of the piecewise-linear table; none poisons. R126. -/
def pwlEval (tab : List (Nat × Bool)) (y : W32) : Option W32 :=
  let w (i : Nat) : FV := elemOf (fun b => f32 (BitVec.ofNat 32 b)) (nth (0, true) tab i)
  let d := f32 (rne32 ((f32 y).add (w 0).neg))
  let t := f32 (rne32 (d.mul (w 1)))
  match t with
  | .nan => none
  | _ =>
    let i : Nat := match t with
      | .inf true => 0
      | .inf false => 255
      | v => (max 0 (min 255 v.floor)).toNat
    let z := ((w (4 + 2 * i)).mul (f32 y)).add (w (5 + 2 * i))
    if (f32 (rne32 z)).bad then none else some (rne32 z)

/-- Stage 4. R125, R126. -/
def stage4 (act : Nat) (tab : List (Nat × Bool)) (y : W32) : Option W32 :=
  if act = 0 then some y
  else if act = 6 then pwlEval tab y
  else if (f32 y).isNan then some nan32
  else if act = 1 then some (if (FV.zero false).lt (f32 y) then y else 0)
  else some (actValue act y)

/-- Stages 1 to 4 of one accumulator. `beta` is none without a bias. -/
def stages (anchor : Option Int) (a : Acc) (rho gam : FV) (beta : Option (FV × Bool)) (act : Nat) (tab : List (Nat × Bool)) :
    Option W32 :=
  if a.poison then none
  else match stage2 (stage1 anchor a) rho gam with
    | none => none
    | some p =>
      match beta with
      | some (_, true) => none
      | some (b, false) => stage4 act tab (rne32 ((f32 p).add b))
      | none => stage4 act tab p

/-- Accumulators that a close runs through the Tailrace. R110. -/
def CloseRun.count (c : CloseRun) : Nat := min 4096 (c.nRow * c.nCh - c.linBase)

/-- The elements of a close after stage 4, in order of accumulators. -/
def closeEls (s : State) (r : Run) (l : Nat) (c : CloseRun) (d : TailDesc) : State × List El :=
  let (r0, n) := binRows c.nRow c.nCh c.linBase
  let rsa := match d.rowScaleAddr with
    | some a => some a
    | none => c.rowScale.getD none
  let (s1, rho) := readVec s r l (rsa.map (· + 4 * r0)) 4 n
  let (s2, gam) := readVec s1 r l d.chScaleAddr 4 c.nCh
  let bf := (fmtOf d.biasFmt).getD .fp32
  let (s3, beta) := readVec s2 r l d.biasAddr (fmtBytes bf) c.nCh
  let (s4, tab) := readVec s3 r l (if d.act = 6 then some d.pwlAddr else none) 4 516
  let scale (v : Option (List (Nat × Bool))) (i : Nat) : FV := match v with
    | none => .ofInt 1
    | some xs => elemOf (fun b => f32 (BitVec.ofNat 32 b)) (nth (0, true) xs i)
  (s4, (List.range c.count).map (fun i =>
    let j := c.linBase + i
    let row := j / max 1 c.nCh
    let ch := j % max 1 c.nCh
    let b := beta.map (fun xs => let v := nth (0, true) xs ch; (fmtValue bf v.1, v.2))
    match stages c.anchor (tget {} c.acc i) (scale rho (row - r0)) (scale gam ch) b d.act (tab.getD []) with
    | some y => { r := row, c := ch, y := y, poison := false }
    | none => { r := row, c := ch, y := nan32, poison := true }))

/-! ## Stage 5 and headers (R127, R132 to R134, R715) -/

/-- Bits written for an element, and whether it counts as poisoned. R77, R127, R132, R715. -/
def stage5 (f : Fmt) (q : W32) (e : El) : Nat × Bool :=
  if e.poison || (f32 q).bad then (narrowBits f .nan, true)
  else
    let v := (f32 e.y).mul (f32 q)
    (narrowBits f v, v.bad)

/-- An element of an output region: its byte offset, its bits, its poison. -/
abbrev OutEl := Nat × Nat × Bool

/-- A read-modify-write of `n` bytes in one word. -/
def rmwSub (s : State) (pl : Place) (n : Nat) (f : Nat → Nat) : State × Flt :=
  let w := s.word pl.key
  let d := match classify w.2 with
    | .correctable p sym => correct w.1 p sym
    | _ => w.1
  writeSub s pl n (f (bitsOf d.toNat (8 * (pl.key % 32)) (8 * n)))

/-- The header of a block after a merge. R133, R134. -/
def mergeHdr (fmt bad : Nat) (poison coded : Bool) (old : Nat) : Nat :=
  let p := old.testBit 0 || poison
  let c := old.testBit 1 || coded
  let n := min 65535 (bitsOf old 16 16 + bad)
  (if p then 1 else 0) + (if c then 2 else 0) + 256 * fmt + 65536 * n

/-- Poisoned elements of block `k`. -/
def badIn (k : Nat) (es : List OutEl) : Nat := (es.filter (fun e => e.1 / 4096 == k && e.2.2)).length

/-- Output blocks that elements lie in, ascending. -/
def blocksOf (es : List OutEl) : List Nat := (es.map (fun e => e.1 / 4096)).eraseDups

/-- A fold of writes that stops at the first failure. -/
def untilFlt (xs : List α) (f : State → α → State × Flt) (s : State) : State × Flt :=
  match xs with
  | [] => (s, .none)
  | x :: xs =>
    match f s x with
    | (s1, .none) => untilFlt xs f s1
    | (s1, e) => (s1, e)

/-- Runs of consecutive bytes in a list of elements of width `w`. -/
def runsOf (w : Nat) : List OutEl → List (Nat × List Byte)
  | [] => []
  | e :: es =>
    match runsOf w es with
    | (o, bs) :: rs => if o = e.1 + w then (e.1, natToBytes e.2.1 w ++ bs) :: rs else (e.1, natToBytes e.2.1 w) :: (o, bs) :: rs
    | [] => [(e.1, natToBytes e.2.1 w)]

/-- Uncoded outputs, then the headers of their blocks. R127, R134. -/
def writeOutputs (s : State) (p out ph hdr fmt w : Nat) (es : List OutEl) : State × Flt :=
  match untilFlt (runsOf w es) (fun s x => writeBytes s (.mill p (out + x.1)) x.2) s with
  | (s1, .none) =>
    untilFlt (blocksOf es) (fun s k =>
      rmwSub s (.mill ph (hdr + 8 * k)) 8 (mergeHdr fmt (badIn k es) (decide (0 < badIn k es)) false)) s1
  | x => x

/-- Stage 7 fits. R399. -/
def fmtFits (fmt kind : Nat) : Bool :=
  match fmtOf fmt with
  | some .bf16 => kind == 1
  | some .fp16 => kind == 2
  | some .e4m3 => kind == 3
  | some .e5m2 => kind == 3
  | some .int8 => kind == 3
  | _ => false

/-- The raw bytes of block `k`, zero where the close writes nothing. R399. -/
def rawBlock (w k : Nat) (es : List OutEl) : List Byte :=
  let t : Tab Byte := es.foldl (fun t e =>
    if e.1 / 4096 = k then tsetList 0 t (e.1 % 4096) (natToBytes e.2.1 w) else t) []
  tgetList 0 t 0 4096

/-- One output block through a lane of die `d`. R131, R396 to R400. -/
def codeOutput (s : State) (p d out hdr fmt w slot gen : Nat) (es : List OutEl) (k : Nat) : State × Flt :=
  let g := s.gslot slot
  let e := g.entry ((g.entryOf gen).getD false)
  let bad := badIn k es
  let (bs, esc) := encodeBlock e slot (decide (0 < bad)) (fmtFits fmt e.kind) (rawBlock w k es)
  match writeBytes (countEnc s d esc) (.mill p (out + 4096 * k)) bs with
  | (s1, .none) => rmwSub s1 (.mill p (hdr + 8 * k)) 8 (mergeHdr fmt bad (decide (0 < bad)) esc.isNone)
  | x => x

/-- Stages 5 and 7. -/
def closeOut (s : State) (p die : Nat) (d : TailDesc) (els : List El) : State × Flt :=
  let f := (fmtOf d.outFmt).getD .int8
  let w := fmtBytes f
  let es : List OutEl := els.map (fun e => (e.r * d.outStride + e.c * w, stage5 f d.outQscale e))
  if d.grsEn then untilFlt (blocksOf es) (fun s k => codeOutput s p die d.outAddr d.hdrAddr d.outFmt w d.grsSlot d.grsGen es k) s
  else writeOutputs s p d.outAddr p d.hdrAddr d.outFmt w es

/-! ## Stage 6: KV pages (R128 to R130, R141 to R148) -/

/-- Elements of a head-row and its BF16 scale. R128, R130. -/
def kvQuant (b : Nat) (ys : List El) : List Int × Nat :=
  let vs := ys.map (fun e => f32 e.y)
  if ys.any (fun e => e.poison) || vs.any FV.bad then (ys.map (fun _ => 0), 0x7FC0)
  else
    let qmax : Int := 2 ^ (b - 1) - 1
    let amax := ys.foldl (fun m e => fmax32 m (e.y &&& 0x7FFFFFFF)) 0
    let t := fround fmtBf16 true ((f32 amax).div (FV.ofInt qmax))
    let tv := fdecode fmtBf16 t
    if tv.isZero then (ys.map (fun _ => 0), t)
    else (vs.map (fun v => max (-qmax) (min qmax (v.div tv).toInt)), t)

/-- The bits that a token slot and kind take in a page, by bit position. R141, R142. -/
def kvPlaces (w b token : Nat) (value : Bool) (q : List Int) (scale : Nat) : List (Nat × Bool) :=
  let so := 8 * ((if value then 128 else 0) + 2 * token)
  (List.range 16).map (fun k => (so + k, scale.testBit k)) ++
  (List.range b).flatMap (fun p => (q.zipIdx).map (fun x =>
    let bit := (BitVec.ofInt 8 x.1).getLsbD p
    if value then (8 * (256 + 8 * b * w + 8 * w * p) + 64 * x.2 + token, bit) else (8 * (256 + 8 * w * p) + w * token + x.2, bit)))

/-- Bits grouped by word: word number, the bits written, their values. -/
def kvWords (page : Nat) (bits : List (Nat × Bool)) : Tab (BitVec 256 × BitVec 256) :=
  bits.foldl (fun t x =>
    let y := 8 * page + x.1
    let one : BitVec 256 := 1 <<< (y % 256)
    tmod (0, 0) t (y / 256) (fun m => (m.1 ||| one, if x.2 then m.2 ||| one else m.2))) []

/-- Requests that a close has sent, so far. -/
structure KvSt where
  s : State
  sent : Nat := 0
  flt : Flt := .none
  cls : Nat := clsOperation

/-- An access fails in the operation class (R720), a sub-word write of a bad word in the machine class (R317). A word of another device
is loaded, merged and stored, unless all of it is written. R144, R314. -/
def kvWord (ctx l iseq : Nat) (k : KvSt) (x : Nat × BitVec 256 × BitVec 256) : KvSt :=
  if k.flt ≠ .none then k
  else match ctxAddr k.s ctx (32 * x.1) permWrite 32 false with
    | (s1, .flt f) => { k with s := s1, flt := f }
    | (s1, .here pl) =>
      if x.2.1 = BitVec.allOnes 256 then { k with s := writeWord s1 pl (x.2.2, 0) }
      else
        let (s2, f) := writeMask s1 pl x.2.1 x.2.2
        { k with s := s2, flt := f, cls := if f = .none then k.cls else clsMachine }
    | (s1, .remote dev g off) =>
      let k1 : KvSt := { k with sent := k.sent + 1 }
      if x.2.1 = BitVec.allOnes 256 then
        { k1 with s := sendReq s1 dev g 1 0x02 0 (gAddr dev off) (BitVec.ofNat 64 (2 ^ 32 - 1)) [(x.2.2, 0)] (.close l iseq) }
      else { k1 with s := sendReq s1 dev g 1 0x01 0 (gAddr dev off) 0 [] (.kvWord l iseq x.2.1 x.2.2 false) }

/-- A head-row written where its slot list entry says. R128, R129, R144. -/
def kvEntry (ctx l iseq w b : Nat) (k : KvSt) (entry : List Byte) (q : List Int) (scale : Nat) : KvSt :=
  (kvWords (fieldAt entry 0 8) (kvPlaces w b (fieldAt entry 8 1 % 64) ((fieldAt entry 9 1).testBit 0) q scale)).foldl
    (kvWord ctx l iseq) k

/-- The bytes of a slot list entry from address `a` on, word by word, after those in `got`; with all 16 of them the head-row is written.
A word of another device is asked for, and the rest waits for it. R128, R148, R465, R720. -/
def kvFetch (ctx l iseq w b : Nat) (k : KvSt) (a : Nat) (got : List Byte) (q : List Int) (scale : Nat) : Nat → KvSt
  | 0 => k
  | fuel + 1 =>
    if 16 ≤ got.length then kvEntry ctx l iseq w b k got q scale
    else
      let n := min (16 - got.length) (32 - a % 32)
      match ctxAddr k.s ctx a permRead n false with
      | (s1, .flt f) => { k with s := s1, flt := f }
      | (s1, .remote dev g off) =>
        { k with s := sendReq s1 dev g 1 0x01 0 (gAddr dev (off / 32 * 32)) 0 [] (.kvEntry l iseq a got q scale), sent := k.sent + 1 }
      | (s1, .here pl) =>
        match readBytes s1 pl n with
        | (s2, bs, .ok) => kvFetch ctx l iseq w b { k with s := s2 } ((a + n) % 2 ^ 64) (got ++ bs) q scale fuel
        | (s2, _, _) => { k with s := s2, flt := .eccUncorrectable }

/-- The slot list entry of a head-row is read, and the head-row is written. R128, R148, R720. -/
def kvHead (ctx l iseq w b : Nat) (list : W64) (k : KvSt) (x : Nat × List Int × Nat) : KvSt :=
  if k.flt ≠ .none then k
  else kvFetch ctx l iseq w b k (list + BitVec.ofNat 64 (16 * x.1)).toNat [] x.2.1 x.2.2 4

/-- The head-rows of a close: the number of each slot list entry, its elements and its scale. R128. -/
def kvHeads (c : CloseRun) (d : TailDesc) (els : List El) : List (Nat × List Int × Nat) :=
  let w := max 1 d.kvHeadW
  let nh := c.nCh / w
  let (r0, n) := binRows c.nRow c.nCh c.linBase
  (List.range n).flatMap (fun i => (List.range nh).filterMap (fun h =>
    let j := (r0 + i) * c.nCh + h * w
    if c.linBase ≤ j ∧ j + w ≤ c.linBase + c.count then
      some ((r0 + i) * nh + h, kvQuant (kvBits d.kvFmt) ((els.drop (j - c.linBase)).take w))
    else none))

/-! ## P64 exports (R110 to R112) -/

/-- Accumulator `i` as a P64 value. R111. DESIGN CHOICE (log 60): an anchor that no EXP field can hold, which a preload or a raise near
the limit can set, is exported by its low 16 bits. -/
def exportVal (c : CloseRun) (i : Nat) : W64 :=
  let a := tget {} c.acc i
  match c.anchor with
  | none => (P64.mk 0 (if a.poison then -32768 else 0)).bits
  | some e => (P64.mk a.acc (if a.poison then -32768 else e)).bits

/-- Word `k` of an export, four values. -/
def exportWord (c : CloseRun) (k : Nat) : BitVec 256 :=
  exportVal c (4 * k + 3) ++ exportVal c (4 * k + 2) ++ exportVal c (4 * k + 1) ++ exportVal c (4 * k)

/-- Four-lane adds at consecutive words. -/
def addWords (s : State) (pl : Place) : List (BitVec 256) → State
  | [] => s
  | w :: ws => addWords (atomP64x4 s pl w) (pl.plus 32) ws

/-- Words of a span that lie before the next 4 KiB boundary, and the rest, by start address. R465. -/
def splitPages (a : Nat) (ws : List (BitVec 256)) : Nat → List (Nat × List (BitVec 256))
  | 0 => []
  | n + 1 =>
    let k := (4096 - a % 4096) / 32
    if ws.isEmpty then [] else (a, ws.take k) :: splitPages (a + 32 * k) (ws.drop k) n

/-- Adds at a global address, in packets of at most 128 words. R465. -/
def globalAdds (ctx l iseq : Nat) (k : KvSt) (x : Nat × List (BitVec 256)) : KvSt :=
  if k.flt ≠ .none then k
  else match globalAddr k.s ctx x.1 permAtomic (32 * x.2.length) with
    | (s1, .flt f) => { k with s := s1, flt := f }
    | (s1, .here pl) => { k with s := addWords s1 pl x.2 }
    | (s1, .remote dev g off) =>
      { k with s := sendReq s1 dev g 1 0x0B (x.2.length - 1) (gAddr dev off) 0 (x.2.map (fun w => (w, 0))) (.close l iseq),
               sent := k.sent + 1 }

/-! ## Completion (R112, R146) -/

/-- The close leaves the tile, and its reference is returned. R211. -/
def endClose (s : State) (l iseq : Nat) : State :=
  let p := s.phys l
  match (s.tile p).closes.find? (fun c => c.op.iseq == iseq) with
  | none => s
  | some c =>
    let s1 := s.modTile p (fun t => { t with closes := t.closes.filter (fun c => c.op.iseq != iseq) })
    match c.op.dest with
    | .tailrace d => if d.grsEn then gdrop s1 d.grsSlot d.grsGen else s1
    | _ => s1

/-- A failed access of a close ends its run: ECC of a write in the machine class, every other in the operation class. R317, R720. -/
def failClose (s : State) (l : Nat) (c : CloseRun) (f : Flt) (cls : Nat) (counted : Bool) : State :=
  let s1 := endClose s l c.op.iseq
  if cls = clsMachine then machineFault s1 l c.op.pc counted else faultTile s1 l f c.op.pc cls

/-- The writes of a close: the state, requests sent, and a failure with its class. DESIGN CHOICE (log 60): poison that an element takes
only from OUT_QSCALE at stage 5 does not poison its head-row, whose values are those of stage 4. R130, R715. -/
def closeWrites (s : State) (r : Run) (l : Nat) (c : CloseRun) : KvSt :=
  let p := s.phys l
  match c.op.dest with
  | .p64Store a => { s := writeWords s (.mill p a) ((List.range 1024).map (exportWord c)) }
  | .p64Add a =>
    let ws := (List.range 1024).map (exportWord c)
    if 2 ^ 63 ≤ a.toNat then (splitPages a.toNat ws 10).foldl (globalAdds r.rr.ctx l c.op.iseq) { s := s }
    else match mpTarget r l a.toNat with
      | none => { s := s, flt := .fenced }
      | some (t, off) =>
        if rangeOwned s r.rr.ctx (s.phys t) off 32768 then { s := addWords s (.mill (s.phys t) off) ws }
        else { s := s, flt := .fenced }
  | .tailrace d =>
    let (s1, els) := closeEls s r l c d
    let (s2, f) := if d.outEn then closeOut s1 p (l / 48) d els else (s1, Flt.none)
    if f ≠ .none then { s := s2, flt := f, cls := clsMachine }
    else if d.kvqEn then
      (kvHeads c d els).foldl (kvHead r.rr.ctx l c.op.iseq d.kvHeadW (kvBits d.kvFmt) d.kvSlotAddr) { s := s2 }
    else { s := s2 }

/-- A close that encodes waits until the generation it names is resident, and for a lane of its run. R213, R400. -/
def closeReady (s : State) (r : Run) (c : CloseRun) : Bool :=
  match c.op.dest with
  | .tailrace d => !d.grsEn || (((s.gslot d.grsSlot).entryOf d.grsGen).isSome && r.lanes.any (fun n => !(s.lane n).busy))
  | _ => true

/-- A close writes, and completes once everything that it sent is acknowledged. R112, R146, R400. -/
def execBinCloseDone (l iseq : Nat) (s : State) : Host.Outcome State Fault Refusal :=
  let p := s.phys l
  .next (match (s.tile p).closes.find? (fun c => c.op.iseq == iseq), s.runOf l with
    | some c, some r =>
      if c.started then (if c.remote = 0 then endClose s l iseq else s)
      else if r.phase != .active || !closeReady s r c then s
      else
        let k := closeWrites s r l c
        if k.flt ≠ .none then failClose k.s l c k.flt k.cls true
        else if k.sent = 0 then endClose k.s l iseq
        else k.s.modTile p (fun t => { t with
          closes := mapWhere (fun c => c.op.iseq == iseq) (fun c => { c with started := true, remote := k.sent }) t.closes })
    | _, _ => s)

/-- An answer to a request of a close: `more` requests follow it. R466. -/
def closeAnswer (s : State) (l iseq more : Nat) (f : Flt) (cls : Nat) (counted : Bool) : State :=
  let p := s.phys l
  match (s.tile p).closes.find? (fun c => c.op.iseq == iseq) with
  | none => s
  | some c =>
    if f ≠ .none then failClose s l c f cls counted
    else s.modTile p (fun t => { t with
      closes := mapWhere (fun c => c.op.iseq == iseq) (fun c => { c with remote := c.remote - 1 + more }) t.closes })

end Sys2Proof.Machine
end

