-- ==== Sys2Proof/Machine/Streams.lean ====
section
/-! DEFINITION. Millrace streams (08): stream and transfer descriptors, the words that a stream fetches, the issue and
acknowledgement of transfers, passes, halts and the Weir. -/

namespace Sys2Proof.Machine
open Sys2Proof

/-! ## Descriptors (R345, R346) -/

def opt16 (v : Nat) : Option Nat := if v = 0xFFFF then none else some v

def strmDesc (bs : List Byte) : StrmDesc :=
  { encGen := fieldAt bs 48 1 % 16, grsSlots := (List.range 4).map (fun i => fieldAt bs (44 + i) 1), grsValid := fieldAt bs 43 1 % 16,
    codec := bitsOf (fieldAt bs 42 1) 5 2, mcast := (fieldAt bs 42 1).testBit 4, oclass := bitsOf (fieldAt bs 42 1) 2 2,
    persist := (fieldAt bs 42 1).testBit 0, mcastMask := fieldAt bs 36 6, ctx := fieldAt bs 34 2, sluice := opt16 (fieldAt bs 32 2),
    dstRing := opt16 (fieldAt bs 30 2), srcRing := opt16 (fieldAt bs 28 2), listLen := fieldAt bs 24 4, listAddr := field64 bs 16,
    indexBase := field64 bs 8, dataBase := field64 bs 0 }

/-- A transfer descriptor. R346. -/
structure TDesc where
  dstRel : Bool
  srcRel : Bool
  kind : Nat
  dstride : Nat
  sstride : Nat
  count : Nat
  len : Nat
  dst : W64
  src : W64
  rsvd : Bool
deriving DecidableEq, Repr

def tdescOf (bs : List Byte) : TDesc :=
  { dstRel := (fieldAt bs 31 1).testBit 1, srcRel := (fieldAt bs 31 1).testBit 0, kind := fieldAt bs 30 1 % 4,
    dstride := fieldAt bs 28 2, sstride := fieldAt bs 24 4, count := fieldAt bs 20 4, len := fieldAt bs 16 4,
    dst := field64 bs 8, src := field64 bs 0, rsvd := decide (4 ≤ fieldAt bs 31 1) || decide (4 ≤ fieldAt bs 30 1) }

/-! ## Rings of a stream -/

/-- Set indexes of a multicast mask, ascending. R356. -/
def maskIdx (m : Nat) : List Nat := (List.range 48).filter (fun i => m.testBit i)

/-- Destination rings: one, or one for each multicast target. R357. -/
def StrmDesc.dstRings (d : StrmDesc) : List Nat :=
  match d.dstRing with
  | none => []
  | some r => if d.mcast then (List.range (maskIdx d.mcastMask).length).map (fun i => r + i) else [r]

def StrmDesc.rings (d : StrmDesc) : List Nat := d.srcRing.toList ++ d.dstRings

/-- Ranks all differ, a multicast group counting once. R362. -/
def ranksOk (s : State) (d : StrmDesc) : Bool :=
  match d.srcRing, d.dstRing with
  | some a, some b => (s.ring a).rank != (s.ring b).rank
  | _, _ => true

/-- A slot's rings are attached. -/
def attachRings (s : State) (k : Nat) (d : StrmDesc) : State :=
  let s1 := d.srcRing.toList.foldl (fun s r => s.modRing r (fun g => { g with cons := some (.slot k) })) s
  d.dstRings.foldl (fun s r => s.modRing r (fun g => { g with prod := some (.slot k) })) s1

/-- A slot's rings are detached, but for those in `keep`, which a later arm of the slot names. R354, R378. -/
def detachRings (s : State) (k : Nat) (keep : List Nat) : State :=
  let drop (g : Ring) : Ring := { g with prod := if g.prod = some (.slot k) then none else g.prod,
                                         cons := if g.cons = some (.slot k) then none else g.cons }
  match (s.slot k).desc with
  | none => s
  | some d => (d.rings.filter (fun r => !keep.contains r)).foldl (fun s r => s.modRing r drop) s

/-- Rings that an arm waiting in a queue of the slot's run names for slot k. R722. -/
def keptRings (s : State) (k : Nat) : List Nat :=
  match (s.slot k).run.bind (s.run? (k / 256)) with
  | none => []
  | some r => r.rr.tileList.flatMap (fun l => (s.tile (s.phys l)).strmQ.flatMap (fun o => match o with
    | .arm _ _ j _ d _ _ => if j = k then d.rings else []
    | .rearm _ _ _ _ _ _ _ => []
    | .post _ _ => []))

/-! ## References (R211, R350, R408) -/

/-- Both resident generations of every declared slot that is granted to the context, and ENC_GEN. -/
def strmRefs (s : State) (ctx : Nat) (d : StrmDesc) : List GRef :=
  (d.grsSlots.zipIdx.filter (fun p => d.grsValid.testBit p.2 && (s.gslot p.1).ctx == some ctx)).flatMap (fun p =>
    let g := s.gslot p.1
    (if g.e0.valid then [{ slot := p.1, gen := g.e0.gen }] else []) ++ (if g.e1.valid then [{ slot := p.1, gen := g.e1.gen }] else [])) ++
  (if d.codec = 2 then [{ slot := nth 0 d.grsSlots 0, gen := d.encGen }] else [])

/-! ## Addresses (R344) -/

/-- The run of a slot. -/
def slotRun (s : State) (k : Nat) (sl : Slot) : Option Run :=
  match sl.run with
  | none => none
  | some rid => s.run? (k / 256) rid

/-- A PRIVATE region of a run covers one of `n` bytes. R190. -/
def privateAt (r : Run) (off n : Nat) : Bool :=
  r.regions.any (fun g => g.scope == 0 && decide (g.base < off + n) && decide (off < g.base + g.size))

/-- A stream address; a PRIVATE region of another tile is out of reach. R190, R344, R420. -/
def strmAddr (s : State) (k : Nat) (sl : Slot) (a perm n : Nat) : State × CA :=
  if bitsOf a 62 2 = 1 then
    match sl.service, slotRun s k sl, sl.tile with
    | some _, _, _ =>
      if bitsOf a 40 22 ≠ 0 ∨ bitsOf a 23 9 ≠ 0 ∨ 192 ≤ bitsOf a 32 8 then (s, .flt .operandInvalid)
      else (s, placeFor s sl.ctx (perm != permRead) (0x100000000000 + bitsOf a 32 8 * 0x800000 + a % 0x800000))
    | none, some r, some l =>
      if bitsOf a 32 30 ≠ 0 then (s, .flt .operandInvalid)
      else match mpTarget r l (a % 2 ^ 32) with
        | none => (s, .flt .operandInvalid)
        | some (t, off) =>
          if t ≠ l ∧ privateAt r off n then (s, .flt .fenced)
          else (s, placeFor s sl.ctx (perm != permRead) (0x100000000000 + t * 0x800000 + off))
    | _, _, _ => (s, .flt .operandInvalid)
  else ctxAddr s sl.ctx a perm n false

/-- A source address: a page address is context virtual or global. R148. -/
def srcAddr (s : State) (k : Nat) (sl : Slot) (page : Bool) (a n : Nat) : State × CA :=
  if page then ctxAddr s sl.ctx a permRead n false else strmAddr s k sl a permRead n

/-- A span cut at 4 KiB boundaries of its addresses. R465. -/
def pieces (a n : Nat) : Nat → List (Nat × Nat)
  | 0 => []
  | k + 1 => if n = 0 then [] else
    let m := min n (4096 - a % 4096)
    (a, m) :: pieces (a + m) (n - m) k

/-! ## Words that a stream fetches (R348, R725) -/

/-- What a fetch answers. -/
inductive FW (α : Type)
  | ok (v : α) (good : Bool)
  | flt (f : Flt) (addr : Nat)
  | wait
deriving DecidableEq, Repr

/-- A word read with its check bits, judged by its reader and counted nowhere. R315, R725. -/
def rawRead (s : State) (pl : Place) : State × BitVec 256 × Bool :=
  let w := s.word pl.key
  match pl, goodData w with
  | .host _, _ => (s, w.1, true)
  | _, some d => (touch s pl, d, true)
  | _, none => (touch s pl, w.1, false)

/-- The word of a stream address, from those already fetched in this pass or from its memory: read unchanged by the engine for itself,
or `lane` for a codec lane, which counts what it finds. R315, R725, R727. DESIGN CHOICE (log 62): each word is fetched when its element is
reached, and not ahead of it. R348. -/
def fetchWord (s : State) (k : Nat) (lane : Bool) (a : Nat) : State × FW (BitVec 256) :=
  let sl := s.slot k
  match sl.fetched.find? (fun f => f.word == a / 32) with
  | some f => (s, .ok f.data f.good)
  | none =>
    match strmAddr s k sl (a / 32 * 32) permRead 32 with
    | (s1, .flt f) => (s1, .flt f a)
    | (s1, .here pl) =>
      if barred s1 (k / 256) pl then (s1, .wait)
      else
      let (s2, d, good) : State × BitVec 256 × Bool := if lane then
          (let (s2, d, st) := readWord s1 pl
           (s2, d, st == .ok))
        else rawRead s1 pl
      (s2.modSlot k (fun x => { x with fetched := x.fetched ++ [{ word := a / 32, data := d, good := good }] }), .ok d good)
    | (s1, .remote dev g off) =>
      if stopped s1 (xLink (k / 256)) || s1.hdr.outst.any (fun o => o.who == .strmWord k (a / 32)) then (s1, .wait)
      else (sendReq s1 dev g ((sl.desc.map StrmDesc.oclass).getD 0) 0x01 0 (gAddr dev off) 0 [] (.strmWord k (a / 32)), .wait)

/-- `n` bytes, at most 32, at a stream address. -/
def fetchBytes (s : State) (k : Nat) (lane : Bool) (a n : Nat) : State × FW (List Byte) :=
  match fetchWord s k lane a with
  | (s1, .flt f x) => (s1, .flt f x)
  | (s1, .wait) => (s1, .wait)
  | (s1, .ok d g) =>
    let bs := (natToBytes d.toNat 32).drop (a % 32)
    if n ≤ bs.length then (s1, .ok (bs.take n) g)
    else match fetchWord s1 k lane (a / 32 * 32 + 32) with
      | (s2, .flt f x) => (s2, .flt f x)
      | (s2, .wait) => (s2, .wait)
      | (s2, .ok d2 g2) => (s2, .ok (bs ++ (natToBytes d2.toNat 32).take (n - bs.length)) (g && g2))

/-- Bytes of an entry or descriptor: a bad word is a failure that names the word. R725. -/
def fetchGood (s : State) (k : Nat) (a n : Nat) : State × FW (List Byte) :=
  match fetchBytes s k false a n with
  | (s1, .ok _ false) =>
    let first := (s1.slot k).fetched.any (fun f => f.word == a / 32 && !f.good)
    (s1, .flt .eccUncorrectable (if first then a / 32 * 32 else a / 32 * 32 + 32))
  | x => x

/-! ## Failures (R373) -/

/-- Stream order of positions. -/
def Pos.lt (a b : Pos) : Bool :=
  decide (a.desc < b.desc) || (a.desc == b.desc && (decide (a.elem < b.elem) || (a.elem == b.elem && decide (a.part < b.part))))

/-- A failure at a part; the earliest in stream order is kept. -/
def failAt (s : State) (k : Nat) (p : Pos) (f : Flt) (a : W64) : State :=
  s.modSlot k (fun x => match x.failing with
    | none => { x with failing := some (p, f, a) }
    | some (q, _, _) => if p.lt q then { x with failing := some (p, f, a) } else x)

/-! ## The flume of an engine (R149, R361) -/

/-- Bytes of a page. R143. -/
def pageBytes (b w : Nat) : Nat := 256 + 16 * b * w

/-- Pages that an operation visits: the first, and how many. R154. -/
def AttnDesc.pages (d : AttnDesc) : Nat :=
  let vis := ceilDiv d.seqLen 64 - d.pageFirst
  if d.pageCount = 0 then vis else d.pageCount

/-- The descriptor of a flume pass: PAGE elements of one page each. R149. -/
def flumeTDesc (d : AttnDesc) : TDesc :=
  { dstRel := false, srcRel := false, kind := 1, dstride := 0, sstride := 0, count := d.pages,
    len := pageBytes (kvBits d.kvFmt) d.w, dst := 0, src := 0, rsvd := false }

/-- Slots of a flume. R149. -/
def flumeCap (len : Nat) : Nat := 524288 / max 1 len

/-! ## The element at the next position -/

/-- The transfer descriptor at the next position. -/
def curTDesc (s : State) (k : Nat) : State × FW TDesc :=
  let sl := s.slot k
  match sl.engine with
  | some e => match (s.engine e).run with
    | none => (s, .wait)
    | some r => (s, .ok (flumeTDesc r.op.desc) true)
  | none => match sl.desc with
    | none => (s, .wait)
    | some d =>
      match fetchGood s k (d.listAddr + BitVec.ofNat 64 (32 * sl.next.desc)).toNat 32 with
      | (s1, .ok bs _) => (s1, .ok (tdescOf bs) true)
      | (s1, .flt f a) => (s1, .flt f a)
      | (s1, .wait) => (s1, .wait)

/-- A transfer descriptor that its stream accepts. R346, R347, R360, R402, R407. -/
def tdescOk (s : State) (sl : Slot) (t : TDesc) : Bool :=
  !t.rsvd && decide (t.kind < 3) && decide (0 < t.count) && t.len % 32 == 0 && decide (32 ≤ t.len) && decide (t.len ≤ 0x1000000) &&
  (t.kind != 1 || t.sstride == 0) &&
  (match sl.desc with
   | none => true
   | some d => (d.dstRing.isNone || t.dstride == 0) && (d.srcRing.isNone || (t.kind == 0 && t.src == 0)) &&
      (d.codec == 0 || t.kind == 0) && d.rings.all (fun r => decide (t.len ≤ (s.ring r).slotBytes)))

/-- The record of an element that has begun. -/
def Slot.rec? (sl : Slot) (d e : Nat) : Option ElemRec := sl.elems.find? (fun r => r.desc == d && r.elem == e)

/-- The record with `f` applied, or a new one. -/
def Slot.setRec (sl : Slot) (r : ElemRec) : Slot :=
  { sl with elems := if (sl.rec? r.desc r.elem).isSome then mapWhere (fun x => x.desc == r.desc && x.elem == r.elem) (fun _ => r) sl.elems
                     else sl.elems ++ [r] }

/-- The source ring's slot for an element. R360. -/
def takeSrc (s : State) (d : StrmDesc) (r : ElemRec) : Option (State × ElemRec) :=
  match d.srcRing with
  | none => some (s, r)
  | some q =>
    if r.src.isSome then some (s, r)
    else if (s.ring q).canTake then some (s.modRing q Ring.take, { r with src := some (s.ring q).i2 })
    else none

/-- The destination rings' slots for an element: all of them or none. R357, R360. -/
def claimDst (s : State) (d : StrmDesc) (r : ElemRec) : Option (State × ElemRec) :=
  if d.dstRings.isEmpty || !r.dst.isEmpty then some (s, r)
  else if d.dstRings.all (fun q => (s.ring q).canClaim) then
    some (d.dstRings.foldl (fun s q => s.modRing q Ring.claim) s, { r with dst := d.dstRings.map (fun q => (s.ring q).i0) })
  else none

/-- Ring slots taken in ascending rank; the lower one is held while the other is awaited. R362. -/
def acquire (s : State) (k : Nat) (d : StrmDesc) (r : ElemRec) : State × ElemRec × Bool :=
  let srcFirst : Bool := match d.srcRing, d.dstRing with
    | some a, some b => decide ((s.ring a).rank ≤ (s.ring b).rank)
    | _, _ => true
  let f := if srcFirst then takeSrc else claimDst
  let g := if srcFirst then claimDst else takeSrc
  match f s d r with
  | none => (s, r, false)
  | some (s1, r1) =>
    let s2 := s1.modSlot k (fun x => x.setRec r1)
    match g s2 d r1 with
    | none => (s2, r1, false)
    | some (s3, r2) => (s3.modSlot k (fun x => x.setRec r2), r2, true)

/-- The flume slot for an element. -/
def claimFlume (s : State) (e : Nat) (r : ElemRec) (len : Nat) : Option State :=
  let f := (s.engine e).flume
  if f.any (fun p => p.elem == r.elem) then some s
  else if f.length < flumeCap len then some (s.modEngine e (fun g => { g with flume := g.flume ++ [{ elem := r.elem }] }))
  else none

/-- A relative or absolute field. R347. -/
def baseOf (d : StrmDesc) (x : W64) (rel : Bool) : W64 := if rel then d.dataBase + x else x

/-- Index bytes that an element reads. -/
def TDesc.idxBytes (t : TDesc) : Nat := if t.kind = 1 then 8 else if t.kind = 2 then 4 else 0

/-- Source of an element: address, whether it is a page address; none writes zeros. R347. -/
def elemSrc (s : State) (k : Nat) (t : TDesc) (ib db : W64) (elem : Nat) : State × FW (Option W64 × Bool) :=
  let sl := s.slot k
  let base : W64 := if t.srcRel then db + t.src else t.src
  if t.kind = 0 then (s, .ok (some (base + BitVec.ofInt 64 ((elem : Int) * (BitVec.ofNat 32 t.sstride).toInt)), false) true)
  else
    let ip := (ib + BitVec.ofNat 64 sl.nextIdx).toNat
    match fetchGood s k ip t.idxBytes with
    | (s1, .flt f a) => (s1, .flt f a)
    | (s1, .wait) => (s1, .wait)
    | (s1, .ok bs _) =>
      let v := bytesToNat bs
      if t.kind = 1 then
        (if v % 2 = 0 ∨ v.testBit 1 then (s1, .flt .pageAbsent ip)
         else (s1, .ok (some (BitVec.ofNat 64 (v / 32 * 32) + t.src), true) true))
      else if v = 0xFFFFFFFF then (s1, .ok (none, false) true)
      else (s1, .ok (some (base + BitVec.ofNat 64 (v * t.sstride)), false) true)

/-- Slot `i` of a bucket ring as the stream of slot `k` addresses it. R344, R359. -/
def slotStrm (s : State) (k q i : Nat) : W64 :=
  let a := (s.ring q).slotAddr i
  match slotRun s k (s.slot k), (s.slot k).tile, (s.ring q).slotTile i with
  | some run, some l, some (t, o) => (match mpName run l t o with
    | some x => BitVec.ofNat 64 (2 ^ 62 + x)
    | none => a)
  | _, _, _ => a

/-- Millpond offset `o` of the tile with set index `i`, as a stream address. R344. -/
def setStrm (i o : Nat) : W64 := BitVec.ofNat 64 (2 ^ 62 + 2 ^ 30 + i * 0x800000 + o % 0x800000)

/-- The destination in slot `i` of ring `q`: of a multicast group, at the ring's offset on the tile that the mask names for it. R357. -/
def ringDst (s : State) (k : Nat) (d : StrmDesc) (q i : Nat) : W64 :=
  match d.mcast, (s.ring q).slotTile i, (maskIdx d.mcastMask)[q - d.dstRing.getD q]? with
  | true, some (_, o), some j => setStrm j o
  | _, _, _ => slotStrm s k q i

/-- Destinations of an element: ring slots, multicast copies, or one address. R347, R356, R357. -/
def elemDst (s : State) (k : Nat) (d : StrmDesc) (t : TDesc) (r : ElemRec) : List W64 :=
  if !d.dstRings.isEmpty then List.zipWith (ringDst s k d) d.dstRings r.dst
  else
    let a := baseOf d t.dst t.dstRel + BitVec.ofNat 64 (r.elem * t.dstride * 32)
    if d.mcast then (maskIdx d.mcastMask).map (fun i => setStrm i a.toNat) else [a]

/-- With multicast the destination is a Millpond address with SET = 0. R349, R356. -/
def mcastDstOk (d : StrmDesc) (t : TDesc) (r : ElemRec) : Bool :=
  !d.mcast || d.dstRing.isSome ||
    (let a := (baseOf d t.dst t.dstRel + BitVec.ofNat 64 (r.elem * t.dstride * 32)).toNat
     bitsOf a 62 2 == 1 && bitsOf a 23 39 == 0)

/-- Bytes from offset `o` of an element to the first boundary of one of its destinations, which start at `das`. R342. -/
def roomAt (das : List Nat) (o : Nat) : Nat := listMin 4096 (das.map (fun da => 4096 - (da + o) % 4096))

/-- Offset and bytes of part `p` of an element of `len` bytes whose destinations start at `das`. R342. -/
def partSpan (das : List Nat) (len : Nat) : Nat → Nat × Nat
  | 0 => (0, min len (roomAt das 0))
  | p + 1 =>
    let (o, m) := partSpan das len p
    (o + m, min (len - (o + m)) (roomAt das (o + m)))

/-- What is left after offset `o` before a boundary of some destination, nothing where `o` stands on one. R342. -/
def roomAfter (das : List Nat) (o : Nat) : Nat := roomAt das o % 4096

/-! ## What a transfer needs (R340, R351) -/

def xfersOf (s : State) (die eng : Nat) (fabric : Bool) : Nat :=
  (((s.mrc die).slots.filter (fun x => x.1 / 32 == eng)).map (fun x => (x.2.xfers.filter (fun t => t.fabric == fabric)).length)).foldl (· + ·) 0

/-- A tag of the right kind is free at the engine, and requests of the fabric pass the die's link. R339, R627. -/
def tagFree (s : State) (k : Nat) (fabric : Bool) : Bool :=
  decide (xfersOf s (k / 256) (k % 256 / 32) fabric < if fabric then 128 else 256) && !(fabric && stopped s (xLink (k / 256)))

def State.weir (s : State) (die ctx : Nat) : Weir := tget {} (s.mrc die).weir ctx
def State.modWeir (s : State) (die ctx : Nat) (f : Weir → Weir) : State :=
  s.modMrc die (fun m => { m with weir := tmod {} m.weir ctx f })

/-- TOKENS is not negative, or the context is not limited. R381. -/
def weirOk (s : State) (die ctx : Nat) : Bool := (s.weir die ctx).rate == 0 || decide (0 ≤ (s.weir die ctx).tokens)

/-- A transfer is charged. R341, R381. -/
def weirCharge (s : State) (die ctx bytes : Nat) : State :=
  s.modWeir die ctx (fun w => if w.rate = 0 then w else { w with tokens := w.tokens - (max bytes 3584 : Nat) })

/-- The causes for which a transfer waits for a tag. R379. -/
def tagCauses (s : State) (k : Nat) (fabric : Bool) : List Cause :=
  if tagFree s k fabric then [] else if fabric then [.fabric] else [.bank]

/-- A codec lane for a slot: one of its run's, or for a service stream one that its die has not granted. R196, R634. -/
def freeLane (s : State) (k : Nat) (sl : Slot) : Option Nat :=
  let ok (n : Nat) : Bool := !(s.lane n).busy && (s.lane n).unit.st == .on
  match slotRun s k sl with
  | some r => r.lanes.find? (fun n => !(s.lane n).busy)
  | none => ((List.range 8).map (fun i => 8 * (k / 256) + i)).find? (fun n => ok n && (s.lane n).run == none)

/-- A span lies in the fabric's reach: another device or host memory. R340. -/
def CA.fabric : CA → Bool
  | .remote _ _ _ => true
  | .here (.host _) => true
  | _ => false

/-- Every piece of a span is resolved: whether any takes the fabric, or the first refusal with its address. -/
def checkSpan (s : State) (at_ : State → Nat → Nat → State × CA) : List (Nat × Nat) → State × Bool × Option (Flt × Nat)
  | [] => (s, false, none)
  | (a, n) :: ps =>
    match at_ s a n with
    | (s1, .flt f) => (s1, false, some (f, a))
    | (s1, ca) =>
      match checkSpan s1 at_ ps with
      | (s2, fab, e) => (s2, ca.fabric || fab, e)

/-- Every destination of a transfer is resolved. A multicast target that refuses does so only when the data reach it, so that the others
take them. R358. -/
def checkDsts (s : State) (k : Nat) (sl : Slot) (mcast : Bool) (n : Nat) : List W64 → State × Bool × Option (Flt × Nat)
  | [] => (s, false, none)
  | a :: as =>
    match checkSpan s (fun s a n => strmAddr s k sl a permWrite n) (pieces a.toNat n 3) with
    | (s1, _, some e) => if mcast then checkDsts s1 k sl mcast n as else (s1, false, some e)
    | (s1, fab, none) =>
      match checkDsts s1 k sl mcast n as with
      | (s2, fab2, e) => (s2, fab || fab2, e)

/-- READ requests for the remote pieces of a source; how many. R464, R465. -/
def readRemote (s : State) (k xid : Nat) (sl : Slot) (page : Bool) (oclass base : Nat) : List (Nat × Nat) → State × Nat
  | [] => (s, 0)
  | (a, n) :: ps =>
    match srcAddr s k sl page a n with
    | (s1, .remote dev g off) =>
      let s2 := sendReq s1 dev g oclass 0x03 (n / 32 - 1) (gAddr dev off) 0 [] (.xferRead k xid (a - base))
      let (s3, m) := readRemote s2 k xid sl page oclass base ps
      (s3, m + 1)
    | (s1, _) => readRemote s1 k xid sl page oclass base ps

/-! ## Issue of one transfer -/

/-- The position after a part. -/
def advancePos (sl : Slot) (t : TDesc) (listLen : Nat) (lastPart : Bool) (blocks : Nat) : Slot :=
  if !lastPart then { sl with next := { sl.next with part := sl.next.part + 1 } }
  else
    let e := sl.next.elem + 1
    let n : Pos := if e < t.count then { desc := sl.next.desc, elem := e } else { desc := sl.next.desc + 1 }
    { sl with next := n, nextIdx := sl.nextIdx + t.idxBytes, nextBlock := sl.nextBlock + blocks,
              issuedAll := decide (listLen ≤ n.desc),
              elems := mapWhere (fun r => r.desc == sl.next.desc && r.elem == sl.next.elem) (fun r => { r with whole := true }) sl.elems }

/-- Parts of following elements join a transfer while sources and destinations are contiguous and their ring slots are free. R342.
`room` is what is left before the destination's boundary; answers elements and bytes added. -/
def mergeMore (s : State) (k : Nat) (d : StrmDesc) (t : TDesc) (src : W64) (dst : List W64) (room : Nat) : Nat → State × Nat × Nat
  | 0 => (s, 0, 0)
  | fuel + 1 =>
    let sl := s.slot k
    if room = 0 ∨ sl.issuedAll ∨ sl.next.elem = 0 then (s, 0, 0)
    else
      let r0 := (sl.rec? sl.next.desc sl.next.elem).getD { desc := sl.next.desc, elem := sl.next.elem, idx := sl.nextIdx, block := sl.nextBlock }
      let (s1, r, ok) := acquire s k d r0
      if !ok then (s, 0, 0)
      else
        let a := match d.srcRing, r.src with
          | some q, some i => slotStrm s1 k q i
          | _, _ => baseOf d t.src t.srcRel + BitVec.ofInt 64 ((r.elem : Int) * (BitVec.ofNat 32 t.sstride).toInt)
        if a ≠ src ∨ elemDst s1 k d t r ≠ dst then (s, 0, 0)
        else
          let m := min t.len room
          let s2 := s1.modSlot k (fun x => advancePos (x.setRec r) t d.listLen (m == t.len) 0)
          if m < t.len then (s2, 1, m)
          else
            let (s3, n, b) := mergeMore s2 k d t (src + BitVec.ofNat 64 m) (dst.map (· + BitVec.ofNat 64 m)) (room - m) fuel
            (s3, n + 1, b + m)

/-- The tag, the charge and the lane of a transfer that joins the slot. R340, R341, R382. -/
def enterXfer (s : State) (k : Nat) (x : Xfer) (charge : Nat) : State :=
  let die := k / 256
  let s1 := weirCharge s die (s.slot k).ctx charge
  let s2 := match x.lane with
    | some n => s1.modLane n (fun l => { l with busy := true })
    | none => s1
  (s2.modMrc die (fun m => { m with nextXid := m.nextXid + 1 })).modSlot k (fun y => { y with xfers := y.xfers ++ [x] })

/-- The bytes of a coded source place that a decode transfer reads beyond its codec header word, none where check 1 or 2 fails. R407. -/
def decodeRest (s : State) (sl : Slot) (h : CodecHdr) : Option Nat :=
  let ok := h.wellFormed && sl.refs.any (fun r => r.slot == h.slot && r.gen == h.gen) &&
    (match sl.desc with
     | some d => d.grsSlots.zipIdx.any (fun p => p.1 == h.slot && d.grsValid.testBit p.2)
     | none => false) &&
    (match (s.gslot h.slot).entryOf h.gen with
     | some e => ((s.gslot h.slot).entry e).kind == h.kind
     | none => false)
  if ok then some (32 * ceilDiv h.clen 32 - 32) else none

/-- A block of a decode stream: the block header and the codec header word are fetched; then the rest is one transfer. With the causes
for which it waits. R379, R407. -/
def issueDecode (s : State) (k : Nat) (sl : Slot) (d : StrmDesc) (t : TDesc) (r : ElemRec) (src : W64) (dst : List W64) : State × List Cause :=
  let p := sl.next
  let b := sl.nextBlock + p.part
  let place := src + BitVec.ofNat 64 (4096 * p.part)
  match fetchBytes s k true (d.indexBase + BitVec.ofNat 64 (8 * b)).toNat 8 with
  | (s1, .wait) => (s1, [])
  | (s1, .flt f a) => (failAt s1 k p f (BitVec.ofNat 64 a), [])
  | (s1, .ok hb _) =>
    let coded := (fieldAt hb 0 1).testBit 1
    let (s2, w) : State × FW (List Byte) := if coded then fetchBytes s1 k true place.toNat 32 else (s1, .ok [] true)
    match w with
    | .wait => (s2, [])
    | .flt f a => (failAt s2 k p f (BitVec.ofNat 64 a), [])
    | .ok cw good =>
      let rest := if coded then (if good then (decodeRest s2 sl (codecHdr cw)).getD 0 else 0) else 4096
      let from_ := if coded then place + 32 else place
      let out := min 4096 (t.len - 4096 * p.part)
      let ps := pieces from_.toNat rest 3
      let outs := dst.map (fun a => a + BitVec.ofNat 64 (4096 * p.part))
      match checkSpan s2 (fun s a n => srcAddr s k sl false a n) (if coded then (place.toNat, 32) :: ps else ps) with
      | (s3, _, some (f, a)) => (failAt s3 k p f (BitVec.ofNat 64 a), [])
      | (s3, fab, none) =>
        match checkDsts s3 k sl d.mcast out outs with
        | (s4, _, some (f, a)) => (failAt s4 k p f (BitVec.ofNat 64 a), [])
        | (s4, fab2, none) =>
          match freeLane s4 k sl with
          | none => (s4, .codec :: tagCauses s4 k (fab || fab2))
          | some lane =>
            if !tagFree s4 k (fab || fab2) then (s4, tagCauses s4 k (fab || fab2))
            else
              let xid := (s4.mrc (k / 256)).nextXid
              let (s5, m) := readRemote s4 k xid sl false d.oclass from_.toNat ps
              let x : Xfer := { xid := xid, pos := p, src := some from_, dst := outs, off := out, bytes := rest, fabric := fab || fab2,
                                block := b, lane := some lane, remote := m }
              let s6 := s5.modSlot k (fun y => advancePos (y.setRec r) t d.listLen (decide (t.len ≤ 4096 * (p.part + 1))) (ceilDiv t.len 4096))
              (enterXfer s6 k x (rest + if coded then 32 else 0), [])

/-- The source pieces of `n` bytes; a transfer that writes zeros has none. -/
def srcPieces (a : Option W64) (n : Nat) : List (Nat × Nat) :=
  match a with
  | none => []
  | some a => pieces a.toNat n 3

/-- Sources and destinations of a transfer of `m` bytes: whether any takes the fabric, or the first refusal. -/
def checkXfer (s : State) (k : Nat) (sl : Slot) (page mcast : Bool) (a : Option W64) (outs : List W64) (n m : Nat) :
    State × Bool × Option (Flt × Nat) :=
  match checkSpan s (fun s a n => srcAddr s k sl page a n) (srcPieces a n) with
  | (s1, _, some e) => (s1, false, some e)
  | (s1, fab, none) =>
    match checkDsts s1 k sl mcast m outs with
    | (s2, fab2, e) => (s2, fab || fab2, e)

/-- A transfer of an element that is not decoded, with the elements that it takes along; they must be within reach like the first. With
the causes for which it waits. R340, R342, R347, R379, R402. -/
def issuePlain (s : State) (k : Nat) (sl : Slot) (d : StrmDesc) (t : TDesc) (r : ElemRec) (src : Option W64) (page : Bool)
    (dst : List W64) : State × List Cause :=
  let p := sl.next
  let enc := d.codec == 2
  let das := if sl.engine.isSome || enc then [] else dst.map BitVec.toNat
  let (off, m) := partSpan das t.len p.part
  let lastPart := decide (t.len ≤ off + m)
  let a := src.map (· + BitVec.ofNat 64 off)
  let outs := dst.map (· + BitVec.ofNat 64 off)
  match checkXfer s k sl page d.mcast a outs m (if enc then 4096 else m) with
  | (s1, _, some (f, a)) => (failAt s1 k p f (BitVec.ofNat 64 a), [])
  | (s1, fab1, none) =>
    let lane := if enc then freeLane s1 k sl else none
    let s2 := s1.modSlot k (fun y => advancePos (y.setRec r) t d.listLen lastPart (if enc then ceilDiv t.len 4096 else 0))
    let (s3, n3, b3) := match a with
      | some a =>
        if lastPart && t.kind == 0 && !enc && sl.engine.isNone then
          mergeMore s2 k d t (a + BitVec.ofNat 64 m) (outs.map (· + BitVec.ofNat 64 m)) (roomAfter das (off + m)) 128
        else (s2, 0, 0)
      | none => (s2, 0, 0)
    let (s4, n, b, fab) := match b3, checkXfer s3 k sl page d.mcast a outs (m + b3) (m + b3) with
      | 0, _ => (s2, 0, 0, fab1)
      | _, (_, _, some _) => (s2, 0, 0, fab1)
      | _, (x, f, none) => (x, n3, b3, f)
    let causes := (if enc && lane.isNone then [.codec] else []) ++ tagCauses s1 k fab
    if !causes.isEmpty then (s1, causes)
    else
      let xid := (s4.mrc (k / 256)).nextXid
      let (s5, q) := readRemote s4 k xid sl page d.oclass ((a.getD 0).toNat) (srcPieces a (m + b))
      (enterXfer s5 k { xid := xid, pos := p, n := n + 1, src := a, page := page, dst := outs, off := off, bytes := m + b,
                        fabric := fab, block := sl.nextBlock + p.part, lane := lane, remote := q } (m + b), [])

/-- Flume streams have no descriptor in memory. R149. -/
def flumeDesc (op : AttnOp) : StrmDesc :=
  { encGen := 0, grsSlots := [], grsValid := 0, codec := 0, mcast := false, oclass := 0, persist := true, mcastMask := 0, ctx := 0,
    sluice := none, dstRing := none, srcRing := none, listLen := 1, listAddr := 0,
    indexBase := op.desc.ptAddr + BitVec.ofNat 64 (8 * op.desc.pageFirst), dataBase := 0 }

/-- The ring slots that an element still needs are not to be had: the causes. R360, R379. -/
def ringCauses (s : State) (d : StrmDesc) (r : ElemRec) : List Cause :=
  (if r.src.isNone && d.srcRing.any (fun q => !(s.ring q).canTake) then [.ringData] else []) ++
  (if r.dst.isEmpty && d.dstRings.any (fun q => !(s.ring q).canClaim) then [.ringSpace] else [])

/-- A coded stream finds no lane. R379. -/
def laneCauses (s : State) (k : Nat) (sl : Slot) (d : StrmDesc) : List Cause :=
  if d.codec ≠ 0 ∧ (freeLane s k sl).isNone then [.codec] else []

/-- The element at the next position issues its next part, or waits for the causes answered. R351, R379, R724. -/
def issueElem (s : State) (k : Nat) (sl : Slot) (d : StrmDesc) (t : TDesc) : State × List Cause :=
  let p := sl.next
  let r0 := (sl.rec? p.desc p.elem).getD { desc := p.desc, elem := p.elem, idx := sl.nextIdx, block := sl.nextBlock }
  let got : State × ElemRec × Bool := match sl.engine with
    | some e => (match claimFlume s e r0 t.len with
      | some s1 => (s1, r0, true)
      | none => (s, r0, false))
    | none => acquire s k d r0
  let (s1, r, ok) := got
  if !ok then (s1, (if sl.engine.isSome then [.ringSpace] else ringCauses s1 d r) ++ laneCauses s1 k sl d)
  else
    let (s2, w) : State × FW (Option W64 × Bool) := match d.srcRing, r.src with
      | some q, some i => (s1, .ok (some (slotStrm s1 k q i), false) true)
      | _, _ => elemSrc s1 k t d.indexBase d.dataBase p.elem
    match w with
    | .wait => (s2, [])
    | .flt f a => (failAt s2 k p f (BitVec.ofNat 64 a), [])
    | .ok (src, page) _ =>
      let dst := if sl.engine.isSome then [] else elemDst s2 k d t r
      let badSrc := match src with
        | some a => a.toNat % 32 != 0 || (d.codec == 1 && a.toNat % 4096 != 0)
        | none => false
      let badDst := dst.any (fun a => a.toNat % 32 != 0 || (d.codec == 2 && a.toNat % 4096 != 0)) || !mcastDstOk d t r
      if badSrc then (failAt s2 k p .operandInvalid (src.getD 0), [])
      else if badDst then (failAt s2 k p .operandInvalid (dst.headD 0), [])
      else match d.codec, src with
        | 1, some a => issueDecode s2 k sl d t r a dst
        | _, _ => issuePlain s2 k sl d t r src page dst

/-- A stream may issue: it is RUNNING, its run is active, and nothing stops it. R351, R373. -/
def strmLive (s : State) (k : Nat) : Bool :=
  let sl := s.slot k
  sl.st == .running && sl.failing.isNone && !sl.haltReq && !sl.issuedAll &&
  (match sl.run with
   | none => true
   | some rid => match s.run? (k / 256) rid with
     | some r => r.phase == .active
     | none => false)

/-- The descriptor of a slot: the armed one, or that of a flume pass. -/
def slotDesc (s : State) (sl : Slot) : Option StrmDesc :=
  match sl.engine with
  | none => sl.desc
  | some e => (s.engine e).run.map (fun r => flumeDesc r.op)

/-- An encode stream waits until its generation is resident. R349. -/
def encReady (s : State) (d : StrmDesc) : Bool :=
  d.codec != 2 || ((s.gslot (nth 0 d.grsSlots 0)).entryOf d.encGen).isSome

/-- What a stream does for its next transfer: the state after it, and the causes for which it waits. R351, R379. -/
def issueNext (s : State) (k : Nat) : State × List Cause :=
  match slotDesc s (s.slot k) with
  | none => (s, [])
  | some d =>
    if !strmLive s k then (s, [])
    else if !weirOk s (k / 256) (s.slot k).ctx then (s, [.rate])
    else if !encReady s d then (s, [.codec])
    else match curTDesc s k with
      | (s1, .wait) => (s1, [])
      | (s1, .flt f a) => (failAt s1 k (s.slot k).next f (BitVec.ofNat 64 a), [])
      | (s1, .ok t _) =>
        if !tdescOk s1 (s.slot k) t then
          (failAt s1 k (s.slot k).next .operandInvalid (d.listAddr + BitVec.ofNat 64 (32 * (s.slot k).next.desc)), [])
        else issueElem s1 k (s1.slot k) d t

/-- A transfer was issued between two states of a die's Millrace. -/
def hasIssued (s t : State) (k : Nat) : Bool := (t.mrc (k / 256)).nextXid != (s.mrc (k / 256)).nextXid

/-- The slot whose turn it is: of the engine of slot `k`, the first after the one served last that can issue. R343. -/
def nextServed (s : State) (k : Nat) : Option Nat :=
  let v := tget 0 (s.mrc (k / 256)).served (k % 256 / 32)
  (findFrom (fun i => let j := k / 32 * 32 + (v + i) % 32; hasIssued s (issueNext s j).1 j) 0 32).map
    (fun i => k / 32 * 32 + (v + i) % 32)

/-- The slot after this one comes first at its engine from now on. R343. -/
def markServed (s : State) (k : Nat) : State :=
  s.modMrc (k / 256) (fun m => { m with served := tset 0 m.served (k % 256 / 32) ((k + 1) % 32) })

/-- A stream issues its next transfer when it can and its turn has come, and what it fetches and claims for it meanwhile stands. R343,
R351. -/
def execTransferIssue (k : Nat) (s : State) : Host.Outcome State Fault Refusal :=
  let t := (issueNext s k).1
  .next (if !hasIssued s t k then t else if nextServed s k = some k then markServed t k else s)

/-! ## Acknowledgement (R352, R433, R434) -/

/-- Source words as they are stored. R315, R433; a word of host memory is clean (R717). -/
def rawWords (s : State) (pl : Place) : Nat → List Word288
  | 0 => []
  | n + 1 => (match pl with
    | .host _ => ((s.word pl.key).1, 0)
    | _ => s.word pl.key) :: rawWords s (pl.plus 32) n

/-- The local source words of a transfer, or the first refusal. -/
def gather (s : State) (k : Nat) (sl : Slot) (page : Bool) : List (Nat × Nat) → State × Except (Flt × Nat) (List Word288)
  | [] => (s, .ok [])
  | (a, n) :: ps =>
    match srcAddr s k sl page a n with
    | (s1, .flt f) => (s1, .error (f, a))
    | (s1, .remote _ _ _) => gather s1 k sl page ps
    | (s1, .here pl) =>
      let ws := rawWords s1 pl (n / 32)
      match gather (touch s1 pl) k sl page ps with
      | (s2, .error e) => (s2, .error e)
      | (s2, .ok vs) => (s2, .ok (ws ++ vs))

/-- The words of a transfer once they are all at the engine. -/
def xferWords (s : State) (k : Nat) (sl : Slot) (x : Xfer) : State × Except (Flt × Nat) (List Word288) :=
  match x.buf, x.src with
  | some ws, _ => (s, .ok ws)
  | none, none => (s, .ok (List.replicate (x.bytes / 32) (0, 0)))
  | none, some a => gather s k sl x.page (pieces a.toNat x.bytes 3)

/-- POISON_CONSUMED for a marked word written to host memory, once in a pass. R717. -/
def hostPoison (s : State) (k : Nat) (a : Nat) : State :=
  let sl := s.slot k
  if 3 ∈ sl.reported then s
  else postEvent (s.modSlot k (fun y => { y with reported := y.reported ++ [3] })) (some sl.ctx)
    { code := 1, sev := 1, srcKind := 3, srcDie := k / 256, srcIndex := k % 256, addr := a, d0 := sl.seqno.toNat }

/-- Words stored at consecutive places of a destination, at most `n` bytes of them, each checked for itself; answers the offset of the
first one refused. R387, R434, R717. -/
def storeWords (s : State) (k : Nat) (pl : Place) (n o : Nat) : List Word288 → State × Option Nat
  | [] => (s, none)
  | w :: ws =>
    if n = 0 then (s, none)
    else if n < 32 then
      let (s1, f) := writeMask s pl (byteMask 0 n) w.1
      (s1, if f = .none then none else some o)
    else
      let (s1, ok) := arriveWord s pl w
      let s2 := match pl with
        | .host a => if w.2 = kMark then hostPoison s1 k a else s1
        | _ => s1
      let (s3, e) := storeWords s2 k (pl.plus 32) (n - 32) (o + 32) ws
      (s3, if ok then e else some o)

/-- The words of one destination, in pieces. Answers the requests sent, or the first refusal with its address; the words after a refused
one are stored all the same. R434, R464. -/
def storeSpan (s : State) (k xid : Nat) (sl : Slot) (oclass : Nat) (ws : List Word288) : List (Nat × Nat) → State × Except (Flt × Nat) Nat
  | [] => (s, .ok 0)
  | (a, n) :: ps =>
    let m := ceilDiv n 32
    match strmAddr s k sl a permWrite n with
    | (s1, .flt f) => (s1, .error (f, a))
    | (s1, .here pl) =>
      let (s2, e) := storeWords s1 k pl n 0 (ws.take m)
      let (s3, c) := storeSpan s2 k xid sl oclass (ws.drop m) ps
      (s3, match e with
        | some o => .error (.eccUncorrectable, a + o)
        | none => c)
    | (s1, .remote dev g off) =>
      let full := n / 32
      let s2 := if full = 0 then s1
        else sendReq s1 dev g oclass 0x04 (full - 1) (gAddr dev off) 0 (ws.take full) (.xferWrite k xid)
      let s3 := if n % 32 = 0 then s2
        else sendReq s2 dev g oclass 0x02 0 (gAddr dev (off + 32 * full)) (BitVec.ofNat 64 (2 ^ (n % 32) - 1))
          ((ws.drop full).take 1) (.xferWrite k xid)
      match storeSpan s3 k xid sl oclass (ws.drop m) ps with
      | (s4, .ok c) => (s4, .ok (c + (if full = 0 then 0 else 1) + (if n % 32 = 0 then 0 else 1)))
      | (s4, .error e) => (s4, .error e)

/-- Every destination. A multicast target that refuses does not undo the others. R356, R358. -/
def storeAll (s : State) (k xid : Nat) (sl : Slot) (oclass n : Nat) (ws : List Word288) : List W64 → State × Except (Flt × Nat) Nat
  | [] => (s, .ok 0)
  | a :: as =>
    let (s1, e1) := storeSpan s k xid sl oclass ws (pieces a.toNat n 3)
    let (s2, e2) := storeAll s1 k xid sl oclass n ws as
    (s2, match e1, e2 with
      | .error x, _ => .error x
      | _, .error x => .error x
      | .ok m, .ok c => .ok (m + c))

/-- A transfer covers an element. -/
def Xfer.covers (x : Xfer) (r : ElemRec) : Bool :=
  x.pos.desc == r.desc && decide (x.pos.elem ≤ r.elem) && decide (r.elem < x.pos.elem + x.n)

/-- An element at or after the earliest failure of its stream: its slots stay as they are. R373, R376. -/
def Slot.spared (sl : Slot) (r : ElemRec) : Bool :=
  match sl.failing with
  | none => false
  | some (p, _, _) => decide (p.desc < r.desc) || (p.desc == r.desc && decide (p.elem ≤ r.elem))

/-- Elements whose transfers are all acknowledged post and give their slots, in order, up to a failure. R352, R373. -/
def retireElems (s : State) (k : Nat) : Nat → State
  | 0 => s
  | n + 1 =>
    let sl := s.slot k
    match sl.elems with
    | [] => s
    | r :: rs =>
      if r.whole && !sl.spared r && !sl.xfers.any (fun x => x.covers r) then
        let s1 := match slotDesc s sl with
          | none => s
          | some d =>
            let a := if r.src.isSome then d.srcRing.toList.foldl (fun (s : State) q => s.modRing q Ring.give) s else s
            if r.dst.isEmpty then a else d.dstRings.foldl (fun (s : State) q => s.modRing q Ring.post) a
        let s2 := match sl.engine with
          | some e => s1.modEngine e (fun g => { g with flume := mapWhere (fun p => p.elem == r.elem) (fun p => { p with posted := true }) g.flume })
          | none => s1
        retireElems (s2.modSlot k (fun y => { y with elems := rs })) k n
      else s

/-- A transfer leaves its slot: its tag and lane are free. R340. -/
def leaveXfer (s : State) (k : Nat) (x : Xfer) : State :=
  let s1 := s.modSlot k (fun y => { y with xfers := y.xfers.filter (fun t => t.xid != x.xid) })
  match x.lane with
  | some n => s1.modLane n (fun l => { l with busy := false })
  | none => s1

/-- A transfer is acknowledged at its destination. R226, R352. -/
def ackXfer (s : State) (k : Nat) (x : Xfer) : State :=
  let s1 := retireElems (leaveXfer s k x) k ((s.slot k).elems.length)
  match (s.slot k).run with
  | some rid => progress s1 (k / 256) rid
  | none => s1

/-- A transfer fails: it has settled, and the stream will halt at its first part. R373. -/
def failXfer (s : State) (k : Nat) (x : Xfer) (f : Flt) (a : Nat) : State :=
  failAt (leaveXfer s k x) k x.pos f (BitVec.ofNat 64 a)

/-- A word of a flume page, checked for the engine that will read it. R170, R315. -/
def flumeWord (s : State) (e : Nat) (elem o : Nat) (d : BitVec 256) (good : Bool) : State :=
  s.modEngine e (fun g => { g with flume := mapWhere (fun p => p.elem == elem) (fun p =>
    { p with words := tset 0 p.words (o / 32) d, bad := if good then p.bad else p.bad ++ [o / 32] }) g.flume })

/-- The words of a flume transfer read at their memory. -/
def fillFlume (s : State) (k : Nat) (sl : Slot) (e : Nat) (x : Xfer) (o : Nat) : List (Nat × Nat) → State × Option (Flt × Nat)
  | [] => (s, none)
  | (a, n) :: ps =>
    match srcAddr s k sl x.page a n with
    | (s1, .flt f) => (s1, some (f, a))
    | (s1, .remote _ _ _) => fillFlume s1 k sl e x (o + n) ps
    | (s1, .here pl) =>
      let (s2, ds) := readRaw s1 pl (n / 32)
      let s3 := (ds.zipIdx).foldl (fun s d => flumeWord s e x.pos.elem (o + 32 * d.2) d.1.1 (!d.1.2)) s2
      fillFlume s3 k sl e x (o + n) ps

/-- The header that an encoder writes for a block, once its block is coded: 8 bytes at INDEX_BASE + 8b. R402. -/
def codedHdrAddr (d : StrmDesc) (x : Xfer) : W64 := d.indexBase + BitVec.ofNat 64 (8 * x.block)

/-- A transfer blocks at a crossing: where its words lie in this device, or at one of its destinations. R627. -/
def xferBarred (s : State) (k : Nat) (sl : Slot) (x : Xfer) (n : Nat) : Bool :=
  let reads : Bool := match x.buf, x.src with
    | none, some a => (pieces a.toNat x.bytes 3).any (fun p => match (srcAddr s k sl x.page p.1 p.2).2 with
      | .here pl => barred s (k / 256) pl
      | _ => false)
    | _, _ => false
  reads || x.dst.any (fun a => (pieces a.toNat n 3).any (fun p => barredAt s (k / 256) (strmAddr s k sl p.1 permWrite p.2).2))

/-- R352, R434. A coded transfer is acknowledged only after its lane has served it. -/
def execTransferAck (k xid : Nat) (s : State) : Host.Outcome State Fault Refusal :=
  let sl := s.slot k
  .next (match sl.xfers.find? (fun x => x.xid == xid), slotDesc s sl with
    | some x, some d =>
      if x.remote ≠ 0 then s
      else if x.written then ackXfer s k x
      else if xferBarred s k sl x (if d.codec = 0 then x.bytes else x.off) then s
      else match sl.engine with
        | some e =>
          (match fillFlume s k sl e x x.off (match x.src with
            | some a => pieces a.toNat x.bytes 3
            | none => []) with
           | (s1, some (f, a)) => failXfer s1 k x f a
           | (s1, none) => ackXfer s1 k x)
        | none =>
          if d.codec ≠ 0 ∧ !x.coded then s
          else match xferWords s k sl x with
            | (s1, .error (f, a)) => failXfer s1 k x f a
            | (s1, .ok ws) =>
              match storeAll s1 k xid sl d.oclass (if d.codec = 0 then x.bytes else x.off) ws x.dst with
              | (s2, .error (f, a)) => failXfer s2 k x f a
              | (s2, .ok 0) => ackXfer s2 k x
              | (s2, .ok n) => s2.modSlot k (fun y => { y with
                  xfers := mapWhere (fun t => t.xid == xid) (fun t => { t with remote := n, written := true }) y.xfers })
    | _, _ => s)

/-! ## Passes (R353 to R355) -/

/-- A pass starts at a position. R355, R376. -/
def Slot.launch (sl : Slot) (p : Pos) (idx block : Nat) : Slot :=
  { sl with st := .running, next := p, nextIdx := idx, nextBlock := block, issuedAll := false, fetched := [], failing := none, haltReq := false,
            elems := sl.elems.map (fun r => { r with whole := false }), ringWait := none }

/-- The 32 bytes of a halt notice. R374. -/
def noticeBytes (k : Nat) (sl : Slot) (code : Nat) : List Byte :=
  natToBytes (sl.pos.desc * 2 ^ 44 + sl.pos.elem * 2 ^ 12 + sl.pos.part) 8 ++ natToBytes 0 3 ++ natToBytes (k / 256) 1 ++
  natToBytes (k % 256) 1 ++ natToBytes code 1 ++ natToBytes sl.ctx 2 ++ natToBytes 0 4 ++ natToBytes sl.seqno.toNat 4 ++
  natToBytes sl.faddr.toNat 8

/-- The codes of R232. -/
def Flt.code : Flt → Nat
  | .none => 0 | .operandInvalid => 1 | .binBusy => 2 | .binLimit => 3 | .rankOrder => 4 | .fenced => 5 | .pageAbsent => 6
  | .eccUncorrectable => 7 | .deadlockWatchdog => 8 | .runLimit => 9

/-- A pass of slot `k` has ended, or will never run. R202, R280. -/
def passDown (s : State) (k : Nat) : State :=
  s.modMrc (k / 256) (fun m => { m with passEnd := tmod 0 m.passEnd (k % 256) (· + 1) })

/-- A slot becomes FREE: rings detached, references dropped; answers still on their way find nobody, and a halt notice that waits is
still written. R354, R375, R378. -/
def freeSlot (s : State) (k : Nat) : State :=
  let sl := s.slot k
  let s1 := dropRefs (detachRings s k (keptRings s k)) sl.refs
  let s2 := sl.xfers.foldl (fun s x => leaveXfer s k x) s1
  let s3 := s2.disown (fun w => match w with
    | .strmWord j _ | .xferRead j _ _ | .xferWrite j _ => j == k
    | _ => false)
  let s4 := if sl.notice then
      s3.modMrc (k / 256) (fun m => { m with orphans := m.orphans ++ [(sl.noticeOrder, noticeBytes k sl sl.reason.code)] })
    else s3
  s4.modSlot k (fun _ => {})

/-- The arrival at the end of a pass; a bad sluice word faults the run in the machine class or halts the service core, and one in a block
of another context is refused. R194, R325, R353, R726. -/
def passArrival (s : State) (k : Nat) (sl : Slot) (n : Nat) : State :=
  if !sluiceOwned s sl.ctx n then
    (match sl.run, sl.service with
     | some rid, _ => faultRun s (k / 256) rid .fenced none 0xFF clsOperation
     | none, some m => serviceFault s m
     | none, none => s)
  else match sluiceArrive s sl.ctx n with
  | (s1, .ok) => s1
  | (s1, st) =>
    match sl.run, sl.service with
    | some rid, _ =>
      let s2 := match st, sl.tile with
        | .bad, some l => s1.modTile (s1.phys l) (fun t => { t with machineFaults := t.machineFaults + 1 })
        | _, _ => s1
      faultRun s2 (k / 256) rid .eccUncorrectable none 0xFF clsMachine
    | none, some m => serviceFault s1 m
    | none, none => s1

/-- R353, R354. -/
def execPassEnd (k : Nat) (s : State) : Host.Outcome State Fault Refusal :=
  let sl := s.slot k
  .next (if sl.st = .running ∧ sl.issuedAll ∧ sl.xfers = [] ∧ sl.elems = [] ∧ sl.failing = none then
      let s1 := match sl.desc.bind StrmDesc.sluice with
        | some n => passArrival s k sl n
        | none => s
      let keep := sl.engine.isSome || (match sl.desc with
        | some d => d.persist
        | none => false)
      let s2 := if keep then s1.modSlot k (fun y => { y with st := .passDone }) else freeSlot s1 k
      let s2 := if sl.engine.isSome then s2 else passDown s2 k
      (match sl.run with
       | some rid => progress s2 (k / 256) rid
       | none => s2)
    else s)

/-! ## Halts (R373 to R375) -/

/-- The pending notices of a die: the place of each among the halts, its bytes, and the slot that keeps it, if that is not free yet. R375. -/
def pendingNotices (s : State) (die : Nat) : List (Nat × List Byte × Option Nat) :=
  ((s.mrc die).slots.filter (fun x => x.2.notice)).map
    (fun x => (x.2.noticeOrder, noticeBytes (256 * die + x.1) x.2 x.2.reason.code, some (256 * die + x.1))) ++
  (s.mrc die).orphans.map (fun x => (x.1, x.2, none))

/-- The pending notice of a die whose stream halted first. R375. -/
def firstNotice (s : State) (die : Nat) : Option (Nat × List Byte × Option Nat) :=
  let ps := pendingNotices s die
  ps.find? (fun p => ps.all (fun x => decide (p.1 ≤ x.1)))

/-- The first pending notice of a die is written when its halt ring has a free entry. R375. -/
def writeNotice (s : State) (die : Nat) : State :=
  match firstNotice s die with
  | none => s
  | some (n, bs, k) =>
    let r := (s.mrc die).haltRing
    if (s.ring r).kind = .internal ∧ (s.ring r).room then
      let s1 := pushRecord s r bs
      match k with
      | some k => s1.modSlot k (fun y => { y with notice := false })
      | none => s1.modMrc die (fun m => { m with orphans := m.orphans.filter (fun x => x.1 != n) })
    else s

/-- The record of a halted element. -/
def savedIdx (sl : Slot) (p : Pos) : Nat × Nat :=
  match sl.rec? p.desc p.elem with
  | some r => (r.idx, r.block)
  | none => (sl.nextIdx, sl.nextBlock)

/-- The slot becomes HALTED at a position. R373. -/
def haltSlot (s : State) (k : Nat) (p : Pos) (f : Flt) (a : W64) : State :=
  let sl := s.slot k
  let (idx, blk) := savedIdx sl p
  let want := f != .none && f != .deadlockWatchdog
  let m := s.mrc (k / 256)
  let s1 := s.modSlot k (fun y => { y with
    st := .halted, reason := f, pos := p, faddr := a, idxPos := idx, posBlock := blk, failing := none,
    haltReq := false, notice := want, noticeOrder := if want then m.nextNotice else y.noticeOrder, ringWait := none })
  if want then writeNotice (s1.modMrc (k / 256) (fun m => { m with nextNotice := m.nextNotice + 1 })) (k / 256) else s1

/-- A run faults where its stream halts with DEADLOCK_WATCHDOG. R364. -/
def wdogFault (s : State) (k : Nat) : State :=
  match (s.slot k).run with
  | some rid => faultRun s (k / 256) rid .deadlockWatchdog none 0xFF clsWatchdog
  | none => s

/-- Issued transfers have settled, and the stream halts. R281, R373. -/
def execStreamHalt (k : Nat) (s : State) : Host.Outcome State Fault Refusal :=
  let sl := s.slot k
  .next (if sl.st = .running ∧ sl.xfers = [] then
      (match sl.failing with
       | some (p, f, a) =>
         let s1 := haltSlot s k p f a
         if f = .deadlockWatchdog then wdogFault s1 k else s1
       | none => if sl.haltReq then haltSlot s k sl.next .none 0 else s)
    else s)


/-! ## Ring waits (R360, R363) -/

/-- A page flume as a ring of its own, beyond the numbers of the ring table. R361. -/
def flumeRing (e : Nat) : Nat := 65536 + e

/-- The ring that a stream waits on for its next element, if it waits on one. R360, R361. -/
def ringAwaited (s : State) (k : Nat) : Option Nat :=
  let sl := s.slot k
  if !strmLive s k then none
  else match sl.engine, sl.desc with
    | some e, _ =>
      (match (s.engine e).run with
       | none => none
       | some a =>
         let full := (claimFlume s e { desc := 0, elem := sl.next.elem, idx := 0, block := 0 } (flumeTDesc a.op.desc).len).isNone
         if full then some (flumeRing e) else none)
    | none, none => none
    | none, some d =>
      let r := (sl.rec? sl.next.desc sl.next.elem).getD { desc := 0, elem := 0, idx := 0, block := 0 }
      let src := match d.srcRing with
        | some q => if r.src.isNone && !(s.ring q).canTake then [q] else []
        | none => []
      let dst := if r.dst.isEmpty then (d.dstRings.filter (fun q => !(s.ring q).canClaim)).take 1 else []
      match src, dst with
      | [], b => b.head?
      | a, [] => a.head?
      | a :: _, b :: _ => some (if (s.ring a).rank ≤ (s.ring b).rank then a else b)

/-- The sum of a ring's counters, which moves whenever one of them does. -/
def Ring.moves (r : Ring) : W32 := r.c0 + r.c1 + r.c2 + r.c3

/-- The sum of the counters of a page flume in its present pass: pages claimed, posted, taken and given. R361. -/
def Engine.moves (g : Engine) : W32 :=
  BitVec.ofNat 32 (4 * (g.run.map (fun r => r.page)).getD 0 + g.flume.length + (g.flume.filter (fun p => p.posted)).length)

/-- The same of a ring or a flume. -/
def ringMoves (s : State) (q : Nat) : W32 := if q < 65536 then (s.ring q).moves else (s.engine (q - 65536)).moves

/-- A stream keeps the tick at which its present ring wait began. R363. -/
def noteWait (s : State) (k : Nat) : State :=
  let now := (s.mrc (k / 256)).ticks
  match ringAwaited s k with
  | none => s.modSlot k (fun y => { y with ringWait := none })
  | some q =>
    let m := ringMoves s q
    s.modSlot k (fun y => match y.ringWait with
      | some (q', m', t) => if q' = q ∧ m' = m then { y with ringWait := some (q, m, t) } else { y with ringWait := some (q, m, now) }
      | none => { y with ringWait := some (q, m, now) })

/-- A stream stops with DEADLOCK_WATCHDOG: at once where nothing is in flight, otherwise when its transfers have settled. R363. -/
def wdogSlot (s : State) (k : Nat) : State :=
  if (s.slot k).xfers = [] then wdogFault (haltSlot s k (s.slot k).next .deadlockWatchdog 0) k
  else s.modSlot k (fun y => { y with failing := some (y.next, .deadlockWatchdog, 0) })

/-- Streams of a context that wait on a ring. -/
def waiters (s : State) (ctx : Nat) : List Nat :=
  (List.range 1024).filter (fun k => (s.slot k).st == .running && (s.slot k).ctx == ctx && (ringAwaited s k).isSome)

/-- R363, R364. -/
def execDeadlockWatchdog (k : Nat) (s : State) : Host.Outcome State Fault Refusal :=
  let m := s.mrc (k / 256)
  .next (match ringAwaited s k, (s.slot k).ringWait with
    | some q, some (q', c, t) =>
      if q = q' ∧ c = ringMoves s q ∧ m.wdog ≠ 0 ∧ t + 4096 * m.wdog ≤ m.ticks then
        let ctx := (s.slot k).ctx
        let s1 := postEvent s (some ctx) { code := 0x12, sev := 2, srcKind := 3, srcDie := k / 256, srcIndex := k % 256 }
        (waiters s ctx).foldl wdogSlot s1
      else s
    | _, _ => s)

/-! ## The Weir (R380, R383) -/

/-- RATE and DEPTH as written last take effect, TOKENS clamped to the new DEPTH. R383. -/
def Weir.settle (w : Weir) : Weir :=
  let depth := w.depthNext.getD w.depth
  { w with rate := w.rateNext.getD w.rate, depth := depth, tokens := min w.tokens depth, rateNext := none, depthNext := none }

/-- One tick of a bucket, the fraction carried. R380, R383. -/
def Weir.refill (w : Weir) : Weir :=
  let w := w.settle
  if w.rate = 0 then { w with tokens := w.depth }
  else
    let f := w.frac + w.rate
    { w with tokens := min (w.tokens + (f / 256 : Nat)) w.depth, frac := f % 256 }

/-- R380. -/
def execWeirRefill (die ctx : Nat) (s : State) : Host.Outcome State Fault Refusal := .next (s.modWeir die ctx Weir.refill)

/-! ## Codec blocks (09) -/

/-- Words read by a lane, each with whether it holds good data; a remote word is judged by the check bits that it came with. R403, R727. -/
def laneWords (s : State) (k : Nat) (sl : Slot) (x : Xfer) : State × Except (Flt × Nat) (List (BitVec 256 × Bool)) :=
  match x.buf with
  | some ws => (s, .ok (ws.map (fun w => match classify w.2 with
      | .clean => (w.1, true)
      | .correctable p sym => (correct w.1 p sym, true)
      | _ => (w.1, false))))
  | none =>
    match x.src with
    | none => (s, .ok [])
    | some a =>
      (pieces a.toNat x.bytes 3).foldl (fun acc p =>
        match acc with
        | (s1, .error e) => (s1, .error e)
        | (s1, .ok vs) =>
          match srcAddr s1 k sl false p.1 p.2 with
          | (s2, .flt f) => (s2, .error (f, p.1))
          | (s2, .remote _ _ _) => (s2, .ok vs)
          | (s2, .here pl) =>
            let (s3, ds) := readRaw s2 pl (p.2 / 32)
            (s3, .ok (vs ++ ds.map (fun d => (d.1, !d.2))))) (s, .ok [])

/-- The lane has served a transfer: the words to write and how many bytes of them. -/
def servedXfer (s : State) (k xid : Nat) (ws : List Word288) (n : Nat) : State :=
  s.modSlot k (fun y => { y with
    xfers := mapWhere (fun t => t.xid == xid) (fun t => { t with buf := some ws, off := n, coded := true }) y.xfers })

/-- The words of a block, marked where `bad` holds. R410. -/
def blockWords (bs : List Byte) (bad : Bool) : List Word288 := (toWords bs).map (fun w => (w, if bad then kMark else 0))

/-- Bytes that the spec does not state. -/
def freeBytes (s : State) (n : Nat) : State × List Byte :=
  ({ s with free := s.free + n }, (List.range n).map (fun i => Config.freeByte (s.free + i)))

/-- The event of a cause, once in a pass. R413. -/
def reportCause (s : State) (k : Nat) (c : Cause3) (place : W64) : State :=
  let sl := s.slot k
  if c.index ∈ sl.reported then s
  else postEvent (s.modSlot k (fun y => { y with reported := y.reported ++ [c.index] })) (some sl.ctx)
    { code := 2 + c.index, sev := 1, srcKind := 3, srcDie := k / 256, srcIndex := k % 256, addr := place.toNat }

/-- The outcome of a decode: bytes and poison, with its cause; none where only headers or bad words poison it. R409, R410, R727. -/
def decodeOutcome (s : State) (sl : Slot) (hp coded bad : Bool) (cw place : List Byte) : Except Cause3 (List Byte) × Bool :=
  if bad then (.ok (place ++ natToBytes 0 (4096 - place.length)), true)
  else if !coded then (.ok place, hp)
  else
    let h := codecHdr cw
    match decodeRest s sl h with
    | none => (.error .invalid, true)
    | some _ =>
      let g := s.gslot h.slot
      match decodeBlock (g.entry ((g.entryOf h.gen).getD false)) h (cw ++ place) with
      | .error c => (.error c, true)
      | .ok bs => (.ok bs, hp || h.poison)

/-- Counters of a decoded block. GRS_DEC_BLOCKS, GRS_DEC_RAW, GRS_BAD, GRS_BYTES_READ, GRS_BYTES_OUT. -/
def countDec (s : State) (die : Nat) (coded : Bool) (bad : Option Nat) (nread nout : Nat) : State :=
  s.modGrs die (fun g => { g with
    decBlocks := satAdd 64 g.decBlocks 1
    decRaw := if coded then g.decRaw else satAdd 64 g.decRaw 1
    bad := match bad with
      | none => g.bad
      | some i => tset 0 g.bad i (satAdd 64 (tget 0 g.bad i) 1)
    bytesRead := satAdd 64 g.bytesRead nread
    bytesOut := satAdd 64 g.bytesOut nout })

/-- R409, R410, R413, R727. -/
def execGristDecodeBlock (k xid : Nat) (s : State) : Host.Outcome State Fault Refusal :=
  let sl := s.slot k
  .next (match sl.xfers.find? (fun x => x.xid == xid), sl.desc with
    | some x, some d =>
      if d.codec ≠ 1 ∨ x.coded ∨ x.remote ≠ 0 then s
      else
        let hdrAt := (d.indexBase + BitVec.ofNat 64 (8 * x.block)).toNat
        match fetchBytes s k true hdrAt 8 with
        | (s1, .ok hb hgood) =>
          let hp := (fieldAt hb 0 1).testBit 0
          let coded := (fieldAt hb 0 1).testBit 1
          let place := (x.src.getD 0) - (if coded then 32 else 0)
          let (s2, cw, cgood) : State × List Byte × Bool := if coded then
              (match fetchBytes s1 k true place.toNat 32 with
               | (s2, .ok v g) => (s2, v, g)
               | (s2, _) => (s2, [], false))
            else (s1, [], true)
          (match laneWords s2 k sl x with
           | (s3, .error (f, a)) => failXfer s3 k x f a
           | (s3, .ok ws) =>
             let bad := !hgood || !cgood || ws.any (fun w => !w.2)
             let bytes := ws.flatMap (fun w => natToBytes w.1.toNat 32)
             let (res, poison) := decodeOutcome s3 sl hp coded bad cw bytes
             let s4 := countDec s3 (k / 256) coded (match res with
               | .error c => some c.index
               | .ok _ => if poison then some 3 else none) (x.bytes + if coded then 32 else 0) x.off
             match res with
             | .ok bs => servedXfer s4 k xid (blockWords bs poison) x.off
             | .error c =>
               let (s5, bs) := freeBytes (reportCause s4 k c place) 4096
               servedXfer s5 k xid (blockWords bs true) x.off)
        | (s1, _) => s1
    | _, _ => s)

/-- FMT of a block header by KIND. R402. -/
def kindFmt (k : Nat) : Nat := if k = 1 then 1 else if k = 2 then 2 else 5

/-- R396, R397, R402 to R404: the block header is written with the block. -/
def execGristEncodeBlock (k xid : Nat) (s : State) : Host.Outcome State Fault Refusal :=
  let sl := s.slot k
  .next (match sl.xfers.find? (fun x => x.xid == xid), sl.desc with
    | some x, some d =>
      if d.codec ≠ 2 ∨ x.coded ∨ x.remote ≠ 0 then s
      else match laneWords s k sl x with
        | (s1, .error (f, a)) => failXfer s1 k x f a
        | (s1, .ok ws) =>
          let slot := nth 0 d.grsSlots 0
          let g := (s1.gslot slot).entry (((s1.gslot slot).entryOf d.encGen).getD false)
          let raw := ws.flatMap (fun w => natToBytes w.1.toNat 32) ++ natToBytes 0 (4096 - 32 * ws.length)
          let bad := ws.any (fun w => !w.2)
          let (bs, esc) := if bad then (raw, some Escape.size) else encodeBlock g slot false true raw
          let coded := esc.isNone
          let s2 := if bad then s1.modGrs (k / 256) (fun g => { g with encBlocks := satAdd 64 g.encBlocks 1 })
            else countEnc s1 (k / 256) esc
          let words := (toWords (bs ++ natToBytes 0 (4096 - bs.length))).zipIdx.map (fun w =>
            (w.1, if (nth ((0 : BitVec 256), true) ws w.2).2 then (0 : W32) else kMark))
          let s3 := servedXfer s2 k xid words bs.length
          let hdr := (if bad then 1 else 0) + (if coded then 2 else 0) + 256 * kindFmt g.kind
          let ha := (codedHdrAddr d x).toNat
          match strmAddr s3 k sl ha permWrite 8 with
          | (s4, .flt f) => failXfer s4 k x f ha
          | (s4, .here pl) =>
            (match writeSub s4 pl 8 hdr with
             | (s5, .none) => s5
             | (s5, f) => failXfer s5 k x f ha)
          | (s4, .remote dev g off) =>
            (sendReq s4 dev g d.oclass 0x02 0 (gAddr dev (off / 32 * 32)) (BitVec.ofNat 64 (255 * 2 ^ (off % 32)))
              [(BitVec.ofNat 256 (hdr * 2 ^ (8 * (off % 32))), 0)] (.xferWrite k xid)).modSlot k (fun y => { y with
                xfers := mapWhere (fun t => t.xid == xid) (fun t => { t with remote := t.remote + 1 }) y.xfers })
    | _, _ => s)

end Sys2Proof.Machine
end

