-- ==== Sys2Proof/Machine/StrmIsa.lean ====
section
/-! DEFINITION. The stream instructions (06, R276 to R282, R722, R723; 08, R349, R350) and the start of a queued operation of a
tile unit (05). -/

namespace Sys2Proof.Machine
open Sys2Proof

/-! ## Slots that a core names (R276, R723) -/

/-- A flume slot carries only its engine's flume stream. R149. -/
def isFlume (k : Nat) : Bool := (List.range 12).any (fun i => k % 256 == 32 * (i % 8) + 31 - i / 8)

/-- Device slot of SLOT: one of the run's grant, or one of those that the core's die grants to its firmware, its top ones but for
flume slots. R149, R276. -/
def slotOf (s : State) (c : Core) (i : Nat) : Option Nat :=
  match c with
  | .tile l => match s.runOf l with
    | some r => r.slots[i]?
    | none => none
  | .miller m =>
    let n := (s.mrc (m / 4)).fwSlots
    if i < n ∧ !isFlume (256 - n + i) then some (256 * (m / 4) + (256 - n) + i) else none

/-- Operations for slot `k` in the stream queues of a run. -/
def queuedFor (s : State) (r : Run) (k : Nat) : List StrmOp :=
  (r.rr.tileList.flatMap (fun l => (s.tile (s.phys l)).strmQ)).filter (fun o => match o with
    | .arm _ _ j _ _ _ _ => j == k
    | .rearm _ _ j _ _ _ _ => j == k
    | .post _ _ => false)

/-- Queued operations for slot `k` of the core's run; a service core queues none. -/
def queuedBy (s : State) (c : Core) (k : Nat) : List StrmOp :=
  match c with
  | .tile l => match s.runOf l with
    | some r => queuedFor s r k
    | none => []
  | .miller _ => []

/-- The queued arms among operations: the number of the pass and the descriptor. -/
def armsOf (os : List StrmOp) : List (Nat × StrmDesc) :=
  os.filterMap (fun o => match o with
    | .arm _ _ _ n d _ _ => some (n, d)
    | .rearm _ _ _ _ _ _ _ => none
    | .post _ _ => none)

/-- The queued re-arms among operations: the numbers of their passes. -/
def rearmsOf (os : List StrmOp) : List Nat :=
  os.filterMap (fun o => match o with
    | .arm _ _ _ _ _ _ _ => none
    | .rearm _ _ _ n _ _ _ => some n
    | .post _ _ => none)

/-- The arm that was issued last, by whichever tile. R202. -/
def lastArm (s : State) (c : Core) (k : Nat) : Option (Nat × StrmDesc) :=
  let os := armsOf (queuedBy s c k)
  os.find? (fun o => os.all (fun x => decide (x.1 ≤ o.1)))

/-- The stream that slot `k` holds in the issue-order state. R202, R722. -/
def issStream (s : State) (c : Core) (k : Nat) : Option StrmDesc :=
  match lastArm s c k with
  | some o => some o.2
  | none => if (s.slot k).st = .free then none else (s.slot k).desc

/-- Passes of slot `k` that have been issued, and that have ended. R202, R280. -/
def passesIssued (s : State) (k : Nat) : Nat := tget 0 (s.mrc (k / 256)).passIss (k % 256)
def passesEnded (s : State) (k : Nat) : Nat := tget 0 (s.mrc (k / 256)).passEnd (k % 256)

/-- One more pass of slot `k` is issued, under the number answered. R202. -/
def passIssue (s : State) (k : Nat) : State × Nat :=
  let n := passesIssued s k + 1
  (s.modMrc (k / 256) (fun m => { m with passIss := tset 0 m.passIss (k % 256) n }), n)

/-! ## strm.arm -/

/-- Reserved bits, codes, ranges and alignments of a stream descriptor. R345, R349. -/
def strmFieldsOk (bs : List Byte) (d : StrmDesc) (tile : Bool) (setSize nGrist : Nat) : Bool :=
  decide (fieldAt bs 49 15 = 0) && decide (fieldAt bs 48 1 < 16) && decide (fieldAt bs 43 1 < 16) &&
  !(fieldAt bs 42 1).testBit 7 && !(fieldAt bs 42 1).testBit 1 && decide (d.codec < 3) && decide (d.ctx < 4096) &&
  (!tile || d.ctx == 0) && decide (1 ≤ d.listLen) && decide (d.listLen ≤ 1048576) && d.listAddr.toNat % 32 == 0 &&
  (d.codec == 2 || d.encGen == 0) && (d.mcast || d.mcastMask == 0) && decide (d.mcastMask < 2 ^ setSize) &&
  (!tile || d.codec == 0 || decide (0 < nGrist)) && (d.codec != 2 || d.grsValid.testBit 0)

/-- Declared slots granted to the context (R210), the kinds and contexts of rings (R207), SLUICE within the context's table, and the
rings of a multicast group alike (R357). -/
def strmPlaces (s : State) (ctx : Nat) (d : StrmDesc) : List Flt :=
  (d.grsSlots.zipIdx).map (fun p => faultIf (d.grsValid.testBit p.2 && (s.gslot p.1).ctx != some ctx) .fenced) ++
  d.rings.flatMap (fun r => ringPlaceFlt s ctx r) ++
  [faultIf (match d.sluice with
     | some n => decide ((s.ctx ctx).bind.sltCount ≤ n)
     | none => false) .operandInvalid,
   faultIf (match d.dstRing with
     | some q => d.mcast && d.dstRings.any (fun r => (s.ring r).rank != (s.ring q).rank || (s.ring r).entries != (s.ring q).entries ||
         (s.ring r).entryUnits != (s.ring q).entryUnits)
     | none => false) .operandInvalid]

/-- The slot's stream, ring attachments, the generation, and the rank order. R208, R213, R349, R362, R722. -/
def strmStates (s : State) (c : Core) (k : Nat) (d : StrmDesc) : List Flt :=
  let held := (match (s.slot k).desc with
    | some x => if (s.slot k).st = .free then [] else [x]
    | none => []) ++ (armsOf (queuedBy s c k)).map (fun x => x.2)
  let g := nth 0 d.grsSlots 0
  [faultIf (held.any (fun x => x.persist)) .operandInvalid,
   faultIf (match d.srcRing with
     | some r => !consFree (s.ring r) (.slot k)
     | none => false) .operandInvalid,
   faultIf (d.dstRings.any (fun r => !prodFree (s.ring r) (.slot k))) .operandInvalid,
   faultIf (d.codec == 2 && ((s.gslot g).entryOf d.encGen).isNone && !(s.gslot g).installing d.encGen) .operandInvalid,
   faultIf (!ranksOk s d) .rankOrder]

/-- Transfer descriptor `i` of a list that the arm can read: not one on another device, in a place that is refused, or in a bad word. -/
def readTDesc (s : State) (k : Nat) (sl : Slot) (d : StrmDesc) (i : Nat) : Option TDesc :=
  match (strmAddr s k sl (d.listAddr + BitVec.ofNat 64 (32 * i)).toNat permRead 32).2 with
  | .here pl => if (rawRead s pl).2.2 then some (tdescOf (natToBytes (rawRead s pl).2.1.toNat 32)) else none
  | _ => none

/-- With MCAST the DST of every transfer descriptor that can be read at issue is a Millpond address with SET = 0; one that cannot be
read is judged when it is fetched (DEDUCED, log 63). R349. -/
def mcastFlt (s : State) (k : Nat) (sl : Slot) (d : StrmDesc) : Flt :=
  faultIf (d.mcast && d.dstRing.isNone && (List.range d.listLen).any (fun i => match readTDesc s k sl d i with
    | some t => !mcastDstOk d t { desc := i, elem := 0, idx := 0, block := 0 }
    | none => false)) .operandInvalid

/-- A halt that was asked of a pass before it started takes hold at its first transfer boundary. R281 -/
def Slot.askHalt (y : Slot) (halt : Bool) : Slot := { y with haltReq := halt }

/-- A stream starts in a free slot. R277, R350. -/
def startStrm (s : State) (k ctx : Nat) (run tile svc : Option Nat) (seqno : W32) (d : StrmDesc) (refs : List GRef) (halt : Bool) :
    State :=
  s.modSlot k (fun _ => ({ ctx := ctx, run := run, tile := tile, service := svc, seqno := seqno, desc := some d, refs := refs } : Slot).launch {} 0 0 |>.askHalt halt)

/-- An arm with its descriptor read: `good` unless a word of it holds no good data. R349, R718, R719. -/
def armTile (s : State) (c : Core) (l : Nat) (r : Run) (k : Nat) (bs : List Byte) (good : Bool) : Iss :=
  let d := strmDesc bs
  let flt := firstFlt ([faultIf (!good) .eccUncorrectable,
    faultIf (!strmFieldsOk bs d true r.rr.tileList.length r.rr.nGrist) .operandInvalid,
    mcastFlt s k { ctx := r.rr.ctx, run := some r.rid, tile := some l } d] ++ strmPlaces s r.rr.ctx d ++ strmStates s c k d)
  if flt ≠ .none then .fault s flt
  else if 8 ≤ (s.tile (s.phys l)).strmQ.length then .stay s
  else
    let refs := strmRefs s r.rr.ctx d
    let (s1, q) := takeIseq (takeRefs (attachRings s k d) refs) l
    let (s2, n) := passIssue s1 k
    .done (s2.modTile (s.phys l) (fun t => { t with strmQ := t.strmQ ++ [.arm q (s.seqr c).pc k n d refs false] }))

/-- The descriptor words that a remote read brought are used up. -/
def dropDesc (s : State) (c : Core) : State := s.modSeqr c (fun q => { q with desc := none })

/-- The descriptor of a tile's arm: in Millpond, or at a global address, which is read over the fabric when it names another
device. R253, R255, R277. -/
def armTileAt (s : State) (c : Core) (l : Nat) (r : Run) (k : Nat) (ea : W64) : Iss :=
  let a := ea.toNat
  if a % 64 ≠ 0 then .fault s .operandInvalid
  else if a < 2 ^ 32 then
    (if mpRange s r l a false 64 ≠ .none then .fault s (mpRange s r l a false 64)
     else match mpPlace s r l a with
       | none => .fault s .operandInvalid
       | some pl =>
         let (s1, bs, st) := readBytes s pl 64
         armTile s1 c l r k bs (st == .ok))
  else if a < 2 ^ 63 then .fault s .operandInvalid
  else match (s.seqr c).desc with
    | some (b, ws) =>
      if b = ea then
        let ds := ws.map (fun w => classify w.2)
        let bytes := ws.flatMap (fun w => natToBytes (match classify w.2 with
          | .correctable p sym => correct w.1 p sym
          | _ => w.1).toNat 32)
        armTile (dropDesc s c) c l r k bytes (ds.all (fun x => x != .uncorrectable && x != .marked))
      else .stay (dropDesc s c)
    | none =>
      match globalAddr s r.rr.ctx a permRead 64 with
      | (s1, .flt f) => .fault s1 f
      | (s1, .here pl) =>
        let (s2, bs, st) := readBytes s1 pl 64
        armTile s2 c l r k bs (st == .ok)
      | (s1, .remote dev g off) =>
        if s1.hdr.outst.any (fun o => o.who == .desc c ea) then .stay s1
        else .stay (sendReq s1 dev g 1 0x03 1 (gAddr dev off) 0 [] (.desc c ea))

/-- An arm by a Miller core: its descriptor lies in the core's own address space. R258, R349, R722. -/
def armSvc (s : State) (c : Core) (m k : Nat) (ea : W64) : Iss :=
  if ea.toNat % 64 ≠ 0 then .fault s .operandInvalid
  else
    let bs := s.bytes (svcKey m ea.toNat) 64
    let d := strmDesc bs
    let flt := firstFlt ([faultIf (!strmFieldsOk bs d false 0 0) .operandInvalid, mcastFlt s k { ctx := d.ctx, service := some m } d] ++
      strmPlaces s d.ctx d ++ strmStates s c k d)
    if flt ≠ .none then .fault s flt
    else if (s.slot k).st ≠ .free then .stay s
    else
      let refs := strmRefs s d.ctx d
      .done (startStrm (passIssue (takeRefs (attachRings s k d) refs) k).1 k d.ctx none none (some m) 0xFFFFFFFF d refs false)

/-- R277, R349, R722. -/
def execStrmArm (c : Core) (g : Guard) (ab : BitVec 4) (slot : BitVec 6) (off : BitVec 32) (s : State) :
    Host.Outcome State Fault Refusal :=
  issue s c g {} (fun s =>
    let ea := effAddr (s.seqr c) ab off
    match slotOf s c slot.toNat, c with
    | none, _ => .fault s .operandInvalid
    | some k, .tile l => onTile s c (fun _ r => armTileAt s c l r k ea)
    | some k, .miller m => armSvc s c m k ea)

/-! ## strm.rearm, strm.wait, strm.halt -/

/-- The next pass of a persistent stream starts with its new bases. R278, R350, R355. -/
def rearmSlot (s : State) (k : Nat) (data index : Option W64) (halt : Bool) : State :=
  let sl := s.slot k
  match sl.desc with
  | none => s
  | some d =>
    let d' := { d with dataBase := data.getD d.dataBase, indexBase := index.getD d.indexBase }
    let s1 := dropRefs s sl.refs
    let refs := strmRefs s1 sl.ctx d'
    (takeRefs s1 refs).modSlot k (fun y => { y with desc := some d', refs := refs, reported := [] }.launch {} 0 0 |>.askHalt halt)

/-- R278, R279, R723. -/
def execStrmRearm (c : Core) (g : Guard) (slot : BitVec 6) (sa sb : BitVec 5) (kd ki : Bool) (s : State) :
    Host.Outcome State Fault Refusal :=
  issue s c g { wf := wfRearm sa sb kd ki, reads := (if kd then [] else [sa]) ++ (if ki then [] else [sb]) } (fun s =>
    let q := s.seqr c
    let data := if kd then none else some (q.s sa)
    let index := if ki then none else some (q.s sb)
    match slotOf s c slot.toNat with
    | none => .fault s .operandInvalid
    | some k =>
      match issStream s c k, c with
      | none, _ => .fault s .operandInvalid
      | some d, .tile l =>
        if !d.persist then .fault s .operandInvalid
        else if 8 ≤ (s.tile (s.phys l)).strmQ.length then .stay s
        else
          let (s1, i) := takeIseq s l
          let (s2, n) := passIssue s1 k
          .done (s2.modTile (s.phys l) (fun t => { t with strmQ := t.strmQ ++ [.rearm i q.pc k n data index false] }))
      | some d, .miller _ =>
        if !d.persist then .fault s .operandInvalid
        else if (s.slot k).st = .passDone then .done (rearmSlot (passIssue s k).1 k data index false) else .stay s)

/-- The first `n` passes of slot `k` have ended. R280, R723. -/
def passOver (s : State) (k n : Nat) : Bool := decide (n ≤ passesEnded s k)

/-- R280, R723. -/
def execStrmWait (c : Core) (g : Guard) (slot : BitVec 6) (s : State) : Host.Outcome State Fault Refusal :=
  issue s c g {} (fun s =>
    match slotOf s c slot.toNat with
    | none => .fault s .operandInvalid
    | some k => if passOver s k (passesIssued s k) then .done s else .hold s (.strm k (passesIssued s k)))

/-- A halt is noted in the queued arm or re-arm that starts pass `n` of slot `k`. R281 -/
def StrmOp.noteHalt (k n : Nat) : StrmOp → StrmOp
  | .arm q pc j m d refs h => .arm q pc j m d refs (h || (j == k && m == n))
  | .rearm q pc j m data index h => .rearm q pc j m data index (h || (j == k && m == n))
  | .post q r => .post q r

/-- An operation that starts a pass. -/
def StrmOp.starts : StrmOp → Bool
  | .arm _ _ _ _ _ _ _ => true
  | .rearm _ _ _ _ _ _ _ => true
  | .post _ _ => false

/-- The queued operation of any tile of the core's run that starts pass `n` of slot `k` is to halt when it starts. -/
def noteHalt (s : State) (c : Core) (k n : Nat) : State :=
  match c with
  | .tile l => match s.runOf l with
    | some r => r.rr.tileList.foldl (fun (s : State) j => s.modTile (s.phys j) (fun t =>
        { t with strmQ := t.strmQ.map (StrmOp.noteHalt k n) })) s
    | none => s
  | .miller _ => s

/-- The stream that the slot holds in the issue-order state halts at its next transfer boundary: that of the arm issued last, if it is
still queued, else of the pass that runs, else of the next queued re-arm. R202, R281, R723. -/
def haltStrm (s : State) (c : Core) (k : Nat) : State :=
  match lastArm s c k with
  | some o => noteHalt s c k o.1
  | none =>
    if (s.slot k).st = .running then s.modSlot k (fun y => { y with haltReq := true })
    else if (s.slot k).st = .passDone then
      match rearmsOf (queuedBy s c k) with
      | n :: ns => noteHalt s c k (listMin n ns)
      | [] => s
    else s

/-- A running stream will halt at its next transfer boundary; one that waits in the queue, at its first. R281, R723. -/
def execStrmHalt (c : Core) (g : Guard) (slot : BitVec 6) (s : State) : Host.Outcome State Fault Refusal :=
  issue s c g {} (fun s =>
    match slotOf s c slot.toNat with
    | none => .fault s .operandInvalid
    | some k => .done (haltStrm s c k))

/-! ## Release (R222, R224, R287) -/

/-- A queued or started operation of the bin path that writes: a close, or a preload that clears. -/
def BinOp.writesBefore (n : Nat) : BinOp → Bool
  | .opn o => o.clear && decide (o.iseq < n)
  | .cls o => decide (o.iseq < n)

/-- Stores and atomics of a tile issued before `n`, table saves and clearing preloads among them, are acknowledged. R224. -/
def fencedBefore (s : State) (l n : Nat) : Bool :=
  let t := s.tile (s.phys l)
  !t.atomQ.any (fun a => a.kind != .arrive && decide (a.iseq < n)) &&
  !(t.hopQ ++ t.hopRun.toList).any (fun o => match o with
    | .save i _ _ _ => decide (i < n)
    | .build _ _ => false
    | .load _ _ => false) &&
  !(t.binQ ++ t.binRun.toList).any (fun o => match o with
    | .opn o => o.clear && decide (o.iseq < n)
    | .cls _ => false)

/-- Every write of a tile issued before `n` is acknowledged: with those of `fence`, closes and attention operations. R222. -/
def releasedBefore (s : State) (l n : Nat) : Bool :=
  let t := s.tile (s.phys l)
  fencedBefore s l n && !(t.binQ ++ t.binRun.toList).any (BinOp.writesBefore n) && !t.closes.any (fun c => decide (c.op.iseq < n)) &&
  !s.engines.any (fun e => (e.2.queue ++ (match e.2.run with
    | some r => [r.op]
    | none => [])).any (fun o => o.tile == l && decide (o.iseq < n)))

/-! ## Starts -/

/-- What the head of the Hopper queue waits for: a build or load for earlier lookups of its half (R40), and blocks (R205). -/
def hopCauses (s : State) (l : Nat) (t : Tile) (o : HopOp) : List Cause :=
  let looks (n : Nat) (h : Bool) : Bool :=
    t.lookQ.any (fun x => decide (x.iseq < n) && x.half == h) || (match t.lookRun with
      | some x => decide (x.op.iseq < n) && x.op.half == h
      | none => false)
  (if (match o with
    | .build n b => looks n b.half
    | .load n b => looks n b.half
    | .save _ _ _ _ => false) then [.table] else []) ++
  (if blocked s l o.foot.iseq o.foot.reads o.foot.writes then [.bank] else [])

/-- R39, R40: the Hopper works in order; a build into a half waits for earlier lookups of that half. -/
def hopReady (s : State) (l : Nat) (t : Tile) (o : HopOp) : Bool := (hopCauses s l t o).isEmpty

def startHop (s : State) (l : Nat) : State :=
  let t := s.tile (s.phys l)
  match t.hopQ.head?, t.hopRun with
  | some o, none => if hopReady s l t o then s.modTile (s.phys l) (fun t => { t with hopQ := t.hopQ.drop 1, hopRun := some o }) else s
  | _, _ => s

/-- The operation of a stream and ring queue that can start first: arms and re-arms start in the order of issue among themselves and
those of one slot whichever tile issued them, and so do posts, but a post does not wait for an arm or a re-arm whose slot is not ready.
R202, R204, R278, R279, R287, R722. -/
def startable (s : State) (l : Nat) (q : List StrmOp) : Option StrmOp :=
  let arms := (q.filter StrmOp.starts).head?
  let posts := (q.filter (fun o => !o.starts)).head?
  (arms.toList ++ posts.toList).find? (fun o => match o with
    | .arm _ _ k n _ _ _ => (s.slot k).st == .free && passesEnded s k + 1 == n
    | .rearm _ _ k n _ _ _ => (s.slot k).st == .passDone && passesEnded s k + 1 == n
    | .post n _ => releasedBefore s l n)

/-- The stream and ring queue: an arm of a free slot, a re-arm of a stream whose pass is over, or a post whose release is complete.
R278, R279, R287, R722. -/
def startStrmQ (s : State) (l : Nat) : State :=
  let p := s.phys l
  let q := (s.tile p).strmQ
  match startable s l q, s.runOf l with
  | some o, some r =>
    let s1 := s.modTile p (fun t => { t with strmQ := q.erase o })
    match o with
    | .arm _ _ k _ d refs halt => startStrm s1 k r.rr.ctx (some r.rid) (some l) none (BitVec.ofNat 32 r.rr.seqno) d refs halt
    | .rearm _ _ k _ data index halt => rearmSlot s1 k data index halt
    | .post _ n => s1.modRing n Ring.post
  | _, _ => s

/-- A unit of a tile takes the operation that its queue gives it next, when what it waits for is there. R204. -/
def execQueuedOperationStart (l : Nat) (u : TileUnit) (s : State) : Host.Outcome State Fault Refusal :=
  .next (match u with
    | .hopper => startHop s l
    | .lookup => startLook s l
    | .bin => startBin s l
    | .stream => startStrmQ s l)

end Sys2Proof.Machine
end

