-- ==== Sys2Proof/Machine/Attention.lean ====
section
/-! DEFINITION. Attention engines (04): the issue of `attn` (06, R275), query conversion, the scores, softmax and value mix of a
page, parts, results and poison. -/

namespace Sys2Proof.Machine
open Sys2Proof

/-! ## The descriptor (R154, R155) -/

def attnDesc (r : Run) (l : Nat) (bs : List Byte) : AttnDesc :=
  let mp (o : Nat) : Nat := (mpNorm r l (fieldAt bs o 4)).getD (fieldAt bs o 4)
  { sluice := opt16 (fieldAt bs 54 2), partIndex := fieldAt bs 52 2, nParts := fieldAt bs 50 2, mode := fieldAt bs 49 1 % 4,
    outFmt := fieldAt bs 48 1 % 16, qFmt := fieldAt bs 47 1 / 16, kvFmt := fieldAt bs 47 1 % 16, g := fieldAt bs 46 1,
    w := fieldAt bs 44 2, pageCount := fieldAt bs 42 2, pageFirst := fieldAt bs 40 2, partAddr := field64 bs 32,
    ptAddr := field64 bs 24, seqLen := fieldAt bs 20 4, hdrAddr := mp 16, outQscale := field32 bs 12, outAddr := mp 8,
    scoreScale := field32 bs 4, qAddr := mp 0 }

/-- Bytes of a query head and of an output. -/
def AttnDesc.qBytes (d : AttnDesc) : Nat := d.g * d.w * codeWidth d.qFmt
def AttnDesc.outBytes (d : AttnDesc) : Nat := d.g * d.w * codeWidth d.outFmt
def AttnDesc.hdrBytes (d : AttnDesc) : Nat := 8 * ceilDiv d.outBytes 4096

/-- Reserved bits, codes, ranges and alignments. R154, R155. -/
def attnFieldsOk (bs : List Byte) (d : AttnDesc) : Bool :=
  fieldAt bs 56 8 == 0 && decide (fieldAt bs 49 1 < 3) && decide (fieldAt bs 48 1 < 16) &&
  decide (1 ≤ d.g) && decide (d.g ≤ 16) && decide (4 ≤ d.w) && decide (d.w ≤ 256) && d.w % 4 == 0 && decide (d.g * d.w ≤ 4096) &&
  fmtIs isInputFmt d.qFmt && fmtIs isKvFmt d.kvFmt && fmtIs isOutFmt d.outFmt &&
  decide (1 ≤ d.seqLen) && decide (d.seqLen ≤ 1048576) && decide (d.pageFirst < 16384) &&
  (d.mode != 0 || decide (64 * d.pageFirst < d.seqLen)) &&
  (d.mode == 0 || (decide (1 ≤ d.nParts) && decide (d.nParts ≤ 1024))) &&
  (if d.mode = 1 then decide (d.partIndex < d.nParts) else d.partIndex == 0) &&
  d.ptAddr.toNat % 8 == 0 && d.hdrAddr % 8 == 0 && d.outAddr % 32 == 0 && d.qAddr % 32 == 0

/-- An O-bank field. -/
def obankFlt (s : State) (r : Run) (l a n : Nat) : Flt :=
  match mpTarget r l a with
  | none => .operandInvalid
  | some (_, off) => if !inBank 2 off n then .operandInvalid else fieldRange s r l a true n

/-- The places that the descriptor names: the whole extent of a field that its mode uses, of any other the address itself. R155, R194.
DESIGN CHOICE (log 59) of the bytes that `a Millpond address` covers. -/
def attnPlaces (s : State) (r : Run) (l : Nat) (d : AttnDesc) : List Flt :=
  (if d.mode = 2 then [outsideFlt s r l d.qAddr] else [fieldRange s r l d.qAddr false d.qBytes]) ++
  (if d.mode = 1 then [outsideFlt s r l d.outAddr, outsideFlt s r l d.hdrAddr]
   else [obankFlt s r l d.outAddr d.outBytes, obankFlt s r l d.hdrAddr d.hdrBytes]) ++
  [faultIf (match d.sluice with
    | some n => decide ((s.ctx r.rr.ctx).bind.sltCount ≤ n)
    | none => false) .operandInvalid]

/-- R152, R153, R155, R275, R719. -/
def execAttn (c : Core) (g : Guard) (ab eng : BitVec 4) (off : BitVec 32) (s : State) : Host.Outcome State Fault Refusal :=
  issue s c g { svc := false } (fun s => onTile s c (fun l r =>
    let ea := (effAddr (s.seqr c) ab off).toNat
    let f0 := firstFlt [faultIf (ea % 64 != 0) .operandInvalid, mpRange s r l ea false 64]
    if f0 ≠ .none then .fault s f0
    else match mpPlace s r l ea with
      | none => .fault s .operandInvalid
      | some pl =>
        let (s1, bs, st) := readBytes s pl 64
        let d := attnDesc r l bs
        let flt := firstFlt ([faultIf (st != .ok) .eccUncorrectable, faultIf (!attnFieldsOk bs d) .operandInvalid] ++
          attnPlaces s r l d ++ [faultIf (r.engines[eng.toNat]?).isNone .operandInvalid])
        if flt ≠ .none then .fault s1 flt
        else match r.engines[eng.toNat]? with
          | none => .fault s1 .operandInvalid
          | some e =>
            if 8 ≤ (s.engine e).queue.length then .hold s (.attnRoom e)
            else
              let (s2, q) := takeIseq s1 l
              .done (s2.modEngine e (fun x => { x with queue := x.queue ++ [{ tile := l, iseq := q, pc := (s.seqr c).pc, desc := d }] }))))

/-! ## Start: query conversion (R156) and the flume's pass (R149) -/

/-- The flume slot of device engine e. R149. -/
def flumeSlot (e : Nat) : Nat := 256 * (e / 12) + 32 * (e % 12 % 8) + 31 - e % 12 / 8

/-- The run that holds an engine. -/
def engineRun (s : State) (e : Nat) : Option Run := (s.engine e).grant.bind (s.run? (e / 12))

/-- A query head: its blocks of 64 positions, zero at and beyond W, and its poison. R156. -/
def queryHead (f : Fmt) (vs : List (Nat × Bool)) : Head :=
  let xs := vs.map (elemOf (inputValue f))
  let n := ceilDiv xs.length 64
  let bl := (chunks 64 (xs ++ List.replicate (64 * n - xs.length) (.zero false)) n).map bs12
  { blocks := bl.map (fun b => (b.1, b.2.1)), poison := bl.any (fun b => b.2.2), o := vs.map (fun _ => 0) }

/-- The heads at the start of an operation. -/
def startHeads (s : State) (r : Run) (op : AttnOp) : State × List Head :=
  let d := op.desc
  let f := (fmtOf d.qFmt).getD .int8
  if d.mode = 2 then (s, (List.range d.g).map (fun _ => { o := List.replicate d.w 0 }))
  else match mpPlace s r op.tile d.qAddr with
    | none => (s, [])
    | some pl =>
      let (s1, vs) := readVals s pl (fmtBytes f) (d.g * d.w)
      (s1, (chunks d.w vs d.g).map (queryHead f))

/-- The operation reads pages: every mode but COMBINE, unless its range is empty. -/
def AttnDesc.visits (d : AttnDesc) : Nat := if d.mode = 2 then 0 else d.pages

/-- The head of an engine's queue starts, and its flume stream begins a pass. R149, R152. -/
def execAttnOperationStart (e : Nat) (s : State) : Host.Outcome State Fault Refusal :=
  let k := flumeSlot e
  .next (match (s.engine e).run, (s.engine e).queue.head?, engineRun s e with
    | none, some op, some r =>
      let f := op.desc.foot op.iseq
      if (s.engine e).unit.st ≠ .on ∨ r.phase ≠ .active ∨ blocked s op.tile op.iseq f.reads f.writes then s
      else if (s.slot k).st ≠ .free ∧ (s.slot k).st ≠ .passDone then s
      else
        let (s1, hs) := startHeads s r op
        let s2 := s1.modEngine e (fun x => { x with queue := x.queue.drop 1, run := some { op := op, heads := hs, page := 0 }, flume := [] })
        let s3 := if op.desc.visits = 0 then s2
          else s2.modSlot k (fun y => { y with ctx := r.rr.ctx, run := some r.rid, engine := some e, reported := [],
                                               seqno := BitVec.ofNat 32 r.rr.seqno }.launch {} 0 0)
        progress s3 (e / 12) r.rid
    | _, _, _ => s)

/-! ## A page (R157 to R166, R170) -/

/-- Bit n of a page. R142. -/
def FlumePage.bit (p : FlumePage) (n : Nat) : Bool := (tget 0 p.words (n / 256)).getLsbD (n % 256)

/-- 16 bits of a page at byte o. -/
def FlumePage.half (p : FlumePage) (o : Nat) : Nat := bitsOf (tget 0 p.words (o / 32)).toNat (8 * (o % 32)) 16

/-- Four bits from bit position n on. -/
def FlumePage.index (p : FlumePage) (n : Nat) : Nat :=
  (List.range 4).foldl (fun a x => if p.bit (n + x) then a + 2 ^ x else a) 0

/-- First bit of key plane p and of value plane p. R141. -/
def keyPlane (w p : Nat) : Nat := 8 * (256 + 8 * w * p)
def valPlane (b w p : Nat) : Nat := 8 * (256 + 8 * b * w + 8 * w * p)

/-- Words of a page that hold bits or scales of token slot t. R141, R142. -/
def tokenWords (b w t : Nat) : List Nat :=
  [16 * t / 256, (1024 + 16 * t) / 256] ++
  (List.range b).flatMap (fun p =>
    let lo := keyPlane w p + w * t
    (List.range ((lo + w - 1) / 256 - lo / 256 + 1)).map (fun i => lo / 256 + i)) ++
  (List.range b).flatMap (fun p => (List.range w).map (fun d => (valPlane b w p + 64 * d + t) / 256))

/-- Lookups of one block against bit strings: Σ_p π_p Σ_groups T[index]. R157 to R159, R165, R166. -/
def planeSum (b : Nat) (ms : List Int) (idx : Nat → Nat → Nat) : Int :=
  ((List.range b).map (fun p =>
    planeWeight b p * (((chunks 4 ms (ms.length / 4)).zipIdx).map (fun g => planeWord g.1 (idx p g.2))).foldl (· + ·) 0)).foldl (· + ·) 0

/-- The score of token slot t. Groups whose dimensions lie beyond W have mantissas of zero. R158, R159. -/
def score (d : AttnDesc) (pg : FlumePage) (h : Head) (t : Nat) : W32 :=
  let b := kvBits d.kvFmt
  let raw := (h.blocks.zipIdx).foldl (fun raw x =>
    let n := planeSum b x.1.2 (fun p j => if d.w ≤ 64 * x.2 + 4 * j then 0 else pg.index (keyPlane d.w p + d.w * t + 64 * x.2 + 4 * j))
    rne32 ((f32 raw).add (if n = 0 then .zero false else .fin n ((x.1.1 : Int) - 137)))) (0 : W32)
  sat32 (((f32 raw).mul (fdecode fmtBf16 (pg.half (2 * t)))).mul (f32 d.scoreScale))

/-- A page's effect on one head: softmax and value mix over the visible slots `ts`. R77, R162 to R166, R170. -/
def mixPage (d : AttnDesc) (pg : FlumePage) (ts : List Nat) (h : Head) : Head :=
  let b := kvBits d.kvFmt
  let sc := ts.map (fun t => (t, score d pg h t))
  match sc with
  | [] => h
  | x :: xs =>
    let mp := xs.foldl (fun m y => fmax32 m y.2) x.2
    let mn := fmax32 h.m mp
    let alpha : W32 := if h.m = 0xFF800000 then 0 else expT (fsub32 h.m mn)
    let ps := sc.map (fun y => (y.1, expT (fsub32 y.2 mn)))
    let sum := ps.foldl (fun a y => fadd32 a y.2) 0
    let l := rne32 (((f32 h.l).mul (f32 alpha)).add (f32 sum))
    let r := (List.range 64).map (fun t => match ps.find? (fun y => y.1 == t) with
      | some y => f32 (rne32 ((f32 y.2).mul (fdecode fmtBf16 (pg.half (128 + 2 * t)))))
      | none => .zero false)
    let (s, ms, pz) := bs12 r
    let nan := (f32 d.scoreScale).bad || sc.any (fun y => (f32 y.2).isNan || (fdecode fmtBf16 (pg.half (2 * y.1))).bad ||
      (fdecode fmtBf16 (pg.half (128 + 2 * y.1))).bad)
    { h with
      poison := h.poison || pz || nan
      m := mn, l := l
      o := (h.o.zipIdx).map (fun y =>
        let n := planeSum b ms (fun p u => pg.index (valPlane b d.w p + 64 * y.2 + 4 * u))
        rne32 (((f32 y.1).mul (f32 alpha)).add (if n = 0 then .zero false else .fin n ((s : Int) - 137)))) }

/-- Visible slots of the page that holds logical page k. R154, R160. -/
def visible (d : AttnDesc) (k : Nat) : List Nat := (List.range 64).filter (fun t => decide (64 * k + t < d.seqLen))

/-- The engine consumes the next page in logical order, once it is posted. R162, R167, R170. -/
def execAttnPage (e : Nat) (s : State) : Host.Outcome State Fault Refusal :=
  .next (match (s.engine e).run, engineRun s e with
    | some a, some r =>
      let d := a.op.desc
      (match (s.engine e).flume.find? (fun p => p.elem == a.page) with
       | none => s
       | some pg =>
         if !pg.posted || r.phase != .active || decide (d.visits ≤ a.page) then s
         else
           let ts := visible d (d.pageFirst + a.page)
           let bad := ts.any (fun t => (tokenWords (kvBits d.kvFmt) d.w t).any (fun w => pg.bad.contains w))
           let hs := a.heads.map (fun h => let h1 := mixPage d pg ts h; { h1 with poison := h1.poison || bad })
           progress (s.modEngine e (fun x => { x with
             run := some { a with heads := hs, page := a.page + 1 }
             flume := x.flume.filter (fun p => p.elem != a.page) })) (e / 12) r.rid)
    | _, _ => s)

/-! ## Faults of an operation (R720) -/

/-- FAULT_TILE of an engine. R231. -/
def engineTile (r : Run) (e : Nat) : Nat := 128 + (r.engines.filter (fun x => decide (x < e))).length

/-- A failed access of an operation ends its run: a sub-word write of a word that holds no good data in the machine class. -/
def failAttn (s : State) (e : Nat) (r : Run) (op : AttnOp) (f : Flt) (p : Option Nat) : State :=
  let s1 := match p with
    | some p => s.modTile p (fun t => { t with machineFaults := t.machineFaults + 1 })
    | none => s
  faultRun s1 (e / 12) r.rid f (some (op.pc - r.rr.progAddr)) (engineTile r e) (if p.isSome then clsMachine else clsOperation)

/-! ## Part records (R171, R172) -/

/-- Bytes of a part record, and where that of part k and head i lies. -/
def AttnDesc.partBytes (d : AttnDesc) : Nat := 4 * d.w + 32
def AttnDesc.partAt (d : AttnDesc) (k i : Nat) : Nat :=
  (d.partAddr + BitVec.ofNat 64 ((k * d.g + i) * d.partBytes)).toNat

/-- The record of a head. -/
def partRecord (d : AttnDesc) (empty : Bool) (h : Head) : List Byte :=
  h.o.flatMap (fun v => natToBytes v.toNat 4) ++ natToBytes h.m.toNat 4 ++ natToBytes h.l.toNat 4 ++
  natToBytes ((if h.poison then 1 else 0) + if empty then 2 else 0) 1 ++ natToBytes 0 (d.partBytes - (4 * d.w + 9))

/-- Bytes written at an address of a context, word by word; the requests sent, and the first failure. R720. -/
def engWrite (ctx e : Nat) (k : KvSt) (a : Nat) (bs : List Byte) : Nat → KvSt
  | 0 => k
  | fuel + 1 =>
    if bs.isEmpty || k.flt != .none then k
    else
      let n := min bs.length (32 - a % 32)
      let v := bytesToNat (bs.take n)
      let k1 : KvSt := match ctxAddr k.s ctx a permWrite n false with
        | (s1, .flt f) => { k with s := s1, flt := f }
        | (s1, .here pl) =>
          let (s2, f) := if n = 32 then (writeWord s1 pl (BitVec.ofNat 256 v, 0), Flt.none) else writeSub s1 pl n v
          { k with s := s2, flt := f, cls := if f = .none then k.cls else clsMachine }
        | (s1, .remote dev g off) =>
          { k with s := sendReq s1 dev g 1 0x02 0 (gAddr dev (off / 32 * 32)) (BitVec.ofNat 64 ((2 ^ n - 1) * 2 ^ (off % 32)))
                          [(BitVec.ofNat 256 (v * 2 ^ (8 * (off % 32))), 0)] (.engine e), sent := k.sent + 1 }
      engWrite ctx e k1 (a + n) (bs.drop n) fuel

/-- A word of a part record: from those already read, from its memory, or asked for over the fabric. -/
def engWord (s : State) (ctx e a : Nat) : State × FW (BitVec 256) :=
  match (s.engine e).run with
  | none => (s, .wait)
  | some x =>
    match x.fetched.find? (fun f => f.word == a / 32) with
    | some f => (s, .ok f.data f.good)
    | none =>
      match ctxAddr s ctx (a / 32 * 32) permRead 32 false with
      | (s1, .flt f) => (s1, .flt f a)
      | (s1, .here pl) =>
        let (s2, d, st) := readWord s1 pl
        (s2.modEngine e (fun y => { y with run := y.run.map (fun x => { x with
          fetched := x.fetched ++ [{ word := a / 32, data := d, good := st == .ok }] }) }), .ok d (st == .ok))
      | (s1, .remote dev g off) =>
        if s1.hdr.outst.any (fun o => o.who == .engineWord e (a / 32)) then (s1, .wait)
        else (sendReq s1 dev g 1 0x01 0 (gAddr dev off) 0 [] (.engineWord e (a / 32)), .wait)

/-- The words that hold `n` bytes from `a`: their bytes with the worst outcome, none while some are still to come. -/
def engWords (s : State) (ctx e a : Nat) : Nat → State × Except Flt (Option (List Byte × Bool))
  | 0 => (s, .ok (some ([], true)))
  | n + 1 =>
    match engWord s ctx e a with
    | (s1, .flt f _) => (s1, .error f)
    | (s1, w) =>
      match engWords s1 ctx e (a + 32) n, w with
      | (s2, .error f), _ => (s2, .error f)
      | (s2, .ok (some (bs, g))), .ok d g0 => (s2, .ok (some (natToBytes d.toNat 32 ++ bs, g && g0)))
      | (s2, _), _ => (s2, .ok none)

/-- One part merged into a head. R172. -/
def mergePart (d : AttnDesc) (bs : List Byte) (good : Bool) (h : Head) : Head :=
  let flags := fieldAt bs (4 * d.w + 8) 1
  if !good then { h with poison := true }
  else
    let h1 := { h with poison := h.poison || flags.testBit 0 }
    if flags.testBit 1 then h1
    else
      let mk := field32 bs (4 * d.w)
      let mn := fmax32 h.m mk
      let a := expT (fsub32 h.m mn)
      let c := expT (fsub32 mk mn)
      let mix (x y : W32) : W32 := rne32 (((f32 x).mul (f32 a)).add ((f32 y).mul (f32 c)))
      { h1 with m := mn, l := mix h.l (field32 bs (4 * d.w + 4)), o := (h.o.zipIdx).map (fun x => mix x.1 (field32 bs (4 * x.2))) }

/-- The parts `k` on of head i, merged in ascending index; with whether any was not EMPTY. None while words are still to come. -/
def mergeParts (s : State) (ctx e : Nat) (d : AttnDesc) (i k : Nat) (h : Head) (some_ : Bool) :
    Nat → State × Except Flt (Option Head)
  | 0 => (s, .ok (some { h with poison := h.poison || !some_ }))
  | n + 1 =>
    let a := d.partAt k i
    match engWords s ctx e a (ceilDiv (a % 32 + d.partBytes) 32) with
    | (s1, .error f) => (s1, .error f)
    | (s1, .ok none) =>
      (match mergeParts s1 ctx e d i (k + 1) h some_ n with
       | (s2, .error f) => (s2, .error f)
       | (s2, .ok _) => (s2, .ok none))
    | (s1, .ok (some (ws, good))) =>
      let bs := (ws.drop (a % 32)).take d.partBytes
      mergeParts s1 ctx e d i (k + 1) (mergePart d bs good h) (some_ || !good || !(fieldAt bs (4 * d.w + 8) 1).testBit 1) n

/-- Every head merged from its parts. -/
def mergeHeads (s : State) (ctx e : Nat) (d : AttnDesc) (i : Nat) : List Head → State × Except Flt (Option (List Head))
  | [] => (s, .ok (some []))
  | h :: hs =>
    match mergeParts s ctx e d i 0 h false d.nParts with
    | (s1, .error f) => (s1, .error f)
    | (s1, .ok x) =>
      match mergeHeads s1 ctx e d (i + 1) hs, x with
      | (s2, .error f), _ => (s2, .error f)
      | (s2, .ok (some ys)), some y => (s2, .ok (some (y :: ys)))
      | (s2, _), _ => (s2, .ok none)

/-! ## Results (R168 to R173) -/

/-- The elements of an output, in the bits of OUT_FMT. R168, R170, R715. -/
def attnEls (d : AttnDesc) (hs : List Head) : List OutEl :=
  let f := (fmtOf d.outFmt).getD .int8
  (hs.zipIdx).flatMap (fun h => (h.1.o.zipIdx).map (fun x =>
    ((h.2 * d.w + x.2) * fmtBytes f,
     stage5 f d.outQscale { r := h.2, c := x.2, y := fdiv32 x.1 h.1.l, poison := h.1.poison })))

/-- Outputs and their headers; POISON_CONSUMED once for an operation that writes a poisoned element. R169, R170. -/
def attnOutput (s : State) (e : Nat) (r : Run) (op : AttnOp) (hs : List Head) : State × Flt :=
  let d := op.desc
  let es := attnEls d hs
  match mpTarget r op.tile d.outAddr, mpTarget r op.tile d.hdrAddr with
  | some (t, o), some (u, h) =>
    let (s1, f) := writeOutputs s (s.phys t) o (s.phys u) h d.outFmt (codeWidth d.outFmt) es
    if f = .none ∧ es.any (fun x => x.2.2) then
      (postEvent s1 (some r.rr.ctx) { code := 1, sev := 1, srcKind := 2, srcDie := e / 12, srcIndex := e % 12, d0 := r.rr.seqno }, f)
    else (s1, f)
  | _, _ => (s, .fenced)

/-- The part records of an operation. R171. -/
def attnParts (s : State) (e : Nat) (r : Run) (op : AttnOp) (hs : List Head) : KvSt :=
  let d := op.desc
  let empty := !(List.range d.pages).any (fun k => !(visible d (d.pageFirst + k)).isEmpty)
  (hs.zipIdx).foldl (fun k h =>
    engWrite r.rr.ctx e k (d.partAt d.partIndex h.2) (partRecord d empty h.1) (d.partBytes / 32 + 2)) { s := s }

/-- The operation is complete: the engine is free, and arrives at its sluice. R173, R194, R325, R726. -/
def endAttn (s : State) (e : Nat) (r : Run) (op : AttnOp) : State :=
  let s1 := s.modEngine e (fun x => { x with run := none, flume := [] })
  match op.desc.sluice with
  | none => s1
  | some n =>
    if !sluiceOwned s1 r.rr.ctx n then faultRun s1 (e / 12) r.rid .fenced (some (op.pc - r.rr.progAddr)) (engineTile r e) clsOperation
    else match sluiceArrive s1 r.rr.ctx n with
    | (s2, .ok) => s2
    | (s2, st) =>
      let s3 := if st = .bad then s2.modTile (s2.phys op.tile) (fun t => { t with machineFaults := t.machineFaults + 1 }) else s2
      faultRun s3 (e / 12) r.rid .eccUncorrectable (some (op.pc - r.rr.progAddr)) (engineTile r e) clsMachine

/-- The results of an operation are written; it ends at once unless it has sent requests. -/
def writeAttn (s : State) (e : Nat) (r : Run) (a : AttnRun) (hs : List Head) : State :=
  if a.op.desc.mode = 1 then
    let k := attnParts s e r a.op hs
    if k.flt ≠ .none then failAttn k.s e r a.op k.flt (if k.cls = clsMachine then some (k.s.phys a.op.tile) else none)
    else if k.sent = 0 then endAttn k.s e r a.op
    else k.s.modEngine e (fun x => { x with run := x.run.map (fun y => { y with heads := hs, ending := true, remote := k.sent }) })
  else
    match attnOutput s e r a.op hs with
    | (s1, .none) => endAttn s1 e r a.op
    | (s1, .eccUncorrectable) => failAttn s1 e r a.op .eccUncorrectable (some (s1.phys a.op.tile))
    | (s1, f) => failAttn s1 e r a.op f none

/-- R168 to R173. -/
def execAttnOperationDone (e : Nat) (s : State) : Host.Outcome State Fault Refusal :=
  .next (match (s.engine e).run, engineRun s e with
    | some a, some r =>
      let d := a.op.desc
      if r.phase ≠ .active ∨ a.page < d.visits then s
      else if a.ending then (if a.remote = 0 then progress (endAttn s e r a.op) (e / 12) r.rid else s)
      else if d.mode = 2 then
        (match mergeHeads s r.rr.ctx e d 0 a.heads with
         | (s1, .error f) => failAttn s1 e r a.op f none
         | (s1, .ok none) => s1
         | (s1, .ok (some hs)) => progress (writeAttn s1 e r a hs) (e / 12) r.rid)
      else progress (writeAttn s e r a a.heads) (e / 12) r.rid
    | _, _ => s)

/-- An answer to a write of an engine; `word` where the target found a word that it could not modify. R317, R466. -/
def engineAnswer (s : State) (e : Nat) (f : Flt) (word : Bool) : State :=
  match (s.engine e).run, engineRun s e with
  | some a, some r =>
    if word then faultRun s (e / 12) r.rid f (some (a.op.pc - r.rr.progAddr)) (engineTile r e) clsMachine
    else if f ≠ .none then failAttn s e r a.op f none
    else s.modEngine e (fun x => { x with run := x.run.map (fun y => { y with remote := y.remote - 1 }) })
  | _, _ => s

end Sys2Proof.Machine
end

