-- ==== Sys2Proof/Machine/MemCmds.lean ====
section
/-! DEFINITION. The memory block's own work (10): the patrol scrubber and the sparing copy; invalidation of cached translations (R428)
and of cached rights and group entries (11, R479). -/

namespace Sys2Proof.Machine
open Sys2Proof

/-! ## Patrol scrub (R437) -/

/-- One word is checked. R437. -/
def scrubWord (s : State) (a : Nat) : State :=
  let w := s.word a
  match classify w.2 with
  | .clean => s
  | .marked => s
  | .correctable p sym => (countCe s (.hbm a)).setWord a (correct w.1 p sym, 0)
  | .uncorrectable => countUe s (.hbm a) 1

def scrubWords (s : State) (a : Nat) : Nat → State
  | 0 => s
  | n + 1 => scrubWords (scrubWord s a) (a + 32) n

/-- Stack blocks of a stack. R417. -/
def stackBlocks : Nat := 12582912

/-- R437: one stack block, while SCRUB_INT is not zero. -/
def execPatrolScrub (stack : Nat) (s : State) : Host.Outcome State Fault Refusal :=
  let t := s.stack stack
  .next (if 12 ≤ stack ∨ t.scrubInt = 0 then s
    else
      let s1 := scrubWords s (hbmBlockAddr stack t.scrubBlk) 128
      let last := decide (stackBlocks ≤ t.scrubBlk + 1)
      s1.modStack stack (fun t => { t with
        scrubBlk := if last then 0 else t.scrubBlk + 1
        scrubPasses := if last then (t.scrubPasses + 1) % 2 ^ 40 else t.scrubPasses }))

/-! ## Sparing (R442, R443) -/

/-- Words of a pseudo-channel, in stack blocks not yet copied, whose check bits do not match. -/
def channelErrors (s : State) (stk pc : Nat) : List Nat :=
  (s.chk.filter (fun c => decide (32 * c.1 < hbmEnd) && hbmStack (32 * c.1) == stk && hbmPc (32 * c.1) == pc &&
    decide ((s.stack stk).copied ≤ hbmSblk (32 * c.1)))).map (fun c => 32 * c.1)

/-- A word is copied corrected, or marked where it is uncorrectable. R443. -/
def copyWord (s : State) (a : Nat) : State :=
  let w := s.word a
  match classify w.2 with
  | .correctable p sym => s.setWord a (correct w.1 p sym, 0)
  | .uncorrectable => (countUe s (.hbm a) 2).setChk a kMark
  | _ => s

/-- The next 64 bytes of a stack's running copy move to their new place. R443. -/
def copyPiece (s : State) (stk : Nat) : State :=
  match (s.stack stk).sparing with
  | [] => s
  | pc :: _ =>
    let b := (s.stack stk).copied
    if stackBlocks ≤ b then s
    else
      let a := hbmBlockAddr stk b + 64 * pc
      (copyWord (copyWord s a) (a + 32)).modStack stk (fun t => { t with copied := b + 1 })

/-- Every running copy moves on. R443. -/
def copyPieces (s : State) : State := (s.memb.stks.map (fun t => t.1)).foldl copyPiece s

/-- The rest of the copy is made, and SPARE_ENGAGED is posted. R443. -/
def execSparingCopyDone (stack : Nat) (s : State) : Host.Outcome State Fault Refusal :=
  .next (match (s.stack stack).sparing with
    | [] => s
    | pc :: rest =>
      let s1 := ((channelErrors s stack pc).foldl copyWord s).modStack stack (fun t => { t with sparing := rest, copied := 0 })
      postEvent s1 none { code := 0x41, sev := 0, srcKind := 6, srcDie := stack / 3, srcIndex := stack, d0 := pc })

/-! ## Invalidation (R428, R479) -/

/-- The cached translations that no invalidation under way names. R428. -/
def keptXlat (m : MemBlk) : List XlatEntry := if m.invBusy then m.xlat.filter (fun x => !invalCovers m x.ctx x.level x.idx) else m.xlat

/-- MEM_XLAT_INVAL is written: DONE is cleared and the invalidation starts. One that is still under way is carried on with it: its
entries are dropped, and DONE waits for its context's accesses as well. R428. -/
def startXlatInval (s : State) (v : Nat) : State :=
  { s with memb := { s.memb with
      xlat := keptXlat s.memb
      invOld := if s.memb.invBusy then s.memb.invOld ++ [s.memb.invCtx] else s.memb.invOld
      invDone := false, invBusy := true, invHi := s.memb.invVa48, invAll := v.testBit 62, invCtx := bitsOf v 48 12, invVpage := bitsOf v 16 32, invCount := bitsOf v 0 16 } }

/-- R428. -/
def execMemXlatInvalWrite (val : W64) (va48 : Bool) (s : State) : Host.Outcome State Fault Refusal :=
  .next (startXlatInval { s with memb := { s.memb with invVa48 := va48 } } val.toNat)

/-- No cached copy of an entry of the range remains. R428. -/
def endXlatInval (s : State) : State :=
  if s.memb.invBusy then
    { s with memb := { s.memb with
        invBusy := false, invDone := true, invOld := [], xlat := keptXlat s.memb } }
  else s

/-- The context for which a requester works; one of service firmware that names none, or of Fantail, has none. -/
def reqCtx (s : State) : Requester → Option Nat
  | .load (.tile l) _ _ _ _ | .atom (.tile l) _ | .swap (.tile l) _ | .desc (.tile l) _ => (s.runOf l).map (fun r => r.rr.ctx)
  | .close l _ | .kvEntry l _ _ _ _ _ | .kvWord l _ _ _ _ => (s.runOf l).map (fun r => r.rr.ctx)
  | .strmWord k _ | .xferRead k _ _ | .xferWrite k _ => some (s.slot k).ctx
  | .engine e | .engineWord e _ => ((s.engine e).grant.bind (s.run? (e / 12))).map (fun r => r.rr.ctx)
  | .spillRead q _ | .spillWrite q => some (s.seqEnt q).ctx
  | .atom (.miller m) n => ((s.miller m).atomQ.find? (fun a => a.iseq == n)).bind (fun a => match a.kind with
    | .store _ => some a.ctx
    | _ => none)
  | _ => none

/-- The context for which a request was sent. -/
def OutReq.forCtx (o : OutReq) (s : State) : Option Nat := o.ctx.or (reqCtx s o.who)

/-- An access of context `c` that may have used an old entry is not complete: a request on the fabric without a response, or a transfer
of one of its streams in flight. -/
def ctxBusy (s : State) (c : Nat) : Bool :=
  s.hdr.outst.any (fun o => o.forCtx s == some c) ||
  s.mrcs.any (fun m => m.2.slots.any (fun k => k.2.st != .free && k.2.ctx == c && !k.2.xfers.isEmpty))

/-- An access that may have used an entry named by an invalidation under way is not complete. R428. -/
def invalWaits (s : State) : Bool := (s.memb.invCtx :: s.memb.invOld).any (ctxBusy s)

/-- R428: DONE once every access that used an old entry has completed. -/
def execXlatInvalDone (s : State) : Host.Outcome State Fault Refusal := .next (if invalWaits s then s else endXlatInval s)

/-- HDR_TBL_INVAL is written. R479. -/
def startTblInval (s : State) (v : Nat) : State :=
  { s with hdr := { s.hdr with invDone := false, invBusy := true, invKind := v.testBit 30, invIndex := bitsOf v 0 16 } }

/-- R479. -/
def execHdrTblInvalWrite (val : W32) (s : State) : Host.Outcome State Fault Refusal := .next (startTblInval s val.toNat)

/-- The named rights table or group entry is no longer cached. R479. -/
def endTblInval (s : State) : State :=
  if !s.hdr.invBusy then s
  else if s.hdr.invKind then
    { s with hdr := { s.hdr with invBusy := false, invDone := true, groupCache := s.hdr.groupCache.filter (fun x => x.1 != s.hdr.invIndex) } }
  else
    { s with hdr := { s.hdr with
        invBusy := false, invDone := true, rightsCache := s.hdr.rightsCache.filter (fun x => x.1 != s.hdr.invIndex % 4096) } }

/-- R479. -/
def execTblInvalDone (s : State) : Host.Outcome State Fault Refusal := .next (endTblInval s)

end Sys2Proof.Machine
end

