-- ==== Sys2Proof/Machine/Governor.lean ====
section
/-! DEFINITION. The Governors (05): run records, the checks and the dispatch of runs, their ends, faults and completion records,
watchdogs, ageing, stall counts, retired tiles, and the service instructions over runs and residency (06, R302 to R307). -/

namespace Sys2Proof.Machine
open Sys2Proof

/-! ## Run records (R188 to R190) -/

def runRec (bs : List Byte) : RunRec :=
  { args := (List.range 8).map (fun i => field64 bs (64 + 8 * i)),
    rsvd := decide (fieldAt bs 46 18 ≠ 0) || decide (fieldAt bs 36 2 ≠ 0) || decide (2 ≤ fieldAt bs 22 1) ||
      decide (4 ≤ fieldAt bs 18 1) || decide (4096 ≤ fieldAt bs 16 2),
    tileMask := fieldAt bs 40 6, cplRing := fieldAt bs 38 2, limit := fieldAt bs 32 4, regionList := fieldAt bs 24 8,
    nRegions := fieldAt bs 23 1, ver := (fieldAt bs 22 1).testBit 0, nGrist := fieldAt bs 21 1, nStrm := fieldAt bs 20 1,
    nAttn := fieldAt bs 19 1, die := fieldAt bs 18 1 % 4, ctx := fieldAt bs 16 2 % 4096, step := fieldAt bs 12 4,
    seqno := fieldAt bs 8 4, progAddr := field64 bs 0 }

/-- A region list entry that R189 and R190 allow. -/
def regionEntry (bs : List Byte) : Option Region :=
  let size := fieldAt bs 8 4
  let base := fieldAt bs 4 4
  if fieldAt bs 12 4 ≠ 0 ∨ 3 ≤ fieldAt bs 3 1 ∨ 2 ≤ fieldAt bs 2 1 ∨ fieldAt bs 0 2 ≠ 0 ∨ size = 0 ∨ size % 4096 ≠ 0 ∨ base % 4096 ≠ 0 then none
  else if inBank 0 base size || inBank 1 base size || inBank 2 base size then
    some { base := base, size := size, scope := fieldAt bs 3 1, rw := fieldAt bs 2 1 == 1 }
  else none

/-- The regions of a list read from memory; none where an entry is malformed or holds no good data. -/
def regionsOf (s : State) (rr : RunRec) : State × Option (List Region) :=
  match locate s rr.regionList with
  | none => (s, none)
  | some pl =>
    let (s1, bs, st) := readBytes s pl (16 * rr.nRegions)
    let rs := (chunks 16 bs rr.nRegions).map regionEntry
    (s1, if st = .ok ∧ rs.all Option.isSome then some (rs.filterMap id) else none)

/-- The state that GOV_TILE_STATE shows. R635. -/
def tileState (s : State) (l : Nat) : TileSt :=
  let t := s.ltile l
  match t.st with
  | .held => .held
  | .retiring => .retiring
  | .off => .off
  | .free => if (s.tile (s.phys l)).unit.st = .on then .free else .off

/-- R195: the first condition that a record breaks, with the regions of one that breaks none. -/
def checkRun (s : State) (rr : RunRec) : State × Except Flt (List Region) :=
  if rr.rsvd || decide (rr.nRegions = 0) || decide (16 < rr.nRegions) || decide (8 < rr.nGrist) || decide (64 < rr.nStrm) ||
      decide (12 < rr.nAttn) || decide (rr.tileMask = 0) || rr.progAddr.toNat % 8 != 0 || rr.regionList % 16 != 0 then
    (s, .error .operandInvalid)
  else if rr.tileList.any (fun l => tileState s l == .off) then (s, .error .operandInvalid)
  else match regionsOf s rr with
    | (s1, none) => (s1, .error .operandInvalid)
    | (s1, some rs) =>
      if !rr.tileList.all (fun l => rs.all (fun g => rangeOwned s1 rr.ctx (s1.phys l) g.base g.size)) then (s1, .error .fenced)
      else if s1.govs.any (fun g => g.2.runs.any (fun r => r.rr.ctx == rr.ctx && r.rr.step == rr.step && r.rr.ver != rr.ver &&
          (r.phase == .active || r.phase == .stopping) && r.faultClass != clsDispatch)) then (s1, .error .operandInvalid)
      else (s1, .ok rs)

/-! ## Ends of runs (R225, R228, R231) -/

/-- STATUS of a run's completion record. R231. -/
def Run.status (r : Run) : Nat :=
  if r.cancelled then 2 else if r.fault = .none then 0 else if r.faultClass = clsDispatch then 3 else 1

/-- What the firmware learns of a run's end. A run that it cancels because a sequencer stands halted has a fault of the halt class. R229. -/
def Run.outcome (r : Run) : RunOutcome :=
  { ctx := r.rr.ctx, seqno := r.rr.seqno, status := r.status, fault := if r.fault = .none then r.haltWhy else r.fault,
    cls := if r.fault = .none ∧ r.haltWhy ≠ .none then clsHalt else r.faultClass }

/-- The 64 bytes of a completion record. R231. -/
def cplBytes (r : Run) (ticks : Nat) : List Byte :=
  natToBytes r.rr.seqno 4 ++ natToBytes 0 2 ++ natToBytes r.rr.ctx 2 ++ natToBytes 0 1 ++ natToBytes r.status 1 ++
  natToBytes r.fault.code 1 ++ natToBytes r.faultTile 1 ++
  natToBytes (match r.faultPc with
    | some p => p.toNat
    | none => 0xFFFFFFFF) 4 ++
  natToBytes (min ticks 0xFFFFFFFF) 4 ++ (List.range 11).flatMap (fun c => natToBytes (tget 0 r.stall c) 4)

/-- Step 5 of R228: the completion record, once CPL_RING has a free entry. GOV_FAULT_CNT counts FAULTED and REJECTED runs. -/
def writeCpl (s : State) (d rid : Nat) : State :=
  match s.run? d rid with
  | none => s
  | some r =>
    if r.phase = .ended ∧ (s.ring r.rr.cplRing).kind = .internal ∧ (s.ring r.rr.cplRing).room then
      (pushRecord s r.rr.cplRing (cplBytes r (r.endTick - r.startTick))).modGov d (fun g => { g with
        runs := g.runs.filter (fun x => x.rid != rid)
        faultCnt := if r.status = 1 ∨ r.status = 3 then satAdd 32 g.faultCnt 1 else g.faultCnt
        outcomes := g.outcomes ++ [r.outcome] })
    else s

/-- A run that never started reaches step 5 at once. -/
def endUnstarted (s : State) (d rid : Nat) (f : Run → Run) : State :=
  writeCpl (s.modRun d rid (fun r => { f r with phase := .ended })) d rid

/-- A retired tile's audit entry. R681. -/
def opcTileRetire : Nat := 0x0051

/-- A logical tile leaves its run: FREE, or RETIRING where a retirement waits or its physical tile has failed. R215, R635, R681. -/
def leaveTile (s : State) (l : Nat) : State :=
  let p := s.phys l
  if 3 ≤ (s.tile p).machineFaults then
    auditDevice (s.modLTile l (fun x => { x with st := .retiring, run := none, retire := false, failed := true })) opcTileRetire resDone p 0
  else s.modLTile l (fun x => { x with st := if x.retire then .retiring else .free, run := none, retire := false })

/-- What a tile keeps when a run leaves it: its own registers, its Millpond, and none of the run's state. R43, R114, R228. -/
def Tile.clear (t : Tile) : Tile :=
  { unit := t.unit, hs := t.hs, ticks := t.ticks, stall := t.stall, window := t.window, mpd := t.mpd,
    machineFaults := t.machineFaults, retired := t.retired }

/-- The references of a tile's started operations are returned, and its state is discarded. R211, R228. -/
def clearTile (s : State) (l : Nat) : State :=
  let t := s.tile (s.phys l)
  let refs := t.queuedRefs ++ (t.binRun.toList).flatMap BinOp.refs ++ (t.closes.filter (fun c => c.started)).flatMap (fun c => c.op.refs)
  leaveTile (setTileGcap ((dropRefs s refs).modTile (s.phys l) Tile.clear) (s.phys l) 0) l

/-- Every ring that an agent of the run is attached to is detached. R269, R378. -/
def detachAgents (s : State) (dead : Agent → Bool) : State :=
  let off (a : Option Agent) : Option Agent := match a with
    | some x => if dead x then none else some x
    | none => none
  (s.hif.rings.map (fun r => r.1)).foldl (fun s q => s.modRing q (fun g => { g with prod := off g.prod, cons := off g.cons })) s

/-- The device slots of a run: its stream slots and its engines' flume slots. -/
def runSlots (r : Run) : List Nat := r.slots ++ r.engines.map flumeSlot

/-- Agents of a run. -/
def ofRun (r : Run) : Agent → Bool
  | .seq (.tile l) => r.rr.tileList.contains l
  | .seq (.miller _) => false
  | .look l => r.rr.tileList.contains l
  | .slot k => (runSlots r).contains k

/-- Who of a run may still wait for an answer once it has been torn down. -/
def waitsFor (r : Run) : Requester → Bool
  | .load (.tile l) _ _ _ _ | .atom (.tile l) _ | .swap (.tile l) _ | .desc (.tile l) _ => r.rr.tileList.contains l
  | .close l _ | .kvEntry l _ _ _ _ _ | .kvWord l _ _ _ _ => r.rr.tileList.contains l
  | .engine e | .engineWord e _ => r.engines.contains e
  | _ => false

/-- No pass of a slot is under way or queued any more. R202, R354. -/
def passReset (s : State) (k : Nat) : State :=
  s.modMrc (k / 256) (fun m => { m with passEnd := tset 0 m.passEnd (k % 256) (tget 0 m.passIss (k % 256)) })

/-- Steps 3 and 4 of R228, which end every run: streams, bins, halves, engines and lanes, then the tiles. An answer that comes later finds
nobody. -/
def tearDown (s : State) (d : Nat) (r : Run) : State :=
  let s1 := (runSlots r).foldl (fun s k => passReset (freeSlot s k) k) (s.disown (waitsFor r))
  let s2 := detachAgents s1 (ofRun r)
  let s3 := r.engines.foldl (fun s e => s.modEngine e (fun x => { x with grant := none, queue := [], run := none, flume := [] })) s2
  let s4 := r.lanes.foldl (fun s n => s.modLane n (fun x => { x with run := none })) s3
  let now := runTicks s4 r
  let s5 := r.rr.tileList.foldl clearTile s4
  writeCpl (s5.modRun d r.rid (fun x => { x with phase := .ended, endTick := now })) d r.rid

/-- Why a sequencer of a run stands halted, if one does. R257. -/
def haltedFlt (s : State) (r : Run) : Flt :=
  firstFlt (r.rr.tileList.map (fun l => match (s.seqr (.tile l)).hold with
    | .halted f _ => f
    | _ => .none))

/-- A run is cancelled: before its dispatch it ends at once, during it under R228; one that is being ended for a fault ends CANCELLED as
well. R303, R304. -/
def cancelRun (s : State) (d rid : Nat) : State :=
  match s.run? d rid with
  | none => s
  | some r =>
    match r.phase with
    | .raw => endUnstarted s d rid (fun r => { r with cancelled := true })
    | .ready => endUnstarted s d rid (fun r => { r with cancelled := true })
    | .active => (stopRun s r).modRun d rid (fun x => { x with phase := .stopping, cancelled := true, haltWhy := haltedFlt s r })
    | .stopping => s.modRun d rid (fun x => { x with cancelled := true })
    | .ended => s

/-- Nothing that a tile issued is still to complete. -/
def tileQuiet (s : State) (l : Nat) : Bool :=
  let t := s.tile (s.phys l)
  t.seqr.mode == .ended && t.seqr.waiting.isEmpty && t.hopQ.isEmpty && t.hopRun.isNone && t.lookQ.isEmpty && t.lookRun.isNone &&
  t.binQ.isEmpty && t.binRun.isNone && t.closes.isEmpty && t.strmQ.isEmpty && t.atomQ.isEmpty

/-- Every tile has executed `end`, and every operation of the run has completed. 05, after R198. -/
def runQuiet (s : State) (r : Run) : Bool :=
  r.rr.tileList.all (tileQuiet s) && r.engines.all (fun e => (s.engine e).queue.isEmpty && (s.engine e).run.isNone) &&
  (runSlots r).all (fun k => (s.slot k).st == .free || (s.slot k).st == .passDone)

/-- R225. -/
def execRunEnd (die : Nat) (rid : Nat) (s : State) : Host.Outcome State Fault Refusal :=
  .next (match s.run? die rid with
    | none => s
    | some r =>
      if r.phase = .active ∧ runQuiet s r then tearDown s die r
      else if r.phase = .ended then writeCpl s die rid
      else s)

/-- Every started operation has stopped: nothing that has been sent is unanswered, and every transfer has settled. R225, R228. -/
def runStopped (s : State) (r : Run) : Bool :=
  r.rr.tileList.all (fun l =>
    let t := s.tile (s.phys l)
    t.atomQ.isEmpty && t.closes.all (fun c => c.remote == 0)) &&
  r.engines.all (fun e => match (s.engine e).run with
    | some a => a.remote == 0
    | none => true) &&
  (runSlots r).all (fun k => (s.slot k).xfers.isEmpty)

/-- Steps 2 to 5 of R228. -/
def execRunStopped (die : Nat) (rid : Nat) (s : State) : Host.Outcome State Fault Refusal :=
  .next (match s.run? die rid with
    | none => s
    | some r =>
      if r.phase = .stopping ∧ runStopped s r then tearDown s die r
      else if r.phase = .ended then writeCpl s die rid
      else s)

/-! ## Dispatch (R195 to R198, R201) -/

/-- The run record at a place of a ring, read by the Governor; one in a word that holds no good data is malformed. R436.
DESIGN CHOICE (log 64): such a record is REJECTED with OPERAND_INVALID. -/
def recordAt (s : State) (q : Ring) (i : Nat) : State × RunRec :=
  let (s1, bs, st) := ringEntry s q i
  let rr := runRec bs
  (s1, if st = .ok then rr else { rr with rsvd := true })

/-- The record at the head of a die's run queue becomes a run that waits for its checks. -/
def takeRecord (s : State) (d : Nat) : State :=
  let q := (s.gov d).runqRing
  let g := s.ring q
  if g.kind = .internal ∧ g.isOn ∧ 0 < g.count then
    let (s1, rr) := recordAt s g g.c0.toNat
    let r : Run := { rid := s.nextRid, rr := rr, waitFrom := (s.mrc d).ticks }
    ({ popHead s1 q with nextRid := s.nextRid + 1 }).modGov d (fun g => { g with runs := g.runs ++ [r] })
  else s

/-- The records that wait in a die's run queue. -/
def queuedRecords (s : State) (d : Nat) : List RunRec :=
  let q := s.ring (s.gov d).runqRing
  (List.range q.count).map (fun i => (recordAt s q (q.c0.toNat + i)).2)

/-- The oldest run of a die that waits for its checks. -/
def firstRaw (s : State) (d : Nat) : Option Run := (s.gov d).runs.find? (fun r => r.phase == .raw)

/-- A record is taken and checked; one that breaks a condition is REJECTED. R195. -/
def execDispatchCheck (die : Nat) (s : State) : Host.Outcome State Fault Refusal :=
  let s0 := if (firstRaw s die).isSome then s else takeRecord s die
  .next (match firstRaw s0 die with
    | none => s0
    | some r =>
      match checkRun s0 r.rr with
      | (s1, .error f) => endUnstarted s1 die r.rid (fun r => { r with fault := f, faultClass := clsDispatch })
      | (s1, .ok rs) => s1.modRun die r.rid (fun r => { r with phase := .ready, regions := rs }))

/-- Engines, stream slots and codec lanes of a die that a run may be granted. R149, R196, R339, R635. -/
def freeEngines (s : State) (d : Nat) : List Nat :=
  ((List.range 12).map (fun i => 12 * d + i)).filter (fun e => (s.engine e).grant.isNone && (s.engine e).unit.st == .on)

def slotHeld (s : State) (d k : Nat) : Bool := (s.gov d).runs.any (fun r => r.phase != .ended && r.slots.contains k)

def freeSlots (s : State) (d : Nat) : List Nat :=
  ((List.range (256 - (s.mrc d).fwSlots)).map (fun i => 256 * d + i)).filter (fun k =>
    !isFlume k && (s.slot k).st == .free && !slotHeld s d k)

def freeLanes (s : State) (d : Nat) : List Nat :=
  ((List.range 8).map (fun i => 8 * d + i)).filter (fun n => (s.lane n).run.isNone && (s.lane n).unit.st == .on)

/-- `n` slots out of `free`, each from the next Millrace engine that has one left. R339. -/
def pickSlots (eng : Nat) (free : List Nat) : Nat → List Nat
  | 0 => []
  | n + 1 =>
    match findFrom (fun e => free.any (fun k => k % 256 / 32 == e % 8)) eng 8 with
    | none => []
    | some e =>
      match free.find? (fun k => k % 256 / 32 == e % 8) with
      | none => []
      | some k => k :: pickSlots (e % 8 + 1) (free.filter (fun j => j != k)) n

/-- An aged run stands in the way of another: it waits for every tile of its set, and for each pool of which too few are free. R198. -/
def standsBefore (s : State) (d : Nat) (a r : Run) : Bool :=
  r.rr.tileList.any (fun l => a.rr.tileList.contains l) ||
  (decide (0 < r.rr.nAttn) && decide ((freeEngines s d).length < a.rr.nAttn)) ||
  (decide (0 < r.rr.nStrm) && decide ((freeSlots s d).length < a.rr.nStrm)) ||
  (decide (0 < r.rr.nGrist) && decide ((freeLanes s d).length < a.rr.nGrist))

/-- Runs of a context go in run-queue order (R197), and an aged run goes before every younger one that it competes with (R198). -/
def inTurn (s : State) (d : Nat) (r : Run) : Bool :=
  !(s.gov d).runs.any (fun x =>
    (x.phase == .raw || x.phase == .ready) && x.rid != r.rid &&
    ((x.rr.ctx == r.rr.ctx && decide (x.rid < r.rid)) ||
     (x.aged && x.phase == .ready && (!r.aged || decide (x.rid < r.rid)) && standsBefore s d x r)))

/-- Everything that a run waits for is free. R196. -/
def canDispatch (s : State) (d : Nat) (r : Run) : Bool :=
  r.rr.tileList.all (fun l => tileState s l == .free) && decide (r.rr.nAttn ≤ (freeEngines s d).length) &&
  decide (r.rr.nStrm ≤ (freeSlots s d).length) && decide (r.rr.nGrist ≤ (freeLanes s d).length) && inTurn s d r

/-- The sequencer of a tile at dispatch. R201. -/
def startSeqr (r : Run) (rs : List Region) : Seqr :=
  { mode := .running, pc := r.rr.progAddr,
    sreg := tsetList 0 [] 1 r.rr.args, areg := tsetList 0 [] 0 (rs.map (fun g => BitVec.ofNat 64 g.base)) }

/-- A tile of a run starts, its banks wake, and it takes the context's GCAP. R186, R201, R329, R596. -/
def startTile (s : State) (r : Run) (rs : List Region) (l : Nat) : State :=
  let p := s.phys l
  let s1 := s.modTile p (fun t => { t.clear with seqr := startSeqr r rs })
  let s2 := setTileGcap (touch (touch (touch s1 (.mill p 0)) (.mill p 0x300000)) (.mill p 0x500000)) p (s.ctx r.rr.ctx).gcap
  s2.modLTile l (fun x => { x with st := .held, run := some r.rid })

/-- A run that passes its checks is dispatched; the checks are made again, since a run waits. R195, R196, R201. -/
def execDispatch (die : Nat) (rid : Nat) (s : State) : Host.Outcome State Fault Refusal :=
  .next (match s.run? die rid with
    | none => s
    | some r =>
      if r.phase ≠ .ready then s
      else match checkRun s r.rr with
        | (s1, .error f) => endUnstarted s1 die rid (fun r => { r with fault := f, faultClass := clsDispatch })
        | (s1, .ok rs) =>
          if !canDispatch s1 die r then s1
          else
            let es := (freeEngines s1 die).take r.rr.nAttn
            let ks := pickSlots 0 (freeSlots s1 die) r.rr.nStrm
            let ls := (freeLanes s1 die).take r.rr.nGrist
            let s2 := es.foldl (fun s e => s.modEngine e (fun x => { x with grant := some rid })) s1
            let s3 := ls.foldl (fun s n => s.modLane n (fun x => { x with run := some rid })) s2
            let s4 := r.rr.tileList.foldl (fun s l => startTile s r rs l) s3
            let now := runTicks s4 r
            s4.modRun die rid (fun x => { x with phase := .active, regions := rs, engines := es, slots := ks, lanes := ls,
                                                 startTick := now, progressTick := now }))

/-- R198. -/
def execRunAged (die : Nat) (rid : Nat) (s : State) : Host.Outcome State Fault Refusal :=
  .next (match s.run? die rid with
    | none => s
    | some r =>
      if r.phase = .ready ∧ r.waitFrom + 4096 * (s.gov die).age < (s.mrc die).ticks then s.modRun die rid (fun x => { x with aged := true })
      else s)

/-! ## Watchdogs (R226, R227) -/

/-- R226. -/
def execRunDeadlockWatchdog (die : Nat) (rid : Nat) (s : State) : Host.Outcome State Fault Refusal :=
  .next (match s.run? die rid with
    | none => s
    | some r =>
      if (s.gov die).wdog ≠ 0 ∧ r.progressTick + 4096 * (s.gov die).wdog ≤ runTicks s r then
        faultRun s die rid .deadlockWatchdog none 0xFF clsWatchdog
      else s)

/-- R227. -/
def execRunLimit (die : Nat) (rid : Nat) (s : State) : Host.Outcome State Fault Refusal :=
  .next (match s.run? die rid with
    | none => s
    | some r =>
      if r.rr.limit ≠ 0 ∧ r.startTick + 4096 * r.rr.limit ≤ runTicks s r then faultRun s die rid .runLimit none 0xFF clsWatchdog else s)

/-! ## Ticks -/

/-- One count tick of every oscillator of the device, which is what passes while no command waits; the
copies to spared channels move on with it. R4, R226, R443, R595, R618. -/
def idleTick (s : State) : State :=
  let s1 := (List.range 200).foldl (fun (s : State) p => s.modTile p (fun t => { t with ticks := (t.ticks + 1) % 2 ^ 64 })) s
  let s2 := (List.range 4).foldl (fun (s : State) d => s.modMrc d (fun m => { m with ticks := (m.ticks + 1) % 2 ^ 64 })) s1
  copyPieces { s2 with
    fan := { s2.fan with mclk := s2.fan.mclk + 1 }
    hdr := { s2.hdr with ticks0 := (s2.hdr.ticks0 + 1) % 2 ^ 64, ticks1 := (s2.hdr.ticks1 + 1) % 2 ^ 64 } }

/-! ## Retired tiles (R215 to R217, R681, R682) -/

/-- A physical tile of the die that stands behind no logical tile and has not been retired. -/
def unusedSpare (s : State) (d : Nat) : Option Nat :=
  findFrom (fun p => (s.logOf p).isNone && !(s.tile p).retired) (50 * d) 50

/-- Blocks of a physical tile that a context owns, with their tags. -/
def ownedBlocks (s : State) (p : Nat) : List (Nat × Nat) :=
  (s.owner.filter (fun x => decide (1536 * p ≤ x.1) && decide (x.1 < 1536 * (p + 1)))).map (fun x => (x.1 - 1536 * p, x.2))

/-- An owned block of the old tile on its spare, copied with its 288-bit words, or zeroed where the old tile has failed; either reaches the
banks of the spare, and the copy those of the old tile. R216, R217, R326, R327. -/
def moveBlock (s : State) (p q : Nat) (failed : Bool) (b tag : Nat) : State :=
  let s0 := touchRange s q (4096 * b) 4096
  let s1 := if failed then s0.zero (millKey q (4096 * b)) 4096
    else (touchRange s0 p (4096 * b) 4096).setWords (millKey q (4096 * b)) (s.words (millKey p (4096 * b)) 128)
  { s1 with owner := tset 0 s1.owner (1536 * q + b) tag }

/-- The contexts that own blocks of a tile. -/
def ownersOf (s : State) (p : Nat) : List Nat := ((ownedBlocks s p).map (fun x => x.2 - 1)).eraseDups

/-- TILE_RETIRED: for a failed tile, one record for each context that lost resident data. R217, R584. -/
def postRetired (s : State) (p l : Nat) (failed : Bool) : State :=
  postEvents s (if failed then ownersOf s p else [])
    { code := 0x40, sev := 2, srcKind := 1, srcDie := p / 50, srcIndex := p, d0 := l, d1 := if failed then 0 else 1 }

/-- A retiring tile is remapped onto an unused spare, or its logical tile stays OFF. R215 to R217, R682. -/
def execTileRemapComplete (l : Nat) (s : State) : Host.Outcome State Fault Refusal :=
  let t := s.ltile l
  let p := s.phys l
  .next (if t.st ≠ .retiring ∨ t.run ≠ none then s
    else
      let s1 := postRetired s p l t.failed
      match unusedSpare s (l / 48) with
      | none => auditEnd (s1.modLTile l (fun x => { x with st := .off, failed := false })) opcTileRetire p resDone
      | some q =>
        let s2 := (ownedBlocks s p).foldl (fun s b => moveBlock s p q t.failed b.1 b.2) s1
        let s3 := ((s2.setPhys l q).modTile p (fun x => { x with retired := true })).modLTile l (fun _ => {})
        let s4 := postEvent s3 none { code := 0x41, sev := 0, srcKind := 1, srcDie := p / 50, srcIndex := p, d0 := q }
        if t.failed then s4 else auditEnd s4 opcTileRetire p resDone)

/-! ## Runs and residency from the service profile (06, R302 to R307) -/

/-- Run records of a die that wait to dispatch. GOV_STATUS. -/
def runsQueued (s : State) (d : Nat) : Nat :=
  (s.ring (s.gov d).runqRing).count + ((s.gov d).runs.filter (fun r => r.phase == .raw || r.phase == .ready)).length

/-- R302. -/
def execRunSubmit (c : Core) (g : Guard) (pd : BitVec 3) (ab : BitVec 4) (off : BitVec 32) (s : State) : Host.Outcome State Fault Refusal :=
  issue s c g { tile := false } (fun s => match c with
    | .tile _ => .stay s
    | .miller m =>
      let bs := s.bytes (svcKey m (effAddr (s.seqr c) ab off).toNat) 128
      let d := fieldAt bs 18 1 % 4
      let q := (s.gov d).runqRing
      let ok := (s.ring q).kind == .internal && (s.ring q).room && decide (runsQueued s d < 1024)
      .done ((if ok then pushRecord s q bs else s).modSeqr c (fun x => x.setP pd ok)))

/-- Records of a die's run queue are taken until one has the sequence number, or none is left. -/
def takeUntil (s : State) (d seqno : Nat) : Nat → State
  | 0 => s
  | n + 1 =>
    if (s.gov d).runs.any (fun r => r.rr.seqno == seqno && r.phase != .ended) then s else takeUntil (takeRecord s d) d seqno n

/-- The run of a die with a sequence number that has not ended is cancelled. R303, R304. -/
def cancelSeqno (s : State) (d seqno : Nat) : State :=
  let q := s.ring (s.gov d).runqRing
  let inQueue := (queuedRecords s d).any (fun rr => rr.seqno == seqno)
  let s1 := if inQueue then takeUntil s d seqno q.count else s
  match (s1.gov d).runs.find? (fun r => r.rr.seqno == seqno && r.phase != .ended) with
  | none => s1
  | some r => cancelRun s1 d r.rid

/-- R303, R304. -/
def execRunCancel (c : Core) (g : Guard) (sa sb : BitVec 5) (s : State) : Host.Outcome State Fault Refusal :=
  issue s c g { tile := false, reads := [sa, sb] } (fun s =>
    let q := s.seqr c
    .done (cancelSeqno s ((q.s sa).toNat % 4) ((q.s sb).toNat % 2 ^ 32)))

/-- The range that `res.grant` and `res.free` name: physical tile, first block, blocks. R305, R306. -/
def resRange (sb sd : W64) : Option (Nat × Nat × Nat) :=
  let l := sb.toNat % 256
  let b := sd.toNat % 2048
  let n := bitsOf sd.toNat 16 11
  if 192 ≤ l ∨ n = 0 ∨ 1536 < n ∨ 1536 < b + n then none else some (l, b, n)

def setOwners (s : State) (p b tag : Nat) : Nat → State
  | 0 => s
  | n + 1 => setOwners { s with owner := tset 0 s.owner (1536 * p + b) tag } p (b + 1) tag n

/-- R192, R305, R306. -/
def execResGrant (c : Core) (g : Guard) (sd sa sb : BitVec 5) (s : State) : Host.Outcome State Fault Refusal :=
  issue s c g { tile := false, reads := [sa, sb, sd] } (fun s =>
    let q := s.seqr c
    match resRange (q.s sb) (q.s sd) with
    | none => .fault s .operandInvalid
    | some (l, b, n) =>
      let p := s.phys l
      if (List.range n).all (fun i => ownerOf s p (4096 * (b + i)) == 0) then
        .done (setOwners s p b ((q.s sa).toNat % 4096 + 1) n)
      else .fault s .operandInvalid)

/-- R307: the range is checked, and the core waits until it is free. -/
def execResFree (c : Core) (g : Guard) (sd sa sb : BitVec 5) (s : State) : Host.Outcome State Fault Refusal :=
  issue s c g { tile := false, reads := [sa, sb, sd] } (fun s =>
    let q := s.seqr c
    let ctx := (q.s sa).toNat % 4096
    match resRange (q.s sb) (q.s sd), c with
    | some (l, b, n), .miller m =>
      if (List.range n).all (fun i => ownerOf s (s.phys l) (4096 * (b + i)) == ctx + 1) then
        .hold (s.modMiller m (fun k => { k with freeing := some (ctx, l, b, n) })) .resFree
      else .fault s .operandInvalid
    | _, _ => .fault s .operandInvalid)

/-- A run record names tile `l`, and one of its regions covers a block of a range. -/
def recordCovers (rr : RunRec) (gs : List Region) (l b n : Nat) : Bool :=
  rr.tileList.contains l && gs.any (fun g => decide (g.base < 4096 * (b + n)) && decide (4096 * b < g.base + g.size))

/-- The regions that a record names, as its list stands now. -/
def listedRegions (s : State) (rr : RunRec) : List Region := ((regionsOf s rr).2).getD []

/-- A region of a run that has not ended covers a block of the range: of one that the Governor has checked, or of one that has been
submitted and still waits for its checks. R193. -/
def rangeInUse (s : State) (l b n : Nat) : Bool :=
  (s.gov (l / 48)).runs.any (fun r => r.phase != .ended &&
    recordCovers r.rr (if r.phase = .raw then listedRegions s r.rr else r.regions) l b n) ||
  (queuedRecords s (l / 48)).any (fun rr => recordCovers rr (listedRegions s rr) l b n)

/-- Blocks of a logical tile are zeroed, and then their tags are FREE; the zeroing reaches their banks. R191, R326, R327. -/
def freeBlocks (s : State) (l b n : Nat) : State :=
  setOwners ((touchRange s (s.phys l) (4096 * b) (4096 * n)).zero (millKey (s.phys l) (4096 * b)) (4096 * n)) (s.phys l) b 0 n

/-- The blocks of a `res.free` are zeroed, and then their tags are FREE. R191, R193, R307. -/
def execResFreeDone (c : Nat) (s : State) : Host.Outcome State Fault Refusal :=
  .next (match (s.miller c).freeing with
    | none => s
    | some (_, l, b, n) =>
      if rangeInUse s l b n then s
      else
        (freeBlocks s l b n).modMiller c (fun k => { k with freeing := none }))

/-! ## strm.resume (R282, R376) -/

/-- A halted stream goes on from its saved position, or ends as its ACTION field says. While its halt notice waits for room it stays
halted, and goes on once the notice is written. R375, R376. -/
def resumeSlot (s : State) (k : Nat) : State :=
  let sl := s.slot k
  if sl.st ≠ .halted then s
  else if !sl.actionFault then
    s.modSlot k (fun y => if sl.notice then { y with resume := true }
      else { y with reason := .none, resume := false }.launch sl.pos sl.idxPos sl.posBlock)
  else match sl.run with
    | some rid =>
      if sl.reason = .none then cancelRun s (k / 256) rid
      else faultRun s (k / 256) rid sl.reason none 0xFF clsHalt
    | none => passReset (freeSlot s k) k

/-- The first pending notice of a die is written, and a stream whose notice is written goes on if it was resumed meanwhile. R375, R376. -/
def execHaltNoticeWrite (die : Nat) (s : State) : Host.Outcome State Fault Refusal :=
  let s1 := writeNotice s die
  .next (((s1.mrc die).slots.filter (fun x => x.2.resume && !x.2.notice)).foldl (fun s x => resumeSlot s (256 * die + x.1)) s1)

/-- R282, R376. -/
def execStrmResume (c : Core) (g : Guard) (sa sb : BitVec 5) (s : State) : Host.Outcome State Fault Refusal :=
  issue s c g { tile := false, reads := [sa, sb] } (fun s =>
    let q := s.seqr c
    .done (resumeSlot s (256 * ((q.s sa).toNat % 4) + (q.s sb).toNat % 256)))

end Sys2Proof.Machine
end

