-- ==== Sys2Proof/Machine/Rings.lean ====
section
/-! DEFINITION. The ring table from the host's side (14): descriptors, enabling, doorbells, notification, ring and vector ranges of the
functions, and the BAR4 window. -/

namespace Sys2Proof.Machine
open Sys2Proof

/-! ## Descriptors (R567 to R572) -/

/-- Code of a ring kind. R569. -/
def RingKind.code : RingKind → Nat
  | .free => 0 | .bucket => 1 | .submit => 2 | .complete => 3 | .event => 4 | .internal => 5

def kindOf : Nat → Option RingKind
  | 0 => some .free | 1 => some .bucket | 2 => some .submit | 3 => some .complete | 4 => some .event | 5 => some .internal | _ => none

def RingSt.code : RingSt → Nat
  | .off => 0 | .on => 1 | .disabling => 2 | .error => 3

def bit (b : Bool) (n : Nat) : Nat := if b then 2 ^ n else 0

/-- FLAGS of a descriptor. R569. -/
def Ring.flags (r : Ring) : Nat := bit r.en 0 + bit r.waitFull 1 + bit r.msixEn 2 + bit r.armed 3

/-- The 64 bytes of a descriptor that belongs to function `f`. R569. -/
def Ring.bytes (r : Ring) (f : Nat) : List Byte :=
  natToBytes (r.st.code + bit r.enPend 2) 1 ++ natToBytes r.flags 1 ++ natToBytes r.kind.code 1 ++ natToBytes f 1 ++
  natToBytes r.entries 2 ++ natToBytes r.entryUnits 2 ++ natToBytes r.ctx 2 ++ natToBytes r.rank 1 ++ natToBytes r.modRecs 1 ++
  natToBytes r.modTicks 2 ++ natToBytes r.vector 2 ++ natToBytes r.c0.toNat 4 ++ natToBytes r.c1.toNat 4 ++
  natToBytes r.c2.toNat 4 ++ natToBytes r.c3.toNat 4 ++ natToBytes 0 16 ++ natToBytes r.base.toNat 8 ++ natToBytes r.shadow.toNat 8

/-- Bytes of a record replaced at an offset. -/
def patch (bs : List Byte) (off n v : Nat) : List Byte := bs.take off ++ natToBytes v n ++ bs.drop (off + n)

/-- ENTRY_UNITS of a host ring. R569. -/
def unitsOf (k : RingKind) (v : Nat) : Nat :=
  match k with
  | .submit => 4
  | .complete => 2
  | .event => 2
  | _ => v

/-- KIND after a write: a host sets only 2, 3 or 4. R570. -/
def kindAfter (old : RingKind) (v : Nat) (fw : Bool) : RingKind :=
  match kindOf (v % 8) with
  | some k => if fw || k == .submit || k == .complete || k == .event then k else old
  | none => old

/-- Every writable field but EN, from the bytes of a descriptor; RANK and CTX belong to bucket rings. R569 to R571. -/
def Ring.fields (r : Ring) (bs : List Byte) (fw : Bool) : Ring :=
  let k := kindAfter r.kind (fieldAt bs 2 1) fw
  { r with
    shadow := field64 bs 56, base := field64 bs 48, vector := fieldAt bs 14 2, modTicks := fieldAt bs 12 2, modRecs := fieldAt bs 11 1,
    rank := if k = .bucket then fieldAt bs 10 1 else 0, ctx := if k = .bucket then fieldAt bs 8 2 % 4096 else 0,
    entryUnits := unitsOf k (fieldAt bs 6 2), entries := fieldAt bs 4 2, kind := k,
    msixEn := (fieldAt bs 1 1).testBit 2, waitFull := (fieldAt bs 1 1).testBit 1 }

/-- Counters and slot indexes at zero, and ARMED clear. R360, R572. -/
def Ring.zeroed (r : Ring) : Ring := { r with c0 := 0, c1 := 0, c2 := 0, c3 := 0, i0 := 0, i1 := 0, i2 := 0, i3 := 0, armed := false }

/-- A write of EN. R572. -/
def Ring.writeEn (r : Ring) (on : Bool) : Ring :=
  let r1 := { r with en := on }
  match r.st, on with
  | .off, true => { r1.zeroed with st := .on }
  | .on, false => { r1 with st := .disabling, enPend := false }
  | .error, false => { r1 with st := .disabling, enPend := false }
  | .disabling, b => { r1 with enPend := b }
  | _, _ => r1

/-- DESC_ERR of a function. R571. -/
def descErr (s : State) (f : Nat) : State := s.modFn f (fun n => { n with descErr := true })

/-- A write of `n` bytes at an offset of the descriptor of ring `r`, through function `f` or by firmware. The parameters of a bucket ring
are set only while nobody is attached, and setting them zeroes its counters. R359, R360, R571, R572. -/
def ringWrite (s : State) (f r off n v : Nat) (fw : Bool) : State :=
  let g := s.ring r
  let bs := patch (g.bytes f) off n v
  let en := (fieldAt bs 1 1).testBit 0
  if g.st = .off then
    (let attached := g.prod.isSome || g.cons.isSome
     let g1 : Ring := { (if attached then g else g.fields bs fw) with func := f }
     let g2 : Ring := if g1.kind = .bucket ∧ attached = false then g1.zeroed else g1
     s.modRing r (fun _ => if en then g2.writeEn true else { g2 with en := false }))
  else
    let s1 := if en = g.en then s else s.modRing r (fun g => g.writeEn en)
    if g.fields bs fw = g then s1 else descErr s1 f

/-- Ring of a function by local index, for a function that exists. R568. -/
def localRing (s : State) (f k : Nat) : Option Nat := if f < 256 then globalRing s f k else none

/-- R564, R571: a naturally aligned 32-bit or 64-bit write in the ring view. -/
def execRingDescWrite (fn k : Nat) (off size : Nat) (val : W64) (s : State) : Host.Outcome State Fault Refusal :=
  .next (if stopped s xPcie || !((size == 4 || size == 8) && off % size == 0 && decide (off + size ≤ 64)) then s
    else match localRing s fn k with
    | none => s
    | some r => ringWrite s fn r off size (val.toNat % 2 ^ (8 * size)) false)

/-- R572. -/
def execRingEnable (fn k : Nat) (s : State) : Host.Outcome State Fault Refusal :=
  .next (if stopped s xPcie then s
    else match localRing s fn k with
    | none => s
    | some r => s.modRing r (fun g => ({ g with func := fn }).writeEn true))

/-- R572. -/
def execRingDisable (fn k : Nat) (s : State) : Host.Outcome State Fault Refusal :=
  .next (if stopped s xPcie then s
    else match localRing s fn k with
    | none => s
    | some r => s.modRing r (fun g => g.writeEn false))

/-- A disable completes: OFF, or ON again with EN_PEND. R572. -/
def Ring.disableDone (r : Ring) : Ring :=
  if r.st ≠ .disabling then r
  else if r.enPend then { r.zeroed with st := .on, enPend := false } else { r with st := .off }

/-- R572. -/
def execRingDisableDone (ring : Nat) (s : State) : Host.Outcome State Fault Refusal :=
  .next (if ring < 65536 then s.modRing ring Ring.disableDone else s)

/-! ## Doorbells and notification (R573 to R580) -/

/-- RING_ERROR. R574, R584. -/
def ringError (s : State) (r k : Nat) (v : W32) : State :=
  postEvent (s.modRing r (fun g => { g with st := .error })) none { code := 0x60, sev := 2, d0 := r, d1 := k, d2 := v.toNat }

/-- ARM on a COMPLETE or EVENT ring: a message at once where the unread records already call for one. R579, R580. -/
def armRing (s : State) (r : Nat) : State := notify (s.modRing r (fun g => { g with armed := true })) r false

/-- A doorbell write: the counter is replaced, or the ring is in error. Ignored where the ring is not ON or is firmware's.
R573 to R575, R580. -/
def doorbell (s : State) (f k : Nat) (arm : Bool) (v : W32) : State :=
  match localRing s f k with
  | none => s
  | some r =>
    let g := s.ring r
    if !g.isOn || decide (r < s.hif.fwRings) then s
    else match g.kind with
    | .submit => if g.entries < (v - g.c0).toNat then ringError s r k v else s.modRing r (fun g => { g with c1 := v })
    | .complete =>
      if g.count < (v - g.c0).toNat then ringError s r k v
      else if arm then armRing (s.modRing r (fun g => { g with c0 := v })) r else s.modRing r (fun g => { g with c0 := v })
    | .event =>
      if g.count < (v - g.c0).toNat then ringError s r k v
      else if arm then armRing (s.modRing r (fun g => { g with c0 := v })) r else s.modRing r (fun g => { g with c0 := v })
    | _ => s

/-- Bytes that the host has made visible before the doorbell. R576. -/
def hostWrites (s : State) (ws : List (Nat × Byte)) : State := ws.foldl (fun s w => s.setBytes (hostKey w.1) [w.2]) s

/-- R573 to R576. -/
def execSubmitDoorbell (fn k : Nat) (value : W32) (written : List (Nat × Byte)) (s : State) : Host.Outcome State Fault Refusal :=
  .next (if stopped s xPcie then hostWrites s written else doorbell (hostWrites s written) fn k false value)

/-- R573 to R575. -/
def execHeadDoorbell (fn k : Nat) (value : W32) (s : State) : Host.Outcome State Fault Refusal :=
  .next (if stopped s xPcie then s else doorbell s fn k false value)

/-- R573, R580. -/
def execRingArm (fn k : Nat) (value : W32) (s : State) : Host.Outcome State Fault Refusal :=
  .next (if stopped s xPcie then s else doorbell s fn k true value)

/-- R579: MOD_TICKS have passed with records unread. -/
def execModerationExpiry (ring : Nat) (s : State) : Host.Outcome State Fault Refusal :=
  let g := s.ring ring
  .next (if (g.kind = .complete ∨ g.kind = .event) ∧ g.modTicks ≠ 0 ∧ g.isOn then notify s ring true else s)

/-! ## Ranges of the functions (R566, R567) -/

/-- Two ranges that share a number. -/
def overlap (a n b m : Nat) : Bool := n != 0 && m != 0 && decide (a < b + m) && decide (b < a + n)

/-- A ring of the range is not OFF. -/
def rangeBusy (s : State) (base n : Nat) : Bool :=
  s.hif.rings.any (fun r => decide (base ≤ r.1) && decide (r.1 < base + n) && r.2.st != .off)

/-- The other functions' ranges that a new one would meet. -/
def fnConflict (s : State) (f : Nat) (p : Fn → Bool) : Bool := s.hif.fns.any (fun x => x.1 != f && p x.2)

/-- R567, HIF_FN_RINGS. -/
def writeFnRings (s : State) (f base count : Nat) : State :=
  let bad := overlap base count 0 s.hif.fwRings || fnConflict s f (fun x => overlap base count x.ringsBase x.ringsCount) ||
    decide (65536 < base + count) || rangeBusy s (s.fn f).ringsBase (s.fn f).ringsCount
  if bad then descErr s 0 else s.modFn f (fun n => { n with ringsBase := base, ringsCount := count })

/-- R567. -/
def execHifFnRingsWrite (f : Nat) (val : W64) (s : State) : Host.Outcome State Fault Refusal :=
  .next (if stopped s xPcie ∨ 256 ≤ f then s else writeFnRings s f (bitsOf val.toNat 0 16) (bitsOf val.toNat 32 17))

/-- R566, HIF_FN_VEC. -/
def writeFnVec (s : State) (f base count : Nat) : State :=
  let bad := fnConflict s f (fun x => overlap base count x.vecBase x.vecCount) || decide (2048 < base + count) ||
    decide ((if f = 0 then 2048 else 64) < count)
  if bad then descErr s 0 else s.modFn f (fun n => { n with vecBase := base, vecCount := count })

/-- R566. -/
def execHifFnVecWrite (f : Nat) (val : W64) (s : State) : Host.Outcome State Fault Refusal :=
  .next (if stopped s xPcie ∨ 256 ≤ f then s else writeFnVec s f (bitsOf val.toNat 0 11) (bitsOf val.toNat 32 12))

/-! ## BAR4 (R565) -/

/-- A read of up to eight bytes; what a word that holds no good data reads as is not stated. R565. -/
def bar4Read (s : State) (pl : Place) (n : Nat) : State × W64 :=
  match readBytes s pl n with
  | (s1, bs, .ok) => (s1, BitVec.ofNat 64 (bytesToNat bs))
  | (s1, _, _) =>
    let (s2, i) := s1.takeFree
    (s2, Config.freeWord i)

def setRdata (s : State) (v : Option W64) : State := { s with hif := { s.hif with rdata := v } }

/-- R439, R565. -/
def execBar4Access (off : Nat) (data : Option (List Byte)) (size : Nat) (s : State) : Host.Outcome State Fault Refusal :=
  let n := min size 8
  .next (if stopped s xPcie then s
    else if !s.hif.bar4En ∨ 2 ^ 32 < off + size then (if data.isNone then setRdata s (some 0) else s)
    else match locate s (s.hif.bar4Base * 2 ^ 32 + off), data with
    | none, none => setRdata s (some 0)
    | none, some _ => s
    | some pl, none =>
      let (s1, v) := bar4Read s pl n
      setRdata s1 (some v)
    | some pl, some bs => if frameRetired s pl then s else (writeBytes s pl bs).1)

end Sys2Proof.Machine
end

