-- ==== Sys2Proof/Machine/Registers.lean ====
section
/-! DEFINITION. The control registers (00, R6 to R12; the register sections of every chapter): one 32-bit word at a time, a 64-bit
register in two halves. `fw` marks an access by service firmware. -/

namespace Sys2Proof.Machine
open Sys2Proof

/-! ## Codes -/

def EnState.code : EnState → Nat
  | .off => 0 | .enabling => 1 | .on => 2 | .disabling => 3 | .disablingThenOn => 4

def TileSt.code : TileSt → Nat
  | .free => 0 | .held => 1 | .retiring => 2 | .off => 3

def SlotSt.code : SlotSt → Nat
  | .free => 0 | .running => 1 | .passDone => 2 | .halted => 3

def Link.code : Link → Nat
  | .down => 0 | .training => 1 | .up => 2 | .miswired => 3

def FabSt.code : FabSt → Nat
  | .down => 0 | .training => 1 | .enumerating => 2 | .ready => 3 | .fenced => 4

def MarchSt.code : MarchSt → Nat
  | .idle => 0 | .running => 1 | .pass => 2 | .repaired => 3 | .fail => 4 | .aborted => 5

def CoreRun.code : CoreRun → Nat
  | .stopped => 0 | .loading => 1 | .running => 2 | .halted => 3 | .handingOver => 4

def FwSt.code : FwSt → Nat
  | .empty => 0 | .staged => 1 | .trial => 2 | .fallback => 2 | .active => 3

/-- The half of a 64-bit value at byte `o` of its register. -/
def half (v o : Nat) : Nat := bitsOf v (8 * o) 32

/-- A 64-bit value with that half cleared. -/
def clearHalf (v o : Nat) : Nat := if o = 0 then v / 2 ^ 32 * 2 ^ 32 else v % 2 ^ 32

/-- Entry of an array of registers of `n` bytes from `base`, with the byte within it. -/
def entryAt (base n count o : Nat) : Option (Nat × Nat) :=
  if base ≤ o ∧ o < base + n * count then some ((o - base) / n, (o - base) % n) else none

/-- A register with EN, ERR and ENSTATE. 16. -/
def enReg (u : UnitEn) : Nat := bit u.en 0 + bit u.err 1 + u.st.code * 32

/-! ## Values by block -/

/-- What GOV_TILE_STATE shows: its reset value until the tiles have been brought up. R635, R679. -/
def shownTile (s : State) (l : Nat) : TileSt := if s.boot.step < 4 then .free else tileState s l

def govReg (s : State) (d o : Nat) : Nat :=
  let g := s.gov d
  let tiles := (List.range 48).map (fun i => 48 * d + i)
  if o = 0x000 then
    (tiles.filter (fun l => shownTile s l == .free)).length + 256 * (g.runs.filter (fun r => r.phase == .active || r.phase == .stopping)).length +
      65536 * runsQueued s d
  else if o = 0x008 then g.runqRing
  else if o = 0x010 then g.wdog
  else if o = 0x014 then g.age
  else if o = 0x018 then g.faultCnt
  else if o = 0x020 then (s.ctxs.filter (fun c => c.2.bound)).length + 65536 * (s.seqs.filter (fun q => q.2.held)).length
  else match entryAt 0x100 4 48 o, entryAt 0x200 4 48 o, entryAt 0x300 8 4 o, entryAt 0x400 4 12 o with
  | some (i, _), _, _, _ => (s.phys (48 * d + i)) % 50
  | _, some (i, _), _, _ =>
    let l := 48 * d + i
    (shownTile s l).code + (match s.runOf l with
      | some r => r.rr.ctx * 4096
      | none => 0)
  | _, _, some (i, b), _ =>
    let c := 4 * d + i
    let m := s.miller c
    half (m.run.code + m.unit.st.code * 32 + bit m.unit.err 8 + m.stateFmt * 65536 + (coreRings s c).length * 2 ^ 32 +
      (s.ctxs.filter (fun x => x.2.bound && x.2.core == c)).length * 2 ^ 48) b
  | _, _, _, some (i, _) => enReg (s.engine (12 * d + i)).unit
  | _, _, _, _ => 0

def slotReg (s : State) (k o : Nat) : Nat :=
  let sl := s.slot k
  let pers := match sl.desc with
    | some d => d.persist
    | none => false
  if o = 0x00 then sl.st.code + bit pers 3 + bit sl.actionFault 4 + sl.reason.code * 256 + sl.ctx * 65536
  else if o = 0x08 ∨ o = 0x0C then half (sl.pos.part + sl.pos.elem * 4096 + sl.pos.desc * 2 ^ 44) (o - 0x08)
  else if o = 0x10 ∨ o = 0x14 then half sl.faddr.toNat (o - 0x10)
  else if o = 0x18 ∨ o = 0x1C then half sl.idxPos (o - 0x18)
  else 0

def mrcReg (s : State) (d o : Nat) : Nat :=
  let m := s.mrc d
  let w := tget {} m.weir m.weirSel
  let xs := m.slots.flatMap (fun k => k.2.xfers)
  if o = 0x000 then (m.slots.filter (fun k => k.2.st != .free)).length + 512 * (m.slots.filter (fun k => k.2.st == .halted)).length
  else if o = 0x008 then m.haltRing
  else if o = 0x00C then m.fwSlots
  else if o = 0x010 then m.wdog
  else if o = 0x018 then m.period.toNat
  else if o = 0x020 ∨ o = 0x024 then half m.ticks (o - 0x020)
  else if o = 0x028 then (xs.filter (fun x => !x.fabric)).length + 65536 * (xs.filter (fun x => x.fabric)).length
  else if o = 0x030 then m.weirSel
  else if o = 0x034 then w.rateNext.getD w.rate
  else if o = 0x038 then w.depthNext.getD w.depth
  else if o = 0x03C then (BitVec.ofInt 32 w.tokens).toNat
  else match entryAt 0x100 8 11 o, entryAt 0x1000 32 256 o with
  | some (c, b), _ => half (tget 0 m.stall c) b
  | _, some (k, b) => slotReg s (256 * d + k) b
  | _, _ => 0

def grsReg (s : State) (d o : Nat) : Nat :=
  let g := s.grs d
  let lanes := (List.range 8).map (fun i => s.lane (8 * d + i))
  if o = 0x000 then (lanes.filter (fun l => l.run.isSome)).length + 256 * (lanes.filter (fun l => l.busy)).length
  else match entryAt 0x008 8 13 o, entryAt 0x080 4 8 o with
  | some (i, b), _ =>
    half (match i with
      | 0 => g.decBlocks | 1 => g.decRaw | 2 => g.encBlocks | 3 => tget 0 g.encRaw 0 | 4 => tget 0 g.encRaw 1 | 5 => tget 0 g.encRaw 2
      | 6 => 0 | 7 => tget 0 g.bad 0 | 8 => tget 0 g.bad 1 | 9 => tget 0 g.bad 2 | 10 => tget 0 g.bad 3 | 11 => g.bytesRead
      | _ => g.bytesOut) b
  | _, some (i, _) => enReg (nth {} lanes i).unit
  | _, _ => 0

def gslotReg (s : State) (i o : Nat) : Nat :=
  let g := s.gslot i
  if o = 0 then g.e0.gen + 16 * g.e1.gen + 256 * (match g.installs.head? with
      | some x => x.gen
      | none => 0) + bit g.older 12 + bit g.e0.valid 13 + bit g.e1.valid 14 + bit (!g.installs.isEmpty) 15 +
    (match g.ctx with
     | some c => c * 65536 + 2 ^ 31
     | none => 0)
  else if o = 4 then g.e0.refs % 65536 + 65536 * (g.e1.refs % 65536)
  else if o = 8 then g.e0.kind + 16 * g.e1.kind
  else 0

def memReg (s : State) (o : Nat) : Nat :=
  let m := s.memb
  let inval := m.invCount + m.invVpage * 65536 + m.invCtx * 2 ^ 48 + bit m.invAll 62 + bit m.invDone 63
  if o = 0x000 ∨ o = 0x004 then half (hbmEnd - 65536 * m.retired.length) o
  else if o = 0x010 ∨ o = 0x014 then half inval (o - 0x010)
  else if o = 0x018 then bit m.invVa48 0
  else if o = 0x020 then m.ceLimit + 65536 * m.pcCeLimit
  else match entryAt 0x030 4 4 o with
  | some (d, _) => retiredOf s d
  | none => 0

def stackReg (s : State) (i o : Nat) : Nat :=
  let t := s.stack i
  let members := (List.range 16).foldl (fun v q => v + tget 0 t.spareMember q * 4 ^ q) 0
  if o = 0x000 then t.spared.toNat + bit (!t.sparing.isEmpty) 16 + bit t.degraded 17
  else if o = 0x008 then members
  else if o = 0x010 then t.scrubInt
  else if o = 0x018 ∨ o = 0x01C then half (t.scrubBlk + t.scrubPasses * 2 ^ 24) (o - 0x018)
  else if o = 0x020 then t.ce
  else if o = 0x024 then t.ue
  else match entryAt 0x040 8 8 o, entryAt 0x100 4 64 o with
  | some (j, b), _ =>
    (match t.ueLog[j]? with
     | some e => half (e.addr + e.src * 2 ^ 61 + 2 ^ 63) b
     | none => 0)
  | _, some (p, _) => tget 0 t.pcCe p
  | _, _ => 0

def bankBits (m : Mpd) (st : BankSt) : Nat := [0, 1, 2].foldl (fun v b => v + bit ((tget {} m.banks b).st == st) b) 0

def repairWord (e : RepairEntry) : Nat := 1 + bit e.preserving 11 + e.spare * 2 ^ 12 + e.row * 2 ^ 14 + e.sub * 2 ^ 22 + e.bank * 2 ^ 30

def mpdReg (m : Mpd) (o : Nat) : Nat :=
  let used (b : Nat) : Nat := (m.repairs.filter (fun r => r.bank == b)).length
  if o = 0x400 then bankBits m .retained + 8 * bankBits m .waking + bit m.marching 6
  else if o = 0x408 then m.retEn.toNat + m.idle * 256
  else if o = 0x410 then m.marchBanks.toNat + bit m.marchPreserving 3 + bit m.marchStart 4 + bit m.marchAbort 5
  else if o = 0x414 then m.marchSt.code + m.rowsRepaired * 16 + m.rowsFailed * 65536
  else if o = 0x418 then used 2 % 256 + (used 1 % 256) * 256 + (used 0 % 2048) * 65536
  else if o = 0x420 then m.ce
  else if o = 0x424 then m.ue
  else match entryAt 0x440 4 16 o with
  | some (i, _) =>
    (match m.log[i]? with
     | some e => repairWord e
     | none => 0)
  | none => 0

def tileReg (s : State) (p o : Nat) : Nat :=
  let t := s.tile p
  if o = 0x0E0 then enReg t.unit
  else if o = 0x0F0 ∨ o = 0x0F4 then half t.hs (o - 0x0F0)
  else if o = 0x0F8 ∨ o = 0x0FC then half t.ticks (o - 0x0F8)
  else match entryAt 0x100 8 11 o with
  | some (c, b) => half (tget 0 t.stall c) b
  | none => mpdReg t.mpd o

def hdrReg (s : State) (o : Nat) : Nat :=
  let h := s.hdr
  let up := (List.range 16).foldl (fun v p => v + bit ((s.port p).link == .up) p) 0
  if o = 0x000 then h.fabSt.code + up * 16 + h.fenceCause * 2 ^ 20
  else if o = 0x008 then h.devnum % 16384 + bit h.devValid 31
  else if o = 0x00C then h.slot.toNat + h.rkeep.toNat * 32 + h.hkeep.toNat * 128 +
    (if h.keeper.hallActing then 512 else if h.keeper.hallStandby then 1024 else 0)
  else if o = 0x010 then h.mapGen.toNat
  else if o = 0x018 ∨ o = 0x01C then half h.rightsBase (o - 0x018)
  else if o = 0x020 ∨ o = 0x024 then half h.groupBase (o - 0x020)
  else if o = 0x028 then h.groupLimit
  else if o = 0x030 then h.invIndex + bit h.invKind 30 + bit h.invDone 31
  else if o = 0x038 then h.timeout
  else if o = 0x040 then h.reorder.length
  else match entryAt 0x048 8 5 o, entryAt 0x070 4 2 o, entryAt 0x800 4 512 o with
  | some (i, b), _, _ => half (tget 0 h.cnt i) b
  | _, some (d, _), _ => (tget 65536 h.periods d).toNat
  | _, _, some (r, _) => (tget 0 h.map r).toNat
  | _, _, _ => 0

def portCnt (q : Port) (i : Nat) : Nat := if i = 0 then q.replayed else if i = 1 then q.fecBytes else q.downs

def portReg (s : State) (p o : Nat) : Nat :=
  let q := s.port p
  if o = 0x00 then bit q.unit.en 0 + bit q.unit.err 1
  else if o = 0x04 then q.link.code + q.unit.st.code * 32 + q.lanesOk.toNat * 256 + q.plane % 16 * 2 ^ 20
  else if o = 0x08 then q.switchPort.toNat * 256 + q.switchId.toNat * 65536
  else match entryAt 0x10 8 3 o with
  | some (i, b) => half (portCnt q i) b
  | none => 0

def fanReg (s : State) (o : Nat) : Nat :=
  let f := s.fan
  if o = 0x000 then f.levelBrake * 16 + f.levelCap * 256 + f.level * 4096 + bit (decide (f.levelCap < f.levelOp) && decide (3 ≤ s.boot.step) || f.capAll != 0) 18 +
    bit f.brake 19 + bit f.slowed 20 + bit f.avsErr 21
  else if o = 0x008 then f.levelOp + f.droop * 65536
  else if o = 0x010 then f.cap + capEff s * 65536
  else if o = 0x014 then f.capMin + f.capMax * 65536
  else if o = 0x018 then avgPower s
  else if o = 0x020 then f.group + f.groupCtx * 65536 + f.mode * 2 ^ 30
  else if o = 0x024 then f.skewMin + f.tokenMax * 4096 + f.tokenStep * 2 ^ 24
  else if o = 0x028 then f.refLevel + f.rateFloor * 16 + f.gcap * 65536
  else if o = 0x02C then (BitVec.ofInt 32 f.balance).toNat
  else if o = 0x030 ∨ o = 0x034 then half f.mboxBase (o - 0x030)
  else if o = 0x040 then f.skewMax
  else if o = 0x044 then f.skewRounds
  else 0

def fanTileReg (s : State) (p o : Nat) : Nat :=
  let t := s.fanTile p
  if o < 0x40 then t.mv (o / 4) + bit (t.raw (o / 4)).2.2 30 + bit (entryValid s t (o / 4)) 31
  else if o = 0x40 then t.fbMv + t.fbRate * 65536
  else if o = 0x44 then t.period.toNat
  else if o = 0x48 then (BitVec.ofInt 16 t.tj).toNat
  else if o = 0x4C then t.limit + bit t.capAll 13 + bit t.capG 14 + bit t.capFallback 15
  else 0

/-- A word of a byte string; zero beyond its end. -/
def wordOf (bs : List Byte) (o : Nat) : Nat := fieldAt bs o 4

def mgtReg (s : State) (o : Nat) : Nat :=
  let m := s.mgt
  let rsp := match m.mboxRsp with
    | some r => r.bytes
    | none => []
  if o = 0x000 then bit m.installerKey.isSome 0 + bit m.rtv 1 + bit m.recovery 2 + m.mgtB.st.code * 2 ^ 8 + m.mgtA.st.code * 2 ^ 10 +
    m.svcB.st.code * 2 ^ 12 + m.svcA.st.code * 2 ^ 14 + m.svnFloor * 2 ^ 16
  else if o = 0x014 then bit (m.mboxBusy || m.restarting) 0 + bit m.mboxDone 1 + rsp.length * 65536
  else if o = 0x018 ∨ o = 0x01C then half m.auditNext (o - 0x018)
  else if o = 0x020 then s.boot.step + bit s.boot.drainUpd 4 + s.boot.cause * 256 + min s.boot.ms 16383 * 65536
  else if o = 0x024 then min s.boot.pcsSpared 255 + min s.boot.framesRetired 255 * 2 ^ 8 + min s.boot.sparesEngaged 255 * 2 ^ 16 +
    min s.boot.tilesFailed 255 * 2 ^ 24
  else match entryAt 0x1000 4 1024 o, entryAt 0x2000 4 1024 o with
  | some (i, _), _ => (tget 0 m.req i).toNat
  | _, some (i, _) => wordOf rsp (4 * i)
  | _, _ => 0

def hifReg (s : State) (o : Nat) : Nat :=
  let h := s.hif
  if o = 0x000 then h.speed + h.width * 8 + bit h.flit 8
  else if o = 0x008 then h.fwRings
  else if o = 0x3000 ∨ o = 0x3004 then half (h.bar4Base % 2 ^ 17 * 2 ^ 32 + bit h.bar4En 63) (o - 0x3000)
  else match entryAt 0x1000 8 256 o, entryAt 0x2000 8 256 o with
  | some (f, b), _ => half ((s.fn f).ringsBase + (s.fn f).ringsCount * 2 ^ 32) b
  | _, some (f, b) => half ((s.fn f).vecBase + (s.fn f).vecCount * 2 ^ 32) b
  | _, _ => 0

def fnReg (s : State) (f o : Nat) : Nat :=
  let n := s.fn f
  if o = 0x000 then min n.ringsCount 65535 + bit n.descErr 16
  else if o = 0x008 then n.evtRing + bit n.evtMirror 16 + bit n.evtValid 31
  else if o = 0x010 then n.evtLost
  else 0

/-! ## The map -/

/-- The blocks of BAR0 and what an offset names in them. -/
inductive Blk
  | fn (o : Nat) | hif (o : Nat) | gov (d o : Nat) | mrc (d o : Nat) | grs (d o : Nat) | gslot (i o : Nat) | mem (o : Nat)
  | stack (i o : Nat) | tile (p o : Nat) | hdr (o : Nat) | port (p o : Nat) | ring (k o : Nat) | fan (o : Nat) | fanTile (p o : Nat)
  | mgt (o : Nat) | undef
deriving DecidableEq, Repr

/-- Where a BAR0 offset of the physical function lies. From 0xB0_0000 on the Fantail blocks, and the offsets that no row names there, come
before a ring view of COUNT above 16,384 that would reach so far (R569): DESIGN CHOICE (log 65). -/
def blockOf (a : Nat) : Blk :=
  if a < 0x8000 then .fn a
  else if a < 0x10000 then .hif (a - 0x8000)
  else if a < 0x400000 then .undef
  else if a < 0x440000 then .gov ((a - 0x400000) / 0x10000) (a % 0x10000)
  else if a < 0x500000 then .undef
  else if a < 0x540000 then .mrc ((a - 0x500000) / 0x10000) (a % 0x10000)
  else if a < 0x600000 then .undef
  else if a < 0x640000 then .grs ((a - 0x600000) / 0x10000) (a % 0x10000)
  else if a < 0x680000 then .undef
  else if a < 0x681000 then .gslot ((a - 0x680000) / 16) (a % 16)
  else if a < 0x700000 then .undef
  else if a < 0x710000 then .mem (a - 0x700000)
  else if a < 0x71C000 then .stack ((a - 0x710000) / 0x1000) (a % 0x1000)
  else if a < 0x800000 then .undef
  else if a < 0x8C8000 then .tile ((a - 0x800000) / 0x1000) (a % 0x1000)
  else if a < 0x900000 then .undef
  else if a < 0x910000 then .hdr (a - 0x900000)
  else if a < 0x911000 then .port ((a - 0x910000) / 0x100) (a % 0x100)
  else if a < 0xA00000 then .undef
  else if a < 0xB00000 then .ring ((a - 0xA00000) / 64) (a % 64)
  else if a < 0xB10000 then .fan (a - 0xB00000)
  else if a < 0xB16400 then .fanTile ((a - 0xB10000) / 0x80) (a % 0x80)
  else if a < 0xE00000 then .undef
  else if a < 0xE10000 then .mgt (a - 0xE00000)
  else .undef

/-- A virtual function decodes its function registers and its ring view. R564. -/
def blockFor (fn a : Nat) : Blk :=
  if fn = 0 then blockOf a
  else if a < 0x8000 then .fn a
  else if 0xA00000 ≤ a then .ring ((a - 0xA00000) / 64) (a % 64) else .undef

/-- The 32-bit word at an offset of a function's BAR0. -/
def regWord (s : State) (fn a : Nat) : Nat :=
  (match blockFor fn a with
   | .fn o => fnReg s fn o
   | .hif o => hifReg s o
   | .gov d o => govReg s d o
   | .mrc d o => mrcReg s d o
   | .grs d o => grsReg s d o
   | .gslot i o => gslotReg s i o
   | .mem o => memReg s o
   | .stack i o => stackReg s i o
   | .tile p o => tileReg s p o
   | .hdr o => hdrReg s o
   | .port p o => portReg s p o
   | .ring k o => match localRing s fn k with
     | some r => wordOf ((s.ring r).bytes fn) o
     | none => 0
   | .fan o => fanReg s o
   | .fanTile p o => fanTileReg s p o
   | .mgt o => mgtReg s o
   | .undef => 0) % 2 ^ 32

/-! ## RC fields (R8) -/

def clearTab (t : Tab Nat) (i b : Nat) : Tab Nat := tmod 0 t i (fun v => clearHalf v b)

/-- What a read of the 32-bit word at an offset clears: its RC fields, one half of a 64-bit counter. R8. -/
def readClears (s : State) (fn a : Nat) : State :=
  match blockFor fn a with
  | .fn o => if o = 0x010 then s.modFn fn (fun n => { n with evtLost := 0 }) else s
  | .gov d o => if o = 0x018 then s.modGov d (fun g => { g with faultCnt := 0 }) else s
  | .mrc d o => match entryAt 0x100 8 11 o with
    | some (c, b) => s.modMrc d (fun m => { m with stall := clearTab m.stall c b })
    | none => s
  | .grs d o => match entryAt 0x008 8 13 o with
    | some (i, b) => s.modGrs d (fun g => match i with
      | 0 => { g with decBlocks := clearHalf g.decBlocks b }
      | 1 => { g with decRaw := clearHalf g.decRaw b }
      | 2 => { g with encBlocks := clearHalf g.encBlocks b }
      | 6 => g
      | 11 => { g with bytesRead := clearHalf g.bytesRead b }
      | 12 => { g with bytesOut := clearHalf g.bytesOut b }
      | j => if j < 6 then { g with encRaw := clearTab g.encRaw (j - 3) b } else { g with bad := clearTab g.bad (j - 7) b })
    | none => s
  | .stack i o => if o = 0x020 then s.modStack i (fun t => { t with ce := 0 })
    else if o = 0x024 then s.modStack i (fun t => { t with ue := 0 }) else s
  | .tile p o => match entryAt 0x100 8 11 o with
    | some (c, b) => s.modTile p (fun t => { t with stall := clearTab t.stall c b })
    | none => if o = 0x420 then s.modMpd p (fun m => { m with ce := 0 })
      else if o = 0x424 then s.modMpd p (fun m => { m with ue := 0 }) else s
  | .hdr o => match entryAt 0x048 8 5 o with
    | some (i, b) => { s with hdr := { s.hdr with cnt := clearTab s.hdr.cnt i b } }
    | none => s
  | .port p o => match entryAt 0x10 8 3 o with
    | some (i, b) => s.modPort p (fun q => match i with
      | 0 => { q with replayed := clearHalf q.replayed b }
      | 1 => { q with fecBytes := clearHalf q.fecBytes b }
      | _ => { q with downs := clearHalf q.downs b })
    | none => s
  | .fan o => if o = 0x040 then { s with fan := { s.fan with skewMax := 0 } }
    else if o = 0x044 then { s with fan := { s.fan with skewRounds := 0 } } else s
  | _ => s

/-! ## Writes (R6) -/

/-- A write of EN with a W1C ERR. 16. -/
def writeEnReg (s : State) (u : EnUnit) (v : Nat) : State :=
  requestUnit (if v.testBit 1 then modUnit s u (fun x => { x with err := false }) else s) u (v.testBit 0)

/-- LEVEL_OP: the cap loop and an idle Brake stay within it. R589. -/
def writeLevelOp (s : State) (v : Nat) : State :=
  let f := s.fan
  let idle := !f.brake && !f.brakeReleasing
  applyLevel { s with fan := { f with levelOp := v, levelCap := min f.levelCap v, levelBrake := if idle then v else f.levelBrake } }

/-- The 32-bit registers that a host writes. -/
def writeHost (s : State) (b : Blk) (fn v : Nat) : State :=
  match b with
  | .fn o =>
    if o = 0x000 then (if v.testBit 16 then s.modFn fn (fun n => { n with descErr := false }) else s)
    else if o = 0x008 then
      s.modFn fn (fun n => { n with evtValid := v.testBit 31, evtMirror := fn == 0 && v.testBit 16, evtRing := v % 65536 })
    else s
  | .gov d o =>
    if o = 0x010 then s.modGov d (fun g => { g with wdog := v % 2 ^ 24 })
    else if o = 0x014 then s.modGov d (fun g => { g with age := v % 2 ^ 24 })
    else match entryAt 0x400 4 12 o with
    | some (i, _) => writeEnReg s (.engine (12 * d + i)) v
    | none => s
  | .mrc d o =>
    if o = 0x010 then s.modMrc d (fun m => { m with wdog := v % 2 ^ 24 })
    else if o = 0x030 then s.modMrc d (fun m => { m with weirSel := v % 4096 }) else s
  | .grs d o => match entryAt 0x080 4 8 o with
    | some (i, _) => writeEnReg s (.lane (8 * d + i)) v
    | none => s
  | .tile p o =>
    if o = 0x0E0 then writeEnReg s (.tile p) v
    else if o = 0x408 then
      let s1 := s.modMpd p (fun m => { m with idle := bitsOf v 8 16, retEn := BitVec.ofNat 3 v })
      if v.testBit 3 then wakeBanks s1 p else s1
    else s
  | .hdr o => if o = 0x038 then { s with hdr := { s.hdr with timeout := v % 2 ^ 24 } } else s
  | .port p o => if o = 0x00 then writeEnReg s (.port p) v else s
  | .fan o => if o = 0x008 then writeLevelOp s (v % 16) else s
  | .mgt o =>
    if o = 0x010 then
      (if v.testBit 0 && !s.mgt.mboxBusy && !s.mgt.restarting then { s with mgt := { s.mgt with mboxBusy := true } } else s)
    else if o = 0x014 then (if v.testBit 1 then { s with mgt := { s.mgt with mboxDone := false } } else s)
    else match entryAt 0x1000 4 1024 o with
    | some (i, _) => { s with mgt := { s.mgt with req := tset 0 s.mgt.req i (BitVec.ofNat 32 v) } }
    | none => s
  | _ => s

/-- The 32-bit registers that service firmware alone writes. -/
def writeFw (s : State) (b : Blk) (v : Nat) : State :=
  match b with
  | .hif o => if o = 0x008 then { s with hif := { s.hif with fwRings := v % 2 ^ 17 } } else s
  | .gov d o => if o = 0x008 then s.modGov d (fun g => { g with runqRing := v % 65536 }) else s
  | .mrc d o =>
    if o = 0x008 then s.modMrc d (fun m => { m with haltRing := v % 65536 })
    else if o = 0x00C then s.modMrc d (fun m => { m with fwSlots := min 256 (v % 512) })
    else if o = 0x034 then
      s.modMrc d (fun m => { m with weir := tmod {} m.weir m.weirSel (fun w => { w with rateNext := some (v % 2 ^ 24) }) })
    else if o = 0x038 then
      s.modMrc d (fun m => { m with weir := tmod {} m.weir m.weirSel (fun w => { w with depthNext := some (v % 2 ^ 24) }) })
    else match entryAt 0x1000 32 256 o with
    | some (k, b) => if b = 0 then s.modSlot (256 * d + k) (fun y => { y with actionFault := v.testBit 4 }) else s
    | none => s
  | .mem o =>
    if o = 0x018 then { s with memb := { s.memb with invVa48 := v.testBit 0 } }
    else if o = 0x020 then { s with memb := { s.memb with ceLimit := v % 256, pcCeLimit := bitsOf v 16 16 } } else s
  | .stack i o => if o = 0x010 then s.modStack i (fun t => { t with scrubInt := v % 2 ^ 24 }) else s
  | .hdr o =>
    if o = 0x028 then { s with hdr := { s.hdr with groupLimit := v % 2 ^ 17 } }
    else if o = 0x030 then startTblInval s v else s
  | .fan o => if o = 0x020 then writeFanGroup s (bitsOf v 30 2) (bitsOf v 16 12) (bitsOf v 0 16) else s
  | _ => s

/-- A register that is 64 bits wide and is written. -/
def wide (b : Blk) : Bool :=
  match b with
  | .hif o => (entryAt 0x1000 8 256 o).isSome || (entryAt 0x2000 8 256 o).isSome
  | .mem o => o == 0x010 || o == 0x014
  | .hdr o => o == 0x018 || o == 0x01C || o == 0x020 || o == 0x024
  | .fan o => o == 0x030 || o == 0x034
  | _ => false

/-- A 64-bit value written to such a register, at its first byte. -/
def writeWide (s : State) (b : Blk) (fw : Bool) (v : Nat) : State :=
  match b with
  | .hif o =>
    (match entryAt 0x1000 8 256 o, entryAt 0x2000 8 256 o with
     | some (f, _), _ => if fw then s else writeFnRings s f (bitsOf v 0 16) (bitsOf v 32 17)
     | _, some (f, _) => if fw then s else writeFnVec s f (bitsOf v 0 11) (bitsOf v 32 12)
     | _, _ => s)
  | .mem _ => if fw then startXlatInval s v else s
  | .hdr o =>
    if !fw then s
    else if o = 0x018 then { s with hdr := { s.hdr with rightsBase := bitsOf v 12 37 * 4096 } }
    else { s with hdr := { s.hdr with groupBase := bitsOf v 12 37 * 4096 } }
  | .fan _ => if fw then { s with fan := { s.fan with mboxBase := bitsOf v 19 30 * 524288 } } else s
  | _ => s

/-- A naturally aligned write of 4 or 8 bytes; other codes of a register's fields act as they give. R6, R10, R11. -/
def regWrite (s : State) (fw : Bool) (fn a size v : Nat) : State :=
  let base := a / 8 * 8
  match blockFor fn a with
  | .ring k o =>
    (match localRing s fn k with
     | some r => ringWrite s fn r o size v false
     | none => s)
  | b =>
    if wide b then
      let old := regWord s fn base + 2 ^ 32 * regWord s fn (base + 4)
      let new := if size = 8 then v else if a = base then old / 2 ^ 32 * 2 ^ 32 + v % 2 ^ 32 else old % 2 ^ 32 + 2 ^ 32 * v
      writeWide s (blockFor fn base) fw new
    else
      let one (s : State) (a v : Nat) : State :=
        let s1 := writeHost s (blockFor fn a) fn v
        if fw then writeFw s1 (blockFor fn a) v else s1
      if size = 8 then one (one s a (v % 2 ^ 32)) (a + 4) (v / 2 ^ 32) else one s a (v % 2 ^ 32)

/-- A naturally aligned read of 4 or 8 bytes: the value, and the state that the read leaves. R8, R10. -/
def regRead (s : State) (fn a size : Nat) : State × Nat :=
  if size = 8 then (readClears (readClears s fn a) fn (a + 4), regWord s fn a + 2 ^ 32 * regWord s fn (a + 4))
  else (readClears s fn a, regWord s fn a)

/-- An access that the device supports. R11, R12. -/
def barAccess (fn a size : Nat) : Bool := decide (fn < 256) && (size == 4 || size == 8) && a % size == 0 && decide (a + size ≤ 0x1000000)

/-- R6, R10 to R12. -/
def execRegisterWrite (fn off size : Nat) (val : W64) (s : State) : Host.Outcome State Fault Refusal :=
  .next (if stopped s xPcie || !barAccess fn off size then s else regWrite s false fn off size (val.toNat % 2 ^ (8 * size)))

/-- R8, R10 to R12: an access of another size or alignment is an unsupported request. -/
def execRegisterReadClear (fn off size : Nat) (s : State) : Host.Outcome State Fault Refusal :=
  .next (if stopped s xPcie then s
    else if !barAccess fn off size then setRdata s none
    else
      let (s1, v) := regRead s fn off size
      setRdata s1 (some (BitVec.ofNat 64 v)))

end Sys2Proof.Machine
end

