-- ==== Sys2Proof/Machine/LoadStore.lean ====
section
/-! DEFINITION. Loads and stores of the sequencers (06, R253 to R258) and the service address space. -/

namespace Sys2Proof.Machine
open Sys2Proof

/-! ## Data -/

/-- Bytes of an access. 06. -/
def accessBytes (sz : BitVec 2) : Nat := 2 ^ sz.toNat

/-- Loaded data, sign- or zero-extended. 06. -/
def extendData (sz : BitVec 2) (sx : Bool) (v : Nat) : W64 :=
  let n := 8 * accessBytes sz
  if sx ∧ 2 ^ (n - 1) ≤ v % 2 ^ n then BitVec.ofNat 64 (v % 2 ^ n + 2 ^ 64 - 2 ^ n) else BitVec.ofNat 64 (v % 2 ^ n)

/-- A load that has its data. -/
def loaded (s : State) (c : Core) (sd : BitVec 5) (sz : BitVec 2) (sx : Bool) (v : Nat) : State :=
  s.modSeqr c (fun q => q.writeS sd (extendData sz sx v))

/-- Atomics of a core's queue. -/
def coreAtoms (s : State) : Core → List AtomOp
  | .tile l => (s.tile (s.phys l)).atomQ
  | .miller m => (s.miller m).atomQ

def modAtoms (s : State) (c : Core) (f : List AtomOp → List AtomOp) : State :=
  match c with
  | .tile l => s.modTile (s.phys l) (fun t => { t with atomQ := f t.atomQ })
  | .miller m => s.modMiller m (fun k => { k with atomQ := f k.atomQ })

/-- Data still to come for a register goes nowhere once a later instruction has the register wait again. -/
def forget (s : State) (c : Core) (sd : BitVec 5) : State :=
  let s1 := modAtoms s c (fun q => q.map (fun a => if a.sd = sd.toNat then { a with sd := 0 } else a))
  { s1 with hdr := { s1.hdr with outst := s1.hdr.outst.map (fun o => match o.who with
      | .load d pc r sz sx => if d = c ∧ r = sd.toNat then { o with who := .load d pc 0 sz sx } else o
      | _ => o) } }

/-- A register that waits for data of the fabric or of a bank. R242. -/
def await (s : State) (c : Core) (sd : BitVec 5) (fabric : Bool) : State :=
  if sd = 0 then s
  else (forget s c sd).modSeqr c (fun q => { q with waiting := q.waiting.filter (fun w => w.1 != sd.toNat) ++ [(sd.toNat, fabric)] })

/-- Data that a register waits for arrives. R242, R294. -/
def deliverReg (s : State) (c : Core) (sd : Nat) (v : W64) : State :=
  s.modSeqr c (fun q =>
    if q.waiting.any (fun w => w.1 == sd) then
      { q.setS (BitVec.ofNat 5 sd) v with waiting := q.waiting.filter (fun w => w.1 != sd) }
    else q)

/-! ## Ordering by address (R219) -/

/-- A store or atomic of the tile to the same word is still to be made. R219. -/
def storePending (s : State) (r : Run) (l a : Nat) : Bool :=
  (s.tile (s.phys l)).atomQ.any (fun x => x.kind != .arrive && accessKey s r l x.addr.toNat / 32 == accessKey s r l a / 32)

/-- A data word that holds no good data halts the sequencer at the load. R257, R716. -/
def loadWord (s : State) (c : Core) (pl : Place) (sd : BitVec 5) (sz : BitVec 2) (sx : Bool) (a : Nat) : Iss :=
  match readSub s pl (accessBytes sz) with
  | (s1, v, .ok) => .done (loaded s1 c sd sz sx v)
  | (s1, _, _) => match c with
    | .tile _ => .hold s1 (.halted .eccUncorrectable a)
    | .miller _ => .fault s1 .eccUncorrectable

/-- A LOAD request. R464, R467. -/
def loadRemote (s : State) (c : Core) (dev group oclass off : Nat) (sd : BitVec 5) (sz : BitVec 2) (sx : Bool) : Iss :=
  .done (sendReq (await s c sd true) dev group oclass 0x01 0 (gAddr dev off) 0 [] (.load c (s.seqr c).pc sd.toNat sz.toNat sx))

/-! ## Tile profile (R253 to R257) -/

/-- The checks of a tile's access at a Millpond address: form, regions, and the owner tags of its own blocks. R253, R255. -/
def mpAccess (s : State) (r : Run) (l a n : Nat) (write : Bool) : Flt :=
  match mpTarget r l a with
  | none => .operandInvalid
  | some (t, off) =>
    if !regionOk r (t == l) write off n then .fenced
    else if t = l ∧ rangeOwned s r.rr.ctx (s.phys l) off n = false then .fenced
    else .none

def ldTile (s : State) (c : Core) (l : Nat) (r : Run) (sd : BitVec 5) (sz : BitVec 2) (sx : Bool) (ea : W64) : Iss :=
  let a := ea.toNat
  let n := accessBytes sz
  if a % n ≠ 0 then .fault s .operandInvalid
  else if a < 2 ^ 32 then
    (if mpAccess s r l a n false ≠ .none then .fault s (mpAccess s r l a n false)
     else match mpTarget r l a with
     | none => .fault s .operandInvalid
     | some (t, off) =>
       let pl := Place.mill (s.phys t) off
       if !owned s r.rr.ctx pl then .fault s .fenced
       else if t == l && blocked s l (s.tile (s.phys l)).iseq [(off, n)] [] then .hold s .hazard
       else if storePending s r l a then .stay s
       else loadWord s c pl sd sz sx a)
  else if a < 2 ^ 63 then .fault s .operandInvalid
  else if storePending s r l a then .stay s
  else match globalAddr s r.rr.ctx a permRead n with
  | (s1, .flt f) => .fault s1 f
  | (s1, .here pl) =>
    if blocked s1 l (s1.tile (s1.phys l)).iseq (optRng (ownAt s1 l a) n) [] then .hold s1 .hazard
    else if barred s1 (l / 48) pl then .stay s1
    else loadWord s1 c pl sd sz sx a
  | (s1, .remote dev g off) => if stopped s1 (xLink (l / 48)) then .stay s1 else loadRemote s1 c dev g 1 off sd sz sx

/-- An operation joins the tile's atomic queue, which holds 16. 05, R222. -/
def queueAtom (s : State) (l : Nat) (o : AtomOp) : Iss :=
  if 16 ≤ (s.tile (s.phys l)).atomQ.length then .stay s
  else
    let (s1, n) := takeIseq s l
    .done (s1.modTile (s.phys l) (fun t => { t with atomQ := t.atomQ ++ [{ o with iseq := n }] }))

/-- A store into the tile's own Millpond is made; others pass through the atomic queue. R253 to R255, R317. -/
def stTile (s : State) (c : Core) (l : Nat) (r : Run) (v : W64) (sz : BitVec 2) (ea : W64) : Iss :=
  let a := ea.toNat
  let n := accessBytes sz
  let o : AtomOp := { iseq := 0, pc := (s.seqr c).pc, kind := .store n, addr := ea, operand := v, ctx := r.rr.ctx }
  if a % n ≠ 0 then .fault s .operandInvalid
  else if a < 2 ^ 32 then
    (if mpAccess s r l a n true ≠ .none then .fault s (mpAccess s r l a n true)
     else match mpTarget r l a with
     | none => .fault s .operandInvalid
     | some (t, off) =>
       if t ≠ l then queueAtom s l o
       else if blocked s l (s.tile (s.phys l)).iseq [] [(off, n)] then .hold s .hazard
       else if storePending s r l a then .stay s
       else match writeSub s (.mill (s.phys l) off) n (v.toNat % 2 ^ (8 * n)) with
       | (s1, .none) => .done s1
       | (s1, _) => .done (machineFault s1 l (s.seqr c).pc true))
  else if a < 2 ^ 63 then .fault s .operandInvalid
  else queueAtom s l o

/-! ## The service address space (R258) -/

/-- Service addresses from here on reach the control registers, and then the ring table by global number. -/
def regWindow : Nat := 2 ^ 48

/-- The function whose range holds a ring; the physical function for firmware's own. R567. -/
def ringOwner (s : State) (r : Nat) : Nat :=
  match s.hif.fns.find? (fun f => decide (f.2.ringsBase ≤ r) && decide (r < f.2.ringsBase + f.2.ringsCount)) with
  | some f => f.1
  | none => 0

/-- A register access by firmware: of 4 or 8 bytes. R11, R12. -/
def fwRead (s : State) (o n : Nat) : State × Nat :=
  if n < 4 then (s, 0)
  else if o < 0x1000000 then regRead s 0 o n
  else if o < 0x1400000 then
    let r := (o - 0x1000000) / 64
    (s, fieldAt ((s.ring r).bytes (ringOwner s r)) (o % 64) n)
  else (s, 0)

def fwWrite (s : State) (o n v : Nat) : State :=
  if n < 4 then s
  else if o < 0x1000000 then regWrite s true 0 o n v
  else if o < 0x1400000 then
    let r := (o - 0x1000000) / 64
    ringWrite s (ringOwner s r) r (o % 64) n v true
  else s

def svcRead (s : State) (m a n : Nat) : State × Nat :=
  if regWindow ≤ a then fwRead s (a - regWindow) n else (s, s.num (svcKey m a) n)

def svcWrite (s : State) (m a n v : Nat) : State :=
  if regWindow ≤ a then fwWrite s (a - regWindow) n v else s.setNum (svcKey m a) n v

def ldSvc (s : State) (c : Core) (m : Nat) (sd : BitVec 5) (sz : BitVec 2) (sx : Bool) (ea : W64) : Iss :=
  if ea.toNat % accessBytes sz ≠ 0 then .fault s .operandInvalid
  else
    let (s1, v) := svcRead s m ea.toNat (accessBytes sz)
    .done (loaded s1 c sd sz sx v)

def stSvc (s : State) (m : Nat) (v : W64) (sz : BitVec 2) (ea : W64) : Iss :=
  let n := accessBytes sz
  if ea.toNat % n ≠ 0 then .fault s .operandInvalid else .done (svcWrite s m ea.toNat n (v.toNat % 2 ^ (8 * n)))

/-- R253 to R257, R258. -/
def execLd (c : Core) (g : Guard) (sd : BitVec 5) (ab : BitVec 4) (sz : BitVec 2) (sx : Bool) (off : BitVec 32) (s : State) :
    Host.Outcome State Fault Refusal :=
  issue s c g {} (fun s =>
    let ea := effAddr (s.seqr c) ab off
    match c with
    | .tile l => onTile s c (fun _ r => ldTile s c l r sd sz sx ea)
    | .miller m => ldSvc s c m sd sz sx ea)

/-- R253 to R256, R258. -/
def execSt (c : Core) (g : Guard) (sd : BitVec 5) (ab : BitVec 4) (sz : BitVec 2) (off : BitVec 32) (s : State) :
    Host.Outcome State Fault Refusal :=
  issue s c g { reads := [sd] } (fun s =>
    let q := s.seqr c
    let ea := effAddr q ab off
    match c with
    | .tile l => onTile s c (fun _ r => stTile s c l r (q.s sd) sz ea)
    | .miller m => stSvc s m (q.s sd) sz ea)

/-- Where an entry of a Miller core's queue leads: a store by its context, an atomic by its device address. R258, R297, R439. -/
def svcWhere (s : State) (x : AtomOp) : State × CA :=
  match x.kind with
  | .store n => ctxAddr s x.ctx x.addr.toNat permWrite n false
  | _ => match locate s x.addr.toNat with
    | none => (s, .flt .fenced)
    | some pl => (s, if frameRetired s pl then .flt .fenced else .here pl)

/-- What an address leads to, as one number: a storage key, a global address, or `d` where it leads nowhere. -/
def CA.keyOr (d : Nat) : CA → Nat
  | .here pl => pl.key
  | .remote dev _ off => (gAddr dev off).toNat
  | .flt _ => d

/-- A store or atomic of a Miller core to the same word is still to be made. R219. -/
def svcPending (s : State) (m ctx a n : Nat) : Bool :=
  (s.miller m).atomQ.any (fun x =>
    x.kind != .arrive && x.kind != .sluiceReset &&
    (svcWhere s x).2.keyOr x.addr.toNat / 32 == (ctxAddr s ctx a permRead n false).2.keyOr a / 32)

/-- An operation joins a Miller core's atomic queue. -/
def queueSvc (s : State) (m : Nat) (o : AtomOp) : Iss :=
  if 16 ≤ (s.miller m).atomQ.length then .stay s
  else .done (s.modMiller m (fun k => { k with iseq := k.iseq + 1, atomQ := k.atomQ ++ [{ o with iseq := k.iseq }] }))

/-- R258. -/
def execLdc (c : Core) (g : Guard) (sd : BitVec 5) (ab : BitVec 4) (sz : BitVec 2) (sx : Bool) (sc : BitVec 5) (off : BitVec 32)
    (s : State) : Host.Outcome State Fault Refusal :=
  issue s c g { tile := false, reads := [sc] } (fun s =>
    let q := s.seqr c
    let a := (effAddr q ab off).toNat
    match c with
    | .tile _ => .stay s
    | .miller m =>
      if a % accessBytes sz ≠ 0 then .fault s .operandInvalid
      else if svcPending s m ((q.s sc).toNat % 4096) a (accessBytes sz) then .stay s
      else match ctxAddr s ((q.s sc).toNat % 4096) a permRead (accessBytes sz) false with
      | (s1, .flt f) => .fault s1 f
      | (s1, .here pl) => if barred s1 (m / 4) pl then .stay s1 else loadWord s1 c pl sd sz sx a
      | (s1, .remote dev gr o) =>
        if stopped s1 (xLink (m / 4)) then .stay s1 else (loadRemote s1 c dev gr 3 o sd sz sx).map (fun t => t.requestFor ((q.s sc).toNat % 4096)))

/-- R258. -/
def execStc (c : Core) (g : Guard) (sd : BitVec 5) (ab : BitVec 4) (sz : BitVec 2) (sc : BitVec 5) (off : BitVec 32) (s : State) :
    Host.Outcome State Fault Refusal :=
  issue s c g { tile := false, reads := [sc, sd] } (fun s =>
    let q := s.seqr c
    let ea := effAddr q ab off
    let n := accessBytes sz
    let ctx := (q.s sc).toNat % 4096
    match c with
    | .tile _ => .stay s
    | .miller m =>
      if ea.toNat % n ≠ 0 then .fault s .operandInvalid
      else match ctxAddr s ctx ea.toNat permWrite n false with
      | (s1, .flt f) => .fault s1 f
      | (s1, .here pl) =>
        if barred s1 (m / 4) pl then .stay s1
        else match writeSub s1 pl n ((q.s sd).toNat % 2 ^ (8 * n)) with
        | (s2, .none) => .done s2
        | (s2, f) => .fault s2 f
      | (s1, .remote _ _ _) => queueSvc s1 m { iseq := 0, pc := q.pc, kind := .store n, addr := ea, operand := q.s sd, ctx := ctx })

end Sys2Proof.Machine
end

