-- ==== Sys2Proof/Machine/Atomics.lean ====
section
/-! DEFINITION. Bank atomics (06, R294 to R298; 07, R324, R325) and the atomic queue of a core: what waits in it, and how its entries
reach their words (05, R219 to R224; 08, R367, R371, R726). -/

namespace Sys2Proof.Machine
open Sys2Proof

/-! ## Issue -/

/-- A device address of an HBM or Millpond word, on any device. R297, R417. -/
def wordAddress (a : Nat) : Bool :=
  decide (a < hbmEnd) || (decide (0x100000000000 ≤ a) && decide (a < 0x100060000000) && decide (a % 0x800000 < 0x600000))

/-- A tile's atomic: alignment, address form, and the regions of a Millpond address. R253, R255, R297. -/
def atomFlt (s : State) (r : Run) (l a n : Nat) : Flt :=
  if a % n ≠ 0 then .operandInvalid
  else if a < 2 ^ 32 then mpAccess s r l a n true
  else if a < 2 ^ 63 ∨ wordAddress (gOff a) = false then .operandInvalid
  else .none

/-- A Miller core's atomic names a word by its device address; a reserved one is refused. R297, R418, R421. -/
def svcAtomFlt (s : State) (a n : Nat) : Flt := if a % n ≠ 0 then .operandInvalid else if (locate s a).isNone then .fenced else .none

/-- An atomic of 32 or 64 bits: posted with SD = 0, otherwise its register waits. R294, R295, R297. -/
def issueAtom (c : Core) (g : Guard) (k : AtomKind) (sd sa : BitVec 5) (ab : BitVec 4) (off : BitVec 32) (s : State) :
    Host.Outcome State Fault Refusal :=
  issue s c g { reads := [sa] } (fun s =>
    let q := s.seqr c
    let ea := effAddr q ab off
    let o : AtomOp := { iseq := 0, pc := q.pc, kind := k, addr := ea, operand := q.s sa, sd := sd.toNat }
    match c with
    | .tile l => onTile s c (fun _ r =>
        let f := atomFlt s r l ea.toNat k.width
        if f ≠ .none then .fault s f
        else if 16 ≤ (s.tile (s.phys l)).atomQ.length then .stay s
        else queueAtom (await s c sd (decide (2 ^ 63 ≤ ea.toNat))) l { o with ctx := r.rr.ctx })
    | .miller m =>
      if svcAtomFlt s ea.toNat k.width ≠ .none then .fault s (svcAtomFlt s ea.toNat k.width)
      else if 16 ≤ (s.miller m).atomQ.length then .stay s
      else queueSvc (await s c sd false) m o)

/-- R324. -/
def execAtomAddI32 (c : Core) (g : Guard) (sd sa : BitVec 5) (ab : BitVec 4) (off : BitVec 32) (s : State) :
    Host.Outcome State Fault Refusal := issueAtom c g .addI32 sd sa ab off s

/-- R298, R324. -/
def execAtomAddF32 (c : Core) (g : Guard) (sd sa : BitVec 5) (ab : BitVec 4) (off : BitVec 32) (s : State) :
    Host.Outcome State Fault Refusal := issueAtom c g .addF32 sd sa ab off s

/-- R74, R324. -/
def execAtomAddP64 (c : Core) (g : Guard) (sd sa : BitVec 5) (ab : BitVec 4) (off : BitVec 32) (s : State) :
    Host.Outcome State Fault Refusal := issueAtom c g .addP64 sd sa ab off s

/-- R324. -/
def execAtomSwap32 (c : Core) (g : Guard) (sd sa : BitVec 5) (ab : BitVec 4) (off : BitVec 32) (s : State) :
    Host.Outcome State Fault Refusal := issueAtom c g .swap32 sd sa ab off s

/-- R324. -/
def execAtomSwap64 (c : Core) (g : Guard) (sd sa : BitVec 5) (ab : BitVec 4) (off : BitVec 32) (s : State) :
    Host.Outcome State Fault Refusal := issueAtom c g .swap64 sd sa ab off s

/-- The sequencer waits for a 256-bit swap that it has issued. R296. -/
def holdSwap : Iss → Iss
  | .done s => .hold s .swap256
  | x => x

/-- The own word of a tile's 256-bit swap: word-aligned, in the A or O bank, and in a writable region. R296. -/
def swapLocal (s : State) (r : Run) (l a : Nat) : Except Flt Nat :=
  match (if a < 2 ^ 32 then ownOff r l a else none) with
  | none => .error .operandInvalid
  | some o =>
    if o % 32 ≠ 0 ∨ !(inBank 1 o 32 || inBank 2 o 32) then .error .operandInvalid
    else match ownRange s r l true o 32 with
    | .none => .ok o
    | f => .error f

/-- The word that a Miller core's 256-bit swap exchanges, by device address: an A or O bank. R296. -/
def svcSwapLocal (s : State) (a : Nat) : Bool :=
  match locate s a with
  | some (.mill _ o) => a % 32 == 0 && (inBank 1 o 32 || inBank 2 o 32)
  | _ => false

/-- R296, R297. -/
def execAtomSwap256 (c : Core) (g : Guard) (aw ab : BitVec 4) (off : BitVec 32) (s : State) : Host.Outcome State Fault Refusal :=
  issue s c g {} (fun s =>
    let q := s.seqr c
    let ea := effAddr q ab off
    let w := (q.a aw).toNat
    match c with
    | .tile l => onTile s c (fun _ r =>
        if ea.toNat % 32 ≠ 0 then .fault s .operandInvalid
        else match atomFlt s r l ea.toNat 32, swapLocal s r l w with
        | .operandInvalid, _ => .fault s .operandInvalid
        | _, .error f => .fault s f
        | .none, .ok o => holdSwap (queueAtom s l { iseq := 0, pc := q.pc, kind := .swap256, addr := ea, operand := 0, local256 := o, ctx := r.rr.ctx })
        | f, .ok _ => .fault s f)
    | .miller m =>
      if svcAtomFlt s ea.toNat 32 = .operandInvalid ∨ svcSwapLocal s w = false then .fault s .operandInvalid
      else if svcAtomFlt s ea.toNat 32 ≠ .none then .fault s (svcAtomFlt s ea.toNat 32)
      else holdSwap (queueSvc s m { iseq := 0, pc := q.pc, kind := .swap256, addr := ea, operand := 0, local256 := w }))

/-! ## Application (R220, R367) -/

/-- The entry with its request on the fabric, and the entry done. -/
def markSent (s : State) (c : Core) (n : Nat) : State :=
  modAtoms s c (fun q => q.map (fun a => if a.iseq = n then { a with sent := true } else a))

def dropAtom (s : State) (c : Core) (n : Nat) : State := modAtoms s c (fun q => q.filter (fun a => a.iseq != n))

/-- An entry fails: the tile's run faults, or the Miller core halts. R230, R256, R317, R726. -/
def atomFail (s : State) (c : Core) (a : AtomOp) (f : Flt) (machine counted : Bool) : State :=
  let s1 := dropAtom s c a.iseq
  match c with
  | .tile l => if machine then machineFault s1 l a.pc counted else faultTile s1 l f a.pc clsOperation
  | .miller m => serviceFault s1 m

/-- The old value reaches SD, if any. R294. -/
def atomOld (s : State) (c : Core) (a : AtomOp) (v : W64) : State := if a.sd = 0 then s else deliverReg s c a.sd v

/-- The place of a core's own word for a 256-bit swap. -/
def swapPlace (s : State) (c : Core) (a : AtomOp) : Option Place :=
  match c with
  | .tile l => some (.mill (s.phys l) a.local256)
  | .miller _ => locate s a.local256

/-- The entry is made at a word of this device. R220, R314, R317, R324, R325. -/
def atomHere (s : State) (c : Core) (a : AtomOp) (pl : Place) : State :=
  match a.kind with
  | .store n =>
    (match writeSub s pl n (a.operand.toNat % 2 ^ (8 * n)) with
     | (s1, .none) => dropAtom s1 c a.iseq
     | (s1, _) => atomFail s1 c a .eccUncorrectable true true)
  | .swap256 =>
    (match swapPlace s c a with
     | none => atomFail s c a .operandInvalid false false
     | some own =>
       let mine := s.word own.key
       let (s1, got) := atomSwap256 s pl mine
       dropAtom (writeWord s1 own got) c a.iseq)
  | k =>
    (match atomApply s pl k a.operand with
     | (s1, old, .ok) => dropAtom (atomOld s1 c a old) c a.iseq
     | (s1, _, st) => atomFail s1 c a .eccUncorrectable true (st == .bad))

/-- Operation and permission of a request. R464, R475. -/
def atomOp : AtomKind → Nat
  | .store _ => 0x02 | .addI32 => 0x08 | .addF32 => 0x09 | .addP64 => 0x0A | .swap32 => 0x0C | .swap64 => 0x0D | .swap256 => 0x0E
  | .arrive => 0x10 | .sluiceReset => 0x0C | .addP64x4 => 0x0B

def atomPerm : AtomKind → Nat
  | .store _ => permWrite
  | .arrive => permSluice
  | _ => permAtomic

/-- Ordering class of a request: SYNC for an arrival, SERVICE for firmware, STORE otherwise. R467. -/
def atomClass (c : Core) (a : AtomOp) : Nat :=
  match a.kind, c with
  | .arrive, _ => 2
  | _, .miller _ => 3
  | _, .tile _ => 1

/-- The request of an entry. R463, R464. -/
def atomSend (s : State) (c : Core) (a : AtomOp) (dev group off : Nat) : State :=
  let who : Requester := match a.kind with
    | .swap256 => .swap c a.iseq
    | _ => .atom c a.iseq
  let base := off / 32 * 32
  let word (v : Nat) : Word288 := (BitVec.ofNat 256 v, 0)
  let s1 := match a.kind with
    | .store n =>
      sendReq s dev group (atomClass c a) 0x02 0 (gAddr dev base) (BitVec.ofNat 64 ((2 ^ n - 1) * 2 ^ (off % 32)))
        [word (a.operand.toNat % 2 ^ (8 * n) * 2 ^ (8 * (off % 32)))] who
    | .swap256 => sendReq s dev group (atomClass c a) 0x0E 0 (gAddr dev off) 0 ((swapPlace s c a).map (fun p => s.word p.key)).toList who
    | _ => sendReq s dev group (atomClass c a) (atomOp a.kind) 0 (gAddr dev off) a.operand [] who
  markSent s1 c a.iseq

/-- Where an entry's address leads. R255, R256, R258, R297. -/
def atomWhere (s : State) (c : Core) (a : AtomOp) : State × CA :=
  match c with
  | .tile l => match s.runOf l with
    | none => (s, .flt .fenced)
    | some r =>
      if a.addr.toNat < 2 ^ 32 then
        (match mpPlace s r l a.addr.toNat with
         | none => (s, .flt .operandInvalid)
         | some pl => (s, if owned s r.rr.ctx pl then .here pl else .flt .fenced))
      else globalAddr s a.ctx a.addr.toNat (atomPerm a.kind) a.kind.width
  | .miller _ => svcWhere s a

/-- An arrival: at this device's sluice, or as a remote INT32 add. R222, R367, R371, R726. -/
def atomArrive (s : State) (c : Core) (a : AtomOp) : State :=
  let here (s : State) (ctx n : Nat) : State :=
    if !sluiceOwned s ctx n then atomFail s c a .fenced false false
    else match sluiceArrive s ctx n with
    | (s1, .ok) => dropAtom s1 c a.iseq
    | (s1, st) => atomFail s1 c a .eccUncorrectable true (st == .bad)
  if a.addr.toNat < 2 ^ 63 then here s a.ctx a.sluice
  else match resolveGlobal s a.ctx a.addr.toNat permSluice 0 with
  | (s1, .fenced) => atomFail s1 c a .fenced false false
  | (s1, .here ctx n) => here s1 ctx n
  | (s1, .remote dev g n) => atomSend s1 c a dev g n

/-- A reset opens a new round of a sluice. R293, R366, R726. -/
def atomReset (s : State) (c : Core) (a : AtomOp) : State :=
  match sluicePlace s a.ctx a.sluice with
  | none => atomFail s c a .operandInvalid false false
  | some pl =>
    if !owned s a.ctx pl then atomFail s c a .fenced false false
    else match sluiceAccess s pl (fun _ => sluiceFresh a.operand.toNat) with
    | (s1, .ok) =>
      dropAtom { s1 with fan := { s1.fan with rounds := s1.fan.rounds.filter (fun r => r.ctx != a.ctx || r.sluice != a.sluice) } } c a.iseq
    | (s1, _) => atomFail s1 c a .eccUncorrectable false false

/-- An entry of a queue is made. -/
def atomMake (s : State) (c : Core) (a : AtomOp) : State :=
  match a.kind with
  | .arrive => atomArrive s c a
  | .sluiceReset => atomReset s c a
  | _ => match atomWhere s c a with
    | (s1, .flt f) => atomFail s1 c a f false false
    | (s1, .here pl) => atomHere s1 c a pl
    | (s1, .remote dev g off) => atomSend s1 c a dev g off

/-- The word that an entry reaches, as one number. -/
def atomKey (s : State) (c : Core) (a : AtomOp) : Nat :=
  match c with
  | .tile l => (match s.runOf l with
    | some r => accessKey s r l a.addr.toNat
    | none => a.addr.toNat)
  | .miller _ => (svcWhere s a).2.keyOr a.addr.toNat

/-- An arrival waits for every earlier write of the core; any other entry for earlier ones to its word, and for the tile's block
hazards. R205, R220, R222. -/
def atomReady (s : State) (c : Core) (q : List AtomOp) (a : AtomOp) : Bool :=
  !a.sent &&
  (if a.kind == .arrive then
    (match c with
     | .tile l => releasedBefore s l a.iseq
     | .miller _ => !q.any (fun b => decide (b.iseq < a.iseq)))
   else if a.kind == .sluiceReset then !q.any (fun b => decide (b.iseq < a.iseq) && b.kind == .sluiceReset)
   else
    !q.any (fun b => decide (b.iseq < a.iseq) && b.kind != .arrive && b.kind != .sluiceReset && atomKey s c b / 32 == atomKey s c a / 32) &&
    (match c with
     | .tile l => !blocked s l a.iseq (if a.kind == .swap256 then [(a.local256, 32)] else []) (atomFoot s l a).writes
     | .miller _ => true))

/-- An entry blocks at a crossing whose clock has stopped. R627. -/
def atomBarred (s : State) (c : Core) (a : AtomOp) : Bool :=
  let die := match c with
    | .tile l => l / 48
    | .miller m => m / 4
  match a.kind with
  | .arrive => decide (2 ^ 63 ≤ a.addr.toNat) && stopped s (xLink die) && (match (resolveGlobal s a.ctx a.addr.toNat permSluice 0).2 with
    | .remote _ _ _ => true
    | _ => false)
  | .sluiceReset => false
  | _ => barredAt s die (atomWhere s c a).2

/-- R220: the first entry of a core's queue that nothing holds back is applied. -/
def execBankAtomicApply (c : Core) (s : State) : Host.Outcome State Fault Refusal :=
  .next (match (coreAtoms s c).find? (fun a => atomReady s c (coreAtoms s c) a && !atomBarred s c a) with
    | none => s
    | some a => atomMake s c a)

end Sys2Proof.Machine
end

