-- ==== Sys2Proof/Machine/Sync.lean ====
section
/-! DEFINITION. Bucket ring, sluice and fence instructions (06, R283 to R293; 08, R359 to R372), host rings (R288 to R291), Grist
tables (R299, R300; 05, R210 to R214; 09, R391 to R395), events (R301), the partial sorter (R308 to R310), and the end of a hold. -/

namespace Sys2Proof.Machine
open Sys2Proof

/-! ## Bucket rings (R283 to R287) -/

/-- The ring number sa + imm; none from 65,536 on. R283. -/
def ringOf (q : Seqr) (sa : BitVec 5) (imm : BitVec 32) : Option Nat :=
  let r := (q.s sa + sext32 imm).toNat
  if r < 65536 then some r else none

/-- An instruction on a ring number. R283. -/
def withRing (s : State) (c : Core) (sa : BitVec 5) (imm : BitVec 32) (k : Nat → Iss) : Iss :=
  match ringOf (s.seqr c) sa imm with
  | none => .fault s .operandInvalid
  | some r => k r

/-- Kind, then context; a service core has no context of its own. R207, R209. -/
def attachPlace (s : State) (c : Core) (r : Nat) : List Flt :=
  match c with
  | .tile l => ringPlaceFlt s (match s.runOf l with
    | some x => x.rr.ctx
    | none => 4096) r
  | .miller _ => [faultIf ((s.ring r).kind != .bucket) .operandInvalid]

/-- Every ring to which the sequencer is attached, and the new attachment's, have different ranks. R284, R362. -/
def attachRanks (s : State) (c : Core) (r : Nat) (producer : Bool) : Bool :=
  (s.seqr c).attached.all (fun a => (a.ring == r && a.producer == producer) || (s.ring a.ring).rank != (s.ring r).rank)

/-- A ring operation of a tile needs room in the stream and ring queue, from which it goes on at once. R204. -/
def ringRoom (s : State) (c : Core) (k : Iss) : Iss :=
  match c with
  | .tile l => if 8 ≤ (s.tile (s.phys l)).strmQ.length then .stay s else k
  | .miller _ => k

def isAttached (s : State) (c : Core) (r : Nat) (producer : Bool) : Bool :=
  (s.seqr c).attached.any (fun a => a.ring == r && a.producer == producer)

/-- Slots that the sequencer has claimed, or taken, from a ring, oldest first. -/
def heldSlots (s : State) (c : Core) (r : Nat) (producer : Bool) : List Nat :=
  match (s.seqr c).attached.find? (fun a => a.ring == r && a.producer == producer) with
  | some a => a.slots
  | none => []

def modHeld (s : State) (c : Core) (r : Nat) (producer : Bool) (f : List Nat → List Nat) : State :=
  s.modSeqr c (fun q => { q with
    attached := mapWhere (fun a => a.ring == r && a.producer == producer) (fun a => { a with slots := f a.slots }) q.attached })

/-- The sequencer joins a ring as its producer or consumer. R208, R284. -/
def attach (s : State) (c : Core) (r : Nat) (producer : Bool) : Iss :=
  let free := if producer then prodFree (s.ring r) (.seq c) else consFree (s.ring r) (.seq c)
  let flt := firstFlt (attachPlace s c r ++ [faultIf (!free) .operandInvalid, faultIf (!attachRanks s c r producer) .rankOrder])
  if flt ≠ .none then .fault s flt
  else ringRoom s c (if isAttached s c r producer then .done s
    else
      .done ((s.modRing r (fun g => if producer then { g with prod := some (.seq c) } else { g with cons := some (.seq c) })).modSeqr c
        (fun q => { q with attached := q.attached ++ [{ ring := r, producer := producer }] })))

/-- R284. -/
def execRingAttachP (c : Core) (g : Guard) (sa : BitVec 5) (imm : BitVec 32) (s : State) : Host.Outcome State Fault Refusal :=
  issue s c g { reads := [sa] } (fun s => withRing s c sa imm (fun r => attach s c r true))

/-- R284. -/
def execRingAttachC (c : Core) (g : Guard) (sa : BitVec 5) (imm : BitVec 32) (s : State) : Host.Outcome State Fault Refusal :=
  issue s c g { reads := [sa] } (fun s => withRing s c sa imm (fun r => attach s c r false))

/-- A host ring that the tile profile names. R209. -/
def hostRing (s : State) (c : Core) (r : Nat) : Bool := c.isTile && (s.ring r).kind != .bucket

/-- The agent leaves the ring. -/
def Ring.leave (g : Ring) (a : Agent) : Ring :=
  { g with prod := if g.prod = some a then none else g.prod, cons := if g.cons = some a then none else g.cons }

/-- R285. -/
def execRingDetach (c : Core) (g : Guard) (sa : BitVec 5) (imm : BitVec 32) (s : State) : Host.Outcome State Fault Refusal :=
  issue s c g { reads := [sa] } (fun s => withRing s c sa imm (fun r =>
    if hostRing s c r || !(heldSlots s c r true).isEmpty || !(heldSlots s c r false).isEmpty then .fault s .operandInvalid
    else ringRoom s c (.done ((s.modRing r (fun x => x.leave (.seq c))).modSeqr c
      (fun q => { q with attached := q.attached.filter (fun a => a.ring != r) })))))

/-- The address of a slot as its sequencer uses it: a Millpond address of a tile, and a stream address otherwise. R286, R344. -/
def slotFor (s : State) (c : Core) (r i : Nat) : W64 :=
  let a := (s.ring r).slotAddr i
  match c with
  | .miller _ => a
  | .tile l => match s.runOf l, (s.ring r).slotTile i with
    | some run, some (t, o) => (match mpName run l t o with
      | some x => BitVec.ofNat 64 x
      | none => a)
    | _, _ => a

/-- The producer has a slot. R286, R360. -/
def claimSlot (s : State) (c : Core) (r : Nat) (sd : BitVec 5) : State :=
  let i := (s.ring r).i0
  (modHeld (s.modRing r Ring.claim) c r true (fun xs => xs ++ [i])).modSeqr c (fun q => q.writeS sd (slotFor s c r i))

/-- The consumer has a slot. R286, R360. -/
def takeSlot (s : State) (c : Core) (r : Nat) (sd : BitVec 5) : State :=
  let i := (s.ring r).i2
  (modHeld (s.modRing r Ring.take) c r false (fun xs => xs ++ [i])).modSeqr c (fun q => q.writeS sd (slotFor s c r i))

/-- R285, R286. -/
def execRingClaim (c : Core) (g : Guard) (sd sa : BitVec 5) (imm : BitVec 32) (s : State) : Host.Outcome State Fault Refusal :=
  issue s c g { reads := [sa] } (fun s => withRing s c sa imm (fun r =>
    if !isAttached s c r true then .fault s .operandInvalid
    else ringRoom s c (if (s.ring r).canClaim then .done (claimSlot s c r sd) else .hold s (.claim r sd.toNat))))

/-- R285 to R287. -/
def execRingTake (c : Core) (g : Guard) (sd sa : BitVec 5) (imm : BitVec 32) (s : State) : Host.Outcome State Fault Refusal :=
  issue s c g { reads := [sa] } (fun s => withRing s c sa imm (fun r =>
    if !isAttached s c r false then .fault s .operandInvalid
    else ringRoom s c (if (s.ring r).canTake then .done (takeSlot s c r sd) else .hold s (.take r sd.toNat))))

/-- A tile's post waits in its stream and ring queue for what it releases; a Miller core's waits for the core's own stores and
atomics. R204, R285, R287. -/
def execRingPost (c : Core) (g : Guard) (sa : BitVec 5) (imm : BitVec 32) (s : State) : Host.Outcome State Fault Refusal :=
  issue s c g { reads := [sa] } (fun s => withRing s c sa imm (fun r =>
    if (heldSlots s c r true).isEmpty then .fault s .operandInvalid
    else
      let s1 := modHeld s c r true (fun xs => xs.drop 1)
      match c with
      | .miller m => if (s.miller m).atomQ.isEmpty then .done (s1.modRing r Ring.post) else .stay s
      | .tile l =>
        if 8 ≤ (s.tile (s.phys l)).strmQ.length then .stay s
        else
          let (s2, n) := takeIseq s1 l
          .done (s2.modTile (s.phys l) (fun t => { t with strmQ := t.strmQ ++ [.post n r] }))))

/-- R285, R286. -/
def execRingGive (c : Core) (g : Guard) (sa : BitVec 5) (imm : BitVec 32) (s : State) : Host.Outcome State Fault Refusal :=
  issue s c g { reads := [sa] } (fun s => withRing s c sa imm (fun r =>
    if (heldSlots s c r false).isEmpty then .fault s .operandInvalid
    else ringRoom s c (.done ((modHeld s c r false (fun xs => xs.drop 1)).modRing r Ring.give))))

/-! ## Sluices and fence (R292, R293, R222 to R224) -/

/-- What sa + imm names: context and number of a sluice of this device. R292. -/
def localSluice (s : State) (c : Core) (v : Nat) : Option (Nat × Nat) :=
  let check (ctx n : Nat) : Option (Nat × Nat) := if n < (s.ctx ctx).bind.sltCount then some (ctx, n) else none
  match c with
  | .miller _ => check (bitsOf v 16 12) (v % 65536)
  | .tile l => match s.runOf l with
    | none => none
    | some r => if bitsOf v 16 47 ≠ 0 then none else check r.rr.ctx (v % 65536)

/-- An arrival joins the atomic queue of its core. R222, R371. -/
def arriveAt (s : State) (c : Core) (o : AtomOp) : Iss :=
  match c with
  | .miller m => queueSvc s m o
  | .tile l => queueAtom s l o

/-- R222, R292, R371. -/
def execSluiceArrive (c : Core) (g : Guard) (sa : BitVec 5) (imm : BitVec 32) (s : State) : Host.Outcome State Fault Refusal :=
  issue s c g { reads := [sa] } (fun s =>
    let q := s.seqr c
    let v := q.s sa + sext32 imm
    let o : AtomOp := { iseq := 0, pc := q.pc, kind := .arrive, addr := v, operand := 1 }
    if c.isTile && decide (2 ^ 63 ≤ v.toNat) then
      (if bitsOf v.toNat 16 33 ≠ 0 then .fault s .operandInvalid
       else onTile s c (fun l r => queueAtom s l { o with ctx := r.rr.ctx }))
    else match localSluice s c v.toNat with
      | none => .fault s .operandInvalid
      | some (ctx, n) => arriveAt s c { o with addr := 0, ctx := ctx, sluice := n })

/-- R223, R292, R369, R372. -/
def execSluiceWait (c : Core) (g : Guard) (sa : BitVec 5) (imm : BitVec 32) (s : State) : Host.Outcome State Fault Refusal :=
  issue s c g { reads := [sa] } (fun s =>
    let v := (s.seqr c).s sa + sext32 imm
    if c.isTile && decide (2 ^ 63 ≤ v.toNat) then .fault s .operandInvalid
    else match localSluice s c v.toNat with
      | none => .fault s .operandInvalid
      | some (ctx, n) => if sluiceReleased s ctx n then .done s else .hold s (.sluice ctx n))

/-- The core waits until the reset has reached the word. R293, R366. -/
def holdReset : Iss → Iss
  | .done s => .hold s .sluiceReset
  | x => x

/-- R293, R366. -/
def execSluiceReset (c : Core) (g : Guard) (sd sa sb : BitVec 5) (s : State) : Host.Outcome State Fault Refusal :=
  issue s c g { tile := false, reads := [sa, sb, sd] } (fun s =>
    let q := s.seqr c
    let ctx := (q.s sa).toNat % 4096
    let n := (q.s sb).toNat
    let e := (q.s sd).toNat % 2 ^ 32
    match c with
    | .tile _ => .stay s
    | .miller m =>
      if e = 0 ∨ (s.ctx ctx).bind.sltCount ≤ n then .fault s .operandInvalid
      else holdReset (queueSvc s m { iseq := 0, pc := q.pc, kind := .sluiceReset, addr := 0, operand := BitVec.ofNat 64 e, ctx := ctx, sluice := n }))

/-- What a `fence` waits for is acknowledged. R224. -/
def fenceOver (s : State) (c : Core) : Bool :=
  match c with
  | .tile l => fencedBefore s l (s.tile (s.phys l)).iseq
  | .miller m => !(s.miller m).atomQ.any (fun a => a.kind != .arrive)

/-- R224. -/
def execFence (c : Core) (g : Guard) (s : State) : Host.Outcome State Fault Refusal :=
  issue s c g {} (fun s => if fenceOver s c then .done s else .hold s .fence)

/-! ## Host rings and events (R288 to R291, R301) -/

/-- The ring that sa names, when it is of the kind. R291. -/
def hringOf (s : State) (q : Seqr) (sa : BitVec 5) (kind : RingKind) : Option Nat :=
  let r := (q.s sa).toNat
  if r < 65536 ∧ (s.ring r).kind = kind then some r else none

/-- A record of the core's service memory joins a ring that has room; pd says whether it did. R290, R301. -/
def pushFrom (s : State) (c : Core) (m r n : Nat) (pd : BitVec 3) (ea : W64) : Iss :=
  let ok := (s.ring r).room
  .done ((if ok then pushRecord s r (s.bytes (svcKey m ea.toNat) n) else s).modSeqr c (fun q => q.setP pd ok))

/-- R288, R291. -/
def execHringPeek (c : Core) (g : Guard) (pd : BitVec 3) (sa : BitVec 5) (ab : BitVec 4) (off : BitVec 32) (s : State) :
    Host.Outcome State Fault Refusal :=
  issue s c g { tile := false, reads := [sa] } (fun s =>
    let q := s.seqr c
    match hringOf s q sa .submit, c with
    | some r, .miller m =>
      let some? := (s.ring r).isOn && decide (0 < (s.ring r).count)
      .done ((if some? then s.setBytes (svcKey m (effAddr q ab off).toNat) (headRecord s r).2.1 else s).modSeqr c (fun x => x.setP pd some?))
    | _, _ => .fault s .operandInvalid)

/-- R289, R291. -/
def execHringPop (c : Core) (g : Guard) (sa : BitVec 5) (s : State) : Host.Outcome State Fault Refusal :=
  issue s c g { tile := false, reads := [sa] } (fun s =>
    match hringOf s (s.seqr c) sa .submit with
    | none => .fault s .operandInvalid
    | some r => .done (if (s.ring r).isOn && decide (0 < (s.ring r).count) then popHead s r else s))

/-- R290, R291. -/
def execHringPush (c : Core) (g : Guard) (pd : BitVec 3) (sa : BitVec 5) (ab : BitVec 4) (off : BitVec 32) (s : State) :
    Host.Outcome State Fault Refusal :=
  issue s c g { tile := false, reads := [sa] } (fun s =>
    let q := s.seqr c
    match hringOf s q sa .complete, c with
    | some r, .miller m => pushFrom s c m r (32 * (s.ring r).entryUnits) pd (effAddr q ab off)
    | _, _ => .fault s .operandInvalid)

/-- R301. -/
def execEvtPost (c : Core) (g : Guard) (pd : BitVec 3) (sa : BitVec 5) (ab : BitVec 4) (off : BitVec 32) (s : State) :
    Host.Outcome State Fault Refusal :=
  issue s c g { tile := false, reads := [sa] } (fun s =>
    let q := s.seqr c
    match hringOf s q sa .event, c with
    | some r, .miller m => pushFrom s c m r 64 pd (effAddr q ab off)
    | _, _ => .fault s .operandInvalid)

/-! ## Grist tables (R210 to R214, R299, R300, R391 to R395) -/

/-- R210. -/
def execGtabGrant (c : Core) (g : Guard) (sa sb : BitVec 5) (s : State) : Host.Outcome State Fault Refusal :=
  issue s c g { tile := false, reads := [sa, sb] } (fun s =>
    let q := s.seqr c
    .done (s.modGSlot ((q.s sa).toNat % 256) (fun x => { x with ctx := some ((q.s sb).toNat % 4096) })))

/-- R299. -/
def execGtabRevoke (c : Core) (g : Guard) (sa : BitVec 5) (s : State) : Host.Outcome State Fault Refusal :=
  issue s c g { tile := false, reads := [sa] } (fun s =>
    .done (s.modGSlot (((s.seqr c).s sa).toNat % 256) (fun x => { x with ctx := none })))

/-- R214, R300, R393, R394. -/
def execGtabInstall (c : Core) (g : Guard) (sd sa : BitVec 5) (ab aw : BitVec 4) (off : BitVec 32) (s : State) :
    Host.Outcome State Fault Refusal :=
  issue s c g { tile := false, reads := [sa, sd] } (fun s =>
    let q := s.seqr c
    let i := (q.s sa).toNat % 256
    let n := (q.s sd).toNat % 16
    let ea := (effAddr q ab off).toNat
    let flag := (q.a aw).toNat
    match c with
    | .tile _ => .stay s
    | .miller m =>
      if ((s.gslot i).entryOf n).isSome || (s.gslot i).installing n || ea % 32 != 0 || flag % 4 != 0 then .fault s .operandInvalid
      else
        let bs := s.bytes (svcKey m ea) 160
        if recordOk bs then
          .done ((svcWrite s m flag 4 0).modGSlot i (fun x => { x with
            installs := x.installs ++ [{ gen := n, bytes := bs, flagCore := m, flagAddr := flag }] }))
        else .done (svcWrite s m flag 4 2))

/-- An install whose turn it is, with the entry that it replaces free of references, is resident. R212, R395. -/
def GSlot.install (x : GSlot) (i : Install) : GSlot :=
  { x.modEntry x.older (fun _ => { valid := true, gen := i.gen, kind := fieldAt i.bytes 128 1 % 8, lens := recordLens i.bytes, refs := i.refs }) with
    older := !x.older, installs := x.installs.drop 1 }

/-- R212, R300, R395. -/
def execGtabInstallDone (slot : Nat) (s : State) : Host.Outcome State Fault Refusal :=
  .next (match (s.gslot slot).installs with
    | [] => s
    | i :: _ =>
      let e := (s.gslot slot).entry (s.gslot slot).older
      if e.valid && e.refs != 0 then s
      else svcWrite (s.modGSlot slot (fun x => x.install i)) i.flagCore i.flagAddr 4 1)

/-! ## The partial sorter (R308 to R310) -/

/-- The fields of a parameter record. R308. -/
structure SortRec where
  ctx : Nat
  fmt : Nat
  k : Nat
  n : Nat
  dst : Nat
  src : Nat
deriving DecidableEq, Repr

/-- A parameter record that R308 allows. -/
def sortRec (bs : List Byte) : Option SortRec :=
  let r : SortRec := { ctx := fieldAt bs 26 2, fmt := fieldAt bs 25 1, k := fieldAt bs 20 4, n := fieldAt bs 16 4,
                       dst := fieldAt bs 8 8, src := fieldAt bs 0 8 }
  let w := match r.fmt with
    | 0 => 4
    | _ => 2
  if fieldAt bs 28 4 = 0 ∧ fieldAt bs 24 1 = 0 ∧ (r.ctx = 0xFFFF ∨ r.ctx < 4096) ∧ r.fmt < 3 ∧ 1 ≤ r.k ∧ r.k ≤ 1024 ∧ r.k ≤ r.n ∧
      1 ≤ r.n ∧ r.n ≤ 262144 ∧ r.dst % 8 = 0 ∧ r.src % w = 0 then some r else none

/-- The words of the source so far, from a first word's address on, and whether one of them holds no good data; or a word that is
still to come from another device. -/
inductive SortSrc
  | all (bs : List Byte)
  | bad
  | wait (s : State)

/-- The words of the source of a context, one after another. Words of another device are asked for one at a time and kept with the
sequencer, as those of a descriptor are. R308, R420, R436. -/
def sortWords (s : State) (c : Core) (ctx base i : Nat) (have_ : List Word288) (acc : List Byte) : Nat → State × SortSrc
  | 0 => (s, .all acc)
  | n + 1 =>
    match ctxAddr s ctx (base + 32 * i) permRead 32 false with
    | (s1, .flt _) => (s1, .bad)
    | (s1, .here pl) => match readWord s1 pl with
      | (s2, d, .ok) => sortWords s2 c ctx base (i + 1) have_ (acc ++ natToBytes d.toNat 32) n
      | (s2, _, _) => (s2, .bad)
    | (s1, .remote dev g off) => match have_ with
      | w :: ws => (match classify w.2 with
        | .clean => sortWords s1 c ctx base (i + 1) ws (acc ++ natToBytes w.1.toNat 32) n
        | .correctable p sym => sortWords s1 c ctx base (i + 1) ws (acc ++ natToBytes (correct w.1 p sym).toNat 32) n
        | _ => (s1, .bad))
      | [] =>
        let key : W64 := BitVec.ofNat 64 (base + 32 * i)
        if s1.hdr.outst.any (fun o => o.who == .desc c key) then (s1, .wait s1)
        else
          let s2 := (sendReq s1 dev g 3 0x03 0 (gAddr dev off) 0 [] (.desc c key)).requestFor ctx
          (s2, .wait s2)

/-- Key of the order: larger for larger values, equal for the two zeros. R309. -/
def sortKey (v : W32) : Int :=
  let m : Int := v.toNat % 2 ^ 31
  if v.getLsbD 31 then -m else m

/-- The entry put after every one that is not below it. R309. -/
def insertEnt (x : Nat × W32) : List (Nat × W32) → List (Nat × W32)
  | [] => [x]
  | y :: ys => if sortKey x.2 ≤ sortKey y.2 then y :: insertEnt x ys else x :: y :: ys

/-- The output entries, and the number of NaN elements. R309. -/
def sortOut (r : SortRec) (vs : List W32) : List Byte × Nat :=
  let es := (vs.zipIdx.map (fun p => (p.2, p.1)))
  let good := es.filter (fun e => !(f32 e.2).isNan)
  let top := (good.foldl (fun acc e => insertEnt e acc) []).take r.k
  let rest := List.replicate (r.k - top.length) ((0xFFFFFFFF : Nat), nan32)
  ((top ++ rest).flatMap (fun e => natToBytes e.1 4 ++ natToBytes e.2.toNat 4), es.length - good.length)

/-- The elements of the source bytes, widened to FP32. R309. -/
def sortVals (r : SortRec) (bs : List Byte) : List W32 :=
  let w := if r.fmt = 0 then 4 else 2
  let f := if r.fmt = 0 then fmtFp32 else if r.fmt = 1 then fmtBf16 else fmtFp16
  (chunks w bs r.n).map (fun b => rne32 (fdecode f (bytesToNat b)))

/-- The sorter has all its elements. -/
def sortDone (s : State) (c : Core) (m : Nat) (sd : BitVec 5) (r : SortRec) (bs : List Byte) : Iss :=
  let (out, nans) := sortOut r (sortVals r bs)
  .done ((s.setBytes (svcKey m r.dst) out).modSeqr c (fun q => { q.writeS sd (BitVec.ofNat 64 nans) with desc := none }))

/-- R308 to R310. -/
def execPsort (c : Core) (g : Guard) (sd : BitVec 5) (ab : BitVec 4) (off : BitVec 32) (s : State) : Host.Outcome State Fault Refusal :=
  issue s c g { tile := false } (fun s =>
    let q := s.seqr c
    match c with
    | .tile _ => .stay s
    | .miller m =>
      match sortRec (s.bytes (svcKey m (effAddr q ab off).toNat) 32) with
      | none => .fault s .operandInvalid
      | some r =>
        let bytes := r.n * (if r.fmt = 0 then 4 else 2)
        if r.ctx = 0xFFFF then sortDone s c m sd r (s.bytes (svcKey m r.src) bytes)
        else
          let o := r.src % 32
          let have_ := match q.desc with
            | some (b, ws) => if b.toNat = r.src - o then ws else []
            | none => []
          match sortWords s c r.ctx (r.src - o) 0 have_ [] (ceilDiv (o + bytes) 32) with
          | (s1, .bad) => .fault s1 .operandInvalid
          | (_, .wait s1) =>
            .stay (if have_ = [] then s1.modSeqr c (fun x => { x with desc := some (BitVec.ofNat 64 (r.src - o), []) }) else s1)
          | (s1, .all bs) => sortDone s1 c m sd r (bs.drop o))

/-! ## The end of a hold -/

/-- What the sequencer waits for is there; a register wait, a wait for a block or for room at an engine, and a halted load issue
again. R152, R205, R242, R257. -/
def holdOver (s : State) (c : Core) : Hold → Bool
  | .none => false
  | .reg r => !(s.seqr c).waiting.any (fun w => w.1 == r)
  | .sluice ctx n => (s.seqr c).released || sluiceReleased s ctx n
  | .fence => fenceOver s c
  | .strm k n => passOver s k n
  | .swap256 => !(coreAtoms s c).any (fun a => a.kind == .swap256)
  | .claim r _ => (s.ring r).canClaim
  | .take r _ => (s.ring r).canTake
  | .sluiceReset => !(coreAtoms s c).any (fun a => a.kind == .sluiceReset)
  | .resFree => match c with
    | .tile _ => true
    | .miller m => (s.miller m).freeing.isNone
  | .halted _ _ => true
  | .hazard => true
  | .attnRoom e => decide ((s.engine e).queue.length < 8)

/-- The loads that a bad word of another device halted are sent again. R257. -/
def loadAgain (s : State) (c : Core) : State :=
  let xs := (s.seqr c).again
  xs.foldl (fun (s : State) x => match x with
    | (sd, sz, sx, pc, k) => sendReq s k.dst k.group k.oclass k.op k.len k.addr k.operand k.data (.load c pc sd sz sx))
    (s.modSeqr c (fun q => { q with again := [] }))

/-- R204, R223, R224, R242, R257, R280, R286, R293, R296, R307: the sequencer goes on. -/
def execSequencerResume (c : Core) (s : State) : Host.Outcome State Fault Refusal :=
  let h := (s.seqr c).hold
  let s1 := s.modSeqr c (fun q => { q with hold := .none, released := false })
  .next (if !holdOver s c h || !canIssue s1 c then s
    else match h with
      | .reg _ => s1
      | .hazard => s1
      | .attnRoom _ => s1
      | .halted _ _ => loadAgain s1 c
      | .claim r sd => advance (claimSlot s1 c r (BitVec.ofNat 5 sd)) c 8
      | .take r sd => advance (takeSlot s1 c r (BitVec.ofNat 5 sd)) c 8
      | _ => advance s1 c 8)

end Sys2Proof.Machine
end

