-- ==== Sys2Proof/Machine/Fabric.lean ====
section
/-! DEFINITION. Headrace requests at their target, and responses at their requester (11, R463 to R473, R477; 07, R314 to R317, R716;
10, R434, R435). -/

namespace Sys2Proof.Machine
open Sys2Proof

/-! ## The target (R464, R477) -/

/-- Response statuses. R466. -/
def stOk : Nat := 0
def stFenced : Nat := 1
def stBad : Nat := 2
def stRetry : Nat := 3
def stDup : Nat := 4

/-- The response to a request, queued for sending. R463, R464. -/
def respond (s : State) (k : Packet) (status : Nat) (operand : W64) (data : List Word288) : State :=
  { s with hdr := { s.hdr with sendQ := s.hdr.sendQ ++
    [{ k with operand := operand, resp := true, status := status, len := data.length - 1, dst := k.src, src := s.hdr.devnum, data := data }] } }

/-- Data words that a packet's LEN gives it. R463. -/
def pktWords (k : Packet) (n : Nat) : List Word288 := (List.range n).map (fun i => nth (0, 0) k.data i)

/-- The checks of R477 and of the retired list (R439) for `n` bytes at the packet's offset; with `n` zero, for an arrival. -/
def targetPlace (s : State) (k : Packet) (perm n : Nat) : State × Option (Nat × Place) :=
  let off := gOff k.addr.toNat
  match groupCheck s k.src k.group perm (off / n * n) n with
  | (s1, none) => (s1, none)
  | (s1, some c) => match placeFor s1 c (perm != permRead) (off / n * n) with
    | .here pl => (s1, some (c, pl))
    | _ => (s1, none)

/-- A refusal at the target. R477, HDR_CNT. -/
def refuse (s : State) (k : Packet) : State := respond (bumpHdr s 1) k stFenced 0 []

/-- LOAD and READ: words unchanged. R315. -/
def serveRead (s : State) (k : Packet) (n : Nat) : State :=
  match targetPlace s { k with addr := k.addr / 32 * 32 } permRead 32 with
  | (s1, none) => refuse s1 k
  | (s1, some (c, pl)) =>
    if n ≤ 1 then respond (touch s1 pl) k stOk 0 (rawWords s1 pl 1)
    else match groupCheck s1 k.src k.group permRead (gOff k.addr.toNat / 32 * 32) (32 * n) with
      | (s2, none) => refuse s2 k
      | (s2, some _) => if rangeOwnedAt s2 c pl (32 * n) then respond (touch s2 pl) k stOk 0 (rawWords s2 pl n) else refuse s2 k
where
  /-- Every block of a Millpond range passes the owner-tag check. R194, R477. -/
  rangeOwnedAt (s : State) (c : Nat) (pl : Place) (n : Nat) : Bool :=
    match pl with
    | .mill p off => rangeOwned s c p off n
    | _ => true

/-- Whole words stored after the check of R434: each on its own; answers whether every one was stored. -/
def storeEach (s : State) (pl : Place) : List Word288 → State × Bool
  | [] => (s, true)
  | w :: ws =>
    let (s1, ok) := arriveWord s pl w
    let (s2, more) := storeEach s1 (pl.plus 32) ws
    (s2, ok && more)

/-- Byte mask of a STORE as a mask of bits. R463. -/
def storeMask (m : Nat) : BitVec 256 :=
  BitVec.ofNat 256 (bytesToNat ((List.range 32).map (fun i => if m.testBit i then (0xFF : Byte) else 0)))

/-- A STORE at its word: whole words as they come, parts merged. A marked word that arrives leaves its poison. R314, R431, R434. -/
def storePart (s : State) (pl : Place) (m : Nat) (w : Word288) : State × Bool :=
  if m % 2 ^ 32 = 2 ^ 32 - 1 then arriveWord s pl w
  else match classify w.2 with
    | .uncorrectable => (countUe s pl 3, false)
    | x =>
      let d := match x with
        | .correctable p sym => correct w.1 p sym
        | _ => w.1
      let s0 := match x with
        | .correctable _ _ => countCe s pl
        | _ => s
      match writeMask s0 pl (storeMask m) d with
      | (s1, .none) => (if x = .marked then s1.setChk pl.key kMark else s1, true)
      | (s1, _) => (s1, false)

/-- The write permission of every word of a packet. R439, R477. -/
def writePlace (s : State) (k : Packet) (perm n : Nat) : State × Option Place :=
  let base := { k with addr := k.addr / 32 * 32 }
  match targetPlace s base perm 32 with
  | (s1, none) => (s1, none)
  | (s1, some (c, pl)) =>
    if n ≤ 1 then (s1, some pl)
    else match groupCheck s1 k.src k.group perm (gOff base.addr.toNat) (32 * n) with
      | (s2, none) => (s2, none)
      | (s2, some _) => if serveRead.rangeOwnedAt s2 c pl (32 * n) then (s2, some pl) else (s2, none)

/-- An add or swap of 32 or 64 bits. R317, R324, R716. -/
def serveAtom (s : State) (k : Packet) (a : AtomKind) : State :=
  match targetPlace s k permAtomic a.width with
  | (s1, none) => refuse s1 k
  | (s1, some (_, pl)) => match atomApply s1 pl a k.operand with
    | (s2, old, .ok) => respond s2 k stOk old []
    | (s2, _, _) => respond s2 k stBad 0 []

/-- The words of an ADD_P64X4. R324, R464. -/
def addEach (s : State) (pl : Place) : List Word288 → State
  | [] => s
  | w :: ws => addEach (atomP64x4 s pl w.1) (pl.plus 32) ws

/-- What the target does with an expected request, by its operation. R464. -/
def serve (s : State) (k : Packet) : State :=
  match k.op with
  | 0x01 => serveRead s k 1
  | 0x03 => serveRead s k (k.len % 128 + 1)
  | 0x02 => (match writePlace s k permWrite 1 with
    | (s1, none) => refuse s1 k
    | (s1, some pl) => match storePart s1 pl k.operand.toNat (nth (0, 0) k.data 0) with
      | (s2, true) => respond s2 k stOk 0 []
      | (s2, false) => respond s2 k stBad 0 [])
  | 0x04 => (match writePlace s k permWrite (k.len % 128 + 1) with
    | (s1, none) => refuse s1 k
    | (s1, some pl) => match storeEach s1 pl (pktWords k (k.len % 128 + 1)) with
      | (s2, true) => respond s2 k stOk 0 []
      | (s2, false) => respond s2 k stBad 0 [])
  | 0x08 => serveAtom s k .addI32
  | 0x09 => serveAtom s k .addF32
  | 0x0A => serveAtom s k .addP64
  | 0x0B => (match writePlace s k permAtomic (k.len % 128 + 1) with
    | (s1, none) => refuse s1 k
    | (s1, some pl) => respond (addEach s1 pl (pktWords k (k.len % 128 + 1))) k stOk 0 [])
  | 0x0C => serveAtom s k .swap32
  | 0x0D => serveAtom s k .swap64
  | 0x0E => (match writePlace s k permAtomic 1 with
    | (s1, none) => refuse s1 k
    | (s1, some pl) =>
      let (s2, old) := atomSwap256 s1 pl (nth (0, 0) k.data 0)
      respond s2 k stOk 0 [old])
  | 0x10 => (match groupCheck s k.src k.group permSluice (k.addr.toNat % 65536) 0 with
    | (s1, none) => refuse s1 k
    | (s1, some c) =>
      if !sluiceOwned s1 c (k.addr.toNat % 65536) then refuse s1 k
      else match sluiceArriveFrom s1 k.src c (k.addr.toNat % 65536) with
        | (s2, .ok) => respond s2 k stOk 0 []
        | (s2, _) => respond s2 k stBad 0 [])
  | _ => s

/-! ## Order (R468 to R471) -/

/-- The OSEQ that the target expects from a device in a class. R469. -/
def expectedOseq (s : State) (src oclass : Nat) : Nat :=
  match s.hdr.rxOrder.find? (fun o => o.dev == src && o.oclass == oclass) with
  | some o => o.next
  | none => 0

/-- How far ahead of the expected OSEQ a request is, modulo 2^16. -/
def aheadBy (s : State) (k : Packet) : Nat := (k.oseq + 65536 - expectedOseq s k.src k.oclass) % 65536

/-- An expected request is performed, and the next one is expected. R468, R470. -/
def perform (s : State) (k : Packet) : State :=
  let next := (expectedOseq s k.src k.oclass + 1) % 65536
  serve { s with hdr := { s.hdr with
    rxOrder := { dev := k.src, oclass := k.oclass, next := next } :: s.hdr.rxOrder.filter (fun o => o.dev != k.src || o.oclass != k.oclass) } } k

/-- A request of operation `op` arrives: performed, parked, or answered RETRY or DUPLICATE. Until READY no request is received.
R470, R471, R483. -/
def receive (s : State) (op : Nat) (k0 : Packet) : State :=
  let k := { k0 with op := op, oclass := k0.oclass % 4 }
  if s.hdr.fabSt ≠ .ready ∨ k.resp ∨ !s.hdr.devValid ∨ k.dst ≠ s.hdr.devnum then s
  else
    let a := aheadBy s k
    if a = 0 then perform s k
    else if 32768 ≤ a then respond (bumpHdr s 3) k stDup 0 []
    else if 4096 ≤ s.hdr.reorder.length then respond (bumpHdr s 2) k stRetry 0 []
    else { s with hdr := { s.hdr with reorder := s.hdr.reorder ++ [k] } }

/-- R464, R477. -/
def execFabricLoad (pkt : Packet) (s : State) : Host.Outcome State Fault Refusal := .next (receive s 0x01 pkt)
/-- R464, R477. -/
def execFabricStore (pkt : Packet) (s : State) : Host.Outcome State Fault Refusal := .next (receive s 0x02 pkt)
/-- R464, R477. -/
def execFabricRead (pkt : Packet) (s : State) : Host.Outcome State Fault Refusal := .next (receive s 0x03 pkt)
/-- R434, R464, R477. -/
def execFabricWrite (pkt : Packet) (s : State) : Host.Outcome State Fault Refusal := .next (receive s 0x04 pkt)
/-- R324, R464, R477. -/
def execFabricAddI32 (pkt : Packet) (s : State) : Host.Outcome State Fault Refusal := .next (receive s 0x08 pkt)
/-- R324, R464, R477. -/
def execFabricAddF32 (pkt : Packet) (s : State) : Host.Outcome State Fault Refusal := .next (receive s 0x09 pkt)
/-- R324, R464, R477. -/
def execFabricAddP64 (pkt : Packet) (s : State) : Host.Outcome State Fault Refusal := .next (receive s 0x0A pkt)
/-- R324, R464, R477. -/
def execFabricAddP64x4 (pkt : Packet) (s : State) : Host.Outcome State Fault Refusal := .next (receive s 0x0B pkt)
/-- R324, R464, R477. -/
def execFabricSwap32 (pkt : Packet) (s : State) : Host.Outcome State Fault Refusal := .next (receive s 0x0C pkt)
/-- R324, R464, R477. -/
def execFabricSwap64 (pkt : Packet) (s : State) : Host.Outcome State Fault Refusal := .next (receive s 0x0D pkt)
/-- R324, R464, R477. -/
def execFabricSwap256 (pkt : Packet) (s : State) : Host.Outcome State Fault Refusal := .next (receive s 0x0E pkt)
/-- R371, R464, R477, R726. -/
def execFabricSluiceArrive (pkt : Packet) (s : State) : Host.Outcome State Fault Refusal := .next (receive s 0x10 pkt)

/-- A parked request has become expected; a parked copy of one that has been performed is stale. R470, R471. -/
def execReorderRelease (src oclass : Nat) (s : State) : Host.Outcome State Fault Refusal :=
  let mine (k : Packet) : Bool := k.src == src && k.oclass == oclass
  let ready (k : Packet) : Bool := mine k && (aheadBy s k == 0 || decide (32768 ≤ aheadBy s k))
  .next (match s.hdr.reorder.find? ready with
    | none => s
    | some k =>
      let s1 := { s with hdr := { s.hdr with reorder := dropFirst ready s.hdr.reorder } }
      if aheadBy s k = 0 then perform s1 k else respond (bumpHdr s1 3) k stDup 0 [])

/-! ## The requester (R466) -/

/-- What a request comes to. -/
inductive Ans
  | ok | fenced | bad
deriving DecidableEq, Repr

/-- Operations that return data. R466. -/
def returnsData (k : Packet) (posted : Bool) : Bool :=
  match k.op with
  | 0x02 => false
  | 0x04 => false
  | 0x0B => false
  | 0x10 => false
  | 0x01 => true
  | 0x03 => true
  | 0x0E => true
  | _ => !posted

def answerOf (k : Packet) (posted : Bool) (status : Nat) : Ans :=
  if status = 0 then .ok
  else if status = 4 then (if returnsData k posted then .bad else .ok)
  else if status = 2 then .bad
  else .fenced

/-- A word as its destination finds it: data, and whether it holds good data. R315. -/
def checkedWord (w : Word288) : BitVec 256 × Bool :=
  match classify w.2 with
  | .clean => (w.1, true)
  | .correctable p sym => (correct w.1 p sym, true)
  | _ => (w.1, false)

/-- A refusal of a sequencer's access names its instruction; a service core halts. R230, R256, R466. -/
def accessFault (s : State) (c : Core) (pc : W64) (f : Flt) : State :=
  match c with
  | .tile l => faultTile s l f pc clsOperation
  | .miller m => serviceFault s m

/-- The answer of a load. A bad word halts a tile's sequencer, and the load is made again when that is over. R256, R257, R466. -/
def answerLoad (s : State) (o : OutReq) (c : Core) (pc : W64) (sd sz : Nat) (sx : Bool) (a : Ans) (data : List Word288) : State :=
  let (d, good) := checkedWord (nth (0, 0) data 0)
  match a with
  | .fenced => accessFault s c pc .fenced
  | .ok =>
    if good then
      deliverReg s c sd (extendData (BitVec.ofNat 2 sz) sx (d.toNat / 2 ^ (8 * (o.pkt.addr.toNat % 32))))
    else halt s
  | .bad => halt s
where
  /-- The sequencer stays at the load. -/
  halt (s : State) : State :=
    match c with
    | .miller m => serviceFault s m
    | .tile _ => if (s.seqr c).mode = .running then
        s.modSeqr c (fun q => { q with hold := .halted .eccUncorrectable o.pkt.addr.toNat, again := q.again ++ [(sd, sz, sx, pc, o.pkt)] })
      else s

/-- An answer to an entry of an atomic queue. DESIGN CHOICE (log 61): STATUS UNCORRECTABLE does not say whether the word was marked, and
is counted against no tile. R256, R294, R295, R317, R466, R716, R726. -/
def answerAtom (s : State) (c : Core) (n : Nat) (a : Ans) (old : W64) : State :=
  match (coreAtoms s c).find? (fun x => x.iseq == n) with
  | none => s
  | some x => match a with
    | .ok => dropAtom (match x.kind with
      | .store _ => s
      | .arrive => s
      | _ => atomOld s c x (if x.kind.width = 4 then BitVec.ofNat 64 (old.toNat % 2 ^ 32) else old)) c n
    | .fenced => atomFail s c x .fenced false false
    | .bad => atomFail s c x .eccUncorrectable true false

/-- An answer to a 256-bit swap: the word that it brings, with its check bits. R317, R325. -/
def answerSwap (s : State) (c : Core) (n : Nat) (a : Ans) (data : List Word288) : State :=
  match (coreAtoms s c).find? (fun x => x.iseq == n) with
  | none => s
  | some x => match a, swapPlace s c x with
    | .ok, some pl => dropAtom (writeWord s pl (nth (0, 0) data 0)) c n
    | .bad, _ => atomFail s c x .eccUncorrectable true false
    | _, _ => atomFail s c x .fenced false false

/-- Words of a descriptor, or the next word of a sorter's source, are kept with the sequencer that asked for them. R277, R308. -/
def answerDesc (s : State) (c : Core) (a : W64) (r : Ans) (data : List Word288) : State :=
  match r with
  | .fenced => coreFault s c .fenced clsIssue
  | .bad => coreFault s c .eccUncorrectable clsIssue
  | .ok => s.modSeqr c (fun q => { q with desc := match q.desc with
      | some (b, ws) => if a = b + BitVec.ofNat 64 (32 * ws.length) then some (b, ws ++ data) else some (a, data)
      | none => some (a, data) })

/-- A fetched word of a stream. R725. -/
def answerStrmWord (s : State) (k word : Nat) (a : Ans) (data : List Word288) : State :=
  let (d, good) := checkedWord (nth (0, 0) data 0)
  match a with
  | .fenced => failAt s k (s.slot k).next .fenced (BitVec.ofNat 64 (32 * word))
  | _ => s.modSlot k (fun x => { x with fetched := x.fetched ++ [{ word := word, data := d, good := good && a == .ok }] })

/-- The words of a transfer as far as they lie in this device, zero where they are still to come. -/
def localWords (s : State) (k : Nat) (sl : Slot) (page : Bool) : List (Nat × Nat) → List Word288
  | [] => []
  | (a, n) :: ps =>
    (match srcAddr s k sl page a n with
     | (_, .here pl) => rawWords s pl (n / 32)
     | _ => List.replicate (n / 32) (0, 0)) ++ localWords s k sl page ps

/-- Source words of a transfer arrive, at byte `off` of it. R315, R342, R373. -/
def answerXferRead (s : State) (k xid off : Nat) (a : Ans) (data : List Word288) : State :=
  let sl := s.slot k
  match sl.xfers.find? (fun x => x.xid == xid) with
  | none => s
  | some x =>
    let src := (x.src.getD 0).toNat
    match a with
    | .fenced => failXfer s k x .fenced (src + off)
    | .bad => failXfer s k x .eccUncorrectable (src + off)
    | .ok =>
      let less (s : State) (f : Xfer → Xfer) : State := s.modSlot k (fun y => { y with
        xfers := mapWhere (fun t => t.xid == xid) (fun t => f { t with remote := t.remote - 1 }) y.xfers })
      match sl.engine with
      | some e =>
        less (data.zipIdx.foldl (fun (s : State) w =>
          let (d, good) := checkedWord w.1
          flumeWord s e x.pos.elem (x.off + off + 32 * w.2) d good) s) id
      | none =>
        let buf := x.buf.getD (localWords s k sl x.page (pieces src x.bytes 3))
        less s (fun t => { t with buf := some (buf.take (off / 32) ++ data ++ buf.drop (off / 32 + data.length)) })

/-- A write of a transfer is acknowledged. R352, R373, R434. -/
def answerXferWrite (s : State) (k xid : Nat) (a : Ans) : State :=
  match (s.slot k).xfers.find? (fun x => x.xid == xid) with
  | none => s
  | some x =>
    let dst := (x.dst.headD 0).toNat
    match a with
    | .fenced => failXfer s k x .fenced dst
    | .bad => failXfer s k x .eccUncorrectable dst
    | .ok => s.modSlot k (fun y => { y with
        xfers := mapWhere (fun t => t.xid == xid) (fun t => { t with remote := t.remote - 1 }) y.xfers })

/-- A word of a KV slot list entry arrives: the rest of the entry is fetched, and its head-row is written. R128, R129, R720. -/
def answerKvEntry (s : State) (l iseq at_ : Nat) (got : List Byte) (q : List Int) (scale : Nat) (a : Ans) (data : List Word288) : State :=
  match (s.tile (s.phys l)).closes.find? (fun c => c.op.iseq == iseq), s.runOf l with
  | some c, some r => match a, c.op.dest with
    | .ok, .tailrace d =>
      let (w, good) := checkedWord (nth (0, 0) data 0)
      let n := min (16 - got.length) (32 - at_ % 32)
      if good then
        let k := kvFetch r.rr.ctx l iseq d.kvHeadW (kvBits d.kvFmt) { s := s } ((at_ + n) % 2 ^ 64)
          (got ++ ((natToBytes w.toNat 32).drop (at_ % 32)).take n) q scale 4
        closeAnswer k.s l iseq k.sent k.flt k.cls true
      else closeAnswer s l iseq 0 .eccUncorrectable clsOperation false
    | .bad, _ => closeAnswer s l iseq 0 .eccUncorrectable clsOperation false
    | _, _ => closeAnswer s l iseq 0 .fenced clsOperation false
  | _, _ => s

/-- Bytes of a word in which a mask has a bit. -/
def maskBytes (m : BitVec 256) : Nat :=
  (List.range 32).foldl (fun v i => if m.extractLsb' (8 * i) 8 = 0 then v else v + 2 ^ i) 0

/-- Other merges of this device in the same word have loaded it before a store that is now on its way: each loads it again. R144. -/
def loadAfter (s : State) (k : Packet) : State :=
  { s with hdr := { s.hdr with outst := s.hdr.outst.map (fun o => match o.who with
      | .kvWord l n m v _ => if o.pkt.dst = k.dst ∧ o.pkt.addr = k.addr then { o with who := .kvWord l n m v true } else o
      | _ => o) } }

/-- A word of a KV page arrives: the bits are merged, and the bytes that hold them are stored; the word is loaded anew where another merge
of this device has stored to it meanwhile. DESIGN CHOICE (log 61): a merge of another device is not seen. R144, R314, R317, R716. -/
def answerKvWord (s : State) (o : OutReq) (l iseq : Nat) (mask val : BitVec 256) (again : Bool) (a : Ans) (data : List Word288) : State :=
  let k := o.pkt
  let w := nth ((0, 0) : Word288) data 0
  if !(s.tile (s.phys l)).closes.any (fun c => c.op.iseq == iseq) then s
  else match a, classify w.2 with
  | .fenced, _ => closeAnswer s l iseq 0 .fenced clsOperation false
  | .bad, _ => closeAnswer s l iseq 0 .eccUncorrectable clsMachine false
  | .ok, x =>
    if again then closeAnswer (sendReq s k.dst k.group 1 0x01 0 k.addr 0 [] (.kvWord l iseq mask val false)) l iseq 1 .none clsOperation false
    else if x = .uncorrectable then closeAnswer s l iseq 0 .eccUncorrectable clsMachine true
    else
      let d := match x with
        | .correctable p sym => correct w.1 p sym
        | _ => w.1
      let chk := if x = .marked then kMark else 0
      let s1 := loadAfter (sendReq s k.dst k.group 1 0x02 0 k.addr (BitVec.ofNat 64 (maskBytes mask)) [(maskWord d mask val, chk)]
        (.close l iseq)) k
      closeAnswer s1 l iseq 1 .none clsOperation false

/-- A request of a close, or of an engine, is answered. -/
def fltOf : Ans → Flt
  | .ok => .none
  | .fenced => .fenced
  | .bad => .eccUncorrectable

/-- A word of a part record arrives. R172. -/
def answerEngineWord (s : State) (e word : Nat) (a : Ans) (data : List Word288) : State :=
  let (d, good) := checkedWord (nth (0, 0) data 0)
  match a with
  | .fenced => engineAnswer s e .fenced false
  | _ => s.modEngine e (fun x => { x with run := x.run.map (fun y =>
      { y with fetched := y.fetched ++ [{ word := word, data := d, good := good && a == .ok }] }) })

/-- A read or write of a copy is refused: the core halts, and the copies of the sequence are read, or written, anew. R182, R184, R230. -/
def copyRefused (s : State) (q : Nat) : State :=
  serviceFault (s.modSeqEnt q (fun x => { x with refused := true })) (s.ctx (s.seqEnt q).ctx).core

/-- Words of a spilled copy arrive. R184. -/
def answerSpill (s : State) (q place : Nat) (a : Ans) (data : List Word288) : State :=
  match a with
  | .ok => s.modSeqEnt q (fun x => { x with
      staging := tsetList 0 x.staging place (data.map (fun w => (checkedWord w).1))
      got := x.got ++ [(place, data.length)]
      badWords := x.badWords ++ ((data.zipIdx.filter (fun w => !(checkedWord w.1).2)).map (fun w => place + w.2)) })
  | _ => copyRefused s q

/-- The entry of an atomic queue is posted: it returns no data. R295. -/
def isPosted (s : State) : Requester → Bool
  | .atom c n => match (coreAtoms s c).find? (fun x => x.iseq == n) with
    | some x => x.sd == 0
    | none => true
  | _ => true

/-- A request is completed with a status. R466. -/
def completeReq (s : State) (o : OutReq) (status : Nat) (operand : W64) (data : List Word288) : State :=
  let a := answerOf o.pkt (isPosted s o.who) status
  let s1 := { s with hdr := { s.hdr with outst := s.hdr.outst.filter (fun x => x.tag != o.tag) } }
  match o.who with
  | .load c pc sd sz sx => answerLoad s1 o c pc sd sz sx a data
  | .atom c n => answerAtom s1 c n a operand
  | .swap c n => answerSwap s1 c n a data
  | .desc c ad => answerDesc s1 c ad a data
  | .strmWord k w => answerStrmWord s1 k w a data
  | .close l n => closeAnswer s1 l n 0 (fltOf a) (if a = .bad then clsMachine else clsOperation) false
  | .kvEntry l n at_ got q sc => answerKvEntry s1 l n at_ got q sc a data
  | .kvWord l n m v again => answerKvWord s1 o l n m v again a data
  | .xferRead k x off => answerXferRead s1 k x off a data
  | .xferWrite k x => answerXferWrite s1 k x a
  | .engine e => engineAnswer s1 e (fltOf a) (a == .bad)
  | .engineWord e w => answerEngineWord s1 e w a data
  | .service c => if a = .ok then s1 else serviceFault s1 c
  | .spillRead q p => answerSpill s1 q p a data
  | .spillWrite q => if a = .ok then s1 else copyRefused s1 q
  | .fantail => s1
  | .nobody => s1

/-- A response answers the outstanding request of its tag; one that comes too late is discarded. R466, R473. -/
def answers (k : Packet) (o : OutReq) : Bool :=
  o.tag == k.tag && o.pkt.dst == k.src && o.pkt.op == k.op && o.pkt.addr == k.addr && o.pkt.oseq == k.oseq

/-- R466, R473. -/
def execFabricResponse (pkt : Packet) (s : State) : Host.Outcome State Fault Refusal :=
  .next (if !pkt.resp then s
    else match s.hdr.outst.find? (answers pkt) with
    | none => s
    | some o =>
      if pkt.status = 3 then { s with hdr := { s.hdr with sendQ := s.hdr.sendQ ++ [o.pkt] } }
      else completeReq s o pkt.status pkt.operand pkt.data)

/-- Ticks that a request has waited, on the port die of the port that it left on: P0, with ports 0 to 7, or P1. R473, R614. -/
def OutReq.waited (s : State) (o : OutReq) : Nat := if 8 ≤ o.port.getD 0 then s.hdr.ticks1 - o.since1 else s.hdr.ticks0 - o.since

/-- R473: a request has waited for HDR_CMD_TIMEOUT units of 4,096 ticks; a limit of 0 disables. -/
def execRequestTimeout (tag : Nat) (s : State) : Host.Outcome State Fault Refusal :=
  .next (match s.hdr.outst.find? (fun o => o.tag == tag) with
    | none => s
    | some o =>
      if s.hdr.timeout ≠ 0 ∧ 4096 * s.hdr.timeout ≤ o.waited s then completeReq (bumpHdr s 4) o 5 0 [] else s)

/-- Every unanswered request to the devices that satisfy `p` completes with FENCED. R489. -/
def fenceRequests (s : State) (p : Nat → Bool) : State :=
  let os := s.hdr.outst.filter (fun o => p o.pkt.dst)
  let s1 := { s with hdr := { s.hdr with sendQ := s.hdr.sendQ.filter (fun k => k.resp || !p k.dst) } }
  os.foldl (fun s o => completeReq s o stFenced 0 []) s1

end Sys2Proof.Machine
end

