-- ==== Sys2Proof/Machine/Keepers.lean ====
section
/-! DEFINITION. Enumeration: keepers, rosters, the map and its changes, late join, heartbeats and failover (11, R483 to R489; 18,
R687 to R690). -/

namespace Sys2Proof.Machine
open Sys2Proof

def State.modKeeper (s : State) (f : Keeper → Keeper) : State := { s with hdr := { s.hdr with keeper := f s.hdr.keeper } }

/-- The provisioned identifier of the device. R639. -/
def ownPid (s : State) : BitVec 48 := s.mgt.mfr ++ (0 : BitVec 1) ++ s.mgt.instance32

/-- SWITCH_IDs of the leaf switches that enumeration messages reach. R456, R483. -/
def leaves (s : State) : List (BitVec 16) :=
  ((List.range 2).filter (fun p => (s.port p).link == .up)).map (fun p => (s.port p).switchId)

def ownLeaf (s : State) : BitVec 16 := (leaves s).headD 0

/-- An enumeration message sent on port 0, or on port 1 when port 0 is not UP; with neither UP none is sent. R483. -/
def sendCtrl (s : State) (m : CtrlMsg) : State :=
  match ctrlPort s with
  | none => s
  | some p => if s.hdr.ctrlQ.isEmpty && decide ((s.port p).unacked.length < 1024) then ctrlOut s p m else { s with hdr := { s.hdr with ctrlQ := s.hdr.ctrlQ ++ [m] } }

def sendAll (s : State) (ms : List CtrlMsg) : State := ms.foldl sendCtrl s

/-- This device's keeper straps: 3 counts as member. R708. -/
def rackStrap (s : State) : Nat := s.hdr.rkeep.toNat % 3
def hallStrap (s : State) : Nat := s.hdr.hkeep.toNat % 3

/-! ## The map (R461, R469, R486, R489, R611, R688) -/

/-- A map holds a device. -/
def mapHas (m : Tab W32) (dev : Nat) : Bool := (tget 0 m (dev / 32)).getLsbD (dev % 32)

def mapWith (m : Tab W32) (dev : Nat) (present : Bool) : Tab W32 :=
  tmod 0 m (dev / 32) (fun w => if present then w ||| ((1 : W32) <<< (dev % 32)) else w &&& ~~~((1 : W32) <<< (dev % 32)))

/-- What the device keeps of the devices that satisfy `p` starts again: order counters, parked packets, Fantail message state. R469, R688. -/
def restartDevs (s : State) (p : Nat → Bool) : State :=
  { s with
    hdr := { s.hdr with
      txOrder := s.hdr.txOrder.filter (fun o => !p o.dev)
      rxOrder := s.hdr.rxOrder.filter (fun o => !p o.dev)
      reorder := s.hdr.reorder.filter (fun k => !p k.src) }
    fan := { s.fan with lastMseq := s.fan.lastMseq.filter (fun x => !p x.1) } }

/-- A new map takes the place of the one held. Devices that it adds start again; requests to devices that it drops are fenced. R469, R489. -/
def changeMap (s : State) (gen : W32) (map : Tab W32) : State :=
  let old := s.hdr.map
  let s1 := { s with hdr := { s.hdr with map := map, mapGen := gen } }
  let s2 := restartDevs s1 (fun d => mapHas map d && !mapHas old d)
  fenceRequests s2 (fun d => mapHas old d && !mapHas map d)

/-- The device is FENCED, with its cause. R485, R486. -/
def fenceSelf (s : State) (cause : Nat) : State :=
  { s with hdr := { s.hdr with fabSt := .fenced, fenceCause := if cause = 0 then 1 else cause } }

/-- The map reaches this device, with its number if it has one. R486, R488. -/
def applyMap (s : State) (gen : W32) (map : Tab W32) (dev : Option Nat) (cause : Nat) : State :=
  let s1 := changeMap s gen map
  let s2 := { s1 with hdr := { s1.hdr with joinPending := false } }
  match dev with
  | some d =>
    if mapHas map d then
      { s2 with hdr := { s2.hdr with devnum := d, devValid := true, fabSt := .ready, fenceCause := 0, joinRefused := false } }
    else fenceSelf { s2 with hdr := { s2.hdr with joinRefused := s.hdr.joinPending } } 1
  | none => fenceSelf { s2 with hdr := { s2.hdr with joinRefused := s.hdr.joinPending } } cause

/-- One change of the map reaches this device. R488, R489. -/
def applyChange (s : State) (gen : W32) (dev : Nat) (present : Bool) : State :=
  let s1 := { s with hdr := { s.hdr with map := mapWith s.hdr.map dev present, mapGen := gen } }
  if present then
    postEvent (restartDevs s1 (fun d => d == dev)) none { code := 0x52, sev := 0, srcKind := 5, d0 := dev, d1 := gen.toNat }
  else
    let s2 := fenceRequests s1 (fun d => d == dev)
    let s3 := { s2 with fan := { s2.fan with lastMseq := s2.fan.lastMseq.filter (fun x => x.1 != dev) } }
    if s.hdr.devValid ∧ s.hdr.devnum = dev then fenceSelf s3 1 else s3

/-! ## Rosters (R484, R485) -/

/-- A roster with one more report. Another leaf leaves the device out, and one SLOT reported twice leaves both out. R485. -/
def addReport (rs : List Report) (ok : List (BitVec 16)) (slot : Nat) (pid : BitVec 48) (leaf : BitVec 16) : List Report :=
  let others := rs.filter (fun r => !(r.slot == slot && r.pid == pid))
  let clash := others.any (fun r => r.slot == slot)
  mapWhere (fun r => r.slot == slot) (fun r => { r with out := 3 }) others ++
    [{ slot := slot, pid := pid, leaf := leaf, out := if clash then 3 else if leaf ∈ ok then 0 else 2 }]

/-- The slots of a rack's roster: reported, within the slot mask, and not left out. R484, R485. -/
def rosterSlots (k : Keeper) : W32 :=
  k.roster.foldl (fun m r => if r.out = 0 ∧ k.slotMask.getLsbD r.slot then m ||| (1 <<< r.slot) else m) 0

/-- Every slot of the slot mask has reported. R484. -/
def rosterFull (k : Keeper) : Bool :=
  (List.range 32).all (fun i => !k.slotMask.getLsbD i || k.roster.any (fun r => r.slot == i))

/-- The rack number that the topology record gives a leaf. R484. -/
def rackOf (k : Keeper) (leaf : BitVec 16) : Option Nat :=
  (k.topology.find? (fun t => t.2.1 == leaf || t.2.2 == leaf)).map (fun t => t.1)

/-- The map that the racks' reports give. R484. -/
def builtMap (k : Keeper) : Tab W32 :=
  k.racks.foldl (fun m r => match rackOf k r.1 with
    | some n => if n < 512 then tset 0 m n r.2 else m
    | none => m) []

/-- Every rack of the topology record has reported. R484. -/
def hallFull (k : Keeper) : Bool :=
  k.topology.all (fun t => k.racks.any (fun r => r.1 == t.2.1 || r.1 == t.2.2))

/-- The rack keeper relays a map to each member that reported, with its number or why it has none. R484, R485. -/
def relayMap (s : State) (gen : W32) (map : Tab W32) : State :=
  sendAll s (s.hdr.keeper.roster.map (fun r =>
    let dev := 32 * (s.hdr.devnum / 32) + r.slot
    if r.out = 0 ∧ s.hdr.devValid ∧ mapHas map dev then .mapToMember gen map r.slot (some dev) 0
    else .mapToMember gen map r.slot none (if r.out = 0 then 1 else r.out)))

/-- This device's own part in a map that the hall keeper sends out: it takes the map, and a rack keeper relays it. R484. -/
def takeMap (s : State) (gen : W32) (map : Tab W32) (dev : Option Nat) (cause : Nat) : State :=
  let s1 := applyMap s gen map dev cause
  if s1.hdr.keeper.rackActing then relayMap s1 gen map else s1

/-- Why the own roster leaves this device out, 0 where it does not. -/
def ownCause (s : State) : Nat :=
  match s.hdr.keeper.roster.find? (fun r => r.slot == s.hdr.slot.toNat && r.pid == ownPid s) with
  | some r => r.out
  | none => 0

/-- The hall roster closes: the map is built and sent. MAP_GEN is 1 at first, and rises where a rebuilt map differs. R484, R487. -/
def closeHall (s : State) : State :=
  let k := s.hdr.keeper
  let map := builtMap k
  let gen := if s.hdr.mapGen = 0 then 1 else if map = s.hdr.map then s.hdr.mapGen else s.hdr.mapGen + 1
  let s1 := s.modKeeper (fun k => { k with hallClosed := true })
  let dev := match rackOf k (ownLeaf s) with
    | some n => if mapHas map (32 * n + s.hdr.slot.toNat) then some (32 * n + s.hdr.slot.toNat) else none
    | none => none
  takeMap (sendCtrl s1 (.mapToKeepers gen map)) gen map dev (ownCause s)

/-- A rack's report reaches the hall keeper. R484. -/
def takeRackReport (s : State) (leaf : BitVec 16) (slots : W32) : State :=
  let s1 := s.modKeeper (fun k => { k with racks := k.racks.filter (fun r => r.1 != leaf) ++ [(leaf, slots)] })
  if hallFull s1.hdr.keeper && !s1.hdr.keeper.hallClosed then closeHall s1 else s1

/-- The rack roster closes once it is full, and the report goes to the hall keeper, which may be this device. R484. -/
def closeRack (s : State) : State :=
  if rosterFull s.hdr.keeper && !s.hdr.keeper.rosterClosed then
    let s1 := s.modKeeper (fun k => { k with rosterClosed := true })
    let m := rosterSlots s.hdr.keeper
    let s2 := sendCtrl s1 (.rackReport (ownLeaf s) m)
    if s2.hdr.keeper.hallActing then takeRackReport s2 (ownLeaf s) m else s2
  else s

/-- A member's report reaches its rack keeper. R484, R485. -/
def takeSlotReport (s : State) (slot : Nat) (pid : BitVec 48) (leaf : BitVec 16) : State :=
  closeRack (s.modKeeper (fun k => { k with roster := addReport k.roster (leaves s) slot pid leaf }))

/-- R484: the primary rack keeper announces itself; any other device sends its report. -/
def execKeeperAnnounce (s : State) : Host.Outcome State Fault Refusal :=
  .next (if !enumPortUp s then s
    else if rackStrap s = 1 ∧ s.hdr.fabSt = .enumerating ∧ !s.hdr.keeper.announced ∧ !s.hdr.keeper.standby then
      let s1 := s.modKeeper (fun k => { k with rackActing := true, announced := true,
                                               hallActing := k.hallActing || (hallStrap s == 1 && !k.hallStandby) })
      takeSlotReport (sendCtrl s1 .announce) s.hdr.slot.toNat (ownPid s) (ownLeaf s)
    else if s.hdr.keeper.rackActing then s
    else sendCtrl s (.slotReport s.hdr.slot.toNat (ownPid s) (ownLeaf s)))

/-- R484, R485. -/
def execSlotReport (slot : Nat) (pid : BitVec 48) (leaf : BitVec 16) (s : State) : Host.Outcome State Fault Refusal :=
  .next (if s.hdr.keeper.rackActing ∧ !s.hdr.keeper.rosterClosed ∧ slot < 32 ∧ enumPortUp s then takeSlotReport s slot pid leaf else s)

/-- R484. -/
def execRackReport (leaf : BitVec 16) (slots : W32) (s : State) : Host.Outcome State Fault Refusal :=
  .next (if s.hdr.keeper.hallActing ∧ !s.hdr.keeper.hallClosed ∧ enumPortUp s then takeRackReport s leaf slots else s)

/-- R484: HALL_WAIT runs from the time at which the hall keeper's own rack is ready. -/
def execHallWait (s : State) : Host.Outcome State Fault Refusal :=
  .next (if s.hdr.keeper.hallActing ∧ s.hdr.keeper.rosterClosed ∧ !s.hdr.keeper.hallClosed then closeHall s else s)

/-- The entries of a map as a message carries them. -/
def mapOf (m : List (Nat × W32)) : Tab W32 := m.foldl (fun t e => if e.1 < 512 then tset 0 t e.1 e.2 else t) []

/-- R484, R486. -/
def execMapDistribution (gen : W32) (map : List (Nat × W32)) (devnum : Option Nat) (cause : Nat) (s : State) :
    Host.Outcome State Fault Refusal :=
  .next (if enumPortUp s ∧ (s.hdr.fabSt = .enumerating ∨ s.hdr.fabSt = .ready ∨ s.hdr.fabSt = .fenced) then
      takeMap s gen (mapOf map) (devnum.map (fun d => d % 16384)) cause
    else s)

/-! ## Changes of the map (R488, R489, R687 to R689) -/

/-- The hall keeper changes one bit: MAP_GEN rises, and every device is told. R488, R687. -/
def hallChange (s : State) (dev : Nat) (present : Bool) : State :=
  let gen := s.hdr.mapGen + 1
  applyChange (sendCtrl s (.mapChange gen dev present)) gen dev present

/-- A rack keeper has a device's bit cleared. R687. -/
def clearDev (s : State) (dev : Nat) : State :=
  if s.hdr.keeper.hallActing then hallChange s dev false else sendCtrl s (.clearAsk dev)

/-- The hall keeper takes a forwarded JOIN: the bit is set, and the joining device gets the full map. R488. -/
def hallJoin (s : State) (dev : Nat) : State :=
  let s1 := hallChange s dev true
  sendCtrl s1 (.mapToMember s1.hdr.mapGen s1.hdr.map (dev % 32) (some dev) 0)

/-- A refused JOIN is answered without a number. R485, R689. -/
def refuseJoin (s : State) (slot cause : Nat) : State := sendCtrl s (.mapToMember s.hdr.mapGen s.hdr.map slot none cause)

/-- The rack keeper's checks of a JOIN, and what it forwards. A slot whose device is in the map was reset. R485, R488, R688, R689. -/
def rackJoin (s : State) (slot : Nat) (pid : BitVec 48) (leaf : BitVec 16) : State :=
  let k := s.hdr.keeper
  let dev := 32 * (s.hdr.devnum / 32) + slot
  if !k.slotMask.getLsbD slot then refuseJoin s slot 1
  else if leaf ∉ leaves s then refuseJoin s slot 2
  else if k.roster.any (fun r => r.slot == slot && r.pid != pid && r.out == 3) then refuseJoin s slot 3
  else
    let s1 := if mapHas s.hdr.map dev then clearDev s dev else s
    let rs := k.roster.filter (fun r => r.slot != slot) ++ [{ slot := slot, pid := pid, leaf := leaf }]
    let s2 := s1.modKeeper (fun k => { k with roster := rs })
    if s2.hdr.keeper.hallActing then hallJoin s2 dev else sendCtrl s2 (.join slot pid leaf)

/-- A device that has completed its bring-up and is not in the map sends JOIN. R488. -/
def sendJoin (s : State) : State :=
  let s1 := sendCtrl s (.join s.hdr.slot.toNat (ownPid s) (ownLeaf s))
  { s1 with hdr := { s1.hdr with joinPending := true, joinRefused := false } }

/-- A device that has received no map, for want of a keeper or of a port that enumeration messages reach, is FENCED. R483, R486. -/
def noMap (s : State) : State := if s.hdr.fabSt = .training ∨ s.hdr.fabSt = .enumerating then fenceSelf s 1 else s

/-- R488, R689: at a rack keeper, at the hall keeper, or at the device that joins. -/
def execJoin (slot : Nat) (pid : BitVec 48) (leaf : BitVec 16) (s : State) : Host.Outcome State Fault Refusal :=
  let k := s.hdr.keeper
  .next (if 32 ≤ slot then s
    else if slot = s.hdr.slot.toNat ∧ pid = ownPid s then
      (let s1 := noMap s
       if s1.hdr.fabSt = .fenced ∧ enumPortUp s then sendJoin s1 else s1)
    else if !enumPortUp s then s
    else if k.hallActing ∧ leaf ∉ leaves s ∧ (rackOf k leaf).isSome then
      match rackOf k leaf with
      | some n => hallJoin s (32 * n + slot)
      | none => s
    else if k.rackActing ∧ s.hdr.devValid then rackJoin s slot pid leaf
    else if k.hallActing then
      match rackOf k leaf with
      | some n => hallJoin s (32 * n + slot)
      | none => s
    else s)

/-- R488, R489. -/
def execMapChange (gen : W32) (dev : Nat) (present : Bool) (s : State) : Host.Outcome State Fault Refusal :=
  .next (if dev < 16384 ∧ enumPortUp s then applyChange s gen dev present else s)

/-- R689. -/
def execJoinRetry (s : State) : Host.Outcome State Fault Refusal :=
  .next (if s.hdr.joinRefused ∧ s.hdr.fabSt = .fenced ∧ enumPortUp s then sendJoin s else s)

/-- R487, R687: while the management controller restarts none is sent or answered (R686). -/
def execKeeperHeartbeat (s : State) : Host.Outcome State Fault Refusal :=
  .next (if s.mgt.restarting ∨ !enumPortUp s then s
    else if s.hdr.keeper.rackActing ∨ s.hdr.keeper.hallActing then
      sendCtrl (s.modKeeper (fun k => { k with heartbeats := k.heartbeats + 1 })) .heartbeat
    else sendCtrl s (.heartbeatAnswer s.hdr.slot.toNat))

/-- R687: the member in `slot` has left ten heartbeats in a row unanswered. -/
def execHeartbeatMiss (slot : Nat) (s : State) : Host.Outcome State Fault Refusal :=
  let dev := 32 * (s.hdr.devnum / 32) + slot
  .next (if s.hdr.keeper.rackActing ∧ s.hdr.devValid ∧ slot < 32 ∧ 10 ≤ s.hdr.keeper.heartbeats ∧ mapHas s.hdr.map dev ∧ enumPortUp s then
      clearDev s dev
    else s)

/-- The event of a failover. R487. -/
def failoverEvent (s : State) (hall : Bool) (dev : Nat) : State :=
  postEvent s none { code := 0x51, sev := 1, srcKind := 5, d0 := if hall then 1 else 0, d1 := dev }

/-- The keeper of a rack or of the hall has been silent for 10 s. Its backup takes over and asks for every report again; the keeper
itself, back in service, stands by; every other device learns of the new keeper. R487, R690. -/
def failover (s : State) (hall : Bool) : State :=
  let k := s.hdr.keeper
  if hall then
    if k.hallActing then s.modKeeper (fun k => { k with hallActing := false, hallStandby := true })
    else if hallStrap s = 2 ∨ k.hallStandby then
      sendCtrl (failoverEvent (s.modKeeper (fun k => { k with
        hallActing := true, hallStandby := false, racks := [], hallClosed := false })) true s.hdr.devnum) .announceHall
    else other
  else
    if k.rackActing then s.modKeeper (fun k => { k with rackActing := false, standby := true })
    else if rackStrap s = 2 ∨ k.standby then
      let s1 := s.modKeeper (fun k => { k with rackActing := true, standby := false, roster := [], rosterClosed := false, heartbeats := 0 })
      takeSlotReport (sendCtrl (failoverEvent s1 false s.hdr.devnum) .announce) s.hdr.slot.toNat (ownPid s) (ownLeaf s)
    else other
where
  /-- D1 is the number of a device that this one cannot see: a free value. -/
  other : State :=
    let (s1, i) := s.takeFree
    failoverEvent s1 hall ((Config.freeWord i).toNat % 16384)

/-- R487, R690. -/
def execKeeperFailover (hall : Bool) (s : State) : Host.Outcome State Fault Refusal :=
  .next (if enumPortUp s then failover s hall else s)

end Sys2Proof.Machine
end

