-- ==== Sys2Proof/Machine/Serve.lean ====
section
/-! DEFINITION. What the service firmware's commands share (12, 10, 04): completion records and submission records, frames and page
maps, the page pool, the spill regions, and the end of a sequence. -/

namespace Sys2Proof.Machine
open Sys2Proof

/-! ## Status codes (R526) -/

def csOk : Nat := 0x00
def csCtxFull : Nat := 0x01
def csSeqFull : Nat := 0x02
def csNoResource : Nat := 0x03
def csGroupInUse : Nat := 0x04
def csInvalid : Nat := 0x05
def csNotBound : Nat := 0x06
def csNoWeights : Nat := 0x07
def csBusy : Nat := 0x08
def csNotFound : Nat := 0x09
def csPoolEmpty : Nat := 0x0A
def csRunFault : Nat := 0x0B
def csPoisoned : Nat := 0x0C
def csOutFull : Nat := 0x0D
def csCancelled : Nat := 0x0E
def csEndStop : Nat := 0x10
def csEndMaxNew : Nat := 0x11
def csEndMaxTokens : Nat := 0x12
def csSigInvalid : Nat := 0x13
def csLoadFailed : Nat := 0x14

/-! ## Completion records (R525 to R528) -/

/-- A completion record but for its CSEQ. R526. -/
structure Cpl where
  kind : Nat
  status : Nat := 0
  detail : Nat := 0
  reqId : W64
  ctx : Nat
  seq : Nat := 0xFFFF
  tokens : List W32 := []
  genPos : Nat := 0
  outPos : Nat := 0
  outLen : Nat := 0
deriving DecidableEq, Repr

/-- The 64 bytes of a completion record. R526. -/
def Cpl.bytes (c : Cpl) (cseq : W32) : List Byte :=
  natToBytes c.reqId.toNat 8 ++ natToBytes cseq.toNat 4 ++ natToBytes c.ctx 2 ++ natToBytes c.seq 2 ++ natToBytes c.kind 1 ++
  natToBytes c.status 1 ++ natToBytes c.detail 1 ++ natToBytes c.tokens.length 1 ++ natToBytes c.genPos 4 ++
  natToBytes c.outPos 4 ++ natToBytes c.outLen 4 ++
  (List.range 8).flatMap (fun j => natToBytes (nth 0 c.tokens j).toNat 4)

/-- A ring takes a completion record now: room, and none waits before it. -/
def cplRoom (s : State) (r : Nat) : Bool := (s.ring r).kind == .complete && (s.ring r).room && (s.ring r).waiting.isEmpty

/-- A record with its CSEQ, which counts the records written to the ring. R526. -/
def pushCpl (s : State) (r : Nat) (bs : List Byte) : State :=
  let g := s.ring r
  (pushRecord s r (patch bs 8 4 g.cseq.toNat)).modRing r (fun g => { g with cseq := g.cseq + 1 })

/-- A completion record is written, or waits and holds its submission ring or its sequence. R528. -/
def writeRec (s : State) (r : Nat) (c : Cpl) (sub seq : Option Nat) : State :=
  if cplRoom s r then pushCpl s r (c.bytes 0)
  else s.modRing r (fun g => { g with waiting := g.waiting ++ [{ bytes := c.bytes 0, sub := sub, seq := seq }] })

/-- The completion ring of a function for records that name none: its COMPLETE ring of lowest local index. DESIGN CHOICE. -/
def doneRing (s : State) (f : Nat) : Option Nat :=
  (findFrom (fun r => (s.ring r).kind == .complete) (s.fn f).ringsBase (s.fn f).ringsCount)

/-- A DONE record for what a submission record asked. R526. -/
def finishDone (s : State) (d : Done) (ctx status : Nat) : State :=
  match doneRing s (s.ring d.sub).func with
  | some r => writeRec s r { kind := 1, status := status, reqId := d.reqId, ctx := ctx } (some d.sub) none
  | none => s

/-- A record of the submission ring, or of the sequence, waits for room in a completion ring. R528. -/
def heldBy (s : State) (p : Waiting → Bool) : Bool := s.hif.rings.any (fun r => r.2.waiting.any p)

def subHeld (s : State) (ring : Nat) : Bool := heldBy s (fun w => w.sub == some ring)
def seqHeld (s : State) (q : Nat) : Bool := heldBy s (fun w => w.seq == some q)

/-! ## Submission records (R490, R494, R506, R507) -/

/-- A Miller core runs its service loop. -/
def coreRuns (s : State) (c : Nat) : Bool := (s.miller c).run == .running

/-- The record at the head of a submission ring, once its core may take it. R490, R507, R528, R679. -/
def subRecord (s : State) (ring : Nat) : Option (List Byte) :=
  let g := s.ring ring
  if ring < 65536 ∧ g.kind = .submit ∧ g.isOn ∧ 0 < g.count ∧ s.pins.ready ∧ coreRuns s (ringCore s ring) ∧ !subHeld s ring ∧
      (doneRing s g.func).isSome then
    some ((headRecord s ring).2.1.take 128)
  else none

/-- The record at the head, where it is of a KIND and does not wait under R506. -/
def subOf (s : State) (ring kind : Nat) : Option (List Byte) :=
  match subRecord s ring with
  | some bs => if fieldAt bs 8 1 = kind ∧ !(s.ring ring).held then some bs else none
  | none => none

def recReq (bs : List Byte) : W64 := field64 bs 0
def recCtx (bs : List Byte) : Nat := fieldAt bs 10 2

/-- Reserved bytes of a record, the common ones among them, are zero. R494. -/
def zeroAt (bs : List Byte) (o n : Nat) : Bool := fieldAt bs o n == 0
def recRsvd (bs : List Byte) : Bool := zeroAt bs 9 1 && zeroAt bs 12 4

/-- What a record will complete. -/
def recDone (bs : List Byte) (ring : Nat) : Done := { reqId := recReq bs, sub := ring }

/-- The record at the head is consumed. R490. -/
def consume (s : State) (ring : Nat) : State := popHead (s.modRing ring (fun g => { g with held := false })) ring

/-- The record completes with a status and nothing else. -/
def refuseRec (s : State) (ring : Nat) (bs : List Byte) (ctx status : Nat) : State :=
  finishDone (consume s ring) (recDone bs ring) ctx status

/-- The context that a record names: bound, and through the function that carries the record. R495, R500 to R508. -/
def recBound (s : State) (ring : Nat) (bs : List Byte) : Bool :=
  let c := s.ctx (recCtx bs)
  decide (recCtx bs < 4096) && c.bound && c.fn == (s.ring ring).func && c.unbinding.isNone

/-! ## Firmware accesses to HBM and Millpond -/

/-- A service-profile access that meets a word without good data halts its core. R230, R317. -/
def svRead (s : State) (core : Nat) (pl : Place) (n : Nat) : State × Nat :=
  match readSub s pl n with
  | (s1, v, .ok) => (s1, v)
  | (s1, _, _) => (serviceFault s1 core, 0)

/-- A write into a retired frame is refused. R439. -/
def svPut (s : State) (core : Nat) (pl : Place) (n v : Nat) : State :=
  if frameRetired s pl then serviceFault s core
  else match writeSub s pl n v with
    | (s1, .none) => s1
    | (s1, _) => serviceFault s1 core

def svAtom (s : State) (core : Nat) (pl : Place) (k : AtomKind) (v : W64) : State × Nat :=
  if frameRetired s pl then (serviceFault s core, 0)
  else match atomApply s pl k v with
    | (s1, old, .ok) => (s1, old.toNat)
    | (s1, _, _) => (serviceFault s1 core, 0)

/-- What the memories of `t` have counted, logged and retired since `s`. R317, R438. -/
def keepCounts (s t : State) : State :=
  (t.memb.retired.filter (fun f => f ∉ s.memb.retired)).foldl (fun (s : State) f => retireFrame s f 0)
    (t.tiles.foldl (fun (s : State) x => s.modTile x.1 (fun y => { y with mpd := x.2.mpd })) { s with memb := { s.memb with stks := t.memb.stks } })

/-- A firmware command ends whole, or with its core halted: then only what the memories counted stays. R230, R317, R438. -/
def fwDo (s : State) (core : Nat) (f : State → State) : State :=
  let t := f s
  if (t.miller core).run = .halted then serviceFault (keepCounts s t) core else t

/-! ## Frames (R439, R441, R497, R548) -/

/-- Frames that hold `n` bytes at a device address. -/
def frameRange (a n : Nat) : Nat × Nat := (a / 65536, ceilDiv (a % 65536 + n) 65536)

/-- Ranges of frames in use: of contexts and their versions, retired frames, the rights and group tables, and rings of device memory. -/
def usedFrames (s : State) : List (Nat × Nat) :=
  s.ctxs.flatMap (fun c => c.2.frames ++ c.2.ver0.frames ++ c.2.ver1.frames) ++
  (s.memb.retired ++ s.memb.withheld).map (fun f => (f, 1)) ++
  [frameRange s.hdr.rightsBase (512 * 4096), frameRange s.hdr.groupBase (256 * s.hdr.groupLimit)] ++
  ((s.hif.rings.filter (fun r => r.2.kind == .internal || r.2.kind == .bucket)).map (fun r =>
    frameRange r.2.base.toNat (32 * r.2.entryUnits * r.2.entries)))

def rangeFree (used : List (Nat × Nat)) (f n : Nat) : Bool :=
  used.all (fun u => decide (u.1 + u.2 ≤ f) || decide (f + n ≤ u.1)) && decide ((f + n) * 65536 ≤ hbmEnd)

/-- The lowest range of `n` free frames at a multiple of `align`. -/
def fitFrames (used : List (Nat × Nat)) (n align : Nat) : Option Nat :=
  let cands := (0 :: used.map (fun u => ceilDiv (u.1 + u.2) align * align)).filter (fun f => rangeFree used f n)
  match cands with
  | [] => none
  | f :: fs => some (listMin f fs)

/-- A build under way: the state, the frames taken, and whether all that was asked could be taken. -/
structure Bld where
  s : State
  frames : List (Nat × Nat) := []
  ok : Bool := true
deriving DecidableEq, Repr

/-- `n` bytes of HBM at a 64 KiB frame, or at a 2 MiB boundary where they fill one: their address. -/
def Bld.take (b : Bld) (n : Nat) : Bld × Nat :=
  let k := ceilDiv n 65536
  match fitFrames (usedFrames b.s ++ b.frames) k (if k < 32 then 1 else 32) with
  | some f => ({ b with frames := b.frames ++ [(f, k)] }, 65536 * f)
  | none => ({ b with ok := false }, 0)

/-- As `take`, zeroed. -/
def Bld.takeZero (b : Bld) (n : Nat) : Bld × Nat :=
  match b.take n with
  | (b1, a) => if b1.ok then ({ b1 with s := b1.s.zero a (ceilDiv n 65536 * 65536) }, a) else (b1, a)

/-! ## Page maps (R420 to R424) -/

/-- The table that an entry names, made if the entry is not valid. -/
def Bld.table (b : Bld) (core at_ n : Nat) : Bld × Nat :=
  let e := rawEntry b.s at_
  if e % 2 = 1 then (b, entFrame e)
  else match b.takeZero n with
    | (b1, a) => if b1.ok then ({ b1 with s := svPut b1.s core (.hbm at_) 8 (a + 1) }, a) else (b1, 0)

/-- The bits of a page entry: TIER, EXEC, WRITE, TYPE page, VALID. R422. -/
def pageBits (tier : Nat) (exec write : Bool) : Nat := 64 * tier + bit exec 5 + bit write 4 + 3

/-- One page entered in a context's map: of 2 MiB at level 1, or of 64 KiB at level 0. -/
def Bld.page (b : Bld) (core root va target bits : Nat) (big : Bool) : Bld :=
  match b.table core (root + 8 * (va / 2 ^ 35)) 0x20000 with
  | (b1, l1) =>
    let at1 := l1 + 8 * bitsOf va 21 14
    if !b1.ok then b1
    else if big then { b1 with s := svPut b1.s core (.hbm at1) 8 (target + bits) }
    else match b1.table core at1 256 with
      | (b2, l0) => if b2.ok then { b2 with s := svPut b2.s core (.hbm (l0 + 8 * bitsOf va 16 5)) 8 (target + bits) } else b2

/-- `n` pages of 64 KiB mapped from `va` to `target` on, by 2 MiB pages where both lie so. `fuel` counts the pages. -/
def Bld.pages (b : Bld) (core root va target bits n : Nat) : Nat → Bld
  | 0 => b
  | fuel + 1 =>
    if n = 0 ∨ !b.ok then b
    else if va % 0x200000 = 0 ∧ target % 0x200000 = 0 ∧ 32 ≤ n then
      (b.page core root va target bits true).pages core root (va + 0x200000) (target + 0x200000) bits (n - 32) fuel
    else (b.page core root va target bits false).pages core root (va + 65536) (target + 65536) bits (n - 1) fuel

/-- A range of bytes mapped. -/
def Bld.map (b : Bld) (core root va target bytes tier : Nat) (exec write : Bool) : Bld :=
  b.pages core root va target (pageBits tier exec write) (ceilDiv bytes 65536) (ceilDiv bytes 65536)

/-- Every cached translation of a context is dropped; the invalidation is DONE once nothing uses one. R428. -/
def invalCtx (s : State) (ctx : Nat) : State :=
  let s1 := startXlatInval s (2 ^ 62 + ctx * 2 ^ 48)
  if invalWaits s1 then s1 else endXlatInval s1

/-! ### Pages off retired frames (R440) -/

/-- A word copied: an uncorrectable word arrives marked. R440. -/
def copiedWord (w : Word288) : Word288 :=
  match classify w.2 with
  | .clean => w
  | .marked => w
  | .correctable p sym => (correct w.1 p sym, 0)
  | .uncorrectable => (w.1, kMark)

/-- An entry that maps a frame: its context, its address, whether it names a 2 MiB page, and the page's virtual address. -/
structure Mapping where
  ctx : Nat
  at_ : Nat
  big : Bool
  va : Nat
deriving DecidableEq, Repr

/-- Every entry of a context that maps frame `f`. -/
def mappingsOf (s : State) (ctx f : Nat) : List Mapping :=
  match tget 0 s.memb.roots ctx with
  | 0 => []
  | r + 1 =>
    (List.range 16384).flatMap (fun i =>
      let e2 := rawEntry s (r + 8 * i)
      if e2 % 2 = 0 then []
      else (List.range 16384).flatMap (fun j =>
        let a1 := entFrame e2 + 8 * j
        let e1 := rawEntry s a1
        let va := i * 2 ^ 35 + j * 2 ^ 21
        if e1 % 2 = 0 then []
        else if entMaps e1 0x200000 f then [{ ctx := ctx, at_ := a1, big := true, va := va }]
        else if bitsOf e1 1 2 ≠ 0 then []
        else (List.range 32).filterMap (fun k =>
          let a0 := entFrame e1 + 8 * k
          if entMaps (rawEntry s a0) 65536 f then some { ctx := ctx, at_ := a0, big := false, va := va + 65536 * k } else none)))

/-- One entry is set to the new frame at `a`; a 2 MiB page becomes 32 of 64 KiB. R440. -/
def moveEntry (b : Bld) (f a : Nat) (m : Mapping) : Bld :=
  let core := (b.s.ctx m.ctx).core
  let e := rawEntry b.s m.at_
  if !b.ok then b
  else if !m.big then { b with s := svPut b.s core (.hbm m.at_) 8 (a + e % 65536) }
  else match b.takeZero 256 with
    | (b1, t) => if !b1.ok then b1 else
      let s1 := (List.range 32).foldl (fun (s : State) k =>
        let g := entFrame e + 65536 * k
        svPut s core (.hbm (t + 8 * k)) 8 ((if g = 65536 * f then a else g) + e % 65536)) b1.s
      { b1 with s := svPut s1 core (.hbm m.at_) 8 (t + 1) }

/-- A stream of a context halted with PAGE_ABSENT within a page. -/
def absentOn (m : Mapping) (x : Slot) : Bool :=
  x.st == .halted && x.reason == .pageAbsent && x.ctx == m.ctx && decide (m.va ≤ x.faddr.toNat) &&
  decide (x.faddr.toNat < m.va + if m.big then 0x200000 else 65536)

/-- The streams of a device that `p` names are resumed with RETRY. R440. -/
def retrySlots (s : State) (p : Slot → Bool) : State :=
  (List.range 4).foldl (fun (s : State) d =>
    ((s.mrc d).slots.filter (fun k => p k.2)).foldl (fun (s : State) k =>
      resumeSlot (s.modSlot (256 * d + k.1) (fun y => { y with actionFault := false })) (256 * d + k.1)) s) s

/-- The pages that hold a retired frame are remapped: the frame's words are copied to a new one, and every entry names that. R440. -/
def movePage (s : State) (f : Nat) : State :=
  let cs := (s.ctxs.filter (fun c => c.2.bound)).map (fun c => c.1)
  let ms := cs.flatMap (fun c => mappingsOf s c f)
  if ms.isEmpty then s
  else match ({ s := s } : Bld).take 65536 with
    | (b, a) =>
      if !b.ok then s
      else
        let b1 : Bld := { b with s := b.s.setWords a ((b.s.words (65536 * f) 2048).map copiedWord) }
        let b2 := ms.foldl (fun (x : Bld × List Nat) m =>
          if m.at_ ∈ x.2 then x else (moveEntry x.1 f a m, m.at_ :: x.2)) (b1, [])
        if !b2.1.ok then s
        else
          let s2 := (cs.filter (fun c => ms.any (fun m => m.ctx == c))).foldl (fun (s : State) c =>
            (invalCtx s c).modCtx c (fun x => { x with frames := x.frames ++ b2.1.frames })) b2.1.s
          retrySlots s2 (fun x => ms.any (fun m => absentOn m x))

/-- Every mapped page is moved off retired frames. R440. -/
def moveRetired (s : State) : State := s.memb.retired.foldl movePage s

/-! ## The page pool (R176 to R181) -/

/-- Page rows of a context: one for each layer and KV head. R180, R499. -/
def Ctx.rows (c : Ctx) : Nat := c.bind.nLayers * c.bind.nKvh

/-- Entries of a page table row. R499. -/
def Ctx.rowEntries (c : Ctx) : Nat := c.bind.maxTokens / 64

/-- PAGE_BYTES. R176. -/
def Ctx.pageBytes (c : Ctx) : Nat := Machine.pageBytes (kvBits c.bind.kvf) c.bind.w

/-- Offset of a sequence slot's rows in the page table area. R499. -/
def Ctx.ptOff (c : Ctx) (slot : Nat) : Nat := slot * 8 * c.rowEntries * c.rows

/-- Device address of the page table entry of logical page `i` in row `r` of a slot. R499. -/
def Ctx.ptEntry (c : Ctx) (slot r i : Nat) : Nat := c.ptArea + c.ptOff slot + 8 * (c.rowEntries * r + i)

/-- Entries of the free ring. R177. -/
def ringSize (n : Nat) : Nat := 2 ^ (Nat.log2 (n - 1) + 1)

def poolPlace (s : State) (ctx o : Nat) : Place := .mill (s.phys (s.ctx ctx).poolTile) ((s.ctx ctx).poolOff + o)

/-- AVAIL of a pool. R176. -/
def poolAvail (s : State) (ctx : Nat) : State × Int :=
  let (s1, v) := svRead s (s.ctx ctx).core (poolPlace s ctx 4) 4
  (s1, (BitVec.ofNat 32 v).toInt)

def poolAdd (s : State) (ctx o : Nat) (d : Int) : State × Nat :=
  svAtom s (s.ctx ctx).core (poolPlace s ctx o) .addI32 (BitVec.ofInt 64 d)

def ringEntryAt (s : State) (ctx k : Nat) : Place :=
  .hbm ((s.ctx ctx).ringAddr + 8 * (k % ringSize (s.ctx ctx).bind.kvPages))

/-- One page taken from a pool; none from an empty one, and none while the ring entry is not VALID: the core repeats its swap. R178. -/
def poolAlloc (s : State) (ctx : Nat) : State × Option Nat :=
  let (s1, n) := poolAdd s ctx 4 (-1)
  if (BitVec.ofNat 32 n).toInt ≤ 0 then ((poolAdd s1 ctx 4 1).1, none)
  else
    let (s2, k) := poolAdd s1 ctx 8 1
    let (s3, e) := svAtom s2 (s.ctx ctx).core (ringEntryAt s ctx k) .swap64 0
    (s3, if e % 2 = 1 then some e else none)

/-- One page returned. R178. -/
def poolFree (s : State) (ctx e : Nat) : State :=
  let (s1, k) := poolAdd s ctx 12 1
  let s2 := svPut s1 (s.ctx ctx).core (ringEntryAt s ctx k) 8 e
  (poolAdd s2 ctx 4 1).1

/-- PAUSED changes. R182, R184. -/
def poolPaused (s : State) (ctx : Nat) (d : Int) : State := (poolAdd s ctx 0 d).1

/-- Every page place of logical pages `i` to `i + n − 1`: row and index. -/
def pagePlaces (rows i n : Nat) : List (Nat × Nat) :=
  (List.range n).flatMap (fun k => (List.range rows).map (fun r => (r, i + k)))

/-- A page for each place, entered in the sequence's row; none while one cannot be taken. R178, R180. -/
def enterPages (s : State) (q : Nat) : List (Nat × Nat) → Option State
  | [] => some s
  | p :: ps =>
    let x := s.seqEnt q
    let c := s.ctx x.ctx
    match poolAlloc s x.ctx with
    | (s1, some e) => enterPages (svPut s1 c.core (.hbm (c.ptEntry x.slot p.1 p.2)) 8 e) q ps
    | (_, none) => none

/-- The pages of `n` more logical pages of a sequence are taken. R180. -/
def takePages (s : State) (q n : Nat) : Option State :=
  (enterPages s q (pagePlaces (s.ctx (s.seqEnt q).ctx).rows (s.seqEnt q).pages n)).map
    (fun s1 => s1.modSeqEnt q (fun y => { y with pages := y.pages + n }))

/-- The pages of a sequence go back to the pool, and its entries hold none. R181, R499. -/
def freePages (s : State) (q : Nat) : State :=
  let x := s.seqEnt q
  let c := s.ctx x.ctx
  (pagePlaces c.rows 0 x.pages).foldl (fun (s : State) p =>
    let at_ : Place := .hbm (c.ptEntry x.slot p.1 p.2)
    match svRead s c.core at_ 8 with
    | (s1, e) =>
      let s2 := if e % 2 = 1 ∧ bitsOf e 1 1 = 0 then poolFree s1 x.ctx (e / 32 * 32 + 1) else s1
      svPut s2 c.core at_ 8 0) s

/-! ## Spill regions (R183, R405) -/

/-- 4 KiB blocks of one page's copy. R183, R405. -/
def Ctx.copyBlocks (c : Ctx) : Nat := 1 + ceilDiv c.pageBytes 4096

/-- The lowest `n` consecutive blocks of a region of `size` blocks that overlap none in use. R183. -/
def fitBlocks (used : List (Nat × Nat)) (n size : Nat) : Option Nat :=
  let cands := (0 :: used.map (fun u => u.1 + u.2)).filter (fun f =>
    used.all (fun u => decide (u.1 + u.2 ≤ f) || decide (f + n ≤ u.1)) && decide (f + n ≤ size))
  match cands with
  | [] => none
  | f :: fs => some (listMin f fs)

/-- First blocks of `k` copies, first-fit, or none where they do not all fit. R183. -/
def fitCopies (used : List (Nat × Nat)) (n size : Nat) : Nat → Option (List Nat)
  | 0 => some []
  | k + 1 => match fitBlocks used n size with
    | none => none
    | some f => (fitCopies ((f, n) :: used) n size k).map (fun fs => f :: fs)

/-- Where the copies of a sequence of `k` pages go: the tier-1 region while it has room for all, else the tier-2 region. R183. -/
def spillPlaces (c : Ctx) (k : Nat) : Option Spill :=
  match fitCopies c.spill1 c.copyBlocks (16 * c.bind.spill) k with
  | some bs => some { tier2 := false, blocks := bs }
  | none => (fitCopies c.spill2 c.copyBlocks (16 * c.bind.spill2) k).map (fun bs => { tier2 := true, blocks := bs })

def Ctx.useSpill (c : Ctx) (x : Spill) : Ctx :=
  let rs := x.blocks.map (fun f => (f, c.copyBlocks))
  if x.tier2 then { c with spill2 := c.spill2 ++ rs } else { c with spill1 := c.spill1 ++ rs }

/-- A copy's blocks are free again. R183. -/
def Ctx.dropSpill (c : Ctx) (x : Spill) : Ctx :=
  if x.tier2 then { c with spill2 := c.spill2.filter (fun r => r.1 ∉ x.blocks) }
  else { c with spill1 := c.spill1.filter (fun r => r.1 ∉ x.blocks) }

/-! ## Sequences -/

/-- The sequences of a context that the device holds, in admission order. -/
def insertSeq (q : Nat × SeqEnt) : List (Nat × SeqEnt) → List (Nat × SeqEnt)
  | [] => [q]
  | x :: xs => if q.2.order < x.2.order then q :: x :: xs else x :: insertSeq q xs

def heldSeqs (s : State) (ctx : Nat) : List (Nat × SeqEnt) :=
  (s.seqs.filter (fun x => x.2.held && x.2.ctx == ctx)).foldl (fun l x => insertSeq x l) []

/-- Sequences that have not ended. -/
def liveSeqs (s : State) (ctx : Nat) : List (Nat × SeqEnt) := (heldSeqs s ctx).filter (fun x => !x.2.ended)

/-- The context of a function reset is being unbound, and no completion record is written for it. R585. -/
def silenced (s : State) (ctx : Nat) : Bool := (s.ctx ctx).unbinding == some none

/-- A TOKENS or END record of a sequence: the tokens waiting, and their bytes. R525, R526, R585. -/
def seqRecord (s : State) (q kind status detail : Nat) : State :=
  let x := s.seqEnt q
  if silenced s x.ctx then s
  else
    let s1 := s.modSeqEnt q (fun y => { y with
      waiting := [], waitBytes := 0, genPos := x.genPos + x.waiting.length, outPos := x.outPos + x.waitBytes })
    writeRec s1 x.adm.cplRing { kind := kind, status := status, detail := detail, reqId := x.reqId, ctx := x.ctx, seq := q,
                                tokens := x.waiting, genPos := x.genPos, outPos := x.outPos, outLen := x.waitBytes } none (some q)

/-- A sequence whose END record has been written leaves its entry. -/
def releaseSeq (s : State) (q : Nat) : State :=
  if (s.seqEnt q).ended ∧ !seqHeld s q then s.modSeqEnt q (fun _ => {}) else s

/-- A sequence ends: its pages and copies are freed, and its END record is written. R181, R510, R525. -/
def endSeq (s : State) (q status detail : Nat) : State :=
  let x := s.seqEnt q
  let s1 := freePages s q
  let s2 := if x.paused then poolPaused s1 x.ctx (-1) else s1
  let s3 := match x.spilled with
    | some sp => s2.modCtx x.ctx (fun c => c.dropSpill sp)
    | none => s2
  let s4 := s3.modSeqEnt q (fun y => { y with
    ended := true, paused := false, pausing := false, spilled := none, reading := false, refused := false, got := [], pages := 0 })
  releaseSeq (seqRecord s4 q 4 status detail) q

end Sys2Proof.Machine
end

