-- ==== Sys2Proof/Machine/Versions.lean ====
section
/-! DEFINITION. Version slots and step boundaries (13, R531, R532, R553 to R559; 12, R502, R503, R510): discarding a slot, switching
to a verified one, cancelling sequences, and the end of a binding. -/

namespace Sys2Proof.Machine
open Sys2Proof

/-! ## Version slots (R531) -/

def Ctx.ver (c : Ctx) (v : Bool) : Version := if v then c.ver1 else c.ver0

def Ctx.modVer (c : Ctx) (v : Bool) (f : Version → Version) : Ctx :=
  if v then { c with ver1 := f c.ver1 } else { c with ver0 := f c.ver0 }

def modVer (s : State) (ctx : Nat) (v : Bool) (f : Version → Version) : State := s.modCtx ctx (fun c => c.modVer v f)

/-- A version is active. R508. -/
def Ctx.hasActive (c : Ctx) : Bool := (c.ver c.activeVer).st == .active

/-- The non-active slot; slot 0 before any version is active. R531, R542. -/
def Ctx.spare (c : Ctx) : Bool := if c.hasActive then !c.activeVer else c.activeVer

/-- First address of a version window. R532. -/
def windowBase (v : Bool) : Nat := if v then 0x400000000000 else 0

/-- The slot on which a sequence runs. R557. -/
def seqVer (c : Ctx) (x : SeqEnt) : Bool := x.pinned.getD c.activeVer

/-- Live sequences pinned to a slot. R557, R558. -/
def pinnedTo (s : State) (ctx : Nat) (v : Bool) : List (Nat × SeqEnt) := (liveSeqs s ctx).filter (fun x => x.2.pinned == some v)

/-- A version window is unmapped: its level-2 entries are cleared, and the context's cached entries dropped. R428, R559. -/
def unmapWindow (s : State) (ctx : Nat) (v : Bool) : State :=
  match tget 0 s.memb.roots ctx with
  | 0 => s
  | r + 1 =>
    invalCtx ((List.range 2048).foldl (fun (s : State) i =>
      let at_ := r + 8 * (2 ^ 11 * (if v then 1 else 0) + i)
      if rawEntry s at_ % 2 = 1 then svPut s (s.ctx ctx).core (.hbm at_) 8 0 else s) s) ctx

/-- Blocks of Millpond given back. R191. -/
def freeAll (s : State) (bs : List (Nat × Nat × Nat)) : State := bs.foldl (fun (s : State) b => freeBlocks s b.1 b.2.1 b.2.2) s

/-- A slot is discarded: unmapped, its frames and blocks freed, and the DISCARD that asked for it complete. A LOAD that waits for the slot
stays. R548, R559. -/
def discardSlot (s : State) (ctx : Nat) (v : Bool) : State :=
  let x := (s.ctx ctx).ver v
  let s1 := freeAll (unmapWindow s ctx v) x.millpond
  let s2 := modVer s1 ctx v (fun _ =>
    if x.st = .retained ∧ x.load.isSome then { st := .staging, load := x.load, loading := x.loading } else {})
  match x.discard with
  | some d => finishDone s2 d ctx csOk
  | none => s2

/-- A LOAD under way stops: it completes CANCELLED, and what it took is freed. A slot that is still retained stays so. R554. -/
def stopLoad (s : State) (ctx : Nat) (v : Bool) : State :=
  let x := (s.ctx ctx).ver v
  let s1 := modVer s ctx v (fun y => { y with load := none, loading := none, dropping := false })
  let s2 := if x.st = .retained then s1 else discardSlot s1 ctx v
  match x.loading with
  | some d => finishDone s2 d ctx csCancelled
  | none => s2

/-- Bytes of the host window, unchecked by any code of this device. R495. -/
def hostBytes (s : State) (ctx off n : Nat) : List Byte := s.bytes (hostKey ((s.ctx ctx).bind.hostBase + off)) n

/-- Step 2 of R548: the manifest of a staging slot is copied. -/
def copyManifest (s : State) (ctx : Nat) (v : Bool) : State :=
  match ((s.ctx ctx).ver v).load with
  | some l => modVer s ctx v (fun y => { y with st := .staging, manifest := hostBytes s ctx l.manOff l.manBytes })
  | none => s

/-- The verified slot becomes active; the old one is retained for its pinned sequences, or discarded. R555 to R557. -/
def switchVer (s : State) (ctx : Nat) (v : Bool) : State :=
  let c := s.ctx ctx
  let had := c.hasActive
  let old := c.ver c.activeVer
  let new_ := c.ver v
  let pins := (pinnedTo s ctx c.activeVer).length
  let s1 := (modVer s ctx v (fun y => { y with st := .active, load := none, loading := none, activate := none })).modCtx ctx
    (fun c => { c with activeVer := v })
  let s2 := if !had then s1
    else if pins = 0 then discardSlot s1 ctx c.activeVer
    else modVer s1 ctx c.activeVer (fun y => { y with st := .retained })
  let s3 := postEvent s2 (some ctx) { code := 0x24, sev := 0, d0 := if had then old.version.toNat else 0, d1 := new_.version.toNat, d2 := pins }
  let s4 := match new_.loading with
    | some d => finishDone s3 d ctx csOk
    | none => s3
  match new_.activate with
  | some d => finishDone s4 d ctx csOk
  | none => s4

/-- A verified slot may become active: its LOAD did not hold it, or an ACTIVATE names it. R555. -/
def mayActivate (x : Version) : Bool := x.st == .verified && (x.loading.isSome || x.activate.isSome)

/-- What a step boundary does to the non-active slot. R548, R555, R558. -/
def settleVer (s : State) (ctx : Nat) : State :=
  let c := s.ctx ctx
  let v := c.spare
  let x := c.ver v
  if x.st = .retained ∧ (x.dropping ∨ (pinnedTo s ctx v).isEmpty) then
    let s1 := (pinnedTo s ctx v).foldl (fun (s : State) q => s.modSeqEnt q.1 (fun y => { y with pinned := none })) s
    copyManifest (discardSlot s1 ctx v) ctx v
  else if mayActivate x then switchVer s ctx v
  else s

/-! ## Cancelled sequences (R501, R510) -/

/-- The CANCELs of a context are applied. R510. -/
def applyCancels (s : State) (ctx : Nat) : State :=
  (s.ctx ctx).cancels.foldl (fun (s : State) k =>
    if (s.seqEnt k.1).held ∧ (s.seqEnt k.1).ctx = ctx ∧ !(s.seqEnt k.1).ended then finishDone (endSeq s k.1 csCancelled 0) k.2 ctx csOk
    else finishDone s k.2 ctx csNotFound) (s.modCtx ctx (fun c => { c with cancels := [] }))

/-! ## The end of a binding (R502, R503, R585) -/

/-- The rights table of a context is cleared, and its group entry if it has one. R474, R476, R479. -/
def clearRights (s : State) (ctx : Nat) : State :=
  let c := s.ctx ctx
  let s1 := endTblInval (startTblInval (s.zero (s.hdr.rightsBase + 512 * ctx) 512) ctx)
  match c.bind.group with
  | some g => endTblInval (startTblInval (s1.zero (s.hdr.groupBase + 256 * g) 256) (2 ^ 30 + g))
  | none => s1

/-- Blocks of the sluice tables and of the pool word: tile, first block, blocks. R497. -/
def homeBlocks (c : Ctx) : List (Nat × Nat × Nat) :=
  (c.homes.zipIdx).map (fun h =>
    let n := 16 * min (c.bind.sltCount - 16384 * h.2) 16384 + if h.2 = 0 then 32 else 0
    (h.1.1, h.1.2 / 4096, ceilDiv n 4096))

/-- LED_ACT lights while any context is bound. R704. -/
def refreshLed (s : State) : State := { s with pins := { s.pins with ledAct := s.ctxs.any (fun c => c.2.bound) } }

/-- A context is torn down: everything that its bind and its loads took is free again. R503. -/
def teardown (s : State) (ctx : Nat) : State :=
  let c := s.ctx ctx
  let s1 := clearRights s ctx
  let s2 := (c.grist ++ c.spillSlot.toList).foldl (fun (s : State) g => s.modGSlot g (fun x => { x with ctx := none })) s1
  let s3 := (List.range 4).foldl (fun (s : State) d => s.modWeir d ctx (fun w => { w with rateNext := some 0 })) s2
  let s4 := freeAll s3 (c.ver0.millpond ++ c.ver1.millpond ++ homeBlocks c)
  let s5 := invalCtx { s4 with memb := { s4.memb with roots := tset 0 s4.memb.roots ctx 0 } } ctx
  refreshLed (s5.modCtx ctx (fun _ => {}))

/-- Every sequence of a context is cancelled. R502, R510. -/
def cancelAll (s : State) (ctx : Nat) : State := (liveSeqs s ctx).foldl (fun (s : State) q => endSeq s q.1 csCancelled 0) s

/-- Loads of a context stop with it; one of a function reset leaves no record. R554. -/
def stopLoads (s : State) (ctx : Nat) (silent : Bool) : State :=
  if silent then s
  else [false, true].foldl (fun (s : State) v =>
    if (((s.ctx ctx).ver v).load.isSome ∨ ((s.ctx ctx).ver v).loading.isSome) ∧ ((s.ctx ctx).ver v).st ≠ .active then stopLoad s ctx v
    else s) s

/-- An ACTIVATE or a DISCARD that waits for a boundary ends with the binding. DESIGN CHOICE (log 45): CANCELLED for the first, OK for the second. -/
def endAsked (s : State) (ctx : Nat) : State :=
  [false, true].foldl (fun (s : State) v =>
    let x := (s.ctx ctx).ver v
    let s1 := match x.activate with
      | some d => finishDone s d ctx csCancelled
      | none => s
    let s2 := match x.discard with
      | some d => finishDone s1 d ctx csOk
      | none => s1
    modVer s2 ctx v (fun y => { y with activate := none, discard := none })) s

/-- The step boundary of an UNBIND: the sequences end, and the context is free once their records are written. R502, R503. -/
def settleUnbind (s : State) (ctx : Nat) (d : Option Done) : State :=
  let s0 := stopLoads (cancelAll (applyCancels s ctx) ctx) ctx d.isNone
  let s1 := if d.isNone then s0 else endAsked s0 ctx
  let s2 := if d.isNone then (heldSeqs s1 ctx).foldl (fun (s : State) q => s.modSeqEnt q.1 (fun _ => {})) s1 else s1
  if (heldSeqs s2 ctx).isEmpty then
    let s3 := teardown s2 ctx
    match d with
    | some x => finishDone s3 x ctx csOk
    | none => s3
  else s2

/-- A step boundary of a context that has no step in flight. R510, R555, R558. -/
def settle (s : State) (ctx : Nat) : State :=
  let c := s.ctx ctx
  if !c.bound ∨ c.inFlight.isSome then s
  else match c.unbinding with
    | some d => settleUnbind s ctx d
    | none => settleVer (applyCancels s ctx) ctx

end Sys2Proof.Machine
end

