-- ==== Sys2Proof/Machine/Bind.lean ====
section
/-! DEFINITION. BIND and UNBIND (12, R495 to R499, R502 to R507). -/

namespace Sys2Proof.Machine
open Sys2Proof

/-! ## The BIND record (R496) -/

def opt16? (v : Nat) : Option Nat := if v = 0xFFFF then none else some v

/-- The BIND body. R496. -/
def bindRec (bs : List Byte) : BindRec :=
  { spill2 := fieldAt bs 124 4, spill := fieldAt bs 120 4, spillVa := field64 bs 112,
    endTok := (List.range 4).map (fun i => field32 bs (96 + 4 * i)),
    vocab := fieldAt bs 92 4, detokOff := fieldAt bs 84 8,
    spillTab := if fieldAt bs 76 8 = 2 ^ 64 - 1 then none else some (fieldAt bs 76 8),
    grsSlots := fieldAt bs 75 1, weirDepth := fieldAt bs 68 4, weirRate := fieldAt bs 64 4, group := opt16? (fieldAt bs 62 2),
    sltCount := fieldAt bs 56 4, w := fieldAt bs 54 2, kvf := fieldAt bs 53 1, nKvh := fieldAt bs 52 1, nLayers := fieldAt bs 50 2,
    prefillMin := fieldAt bs 48 2, stepRows := fieldAt bs 46 2, maxSeq := fieldAt bs 44 2, maxTokens := fieldAt bs 40 4,
    kvPages := fieldAt bs 32 8, hostBytes := fieldAt bs 24 8, hostBase := fieldAt bs 16 8 }

/-- A number within a range. -/
def within (lo v hi : Nat) : Bool := decide (lo ≤ v) && decide (v ≤ hi)

/-- Every field of a BIND is well formed. R496. -/
def bindOk (s : State) (bs : List Byte) (b : BindRec) : Bool :=
  recRsvd bs && zeroAt bs 72 3 && zeroAt bs 60 2 && b.hostBase % 65536 == 0 && b.hostBytes % 65536 == 0 && within 1 b.hostBytes (2 ^ 48) &&
  decide (b.hostBase + b.hostBytes ≤ 2 ^ 64) &&
  decide (b.spill2 ≤ b.hostBytes / 65536) && within 1 b.vocab 262144 && within 0 b.grsSlots 32 && within 4096 b.weirDepth 16777215 &&
  decide (b.weirRate < 2 ^ 24) && within 16 b.sltCount 65536 && within 4 b.w 256 && b.w % 4 == 0 && within 1 b.nKvh 64 &&
  within 1 b.nLayers 1024 && decide (b.prefillMin ≤ b.stepRows) && within 1 b.stepRows 4096 && within 1 b.maxSeq 32768 &&
  within 64 b.maxTokens 1048576 && b.maxTokens % 64 == 0 && within 64 b.kvPages 16777216 &&
  (match fmtOf b.kvf with
   | some f => isKvFmt f
   | none => false) &&
  decide (b.detokOff + 16 ≤ b.hostBytes) && (b.spill == 0 || b.spillVa.toNat % 65536 == 0) &&
  (match b.spillTab with
   | some o => decide (o + 160 ≤ b.hostBytes)
   | none => true) &&
  (match b.group with
   | some g => decide (g < s.hdr.groupLimit)
   | none => true)

/-! ## The detokenisation table (R523) -/

/-- An entry of the table: offset and bytes. -/
def detokEntry (bs : List Byte) (t : Nat) : Nat × Nat := (fieldAt bs (16 + 8 * t) 4, fieldAt bs (20 + 8 * t) 2)

/-- Bytes of the table, from its first 16. R523. -/
def detokSize (hd : List Byte) : Nat := 16 + 8 * fieldAt hd 0 4 + fieldAt hd 4 4

/-- The header of a table is well formed. R523. -/
def detokHead (b : BindRec) (hd : List Byte) : Bool :=
  fieldAt hd 0 4 == b.vocab && decide (fieldAt hd 4 4 ≤ 14 * 2 ^ 20) && fieldAt hd 8 8 == 0 && decide (b.detokOff + detokSize hd ≤ b.hostBytes)

/-- Every entry stays within the pool. R497, R523. -/
def detokOk (b : BindRec) (bs : List Byte) : Bool :=
  (List.range b.vocab).all (fun t =>
    let e := detokEntry bs t
    decide (e.1 + e.2 ≤ fieldAt bs 4 4) && decide (e.2 ≤ 256) && fieldAt bs (22 + 8 * t) 2 == 0)

/-! ## What a bind takes (R497) -/

/-- The lowest `n` consecutive FREE blocks of the O bank of a logical tile. R497. -/
def fitOBank (s : State) (l n : Nat) : Option Nat :=
  findFrom (fun b => (List.range n).all (fun i => decide (b + i < 1536) && ownerOf s (s.phys l) (4096 * (b + i)) == 0)) 1280 (257 - n)

/-- Bytes in home tile `i`: its part of the sluice table, and on home tile 0 the pool word before it. R497. -/
def homeBytes (slt i : Nat) : Nat := 16 * min (slt - 16384 * i) 16384 + if i = 0 then 32 else 0

/-- Home tiles from `i` on, on distinct logical tiles, the lowest that have room: each with the offset of its sluice table. R365, R497. -/
def takeHomes (s : State) (ctx slt i l : Nat) (got : List (Nat × Nat)) (n : Nat) : Nat → Option (State × List (Nat × Nat))
  | 0 => if n = 0 then some (s, got) else none
  | fuel + 1 =>
    if n = 0 then some (s, got)
    else
      let k := ceilDiv (homeBytes slt i) 4096
      match (if shown s l then fitOBank s l k else none) with
      | some b =>
        let s1 := setOwners s (s.phys l) b (ctx + 1) k
        takeHomes s1 ctx slt (i + 1) (l + 1) (got ++ [(l, 4096 * b + if i = 0 then 32 else 0)]) (n - 1) fuel
      | none => takeHomes s ctx slt i (l + 1) got n fuel
where
  /-- The logical tile has a tile that is not OFF. -/
  shown (s : State) (l : Nat) : Bool := decide (s.phys l < 200) && tileState s l != .off

/-- Grist slots without a context, lowest first, that satisfy `p`. -/
def freeGrist (s : State) (p : GSlot → Bool) (n : Nat) (not_ : List Nat) : Option (List Nat) :=
  let gs := ((List.range 256).filter (fun i => (s.gslot i).ctx.isNone && p (s.gslot i) && i ∉ not_)).take n
  if gs.length = n then some gs else none

/-- A slot whose two entries no operation holds. -/
def GSlot.quiet (g : GSlot) : Bool := g.installs.isEmpty && g.e0.refs == 0 && g.e1.refs == 0

/-- A table installed as generation 0: while another table of that number is resident, tables of other numbers take its place first. R300, R497. -/
def GSlot.installZero (g : GSlot) (bs : List Byte) : GSlot :=
  let inst (g : GSlot) (n : Nat) : GSlot := g.install { gen := n, bytes := bs, flagCore := 0, flagAddr := 0 }
  let other (g : GSlot) : Nat := ((List.range 16).find? (fun n => n != 0 && (g.entryOf n).isNone)).getD 1
  let g1 := if (g.entryOf 0).isSome then inst g (other g) else g
  let g2 := if (g1.entryOf 0).isSome then inst g1 (other g1) else g1
  inst g2 0

/-- Rows of the step area: step table, tokens, positions, KV slot list, logits, each from a 32-byte boundary. R514, R515. -/
def stepOffs (b : BindRec) : Nat × Nat × Nat × Nat × Nat :=
  let up (n : Nat) : Nat := ceilDiv n 32 * 32
  let tok := up (64 + 32 * b.stepRows)
  let pos := tok + up (4 * b.stepRows)
  let kv := pos + up (4 * b.stepRows)
  let logit := kv + up (32 * b.nLayers * b.stepRows * b.nKvh)
  (tok, pos, kv, logit, logit + 4 * b.stepRows * b.vocab)

/-- An address at the next 2 MiB boundary past a range. -/
def nextVa (va n : Nat) : Nat := ceilDiv (va + n) 0x200000 * 0x200000

/-- The pool word and the free ring, with every page of the pool in it. R176, R177. -/
def initPool (s : State) (ctx : Nat) : State :=
  let c := s.ctx ctx
  let n := c.bind.kvPages
  let word := 2 ^ 32 * n + 2 ^ 96 * n + 2 ^ 128 * c.pageBytes + 2 ^ 160 * n + 2 ^ 192 * c.ringAddr
  let s1 := writeWord s (poolPlace s ctx 0) (BitVec.ofNat 256 word, 0)
  s1.setBytes c.ringAddr ((List.range n).flatMap (fun i => natToBytes (c.poolVa + i * c.pageBytes + 1) 8))

/-- The tier-1 spill region is mapped; the device and the address behind it are not in the record: free values. A region named by global
address needs no map. R496. -/
def mapSpill (b : Bld) (core root : Nat) (r : BindRec) : Bld :=
  if r.spill = 0 ∨ 2 ^ 63 ≤ r.spillVa.toNat then b
  else
    let (s1, i) := b.s.takeFree
    let dev := (Config.freeWord i).toNat % 2 ^ 14
    let off := (Config.freeWord i).toNat / 2 ^ 14 % 2 ^ 27
    ({ b with s := s1 } : Bld).map core root r.spillVa.toNat (gAddr dev (off * 2 ^ 21)).toNat (65536 * r.spill) 1 false true

/-- The spill region does not cover what the bind itself places. R495, R532, R533. -/
def spillApart (r : BindRec) (placed : Nat) : Bool :=
  r.spill == 0 || decide (2 ^ 63 ≤ r.spillVa.toNat) ||
  (decide (placed ≤ r.spillVa.toNat) && decide (r.spillVa.toNat + 65536 * r.spill ≤ 0x1000000000000)) ||
  (decide (0x1000000000000 + r.hostBytes ≤ r.spillVa.toNat) && decide (r.spillVa.toNat + 65536 * r.spill ≤ 2 ^ 49))

/-- The context as steps 3 and 4 leave it, with the frames and blocks taken; none where something is short. R497. -/
def reserve (s : State) (ctx fn ring core : Nat) (b : BindRec) (hd : List Byte) : Option State :=
  let c0 : Ctx := { bound := true, fn := fn, ring := ring, bind := b, core := core }
  let ptBytes := b.maxSeq * 8 * c0.rowEntries * c0.rows
  let (_, _, _, _, stepBytes) := stepOffs b
  let poolBytes := b.kvPages * c0.pageBytes
  let ptVa := 0x800000000000
  let stepVa := nextVa ptVa ptBytes
  let poolVa := nextVa stepVa stepBytes
  let (b1, root) := ({ s := s } : Bld).takeZero 0x20000
  let (b2, pt) := b1.takeZero ptBytes
  let (b3, step) := b2.takeZero stepBytes
  let (b4, pool) := b3.take poolBytes
  let (b5, ring_) := b4.takeZero (8 * ringSize b.kvPages)
  let (b6, detok) := b5.takeZero (detokSize hd)
  if !b6.ok then none
  else
    let b7 := b6.map core root ptVa pt ptBytes 0 false false
    let b8 := b7.map core root stepVa step stepBytes 0 false true
    let b9 := b8.map core root poolVa pool poolBytes 0 false true
    let b10 := mapSpill (b9.map core root 0x1000000000000 b.hostBase b.hostBytes 2 false true) core root b
    if !b10.ok ∨ !spillApart b (poolVa + poolBytes) then none
    else match takeHomes b10.s ctx b.sltCount 0 0 [] (ceilDiv b.sltCount 16384) 192 with
    | none => none
    | some (s1, homes) =>
      match freeGrist s1 (fun _ => true) b.grsSlots [] with
      | none => none
      | some gs =>
        match (if b.spillTab.isSome then freeGrist s1 GSlot.quiet 1 gs else some []) with
        | none => none
        | some sp =>
          let s2 := { s1 with memb := { s1.memb with roots := tset 0 s1.memb.roots ctx (root + 1) } }
          let s3 := (gs ++ sp).foldl (fun (s : State) g => s.modGSlot g (fun x => { x with ctx := some ctx })) s2
          some (s3.modCtx ctx (fun _ => { c0 with
            homes := homes, poolTile := (homes.headD (0, 0)).1, poolOff := (homes.headD (0, 0)).2 - 32, ringAddr := ring_, ptArea := pt,
            stepArea := step, detok := detok, ptVa := ptVa, stepVa := stepVa, poolVa := poolVa, frames := b10.frames,
            grist := gs, spillSlot := sp.head? }))

/-- The group entry and the rights table of a new context: VALID and LOCAL_CTX as the bind gives them. What else they hold, the record
does not give: free bytes. R474, R476, R497. -/
def writeRights (s : State) (ctx : Nat) (group : Option Nat) : State :=
  match group with
  | none => endTblInval (startTblInval (s.zero (s.hdr.rightsBase + 512 * ctx) 512) ctx)
  | some g =>
    let (s1, es) := freeBytes s 256
    let (s2, rs) := freeBytes s1 512
    let entry := [1, 0, 0, 0, 0, 0] ++ (es.drop 6).take 2 ++ natToBytes ctx 2 ++ es.drop 10
    let s3 := (s2.zero (s.hdr.groupBase + 256 * g) 256).setBytes (s.hdr.groupBase + 256 * g) entry
    let s4 := (s3.zero (s.hdr.rightsBase + 512 * ctx) 512).setBytes (s.hdr.rightsBase + 512 * ctx) rs
    endTblInval (startTblInval (endTblInval (startTblInval s4 (2 ^ 30 + g))) ctx)

/-- Steps 5 to 7. R497. -/
def setUp (s : State) (ctx : Nat) (tab : List Byte) : State :=
  let c := s.ctx ctx
  let b := c.bind
  let s1 := initPool s ctx
  let s2 := (List.range 4).foldl (fun (s : State) d =>
    s.modWeir d ctx (fun w => { w with rateNext := some b.weirRate, depthNext := some b.weirDepth })) s1
  let s3 := s2.setBytes c.detok tab
  let s4 := match c.spillSlot, b.spillTab with
    | some g, some o => s3.modGSlot g (fun x => x.installZero (hostBytes s3 ctx o 160))
    | _, _ => s3
  refreshLed (writeRights s4 ctx b.group)

/-- The core that plans the fewest contexts, of those that run. R491. -/
def fewestCore (s : State) : Option Nat :=
  let load (c : Nat) : Nat := (s.ctxs.filter (fun x => x.2.bound && x.2.core == c)).length
  let cs := (List.range 16).filter (coreRuns s)
  cs.find? (fun c => cs.all (fun d => decide (load c ≤ load d)))

/-- The lowest free context number. R497. -/
def freeCtx (s : State) : Option Nat := findFrom (fun c => !(s.ctx c).bound) 0 4096

/-- A group number already VALID on the device. R482. -/
def groupTaken (s : State) (b : BindRec) : State × Bool :=
  match b.group with
  | some g =>
    if g < s.hdr.groupLimit then
      let (s1, bs) := peekWords s (s.hdr.groupBase + 256 * g) 1
      (s1, fieldAt bs 0 1 % 2 == 1)
    else (s, false)
  | none => (s, false)

/-- A drained update is under way, or the maker holds the whole of BAR4: every BIND completes with BUSY. R683, R565. -/
def bindsBusy (s : State) : Bool := s.boot.drainUpd || s.hif.bar4En

/-- A BIND is taken. R482, R496, R497, R504 to R506. -/
def bindTaken (s : State) (ring : Nat) (bs : List Byte) : State :=
  let b := bindRec bs
  let fn := (s.ring ring).func
  if bindsBusy s then refuseRec s ring bs 0 csBusy
  else match freeCtx s with
  | none => if (s.ring ring).waitFull then s.modRing ring (fun g => { g with held := true }) else refuseRec s ring bs 0 csCtxFull
  | some ctx => match groupTaken s b with
    | (s, true) => refuseRec s ring bs 0 csGroupInUse
    | (s, false) =>
      let win (o n : Nat) : List Byte := s.bytes (hostKey (b.hostBase + o)) n
      let hd := win b.detokOff 16
      let tab := win b.detokOff (detokSize hd)
      let spillOk : Bool := match b.spillTab with
        | some o => recordOk (win o 160) && fieldAt (win o 160) 128 1 % 8 == 3
        | none => true
      if !bindOk s bs b || !detokHead b hd || !detokOk b tab || !spillOk then refuseRec s ring bs 0 csInvalid
      else match fewestCore s with
      | none => s
      | some core => match reserve s ctx fn ring core b hd with
        | none => refuseRec s ring bs 0 csNoResource
        | some s1 =>
          fwDo s core (fun _ => finishDone (consume (setUp s1 ctx tab) ring) (recDone bs ring) ctx csOk)

/-- R495 to R498. -/
def execBind (ring : Nat) (s : State) : Host.Outcome State Fault Refusal :=
  .next (match subOf s ring 0x01 with
    | some bs => bindTaken s ring bs
    | none => s)

/-! ## UNBIND (R502, R503) -/

/-- A LOAD of the context is under way. R554. -/
def loadUnderWay (c : Ctx) : Bool := c.ver0.loading.isSome || c.ver1.loading.isSome

/-- R502, R503, R554. -/
def execUnbind (ring : Nat) (s : State) : Host.Outcome State Fault Refusal :=
  .next (match subOf s ring 0x02 with
    | none => s
    | some bs =>
      let ctx := recCtx bs
      let force := (fieldAt bs 16 1).testBit 0
      if !recBound s ring bs then refuseRec s ring bs ctx csNotBound
      else if !recRsvd bs ∨ 2 ≤ fieldAt bs 16 1 ∨ !zeroAt bs 17 111 then refuseRec s ring bs ctx csInvalid
      else if !force ∧ (!(heldSeqs s ctx).isEmpty ∨ loadUnderWay (s.ctx ctx)) then refuseRec s ring bs ctx csBusy
      else
        let core := (s.ctx ctx).core
        fwDo s core (fun s =>
          let s1 := (consume s ring).modCtx ctx (fun c => { c with unbinding := some (some (recDone bs ring)) })
          let s2 := if force then stopLoads s1 ctx false else s1
          settle s2 ctx))

end Sys2Proof.Machine
end

