-- ==== Sys2Proof/Machine/Admit.lean ====
section
/-! DEFINITION. ADMIT and CANCEL, records that wait for a table entry, undefined kinds, and completion records that wait for room (12,
R493, R494, R500, R501, R504 to R510, R528). -/

namespace Sys2Proof.Machine
open Sys2Proof

/-! ## ADMIT (R500, R504 to R509) -/

/-- The stop list. R500. -/
def stopLens (s : State) (base n : Nat) : List Nat := (List.range n).map (fun i => s.num (base + 68 * i) 4)

def stopList (s : State) (base n : Nat) : List (List W32) :=
  (List.range n).map (fun i =>
    (List.range (s.num (base + 68 * i) 4)).map (fun j => BitVec.ofNat 32 (s.num (base + 68 * i + 4 + 4 * j) 4)))

def nStop (bs : List Byte) : Nat := fieldAt bs 80 1

/-- The ADMIT body, its stop list copied. R500, R509. -/
def admitRec (s : State) (hostBase : Nat) (bs : List Byte) (cpl : Nat) : AdmitRec :=
  { stops := stopList s (hostKey (hostBase + fieldAt bs 72 8)) (nStop bs), seed := field64 bs 64, repWin := fieldAt bs 62 2,
    topK := fieldAt bs 60 2, repPen := field32 bs 56, topP := field32 bs 52, temp := field32 bs 48, flush := fieldAt bs 47 1,
    includeStop := (fieldAt bs 46 1).testBit 1, pin := (fieldAt bs 46 1).testBit 0, cplRing := cpl, outBytes := fieldAt bs 40 4,
    outOff := fieldAt bs 32 8, promptOff := fieldAt bs 24 8, maxNew := fieldAt bs 20 4, promptLen := fieldAt bs 16 4 }

/-- Bytes of the host window below the tier-2 spill region. R183, R508. -/
def hostLimit (b : BindRec) : Nat := b.hostBytes - 65536 * b.spill2

/-- The checks of R508 and of the field ranges of R500. -/
def admitOk (s : State) (b : BindRec) (bs : List Byte) : Bool :=
  let temp := f32 (field32 bs 48)
  let topP := f32 (field32 bs 52)
  let pen := f32 (field32 bs 56)
  let n := nStop bs
  let stopOff := fieldAt bs 72 8
  recRsvd bs && zeroAt bs 81 47 && decide (fieldAt bs 46 1 < 4) && decide (n ≤ 8) && decide (fieldAt bs 60 2 ≤ 1024) &&
  decide (fieldAt bs 62 2 ≤ 1024) && decide (1 ≤ fieldAt bs 20 4) && fieldAt bs 24 8 % 4 == 0 &&
  within 1 (fieldAt bs 16 4) (b.maxTokens - 1) && within 1 (fieldAt bs 47 1) 8 &&
  !temp.isNan && !topP.isNan && !pen.isNan && !temp.lt (.zero false) && (FV.zero false).lt pen &&
  decide (fieldAt bs 24 8 + 4 * fieldAt bs 16 4 ≤ hostLimit b) && decide (fieldAt bs 32 8 + fieldAt bs 40 4 ≤ hostLimit b) &&
  (n == 0 || decide (stopOff + 68 * n ≤ hostLimit b)) &&
  (stopLens s (hostKey (b.hostBase + stopOff)) n).all (fun l => within 1 l 16)

/-- The COMPLETE ring that an ADMIT names: a local index of the function. R500, R568. -/
def cplRingOf (s : State) (fn : Nat) (bs : List Byte) : Option Nat :=
  match globalRing s fn (fieldAt bs 44 2) with
  | some r => if (s.ring r).kind = .complete then some r else none
  | none => none

/-- An ADMIT refused with a DONE record: on the ring that it names, or else on the function's own. -/
def refuseAdmit (s : State) (ring : Nat) (bs : List Byte) (status detail : Nat) : State :=
  let fn := (s.ring ring).func
  let s1 := consume s ring
  match (match cplRingOf s fn bs with
    | some r => some r
    | none => doneRing s fn) with
  | some r => writeRec s1 r { kind := 1, status := status, detail := detail, reqId := recReq bs, ctx := recCtx bs } (some ring) none
  | none => s1

/-- The lowest free device sequence number, and the lowest free sequence slot of a context. R504, R509. -/
def freeSeq (s : State) : Option Nat := findFrom (fun q => !(s.seqEnt q).held) 0 32768
def freeSeqSlot (s : State) (ctx : Nat) : Option Nat :=
  findFrom (fun n => !(heldSeqs s ctx).any (fun x => x.2.slot == n)) 0 (s.ctx ctx).bind.maxSeq

/-- A record that finds its table full waits at the head of its ring, or completes. R504, R506. -/
def seqFull (s : State) (ring : Nat) (bs : List Byte) (detail : Nat) : State :=
  if (s.ring ring).waitFull then s.modRing ring (fun g => { g with held := true }) else refuseAdmit s ring bs csSeqFull detail

/-- An ADMIT is taken. R504 to R509, R557. -/
def admitTaken (s : State) (ring : Nat) (bs : List Byte) : State :=
  let ctx := recCtx bs
  let c := s.ctx ctx
  if !recBound s ring bs then refuseAdmit s ring bs csNotBound 0
  else if !c.hasActive then refuseAdmit s ring bs csNoWeights 0
  else match cplRingOf s (s.ring ring).func bs with
  | none => refuseAdmit s ring bs csInvalid 0
  | some r =>
    if !admitOk s c.bind bs then refuseAdmit s ring bs csInvalid 0
    else match freeSeq s, freeSeqSlot s ctx with
    | none, _ => seqFull s ring bs 0
    | some _, none => seqFull s ring bs 1
    | some q, some slot =>
      let a := admitRec s c.bind.hostBase bs r
      let s1 := { (consume s ring) with seqOrder := s.seqOrder + 1 }
      let s2 := s1.modSeqEnt q (fun _ => { held := true, ctx := ctx, slot := slot, reqId := recReq bs, order := s.seqOrder, adm := a,
                                           pinned := if a.pin then some c.activeVer else none })
      writeRec s2 r { kind := 2, reqId := recReq bs, ctx := ctx, seq := q } (some ring) none

/-- R500, R504 to R509. -/
def execOpAdmit (ring : Nat) (s : State) : Host.Outcome State Fault Refusal :=
  .next (match subOf s ring 0x03 with
    | some bs => admitTaken s ring bs
    | none => s)

/-- A record that waits under R506 is taken again. -/
def execHeldRecordRetake (ring : Nat) (s : State) : Host.Outcome State Fault Refusal :=
  .next (match subRecord s ring with
    | none => s
    | some bs =>
      if !(s.ring ring).held then s
      else
        let s1 := s.modRing ring (fun g => { g with held := false })
        if fieldAt bs 8 1 = 0x01 then bindTaken s1 ring bs
        else if fieldAt bs 8 1 = 0x03 then admitTaken s1 ring bs
        else s1)

/-! ## CANCEL (R501, R510) -/

/-- R501, R510: at the next step boundary, or at once for a paused sequence or a context with no step in flight. -/
def execCancel (ring : Nat) (s : State) : Host.Outcome State Fault Refusal :=
  .next (match subOf s ring 0x04 with
    | none => s
    | some bs =>
      let ctx := recCtx bs
      let q := fieldAt bs 16 2
      let x := s.seqEnt q
      if !recBound s ring bs then refuseRec s ring bs ctx csNotBound
      else if !recRsvd bs ∨ !zeroAt bs 18 110 then refuseRec s ring bs ctx csInvalid
      else if 32768 ≤ q ∨ !x.held ∨ x.ended ∨ x.ctx ≠ ctx ∨ x.reqId ≠ recReq bs then refuseRec s ring bs ctx csNotFound
      else
        let s1 := consume s ring
        fwDo s (s.ctx ctx).core (fun _ =>
          if x.paused then settle (finishDone (endSeq s1 q csCancelled 0) (recDone bs ring) ctx csOk) ctx
          else settle (s1.modCtx ctx (fun c => { c with cancels := c.cancels ++ [(q, recDone bs ring)] })) ctx))

/-! ## Undefined kinds (R494) -/

/-- The kinds that R494 and R541 define. -/
def kindDefined (k : Nat) : Bool := within 0x01 k 0x04 || within 0x10 k 0x12

/-- R494: a record of an undefined KIND completes with OPERAND_INVALID. -/
def execSubmissionUndefinedKind (ring : Nat) (s : State) : Host.Outcome State Fault Refusal :=
  .next (match subRecord s ring with
    | none => s
    | some bs => if kindDefined (fieldAt bs 8 1) then s else refuseRec s ring bs (recCtx bs) csInvalid)

/-! ## Records that wait for room (R528) -/

/-- R528: the oldest record that waits is written, and what it held goes on. -/
def execCompletionRecordRetry (ring : Nat) (s : State) : Host.Outcome State Fault Refusal :=
  .next (match (s.ring ring).waiting with
    | [] => s
    | w :: ws =>
      if (s.ring ring).kind = .complete ∧ (s.ring ring).room then
        let s1 := (pushCpl s ring w.bytes).modRing ring (fun g => { g with waiting := ws })
        match w.seq with
        | some q => settle (releaseSeq s1 q) (s.seqEnt q).ctx
        | none => s1
      else s)

end Sys2Proof.Machine
end

