-- ==== Sys2Proof/Machine/Resets.lean ====
section
/-! DEFINITION. The PCIe link and the resets of functions (14, R560, R566, R567, R585, R586; 16, R630; 18, R679). -/

namespace Sys2Proof.Machine
open Sys2Proof

/-! ## Function resets (R585, R586) -/

/-- Every context bound through a function is unbound without a record, at the end of its step in flight: then its sequences end and
their pages go back. R181, R502, R585. -/
def unbindFn (s : State) (f : Nat) : State :=
  (s.ctxs.filter (fun c => c.2.bound && c.2.fn == f)).foldl (fun (s : State) c =>
    settle (s.modCtx c.1 (fun k => { k with unbinding := some none, cancels := [] })) c.1) s

/-- A ring is OFF, and nothing waits to be written to it. R585. -/
def Ring.off (r : Ring) : Ring := { r with st := .off, en := false, enPend := false, waiting := [], held := false }

/-- Every ring of a function's range is OFF. R585. -/
def ringsOff (s : State) (f : Nat) : State :=
  let n := s.fn f
  (s.hif.rings.map (fun r => r.1)).foldl (fun (s : State) r =>
    if n.ringsBase ≤ r ∧ r < n.ringsBase + n.ringsCount then s.modRing r Ring.off else s) s

/-- A function-level reset. R585. -/
def resetFn (s : State) (f : Nat) : State :=
  (ringsOff (unbindFn s f) f).modFn f (fun n => { n with evtValid := false, evtMirror := false, evtRing := 0 })

/-- R585. -/
def execVfFlr (v : Nat) (s : State) : Host.Outcome State Fault Refusal :=
  .next (if 1 ≤ v ∧ v < 256 then resetFn s v else s)

/-- Ring ranges and MSI-X assignments at their reset values: all 2,048 message slots back function 0. R566, R567. -/
def resetRanges (s : State) : State :=
  ((s.hif.fns.map (fun f => f.1)).foldl (fun (s : State) f => s.modFn f (fun n =>
    { n with ringsBase := 0, ringsCount := 0, vecBase := 0, vecCount := 0 })) s).modFn 0 (fun n => { n with vecCount := 2048 })

/-- R585 for every function, and the assignments. R586. -/
def resetAllFns (s : State) : State := resetRanges ((List.range 256).foldl resetFn s)

/-- R586. -/
def execPfFlr (s : State) : Host.Outcome State Fault Refusal := .next (resetAllFns s)

/-- R586, R630. -/
def execHotReset (s : State) : Host.Outcome State Fault Refusal := .next (resetGroup (resetAllFns s) xPcie)

/-! ## The link (R560, R679) -/

/-- R586, R630: the link is down, and HIF_LINK shows none. -/
def execPcieLinkDown (s : State) : Host.Outcome State Fault Refusal :=
  let s1 := resetGroup (resetAllFns s) xPcie
  .next { s1 with hif := { s1.hif with speed := 0, width := 0, flit := false } }

/-- R560: widths 1, 4, 8 and 16, rates 1 to 6, and FLIT mode at 64 GT/s. -/
def execPcieLinkUp (width speed : Nat) (s : State) : Host.Outcome State Fault Refusal :=
  .next (if (width = 1 ∨ width = 4 ∨ width = 8 ∨ width = 16) ∧ 1 ≤ speed ∧ speed ≤ 6 then
      { s with hif := { s.hif with speed := speed, width := width, flit := speed == 6 } }
    else s)

/-- R679: with PWR_GOOD high the function answers configuration requests from now on. -/
def execPerstNRelease (s : State) : Host.Outcome State Fault Refusal :=
  .next (if s.boot.pwrGood then { s with hif := { s.hif with config := true } } else s)

end Sys2Proof.Machine
end

