-- ==== Sys2Proof/Machine/Spill.lean ====
section
/-! DEFINITION. Spilled KV pages (04, R182 to R184; 09, R405 to R413): the copies of a paused sequence are written by the firmware's encode
streams, and read back by its decode streams when it resumes. -/

namespace Sys2Proof.Machine
open Sys2Proof

/-! ## The streams of a spill (R339, R341, R405) -/

/-- A stream slot of the firmware of a context's core that is free. R276, R339. -/
def fwStream (s : State) (ctx : Nat) : Option Nat :=
  let core := (s.ctx ctx).core
  (List.range (s.mrc (core / 4)).fwSlots).findSome? (fun i =>
    match slotOf s (.miller core) i with
    | some k => if (s.slot k).st = .free then some k else none
    | none => none)

/-- The slot that a spill or a restore runs in: there is one, with a codec lane where the copies are coded, and the context's Weir lets
its transfers issue. R196, R381, R405. -/
def copySlot (s : State) (ctx : Nat) : Option Nat :=
  match fwStream s ctx with
  | none => none
  | some k =>
    if weirOk s (k / 256) ctx && ((s.ctx ctx).spillSlot.isNone || (freeLane s k {}).isSome) then some k else none

/-! ## Copies (R405, R406) -/

/-- The words of a page from its context-virtual address, each with whether it holds good data. -/
def pageWords (s : State) (ctx va : Nat) : Nat → State × List (BitVec 256 × Bool)
  | 0 => (s, [])
  | n + 1 =>
    match ctxAddr s ctx va permRead 32 false with
    | (s1, .here pl) =>
      let (s2, d, st) := readWord s1 pl
      let (s3, ws) := pageWords s2 ctx (va + 32) n
      (s3, (d, st == .ok) :: ws)
    | (s1, _) =>
      let (s2, ws) := pageWords (serviceFault s1 (s.ctx ctx).core) ctx (va + 32) n
      (s2, (0, false) :: ws)

/-- A block place or the headers of a copy: the bytes to write, and their words. -/
structure CopyBlk where
  bytes : Nat
  words : List Word288
deriving DecidableEq, Repr

/-- Bytes as words with fresh check bits, the last filled with zeros. -/
def blkOf (bs : List Byte) : CopyBlk :=
  { bytes := bs.length, words := (toWords (bs ++ natToBytes 0 (32 * ceilDiv bs.length 32 - bs.length))).map (fun w => (w, 0)) }

/-- One block of a page coded: its place up to CLEN, and its block header. Coded with the spill table where the bind names one.
R387, R396, R402, R403, R405, R406. -/
def codeCopy (s : State) (ctx : Nat) (ws : List (BitVec 256 × Bool)) : State × CopyBlk × Nat :=
  let raw := ws.flatMap (fun w => natToBytes w.1.toNat 32) ++ natToBytes 0 (4096 - 32 * ws.length)
  let bad := ws.any (fun w => !w.2)
  let plain : CopyBlk := { bytes := 4096, words := (toWords raw).zipIdx.map (fun w =>
    (w.1, if (nth ((0 : BitVec 256), true) ws w.2).2 then (0 : W32) else kMark)) }
  let die := (s.ctx ctx).core / 4
  match (s.ctx ctx).spillSlot with
  | none => (s, plain, (if bad then 1 else 0) + 256 * kindFmt 3)
  | some slot =>
    let g := (s.gslot slot).entry (((s.gslot slot).entryOf 0).getD false)
    if bad then (s.modGrs die (fun g => { g with encBlocks := satAdd 64 g.encBlocks 1 }), plain, 1 + 256 * kindFmt 3)
    else match encodeBlock g slot false true raw with
      | (bs, none) => (countEnc s die none, blkOf bs, 2 + 256 * kindFmt 3)
      | (_, some e) => (countEnc s die (some e), plain, 256 * kindFmt 3)

/-- The blocks of a page's copy, each one transfer of its stream: the block places, and the headers. R341, R381, R405. -/
def codeBlocks (s : State) (ctx : Nat) (ws : List (BitVec 256 × Bool)) : Nat → State × List CopyBlk × List Byte
  | 0 => (s, [], [])
  | n + 1 =>
    let s0 := weirCharge s ((s.ctx ctx).core / 4) ctx (32 * min ws.length 128)
    let (s1, bl, h) := codeCopy s0 ctx (ws.take 128)
    let (s2, bls, hs) := codeBlocks s1 ctx (ws.drop 128) n
    (s2, bl :: bls, natToBytes h 8 ++ hs)

/-- Host or context-virtual address of a block of a spill region. R183. -/
def spillAddr (c : Ctx) (tier2 : Bool) (block : Nat) : Nat :=
  if tier2 then c.bind.hostBase + hostLimit c.bind + 4096 * block else c.bind.spillVa.toNat + 4096 * block

/-- `n` bytes of words written from a place on: whole words with their check bits, the rest as a part of a word. R314. -/
def putWords (s : State) (core : Nat) (pl : Place) (n : Nat) : List Word288 → State
  | [] => s
  | w :: ws =>
    if n = 0 then s
    else if n < 32 then
      (match writeMask s pl (byteMask 0 n) w.1 with
       | (s1, .none) => s1
       | (s1, _) => serviceFault s1 core)
    else putWords (writeWord s pl w) core (pl.plus 32) (n - 32) ws

/-- A block of a copy is written; one of another device is sent as a WRITE, and a part of a word as a STORE. R182, R183, R464. -/
def putBlock (s : State) (q : Nat) (tier2 : Bool) (block : Nat) (b : CopyBlk) : State :=
  let x := s.seqEnt q
  let core := (s.ctx x.ctx).core
  let a := spillAddr (s.ctx x.ctx) tier2 block
  let whole := b.bytes / 32
  if tier2 then putWords s core (.host a) b.bytes b.words
  else match ctxAddr s x.ctx a permWrite (32 * b.words.length) false with
    | (s1, .here pl) => putWords s1 core pl b.bytes b.words
    | (s1, .remote dev g off) =>
      let s2 := if whole = 0 then s1 else sendReq s1 dev g 3 0x04 (whole - 1) (gAddr dev off) 0 (b.words.take whole) (.spillWrite q)
      if b.bytes % 32 = 0 then s2
      else sendReq s2 dev g 3 0x02 0 (gAddr dev (off + 32 * whole)) (BitVec.ofNat 64 (2 ^ (b.bytes % 32) - 1)) (b.words.drop whole)
        (.spillWrite q)
    | (s1, .flt _) => serviceFault s1 core

/-- POISON_CONSUMED where a marked word of a copy has left for host memory, once for a page's stream. R717. -/
def copyPoison (s : State) (ctx k : Nat) (bls : List (CopyBlk × Nat)) : State :=
  match bls.findSome? (fun b => (findFrom (fun i => (nth ((0, 0) : Word288) b.1.words i).2 == kMark) 0 b.1.words.length).map (fun i => b.2 + 32 * i)) with
  | none => s
  | some a => postEvent s (some ctx) { code := 1, sev := 1, srcKind := 3, srcDie := k / 256, srcIndex := k % 256, addr := a, d0 := 0xFFFFFFFF }

/-- The copy of one page. R405. -/
def putCopy (s : State) (q k : Nat) (sp : Spill) (first va : Nat) : State :=
  let x := s.seqEnt q
  let c := s.ctx x.ctx
  let (s1, ws) := pageWords s x.ctx va (c.pageBytes / 32)
  let (s2, bls, hs) := codeBlocks s1 x.ctx ws (c.copyBlocks - 1)
  let placed := (blkOf hs :: bls).zipIdx
  let s3 := placed.foldl (fun (s : State) b => putBlock s q sp.tier2 (first + b.2) b.1) s2
  if sp.tier2 then copyPoison s3 x.ctx k (placed.map (fun b => (b.1, spillAddr c true (first + b.2)))) else s3

/-- Page table entry of a page place, as the core reads it. R180, R499. -/
def ptGet (s : State) (q : Nat) (p : Nat × Nat) : State × Nat :=
  let x := s.seqEnt q
  svRead s (s.ctx x.ctx).core (.hbm ((s.ctx x.ctx).ptEntry x.slot p.1 p.2)) 8

/-- Page places of a sequence. -/
def seqPlaces (s : State) (q : Nat) : List (Nat × Nat) := pagePlaces (s.ctx (s.seqEnt q).ctx).rows 0 (s.seqEnt q).pages

/-- Step 4 of R182: every page's copy is written. -/
def spillCopies (s : State) (q k : Nat) (sp : Spill) : State :=
  ((seqPlaces s q).zip sp.blocks).foldl (fun (s : State) p => match ptGet s q p.1 with
    | (s1, e) => putCopy s1 q k sp p.2 (e / 32 * 32)) (s.modSeqEnt q (fun y => { y with refused := false }))

/-- Step 5 of R182: the entries name the copies, and the pages go back to the pool. -/
def spillEntries (s : State) (q : Nat) (sp : Spill) : State :=
  let x := s.seqEnt q
  let c := s.ctx x.ctx
  let s1 := ((seqPlaces s q).zip sp.blocks).foldl (fun (s : State) p =>
    let (s1, e) := ptGet s q p.1
    let copy := if sp.tier2 then 0x1000000000000 + hostLimit c.bind + 4096 * p.2 else c.bind.spillVa.toNat + 4096 * p.2
    svPut (poolFree s1 x.ctx (e / 32 * 32 + 1)) c.core (.hbm (c.ptEntry x.slot p.1.1 p.1.2)) 8 (copy + 3)) s
  s1.modSeqEnt q (fun y => { y with pausing := false })

/-- A write of a copy is not yet acknowledged. -/
def spillWriting (s : State) (q : Nat) : Bool := s.hdr.outst.any (fun o => o.who == .spillWrite q)
def spillReading (s : State) (q : Nat) : Bool :=
  s.hdr.outst.any (fun o => match o.who with
    | .spillRead k _ => k == q
    | _ => false)

/-- The pages are freed once every write of their copies is acknowledged. R182. -/
def spillRest (s : State) (q : Nat) (sp : Spill) : State := if spillWriting s q then s else spillEntries s q sp

/-- Steps 4 and 5 of R182 for a sequence that is being paused; copies of which a write was refused are written anew. -/
def spillSeq (s : State) (q : Nat) : State :=
  let x := s.seqEnt q
  match x.spilled, copySlot s x.ctx with
  | some sp, some k =>
    if !x.refused then spillRest s q sp
    else if spillWriting s q then s
    else let s1 := spillCopies s q k sp; spillRest s1 q sp
  | some sp, none => if x.refused then s else spillRest s q sp
  | none, some k =>
    (match spillPlaces (s.ctx x.ctx) ((s.ctx x.ctx).rows * x.pages) with
     | none => s.modSeqEnt q (fun y => { y with pausing := false })
     | some sp =>
       let s1 := (s.modCtx x.ctx (fun c => c.useSpill sp)).modSeqEnt q (fun y => { y with spilled := some sp })
       let s2 := spillCopies s1 q k sp
       spillRest s2 q sp)
  | none, none => s

/-- R182, R183, R405, R406. -/
def execSequenceSpill (ctx seq : Nat) (s : State) : Host.Outcome State Fault Refusal :=
  let x := s.seqEnt seq
  .next (if x.held ∧ x.ctx = ctx ∧ x.pausing ∧ (s.ctx ctx).inFlight.isNone ∧ coreRuns s (s.ctx ctx).core then
      fwDo s (s.ctx ctx).core (fun s => spillSeq s seq)
    else s)

/-! ## Reading copies (R184, R387, R407) -/

/-- Word `i` of the copies read, and whether it holds good data. -/
def staged (x : SeqEnt) (i : Nat) : BitVec 256 × Bool := (tget 0 x.staging i, i ∉ x.badWords)

/-- `n` words of the copies from word `i` on have been read. -/
def gotWords (x : SeqEnt) (i n : Nat) : Bool := x.got.any (fun r => decide (r.1 ≤ i) && decide (i + n ≤ r.1 + r.2))

/-- Checks 1 and 2 of R409 on the codec header of a copy, whose one declared slot is the spill table's: the words of the place beyond the
header word. -/
def copyRest (s : State) (ctx : Nat) (h : CodecHdr) : Option Nat :=
  match (s.gslot h.slot).entryOf h.gen with
  | some e =>
    if h.wellFormed && some h.slot == (s.ctx ctx).spillSlot && ((s.gslot h.slot).entry e).kind == h.kind then some (ceilDiv h.clen 32 - 1) else none
  | none => none

/-- The block header of block `b` of the copy whose first word is word `w`, and whether its word is good. -/
def copyHdr (x : SeqEnt) (w b : Nat) : Nat × Bool :=
  let hd := staged x (w + 8 * b / 32)
  (bitsOf hd.1.toNat (8 * (8 * b % 32)) 64, hd.2)

/-- What is still to be read of a block: its block header; of a coded block its codec header word, then the rest up to CLEN; of another,
all of it. R387, R407. -/
def blockNeeds (s : State) (x : SeqEnt) (w b : Nat) : List (Nat × Nat) :=
  let hi := w + 8 * b / 32
  let base := w + 128 * (b + 1)
  if !gotWords x hi 1 then [(hi, 1)]
  else if !(copyHdr x w b).1.testBit 1 then (if gotWords x base 128 then [] else [(base, 128)])
  else if !gotWords x base 1 then [(base, 1)]
  else
    let cw := staged x base
    let rest := if cw.2 then (copyRest s x.ctx (codecHdr (natToBytes cw.1.toNat 32))).getD 0 else 0
    if rest = 0 || gotWords x (base + 1) rest then [] else [(base + 1, rest)]

/-- What is still to be read of the copies of a sequence. -/
def copyNeeds (s : State) (q : Nat) (sp : Spill) : List (Nat × Nat) :=
  let x := s.seqEnt q
  let n := (s.ctx x.ctx).copyBlocks
  ((List.range sp.blocks.length).flatMap (fun p => (List.range (n - 1)).flatMap (fun b => blockNeeds s x (128 * n * p) b))).eraseDups

/-- Words of one block of a copy are read: of the host and of this device at once, of another device by a READ. R184, R407, R727. -/
def readCopy (s : State) (q : Nat) (sp : Spill) (r : Nat × Nat) : State :=
  let x := s.seqEnt q
  let c := s.ctx x.ctx
  let a := spillAddr c sp.tier2 (nth 0 sp.blocks (r.1 / (128 * c.copyBlocks)) + r.1 / 128 % c.copyBlocks) + 32 * (r.1 % 128)
  let keep (s : State) (pl : Place) : State :=
    let (s1, ws) := readRaw s pl r.2
    s1.modSeqEnt q (fun y => { y with
      staging := tsetList 0 y.staging r.1 (ws.map (fun w => w.1))
      got := y.got ++ [r]
      badWords := y.badWords ++ ((ws.zipIdx.filter (fun w => w.1.2)).map (fun w => r.1 + w.2)) })
  if spillReading s q && s.hdr.outst.any (fun o => o.who == .spillRead q r.1) then s
  else if sp.tier2 then keep s (.host a)
  else match ctxAddr s x.ctx a permRead (32 * r.2) false with
    | (s1, .here pl) => keep s1 pl
    | (s1, .remote dev g off) => sendReq s1 dev g 3 0x03 (r.2 - 1) (gAddr dev off) 0 [] (.spillRead q r.1)
    | (s1, .flt _) => serviceFault s1 c.core

/-- The copies are read as far as they lie in this device: block headers, codec header words, and the rest. -/
def fetchCopies (s : State) (q : Nat) (sp : Spill) : Nat → State
  | 0 => s
  | n + 1 => fetchCopies ((copyNeeds s q sp).foldl (fun s r => readCopy s q sp r) s) q sp n

/-! ## Restoring (R184, R409 to R413, R727) -/

/-- One block of a page as its copy gives it: bytes, whether they are poisoned, and the cause found. R341, R409, R410, R727. -/
def uncode (s : State) (x : SeqEnt) (w b : Nat) : State × List Byte × Bool × Option Cause3 :=
  let c := s.ctx x.ctx
  let (h, good) := copyHdr x w b
  let base := w + 128 * (b + 1)
  let bytes (n : Nat) : List Byte := (List.range n).flatMap (fun i => natToBytes (staged x (base + i)).1.toNat 32)
  let clean (n : Nat) : Bool := (List.range n).all (fun i => (staged x (base + i)).2)
  let nout := min 4096 (c.pageBytes - 4096 * b)
  let count (s : State) (coded : Bool) (bad : Option Nat) (n : Nat) : State :=
    weirCharge (countDec s (c.core / 4) coded bad (32 * n) nout) (c.core / 4) x.ctx (32 * n)
  if !h.testBit 1 then
    let poison := h.testBit 0 || !good || !clean 128
    (count s false (if poison then some 3 else none) 128, bytes 128, poison, none)
  else
    let cw := codecHdr (bytes 1)
    match (if clean 1 then copyRest s x.ctx cw else some 0) with
    | none =>
      let (s1, bs) := freeBytes (count s true (some Cause3.invalid.index) 1) 4096
      (s1, bs, true, some .invalid)
    | some rest =>
      if !good || !clean (1 + rest) then
        (count s true (some 3) (1 + rest), bytes (1 + rest) ++ natToBytes 0 (4096 - 32 * (1 + rest)), true, none)
      else match decodeBlock ((s.gslot cw.slot).entry (((s.gslot cw.slot).entryOf cw.gen).getD false)) cw (bytes (1 + rest)) with
        | .ok bs =>
          let poison := h.testBit 0 || cw.poison
          (count s true (if poison then some 3 else none) (1 + rest), bs, poison, none)
        | .error e =>
          let (s1, bs) := freeBytes (count s true (some e.index) (1 + rest)) 4096
          (s1, bs, true, some e)

/-- The words of a page from its copy, whose first word is word `w` of those read, from block `b` on; an event for each cause that is not
in `told`. R413. -/
def restoreWords (s : State) (q k w b : Nat) (sp : Spill) (told : List Nat) : Nat → State × List Word288
  | 0 => (s, [])
  | n + 1 =>
    let x := s.seqEnt q
    let c := s.ctx x.ctx
    let place := spillAddr c sp.tier2 (nth 0 sp.blocks (w / (128 * c.copyBlocks)) + 1 + b)
    let (s1, bs, poison, cause) := uncode s x w b
    let (s2, told2) := match cause with
      | some e => if e.index ∈ told then (s1, told) else
        (postEvent s1 (some x.ctx)
          { code := 2 + e.index, sev := 1, srcKind := 3, srcDie := k / 256, srcIndex := k % 256, addr := place }, e.index :: told)
      | none => (s1, told)
    let (s3, ws) := restoreWords s2 q k w (b + 1) sp told2 n
    (s3, blockWords bs poison ++ ws)

/-- The words of a page written at its context-virtual address. -/
def putPage (s : State) (ctx va : Nat) : List Word288 → State
  | [] => s
  | w :: ws =>
    match ctxAddr s ctx va permWrite 32 false with
    | (s1, .here pl) => putPage (writeWord s1 pl w) ctx (va + 32) ws
    | (s1, _) => putPage (serviceFault s1 (s.ctx ctx).core) ctx (va + 32) ws

/-- The pages of a sequence filled from its copies, copy `p` first. -/
def fillPages (s : State) (q k : Nat) (sp : Spill) (p : Nat) : List (Nat × Nat) → State
  | [] => s
  | pl :: ps =>
    let x := s.seqEnt q
    let c := s.ctx x.ctx
    let (s1, e) := ptGet s q pl
    let (s2, ws) := restoreWords s1 q k (128 * c.copyBlocks * p) 0 sp [] (c.copyBlocks - 1)
    fillPages (putPage s2 x.ctx (e / 32 * 32) (ws.take (c.pageBytes / 32))) q k sp (p + 1) ps

/-- A resumed sequence: its pages are taken again and its entries rewritten, its pages filled, its copies freed; none while a page cannot
be taken. R183, R184. -/
def restoreSeq (s : State) (q k : Nat) (sp : Spill) : Option State :=
  let x := s.seqEnt q
  (enterPages s q (seqPlaces s q)).map (fun s1 =>
    ((fillPages s1 q k sp 0 (seqPlaces s q)).modCtx x.ctx (fun c => c.dropSpill sp)).modSeqEnt q (fun y =>
      { y with spilled := none, staging := [], badWords := [], got := [], reading := false }))

/-- PAUSED falls as a sequence leaves its pause. R184. -/
def unpause (s : State) (q : Nat) : State :=
  (poolPaused s (s.seqEnt q).ctx (-1)).modSeqEnt q (fun y => { y with paused := false })

/-- The copies of a sequence are to be read from their start: at first, and again once a read was refused and no other is under way. -/
def startReading (s : State) (q : Nat) : State :=
  let x := s.seqEnt q
  if !x.reading || (x.refused && !spillReading s q) then
    s.modSeqEnt q (fun y => { y with reading := true, refused := false, staging := [], badWords := [], got := [] })
  else s

/-- A paused sequence resumes as far as it can: one in place at once, one with copies when they have been read. R184. -/
def resumeSeq (s : State) (q : Nat) : State :=
  match (s.seqEnt q).spilled, copySlot s (s.seqEnt q).ctx with
  | none, _ => unpause s q
  | some _, none => s
  | some sp, some k =>
    let s1 := fetchCopies (startReading s q) q sp 4
    if (s1.seqEnt q).refused || spillReading s1 q || !(copyNeeds s1 q sp).isEmpty then s1
    else match restoreSeq s1 q k sp with
      | some s2 => unpause s2 q
      | none => s1

end Sys2Proof.Machine
end

