-- ==== Sys2Proof/Machine/Plan.lean ====
section
/-! DEFINITION. Planning a step (12, R511 to R516; 04, R180 to R185): rows, pages, pauses, the step table and the KV slot list, and the
submission of the step's runs. -/

namespace Sys2Proof.Machine
open Sys2Proof

/-! ## Rows (R511 to R513) -/

/-- A sequence chosen for a step, and its rows. -/
structure SeqRow where
  seq : Nat
  rows : Nat
deriving DecidableEq, Repr

/-- The sequences of a context that may be in a step of a version, in admission order. R511, R513, R528. -/
def runnable (s : State) (ctx : Nat) (v : Bool) : List (Nat × SeqEnt) :=
  (liveSeqs s ctx).filter (fun x => !x.2.paused && !x.2.pausing && seqVer (s.ctx ctx) x.2 == v && !seqHeld s x.1)

/-- Decode sequences by the step at which each was last served. R511. -/
def insertServed (q : Nat × SeqEnt) : List (Nat × SeqEnt) → List (Nat × SeqEnt)
  | [] => [q]
  | x :: xs => if q.2.lastStep < x.2.lastStep then q :: x :: xs else x :: insertServed q xs

/-- One chunk for each prefill sequence, in order, while rows are left. R511. -/
def chunkRows : List (Nat × SeqEnt) → Nat → List SeqRow
  | [], _ => []
  | x :: xs, left =>
    let n := min (x.2.adm.promptLen - x.2.done) left
    if n = 0 then [] else { seq := x.1, rows := n } :: chunkRows xs (left - n)

/-- The rows of a step. R511. -/
def chooseRows (s : State) (ctx : Nat) (v : Bool) : List SeqRow :=
  let b := (s.ctx ctx).bind
  let seqs := runnable s ctx v
  let pre := seqs.filter (fun x => !x.2.decoding)
  let dec := (seqs.filter (fun x => x.2.decoding)).foldl (fun l x => insertServed x l) []
  let cap := if pre.isEmpty then b.stepRows else b.stepRows - b.prefillMin
  let ds := (dec.take cap).map (fun x => ({ seq := x.1, rows := 1 } : SeqRow))
  ds ++ chunkRows pre (b.stepRows - ds.length)

/-- Both kinds of step have sequences: then the kinds alternate. R513. -/
def mayPlan (s : State) (ctx : Nat) (v : Bool) : Bool :=
  let c := s.ctx ctx
  ((c.ver v).st == .active || (c.ver v).st == .retained) &&
  ((runnable s ctx (!v)).isEmpty || (runnable s ctx v).isEmpty || c.lastVer != v)

/-! ## Pages (R180 to R185) -/

/-- Logical pages that `n` more rows of a sequence need. R180. -/
def needFor (x : SeqEnt) (n : Nat) : Nat := ceilDiv (x.done + n) 64 - x.pages

/-- Rows that the next step may give a sequence: one, or the longest chunk. R184. -/
def nextRows (b : BindRec) (x : SeqEnt) : Nat := if x.decoding then 1 else min (x.adm.promptLen - x.done) b.stepRows

def nextNeed (s : State) (x : SeqEnt) : Nat := (s.ctx x.ctx).rows * needFor x (nextRows (s.ctx x.ctx).bind x)

/-- AVAIL must cover the pages of a paused sequence, its next step, and the next step of those that are not paused. R184. -/
def resumeNeed (s : State) (ctx : Nat) (x : SeqEnt) : Nat :=
  let others := ((liveSeqs s ctx).filter (fun y => !y.2.paused)).foldl (fun n y => n + nextNeed s y.2) 0
  (s.ctx ctx).rows * x.pages + nextNeed s x + others

/-- The oldest paused sequence resumes while the pool allows; then the next one. None passes one that is still being spilled. R184. -/
def resumeAll (s : State) (ctx : Nat) : Nat → State
  | 0 => s
  | n + 1 =>
    match (liveSeqs s ctx).find? (fun x => x.2.paused) with
    | none => s
    | some x =>
      if x.2.pausing then s
      else
        let (s1, avail) := poolAvail s ctx
        if resumeNeed s ctx x.2 ≤ avail then
          let s2 := resumeSeq s1 x.1
          if (s2.seqEnt x.1).paused then s2 else resumeAll s2 ctx n
        else s1

/-- Steps 1 and 2 of R182 for a victim; one for whose copies neither region has room is paused in place. R182, R183. -/
def pauseSeq (s : State) (q need : Nat) (avail : Int) : State :=
  let x := s.seqEnt q
  let room := (spillPlaces (s.ctx x.ctx) ((s.ctx x.ctx).rows * x.pages)).isSome
  let core := (s.ctx x.ctx).core
  let s1 := postEvent s (some x.ctx)
    { code := 0x10, sev := 1, seq := q, srcKind := 7, srcDie := core / 4, srcIndex := core, d0 := (BitVec.ofInt 32 avail).toNat, d1 := need,
      d2 := if room then 0 else 1 }
  (poolPaused s1 x.ctx 1).modSeqEnt q (fun y => { y with paused := true, pausing := room && decide (0 < x.pages) })

/-- The most recently admitted of a list in admission order. -/
def lastOf (xs : List (Nat × SeqEnt)) : Option Nat := (xs.getLast?).map (fun x => x.1)

/-- Pages that a step's rows need in all. R180. -/
def stepNeed (s : State) (ctx : Nat) (rs : List SeqRow) : Nat :=
  rs.foldl (fun n r => n + (s.ctx ctx).rows * needFor (s.seqEnt r.seq) r.rows) 0

/-- A sequence whose pages with those of its next step exceed the whole pool. R185. -/
def tooBig (s : State) (ctx : Nat) (r : SeqRow) : Bool :=
  let x := s.seqEnt r.seq
  decide ((s.ctx ctx).bind.kvPages < (s.ctx ctx).rows * (x.pages + needFor x r.rows))

/-- What the next step gives a sequence: its rows in the step that is planned, or those that it could have. -/
def rowsOf (s : State) (ctx : Nat) (rs : List SeqRow) (q : Nat) : SeqRow :=
  (rs.find? (fun r => r.seq == q)).getD { seq := q, rows := nextRows (s.ctx ctx).bind (s.seqEnt q) }

/-- A victim is paused, or ended where it could never be served. R182, R185. -/
def pauseOrEnd (s : State) (ctx : Nat) (rs : List SeqRow) (q need : Nat) (avail : Int) : State :=
  if tooBig s ctx (rowsOf s ctx rs q) then endSeq s q csPoolEmpty 0 else pauseSeq s q need avail

/-- Rows whose pages the pool can supply: sequences are ended (R185), paused (R182) or, when all are paused, ended (R183) until it can.
DESIGN CHOICE (log 66): once a victim is left out, the step's rows are chosen anew, so that other sequences may take the victim's. -/
def fitStep (s : State) (ctx : Nat) (v : Bool) : Nat → State × List SeqRow
  | 0 => (s, [])
  | n + 1 =>
    if (liveSeqs s ctx).any (fun x => x.2.pausing) then (s, [])
    else
      let rs := chooseRows s ctx v
      match rs.find? (tooBig s ctx) with
      | some r => fitStep (endSeq s r.seq csPoolEmpty 0) ctx v n
      | none =>
        let need := stepNeed s ctx rs
        if rs.isEmpty then
          if (liveSeqs s ctx).all (fun x => x.2.paused && !x.2.reading) && !(liveSeqs s ctx).isEmpty then
            match lastOf (liveSeqs s ctx) with
            | some q => fitStep (resumeAll (endSeq s q csPoolEmpty 0) ctx 32768) ctx v n
            | none => (s, [])
          else (s, [])
        else
          let (s1, avail) := poolAvail s ctx
          if need ≤ avail then (s1, rs)
          else match lastOf ((liveSeqs s1 ctx).filter (fun x => !x.2.paused)) with
            | some q => fitStep (pauseOrEnd s1 ctx rs q need avail) ctx v n
            | none => (s1, [])

/-! ## The step's data (R514 to R516) -/

/-- Tokens of a chunk, from the host window. R516. -/
def promptTokens (s : State) (x : SeqEnt) (n : Nat) : List W32 :=
  let base := (s.ctx x.ctx).bind.hostBase + x.adm.promptOff
  (List.range n).map (fun i => BitVec.ofNat 32 (s.num (hostKey (base + 4 * (x.done + i))) 4))

/-- The input tokens of a row: the next prompt tokens, or the last token. R516. -/
def rowTokens (s : State) (r : SeqRow) : List W32 :=
  let x := s.seqEnt r.seq
  if x.decoding then [nth 0 x.tokens x.done] else promptTokens s x r.rows

/-- A prompt token at or above VOCAB ends its sequence, which leaves the step. R516. -/
def dropBad (s : State) (ctx : Nat) (rs : List SeqRow) : State × List SeqRow :=
  rs.foldl (fun acc r =>
    if (rowTokens acc.1 r).any (fun t => decide ((s.ctx ctx).bind.vocab ≤ t.toNat)) then (endSeq acc.1 r.seq csInvalid 0, acc.2)
    else (acc.1, acc.2 ++ [r])) (s, [])

/-- The entries of a step: rows and sampled rows in order. R512, R514. -/
def entriesOf (s : State) (row sample : Nat) : List SeqRow → List StepEnt
  | [] => []
  | r :: rs =>
    let x := s.seqEnt r.seq
    let last : Bool := x.decoding || decide (x.done + r.rows = x.adm.promptLen)
    { seq := r.seq, row0 := row, rows := r.rows, sample := if last then some sample else none } ::
      entriesOf s (row + r.rows) (if last then sample + 1 else sample) rs

/-- Bytes written by firmware at a device address; a retired frame among them refuses the write. R439. -/
def svWrite (s : State) (core a : Nat) (bs : List Byte) : State :=
  if (List.range (ceilDiv (a % 65536 + bs.length) 65536)).any (fun i => frameRetired s (.hbm (a + 65536 * i))) then serviceFault s core
  else match writeBytes s (.hbm a) bs with
    | (s1, .none) => s1
    | (s1, _) => serviceFault s1 core

/-- The 32 bytes of a step table entry. R514. -/
def entryBytes (s : State) (c : Ctx) (e : StepEnt) : List Byte :=
  let x := s.seqEnt e.seq
  natToBytes 0 4 ++ natToBytes e.seq 2 ++ natToBytes x.slot 2 ++ natToBytes e.row0 2 ++ natToBytes e.rows 2 ++
  natToBytes (if x.decoding then 0 else 1) 1 ++ natToBytes 0 1 ++ natToBytes (e.sample.getD 0xFFFF) 2 ++ natToBytes x.done 4 ++
  natToBytes (x.done + e.rows) 4 ++ natToBytes (c.ptVa + c.ptOff x.slot) 8

/-- The step table. R514. -/
def stepTable (s : State) (c : Ctx) (r : StepRun) : List Byte :=
  let (tok, pos, kv, logit, _) := stepOffs c.bind
  natToBytes r.step 4 ++ natToBytes ((r.entries.filter (fun e => e.sample.isSome)).length) 2 ++ natToBytes r.nRows 2 ++
  natToBytes r.entries.length 2 ++ natToBytes 0 6 ++ natToBytes (c.stepVa + kv) 8 ++ natToBytes (c.stepVa + pos) 8 ++
  natToBytes (c.stepVa + tok) 8 ++ natToBytes (c.stepVa + logit) 8 ++ natToBytes (if r.ver then 1 else 0) 1 ++
  natToBytes r.logitFmt 1 ++ natToBytes 0 14 ++ r.entries.flatMap (entryBytes s c)

/-- Sequence and position of each row. -/
def rowPlaces (s : State) (es : List StepEnt) : List (Nat × Nat) :=
  es.flatMap (fun e => (List.range e.rows).map (fun i => (e.seq, (s.seqEnt e.seq).done + i)))

/-- The KV slot list: layer, row, kind and head. R129, R515. -/
def slotList (s : State) (c : Ctx) (es : List StepEnt) : State × List Byte :=
  let places := (List.range c.bind.nLayers).flatMap (fun l => (rowPlaces s es).flatMap (fun r => [0, 1].flatMap (fun k =>
    (List.range c.bind.nKvh).map (fun h => (r.1, l * c.bind.nKvh + h, r.2, k)))))
  let (s1, es) := places.foldl (fun (acc : State × List (List Byte)) p => match ptGet acc.1 p.1 (p.2.1, p.2.2.1 / 64) with
    | (s1, e) => (s1, (natToBytes (e / 32 * 32) 8 ++ natToBytes (p.2.2.1 % 64) 1 ++ natToBytes p.2.2.2 1 ++ natToBytes 0 6) :: acc.2)) (s, [])
  (s1, es.reverse.flatten)

/-- Step 3 of R516: tokens, positions, entries and KV slot list. -/
def writeStep (s : State) (ctx : Nat) (r : StepRun) (toks : List W32) : State :=
  let c := s.ctx ctx
  let (tok, pos, kv, _, _) := stepOffs c.bind
  let s1 := svWrite s c.core (c.stepArea + tok) (toks.flatMap (fun t => natToBytes t.toNat 4))
  let s2 := svWrite s1 c.core (c.stepArea + pos) ((rowPlaces s r.entries).flatMap (fun p => natToBytes p.2 4))
  let (s3, ls) := slotList s2 c r.entries
  svWrite (svWrite s3 c.core (c.stepArea + kv) ls) c.core c.stepArea (stepTable s c r)

/-- Sluices reset for a step; a reset that R293 and R366 refuse, or one of a bad word, halts the core. R194, R366, R370, R726. -/
def resetSluices (s : State) (ctx : Nat) (xs : List (Nat × Nat)) : State :=
  xs.foldl (fun (s : State) x =>
    match (if 1 ≤ x.2 ∧ x.2 < 2 ^ 31 ∧ sluiceOwned s ctx x.1 then sluicePlace s ctx x.1 else none) with
    | none => serviceFault s (s.ctx ctx).core
    | some pl => match sluiceAccess s pl (fun _ => sluiceFresh x.2) with
      | (s1, .ok) => s1
      | (s1, _) => serviceFault s1 (s.ctx ctx).core) s

/-- Combine regions zeroed: device address and bytes, by words. R229, R516. -/
def zeroCombine (s : State) (ctx : Nat) (xs : List (Nat × Nat)) : State :=
  xs.foldl (fun (s : State) x =>
    match locate s (x.1 / 32 * 32) with
    | none => serviceFault s (s.ctx ctx).core
    | some pl => if frameRetired s pl then serviceFault s (s.ctx ctx).core else writeWords s pl (List.replicate (ceilDiv (x.1 % 32 + x.2) 32) 0)) s

/-! ## Runs (R188, R498, R516, R537) -/

/-- ARG2 to ARG7 of a version, relocated. R534, R537. -/
def versionArgs (c : Ctx) (v : Bool) : List W64 :=
  let m := (c.ver v).manifest
  (List.range 6).map (fun i =>
    field64 m (80 + 8 * i) + if (fieldAt m 79 1).testBit i then BitVec.ofNat 64 (windowBase v) else 0)

/-- The 128 bytes of a run record. R188. -/
def runRecBytes (p : PlanRun) (ctx step : Nat) (v : Bool) (args : List W64) : List Byte :=
  natToBytes p.progAddr.toNat 8 ++ natToBytes p.seqno 4 ++ natToBytes step 4 ++ natToBytes ctx 2 ++ natToBytes p.die 1 ++
  natToBytes p.nAttn 1 ++ natToBytes p.nStrm 1 ++ natToBytes p.nGrist 1 ++ natToBytes (if v then 1 else 0) 1 ++
  natToBytes p.nRegions 1 ++ natToBytes p.regionList 8 ++ natToBytes p.runLimit 4 ++ natToBytes 0 2 ++ natToBytes p.cplRing 2 ++
  natToBytes p.tileMask 6 ++ natToBytes 0 18 ++ args.flatMap (fun a => natToBytes a.toNat 8)

/-- A die's run queue takes one more record. R302. -/
def queueRoom (s : State) (d : Nat) : Bool :=
  let q := (s.gov d).runqRing
  (s.ring q).kind == .internal && (s.ring q).room && decide (runsQueued s d < 1024)

/-- The runs of a step that are not yet queued are submitted, in order, while the queues have room. R516. -/
def submitRuns (s : State) (ctx : Nat) : Nat → State
  | 0 => s
  | n + 1 =>
    let c := s.ctx ctx
    match c.inFlight with
    | none => s
    | some r => match r.unsent with
      | [] => s
      | p :: ps =>
        let d := p.die % 4
        if queueRoom s d then
          let args := BitVec.ofNat 64 c.stepVa :: BitVec.ofNat 64 r.step :: versionArgs c r.ver
          let s1 := pushRecord s (s.gov d).runqRing (runRecBytes p ctx r.step r.ver args)
          submitRuns (s1.modCtx ctx (fun c => { c with inFlight := some { r with unsent := ps, live := r.live ++ [p] } })) ctx n
        else s

/-- The pages of a step's rows are taken; none while a page cannot be taken. R178, R180. -/
def stepPages (s : State) : List SeqRow → Option State
  | [] => some s
  | r :: rs => (takePages s r.seq (needFor (s.seqEnt r.seq) r.rows)).bind (fun s1 => stepPages s1 rs)

/-- A step of `v` is planned; while the core waits for a page of the pool, nothing of it is. R178, R511 to R516. -/
def planStep (s : State) (ctx : Nat) (v : Bool) (runs : List PlanRun) (sluices combine : List (Nat × Nat)) (logitFmt : Nat) : State :=
  let s1 := resumeAll (moveRetired s) ctx 32768
  let (s2, rs0) := fitStep s1 ctx v 65536
  let (s3, rs) := dropBad s2 ctx rs0
  if rs.isEmpty then s3
  else match stepPages s3 rs with
  | none => s
  | some s4 =>
    let c := s4.ctx ctx
    let es := entriesOf s4 0 0 rs
    let step := c.step + 1
    let r : StepRun := { step := step, ver := v, runs := runs, unsent := runs, live := [], entries := es,
                         nRows := rs.foldl (fun n x => n + x.rows) 0, logitFmt := logitFmt % 3, sluices := sluices, combine := combine }
    let toks := rs.flatMap (rowTokens s4)
    let s5 := writeStep s4 ctx r toks
    let s6 := rs.foldl (fun (s : State) x =>
      let ts := rowTokens s4 x
      s.modSeqEnt x.seq (fun y => { y with lastStep := step, tokens := if y.decoding then y.tokens else y.tokens ++ ts })) s5
    let s7 := zeroCombine (resetSluices s6 ctx sluices) ctx combine
    submitRuns (s7.modCtx ctx (fun c => { c with step := step % 2 ^ 32, lastVer := v, inFlight := some r })) ctx runs.length

/-- R180 to R185, R511 to R516: at a step boundary a step is planned; with one in flight, the runs still to be queued are submitted. -/
def execPlanStep (ctx : Nat) (ver : Bool) (runs : List PlanRun) (sluices combine : List (Nat × Nat)) (logitFmt : Nat) (s : State) :
    Host.Outcome State Fault Refusal :=
  let c := s.ctx ctx
  .next (if !c.bound ∨ !coreRuns s c.core ∨ c.handTo.isSome then s
    else fwDo s c.core (fun s =>
      match c.inFlight with
      | some r => submitRuns s ctx r.unsent.length
      | none =>
        let s1 := settle s ctx
        if (s1.ctx ctx).bound && mayPlan s1 ctx ver then planStep s1 ctx ver runs sluices combine logitFmt else s1))

end Sys2Proof.Machine
end

