-- ==== Sys2Proof/Machine/Sample.lean ====
section
/-! DEFINITION. The end of a step (12, R516 to R530; 05, R229): runs that have ended, faults and the retry, sampling, stops, delivery,
and the cores that hand their work over. -/

namespace Sys2Proof.Machine
open Sys2Proof

/-! ## Sampling (R517 to R519) -/

/-- The random number of a draw. R518. -/
def rng (seed : W64) (pos : Nat) : W32 :=
  let z0 : W64 := seed + (BitVec.ofNat 64 (pos + 1)) * 0x9E3779B97F4A7C15
  let z1 := (z0 ^^^ (z0 >>> 30)) * 0xBF58476D1CE4E5B9
  let z2 := (z1 ^^^ (z1 >>> 27)) * 0x94D049BB133111EB
  let z3 := z2 ^^^ (z2 >>> 31)
  rne32 (.fin (bitsOf z3.toNat 40 24) (-24))

/-- Format and width of the logits. R514. -/
def logitFloat (f : Nat) : FloatFmt := if f = 0 then fmtFp32 else if f = 1 then fmtBf16 else fmtFp16
def logitBytes (f : Nat) : Nat := if f = 0 then 4 else 2

/-- A penalised logit. R517. -/
def penalise (v pen : W32) : W32 := if (FV.zero false).lt (f32 v) then fdiv32 v pen else fmul32 v pen

/-- The logits of a row after the repetition penalty, and the places that it changed. R517. -/
def penalised (f : Nat) (vs : List W32) (last : List W32) (pen : W32) : List W32 × List (Nat × Nat) :=
  let ts := (last.map (fun t => t.toNat)).eraseDups
  let ch := ts.map (fun t => (t, fround (logitFloat f) true (f32 (penalise (nth 0 vs t) pen))))
  (ch.foldl (fun l c => modAt (fun _ => rne32 (fdecode (logitFloat f) c.2)) l c.1) vs, ch)

/-- The `k` largest values in the order of R309, with their indexes. -/
def topK (vs : List W32) (k : Nat) : List (Nat × W32) :=
  let es := (vs.zipIdx.map (fun p => (p.2, p.1))).filter (fun e => !(f32 e.2).isNan)
  (es.foldl (fun acc e => insertEnt e acc) []).take k

/-- Running sums, each rounded. R517. -/
def runSums (acc : W32) : List W32 → List W32
  | [] => []
  | p :: ps => fadd32 acc p :: runSums (fadd32 acc p) ps

/-- x ≥ y for values that are not NaN. -/
def f32Ge (a b : W32) : Bool := !(f32 a).isNan && !(f32 b).isNan && !(f32 a).lt (f32 b)

/-- The token that a row's candidates give, largest first. R517, R518. -/
def pickToken (a : AdmitRec) (pos : Nat) (es : List (Nat × W32)) : Nat :=
  let k := es.length
  let e0 := (nth (0, 0) es 0).2
  if (f32 a.temp).isZero then (nth (0, 0) es 0).1
  else
    let ps := es.map (fun e => expT (rne32 (((f32 e.2).add (f32 e0).neg).div (f32 a.temp))))
    let cs := match ps with
      | [] => []
      | p :: rest => fadd32 0 p :: runSums (fadd32 0 p) rest
    let total := nth 0 cs (k - 1)
    let active : Bool := (FV.zero false).lt (f32 a.topP) && (f32 a.topP).lt (f32 0x3F800000)
    let n := if active then (match (List.range k).find? (fun i => f32Ge (nth 0 cs i) (fmul32 a.topP total)) with
      | some i => i + 1
      | none => k) else k
    let bar := fmul32 (rng a.seed pos) (nth 0 cs (n - 1))
    let j := ((List.range n).find? (fun j => (f32 bar).lt (f32 (nth 0 cs j)))).getD (n - 1)
    (nth (0, 0) es j).1

/-- K of a row. R517. -/
def candidates (a : AdmitRec) (vocab : Nat) : Nat :=
  min (if (f32 a.temp).isZero then 1 else if 0 < a.topK then a.topK else 1024) vocab

/-- Sampled row `i` of a step for a sequence: the token, or none when a logit is NaN. The penalised logits are written back. R517. -/
def sampleRow (s : State) (q i fmt : Nat) : State × Option Nat :=
  let x := s.seqEnt q
  let c := s.ctx x.ctx
  let w := logitBytes fmt
  let (_, _, _, lo, _) := stepOffs c.bind
  let base := c.stepArea + lo + i * c.bind.vocab * w
  match readBytes s (.hbm base) (c.bind.vocab * w) with
  | (s1, bs, .ok) =>
    let vs := (chunks w bs c.bind.vocab).map (fun b => rne32 (fdecode (logitFloat fmt) (bytesToNat b)))
    let last := x.tokens.drop (x.tokens.length - x.adm.repWin)
    let (ps, ch) := penalised fmt vs last x.adm.repPen
    let s2 := ch.foldl (fun (s : State) p => svPut s c.core (.hbm (base + w * p.1)) w p.2) s1
    if ps.any (fun v => (f32 v).isNan) then (s2, none)
    else (s2, some (pickToken x.adm x.generated (topK ps (candidates x.adm c.bind.vocab))))
  | (s1, _, _) => (serviceFault s1 c.core, none)

/-! ## Delivery (R520 to R525) -/

/-- Bytes of a token. R522, R523. -/
def tokenBytes (s : State) (ctx : Nat) (t : Nat) : State × List Byte :=
  let c := s.ctx ctx
  match readBytes s (.hbm (c.detok + 16 + 8 * t)) 8 with
  | (s1, e, .ok) =>
    (match readBytes s1 (.hbm (c.detok + 16 + 8 * c.bind.vocab + fieldAt e 0 4)) (fieldAt e 4 2) with
     | (s2, bs, .ok) => (s2, bs)
     | (s2, _, _) => (serviceFault s2 c.core, []))
  | (s1, _, _) => (serviceFault s1 c.core, [])

/-- Tokens delivered in order, until one does not fit the output buffer: answers whether all did. R522, R524, R525. -/
def deliverTokens (s : State) (q : Nat) : List W32 → State × Bool
  | [] => (s, true)
  | t :: ts =>
    let x := s.seqEnt q
    let (s1, bs) := tokenBytes s x.ctx t.toNat
    if x.adm.outBytes < x.outPos + x.waitBytes + bs.length then (s1, false)
    else
      let at_ := (s.ctx x.ctx).bind.hostBase + x.adm.outOff + x.outPos + x.waitBytes
      let s2 := (s1.setBytes (hostKey at_) bs).modSeqEnt q (fun y => { y with
        waiting := y.waiting ++ [t], waitBytes := y.waitBytes + bs.length })
      deliverTokens (if x.adm.flush ≤ x.waiting.length + 1 then seqRecord s2 q 3 0 0 else s2) q ts

/-- The tokens of a sequence end with a stop sequence. -/
def endsWith (ts stop : List W32) : Bool := ts.drop (ts.length - stop.length) == stop && decide (stop.length ≤ ts.length)

/-- The longest end of the withheld tokens with which a stop sequence could still begin. R520. -/
def keepBack (stops : List (List W32)) (ts : List W32) : Nat :=
  (List.range (ts.length + 1)).foldl (fun n k =>
    if stops.any (fun st => decide (k < st.length) && st.take k == ts.drop (ts.length - k)) then k else n) 0

/-- A sequence ends with its last tokens delivered, or with OUT_FULL. R521, R524. -/
def endWith (s : State) (q status : Nat) (ts : List W32) : State :=
  match deliverTokens s q ts with
  | (s1, true) => endSeq s1 q status 0
  | (s1, false) => endSeq s1 q csOutFull 0

/-- A sampled token: stops, and delivery. R520 to R525. -/
def takeToken (s : State) (q t : Nat) : State :=
  let tok : W32 := BitVec.ofNat 32 t
  let s1 := s.modSeqEnt q (fun y => { y with tokens := y.tokens ++ [tok], generated := y.generated + 1, withheld := y.withheld ++ [tok] })
  let x := s1.seqEnt q
  let b := (s.ctx x.ctx).bind
  let held := x.withheld
  let without (n : Nat) : List W32 := if x.adm.includeStop then held else held.take (held.length - n)
  if tok ∈ b.endTok then endWith s1 q csEndStop (without 1)
  else match x.adm.stops.find? (fun st => endsWith held st) with
  | some st => endWith s1 q csEndStop (without st.length)
  | none =>
    if x.adm.maxNew ≤ x.generated then endWith s1 q csEndMaxNew held
    else if b.maxTokens ≤ x.done then endWith s1 q csEndMaxTokens held
    else
      let k := keepBack x.adm.stops held
      match deliverTokens (s1.modSeqEnt q (fun y => { y with withheld := held.drop (held.length - k) })) q (held.take (held.length - k)) with
      | (s2, true) => s2
      | (s2, false) => endSeq s2 q csOutFull 0

/-- An entry of a step that has ended: its tokens have their KV, and its sampled row gives a token. R512, R516, R519. -/
def endEntry (s : State) (ctx fmt : Nat) (e : StepEnt) : State :=
  let x := s.seqEnt e.seq
  if !x.held ∨ x.ended ∨ x.ctx ≠ ctx then s
  else
    let s1 := s.modSeqEnt e.seq (fun y => { y with done := y.done + e.rows, decoding := y.decoding || e.sample.isSome })
    match e.sample with
    | none => s1
    | some i => match sampleRow s1 e.seq i fmt with
      | (s2, some t) => takeToken s2 e.seq t
      | (s2, none) =>
        let core := (s.ctx ctx).core
        let s3 := postEvent s2 (some ctx)
          { code := 0x01, sev := 1, seq := e.seq, srcKind := 7, srcDie := core / 4, srcIndex := core, d0 := 0xFFFFFFFF }
        endSeq s3 e.seq csPoisoned 0

/-! ## Runs of a step (R229, R516) -/

/-- The completion of a run of a step, taken from the Governor and from the ring that it was written to. R225, R231. -/
def takeOutcome (s : State) (ctx : Nat) (p : PlanRun) : State × Option RunOutcome :=
  let d := p.die % 4
  let mine (o : RunOutcome) : Bool := o.ctx == ctx && o.seqno == p.seqno
  match (s.gov d).outcomes.find? mine with
  | none => (s, none)
  | some o =>
    let s1 := s.modGov d (fun g => { g with outcomes := dropFirst mine g.outcomes })
    let r := s.ring p.cplRing
    (if r.kind = .internal ∧ 0 < r.count then popHead s1 p.cplRing else s1, some o)

/-- Every run of the step in flight that has ended is taken account of; the first fault is kept. R229. -/
def collect (s : State) (ctx : Nat) : State :=
  match (s.ctx ctx).inFlight with
  | none => s
  | some r =>
    let (s1, live, flt) := r.live.foldl (fun (acc : State × List PlanRun × Option (Flt × Nat × Nat)) p =>
      match takeOutcome acc.1 ctx p with
      | (s1, none) => (s1, acc.2.1 ++ [p], acc.2.2)
      | (s1, some o) => (s1, acc.2.1, if acc.2.2.isNone ∧ o.fault ≠ .none then some (o.fault, o.cls, o.seqno) else acc.2.2))
      (s, [], r.faulted)
    s1.modCtx ctx (fun c => { c with inFlight := some { r with live := live, faulted := flt } })

/-- Every other run of a faulted step is cancelled, and none of it is queued any more. R229. -/
def cancelLive (s : State) (ctx : Nat) : State :=
  match (s.ctx ctx).inFlight with
  | none => s
  | some r =>
    let s1 := r.live.foldl (fun (s : State) p => cancelSeqno s (p.die % 4) p.seqno) s
    s1.modCtx ctx (fun c => { c with inFlight := some { r with unsent := [] } })

/-- The classes of a fault that the firmware retries. R229. -/
def retryClass (cls : Nat) : Bool := cls == clsHalt || cls == clsWatchdog || cls == clsMachine

/-- A context is handed to another core at the end of its step. R529. -/
def handContext (s : State) (ctx : Nat) : State :=
  match (s.ctx ctx).handTo with
  | some d => s.modCtx ctx (fun c => { c with core := d, handTo := none })
  | none => s

/-- The step is over: the boundary follows. -/
def endStep (s : State) (ctx : Nat) : State :=
  settle (handContext (s.modCtx ctx (fun c => { c with inFlight := none })) ctx) ctx

/-- The step of a context once every run of it has ended; nothing is delivered for a context of a function reset. R229, R510, R516, R585. -/
def finishStep (s : State) (ctx : Nat) (r : StepRun) : State :=
  if silenced s ctx then endStep s ctx
  else match r.faulted with
  | some (f, cls, seqno) =>
    if r.entries.isEmpty then endStep s ctx
    else
      let s1 := postEvent s (some ctx)
        { code := 0x11, sev := 2, srcKind := 7, srcDie := (s.ctx ctx).core / 4, srcIndex := (s.ctx ctx).core, d0 := f.code, d1 := seqno,
          d2 := r.step }
      if retryClass cls ∧ !r.retried then
        let s2 := resetSluices (zeroCombine s1 ctx r.combine) ctx r.sluices
        submitRuns (s2.modCtx ctx (fun c => { c with inFlight := some { r with retried := true, faulted := none, unsent := r.runs, live := [] } }))
          ctx r.runs.length
      else
        let s2 := applyCancels s1 ctx
        endStep (r.entries.foldl (fun (s : State) e =>
          if (s.seqEnt e.seq).held ∧ (s.seqEnt e.seq).ctx = ctx ∧ !(s.seqEnt e.seq).ended then endSeq s e.seq csRunFault f.code else s) s2) ctx
  | none => endStep (r.entries.foldl (fun (s : State) e => endEntry s ctx r.logitFmt e) (applyCancels s ctx)) ctx

/-- R229, R510, R516 to R525. -/
def execStepSample (ctx : Nat) (s : State) : Host.Outcome State Fault Refusal :=
  let c := s.ctx ctx
  .next (if !c.bound ∨ c.inFlight.isNone ∨ !(coreRuns s c.core ∨ (s.miller c.core).run = .handingOver) then s
    else fwDo s c.core (fun s =>
      let s1 := collect s ctx
      let s2 := match (s1.ctx ctx).inFlight with
        | some r => if r.faulted.isSome ∧ !(r.live.isEmpty && r.unsent.isEmpty) then collect (cancelLive s1 ctx) ctx else s1
        | none => s1
      match (s2.ctx ctx).inFlight with
      | some r => if r.live.isEmpty && r.unsent.isEmpty then finishStep s2 ctx r else s2
      | none => s2))

/-! ## Cores (R529, R530) -/

/-- The rings and service streams of a core go to another. R529, R530. -/
def moveRings (s : State) (c dest : Nat) : State :=
  let s1 := (coreRings s c).foldl (fun (s : State) r => s.modRing r (fun g => { g with server := some dest })) s
  (List.range 1024).foldl (fun (s : State) k => if (s.slot k).service = some c then s.modSlot k (fun x => { x with service := some dest }) else s) s1

/-- Contexts that a core plans. R491. -/
def coreCtxs (s : State) (c : Nat) : List Nat := (s.ctxs.filter (fun x => x.2.bound && x.2.core == c)).map (fun x => x.1)

/-- A core that is to be replaced, or that is being disabled. R529. -/
def leaving (s : State) (c : Nat) : Bool :=
  (s.miller c).run == .handingOver || ((s.miller c).run == .running && s.mgt.replacing && (s.miller c).image != coreImage s)

/-- R529: a core hands a context over at the end of the step in flight, and with its last context its rings and streams; a context returns
in the same way to a core that is back. -/
def execCoreHandover (c : Nat) (ctx : Nat) (dest : Nat) (s : State) : Host.Outcome State Fault Refusal :=
  .next (if 16 ≤ c ∨ 16 ≤ dest ∨ c = dest ∨ !coreRuns s dest then s
    else
      let out := leaving s c
      let s1 := if out ∧ (s.miller c).run = .running then requestUnit s (.core c) false else s
      let x := s1.ctx ctx
      let s2 := if !x.bound ∨ x.core ≠ c then s1
        else if x.inFlight.isSome then s1.modCtx ctx (fun k => { k with handTo := some dest })
        else s1.modCtx ctx (fun k => { k with core := dest })
      if out ∧ (coreCtxs s2 c).isEmpty then
        (moveRings s2 c dest).modMiller c (fun k => { k with seqr := { k.seqr with mode := .ended } })
      else s2)

/-- A context whose core has halted: its step is given up, to be planned again. R530. -/
def replan (s : State) (ctx : Nat) : State :=
  match (s.ctx ctx).inFlight with
  | none => s
  | some r =>
    let s1 := r.entries.foldl (fun (s : State) e =>
      s.modSeqEnt e.seq (fun y => if y.decoding || y.ctx != ctx then y else { y with tokens := y.tokens.take y.done })) (cancelLive s ctx)
    s1.modCtx ctx (fun c => { c with inFlight := c.inFlight.map (fun r => { r with entries := [] }) })

/-- R530: the other cores take over the contexts and rings of a core that has halted; a service image on trial that halts cores three
times fails (R661). -/
def execCoreHalt (c : Nat) (s : State) : Host.Outcome State Fault Refusal :=
  .next (if 16 ≤ c ∨ (s.miller c).run ≠ .halted ∨ (s.miller c).image.isNone then s
    else
      let s1 := (coreCtxs s c).foldl (fun (s : State) x =>
        match fewestCore s with
        | some d => (replan s x).modCtx x (fun k => { k with core := d, handTo := none })
        | none => s) s
      let s2 := match fewestCore s with
        | some d => moveRings s1 c d
        | none => s1
      let s3 := s2.modMiller c (fun k => { k with image := none })
      match slotWith s 2 .trial with
      | some t =>
        if 2 ≤ s.mgt.svcHalts then { (failTrial s3 2 t) with mgt := { (failTrial s3 2 t).mgt with replacing := true } }
        else { s3 with mgt := { s3.mgt with svcHalts := s3.mgt.svcHalts + 1 } }
      | none => s3)

/-- R230, R530: the management controller restarts a halted core from its image. -/
def execMillerCoreRestart (c : Nat) (s : State) : Host.Outcome State Fault Refusal :=
  .next (if c < 16 ∧ (s.miller c).run = .halted ∧ (s.miller c).image.isNone ∧ !s.mgt.restarting then startCore s c else s)

end Sys2Proof.Machine
end

