-- ==== Sys2Proof/Machine/Weights.lean ====
section
/-! DEFINITION. Weight packages (13): LOAD, ACTIVATE and DISCARD, the manifest's checks, what a load takes, shards and their digests. -/

namespace Sys2Proof.Machine
open Sys2Proof

/-! ## Manifests (R534 to R538, R549) -/

def manShards (m : List Byte) : Nat := fieldAt m 67 2
def manSigLen (m : List Byte) : Nat := fieldAt m 65 2
def manAlg (m : List Byte) : Nat := fieldAt m 64 1
def manVersion (m : List Byte) : Nat := fieldAt m 12 4

/-- Length of a manifest by its own fields. R534. -/
def manLength (m : List Byte) : Nat := 128 + 96 * manShards m + manSigLen m

/-- A shard entry. R535. -/
structure ShardEnt where
  digest : Nat
  dest : Nat
  size : Nat
  tileFirst : Nat
  tileCount : Nat
  place : Nat
  exec : Bool
  rsvd : Bool
deriving DecidableEq, Repr

def shardEnt (m : List Byte) (i : Nat) : ShardEnt :=
  let o := 128 + 96 * i
  { digest := fieldAt m (o + 48) 48, dest := fieldAt m (o + 40) 8, size := fieldAt m (o + 36) 4, tileFirst := fieldAt m (o + 34) 2,
    tileCount := fieldAt m (o + 32) 2, place := fieldAt m (o + 31) 1 % 4, exec := (fieldAt m (o + 30) 1).testBit 0,
    rsvd := decide (4 ≤ fieldAt m (o + 31) 1) || decide (2 ≤ fieldAt m (o + 30) 1) || decide (fieldAt m o 30 ≠ 0) }

def shardEnts (m : List Byte) : List ShardEnt := (List.range (manShards m)).map (shardEnt m)

/-- The signature verifies under an installed key of the manifest's fingerprint and algorithm. R536, R538. -/
def manSigned (s : State) (m : List Byte) : Bool :=
  let n := 128 + 96 * manShards m
  s.mgt.pubKeys.any (fun k =>
    k.fpr.toNat % 2 ^ 128 == fieldAt m 48 16 && k.alg == manAlg m &&
    (if manAlg m = 1 then Config.ecdsaOk k.bytes (m.take n) (m.drop n)
     else manAlg m == 2 && Config.mldsaOk k.bytes (m.take n) (m.drop n)))

/-- A shard entry by itself. R535, R549. -/
def shardOk (l : LoadRec) (e : ShardEnt) : Bool :=
  !e.rsvd && within 1 e.size 268435456 &&
  (if e.place = 3 then
    decide (e.dest < 2 ^ 23) && e.dest % 4096 == 0 && within 1 e.tileCount 192 && decide (e.tileFirst + e.tileCount ≤ l.nTiles) &&
    (inBank 0 e.dest e.size || inBank 1 e.dest e.size || inBank 2 e.dest e.size)
  else e.dest % 65536 == 0 && decide (e.dest + e.size ≤ 0x400000000000) && e.tileFirst == 0 && e.tileCount == 0)

/-- No two memory shards overlap. R549. -/
def shardsApart : List ShardEnt → Bool
  | [] => true
  | e :: es => (e.place == 3 || es.all (fun f => f.place == 3 || !overlap e.dest e.size f.dest f.size)) && shardsApart es

/-- Bytes of a shard's pages. -/
def pageRound (n : Nat) : Nat := ceilDiv n 65536 * 65536

/-- Global address of each PLACE 1 shard: in order from PEER_BASE. R548. -/
def peerPlaces (a : Nat) : List ShardEnt → List (Option Nat)
  | [] => []
  | e :: es => if e.place = 1 then some a :: peerPlaces (a + pageRound e.size) es else none :: peerPlaces a es

/-- Every page of the PLACE 1 shards lies within the context's rights. R475, R549. -/
def peerRights (s : State) (ctx : Nat) (a n : Nat) : Bool :=
  let (_, bs) := rightsTable s ctx
  (List.range (n / 65536)).all (fun i =>
    (rightsGroup bs (gDev (a + 65536 * i)) permRead (gOff (a + 65536 * i)) 65536).isSome &&
    (rightsGroup bs (gDev (a + 65536 * i)) permWrite (gOff (a + 65536 * i)) 65536).isSome)

/-- The manifest against the bind and against itself. R534, R549. -/
def manifestOk (s : State) (ctx : Nat) (l : LoadRec) (m : List Byte) : Bool :=
  let b := (s.ctx ctx).bind
  let es := shardEnts m
  let peer := (es.filter (fun e => e.place == 1)).foldl (fun n e => n + pageRound e.size) 0
  fieldAt m 0 4 == 0x4D575850 && fieldAt m 6 2 == 1 && zeroAt m 4 2 && zeroAt m 8 4 && within 1 (manShards m) 16384 &&
  manLength m == l.manBytes && decide (fieldAt m 79 1 < 64) && fieldAt m 78 1 == b.kvf && fieldAt m 77 1 == b.nKvh && fieldAt m 75 2 == b.w &&
  fieldAt m 73 2 == b.nLayers && fieldAt m 69 4 == b.vocab && es.all (shardOk l) && shardsApart es &&
  decide (peer ≤ 65536 * l.peerBytes) && peerRights s ctx l.peerBase.toNat peer

/-! ## LOAD (R541, R548) -/

def loadRec (bs : List Byte) : LoadRec :=
  { peerBase := field64 bs 96, peerBytes := fieldAt bs 92 4, tileListOff := fieldAt bs 84 8, nTiles := fieldAt bs 82 2,
    maxInflight := fieldAt bs 81 1, dropPinned := (fieldAt bs 80 1).testBit 1, hold := (fieldAt bs 80 1).testBit 0,
    srcListOff := fieldAt bs 72 8, manOff := fieldAt bs 64 8, manBytes := fieldAt bs 60 4 }

/-- The fields of a LOAD, and MAN_BYTES against the manifest in the host window. R541, R548. -/
def loadOk (s : State) (ctx : Nat) (bs : List Byte) (l : LoadRec) : Bool :=
  let b := (s.ctx ctx).bind
  let head := hostBytes s ctx l.manOff 128
  recRsvd bs && zeroAt bs 16 44 && zeroAt bs 104 24 && decide (fieldAt bs 80 1 < 4) && decide (l.nTiles ≤ 192) && within 1 l.maxInflight 16 &&
  (l.peerBase == 0 || (decide (2 ^ 63 ≤ l.peerBase.toNat) && l.peerBase.toNat % 65536 == 0)) &&
  decide (l.manOff + l.manBytes ≤ b.hostBytes) && decide (128 ≤ l.manBytes) && manLength head == l.manBytes &&
  decide (l.tileListOff + 2 * l.nTiles ≤ b.hostBytes) && decide (l.srcListOff + 32 * manShards head ≤ b.hostBytes)

/-- A LOAD, ACTIVATE or DISCARD of the context is under way. R548. -/
def underWay (c : Ctx) : Bool :=
  [c.ver0, c.ver1].any (fun x => x.loading.isSome || x.activate.isSome || x.discard.isSome)

/-- R541, R548. -/
def execLoad (ring : Nat) (s : State) : Host.Outcome State Fault Refusal :=
  .next (match subOf s ring 0x10 with
    | none => s
    | some bs =>
      let ctx := recCtx bs
      let c := s.ctx ctx
      let l := loadRec bs
      let v := c.spare
      let x := c.ver v
      if !recBound s ring bs then refuseRec s ring bs ctx csNotBound
      else if underWay c ∨ x.st = .staging ∨ x.st = .verified then refuseRec s ring bs ctx csBusy
      else if x.st = .retained ∧ !(pinnedTo s ctx v).isEmpty ∧ !l.dropPinned then refuseRec s ring bs ctx csBusy
      else if !loadOk s ctx bs l then refuseRec s ring bs ctx csInvalid
      else
        fwDo s c.core (fun s =>
          let s1 := modVer (consume s ring) ctx v (fun y => { y with load := some l, loading := some (recDone bs ring), dropping := x.st == .retained })
          if x.st = .retained then settle s1 ctx else copyManifest s1 ctx v))

/-! ## ACTIVATE and DISCARD (R542, R554, R556, R558) -/

/-- R542, R555, R556. -/
def execActivate (ring : Nat) (s : State) : Host.Outcome State Fault Refusal :=
  .next (match subOf s ring 0x11 with
    | none => s
    | some bs =>
      let ctx := recCtx bs
      let c := s.ctx ctx
      let v := c.spare
      let x := c.ver v
      if !recBound s ring bs then refuseRec s ring bs ctx csNotBound
      else if !recRsvd bs ∨ !zeroAt bs 16 112 then refuseRec s ring bs ctx csInvalid
      else if x.st ≠ .verified ∨ x.loading.isSome then refuseRec s ring bs ctx csNotFound
      else if x.activate.isSome then refuseRec s ring bs ctx csBusy
      else
        fwDo s c.core (fun s =>
          settle (modVer (consume s ring) ctx v (fun y => { y with activate := some (recDone bs ring) })) ctx))

/-- The discard of a retained slot is asked for: at the next step boundary, where it needs one. R558. -/
def askDiscard (s : State) (ctx : Nat) (v : Bool) (d : Done) : State :=
  settle (modVer s ctx v (fun y => { y with dropping := true, discard := some d })) ctx

/-- R542, R554, R558, R559. -/
def execDiscard (ring : Nat) (s : State) : Host.Outcome State Fault Refusal :=
  .next (match subOf s ring 0x12 with
    | none => s
    | some bs =>
      let ctx := recCtx bs
      let c := s.ctx ctx
      let v := c.spare
      let x := c.ver v
      let d := recDone bs ring
      let drop := (fieldAt bs 16 1).testBit 0
      if !recBound s ring bs then refuseRec s ring bs ctx csNotBound
      else if !recRsvd bs ∨ 2 ≤ fieldAt bs 16 1 ∨ !zeroAt bs 17 111 then refuseRec s ring bs ctx csInvalid
      else if x.discard.isSome then refuseRec s ring bs ctx csBusy
      else if x.st = .empty then refuseRec s ring bs ctx csNotFound
      else
        fwDo s c.core (fun s =>
          if x.st = .retained then
            let s1 := if x.load.isSome then stopLoad s ctx v else s
            if !(pinnedTo s ctx v).isEmpty ∧ !drop then refuseRec s1 ring bs ctx csBusy
            else askDiscard (consume s1 ring) ctx v d
          else
            let s1 := stopLoad (consume s ring) ctx v
            let s2 := match x.activate with
              | some a => finishDone s1 a ctx csCancelled
              | none => s1
            finishDone s2 d ctx csOk))

/-- R558, R559: a retained slot without pinned sequences is discarded once no run names it. -/
def execSlotDiscard (ctx : Nat) (s : State) : Host.Outcome State Fault Refusal :=
  let c := s.ctx ctx
  let v := c.spare
  let named : Bool := match c.inFlight with
    | some r => r.ver == v
    | none => false
  .next (if c.bound ∧ (c.ver v).st = .retained ∧ (pinnedTo s ctx v).isEmpty ∧ !named ∧ coreRuns s c.core then
      fwDo s c.core (fun s => copyManifest (discardSlot s ctx v) ctx v)
    else s)

/-! ## A load that fails (R553) -/

/-- D2 of WEIGHT_LOAD_FAILED: the status code of the cause, or the event code of a shard's. DESIGN CHOICE. -/
def failLoad (s : State) (ctx : Nat) (v : Bool) (status shard cause : Nat) : State :=
  let x := (s.ctx ctx).ver v
  let s1 := postEvent s (some ctx) { code := 0x23, sev := 2, srcKind := 7, srcDie := (s.ctx ctx).core / 4, srcIndex := (s.ctx ctx).core,
                                     d0 := manVersion x.manifest, d1 := shard, d2 := cause }
  let s2 := discardSlot (modVer s1 ctx v (fun y => { y with load := none, loading := none })) ctx v
  match x.loading with
  | some d => finishDone s2 d ctx status
  | none => s2

/-! ## What a load takes (R548) -/

/-- The logical tiles of a PLACE 3 shard, from the tile list. R535, R541. -/
def shardTiles (s : State) (ctx : Nat) (l : LoadRec) (e : ShardEnt) : List Nat :=
  (List.range e.tileCount).map (fun i => s.num (hostKey ((s.ctx ctx).bind.hostBase + l.tileListOff + 2 * (e.tileFirst + i))) 2)

/-- Blocks of a PLACE 3 shard on each of its tiles. -/
def shardBlocks (s : State) (ctx : Nat) (l : LoadRec) (e : ShardEnt) : List (Nat × Nat × Nat) :=
  (shardTiles s ctx l e).map (fun t => (t, e.dest / 4096, ceilDiv e.size 4096))

/-- Blocks granted, where every one is FREE. R192, R548. -/
def grantBlocks (s : State) (ctx : Nat) : List (Nat × Nat × Nat) → Option State
  | [] => some s
  | b :: bs =>
    if b.1 < 192 ∧ s.phys b.1 < 200 ∧ (List.range b.2.2).all (fun i => ownerOf s (s.phys b.1) (4096 * (b.2.1 + i)) == 0) then
      grantBlocks (setOwners s (s.phys b.1) b.2.1 (ctx + 1) b.2.2) ctx bs
    else none

/-- Frames for the PLACE 0 shards: each with its device address. R548. -/
def takeShards (b : Bld) (places : Tab Nat) (i : Nat) : List ShardEnt → Bld × Tab Nat
  | [] => (b, places)
  | e :: es =>
    if e.place = 0 then
      match b.takeZero e.size with
      | (b1, a) => takeShards b1 (tset 0 places i a) (i + 1) es
    else takeShards b places (i + 1) es

/-- Step 4 of R548. -/
def takeAll (s : State) (ctx : Nat) (v : Bool) (l : LoadRec) (es : List ShardEnt) : Option State :=
  let (b, places) := takeShards { s := s } [] 0 es
  let peers := ((peerPlaces l.peerBase.toNat es).zipIdx).foldl (fun (t : Tab Nat) p => match p.1 with
    | some a => tset 0 t p.2 a
    | none => t) places
  let blocks := (es.filter (fun e => e.place == 3)).flatMap (shardBlocks s ctx l)
  if !b.ok then none
  else match grantBlocks b.s ctx blocks with
  | none => none
  | some s1 => some (modVer s1 ctx v (fun y => { y with placed := true, places := peers, frames := b.frames, millpond := blocks }))

/-- Steps 2 to 4 of R548: the signature, the checks, and what the shards need. R538, R539, R549, R553. -/
def execManifestVerified (ctx : Nat) (s : State) : Host.Outcome State Fault Refusal :=
  let c := s.ctx ctx
  let v := c.spare
  let x := c.ver v
  .next (match x.load with
    | none => s
    | some l =>
      if !c.bound ∨ x.st ≠ .staging ∨ x.placed ∨ s.mgt.restarting ∨ !coreRuns s c.core then s
      else
        let m := x.manifest
        let s1 := modVer s ctx v (fun y => { y with version := BitVec.ofNat 32 (manVersion m) })
        fwDo s1 c.core (fun s =>
          if !manSigned s m then
            failLoad (postEvent s (some ctx) { code := 0x20, sev := 2, srcKind := 0, d0 := manVersion m }) ctx v csSigInvalid 0xFFFF csSigInvalid
          else if !manifestOk s ctx l m then failLoad s ctx v csLoadFailed 0xFFFF csInvalid
          else match takeAll s ctx v l (shardEnts m) with
            | some s2 => s2
            | none => failLoad s ctx v csLoadFailed 0xFFFF csNoResource))

/-! ## Shards (R543 to R552) -/

/-- The source of the next attempt at a shard: PRIMARY first, then ALT where there is one. R543, R551. -/
def shardSource (s : State) (ctx : Nat) (l : LoadRec) (i attempts : Nat) : Nat :=
  let e := hostBytes s ctx (l.srcListOff + 32 * i) 32
  let alt := fieldAt e 24 8
  if attempts = 0 ∨ alt = 0 then fieldAt e 16 8 else alt

/-- A shard is among those fetched at once: in manifest order, up to MAX_INFLIGHT. R548. -/
def inFetch (x : Version) (l : LoadRec) (i n : Nat) : Bool :=
  decide (i < n) && !(tget {} x.shards i).verified &&
  decide (((List.range i).filter (fun j => !(tget {} x.shards j).verified)).length < l.maxInflight)

def modShard (s : State) (ctx : Nat) (v : Bool) (i : Nat) (f : Shard → Shard) : State :=
  modVer s ctx v (fun y => { y with shards := tmod {} y.shards i f })

/-- R544: a host-window source whose READY is 1 is present. -/
def execSourceReadyPoll (ctx shard : Nat) (s : State) : Host.Outcome State Fault Refusal :=
  let c := s.ctx ctx
  let v := c.spare
  let x := c.ver v
  .next (match x.load with
    | none => s
    | some l =>
      if c.bound ∧ x.placed ∧ x.st = .staging ∧ shard < manShards x.manifest ∧ coreRuns s c.core ∧
          fieldAt (hostBytes s ctx (l.srcListOff + 32 * shard) 1) 0 1 % 2 = 1 then
        modShard s ctx v shard (fun y => { y with ready := true })
      else s)

/-- A range of the shard written to a peer, 4 KiB in a packet. R548. -/
def peerWrite (s : State) (ctx core a : Nat) : List (List Byte) → State
  | [] => s
  | bs :: rest =>
    match ctxAddr s ctx a permWrite bs.length false with
    | (s1, .remote dev g off) =>
      peerWrite (sendReq s1 dev g 3 0x04 (ceilDiv bs.length 32 - 1) (gAddr dev off) 0 ((toWords bs).map (fun w => (w, (0 : W32)))) (.service core))
        ctx core (a + bs.length) rest
    | (s1, .here pl) => peerWrite (writeWords s1 pl (toWords bs)) ctx core (a + bs.length) rest
    | (s1, .flt _) => serviceFault s1 core

/-- The bytes of a shard written where it goes, the last word filled with zeros. R549. -/
def placeShard (s : State) (ctx : Nat) (x : Version) (l : LoadRec) (i : Nat) (e : ShardEnt) (bs : List Byte) : State :=
  let core := (s.ctx ctx).core
  let full := bs ++ natToBytes 0 (32 * ceilDiv bs.length 32 - bs.length)
  match e.place with
  | 0 => writeWords s (.hbm (tget 0 x.places i)) (toWords full)
  | 1 => peerWrite s ctx core (tget 0 x.places i) (chunks 4096 full (full.length / 4096) ++
      (if full.length % 4096 = 0 then [] else [full.drop (full.length / 4096 * 4096)]))
  | 3 => (shardTiles s ctx l e).foldl (fun (s : State) t => writeWords s (.mill (s.phys t) e.dest) (toWords full)) s
  | _ => s

/-- The window's page-map entries of a version whose shards have all verified. R546, R548. -/
def mapShards (b : Bld) (ctx : Nat) (v : Bool) (x : Version) (es : List ShardEnt) : Bld :=
  let c := b.s.ctx ctx
  match tget 0 b.s.memb.roots ctx with
  | 0 => b
  | r + 1 => (es.zipIdx).foldl (fun (b : Bld) e =>
      let va := windowBase v + e.1.dest
      let at_ := tget 0 x.places e.2
      match e.1.place with
      | 0 => b.map c.core r va at_ e.1.size 0 e.1.exec false
      | 1 => b.map c.core r va at_ e.1.size 1 e.1.exec false
      | 2 => b.map c.core r va (c.bind.hostBase + at_) e.1.size 2 e.1.exec false
      | _ => b) b

/-- Steps 6 and 7 of R548: the window is mapped, and the slot is verified. It is switched to at the next boundary, unless it is held.
R555, R556. -/
def verifyLoad (s : State) (ctx : Nat) (v : Bool) (l : LoadRec) : State :=
  let x := (s.ctx ctx).ver v
  let b := mapShards { s := s, frames := x.frames } ctx v x (shardEnts x.manifest)
  if !b.ok then failLoad s ctx v csLoadFailed 0xFFFF csNoResource
  else
    let s1 := modVer (invalCtx b.s ctx) ctx v (fun y => { y with
      st := .verified, frames := b.frames, load := none, loading := if l.hold then none else y.loading })
    let s2 := if l.hold then (match x.loading with
      | some d => finishDone s1 d ctx csOk
      | none => s1) else s1
    settle s2 ctx

/-- A digest that does not match: the next attempt, or the end of the load. R551, R553. -/
def shardMismatch (s : State) (ctx : Nat) (v : Bool) (i attempts : Nat) : State :=
  let s1 := postEvent s (some ctx) { code := 0x21, sev := 1, srcKind := 0, d0 := i, d1 := attempts + 1 }
  if 3 ≤ attempts then failLoad s1 ctx v csLoadFailed i 0x21
  else modShard s1 ctx v i (fun y => { y with attempts := attempts + 1 })

/-- A digest that matches. R548. -/
def shardMatch (s : State) (ctx : Nat) (v : Bool) (l : LoadRec) (i : Nat) (e : ShardEnt) (src : Nat) : State :=
  let s1 := modShard s ctx v i (fun y => { y with verified := true })
  let s2 := if e.place = 2 then modVer s1 ctx v (fun y => { y with places := tset 0 y.places i src }) else s1
  let x := (s2.ctx ctx).ver v
  if (List.range (manShards x.manifest)).all (fun j => (tget {} x.shards j).verified) then verifyLoad s2 ctx v l else s2

/-- A shard's bytes are placed as they come, and their digest decides. R548, R550. -/
def takeShard (s : State) (ctx : Nat) (v : Bool) (x : Version) (l : LoadRec) (i : Nat) (src : Nat) (bs : List Byte) : State :=
  let e := shardEnt x.manifest i
  let s1 := placeShard s ctx x l i e bs
  if (Config.sha384 bs).toNat = e.digest then shardMatch s1 ctx v l i e src else shardMismatch s1 ctx v i (tget {} x.shards i).attempts

/-- R461, R546, R550, R551: a host source is read where READY is set, and a source of this device by its own number. What another
device's source holds is not known here: free bytes. -/
def execShardFetchDone (ctx shard : Nat) (s : State) : Host.Outcome State Fault Refusal :=
  let c := s.ctx ctx
  let v := c.spare
  let x := c.ver v
  .next (match x.load with
    | none => s
    | some l =>
      let sh := tget {} x.shards shard
      let e := shardEnt x.manifest shard
      let src := shardSource s ctx l shard sh.attempts
      if !c.bound ∨ !x.placed ∨ x.st ≠ .staging ∨ !inFetch x l shard (manShards x.manifest) ∨ !coreRuns s c.core then s
      else if src < 2 ^ 63 then
        if !sh.ready then s
        else fwDo s c.core (fun s =>
          if c.bind.hostBytes < src + e.size ∨ (e.place = 2 ∧ src % 65536 ≠ 0) then failLoad s ctx v csLoadFailed shard csInvalid
          else takeShard s ctx v x l shard src (hostBytes s ctx src e.size))
      else if e.place = 2 then fwDo s c.core (fun s => failLoad s ctx v csLoadFailed shard csInvalid)
      else match resolveGlobal s ctx src permRead e.size with
        | (s1, .fenced) => s1
        | (s1, .here own off) => fwDo s1 c.core (fun s => match placeFor s own false off with
          | .here pl => (match readBytes s pl e.size with
            | (s2, bs, .ok) => takeShard s2 ctx v x l shard src bs
            | (s2, _, _) => serviceFault s2 c.core)
          | _ => s)
        | (s1, .remote _ _ _) =>
          fwDo s1 c.core (fun s =>
            let (s2, bs) := freeBytes s e.size
            takeShard s2 ctx v x l shard src bs))

/-- R552, R553: a shard has not verified within the load span of its first attempt. -/
def execShardMissing (ctx shard : Nat) (s : State) : Host.Outcome State Fault Refusal :=
  let c := s.ctx ctx
  let v := c.spare
  let x := c.ver v
  .next (match x.load with
    | none => s
    | some l =>
      if !c.bound ∨ !x.placed ∨ x.st ≠ .staging ∨ !inFetch x l shard (manShards x.manifest) ∨ s.mgt.restarting ∨ !coreRuns s c.core then s
      else fwDo s c.core (fun s =>
        failLoad (postEvent s (some ctx) { code := 0x22, sev := 2, srcKind := 0, d0 := shard }) ctx v csLoadFailed shard 0x22))

end Sys2Proof.Machine
end

