-- ==== Sys2Proof/Machine/Boot.lean ====
section
/-! DEFINITION. Local bring-up and device reset (18, R674 to R680; 19, R702 to R707, R713), the drained update (R683, R684), and the
restart of the management controller (R663, R664, R685, R686). -/

namespace Sys2Proof.Machine
open Sys2Proof

/-! ## Device reset (R680, R702) -/

/-- What a physical tile keeps over a reset: its spare rows in use. R336, R680. -/
def keptTile (t : Tile) : Tile := { mpd := { repairs := t.mpd.repairs } }

/-- What a stack keeps: its spared channels. R680. -/
def keptStack (t : Stack) : Stack := { spared := t.spared, spareMember := t.spareMember }

/-- What Fantail keeps of a tile: its fuses and its withdrawals. R592, R680. -/
def keptFan (t : FanTile) : FanTile := { vtab := t.vtab, fbRate := t.fbRate, fbMv := t.fbMv }

def keptTab [DecidableEq β] (d : β) (f : α → β) (t : Tab α) : Tab β := t.foldl (fun r x => tset d r x.1 (f x.2)) []

/-- Fuses and flash of the management controller. R655, R680. -/
def keptMgt (m : Mgt) : Mgt :=
  { m with
    recovery := false, replacing := false, svcHalts := 0, noncesMbox := [], noncesI3c := [], mboxBusy := false, mboxDone := false,
    req := [], mboxRsp := none, i3cRsp := none, restarting := false, restartDue := false, openAudit := [] }

/-- The device after a fall of PWR_GOOD. Memory keeps its bytes until bring-up zeroes them; host memory is not the device's. R680. -/
def resetDevice (s : State) : State :=
  { State.reset with
    mem := s.mem.filter (fun c => decide (c.1 < 2 ^ 68))
    chk := s.chk
    tiles := keptTab {} keptTile s.tiles
    fuseLmap := s.fuseLmap
    memb := { stks := keptTab {} keptStack s.memb.stks, retired := s.memb.retired, withheld := s.memb.retired }
    hdr := { keeper := { slotMask := s.hdr.keeper.slotMask, topology := s.hdr.keeper.topology } }
    fan := { gradeH := s.fan.gradeH, levelOp := if s.fan.gradeH then 15 else 11, cap := s.fan.capMax, capMin := s.fan.capMin,
             capMax := s.fan.capMax, tiles := keptTab {} keptFan s.fan.tiles }
    mgt := keptMgt s.mgt
    free := s.free
    pending := s.pending }

/-- R702: a low pulse shorter than 1 µs is ignored. -/
def execPwrGoodFall (ns : Nat) (s : State) : Host.Outcome State Fault Refusal :=
  .next (if s.boot.pwrGood ∧ 1000 ≤ ns then resetDevice s else s)

/-! ## Images of the management controller (R661, R663, R664, R685) -/

/-- A boot of the controller: it runs the image on trial, until three boots in a row have not reached service. R661, R663. -/
def bootMgt (s : State) : State :=
  match slotWith s 1 .trial with
  | none => s
  | some t => if 3 ≤ (fwSlot s t).failedBoots then failTrial s 1 t else modFwSlot s t (fun x => { x with failedBoots := x.failedBoots + 1 })

/-- The controller reaches service: an image on trial is ACTIVE, and its approval is done. R661, R686. -/
def reachService (s : State) : State :=
  refreshAlert (match slotWith s 1 .trial with
    | none => s
    | some t => auditEnd (modFwSlot s t (fun x => { x with st := .active, failedBoots := 0 })) opcFwApprove t resDone)

/-- Every outstanding nonce is withdrawn. R686. -/
def dropNonces (s : State) : State := { s with mgt := { s.mgt with noncesMbox := [], noncesI3c := [] } }

/-- R664, R685, R686: into an image that has been approved, again where a boot has failed, or out of the ROM after a good FW_STAGE. -/
def execMgtRestart (s : State) : Host.Outcome State Fault Refusal :=
  .next (if !s.boot.pwrGood ∨ !(s.mgt.restartDue || s.mgt.restarting) then s
    else
      let s1 := resetGroup (dropNonces { s with mgt := { s.mgt with restartDue := false } }) xMgt
      if s.mgt.recovery then
        { s1 with
          mgt := { s1.mgt with recovery := false }
          boot := { s1.boot with step := 0, stopped := false, resumed := true, cause := 0 } }
      else bootMgt { s1 with mgt := { s1.mgt with restarting := true } })

/-- R661, R686. -/
def execMgtReachesService (s : State) : Host.Outcome State Fault Refusal :=
  .next (if s.mgt.restarting then reachService { s with mgt := { s.mgt with restarting := false } } else s)

/-! ## Failures of bring-up (R664, R677, R704) -/

/-- FAULT_N and its LED, and MGT_BOOT. R677, R678, R704. -/
def failBoot (s : State) (cause ms : Nat) : State :=
  { s with
    pins := { s.pins with faultN := false, ledFlt := true }
    boot := { s.boot with stopped := true, cause := cause, ms := min ms 16383 }
    mgt := { s.mgt with recovery := s.mgt.recovery || cause == 1 } }

/-- A physical tile that cannot serve: OFF, and no spare. R677. -/
def failTile (s : State) (err : Bool) (p : Nat) : State :=
  if 200 ≤ p ∨ (s.tile p).retired then s
  else
    let s1 := s.modTile p (fun t => { t with retired := true, unit := { t.unit with st := .off, err := err } })
    { (s1.modFanTile p (fun t => { t with setpoint := 0, going := 0, target := 0 })) with
      boot := { s1.boot with tilesFailed := s1.boot.tilesFailed + 1 } }

/-- A logical tile whose physical tile has failed takes an unused spare of its die; with none left it stays OFF. R335, R677. -/
def backTile (s : State) (l : Nat) : State :=
  if s.phys l < 200 ∧ !(s.tile (s.phys l)).retired then s
  else match unusedSpare s (l / 48) with
    | some q =>
      let s1 := s.setPhys l q
      auditDevice { s1 with boot := { s1.boot with sparesEngaged := s1.boot.sparesEngaged + 1 } } opcTileRetire resDone q 0
    | none => (s.setPhys l 200).modLTile l (fun x => { x with st := .off })

/-- The tiles that a step finds failed are replaced, logical tiles in ascending order. R677. -/
def failTiles (s : State) (err : Bool) (ps : List Nat) : State := (List.range 192).foldl backTile (ps.foldl (fun s p => failTile s err p) s)

/-! ## The steps (R674) -/

/-- Bounds of the steps, in milliseconds from PWR_GOOD. R674. -/
def stepBound (n : Nat) : Nat := nth 9000 [0, 200, 300, 400, 500, 600, 4000, 6000, 7000, 8000] n

/-- A sensor reads 115 °C or more. R713. -/
def tooHot (s : State) : Bool := s.fan.tiles.any (fun t => decide (920 ≤ t.2.tj))

/-- Regulators and rails stand at their targets. R598, R599. -/
def settleRegs (s : State) : State :=
  let s1 := (List.range 200).foldl (fun (s : State) p => s.modFanTile p (fun t => { t with going := t.target, setpoint := t.target })) s
  { s1 with fan := { s1.fan with
      vin := tsetList 800 s1.fan.vin 0 ((List.range 4).map (fun d => vinWant s1 d))
      vinTarget := tsetList 800 s1.fan.vinTarget 0 ((List.range 4).map (fun d => vinWant s1 d)) } }

/-- Step 3: the rails at the bring-up setpoint, every regulator on, and the level held at entry 6. R598, R674, R675. -/
def raiseRails (s : State) : State :=
  let s1 := { s with fan := { s.fan with level := 6, levelCap := s.fan.levelOp, levelBrake := s.fan.levelOp, levelBoot := 6 } }
  settleRegs ((List.range 200).foldl (fun (s : State) p =>
    s.modFanTile p (fun t => { t with target := if (s.tile p).retired then 0 else t.mv (tileEntry s t 6) + s.fan.droop })) s1)

/-- Step 4: every tile that has not failed is ON with its banks awake, at its withdrawn or its tabled voltage. R592, R634, R674. -/
def tilesUp (s : State) : State :=
  settleRegs (applyLevel ((List.range 200).foldl (fun (s : State) p =>
    if (s.tile p).retired then s else s.modTile p (fun t => { t with unit := { t.unit with st := .on } })) s))

/-- Step 5: the destructive march of every tile. Failed rows take spare rows, and a tile with too few of them fails. R331, R334, R335. -/
def marchAll (s : State) (fails : List (Nat × List RowFail)) : State :=
  let inMill (k : Nat) : Bool := decide (millKey 0 0 ≤ k) && decide (k < millKey 200 0)
  let s1 := { s with
    mem := s.mem.filter (fun c => !inMill c.1)
    chk := s.chk.filter (fun c => !inMill (32 * c.1))
    owner := [] }
  let s2 := (List.range 200).foldl (fun (s : State) p =>
    if (s.tile p).retired then s else s.modMpd p (fun m => { m with marchSt := .pass, marchPreserving := false, marchBanks := 7, writeback := [] })) s1
  let s3 := fails.foldl (fun (s : State) f =>
    if 200 ≤ f.1 ∨ (s.tile f.1).retired then s
    else
      let (m, ok) := repairRows (s.tile f.1).mpd f.2
      let s4 := s.modMpd f.1 (fun _ => { m with marchSt := if !ok then .fail else if m.rowsRepaired = 0 then .pass else .repaired })
      if ok then s4 else failTile s4 false f.1) s2
  (List.range 192).foldl backTile s3

/-- A frame that the HBM test finds is retired without an event. R438, R441, R677. -/
def bootRetire (s : State) (f : Nat) : State :=
  if hbmEnd ≤ f * 65536 ∨ f ∈ s.memb.retired ∨ 4096 ≤ retiredOf s (hbmDie (f * 65536)) then s
  else
    let r := s.memb.retired ++ [f]
    auditDevice { s with memb := { s.memb with retired := r, withheld := r }
                         boot := { s.boot with framesRetired := s.boot.framesRetired + 1 } } 0x0052 resDone f 0

/-- A pseudo-channel that the HBM test finds is spared without a copy. R442, R445, R677. -/
def bootSpare (s : State) (stk pc : Nat) : State :=
  if 12 ≤ stk ∨ 64 ≤ pc then s
  else if (s.stack stk).spared.getLsbD (pc / 4) then s.modStack stk (fun t => { t with degraded := true })
  else
    let s1 := s.modStack stk (fun t => { t with spared := t.spared ||| (1 <<< (pc / 4)), spareMember := tset 0 t.spareMember (pc / 4) (pc % 4) })
    auditDevice { s1 with boot := { s1.boot with pcsSpared := s1.boot.pcsSpared + 1 } } 0x0053 resDone (64 * stk + pc) 0

/-- Step 7: the HBM test leaves every word zero. R676, R677. -/
def testHbm (s : State) (frames : List Nat) (pcs : List (Nat × Nat)) : State :=
  let s1 := { s with
    mem := s.mem.filter (fun c => decide (hbmEnd ≤ c.1))
    chk := s.chk.filter (fun c => decide (hbmEnd ≤ 32 * c.1)) }
  pcs.foldl (fun s p => bootSpare s p.1 p.2) (frames.foldl bootRetire s1)

/-- Step 8: every Miller core runs the service image. R661, R674. -/
def startCores (s : State) : State :=
  checkTrial ((List.range 16).foldl (fun (s : State) c => startCore (s.modMiller c (fun k => { k with unit := { k.unit with st := .on, err := false } })) c) s)

/-- Device address of firmware's internal ring `r`: 128 KiB each, at the end of HBM. -/
def fwRingBase (r : Nat) : Nat := hbmEnd - 0x400000 + 0x20000 * r

/-- Firmware's own rings: run queues 0 to 3, halt rings 4 to 7, and one run completion ring for each core. R188, R231, R375, R567. -/
def fwRing (r : Nat) : Ring :=
  { kind := .internal, st := .on, en := true, entries := 1024, entryUnits := if r < 4 then 4 else if r < 8 then 1 else 2,
    base := BitVec.ofNat 64 (fwRingBase r) }

/-- Step 9: the Miller cores set their rings, and enable the engines and lanes. R674. -/
def openService (s : State) : State :=
  let s1 := (List.range 24).foldl (fun (s : State) r => s.modRing r (fun _ => fwRing r)) { s with hif := { s.hif with fwRings := 4096 } }
  let s2 := (List.range 4).foldl (fun (s : State) d => (s.modGov d (fun g => { g with runqRing := d })).modMrc d (fun m => { m with haltRing := 4 + d })) s1
  let s3 := (List.range 48).foldl (fun (s : State) e => s.modEngine e (fun x => { x with unit := { x.unit with st := .on } })) s2
  (List.range 32).foldl (fun (s : State) n => s.modLane n (fun x => { x with unit := { x.unit with st := .on } })) s3

/-- Step 10: the ports are enabled, and READY is driven. R456, R674, R675, R678. -/
def driveReady (s : State) (ms : Nat) : State :=
  let s1 := (List.range 16).foldl (fun (s : State) p => requestUnit s (.port p) true) s
  applyLevel { s1 with
    hdr := { s1.hdr with fabSt := if s1.hdr.fabSt = .down then .training else s1.hdr.fabSt }
    pins := { s1.pins with ready := true }
    boot := { s1.boot with ms := min ms 16383 } }

/-- A step is done. Before step 3 the trip comparator looks at the sensors. R674, R713. -/
def stepDone (s : State) (n : Nat) : State :=
  { s with
    boot := { s.boot with step := n }
    pins := { s.pins with thermtripN := s.pins.thermtripN && !(n == 2 && tooHot s) } }

/-- What a step of bring-up does with its outcome; none where the step has no such outcome. R674, R677. -/
def bootStep (s : State) (n : Nat) (o : BootOutcome) (ms : Nat) : Option State :=
  match n, o with
  | 1, .good => some (stepDone s 1)
  | 1, .imageBad => some (failBoot s 1 ms)
  | 2, .good => some (stepDone (reachService s) 2)
  | 3, .good => if s.pins.thermtripN then some (stepDone (raiseRails s) 3) else none
  | 3, .tilesFailed ps => if s.pins.thermtripN then some (stepDone (raiseRails (failTiles s true ps)) 3) else none
  | 3, .vinUnsettled => some (failBoot s 2 ms)
  | 4, .good => some (stepDone (tilesUp s) 4)
  | 4, .tilesFailed ps => some (stepDone (tilesUp (failTiles s true ps)) 4)
  | 5, .good => some (stepDone (marchAll s []) 5)
  | 5, .marched fs => some (stepDone (marchAll s fs) 5)
  | 6, .good => some (stepDone { s with memb := { s.memb with withheld := s.memb.retired } } 6)
  | 6, .stackFail => some (failBoot s 3 ms)
  | 7, .good => some (stepDone (testHbm s [] []) 7)
  | 7, .hbmFail fs ps => some (stepDone (testHbm s fs ps) 7)
  | 8, .good => some (if (coreImage s).isSome then stepDone (startCores s) 8 else failBoot s 4 ms)
  | 8, .imageBad => some (failBoot s 4 ms)
  | 9, .good => some (stepDone (openService s) 9)
  | 10, .good => some (stepDone (driveReady s ms) 10)
  | _, _ => none

/-- R674, R675, R677: the next step ends within its bound. -/
def execBringupStepDone (o : BootOutcome) (ms : Nat) (s : State) : Host.Outcome State Fault Refusal :=
  let n := s.boot.step + 1
  .next (if !s.boot.pwrGood ∨ s.boot.stopped ∨ 10 < n ∨ (stepBound n < ms ∧ !s.boot.resumed) then s
    else (bootStep s n o ms).getD s)

/-- R677: the next step has not ended within its bound. -/
def execBringupBoundMissed (ms : Nat) (s : State) : Host.Outcome State Fault Refusal :=
  let n := s.boot.step + 1
  .next (if s.boot.pwrGood ∧ !s.boot.stopped ∧ n ≤ 10 ∧ stepBound n < ms ∧ !s.boot.resumed then failBoot s 5 ms else s)

/-- R674, R702, R707: bring-up starts, and the straps are sampled. -/
def execPowerGoodRise (slot : BitVec 5) (rkeep hkeep : BitVec 2) (s : State) : Host.Outcome State Fault Refusal :=
  .next (if s.boot.pwrGood then s
    else bootMgt { s with
      boot := { pwrGood := true }
      hdr := { s.hdr with slot := slot, rkeep := rkeep, hkeep := hkeep } })

/-! ## The drained update (R683, R684) -/

/-- The new image in every core at once, with an entry for each, and steps 8 and 9 again. R684. -/
def execDrainedUpdate (s : State) : Host.Outcome State Fault Refusal :=
  .next (if !s.boot.drainUpd ∨ s.ctxs.any (fun c => c.2.bound) ∨ s.mgt.restarting then s
    else match slotWith s 2 .trial with
    | none => s
    | some t =>
      let s1 := setFwSt { s with boot := { s.boot with drainUpd := false }
                                 mgt := { s.mgt with replacing := false, svcHalts := 0 } } t .active
      let s2 := (List.range 16).foldl (fun (s : State) c => startCore ((turnOff s (.core c)).modMiller c (fun k =>
        { k with unit := { k.unit with st := .on, err := false } })) c) s1
      let s3 := (List.range 16).foldl (fun (s : State) c => auditDevice s opcFwApprove resDone c 0) (openService s2)
      auditEnd s3 opcFwApprove t resDone)

end Sys2Proof.Machine
end

