-- ==== Sys2Proof/Machine/I3cBus.lean ====
section
/-! DEFINITION. The I3C target (17, R637 to R643): dynamic addresses, common command codes, in-band interrupts, and private reads. -/

namespace Sys2Proof.Machine
open Sys2Proof

/-- The management controller has joined the bus: step 2 of bring-up is done, or the ROM waits for an image. R641, R664, R674. -/
def onBus (s : State) : Bool := s.boot.pwrGood && (decide (2 ≤ s.boot.step) || s.mgt.recovery)

/-- The target answers commands sent to its address. -/
def addressed (s : State) : Bool := onBus s && s.i3c.addr.isSome

/-- The answer to the last transfer; none is a NACK. -/
def setAnswer (s : State) (a : Option (List Byte)) : State := { s with i3c := { s.i3c with answer := a } }

/-- A read command: its answer, or a NACK. R638. -/
def cccRead (s : State) (bs : List Byte) : State := setAnswer s (if addressed s then some bs else none)

/-! ## Addresses (R638, R641) -/

/-- A device without an address takes the one that its turn gives it. R639, R641. -/
def execEntdaa (addr : BitVec 7) (s : State) : Host.Outcome State Fault Refusal :=
  .next (if onBus s ∧ s.i3c.addr = none then { s with i3c := { s.i3c with addr := some addr, hotJoined := false } } else s)

/-- R638, R641. -/
def execRstdaa (s : State) : Host.Outcome State Fault Refusal :=
  .next (if onBus s then { s with i3c := { s.i3c with addr := none } } else s)

/-- R638, R641. -/
def execSetnewda (addr : BitVec 7) (s : State) : Host.Outcome State Fault Refusal :=
  .next (if addressed s then { s with i3c := { s.i3c with addr := some addr } } else s)

/-- R641: a device that assignment has passed by asks to join. -/
def execHotJoin (s : State) : Host.Outcome State Fault Refusal :=
  .next (if onBus s ∧ s.i3c.addr = none then { s with i3c := { s.i3c with hotJoined := true } } else s)

/-! ## Identity and limits (R639, R640) -/

/-- Numbers of several bytes are little-endian on the wire. R2, R639. -/
def execGetpid (s : State) : Host.Outcome State Fault Refusal := .next (cccRead s (natToBytes (ownPid s).toNat 6))

/-- R640. -/
def execGetbcr (s : State) : Host.Outcome State Fault Refusal := .next (cccRead s [0x06])

/-- R640. -/
def execGetdcr (s : State) : Host.Outcome State Fault Refusal := .next (cccRead s [0x00])

/-- R638: the status bytes are the I3C standard's. -/
def execGetstatus (s : State) : Host.Outcome State Fault Refusal :=
  .next (let (s1, i) := s.takeFree
         cccRead s1 (Config.i3cStatus i))

/-- A limit may only be lowered from 4,096 bytes. R640. -/
def execSetmwl (n : Nat) (s : State) : Host.Outcome State Fault Refusal :=
  .next (if addressed s then { s with i3c := { s.i3c with mwl := min n 4096 } } else s)

/-- R640. -/
def execGetmwl (s : State) : Host.Outcome State Fault Refusal := .next (cccRead s (natToBytes s.i3c.mwl 2))

/-- A limit may only be lowered from 4,096 bytes. R640. -/
def execSetmrl (n : Nat) (s : State) : Host.Outcome State Fault Refusal :=
  .next (if addressed s then { s with i3c := { s.i3c with mrl := min n 4096 } } else s)

/-- R640. -/
def execGetmrl (s : State) : Host.Outcome State Fault Refusal := .next (cccRead s (natToBytes s.i3c.mrl 2))

/-! ## Events and resets (R638, R642) -/

/-- R642. -/
def execEnec (s : State) : Host.Outcome State Fault Refusal :=
  .next (if onBus s then { s with i3c := { s.i3c with ibi := true } } else s)

/-- R642. -/
def execDisec (s : State) : Host.Outcome State Fault Refusal :=
  .next (if onBus s then { s with i3c := { s.i3c with ibi := false } } else s)

/-- R638: the reset action is held for the next target reset pattern of the I3C standard. -/
def execRstact (action : Byte) (s : State) : Host.Outcome State Fault Refusal :=
  .next (if addressed s then { s with i3c := { s.i3c with rstact := action } } else s)

/-! ## Private reads (R643, R686) -/

/-- R643: the pending response frame, as far as the read limit; a NACK while none is pending, or while the controller restarts. -/
def execI3cPrivateRead (s : State) : Host.Outcome State Fault Refusal :=
  .next (if !addressed s || s.mgt.restarting then setAnswer s none
    else match s.mgt.i3cRsp with
    | none => setAnswer s none
    | some r => setAnswer { s with mgt := { s.mgt with i3cRsp := none } } (some (r.bytes.take s.i3c.mrl)))

end Sys2Proof.Machine
end

