-- ==== Sys2Proof/Machine/Mgmt.lean ====
section
/-! DEFINITION. Command frames of the management controller (17, R644 to R651): transports, credentials, nonces, and the audit record
around a command (R670, R671). -/

namespace Sys2Proof.Machine
open Sys2Proof

/-! ## Status codes (R646) -/

def msOk : Nat := 0
def msRole : Nat := 1
def msCred : Nat := 2
def msNonce : Nat := 3
def msInvalid : Nat := 4
def msBusy : Nat := 5
def msState : Nat := 6
def msFull : Nat := 7
def msNotFound : Nat := 8

/-! ## Frames (R644, R645) -/

/-- The 64-byte header of a request. R644. -/
def frameHead (opc : Nat) (f : Frame) : List Byte :=
  natToBytes opc 2 ++ natToBytes f.role 1 ++ natToBytes (bit f.signed 0) 1 ++ natToBytes f.payload.length 4 ++
  natToBytes f.nonce.toNat 8 ++ natToBytes f.keyFpr.toNat 16 ++ natToBytes 0 32

/-- What a signature covers. R645. -/
def signedBytes (s : State) (opc : Nat) (f : Frame) : List Byte := natToBytes s.mgt.serial.toNat 16 ++ frameHead opc f ++ f.payload

/-- Bytes of a request frame. R644. -/
def frameLen (f : Frame) : Nat := 64 + f.payload.length + if f.signed then 96 else 0

/-- Byte `o` of MGT_REQ. -/
def reqByte (s : State) (o : Nat) : Byte := BitVec.ofNat 8 (bitsOf (tget 0 s.mgt.req (o / 4)).toNat (8 * (o % 4)) 8)

def reqBytes (s : State) (o n : Nat) : List Byte := (List.range n).map (fun i => reqByte s (o + i))

/-- MGT_REQ holds a frame; reserved bytes are not looked at. R644. -/
def mailboxHolds (s : State) (opc : Nat) (f : Frame) : Bool :=
  fieldAt (reqBytes s 0 2) 0 2 == opc && (reqByte s 2).toNat == f.role && (reqByte s 3).getLsbD 0 == f.signed &&
  fieldAt (reqBytes s 4 4) 0 4 == f.payload.length && field64 (reqBytes s 8 8) 0 == f.nonce &&
  fieldAt (reqBytes s 16 16) 0 16 == f.keyFpr.toNat && reqBytes s 64 f.payload.length == f.payload &&
  (!f.signed || reqBytes s (64 + f.payload.length) 96 == f.sig)

/-- The controller serves frames. R663, R664, R674, R686. -/
def mgtServes (s : State) : Bool := onBus s && !s.mgt.restarting

/-- A frame reaches the controller: sent with GO, or written to the device's I3C address within the write limit. R640, R643, R686. -/
def arrives (s : State) (t : Transport) (opc : Nat) (f : Frame) : Bool :=
  match t with
  | .mailbox => mgtServes s && s.mgt.mboxBusy && !stopped s xPcie && !stopped s xMgt && mailboxHolds s opc f
  | .i3c => mgtServes s && s.i3c.addr.isSome && decide (frameLen f ≤ s.i3c.mwl)

/-! ## Nonces (R650) -/

def nonces (s : State) : Transport → List W64
  | .mailbox => s.mgt.noncesMbox
  | .i3c => s.mgt.noncesI3c

def setNonces (s : State) (t : Transport) (ns : List W64) : State :=
  match t with
  | .mailbox => { s with mgt := { s.mgt with noncesMbox := ns } }
  | .i3c => { s with mgt := { s.mgt with noncesI3c := ns } }

/-- The frame that names a nonce ends it. R650. -/
def useNonce (s : State) (t : Transport) (f : Frame) : State :=
  if f.signed then setNonces s t ((nonces s t).filter (fun n => n != f.nonce)) else s

/-- A fresh random value. R650, R667. -/
def freshNonce (s : State) : State × W64 :=
  ({ s with mgt := { s.mgt with nonceCount := s.mgt.nonceCount + 1 } }, Config.nonce s.mgt.nonceCount)

/-! ## Credentials (R648, R649, R651) -/

/-- First 16 bytes of the SHA-384 digest of a key. R644. -/
def fprOf (key : List Byte) : BitVec 128 := (Config.sha384 key).setWidth 128

/-- Maker keys that have not been revoked, by their digests. R648. -/
def makers (s : State) : List (BitVec 384) :=
  ((s.mgt.makerKeys.zipIdx).filter (fun k => !s.mgt.makerRevoked.testBit k.2)).map (fun k => k.1)

/-- The key of a role that a fingerprint names. Of a maker key the device holds the digest, which stands for the key. R648, R649. -/
def keyOf (s : State) (role : Nat) (fpr : BitVec 128) : Option (List Byte) :=
  match role with
  | 0 => s.mgt.operatorKeys.find? (fun k => fprOf k == fpr)
  | 1 => s.mgt.installerKey.toList.find? (fun k => fprOf k == fpr)
  | 2 => ((makers s).find? (fun d => d.setWidth 128 == fpr)).map (fun d => natToBytes d.toNat 48)
  | _ => none

/-- The checks of a signed frame, in order. R649. -/
def signedStatus (s : State) (t : Transport) (opc : Nat) (roles : List Nat) (f : Frame) : Nat :=
  if f.role ∉ roles then msRole
  else match keyOf s f.role f.keyFpr with
  | none => msCred
  | some k =>
    if f.nonce ∉ nonces s t then msNonce
    else if Config.ecdsaOk k (signedBytes s opc f) f.sig then msOk else msCred

/-- The checks of an unsigned frame. R651. -/
def unsignedStatus (s : State) (t : Transport) (opc : Nat) (roles : List Nat) (f : Frame) : Nat :=
  if opc = 0x0001 ∨ opc = 0x0002 then msOk
  else if (t = .mailbox ∧ f.role = 0) ∨ (opc = 0x003A ∧ t = .i3c ∧ s.mgt.installerKey = none) then
    (if f.role ∈ roles then msOk else msRole)
  else msCred

/-- In recovery only four commands are accepted. R664. -/
def recoveryBars (s : State) (opc : Nat) : Bool :=
  s.mgt.recovery && !(opc == 0x0001 || opc == 0x0002 || opc == 0x0040 || opc == 0x0043)

/-- What a frame is answered before its command's own checks. R649, R651, R664. -/
def frameStatus (s : State) (t : Transport) (opc : Nat) (roles : List Nat) (f : Frame) : Nat :=
  let c := if f.signed then signedStatus s t opc roles f else unsignedStatus s t opc roles f
  if c ≠ msOk then c
  else if recoveryBars s opc then msState
  else if 3936 < f.payload.length then msInvalid else msOk

/-! ## Responses and the audit record (R642, R646, R670, R671) -/

/-- The response is ready on the transport of its request. R642, R646. -/
def answer (s : State) (t : Transport) (r : Resp) : State :=
  match t with
  | .mailbox => { s with mgt := { s.mgt with mboxRsp := some r, mboxBusy := false, mboxDone := true } }
  | .i3c => raiseIbi { s with mgt := { s.mgt with i3cRsp := some r } } 0x01

/-- What a command's effect leaves: the state, the data of the response, whether it succeeded, and DETAIL where it gives one. -/
structure Act where
  s : State
  data : List Byte := []
  good : Bool := true
  detail : Option Nat := none

/-- A command as the table of R652 gives it: its code and the roles that may issue it. -/
structure MgtRow where
  opc : Nat
  roles : List Nat
deriving DecidableEq, Repr

/-- ROLE of an audit entry, with the bit of its transport. R669. -/
def auditRole (f : Frame) : Nat := f.role % 4
def overI3c (t : Transport) : Bool := t == .i3c
def auditKey (f : Frame) : BitVec 128 := if f.signed then f.keyFpr else 0

/-- A command that the audit record does not hold. R647, R649, R652. -/
def servePlain (s : State) (t : Transport) (f : Frame) (row : MgtRow) (check : State → Nat) (act : State → Act) : State :=
  if !arrives s t row.opc f then s
  else
    let s1 := useNonce s t f
    let c := frameStatus s t row.opc row.roles f
    let st := if c = msOk then check s1 else c
    if st ≠ msOk then answer s1 t { opc := row.opc, status := st, auditSeq := none, data := [] }
    else
      let a := act s1
      answer a.s t { opc := row.opc, status := msOk, auditSeq := none, data := a.data }

/-- An audited command. A refused one has one entry; an accepted one has ACCEPTED before its effect and its outcome after it, which
follows with the effect's end where `later` says so. R670, R671. -/
def serveAudited (s : State) (t : Transport) (f : Frame) (row : MgtRow) (target detail : Nat) (later : Bool) (check : State → Nat)
    (act : State → Act) : State :=
  if !arrives s t row.opc f then s
  else if auditFull s then answer s t { opc := row.opc, status := msFull, auditSeq := none, data := [] }
  else
    let s1 := useNonce s t f
    let c := frameStatus s t row.opc row.roles f
    let st := if c = msOk then check s1 else c
    let seq := s1.mgt.auditNext
    if st ≠ msOk then
      answer (auditAppend s1 (auditRole f) (overI3c t) row.opc (0x80 + st) target (auditKey f) detail) t
        { opc := row.opc, status := st, auditSeq := some seq, data := [] }
    else
      let s2 := auditAppend s1 (auditRole f) (overI3c t) row.opc resAccepted target (auditKey f) detail
      let s3 := if later then { s2 with mgt := { s2.mgt with
        openAudit := s2.mgt.openAudit ++ [(row.opc, target, auditRole f + (if overI3c t then 4 else 0), auditKey f)] } } else s2
      let a := act s3
      let s4 := if later then a.s
        else auditAppend a.s (auditRole f) (overI3c t) row.opc (if a.good then resDone else resFailed) target (auditKey f) (a.detail.getD detail)
      answer s4 t { opc := row.opc, status := msOk, auditSeq := some seq, data := a.data }

/-! ## Payloads (DESIGN CHOICE: consecutive little-endian words) -/

/-- Word `i` of a payload. -/
def payWord (f : Frame) (i : Nat) : Nat := fieldAt f.payload (4 * i) 4

/-- The payload has a length, or the frame is OPERAND_INVALID. -/
def sized (f : Frame) (n : Nat) (rest : Nat) : Nat := if f.payload.length = n then rest else msInvalid

/-- The first status that is not OK. -/
def firstOf : List Nat → Nat
  | [] => msOk
  | c :: cs => if c = msOk then firstOf cs else c

/-- A condition, or a status. -/
def need (b : Bool) (st : Nat) : Nat := if b then msOk else st

/-- A context is bound. -/
def anyBound (s : State) : Bool := s.ctxs.any (fun c => c.2.bound)

end Sys2Proof.Machine
end

