-- ==== Sys2Proof/Machine/MgmtCmds.lean ====
section
/-! DEFINITION. The management commands that read, and those that set keys, caps, tables and topology (17, R652, R653, R665 to R668,
R671 to R673; 15, R592, R602; 18, R689). -/

namespace Sys2Proof.Machine
open Sys2Proof

def roleO : Nat := 0
def roleI : Nat := 1
def roleM : Nat := 2

/-! ## Identity and nonces (R650, R652) -/

/-- R652. -/
def execGetInfo (t : Transport) (f : Frame) (s : State) : Host.Outcome State Fault Refusal :=
  .next (servePlain s t f { opc := 0x0001, roles := [roleO, roleI, roleM] } (fun _ => msOk) (fun s =>
    { s := s
      data := (Config.infoBytes s.mgt.serial (ownPid s) s.fan.gradeH ((List.range 4).map (fun i => (fwSlot s i).version))
        s.mgt.installerKey.isSome s.mgt.rtv).take 4064 }))

/-- A ninth nonce withdraws the oldest. R650. -/
def execGetNonce (t : Transport) (f : Frame) (s : State) : Host.Outcome State Fault Refusal :=
  .next (servePlain s t f { opc := 0x0002, roles := [roleO, roleI, roleM] } (fun _ => msOk) (fun s =>
    let (s1, n) := freshNonce s
    { s := setNonces s1 t ((nonces s1 t).drop ((nonces s1 t).length - 7) ++ [n])
      data := natToBytes n.toNat 8 }))

/-- R650: after 60 s. -/
def execNonceExpiry (t : Transport) (nonce : W64) (s : State) : Host.Outcome State Fault Refusal :=
  .next (setNonces s t ((nonces s t).filter (fun n => n != nonce)))

/-! ## The audit record (R671 to R673) -/

/-- Entries from a sequence number on. -/
def entriesFrom (s : State) (n : Nat) : List AuditEnt := s.mgt.audit.filter (fun e => decide (n ≤ e.seq))

/-- The entry of a sequence number is held. -/
def hasEntry (s : State) (n : Nat) : Bool := s.mgt.audit.any (fun e => e.seq == n)

/-- R672. -/
def execAuditRead (t : Transport) (f : Frame) (s : State) : Host.Outcome State Fault Refusal :=
  .next (servePlain s t f { opc := 0x0003, roles := [roleO, roleI, roleM] }
    (fun s => sized f 8 (need (hasEntry s (fieldAt f.payload 0 8)) msNotFound))
    (fun s => { s := s, data := ((entriesFrom s (fieldAt f.payload 0 8)).take 31).flatMap AuditEnt.bytes }))

/-- The last SEQ, the digest of its entry, and the identity key's signature over both, the serial number and the nonce. R673. -/
def auditHead (s : State) (f : Frame) : List Byte :=
  match s.mgt.audit.getLast? with
  | none => []
  | some e =>
    let h := natToBytes e.seq 8 ++ natToBytes (Config.sha384 e.bytes).toNat 48
    h ++ Config.identitySign (h ++ natToBytes s.mgt.serial.toNat 16 ++ natToBytes f.nonce.toNat 8)

/-- R673. -/
def execAuditHead (t : Transport) (f : Frame) (s : State) : Host.Outcome State Fault Refusal :=
  .next (servePlain s t f { opc := 0x0004, roles := [roleO, roleI, roleM] }
    (fun s => sized f 0 (need (!s.mgt.audit.isEmpty) msNotFound)) (fun s => { s := s, data := auditHead s f }))

/-- Entries up to a SEQ are archived. R652, R671. -/
def execAuditAck (t : Transport) (f : Frame) (s : State) : Host.Outcome State Fault Refusal :=
  let n := fieldAt f.payload 0 8
  .next (serveAudited s t f { opc := 0x0005, roles := [roleI] } n 0 false
    (fun s => sized f 8 (need (decide (n < s.mgt.auditNext)) msNotFound))
    (fun s => { s := refreshAlert { s with mgt := { s.mgt with auditAcked := max s.mgt.auditAcked (n + 1) } } }))

/-! ## Power and groups (R602, R652, R653) -/

/-- R602. -/
def execSetCap (t : Transport) (f : Frame) (s : State) : Host.Outcome State Fault Refusal :=
  let v := payWord f 0
  .next (serveAudited s t f { opc := 0x0010, roles := [roleO] } 0 v false
    (fun s => sized f 4 (need (within s.fan.capMin v s.fan.capMax) msInvalid))
    (fun s => { s := { s with fan := { s.fan with cap := v } } }))

/-- R602, R653: CAP is clamped into the new range, and DETAIL records it. -/
def execSetCapRange (t : Transport) (f : Frame) (s : State) : Host.Outcome State Fault Refusal :=
  let lo := payWord f 0
  let hi := payWord f 1
  let cap := max lo (min hi s.fan.cap)
  .next (serveAudited s t f { opc := 0x0011, roles := [roleI] } 0 (lo + hi * 2 ^ 32 + cap * 2 ^ 64) false
    (fun _ => sized f 8 (need (within 600 lo hi && within lo hi 2400) msInvalid))
    (fun s => { s := { s with fan := { s.fan with capMin := lo, capMax := hi, cap := cap } } }))

/-- R652: TOKEN_STEP, TOKEN_MAX, SKEW_MIN. -/
def execSetGroupCfg (t : Transport) (f : Frame) (s : State) : Host.Outcome State Fault Refusal :=
  .next (serveAudited s t f { opc := 0x0012, roles := [roleI] } 0 (fieldAt f.payload 0 12) false
    (fun _ => sized f 12 (need (decide (payWord f 0 < 256) && decide (payWord f 1 < 4096) && decide (payWord f 2 < 4096)) msInvalid))
    (fun s => { s := { s with fan := { s.fan with tokenStep := payWord f 0, tokenMax := payWord f 1, skewMin := payWord f 2 } } }))

/-- R590, R652. -/
def execSetDroop (t : Transport) (f : Frame) (s : State) : Host.Outcome State Fault Refusal :=
  let v := payWord f 0
  .next (serveAudited s t f { opc := 0x0013, roles := [roleM] } 0 v false (fun _ => sized f 4 (need (within 30 v 120) msInvalid))
    (fun s => { s := applyLevel { s with fan := { s.fan with droop := v } } }))

/-! ## Voltage entries (R592 to R594) -/

/-- WITHDRAWN of an entry of a tile; the tile's cap changes first, then its voltage. R593, R594. -/
def setWithdrawn (s : State) (p i : Nat) (on : Bool) : State :=
  let s1 := s.modFanTile p (fun t => { t with vtab := tmod (0, false, false) t.vtab i (fun e => (e.1, e.2.1, on)) })
  checkSlowed (driveDie (applyTile s1 p) (p / 50))

/-- R592 to R594. -/
def execVtabWithdraw (t : Transport) (f : Frame) (s : State) : Host.Outcome State Fault Refusal :=
  let p := payWord f 0
  let i := payWord f 1
  .next (serveAudited s t f { opc := 0x0014, roles := [roleI, roleM] } p i false
    (fun _ => sized f 8 (need (decide (p < 200) && decide (i < 16)) msInvalid))
    (fun s => { s := setWithdrawn s p i true }))

/-- R592. -/
def execVtabRestore (t : Transport) (f : Frame) (s : State) : Host.Outcome State Fault Refusal :=
  let p := payWord f 0
  let i := payWord f 1
  .next (serveAudited s t f { opc := 0x0015, roles := [roleM] } p i false
    (fun _ => sized f 8 (need (decide (p < 200) && decide (i < 16)) msInvalid))
    (fun s => { s := setWithdrawn s p i false }))

/-! ## Topology (R484, R689) -/

/-- Devices of a slot mask that the rack keeper has in the map and the new mask leaves out. R689. -/
def droppedSlots (s : State) (mask : Nat) : List Nat :=
  (List.range 32).filter (fun i => !mask.testBit i && mapHas s.hdr.map (32 * (s.hdr.devnum / 32) + i))

/-- A new slot mask: a rack keeper has the bits of the slots that it loses cleared. R689. -/
def setSlotMask (s : State) (mask : Nat) : State :=
  let s1 := s.modKeeper (fun k => { k with slotMask := BitVec.ofNat 32 mask })
  if s.hdr.keeper.rackActing ∧ s.hdr.devValid then
    (droppedSlots s mask).foldl (fun (s : State) i => clearDev s (32 * (s.hdr.devnum / 32) + i)) s1
  else s1

/-- A topology record: for each rack its number and the SWITCH_IDs of its leaf switches on planes 0 and 1, 2 bytes each. -/
def topologyOf (bs : List Byte) : List (Nat × BitVec 16 × BitVec 16) :=
  (chunks 6 bs (bs.length / 6)).map (fun e => (fieldAt e 0 2, BitVec.ofNat 16 (fieldAt e 2 2), BitVec.ofNat 16 (fieldAt e 4 2)))

/-- Word 0 of the payload: 0 a slot mask follows, 1 a topology record. DESIGN CHOICE. -/
def topologyOk (f : Frame) : Bool :=
  (payWord f 0 == 0 && f.payload.length == 8) ||
  (payWord f 0 == 1 && decide (4 ≤ f.payload.length) && (f.payload.length - 4) % 6 == 0 &&
    (topologyOf (f.payload.drop 4)).all (fun e => decide (e.1 < 512)))

/-- R484, R652, R689. -/
def execSetTopology (t : Transport) (f : Frame) (s : State) : Host.Outcome State Fault Refusal :=
  .next (serveAudited s t f { opc := 0x0020, roles := [roleI] } 0 (fieldAt f.payload 0 32) false (fun _ => need (topologyOk f) msInvalid)
    (fun s => { s := if payWord f 0 = 0 then setSlotMask s (payWord f 1)
                     else s.modKeeper (fun k => { k with topology := topologyOf (f.payload.drop 4) }) }))

/-- R552: 1 s to 3,600 s. -/
def execSetLoadSpan (t : Transport) (f : Frame) (s : State) : Host.Outcome State Fault Refusal :=
  let v := payWord f 0
  .next (serveAudited s t f { opc := 0x0021, roles := [roleI] } 0 v false (fun _ => sized f 4 (need (within 1 v 3600) msInvalid))
    (fun s => { s := { s with mgt := { s.mgt with loadSpan := v } } }))

/-! ## Keys (R648, R665, R666, R668) -/

/-- Bytes of a publisher key by ALG. R665. -/
def pubKeyLen (alg : Nat) : Nat := if alg = 1 then 97 else 1952

/-- A publisher key that may be added. R665. -/
def pubKeyStatus (s : State) (f : Frame) : Nat :=
  let alg := payWord f 0
  let key := f.payload.drop 4
  if (alg ≠ 1 ∧ alg ≠ 2) ∨ f.payload.length ≠ 4 + pubKeyLen alg then msInvalid
  else if s.mgt.pubKeys.any (fun k => k.fpr.setWidth 128 == fprOf key) then msInvalid
  else if 64 ≤ s.mgt.pubKeys.length then msBusy else msOk

/-- R665. -/
def execPubkeyAdd (t : Transport) (f : Frame) (s : State) : Host.Outcome State Fault Refusal :=
  let key := f.payload.drop 4
  .next (serveAudited s t f { opc := 0x0030, roles := [roleI] } (fprOf key).toNat (Config.sha384 key).toNat false (fun s => pubKeyStatus s f)
    (fun s => { s := { s with mgt := { s.mgt with
      pubKeys := s.mgt.pubKeys ++ [{ alg := payWord f 0, bytes := key, fpr := Config.sha384 key }] } } }))

/-- The digest that a payload of 48 bytes names. -/
def payDigest (f : Frame) : BitVec 384 := BitVec.ofNat 384 (fieldAt f.payload 0 48)

/-- R540, R666. -/
def execPubkeyRemove (t : Transport) (f : Frame) (s : State) : Host.Outcome State Fault Refusal :=
  let d := payDigest f
  .next (serveAudited s t f { opc := 0x0031, roles := [roleI] } ((d.setWidth 128 : BitVec 128).toNat) d.toNat false
    (fun s => sized f 48 (need (s.mgt.pubKeys.any (fun k => k.fpr == d)) msNotFound))
    (fun s => { s := { s with mgt := { s.mgt with pubKeys := s.mgt.pubKeys.filter (fun k => k.fpr != d) } } }))

/-- R652: fingerprints and algorithms. -/
def execPubkeyList (t : Transport) (f : Frame) (s : State) : Host.Outcome State Fault Refusal :=
  .next (servePlain s t f { opc := 0x0032, roles := [roleO, roleI, roleM] } (fun _ => msOk)
    (fun s => { s := s, data := s.mgt.pubKeys.flatMap (fun k => natToBytes k.alg 4 ++ natToBytes k.fpr.toNat 48) }))

/-- R648, R652: at most 16 operator keys. -/
def execOpkeyAdd (t : Transport) (f : Frame) (s : State) : Host.Outcome State Fault Refusal :=
  let key := f.payload
  .next (serveAudited s t f { opc := 0x0038, roles := [roleI] } (fprOf key).toNat (Config.sha384 key).toNat false
    (fun s => sized f 97 (firstOf [need (!s.mgt.operatorKeys.any (fun k => fprOf k == fprOf key)) msInvalid,
                                   need (decide (s.mgt.operatorKeys.length < 16)) msBusy]))
    (fun s => { s := { s with mgt := { s.mgt with operatorKeys := s.mgt.operatorKeys ++ [key] } } }))

/-- R648, R652. -/
def execOpkeyRemove (t : Transport) (f : Frame) (s : State) : Host.Outcome State Fault Refusal :=
  let d := payDigest f
  .next (serveAudited s t f { opc := 0x0039, roles := [roleI] } ((d.setWidth 128 : BitVec 128).toNat) d.toNat false
    (fun s => sized f 48 (need (s.mgt.operatorKeys.any (fun k => Config.sha384 k == d)) msNotFound))
    (fun s => { s := { s with mgt := { s.mgt with operatorKeys := s.mgt.operatorKeys.filter (fun k => Config.sha384 k != d) } } }))

/-- R648, R651, R668: the installer key, which claims the device and ends RTV mode. -/
def execInstallerKeySet (t : Transport) (f : Frame) (s : State) : Host.Outcome State Fault Refusal :=
  let key := f.payload
  .next (serveAudited s t f { opc := 0x003A, roles := [roleI] } (fprOf key).toNat (Config.sha384 key).toNat false (fun _ => sized f 97 msOk)
    (fun s => { s := { s with mgt := { s.mgt with installerKey := some key, rtv := false } } }))

/-! ## Return to vendor (R667, R668) -/

/-- The consent digest: SHA-384 of the serial number, the installer key's fingerprint and a fresh nonce. R667. -/
def consentDigest (s : State) (n : W64) : BitVec 384 :=
  Config.sha384 (natToBytes s.mgt.serial.toNat 16 ++ natToBytes (Config.sha384 (s.mgt.installerKey.getD [])).toNat 48 ++ natToBytes n.toNat 8)

/-- R667, R668: the newest consent replaces the one before it. -/
def execRtvConsent (t : Transport) (f : Frame) (s : State) : Host.Outcome State Fault Refusal :=
  .next (serveAudited s t f { opc := 0x0060, roles := [roleI] } 0 0 false (fun _ => sized f 0 msOk) (fun s =>
    let (s1, n) := freshNonce s
    let d := consentDigest s n
    { s := { s1 with mgt := { s1.mgt with consent := some d } }, data := natToBytes d.toNat 48 }))

/-- The token: serial number, consent digest, and a signature by a maker key that has not been revoked. R667. -/
def tokenGood (s : State) (f : Frame) : Bool :=
  let body := f.payload.take 64
  fieldAt f.payload 0 16 == s.mgt.serial.toNat && s.mgt.consent == some (BitVec.ofNat 384 (fieldAt f.payload 16 48)) &&
  (makers s).any (fun d => Config.ecdsaOk (natToBytes d.toNat 48) body (f.payload.drop 64))

/-- All of HBM and Millpond at zero. R667. -/
def zeroMemories (s : State) : State :=
  { s with
    mem := s.mem.filter (fun c => decide (2 ^ 64 ≤ c.1))
    chk := s.chk.filter (fun c => decide (2 ^ 64 ≤ 32 * c.1)) }

/-- R667, R668. -/
def execRtvEnter (t : Transport) (f : Frame) (s : State) : Host.Outcome State Fault Refusal :=
  .next (serveAudited s t f { opc := 0x0061, roles := [roleM] } 0 0 false
    (fun s => sized f 160 (firstOf [need (!anyBound s) msBusy, need (tokenGood s f) msCred]))
    (fun s =>
      let s1 := zeroMemories s
      { s := { s1 with mgt := { s1.mgt with
          pubKeys := [], operatorKeys := [], installerKey := none, rtv := true, consent := none } } }))

/-- R652: only in RTV mode; what the diagnostics return is not the spec's. -/
def execMakerDiag (t : Transport) (f : Frame) (s : State) : Host.Outcome State Fault Refusal :=
  .next (serveAudited s t f { opc := 0x0062, roles := [roleM] } 0 0 false (fun s => need s.mgt.rtv msState) (fun s =>
    let (s1, i) := s.takeFree
    { s := s1, data := (Config.diagBytes i).take 4064 }))

/-! ## Maker provisioning (R587, R593, R652) -/

/-- A voltage table of a tile: FB_RATE, FB_MV, then 16 words laid out as FAN_VTAB. Its withdrawals stand. -/
def provisionVtab (s : State) (f : Frame) : State :=
  let p := payWord f 1
  let s1 := s.modFanTile p (fun t => { t with
    fbRate := payWord f 2
    fbMv := payWord f 3
    vtab := (List.range 16).foldl (fun v i =>
      tmod (0, false, false) v i (fun e => (payWord f (4 + i) % 1024, !(payWord f (4 + i)).testBit 31, e.2.2))) t.vtab })
  checkSlowed (driveDie (applyTile s1 p) (p / 50))

/-- Fused spare maps: pairs of a logical and a physical tile. The map in use changes at the next reset. 05, GOV_LMAP. -/
def provisionMap (s : State) (f : Frame) : State :=
  (List.range ((f.payload.length - 4) / 8)).foldl (fun (s : State) i =>
    let l := payWord f (1 + 2 * i)
    let s1 := s.setPhys l (s.phys l)
    { s1 with fuseLmap := tset 0 s1.fuseLmap l (payWord f (2 + 2 * i) + 1) }) s

/-- Word 0 of the payload: 0 a voltage table, 1 spare maps. DESIGN CHOICE. -/
def provisionOk (f : Frame) : Bool :=
  (payWord f 0 == 0 && f.payload.length == 80 && decide (payWord f 1 < 200) && decide (1300 ≤ payWord f 2) && decide (payWord f 2 < 4096) &&
    decide (payWord f 3 < 1024)) ||
  (payWord f 0 == 1 && decide (4 ≤ f.payload.length) && f.payload.length % 8 == 4 &&
    (List.range ((f.payload.length - 4) / 8)).all (fun i =>
      decide (payWord f (1 + 2 * i) < 192) && decide (payWord f (2 + 2 * i) / 50 = payWord f (1 + 2 * i) / 48)))

/-- R652: only while unclaimed or in RTV mode. -/
def execMakerProvision (t : Transport) (f : Frame) (s : State) : Host.Outcome State Fault Refusal :=
  .next (serveAudited s t f { opc := 0x0063, roles := [roleM] } (payWord f 1) (payWord f 0) false
    (fun s => firstOf [need (s.mgt.rtv || s.mgt.installerKey.isNone) msState, need (provisionOk f) msInvalid])
    (fun s => { s := if payWord f 0 = 0 then provisionVtab s f else provisionMap s f }))

end Sys2Proof.Machine
end

