-- ==== Sys2Proof/Machine/MgmtFw.lean ====
section
/-! DEFINITION. The management commands over firmware images (17, R655 to R664), and those that change parts in service: marches,
retirement, sparing, BAR4 (07, R332; 05, R216; 10, R438, R442; 14, R565; 17, R654; 18, R682). -/

namespace Sys2Proof.Machine
open Sys2Proof

/-! ## Images (R655 to R657) -/

/-- Bytes of a slot of an image KIND. R655. -/
def slotBytes (kind : Nat) : Nat := if kind = 1 then 0x400000 else 0x1000000

/-- Bytes of the image that a slot holds. -/
def slotImage (x : FwSlot) (n : Nat) : List Byte := tgetList 0 x.image 0 n

/-- The header of an image of `n` bytes is well formed. R656, R657. -/
def headerOk (bs : List Byte) (kind n : Nat) : Bool :=
  fieldAt bs 0 4 == 0x4D465850 && fieldAt bs 4 1 == 0 && fieldAt bs 5 1 == kind && fieldAt bs 6 2 == 0 && decide (fieldAt bs 12 2 ≤ 64) &&
  (kind != 1 || fieldAt bs 14 2 == 0) && fieldAt bs 16 4 + 256 == n && fieldAt bs 20 76 == 0

/-- An image of `n` bytes is authentic. R657. -/
def authentic (s : State) (bs : List Byte) (kind n : Nat) : Bool :=
  headerOk bs kind n && decide (s.mgt.svnFloor ≤ fieldAt bs 12 2) &&
  ((makers s).any (fun d => (d.setWidth 128 : BitVec 128).toNat == fieldAt bs 144 16 &&
    Config.ecdsaOk (natToBytes d.toNat 48) (bs.take 160) ((bs.drop 160).take 96))) &&
  (Config.sha384 (bs.drop 256)).toNat == fieldAt bs 96 48

/-- The slot of a KIND that is neither ACTIVE nor TRIAL. R658. -/
def inactiveSlot (s : State) (kind : Nat) : Option Nat :=
  (kindSlots kind).find? (fun i => (fwSlot s i).st != .active && (fwSlot s i).st != .trial)

/-- The other slot of the KIND is on trial, or a replacement is under way. R659. -/
def kindBusy (s : State) (kind : Nat) : Bool := (slotWith s kind .trial).isSome || (kind == 2 && s.mgt.replacing)

/-- The KINDs that a command may name; in recovery only MGT. R656, R664. -/
def fwKindOk (s : State) (kind : Nat) : Bool := kind == 1 || (kind == 2 && !s.mgt.recovery)

/-- In recovery the maker may write and stage an image as well. R664. -/
def imageRoles (s : State) : List Nat := if s.mgt.recovery then [roleI, roleM] else [roleI]

/-! ## FW_CHUNK, FW_STAGE (R652, R658, R659, R664) -/

/-- R652: bytes of the inactive slot; an image that was STAGED there is staged no more. -/
def execFwChunk (t : Transport) (f : Frame) (s : State) : Host.Outcome State Fault Refusal :=
  let kind := payWord f 0
  let off := payWord f 1
  let bs := f.payload.drop 8
  .next (servePlain s t f { opc := 0x0043, roles := imageRoles s }
    (fun s => firstOf [need (decide (8 ≤ f.payload.length) && decide (bs.length ≤ 3872) && fwKindOk s kind && decide (off + bs.length ≤ slotBytes kind)) msInvalid,
                       need (!kindBusy s kind) msBusy, need (inactiveSlot s kind).isSome msState])
    (fun s => { s := match inactiveSlot s kind with
                | some i => modFwSlot s i (fun x => { x with st := .empty, image := tsetList 0 x.image off bs })
                | none => s }))

/-- The image that FW_STAGE writes: from host memory, or as FW_CHUNK has written it. R658. -/
def stagedBytes (s : State) (t : Transport) (f : Frame) (i : Nat) : List Byte :=
  match t with
  | .mailbox => s.bytes (hostKey (fieldAt f.payload 8 8)) (payWord f 1)
  | .i3c => slotImage (fwSlot s i) (payWord f 1)

/-- A slot with an image that is authentic, or EMPTY. R656, R658. -/
def stageSlot (x : FwSlot) (bs : List Byte) (good : Bool) : FwSlot :=
  { x with
    st := if good then .staged else .empty
    image := tsetList 0 [] 0 bs
    version := field32 bs 8
    svn := fieldAt bs 12 2
    stateFmt := fieldAt bs 14 2
    failedBoots := 0 }

/-- R658, R659, R664: the ROM restarts after an image that passes. -/
def execFwStage (t : Transport) (f : Frame) (s : State) : Host.Outcome State Fault Refusal :=
  let kind := payWord f 0
  let n := payWord f 1
  let len := if t = .mailbox then 16 else 8
  .next (serveAudited s t f { opc := 0x0040, roles := imageRoles s } ((inactiveSlot s kind).getD 0) n false
    (fun s => sized f len (firstOf [need (fwKindOk s kind && within 256 n (slotBytes kind)) msInvalid, need (!kindBusy s kind) msBusy,
                                    need (inactiveSlot s kind).isSome msState]))
    (fun s => match inactiveSlot s kind with
      | none => { s := s }
      | some i =>
        let bs := stagedBytes s t f i
        let good := authentic s bs kind n
        let s1 := modFwSlot s i (fun x => stageSlot x bs good)
        { s := { s1 with mgt := { s1.mgt with restartDue := s1.mgt.restartDue || (s.mgt.recovery && good) } }
          good := good, detail := some (fieldAt bs 8 4) }))

/-! ## FW_APPROVE, FW_COMMIT_SVN (R529, R660, R662, R677, R683) -/

/-- KIND of a slot. -/
def slotKind (i : Nat) : Nat := if i < 2 then 1 else 2

/-- The running service image has another STATE_FMT. R660, R683. -/
def formatDiffers (s : State) (i : Nat) : Bool :=
  match slotWith s 2 .active with
  | some a => (fwSlot s a).stateFmt != (fwSlot s i).stateFmt && (List.range 16).any (fun c => (s.miller c).image.isSome)
  | none => false

/-- The slot is TRIAL, and the ACTIVE one FALLBACK. R660. -/
def trialSlot (s : State) (i : Nat) : State :=
  let s1 := match slotWith s (slotKind i) .active with
    | some a => setFwSt s a .fallback
    | none => s
  setFwSt s1 i .trial

/-- What approval starts: a restart, a replacement core by core, a drained update, or bring-up again at step 8. R529, R660, R677, R683. -/
def approve (s : State) (i : Nat) : State :=
  let s1 := trialSlot s i
  if i < 2 then { s1 with mgt := { s1.mgt with restartDue := true } }
  else if s.boot.stopped ∧ s.boot.cause = 4 then
    { s1 with
      mgt := { s1.mgt with replacing := true, svcHalts := 0 }
      boot := { s1.boot with stopped := false, resumed := true, cause := 0 } }
  else if formatDiffers s i then { s1 with boot := { s1.boot with drainUpd := true }, mgt := { s1.mgt with svcHalts := 0 } }
  else { s1 with mgt := { s1.mgt with replacing := true, svcHalts := 0 } }

/-- R660, R683. -/
def execFwApprove (t : Transport) (f : Frame) (s : State) : Host.Outcome State Fault Refusal :=
  let i := payWord f 0
  .next (serveAudited s t f { opc := 0x0041, roles := [roleI] } i ((fwSlot s i).version.toNat) true
    (fun s => sized f 4 (firstOf [need (decide (i < 4)) msInvalid, need (!kindBusy s (slotKind i)) msBusy,
                                  need ((fwSlot s i).st == .staged) msState]))
    (fun s => { s := approve s i }))

/-- The two ACTIVE images' lower SVN. R662. -/
def lowerSvn (s : State) : Option Nat :=
  match slotWith s 1 .active, slotWith s 2 .active with
  | some a, some b => some (min (fwSlot s a).svn (fwSlot s b).svn)
  | _, _ => none

/-- A slot is TRIAL. R662. -/
def anyTrial (s : State) : Bool := (slotWith s 1 .trial).isSome || (slotWith s 2 .trial).isSome

/-- R662. -/
def execFwCommitSvn (t : Transport) (f : Frame) (s : State) : Host.Outcome State Fault Refusal :=
  .next (serveAudited s t f { opc := 0x0042, roles := [roleI] } 0 ((lowerSvn s).getD 0) false
    (fun s => sized f 0 (need (!anyTrial s && (lowerSvn s).isSome) msState))
    (fun s => { s := { s with mgt := { s.mgt with svnFloor := max s.mgt.svnFloor ((lowerSvn s).getD 0) } } }))

/-! ## Marches (R332) -/

/-- Word 1 of the payload: BANKS and MODE as in MPD_MARCH_CTL. -/
def marchPreserves (f : Frame) : Bool := (payWord f 1).testBit 3

/-- The requests that R332 accepts. -/
def marchStatus (s : State) (f : Frame) : Nat :=
  let p := payWord f 0
  if 200 ≤ p ∨ 16 ≤ payWord f 1 ∨ payWord f 1 % 8 = 0 then msInvalid
  else if !marchPreserves f ∧ f.role ≠ roleM then msRole
  else if (s.tile p).mpd.marching then msBusy
  else if marchPreserves f then need ((s.tile p).unit.st == .on) msState
  else need (s.logOf p).isNone msState

/-- A march begins; its request wakes the tile's banks. R327, R332. -/
def startMarch (s : State) (p : Nat) (banks : Nat) (preserving : Bool) : State :=
  (wakeBanks s p).modMpd p (fun m => { m with
    marchSt := .running, marchStart := true, marchPreserving := preserving, marchBanks := BitVec.ofNat 3 banks, marchAbort := false })

/-- R332. -/
def execMarchReq (t : Transport) (f : Frame) (s : State) : Host.Outcome State Fault Refusal :=
  .next (serveAudited s t f { opc := opcMarchReq, roles := [roleI, roleM] } (payWord f 0) (payWord f 1) true
    (fun s => sized f 8 (marchStatus s f))
    (fun s => { s := startMarch s (payWord f 0) (payWord f 1) (marchPreserves f) }))

/-! ## Retirement and sparing (R216, R438, R442, R682) -/

/-- A tile may be retired for service: it stands behind a logical tile that is not retiring already, and a spare is left or nothing of
it is owned. R216, R682. -/
def retireStatus (s : State) (p : Nat) : Nat :=
  if 200 ≤ p then msInvalid
  else match s.logOf p with
  | none => msState
  | some l =>
    let x := s.ltile l
    if x.st = .off then msState
    else if x.st = .retiring ∨ x.retire then msBusy
    else need ((unusedSpare s (l / 48)).isSome || (ownedBlocks s p).isEmpty) msState

/-- R216, R682. -/
def execTileRetire (t : Transport) (f : Frame) (s : State) : Host.Outcome State Fault Refusal :=
  .next (serveAudited s t f { opc := opcTileRetire, roles := [roleI, roleM] } (payWord f 0) 0 true
    (fun s => sized f 4 (retireStatus s (payWord f 0))) (fun s => { s := serviceRetire s (payWord f 0) }))

/-- R438: the frame by its number. -/
def execFrameRetire (t : Transport) (f : Frame) (s : State) : Host.Outcome State Fault Refusal :=
  let n := payWord f 0
  .next (serveAudited s t f { opc := 0x0052, roles := [roleI, roleM] } n 0 false
    (fun s => sized f 4 (firstOf [need (decide (n * 65536 < hbmEnd)) msInvalid, need (decide (n ∉ s.memb.retired)) msState]))
    (fun s => { s := retireFrame s n 2 }))

/-- R442: at most one pseudo-channel of a group. -/
def execPcSpare (t : Transport) (f : Frame) (s : State) : Host.Outcome State Fault Refusal :=
  let stk := payWord f 0
  let pc := payWord f 1
  .next (serveAudited s t f { opc := 0x0053, roles := [roleI, roleM] } (64 * stk + pc) 0 false
    (fun s => sized f 8 (firstOf [need (decide (stk < 12) && decide (pc < 64)) msInvalid, need (!(s.stack stk).spared.getLsbD (pc / 4)) msState]))
    (fun s => { s := sparePc s stk pc }))

/-! ## BAR4 (R565, R654) -/

/-- R654: the installer only while no context is bound, the maker only in RTV mode. -/
def bar4Status (s : State) (f : Frame) : Nat :=
  if f.role = roleM then need s.mgt.rtv msState else need (!anyBound s) msState

/-- R565, R654: the window's 4 GiB by number. -/
def execBar4Open (t : Transport) (f : Frame) (s : State) : Host.Outcome State Fault Refusal :=
  let b := payWord f 0
  .next (serveAudited s t f { opc := 0x0054, roles := [roleI, roleM] } b b false
    (fun s => sized f 4 (firstOf [need (decide (b < 2 ^ 17)) msInvalid, bar4Status s f]))
    (fun s => { s := { s with hif := { s.hif with bar4En := true, bar4Base := b } } }))

/-- R565. -/
def execBar4Close (t : Transport) (f : Frame) (s : State) : Host.Outcome State Fault Refusal :=
  .next (serveAudited s t f { opc := 0x0055, roles := [roleI, roleM] } 0 0 false (fun _ => sized f 0 msOk)
    (fun s => { s := { s with hif := { s.hif with bar4En := false } } }))

/-! ## Other codes (R652) -/

/-- The codes of the table. R652. -/
def knownOpcs : List Nat :=
  [0x0001, 0x0002, 0x0003, 0x0004, 0x0005, 0x0010, 0x0011, 0x0012, 0x0013, 0x0014, 0x0015, 0x0020, 0x0021, 0x0030, 0x0031, 0x0032, 0x0038,
   0x0039, 0x003A, 0x0040, 0x0041, 0x0042, 0x0043, 0x0050, 0x0051, 0x0052, 0x0053, 0x0054, 0x0055, 0x0060, 0x0061, 0x0062, 0x0063]

/-- R652: any other code is answered OPERAND_INVALID. -/
def execUnknownCommand (t : Transport) (opc : BitVec 16) (f : Frame) (s : State) : Host.Outcome State Fault Refusal :=
  .next (if opc.toNat ∈ knownOpcs ∨ !arrives s t opc.toNat f then s
    else answer (useNonce s t f) t { opc := opc.toNat, status := msInvalid, auditSeq := none, data := [] })

end Sys2Proof.Machine
end

