-- ==== Sys2Proof/Machine/Flags.lean ====
section
/-! DEFINITION. Comparisons and predicate operations (06): the results that set predicates. -/

namespace Sys2Proof.Machine
open Sys2Proof

/-- a < b as FP32, on bits [31:0]. R251. -/
def fp32Lt (a b : W64) : Bool := (f32 (a.setWidth 32)).lt (f32 (b.setWidth 32))

/-- a = b as FP32, +0 equal to −0, false for NaN. R251. -/
def fp32Eq (a b : W64) : Bool := (f32 (a.setWidth 32)).eq (f32 (b.setWidth 32))

/-- The comparison CC. Codes 10 to 15 are undefined encodings and never reach here. R250, R251. -/
def ccHolds (cc : Nat) (a b : W64) : Bool :=
  match cc with
  | 0 => a == b
  | 1 => a != b
  | 2 => a.slt b
  | 3 => !(a.slt b)
  | 4 => a.ult b
  | 5 => !(a.ult b)
  | 6 => fp32Lt a b
  | 7 => fp32Lt a b || fp32Eq a b
  | 8 => fp32Eq a b
  | _ => !(fp32Eq a b)

/-- The predicate operation LOP. R250. -/
def lopVal (lop : Nat) (a b : Bool) : Bool :=
  match lop with
  | 0 => a && b
  | 1 => a || b
  | 2 => a != b
  | _ => a && !b

end Sys2Proof.Machine
end

