-- ==== Sys2Proof/Machine/Scalar.lean ====
section
/-! DEFINITION. Control, scalar, move, compare, predicate and FP32 instructions (06, R243 to R252). -/

namespace Sys2Proof.Machine
open Sys2Proof

abbrev Out := Host.Outcome State Fault Refusal

/-! ## Control -/

/-- R243. -/
def execNop (c : Core) (g : Guard) (s : State) : Out := issue s c g {} .done

/-- Tile: nothing more issues. Service: the core stops without a fault. R247. -/
def execOpEnd (c : Core) (g : Guard) (s : State) : Out :=
  issue s c g {} (fun s =>
    match c with
    | .tile _ => .done (s.modSeqr c (fun q => { q with mode := .ended }))
    | .miller m => .done ((s.modSeqr c (fun q => { q with mode := .ended })).modMiller m (fun k => { k with run := .stopped })))

/-- R243. -/
def execBr (c : Core) (g : Guard) (imm : BitVec 32) (s : State) : Out :=
  issue s c g {} (fun s => .jump s ((s.seqr c).pc + 8 * sext32 imm))

/-- R243. -/
def execJal (c : Core) (g : Guard) (sd : BitVec 5) (imm : BitVec 32) (s : State) : Out :=
  issue s c g {} (fun s => .jump (s.modSeqr c (fun q => q.writeS sd (q.pc + 8))) ((s.seqr c).pc + 8 * sext32 imm))

/-- R246. -/
def execJr (c : Core) (g : Guard) (sa : BitVec 5) (s : State) : Out :=
  issue s c g { reads := [sa] } (fun s =>
    if ((s.seqr c).s sa).toNat % 8 = 0 then .jump s ((s.seqr c).s sa) else .fault s .operandInvalid)

/-- Words that no instruction has, or that belong to the other profile, fault whatever their guard. Defined words of the
core's profile are another command's. R199, R238, R239, R245. -/
def execUndefinedEncoding (c : Core) (w0 w1 : W64) (s : State) : Out :=
  .next (if canIssue s c && !(definedWords w0 w1 && profileOk c.isTile w0) then coreFault s c .operandInvalid clsIssue else s)

/-! ## Integer arithmetic (R248) -/

/-- The RR form: sd := f(sa, sb). -/
def rr (s : State) (c : Core) (g : Guard) (sd sa sb : BitVec 5) (f : W64 → W64 → W64) : Out :=
  issueReg s c g { reads := [sa, sb] } (fun q => q.writeS sd (f (q.s sa) (q.s sb)))

/-- The RI form: sd := f(sa, imm). -/
def ri (s : State) (c : Core) (g : Guard) (sd sa : BitVec 5) (imm : BitVec 32) (f : W64 → W64 → W64) : Out :=
  issueReg s c g { reads := [sa] } (fun q => q.writeS sd (f (q.s sa) (sext32 imm)))

/-- High 64 bits of the unsigned product. -/
def mulHigh (a b : W64) : W64 := BitVec.ofNat 64 (a.toNat * b.toNat / 2 ^ 64)
def shlOp (a b : W64) : W64 := a <<< (b.toNat % 64)
def shrOp (a b : W64) : W64 := a >>> (b.toNat % 64)
def sraOp (a b : W64) : W64 := a.sshiftRight (b.toNat % 64)
def minOp (a b : W64) : W64 := if a.slt b then a else b
def maxOp (a b : W64) : W64 := if a.slt b then b else a
def minuOp (a b : W64) : W64 := if a.ult b then a else b
def maxuOp (a b : W64) : W64 := if a.ult b then b else a
/-- All ones when the divisor is zero. -/
def divuOp (a b : W64) : W64 := if b = 0 then BitVec.allOnes 64 else a / b
/-- The dividend when the divisor is zero. -/
def remuOp (a b : W64) : W64 := if b = 0 then a else a % b

def execAdd (c : Core) (g : Guard) (sd sa sb : BitVec 5) (s : State) : Out := rr s c g sd sa sb (· + ·)
def execSub (c : Core) (g : Guard) (sd sa sb : BitVec 5) (s : State) : Out := rr s c g sd sa sb (· - ·)
def execMul (c : Core) (g : Guard) (sd sa sb : BitVec 5) (s : State) : Out := rr s c g sd sa sb (· * ·)
def execMulhu (c : Core) (g : Guard) (sd sa sb : BitVec 5) (s : State) : Out := rr s c g sd sa sb mulHigh
def execOpAnd (c : Core) (g : Guard) (sd sa sb : BitVec 5) (s : State) : Out := rr s c g sd sa sb (· &&& ·)
def execOpOr (c : Core) (g : Guard) (sd sa sb : BitVec 5) (s : State) : Out := rr s c g sd sa sb (· ||| ·)
def execOpXor (c : Core) (g : Guard) (sd sa sb : BitVec 5) (s : State) : Out := rr s c g sd sa sb (· ^^^ ·)
def execShl (c : Core) (g : Guard) (sd sa sb : BitVec 5) (s : State) : Out := rr s c g sd sa sb shlOp
def execShr (c : Core) (g : Guard) (sd sa sb : BitVec 5) (s : State) : Out := rr s c g sd sa sb shrOp
def execSra (c : Core) (g : Guard) (sd sa sb : BitVec 5) (s : State) : Out := rr s c g sd sa sb sraOp
def execOpMin (c : Core) (g : Guard) (sd sa sb : BitVec 5) (s : State) : Out := rr s c g sd sa sb minOp
def execOpMax (c : Core) (g : Guard) (sd sa sb : BitVec 5) (s : State) : Out := rr s c g sd sa sb maxOp
def execMinu (c : Core) (g : Guard) (sd sa sb : BitVec 5) (s : State) : Out := rr s c g sd sa sb minuOp
def execMaxu (c : Core) (g : Guard) (sd sa sb : BitVec 5) (s : State) : Out := rr s c g sd sa sb maxuOp
def execDivu (c : Core) (g : Guard) (sd sa sb : BitVec 5) (s : State) : Out := rr s c g sd sa sb divuOp
def execRemu (c : Core) (g : Guard) (sd sa sb : BitVec 5) (s : State) : Out := rr s c g sd sa sb remuOp

def execAddI (c : Core) (g : Guard) (sd sa : BitVec 5) (imm : BitVec 32) (s : State) : Out := ri s c g sd sa imm (· + ·)
def execSubI (c : Core) (g : Guard) (sd sa : BitVec 5) (imm : BitVec 32) (s : State) : Out := ri s c g sd sa imm (· - ·)
def execMulI (c : Core) (g : Guard) (sd sa : BitVec 5) (imm : BitVec 32) (s : State) : Out := ri s c g sd sa imm (· * ·)
def execMulhuI (c : Core) (g : Guard) (sd sa : BitVec 5) (imm : BitVec 32) (s : State) : Out := ri s c g sd sa imm mulHigh
def execAndI (c : Core) (g : Guard) (sd sa : BitVec 5) (imm : BitVec 32) (s : State) : Out := ri s c g sd sa imm (· &&& ·)
def execOrI (c : Core) (g : Guard) (sd sa : BitVec 5) (imm : BitVec 32) (s : State) : Out := ri s c g sd sa imm (· ||| ·)
def execXorI (c : Core) (g : Guard) (sd sa : BitVec 5) (imm : BitVec 32) (s : State) : Out := ri s c g sd sa imm (· ^^^ ·)
def execShlI (c : Core) (g : Guard) (sd sa : BitVec 5) (imm : BitVec 32) (s : State) : Out := ri s c g sd sa imm shlOp
def execShrI (c : Core) (g : Guard) (sd sa : BitVec 5) (imm : BitVec 32) (s : State) : Out := ri s c g sd sa imm shrOp
def execSraI (c : Core) (g : Guard) (sd sa : BitVec 5) (imm : BitVec 32) (s : State) : Out := ri s c g sd sa imm sraOp
def execMinI (c : Core) (g : Guard) (sd sa : BitVec 5) (imm : BitVec 32) (s : State) : Out := ri s c g sd sa imm minOp
def execMaxI (c : Core) (g : Guard) (sd sa : BitVec 5) (imm : BitVec 32) (s : State) : Out := ri s c g sd sa imm maxOp
def execMinuI (c : Core) (g : Guard) (sd sa : BitVec 5) (imm : BitVec 32) (s : State) : Out := ri s c g sd sa imm minuOp
def execMaxuI (c : Core) (g : Guard) (sd sa : BitVec 5) (imm : BitVec 32) (s : State) : Out := ri s c g sd sa imm maxuOp
def execDivuI (c : Core) (g : Guard) (sd sa : BitVec 5) (imm : BitVec 32) (s : State) : Out := ri s c g sd sa imm divuOp
def execRemuI (c : Core) (g : Guard) (sd sa : BitVec 5) (imm : BitVec 32) (s : State) : Out := ri s c g sd sa imm remuOp

/-! ## Moves (R244, R249) -/

/-- sd := the extension word. -/
def execLi (c : Core) (g : Guard) (sd : BitVec 5) (imm : W64) (s : State) : Out :=
  issueReg s c g { long := true } (fun q => q.writeS sd imm)

/-- Run value `i` of a core. R201, R249. -/
def runValue (s : State) (c : Core) (i : Nat) : W64 :=
  match c with
  | .tile l =>
    match s.runOf l with
    | none => 0
    | some r => match i with
      | 0 => BitVec.ofNat 64 (r.rr.indexOf l)
      | 1 => BitVec.ofNat 64 r.rr.tileList.length
      | 2 => BitVec.ofNat 64 r.rr.ctx
      | 3 => BitVec.ofNat 64 r.rr.seqno
      | 4 => BitVec.ofNat 64 r.rr.step
      | 5 => BitVec.ofNat 64 r.rr.die
      | 6 => BitVec.ofNat 64 l
      | 7 => BitVec.ofNat 64 s.hdr.devnum
      | 8 => BitVec.ofNat 64 r.rr.ver.toNat
      | _ => 0
  | .miller m => match i with
    | 5 => BitVec.ofNat 64 (m / 4)
    | 7 => BitVec.ofNat 64 s.hdr.devnum
    | 9 => BitVec.ofNat 64 m
    | _ => 0

/-- R249. -/
def execMovRv (c : Core) (g : Guard) (sd : BitVec 5) (imm : BitVec 32) (s : State) : Out :=
  issueReg s c g { wf := wfMovRv imm } (fun q => q.writeS sd (runValue s c imm.toNat))

def execMovSa (c : Core) (g : Guard) (sd : BitVec 5) (ab : BitVec 4) (imm : BitVec 32) (s : State) : Out :=
  issueReg s c g {} (fun q => q.writeS sd (q.a ab + sext32 imm))

def execMovAs (c : Core) (g : Guard) (ad : BitVec 4) (sa : BitVec 5) (imm : BitVec 32) (s : State) : Out :=
  issueReg s c g { reads := [sa] } (fun q => q.setA ad (q.s sa + sext32 imm))

def execAddaI (c : Core) (g : Guard) (ad ab : BitVec 4) (imm : BitVec 32) (s : State) : Out :=
  issueReg s c g {} (fun q => q.setA ad (q.a ab + sext32 imm))

/-! ## Compares and predicates (R250, R251) -/

/-- pd := cc(sa, I ? imm : sb). -/
def execCmpCc (c : Core) (g : Guard) (pd : BitVec 3) (cc : BitVec 4) (sa sb : BitVec 5) (i : Bool) (imm : BitVec 32) (s : State) : Out :=
  issueReg s c g { wf := wfCmp cc sb i imm, reads := if i then [sa] else [sa, sb] }
    (fun q => q.setP pd (ccHolds cc.toNat (q.s sa) (if i then sext32 imm else q.s sb)))

def execPLop (c : Core) (g : Guard) (pd pa pb : BitVec 3) (lop : BitVec 2) (s : State) : Out :=
  issueReg s c g {} (fun q => q.setP pd (lopVal lop.toNat (q.p pa) (q.p pb)))

/-! ## FP32 (R252): operands from bits [31:0], results with bits [63:32] zero -/

def fp2 (f : W32 → W32 → W32) (a b : W64) : W64 := (f (a.setWidth 32) (b.setWidth 32)).setWidth 64

def execFadd (c : Core) (g : Guard) (sd sa sb : BitVec 5) (s : State) : Out := rr s c g sd sa sb (fp2 fadd32)
def execFsub (c : Core) (g : Guard) (sd sa sb : BitVec 5) (s : State) : Out := rr s c g sd sa sb (fp2 fsub32)
def execFmul (c : Core) (g : Guard) (sd sa sb : BitVec 5) (s : State) : Out := rr s c g sd sa sb (fp2 fmul32)
def execFdiv (c : Core) (g : Guard) (sd sa sb : BitVec 5) (s : State) : Out := rr s c g sd sa sb (fp2 fdiv32)
def execFmin (c : Core) (g : Guard) (sd sa sb : BitVec 5) (s : State) : Out := rr s c g sd sa sb (fp2 fmin32)
def execFmax (c : Core) (g : Guard) (sd sa sb : BitVec 5) (s : State) : Out := rr s c g sd sa sb (fp2 fmax32)

/-- Signed 64-bit to FP32. -/
def execFcvtFI (c : Core) (g : Guard) (sd sa : BitVec 5) (s : State) : Out :=
  issueReg s c g { reads := [sa] } (fun q => q.writeS sd ((rne32 (FV.ofInt (q.s sa).toInt)).setWidth 64))

/-- FP32 to signed 64-bit, clamped; NaN gives 0. -/
def execFcvtIF (c : Core) (g : Guard) (sd sa : BitVec 5) (s : State) : Out :=
  issueReg s c g { reads := [sa] } (fun q => q.writeS sd (f32ToI64 ((q.s sa).setWidth 32)))

end Sys2Proof.Machine
end

