-- ==== Sys2Proof/Machine/Stall.lean ====
section
/-! DEFINITION. Stall counts (05, R233 to R235; 08, R379): the causes for which the units of a tile, an engine and a stream stall, from
the state, and the count tick. -/

namespace Sys2Proof.Machine
open Sys2Proof

/-! ## The first cause of a unit (R234) -/

/-- Cause codes. 05, after R235. -/
def causeCode : Cause → Nat
  | .weight => 0 | .table => 1 | .bin => 2 | .ringSpace => 3 | .ringData => 4 | .sluice => 5 | .fabric => 6 | .page => 7
  | .codec => 8 | .rate => 9 | .bank => 10

/-- The order in which a unit's causes count. R234. -/
def causeOrder : List Cause := [.rate, .bank, .fabric, .page, .codec, .weight, .ringData, .ringSpace, .table, .bin, .sluice]

/-- The first cause of a unit. R234. -/
def firstCause (us : List (Nat × Cause)) (u : Nat) : Option Cause := causeOrder.find? (fun c => us.contains (u, c))

/-- The causes that an agent counts in a tick: for each of its units the first, each cause once. R233, R234. -/
def tickCauses (us : List (Nat × Cause)) : List Cause :=
  causeOrder.filter (fun c => us.any (fun x => firstCause us x.1 == some c))

/-! ## A stream (R379) -/

/-- The causes for which a stream stalls now. R379. -/
def slotCauses (s : State) (k : Nat) : List Cause :=
  match (s.slot k).st with
  | .free => []
  | .passDone => []
  | .halted => (if weirOk s (k / 256) (s.slot k).ctx then [] else [.rate]) ++ [.page]
  | .running => (issueNext s k).2

/-! ## A tile (R233) -/

/-- An address of another device. R460. -/
def awayAddr (s : State) (a : Nat) : Bool := decide (2 ^ 63 ≤ a) && !(s.hdr.devValid && gDev a == s.hdr.devnum)

/-- A wait for the earlier atomics that `p` names: WAIT_FABRIC while one of them goes to another device. R224, R242. -/
def writeCauses (s : State) (t : Tile) (p : AtomOp → Bool) : List Cause :=
  if t.atomQ.any (fun a => p a && awayAddr s a.addr.toNat) then [.fabric] else [.bank]

/-- What holds the sequencer of a tile. R152, R205, R224, R242, R280, R286, R296, R369, R595. -/
def seqCauses (s : State) (l : Nat) : List Cause :=
  let t := s.tile (s.phys l)
  if t.seqr.mode ≠ .running then []
  else match t.seqr.hold with
    | .none => if rateOk s (s.phys l) 1 then [] else [.rate]
    | .reg r => if t.seqr.waiting.any (fun w => w.1 == r && w.2) then [.fabric] else [.bank]
    | .sluice _ _ => [.sluice]
    | .fence => writeCauses s t (fun a => a.kind != .arrive)
    | .strm k n => if passOver s k n then [] else slotCauses s k
    | .swap256 => writeCauses s t (fun a => a.kind == .swap256)
    | .claim _ _ => [.ringSpace]
    | .take _ _ => [.ringData]
    | .hazard => [.bank]
    | .attnRoom _ => [.ringSpace]
    | .sluiceReset => []
    | .resFree => []
    | .halted _ _ => []

/-- A re-arm that waits at the front of the stream and ring queue counts for the sequencer what its stream counts. R379, R723. -/
def rearmCauses (s : State) (t : Tile) : List Cause :=
  match (t.strmQ.filter StrmOp.starts).head? with
  | some (.rearm _ _ k _ _ _ _) => slotCauses s k
  | _ => []

/-- What the Hopper waits for. R40, R205. -/
def hopStalls (s : State) (l : Nat) (t : Tile) : List Cause :=
  match t.hopQ.head?, t.hopRun with
  | some o, none => hopCauses s l t o
  | _, _ => []

/-- What the lookup path waits for: its next wave, or the start of its next operation. R39, R51, R90, R108, R205. -/
def lookStalls (s : State) (l : Nat) (t : Tile) : List Cause :=
  match t.lookQ.head?, t.lookRun with
  | _, some r => (match (t.half r.op.half).hr with
    | some hr => waveCauses s l r hr
    | none => [])
  | some o, none => laccCauses s l t o
  | none, none => []

/-- What the bin and Tailrace path waits for. R105, R109, R205, R213, R400. -/
def binStalls (s : State) (l : Nat) (r : Run) (t : Tile) : List Cause :=
  (match t.binQ.head?, t.binRun with
   | some o, none => binCauses s l o
   | _, _ => []) ++
  (if t.closes.any (fun c => !c.started && !closeReady s r c) then [.codec] else [])

/-- An atomic that waits for a block. R205. -/
def atomStalls (s : State) (l : Nat) (t : Tile) : List Cause :=
  if t.atomQ.any (fun a => !a.sent && a.kind != .arrive && blocked s l a.iseq [] (atomFoot s l a).writes) then [.bank] else []

/-- The stalls of a tile's units, 0 the sequencer, 1 the Hopper, 2 the lookup path, 3 the bin and Tailrace path, 4 the atomic unit, while
an active run holds the tile. R233. -/
def tileStalls (s : State) (p : Nat) : List (Nat × Cause) :=
  match s.logOf p with
  | none => []
  | some l => match s.runOf l with
    | none => []
    | some r =>
      let t := s.tile p
      if r.phase ≠ .active then []
      else (seqCauses s l ++ rearmCauses s t).map (fun c => (0, c)) ++ (hopStalls s l t).map (fun c => (1, c)) ++
        (lookStalls s l t).map (fun c => (2, c)) ++ (binStalls s l r t).map (fun c => (3, c)) ++ (atomStalls s l t).map (fun c => (4, c))

/-- The causes that a unit of a tile can stall for. -/
def unitCauses : Nat → List Cause
  | 0 => causeOrder
  | 1 => [.rate, .bank, .table]
  | 2 => [.rate, .bank, .weight, .table, .bin]
  | 3 => [.rate, .bank, .fabric, .codec, .bin]
  | 4 => [.rate, .bank, .fabric]
  | _ => []

/-! ## An engine (R235) -/

/-- What an engine waits for: the next page, halted or not yet there (R149, R150), words of part records, or blocks for its next
operation. -/
def engineCauses (s : State) (e : Nat) : List Cause :=
  match (s.engine e).run, (s.engine e).queue.head? with
  | some a, _ =>
    if a.page < a.op.desc.visits then
      (if (s.engine e).flume.any (fun p => p.elem == a.page && p.posted) then []
       else if (s.slot (flumeSlot e)).st = .halted then [.page] else [.ringData])
    else if s.hdr.outst.any (fun o => match o.who with
      | .engineWord e' _ => e' == e
      | _ => false) then [.fabric] else []
  | none, some op => if blocked s op.tile op.iseq (op.desc.foot op.iseq).reads (op.desc.foot op.iseq).writes then [.bank] else []
  | none, none => []

/-! ## A count tick -/

/-- A stall that began and ended within the tick, or whose cause no state holds (a bank's slots, a credit), as the tick's operand names it:
one that the unit can have, of an agent that is at work. DESIGN CHOICE (log 68). R233. -/
def stallOk (s : State) (a : StallAgent) (x : Nat × Cause) : Bool :=
  match a with
  | .tile p => (match (s.logOf p).bind s.runOf with
    | some r => r.phase == .active && (unitCauses x.1).contains x.2
    | none => false)
  | .engine e => x.1 == 0 && [Cause.bank, .fabric, .page, .ringData].contains x.2 &&
    ((s.engine e).run.isSome || !(s.engine e).queue.isEmpty)
  | .slot k => x.1 == 0 && [Cause.rate, .bank, .fabric, .page, .codec, .ringData, .ringSpace].contains x.2 &&
    ((s.slot k).st == .running || (s.slot k).st == .halted)

/-- The stalls of an agent in a tick: those that stand now, and those that the operand names. R233, R235, R379. -/
def agentStalls (s : State) (a : StallAgent) (us : List (Nat × Cause)) : List (Nat × Cause) :=
  (match a with
   | .tile p => tileStalls s p
   | .engine e => (engineCauses s e).map (fun c => (0, c))
   | .slot k => (slotCauses s k).map (fun c => (0, c))) ++ us.filter (stallOk s a)

def bumpAll (bits : Nat) (t : Tab Nat) (cs : List Cause) : Tab Nat :=
  cs.foldl (fun t c => tmod 0 t (causeCode c) (fun n => satAdd bits n 1)) t

/-- The counts of a run. R231, R235. -/
def bumpRun (s : State) (d : Nat) (run : Option Nat) (cs : List Cause) : State :=
  match run with
  | none => s
  | some rid => s.modRun d rid (fun r => { r with stall := bumpAll 32 r.stall cs })

/-- One count tick of an agent's stalls. A stream also keeps when its present ring wait began. R233, R235, R363, R379. -/
def execStallTick (a : StallAgent) (phys : List (Nat × Cause)) (s : State) : Host.Outcome State Fault Refusal :=
  let cs := tickCauses (agentStalls s a phys)
  .next (match a with
    | .tile p =>
      let s1 := s.modTile p (fun t => { t with stall := bumpAll 64 t.stall cs })
      (match s.logOf p with
       | none => s1
       | some l => bumpRun s1 (l / 48) (s.ltile l).run cs)
    | .engine e => bumpRun (s.modEngine e (fun x => { x with stall := bumpAll 64 x.stall cs })) (e / 12) (s.engine e).grant cs
    | .slot k => noteWait (s.modMrc (k / 256) (fun m => { m with stall := bumpAll 64 m.stall cs })) k)

end Sys2Proof.Machine
end

