-- ==== Sys2Proof/Machine/Dispatch.lean ====
section
/-! DEFINITION. The dispatch of commands: one arm for each constructor of `Instr`. -/

namespace Sys2Proof.Machine
open Sys2Proof

/-- The effect of a command on everything but the queue. -/
def exec (i : Instr) (s : State) : Host.Outcome State Fault Refusal :=
  match i with
  | .nop c g => Sys2Proof.Machine.execNop c g s
  | .opEnd c g => Sys2Proof.Machine.execOpEnd c g s
  | .br c g imm => Sys2Proof.Machine.execBr c g imm s
  | .jal c g sd imm => Sys2Proof.Machine.execJal c g sd imm s
  | .jr c g sa => Sys2Proof.Machine.execJr c g sa s
  | .undefinedEncoding c w0 w1 => Sys2Proof.Machine.execUndefinedEncoding c w0 w1 s
  | .add c g sd sa sb => Sys2Proof.Machine.execAdd c g sd sa sb s
  | .sub c g sd sa sb => Sys2Proof.Machine.execSub c g sd sa sb s
  | .mul c g sd sa sb => Sys2Proof.Machine.execMul c g sd sa sb s
  | .mulhu c g sd sa sb => Sys2Proof.Machine.execMulhu c g sd sa sb s
  | .opAnd c g sd sa sb => Sys2Proof.Machine.execOpAnd c g sd sa sb s
  | .opOr c g sd sa sb => Sys2Proof.Machine.execOpOr c g sd sa sb s
  | .opXor c g sd sa sb => Sys2Proof.Machine.execOpXor c g sd sa sb s
  | .shl c g sd sa sb => Sys2Proof.Machine.execShl c g sd sa sb s
  | .shr c g sd sa sb => Sys2Proof.Machine.execShr c g sd sa sb s
  | .sra c g sd sa sb => Sys2Proof.Machine.execSra c g sd sa sb s
  | .opMin c g sd sa sb => Sys2Proof.Machine.execOpMin c g sd sa sb s
  | .opMax c g sd sa sb => Sys2Proof.Machine.execOpMax c g sd sa sb s
  | .minu c g sd sa sb => Sys2Proof.Machine.execMinu c g sd sa sb s
  | .maxu c g sd sa sb => Sys2Proof.Machine.execMaxu c g sd sa sb s
  | .divu c g sd sa sb => Sys2Proof.Machine.execDivu c g sd sa sb s
  | .remu c g sd sa sb => Sys2Proof.Machine.execRemu c g sd sa sb s
  | .addI c g sd sa imm => Sys2Proof.Machine.execAddI c g sd sa imm s
  | .subI c g sd sa imm => Sys2Proof.Machine.execSubI c g sd sa imm s
  | .mulI c g sd sa imm => Sys2Proof.Machine.execMulI c g sd sa imm s
  | .mulhuI c g sd sa imm => Sys2Proof.Machine.execMulhuI c g sd sa imm s
  | .andI c g sd sa imm => Sys2Proof.Machine.execAndI c g sd sa imm s
  | .orI c g sd sa imm => Sys2Proof.Machine.execOrI c g sd sa imm s
  | .xorI c g sd sa imm => Sys2Proof.Machine.execXorI c g sd sa imm s
  | .shlI c g sd sa imm => Sys2Proof.Machine.execShlI c g sd sa imm s
  | .shrI c g sd sa imm => Sys2Proof.Machine.execShrI c g sd sa imm s
  | .sraI c g sd sa imm => Sys2Proof.Machine.execSraI c g sd sa imm s
  | .minI c g sd sa imm => Sys2Proof.Machine.execMinI c g sd sa imm s
  | .maxI c g sd sa imm => Sys2Proof.Machine.execMaxI c g sd sa imm s
  | .minuI c g sd sa imm => Sys2Proof.Machine.execMinuI c g sd sa imm s
  | .maxuI c g sd sa imm => Sys2Proof.Machine.execMaxuI c g sd sa imm s
  | .divuI c g sd sa imm => Sys2Proof.Machine.execDivuI c g sd sa imm s
  | .remuI c g sd sa imm => Sys2Proof.Machine.execRemuI c g sd sa imm s
  | .li c g sd imm => Sys2Proof.Machine.execLi c g sd imm s
  | .movRv c g sd imm => Sys2Proof.Machine.execMovRv c g sd imm s
  | .movSa c g sd ab imm => Sys2Proof.Machine.execMovSa c g sd ab imm s
  | .movAs c g ad sa imm => Sys2Proof.Machine.execMovAs c g ad sa imm s
  | .addaI c g ad ab imm => Sys2Proof.Machine.execAddaI c g ad ab imm s
  | .cmpCc c g pd cc sa sb useImm imm => Sys2Proof.Machine.execCmpCc c g pd cc sa sb useImm imm s
  | .pLop c g pd pa pb lop => Sys2Proof.Machine.execPLop c g pd pa pb lop s
  | .fadd c g sd sa sb => Sys2Proof.Machine.execFadd c g sd sa sb s
  | .fsub c g sd sa sb => Sys2Proof.Machine.execFsub c g sd sa sb s
  | .fmul c g sd sa sb => Sys2Proof.Machine.execFmul c g sd sa sb s
  | .fdiv c g sd sa sb => Sys2Proof.Machine.execFdiv c g sd sa sb s
  | .fmin c g sd sa sb => Sys2Proof.Machine.execFmin c g sd sa sb s
  | .fmax c g sd sa sb => Sys2Proof.Machine.execFmax c g sd sa sb s
  | .fcvtFI c g sd sa => Sys2Proof.Machine.execFcvtFI c g sd sa s
  | .fcvtIF c g sd sa => Sys2Proof.Machine.execFcvtIF c g sd sa s
  | .ld c g sd ab sz sx off => Sys2Proof.Machine.execLd c g sd ab sz sx off s
  | .st c g sd ab sz off => Sys2Proof.Machine.execSt c g sd ab sz off s
  | .ldc c g sd ab sz sx sc off => Sys2Proof.Machine.execLdc c g sd ab sz sx sc off s
  | .stc c g sd ab sz sc off => Sys2Proof.Machine.execStc c g sd ab sz sc off s
  | .tblBuild c g as_ h enc bpos ifmt m nb ars acb rsn krem rstride => Sys2Proof.Machine.execTblBuild c g as_ h enc bpos ifmt m nb ars acb rsn krem rstride s
  | .tblSave c g ab h off => Sys2Proof.Machine.execTblSave c g ab h off s
  | .tblLoad c g as_ h enc bpos ifmt m nb ars acb rsn => Sys2Proof.Machine.execTblLoad c g as_ h enc bpos ifmt m nb ars acb rsn s
  | .laccBin c g aw h bin0 m blk0 nblk wring n woff => Sys2Proof.Machine.execLaccBin c g aw h bin0 m blk0 nblk wring n woff s
  | .laccTer c g aw h bin0 m blk0 nblk wring n woff => Sys2Proof.Machine.execLaccTer c g aw h bin0 m blk0 nblk wring n woff s
  | .laccI2 c g aw h bin0 m blk0 nblk wring n woff => Sys2Proof.Machine.execLaccI2 c g aw h bin0 m blk0 nblk wring n woff s
  | .laccI3 c g aw h bin0 m blk0 nblk wring n woff => Sys2Proof.Machine.execLaccI3 c g aw h bin0 m blk0 nblk wring n woff s
  | .laccI4 c g aw h bin0 m blk0 nblk wring n woff => Sys2Proof.Machine.execLaccI4 c g aw h bin0 m blk0 nblk wring n woff s
  | .laccCb c g aw h bin0 m blk0 nblk wring n woff => Sys2Proof.Machine.execLaccCb c g aw h bin0 m blk0 nblk wring n woff s
  | .laccFp4 c g aw h bin0 m blk0 nblk wring n woff => Sys2Proof.Machine.execLaccFp4 c g aw h bin0 m blk0 nblk wring n woff s
  | .binOpen c g bin src anchMode head gsMode gsize apre ags nRow linb anch nCh => Sys2Proof.Machine.execBinOpen c g bin src anchMode head gsMode gsize apre ags nRow linb anch nCh s
  | .binClose c g bin dest ab off => Sys2Proof.Machine.execBinClose c g bin dest ab off s
  | .attn c g ab eng off => Sys2Proof.Machine.execAttn c g ab eng off s
  | .strmArm c g ab slot off => Sys2Proof.Machine.execStrmArm c g ab slot off s
  | .strmRearm c g slot sa sb kd ki => Sys2Proof.Machine.execStrmRearm c g slot sa sb kd ki s
  | .strmWait c g slot => Sys2Proof.Machine.execStrmWait c g slot s
  | .strmHalt c g slot => Sys2Proof.Machine.execStrmHalt c g slot s
  | .strmResume c g sa sb => Sys2Proof.Machine.execStrmResume c g sa sb s
  | .ringAttachP c g sa imm => Sys2Proof.Machine.execRingAttachP c g sa imm s
  | .ringAttachC c g sa imm => Sys2Proof.Machine.execRingAttachC c g sa imm s
  | .ringDetach c g sa imm => Sys2Proof.Machine.execRingDetach c g sa imm s
  | .ringClaim c g sd sa imm => Sys2Proof.Machine.execRingClaim c g sd sa imm s
  | .ringPost c g sa imm => Sys2Proof.Machine.execRingPost c g sa imm s
  | .ringTake c g sd sa imm => Sys2Proof.Machine.execRingTake c g sd sa imm s
  | .ringGive c g sa imm => Sys2Proof.Machine.execRingGive c g sa imm s
  | .sluiceArrive c g sa imm => Sys2Proof.Machine.execSluiceArrive c g sa imm s
  | .sluiceWait c g sa imm => Sys2Proof.Machine.execSluiceWait c g sa imm s
  | .sluiceReset c g sd sa sb => Sys2Proof.Machine.execSluiceReset c g sd sa sb s
  | .fence c g => Sys2Proof.Machine.execFence c g s
  | .hringPeek c g pd sa ab off => Sys2Proof.Machine.execHringPeek c g pd sa ab off s
  | .hringPop c g sa => Sys2Proof.Machine.execHringPop c g sa s
  | .hringPush c g pd sa ab off => Sys2Proof.Machine.execHringPush c g pd sa ab off s
  | .atomAddI32 c g sd sa ab off => Sys2Proof.Machine.execAtomAddI32 c g sd sa ab off s
  | .atomAddF32 c g sd sa ab off => Sys2Proof.Machine.execAtomAddF32 c g sd sa ab off s
  | .atomAddP64 c g sd sa ab off => Sys2Proof.Machine.execAtomAddP64 c g sd sa ab off s
  | .atomSwap32 c g sd sa ab off => Sys2Proof.Machine.execAtomSwap32 c g sd sa ab off s
  | .atomSwap64 c g sd sa ab off => Sys2Proof.Machine.execAtomSwap64 c g sd sa ab off s
  | .atomSwap256 c g aw ab off => Sys2Proof.Machine.execAtomSwap256 c g aw ab off s
  | .gtabGrant c g sa sb => Sys2Proof.Machine.execGtabGrant c g sa sb s
  | .gtabRevoke c g sa => Sys2Proof.Machine.execGtabRevoke c g sa s
  | .gtabInstall c g sd sa ab aw off => Sys2Proof.Machine.execGtabInstall c g sd sa ab aw off s
  | .evtPost c g pd sa ab off => Sys2Proof.Machine.execEvtPost c g pd sa ab off s
  | .runSubmit c g pd ab off => Sys2Proof.Machine.execRunSubmit c g pd ab off s
  | .runCancel c g sa sb => Sys2Proof.Machine.execRunCancel c g sa sb s
  | .resGrant c g sd sa sb => Sys2Proof.Machine.execResGrant c g sd sa sb s
  | .resFree c g sd sa sb => Sys2Proof.Machine.execResFree c g sd sa sb s
  | .psort c g sd ab off => Sys2Proof.Machine.execPsort c g sd ab off s
  | .queuedOperationStart l u => Sys2Proof.Machine.execQueuedOperationStart l u s
  | .sequencerResume c => Sys2Proof.Machine.execSequencerResume c s
  | .tableBuildDone l => Sys2Proof.Machine.execTableBuildDone l s
  | .tableSaveDone l => Sys2Proof.Machine.execTableSaveDone l s
  | .wave l => Sys2Proof.Machine.execWave l s
  | .anchorRaise l bin => Sys2Proof.Machine.execAnchorRaise l bin s
  | .preloadDone l => Sys2Proof.Machine.execPreloadDone l s
  | .binCloseReadDone l => Sys2Proof.Machine.execBinCloseReadDone l s
  | .binCloseDone l iseq => Sys2Proof.Machine.execBinCloseDone l iseq s
  | .attnOperationStart e => Sys2Proof.Machine.execAttnOperationStart e s
  | .attnPage e => Sys2Proof.Machine.execAttnPage e s
  | .attnOperationDone e => Sys2Proof.Machine.execAttnOperationDone e s
  | .dispatchCheck die => Sys2Proof.Machine.execDispatchCheck die s
  | .dispatch die rid => Sys2Proof.Machine.execDispatch die rid s
  | .runEnd die rid => Sys2Proof.Machine.execRunEnd die rid s
  | .runStopped die rid => Sys2Proof.Machine.execRunStopped die rid s
  | .runDeadlockWatchdog die rid => Sys2Proof.Machine.execRunDeadlockWatchdog die rid s
  | .runLimit die rid => Sys2Proof.Machine.execRunLimit die rid s
  | .runAged die rid => Sys2Proof.Machine.execRunAged die rid s
  | .stallTick a phys => Sys2Proof.Machine.execStallTick a phys s
  | .transferIssue k => Sys2Proof.Machine.execTransferIssue k s
  | .transferAck k xid => Sys2Proof.Machine.execTransferAck k xid s
  | .passEnd k => Sys2Proof.Machine.execPassEnd k s
  | .streamHalt k => Sys2Proof.Machine.execStreamHalt k s
  | .haltNoticeWrite die => Sys2Proof.Machine.execHaltNoticeWrite die s
  | .deadlockWatchdog k => Sys2Proof.Machine.execDeadlockWatchdog k s
  | .weirRefill die ctx => Sys2Proof.Machine.execWeirRefill die ctx s
  | .bankAtomicApply c => Sys2Proof.Machine.execBankAtomicApply c s
  | .eccWriteback p word => Sys2Proof.Machine.execEccWriteback p word s
  | .retentionEntry p bank => Sys2Proof.Machine.execRetentionEntry p bank s
  | .bankWakeDone p bank => Sys2Proof.Machine.execBankWakeDone p bank s
  | .marchDone p fails => Sys2Proof.Machine.execMarchDone p fails s
  | .tileRemapComplete l => Sys2Proof.Machine.execTileRemapComplete l s
  | .gristDecodeBlock k xid => Sys2Proof.Machine.execGristDecodeBlock k xid s
  | .gristEncodeBlock k xid => Sys2Proof.Machine.execGristEncodeBlock k xid s
  | .gtabInstallDone slot => Sys2Proof.Machine.execGtabInstallDone slot s
  | .resFreeDone c => Sys2Proof.Machine.execResFreeDone c s
  | .patrolScrub stack => Sys2Proof.Machine.execPatrolScrub stack s
  | .sparingCopyDone stack => Sys2Proof.Machine.execSparingCopyDone stack s
  | .memXlatInvalWrite val va48 => Sys2Proof.Machine.execMemXlatInvalWrite val va48 s
  | .xlatInvalDone => Sys2Proof.Machine.execXlatInvalDone s
  | .hdrTblInvalWrite val => Sys2Proof.Machine.execHdrTblInvalWrite val s
  | .tblInvalDone => Sys2Proof.Machine.execTblInvalDone s
  | .flitReceive port f => Sys2Proof.Machine.execFlitReceive port f s
  | .laneAlignmentLoss port => Sys2Proof.Machine.execLaneAlignmentLoss port s
  | .portSilence port => Sys2Proof.Machine.execPortSilence port s
  | .portId port switchId switchPort plane => Sys2Proof.Machine.execPortId port switchId switchPort plane s
  | .creditInit port => Sys2Proof.Machine.execCreditInit port s
  | .packetSend => Sys2Proof.Machine.execPacketSend s
  | .fabricLoad pkt => Sys2Proof.Machine.execFabricLoad pkt s
  | .fabricStore pkt => Sys2Proof.Machine.execFabricStore pkt s
  | .fabricRead pkt => Sys2Proof.Machine.execFabricRead pkt s
  | .fabricWrite pkt => Sys2Proof.Machine.execFabricWrite pkt s
  | .fabricAddI32 pkt => Sys2Proof.Machine.execFabricAddI32 pkt s
  | .fabricAddF32 pkt => Sys2Proof.Machine.execFabricAddF32 pkt s
  | .fabricAddP64 pkt => Sys2Proof.Machine.execFabricAddP64 pkt s
  | .fabricAddP64x4 pkt => Sys2Proof.Machine.execFabricAddP64x4 pkt s
  | .fabricSwap32 pkt => Sys2Proof.Machine.execFabricSwap32 pkt s
  | .fabricSwap64 pkt => Sys2Proof.Machine.execFabricSwap64 pkt s
  | .fabricSwap256 pkt => Sys2Proof.Machine.execFabricSwap256 pkt s
  | .fabricSluiceArrive pkt => Sys2Proof.Machine.execFabricSluiceArrive pkt s
  | .fabricResponse pkt => Sys2Proof.Machine.execFabricResponse pkt s
  | .reorderRelease src oclass => Sys2Proof.Machine.execReorderRelease src oclass s
  | .requestTimeout tag => Sys2Proof.Machine.execRequestTimeout tag s
  | .keeperAnnounce => Sys2Proof.Machine.execKeeperAnnounce s
  | .slotReport slot pid leaf => Sys2Proof.Machine.execSlotReport slot pid leaf s
  | .rackReport leaf slots => Sys2Proof.Machine.execRackReport leaf slots s
  | .hallWait => Sys2Proof.Machine.execHallWait s
  | .mapDistribution gen map devnum cause => Sys2Proof.Machine.execMapDistribution gen map devnum cause s
  | .join slot pid leaf => Sys2Proof.Machine.execJoin slot pid leaf s
  | .mapChange gen dev present => Sys2Proof.Machine.execMapChange gen dev present s
  | .joinRetry => Sys2Proof.Machine.execJoinRetry s
  | .keeperHeartbeat => Sys2Proof.Machine.execKeeperHeartbeat s
  | .keeperFailover hall => Sys2Proof.Machine.execKeeperFailover hall s
  | .heartbeatMiss slot => Sys2Proof.Machine.execHeartbeatMiss slot s
  | .bind ring => Sys2Proof.Machine.execBind ring s
  | .unbind ring => Sys2Proof.Machine.execUnbind ring s
  | .opAdmit ring => Sys2Proof.Machine.execOpAdmit ring s
  | .cancel ring => Sys2Proof.Machine.execCancel ring s
  | .load ring => Sys2Proof.Machine.execLoad ring s
  | .activate ring => Sys2Proof.Machine.execActivate ring s
  | .discard ring => Sys2Proof.Machine.execDiscard ring s
  | .heldRecordRetake ring => Sys2Proof.Machine.execHeldRecordRetake ring s
  | .planStep ctx ver runs sluices combine logitFmt => Sys2Proof.Machine.execPlanStep ctx ver runs sluices combine logitFmt s
  | .sequenceSpill ctx seq => Sys2Proof.Machine.execSequenceSpill ctx seq s
  | .stepSample ctx => Sys2Proof.Machine.execStepSample ctx s
  | .completionRecordRetry ring => Sys2Proof.Machine.execCompletionRecordRetry ring s
  | .manifestVerified ctx => Sys2Proof.Machine.execManifestVerified ctx s
  | .shardFetchDone ctx shard => Sys2Proof.Machine.execShardFetchDone ctx shard s
  | .sourceReadyPoll ctx shard => Sys2Proof.Machine.execSourceReadyPoll ctx shard s
  | .shardMissing ctx shard => Sys2Proof.Machine.execShardMissing ctx shard s
  | .slotDiscard ctx => Sys2Proof.Machine.execSlotDiscard ctx s
  | .coreHandover c ctx dest => Sys2Proof.Machine.execCoreHandover c ctx dest s
  | .coreHalt c => Sys2Proof.Machine.execCoreHalt c s
  | .millerCoreRestart c => Sys2Proof.Machine.execMillerCoreRestart c s
  | .drainedUpdate => Sys2Proof.Machine.execDrainedUpdate s
  | .submitDoorbell fn k value written => Sys2Proof.Machine.execSubmitDoorbell fn k value written s
  | .headDoorbell fn k value => Sys2Proof.Machine.execHeadDoorbell fn k value s
  | .ringArm fn k value => Sys2Proof.Machine.execRingArm fn k value s
  | .moderationExpiry ring => Sys2Proof.Machine.execModerationExpiry ring s
  | .ringDescWrite fn k off size val => Sys2Proof.Machine.execRingDescWrite fn k off size val s
  | .ringEnable fn k => Sys2Proof.Machine.execRingEnable fn k s
  | .ringDisable fn k => Sys2Proof.Machine.execRingDisable fn k s
  | .ringDisableDone ring => Sys2Proof.Machine.execRingDisableDone ring s
  | .hifFnRingsWrite f val => Sys2Proof.Machine.execHifFnRingsWrite f val s
  | .hifFnVecWrite f val => Sys2Proof.Machine.execHifFnVecWrite f val s
  | .bar4Access off data size => Sys2Proof.Machine.execBar4Access off data size s
  | .vfFlr v => Sys2Proof.Machine.execVfFlr v s
  | .pfFlr => Sys2Proof.Machine.execPfFlr s
  | .hotReset => Sys2Proof.Machine.execHotReset s
  | .pcieLinkDown => Sys2Proof.Machine.execPcieLinkDown s
  | .perstNRelease => Sys2Proof.Machine.execPerstNRelease s
  | .registerWrite fn off size val => Sys2Proof.Machine.execRegisterWrite fn off size val s
  | .registerReadClear fn off size => Sys2Proof.Machine.execRegisterReadClear fn off size s
  | .bankWakeRequest p => Sys2Proof.Machine.execBankWakeRequest p s
  | .unitEnableRequest u => Sys2Proof.Machine.execUnitEnableRequest u s
  | .unitDisableRequest u => Sys2Proof.Machine.execUnitDisableRequest u s
  | .enableComplete u => Sys2Proof.Machine.execEnableComplete u s
  | .enableFail u => Sys2Proof.Machine.execEnableFail u s
  | .disableComplete u => Sys2Proof.Machine.execDisableComplete u s
  | .rateWindow p => Sys2Proof.Machine.execRateWindow p s
  | .oscCalibration tiles dies ports => Sys2Proof.Machine.execOscCalibration tiles dies ports s
  | .powerSample deciwatts => Sys2Proof.Machine.execPowerSample deciwatts s
  | .capLoop => Sys2Proof.Machine.execCapLoop s
  | .sensorRead readings => Sys2Proof.Machine.execSensorRead readings s
  | .brakeRelease => Sys2Proof.Machine.execBrakeRelease s
  | .brakeLevelRaise => Sys2Proof.Machine.execBrakeLevelRaise s
  | .readyLevelRaise => Sys2Proof.Machine.execReadyLevelRaise s
  | .avsTransactionDone rail good => Sys2Proof.Machine.execAvsTransactionDone rail good s
  | .thermalTrip p => Sys2Proof.Machine.execThermalTrip p s
  | .slowdown m => Sys2Proof.Machine.execSlowdown m s
  | .recover m => Sys2Proof.Machine.execRecover m s
  | .skew m => Sys2Proof.Machine.execSkew m s
  | .tokens m => Sys2Proof.Machine.execTokens m s
  | .mode m => Sys2Proof.Machine.execMode m s
  | .slowdownRepeat => Sys2Proof.Machine.execSlowdownRepeat s
  | .slowdownNoticeExpiry dev => Sys2Proof.Machine.execSlowdownNoticeExpiry dev s
  | .powerGoodRise slot rkeep hkeep => Sys2Proof.Machine.execPowerGoodRise slot rkeep hkeep s
  | .bringupStepDone o ms => Sys2Proof.Machine.execBringupStepDone o ms s
  | .bringupBoundMissed ms => Sys2Proof.Machine.execBringupBoundMissed ms s
  | .pwrGoodFall ns => Sys2Proof.Machine.execPwrGoodFall ns s
  | .entdaa addr => Sys2Proof.Machine.execEntdaa addr s
  | .rstdaa => Sys2Proof.Machine.execRstdaa s
  | .setnewda addr => Sys2Proof.Machine.execSetnewda addr s
  | .getpid => Sys2Proof.Machine.execGetpid s
  | .getbcr => Sys2Proof.Machine.execGetbcr s
  | .getdcr => Sys2Proof.Machine.execGetdcr s
  | .getstatus => Sys2Proof.Machine.execGetstatus s
  | .enec => Sys2Proof.Machine.execEnec s
  | .disec => Sys2Proof.Machine.execDisec s
  | .setmwl n => Sys2Proof.Machine.execSetmwl n s
  | .getmwl => Sys2Proof.Machine.execGetmwl s
  | .setmrl n => Sys2Proof.Machine.execSetmrl n s
  | .getmrl => Sys2Proof.Machine.execGetmrl s
  | .rstact action => Sys2Proof.Machine.execRstact action s
  | .hotJoin => Sys2Proof.Machine.execHotJoin s
  | .i3cPrivateRead => Sys2Proof.Machine.execI3cPrivateRead s
  | .getInfo t f => Sys2Proof.Machine.execGetInfo t f s
  | .getNonce t f => Sys2Proof.Machine.execGetNonce t f s
  | .nonceExpiry t nonce => Sys2Proof.Machine.execNonceExpiry t nonce s
  | .auditRead t f => Sys2Proof.Machine.execAuditRead t f s
  | .auditHead t f => Sys2Proof.Machine.execAuditHead t f s
  | .auditAck t f => Sys2Proof.Machine.execAuditAck t f s
  | .setCap t f => Sys2Proof.Machine.execSetCap t f s
  | .setCapRange t f => Sys2Proof.Machine.execSetCapRange t f s
  | .setGroupCfg t f => Sys2Proof.Machine.execSetGroupCfg t f s
  | .setDroop t f => Sys2Proof.Machine.execSetDroop t f s
  | .vtabWithdraw t f => Sys2Proof.Machine.execVtabWithdraw t f s
  | .vtabRestore t f => Sys2Proof.Machine.execVtabRestore t f s
  | .setTopology t f => Sys2Proof.Machine.execSetTopology t f s
  | .setLoadSpan t f => Sys2Proof.Machine.execSetLoadSpan t f s
  | .pubkeyAdd t f => Sys2Proof.Machine.execPubkeyAdd t f s
  | .pubkeyRemove t f => Sys2Proof.Machine.execPubkeyRemove t f s
  | .pubkeyList t f => Sys2Proof.Machine.execPubkeyList t f s
  | .opkeyAdd t f => Sys2Proof.Machine.execOpkeyAdd t f s
  | .opkeyRemove t f => Sys2Proof.Machine.execOpkeyRemove t f s
  | .installerKeySet t f => Sys2Proof.Machine.execInstallerKeySet t f s
  | .fwStage t f => Sys2Proof.Machine.execFwStage t f s
  | .fwApprove t f => Sys2Proof.Machine.execFwApprove t f s
  | .fwCommitSvn t f => Sys2Proof.Machine.execFwCommitSvn t f s
  | .fwChunk t f => Sys2Proof.Machine.execFwChunk t f s
  | .marchReq t f => Sys2Proof.Machine.execMarchReq t f s
  | .tileRetire t f => Sys2Proof.Machine.execTileRetire t f s
  | .frameRetire t f => Sys2Proof.Machine.execFrameRetire t f s
  | .pcSpare t f => Sys2Proof.Machine.execPcSpare t f s
  | .bar4Open t f => Sys2Proof.Machine.execBar4Open t f s
  | .bar4Close t f => Sys2Proof.Machine.execBar4Close t f s
  | .rtvConsent t f => Sys2Proof.Machine.execRtvConsent t f s
  | .rtvEnter t f => Sys2Proof.Machine.execRtvEnter t f s
  | .makerDiag t f => Sys2Proof.Machine.execMakerDiag t f s
  | .makerProvision t f => Sys2Proof.Machine.execMakerProvision t f s
  | .unknownCommand t opc f => Sys2Proof.Machine.execUnknownCommand t opc f s
  | .mgtRestart => Sys2Proof.Machine.execMgtRestart s
  | .pcieLinkUp width speed => Sys2Proof.Machine.execPcieLinkUp width speed s
  | .laneAlignment port lanes => Sys2Proof.Machine.execLaneAlignment port lanes s
  | .crossingClockStop x => Sys2Proof.Machine.execCrossingClockStop x s
  | .crossingClockReturn x => Sys2Proof.Machine.execCrossingClockReturn x s
  | .setpointReached p => Sys2Proof.Machine.execSetpointReached p s
  | .stackRetraining stack => Sys2Proof.Machine.execStackRetraining stack s
  | .d2dLinkRetraining link => Sys2Proof.Machine.execD2dLinkRetraining link s
  | .mgtReachesService => Sys2Proof.Machine.execMgtReachesService s
  | .submissionUndefinedKind ring => Sys2Proof.Machine.execSubmissionUndefinedKind ring s

end Sys2Proof.Machine
end

