-- ==== Sys2Proof/Machine/Decoding.lean ====
section
/-! DEFINITION. The Jaend instruction that two words spell (06): the reading of the encodings of `Machine/Encoding.lean`. -/

namespace Sys2Proof.Machine
open Sys2Proof

/-- The fields of a defined encoding, by its opcode. R236, R244, R245 and the layouts of 06. -/
def readFields (c : Core) (w0 w1 : W64) : Instr :=
  let f (lo n : Nat) : BitVec n := w0.extractLsb' lo n
  let b (lo : Nat) : Bool := w0.getLsbD lo
  let e (lo n : Nat) : BitVec n := w1.extractLsb' lo n
  let be (lo : Nat) : Bool := w1.getLsbD lo
  let g : Guard := { g := f 52 3, gn := b 51 }
  match (w0.extractLsb' 56 8).toNat with
  | 0x01 => .nop c g
  | 0x02 => .opEnd c g
  | 0x03 => .br c g (f 0 32)
  | 0x04 => .jal c g (f 46 5) (f 0 32)
  | 0x05 => .jr c g (f 41 5)
  | 0x10 => .add c g (f 46 5) (f 41 5) (f 36 5)
  | 0x11 => .sub c g (f 46 5) (f 41 5) (f 36 5)
  | 0x12 => .mul c g (f 46 5) (f 41 5) (f 36 5)
  | 0x13 => .mulhu c g (f 46 5) (f 41 5) (f 36 5)
  | 0x14 => .opAnd c g (f 46 5) (f 41 5) (f 36 5)
  | 0x15 => .opOr c g (f 46 5) (f 41 5) (f 36 5)
  | 0x16 => .opXor c g (f 46 5) (f 41 5) (f 36 5)
  | 0x17 => .shl c g (f 46 5) (f 41 5) (f 36 5)
  | 0x18 => .shr c g (f 46 5) (f 41 5) (f 36 5)
  | 0x19 => .sra c g (f 46 5) (f 41 5) (f 36 5)
  | 0x1A => .opMin c g (f 46 5) (f 41 5) (f 36 5)
  | 0x1B => .opMax c g (f 46 5) (f 41 5) (f 36 5)
  | 0x1C => .minu c g (f 46 5) (f 41 5) (f 36 5)
  | 0x1D => .maxu c g (f 46 5) (f 41 5) (f 36 5)
  | 0x1E => .divu c g (f 46 5) (f 41 5) (f 36 5)
  | 0x1F => .remu c g (f 46 5) (f 41 5) (f 36 5)
  | 0x20 => .addI c g (f 46 5) (f 41 5) (f 0 32)
  | 0x21 => .subI c g (f 46 5) (f 41 5) (f 0 32)
  | 0x22 => .mulI c g (f 46 5) (f 41 5) (f 0 32)
  | 0x23 => .mulhuI c g (f 46 5) (f 41 5) (f 0 32)
  | 0x24 => .andI c g (f 46 5) (f 41 5) (f 0 32)
  | 0x25 => .orI c g (f 46 5) (f 41 5) (f 0 32)
  | 0x26 => .xorI c g (f 46 5) (f 41 5) (f 0 32)
  | 0x27 => .shlI c g (f 46 5) (f 41 5) (f 0 32)
  | 0x28 => .shrI c g (f 46 5) (f 41 5) (f 0 32)
  | 0x29 => .sraI c g (f 46 5) (f 41 5) (f 0 32)
  | 0x2A => .minI c g (f 46 5) (f 41 5) (f 0 32)
  | 0x2B => .maxI c g (f 46 5) (f 41 5) (f 0 32)
  | 0x2C => .minuI c g (f 46 5) (f 41 5) (f 0 32)
  | 0x2D => .maxuI c g (f 46 5) (f 41 5) (f 0 32)
  | 0x2E => .divuI c g (f 46 5) (f 41 5) (f 0 32)
  | 0x2F => .remuI c g (f 46 5) (f 41 5) (f 0 32)
  | 0x30 => .li c g (f 46 5) w1
  | 0x31 => .movRv c g (f 46 5) (f 0 32)
  | 0x32 => .movSa c g (f 46 5) (f 38 4) (f 0 32)
  | 0x33 => .movAs c g (f 42 4) (f 33 5) (f 0 32)
  | 0x34 => .addaI c g (f 42 4) (f 38 4) (f 0 32)
  | 0x35 => .cmpCc c g (f 48 3) (f 44 4) (f 39 5) (f 34 5) (b 33) (f 0 32)
  | 0x36 => .pLop c g (f 48 3) (f 45 3) (f 42 3) (f 40 2)
  | 0x38 => .fadd c g (f 46 5) (f 41 5) (f 36 5)
  | 0x39 => .fsub c g (f 46 5) (f 41 5) (f 36 5)
  | 0x3A => .fmul c g (f 46 5) (f 41 5) (f 36 5)
  | 0x3B => .fdiv c g (f 46 5) (f 41 5) (f 36 5)
  | 0x3C => .fmin c g (f 46 5) (f 41 5) (f 36 5)
  | 0x3D => .fmax c g (f 46 5) (f 41 5) (f 36 5)
  | 0x3E => .fcvtFI c g (f 46 5) (f 41 5)
  | 0x3F => .fcvtIF c g (f 46 5) (f 41 5)
  | 0x40 => .ld c g (f 46 5) (f 42 4) (f 40 2) (b 39) (f 0 32)
  | 0x41 => .st c g (f 46 5) (f 42 4) (f 40 2) (f 0 32)
  | 0x42 => .ldc c g (f 46 5) (f 42 4) (f 40 2) (b 39) (f 34 5) (f 0 32)
  | 0x43 => .stc c g (f 46 5) (f 42 4) (f 40 2) (f 34 5) (f 0 32)
  | 0x50 => .tblBuild c g (f 47 4) (b 46) (f 43 3) (f 41 2) (f 37 4) (f 31 6) (f 19 12) (e 60 4) (e 56 4) (be 55) (e 32 16) (e 16 16)
  | 0x51 => .tblSave c g (f 47 4) (b 46) (f 0 32)
  | 0x52 => .tblLoad c g (f 47 4) (b 46) (f 43 3) (f 41 2) (f 37 4) (f 31 6) (f 19 12) (e 60 4) (e 56 4) (be 55)
  | 0x58 => .laccBin c g (f 47 4) (b 46) (f 43 3) (f 37 6) (f 25 12) (f 13 12) (e 48 16) (e 33 15) (e 0 32)
  | 0x59 => .laccTer c g (f 47 4) (b 46) (f 43 3) (f 37 6) (f 25 12) (f 13 12) (e 48 16) (e 33 15) (e 0 32)
  | 0x5A => .laccI2 c g (f 47 4) (b 46) (f 43 3) (f 37 6) (f 25 12) (f 13 12) (e 48 16) (e 33 15) (e 0 32)
  | 0x5B => .laccI3 c g (f 47 4) (b 46) (f 43 3) (f 37 6) (f 25 12) (f 13 12) (e 48 16) (e 33 15) (e 0 32)
  | 0x5C => .laccI4 c g (f 47 4) (b 46) (f 43 3) (f 37 6) (f 25 12) (f 13 12) (e 48 16) (e 33 15) (e 0 32)
  | 0x5D => .laccCb c g (f 47 4) (b 46) (f 43 3) (f 37 6) (f 25 12) (f 13 12) (e 48 16) (e 33 15) (e 0 32)
  | 0x5E => .laccFp4 c g (f 47 4) (b 46) (f 43 3) (f 37 6) (f 25 12) (f 13 12) (e 48 16) (e 33 15) (e 0 32)
  | 0x60 => .binOpen c g (f 48 3) (f 46 2) (b 45) (f 41 4) (f 39 2) (f 37 2) (f 33 4) (f 29 4) (f 17 12) (f 14 3) (e 48 16) (e 33 15)
  | 0x61 => .binClose c g (f 48 3) (f 46 2) (f 42 4) (f 0 32)
  | 0x68 => .attn c g (f 47 4) (f 43 4) (f 0 32)
  | 0x70 => .strmArm c g (f 47 4) (f 41 6) (f 0 32)
  | 0x71 => .strmRearm c g (f 45 6) (f 40 5) (f 35 5) (b 34) (b 33)
  | 0x72 => .strmWait c g (f 45 6)
  | 0x73 => .strmHalt c g (f 45 6)
  | 0x74 => .strmResume c g (f 41 5) (f 36 5)
  | 0x78 => .ringAttachP c g (f 41 5) (f 0 32)
  | 0x79 => .ringAttachC c g (f 41 5) (f 0 32)
  | 0x7A => .ringDetach c g (f 41 5) (f 0 32)
  | 0x7B => .ringClaim c g (f 46 5) (f 41 5) (f 0 32)
  | 0x7C => .ringPost c g (f 41 5) (f 0 32)
  | 0x7D => .ringTake c g (f 46 5) (f 41 5) (f 0 32)
  | 0x7E => .ringGive c g (f 41 5) (f 0 32)
  | 0x80 => .sluiceArrive c g (f 41 5) (f 0 32)
  | 0x81 => .sluiceWait c g (f 41 5) (f 0 32)
  | 0x82 => .sluiceReset c g (f 46 5) (f 41 5) (f 36 5)
  | 0x83 => .fence c g
  | 0x84 => .hringPeek c g (f 48 3) (f 41 5) (f 37 4) (f 0 32)
  | 0x85 => .hringPop c g (f 41 5)
  | 0x86 => .hringPush c g (f 48 3) (f 41 5) (f 37 4) (f 0 32)
  | 0x88 => .atomAddI32 c g (f 46 5) (f 41 5) (f 37 4) (f 0 32)
  | 0x89 => .atomAddF32 c g (f 46 5) (f 41 5) (f 37 4) (f 0 32)
  | 0x8A => .atomAddP64 c g (f 46 5) (f 41 5) (f 37 4) (f 0 32)
  | 0x8B => .atomSwap32 c g (f 46 5) (f 41 5) (f 37 4) (f 0 32)
  | 0x8C => .atomSwap64 c g (f 46 5) (f 41 5) (f 37 4) (f 0 32)
  | 0x8D => .atomSwap256 c g (f 33 4) (f 37 4) (f 0 32)
  | 0x90 => .gtabGrant c g (f 41 5) (f 36 5)
  | 0x91 => .gtabRevoke c g (f 41 5)
  | 0x92 => .gtabInstall c g (f 46 5) (f 41 5) (f 37 4) (f 33 4) (f 0 32)
  | 0x93 => .evtPost c g (f 48 3) (f 41 5) (f 37 4) (f 0 32)
  | 0xA0 => .runSubmit c g (f 48 3) (f 37 4) (f 0 32)
  | 0xA1 => .runCancel c g (f 41 5) (f 36 5)
  | 0xA2 => .resGrant c g (f 46 5) (f 41 5) (f 36 5)
  | 0xA3 => .resFree c g (f 46 5) (f 41 5) (f 36 5)
  | 0xA8 => .psort c g (f 46 5) (f 37 4) (f 0 32)
  | _ => .undefinedEncoding c w0 w1

/-- The instruction of a core whose words are `w0` and, where it has the long form, `w1`: an undefined encoding where R238 says so or
where the core's profile does not have it (R199). -/
def decodeWords (c : Core) (w0 w1 : W64) : Instr :=
  if definedWords w0 w1 && profileOk c.isTile w0 then readFields c w0 w1 else .undefinedEncoding c w0 w1

end Sys2Proof.Machine
end

