-- ==== Sys2Proof/Safety.lean ====
section
/-! DEFINITION. The terms in which the statements of the certificates are written: the canonical form of memory, when a
sequencer executes an instruction, and what an instruction leaves of a state. -/

namespace Sys2Proof.Machine
open Sys2Proof

/-- The canonical form of memory: addresses rise strictly, and no entry equals the byte zero that an unlisted address reads as. -/
def Memory.wf (m : List Host.Cell) : Bool := twf 0 m

/-- The canonical form of the stored check bits. -/
def Checks.wf (t : Tab W32) : Bool := twf 0 t

/-- Memory, the stored check bits and the owner tags stand in their canonical forms: equal contents are equal data. -/
def Canonical (s : State) : Prop := Memory.wf s.mem = true ∧ Checks.wf s.chk = true ∧ twf 0 s.owner = true

/-- No register of `rs` waits for data. R242. -/
def DataHere (q : Seqr) (rs : List (BitVec 5)) : Prop := ∀ r ∈ rs, ∀ w ∈ q.waiting, w.1 ≠ r.toNat

/-- The sequencer of core `c` may issue, the guard holds and the source registers `rs` hold their data: the instruction executes.
R186, R203, R240, R242. -/
def Executes (s : State) (c : Core) (g : Guard) (rs : List (BitVec 5)) : Prop :=
  canIssue s c = true ∧ guardOn (s.seqr c) g = true ∧ DataHere (s.seqr c) rs

/-- The core that a Jaend instruction runs on; none for the other commands. -/
def coreOf : Instr → Option Core
  | .nop c _ => some c
  | .opEnd c _ => some c
  | .br c _ _ => some c
  | .jal c _ _ _ => some c
  | .jr c _ _ => some c
  | .undefinedEncoding c _ _ => some c
  | .add c _ _ _ _ => some c
  | .sub c _ _ _ _ => some c
  | .mul c _ _ _ _ => some c
  | .mulhu c _ _ _ _ => some c
  | .opAnd c _ _ _ _ => some c
  | .opOr c _ _ _ _ => some c
  | .opXor c _ _ _ _ => some c
  | .shl c _ _ _ _ => some c
  | .shr c _ _ _ _ => some c
  | .sra c _ _ _ _ => some c
  | .opMin c _ _ _ _ => some c
  | .opMax c _ _ _ _ => some c
  | .minu c _ _ _ _ => some c
  | .maxu c _ _ _ _ => some c
  | .divu c _ _ _ _ => some c
  | .remu c _ _ _ _ => some c
  | .addI c _ _ _ _ => some c
  | .subI c _ _ _ _ => some c
  | .mulI c _ _ _ _ => some c
  | .mulhuI c _ _ _ _ => some c
  | .andI c _ _ _ _ => some c
  | .orI c _ _ _ _ => some c
  | .xorI c _ _ _ _ => some c
  | .shlI c _ _ _ _ => some c
  | .shrI c _ _ _ _ => some c
  | .sraI c _ _ _ _ => some c
  | .minI c _ _ _ _ => some c
  | .maxI c _ _ _ _ => some c
  | .minuI c _ _ _ _ => some c
  | .maxuI c _ _ _ _ => some c
  | .divuI c _ _ _ _ => some c
  | .remuI c _ _ _ _ => some c
  | .li c _ _ _ => some c
  | .movRv c _ _ _ => some c
  | .movSa c _ _ _ _ => some c
  | .movAs c _ _ _ _ => some c
  | .addaI c _ _ _ _ => some c
  | .cmpCc c _ _ _ _ _ _ _ => some c
  | .pLop c _ _ _ _ _ => some c
  | .fadd c _ _ _ _ => some c
  | .fsub c _ _ _ _ => some c
  | .fmul c _ _ _ _ => some c
  | .fdiv c _ _ _ _ => some c
  | .fmin c _ _ _ _ => some c
  | .fmax c _ _ _ _ => some c
  | .fcvtFI c _ _ _ => some c
  | .fcvtIF c _ _ _ => some c
  | .ld c _ _ _ _ _ _ => some c
  | .st c _ _ _ _ _ => some c
  | .ldc c _ _ _ _ _ _ _ => some c
  | .stc c _ _ _ _ _ _ => some c
  | .tblBuild c _ _ _ _ _ _ _ _ _ _ _ _ _ => some c
  | .tblSave c _ _ _ _ => some c
  | .tblLoad c _ _ _ _ _ _ _ _ _ _ _ => some c
  | .laccBin c _ _ _ _ _ _ _ _ _ _ => some c
  | .laccTer c _ _ _ _ _ _ _ _ _ _ => some c
  | .laccI2 c _ _ _ _ _ _ _ _ _ _ => some c
  | .laccI3 c _ _ _ _ _ _ _ _ _ _ => some c
  | .laccI4 c _ _ _ _ _ _ _ _ _ _ => some c
  | .laccCb c _ _ _ _ _ _ _ _ _ _ => some c
  | .laccFp4 c _ _ _ _ _ _ _ _ _ _ => some c
  | .binOpen c _ _ _ _ _ _ _ _ _ _ _ _ _ => some c
  | .binClose c _ _ _ _ _ => some c
  | .attn c _ _ _ _ => some c
  | .strmArm c _ _ _ _ => some c
  | .strmRearm c _ _ _ _ _ _ => some c
  | .strmWait c _ _ => some c
  | .strmHalt c _ _ => some c
  | .strmResume c _ _ _ => some c
  | .ringAttachP c _ _ _ => some c
  | .ringAttachC c _ _ _ => some c
  | .ringDetach c _ _ _ => some c
  | .ringClaim c _ _ _ _ => some c
  | .ringPost c _ _ _ => some c
  | .ringTake c _ _ _ _ => some c
  | .ringGive c _ _ _ => some c
  | .sluiceArrive c _ _ _ => some c
  | .sluiceWait c _ _ _ => some c
  | .sluiceReset c _ _ _ _ => some c
  | .fence c _ => some c
  | .hringPeek c _ _ _ _ _ => some c
  | .hringPop c _ _ => some c
  | .hringPush c _ _ _ _ _ => some c
  | .atomAddI32 c _ _ _ _ _ => some c
  | .atomAddF32 c _ _ _ _ _ => some c
  | .atomAddP64 c _ _ _ _ _ => some c
  | .atomSwap32 c _ _ _ _ _ => some c
  | .atomSwap64 c _ _ _ _ _ => some c
  | .atomSwap256 c _ _ _ _ => some c
  | .gtabGrant c _ _ _ => some c
  | .gtabRevoke c _ _ => some c
  | .gtabInstall c _ _ _ _ _ _ => some c
  | .evtPost c _ _ _ _ _ => some c
  | .runSubmit c _ _ _ _ => some c
  | .runCancel c _ _ _ => some c
  | .resGrant c _ _ _ _ => some c
  | .resFree c _ _ _ _ => some c
  | .psort c _ _ _ _ => some c
  | _ => none

/-- What an instruction that writes only scalar register `sd` leaves: the register, the pc past the instruction's `n` bytes, and one
handshake. R200, R243. -/
def WroteS (s : State) (c : Core) (sd : BitVec 5) (v : W64) (n : W64) : State :=
  advance (s.modSeqr c (fun q => q.writeS sd v)) c n

/-- The same for address register `ad`. -/
def WroteA (s : State) (c : Core) (ad : BitVec 4) (v : W64) : State :=
  advance (s.modSeqr c (fun q => q.setA ad v)) c 8

/-- The same for predicate `pd`. -/
def WroteP (s : State) (c : Core) (pd : BitVec 3) (v : Bool) : State :=
  advance (s.modSeqr c (fun q => q.setP pd v)) c 8

/-- A taken branch or jump: the pc moves to its target, in two handshakes. R243. -/
def Jumped (s : State) (c : Core) (pc : W64) : State := coreHs (s.modSeqr c (fun q => { q with pc := pc })) c 2

/-- `n` bytes at Millpond address `a` of logical tile `l` are the tile's own, at offset `off`: aligned, inside a region of run `r` that
allows the access, in blocks that the run's context owns, and no earlier operation of the tile orders the access after it.
R189, R190, R194, R205, R219, R255. -/
def OwnAccess (s : State) (l : Nat) (r : Run) (a n : Nat) (write : Bool) (off : Nat) : Prop :=
  n ∣ a ∧ mpTarget r l a = some (l, off) ∧ n ∣ off ∧ regionOk r true write off n = true ∧
  rangeOwned s r.rr.ctx (s.phys l) off n = true ∧ ownerOf s (s.phys l) off = r.rr.ctx + 1 ∧ storePending s r l a = false ∧
  blocked s l (s.tile (s.phys l)).iseq (if write then [] else [(off, n)]) (if write then [(off, n)] else []) = false

/-- Loaded data of 2^sz bytes, sign- or zero-extended to 64 bits. 06. -/
def extended (sz : BitVec 2) (sx : Bool) (v : Nat) : W64 :=
  if sx then (BitVec.ofNat (8 * 2 ^ sz.toNat) v).signExtend 64 else (BitVec.ofNat (8 * 2 ^ sz.toNat) v).setWidth 64

/-- State `t` holds the `n` low bytes of `v` at storage key `k`, little-endian, and every other byte as `s` has it. R2. -/
def StoredBytes (s t : State) (k n v : Nat) : Prop :=
  ∀ j, t.byte j = if k ≤ j ∧ j < k + n then BitVec.ofNat 8 (v / 256 ^ (j - k)) else s.byte j

/-- A unit instruction of `n` bytes enters a queue of tile `l`: the tile takes the next issue-order number and changes by `upd`, the pc
moves past the instruction, in one handshake. R202, R204, R243. -/
def Queued (s : State) (l : Nat) (n : W64) (upd : Tile → Tile) : State :=
  advance (s.modTile (s.phys l) (fun t => upd { t with iseq := t.iseq + 1 })) (.tile l) n

/-- A row-scale vector and a codebook that a build or load of `rows` rows may name. R70, R261. -/
def VectorsOk (s : State) (l : Nat) (r : Run) (enc : BitVec 3) (ars acb : BitVec 4) (rsn : Bool) (rows : Nat) : Prop :=
  (rsn = false → 4 ∣ ((s.seqr (.tile l)).a ars).toNat ∧
    mpRange s r l ((s.seqr (.tile l)).a ars).toNat false (4 * rows) = .none) ∧
  (enc = 5 → ∃ o, ownOff r l ((s.seqr (.tile l)).a acb).toNat = some o ∧ 32 ∣ ((s.seqr (.tile l)).a acb).toNat ∧ 32 ∣ o ∧
    inBank 1 o 1056 = true ∧ ownRange s r l false o 1056 = .none)

/-- The half record that a build or load sets. R263. -/
def recordOf (s : State) (l : Nat) (r : Run) (enc : BitVec 3) (bpos : BitVec 2) (m : BitVec 6) (nb : BitVec 12) (ars acb : BitVec 4)
    (rsn : Bool) : HalfRec where
  enc := encOf enc.toNat
  bpos := bposOf bpos.toNat
  m := m.toNat + 1
  nb := nb.toNat + 1
  rs := if rsn then none else mpNorm r l ((s.seqr (.tile l)).a ars).toNat
  cb := if enc = 5 then ownOff r l ((s.seqr (.tile l)).a acb).toNat else none

/-- The lookup-accumulate of a weight class. R267. -/
def laccOf (k : LaccKind) (c : Core) (g : Guard) (aw : BitVec 4) (h : Bool) (bin0 : BitVec 3) (m : BitVec 6)
    (blk0 nblk : BitVec 12) (wring : BitVec 16) (n : BitVec 15) (woff : BitVec 32) : Instr :=
  match k with
  | .bin => .laccBin c g aw h bin0 m blk0 nblk wring n woff
  | .ter => .laccTer c g aw h bin0 m blk0 nblk wring n woff
  | .i2 => .laccI2 c g aw h bin0 m blk0 nblk wring n woff
  | .i3 => .laccI3 c g aw h bin0 m blk0 nblk wring n woff
  | .i4 => .laccI4 c g aw h bin0 m blk0 nblk wring n woff
  | .cb => .laccCb c g aw h bin0 m blk0 nblk wring n woff
  | .fp4 => .laccFp4 c g aw h bin0 m blk0 nblk wring n woff

/-- The rules of a lookup-accumulate over `rows` rows, `ch` channels and blocks `blk0` to `blk0 + nb − 1` of a half with record `hr`, into
the bins from `b0` on: encoding, extents, bins, group scales and the accumulation limit. R83, R91, R92, R95, R97, R99, R267. -/
def LookupFits (s : State) (l : Nat) (r : Run) (k : LaccKind) (hr : HalfRec) (b0 rows ch blk0 nb : Nat) : Prop :=
  let iss (b : Nat) : BinIss := tget {} (s.tile (s.phys l)).issBins (b0 + b)
  k.accepts hr.enc = true ∧ rows ≤ hr.m ∧ blk0 + nb ≤ hr.nb ∧ b0 + laccBins rows ch ≤ 8 ∧
  ∀ b, b < laccBins rows ch →
    binMatches (iss b) k b rows ch hr.bpos = true ∧ (iss b).count + nb * k.planes ≤ 65536 ∧
    ((iss b).gs = .array → ownRange s r l false (gsRange (iss b) (nb * hr.bpos)).1 (gsRange (iss b) (nb * hr.bpos)).2 = .none)

/-- The ring number that `sa + imm` names. R283. -/
def RingNo (s : State) (c : Core) (sa : BitVec 5) (imm : BitVec 32) (n : Nat) : Prop :=
  ((s.seqr c).s sa + BitVec.ofInt 64 imm.toInt).toNat = n ∧ n < 65536

/-- Sequencer `c` may attach to bucket ring `n`: a tile to a ring of its run's context, and any sequencer only where no ring that it is
attached to has the new one's rank. R207, R209, R284, R362. -/
def MayAttach (s : State) (c : Core) (n : Nat) : Prop :=
  (s.ring n).kind = .bucket ∧ (∀ l, c = .tile l → ∃ r, s.runOf l = some r ∧ (s.ring n).ctx = r.rr.ctx) ∧
  ∀ a ∈ (s.seqr c).attached, (s.ring a.ring).rank ≠ (s.ring n).rank

/-- A tile's stream and ring queue, through which its ring operations pass, has room. R204. -/
def RingQueueRoom (s : State) (c : Core) : Prop := ∀ l, c = .tile l → (s.tile (s.phys l)).strmQ.length < 8

/-- A slot index one further round a ring of `entries` slots. R360. -/
def nextSlot (entries i : Nat) : Nat := if entries ≤ i + 1 then 0 else i + 1

/-- Slot index `k` of the device is `i` of the firmware slots of the die of Miller core `m`. R276. -/
def FirmwareSlot (s : State) (m i k : Nat) : Prop :=
  i < (s.mrc (m / 4)).fwSlots ∧ isFlume (256 - (s.mrc (m / 4)).fwSlots + i) = false ∧
  k = 256 * (m / 4) + (256 - (s.mrc (m / 4)).fwSlots) + i

/-- The atomic instruction of a kind of 32 or 64 bits. R294. -/
def atomInstr (k : AtomKind) (c : Core) (g : Guard) (sd sa : BitVec 5) (ab : BitVec 4) (off : BitVec 32) : Instr :=
  match k with
  | .addF32 => .atomAddF32 c g sd sa ab off
  | .addP64 => .atomAddP64 c g sd sa ab off
  | .swap32 => .atomSwap32 c g sd sa ab off
  | .swap64 => .atomSwap64 c g sd sa ab off
  | _ => .atomAddI32 c g sd sa ab off

/-- A stream address of slot `k` that names Millpond, and the place that its `n` bytes reach, past no stopped crossing. R344, R627. -/
def StrmPlace (s : State) (k a perm n : Nat) (pl : Place) : Prop :=
  a / 2 ^ 62 = 1 ∧ (strmAddr s k (s.slot k) a perm n).2 = .here pl ∧ barred s (k / 256) pl = false

/-- The record that a stream of slot `k` reads next from its list. R346. -/
def NextTransfer (s : State) (k : Nat) (d : StrmDesc) (t : TDesc) : Prop :=
  (s.slot k).engine = none ∧ (s.slot k).desc = some d ∧ strmLive s k = true ∧ weirOk s (k / 256) (s.slot k).ctx = true ∧
  curTDesc s k = (s, .ok t true) ∧ tdescOk s (s.slot k) t = true

/-- Bytes `bs` stand in memory from storage key `k` on. -/
def HasBytes (s : State) (k : Nat) (bs : List Byte) : Prop := ∀ i, i < bs.length → s.byte (k + i) = nth 0 bs i

/-- A good word of Grist data: its check bits match its data. -/
def GoodWords (ws : List Word288) : Prop := ∀ w ∈ ws, classify w.2 = .clean

/-- The bytes of words, in order. R2. -/
def wordBytes (ws : List Word288) : List Byte := ws.flatMap (fun w => natToBytes w.1.toNat 32)

/-- Request `k` of another device is the one that this device expects next from it, and the fabric is READY. R468, R470, R483. -/
def Expected (s : State) (k : Packet) : Prop :=
  s.hdr.fabSt = .ready ∧ k.resp = false ∧ s.hdr.devValid = true ∧ k.dst = s.hdr.devnum ∧ k.oclass < 4 ∧ aheadBy s k = 0

/-- State `s1` holds the memory of `s`, as after a check of a request that met nothing to report. -/
def SameMemory (s s1 : State) : Prop := s1.mem = s.mem ∧ s1.chk = s.chk

/-- The state in which an expected request is served: the next OSEQ of its device and class is expected. R469. -/
def nextExpected (s : State) (k : Packet) : State :=
  { s with hdr := { s.hdr with
    rxOrder := { dev := k.src, oclass := k.oclass, next := (expectedOseq s k.src k.oclass + 1) % 65536 } ::
      s.hdr.rxOrder.filter (fun o => o.dev != k.src || o.oclass != k.oclass) } }

/-- State `t` has one packet more to send than `s`: the response to request `k`, of operation `op`. R466. -/
def Answered (s t : State) (k : Packet) (op status : Nat) (operand : W64) (data : List Word288) : Prop :=
  t.hdr.sendQ = s.hdr.sendQ ++ [{ k with
    op := op
    operand := operand
    resp := true
    status := status
    len := data.length - 1
    dst := k.src
    src := s.hdr.devnum
    data := data }]

/-- An add or swap request of 32 or 64 bits. R464. -/
def fabricAtom (k : AtomKind) (p : Packet) : Instr :=
  match k with
  | .addF32 => .fabricAddF32 p
  | .addP64 => .fabricAddP64 p
  | .swap32 => .fabricSwap32 p
  | .swap64 => .fabricSwap64 p
  | _ => .fabricAddI32 p

/-- Key of the first byte of entry `i` of a ring of host memory. R570. -/
def hostEntry (r : Ring) (i : Nat) : Nat := hostKey (r.base.toNat + 32 * r.entryUnits * (i % r.entries))

/-- A completion ring that takes a record now, and whose shadow word lies apart from the entry. R526, R528, R578. -/
def TakesRecord (s : State) (r : Nat) : Prop :=
  let e := hostEntry (s.ring r) (s.ring r).c1.toNat
  let w := hostKey (s.ring r).shadow.toNat
  cplRoom s r = true ∧ (w + 8 ≤ e ∨ e + 64 ≤ w)

/-- The record at the head of submission ring `ring` is consumed, and completion ring `cpl` holds the completion record `c` with the next
CSEQ of the ring. R490, R526, R577. -/
def Replied (s t : State) (ring cpl : Nat) (c : Cpl) : Prop :=
  (t.ring ring).c0 = (s.ring ring).c0 + 1 ∧ (t.ring cpl).c1 = (s.ring cpl).c1 + 1 ∧ (t.ring cpl).cseq = (s.ring cpl).cseq + 1 ∧
  t.bytes (hostEntry (s.ring cpl) (s.ring cpl).c1.toNat) 64 = c.bytes (s.ring cpl).cseq

/-- The response frame that is ready on a transport. R646. -/
def responseOn (s : State) : Transport → Option Resp
  | .mailbox => s.mgt.mboxRsp
  | .i3c => s.mgt.i3cRsp

/-- An audited command of code `opc` arrives while the audit record has room for its entries. R644, R671. -/
def AuditedArrives (s : State) (tr : Transport) (opc : Nat) (f : Frame) : Prop :=
  arrives s tr opc f = true ∧ auditOpen s + 2 ≤ auditArea

/-- State `t` has answered the audited command: with OK, `data` and its effect where its credentials pass, with two entries or, where the
effect ends later, one; otherwise with the refusal's status and one entry. R646, R649, R670, R671. -/
def AnsweredFrame (s t : State) (tr : Transport) (opc : Nat) (roles : List Nat) (f : Frame) (later : Bool) (data : List Byte)
    (eff : Prop) : Prop :=
  let st := frameStatus s tr opc roles f
  (st = 0 → responseOn t tr = some { opc := opc, status := 0, auditSeq := some s.mgt.auditNext, data := data } ∧
    t.mgt.auditNext = s.mgt.auditNext + (if later then 1 else 2) ∧ eff) ∧
  (st ≠ 0 → responseOn t tr = some { opc := opc, status := st, auditSeq := some s.mgt.auditNext, data := [] } ∧
    t.mgt.auditNext = s.mgt.auditNext + 1 ∧ t.mem = s.mem ∧ t.fan = s.fan)

/-- State `t` has answered a command that the audit record does not hold. R646, R649. -/
def AnsweredPlain (s t : State) (tr : Transport) (opc : Nat) (roles : List Nat) (f : Frame) (data : List Byte) : Prop :=
  let st := frameStatus s tr opc roles f
  t.mgt.auditNext = s.mgt.auditNext ∧
  responseOn t tr = some { opc := opc, status := st, auditSeq := none, data := if st = 0 then data else [] }

end Sys2Proof.Machine
end

