-- ==== Sys2Proof/Certificates/Slice0/Obligations.lean ====
section
/-! DEFINITION. The statements for the provers: one definition `Obligations.<Name>` for each. -/

open Sys2Proof Sys2Proof.Machine

/-! ## Sequencers (05, 06) -/

/-- The RR and RI integer instructions execute for every operand and give the results of the operation table of 06; an RI form takes
the sign-extended immediate as its second operand. R248. -/
def Obligations.IntegerForms : Prop :=
  (∀ (s : State) (c : Core) (g : Guard) (sd sa sb : BitVec 5), Executes s c g [sa, sb] →
    let a := (s.seqr c).s sa
    let b := (s.seqr c).s sb
    exec (.add c g sd sa sb) s = .next (WroteS s c sd (a + b) 8) ∧
    exec (.sub c g sd sa sb) s = .next (WroteS s c sd (a - b) 8) ∧
    exec (.mul c g sd sa sb) s = .next (WroteS s c sd (BitVec.ofNat 64 (a.toNat * b.toNat)) 8) ∧
    exec (.mulhu c g sd sa sb) s = .next (WroteS s c sd ((a.setWidth 128 * b.setWidth 128).extractLsb' 64 64) 8) ∧
    exec (.opAnd c g sd sa sb) s = .next (WroteS s c sd (a &&& b) 8) ∧
    exec (.opOr c g sd sa sb) s = .next (WroteS s c sd (a ||| b) 8) ∧
    exec (.opXor c g sd sa sb) s = .next (WroteS s c sd (a ^^^ b) 8) ∧
    exec (.shl c g sd sa sb) s = .next (WroteS s c sd (a <<< b.extractLsb' 0 6) 8) ∧
    exec (.shr c g sd sa sb) s = .next (WroteS s c sd (a >>> b.extractLsb' 0 6) 8) ∧
    exec (.sra c g sd sa sb) s = .next (WroteS s c sd (a.sshiftRight' (b.extractLsb' 0 6)) 8) ∧
    exec (.opMin c g sd sa sb) s = .next (WroteS s c sd (BitVec.ofInt 64 (min a.toInt b.toInt)) 8) ∧
    exec (.opMax c g sd sa sb) s = .next (WroteS s c sd (BitVec.ofInt 64 (max a.toInt b.toInt)) 8) ∧
    exec (.minu c g sd sa sb) s = .next (WroteS s c sd (BitVec.ofNat 64 (min a.toNat b.toNat)) 8) ∧
    exec (.maxu c g sd sa sb) s = .next (WroteS s c sd (BitVec.ofNat 64 (max a.toNat b.toNat)) 8) ∧
    exec (.divu c g sd sa sb) s =
      .next (WroteS s c sd (if b = 0 then BitVec.allOnes 64 else BitVec.ofNat 64 (a.toNat / b.toNat)) 8) ∧
    exec (.remu c g sd sa sb) s =
      .next (WroteS s c sd (if b = 0 then a else BitVec.ofNat 64 (a.toNat % b.toNat)) 8)) ∧
  (∀ (s : State) (c : Core) (g : Guard) (sd sa : BitVec 5) (imm : BitVec 32), Executes s c g [sa] →
    let a := (s.seqr c).s sa
    let b : W64 := BitVec.ofInt 64 imm.toInt
    exec (.addI c g sd sa imm) s = .next (WroteS s c sd (a + b) 8) ∧
    exec (.subI c g sd sa imm) s = .next (WroteS s c sd (a - b) 8) ∧
    exec (.mulI c g sd sa imm) s = .next (WroteS s c sd (BitVec.ofNat 64 (a.toNat * b.toNat)) 8) ∧
    exec (.mulhuI c g sd sa imm) s = .next (WroteS s c sd ((a.setWidth 128 * b.setWidth 128).extractLsb' 64 64) 8) ∧
    exec (.andI c g sd sa imm) s = .next (WroteS s c sd (a &&& b) 8) ∧
    exec (.orI c g sd sa imm) s = .next (WroteS s c sd (a ||| b) 8) ∧
    exec (.xorI c g sd sa imm) s = .next (WroteS s c sd (a ^^^ b) 8) ∧
    exec (.shlI c g sd sa imm) s = .next (WroteS s c sd (a <<< imm.extractLsb' 0 6) 8) ∧
    exec (.shrI c g sd sa imm) s = .next (WroteS s c sd (a >>> imm.extractLsb' 0 6) 8) ∧
    exec (.sraI c g sd sa imm) s = .next (WroteS s c sd (a.sshiftRight' (imm.extractLsb' 0 6)) 8) ∧
    exec (.minI c g sd sa imm) s = .next (WroteS s c sd (BitVec.ofInt 64 (min a.toInt imm.toInt)) 8) ∧
    exec (.maxI c g sd sa imm) s = .next (WroteS s c sd (BitVec.ofInt 64 (max a.toInt imm.toInt)) 8) ∧
    exec (.minuI c g sd sa imm) s = .next (WroteS s c sd (BitVec.ofNat 64 (min a.toNat b.toNat)) 8) ∧
    exec (.maxuI c g sd sa imm) s = .next (WroteS s c sd (BitVec.ofNat 64 (max a.toNat b.toNat)) 8) ∧
    exec (.divuI c g sd sa imm) s =
      .next (WroteS s c sd (if imm = 0 then BitVec.allOnes 64 else BitVec.ofNat 64 (a.toNat / b.toNat)) 8) ∧
    exec (.remuI c g sd sa imm) s =
      .next (WroteS s c sd (if imm = 0 then a else BitVec.ofNat 64 (a.toNat % b.toNat)) 8))

/-- Moves between register files, run values and the extension word. R249. -/
def Obligations.MovesAndRunValues : Prop :=
  (∀ (s : State) (c : Core) (g : Guard) (sd : BitVec 5) (imm : W64), Executes s c g [] →
    exec (.li c g sd imm) s = .next (WroteS s c sd imm 16)) ∧
  (∀ (s : State) (c : Core) (g : Guard) (sd : BitVec 5) (ab : BitVec 4) (imm : BitVec 32), Executes s c g [] →
    exec (.movSa c g sd ab imm) s = .next (WroteS s c sd ((s.seqr c).a ab + BitVec.ofInt 64 imm.toInt) 8)) ∧
  (∀ (s : State) (c : Core) (g : Guard) (ad : BitVec 4) (sa : BitVec 5) (imm : BitVec 32), Executes s c g [sa] →
    exec (.movAs c g ad sa imm) s = .next (WroteA s c ad ((s.seqr c).s sa + BitVec.ofInt 64 imm.toInt))) ∧
  (∀ (s : State) (c : Core) (g : Guard) (ad ab : BitVec 4) (imm : BitVec 32), Executes s c g [] →
    exec (.addaI c g ad ab imm) s = .next (WroteA s c ad ((s.seqr c).a ab + BitVec.ofInt 64 imm.toInt))) ∧
  (∀ (s : State) (l : Nat) (g : Guard) (sd : BitVec 5) (imm : BitVec 32) (r : Run), Executes s (.tile l) g [] →
    imm.toNat ≤ 9 → s.runOf l = some r →
    exec (.movRv (.tile l) g sd imm) s = .next (WroteS s (.tile l) sd (BitVec.ofNat 64 (nth 0
      [r.rr.indexOf l, r.rr.tileList.length, r.rr.ctx, r.rr.seqno, r.rr.step, r.rr.die, l, s.hdr.devnum, r.rr.ver.toNat, 0]
      imm.toNat)) 8)) ∧
  (∀ (s : State) (m : Nat) (g : Guard) (sd : BitVec 5) (imm : BitVec 32), Executes s (.miller m) g [] → imm.toNat ≤ 9 →
    exec (.movRv (.miller m) g sd imm) s = .next (WroteS s (.miller m) sd (BitVec.ofNat 64 (nth 0
      [0, 0, 0, 0, 0, m / 4, 0, s.hdr.devnum, 0, m] imm.toNat)) 8))

/-- Every comparison and predicate operation of 06, with a register and with an immediate; a NaN operand makes the FP32 order and
equality false, and the two zeros compare equal. R250, R251. -/
def Obligations.ComparesAndPredicates : Prop :=
  (∀ (s : State) (c : Core) (g : Guard) (pd : BitVec 3) (cc : BitVec 4) (sa sb : BitVec 5) (useImm : Bool) (imm : BitVec 32),
    Executes s c g (if useImm then [sa] else [sa, sb]) → cc.toNat ≤ 9 → (if useImm then sb = 0 else imm = 0) →
    let a := (s.seqr c).s sa
    let b := if useImm then BitVec.ofInt 64 imm.toInt else (s.seqr c).s sb
    let x := f32 (a.setWidth 32)
    let y := f32 (b.setWidth 32)
    exec (.cmpCc c g pd cc sa sb useImm imm) s = .next (WroteP s c pd (nth false
      [decide (a = b), decide (a ≠ b), decide (a.toInt < b.toInt), decide (b.toInt ≤ a.toInt), decide (a.toNat < b.toNat),
       decide (b.toNat ≤ a.toNat), x.lt y, x.lt y || x.eq y, x.eq y, !x.eq y] cc.toNat))) ∧
  (∀ (s : State) (c : Core) (g : Guard) (pd pa pb : BitVec 3) (lop : BitVec 2), Executes s c g [] →
    let a := (s.seqr c).p pa
    let b := (s.seqr c).p pb
    exec (.pLop c g pd pa pb lop) s = .next (WroteP s c pd (nth false [a && b, a || b, xor a b, a && !b] lop.toNat))) ∧
  (∀ x y : W32, f32 x = .nan ∨ f32 y = .nan →
    (f32 x).lt (f32 y) = false ∧ ((f32 x).lt (f32 y) || (f32 x).eq (f32 y)) = false ∧ (f32 x).eq (f32 y) = false) ∧
  (f32 0).eq (f32 0x80000000) = true ∧ (f32 0x80000000).eq (f32 0) = true ∧ (f32 0).lt (f32 0x80000000) = false ∧
  (f32 0x80000000).lt (f32 0) = false

/-- The FP32 instructions round one exact result, and write zero to bits [63:32]. R252, R54. -/
def Obligations.Fp32Forms : Prop :=
  (∀ (s : State) (c : Core) (g : Guard) (sd sa sb : BitVec 5), Executes s c g [sa, sb] →
    let x := f32 (((s.seqr c).s sa).setWidth 32)
    let y := f32 (((s.seqr c).s sb).setWidth 32)
    exec (.fadd c g sd sa sb) s = .next (WroteS s c sd ((rne32 (x.add y)).setWidth 64) 8) ∧
    exec (.fsub c g sd sa sb) s = .next (WroteS s c sd ((rne32 (x.add y.neg)).setWidth 64) 8) ∧
    exec (.fmul c g sd sa sb) s = .next (WroteS s c sd ((rne32 (x.mul y)).setWidth 64) 8) ∧
    exec (.fdiv c g sd sa sb) s = .next (WroteS s c sd ((rne32 (x.div y)).setWidth 64) 8) ∧
    exec (.fmin c g sd sa sb) s =
      .next (WroteS s c sd ((fmin32 (((s.seqr c).s sa).setWidth 32) (((s.seqr c).s sb).setWidth 32)).setWidth 64) 8) ∧
    exec (.fmax c g sd sa sb) s =
      .next (WroteS s c sd ((fmax32 (((s.seqr c).s sa).setWidth 32) (((s.seqr c).s sb).setWidth 32)).setWidth 64) 8)) ∧
  (∀ (s : State) (c : Core) (g : Guard) (sd sa : BitVec 5), Executes s c g [sa] →
    let a := (s.seqr c).s sa
    exec (.fcvtFI c g sd sa) s =
      .next (WroteS s c sd ((rne32 (if a.toInt = 0 then .zero false else .fin a.toInt 0)).setWidth 64) 8) ∧
    exec (.fcvtIF c g sd sa) s = .next (WroteS s c sd (f32ToI64 (a.setWidth 32)) 8))

/-- Every NaN that the FP32 instructions write is the canonical one, and a NaN operand gives a NaN. R56, R252. -/
def Obligations.Fp32NanIsCanonical : Prop :=
  ∀ (a b : W32) (f : W32 → W32 → W32), f ∈ [fadd32, fsub32, fmul32, fdiv32, fmin32, fmax32] →
    (f32 (f a b) = .nan → f a b = 0x7FC00000) ∧ (f32 a = .nan ∨ f32 b = .nan → f a b = 0x7FC00000)

/-- Control instructions: `nop`, `br`, `jal`, `jr` and `end` in both profiles, and a `jr` to a bad target. R243, R246, R247. -/
def Obligations.ControlForms : Prop :=
  (∀ (s : State) (c : Core) (g : Guard) (sd : BitVec 5) (imm : BitVec 32), Executes s c g [] →
    exec (.nop c g) s = .next (advance s c 8) ∧
    exec (.br c g imm) s = .next (Jumped s c ((s.seqr c).pc + 8 * BitVec.ofInt 64 imm.toInt)) ∧
    exec (.jal c g sd imm) s = .next (Jumped (s.modSeqr c (fun q => q.writeS sd ((s.seqr c).pc + 8))) c
      ((s.seqr c).pc + 8 * BitVec.ofInt 64 imm.toInt))) ∧
  (∀ (s : State) (c : Core) (g : Guard) (sa : BitVec 5), Executes s c g [sa] →
    exec (.jr c g sa) s = .next (if 8 ∣ ((s.seqr c).s sa).toNat then Jumped s c ((s.seqr c).s sa)
      else coreFault s c .operandInvalid 0)) ∧
  (∀ (s : State) (l : Nat) (g : Guard), Executes s (.tile l) g [] →
    exec (.opEnd (.tile l) g) s = .next (advance (s.modSeqr (.tile l) (fun q => { q with mode := .ended })) (.tile l) 8)) ∧
  (∀ (s : State) (m : Nat) (g : Guard), Executes s (.miller m) g [] →
    ∃ t, exec (.opEnd (.miller m) g) s = .next t ∧ t = { s with millers := t.millers } ∧
      t.miller m = { s.miller m with run := .stopped, seqr := { (s.miller m).seqr with mode := .ended, pc := (s.miller m).seqr.pc + 8 } } ∧
      ∀ j, j ≠ m → t.miller j = s.miller j)

/-- The words of every Jaend instruction whose guard value, predicate G inverted when GN is 1, is false: the instruction is skipped,
whatever its operands, registers and operation. Nothing changes but the pc, which moves past it, and one handshake of the tile is
counted, for its rate window, its total and the progress of its run. R236, R237, R240. -/
def Obligations.FalseGuardSkips : Prop :=
  (∀ (s : State) (c : Core) (w0 w1 : W64), canIssue s c = true → definedWords w0 w1 = true → profileOk c.isTile w0 = true →
    (s.seqr c).p (w0.extractLsb' 52 3) = w0.getLsbD 51 →
    exec (decodeWords c w0 w1) s = .next (advance s c (if w0.getLsbD 55 then 16 else 8))) ∧
  (∀ (s : State) (l : Nat) (n : W64),
    let t := advance s (.tile l) n
    t = { s with tiles := t.tiles, govs := t.govs } ∧ (∀ p, p ≠ s.phys l → t.tile p = s.tile p) ∧
    t.tile (s.phys l) = { s.tile (s.phys l) with
      hs := ((s.tile (s.phys l)).hs + 1) % 2 ^ 64
      window := (s.tile (s.phys l)).window + 1
      seqr := { s.seqr (.tile l) with pc := (s.seqr (.tile l)).pc + n } } ∧
    ∀ d rid, t.run? d rid = if d = l / 48 ∧ (s.ltile l).run = some rid
      then (s.run? d rid).map (fun r => { r with progressTick := runTicks t r }) else s.run? d rid) ∧
  (∀ (s : State) (m : Nat) (n : W64),
    let t := advance s (.miller m) n
    t = { s with millers := t.millers } ∧ (∀ j, j ≠ m → t.miller j = s.miller j) ∧
    t.miller m = { s.miller m with seqr := { (s.miller m).seqr with pc := (s.miller m).seqr.pc + n } })

/-- Registers after an instruction with a scalar result: s0 reads zero and takes no write, every other register keeps its value but
for the destination, and nothing outside the sequencer changes but the handshake counts. R200, R243. -/
def Obligations.ScalarResultFrame : Prop :=
  (∀ (s : State) (c : Core) (sd : BitVec 5) (v n : W64), (s.seqr c).s 0 = 0 ∧ (s.seqr c).p 0 = true ∧
    let t := WroteS s c sd v n
    (∀ r, (t.seqr c).s r = if r = sd ∧ sd ≠ 0 then v else (s.seqr c).s r) ∧
    (∀ r, (t.seqr c).a r = (s.seqr c).a r) ∧ (∀ r, (t.seqr c).p r = (s.seqr c).p r) ∧ (t.seqr c).pc = (s.seqr c).pc + n) ∧
  (∀ (s : State) (c : Core) (ad : BitVec 4) (v : W64),
    let t := WroteA s c ad v
    (∀ r, (t.seqr c).a r = if r = ad then v else (s.seqr c).a r) ∧ (∀ r, (t.seqr c).s r = (s.seqr c).s r) ∧
    (∀ r, (t.seqr c).p r = (s.seqr c).p r)) ∧
  (∀ (s : State) (c : Core) (pd : BitVec 3) (v : Bool),
    let t := WroteP s c pd v
    (∀ r, (t.seqr c).p r = if r = pd ∧ pd ≠ 0 then v else (s.seqr c).p r) ∧ (∀ r, (t.seqr c).s r = (s.seqr c).s r) ∧
    (∀ r, (t.seqr c).a r = (s.seqr c).a r)) ∧
  (∀ (s : State) (l : Nat) (sd : BitVec 5) (v n : W64),
    let t := WroteS s (.tile l) sd v n
    t = { s with tiles := t.tiles, govs := t.govs } ∧ (∀ p, p ≠ s.phys l → t.tile p = s.tile p) ∧
    t.tile (s.phys l) = { s.tile (s.phys l) with
      hs := ((s.tile (s.phys l)).hs + 1) % 2 ^ 64
      window := (s.tile (s.phys l)).window + 1
      seqr := { (s.seqr (.tile l)).writeS sd v with pc := (s.seqr (.tile l)).pc + n } }) ∧
  (∀ (s : State) (m : Nat) (sd : BitVec 5) (v n : W64),
    let t := WroteS s (.miller m) sd v n
    t = { s with millers := t.millers } ∧ (∀ j, j ≠ m → t.miller j = s.miller j) ∧
    t.miller m = { s.miller m with seqr := { (s.seqr (.miller m)).writeS sd v with pc := (s.seqr (.miller m)).pc + n } })

/-- Words with no meaning in the core's profile fault at issue with OPERAND_INVALID: a tile's run keeps the fault, its pc within the
program, its tile and class 0, and begins to stop; a Miller core halts. R199, R203, R230, R238. -/
def Obligations.UndefinedWordsFault : Prop :=
  (∀ (s : State) (l : Nat) (w0 w1 : W64) (r : Run), canIssue s (.tile l) = true →
    (definedWords w0 w1 && profileOk true w0) = false → s.runOf l = some r →
    ∃ t, exec (.undefinedEncoding (.tile l) w0 w1) s = .next t ∧ t.mem = s.mem ∧ (t.seqr (.tile l)).mode = .faulted ∧
      t.run? (l / 48) r.rid = some { r with
        phase := .stopping, fault := .operandInvalid, faultPc := some ((s.seqr (.tile l)).pc - r.rr.progAddr),
        faultTile := r.rr.indexOf l, faultClass := 0 }) ∧
  (∀ (s : State) (m : Nat) (w0 w1 : W64), canIssue s (.miller m) = true →
    (definedWords w0 w1 && profileOk false w0) = false →
    ∃ t, exec (.undefinedEncoding (.miller m) w0 w1) s = .next t ∧ t = { s with millers := t.millers } ∧
      t.miller m = { s.miller m with
        run := .halted
        seqr := { (s.miller m).seqr with mode := .faulted, hold := .none, released := false } })

/-! ## Loads and stores (06) -/

/-- A tile's load from its own Millpond: the addressed bytes of a word that holds good data, sign- or zero-extended, from a region of
the run that the context owns; a Miller core's load from its service memory, and from HBM through a context where the stack's clock runs;
and the fault of a misaligned load. R253, R257, R258, R627. -/
def Obligations.LoadsReadTheirBytes : Prop :=
  (∀ (s : State) (l off : Nat) (g : Guard) (sd : BitVec 5) (ab : BitVec 4) (sz : BitVec 2) (sx : Bool) (o32 : BitVec 32) (r : Run),
    Executes s (.tile l) g [] → s.runOf l = some r →
    OwnAccess s l r (effAddr (s.seqr (.tile l)) ab o32).toNat (2 ^ sz.toNat) false off →
    classify (s.word (millKey (s.phys l) off)).2 = .clean →
    exec (.ld (.tile l) g sd ab sz sx o32) s = .next (WroteS (touch s (.mill (s.phys l) off)) (.tile l) sd
      (extended sz sx (s.num (millKey (s.phys l) off) (2 ^ sz.toNat))) 8)) ∧
  (∀ (s : State) (m : Nat) (g : Guard) (sd : BitVec 5) (ab : BitVec 4) (sz : BitVec 2) (sx : Bool) (o32 : BitVec 32),
    Executes s (.miller m) g [] →
    let a := (effAddr (s.seqr (.miller m)) ab o32).toNat
    2 ^ sz.toNat ∣ a → a < 2 ^ 48 →
    exec (.ld (.miller m) g sd ab sz sx o32) s =
      .next (WroteS s (.miller m) sd (extended sz sx (s.num (svcKey m a) (2 ^ sz.toNat))) 8)) ∧
  (∀ (s s1 : State) (m d : Nat) (g : Guard) (sd sc : BitVec 5) (ab : BitVec 4) (sz : BitVec 2) (sx : Bool) (o32 : BitVec 32),
    Executes s (.miller m) g [sc] →
    let a := (effAddr (s.seqr (.miller m)) ab o32).toNat
    2 ^ sz.toNat ∣ a → svcPending s m (((s.seqr (.miller m)).s sc).toNat % 4096) a (2 ^ sz.toNat) = false →
    ctxAddr s (((s.seqr (.miller m)).s sc).toNat % 4096) a permRead (2 ^ sz.toNat) false = (s1, .here (.hbm d)) →
    barred s1 (m / 4) (.hbm d) = false → 2 ^ sz.toNat ∣ d → classify (s1.word d).2 = .clean →
    exec (.ldc (.miller m) g sd ab sz sx sc o32) s =
      .next (WroteS s1 (.miller m) sd (extended sz sx (s1.num d (2 ^ sz.toNat))) 8)) ∧
  (∀ (s : State) (c : Core) (g : Guard) (sd : BitVec 5) (ab : BitVec 4) (sz : BitVec 2) (sx : Bool) (o32 : BitVec 32),
    Executes s c g [] →
    ¬ 2 ^ sz.toNat ∣ (effAddr (s.seqr c) ab o32).toNat →
    exec (.ld c g sd ab sz sx o32) s = .next (coreFault s c .operandInvalid 0))

/-- A store writes the low bytes of the register at the effective address and no other byte of memory; the word stays good, and
nothing outside the tile changes but its run's progress; a Miller core's store to HBM through a context is made where the stack's clock
runs. R253, R258, R314, R627. -/
def Obligations.StoresWriteTheirBytes : Prop :=
  (∀ (s : State) (l off : Nat) (g : Guard) (sd : BitVec 5) (ab : BitVec 4) (sz : BitVec 2) (o32 : BitVec 32) (r : Run),
    Executes s (.tile l) g [sd] → s.runOf l = some r →
    OwnAccess s l r (effAddr (s.seqr (.tile l)) ab o32).toNat (2 ^ sz.toNat) true off →
    classify (s.word (millKey (s.phys l) off)).2 = .clean →
    ∃ t, exec (.st (.tile l) g sd ab sz o32) s = .next t ∧
      StoredBytes s t (millKey (s.phys l) off) (2 ^ sz.toNat) ((s.seqr (.tile l)).s sd).toNat ∧
      (∀ j, tget 0 t.chk j = tget 0 s.chk j) ∧
      t = { s with mem := t.mem, chk := t.chk, tiles := t.tiles, govs := t.govs } ∧
      t.seqr (.tile l) = { s.seqr (.tile l) with pc := (s.seqr (.tile l)).pc + 8 } ∧
      ∀ p, p ≠ s.phys l → t.tile p = s.tile p) ∧
  (∀ (s : State) (l u off : Nat) (g : Guard) (sd : BitVec 5) (ab : BitVec 4) (sz : BitVec 2) (o32 : BitVec 32) (r : Run),
    Executes s (.tile l) g [sd] → s.runOf l = some r →
    let ea := effAddr (s.seqr (.tile l)) ab o32
    let t0 := s.tile (s.phys l)
    2 ^ sz.toNat ∣ ea.toNat → mpTarget r l ea.toNat = some (u, off) → u ≠ l → regionOk r false true off (2 ^ sz.toNat) = true →
    t0.atomQ.length < 16 →
    ∃ t, exec (.st (.tile l) g sd ab sz o32) s = .next t ∧ t.mem = s.mem ∧
      (t.tile (s.phys l)).atomQ = t0.atomQ ++ [({
        iseq := t0.iseq
        pc := (s.seqr (.tile l)).pc
        kind := .store (2 ^ sz.toNat)
        addr := ea
        operand := (s.seqr (.tile l)).s sd
        ctx := r.rr.ctx } : AtomOp)] ∧
      t.seqr (.tile l) = { s.seqr (.tile l) with pc := (s.seqr (.tile l)).pc + 8 }) ∧
  (∀ (s : State) (m : Nat) (g : Guard) (sd : BitVec 5) (ab : BitVec 4) (sz : BitVec 2) (o32 : BitVec 32),
    Executes s (.miller m) g [sd] →
    let a := (effAddr (s.seqr (.miller m)) ab o32).toNat
    2 ^ sz.toNat ∣ a → a < 2 ^ 48 →
    ∃ t, exec (.st (.miller m) g sd ab sz o32) s = .next t ∧
      StoredBytes s t (svcKey m a) (2 ^ sz.toNat) ((s.seqr (.miller m)).s sd).toNat ∧
      t = { advance s (.miller m) 8 with mem := t.mem }) ∧
  (∀ (s s1 : State) (m d : Nat) (g : Guard) (sd sc : BitVec 5) (ab : BitVec 4) (sz : BitVec 2) (o32 : BitVec 32),
    Executes s (.miller m) g [sc, sd] →
    let a := (effAddr (s.seqr (.miller m)) ab o32).toNat
    2 ^ sz.toNat ∣ a →
    ctxAddr s (((s.seqr (.miller m)).s sc).toNat % 4096) a permWrite (2 ^ sz.toNat) false = (s1, .here (.hbm d)) →
    barred s1 (m / 4) (.hbm d) = false → 2 ^ sz.toNat ∣ d → classify (s1.word d).2 = .clean →
    ∃ t, exec (.stc (.miller m) g sd ab sz sc o32) s = .next t ∧
      StoredBytes s1 t d (2 ^ sz.toNat) ((s.seqr (.miller m)).s sd).toNat ∧
      t = { advance s1 (.miller m) 8 with mem := t.mem, chk := t.chk })

/-! ## Unit instructions of a tile (06) -/

/-- `tbl.build`, `tbl.save` and `tbl.load` that keep the rules on their operands enter the Hopper queue with the values that their
registers hold, and a build or load sets the half record of the issue-order state. R241, R259 to R265. -/
def Obligations.TableInstructionsEnqueue : Prop :=
  (∀ (s : State) (l src : Nat) (g : Guard) (as_ : BitVec 4) (h : Bool) (enc : BitVec 3) (bpos : BitVec 2) (ifmt : BitVec 4)
    (m : BitVec 6) (nb : BitVec 12) (ars acb : BitVec 4) (rsn : Bool) (krem rstride : BitVec 16) (r : Run) (f : Fmt),
    Executes s (.tile l) g [] → s.runOf l = some r → wfTbl enc bpos ifmt ars acb rsn = true → fmtOf ifmt.toNat = some f →
    let hr := recordOf s l r enc bpos m nb ars acb rsn
    let o : BuildOp := {
      pc := (s.seqr (.tile l)).pc
      half := h
      hr := hr
      ifmt := f
      src := src
      krem := krem.toNat
      rstride := rstride.toNat }
    ownOff r l ((s.seqr (.tile l)).a as_).toNat = some src → fmtBytes f ∣ ((s.seqr (.tile l)).a as_).toNat →
    buildFits hr.enc hr.bpos hr.m hr.nb = true → VectorsOk s l r enc ars acb rsn hr.m →
    (∀ x ∈ o.rows, x.2 ≠ 0 → inBank 1 x.1 x.2 = true ∧ ownRange s r l false x.1 x.2 = .none) →
    (s.tile (s.phys l)).hopQ.length < 4 →
    exec (.tblBuild (.tile l) g as_ h enc bpos ifmt m nb ars acb rsn krem rstride) s = .next (Queued s l 16 (fun t => Tile.setIss
      { t with hopQ := t.hopQ ++ [.build (s.tile (s.phys l)).iseq o] } h hr))) ∧
  (∀ (s : State) (l a : Nat) (g : Guard) (ab : BitVec 4) (h : Bool) (off : BitVec 32) (r : Run),
    Executes s (.tile l) g [] → s.runOf l = some r →
    ownOff r l (effAddr (s.seqr (.tile l)) ab off).toNat = some a → 32 ∣ a → inBank 1 a 135168 = true →
    ownRange s r l true a 135168 = .none → (s.tile (s.phys l)).hopQ.length < 4 →
    exec (.tblSave (.tile l) g ab h off) s = .next (Queued s l 8 (fun t =>
      { t with hopQ := t.hopQ ++ [.save (s.tile (s.phys l)).iseq (s.seqr (.tile l)).pc h a] }))) ∧
  (∀ (s : State) (l src : Nat) (g : Guard) (as_ : BitVec 4) (h : Bool) (enc : BitVec 3) (bpos : BitVec 2) (ifmt : BitVec 4)
    (m : BitVec 6) (nb : BitVec 12) (ars acb : BitVec 4) (rsn : Bool) (r : Run) (f : Fmt),
    Executes s (.tile l) g [] → s.runOf l = some r → wfTbl enc bpos ifmt ars acb rsn = true → fmtOf ifmt.toNat = some f →
    let hr := recordOf s l r enc bpos m nb ars acb rsn
    let o : BuildOp := {
      pc := (s.seqr (.tile l)).pc
      half := h
      hr := hr
      ifmt := f
      src := src
      krem := 0
      rstride := 0 }
    ownOff r l ((s.seqr (.tile l)).a as_).toNat = some src → 32 ∣ src → inBank 1 src 135168 = true →
    ownRange s r l false src 135168 = .none →
    buildFits hr.enc hr.bpos hr.m hr.nb = true → VectorsOk s l r enc ars acb rsn hr.m →
    (s.tile (s.phys l)).hopQ.length < 4 →
    exec (.tblLoad (.tile l) g as_ h enc bpos ifmt m nb ars acb rsn) s = .next (Queued s l 16 (fun t => Tile.setIss
      { t with hopQ := t.hopQ ++ [.load (s.tile (s.phys l)).iseq o] } h hr)))

/-- Every lookup-accumulate that keeps the rules enters the lookup queue, from a Millpond address or from a ring that it attaches to
the lookup path, and adds its accumulations and block positions to its bins of the issue-order state. R91, R96, R266 to R271. -/
def Obligations.LookupsEnqueue : Prop :=
  (∀ (s : State) (l a : Nat) (k : LaccKind) (g : Guard) (aw : BitVec 4) (h : Bool) (bin0 : BitVec 3) (m : BitVec 6)
    (blk0 nblk : BitVec 12) (n : BitVec 15) (woff : BitVec 32) (r : Run) (hr : HalfRec),
    Executes s (.tile l) g [] → s.runOf l = some r →
    let t0 := s.tile (s.phys l)
    let rows := m.toNat + 1
    let ch := n.toNat + 1
    let nb := nblk.toNat + 1
    let total := nb * k.planes * chWaves hr.width ch * waveBytes hr.enc hr.width
    (if h then t0.iss1 else t0.iss0) = some hr → LookupFits s l r k hr bin0.toNat rows ch blk0.toNat nb →
    ownOff r l (effAddr (s.seqr (.tile l)) aw woff).toNat = some a → inBank 0 a total = true → ownRange s r l false a total = .none →
    t0.lookQ.length < 8 →
    exec (laccOf k (.tile l) g aw h bin0 m blk0 nblk 0xFFFF n woff) s = .next (Queued s l 16 (fun t => issueLacc
      { t with lookQ := t.lookQ ++ [{
          iseq := t0.iseq
          pc := (s.seqr (.tile l)).pc
          kind := k
          half := h
          bin0 := bin0.toNat
          m := rows
          blk0 := blk0.toNat
          nblk := nb
          n := ch
          ring := none
          addr := a
          reads := (List.range (laccBins rows ch)).flatMap (fun b =>
            (tget {} t0.issBins (bin0.toNat + b)).laccReads hr.cb (nb * hr.bpos)) }] }
        bin0.toNat (laccBins rows ch) (nb * k.planes) (nb * hr.bpos) hr.rs))) ∧
  (∀ (s : State) (l : Nat) (k : LaccKind) (g : Guard) (h : Bool) (bin0 : BitVec 3) (m : BitVec 6)
    (blk0 nblk : BitVec 12) (wring : BitVec 16) (n : BitVec 15) (r : Run) (hr : HalfRec),
    Executes s (.tile l) g [] → s.runOf l = some r → wring ≠ 0xFFFF →
    let t0 := s.tile (s.phys l)
    let q := s.ring wring.toNat
    (if h then t0.iss1 else t0.iss0) = some hr →
    LookupFits s l r k hr bin0.toNat (m.toNat + 1) (n.toNat + 1) blk0.toNat (nblk.toNat + 1) →
    q.kind = .bucket → q.ctx = r.rr.ctx → waveBytes hr.enc hr.width ≤ q.slotBytes → (q.cons = none ∨ q.cons = some (.look l)) →
    t0.lookQ.length < 8 →
    ∃ t, exec (laccOf k (.tile l) g 0 h bin0 m blk0 nblk wring n 0) s = .next t ∧ t.mem = s.mem ∧
      (t.ring wring.toNat).cons = some (.look l) ∧
      (∃ o : LaccOp, (t.tile (s.phys l)).lookQ = t0.lookQ ++ [o] ∧ o.ring = some wring.toNat ∧ o.kind = k ∧ o.half = h ∧
        o.bin0 = bin0.toNat ∧ o.m = m.toNat + 1 ∧ o.n = n.toNat + 1 ∧ o.blk0 = blk0.toNat ∧ o.nblk = nblk.toNat + 1) ∧
      wring.toNat ∈ (t.tile (s.phys l)).lookRings ∧
      (t.seqr (.tile l)).pc = (s.seqr (.tile l)).pc + 16)

/-- `bin.open`, `bin.close` to each destination and `attn` that keep the rules enter the bin queue or the engine's queue, and the
issue-order state of the bin is OPEN or CLOSING. R101 to R105, R110, R121, R152, R272 to R275. -/
def Obligations.BinAndAttentionEnqueue : Prop :=
  (∀ (s : State) (l : Nat) (g : Guard) (bin : BitVec 3) (src : BitVec 2) (anchMode : Bool) (head : BitVec 4)
    (gsMode gsize : BitVec 2) (apre ags : BitVec 4) (nRow : BitVec 12) (linb : BitVec 3) (anch : BitVec 16) (nCh : BitVec 15) (r : Run),
    Executes s (.tile l) g [] → s.runOf l = some r → wfBinOpen src anchMode gsMode gsize apre ags anch = true →
    let t0 := s.tile (s.phys l)
    let pre := ownOff r l ((s.seqr (.tile l)).a apre).toNat
    let gsa := ownOff r l ((s.seqr (.tile l)).a ags).toNat
    linb.toNat * 4096 < (nRow.toNat + 1) * (nCh.toNat + 1) →
    (src ≠ 0 → ∃ a, pre = some a ∧ 32 ∣ a ∧ inBank 2 a 32768 = true ∧ ownRange s r l (src == 2) a 32768 = .none) →
    (gsMode = 1 → ∃ a, gsa = some a ∧ 2 ∣ a ∧ (inBank 1 a 2 = true ∨ inBank 2 a 2 = true) ∧
      ownRange s r l false a (2 * (nCh.toNat + 1)) = .none) →
    (tget {} t0.issBins bin.toNat).st ≠ .opened → t0.binQ.length < 8 →
    let o : OpenOp := {
      iseq := t0.iseq
      pc := (s.seqr (.tile l)).pc
      bin := bin.toNat
      preload := if src = 0 then none else some (pre.getD 0)
      clear := src == 2
      nRow := nRow.toNat + 1
      nCh := nCh.toNat + 1
      linBase := linb.toNat * 4096
      fixed := if anchMode then some anch.toInt else none
      head := head.toNat
      gs := nth .codebook [.none, .array] gsMode.toNat
      gsAddr := if gsMode = 1 then gsa.getD 0 else 0
      gsize := if gsMode = 1 then nth 256 [64, 128] gsize.toNat else 0 }
    exec (.binOpen (.tile l) g bin src anchMode head gsMode gsize apre ags nRow linb anch nCh) s = .next (Queued s l 16 (fun t =>
      { t with binQ := t.binQ ++ [.opn o], issBins := tset {} t.issBins bin.toNat (openIss o) }))) ∧
  (∀ (s : State) (l a : Nat) (g : Guard) (bin : BitVec 3) (ab : BitVec 4) (off : BitVec 32) (r : Run),
    Executes s (.tile l) g [] → s.runOf l = some r →
    let t0 := s.tile (s.phys l)
    let ea := (effAddr (s.seqr (.tile l)) ab off).toNat
    let b := tget {} t0.issBins bin.toNat
    let cls (dest : CloseDest) : CloseOp :=
      ({ iseq := t0.iseq, pc := (s.seqr (.tile l)).pc, bin := bin.toNat, dest := dest } : CloseOp).withFoot s l b
    b.st = .opened → t0.binQ.length < 8 →
    (ownOff r l ea = some a → 32 ∣ a → inBank 2 a 32768 = true → ea.testBit 30 = false → ownRange s r l true a 32768 = .none →
      exec (.binClose (.tile l) g bin 1 ab off) s = .next (Queued s l 8 (fun t =>
        { t with
          binQ := t.binQ ++ [.cls (cls (.p64Store a))]
          issBins := tmod {} t.issBins bin.toNat (fun i => { i with st := .closing }) }))) ∧
    (32 ∣ ea → (2 ^ 63 ≤ ea ∨ mpRange s r l ea true 32768 = .none) →
      exec (.binClose (.tile l) g bin 2 ab off) s = .next (Queued s l 8 (fun t =>
        { t with
          binQ := t.binQ ++ [.cls (cls (.p64Add (BitVec.ofNat 64 (if 2 ^ 63 ≤ ea then ea else (mpNorm r l ea).getD ea))))]
          issBins := tmod {} t.issBins bin.toNat (fun i => { i with st := .closing }) })))) ∧
  (∀ (s s1 : State) (l a : Nat) (g : Guard) (bin : BitVec 3) (ab : BitVec 4) (off : BitVec 32) (r : Run) (bs : List Byte),
    Executes s (.tile l) g [] → s.runOf l = some r →
    let t0 := s.tile (s.phys l)
    let d := tailDesc r l bs
    let b := tget {} t0.issBins bin.toNat
    ownOff r l (effAddr (s.seqr (.tile l)) ab off).toNat = some a → 64 ∣ a → (inBank 1 a 64 = true ∨ inBank 2 a 64 = true) →
    ownRange s r l false a 64 = .none → t0.binQ.length < 8 → readBytes s (.mill (s.phys l) a) 64 = (s1, bs, .ok) →
    tailFieldsOk bs d b.nRow b.nCh r.rr.nGrist = true → b.st = .opened →
    (∀ f ∈ tailPlaces s r l d true b.nRow b.nCh b.linBase, f = Flt.none) →
    (d.grsEn = true → (s.gslot d.grsSlot).entryOf d.grsGen ≠ none ∨ (s.gslot d.grsSlot).installing d.grsGen = true) →
    ∃ t, exec (.binClose (.tile l) g bin 0 ab off) s = .next t ∧ t.mem = s.mem ∧
      (t.tile (s.phys l)).binQ =
        t0.binQ ++ [.cls (({
          iseq := t0.iseq
          pc := (s.seqr (.tile l)).pc
          bin := bin.toNat
          dest := .tailrace d } : CloseOp).withFoot s l b)] ∧
      tget {} (t.tile (s.phys l)).issBins bin.toNat = { b with st := .closing } ∧
      (t.seqr (.tile l)).pc = (s.seqr (.tile l)).pc + 8) ∧
  (∀ (s s1 : State) (l e : Nat) (g : Guard) (ab eng : BitVec 4) (off : BitVec 32) (r : Run) (pl : Place) (bs : List Byte),
    Executes s (.tile l) g [] → s.runOf l = some r →
    let ea := (effAddr (s.seqr (.tile l)) ab off).toNat
    let d := attnDesc r l bs
    64 ∣ ea → mpRange s r l ea false 64 = .none → mpPlace s r l ea = some pl → readBytes s pl 64 = (s1, bs, .ok) →
    attnFieldsOk bs d = true → (∀ f ∈ attnPlaces s r l d, f = .none) → r.engines[eng.toNat]? = some e →
    (s.engine e).queue.length < 8 →
    ∃ t, exec (.attn (.tile l) g ab eng off) s = .next t ∧ t.mem = s.mem ∧
      (t.engine e).queue = (s.engine e).queue ++
        [{ tile := l, iseq := (s1.tile (s1.phys l)).iseq, pc := (s.seqr (.tile l)).pc, desc := d }] ∧
      (t.seqr (.tile l)).pc = (s.seqr (.tile l)).pc + 8)

/-! ## Units of a tile (01, 03, 05) -/

/-- A queued operation starts once what it waits for is there: a Hopper operation, a lookup-accumulate, an open of a CLOSED bin, a
close whose accumulations have drained, and a stream arm of a free slot. R39, R40, R105, R108, R109, R204, R722. -/
def Obligations.QueuedOperationsStart : Prop :=
  (∀ (s : State) (l : Nat) (o : HopOp) (q : List HopOp), (s.tile (s.phys l)).hopQ = o :: q → (s.tile (s.phys l)).hopRun = none →
    hopReady s l (s.tile (s.phys l)) o = true →
    exec (.queuedOperationStart l .hopper) s = .next (s.modTile (s.phys l) (fun t => { t with hopQ := q, hopRun := some o }))) ∧
  (∀ (s : State) (l : Nat) (o : LaccOp) (q : List LaccOp) (hr : HalfRec), (s.tile (s.phys l)).lookQ = o :: q →
    (s.tile (s.phys l)).lookRun = none → ((s.tile (s.phys l)).half o.half).hr = some hr → laccReady s l (s.tile (s.phys l)) o = true →
    ∃ t, exec (.queuedOperationStart l .lookup) s = .next t ∧ (t.tile (s.phys l)).lookQ = q ∧
      (t.tile (s.phys l)).lookRun = some {
        op := o
        blk := o.blk0
        plane := 0
        cw := 0
        row := 0
        image := 0
        slot := none } ∧ t = { s with tiles := t.tiles }) ∧
  (∀ (s : State) (l : Nat) (o : OpenOp) (q : List BinOp), (s.tile (s.phys l)).binQ = .opn o :: q →
    (s.tile (s.phys l)).binRun = none → (tget {} (s.tile (s.phys l)).bins o.bin).st = .closed → o.preload = none →
    ∃ t, exec (.queuedOperationStart l .bin) s = .next t ∧ (t.tile (s.phys l)).binQ = q ∧ t.mem = s.mem ∧
      (let b := tget {} (t.tile (s.phys l)).bins o.bin
       b.st = .opened ∧ b.anchor = o.fixed ∧ b.acc = [] ∧ b.nRow = o.nRow ∧ b.nCh = o.nCh ∧ b.linBase = o.linBase ∧ b.head = o.head ∧
       b.gs = o.gs ∧ b.gsAddr = o.gsAddr ∧ b.gsize = o.gsize ∧ b.count = 0 ∧ b.pos = 0 ∧ b.rowScale = none) ∧
      ∀ j, j ≠ o.bin → tget {} (t.tile (s.phys l)).bins j = tget {} (s.tile (s.phys l)).bins j) ∧
  (∀ (s : State) (l : Nat) (o : CloseOp) (q : List BinOp), (s.tile (s.phys l)).binQ = .cls o :: q →
    (s.tile (s.phys l)).binRun = none →
    let t0 := s.tile (s.phys l)
    let b := tget {} t0.bins o.bin
    binPending t0 o.iseq o.bin = false → partialGroup b = none → blocked s l o.iseq o.reads o.writes = false →
    exec (.queuedOperationStart l .bin) s = .next (s.modTile (s.phys l) (fun t =>
      { t with binQ := q, binRun := some (.cls o), bins := tset {} t.bins o.bin { b with st := .closing } }))) ∧
  (∀ (s : State) (l n k i : Nat) (pc : W64) (d : StrmDesc) (refs : List GRef) (halt : Bool) (q : List StrmOp) (r : Run),
    (s.tile (s.phys l)).strmQ = .arm n pc k i d refs halt :: q → s.runOf l = some r → (s.slot k).st = .free →
    passesEnded s k + 1 = i →
    ∃ t, exec (.queuedOperationStart l .stream) s = .next t ∧ (t.tile (s.phys l)).strmQ = q ∧ t.mem = s.mem ∧
      (t.slot k).st = .running ∧ (t.slot k).desc = some d ∧ (t.slot k).ctx = r.rr.ctx ∧ (t.slot k).run = some r.rid ∧
      (t.slot k).next = {} ∧ (t.slot k).haltReq = halt ∧ ∀ j, j ≠ k → t.slot j = s.slot j)

/-- A block of a build reads no activation at or beyond KREM, and gives the block record the shared exponent of its BS12 group. The
Hopper completes a build, a load and a save: the half takes its record and its contents, and a save writes the image of 135,168 bytes
and nothing else. R16, R20, R35, R39, R43, R44, R260, R264, R265. -/
def Obligations.TableOperationsComplete : Prop :=
  (∀ (s : State) (p r i : Nat) (o : BuildOp), o.krem ≤ i → readAct s p o r i = (s, .zero false)) ∧
  (∀ (s : State) (p r k : Nat) (o : BuildOp) (cw : List (List Int)) (bad : Bool) (h : Half),
    let d := o.hr.enc.acts o.hr.bpos
    let vs := (readActs s p o r (k * d) d).2
    let h' := (buildBlock s p o cw bad r k h).2
    tget {} h'.blocks (r * o.hr.nb + k) = { s := (bs12 vs).1, poison := (bs12 vs).2.2 || bad } ∧
    ∀ j, j ≠ r * o.hr.nb + k → tget {} h'.blocks j = tget {} h.blocks j) ∧
  (∀ (s : State) (l n : Nat) (o : BuildOp), (s.tile (s.phys l)).hopRun = some (.build n o) →
    ∃ t, exec (.tableBuildDone l) s = .next t ∧ t.mem = s.mem ∧ (t.tile (s.phys l)).hopRun = none ∧
      ((t.tile (s.phys l)).half o.half).hr = some o.hr ∧
      (t.tile (s.phys l)).half o.half = (buildHalf s (s.phys l) o ((s.tile (s.phys l)).half o.half)).2 ∧
      (t.tile (s.phys l)).half (!o.half) = (s.tile (s.phys l)).half (!o.half)) ∧
  (∀ (s : State) (l n : Nat) (o : BuildOp), (s.tile (s.phys l)).hopRun = some (.load n o) →
    ∃ t, exec (.tableBuildDone l) s = .next t ∧ t.mem = s.mem ∧ (t.tile (s.phys l)).hopRun = none ∧
      ((t.tile (s.phys l)).half o.half).hr = some o.hr ∧ (t.tile (s.phys l)).half o.half = (loadHalf s (s.phys l) o).2 ∧
      (t.tile (s.phys l)).half (!o.half) = (s.tile (s.phys l)).half (!o.half)) ∧
  (∀ (s : State) (l n a : Nat) (pc : W64) (h : Bool) (r : Run), (s.tile (s.phys l)).hopRun = some (.save n pc h a) → 32 ∣ a →
    s.runOf l = some r → r.phase = .active →
    ∃ t, exec (.tableSaveDone l) s = .next t ∧ (t.tile (s.phys l)).hopRun = none ∧
      (∀ i, i < 135168 → t.byte (millKey (s.phys l) a + i) = nth 0 (saveImage ((s.tile (s.phys l)).half h)) i) ∧
      ∀ j, (j < millKey (s.phys l) a ∨ millKey (s.phys l) a + 135168 ≤ j) → t.byte j = s.byte j)

/-- A wave of a lookup-accumulate that touches one bin without group scaling, raises nothing and does not end the operation: every
value of the wave is rounded at the bin's anchor and added, a poisoned value sets the sticky flag, and the next wave follows. A raise
completes: the bin's anchor moves to its target, every accumulator and group register is rounded to the new anchor, and the lookup path
stalls for four handshakes, or eight with group scaling. R45 to R48, R81, R85 to R88, R90, R98. -/
def Obligations.WavesAndRaises : Prop :=
  (∀ (s : State) (l : Nat) (r r' : LaccRun) (run : Run) (hr : HalfRec),
    let p := s.phys l
    let o := r.op
    let t0 := s.tile p
    (s.tile p).lookRun = some r → s.runOf l = some run → (t0.half o.half).hr = some hr → run.phase = .active → rateOk s p 1 = true →
    o.ring = none → r.next hr.width = some r' →
    let k := (r.row * o.n + r.cw * treesOf hr.width) / 4096
    (r.row * o.n + min o.n ((r.cw + 1) * treesOf hr.width) - 1) / 4096 = k →
    let b := tget {} t0.bins (o.bin0 + k)
    let off := o.addr + r.image * waveBytes hr.enc hr.width
    let img := readImage s (.mill p (off / 32 * 32)) (ceilDiv (off % 32 + waveBytes hr.enc hr.width) 32)
    let vs := waveValues (t0.half o.half) hr o r.blk r.plane r.cw r.row img.2.1 img.2.2 off
    let nz := (tget {} (t0.half o.half).blocks (r.row * hr.nb + r.blk)).s != 0
    let w := waveAnchor b nz (valsFor vs k)
    rangeOwned s run.rr.ctx p off (waveBytes hr.enc hr.width) = true → b.raise = none → b.gs = .none → w.2 = false →
    ∃ t, exec (.wave l) s = .next t ∧ t.mem = s.mem ∧ (t.tile p).lookRun = some r' ∧ (t.tile p).hs = (t0.hs + 1) % 2 ^ 64 ∧
      (∀ j, j ≠ o.bin0 + k → tget {} (t.tile p).bins j = tget {} t0.bins j) ∧
      (tget {} (t.tile p).bins (o.bin0 + k)).anchor = w.1.anchor ∧
      ∀ v ∈ vs, v.1 / 4096 = k →
        let was := tget {} b.acc (v.1 % 4096)
        let now := tget {} (tget {} (t.tile p).bins (o.bin0 + k)).acc (v.1 % 4096)
        if v.2.2.2 then now = { was with poison := true }
        else match w.1.anchor with
          | none => now = was
          | some a => now = { was with acc := was.acc + rneAt v.2.1 v.2.2.1 a }) ∧
  (∀ (s : State) (l i : Nat) (rs : Raise) (a : Int),
    let t0 := s.tile (s.phys l)
    let b := tget {} t0.bins i
    b.raise = some rs → b.anchor = some a → rs.prods = [] → twf {} b.acc = true →
    ∃ t, exec (.anchorRaise l i) s = .next t ∧ t.mem = s.mem ∧
      (t.tile (s.phys l)).hs = (t0.hs + (if b.gs = .none then 4 else 8)) % 2 ^ 64 ∧
      (∀ j, j ≠ i → tget {} (t.tile (s.phys l)).bins j = tget {} t0.bins j) ∧
      (let b' := tget {} (t.tile (s.phys l)).bins i
       b'.anchor = some rs.dest ∧ b'.raise = none ∧
       ∀ j, tget {} b'.acc j = {
         acc := rneDiv (tget {} b.acc j).acc (rs.dest - a).toNat
         grp := rneDiv (tget {} b.acc j).grp (rs.dest - a).toNat
         poison := (tget {} b.acc j).poison }))

/-- A preload gives the bin the P64 values of its 32 KiB, and with CLEAR leaves zeros there; a close that has read its bin leaves it
CLOSED and empty with the values gone to the close; a close to P64 words writes each accumulator as a P64 value and completes. R102,
R103, R105, R110 to R112, R115. -/
def Obligations.PreloadsAndCloses : Prop :=
  (∀ (s : State) (l a : Nat) (o : OpenOp) (r : Run), (s.tile (s.phys l)).binRun = some (.opn o) → o.preload = some a → 32 ∣ a →
    s.runOf l = some r → r.phase = .active →
    (o.clear = true → ∀ i, i < 1024 → classify (s.word (millKey (s.phys l) a + 32 * i)).2 = .clean) →
    ∃ t, exec (.preloadDone l) s = .next t ∧ (t.tile (s.phys l)).binRun = none ∧
      tget {} (t.tile (s.phys l)).bins o.bin = preloadBin o (readPre s (.mill (s.phys l) a) o.clear 1024).2.1 ∧
      (t.tile (s.phys l)).hs = ((s.tile (s.phys l)).hs + (if o.clear then 128 else 64)) % 2 ^ 64 ∧
      ∀ j, t.byte j = if o.clear ∧ millKey (s.phys l) a ≤ j ∧ j < millKey (s.phys l) a + 32768 then 0 else s.byte j) ∧
  (∀ (s : State) (l : Nat) (o : CloseOp),
    let t0 := s.tile (s.phys l)
    let b := tget {} t0.bins o.bin
    t0.binRun = some (.cls o) →
    ∃ t, exec (.binCloseReadDone l) s = .next t ∧ t.mem = s.mem ∧ (t.tile (s.phys l)).binRun = none ∧
      tget {} (t.tile (s.phys l)).bins o.bin = {} ∧
      (t.tile (s.phys l)).closes = t0.closes ++ [{
        op := o
        anchor := b.anchor
        acc := b.acc
        nRow := b.nRow
        nCh := b.nCh
        linBase := b.linBase
        rowScale := b.rowScale }]) ∧
  (∀ (s : State) (l a : Nat) (c : CloseRun) (r : Run),
    let t0 := s.tile (s.phys l)
    t0.closes.find? (fun x => x.op.iseq == c.op.iseq) = some c → s.runOf l = some r → r.phase = .active → c.started = false →
    c.op.dest = .p64Store a → 32 ∣ a →
    ∃ t, exec (.binCloseDone l c.op.iseq) s = .next t ∧
      (t.tile (s.phys l)).closes = t0.closes.filter (fun x => x.op.iseq != c.op.iseq) ∧
      (∀ i, i < 4096 → t.num (millKey (s.phys l) a + 8 * i) 8 = (exportVal c i).toNat) ∧
      ∀ j, (j < millKey (s.phys l) a ∨ millKey (s.phys l) a + 32768 ≤ j) → t.byte j = s.byte j)

/-- An attention operation starts with its query heads converted and its flume stream running, consumes posted pages in logical order
with the softmax of the visible slots, and ends with its outputs written and its engine free. R149, R152, R156, R162, R167 to R173. -/
def Obligations.AttentionRuns : Prop :=
  (∀ (s : State) (e : Nat) (op : AttnOp) (q : List AttnOp) (r : Run),
    let k := flumeSlot e
    let f := op.desc.foot op.iseq
    (s.engine e).run = none → (s.engine e).queue = op :: q → engineRun s e = some r → (s.engine e).unit.st = .on →
    r.phase = .active → blocked s op.tile op.iseq f.reads f.writes = false → ((s.slot k).st = .free ∨ (s.slot k).st = .passDone) →
    ∃ t, exec (.attnOperationStart e) s = .next t ∧ t.mem = s.mem ∧ (t.engine e).queue = q ∧ (t.engine e).flume = [] ∧
      (∃ a, (t.engine e).run = some a ∧ a.op = op ∧ a.page = 0 ∧ a.heads = (startHeads s r op).2) ∧
      (op.desc.visits ≠ 0 → (t.slot k).st = .running ∧ (t.slot k).engine = some e ∧ (t.slot k).next = {})) ∧
  (∀ (s : State) (e : Nat) (a : AttnRun) (pg : FlumePage) (r : Run),
    (s.engine e).run = some a → engineRun s e = some r → r.phase = .active →
    (s.engine e).flume.find? (fun p => p.elem == a.page) = some pg → pg.posted = true → pg.bad = [] → a.page < a.op.desc.visits →
    ∃ t, exec (.attnPage e) s = .next t ∧ t.mem = s.mem ∧
      (t.engine e).flume = (s.engine e).flume.filter (fun p => p.elem != a.page) ∧
      (t.engine e).run = some { a with
        page := a.page + 1
        heads := a.heads.map (mixPage a.op.desc pg (visible a.op.desc (a.op.desc.pageFirst + a.page))) }) ∧
  (∀ (s s1 : State) (e : Nat) (a : AttnRun) (r : Run),
    (s.engine e).run = some a → engineRun s e = some r → r.phase = .active → a.op.desc.visits ≤ a.page → a.ending = false →
    a.op.desc.mode = 0 → a.op.desc.sluice = none → attnOutput s e r a.op a.heads = (s1, .none) →
    ∃ t, exec (.attnOperationDone e) s = .next t ∧ t.mem = s1.mem ∧ (t.engine e).run = none ∧ (t.engine e).flume = [])

/-! ## Streams, rings, sluices and atomics (06, 07, 08) -/

/-- A sequencer attaches to a bucket ring as its producer or consumer, and detaches from a ring of which it holds no slot; `ring.claim`
and `ring.take` advance CLAIM and TAKE and give the address of the slot, or hold the sequencer while there is no slot; `ring.give`
advances GIVE, and `ring.post` advances POST at a Miller core and waits in the stream and ring queue at a tile. R208, R283 to R287,
R360, R361. -/
def Obligations.BucketRings : Prop :=
  (∀ (s : State) (c : Core) (g : Guard) (sa : BitVec 5) (imm : BitVec 32) (n : Nat),
    Executes s c g [sa] → RingNo s c sa imm n → MayAttach s c n → RingQueueRoom s c →
    ((s.ring n).prod = none → isAttached s c n true = false → exec (.ringAttachP c g sa imm) s =
      .next (advance ((s.modRing n (fun x => { x with prod := some (.seq c) })).modSeqr c
        (fun q => { q with attached := q.attached ++ [{ ring := n, producer := true }] })) c 8)) ∧
    ((s.ring n).cons = none → isAttached s c n false = false → exec (.ringAttachC c g sa imm) s =
      .next (advance ((s.modRing n (fun x => { x with cons := some (.seq c) })).modSeqr c
        (fun q => { q with attached := q.attached ++ [{ ring := n, producer := false }] })) c 8)) ∧
    ((∃ a, (s.ring n).prod = some a ∧ a ≠ .seq c) →
      exec (.ringAttachP c g sa imm) s = .next (coreFault s c .operandInvalid 0))) ∧
  (∀ (s : State) (c : Core) (g : Guard) (sa : BitVec 5) (imm : BitVec 32) (n : Nat),
    Executes s c g [sa] → RingNo s c sa imm n → (s.ring n).kind = .bucket → (∀ a ∈ (s.seqr c).attached, a.ring = n → a.slots = []) →
    RingQueueRoom s c →
    exec (.ringDetach c g sa imm) s = .next (advance ((s.modRing n (fun x => { x with
        prod := if x.prod = some (.seq c) then none else x.prod
        cons := if x.cons = some (.seq c) then none else x.cons })).modSeqr c
      (fun q => { q with attached := q.attached.filter (fun a => a.ring != n) })) c 8)) ∧
  (∀ (s : State) (c : Core) (g : Guard) (sd sa : BitVec 5) (imm : BitVec 32) (n : Nat),
    Executes s c g [sa] → RingNo s c sa imm n → isAttached s c n true = true → RingQueueRoom s c →
    let q := s.ring n
    (((q.c0 - q.c3).toNat < q.entries →
      ∃ t, exec (.ringClaim c g sd sa imm) s = .next t ∧ t.mem = s.mem ∧
        t.ring n = { q with c0 := q.c0 + 1, i0 := nextSlot q.entries q.i0 } ∧ (∀ j, j ≠ n → t.ring j = s.ring j) ∧
        heldSlots t c n true = heldSlots s c n true ++ [q.i0] ∧
        (t.seqr c).s sd = (if sd = 0 then 0 else slotFor s c n q.i0) ∧ (∀ r, r ≠ sd → (t.seqr c).s r = (s.seqr c).s r) ∧
        (t.seqr c).pc = (s.seqr c).pc + 8) ∧
     (q.entries ≤ (q.c0 - q.c3).toNat →
      exec (.ringClaim c g sd sa imm) s = .next (s.modSeqr c (fun x => { x with hold := .claim n sd.toNat }))))) ∧
  (∀ (s : State) (c : Core) (g : Guard) (sd sa : BitVec 5) (imm : BitVec 32) (n : Nat),
    Executes s c g [sa] → RingNo s c sa imm n → isAttached s c n false = true → RingQueueRoom s c →
    let q := s.ring n
    (q.c1 ≠ q.c2 →
      ∃ t, exec (.ringTake c g sd sa imm) s = .next t ∧ t.mem = s.mem ∧
        t.ring n = { q with c2 := q.c2 + 1, i2 := nextSlot q.entries q.i2 } ∧ (∀ j, j ≠ n → t.ring j = s.ring j) ∧
        heldSlots t c n false = heldSlots s c n false ++ [q.i2] ∧
        (t.seqr c).s sd = (if sd = 0 then 0 else slotFor s c n q.i2) ∧ (∀ r, r ≠ sd → (t.seqr c).s r = (s.seqr c).s r) ∧
        (t.seqr c).pc = (s.seqr c).pc + 8) ∧
    (q.c1 = q.c2 →
      exec (.ringTake c g sd sa imm) s = .next (s.modSeqr c (fun x => { x with hold := .take n sd.toNat })))) ∧
  (∀ (s : State) (c : Core) (g : Guard) (sa : BitVec 5) (imm : BitVec 32) (n i : Nat) (is : List Nat),
    Executes s c g [sa] → RingNo s c sa imm n → heldSlots s c n false = i :: is → RingQueueRoom s c →
    ∃ t, exec (.ringGive c g sa imm) s = .next t ∧ t.mem = s.mem ∧
      t.ring n = { s.ring n with c3 := (s.ring n).c3 + 1, i3 := nextSlot (s.ring n).entries (s.ring n).i3 } ∧
      (∀ j, j ≠ n → t.ring j = s.ring j) ∧ heldSlots t c n false = is ∧ (t.seqr c).pc = (s.seqr c).pc + 8) ∧
  (∀ (s : State) (m : Nat) (g : Guard) (sa : BitVec 5) (imm : BitVec 32) (n i : Nat) (is : List Nat),
    Executes s (.miller m) g [sa] → RingNo s (.miller m) sa imm n → heldSlots s (.miller m) n true = i :: is →
    (s.miller m).atomQ = [] →
    ∃ t, exec (.ringPost (.miller m) g sa imm) s = .next t ∧ t.mem = s.mem ∧
      t.ring n = { s.ring n with c1 := (s.ring n).c1 + 1, i1 := nextSlot (s.ring n).entries (s.ring n).i1 } ∧
      (∀ j, j ≠ n → t.ring j = s.ring j) ∧ heldSlots t (.miller m) n true = is ∧ (t.seqr (.miller m)).pc = (s.seqr (.miller m)).pc + 8) ∧
  (∀ (s : State) (l : Nat) (g : Guard) (sa : BitVec 5) (imm : BitVec 32) (n i : Nat) (is : List Nat),
    Executes s (.tile l) g [sa] → RingNo s (.tile l) sa imm n → heldSlots s (.tile l) n true = i :: is →
    let t0 := s.tile (s.phys l)
    t0.strmQ.length < 8 →
    ∃ t, exec (.ringPost (.tile l) g sa imm) s = .next t ∧ t.mem = s.mem ∧ t.hif = s.hif ∧
      (t.tile (s.phys l)).strmQ = t0.strmQ ++ [.post t0.iseq n] ∧ heldSlots t (.tile l) n true = is ∧
      (t.seqr (.tile l)).pc = (s.seqr (.tile l)).pc + 8) ∧
  (∀ (s : State) (l k n : Nat) (q : List StrmOp) (r : Run), (s.tile (s.phys l)).strmQ = .post k n :: q → s.runOf l = some r →
    (∀ o ∈ q, o.starts = false) →
    releasedBefore s l k = true →
    ∃ t, exec (.queuedOperationStart l .stream) s = .next t ∧ t.mem = s.mem ∧ (t.tile (s.phys l)).strmQ = q ∧
      t.ring n = { s.ring n with c1 := (s.ring n).c1 + 1, i1 := nextSlot (s.ring n).entries (s.ring n).i1 })

/-- `strm.arm` and `strm.rearm` enter a tile's stream and ring queue, and start the stream at once at a Miller core, whose slot is
ready. R276 to R279, R349, R350, R355, R722. -/
def Obligations.StreamsArm : Prop :=
  (∀ (s s1 : State) (l k : Nat) (g : Guard) (ab : BitVec 4) (slot : BitVec 6) (off : BitVec 32) (r : Run) (pl : Place) (bs : List Byte),
    Executes s (.tile l) g [] → s.runOf l = some r → r.slots[slot.toNat]? = some k →
    let ea := (effAddr (s.seqr (.tile l)) ab off).toNat
    let d := strmDesc bs
    64 ∣ ea → ea < 2 ^ 32 → mpRange s r l ea false 64 = .none → mpPlace s r l ea = some pl → readBytes s pl 64 = (s1, bs, .ok) →
    strmFieldsOk bs d true r.rr.tileList.length r.rr.nGrist = true →
    mcastFlt s1 k { ctx := r.rr.ctx, run := some r.rid, tile := some l } d = .none →
    (∀ f ∈ strmPlaces s1 r.rr.ctx d ++ strmStates s1 (.tile l) k d, f = Flt.none) →
    (s1.tile (s1.phys l)).strmQ.length < 8 →
    ∃ t, exec (.strmArm (.tile l) g ab slot off) s = .next t ∧ t.mem = s1.mem ∧
      (t.tile (s1.phys l)).strmQ = (s1.tile (s1.phys l)).strmQ ++
        [.arm (s1.tile (s1.phys l)).iseq (s1.seqr (.tile l)).pc k (passesIssued s1 k + 1) d (strmRefs s1 r.rr.ctx d) false] ∧
      passesIssued t k = passesIssued s1 k + 1 ∧
      (∀ q ∈ d.dstRings, (t.ring q).prod = some (.slot k)) ∧ (∀ q, d.srcRing = some q → (t.ring q).cons = some (.slot k)) ∧
      (∀ j, t.slot j = s1.slot j) ∧ (t.seqr (.tile l)).pc = (s1.seqr (.tile l)).pc + 8) ∧
  (∀ (s : State) (m k : Nat) (g : Guard) (ab : BitVec 4) (slot : BitVec 6) (off : BitVec 32),
    Executes s (.miller m) g [] → FirmwareSlot s m slot.toNat k →
    let ea := (effAddr (s.seqr (.miller m)) ab off).toNat
    let bs := s.bytes (svcKey m ea) 64
    let d := strmDesc bs
    64 ∣ ea → strmFieldsOk bs d false 0 0 = true → mcastFlt s k { ctx := d.ctx, service := some m } d = .none →
    (∀ f ∈ strmPlaces s d.ctx d ++ strmStates s (.miller m) k d, f = Flt.none) →
    (s.slot k).st = .free →
    ∃ t, exec (.strmArm (.miller m) g ab slot off) s = .next t ∧ t.mem = s.mem ∧
      t.slot k = ({
        st := .running
        ctx := d.ctx
        service := some m
        desc := some d
        refs := strmRefs s d.ctx d } : Slot) ∧
      (∀ j, j ≠ k → t.slot j = s.slot j) ∧
      (∀ q ∈ d.dstRings, (t.ring q).prod = some (.slot k)) ∧ (∀ q, d.srcRing = some q → (t.ring q).cons = some (.slot k)) ∧
      (t.seqr (.miller m)).pc = (s.seqr (.miller m)).pc + 8) ∧
  (∀ (s : State) (l k : Nat) (g : Guard) (slot : BitVec 6) (sa sb : BitVec 5) (r : Run) (d : StrmDesc),
    Executes s (.tile l) g [sa, sb] → s.runOf l = some r → r.slots[slot.toNat]? = some k → issStream s (.tile l) k = some d →
    let t0 := s.tile (s.phys l)
    let rearm (data index : Option W64) : StrmOp := .rearm t0.iseq (s.seqr (.tile l)).pc k (passesIssued s k + 1) data index false
    let s1 := (passIssue s k).1
    d.persist = true → t0.strmQ.length < 8 →
    passesIssued s1 k = passesIssued s k + 1 ∧ (∀ j, s1.slot j = s.slot j) ∧
    exec (.strmRearm (.tile l) g slot sa sb false false) s = .next (Queued s1 l 8 (fun t => { t with
      strmQ := t.strmQ ++ [rearm (some ((s.seqr (.tile l)).s sa)) (some ((s.seqr (.tile l)).s sb))] })) ∧
    exec (.strmRearm (.tile l) g slot 0 0 true true) s = .next (Queued s1 l 8 (fun t => { t with
      strmQ := t.strmQ ++ [rearm none none] }))) ∧
  (∀ (s : State) (m k : Nat) (g : Guard) (slot : BitVec 6) (sa sb : BitVec 5) (d : StrmDesc),
    Executes s (.miller m) g [sa, sb] → FirmwareSlot s m slot.toNat k → (s.slot k).st = .passDone → (s.slot k).desc = some d →
    d.persist = true →
    ∃ t, exec (.strmRearm (.miller m) g slot sa sb false false) s = .next t ∧ t.mem = s.mem ∧ t.hif = s.hif ∧
      (t.slot k).st = .running ∧ (t.slot k).next = {} ∧ (t.slot k).issuedAll = false ∧
      (t.slot k).desc = some { d with dataBase := (s.seqr (.miller m)).s sa, indexBase := (s.seqr (.miller m)).s sb } ∧
      (∀ j, j ≠ k → t.slot j = s.slot j) ∧ (t.seqr (.miller m)).pc = (s.seqr (.miller m)).pc + 8)

/-- `strm.wait` goes on when the pass is over and holds the sequencer otherwise; `strm.halt` asks a running stream to halt;
`strm.resume` sends a halted stream on from its saved position, or ends it as its ACTION field says. R280 to R282, R376, R723. -/
def Obligations.StreamControl : Prop :=
  (∀ (s : State) (c : Core) (k : Nat) (g : Guard) (slot : BitVec 6), Executes s c g [] → slotOf s c slot.toNat = some k →
    exec (.strmWait c g slot) s = .next (if passesIssued s k ≤ passesEnded s k
      then advance s c 8 else s.modSeqr c (fun q => { q with hold := .strm k (passesIssued s k) })) ∧
    (queuedBy s c k = [] → (s.slot k).st = .running →
      exec (.strmHalt c g slot) s = .next (advance (s.modSlot k (fun y => { y with haltReq := true })) c 8)) ∧
    (queuedBy s c k = [] → (s.slot k).st ≠ .running → exec (.strmHalt c g slot) s = .next (advance s c 8))) ∧
  (∀ (s : State) (l k n i : Nat) (g : Guard) (slot : BitVec 6) (r : Run) (pc : W64) (d : StrmDesc) (refs : List GRef) (h : Bool),
    Executes s (.tile l) g [] → s.runOf l = some r → r.rr.tileList = [l] → r.slots[slot.toNat]? = some k →
    (s.tile (s.phys l)).strmQ = [.arm n pc k i d refs h] →
    ∃ t, exec (.strmHalt (.tile l) g slot) s = .next t ∧ (t.tile (s.phys l)).strmQ = [.arm n pc k i d refs true]) ∧
  (∀ (s : State) (m : Nat) (g : Guard) (sa sb : BitVec 5), Executes s (.miller m) g [sa, sb] →
    let q := s.seqr (.miller m)
    let k := 256 * ((q.s sa).toNat % 4) + (q.s sb).toNat % 256
    ((s.slot k).st ≠ .halted → exec (.strmResume (.miller m) g sa sb) s = .next (advance s (.miller m) 8)) ∧
    ((s.slot k).st = .halted → (s.slot k).actionFault = false → (s.slot k).notice = true →
      exec (.strmResume (.miller m) g sa sb) s =
        .next (advance (s.modSlot k (fun y => { y with resume := true })) (.miller m) 8)) ∧
    ((s.slot k).st = .halted → (s.slot k).actionFault = false → (s.slot k).notice = false →
      ∃ t, exec (.strmResume (.miller m) g sa sb) s = .next t ∧ t.mem = s.mem ∧ (t.slot k).st = .running ∧
        (t.slot k).next = (s.slot k).pos ∧ (t.slot k).nextIdx = (s.slot k).idxPos ∧ (t.slot k).reason = .none ∧
        (t.slot k).notice = false ∧ (t.slot k).desc = (s.slot k).desc ∧ ∀ j, j ≠ k → t.slot j = s.slot j) ∧
    ((s.slot k).st = .halted → (s.slot k).actionFault = true → (s.slot k).run = none →
      ∃ t, exec (.strmResume (.miller m) g sa sb) s = .next t ∧ t.slot k = {}))

/-- Sluice instructions and `fence`: an arrival and a reset join the core's queue, a wait goes on when the sluice is RELEASED, and a
fence when every earlier store and atomic is acknowledged. R222 to R224, R292, R293, R366, R369. -/
def Obligations.SluicesAndFence : Prop :=
  (∀ (s : State) (l : Nat) (g : Guard) (sa : BitVec 5) (imm : BitVec 32) (r : Run), Executes s (.tile l) g [sa] → s.runOf l = some r →
    let q := s.seqr (.tile l)
    let v := (q.s sa + BitVec.ofInt 64 imm.toInt).toNat
    let t0 := s.tile (s.phys l)
    (v < (s.ctx r.rr.ctx).bind.sltCount → v < 65536 →
      (t0.atomQ.length < 16 → exec (.sluiceArrive (.tile l) g sa imm) s = .next (Queued s l 8 (fun t => { t with
        atomQ := t.atomQ ++ [{
          iseq := t0.iseq
          pc := q.pc
          kind := .arrive
          addr := 0
          operand := 1
          ctx := r.rr.ctx
          sluice := v }] }))) ∧
      exec (.sluiceWait (.tile l) g sa imm) s = .next (if sluiceReleased s r.rr.ctx v then advance s (.tile l) 8
        else s.modSeqr (.tile l) (fun x => { x with hold := .sluice r.rr.ctx v }))) ∧
    (2 ^ 63 ≤ v → v / 65536 % 2 ^ 33 = 0 → t0.atomQ.length < 16 →
      exec (.sluiceArrive (.tile l) g sa imm) s = .next (Queued s l 8 (fun t => { t with
        atomQ := t.atomQ ++ [{
          iseq := t0.iseq
          pc := q.pc
          kind := .arrive
          addr := BitVec.ofNat 64 v
          operand := 1
          ctx := r.rr.ctx }] })))) ∧
  (∀ (s : State) (m : Nat) (g : Guard) (sa : BitVec 5) (imm : BitVec 32), Executes s (.miller m) g [sa] →
    let q := s.seqr (.miller m)
    let v := (q.s sa + BitVec.ofInt 64 imm.toInt).toNat
    let ctx := v / 65536 % 4096
    v % 65536 < (s.ctx ctx).bind.sltCount →
    ((s.miller m).atomQ.length < 16 →
      ∃ t, exec (.sluiceArrive (.miller m) g sa imm) s = .next t ∧ t = { s with millers := t.millers } ∧
        (t.miller m).atomQ = (s.miller m).atomQ ++ [({
          iseq := (s.miller m).iseq
          pc := q.pc
          kind := .arrive
          addr := 0
          operand := 1
          ctx := ctx
          sluice := v % 65536 } : AtomOp)] ∧
        (t.seqr (.miller m)).pc = q.pc + 8) ∧
    exec (.sluiceWait (.miller m) g sa imm) s = .next (if sluiceReleased s ctx (v % 65536) then advance s (.miller m) 8
      else s.modSeqr (.miller m) (fun x => { x with hold := .sluice ctx (v % 65536) }))) ∧
  (∀ (s : State) (m : Nat) (g : Guard) (sd sa sb : BitVec 5), Executes s (.miller m) g [sa, sb, sd] →
    let q := s.seqr (.miller m)
    let ctx := (q.s sa).toNat % 4096
    let e := (q.s sd).toNat % 2 ^ 32
    e ≠ 0 → (q.s sb).toNat < (s.ctx ctx).bind.sltCount → (s.miller m).atomQ.length < 16 →
    ∃ t, exec (.sluiceReset (.miller m) g sd sa sb) s = .next t ∧ t = { s with millers := t.millers } ∧
      t.seqr (.miller m) = { q with hold := .sluiceReset } ∧
      (t.miller m).atomQ = (s.miller m).atomQ ++ [({
        iseq := (s.miller m).iseq
        pc := q.pc
        kind := .sluiceReset
        addr := 0
        operand := BitVec.ofNat 64 e
        ctx := ctx
        sluice := (q.s sb).toNat } : AtomOp)]) ∧
  (∀ (s : State) (l : Nat) (g : Guard), Executes s (.tile l) g [] →
    exec (.fence (.tile l) g) s = .next (if fencedBefore s l (s.tile (s.phys l)).iseq then advance s (.tile l) 8
      else s.modSeqr (.tile l) (fun q => { q with hold := .fence }))) ∧
  (∀ (s : State) (m : Nat) (g : Guard), Executes s (.miller m) g [] →
    exec (.fence (.miller m) g) s = .next (if ∃ a ∈ (s.miller m).atomQ, a.kind ≠ .arrive
      then s.modSeqr (.miller m) (fun q => { q with hold := .fence }) else advance s (.miller m) 8))

/-- Host rings at a Miller core: `hring.peek` copies the record at the head, `hring.pop` consumes it, `hring.push` and `evt.post` add a
record where there is room, and the predicate says whether the instruction did. R288 to R291, R301. -/
def Obligations.HostRingInstructions : Prop :=
  (∀ (s : State) (m : Nat) (g : Guard) (pd : BitVec 3) (sa : BitVec 5) (ab : BitVec 4) (off : BitVec 32),
    Executes s (.miller m) g [sa] →
    let q := s.seqr (.miller m)
    let n := (q.s sa).toNat
    let ea := (effAddr q ab off).toNat
    n < 65536 → (s.ring n).kind = .submit →
    ((s.ring n).st = .on → (s.ring n).c1 ≠ (s.ring n).c0 →
      (∃ t, exec (.hringPeek (.miller m) g pd sa ab off) s = .next t ∧
        t = { s with mem := t.mem, millers := t.millers } ∧
        (∀ j, t.byte j = if svcKey m ea ≤ j ∧ j < svcKey m ea + 32 * (s.ring n).entryUnits
          then s.byte (hostEntry (s.ring n) (s.ring n).c0.toNat + (j - svcKey m ea)) else s.byte j) ∧
        t.seqr (.miller m) = { q.setP pd true with pc := q.pc + 8 }) ∧
      (∃ t, exec (.hringPop (.miller m) g sa) s = .next t ∧ (t.ring n).c0 = (s.ring n).c0 + 1 ∧ (t.ring n).c1 = (s.ring n).c1 ∧
        (∀ j, j ≠ n → t.ring j = s.ring j) ∧
        StoredBytes s t (hostKey (s.ring n).shadow.toNat) 8 ((s.ring n).c0 + 1).toNat ∧
        t.seqr (.miller m) = { q with pc := q.pc + 8 })) ∧
    ((s.ring n).st ≠ .on ∨ (s.ring n).c1 = (s.ring n).c0 →
      exec (.hringPeek (.miller m) g pd sa ab off) s = .next (WroteP s (.miller m) pd false) ∧
      exec (.hringPop (.miller m) g sa) s = .next (advance s (.miller m) 8))) ∧
  (∀ (s : State) (m : Nat) (g : Guard) (pd : BitVec 3) (sa : BitVec 5) (ab : BitVec 4) (off : BitVec 32),
    Executes s (.miller m) g [sa] →
    let q := s.seqr (.miller m)
    let n := (q.s sa).toNat
    let ea := (effAddr q ab off).toNat
    n < 65536 →
    ((s.ring n).kind = .complete →
      exec (.hringPush (.miller m) g pd sa ab off) s = .next (if (s.ring n).room
        then WroteP (pushRecord s n (s.bytes (svcKey m ea) (32 * (s.ring n).entryUnits))) (.miller m) pd true
        else WroteP s (.miller m) pd false)) ∧
    ((s.ring n).kind = .event →
      exec (.evtPost (.miller m) g pd sa ab off) s = .next (if (s.ring n).room
        then WroteP (pushRecord s n (s.bytes (svcKey m ea) 64)) (.miller m) pd true else WroteP s (.miller m) pd false)))

/-- The atomic instructions of both profiles join the queue of their core, with the register that waits for the old value, and a
256-bit swap holds the sequencer. R294 to R297. -/
def Obligations.AtomicsEnqueue : Prop :=
  (∀ (s : State) (l : Nat) (k : AtomKind) (g : Guard) (sd sa : BitVec 5) (ab : BitVec 4) (off : BitVec 32) (r : Run),
    Executes s (.tile l) g [sa] → s.runOf l = some r → k ∈ [AtomKind.addI32, .addF32, .addP64, .swap32, .swap64] →
    let q := s.seqr (.tile l)
    let ea := effAddr q ab off
    let t0 := s.tile (s.phys l)
    atomFlt s r l ea.toNat k.width = .none → t0.atomQ.length < 16 →
    ∃ t, exec (atomInstr k (.tile l) g sd sa ab off) s = .next t ∧ t.mem = s.mem ∧ t.hif = s.hif ∧ t.mrcs = s.mrcs ∧
      (∃ os, (t.tile (s.phys l)).atomQ = os ++ [({
        iseq := t0.iseq
        pc := q.pc
        kind := k
        addr := ea
        operand := q.s sa
        sd := sd.toNat
        ctx := r.rr.ctx } : AtomOp)] ∧ os.map (fun a => { a with sd := 0 }) = t0.atomQ.map (fun a => { a with sd := 0 })) ∧
      (sd ≠ 0 → (sd.toNat, decide (2 ^ 63 ≤ ea.toNat)) ∈ (t.seqr (.tile l)).waiting) ∧
      (sd = 0 → (t.seqr (.tile l)).waiting = q.waiting) ∧ (t.seqr (.tile l)).pc = q.pc + 8 ∧
      ∀ x, (t.seqr (.tile l)).s x = q.s x) ∧
  (∀ (s : State) (m : Nat) (k : AtomKind) (g : Guard) (sd sa : BitVec 5) (ab : BitVec 4) (off : BitVec 32),
    Executes s (.miller m) g [sa] → k ∈ [AtomKind.addI32, .addF32, .addP64, .swap32, .swap64] →
    let q := s.seqr (.miller m)
    let ea := effAddr q ab off
    k.width ∣ ea.toNat → (∃ pl, locate s ea.toNat = some pl) → (s.miller m).atomQ.length < 16 →
    ∃ t, exec (atomInstr k (.miller m) g sd sa ab off) s = .next t ∧ t.mem = s.mem ∧
      (∃ os, (t.miller m).atomQ = os ++ [({
        iseq := (s.miller m).iseq
        pc := q.pc
        kind := k
        addr := ea
        operand := q.s sa
        sd := sd.toNat } : AtomOp)]) ∧
      (sd ≠ 0 → (sd.toNat, false) ∈ (t.seqr (.miller m)).waiting) ∧ (t.seqr (.miller m)).pc = q.pc + 8) ∧
  (∀ (s : State) (l o : Nat) (g : Guard) (aw ab : BitVec 4) (off : BitVec 32) (r : Run),
    Executes s (.tile l) g [] → s.runOf l = some r →
    let q := s.seqr (.tile l)
    let ea := effAddr q ab off
    let t0 := s.tile (s.phys l)
    32 ∣ ea.toNat → atomFlt s r l ea.toNat 32 = .none → (q.a aw).toNat < 2 ^ 32 → ownOff r l (q.a aw).toNat = some o → 32 ∣ o →
    (inBank 1 o 32 = true ∨ inBank 2 o 32 = true) → ownRange s r l true o 32 = .none → t0.atomQ.length < 16 →
    ∃ t, exec (.atomSwap256 (.tile l) g aw ab off) s = .next t ∧ t = { s with tiles := t.tiles } ∧
      t.seqr (.tile l) = { q with hold := .swap256 } ∧
      (t.tile (s.phys l)).atomQ = t0.atomQ ++ [({
        iseq := t0.iseq
        pc := q.pc
        kind := .swap256
        addr := ea
        operand := 0
        local256 := o
        ctx := r.rr.ctx } : AtomOp)]) ∧
  (∀ (s : State) (m : Nat) (g : Guard) (aw ab : BitVec 4) (off : BitVec 32), Executes s (.miller m) g [] →
    let q := s.seqr (.miller m)
    let ea := effAddr q ab off
    let w := (q.a aw).toNat
    32 ∣ ea.toNat → (∃ pl, locate s ea.toNat = some pl) →
    (∃ p o, locate s w = some (.mill p o) ∧ 32 ∣ w ∧ (inBank 1 o 32 = true ∨ inBank 2 o 32 = true)) → (s.miller m).atomQ.length < 16 →
    ∃ t, exec (.atomSwap256 (.miller m) g aw ab off) s = .next t ∧ t = { s with millers := t.millers } ∧
      t.seqr (.miller m) = { q with hold := .swap256 } ∧
      (t.miller m).atomQ = (s.miller m).atomQ ++ [({
        iseq := (s.miller m).iseq
        pc := q.pc
        kind := .swap256
        addr := ea
        operand := 0
        local256 := w } : AtomOp)])

/-- An atomic is made at its word in one indivisible step: the word takes the sum or the operand, every other byte stays, and the
requester gets the old value; a queued atomic of a tile at its own Millpond leaves the queue. R74, R220, R294, R298, R324. -/
def Obligations.AtomicsAreApplied : Prop :=
  (∀ (s : State) (pl : Place) (k : AtomKind) (v : W64), (∀ a, pl ≠ .host a) → classify (s.word pl.key).2 = .clean →
    k ∈ [AtomKind.addI32, .addF32, .addP64, .swap32, .swap64] → k.width ∣ pl.key →
    let old := s.num pl.key k.width
    let x := atomApply s pl k v
    x.2.2 = .ok ∧ x.2.1 = BitVec.ofNat 64 old ∧ (∀ j, tget 0 x.1.chk j = tget 0 s.chk j) ∧
    StoredBytes s x.1 pl.key k.width (match k with
      | .addI32 => (old + v.toNat) % 2 ^ 32
      | .addF32 => (fadd32Sat (BitVec.ofNat 32 old) (v.setWidth 32)).toNat
      | .addP64 => (p64Add (BitVec.ofNat 64 old) v).toNat
      | _ => v.toNat)) ∧
  (∀ (s : State) (l off : Nat) (a : AtomOp) (r : Run), s.runOf l = some r →
    (s.tile (s.phys l)).atomQ = [a] → a.sent = false → a.kind.width ∣ off → a.kind ∈ [AtomKind.addI32, .addF32, .addP64, .swap32, .swap64] →
    mpTarget r l a.addr.toNat = some (l, off) → ownerOf s (s.phys l) off = r.rr.ctx + 1 →
    classify (s.word (millKey (s.phys l) off)).2 = .clean → blocked s l a.iseq [] (atomFoot s l a).writes = false →
    ∃ t, exec (.bankAtomicApply (.tile l)) s = .next t ∧ t.mem = (atomApply s (.mill (s.phys l) off) a.kind a.operand).1.mem ∧
      (t.tile (s.phys l)).atomQ = [] ∧
      (a.sd = 0 → t.seqr (.tile l) = s.seqr (.tile l)) ∧
      (0 < a.sd → a.sd < 32 → (∃ b, (a.sd, b) ∈ (s.seqr (.tile l)).waiting) →
        (t.seqr (.tile l)).s (BitVec.ofNat 5 a.sd) = BitVec.ofNat 64 (s.num (millKey (s.phys l) off) a.kind.width)))

/-! ## Runs, residency and Grist tables (05, 06, 09) -/

/-- Runs and Millpond blocks from the service profile: `run.submit`, `run.cancel`, `res.grant`, `res.free` and its end. R191 to R193,
R302 to R307. -/
def Obligations.RunsAndResidency : Prop :=
  (∀ (s : State) (m : Nat) (g : Guard) (pd : BitVec 3) (ab : BitVec 4) (off : BitVec 32), Executes s (.miller m) g [] →
    let bs := s.bytes (svcKey m (effAddr (s.seqr (.miller m)) ab off).toNat) 128
    let d := fieldAt bs 18 1 % 4
    let q := (s.gov d).runqRing
    exec (.runSubmit (.miller m) g pd ab off) s = .next (
      if (s.ring q).kind = .internal ∧ (s.ring q).room = true ∧ runsQueued s d < 1024 then WroteP (pushRecord s q bs) (.miller m) pd true
      else WroteP s (.miller m) pd false)) ∧
  (∀ (s : State) (m : Nat) (g : Guard) (sa sb : BitVec 5) (r : Run), Executes s (.miller m) g [sa, sb] →
    let d := ((s.seqr (.miller m)).s sa).toNat % 4
    let n := ((s.seqr (.miller m)).s sb).toNat % 2 ^ 32
    (s.ring (s.gov d).runqRing).count = 0 → (s.gov d).runs.find? (fun r => r.rr.seqno == n && r.phase != .ended) = some r →
    s.run? d r.rid = some r →
    (r.phase = .active → ∃ t, exec (.runCancel (.miller m) g sa sb) s = .next t ∧ t.mem = s.mem ∧
      t.run? d r.rid = some { r with phase := .stopping, cancelled := true, haltWhy := haltedFlt s r }) ∧
    (r.phase = .stopping → ∃ t, exec (.runCancel (.miller m) g sa sb) s = .next t ∧ t.mem = s.mem ∧
      t.run? d r.rid = some { r with cancelled := true }) ∧
    ((r.phase = .raw ∨ r.phase = .ready) → (s.ring r.rr.cplRing).room = false →
      ∃ t, exec (.runCancel (.miller m) g sa sb) s = .next t ∧ t.mem = s.mem ∧
        t.run? d r.rid = some { r with phase := .ended, cancelled := true })) ∧
  (∀ (s : State) (m : Nat) (g : Guard) (sd sa sb : BitVec 5), Executes s (.miller m) g [sa, sb, sd] →
    let q := s.seqr (.miller m)
    let ctx := (q.s sa).toNat % 4096
    let l := (q.s sb).toNat % 256
    let b := (q.s sd).toNat % 2048
    let n := (q.s sd).toNat / 65536 % 2048
    l < 192 → 0 < n → n ≤ 1536 → b + n ≤ 1536 →
    ((∀ i, i < n → tget 0 s.owner (1536 * s.phys l + b + i) = 0) →
      ∃ t, exec (.resGrant (.miller m) g sd sa sb) s = .next t ∧ t = { s with owner := t.owner, millers := t.millers } ∧
        (∀ j, tget 0 t.owner j =
          if 1536 * s.phys l + b ≤ j ∧ j < 1536 * s.phys l + b + n then ctx + 1 else tget 0 s.owner j) ∧
        t.seqr (.miller m) = { q with pc := q.pc + 8 }) ∧
    ((∀ i, i < n → tget 0 s.owner (1536 * s.phys l + b + i) = ctx + 1) →
      ∃ t, exec (.resFree (.miller m) g sd sa sb) s = .next t ∧ t = { s with millers := t.millers } ∧
        (t.miller m).freeing = some (ctx, l, b, n) ∧ t.seqr (.miller m) = { q with hold := .resFree })) ∧
  (∀ (s : State) (m ctx l b n : Nat), (s.miller m).freeing = some (ctx, l, b, n) → rangeInUse s l b n = false →
    ∃ t, exec (.resFreeDone m) s = .next t ∧ (t.miller m).freeing = none ∧
      (∀ j, t.byte j = if millKey (s.phys l) (4096 * b) ≤ j ∧ j < millKey (s.phys l) (4096 * b) + 4096 * n then 0 else s.byte j) ∧
      (∀ j, tget 0 t.owner j = if 1536 * s.phys l + b ≤ j ∧ j < 1536 * s.phys l + b + n then 0 else tget 0 s.owner j) ∧
      ∀ c, t.seqr c = s.seqr c)

/-- `gtab.grant`, `gtab.revoke` and `gtab.install` with its end: an install becomes resident in place of the older entry once that entry
has no reference, and its flag says so. R210 to R214, R299, R300, R395. -/
def Obligations.GristTableInstructions : Prop :=
  (∀ (s : State) (m : Nat) (g : Guard) (sa sb : BitVec 5), Executes s (.miller m) g [sa, sb] →
    let q := s.seqr (.miller m)
    let i := (q.s sa).toNat % 256
    exec (.gtabGrant (.miller m) g sa sb) s =
      .next (advance (s.modGSlot i (fun x => { x with ctx := some ((q.s sb).toNat % 4096) })) (.miller m) 8) ∧
    exec (.gtabRevoke (.miller m) g sa) s = .next (advance (s.modGSlot i (fun x => { x with ctx := none })) (.miller m) 8)) ∧
  (∀ (s : State) (m : Nat) (g : Guard) (sd sa : BitVec 5) (ab aw : BitVec 4) (off : BitVec 32), Executes s (.miller m) g [sa, sd] →
    let q := s.seqr (.miller m)
    let i := (q.s sa).toNat % 256
    let n := (q.s sd).toNat % 16
    let ea := (effAddr q ab off).toNat
    let flag := (q.a aw).toNat
    let bs := s.bytes (svcKey m ea) 160
    (s.gslot i).entryOf n = none → (s.gslot i).installing n = false → 32 ∣ ea → 4 ∣ flag → flag < 2 ^ 48 →
    ∃ t, exec (.gtabInstall (.miller m) g sd sa ab aw off) s = .next t ∧ t.seqr (.miller m) = { q with pc := q.pc + 8 } ∧
      (recordOk bs = true → StoredBytes s t (svcKey m flag) 4 0 ∧
        t.gslot i = { s.gslot i with installs := (s.gslot i).installs ++ [{ gen := n, bytes := bs, flagCore := m, flagAddr := flag }] }) ∧
      (recordOk bs = false → StoredBytes s t (svcKey m flag) 4 2 ∧ t.gslot i = s.gslot i)) ∧
  (∀ (s : State) (i : Nat) (x : Install) (xs : List Install), (s.gslot i).installs = x :: xs →
    let old := (s.gslot i).entry (s.gslot i).older
    let new : GGen := {
      valid := true
      gen := x.gen
      kind := fieldAt x.bytes 128 1 % 8
      lens := recordLens x.bytes
      refs := x.refs }
    ((old.valid = false ∨ old.refs = 0) → x.flagAddr < 2 ^ 48 →
      ∃ t, exec (.gtabInstallDone i) s = .next t ∧ StoredBytes s t (svcKey x.flagCore x.flagAddr) 4 1 ∧
        (t.gslot i).installs = xs ∧ (t.gslot i).older = (!(s.gslot i).older) ∧ (t.gslot i).entry (s.gslot i).older = new ∧
        (t.gslot i).entry (!(s.gslot i).older) = (s.gslot i).entry (!(s.gslot i).older) ∧ (t.gslot i).ctx = (s.gslot i).ctx) ∧
    (old.valid = true → old.refs ≠ 0 → exec (.gtabInstallDone i) s = .next s))

/-- The partial sorter reads its elements from the service space, or from an address space whose words lie in HBM of this device and are
clean; it writes its entries, from the largest value down and equal values by index, and the count of NaN elements, and a malformed
record is a fault. A sequencer that holds goes on, issues again or stays, by what it waits for. R204, R242, R257, R308 to R310. -/
def Obligations.SortAndResume : Prop :=
  (∀ (s : State) (m : Nat) (g : Guard) (sd : BitVec 5) (ab : BitVec 4) (off : BitVec 32) (r : SortRec), Executes s (.miller m) g [] →
    let q := s.seqr (.miller m)
    let n := r.n * if r.fmt = 0 then 4 else 2
    ∀ src : List Byte, sortRec (s.bytes (svcKey m (effAddr q ab off).toNat) 32) = some r →
    (if r.ctx = 0xFFFF then src = s.bytes (svcKey m r.src) n
     else q.desc = none ∧ ∃ f : Nat → Nat,
      (∀ i, i < (r.src % 32 + n + 31) / 32 → 32 ∣ f i ∧ classify (s.word (f i)).2 = .clean ∧
        ctxAddr s r.ctx (r.src - r.src % 32 + 32 * i) permRead 32 false = (s, .here (.hbm (f i)))) ∧
      src = (List.range n).map (fun j => s.byte (f ((r.src % 32 + j) / 32) + (r.src % 32 + j) % 32))) →
    let vs := sortVals r src
    ∃ t, exec (.psort (.miller m) g sd ab off) s = .next t ∧ t = { s with mem := t.mem, millers := t.millers } ∧
      HasBytes t (svcKey m r.dst) (sortOut r vs).1 ∧
      (∀ j, (j < svcKey m r.dst ∨ svcKey m r.dst + (sortOut r vs).1.length ≤ j) → t.byte j = s.byte j) ∧
      (t.seqr (.miller m)).s sd = (if sd = 0 then 0 else BitVec.ofNat 64 (sortOut r vs).2) ∧
      (t.seqr (.miller m)).pc = q.pc + 8) ∧
  (∀ (s : State) (m : Nat) (g : Guard) (sd : BitVec 5) (ab : BitVec 4) (off : BitVec 32), Executes s (.miller m) g [] →
    sortRec (s.bytes (svcKey m (effAddr (s.seqr (.miller m)) ab off).toNat) 32) = none →
    exec (.psort (.miller m) g sd ab off) s = .next (serviceFault s m)) ∧
  (∀ (s : State) (c : Core),
    let q := s.seqr c
    let s1 := s.modSeqr c (fun q => { q with hold := .none, released := false })
    (canIssue s1 c = false → exec (.sequencerResume c) s = .next s) ∧
    (canIssue s1 c = true →
      (∀ r, q.hold = .reg r → exec (.sequencerResume c) s = .next (if ∃ w ∈ q.waiting, w.1 = r then s else s1)) ∧
      (q.hold = .hazard → exec (.sequencerResume c) s = .next s1) ∧
      (∀ e, q.hold = .attnRoom e → exec (.sequencerResume c) s = .next (if (s.engine e).queue.length < 8 then s1 else s)) ∧
      (∀ x n, q.hold = .sluice x n → exec (.sequencerResume c) s =
        .next (if q.released = true ∨ sluiceReleased s x n = true then advance s1 c 8 else s)) ∧
      (q.hold = .fence → exec (.sequencerResume c) s = .next (if fenceOver s c then advance s1 c 8 else s)) ∧
      (∀ k n, q.hold = .strm k n → exec (.sequencerResume c) s = .next (if n ≤ passesEnded s k then advance s1 c 8 else s)) ∧
      (q.hold = .swap256 → exec (.sequencerResume c) s =
        .next (if ∃ a ∈ coreAtoms s c, a.kind = .swap256 then s else advance s1 c 8)) ∧
      (q.hold = .sluiceReset → exec (.sequencerResume c) s =
        .next (if ∃ a ∈ coreAtoms s c, a.kind = .sluiceReset then s else advance s1 c 8)) ∧
      (∀ m, c = .miller m → q.hold = .resFree →
        exec (.sequencerResume c) s = .next (if (s.miller m).freeing = none then advance s1 c 8 else s)) ∧
      (∀ n sd, q.hold = .claim n sd → exec (.sequencerResume c) s =
        .next (if ((s.ring n).c0 - (s.ring n).c3).toNat < (s.ring n).entries
          then advance (claimSlot s1 c n (BitVec.ofNat 5 sd)) c 8 else s)) ∧
      (∀ n sd, q.hold = .take n sd → exec (.sequencerResume c) s =
        .next (if (s.ring n).c1 = (s.ring n).c2 then s else advance (takeSlot s1 c n (BitVec.ofNat 5 sd)) c 8)) ∧
      (∀ f a, q.hold = .halted f a → q.again = [] → exec (.sequencerResume c) s = .next s1))) ∧
  (∀ (r : SortRec) (vs : List W32),
    let es := vs.zipIdx.map (fun p => (p.2, p.1))
    let good := es.filter (fun e => !(f32 e.2).isNan)
    let top := good.foldl (fun acc e => insertEnt e acc) []
    (∀ e, e ∈ top ↔ e ∈ good) ∧ top.length = good.length ∧
    top.Pairwise (fun a b => sortKey b.2 < sortKey a.2 ∨ (sortKey a.2 = sortKey b.2 ∧ a.1 < b.1)) ∧
    (sortOut r vs).2 = (vs.filter (fun v => (f32 v).isNan)).length)

/-- The Governor checks a record and dispatches a run: a record at the head of the run queue is taken, a run that breaks no condition
becomes ready and one that breaks one is rejected, and a dispatched run holds its tiles, which start at PROG_ADDR with the arguments in
s1 to s8 and the region bases in a0 on. R186, R195 to R198, R201. -/
def Obligations.RunsDispatch : Prop :=
  (∀ (s : State) (d : Nat), firstRaw s d = none → (firstRaw (takeRecord s d) d).isSome = true →
    exec (.dispatchCheck d) s = exec (.dispatchCheck d) (takeRecord s d)) ∧
  (∀ (s : State) (d : Nat) (bs : List Byte), let q := (s.gov d).runqRing
    (s.ring q).kind = .internal → (s.ring q).st = .on → (s.ring q).c1 ≠ (s.ring q).c0 → headRecord s q = (s, bs, .ok) →
    ((takeRecord s d).ring q).c0 = (s.ring q).c0 + 1 ∧ (takeRecord s d).mem = s.mem ∧ (takeRecord s d).nextRid = s.nextRid + 1 ∧
    ((takeRecord s d).gov d).runs = (s.gov d).runs ++
      [{ rid := s.nextRid, rr := runRec bs, waitFrom := (s.mrc d).ticks }]) ∧
  (∀ (s s1 : State) (d : Nat) (r : Run) (rs : List Region), firstRaw s d = some r → checkRun s r.rr = (s1, .ok rs) →
    s1.run? d r.rid = some r →
    ∃ t, exec (.dispatchCheck d) s = .next t ∧ t = { s1 with govs := t.govs } ∧
      t.run? d r.rid = some { r with phase := .ready, regions := rs }) ∧
  (∀ (s s1 : State) (d : Nat) (r : Run) (f : Flt), firstRaw s d = some r → checkRun s r.rr = (s1, .error f) →
    s1.run? d r.rid = some r → (s1.ring r.rr.cplRing).room = false →
    ∃ t, exec (.dispatchCheck d) s = .next t ∧ t.mem = s1.mem ∧
      t.run? d r.rid = some { r with phase := .ended, fault := f, faultClass := 5 }) ∧
  (∀ (s s1 : State) (d : Nat) (r : Run) (rs : List Region), s.run? d r.rid = some r → r.phase = .ready → checkRun s r.rr = (s1, .ok rs) →
    s1.run? d r.rid = some r → canDispatch s1 d r = true → r.rr.args.length = 8 → rs.length ≤ 16 →
    ∃ t x, exec (.dispatch d r.rid) s = .next t ∧ t.mem = s1.mem ∧ t.run? d r.rid = some x ∧ x.phase = .active ∧ x.regions = rs ∧
      x.rr = r.rr ∧ x.engines.length = r.rr.nAttn ∧ x.lanes.length = r.rr.nGrist ∧
      (∀ e ∈ x.engines, (t.engine e).grant = some r.rid) ∧ (∀ n ∈ x.lanes, (t.lane n).run = some r.rid) ∧
      ∀ l ∈ r.rr.tileList, (t.ltile l).st = .held ∧ (t.ltile l).run = some r.rid ∧
        (t.seqr (.tile l)).mode = .running ∧ (t.seqr (.tile l)).pc = r.rr.progAddr ∧
        (∀ i, i < 8 → (t.seqr (.tile l)).s (BitVec.ofNat 5 (i + 1)) = nth 0 r.rr.args i) ∧
        (∀ i, i < rs.length → (t.seqr (.tile l)).a (BitVec.ofNat 4 i) = BitVec.ofNat 64 (nth 0 (rs.map (fun g => g.base)) i)))

/-- The ends of runs: a quiet run frees its tiles, engines, slots and lanes and writes its completion record; a stopped run does the same
when nothing is in flight; the two watchdogs fault a run, and a run that has waited long is aged. R198, R225 to R231. -/
def Obligations.RunsEnd : Prop :=
  (∀ (s : State) (d rid : Nat) (r : Run), s.run? d rid = some r → r.rid = rid → (s.ring r.rr.cplRing).room = false →
    let Torn (t : State) : Prop :=
      (∃ x, t.run? d rid = some x ∧ x.phase = .ended ∧ x.fault = r.fault ∧ x.cancelled = r.cancelled) ∧
      (∀ l ∈ r.rr.tileList, (t.ltile l).run = none ∧ (t.ltile l).st ≠ .held) ∧
      (∀ e ∈ r.engines, (t.engine e).grant = none ∧ (t.engine e).run = none ∧ (t.engine e).queue = []) ∧
      (∀ k ∈ r.slots, t.slot k = {}) ∧ (∀ n ∈ r.lanes, (t.lane n).run = none)
    (r.phase = .active → runQuiet s r = true → ∃ t, exec (.runEnd d rid) s = .next t ∧ Torn t) ∧
    (r.phase = .stopping → runStopped s r = true → ∃ t, exec (.runStopped d rid) s = .next t ∧ Torn t)) ∧
  (∀ (s : State) (d rid : Nat) (r : Run) (pl : Place), s.run? d rid = some r → r.phase = .ended →
    let q := s.ring r.rr.cplRing
    let bs := cplBytes r (r.endTick - r.startTick)
    q.kind = .internal → q.room = true → s.entryPlace q q.c1.toNat = some pl → frameRetired s pl = false →
    ∃ t, exec (.runEnd d rid) s = .next t ∧ exec (.runStopped d rid) s = .next t ∧ t.mem = (s.setBytes pl.key bs).mem ∧
      (t.ring r.rr.cplRing).c1 = q.c1 + 1 ∧ t.run? d rid = none ∧
      (t.gov d).faultCnt = (if r.status = 1 ∨ r.status = 3 then min ((s.gov d).faultCnt + 1) (2 ^ 32 - 1) else (s.gov d).faultCnt)) ∧
  (∀ (s : State) (d rid : Nat) (r : Run), s.run? d rid = some r → r.phase = .active →
    let w := (s.gov d).wdog
    (exec (.runDeadlockWatchdog d rid) s = .next (if w ≠ 0 ∧ r.progressTick + 4096 * w ≤ runTicks s r
      then faultRun s d rid .deadlockWatchdog none 0xFF 3 else s)) ∧
    (exec (.runLimit d rid) s = .next (if r.rr.limit ≠ 0 ∧ r.startTick + 4096 * r.rr.limit ≤ runTicks s r
      then faultRun s d rid .runLimit none 0xFF 3 else s)) ∧
    (∀ f, (faultRun s d rid f none 0xFF 3).run? d rid = some { r with
      phase := .stopping
      fault := f
      faultPc := none
      faultTile := 0xFF
      faultClass := 3 } ∧
      (faultRun s d rid f none 0xFF 3).mem = s.mem ∧
      ∀ l ∈ r.rr.tileList, ((faultRun s d rid f none 0xFF 3).seqr (.tile l)).mode ≠ .running)) ∧
  (∀ (s : State) (d rid : Nat) (r : Run), s.run? d rid = some r → r.phase = .ready →
    r.waitFrom + 4096 * (s.gov d).age < (s.mrc d).ticks →
    ∃ t, exec (.runAged d rid) s = .next t ∧ t = { s with govs := t.govs } ∧ t.run? d rid = some { r with aged := true })

/-- A count tick completes for every tile, engine and stream: of the stalls that stand, and of those within the tick that its operand
names, each unit counts the first in the order of R234, each cause at most once; a tile and an engine of a run count for the run as well.
A sequencer that holds stalls for the cause of its hold, a halted stream for its page, and a stream whose bucket is empty for its rate.
R231, R233 to R235, R379, R723. -/
def Obligations.StallsCountOnce : Prop :=
  let Bumped (cs : List Cause) (bits : Nat) (old new : Tab Nat) : Prop := ∀ c, tget 0 new (causeCode c) =
    if c ∈ cs then min (tget 0 old (causeCode c) + 1) (2 ^ bits - 1) else tget 0 old (causeCode c)
  (∀ (s : State) (p : Nat) (us : List (Nat × Cause)),
    let cs := tickCauses (agentStalls s (.tile p) us)
    ∃ t, exec (.stallTick (.tile p) us) s = .next t ∧ t = { s with tiles := t.tiles, govs := t.govs } ∧
      Bumped cs 64 (s.tile p).stall (t.tile p).stall ∧ (∀ j, j ≠ p → t.tile j = s.tile j) ∧
      ∀ l r, s.logOf p = some l → (s.ltile l).run = some r.rid → s.run? (l / 48) r.rid = some r →
        ∃ x, t.run? (l / 48) r.rid = some x ∧ Bumped cs 32 r.stall x.stall) ∧
  (∀ (s : State) (e : Nat) (us : List (Nat × Cause)),
    let cs := tickCauses (agentStalls s (.engine e) us)
    ∃ t, exec (.stallTick (.engine e) us) s = .next t ∧ t = { s with engines := t.engines, govs := t.govs } ∧
      Bumped cs 64 (s.engine e).stall (t.engine e).stall ∧ (∀ j, j ≠ e → t.engine j = s.engine j) ∧
      ∀ r, (s.engine e).grant = some r.rid → s.run? (e / 12) r.rid = some r →
        ∃ x, t.run? (e / 12) r.rid = some x ∧ Bumped cs 32 r.stall x.stall) ∧
  (∀ (s : State) (k : Nat) (us : List (Nat × Cause)),
    let cs := tickCauses (agentStalls s (.slot k) us)
    ∃ t, exec (.stallTick (.slot k) us) s = .next t ∧ t = { s with mrcs := t.mrcs } ∧
      Bumped cs 64 (s.mrc (k / 256)).stall (t.mrc (k / 256)).stall) ∧
  (∀ (us : List (Nat × Cause)) (c : Cause), c ∈ tickCauses us ↔ ∃ u, (∃ c', (u, c') ∈ us) ∧ firstCause us u = some c) ∧
  (∀ (us : List (Nat × Cause)) (u i : Nat) (c : Cause), i < 11 → nth .sluice causeOrder i = c → (u, c) ∈ us →
    (∀ j, j < i → (u, nth .sluice causeOrder j) ∉ us) → firstCause us u = some c) ∧
  (∀ (s : State) (l : Nat) (r : Run) (us : List (Nat × Cause)),
    let q := (s.tile (s.phys l)).seqr
    s.logOf (s.phys l) = some l → s.runOf l = some r → r.phase = .active → q.mode = .running →
    let Stalls (c : Cause) : Prop := (0, c) ∈ agentStalls s (.tile (s.phys l)) us
    (∀ n sd, q.hold = .claim n sd → Stalls .ringSpace) ∧ (∀ n sd, q.hold = .take n sd → Stalls .ringData) ∧
    (∀ x n, q.hold = .sluice x n → Stalls .sluice) ∧ (q.hold = .hazard → Stalls .bank) ∧
    (∀ i, q.hold = .reg i → Stalls (if (i, true) ∈ q.waiting then .fabric else .bank)) ∧
    (∀ k n, q.hold = .strm k n → passesEnded s k < n → ∀ c ∈ slotCauses s k, Stalls c)) ∧
  (∀ (s : State) (k : Nat) (us : List (Nat × Cause)), (s.slot k).st = .halted →
    (0, Cause.page) ∈ agentStalls s (.slot k) us ∧
    (weirOk s (k / 256) (s.slot k).ctx = false → (0, Cause.rate) ∈ agentStalls s (.slot k) us)) ∧
  (∀ (s : State) (k : Nat) (d : StrmDesc) (us : List (Nat × Cause)), slotDesc s (s.slot k) = some d → strmLive s k = true →
    weirOk s (k / 256) (s.slot k).ctx = false → (0, Cause.rate) ∈ agentStalls s (.slot k) us)

/-! ## Millrace (08) -/

/-- A stream without rings issues the transfer of a one-part element between two Millpond places when the turn of its slot has come, charged
to the Weir; the transfer moves the words with their check bits, all clean, when it is acknowledged, and frees its tag.
R340 to R343, R347, R351, R352, R381, R433. -/
def Obligations.TransfersMoveWords : Prop :=
  (∀ (s : State) (k : Nat) (d : StrmDesc) (x : TDesc) (p1 p2 : Place), NextTransfer s k d x →
    let sl := s.slot k
    let sa := if x.srcRel then d.dataBase + x.src else x.src
    let da := if x.dstRel then d.dataBase + x.dst else x.dst
    d.codec = 0 → d.mcast = false → d.srcRing = none → d.dstRing = none → x.kind = 0 → x.count = 1 → sl.next.elem = 0 → sl.next.part = 0 →
    32 ∣ sa.toNat → 32 ∣ da.toNat → sa.toNat % 4096 + x.len ≤ 4096 → da.toNat % 4096 + x.len ≤ 4096 →
    StrmPlace s k sa.toNat permRead x.len p1 → StrmPlace s k da.toNat permWrite x.len p2 → tagFree s k false = true →
    nextServed s k = some k →
    ∃ t, exec (.transferIssue k) s = .next t ∧ t.mem = s.mem ∧ tget 0 (t.mrc (k / 256)).served (k % 256 / 32) = (k + 1) % 32 ∧
      (t.slot k).xfers = sl.xfers ++ [{
        xid := (s.mrc (k / 256)).nextXid
        pos := sl.next
        src := some sa
        dst := [da]
        bytes := x.len
        block := sl.nextBlock }] ∧
      (t.slot k).next = { desc := sl.next.desc + 1 } ∧
      (t.slot k).issuedAll = decide (d.listLen ≤ sl.next.desc + 1) ∧
      t.weir (k / 256) sl.ctx = (let w := s.weir (k / 256) sl.ctx
        if w.rate = 0 then w else { w with tokens := w.tokens - (max x.len 3584 : Nat) })) ∧
  (∀ (s : State) (k n : Nat) (d : StrmDesc) (x : Xfer) (sa da : W64) (p1 p2 : Place),
    let sl := s.slot k
    sl.xfers = [x] → sl.engine = none → sl.desc = some d → d.codec = 0 → x.remote = 0 → x.written = false → x.buf = none →
    x.page = false → x.src = some sa → x.dst = [da] → x.bytes = 32 * n →
    32 ∣ sa.toNat → 32 ∣ da.toNat → sa.toNat % 4096 + x.bytes ≤ 4096 → da.toNat % 4096 + x.bytes ≤ 4096 →
    StrmPlace s k sa.toNat permRead x.bytes p1 → StrmPlace s k da.toNat permWrite x.bytes p2 →
    (∀ i, i < n → classify (s.word (p1.key + 32 * i)).2 = .clean) →
    ∃ t, exec (.transferAck k x.xid) s = .next t ∧ (t.slot k).xfers = [] ∧
      (∀ i, i < n → t.word (p2.key + 32 * i) = s.word (p1.key + 32 * i)) ∧
      (∀ j, (j < p2.key ∨ p2.key + 32 * n ≤ j) → t.byte j = s.byte j))

/-- The end of a pass, a halt with its notice, the ring watchdog and the Weir. R353, R354, R363, R373 to R375, R380. -/
def Obligations.PassesHaltsAndWeir : Prop :=
  (∀ (s : State) (k : Nat) (d : StrmDesc), let sl := s.slot k
    sl.st = .running → sl.issuedAll = true → sl.xfers = [] → sl.elems = [] → sl.failing = none → sl.engine = none →
    sl.desc = some d → d.sluice = none →
    ∃ t, exec (.passEnd k) s = .next t ∧ t.mem = s.mem ∧ (t.slot k) = (if d.persist then { sl with st := .passDone } else {}) ∧
      passesEnded t k = passesEnded s k + 1 ∧ ∀ j, j ≠ k → t.slot j = s.slot j) ∧
  (∀ (s : State) (k : Nat) (p : Pos) (f : Flt) (a : W64), let sl := s.slot k
    sl.st = .running → sl.xfers = [] →
    ((sl.failing = none → sl.haltReq = true →
      ∃ t, exec (.streamHalt k) s = .next t ∧ t.mem = s.mem ∧ (t.slot k).st = .halted ∧ (t.slot k).reason = .none ∧
        (t.slot k).pos = sl.next ∧ (t.slot k).notice = false) ∧
     (sl.failing = some (p, f, a) → f ≠ .none → f ≠ .deadlockWatchdog → (s.ring (s.mrc (k / 256)).haltRing).room = false →
      ∃ t, exec (.streamHalt k) s = .next t ∧ t.mem = s.mem ∧ (t.slot k).st = .halted ∧ (t.slot k).reason = f ∧ (t.slot k).pos = p ∧
        (t.slot k).faddr = a ∧ (t.slot k).notice = true))) ∧
  (∀ (s : State) (d n : Nat) (bs : List Byte) (o : Option Nat) (pl : Place), firstNotice s d = some (n, bs, o) →
    let q := s.ring (s.mrc d).haltRing
    q.kind = .internal → q.room = true → s.entryPlace q q.c1.toNat = some pl → frameRetired s pl = false →
    (∀ x ∈ (s.mrc d).slots, x.2.resume = false) →
    ∃ t, exec (.haltNoticeWrite d) s = .next t ∧ t.mem = (s.setBytes pl.key bs).mem ∧
      (t.ring (s.mrc d).haltRing).c1 = q.c1 + 1 ∧
      (∀ k, o = some k → k / 256 = d → t.slot k = { s.slot k with notice := false }) ∧
      (o = none → ∀ x ∈ (t.mrc d).orphans, x.1 ≠ n)) ∧
  (∀ (s : State) (k q c t : Nat), let m := s.mrc (k / 256)
    ringAwaited s k = some q → (s.slot k).ringWait = some (q, BitVec.ofNat 32 c, t) → ringMoves s q = BitVec.ofNat 32 c →
    m.wdog ≠ 0 → t + 4096 * m.wdog ≤ m.ticks → waiters s (s.slot k).ctx = [k] → (s.slot k).xfers = [] → (s.slot k).run = none →
    ∃ t', exec (.deadlockWatchdog k) s = .next t' ∧ (t'.slot k).st = .halted ∧ (t'.slot k).reason = .deadlockWatchdog ∧
      (t'.slot k).pos = (s.slot k).next ∧ t'.hif.esq = s.hif.esq + 1) ∧
  (∀ (s : State) (d c : Nat), let w := s.weir d c
    let rate := w.rateNext.getD w.rate
    let depth := w.depthNext.getD w.depth
    ∃ t, exec (.weirRefill d c) s = .next t ∧ t = { s with mrcs := t.mrcs } ∧ t.weir d c =
      if rate = 0 then { rate := rate, depth := depth, tokens := depth, frac := w.frac }
      else {
        rate := rate
        depth := depth
        tokens := min (min w.tokens depth + ((w.frac + rate) / 256 : Nat)) depth
        frac := (w.frac + rate) % 256 })

/-! ## Grist blocks, Millpond and the memory block (07, 09, 10) -/

/-- A lane decodes and encodes a block whose words are all good: a raw block passes as it is, a coded block that the code accepts gives
its decoded bytes, marked when its header or block header says so, and an encode writes the block header. R387, R396, R402, R409, R410. -/
def Obligations.GristBlocks : Prop :=
  (∀ (s : State) (k : Nat) (x : Xfer) (d : StrmDesc) (hb : List Byte) (ws : List Word288),
    let sl := s.slot k
    sl.xfers = [x] → sl.desc = some d → d.codec = 1 → x.coded = false → x.remote = 0 → x.buf = some ws → GoodWords ws →
    fetchBytes s k true (d.indexBase + BitVec.ofNat 64 (8 * x.block)).toNat 8 = (s, .ok hb true) →
    let hp := (fieldAt hb 0 1).testBit 0
    ((fieldAt hb 0 1).testBit 1 = false →
      ∃ t, exec (.gristDecodeBlock k x.xid) s = .next t ∧ t.mem = s.mem ∧
        (t.slot k).xfers = [{ x with buf := some (blockWords (wordBytes ws) hp), coded := true }] ∧
        (t.grs (k / 256)).decBlocks = min ((s.grs (k / 256)).decBlocks + 1) (2 ^ 64 - 1) ∧
        (t.grs (k / 256)).decRaw = min ((s.grs (k / 256)).decRaw + 1) (2 ^ 64 - 1)) ∧
    (∀ (cw bs : List Byte) (n : Nat), (fieldAt hb 0 1).testBit 1 = true →
      fetchBytes s k true ((x.src.getD 0) - 32).toNat 32 = (s, .ok cw true) → decodeRest s sl (codecHdr cw) = some n →
      let h := codecHdr cw
      decodeBlock ((s.gslot h.slot).entry (((s.gslot h.slot).entryOf h.gen).getD false)) h (cw ++ wordBytes ws) = .ok bs →
      ∃ t, exec (.gristDecodeBlock k x.xid) s = .next t ∧ t.mem = s.mem ∧
        (t.slot k).xfers = [{ x with buf := some (blockWords bs (hp || h.poison)), coded := true }] ∧
        (t.grs (k / 256)).decBlocks = min ((s.grs (k / 256)).decBlocks + 1) (2 ^ 64 - 1) ∧
        (t.grs (k / 256)).decRaw = (s.grs (k / 256)).decRaw)) ∧
  (∀ (s : State) (k : Nat) (x : Xfer) (d : StrmDesc) (ws : List Word288) (pl : Place),
    let sl := s.slot k
    let ha := (d.indexBase + BitVec.ofNat 64 (8 * x.block)).toNat
    sl.xfers = [x] → sl.desc = some d → d.codec = 2 → x.coded = false → x.remote = 0 → x.buf = some ws → GoodWords ws →
    StrmPlace s k ha permWrite 8 pl → 8 ∣ ha → classify (s.word pl.key).2 = .clean →
    let n := nth 0 d.grsSlots 0
    let g := (s.gslot n).entry (((s.gslot n).entryOf d.encGen).getD false)
    let e := encodeBlock g n false true (wordBytes ws ++ natToBytes 0 (4096 - 32 * ws.length))
    ∃ t, exec (.gristEncodeBlock k x.xid) s = .next t ∧
      (t.slot k).xfers = [{ x with
        buf := some ((toWords (e.1 ++ natToBytes 0 (4096 - e.1.length))).map (fun w => (w, 0)))
        off := e.1.length
        coded := true }] ∧
      StoredBytes s t pl.key 8 ((if e.2 = none then 2 else 0) + 256 * kindFmt g.kind) ∧
      (t.grs (k / 256)).encBlocks = min ((s.grs (k / 256)).encBlocks + 1) (2 ^ 64 - 1))

/-- The bank states, the write-back of a corrected word, and the end of a march: PASS without a failing row, REPAIRED where a spare row is
left, FAIL where none is, ABORTED where the tile left ON, with the repairs made before; a preserving or aborted march keeps every byte and a
destructive one zeroes the banks that it ran on. R316, R326 to R328, R331, R334, R335, R337. -/
def Obligations.BanksAndMarch : Prop :=
  (∀ (s : State) (p w i : Nat) (sym : Byte), w ∈ (s.tile p).mpd.writeback →
    let k := millKey p (32 * w)
    classify (s.word k).2 = .correctable i sym →
    ∃ t, exec (.eccWriteback p w) s = .next t ∧ t.word k = (correct (s.word k).1 i sym, 0) ∧
      (∀ j, (j < k ∨ k + 32 ≤ j) → t.byte j = s.byte j) ∧
      (t.tile p).mpd.writeback.length + 1 = (s.tile p).mpd.writeback.length) ∧
  (∀ (s : State) (p b : Nat), p < 200 → b < 3 →
    (mayRetain s p b = true → ∃ t, exec (.retentionEntry p b) s = .next t ∧ t = { s with tiles := t.tiles } ∧
      (tget {} (t.tile p).mpd.banks b).st = .retained) ∧
    ((tget {} (s.tile p).mpd.banks b).st = .retained → ∃ t, exec (.bankWakeRequest p) s = .next t ∧ t = { s with tiles := t.tiles } ∧
      (tget {} (t.tile p).mpd.banks b).st = .waking) ∧
    ((tget {} (s.tile p).mpd.banks b).st = .waking → ∃ t, exec (.bankWakeDone p b) s = .next t ∧ t = { s with tiles := t.tiles } ∧
      (tget {} (t.tile p).mpd.banks b).st = .awake)) ∧
  (∀ (s : State) (p : Nat) (fs : List RowFail), let m := (s.tile p).mpd
    m.marchSt = .running → banksAwake s p = true → m.marchAbort = false →
    ∃ t, exec (.marchDone p fs) s = .next t ∧
      (m.marchPreserving = true → t.mem = s.mem ∧ t.owner = s.owner) ∧
      (m.marchPreserving = false → ∀ b, b < 3 → m.marchBanks.getLsbD b = true →
        ∀ o, bankOf o = b → o < 0x600000 → t.byte (millKey p o) = 0 ∧ ownerOf t p o = 0) ∧
      (fs = [] → (t.tile p).mpd.marchSt = .pass ∧ (t.tile p).mpd.repairs = m.repairs) ∧
      (∀ f, fs = [f] → rowExists f.bank f.sub f.row = true → f.badSpares = 0 → m.sparesUsed f.bank f.sub < 4 →
        (t.tile p).mpd.marchSt = .repaired ∧ (t.tile p).mpd.rowsFailed = 1 ∧ (t.tile p).mpd.rowsRepaired = 1 ∧
        (t.tile p).mpd.repairs = m.repairs ++ [{
          bank := f.bank
          sub := f.sub
          row := f.row
          spare := m.sparesUsed f.bank f.sub
          preserving := m.marchPreserving }]) ∧
      (∀ f, fs = [f] → rowExists f.bank f.sub f.row = true → 4 ≤ m.sparesUsed f.bank f.sub →
        (t.tile p).mpd.marchSt = .fail ∧ (t.tile p).mpd.repairs = m.repairs)) ∧
  (∀ (s : State) (p : Nat) (fs : List RowFail), let m := (s.tile p).mpd
    m.marchSt = .running → banksAwake s p = true → m.marchAbort = true →
    ∃ t, exec (.marchDone p fs) s = .next t ∧ t.mem = s.mem ∧ t.owner = s.owner ∧ (t.tile p).mpd.marchSt = .aborted ∧
      ∀ f, fs = [f] → rowExists f.bank f.sub f.row = true → f.badSpares = 0 → m.sparesUsed f.bank f.sub < 4 →
        (t.tile p).mpd.repairs = m.repairs ++ [{
          bank := f.bank
          sub := f.sub
          row := f.row
          spare := m.sparesUsed f.bank f.sub
          preserving := m.marchPreserving }])

/-- A retiring tile that no run holds is remapped onto an unused spare: the owned blocks stand on the spare with the words and tags that
they had, or as zeros where the old tile failed; without a spare the logical tile is OFF. R215 to R217. -/
def Obligations.RetiredTileIsRemapped : Prop :=
  ∀ (s : State) (l : Nat), Canonical s → l < 192 → s.phys l < 200 → (s.ltile l).st = .retiring → (s.ltile l).run = none →
    (∀ q, unusedSpare s (l / 48) = some q →
      ∃ t, exec (.tileRemapComplete l) s = .next t ∧ t.phys l = q ∧ (∀ j, j ≠ l → t.phys j = s.phys j) ∧
        t.ltile l = {} ∧ (t.tile (s.phys l)).retired = true ∧
        ∀ b, b < 1536 → tget 0 s.owner (1536 * s.phys l + b) ≠ 0 →
          tget 0 t.owner (1536 * q + b) = tget 0 s.owner (1536 * s.phys l + b) ∧
          ∀ i, i < 4096 → t.byte (millKey q (4096 * b + i)) =
            if (s.ltile l).failed then 0 else s.byte (millKey (s.phys l) (4096 * b + i))) ∧
    (unusedSpare s (l / 48) = none →
      ∃ t, exec (.tileRemapComplete l) s = .next t ∧ (t.ltile l).st = .off ∧ t.phys l = s.phys l)

/-- The patrol scrubber moves on past a block, which it leaves with every correctable word corrected and every other word as it was, and
whose frame it retires for an uncorrectable word; a sparing copy takes words corrected or marked, and ends; the two invalidations are
written, run and are done, that of translations once no access of its context is outstanding. R428, R437, R443, R479. -/
def Obligations.MemoryBlockWork : Prop :=
  (∀ (s : State) (k : Nat), k < 12 → (s.stack k).scrubInt ≠ 0 →
    let b := (s.stack k).scrubBlk
    let a := hbmBlockAddr k b
    b < 12582912 → (∀ f, (s.fn f).evtValid = false) →
    ∃ t, exec (.patrolScrub k) s = .next t ∧
      (t.stack k).scrubBlk = (if b + 1 = 12582912 then 0 else b + 1) ∧
      (∀ i, i < 128 → t.word (a + 32 * i) = match classify (s.word (a + 32 * i)).2 with
        | .correctable p sym => (correct (s.word (a + 32 * i)).1 p sym, 0)
        | .clean => s.word (a + 32 * i)
        | .marked => s.word (a + 32 * i)
        | .uncorrectable => s.word (a + 32 * i)) ∧
      (∀ j, (j < a ∨ a + 4096 ≤ j) → t.byte j = s.byte j) ∧
      (∀ i, i < 128 → classify (s.word (a + 32 * i)).2 = .uncorrectable → retiredOf s (hbmDie a) < 4096 →
        a / 65536 ∈ t.memb.retired) ∧
      ((∀ i, i < 128 → classify (s.word (a + 32 * i)).2 = .clean) → t = { s with memb := t.memb })) ∧
  (∀ (s : State) (k : Nat), 12 ≤ k ∨ (s.stack k).scrubInt = 0 → exec (.patrolScrub k) s = .next s) ∧
  (∀ (s : State) (a p : Nat) (sym : Byte),
    (classify (s.word a).2 = .correctable p sym → (copyWord s a).word a = (correct (s.word a).1 p sym, 0)) ∧
    (classify (s.word a).2 = .uncorrectable → (copyWord s a).word a = ((s.word a).1, kMark))) ∧
  (∀ (s : State) (k pc : Nat) (rest : List Nat), (s.stack k).sparing = pc :: rest → channelErrors s k pc = [] →
    ∃ t, exec (.sparingCopyDone k) s = .next t ∧ (t.stack k).sparing = rest ∧ (t.stack k).spared = (s.stack k).spared ∧
      t.hif.esq = s.hif.esq + 1) ∧
  (∀ (s : State) (v : W64) (b : Bool),
    exec (.memXlatInvalWrite v b) s = .next { s with memb := { s.memb with
      xlat := if s.memb.invBusy then s.memb.xlat.filter (fun x => !invalCovers s.memb x.ctx x.level x.idx) else s.memb.xlat
      invOld := if s.memb.invBusy then s.memb.invOld ++ [s.memb.invCtx] else s.memb.invOld
      invVa48 := b
      invHi := b
      invDone := false
      invBusy := true
      invAll := v.getLsbD 62
      invCtx := (v.extractLsb' 48 12).toNat
      invVpage := (v.extractLsb' 16 32).toNat
      invCount := (v.extractLsb' 0 16).toNat } }) ∧
  (∀ (s : State), invalWaits s = true → exec .xlatInvalDone s = .next s) ∧
  (∀ (s : State), s.memb.invBusy = true → invalWaits s = false →
    ∃ t, exec .xlatInvalDone s = .next t ∧ t = { s with memb := t.memb } ∧ t.memb.invDone = true ∧ t.memb.invBusy = false ∧
      ∀ x, x ∈ t.memb.xlat ↔ x ∈ s.memb.xlat ∧ invalCovers s.memb x.ctx x.level x.idx = false) ∧
  (∀ (s : State) (v : W32),
    exec (.hdrTblInvalWrite v) s = .next { s with hdr := { s.hdr with
      invDone := false
      invBusy := true
      invKind := v.getLsbD 30
      invIndex := (v.extractLsb' 0 16).toNat } }) ∧
  (∀ (s : State), s.hdr.invBusy = true →
    ∃ t, exec .tblInvalDone s = .next t ∧ t = { s with hdr := t.hdr } ∧ t.hdr.invDone = true ∧ t.hdr.invBusy = false ∧
      (s.hdr.invKind = true → (∀ x ∈ t.hdr.groupCache, x.1 ≠ s.hdr.invIndex) ∧ t.hdr.rightsCache = s.hdr.rightsCache) ∧
      (s.hdr.invKind = false → (∀ x ∈ t.hdr.rightsCache, x.1 ≠ s.hdr.invIndex % 4096) ∧ t.hdr.groupCache = s.hdr.groupCache))

/-! ## Headrace (11, 16) -/

/-- Training and its end: eight aligned lanes, the exchange of identities, the credit that takes a port UP, and the events that take it
DOWN and retrain it; the clock of a crossing stops and returns, and a retraining resets its group. R448, R455 to R457, R472, R627, R630. -/
def Obligations.PortsTrainAndFall : Prop :=
  (∀ (s : State) (p : Nat) (lanes : BitVec 8), p < 16 → (s.port p).link = .training → (s.port p).unit.st = .on →
    exec (.laneAlignment p lanes) s = .next (s.modPort p (fun q => { q with lanesOk := lanes })) ∧
    ((s.port p).lanesOk = 0xFF → ∀ (sw : BitVec 16) (sp : BitVec 8) (pn : BitVec 4),
      exec (.portId p sw sp pn) s = .next (s.modPort p (fun q => { q with
        switchId := sw
        switchPort := sp
        plane := pn.toNat
        idDone := true
        link := if pn.toNat = p then .training else .miswired }))) ∧
    ((s.port p).lanesOk = 0xFF → (s.port p).idDone = true →
      ∃ t, exec (.creditInit p) s = .next t ∧ t = { s with hdr := t.hdr } ∧ (t.port p).link = .up ∧
        (∀ c, c < 4 → tget 0 (t.port p).credit c = 768) ∧ tget 0 (t.port p).credit 4 = 1536 ∧
        (s.hdr.fabSt = .training → p < 2 → t.hdr.fabSt = .enumerating))) ∧
  (∀ (s : State) (p : Nat), p < 16 → (s.port p).unit.st = .on → (s.port p).link = .up →
    let Fell (t : State) : Prop :=
      (t.port p).link = .training ∧ (t.port p).unacked = [] ∧ (t.port p).lanesOk = 0 ∧ (t.port p).idDone = false ∧
      (t.port p).downs = min ((s.port p).downs + 1) (2 ^ 64 - 1) ∧
      t.hdr.sendQ = (s.port p).unseen ++ s.hdr.sendQ ∧ t.hif.esq = s.hif.esq + 1 ∧
      ∀ j, j ≠ p → t.port j = s.port j
    (∃ t, exec (.laneAlignmentLoss p) s = .next t ∧ Fell t) ∧ (∃ t, exec (.portSilence p) s = .next t ∧ Fell t)) ∧
  (∀ (s : State) (x : Nat), x < 34 →
    exec (.crossingClockStop x) s = .next (s.modCrossing x (fun c => { c with stopped := true })) ∧
    exec (.crossingClockReturn x) s = .next (s.modCrossing x (fun c => { c with stopped := false }))) ∧
  (∀ (s : State) (n : Nat),
    (n < 12 → exec (.stackRetraining n) s = .next (s.modCrossing (1 + n) (fun c => { c with resets := c.resets + 1 }))) ∧
    (n < 4 → exec (.d2dLinkRetraining n) s = .next (s.modCrossing (30 + n) (fun c => { c with resets := c.resets + 1 }))))

/-- A flit that decodes and has the expected SEQ is accepted, any other is discarded with a NAK, and eight NAKs in a row for one SEQ take
the port DOWN; a packet leaves on the port used least recently among those that may take it, whole, for its credit. R451, R453 to R455,
R457, R458. -/
def Obligations.FlitsAndPackets : Prop :=
  (∀ (s : State) (p : Nat) (f : FlitIn), p < 16 → (s.port p).link ≠ .down → stopped s (xPort p) = false →
    (f.fecOk = true → f.crcOk = true → f.seq = (s.port p).rxSeq → f.nak = false →
      ∃ t, exec (.flitReceive p f) s = .next t ∧ t = { s with hdr := t.hdr } ∧
        (t.port p).rxSeq = (if idleFlit f then (s.port p).rxSeq else ((s.port p).rxSeq + 1) % 2048) ∧
        (t.port p).unacked = (s.port p).after (f.ack % 2048) ∧ (t.port p).naks = 0 ∧ (t.port p).sendNak = false ∧
        (f.cclass < 5 → tget 0 (t.port p).credit f.cclass = tget 0 (s.port p).credit f.cclass + 32 * f.cred)) ∧
    (f.fecOk = false ∨ f.crcOk = false ∨ f.seq ≠ (s.port p).rxSeq →
      ∃ t, exec (.flitReceive p f) s = .next t ∧ t = { s with hdr := t.hdr } ∧ (t.port p).sendNak = true ∧
        (t.port p).rxSeq = (s.port p).rxSeq ∧ (t.port p).unacked = (s.port p).unacked ∧ (t.port p).credit = (s.port p).credit) ∧
    (f.fecOk = true → f.crcOk = true → f.seq = (s.port p).rxSeq → f.nak = true → (s.port p).nakSeq = (f.ack + 1) % 2048 →
      7 ≤ (s.port p).naks → (s.port p).unit.st = .on → (s.port p).link = .up →
      ∃ t, exec (.flitReceive p f) s = .next t ∧ (t.port p).link = .training)) ∧
  (∀ (s : State) (k : Packet) (ks : List Packet) (p : Nat), s.hdr.fabSt = .ready → s.hdr.sendQ = k :: ks →
    p < 16 → mayTake s k p = true → (∀ j, j < 16 → mayTake s k j = true → (s.port p).lastUse < (s.port j).lastUse ∨ j = p) →
    ∃ t, exec .packetSend s = .next t ∧ t = { s with hdr := t.hdr } ∧ t.hdr.sendQ = ks ∧
      tget 0 (t.port p).credit (pktClass k) = tget 0 (s.port p).credit (pktClass k) - pktSlots k ∧
      (t.port p).unacked = (s.port p).unacked ++ numberFlits k (s.port p).txSeq ∧
      (t.port p).txSeq = ((s.port p).txSeq + pktFlits k) % 2048 ∧ ∀ j, j ≠ p → t.port j = s.port j)

/-- Requests that return words or store them, at the target: LOAD and READ answer the words with their check bits, STORE replaces the
bytes of its mask, WRITE stores every word that is not uncorrectable, SWAP256 exchanges the word. R315, R434, R464, R466, R477. -/
def Obligations.RequestsReadAndStore : Prop :=
  (∀ (s s1 : State) (k : Packet) (c : Nat) (pl : Place), Expected s k → (∀ a, pl ≠ .host a) →
    targetPlace (nextExpected s k) { k with op := 0x01, addr := k.addr / 32 * 32 } permRead 32 = (s1, some (c, pl)) → SameMemory s s1 →
    ∃ t, exec (.fabricLoad k) s = .next t ∧ t.mem = s.mem ∧ t.chk = s.chk ∧ Answered s t k 0x01 0 0 [s.word pl.key]) ∧
  (∀ (s s1 s2 : State) (k : Packet) (c : Nat) (pl : Place), Expected s k → (∀ a, pl ≠ .host a) →
    let n := k.len % 128 + 1
    let k' := { k with op := 0x03 }
    targetPlace (nextExpected s k) { k' with addr := k.addr / 32 * 32 } permRead 32 = (s1, some (c, pl)) → SameMemory s s1 →
    (1 < n → groupCheck s1 k.src k.group permRead (gOff k.addr.toNat / 32 * 32) (32 * n) = (s2, some c) ∧ SameMemory s s2 ∧
      serveRead.rangeOwnedAt s2 c pl (32 * n) = true) →
    ∃ t, exec (.fabricRead k) s = .next t ∧ t.mem = s.mem ∧ t.chk = s.chk ∧
      Answered s t k 0x03 0 0 ((List.range n).map (fun i => s.word (pl.key + 32 * i)))) ∧
  (∀ (s s1 : State) (k : Packet) (pl : Place) (w : Word288), Expected s k → (∀ a, pl ≠ .host a) → 32 ∣ pl.key →
    writePlace (nextExpected s k) { k with op := 0x02 } permWrite 1 = (s1, some pl) → SameMemory s s1 → k.data = [w] →
    classify w.2 = .clean → classify (s.word pl.key).2 = .clean →
    ∃ t, exec (.fabricStore k) s = .next t ∧ Answered s t k 0x02 0 0 [] ∧
      (∀ j, t.byte j = if pl.key ≤ j ∧ j < pl.key + 32 ∧ k.operand.toNat.testBit (j - pl.key) = true
        then BitVec.ofNat 8 (w.1.toNat / 256 ^ (j - pl.key)) else s.byte j)) ∧
  (∀ (s s1 : State) (k : Packet) (pl : Place), Expected s k → (∀ a, pl ≠ .host a) → 32 ∣ pl.key →
    let n := k.len % 128 + 1
    writePlace (nextExpected s k) { k with op := 0x04 } permWrite n = (s1, some pl) → SameMemory s s1 → k.data.length = n →
    (∀ w ∈ k.data, classify w.2 = .clean ∨ classify w.2 = .marked) →
    ∃ t, exec (.fabricWrite k) s = .next t ∧ Answered s t k 0x04 0 0 [] ∧
      (∀ i, i < n → t.word (pl.key + 32 * i) = nth (0, 0) k.data i) ∧
      ∀ j, (j < pl.key ∨ pl.key + 32 * n ≤ j) → t.byte j = s.byte j) ∧
  (∀ (s s1 : State) (k : Packet) (pl : Place) (w : Word288), Expected s k → (∀ a, pl ≠ .host a) → 32 ∣ pl.key →
    writePlace (nextExpected s k) { k with op := 0x0E } permAtomic 1 = (s1, some pl) → SameMemory s s1 → k.data = [w] →
    classify (s.word pl.key).2 = .clean →
    ∃ t, exec (.fabricSwap256 k) s = .next t ∧ Answered s t k 0x0E 0 0 [s.word pl.key] ∧ t.word pl.key = w ∧
      ∀ j, (j < pl.key ∨ pl.key + 32 ≤ j) → t.byte j = s.byte j)

/-- Requests that add, swap or arrive, at the target: the word takes its new value, the response carries the old one, a four-lane P64
add is made at every word, and an arrival reaches the context's sluice. R324, R371, R464, R466, R477. -/
def Obligations.RequestsAddAndArrive : Prop :=
  (∀ (s s1 : State) (k : Packet) (a : AtomKind) (c : Nat) (pl : Place), Expected s k → (∀ x, pl ≠ .host x) →
    a ∈ [AtomKind.addI32, .addF32, .addP64, .swap32, .swap64] → a.width ∣ pl.key →
    targetPlace (nextExpected s k) { k with op := atomOp a } permAtomic a.width = (s1, some (c, pl)) → SameMemory s s1 →
    classify (s.word pl.key).2 = .clean →
    ∃ t, exec (fabricAtom a k) s = .next t ∧
      Answered s t k (atomOp a) 0 (BitVec.ofNat 64 (s.num pl.key a.width)) [] ∧
      StoredBytes s t pl.key a.width (atomNew a (s.num pl.key a.width) k.operand)) ∧
  (∀ (s s1 : State) (k : Packet) (pl : Place) (w : Word288), Expected s k → (∀ a, pl ≠ .host a) → 32 ∣ pl.key →
    k.len % 128 = 0 → writePlace (nextExpected s k) { k with op := 0x0B } permAtomic 1 = (s1, some pl) → SameMemory s s1 →
    k.data = [w] → classify (s.word pl.key).2 = .clean →
    ∃ t, exec (.fabricAddP64x4 k) s = .next t ∧ Answered s t k 0x0B 0 0 [] ∧
      t.word pl.key = (p64x4 (s.word pl.key).1 w.1, 0) ∧
      ∀ j, (j < pl.key ∨ pl.key + 32 ≤ j) → t.byte j = s.byte j) ∧
  (∀ (s s1 s2 : State) (k : Packet) (c : Nat), Expected s k → let n := k.addr.toNat % 65536
    groupCheck (nextExpected s k) k.src k.group permSluice n 0 = (s1, some c) → sluiceOwned s1 c n = true →
    sluiceArriveFrom s1 k.src c n = (s2, .ok) →
    ∃ t, exec (.fabricSluiceArrive k) s = .next t ∧ t.mem = s2.mem ∧
      t.hdr.sendQ.length = s2.hdr.sendQ.length + 1 ∧ t.ctxs = s2.ctxs) ∧
  (∀ (v : Nat), v < 2 ^ 128 → let v' := sluiceAfter v
    v' % 2 ^ 32 = (v % 2 ^ 32 + 1) % 2 ^ 32 ∧ v' / 2 ^ 32 % 2 ^ 32 = v / 2 ^ 32 % 2 ^ 32 ∧
    (v.testBit 64 = false → (v'.testBit 64 = true ↔ (v % 2 ^ 32 + 1) % 2 ^ 32 = v / 2 ^ 32 % 2 ^ 32) ∧ v'.testBit 65 = v.testBit 65) ∧
    (v.testBit 64 = true → v'.testBit 64 = true ∧ v'.testBit 65 = true) ∧ v' / 2 ^ 66 = v / 2 ^ 66)

/-- A request that is not the expected one is answered DUPLICATE, parked, or answered RETRY where no room is left; a refused one is
answered FENCED and touches no memory; a parked one is performed when its turn comes. R470, R471, R477. -/
def Obligations.RequestsOutOfOrder : Prop :=
  (∀ (s : State) (k : Packet), s.hdr.fabSt = .ready → k.resp = false → s.hdr.devValid = true → k.dst = s.hdr.devnum → k.oclass < 4 →
    (32768 ≤ aheadBy s k → ∃ t, exec (.fabricWrite k) s = .next t ∧ t.mem = s.mem ∧ Answered s t k 0x04 4 0 [] ∧
      tget 0 t.hdr.cnt 3 = min (tget 0 s.hdr.cnt 3 + 1) (2 ^ 64 - 1)) ∧
    (0 < aheadBy s k → aheadBy s k < 32768 →
      (s.hdr.reorder.length < 4096 → exec (.fabricWrite k) s =
        .next { s with hdr := { s.hdr with reorder := s.hdr.reorder ++ [{ k with op := 0x04 }] } }) ∧
      (4096 ≤ s.hdr.reorder.length → ∃ t, exec (.fabricWrite k) s = .next t ∧ t.mem = s.mem ∧ Answered s t k 0x04 3 0 [] ∧
        tget 0 t.hdr.cnt 2 = min (tget 0 s.hdr.cnt 2 + 1) (2 ^ 64 - 1)))) ∧
  (∀ (s s1 : State) (k : Packet), Expected s k →
    targetPlace (nextExpected s k) { k with op := 0x01, addr := k.addr / 32 * 32 } permRead 32 = (s1, none) → SameMemory s s1 →
    ∃ t, exec (.fabricLoad k) s = .next t ∧ t.mem = s.mem ∧ Answered s t k 0x01 1 0 []) ∧
  (∀ (s : State) (k : Packet) (ks : List Packet), s.hdr.reorder = k :: ks → k.oclass < 4 →
    let s1 := { s with hdr := { s.hdr with reorder := ks } }
    (aheadBy s k = 0 → exec (.reorderRelease k.src k.oclass) s = .next (serve (nextExpected s1 k) k)) ∧
    (32768 ≤ aheadBy s k →
      ∃ t, exec (.reorderRelease k.src k.oclass) s = .next t ∧ t.mem = s.mem ∧ t.hdr.reorder = ks ∧ Answered s t k k.op 4 0 []))

/-- A response answers the request of its tag: a load's register takes the data, a posted store leaves its queue, RETRY sends the request
again, and a timeout completes a request as FENCED. R256, R294, R295, R466, R473. -/
def Obligations.ResponsesComplete : Prop :=
  (∀ (s : State) (k : Packet) (o : OutReq), s.hdr.outst = [o] → answers k o = true → k.resp = true →
    (k.status = 3 → exec (.fabricResponse k) s = .next { s with hdr := { s.hdr with sendQ := s.hdr.sendQ ++ [o.pkt] } }) ∧
    (∀ (c : Core) (pc : W64) (sd sz : Nat) (sx : Bool) (w : Word288), o.who = .load c pc sd sz sx → o.pkt.op = 0x01 → k.status = 0 →
      k.data = [w] → classify w.2 = .clean → 0 < sd → sd < 32 → sz < 4 → (∃ b, (sd, b) ∈ (s.seqr c).waiting) →
      ∃ t, exec (.fabricResponse k) s = .next t ∧ t.mem = s.mem ∧ t.hdr.outst = [] ∧
        (t.seqr c).s (BitVec.ofNat 5 sd) =
          extended (BitVec.ofNat 2 sz) sx (w.1.toNat / 2 ^ (8 * (o.pkt.addr.toNat % 32))) ∧
        ∀ b, (sd, b) ∉ (t.seqr c).waiting) ∧
    (∀ (c : Core) (n bytes : Nat) (a : AtomOp), o.who = .atom c n → (k.status = 0 ∨ k.status = 4) → coreAtoms s c = [a] →
      a.iseq = n → a.kind = .store bytes → o.pkt.op = 0x02 →
      ∃ t, exec (.fabricResponse k) s = .next t ∧ t.mem = s.mem ∧ t.hdr.outst = [] ∧ coreAtoms t c = [])) ∧
  (∀ (s : State) (o : OutReq) (m : Nat) (pc : W64) (sd sz : Nat) (sx : Bool), s.hdr.outst = [o] → o.who = .load (.miller m) pc sd sz sx →
    s.hdr.timeout ≠ 0 → 4096 * s.hdr.timeout ≤ o.waited s →
    ∃ t, exec (.requestTimeout o.tag) s = .next t ∧ t.mem = s.mem ∧ t.hdr.outst = [] ∧ (t.miller m).run = .halted ∧
      tget 0 t.hdr.cnt 4 = min (tget 0 s.hdr.cnt 4 + 1) (2 ^ 64 - 1))

/-- The keepers: announcements, rosters, the hall's map and its distribution, joins, changes of the map, heartbeats and failover. A message
leaves on a port with room for it, as a flit with the next SEQ. R451, R454, R483 to R489, R687, R689, R690. -/
def Obligations.KeepersEnumerate : Prop :=
  (∀ (s : State) (p : Nat) (m : CtrlMsg), let t := ctrlOut s p m
    t = { s with hdr := t.hdr } ∧ t.hdr.ctrl = s.hdr.ctrl ++ [m] ∧ t.hdr.ctrlQ = s.hdr.ctrlQ ∧ t.hdr.keeper = s.hdr.keeper ∧
    (t.port p).txSeq = ((s.port p).txSeq + 1) % 2048 ∧ (t.port p).unacked.length = (s.port p).unacked.length + 1 ∧
    ∀ j, j ≠ p → t.port j = s.port j) ∧
  (∀ (s : State) (p : Nat), ctrlPort s = some p → (s.port p).unacked.length < 1024 → s.hdr.ctrlQ = [] →
    let Sent (m : CtrlMsg) : State := ctrlOut s p m
    (rackStrap s ≠ 1 → s.hdr.keeper.rackActing = false →
      exec .keeperAnnounce s = .next (Sent (.slotReport s.hdr.slot.toNat (ownPid s) (ownLeaf s)))) ∧
    (let own : Report :=
      { slot := s.hdr.slot.toNat
        pid := ownPid s
        leaf := ownLeaf s }
    rosterFull { s.hdr.keeper with roster := [own] } = false →
      (rackStrap s = 1 → s.hdr.fabSt = .enumerating → s.hdr.keeper.announced = false → s.hdr.keeper.standby = false →
        s.hdr.keeper.roster = [] →
        exec .keeperAnnounce s = .next { s with hdr := { (Sent .announce).hdr with
          keeper := { s.hdr.keeper with
            rackActing := true
            announced := true
            hallActing := s.hdr.keeper.hallActing || (hallStrap s == 1 && !s.hdr.keeper.hallStandby)
            roster := [own] } } }) ∧
      (rackStrap s = 2 → s.hdr.keeper.rackActing = false →
        ∃ t, exec (.keeperFailover false) s = .next t ∧ t.hif.esq = s.hif.esq + 1 ∧ t.hdr = { (Sent .announce).hdr with
          keeper := { s.hdr.keeper with
            rackActing := true
            standby := false
            rosterClosed := false
            heartbeats := 0
            roster := [own] } })) ∧
    (∀ (slot : Nat) (pid : BitVec 48) (leaf : BitVec 16) (rs : List Report), s.hdr.keeper.rackActing = true →
      s.hdr.keeper.rosterClosed = false → slot < 32 →
      ((∀ r ∈ s.hdr.keeper.roster, r.slot ≠ slot) ∧
          rs = s.hdr.keeper.roster ++ [⟨slot, pid, leaf, if leaf ∈ leaves s then 0 else 2⟩] ∨
        (∃ r : Report, s.hdr.keeper.roster = [r] ∧ r.slot = slot ∧ r.pid ≠ pid ∧
          rs = [{ r with out := 3 }, ⟨slot, pid, leaf, 3⟩])) →
      (rosterFull { s.hdr.keeper with roster := rs } = false →
        exec (.slotReport slot pid leaf) s = .next { s with hdr := { s.hdr with keeper := { s.hdr.keeper with roster := rs } } }) ∧
      (rosterFull { s.hdr.keeper with roster := rs } = true → s.hdr.keeper.hallActing = false →
        exec (.slotReport slot pid leaf) s = .next { s with hdr := {
          (Sent (.rackReport (ownLeaf s) (rosterSlots { s.hdr.keeper with roster := rs }))).hdr with
          keeper := { s.hdr.keeper with
            roster := rs
            rosterClosed := true } } })) ∧
    (∀ (leaf : BitVec 16) (slots : W32), s.hdr.keeper.hallActing = true → s.hdr.keeper.hallClosed = false →
      let k := { s.hdr.keeper with racks := s.hdr.keeper.racks.filter (fun r => r.1 != leaf) ++ [(leaf, slots)] }
      hallFull k = false → exec (.rackReport leaf slots) s = .next { s with hdr := { s.hdr with keeper := k } }) ∧
    (∀ (gen : W32) (map : List (Nat × W32)) (d cause : Nat), s.hdr.fabSt ∈ [FabSt.enumerating, .ready, .fenced] →
      s.hdr.keeper.rackActing = false → s.hdr.outst = [] → d < 16384 →
      ∃ t, exec (.mapDistribution gen map (some d) cause) s = .next t ∧ t.mem = s.mem ∧ t.hdr.mapGen = gen ∧
        t.hdr.map = mapOf map ∧
        (mapHas (mapOf map) d = true → t.hdr.fabSt = .ready ∧ t.hdr.devValid = true ∧ t.hdr.devnum = d ∧ t.hdr.fenceCause = 0) ∧
        (mapHas (mapOf map) d = false → t.hdr.fabSt = .fenced ∧ t.hdr.fenceCause = 1)) ∧
    (s.hdr.fabSt = .fenced →
      let joining := { s with hdr := { (Sent (.join s.hdr.slot.toNat (ownPid s) (ownLeaf s))).hdr with
        joinPending := true
        joinRefused := false } }
      exec (.join s.hdr.slot.toNat (ownPid s) (ownLeaf s)) s = .next joining ∧
      (s.hdr.joinRefused = true → exec .joinRetry s = .next joining)) ∧
    (∀ (gen : W32) (dev : Nat), dev < 16384 →
      (∃ t, exec (.mapChange gen dev true) s = .next t ∧ t.hif.esq = s.hif.esq + 1 ∧ t.hdr.mapGen = gen ∧
        t.hdr.fabSt = s.hdr.fabSt ∧ (∀ d, mapHas t.hdr.map d = (mapHas s.hdr.map d || decide (d = dev))) ∧
        (∀ o ∈ t.hdr.txOrder ++ t.hdr.rxOrder, o.dev ≠ dev)) ∧
      (s.hdr.outst = [] → ∃ t, exec (.mapChange gen dev false) s = .next t ∧ t.mem = s.mem ∧ t.hdr.mapGen = gen ∧
        (∀ d, mapHas t.hdr.map d = (mapHas s.hdr.map d && decide (d ≠ dev))) ∧
        t.hdr.sendQ = s.hdr.sendQ.filter (fun k => k.resp || k.dst != dev) ∧
        (s.hdr.devValid = true → s.hdr.devnum = dev → t.hdr.fabSt = .fenced ∧ t.hdr.fenceCause = 1)) ∧
      (∀ (o : OutReq) (m : Nat) (pc : W64) (sd sz : Nat) (sx : Bool), s.hdr.outst = [o] → o.who = .load (.miller m) pc sd sz sx →
        o.pkt.dst = dev →
        ∃ t, exec (.mapChange gen dev false) s = .next t ∧ t.hdr.outst = [] ∧ (t.miller m).run = .halted)) ∧
    (s.mgt.restarting = false → s.hdr.keeper.rackActing = true →
      exec .keeperHeartbeat s = .next { s with hdr := { (Sent .heartbeat).hdr with
        keeper := { s.hdr.keeper with heartbeats := s.hdr.keeper.heartbeats + 1 } } }) ∧
    (∀ slot, s.hdr.keeper.rackActing = true → s.hdr.keeper.hallActing = false → s.hdr.devValid = true → slot < 32 →
      10 ≤ s.hdr.keeper.heartbeats → mapHas s.hdr.map (32 * (s.hdr.devnum / 32) + slot) = true →
      exec (.heartbeatMiss slot) s = .next (Sent (.clearAsk (32 * (s.hdr.devnum / 32) + slot)))) ∧
    (s.hdr.keeper.rackActing = true →
      exec (.keeperFailover false) s = .next { s with hdr := { s.hdr with
        keeper := { s.hdr.keeper with
          rackActing := false
          standby := true } } })) ∧
  (∀ (s : State), s.hdr.keeper.hallActing = true → s.hdr.keeper.rosterClosed = true → s.hdr.keeper.hallClosed = false →
    s.hdr.outst = [] →
    ∃ t, exec .hallWait s = .next t ∧ t.mem = s.mem ∧ t.hdr.keeper.hallClosed = true ∧ t.hdr.map = builtMap s.hdr.keeper ∧
      (s.hdr.mapGen = 0 → t.hdr.mapGen = 1))

/-! ## The service firmware (12, 13) -/

/-- BIND, UNBIND, ADMIT and CANCEL, a record of an undefined kind, a record taken again, and a completion record that has waited: what
each writes and completes with. R490, R494 to R504, R506, R508 to R510, R526, R528. -/
def Obligations.ContextsAndSequences : Prop :=
  (∀ (s : State) (ring cpl : Nat) (bs : List Byte), subRecord s ring = some bs → kindDefined (fieldAt bs 8 1) = false →
    doneRing s (s.ring ring).func = some cpl → TakesRecord s cpl →
    ∃ t, exec (.submissionUndefinedKind ring) s = .next t ∧
      Replied s t ring cpl { kind := 1, status := 0x05, reqId := recReq bs, ctx := recCtx bs }) ∧
  (∀ (s s1 : State) (ring ctx core : Nat) (bs : List Byte), subOf s ring 0x01 = some bs → bindsBusy s = false →
    freeCtx s = some ctx → groupTaken s (bindRec bs) = (s, false) → bindOk s bs (bindRec bs) = true → (bindRec bs).spillTab = none →
    let hd := s.bytes (hostKey ((bindRec bs).hostBase + (bindRec bs).detokOff)) 16
    let tab := s.bytes (hostKey ((bindRec bs).hostBase + (bindRec bs).detokOff)) (detokSize hd)
    detokHead (bindRec bs) hd = true → detokOk (bindRec bs) tab = true → fewestCore s = some core →
    reserve s ctx (s.ring ring).func ring core (bindRec bs) hd = some s1 → ((setUp s1 ctx tab).miller core).run ≠ .halted →
    ∃ t, exec (.bind ring) s = .next t ∧ (t.ctx ctx).bound = true ∧ (t.ctx ctx).fn = (s.ring ring).func ∧ (t.ctx ctx).ring = ring ∧
      (t.ctx ctx).core = core ∧ (t.ctx ctx).bind = bindRec bs ∧ t.pins.ledAct = true) ∧
  (∀ (s : State) (ring : Nat) (bs : List Byte), subOf s ring 0x01 = some bs → bindsBusy s = false → freeCtx s = none →
    (s.ring ring).waitFull = true →
    exec (.bind ring) s = .next (s.modRing ring (fun g => { g with held := true }))) ∧
  (∀ (s : State) (ring cpl : Nat) (bs : List Byte), subOf s ring 0x02 = some bs → recBound s ring bs = true → recRsvd bs = true →
    fieldAt bs 16 1 < 2 → zeroAt bs 17 111 = true → doneRing s (s.ring ring).func = some cpl → TakesRecord s cpl →
    let ctx := recCtx bs
    let c := s.ctx ctx
    coreRuns s c.core = true → heldSeqs s ctx = [] → c.inFlight = none → c.cancels = [] →
    (∀ v, (c.ver v).loading = none ∧ (c.ver v).load = none ∧ (c.ver v).activate = none ∧ (c.ver v).discard = none) →
    ∃ t, exec (.unbind ring) s = .next t ∧ t.ctx ctx = {} ∧ tget 0 t.memb.roots ctx = 0 ∧ (∀ g ∈ c.grist, (t.gslot g).ctx = none) ∧
      Replied s t ring cpl { kind := 1, status := 0x00, reqId := recReq bs, ctx := ctx }) ∧
  (∀ (s : State) (ring cpl q slot : Nat) (bs : List Byte), let ctx := recCtx bs
    let c := s.ctx ctx
    recBound s ring bs = true → c.hasActive = true → cplRingOf s (s.ring ring).func bs = some cpl → TakesRecord s cpl →
    admitOk s c.bind bs = true → freeSeq s = some q → freeSeqSlot s ctx = some slot →
    let Taken (t : State) : Prop :=
      t.seqEnt q = { held := true, ctx := ctx, slot := slot, reqId := recReq bs, order := s.seqOrder,
                     adm := admitRec s c.bind.hostBase bs cpl,
                     pinned := if (fieldAt bs 46 1).testBit 0 then some c.activeVer else none } ∧
      t.seqOrder = s.seqOrder + 1 ∧ Replied s t ring cpl { kind := 2, reqId := recReq bs, ctx := ctx, seq := q }
    (subOf s ring 0x03 = some bs → ∃ t, exec (.opAdmit ring) s = .next t ∧ Taken t) ∧
    (subRecord s ring = some bs → (s.ring ring).held = true → fieldAt bs 8 1 = 0x03 →
      ∃ t, exec (.heldRecordRetake ring) s = .next t ∧ Taken t ∧ (t.ring ring).held = false)) ∧
  (∀ (s : State) (ring : Nat) (bs : List Byte), let ctx := recCtx bs
    let q := fieldAt bs 16 2
    subOf s ring 0x04 = some bs → recBound s ring bs = true → recRsvd bs = true → zeroAt bs 18 110 = true → q < 32768 →
    (s.seqEnt q).held = true → (s.seqEnt q).ended = false → (s.seqEnt q).ctx = ctx → (s.seqEnt q).reqId = recReq bs →
    (s.seqEnt q).paused = false → (s.ctx ctx).inFlight.isSome = true → coreRuns s (s.ctx ctx).core = true →
    ∃ t, exec (.cancel ring) s = .next t ∧ (t.ring ring).c0 = (s.ring ring).c0 + 1 ∧ t.seqs = s.seqs ∧
      t.ctx ctx = { s.ctx ctx with cancels := (s.ctx ctx).cancels ++ [(q, ⟨recReq bs, ring⟩)] }) ∧
  (∀ (s : State) (ring : Nat) (w : Waiting) (ws : List Waiting), (s.ring ring).waiting = w :: ws → (s.ring ring).kind = .complete →
    (s.ring ring).room = true → w.seq = none →
    ∃ t, exec (.completionRecordRetry ring) s = .next t ∧ (t.ring ring).waiting = ws ∧ (t.ring ring).c1 = (s.ring ring).c1 + 1 ∧
      (t.ring ring).cseq = (s.ring ring).cseq + 1)

/-- Steps: rows are chosen within STEP_ROWS, a planned step is in flight with all its runs, its runs are queued, a paused sequence's
pages are spilled; a step ends with its tokens entered, or is tried again after a fault; and cores take over contexts and rings.
R182, R183, R188, R229, R510 to R516, R529, R530. -/
def Obligations.StepsAndCores : Prop :=
  (∀ (s : State) (ctx : Nat) (v : Bool), (s.ctx ctx).bind.prefillMin ≤ (s.ctx ctx).bind.stepRows →
    ((chooseRows s ctx v).map SeqRow.rows).sum ≤ (s.ctx ctx).bind.stepRows) ∧
  (∀ (s : State) (ctx : Nat) (v : Bool) (runs : List PlanRun) (sluices combine : List (Nat × Nat)) (f : Nat), let c := s.ctx ctx
    c.bound = true → coreRuns s c.core = true → c.handTo = none →
    (∀ (r : StepRun) (p : PlanRun) (pl : Place), c.inFlight = some r → r.unsent = [p] → queueRoom s (p.die % 4) = true →
      let q := (s.gov (p.die % 4)).runqRing
      s.entryPlace (s.ring q) (s.ring q).c1.toNat = some pl → frameRetired s pl = false →
      ∃ t, exec (.planStep ctx v runs sluices combine f) s = .next t ∧ (t.ring q).c1 = (s.ring q).c1 + 1 ∧
        (t.ctx ctx).inFlight = some { r with
          unsent := []
          live := r.live ++ [p] } ∧
        t.bytes pl.key 128 =
          runRecBytes p ctx r.step r.ver (BitVec.ofNat 64 c.stepVa :: BitVec.ofNat 64 r.step :: versionArgs c r.ver)) ∧
    (∀ (s2 s3 : State) (rs0 rs : List SeqRow), c.inFlight = none → settle s ctx = s → mayPlan s ctx v = true →
      fitStep (resumeAll (moveRetired s) ctx 32768) ctx v 65536 = (s2, rs0) → dropBad s2 ctx rs0 = (s3, rs) → rs ≠ [] →
      (stepPages s3 rs).isSome = true →
      ((planStep s ctx v runs sluices combine f).miller c.core).run ≠ .halted →
      ∃ t r, exec (.planStep ctx v runs sluices combine f) s = .next t ∧ (t.ctx ctx).lastVer = v ∧
        (t.ctx ctx).step = ((s3.ctx ctx).step + 1) % 2 ^ 32 ∧ (t.ctx ctx).inFlight = some r ∧ r.ver = v ∧
        r.step = (s3.ctx ctx).step + 1 ∧ r.live ++ r.unsent = runs ∧ r.nRows = (rs.map SeqRow.rows).sum)) ∧
  (∀ (s : State) (ctx seq : Nat), (s.seqEnt seq).held = true → (s.seqEnt seq).ctx = ctx → (s.seqEnt seq).pausing = true →
    (s.ctx ctx).inFlight = none → coreRuns s (s.ctx ctx).core = true →
    (∀ sp, (s.seqEnt seq).spilled = some sp → (s.seqEnt seq).refused = false → spillWriting s seq = false →
      ((spillEntries s seq sp).miller (s.ctx ctx).core).run ≠ .halted →
      ∃ t, exec (.sequenceSpill ctx seq) s = .next t ∧ (t.seqEnt seq).pausing = false ∧ (t.seqEnt seq).spilled = some sp) ∧
    (∀ sp, (s.seqEnt seq).spilled = none → (copySlot s ctx).isSome = true →
      spillPlaces (s.ctx ctx) ((s.ctx ctx).rows * (s.seqEnt seq).pages) = some sp →
      ∃ t, exec (.sequenceSpill ctx seq) s = .next t ∧ ((t.miller (s.ctx ctx).core).run ≠ .halted → (t.seqEnt seq).spilled = some sp)) ∧
    ((s.seqEnt seq).spilled = none → (copySlot s ctx).isSome = true →
      spillPlaces (s.ctx ctx) ((s.ctx ctx).rows * (s.seqEnt seq).pages) = none →
      exec (.sequenceSpill ctx seq) s = .next (s.modSeqEnt seq (fun y => { y with pausing := false })))) ∧
  (∀ (s : State) (ctx : Nat) (r : StepRun) (p : PlanRun) (o : RunOutcome) (e : StepEnt), let c := s.ctx ctx
    c.bound = true → coreRuns s c.core = true → c.inFlight = some r → r.live = [p] → r.unsent = [] → r.faulted = none →
    r.entries = [e] → (s.gov (p.die % 4)).outcomes = [o] → o.ctx = ctx → o.seqno = p.seqno →
    (o.fault = .none → e.sample = none → c.unbinding = none → c.cancels = [] → c.handTo = none → (c.ver c.spare).st = .empty →
      (s.seqEnt e.seq).held = true → (s.seqEnt e.seq).ended = false → (s.seqEnt e.seq).ctx = ctx →
      ∃ t, exec (.stepSample ctx) s = .next t ∧ (t.ctx ctx).inFlight = none ∧ (t.gov (p.die % 4)).outcomes = [] ∧
        (t.seqEnt e.seq).done = (s.seqEnt e.seq).done + e.rows ∧ (t.seqEnt e.seq).tokens = (s.seqEnt e.seq).tokens) ∧
    (o.fault ≠ .none → silenced s ctx = false → retryClass o.cls = true → r.retried = false → r.sluices = [] → r.combine = [] →
      r.runs = [p] →
      ∃ t r', exec (.stepSample ctx) s = .next t ∧ (t.ctx ctx).inFlight = some r' ∧ r'.retried = true ∧ r'.faulted = none ∧
        r'.live ++ r'.unsent = [p] ∧ t.hif.esq = s.hif.esq + 1)) ∧
  (∀ (a : AdmitRec) (pos : Nat) (e : Nat × W32) (es : List (Nat × W32)), (f32 a.temp).isZero = true →
    pickToken a pos (e :: es) = e.1) ∧
  (∀ (s : State) (c ctx dest : Nat), c < 16 → dest < 16 → c ≠ dest → coreRuns s dest = true → leaving s c = false →
    (s.ctx ctx).bound = true → (s.ctx ctx).core = c →
    ((s.ctx ctx).inFlight = none → exec (.coreHandover c ctx dest) s = .next (s.modCtx ctx (fun k => { k with core := dest }))) ∧
    ((s.ctx ctx).inFlight.isSome = true →
      exec (.coreHandover c ctx dest) s = .next (s.modCtx ctx (fun k => { k with handTo := some dest })))) ∧
  (∀ (s : State) (c d x : Nat), c < 16 → (s.miller c).run = .halted → (s.miller c).image.isSome = true → coreCtxs s c = [x] →
    (s.ctx x).inFlight = none → fewestCore s = some d → slotWith s 2 .trial = none →
    ∃ t, exec (.coreHalt c) s = .next t ∧ (t.ctx x).core = d ∧ (t.miller c).image = none ∧
      ∀ r ∈ coreRings s c, (t.ring r).server = some d) ∧
  (∀ (s : State) (c i : Nat), c < 16 → (s.miller c).run = .halted → (s.miller c).image = none → s.mgt.restarting = false →
    coreImage s = some i → s.mgt.replacing = false →
    exec (.millerCoreRestart c) s = .next (s.modMiller c (fun k => { k with
      run := .running
      image := some i
      stateFmt := (fwSlot s i).stateFmt
      seqr := { mode := .running } })))

/-- LOAD copies the manifest, its checks place the shards, a fetched shard is verified by its digest or tried again, a missing one ends the
load; ACTIVATE switches at the boundary, and DISCARD empties a slot. R541 to R544, R548, R551 to R559. -/
def Obligations.WeightsLoad : Prop :=
  (∀ (s : State) (ring : Nat) (bs : List Byte), let ctx := recCtx bs
    let c := s.ctx ctx
    let v := c.spare
    let x := c.ver v
    recBound s ring bs = true → coreRuns s c.core = true →
    (subOf s ring 0x10 = some bs → underWay c = false → x.st = .empty → loadOk s ctx bs (loadRec bs) = true →
      ∃ t, exec (.load ring) s = .next t ∧ (t.ring ring).c0 = (s.ring ring).c0 + 1 ∧ (t.ctx ctx).ver v = { x with
        load := some (loadRec bs)
        loading := some ⟨recReq bs, ring⟩
        dropping := false
        st := .staging
        manifest := hostBytes (consume s ring) ctx (loadRec bs).manOff (loadRec bs).manBytes }) ∧
    (subOf s ring 0x11 = some bs → recRsvd bs = true → zeroAt bs 16 112 = true → x.st = .verified → x.loading = none →
      x.activate = none →
      (c.inFlight.isSome = true → ∃ t, exec (.activate ring) s = .next t ∧ (t.ring ring).c0 = (s.ring ring).c0 + 1 ∧
        (t.ctx ctx).ver v = { x with activate := some ⟨recReq bs, ring⟩ }) ∧
      (c.inFlight = none → c.cancels = [] → c.hasActive = false →
        ∃ t, exec (.activate ring) s = .next t ∧ (t.ctx ctx).activeVer = v ∧ ((t.ctx ctx).ver v).st = .active ∧
          t.hif.esq = s.hif.esq + 1)) ∧
    (subOf s ring 0x12 = some bs → recRsvd bs = true → fieldAt bs 16 1 < 2 → zeroAt bs 17 111 = true → x.st = .verified →
      x.discard = none → x.loading = none → x.activate = none → ((stopLoad (consume s ring) ctx v).miller c.core).run ≠ .halted →
      ∃ t, exec (.discard ring) s = .next t ∧ (t.ctx ctx).ver v = {})) ∧
  (∀ (s : State) (ctx : Nat), let c := s.ctx ctx
    let v := c.spare
    let x := c.ver v
    c.bound = true → coreRuns s c.core = true →
    (∀ r, c.inFlight = some r → r.ver ≠ v) → x.st = .retained → pinnedTo s ctx v = [] → x.load = none →
    ((discardSlot s ctx v).miller c.core).run ≠ .halted →
    ∃ t, exec (.slotDiscard ctx) s = .next t ∧ (t.ctx ctx).ver v = {}) ∧
  (∀ (s : State) (ctx : Nat) (l : LoadRec), let c := s.ctx ctx
    let v := c.spare
    let x := c.ver v
    c.bound = true → coreRuns s c.core = true → x.load = some l → x.st = .staging →
    (∀ s2, x.placed = false → s.mgt.restarting = false →
      let s1 := modVer s ctx v (fun y => { y with version := BitVec.ofNat 32 (manVersion x.manifest) })
      manifestOk s1 ctx l x.manifest = true → takeAll s1 ctx v l (shardEnts x.manifest) = some s2 → (s2.miller c.core).run ≠ .halted →
      ∃ t, exec (.manifestVerified ctx) s = .next t ∧ (manSigned s x.manifest = true → t = s2 ∧ ((t.ctx ctx).ver v).placed = true) ∧
        (manSigned s x.manifest = false → (t.miller c.core).run ≠ .halted → (t.ctx ctx).ver v = {})) ∧
    (x.placed = true →
      (∀ i, i < manShards x.manifest → fieldAt (hostBytes s ctx (l.srcListOff + 32 * i) 1) 0 1 % 2 = 1 →
        exec (.sourceReadyPoll ctx i) s = .next (modShard s ctx v i (fun y => { y with ready := true }))) ∧
      (∀ i, inFetch x l i (manShards x.manifest) = true →
        (s.mgt.restarting = false → ∃ t, exec (.shardMissing ctx i) s = .next t ∧
          ((t.miller c.core).run ≠ .halted → (t.ctx ctx).ver v = {})) ∧
        (∀ src j, let sh := tget {} x.shards i
          let e := shardEnt x.manifest i
          shardSource s ctx l i sh.attempts = src → src + e.size ≤ c.bind.hostBytes → src < 2 ^ 63 → sh.ready = true → e.place = 0 →
          sh.attempts < 3 → j < manShards x.manifest → j ≠ i → (tget {} x.shards j).verified = false →
          ∃ t, exec (.shardFetchDone ctx i) s = .next t ∧
            tget {} ((t.ctx ctx).ver v).shards i =
              (if (Config.sha384 (hostBytes s ctx src e.size)).toNat = e.digest then { sh with verified := true }
               else { sh with attempts := sh.attempts + 1 })))))

/-! ## Host interface and registers (14, 00, 16) -/

/-- Doorbells, notification, descriptors and the enable machine of a ring, ring and vector ranges, BAR4, the resets of functions and the
link. R560, R565 to R568, R571 to R580, R585, R586, R630, R679. -/
def Obligations.HostInterface : Prop :=
  (∀ (s : State) (fn k r : Nat), stopped s xPcie = false → localRing s fn k = some r → let g := s.ring r
    (∀ (v : W32) (w : Nat × Byte), g.st = .on → s.hif.fwRings ≤ r → g.kind = .submit →
      ((v - g.c0).toNat ≤ g.entries → ∃ t, exec (.submitDoorbell fn k v [w]) s = .next t ∧
        t = { (s.modRing r (fun g => { g with c1 := v })) with mem := t.mem } ∧
        ∀ j, t.byte j = if j = hostKey w.1 then w.2 else s.byte j) ∧
      (g.entries < (v - g.c0).toNat → ∃ t, exec (.submitDoorbell fn k v []) s = .next t ∧ (t.ring r).st = .error ∧
        (t.ring r).c1 = g.c1 ∧ t.hif.esq = s.hif.esq + 1)) ∧
    (∀ (v : W32), g.st = .on → s.hif.fwRings ≤ r → g.kind = .complete → (v - g.c0).toNat ≤ g.count →
      exec (.headDoorbell fn k v) s = .next (s.modRing r (fun g => { g with c0 := v })) ∧
      (({ g with c0 := v } : Ring).count < max 1 g.modRecs →
        exec (.ringArm fn k v) s = .next (s.modRing r (fun g => { g with
          c0 := v
          armed := true }))) ∧
      (max 1 g.modRecs ≤ ({ g with c0 := v } : Ring).count → g.msixEn = true → g.vector < (s.fn g.func).vecCount →
        ∃ t, exec (.ringArm fn k v) s = .next t ∧ (t.ring r).c0 = v ∧ (t.ring r).armed = false ∧
          t.hif.msix = s.hif.msix ++ [(g.func, (s.fn g.func).vecBase + g.vector)])) ∧
    (∀ (v : W64), (g.st = .on → g.base ≠ v → g.en = true →
        ∃ t, exec (.ringDescWrite fn k 48 8 v) s = .next t ∧ t.ring r = g ∧ (t.fn fn).descErr = true) ∧
      (g.st = .off → g.en = false → g.prod = none → g.cons = none →
        ∃ t, exec (.ringDescWrite fn k 48 8 v) s = .next t ∧ (t.ring r).base = v ∧ (t.ring r).func = fn ∧ (t.ring r).st = .off)) ∧
    (g.st = .off → exec (.ringEnable fn k) s = .next (s.modRing r (fun g => { g.zeroed with
      func := fn
      en := true
      st := .on }))) ∧
    (g.st = .on → exec (.ringDisable fn k) s = .next (s.modRing r (fun g => { g with
      en := false
      st := .disabling
      enPend := false })))) ∧
  (∀ (s : State) (r : Nat), r < 65536 → (s.ring r).st = .disabling →
    ((s.ring r).enPend = false → exec (.ringDisableDone r) s = .next (s.modRing r (fun g => { g with st := .off }))) ∧
    ((s.ring r).enPend = true → exec (.ringDisableDone r) s = .next (s.modRing r (fun g => { g.zeroed with
      st := .on
      enPend := false })))) ∧
  (∀ (s : State) (r : Nat), let g := s.ring r
    g.kind = .complete → g.modTicks ≠ 0 → g.st = .on → g.msixEn = true → g.armed = true → 0 < g.count →
    g.vector < (s.fn g.func).vecCount →
    ∃ t, exec (.moderationExpiry r) s = .next t ∧ (t.ring r).armed = false ∧
      t.hif.msix = s.hif.msix ++ [(g.func, (s.fn g.func).vecBase + g.vector)]) ∧
  (∀ (s : State) (f : Nat) (v : W64), stopped s xPcie = false → f < 256 →
    (let base := (v.extractLsb' 0 16).toNat
    let n := (v.extractLsb' 32 17).toNat
    (overlap base n 0 s.hif.fwRings = true ∨ 65536 < base + n ∨ rangeBusy s (s.fn f).ringsBase (s.fn f).ringsCount = true →
      exec (.hifFnRingsWrite f v) s = .next (s.modFn 0 (fun x => { x with descErr := true }))) ∧
    (overlap base n 0 s.hif.fwRings = false → base + n ≤ 65536 → rangeBusy s (s.fn f).ringsBase (s.fn f).ringsCount = false →
      (∀ x ∈ s.hif.fns, x.1 ≠ f → overlap base n x.2.ringsBase x.2.ringsCount = false) →
      exec (.hifFnRingsWrite f v) s = .next (s.modFn f (fun x => { x with
        ringsBase := base
        ringsCount := n })))) ∧
    (let base := (v.extractLsb' 0 11).toNat
    let n := (v.extractLsb' 32 12).toNat
    base + n ≤ 2048 → n ≤ (if f = 0 then 2048 else 64) → (∀ x ∈ s.hif.fns, x.1 ≠ f → overlap base n x.2.vecBase x.2.vecCount = false) →
      exec (.hifFnVecWrite f v) s = .next (s.modFn f (fun x => { x with
        vecBase := base
        vecCount := n })))) ∧
  (∀ (s s1 : State) (off size : Nat) (pl : Place) (bs : List Byte), stopped s xPcie = false → s.hif.bar4En = true → off + size ≤ 2 ^ 32 →
    size ≤ 8 → locate s (s.hif.bar4Base * 2 ^ 32 + off) = some pl → readBytes s pl size = (s1, bs, .ok) →
    exec (.bar4Access off none size) s = .next (setRdata s1 (some (BitVec.ofNat 64 (bytesToNat bs))))) ∧
  (∀ (s : State), (∀ c ∈ s.ctxs, c.2.bound = false) →
    (∀ v, 1 ≤ v → v < 256 → ∃ t, exec (.vfFlr v) s = .next t ∧ (t.fn v).evtValid = false ∧ t.mem = s.mem ∧
      ∀ r, (s.fn v).ringsBase ≤ r → r < (s.fn v).ringsBase + (s.fn v).ringsCount → (t.ring r).st = .off ∧ (t.ring r).waiting = []) ∧
    let Reset (t : State) : Prop := t.mem = s.mem ∧ (∀ f, (t.fn f).ringsCount = 0 ∧ (t.fn f).vecCount = if f = 0 then 2048 else 0) ∧
      ∀ f r, f < 256 → (s.fn f).ringsBase ≤ r → r < (s.fn f).ringsBase + (s.fn f).ringsCount → (t.ring r).st = .off
    (∃ t, exec .pfFlr s = .next t ∧ Reset t ∧ t.crossings = s.crossings) ∧
    (∃ t, exec .hotReset s = .next t ∧ Reset t ∧ (t.crossing xPcie).resets = (s.crossing xPcie).resets + 1) ∧
    (∃ t, exec .pcieLinkDown s = .next t ∧ Reset t ∧ (t.crossing xPcie).resets = (s.crossing xPcie).resets + 1 ∧ t.hif.speed = 0 ∧
      t.hif.width = 0 ∧ t.hif.flit = false)) ∧
  (∀ (s : State) (x f : Nat) (c : Ctx), 1 ≤ f → f < 256 → s.ctxs = [(x, c)] → c.bound = true → c.fn = f → c.inFlight = none →
    ∃ t, exec (.vfFlr f) s = .next t ∧ t.ctx x = {}) ∧
  (∀ (s : State) (w speed : Nat), w ∈ [1, 4, 8, 16] → 1 ≤ speed → speed ≤ 6 →
    exec (.pcieLinkUp w speed) s = .next { s with hif := { s.hif with
      speed := speed
      width := w
      flit := decide (speed = 6) } }) ∧
  (∀ (s : State), s.boot.pwrGood = true → exec .perstNRelease s = .next { s with hif := { s.hif with config := true } })

/-- Register accesses: writable fields take the value, RC fields clear when they are read, what the device does not decode is ignored or
reads as unsupported; and the enable machine of every unit, with a regulator's setpoint. R5, R6, R8, R11, R12, R600, R631, R632, R634,
R728. -/
def Obligations.RegistersAndUnits : Prop :=
  (∀ (s : State) (v : W64), stopped s xPcie = false →
    (∀ d, d < 4 → exec (.registerWrite 0 (0x400010 + 0x10000 * d) 4 v) s =
      .next (s.modGov d (fun g => { g with wdog := v.toNat % 2 ^ 24 }))) ∧
    (∀ fn, fn < 256 → exec (.registerWrite fn 0x008 4 v) s = .next (s.modFn fn (fun n => { n with
      evtValid := v.getLsbD 31
      evtMirror := fn == 0 && v.getLsbD 16
      evtRing := v.toNat % 65536 }))) ∧
    (∀ f, f < 256 → exec (.registerWrite 0 (0xA000 + 8 * f) 8 v) s = exec (.hifFnVecWrite f v) s) ∧
    (∀ fn off size, barAccess fn off size = false → exec (.registerWrite fn off size v) s = .next s ∧
      exec (.registerReadClear fn off size) s = .next (setRdata s none)) ∧
    (∀ off, 0xE10000 ≤ off → off + 4 ≤ 0x1000000 → 4 ∣ off → exec (.registerWrite 0 off 4 v) s = .next s) ∧
    (∀ fn, fn < 256 → exec (.registerReadClear fn 0x010 4) s =
      .next (setRdata (s.modFn fn (fun n => { n with evtLost := 0 })) (some (BitVec.ofNat 64 ((s.fn fn).evtLost % 2 ^ 32))))) ∧
    exec (.registerReadClear 0 0x900010 4) s = .next (setRdata s (some (s.hdr.mapGen.setWidth 64)))) ∧
  (∀ (s : State) (u : EnUnit), unitOk u = true →
    ((unitOf s u).st = .off → ∃ t, exec (.unitEnableRequest u) s = .next t ∧ (unitOf t u).st = .enabling ∧ (unitOf t u).en = true) ∧
    ((unitOf s u).st = .on → ∃ t, exec (.unitDisableRequest u) s = .next t ∧ (unitOf t u).st = .disabling ∧ (unitOf t u).en = false) ∧
    ((unitOf s u).st = .disabling → exec (.unitEnableRequest u) s = .next (modUnit s u (fun x => { x with
      en := true
      st := .disablingThenOn }))) ∧
    ((unitOf s u).st = .enabling → enabledWhen s u = true → ∃ t, exec (.enableComplete u) s = .next t ∧ (unitOf t u).st = .on) ∧
    ((unitOf s u).st = .enabling → ∃ t, exec (.enableFail u) s = .next t ∧ (unitOf t u).st = .off ∧ (unitOf t u).err = true) ∧
    (disabledWhen s u = true →
      ((unitOf s u).st = .disabling → ∃ t, exec (.disableComplete u) s = .next t ∧ (unitOf t u).st = .off) ∧
      ((unitOf s u).st = .disablingThenOn → ∃ t, exec (.disableComplete u) s = .next t ∧ (unitOf t u).st = .enabling))) ∧
  (∀ (s : State) (p : Nat), p < 200 →
    ∃ t, exec (.setpointReached p) s = .next t ∧ t = { s with fan := t.fan } ∧ (t.fanTile p).setpoint = (s.fanTile p).going ∧
      ((s.fanTile p).target < (s.fanTile p).going → (t.fanTile p).going = (s.fanTile p).target))

/-! ## Fantail and bring-up (15, 18, 19) -/

/-- Rate windows and LIMIT, the power cap loop, the Brake, the AVSBus, the thermal trip, and the messages of a mill group.
R595, R597, R599, R601 to R604, R606 to R608, R610 to R617, R621, R675. -/
def Obligations.PowerAndGroups : Prop :=
  (∀ (s : State) (p : Nat) (v : W32), p < 200 →
    exec (.rateWindow p) s = .next (s.modTile p (fun t => { t with window := 0 })) ∧
    ∃ t, exec (.oscCalibration [(p, v)] [] []) s = .next t ∧ t = { s with fan := t.fan } ∧ (t.fanTile p).period = v ∧
      (({ s.fanTile p with period := v } : FanTile).moved = true →
        (t.fanTile p).limit = match rateCap s (s.fanTile p) with
          | none => 0
          | some r => min 4095 (r * v.toNat / 64000))) ∧
  (∀ (s : State) (n : Nat),
    exec (.powerSample n) s = .next { s with fan := { s.fan with samples := (min n 65535 :: s.fan.samples).take 10 } }) ∧
  (∀ (s : State), s.mgt.restarting = false →
    (10 * capEff s < avgPower s → ∃ t, exec .capLoop s = .next t ∧ t.fan.sinceLower = 0 ∧ t.fan.level = levelNow t ∧
      t.fan.levelCap = s.fan.levelCap - 1 ∧
      t.fan.capAll = if s.fan.levelCap = 0 then (if s.fan.capAll = 0 then 665 else max 350 (s.fan.capAll - 35)) else s.fan.capAll) ∧
    (avgPower s ≤ 10 * capEff s → raiseTest s = true → 9 ≤ s.fan.raiseHeld → 99 ≤ s.fan.sinceLower → s.fan.capAll = 0 →
      s.fan.levelCap < s.fan.levelOp → canRaise s (s.fan.levelCap + 1) = true →
      ∃ t, exec .capLoop s = .next t ∧ t.fan.levelCap = s.fan.levelCap + 1 ∧ t.fan.level = levelNow t) ∧
    (∀ (p : Nat) (x : Int), p < 200 → 800 ≤ x → s.fan.brake = false → s.fan.mode = 0 →
      ∃ t, exec (.sensorRead [(p, x)]) s = .next t ∧ (t.fanTile p).tj = x ∧ t.fan.brake = true ∧ t.fan.coolHeld = 0 ∧
        t.fan.levelBrake = s.fan.level - 2 ∧ t.fan.level = levelNow t ∧ t.pins.alertN = false ∧ t.hif.esq = s.hif.esq + 1) ∧
    (s.fan.brake = true → 100 ≤ s.fan.coolHeld → exec .brakeRelease s = .next { s with fan := { s.fan with
      brake := false
      brakeReleasing := true } }) ∧
    (s.fan.brakeReleasing = true → s.fan.brake = false → s.fan.levelBrake < s.fan.levelOp → canRaise s (s.fan.levelBrake + 1) = true →
      ∃ t, exec .brakeLevelRaise s = .next t ∧ t.fan.levelBrake = s.fan.levelBrake + 1 ∧
        t.fan.brakeReleasing = decide (s.fan.levelBrake + 1 < s.fan.levelOp)) ∧
    (s.pins.ready = true → s.fan.levelBoot < 15 → canRaise s (s.fan.levelBoot + 1) = true →
      ∃ t, exec .readyLevelRaise s = .next t ∧ t.fan.levelBoot = s.fan.levelBoot + 1 ∧ t.fan.level = levelNow t)) ∧
  (∀ (s : State) (d : Nat), d < 4 →
    (∃ t, exec (.avsTransactionDone d true) s = .next t ∧ tget 800 t.fan.vin d = tget 800 s.fan.vinTarget d ∧
      tget 0 t.fan.avsFails d = 0) ∧
    (2 ≤ tget 0 s.fan.avsFails d → ∃ t, exec (.avsTransactionDone d false) s = .next t ∧ t.fan.avsErr = true ∧ t.pins.alertN = false ∧
      t.fan.vin = s.fan.vin ∧ tget 800 t.fan.vinTarget d = tget 800 s.fan.vin d)) ∧
  (∀ (s : State) (p : Nat), p < 200 → ∃ t, exec (.thermalTrip p) s = .next t ∧ t.pins.thermtripN = false ∧ t.mem = s.mem ∧
    ∀ q, q < 200 → (t.fanTile q).setpoint = 0 ∧ (t.fanTile q).target = 0) ∧
  (∀ (s s1 : State) (m : FanMsg), takeMsg s m = some s1 →
    (s.fan.mode = 1 → s.hdr.devValid = false →
      (s.fan.notices = [] → ∃ t, exec (.slowdown m) s = .next t ∧ t.fan.notices = [⟨m.subj, m.value0.toNat⟩] ∧
        t.fan.gcap = m.value0.toNat ∧ t.hif.esq = s.hif.esq + 1) ∧
      (∀ f, s.fan.notices = [⟨m.subj, f⟩] → ∃ t, exec (.recover m) s = .next t ∧ t.fan.notices = [] ∧ t.fan.gcap = 0)) ∧
    (∀ (s2 : State) (devs : List Nat) (head : Nat), s.fan.mode = 2 → groupMembers s1 = (s2, devs, head) → isHead s2 head = true →
      exec (.skew m) s = .next { s2 with fan := { s2.fan with lastSkew := some (m.value0.toNat, m.subj) } }) ∧
    (s1.hdr.devValid = true → m.subj = s1.hdr.devnum →
      exec (.tokens m) s = .next { s1 with fan := { s1.fan with balance := m.value0.toInt } }) ∧
    (m.value0 = 0 → s.fan.mode = 2 → s.hdr.devValid = false → ∃ t, exec (.mode m) s = .next t ∧ t.fan.mode = 1 ∧ t.fan.refLevel = m.subj % 16 ∧
      t.fan.balance = 0 ∧ t.fan.lastMseq = [] ∧ t.fan.commonRate = 0)) ∧
  (∀ (s s1 : State) (d head : Nat), s.fan.slowed = true → groupMembers s = (s1, [d], head) → s1.hdr.devValid = true → inMap s1 d = true →
    head ≠ s1.hdr.devnum →
    ∃ t, exec .slowdownRepeat s = .next t ∧ t.fan.mseq = s1.fan.mseq + 1 ∧ t.hdr.sendQ.length = s1.hdr.sendQ.length + 1) ∧
  (∀ (s : State) (dev f : Nat), s.fan.notices = [⟨dev, f⟩] → s.fan.mode = 1 →
    ∃ t, exec (.slowdownNoticeExpiry dev) s = .next t ∧ t.fan.notices = [] ∧ t.fan.gcap = 0)

/-- Bring-up and its ends: PWR_GOOD rises and falls, steps are done or fail with their causes, memory reads zero after its test, READY is
driven, and the management controller and the service cores take new images. R661, R664, R674 to R680, R684 to R686, R702, R707. -/
def Obligations.BringUp : Prop :=
  (∀ (s : State) (slot : BitVec 5) (rk hk : BitVec 2), s.boot.pwrGood = false → slotWith s 1 .trial = none →
    exec (.powerGoodRise slot rk hk) s = .next { s with
      boot := { pwrGood := true }
      hdr := { s.hdr with
        slot := slot
        rkeep := rk
        hkeep := hk } }) ∧
  (∀ (s : State) (ms : Nat), s.boot.pwrGood = true → s.boot.stopped = false → s.boot.resumed = false → s.boot.step < 10 →
    (stepBound (s.boot.step + 1) < ms → ∃ t, exec (.bringupBoundMissed ms) s = .next t ∧ t.boot.cause = 5 ∧ t.boot.stopped = true ∧
      t.pins.faultN = false ∧ t.boot.step = s.boot.step) ∧
    (ms ≤ stepBound (s.boot.step + 1) →
      (s.boot.step = 0 → exec (.bringupStepDone .good ms) s = .next { s with boot := { s.boot with step := 1 } } ∧
        ∃ t, exec (.bringupStepDone .imageBad ms) s = .next t ∧ t.boot.cause = 1 ∧ t.mgt.recovery = true ∧ t.pins.faultN = false) ∧
      (s.boot.step = 3 → ∃ t, exec (.bringupStepDone .good ms) s = .next t ∧ t.boot.step = 4 ∧
        ∀ p, p < 200 → (s.tile p).retired = false → (t.tile p).unit.st = .on) ∧
      (s.boot.step = 4 → ∃ t, exec (.bringupStepDone .good ms) s = .next t ∧ t.boot.step = 5 ∧ t.owner = [] ∧
        ∀ j, millKey 0 0 ≤ j → j < millKey 200 0 → t.byte j = 0) ∧
      (s.boot.step = 5 → ∃ t, exec (.bringupStepDone .stackFail ms) s = .next t ∧ t.boot.cause = 3 ∧ t.boot.stopped = true) ∧
      (s.boot.step = 6 → ∃ t, exec (.bringupStepDone .good ms) s = .next t ∧ t.boot.step = 7 ∧ ∀ j, j < hbmEnd → t.byte j = 0) ∧
      (s.boot.step = 9 → ∃ t, exec (.bringupStepDone .good ms) s = .next t ∧ t.boot.step = 10 ∧ t.pins.ready = true ∧
        t.fan.level = levelNow t ∧ (s.hdr.fabSt = .down → t.hdr.fabSt = .training)))) ∧
  (∀ (s : State) (ns : Nat), s.boot.pwrGood = true → 1000 ≤ ns →
    ∃ t, exec (.pwrGoodFall ns) s = .next t ∧ t.boot = {} ∧ t.ctxs = [] ∧ t.hdr.devValid = false ∧ t.hif = State.reset.hif ∧
      t.memb.retired = s.memb.retired ∧ t.mgt.audit = s.mgt.audit ∧ t.mgt.pubKeys = s.mgt.pubKeys ∧
      t.mgt.noncesMbox = [] ∧ t.pending = s.pending) ∧
  (∀ (s : State), s.boot.pwrGood = true → s.mgt.restartDue = true → s.mgt.recovery = false → slotWith s 1 .trial = none →
    ∃ t, exec .mgtRestart s = .next t ∧ t.mgt.restarting = true ∧ t.mgt.noncesMbox = [] ∧ t.mgt.noncesI3c = [] ∧
      t.mgt.restartDue = false ∧ (t.crossing xMgt).resets = (s.crossing xMgt).resets + 1) ∧
  (∀ (s : State), s.mgt.restarting = true →
    (slotWith s 1 .trial = none → ∃ t, exec .mgtReachesService s = .next t ∧ t.mgt.restarting = false ∧ t.pins.alertN = !alertCause s) ∧
    (s.mgt.mgtA.st ≠ .trial → s.mgt.mgtB.st = .trial →
      ∃ t, exec .mgtReachesService s = .next t ∧ t.mgt.restarting = false ∧ t.mgt.mgtB.st = .active ∧ t.mgt.mgtB.failedBoots = 0)) ∧
  (∀ (s : State), s.boot.drainUpd = true → (∀ c ∈ s.ctxs, c.2.bound = false) → s.mgt.restarting = false → s.mgt.svcA.st = .fallback →
    s.mgt.svcB.st = .trial →
    ∃ t, exec .drainedUpdate s = .next t ∧ t.boot.drainUpd = false ∧ t.mgt.svcB.st = .active ∧
      ∀ c, c < 16 → (t.miller c).run = .running ∧ (t.miller c).image = some 3)

/-! ## Management (17) -/

/-- The I3C target: its address, limits, identity and events, and the response frame that a private read takes. R638 to R643. -/
def Obligations.I3cTarget : Prop :=
  ∀ (s : State), onBus s = true →
    let set (f : I3c → I3c) : State := { s with i3c := f s.i3c }
    exec .rstdaa s = .next (set (fun i => { i with addr := none })) ∧
    exec .enec s = .next (set (fun i => { i with ibi := true })) ∧
    exec .disec s = .next (set (fun i => { i with ibi := false })) ∧
    (s.i3c.addr = none →
      (∀ a, exec (.entdaa a) s = .next (set (fun i => { i with
        addr := some a
        hotJoined := false }))) ∧
      exec .hotJoin s = .next (set (fun i => { i with hotJoined := true })) ∧
      exec .getpid s = .next (set (fun i => { i with answer := none }))) ∧
    (s.i3c.addr.isSome = true →
      let told (bs : List Byte) : State := set (fun i => { i with answer := some bs })
      (∀ a, exec (.setnewda a) s = .next (set (fun i => { i with addr := some a }))) ∧
      (∀ n, exec (.setmwl n) s = .next (set (fun i => { i with mwl := min n 4096 })) ∧
        exec (.setmrl n) s = .next (set (fun i => { i with mrl := min n 4096 }))) ∧
      (∀ b, exec (.rstact b) s = .next (set (fun i => { i with rstact := b }))) ∧
      exec .getpid s = .next (told (natToBytes (ownPid s).toNat 6)) ∧
      exec .getbcr s = .next (told [0x06]) ∧ exec .getdcr s = .next (told [0x00]) ∧
      exec .getmwl s = .next (told (natToBytes s.i3c.mwl 2)) ∧ exec .getmrl s = .next (told (natToBytes s.i3c.mrl 2)) ∧
      (∃ bs, exec .getstatus s = .next { told bs with free := s.free + 1 }) ∧
      (∀ r, s.mgt.restarting = false → s.mgt.i3cRsp = some r → exec .i3cPrivateRead s =
        .next { told (r.bytes.take s.i3c.mrl) with mgt := { s.mgt with i3cRsp := none } }))

/-- Management frames, on either transport, that read, and that set keys, caps, tables, topology and image bytes: each command with the
effect of its row, answered, and entered in the audit record where its row is audited, where the frame's role, key, nonce and signature
pass; refused with their status where not. R602, R646, R649, R650, R652, R653, R658, R665, R666, R668 to R673. -/
def Obligations.FramesThatSet : Prop :=
  ∀ (s : State) (tr : Transport) (f : Frame),
    let n := f.payload.length
    (∀ w, exec (.nonceExpiry tr w) s = .next (setNonces s tr ((nonces s tr).filter (fun x => x != w)))) ∧
    (∀ opc : BitVec 16, opc.toNat ∉ knownOpcs → arrives s tr opc.toNat f = true → ∃ t, exec (.unknownCommand tr opc f) s = .next t ∧
      responseOn t tr = some { opc := opc.toNat, status := 4, auditSeq := none, data := [] }) ∧
    (arrives s tr 0x0001 f = true → ∃ t d, exec (.getInfo tr f) s = .next t ∧ AnsweredPlain s t tr 0x0001 [0, 1, 2] f d) ∧
    (arrives s tr 0x0002 f = true → ∃ t, exec (.getNonce tr f) s = .next t ∧
      AnsweredPlain s t tr 0x0002 [0, 1, 2] f (natToBytes (Config.nonce s.mgt.nonceCount).toNat 8) ∧
      (frameStatus s tr 0x0002 [0, 1, 2] f = 0 → Config.nonce s.mgt.nonceCount ∈ nonces t tr ∧ (nonces t tr).length ≤ 8)) ∧
    (arrives s tr 0x0003 f = true → n = 8 → hasEntry s (fieldAt f.payload 0 8) = true → ∃ t, exec (.auditRead tr f) s = .next t ∧
      AnsweredPlain s t tr 0x0003 [0, 1, 2] f
        (((s.mgt.audit.filter (fun e => decide (fieldAt f.payload 0 8 ≤ e.seq))).take 31).flatMap AuditEnt.bytes)) ∧
    (arrives s tr 0x0004 f = true → n = 0 → s.mgt.audit ≠ [] → ∃ t, exec (.auditHead tr f) s = .next t ∧
      AnsweredPlain s t tr 0x0004 [0, 1, 2] f (auditHead s f)) ∧
    (arrives s tr 0x0032 f = true → ∃ t, exec (.pubkeyList tr f) s = .next t ∧
      AnsweredPlain s t tr 0x0032 [0, 1, 2] f (s.mgt.pubKeys.flatMap (fun k => natToBytes k.alg 4 ++ natToBytes k.fpr.toNat 48))) ∧
    (∀ i, arrives s tr 0x0043 f = true → 8 ≤ n → n ≤ 3880 → fwKindOk s (payWord f 0) = true →
      payWord f 1 + (n - 8) ≤ slotBytes (payWord f 0) → kindBusy s (payWord f 0) = false → inactiveSlot s (payWord f 0) = some i →
      ∃ t, exec (.fwChunk tr f) s = .next t ∧ AnsweredPlain s t tr 0x0043 (imageRoles s) f [] ∧
        (frameStatus s tr 0x0043 (imageRoles s) f = 0 → (fwSlot t i).st = .empty ∧
          (fwSlot t i).image = tsetList 0 (fwSlot s i).image (payWord f 1) (f.payload.drop 8))) ∧
    (AuditedArrives s tr 0x0005 f → n = 8 → fieldAt f.payload 0 8 < s.mgt.auditNext → ∃ t, exec (.auditAck tr f) s = .next t ∧
      AnsweredFrame s t tr 0x0005 [1] f false [] (t.mgt.auditAcked = max s.mgt.auditAcked (fieldAt f.payload 0 8 + 1))) ∧
    (AuditedArrives s tr 0x0010 f → n = 4 → s.fan.capMin ≤ payWord f 0 → payWord f 0 ≤ s.fan.capMax →
      ∃ t, exec (.setCap tr f) s = .next t ∧ AnsweredFrame s t tr 0x0010 [0] f false [] (t.fan = { s.fan with cap := payWord f 0 })) ∧
    (AuditedArrives s tr 0x0011 f → n = 8 → 600 ≤ payWord f 0 → payWord f 0 ≤ payWord f 1 → payWord f 1 ≤ 2400 →
      ∃ t, exec (.setCapRange tr f) s = .next t ∧ AnsweredFrame s t tr 0x0011 [1] f false [] (t.fan = { s.fan with
        capMin := payWord f 0
        capMax := payWord f 1
        cap := max (payWord f 0) (min (payWord f 1) s.fan.cap) })) ∧
    (AuditedArrives s tr 0x0012 f → n = 12 → payWord f 0 < 256 → payWord f 1 < 4096 → payWord f 2 < 4096 →
      ∃ t, exec (.setGroupCfg tr f) s = .next t ∧ AnsweredFrame s t tr 0x0012 [1] f false [] (t.fan = { s.fan with
        tokenStep := payWord f 0
        tokenMax := payWord f 1
        skewMin := payWord f 2 })) ∧
    (AuditedArrives s tr 0x0013 f → n = 4 → 30 ≤ payWord f 0 → payWord f 0 ≤ 120 → ∃ t, exec (.setDroop tr f) s = .next t ∧
      AnsweredFrame s t tr 0x0013 [2] f false [] (t.fan.droop = payWord f 0 ∧ t.fan.level = levelNow t)) ∧
    (n = 8 → payWord f 0 < 200 → payWord f 1 < 16 →
      (AuditedArrives s tr 0x0014 f → ∃ t, exec (.vtabWithdraw tr f) s = .next t ∧
        AnsweredFrame s t tr 0x0014 [1, 2] f false [] (((t.fanTile (payWord f 0)).raw (payWord f 1)).2.2 = true)) ∧
      (AuditedArrives s tr 0x0015 f → ∃ t, exec (.vtabRestore tr f) s = .next t ∧
        AnsweredFrame s t tr 0x0015 [2] f false [] (((t.fanTile (payWord f 0)).raw (payWord f 1)).2.2 = false))) ∧
    (AuditedArrives s tr 0x0020 f → topologyOk f = true → s.hdr.keeper.rackActing = false → ∃ t, exec (.setTopology tr f) s = .next t ∧
      AnsweredFrame s t tr 0x0020 [1] f false [] (t.hdr.keeper =
        if payWord f 0 = 0 then { s.hdr.keeper with slotMask := BitVec.ofNat 32 (payWord f 1) }
        else { s.hdr.keeper with topology := topologyOf (f.payload.drop 4) })) ∧
    (AuditedArrives s tr 0x0021 f → n = 4 → 1 ≤ payWord f 0 → payWord f 0 ≤ 3600 → ∃ t, exec (.setLoadSpan tr f) s = .next t ∧
      AnsweredFrame s t tr 0x0021 [1] f false [] (t.mgt.loadSpan = payWord f 0)) ∧
    (AuditedArrives s tr 0x0030 f → pubKeyStatus s f = 0 → ∃ t, exec (.pubkeyAdd tr f) s = .next t ∧
      AnsweredFrame s t tr 0x0030 [1] f false []
        (t.mgt.pubKeys = s.mgt.pubKeys ++ [⟨payWord f 0, f.payload.drop 4, Config.sha384 (f.payload.drop 4)⟩])) ∧
    (AuditedArrives s tr 0x0031 f → n = 48 → s.mgt.pubKeys.any (fun k => k.fpr == payDigest f) = true →
      ∃ t, exec (.pubkeyRemove tr f) s = .next t ∧
        AnsweredFrame s t tr 0x0031 [1] f false [] (t.mgt.pubKeys = s.mgt.pubKeys.filter (fun k => k.fpr != payDigest f))) ∧
    (AuditedArrives s tr 0x0038 f → n = 97 → s.mgt.operatorKeys.any (fun k => fprOf k == fprOf f.payload) = false →
      s.mgt.operatorKeys.length < 16 → ∃ t, exec (.opkeyAdd tr f) s = .next t ∧
        AnsweredFrame s t tr 0x0038 [1] f false [] (t.mgt.operatorKeys = s.mgt.operatorKeys ++ [f.payload])) ∧
    (AuditedArrives s tr 0x0039 f → n = 48 → s.mgt.operatorKeys.any (fun k => Config.sha384 k == payDigest f) = true →
      ∃ t, exec (.opkeyRemove tr f) s = .next t ∧ AnsweredFrame s t tr 0x0039 [1] f false []
        (t.mgt.operatorKeys = s.mgt.operatorKeys.filter (fun k => Config.sha384 k != payDigest f))) ∧
    (AuditedArrives s tr 0x003A f → n = 97 → ∃ t, exec (.installerKeySet tr f) s = .next t ∧
      AnsweredFrame s t tr 0x003A [1] f false [] (t.mgt.installerKey = some f.payload ∧ t.mgt.rtv = false))

/-- Management frames that change firmware images and parts, in the same way: staging, approval, marches, retirement, sparing, BAR4,
return to vendor and provisioning. R216, R332, R438, R442, R565, R649, R652, R654, R658 to R660, R662, R667, R668. -/
def Obligations.FramesThatChangeParts : Prop :=
  ∀ (s : State) (tr : Transport) (f : Frame),
    let n := f.payload.length
    (∀ i, AuditedArrives s tr 0x0040 f → n = (if tr = .mailbox then 16 else 8) → fwKindOk s (payWord f 0) = true → 256 ≤ payWord f 1 →
      payWord f 1 ≤ slotBytes (payWord f 0) → kindBusy s (payWord f 0) = false → inactiveSlot s (payWord f 0) = some i →
      let bs := stagedBytes s tr f i
      ∃ t, exec (.fwStage tr f) s = .next t ∧ AnsweredFrame s t tr 0x0040 (imageRoles s) f false [] (fwSlot t i = { fwSlot s i with
        st := if authentic s bs (payWord f 0) (payWord f 1) then .staged else .empty
        image := tsetList 0 [] 0 bs
        version := field32 bs 8
        svn := fieldAt bs 12 2
        stateFmt := fieldAt bs 14 2
        failedBoots := 0 })) ∧
    (AuditedArrives s tr 0x0041 f → n = 4 → payWord f 0 < 4 → kindBusy s (slotKind (payWord f 0)) = false →
      (fwSlot s (payWord f 0)).st = .staged → ∃ t, exec (.fwApprove tr f) s = .next t ∧
        AnsweredFrame s t tr 0x0041 [1] f true [] ((fwSlot t (payWord f 0)).st = .trial)) ∧
    (∀ v, AuditedArrives s tr 0x0042 f → n = 0 → anyTrial s = false → lowerSvn s = some v → ∃ t, exec (.fwCommitSvn tr f) s = .next t ∧
      AnsweredFrame s t tr 0x0042 [1] f false [] (t.mgt.svnFloor = max s.mgt.svnFloor v)) ∧
    (AuditedArrives s tr 0x0050 f → n = 8 → marchStatus s f = 0 → ∃ t, exec (.marchReq tr f) s = .next t ∧
      AnsweredFrame s t tr 0x0050 [1, 2] f true [] ((t.tile (payWord f 0)).mpd.marchSt = .running ∧
        (t.tile (payWord f 0)).mpd.marchPreserving = marchPreserves f)) ∧
    (∀ l, AuditedArrives s tr 0x0051 f → n = 4 → retireStatus s (payWord f 0) = 0 → s.logOf (payWord f 0) = some l →
      (s.ltile l).run = none → (s.ltile l).st = .free → ∃ t, exec (.tileRetire tr f) s = .next t ∧
        AnsweredFrame s t tr 0x0051 [1, 2] f true [] ((t.ltile l).st = .retiring)) ∧
    (AuditedArrives s tr 0x0052 f → n = 4 → payWord f 0 * 65536 < hbmEnd → payWord f 0 ∉ s.memb.retired →
      retiredOf s (hbmDie (payWord f 0 * 65536)) < 4096 → ∃ t, exec (.frameRetire tr f) s = .next t ∧
        AnsweredFrame s t tr 0x0052 [1, 2] f false [] (t.memb.retired = s.memb.retired ++ [payWord f 0])) ∧
    (AuditedArrives s tr 0x0053 f → n = 8 → payWord f 0 < 12 → payWord f 1 < 64 →
      (s.stack (payWord f 0)).spared.getLsbD (payWord f 1 / 4) = false → ∃ t, exec (.pcSpare tr f) s = .next t ∧
        AnsweredFrame s t tr 0x0053 [1, 2] f false [] ((t.stack (payWord f 0)).spared.getLsbD (payWord f 1 / 4) = true ∧
          (t.stack (payWord f 0)).sparing = (s.stack (payWord f 0)).sparing ++ [payWord f 1])) ∧
    (AuditedArrives s tr 0x0054 f → n = 4 → payWord f 0 < 2 ^ 17 → bar4Status s f = 0 → ∃ t, exec (.bar4Open tr f) s = .next t ∧
      AnsweredFrame s t tr 0x0054 [1, 2] f false [] (t.hif = { s.hif with
        bar4En := true
        bar4Base := payWord f 0 })) ∧
    (AuditedArrives s tr 0x0055 f → n = 0 → ∃ t, exec (.bar4Close tr f) s = .next t ∧
      AnsweredFrame s t tr 0x0055 [1, 2] f false [] (t.hif = { s.hif with bar4En := false })) ∧
    (AuditedArrives s tr 0x0060 f → n = 0 → ∃ t, exec (.rtvConsent tr f) s = .next t ∧ let d := consentDigest s (Config.nonce s.mgt.nonceCount)
      AnsweredFrame s t tr 0x0060 [1] f false (natToBytes d.toNat 48) (t.mgt.consent = some d)) ∧
    (AuditedArrives s tr 0x0061 f → n = 160 → anyBound s = false → ∃ t, exec (.rtvEnter tr f) s = .next t ∧
      let st := if frameStatus s tr 0x0061 [2] f = 0 then (if tokenGood s f then 0 else 2) else frameStatus s tr 0x0061 [2] f
      responseOn t tr = some { opc := 0x0061, status := st, auditSeq := some s.mgt.auditNext, data := [] } ∧
      (st = 0 → t.mgt.rtv = true ∧ t.mgt.installerKey = none ∧ t.mgt.operatorKeys = [] ∧ t.mgt.pubKeys = [] ∧
        ∀ j, j < 2 ^ 64 → t.byte j = 0)) ∧
    (AuditedArrives s tr 0x0062 f → s.mgt.rtv = true → ∃ t d, exec (.makerDiag tr f) s = .next t ∧
      AnsweredFrame s t tr 0x0062 [2] f false d True) ∧
    (AuditedArrives s tr 0x0063 f → provisionOk f = true → payWord f 0 = 0 → s.mgt.rtv = true →
      ∃ t, exec (.makerProvision tr f) s = .next t ∧ AnsweredFrame s t tr 0x0063 [2] f false []
        ((t.fanTile (payWord f 1)).fbRate = payWord f 2 ∧ (t.fanTile (payWord f 1)).fbMv = payWord f 3))

/-! ## The machine as a whole -/

/-- A step takes the command at the front of the queue, FIRST IN, FIRST OUT, and is its effect on the state with the queue's rest. The
second clause is the model's own choice (DESIGN CHOICE, log entry 2): on an empty queue one tick of every oscillator and of the
management clock passes; nothing that a run computes with changes. -/
def Obligations.StepRunsFront : Prop :=
  (∀ (s : State) (c : Instr) (q : List Instr), s.pending = c :: q → step s = exec c { s with pending := q }) ∧
  (∀ s : State, s.pending = [] → ∃ t, step s = .next t ∧
    (∀ p, t.tile p = if p < 200 then { s.tile p with ticks := ((s.tile p).ticks + 1) % 2 ^ 64 } else s.tile p) ∧
    (∀ d, t.mrc d = if d < 4 then { s.mrc d with ticks := ((s.mrc d).ticks + 1) % 2 ^ 64 } else s.mrc d) ∧
    t.fan = { s.fan with mclk := s.fan.mclk + 1 } ∧
    t.hdr = { s.hdr with
      ticks0 := (s.hdr.ticks0 + 1) % 2 ^ 64
      ticks1 := (s.hdr.ticks1 + 1) % 2 ^ 64 } ∧
    t = { s with
      tiles := t.tiles
      mrcs := t.mrcs
      fan := t.fan
      hdr := t.hdr })

/-- The physical function reads every register of the package whose reset value the spec gives at that value in the state after reset.
The register sections of 05, 07 to 12 and 14 to 18. -/
def Obligations.ResetValues : Prop :=
  let at32 (b o v : Nat) : Prop := regWord State.reset 0 (b + o) = v
  -- the Governor and Millrace and Grist blocks of a mill die
  (∀ d < 4, let b := 0x400000 + 0x10000 * d
    at32 b 0x000 0x30 ∧ at32 b 0x008 0 ∧ at32 b 0x010 0x2FAF ∧ at32 b 0x014 0xF4 ∧ at32 b 0x018 0 ∧ at32 b 0x020 0 ∧
    (∀ i < 48, at32 b (0x200 + 4 * i) 0) ∧ (∀ i < 8, at32 b (0x300 + 4 * i) 0) ∧ ∀ i < 12, at32 b (0x400 + 4 * i) 1) ∧
  (∀ d < 4, let b := 0x500000 + 0x10000 * d
    at32 b 0x000 0 ∧ at32 b 0x008 0 ∧ at32 b 0x00C 0x20 ∧ at32 b 0x010 0x17D7 ∧ at32 b 0x020 0 ∧ at32 b 0x024 0 ∧ at32 b 0x028 0 ∧
    at32 b 0x030 0 ∧ at32 b 0x034 0 ∧ at32 b 0x038 0x100000 ∧ at32 b 0x03C 0x100000 ∧ (∀ i < 22, at32 b (0x100 + 4 * i) 0) ∧
    ∀ k < 2048, at32 b (0x1000 + 4 * k) 0) ∧
  (∀ d < 4, let b := 0x600000 + 0x10000 * d
    at32 b 0x000 0 ∧ (∀ i < 26, at32 b (0x008 + 4 * i) 0) ∧ ∀ i < 8, at32 b (0x080 + 4 * i) 1) ∧
  (∀ k < 256, ∀ i < 3, at32 0x680000 (16 * k + 4 * i) 0) ∧
  -- the counter block of a physical tile
  (∀ p < 200, let b := 0x800000 + 0x1000 * p
    at32 b 0x0E0 1 ∧ (∀ i < 4, at32 b (0x0F0 + 4 * i) 0) ∧ (∀ i < 22, at32 b (0x100 + 4 * i) 0) ∧ at32 b 0x400 0 ∧
    at32 b 0x408 0xF407 ∧ at32 b 0x410 0 ∧ at32 b 0x414 0 ∧ at32 b 0x420 0 ∧ at32 b 0x424 0 ∧ ∀ i < 16, at32 b (0x440 + 4 * i) 0) ∧
  -- memory
  at32 0x700000 0x010 0 ∧ at32 0x700000 0x014 0 ∧ at32 0x700000 0x018 0 ∧ at32 0x700000 0x020 0x100004 ∧
  (∀ k < 12, let b := 0x710000 + 0x1000 * k
    at32 b 0x000 0 ∧ at32 b 0x010 0x1AD2 ∧ at32 b 0x018 0 ∧ at32 b 0x01C 0 ∧ at32 b 0x020 0 ∧ at32 b 0x024 0 ∧
    (∀ i < 16, at32 b (0x040 + 4 * i) 0) ∧ ∀ i < 64, at32 b (0x100 + 4 * i) 0) ∧
  -- Headrace
  (∀ o ∈ [0x000, 0x008, 0x010, 0x018, 0x01C, 0x020, 0x024, 0x028, 0x030, 0x040], at32 0x900000 o 0) ∧ at32 0x900000 0x038 0x5F5E ∧
  (∀ i < 10, at32 0x900000 (0x048 + 4 * i) 0) ∧ (∀ r < 512, at32 0x900000 (0x800 + 4 * r) 0) ∧
  (∀ p < 16, let b := 0x910000 + 0x100 * p
    at32 b 0x00 1 ∧ at32 b 0x04 0 ∧ at32 b 0x08 0 ∧ ∀ i < 6, at32 b (0x10 + 4 * i) 0) ∧
  -- the host interface
  at32 0 0x000 0 ∧ at32 0 0x008 0 ∧ at32 0 0x010 0 ∧ at32 0x8000 0x000 0 ∧ at32 0x8000 0x008 0x1000 ∧
  (∀ i < 512, at32 0x8000 (0x1000 + 4 * i) 0) ∧ (∀ i < 512, at32 0x8000 (0x2000 + 4 * i) (if i = 1 then 0x800 else 0)) ∧
  at32 0x8000 0x3000 0 ∧ at32 0x8000 0x3004 0 ∧
  -- Fantail and the management controller
  (∀ o ∈ [0x000, 0x018, 0x020, 0x028, 0x02C, 0x030, 0x034, 0x040, 0x044], at32 0xB00000 o 0) ∧ at32 0xB00000 0x010 0x09600960 ∧
  at32 0xB00000 0x014 0x09600258 ∧ at32 0xB00000 0x024 0x140C8064 ∧
  (∀ p < 200, at32 0xB10000 (0x80 * p + 0x48) 0 ∧ at32 0xB10000 (0x80 * p + 0x4C) 0) ∧
  ∀ o ∈ [0x010, 0x014, 0x020, 0x024], at32 0xE00000 o 0

/-- In the state after reset memory, the stored check bits and the owner tags stand in their canonical forms, and no command waits. -/
def Obligations.ResetIsCanonical : Prop := Canonical State.reset ∧ State.reset.pending = []

/-- Every step keeps the canonical forms of memory, of the stored check bits and of the owner tags, from every state that has them: after
any command equal contents are equal data. -/
def Obligations.StepsKeepCanonical : Prop :=
  ∀ s t : State, Canonical s → step s = .next t → Canonical t

/-- Encodings of Jaend instructions lose nothing, in both directions. The words of a well-formed instruction that the core's profile has
are a defined encoding and decode to that instruction, with every operand at every value; and the words of every defined encoding of
the profile are exactly the words of the instruction that they decode to, which is well formed. R199, R236 to R238, R244, R245. -/
def Obligations.DecodeOfEncode : Prop :=
  (∀ (i : Instr) (c : Core) (w0 : W64) (ow : Option W64), coreOf i = some c → (∀ a b, i ≠ .undefinedEncoding c a b) → i.wf = true →
    words i = some (w0, ow) → profileOk c.isTile w0 = true → ∀ w1 : W64, (∀ w, ow = some w → w1 = w) →
      definedWords w0 w1 = true ∧ decodeWords c w0 w1 = i) ∧
  (∀ (c : Core) (w0 w1 : W64), c.wf = true → definedWords w0 w1 = true → profileOk c.isTile w0 = true →
    words (decodeWords c w0 w1) = some (w0, if w0.getLsbD 55 then some w1 else none) ∧ (decodeWords c w0 w1).wf = true ∧
    coreOf (decodeWords c w0 w1) = some c)
end

