-- ==== Sys2Proof/Laws/Bind.lean ====
section
/-! SUPPORT. What the steps of a bind leave of the Miller cores. -/

set_option Elab.async false -- one theorem after another: the package as one text then needs few threads

namespace Sys2Proof.Machine
open Sys2Proof

theorem writeWord_millers (s : State) (pl : Place) (w : Word288) : (writeWord s pl w).millers = s.millers := by
  cases pl <;> rfl

theorem endTblInval_millers (s : State) : (endTblInval s).millers = s.millers := by
  unfold endTblInval
  split <;> (try split) <;> rfl

theorem writeRights_millers (s : State) (c : Nat) (g : Option Nat) : (writeRights s c g).millers = s.millers := by
  cases g <;> simp [writeRights, endTblInval_millers, startTblInval, State.setBytes, State.zero, freeBytes]

/-- Steps 5 to 7 of a bind leave every Miller core as it is. R497. -/
theorem setUp_millers (s : State) (ctx : Nat) (tab : List Byte) : (setUp s ctx tab).millers = s.millers := by
  unfold setUp
  refine (writeRights_millers _ _ _).trans ?_
  split <;> exact writeWord_millers _ _ _

end Sys2Proof.Machine
end

