-- ==== Sys2Proof/Laws/Bytes.lean ====
section
/-! SUPPORT. Numbers as little-endian bytes: lengths, values, and the return of one from the other. -/

set_option Elab.async false -- one theorem after another: the package as one text then needs few threads

namespace Sys2Proof.Machine
open Sys2Proof

@[simp] theorem natToBytes_length (v n : Nat) : (natToBytes v n).length = n := by
  induction n generalizing v with
  | zero => rfl
  | succ n ih => simp [natToBytes, ih]

theorem bytesToNat_natToBytes (v n : Nat) : bytesToNat (natToBytes v n) = v % 256 ^ n := by
  induction n generalizing v with
  | zero => simp [natToBytes, bytesToNat, Nat.mod_one]
  | succ n ih =>
    simp only [natToBytes, bytesToNat, ih, BitVec.toNat_ofNat]
    show v % 256 + 256 * (v / 256 % 256 ^ n) = v % 256 ^ (n + 1)
    rw [Nat.pow_succ' (m := 256), Nat.mod_mul]

theorem bytesToNat_lt (bs : List Byte) : bytesToNat bs < 256 ^ bs.length := by
  induction bs with
  | nil => simp [bytesToNat]
  | cons b bs ih =>
    have h := b.isLt
    simp only [bytesToNat, List.length_cons, Nat.pow_succ']
    omega

theorem natToBytes_bytesToNat (bs : List Byte) : natToBytes (bytesToNat bs) bs.length = bs := by
  induction bs with
  | nil => rfl
  | cons b bs ih =>
    have h := b.isLt
    have h1 : (b.toNat + 256 * bytesToNat bs) / 256 = bytesToNat bs := by omega
    have h2 : BitVec.ofNat 8 (b.toNat + 256 * bytesToNat bs) = b := by
      apply BitVec.eq_of_toNat_eq
      simp only [BitVec.toNat_ofNat]
      omega
    simp only [bytesToNat, List.length_cons, natToBytes, h1, h2, ih]

/-- A field of `n` bytes that holds a number of so many bytes reads as that number. -/
theorem fieldAt_natToBytes (v n : Nat) (h : v < 256 ^ n) : fieldAt (natToBytes v n) 0 n = v := by
  rw [fieldAt, List.drop_zero, List.take_of_length_le (by simp), bytesToNat_natToBytes, Nat.mod_eq_of_lt h]

end Sys2Proof.Machine
end

