-- ==== Sys2Proof/Laws/Tab.lean ====
section
/-! SUPPORT. What reading and writing a sparse table does: one law for each operation, and the canonical form that every
operation keeps. -/

set_option Elab.async false -- one theorem after another: the package as one text then needs few threads

namespace Sys2Proof.Machine
open Sys2Proof

variable {α : Type}

@[simp] theorem tget_nil (d : α) (k : Nat) : tget d [] k = d := rfl

theorem tget_cons (d : α) (j : Nat) (v : α) (t : Tab α) (k : Nat) :
    tget d ((j, v) :: t) k = if j = k then v else tget d t k := rfl

theorem tget_tdel (d : α) (t : Tab α) (k j : Nat) : tget d (tdel t k) j = if j = k then d else tget d t j := by
  induction t with
  | nil => simp [tdel]
  | cons p t ih =>
    obtain ⟨i, v⟩ := p
    by_cases h : i = k
    · have e : tdel ((i, v) :: t) k = tdel t k := by simp [tdel, h]
      rw [e, ih, tget_cons]
      split
      · rfl
      · next hj => rw [if_neg (fun e : i = j => hj (e ▸ h))]
    · have e : tdel ((i, v) :: t) k = (i, v) :: tdel t k := by simp [tdel, h]
      rw [e, tget_cons, ih, tget_cons]
      by_cases hi : i = j
      · subst hi; simp [h]
      · simp [hi]

/-- No entry of the table has key `k`. -/
def tfree (t : Tab α) (k : Nat) : Prop := ∀ p ∈ t, p.1 ≠ k

theorem tfree_tdel (t : Tab α) (k : Nat) : tfree (tdel t k) k := by
  intro p hp
  simp only [tdel, List.mem_filter, bne_iff_ne] at hp
  exact hp.2

theorem tget_tins (d : α) (t : Tab α) (k : Nat) (v : α) (h : tfree t k) (j : Nat) :
    tget d (tins t k v) j = if j = k then v else tget d t j := by
  induction t with
  | nil => simp only [tins, tget_cons, eq_comm]
  | cons p t ih =>
    obtain ⟨i, w⟩ := p
    have hi : i ≠ k := h (i, w) (List.mem_cons_self ..)
    simp only [tins]
    split
    · simp only [tget_cons, eq_comm]
    · rw [tget_cons, ih (fun p hp => h p (List.mem_cons_of_mem _ hp)), tget_cons]
      by_cases hj : i = j
      · subst hj; simp [hi]
      · simp [hj]

/-- What a table reads as after a write. -/
theorem tget_tset [DecidableEq α] (d : α) (t : Tab α) (k : Nat) (v : α) (j : Nat) :
    tget d (tset d t k v) j = if j = k then v else tget d t j := by
  unfold tset
  split
  · next h => rw [tget_tdel, h]
  · rw [tget_tins d _ k v (tfree_tdel t k), tget_tdel]
    by_cases hj : j = k <;> simp [hj]

@[simp] theorem tget_tset_same [DecidableEq α] (d : α) (t : Tab α) (k : Nat) (v : α) : tget d (tset d t k v) k = v := by
  rw [tget_tset]; simp

theorem tdel_tins (t : Tab α) (k : Nat) (v : α) (h : tfree t k) : tdel (tins t k v) k = t := by
  have hf : ∀ t : Tab α, tfree t k → tdel t k = t := fun t h => List.filter_eq_self.2 (fun p hp => by simpa using h p hp)
  induction t with
  | nil => simp [tins, tdel]
  | cons p t ih =>
    obtain ⟨i, w⟩ := p
    have hi : i ≠ k := h (i, w) (List.mem_cons_self ..)
    have ht : tfree t k := fun p hp => h p (List.mem_cons_of_mem _ hp)
    simp only [tins]
    split
    · have := hf t ht
      simp only [tdel] at this ⊢
      simp [List.filter_cons, hi, this]
    · have := ih ht
      simp only [tdel] at this ⊢
      simp [List.filter_cons, hi, this]

theorem tdel_tdel (t : Tab α) (k : Nat) : tdel (tdel t k) k = tdel t k := by
  simp [tdel, List.filter_filter]

/-- A write takes the place of an earlier write of the same key. -/
theorem tset_tset [DecidableEq α] (d : α) (t : Tab α) (k : Nat) (v w : α) : tset d (tset d t k v) k w = tset d t k w := by
  have h : tdel (tset d t k v) k = tdel t k := by
    unfold tset
    split
    · exact tdel_tdel t k
    · exact tdel_tins _ k v (tfree_tdel t k)
  unfold tset at h ⊢
  rw [h]

theorem tget_tset_other [DecidableEq α] (d : α) (t : Tab α) {k j : Nat} (v : α) (h : j ≠ k) :
    tget d (tset d t k v) j = tget d t j := by
  rw [tget_tset]; simp [h]

theorem tget_tmod [DecidableEq α] (d : α) (t : Tab α) (k : Nat) (f : α → α) (j : Nat) :
    tget d (tmod d t k f) j = if j = k then f (tget d t k) else tget d t j := tget_tset d t k _ j

/-- What a table reads as after a list of values is written. -/
theorem tget_tsetList [DecidableEq α] (d : α) (vs : List α) (t : Tab α) (k j : Nat) :
    tget d (tsetList d t k vs) j = if k ≤ j ∧ j < k + vs.length then nth d vs (j - k) else tget d t j := by
  induction vs generalizing t k with
  | nil => simp only [tsetList, List.length_nil]; rw [if_neg (by omega)]
  | cons v vs ih =>
    simp only [tsetList]
    rw [ih, tget_tset]
    simp only [List.length_cons]
    by_cases h1 : k + 1 ≤ j ∧ j < k + 1 + vs.length
    · have h2 : k ≤ j ∧ j < k + (vs.length + 1) := by omega
      rw [if_pos h1, if_pos h2]
      obtain ⟨n, hn⟩ : ∃ n, j - k = n + 1 := ⟨j - k - 1, by omega⟩
      rw [hn, show j - (k + 1) = n by omega]
      rfl
    · rw [if_neg h1]
      by_cases hj : j = k
      · subst hj
        rw [if_pos rfl, if_pos (by omega)]
        simp [nth]
      · rw [if_neg hj, if_neg (by omega)]

/-! ## The canonical form -/

theorem tsorted_cons (k : Nat) (v : α) (t : Tab α) :
    tsorted ((k, v) :: t) = true ↔ (∀ p ∈ t, k < p.1) ∧ tsorted t = true := by
  simp [tsorted]

theorem tsorted_filter (t : Tab α) (p : Nat × α → Bool) (h : tsorted t = true) : tsorted (t.filter p) = true := by
  induction t with
  | nil => rfl
  | cons x t ih =>
    obtain ⟨k, v⟩ := x
    rw [tsorted_cons] at h
    rw [List.filter_cons]
    split
    · rw [tsorted_cons]
      exact ⟨fun q hq => h.1 q (List.mem_of_mem_filter hq), ih h.2⟩
    · exact ih h.2

theorem mem_tins (t : Tab α) (k : Nat) (v : α) (p : Nat × α) (h : p ∈ tins t k v) : p = (k, v) ∨ p ∈ t := by
  induction t with
  | nil => simpa [tins] using h
  | cons x t ih =>
    obtain ⟨j, w⟩ := x
    simp only [tins] at h
    split at h
    · simpa using h
    · rcases List.mem_cons.1 h with h | h
      · exact .inr (h ▸ List.mem_cons_self ..)
      · exact (ih h).imp id (List.mem_cons_of_mem _)

theorem tsorted_tins (t : Tab α) (k : Nat) (v : α) (hf : tfree t k) (h : tsorted t = true) : tsorted (tins t k v) = true := by
  induction t with
  | nil => rfl
  | cons x t ih =>
    obtain ⟨j, w⟩ := x
    have hj : j ≠ k := hf (j, w) (List.mem_cons_self ..)
    have h' := (tsorted_cons j w t).1 h
    simp only [tins]
    split
    · next hk =>
      rw [tsorted_cons]
      refine ⟨fun p hp => ?_, h⟩
      rcases List.mem_cons.1 hp with e | e
      · rw [e]; exact hk
      · exact Nat.lt_trans hk (h'.1 p e)
    · next hk =>
      rw [tsorted_cons]
      refine ⟨fun p hp => ?_, ih (fun p hp => hf p (List.mem_cons_of_mem _ hp)) h'.2⟩
      rcases mem_tins t k v p hp with e | e
      · rw [e]; simp only; omega
      · exact h'.1 p e

theorem twf_iff [DecidableEq α] (d : α) (t : Tab α) : twf d t = true ↔ tsorted t = true ∧ ∀ p ∈ t, p.2 ≠ d := by
  simp [twf]

@[simp] theorem twf_nil [DecidableEq α] (d : α) : twf d ([] : Tab α) = true := rfl

theorem twf_filter [DecidableEq α] (d : α) (t : Tab α) (p : Nat × α → Bool) (h : twf d t = true) : twf d (t.filter p) = true := by
  rw [twf_iff] at *
  exact ⟨tsorted_filter t p h.1, fun q hq => h.2 q (List.mem_of_mem_filter hq)⟩

/-- A write keeps the canonical form. -/
theorem twf_tset [DecidableEq α] (d : α) (t : Tab α) (k : Nat) (v : α) (h : twf d t = true) : twf d (tset d t k v) = true := by
  have hd := twf_filter d t (fun p => p.1 != k) h
  unfold tset
  split
  · exact hd
  · next hv =>
    rw [twf_iff] at *
    refine ⟨tsorted_tins _ k v (tfree_tdel t k) hd.1, fun p hp => ?_⟩
    rcases mem_tins _ k v p hp with e | e
    · rw [e]; exact hv
    · exact hd.2 p e

theorem twf_tsetList [DecidableEq α] (d : α) (vs : List α) (t : Tab α) (k : Nat) (h : twf d t = true) :
    twf d (tsetList d t k vs) = true := by
  induction vs generalizing t k with
  | nil => exact h
  | cons v vs ih => exact ih _ _ (twf_tset d t k v h)

end Sys2Proof.Machine
end

