-- ==== Sys2Proof/Laws/Canonical.lean ====
section
/-! SUPPORT. Every operation on the bytes, the stored check bits and the owner tags keeps their canonical form, from the plain
writes up to checked accesses, ring records and events; and what a plain write leaves to be read. -/

set_option Elab.async false -- one theorem after another: the package as one text then needs few threads

namespace Sys2Proof.Machine
open Sys2Proof

variable {s t : State}

/-! ## What does not touch storage -/

@[simp] theorem canonical_setTile (p : Nat) (x : Tile) : Canonical (s.setTile p x) ↔ Canonical s := Iff.rfl
@[simp] theorem canonical_modTile (p : Nat) (f : Tile → Tile) : Canonical (s.modTile p f) ↔ Canonical s := Iff.rfl
@[simp] theorem canonical_modLTile (l : Nat) (f : LTile → LTile) : Canonical (s.modLTile l f) ↔ Canonical s := Iff.rfl
@[simp] theorem canonical_setPhys (l p : Nat) : Canonical (s.setPhys l p) ↔ Canonical s := Iff.rfl
@[simp] theorem canonical_modEngine (e : Nat) (f : Engine → Engine) : Canonical (s.modEngine e f) ↔ Canonical s := Iff.rfl
@[simp] theorem canonical_modGov (d : Nat) (f : Gov → Gov) : Canonical (s.modGov d f) ↔ Canonical s := Iff.rfl
@[simp] theorem canonical_modMrc (d : Nat) (f : Mrc → Mrc) : Canonical (s.modMrc d f) ↔ Canonical s := Iff.rfl
@[simp] theorem canonical_modSlot (k : Nat) (f : Slot → Slot) : Canonical (s.modSlot k f) ↔ Canonical s := Iff.rfl
@[simp] theorem canonical_modGrs (d : Nat) (f : Grs → Grs) : Canonical (s.modGrs d f) ↔ Canonical s := Iff.rfl
@[simp] theorem canonical_modLane (n : Nat) (f : Lane → Lane) : Canonical (s.modLane n f) ↔ Canonical s := Iff.rfl
@[simp] theorem canonical_modGSlot (i : Nat) (f : GSlot → GSlot) : Canonical (s.modGSlot i f) ↔ Canonical s := Iff.rfl
@[simp] theorem canonical_modRing (r : Nat) (f : Ring → Ring) : Canonical (s.modRing r f) ↔ Canonical s := Iff.rfl
@[simp] theorem canonical_modFn (i : Nat) (f : Fn → Fn) : Canonical (s.modFn i f) ↔ Canonical s := Iff.rfl
@[simp] theorem canonical_modCtx (c : Nat) (f : Ctx → Ctx) : Canonical (s.modCtx c f) ↔ Canonical s := Iff.rfl
@[simp] theorem canonical_modSeqEnt (q : Nat) (f : SeqEnt → SeqEnt) : Canonical (s.modSeqEnt q f) ↔ Canonical s := Iff.rfl
@[simp] theorem canonical_modMiller (c : Nat) (f : Miller → Miller) : Canonical (s.modMiller c f) ↔ Canonical s := Iff.rfl
@[simp] theorem canonical_modStack (i : Nat) (f : Stack → Stack) : Canonical (s.modStack i f) ↔ Canonical s := Iff.rfl
@[simp] theorem canonical_modPort (p : Nat) (f : Port → Port) : Canonical (s.modPort p f) ↔ Canonical s := Iff.rfl
@[simp] theorem canonical_modFanTile (p : Nat) (f : FanTile → FanTile) : Canonical (s.modFanTile p f) ↔ Canonical s := Iff.rfl
@[simp] theorem canonical_modMpd (p : Nat) (f : Mpd → Mpd) : Canonical (s.modMpd p f) ↔ Canonical s := Iff.rfl
@[simp] theorem canonical_modRun (d rid : Nat) (f : Run → Run) : Canonical (s.modRun d rid f) ↔ Canonical s := Iff.rfl
@[simp] theorem canonical_modSeqr (c : Core) (f : Seqr → Seqr) : Canonical (s.modSeqr c f) ↔ Canonical s := by cases c <;> rfl
@[simp] theorem canonical_modUnit (u : EnUnit) (f : UnitEn → UnitEn) : Canonical (modUnit s u f) ↔ Canonical s := by cases u <;> rfl
@[simp] theorem canonical_takeFree : Canonical s.takeFree.1 ↔ Canonical s := Iff.rfl

/-! ## Plain writes -/

/-- A state with the same bytes, check bits and owner tags. -/
theorem canonical_of_same (h : Canonical s) (hm : t.mem = s.mem) (hc : t.chk = s.chk) (ho : t.owner = s.owner) : Canonical t := by
  unfold Canonical at *
  rw [hm, hc, ho]
  exact h

theorem canonical_ite (p : Prop) [Decidable p] (hs : Canonical s) (ht : Canonical t) : Canonical (if p then s else t) := by
  split <;> assumption

theorem canonical_reset : Canonical State.reset := ⟨rfl, rfl, rfl⟩

theorem canonical_setBytes (h : Canonical s) (k : Nat) (bs : List Byte) : Canonical (s.setBytes k bs) :=
  ⟨twf_tsetList 0 bs s.mem k h.1, h.2.1, h.2.2⟩

theorem canonical_setNum (h : Canonical s) (k n v : Nat) : Canonical (s.setNum k n v) := canonical_setBytes h k _

theorem canonical_setChk (h : Canonical s) (k : Nat) (d : W32) : Canonical (s.setChk k d) :=
  ⟨h.1, twf_tset 0 s.chk _ d h.2.1, h.2.2⟩

theorem canonical_setWord (h : Canonical s) (k : Nat) (w : Word288) : Canonical (s.setWord k w) :=
  ⟨(canonical_setNum h _ _ _).1, twf_tset 0 s.chk _ w.2 h.2.1, h.2.2⟩

theorem canonical_setWords (ws : List Word288) (k : Nat) (h : Canonical s) : Canonical (s.setWords k ws) := by
  induction ws generalizing s k with
  | nil => exact h
  | cons w ws ih => exact ih _ (canonical_setWord h k w)

theorem canonical_zero (h : Canonical s) (k n : Nat) : Canonical (s.zero k n) :=
  ⟨twf_filter 0 s.mem _ h.1, twf_filter 0 s.chk _ h.2.1, h.2.2⟩

theorem canonical_setOwners (p b tag n : Nat) (h : Canonical s) : Canonical (setOwners s p b tag n) := by
  induction n generalizing s b with
  | zero => exact h
  | succ n ih =>
    refine ih _ ?_
    exact ⟨h.1, h.2.1, twf_tset 0 s.owner _ tag h.2.2⟩

/-- A fold of operations of which each keeps the form. -/
theorem canonical_foldl {α : Type} (f : State → α → State) (xs : List α) (hf : ∀ u x, Canonical u → Canonical (f u x))
    (h : Canonical s) : Canonical (xs.foldl f s) := by
  induction xs generalizing s with
  | nil => exact h
  | cons x xs ih => exact ih (hf s x h)

/-! ## What a plain write leaves -/

/-- A byte after a write: the written one within, the earlier one elsewhere. -/
theorem byte_setBytes (s : State) (k j : Nat) (bs : List Byte) :
    (s.setBytes k bs).byte j = if k ≤ j ∧ j < k + bs.length then nth 0 bs (j - k) else s.byte j := tget_tsetList 0 bs s.mem k j

theorem byte_setBytes_outside (s : State) (k j : Nat) (bs : List Byte) (h : j < k ∨ k + bs.length ≤ j) :
    (s.setBytes k bs).byte j = s.byte j := by
  rw [byte_setBytes, if_neg (by omega)]

theorem byte_setNum_outside (s : State) (k n v j : Nat) (h : j < k ∨ k + n ≤ j) : (s.setNum k n v).byte j = s.byte j :=
  byte_setBytes_outside s k j _ (by simpa using h)

theorem byte_setWord_outside (s : State) (k j : Nat) (w : Word288) (h : j / 32 ≠ k / 32) : (s.setWord k w).byte j = s.byte j :=
  byte_setNum_outside s _ 32 _ j (by omega)

theorem chk_setWord_same (s : State) (k : Nat) (w : Word288) : tget 0 (s.setWord k w).chk (k / 32) = w.2 := tget_tset_same 0 s.chk _ _

theorem bytes_setBytes (s : State) (k : Nat) (bs : List Byte) : (s.setBytes k bs).bytes k bs.length = bs := by
  induction bs generalizing s k with
  | nil => rfl
  | cons b bs ih =>
    have h : ((s.setBytes k [b]).setBytes (k + 1) bs).byte k = b := by
      rw [byte_setBytes_outside _ _ _ _ (by omega), byte_setBytes, if_pos (by simp)]
      simp [nth]
    show tget 0 _ k :: tgetList 0 _ (k + 1) bs.length = b :: bs
    congr 1
    exact ih (s.setBytes k [b]) (k + 1)

/-- A word written is the word read. -/
theorem word_setWord (s : State) (k : Nat) (w : Word288) : (s.setWord k w).word k = w := by
  obtain ⟨d, c⟩ := w
  refine Prod.ext ?_ (chk_setWord_same s k (d, c))
  show BitVec.ofNat 256 (bytesToNat ((s.setBytes (k / 32 * 32) (natToBytes d.toNat 32)).bytes (k / 32 * 32) 32)) = d
  have h := bytes_setBytes s (k / 32 * 32) (natToBytes d.toNat 32)
  rw [natToBytes_length] at h
  rw [h, bytesToNat_natToBytes, Nat.mod_eq_of_lt (Nat.lt_of_lt_of_le d.isLt (by norm_num))]
  simp

/-! ## Ring records and events -/

theorem canonical_msixSend (h : Canonical s) (f e : Nat) : Canonical (msixSend s f e) := by
  unfold msixSend; split <;> exact h

theorem canonical_notify (h : Canonical s) (r : Nat) (b : Bool) : Canonical (notify s r b) := by
  simp only [notify]; split
  · exact canonical_msixSend ((canonical_modRing _ _).2 h) _ _
  · exact h

theorem canonical_shadowWrite (h : Canonical s) (r : Nat) (v : W32) : Canonical (shadowWrite s r v) := by
  unfold shadowWrite; split
  · exact canonical_setNum h _ _ _
  · exact h

theorem canonical_putBytes (h : Canonical s) (k : Nat) (bs : List Byte) : Canonical (s.putBytes k bs) :=
  ⟨(canonical_setBytes h k bs).1, twf_filter 0 s.chk _ h.2.1, h.2.2⟩

/-- A byte after a record is written. -/
theorem byte_putBytes (s : State) (k j : Nat) (bs : List Byte) :
    (s.putBytes k bs).byte j = if k ≤ j ∧ j < k + bs.length then nth 0 bs (j - k) else s.byte j := byte_setBytes s k j bs

/-- An entry of a ring is written at its place, or refused. -/
theorem putEntry_cases (s : State) (r : Ring) (i : Nat) (bs : List Byte) :
    s.putEntry r i bs = s ∨ ∃ pl, s.entryPlace r i = some pl ∧ frameRetired s pl = false ∧ s.putEntry r i bs = s.putBytes pl.key bs := by
  unfold State.putEntry
  split
  · exact .inl rfl
  · next pl hp =>
    split
    · exact .inl rfl
    · next hf => exact .inr ⟨pl, hp, by simpa using hf, rfl⟩

theorem canonical_putEntry (h : Canonical s) (r : Ring) (i : Nat) (bs : List Byte) : Canonical (s.putEntry r i bs) := by
  obtain h1 | ⟨pl, -, -, h1⟩ := putEntry_cases s r i bs <;> rw [h1]
  · exact h
  · exact canonical_putBytes h _ bs

theorem canonical_pushRecord (h : Canonical s) (r : Nat) (bs : List Byte) : Canonical (pushRecord s r bs) := by
  refine canonical_notify (canonical_shadowWrite ?_ _ _) _ _
  exact canonical_putEntry h _ _ bs

theorem canonical_popHead (h : Canonical s) (r : Nat) : Canonical (popHead s r) := by
  simp only [popHead]; split
  · exact canonical_shadowWrite ((canonical_modRing _ _).2 h) _ _
  · exact h

theorem canonical_evtTo (h : Canonical s) (f : Nat) (e : Evt) (ctx : Option Nat) (esq : W32) : Canonical (evtTo s f e ctx esq) := by
  unfold evtTo; dsimp only; split
  · exact (canonical_modFn _ _).2 h
  · split
    · exact (canonical_modRing _ _).2 (canonical_pushRecord h _ _)
    · exact (canonical_modRing _ _).2 ((canonical_modFn _ _).2 h)

theorem canonical_postEvent (h : Canonical s) (ctx : Option Nat) (e : Evt) : Canonical (postEvent s ctx e) := by
  have h1 : Canonical { s with hif := { s.hif with esq := s.hif.esq + 1 } } := h
  simp only [postEvent]; split
  · exact canonical_evtTo h1 _ _ _ _
  · split
    · exact canonical_evtTo (canonical_evtTo h1 _ _ _ _) _ _ _ _
    · exact canonical_evtTo h1 _ _ _ _

theorem canonical_postEvents (h : Canonical s) (cs : List Nat) (e : Evt) : Canonical (postEvents s cs e) :=
  canonical_postEvent (canonical_foldl _ cs (fun _ c hu => canonical_postEvent hu (some c) e) h) none e

/-! ## Checked accesses -/

theorem canonical_retireFrame (h : Canonical s) (f cause : Nat) : Canonical (retireFrame s f cause) := by
  simp only [retireFrame]; split
  · exact h
  · apply canonical_postEvents; split <;> exact h

theorem canonical_sparePc (h : Canonical s) (stk pc : Nat) : Canonical (sparePc s stk pc) := by
  simp only [sparePc]; split
  · exact canonical_postEvent ((canonical_modStack _ _).2 h) _ _
  · exact (canonical_modStack _ _).2 h

theorem canonical_countCe (h : Canonical s) (pl : Place) : Canonical (countCe s pl) := by
  cases pl with
  | host a => exact h
  | mill p o => exact (canonical_modMpd p _).2 h
  | hbm a =>
    have h1 : ∀ f, Canonical (s.modStack (hbmStack a) f) := fun f => (canonical_modStack _ f).2 h
    unfold countCe; dsimp only
    refine canonical_ite _ (canonical_sparePc ?_ _ _) ?_ <;>
    exact canonical_ite _ (canonical_retireFrame (h1 _) _ _) (h1 _)

theorem canonical_countUe (h : Canonical s) (pl : Place) (src : Nat) : Canonical (countUe s pl src) := by
  cases pl with
  | host a => exact h
  | mill p o => exact h
  | hbm a =>
    simp only [countUe]; split
    · exact canonical_retireFrame ((canonical_modStack _ _).2 h) _ _
    · exact (canonical_modStack _ _).2 h

theorem canonical_touch (h : Canonical s) (pl : Place) : Canonical (touch s pl) := by cases pl <;> exact h

theorem canonical_touchRange (h : Canonical s) (p off n : Nat) : Canonical (touchRange s p off n) :=
  canonical_foldl _ _ (fun u b hu => by
    dsimp only
    split
    · exact canonical_touch hu _
    · exact hu) h

theorem canonical_dropWriteback (h : Canonical s) (pl : Place) : Canonical (dropWriteback s pl) := by cases pl <;> exact h

theorem canonical_readWord (h : Canonical s) (pl : Place) : Canonical (readWord s pl).1 := by
  have ht := canonical_touch h pl
  cases pl with
  | host a => exact ht
  | mill p o =>
    unfold readWord; dsimp only
    split
    · exact ht
    · exact ht
    · exact canonical_countUe ht _ _
    · dsimp only
      rw [canonical_modMpd]
      exact canonical_countCe ht _
  | hbm a =>
    unfold readWord; dsimp only
    split
    · exact ht
    · exact ht
    · exact canonical_countUe ht _ _
    · exact canonical_countCe ht _

theorem canonical_readWords (n : Nat) (pl : Place) (h : Canonical s) : Canonical (readWords s pl n).1 := by
  induction n generalizing s pl with
  | zero => exact h
  | succ n ih => exact ih _ (canonical_readWord h pl)

theorem canonical_readBytes (h : Canonical s) (pl : Place) (n : Nat) : Canonical (readBytes s pl n).1 := by
  unfold readBytes
  exact canonical_readWords _ _ h

theorem canonical_readSub (h : Canonical s) (pl : Place) (n : Nat) : Canonical (readSub s pl n).1 := canonical_readWord h pl

theorem canonical_writeMask (h : Canonical s) (pl : Place) (mask v : BitVec 256) : Canonical (writeMask s pl mask v).1 := by
  have h0 := canonical_dropWriteback (canonical_touch h pl) pl
  unfold writeMask; dsimp only
  split
  · exact canonical_setNum h _ _ _
  · split
    · exact canonical_setWord h0 _ _
    · exact canonical_setWord h0 _ _
    · exact canonical_setWord (canonical_countCe h0 _) _ _
    · exact canonical_countUe (canonical_touch h _) _ _

theorem canonical_writeSub (h : Canonical s) (pl : Place) (n v : Nat) : Canonical (writeSub s pl n v).1 := canonical_writeMask h pl _ _

theorem canonical_writeWord (h : Canonical s) (pl : Place) (w : Word288) : Canonical (writeWord s pl w) := by
  unfold writeWord
  split
  · exact canonical_setNum h _ _ _
  · exact canonical_setWord (canonical_dropWriteback (canonical_touch h pl) pl) _ _

theorem canonical_writeWords (ws : List (BitVec 256)) (pl : Place) (h : Canonical s) : Canonical (writeWords s pl ws) := by
  induction ws generalizing s pl with
  | nil => exact h
  | cons w ws ih => exact ih _ (canonical_writeWord h pl _)

theorem canonical_writeSpan (k : Nat) (pl : Place) (bs : List Byte) (h : Canonical s) : Canonical (writeSpan s pl bs k).1 := by
  induction k generalizing s pl bs with
  | zero => exact h
  | succ k ih =>
    unfold writeSpan
    split
    · exact h
    · dsimp only
      split
      · exact ih _ _ (canonical_writeWord h pl _)
      · exact ih _ _ (canonical_writeSub h pl _ _)

theorem canonical_writeBytes (h : Canonical s) (pl : Place) (bs : List Byte) : Canonical (writeBytes s pl bs).1 :=
  canonical_writeSpan _ _ _ h

theorem canonical_arriveWord (h : Canonical s) (pl : Place) (w : Word288) : Canonical (arriveWord s pl w).1 := by
  unfold arriveWord
  split
  · exact canonical_writeWord h _ _
  · exact canonical_writeWord h _ _
  · refine canonical_writeWord ?_ _ _
    split
    · exact h
    · exact canonical_countCe h _
  · exact canonical_countUe h _ _

/-! ## Word atomics -/

theorem canonical_atomApply (h : Canonical s) (pl : Place) (k : AtomKind) (opd : W64) : Canonical (atomApply s pl k opd).1 := by
  have h1 := canonical_readWord h pl
  simp only [atomApply]
  split
  · exact canonical_writeWord h1 _ _
  · split
    · exact canonical_writeWord (s := ((readWord s pl).1.takeFree).1) h1 _ _
    · exact h1

theorem canonical_atomP64x4 (h : Canonical s) (pl : Place) (v : BitVec 256) : Canonical (atomP64x4 s pl v) := by
  have h1 := canonical_readWord h pl
  simp only [atomP64x4]
  split <;> exact canonical_writeWord h1 _ _

theorem canonical_atomSwap256 (h : Canonical s) (pl : Place) (w : Word288) : Canonical (atomSwap256 s pl w).1 :=
  canonical_writeWord (canonical_readWord h pl) _ _

end Sys2Proof.Machine
end

