-- ==== Sys2Proof/Laws/State.lean ====
section
/-! SUPPORT. The laws of the state's accessors: what each update of one unit leaves of every field of the state, and what a unit
reads as after an update of it. -/

set_option Elab.async false -- one theorem after another: the package as one text then needs few threads

namespace Sys2Proof.Machine
open Sys2Proof

/-! ## setTile -/

@[simp] theorem State.setTile_mem (s : State) (p : Nat) (t : Tile) : (s.setTile p t).mem = s.mem := rfl
@[simp] theorem State.setTile_chk (s : State) (p : Nat) (t : Tile) : (s.setTile p t).chk = s.chk := rfl
@[simp] theorem State.setTile_owner (s : State) (p : Nat) (t : Tile) : (s.setTile p t).owner = s.owner := rfl
@[simp] theorem State.setTile_ltiles (s : State) (p : Nat) (t : Tile) : (s.setTile p t).ltiles = s.ltiles := rfl
@[simp] theorem State.setTile_lmap (s : State) (p : Nat) (t : Tile) : (s.setTile p t).lmap = s.lmap := rfl
@[simp] theorem State.setTile_fuseLmap (s : State) (p : Nat) (t : Tile) : (s.setTile p t).fuseLmap = s.fuseLmap := rfl
@[simp] theorem State.setTile_engines (s : State) (p : Nat) (t : Tile) : (s.setTile p t).engines = s.engines := rfl
@[simp] theorem State.setTile_govs (s : State) (p : Nat) (t : Tile) : (s.setTile p t).govs = s.govs := rfl
@[simp] theorem State.setTile_nextRid (s : State) (p : Nat) (t : Tile) : (s.setTile p t).nextRid = s.nextRid := rfl
@[simp] theorem State.setTile_mrcs (s : State) (p : Nat) (t : Tile) : (s.setTile p t).mrcs = s.mrcs := rfl
@[simp] theorem State.setTile_grss (s : State) (p : Nat) (t : Tile) : (s.setTile p t).grss = s.grss := rfl
@[simp] theorem State.setTile_gslots (s : State) (p : Nat) (t : Tile) : (s.setTile p t).gslots = s.gslots := rfl
@[simp] theorem State.setTile_memb (s : State) (p : Nat) (t : Tile) : (s.setTile p t).memb = s.memb := rfl
@[simp] theorem State.setTile_hdr (s : State) (p : Nat) (t : Tile) : (s.setTile p t).hdr = s.hdr := rfl
@[simp] theorem State.setTile_hif (s : State) (p : Nat) (t : Tile) : (s.setTile p t).hif = s.hif := rfl
@[simp] theorem State.setTile_ctxs (s : State) (p : Nat) (t : Tile) : (s.setTile p t).ctxs = s.ctxs := rfl
@[simp] theorem State.setTile_seqs (s : State) (p : Nat) (t : Tile) : (s.setTile p t).seqs = s.seqs := rfl
@[simp] theorem State.setTile_seqOrder (s : State) (p : Nat) (t : Tile) : (s.setTile p t).seqOrder = s.seqOrder := rfl
@[simp] theorem State.setTile_millers (s : State) (p : Nat) (t : Tile) : (s.setTile p t).millers = s.millers := rfl
@[simp] theorem State.setTile_fan (s : State) (p : Nat) (t : Tile) : (s.setTile p t).fan = s.fan := rfl
@[simp] theorem State.setTile_mgt (s : State) (p : Nat) (t : Tile) : (s.setTile p t).mgt = s.mgt := rfl
@[simp] theorem State.setTile_i3c (s : State) (p : Nat) (t : Tile) : (s.setTile p t).i3c = s.i3c := rfl
@[simp] theorem State.setTile_boot (s : State) (p : Nat) (t : Tile) : (s.setTile p t).boot = s.boot := rfl
@[simp] theorem State.setTile_pins (s : State) (p : Nat) (t : Tile) : (s.setTile p t).pins = s.pins := rfl
@[simp] theorem State.setTile_crossings (s : State) (p : Nat) (t : Tile) : (s.setTile p t).crossings = s.crossings := rfl
@[simp] theorem State.setTile_free (s : State) (p : Nat) (t : Tile) : (s.setTile p t).free = s.free := rfl
@[simp] theorem State.setTile_pending (s : State) (p : Nat) (t : Tile) : (s.setTile p t).pending = s.pending := rfl

/-! ## modTile -/

@[simp] theorem State.modTile_mem (s : State) (p : Nat) (f : Tile → Tile) : (s.modTile p f).mem = s.mem := rfl
@[simp] theorem State.modTile_chk (s : State) (p : Nat) (f : Tile → Tile) : (s.modTile p f).chk = s.chk := rfl
@[simp] theorem State.modTile_owner (s : State) (p : Nat) (f : Tile → Tile) : (s.modTile p f).owner = s.owner := rfl
@[simp] theorem State.modTile_ltiles (s : State) (p : Nat) (f : Tile → Tile) : (s.modTile p f).ltiles = s.ltiles := rfl
@[simp] theorem State.modTile_lmap (s : State) (p : Nat) (f : Tile → Tile) : (s.modTile p f).lmap = s.lmap := rfl
@[simp] theorem State.modTile_fuseLmap (s : State) (p : Nat) (f : Tile → Tile) : (s.modTile p f).fuseLmap = s.fuseLmap := rfl
@[simp] theorem State.modTile_engines (s : State) (p : Nat) (f : Tile → Tile) : (s.modTile p f).engines = s.engines := rfl
@[simp] theorem State.modTile_govs (s : State) (p : Nat) (f : Tile → Tile) : (s.modTile p f).govs = s.govs := rfl
@[simp] theorem State.modTile_nextRid (s : State) (p : Nat) (f : Tile → Tile) : (s.modTile p f).nextRid = s.nextRid := rfl
@[simp] theorem State.modTile_mrcs (s : State) (p : Nat) (f : Tile → Tile) : (s.modTile p f).mrcs = s.mrcs := rfl
@[simp] theorem State.modTile_grss (s : State) (p : Nat) (f : Tile → Tile) : (s.modTile p f).grss = s.grss := rfl
@[simp] theorem State.modTile_gslots (s : State) (p : Nat) (f : Tile → Tile) : (s.modTile p f).gslots = s.gslots := rfl
@[simp] theorem State.modTile_memb (s : State) (p : Nat) (f : Tile → Tile) : (s.modTile p f).memb = s.memb := rfl
@[simp] theorem State.modTile_hdr (s : State) (p : Nat) (f : Tile → Tile) : (s.modTile p f).hdr = s.hdr := rfl
@[simp] theorem State.modTile_hif (s : State) (p : Nat) (f : Tile → Tile) : (s.modTile p f).hif = s.hif := rfl
@[simp] theorem State.modTile_ctxs (s : State) (p : Nat) (f : Tile → Tile) : (s.modTile p f).ctxs = s.ctxs := rfl
@[simp] theorem State.modTile_seqs (s : State) (p : Nat) (f : Tile → Tile) : (s.modTile p f).seqs = s.seqs := rfl
@[simp] theorem State.modTile_seqOrder (s : State) (p : Nat) (f : Tile → Tile) : (s.modTile p f).seqOrder = s.seqOrder := rfl
@[simp] theorem State.modTile_millers (s : State) (p : Nat) (f : Tile → Tile) : (s.modTile p f).millers = s.millers := rfl
@[simp] theorem State.modTile_fan (s : State) (p : Nat) (f : Tile → Tile) : (s.modTile p f).fan = s.fan := rfl
@[simp] theorem State.modTile_mgt (s : State) (p : Nat) (f : Tile → Tile) : (s.modTile p f).mgt = s.mgt := rfl
@[simp] theorem State.modTile_i3c (s : State) (p : Nat) (f : Tile → Tile) : (s.modTile p f).i3c = s.i3c := rfl
@[simp] theorem State.modTile_boot (s : State) (p : Nat) (f : Tile → Tile) : (s.modTile p f).boot = s.boot := rfl
@[simp] theorem State.modTile_pins (s : State) (p : Nat) (f : Tile → Tile) : (s.modTile p f).pins = s.pins := rfl
@[simp] theorem State.modTile_crossings (s : State) (p : Nat) (f : Tile → Tile) : (s.modTile p f).crossings = s.crossings := rfl
@[simp] theorem State.modTile_free (s : State) (p : Nat) (f : Tile → Tile) : (s.modTile p f).free = s.free := rfl
@[simp] theorem State.modTile_pending (s : State) (p : Nat) (f : Tile → Tile) : (s.modTile p f).pending = s.pending := rfl

/-! ## modLTile -/

@[simp] theorem State.modLTile_mem (s : State) (l : Nat) (f : LTile → LTile) : (s.modLTile l f).mem = s.mem := rfl
@[simp] theorem State.modLTile_chk (s : State) (l : Nat) (f : LTile → LTile) : (s.modLTile l f).chk = s.chk := rfl
@[simp] theorem State.modLTile_owner (s : State) (l : Nat) (f : LTile → LTile) : (s.modLTile l f).owner = s.owner := rfl
@[simp] theorem State.modLTile_tiles (s : State) (l : Nat) (f : LTile → LTile) : (s.modLTile l f).tiles = s.tiles := rfl
@[simp] theorem State.modLTile_lmap (s : State) (l : Nat) (f : LTile → LTile) : (s.modLTile l f).lmap = s.lmap := rfl
@[simp] theorem State.modLTile_fuseLmap (s : State) (l : Nat) (f : LTile → LTile) : (s.modLTile l f).fuseLmap = s.fuseLmap := rfl
@[simp] theorem State.modLTile_engines (s : State) (l : Nat) (f : LTile → LTile) : (s.modLTile l f).engines = s.engines := rfl
@[simp] theorem State.modLTile_govs (s : State) (l : Nat) (f : LTile → LTile) : (s.modLTile l f).govs = s.govs := rfl
@[simp] theorem State.modLTile_nextRid (s : State) (l : Nat) (f : LTile → LTile) : (s.modLTile l f).nextRid = s.nextRid := rfl
@[simp] theorem State.modLTile_mrcs (s : State) (l : Nat) (f : LTile → LTile) : (s.modLTile l f).mrcs = s.mrcs := rfl
@[simp] theorem State.modLTile_grss (s : State) (l : Nat) (f : LTile → LTile) : (s.modLTile l f).grss = s.grss := rfl
@[simp] theorem State.modLTile_gslots (s : State) (l : Nat) (f : LTile → LTile) : (s.modLTile l f).gslots = s.gslots := rfl
@[simp] theorem State.modLTile_memb (s : State) (l : Nat) (f : LTile → LTile) : (s.modLTile l f).memb = s.memb := rfl
@[simp] theorem State.modLTile_hdr (s : State) (l : Nat) (f : LTile → LTile) : (s.modLTile l f).hdr = s.hdr := rfl
@[simp] theorem State.modLTile_hif (s : State) (l : Nat) (f : LTile → LTile) : (s.modLTile l f).hif = s.hif := rfl
@[simp] theorem State.modLTile_ctxs (s : State) (l : Nat) (f : LTile → LTile) : (s.modLTile l f).ctxs = s.ctxs := rfl
@[simp] theorem State.modLTile_seqs (s : State) (l : Nat) (f : LTile → LTile) : (s.modLTile l f).seqs = s.seqs := rfl
@[simp] theorem State.modLTile_seqOrder (s : State) (l : Nat) (f : LTile → LTile) : (s.modLTile l f).seqOrder = s.seqOrder := rfl
@[simp] theorem State.modLTile_millers (s : State) (l : Nat) (f : LTile → LTile) : (s.modLTile l f).millers = s.millers := rfl
@[simp] theorem State.modLTile_fan (s : State) (l : Nat) (f : LTile → LTile) : (s.modLTile l f).fan = s.fan := rfl
@[simp] theorem State.modLTile_mgt (s : State) (l : Nat) (f : LTile → LTile) : (s.modLTile l f).mgt = s.mgt := rfl
@[simp] theorem State.modLTile_i3c (s : State) (l : Nat) (f : LTile → LTile) : (s.modLTile l f).i3c = s.i3c := rfl
@[simp] theorem State.modLTile_boot (s : State) (l : Nat) (f : LTile → LTile) : (s.modLTile l f).boot = s.boot := rfl
@[simp] theorem State.modLTile_pins (s : State) (l : Nat) (f : LTile → LTile) : (s.modLTile l f).pins = s.pins := rfl
@[simp] theorem State.modLTile_crossings (s : State) (l : Nat) (f : LTile → LTile) : (s.modLTile l f).crossings = s.crossings := rfl
@[simp] theorem State.modLTile_free (s : State) (l : Nat) (f : LTile → LTile) : (s.modLTile l f).free = s.free := rfl
@[simp] theorem State.modLTile_pending (s : State) (l : Nat) (f : LTile → LTile) : (s.modLTile l f).pending = s.pending := rfl

/-! ## setPhys -/

@[simp] theorem State.setPhys_mem (s : State) (l p : Nat) : (s.setPhys l p).mem = s.mem := rfl
@[simp] theorem State.setPhys_chk (s : State) (l p : Nat) : (s.setPhys l p).chk = s.chk := rfl
@[simp] theorem State.setPhys_owner (s : State) (l p : Nat) : (s.setPhys l p).owner = s.owner := rfl
@[simp] theorem State.setPhys_tiles (s : State) (l p : Nat) : (s.setPhys l p).tiles = s.tiles := rfl
@[simp] theorem State.setPhys_ltiles (s : State) (l p : Nat) : (s.setPhys l p).ltiles = s.ltiles := rfl
@[simp] theorem State.setPhys_fuseLmap (s : State) (l p : Nat) : (s.setPhys l p).fuseLmap = s.fuseLmap := rfl
@[simp] theorem State.setPhys_engines (s : State) (l p : Nat) : (s.setPhys l p).engines = s.engines := rfl
@[simp] theorem State.setPhys_govs (s : State) (l p : Nat) : (s.setPhys l p).govs = s.govs := rfl
@[simp] theorem State.setPhys_nextRid (s : State) (l p : Nat) : (s.setPhys l p).nextRid = s.nextRid := rfl
@[simp] theorem State.setPhys_mrcs (s : State) (l p : Nat) : (s.setPhys l p).mrcs = s.mrcs := rfl
@[simp] theorem State.setPhys_grss (s : State) (l p : Nat) : (s.setPhys l p).grss = s.grss := rfl
@[simp] theorem State.setPhys_gslots (s : State) (l p : Nat) : (s.setPhys l p).gslots = s.gslots := rfl
@[simp] theorem State.setPhys_memb (s : State) (l p : Nat) : (s.setPhys l p).memb = s.memb := rfl
@[simp] theorem State.setPhys_hdr (s : State) (l p : Nat) : (s.setPhys l p).hdr = s.hdr := rfl
@[simp] theorem State.setPhys_hif (s : State) (l p : Nat) : (s.setPhys l p).hif = s.hif := rfl
@[simp] theorem State.setPhys_ctxs (s : State) (l p : Nat) : (s.setPhys l p).ctxs = s.ctxs := rfl
@[simp] theorem State.setPhys_seqs (s : State) (l p : Nat) : (s.setPhys l p).seqs = s.seqs := rfl
@[simp] theorem State.setPhys_seqOrder (s : State) (l p : Nat) : (s.setPhys l p).seqOrder = s.seqOrder := rfl
@[simp] theorem State.setPhys_millers (s : State) (l p : Nat) : (s.setPhys l p).millers = s.millers := rfl
@[simp] theorem State.setPhys_fan (s : State) (l p : Nat) : (s.setPhys l p).fan = s.fan := rfl
@[simp] theorem State.setPhys_mgt (s : State) (l p : Nat) : (s.setPhys l p).mgt = s.mgt := rfl
@[simp] theorem State.setPhys_i3c (s : State) (l p : Nat) : (s.setPhys l p).i3c = s.i3c := rfl
@[simp] theorem State.setPhys_boot (s : State) (l p : Nat) : (s.setPhys l p).boot = s.boot := rfl
@[simp] theorem State.setPhys_pins (s : State) (l p : Nat) : (s.setPhys l p).pins = s.pins := rfl
@[simp] theorem State.setPhys_crossings (s : State) (l p : Nat) : (s.setPhys l p).crossings = s.crossings := rfl
@[simp] theorem State.setPhys_free (s : State) (l p : Nat) : (s.setPhys l p).free = s.free := rfl
@[simp] theorem State.setPhys_pending (s : State) (l p : Nat) : (s.setPhys l p).pending = s.pending := rfl

/-! ## modEngine -/

@[simp] theorem State.modEngine_mem (s : State) (e : Nat) (f : Engine → Engine) : (s.modEngine e f).mem = s.mem := rfl
@[simp] theorem State.modEngine_chk (s : State) (e : Nat) (f : Engine → Engine) : (s.modEngine e f).chk = s.chk := rfl
@[simp] theorem State.modEngine_owner (s : State) (e : Nat) (f : Engine → Engine) : (s.modEngine e f).owner = s.owner := rfl
@[simp] theorem State.modEngine_tiles (s : State) (e : Nat) (f : Engine → Engine) : (s.modEngine e f).tiles = s.tiles := rfl
@[simp] theorem State.modEngine_ltiles (s : State) (e : Nat) (f : Engine → Engine) : (s.modEngine e f).ltiles = s.ltiles := rfl
@[simp] theorem State.modEngine_lmap (s : State) (e : Nat) (f : Engine → Engine) : (s.modEngine e f).lmap = s.lmap := rfl
@[simp] theorem State.modEngine_fuseLmap (s : State) (e : Nat) (f : Engine → Engine) : (s.modEngine e f).fuseLmap = s.fuseLmap := rfl
@[simp] theorem State.modEngine_govs (s : State) (e : Nat) (f : Engine → Engine) : (s.modEngine e f).govs = s.govs := rfl
@[simp] theorem State.modEngine_nextRid (s : State) (e : Nat) (f : Engine → Engine) : (s.modEngine e f).nextRid = s.nextRid := rfl
@[simp] theorem State.modEngine_mrcs (s : State) (e : Nat) (f : Engine → Engine) : (s.modEngine e f).mrcs = s.mrcs := rfl
@[simp] theorem State.modEngine_grss (s : State) (e : Nat) (f : Engine → Engine) : (s.modEngine e f).grss = s.grss := rfl
@[simp] theorem State.modEngine_gslots (s : State) (e : Nat) (f : Engine → Engine) : (s.modEngine e f).gslots = s.gslots := rfl
@[simp] theorem State.modEngine_memb (s : State) (e : Nat) (f : Engine → Engine) : (s.modEngine e f).memb = s.memb := rfl
@[simp] theorem State.modEngine_hdr (s : State) (e : Nat) (f : Engine → Engine) : (s.modEngine e f).hdr = s.hdr := rfl
@[simp] theorem State.modEngine_hif (s : State) (e : Nat) (f : Engine → Engine) : (s.modEngine e f).hif = s.hif := rfl
@[simp] theorem State.modEngine_ctxs (s : State) (e : Nat) (f : Engine → Engine) : (s.modEngine e f).ctxs = s.ctxs := rfl
@[simp] theorem State.modEngine_seqs (s : State) (e : Nat) (f : Engine → Engine) : (s.modEngine e f).seqs = s.seqs := rfl
@[simp] theorem State.modEngine_seqOrder (s : State) (e : Nat) (f : Engine → Engine) : (s.modEngine e f).seqOrder = s.seqOrder := rfl
@[simp] theorem State.modEngine_millers (s : State) (e : Nat) (f : Engine → Engine) : (s.modEngine e f).millers = s.millers := rfl
@[simp] theorem State.modEngine_fan (s : State) (e : Nat) (f : Engine → Engine) : (s.modEngine e f).fan = s.fan := rfl
@[simp] theorem State.modEngine_mgt (s : State) (e : Nat) (f : Engine → Engine) : (s.modEngine e f).mgt = s.mgt := rfl
@[simp] theorem State.modEngine_i3c (s : State) (e : Nat) (f : Engine → Engine) : (s.modEngine e f).i3c = s.i3c := rfl
@[simp] theorem State.modEngine_boot (s : State) (e : Nat) (f : Engine → Engine) : (s.modEngine e f).boot = s.boot := rfl
@[simp] theorem State.modEngine_pins (s : State) (e : Nat) (f : Engine → Engine) : (s.modEngine e f).pins = s.pins := rfl
@[simp] theorem State.modEngine_crossings (s : State) (e : Nat) (f : Engine → Engine) : (s.modEngine e f).crossings = s.crossings := rfl
@[simp] theorem State.modEngine_free (s : State) (e : Nat) (f : Engine → Engine) : (s.modEngine e f).free = s.free := rfl
@[simp] theorem State.modEngine_pending (s : State) (e : Nat) (f : Engine → Engine) : (s.modEngine e f).pending = s.pending := rfl

/-! ## modGov -/

@[simp] theorem State.modGov_mem (s : State) (d : Nat) (f : Gov → Gov) : (s.modGov d f).mem = s.mem := rfl
@[simp] theorem State.modGov_chk (s : State) (d : Nat) (f : Gov → Gov) : (s.modGov d f).chk = s.chk := rfl
@[simp] theorem State.modGov_owner (s : State) (d : Nat) (f : Gov → Gov) : (s.modGov d f).owner = s.owner := rfl
@[simp] theorem State.modGov_tiles (s : State) (d : Nat) (f : Gov → Gov) : (s.modGov d f).tiles = s.tiles := rfl
@[simp] theorem State.modGov_ltiles (s : State) (d : Nat) (f : Gov → Gov) : (s.modGov d f).ltiles = s.ltiles := rfl
@[simp] theorem State.modGov_lmap (s : State) (d : Nat) (f : Gov → Gov) : (s.modGov d f).lmap = s.lmap := rfl
@[simp] theorem State.modGov_fuseLmap (s : State) (d : Nat) (f : Gov → Gov) : (s.modGov d f).fuseLmap = s.fuseLmap := rfl
@[simp] theorem State.modGov_engines (s : State) (d : Nat) (f : Gov → Gov) : (s.modGov d f).engines = s.engines := rfl
@[simp] theorem State.modGov_nextRid (s : State) (d : Nat) (f : Gov → Gov) : (s.modGov d f).nextRid = s.nextRid := rfl
@[simp] theorem State.modGov_mrcs (s : State) (d : Nat) (f : Gov → Gov) : (s.modGov d f).mrcs = s.mrcs := rfl
@[simp] theorem State.modGov_grss (s : State) (d : Nat) (f : Gov → Gov) : (s.modGov d f).grss = s.grss := rfl
@[simp] theorem State.modGov_gslots (s : State) (d : Nat) (f : Gov → Gov) : (s.modGov d f).gslots = s.gslots := rfl
@[simp] theorem State.modGov_memb (s : State) (d : Nat) (f : Gov → Gov) : (s.modGov d f).memb = s.memb := rfl
@[simp] theorem State.modGov_hdr (s : State) (d : Nat) (f : Gov → Gov) : (s.modGov d f).hdr = s.hdr := rfl
@[simp] theorem State.modGov_hif (s : State) (d : Nat) (f : Gov → Gov) : (s.modGov d f).hif = s.hif := rfl
@[simp] theorem State.modGov_ctxs (s : State) (d : Nat) (f : Gov → Gov) : (s.modGov d f).ctxs = s.ctxs := rfl
@[simp] theorem State.modGov_seqs (s : State) (d : Nat) (f : Gov → Gov) : (s.modGov d f).seqs = s.seqs := rfl
@[simp] theorem State.modGov_seqOrder (s : State) (d : Nat) (f : Gov → Gov) : (s.modGov d f).seqOrder = s.seqOrder := rfl
@[simp] theorem State.modGov_millers (s : State) (d : Nat) (f : Gov → Gov) : (s.modGov d f).millers = s.millers := rfl
@[simp] theorem State.modGov_fan (s : State) (d : Nat) (f : Gov → Gov) : (s.modGov d f).fan = s.fan := rfl
@[simp] theorem State.modGov_mgt (s : State) (d : Nat) (f : Gov → Gov) : (s.modGov d f).mgt = s.mgt := rfl
@[simp] theorem State.modGov_i3c (s : State) (d : Nat) (f : Gov → Gov) : (s.modGov d f).i3c = s.i3c := rfl
@[simp] theorem State.modGov_boot (s : State) (d : Nat) (f : Gov → Gov) : (s.modGov d f).boot = s.boot := rfl
@[simp] theorem State.modGov_pins (s : State) (d : Nat) (f : Gov → Gov) : (s.modGov d f).pins = s.pins := rfl
@[simp] theorem State.modGov_crossings (s : State) (d : Nat) (f : Gov → Gov) : (s.modGov d f).crossings = s.crossings := rfl
@[simp] theorem State.modGov_free (s : State) (d : Nat) (f : Gov → Gov) : (s.modGov d f).free = s.free := rfl
@[simp] theorem State.modGov_pending (s : State) (d : Nat) (f : Gov → Gov) : (s.modGov d f).pending = s.pending := rfl

/-! ## modMrc -/

@[simp] theorem State.modMrc_mem (s : State) (d : Nat) (f : Mrc → Mrc) : (s.modMrc d f).mem = s.mem := rfl
@[simp] theorem State.modMrc_chk (s : State) (d : Nat) (f : Mrc → Mrc) : (s.modMrc d f).chk = s.chk := rfl
@[simp] theorem State.modMrc_owner (s : State) (d : Nat) (f : Mrc → Mrc) : (s.modMrc d f).owner = s.owner := rfl
@[simp] theorem State.modMrc_tiles (s : State) (d : Nat) (f : Mrc → Mrc) : (s.modMrc d f).tiles = s.tiles := rfl
@[simp] theorem State.modMrc_ltiles (s : State) (d : Nat) (f : Mrc → Mrc) : (s.modMrc d f).ltiles = s.ltiles := rfl
@[simp] theorem State.modMrc_lmap (s : State) (d : Nat) (f : Mrc → Mrc) : (s.modMrc d f).lmap = s.lmap := rfl
@[simp] theorem State.modMrc_fuseLmap (s : State) (d : Nat) (f : Mrc → Mrc) : (s.modMrc d f).fuseLmap = s.fuseLmap := rfl
@[simp] theorem State.modMrc_engines (s : State) (d : Nat) (f : Mrc → Mrc) : (s.modMrc d f).engines = s.engines := rfl
@[simp] theorem State.modMrc_govs (s : State) (d : Nat) (f : Mrc → Mrc) : (s.modMrc d f).govs = s.govs := rfl
@[simp] theorem State.modMrc_nextRid (s : State) (d : Nat) (f : Mrc → Mrc) : (s.modMrc d f).nextRid = s.nextRid := rfl
@[simp] theorem State.modMrc_grss (s : State) (d : Nat) (f : Mrc → Mrc) : (s.modMrc d f).grss = s.grss := rfl
@[simp] theorem State.modMrc_gslots (s : State) (d : Nat) (f : Mrc → Mrc) : (s.modMrc d f).gslots = s.gslots := rfl
@[simp] theorem State.modMrc_memb (s : State) (d : Nat) (f : Mrc → Mrc) : (s.modMrc d f).memb = s.memb := rfl
@[simp] theorem State.modMrc_hdr (s : State) (d : Nat) (f : Mrc → Mrc) : (s.modMrc d f).hdr = s.hdr := rfl
@[simp] theorem State.modMrc_hif (s : State) (d : Nat) (f : Mrc → Mrc) : (s.modMrc d f).hif = s.hif := rfl
@[simp] theorem State.modMrc_ctxs (s : State) (d : Nat) (f : Mrc → Mrc) : (s.modMrc d f).ctxs = s.ctxs := rfl
@[simp] theorem State.modMrc_seqs (s : State) (d : Nat) (f : Mrc → Mrc) : (s.modMrc d f).seqs = s.seqs := rfl
@[simp] theorem State.modMrc_seqOrder (s : State) (d : Nat) (f : Mrc → Mrc) : (s.modMrc d f).seqOrder = s.seqOrder := rfl
@[simp] theorem State.modMrc_millers (s : State) (d : Nat) (f : Mrc → Mrc) : (s.modMrc d f).millers = s.millers := rfl
@[simp] theorem State.modMrc_fan (s : State) (d : Nat) (f : Mrc → Mrc) : (s.modMrc d f).fan = s.fan := rfl
@[simp] theorem State.modMrc_mgt (s : State) (d : Nat) (f : Mrc → Mrc) : (s.modMrc d f).mgt = s.mgt := rfl
@[simp] theorem State.modMrc_i3c (s : State) (d : Nat) (f : Mrc → Mrc) : (s.modMrc d f).i3c = s.i3c := rfl
@[simp] theorem State.modMrc_boot (s : State) (d : Nat) (f : Mrc → Mrc) : (s.modMrc d f).boot = s.boot := rfl
@[simp] theorem State.modMrc_pins (s : State) (d : Nat) (f : Mrc → Mrc) : (s.modMrc d f).pins = s.pins := rfl
@[simp] theorem State.modMrc_crossings (s : State) (d : Nat) (f : Mrc → Mrc) : (s.modMrc d f).crossings = s.crossings := rfl
@[simp] theorem State.modMrc_free (s : State) (d : Nat) (f : Mrc → Mrc) : (s.modMrc d f).free = s.free := rfl
@[simp] theorem State.modMrc_pending (s : State) (d : Nat) (f : Mrc → Mrc) : (s.modMrc d f).pending = s.pending := rfl

/-! ## modSlot -/

@[simp] theorem State.modSlot_mem (s : State) (k : Nat) (f : Slot → Slot) : (s.modSlot k f).mem = s.mem := rfl
@[simp] theorem State.modSlot_chk (s : State) (k : Nat) (f : Slot → Slot) : (s.modSlot k f).chk = s.chk := rfl
@[simp] theorem State.modSlot_owner (s : State) (k : Nat) (f : Slot → Slot) : (s.modSlot k f).owner = s.owner := rfl
@[simp] theorem State.modSlot_tiles (s : State) (k : Nat) (f : Slot → Slot) : (s.modSlot k f).tiles = s.tiles := rfl
@[simp] theorem State.modSlot_ltiles (s : State) (k : Nat) (f : Slot → Slot) : (s.modSlot k f).ltiles = s.ltiles := rfl
@[simp] theorem State.modSlot_lmap (s : State) (k : Nat) (f : Slot → Slot) : (s.modSlot k f).lmap = s.lmap := rfl
@[simp] theorem State.modSlot_fuseLmap (s : State) (k : Nat) (f : Slot → Slot) : (s.modSlot k f).fuseLmap = s.fuseLmap := rfl
@[simp] theorem State.modSlot_engines (s : State) (k : Nat) (f : Slot → Slot) : (s.modSlot k f).engines = s.engines := rfl
@[simp] theorem State.modSlot_govs (s : State) (k : Nat) (f : Slot → Slot) : (s.modSlot k f).govs = s.govs := rfl
@[simp] theorem State.modSlot_nextRid (s : State) (k : Nat) (f : Slot → Slot) : (s.modSlot k f).nextRid = s.nextRid := rfl
@[simp] theorem State.modSlot_grss (s : State) (k : Nat) (f : Slot → Slot) : (s.modSlot k f).grss = s.grss := rfl
@[simp] theorem State.modSlot_gslots (s : State) (k : Nat) (f : Slot → Slot) : (s.modSlot k f).gslots = s.gslots := rfl
@[simp] theorem State.modSlot_memb (s : State) (k : Nat) (f : Slot → Slot) : (s.modSlot k f).memb = s.memb := rfl
@[simp] theorem State.modSlot_hdr (s : State) (k : Nat) (f : Slot → Slot) : (s.modSlot k f).hdr = s.hdr := rfl
@[simp] theorem State.modSlot_hif (s : State) (k : Nat) (f : Slot → Slot) : (s.modSlot k f).hif = s.hif := rfl
@[simp] theorem State.modSlot_ctxs (s : State) (k : Nat) (f : Slot → Slot) : (s.modSlot k f).ctxs = s.ctxs := rfl
@[simp] theorem State.modSlot_seqs (s : State) (k : Nat) (f : Slot → Slot) : (s.modSlot k f).seqs = s.seqs := rfl
@[simp] theorem State.modSlot_seqOrder (s : State) (k : Nat) (f : Slot → Slot) : (s.modSlot k f).seqOrder = s.seqOrder := rfl
@[simp] theorem State.modSlot_millers (s : State) (k : Nat) (f : Slot → Slot) : (s.modSlot k f).millers = s.millers := rfl
@[simp] theorem State.modSlot_fan (s : State) (k : Nat) (f : Slot → Slot) : (s.modSlot k f).fan = s.fan := rfl
@[simp] theorem State.modSlot_mgt (s : State) (k : Nat) (f : Slot → Slot) : (s.modSlot k f).mgt = s.mgt := rfl
@[simp] theorem State.modSlot_i3c (s : State) (k : Nat) (f : Slot → Slot) : (s.modSlot k f).i3c = s.i3c := rfl
@[simp] theorem State.modSlot_boot (s : State) (k : Nat) (f : Slot → Slot) : (s.modSlot k f).boot = s.boot := rfl
@[simp] theorem State.modSlot_pins (s : State) (k : Nat) (f : Slot → Slot) : (s.modSlot k f).pins = s.pins := rfl
@[simp] theorem State.modSlot_crossings (s : State) (k : Nat) (f : Slot → Slot) : (s.modSlot k f).crossings = s.crossings := rfl
@[simp] theorem State.modSlot_free (s : State) (k : Nat) (f : Slot → Slot) : (s.modSlot k f).free = s.free := rfl
@[simp] theorem State.modSlot_pending (s : State) (k : Nat) (f : Slot → Slot) : (s.modSlot k f).pending = s.pending := rfl

/-! ## modGrs -/

@[simp] theorem State.modGrs_mem (s : State) (d : Nat) (f : Grs → Grs) : (s.modGrs d f).mem = s.mem := rfl
@[simp] theorem State.modGrs_chk (s : State) (d : Nat) (f : Grs → Grs) : (s.modGrs d f).chk = s.chk := rfl
@[simp] theorem State.modGrs_owner (s : State) (d : Nat) (f : Grs → Grs) : (s.modGrs d f).owner = s.owner := rfl
@[simp] theorem State.modGrs_tiles (s : State) (d : Nat) (f : Grs → Grs) : (s.modGrs d f).tiles = s.tiles := rfl
@[simp] theorem State.modGrs_ltiles (s : State) (d : Nat) (f : Grs → Grs) : (s.modGrs d f).ltiles = s.ltiles := rfl
@[simp] theorem State.modGrs_lmap (s : State) (d : Nat) (f : Grs → Grs) : (s.modGrs d f).lmap = s.lmap := rfl
@[simp] theorem State.modGrs_fuseLmap (s : State) (d : Nat) (f : Grs → Grs) : (s.modGrs d f).fuseLmap = s.fuseLmap := rfl
@[simp] theorem State.modGrs_engines (s : State) (d : Nat) (f : Grs → Grs) : (s.modGrs d f).engines = s.engines := rfl
@[simp] theorem State.modGrs_govs (s : State) (d : Nat) (f : Grs → Grs) : (s.modGrs d f).govs = s.govs := rfl
@[simp] theorem State.modGrs_nextRid (s : State) (d : Nat) (f : Grs → Grs) : (s.modGrs d f).nextRid = s.nextRid := rfl
@[simp] theorem State.modGrs_mrcs (s : State) (d : Nat) (f : Grs → Grs) : (s.modGrs d f).mrcs = s.mrcs := rfl
@[simp] theorem State.modGrs_gslots (s : State) (d : Nat) (f : Grs → Grs) : (s.modGrs d f).gslots = s.gslots := rfl
@[simp] theorem State.modGrs_memb (s : State) (d : Nat) (f : Grs → Grs) : (s.modGrs d f).memb = s.memb := rfl
@[simp] theorem State.modGrs_hdr (s : State) (d : Nat) (f : Grs → Grs) : (s.modGrs d f).hdr = s.hdr := rfl
@[simp] theorem State.modGrs_hif (s : State) (d : Nat) (f : Grs → Grs) : (s.modGrs d f).hif = s.hif := rfl
@[simp] theorem State.modGrs_ctxs (s : State) (d : Nat) (f : Grs → Grs) : (s.modGrs d f).ctxs = s.ctxs := rfl
@[simp] theorem State.modGrs_seqs (s : State) (d : Nat) (f : Grs → Grs) : (s.modGrs d f).seqs = s.seqs := rfl
@[simp] theorem State.modGrs_seqOrder (s : State) (d : Nat) (f : Grs → Grs) : (s.modGrs d f).seqOrder = s.seqOrder := rfl
@[simp] theorem State.modGrs_millers (s : State) (d : Nat) (f : Grs → Grs) : (s.modGrs d f).millers = s.millers := rfl
@[simp] theorem State.modGrs_fan (s : State) (d : Nat) (f : Grs → Grs) : (s.modGrs d f).fan = s.fan := rfl
@[simp] theorem State.modGrs_mgt (s : State) (d : Nat) (f : Grs → Grs) : (s.modGrs d f).mgt = s.mgt := rfl
@[simp] theorem State.modGrs_i3c (s : State) (d : Nat) (f : Grs → Grs) : (s.modGrs d f).i3c = s.i3c := rfl
@[simp] theorem State.modGrs_boot (s : State) (d : Nat) (f : Grs → Grs) : (s.modGrs d f).boot = s.boot := rfl
@[simp] theorem State.modGrs_pins (s : State) (d : Nat) (f : Grs → Grs) : (s.modGrs d f).pins = s.pins := rfl
@[simp] theorem State.modGrs_crossings (s : State) (d : Nat) (f : Grs → Grs) : (s.modGrs d f).crossings = s.crossings := rfl
@[simp] theorem State.modGrs_free (s : State) (d : Nat) (f : Grs → Grs) : (s.modGrs d f).free = s.free := rfl
@[simp] theorem State.modGrs_pending (s : State) (d : Nat) (f : Grs → Grs) : (s.modGrs d f).pending = s.pending := rfl

/-! ## modLane -/

@[simp] theorem State.modLane_mem (s : State) (n : Nat) (f : Lane → Lane) : (s.modLane n f).mem = s.mem := rfl
@[simp] theorem State.modLane_chk (s : State) (n : Nat) (f : Lane → Lane) : (s.modLane n f).chk = s.chk := rfl
@[simp] theorem State.modLane_owner (s : State) (n : Nat) (f : Lane → Lane) : (s.modLane n f).owner = s.owner := rfl
@[simp] theorem State.modLane_tiles (s : State) (n : Nat) (f : Lane → Lane) : (s.modLane n f).tiles = s.tiles := rfl
@[simp] theorem State.modLane_ltiles (s : State) (n : Nat) (f : Lane → Lane) : (s.modLane n f).ltiles = s.ltiles := rfl
@[simp] theorem State.modLane_lmap (s : State) (n : Nat) (f : Lane → Lane) : (s.modLane n f).lmap = s.lmap := rfl
@[simp] theorem State.modLane_fuseLmap (s : State) (n : Nat) (f : Lane → Lane) : (s.modLane n f).fuseLmap = s.fuseLmap := rfl
@[simp] theorem State.modLane_engines (s : State) (n : Nat) (f : Lane → Lane) : (s.modLane n f).engines = s.engines := rfl
@[simp] theorem State.modLane_govs (s : State) (n : Nat) (f : Lane → Lane) : (s.modLane n f).govs = s.govs := rfl
@[simp] theorem State.modLane_nextRid (s : State) (n : Nat) (f : Lane → Lane) : (s.modLane n f).nextRid = s.nextRid := rfl
@[simp] theorem State.modLane_mrcs (s : State) (n : Nat) (f : Lane → Lane) : (s.modLane n f).mrcs = s.mrcs := rfl
@[simp] theorem State.modLane_gslots (s : State) (n : Nat) (f : Lane → Lane) : (s.modLane n f).gslots = s.gslots := rfl
@[simp] theorem State.modLane_memb (s : State) (n : Nat) (f : Lane → Lane) : (s.modLane n f).memb = s.memb := rfl
@[simp] theorem State.modLane_hdr (s : State) (n : Nat) (f : Lane → Lane) : (s.modLane n f).hdr = s.hdr := rfl
@[simp] theorem State.modLane_hif (s : State) (n : Nat) (f : Lane → Lane) : (s.modLane n f).hif = s.hif := rfl
@[simp] theorem State.modLane_ctxs (s : State) (n : Nat) (f : Lane → Lane) : (s.modLane n f).ctxs = s.ctxs := rfl
@[simp] theorem State.modLane_seqs (s : State) (n : Nat) (f : Lane → Lane) : (s.modLane n f).seqs = s.seqs := rfl
@[simp] theorem State.modLane_seqOrder (s : State) (n : Nat) (f : Lane → Lane) : (s.modLane n f).seqOrder = s.seqOrder := rfl
@[simp] theorem State.modLane_millers (s : State) (n : Nat) (f : Lane → Lane) : (s.modLane n f).millers = s.millers := rfl
@[simp] theorem State.modLane_fan (s : State) (n : Nat) (f : Lane → Lane) : (s.modLane n f).fan = s.fan := rfl
@[simp] theorem State.modLane_mgt (s : State) (n : Nat) (f : Lane → Lane) : (s.modLane n f).mgt = s.mgt := rfl
@[simp] theorem State.modLane_i3c (s : State) (n : Nat) (f : Lane → Lane) : (s.modLane n f).i3c = s.i3c := rfl
@[simp] theorem State.modLane_boot (s : State) (n : Nat) (f : Lane → Lane) : (s.modLane n f).boot = s.boot := rfl
@[simp] theorem State.modLane_pins (s : State) (n : Nat) (f : Lane → Lane) : (s.modLane n f).pins = s.pins := rfl
@[simp] theorem State.modLane_crossings (s : State) (n : Nat) (f : Lane → Lane) : (s.modLane n f).crossings = s.crossings := rfl
@[simp] theorem State.modLane_free (s : State) (n : Nat) (f : Lane → Lane) : (s.modLane n f).free = s.free := rfl
@[simp] theorem State.modLane_pending (s : State) (n : Nat) (f : Lane → Lane) : (s.modLane n f).pending = s.pending := rfl

/-! ## modGSlot -/

@[simp] theorem State.modGSlot_mem (s : State) (i : Nat) (f : GSlot → GSlot) : (s.modGSlot i f).mem = s.mem := rfl
@[simp] theorem State.modGSlot_chk (s : State) (i : Nat) (f : GSlot → GSlot) : (s.modGSlot i f).chk = s.chk := rfl
@[simp] theorem State.modGSlot_owner (s : State) (i : Nat) (f : GSlot → GSlot) : (s.modGSlot i f).owner = s.owner := rfl
@[simp] theorem State.modGSlot_tiles (s : State) (i : Nat) (f : GSlot → GSlot) : (s.modGSlot i f).tiles = s.tiles := rfl
@[simp] theorem State.modGSlot_ltiles (s : State) (i : Nat) (f : GSlot → GSlot) : (s.modGSlot i f).ltiles = s.ltiles := rfl
@[simp] theorem State.modGSlot_lmap (s : State) (i : Nat) (f : GSlot → GSlot) : (s.modGSlot i f).lmap = s.lmap := rfl
@[simp] theorem State.modGSlot_fuseLmap (s : State) (i : Nat) (f : GSlot → GSlot) : (s.modGSlot i f).fuseLmap = s.fuseLmap := rfl
@[simp] theorem State.modGSlot_engines (s : State) (i : Nat) (f : GSlot → GSlot) : (s.modGSlot i f).engines = s.engines := rfl
@[simp] theorem State.modGSlot_govs (s : State) (i : Nat) (f : GSlot → GSlot) : (s.modGSlot i f).govs = s.govs := rfl
@[simp] theorem State.modGSlot_nextRid (s : State) (i : Nat) (f : GSlot → GSlot) : (s.modGSlot i f).nextRid = s.nextRid := rfl
@[simp] theorem State.modGSlot_mrcs (s : State) (i : Nat) (f : GSlot → GSlot) : (s.modGSlot i f).mrcs = s.mrcs := rfl
@[simp] theorem State.modGSlot_grss (s : State) (i : Nat) (f : GSlot → GSlot) : (s.modGSlot i f).grss = s.grss := rfl
@[simp] theorem State.modGSlot_memb (s : State) (i : Nat) (f : GSlot → GSlot) : (s.modGSlot i f).memb = s.memb := rfl
@[simp] theorem State.modGSlot_hdr (s : State) (i : Nat) (f : GSlot → GSlot) : (s.modGSlot i f).hdr = s.hdr := rfl
@[simp] theorem State.modGSlot_hif (s : State) (i : Nat) (f : GSlot → GSlot) : (s.modGSlot i f).hif = s.hif := rfl
@[simp] theorem State.modGSlot_ctxs (s : State) (i : Nat) (f : GSlot → GSlot) : (s.modGSlot i f).ctxs = s.ctxs := rfl
@[simp] theorem State.modGSlot_seqs (s : State) (i : Nat) (f : GSlot → GSlot) : (s.modGSlot i f).seqs = s.seqs := rfl
@[simp] theorem State.modGSlot_seqOrder (s : State) (i : Nat) (f : GSlot → GSlot) : (s.modGSlot i f).seqOrder = s.seqOrder := rfl
@[simp] theorem State.modGSlot_millers (s : State) (i : Nat) (f : GSlot → GSlot) : (s.modGSlot i f).millers = s.millers := rfl
@[simp] theorem State.modGSlot_fan (s : State) (i : Nat) (f : GSlot → GSlot) : (s.modGSlot i f).fan = s.fan := rfl
@[simp] theorem State.modGSlot_mgt (s : State) (i : Nat) (f : GSlot → GSlot) : (s.modGSlot i f).mgt = s.mgt := rfl
@[simp] theorem State.modGSlot_i3c (s : State) (i : Nat) (f : GSlot → GSlot) : (s.modGSlot i f).i3c = s.i3c := rfl
@[simp] theorem State.modGSlot_boot (s : State) (i : Nat) (f : GSlot → GSlot) : (s.modGSlot i f).boot = s.boot := rfl
@[simp] theorem State.modGSlot_pins (s : State) (i : Nat) (f : GSlot → GSlot) : (s.modGSlot i f).pins = s.pins := rfl
@[simp] theorem State.modGSlot_crossings (s : State) (i : Nat) (f : GSlot → GSlot) : (s.modGSlot i f).crossings = s.crossings := rfl
@[simp] theorem State.modGSlot_free (s : State) (i : Nat) (f : GSlot → GSlot) : (s.modGSlot i f).free = s.free := rfl
@[simp] theorem State.modGSlot_pending (s : State) (i : Nat) (f : GSlot → GSlot) : (s.modGSlot i f).pending = s.pending := rfl

/-! ## modRing -/

@[simp] theorem State.modRing_mem (s : State) (r : Nat) (f : Ring → Ring) : (s.modRing r f).mem = s.mem := rfl
@[simp] theorem State.modRing_chk (s : State) (r : Nat) (f : Ring → Ring) : (s.modRing r f).chk = s.chk := rfl
@[simp] theorem State.modRing_owner (s : State) (r : Nat) (f : Ring → Ring) : (s.modRing r f).owner = s.owner := rfl
@[simp] theorem State.modRing_tiles (s : State) (r : Nat) (f : Ring → Ring) : (s.modRing r f).tiles = s.tiles := rfl
@[simp] theorem State.modRing_ltiles (s : State) (r : Nat) (f : Ring → Ring) : (s.modRing r f).ltiles = s.ltiles := rfl
@[simp] theorem State.modRing_lmap (s : State) (r : Nat) (f : Ring → Ring) : (s.modRing r f).lmap = s.lmap := rfl
@[simp] theorem State.modRing_fuseLmap (s : State) (r : Nat) (f : Ring → Ring) : (s.modRing r f).fuseLmap = s.fuseLmap := rfl
@[simp] theorem State.modRing_engines (s : State) (r : Nat) (f : Ring → Ring) : (s.modRing r f).engines = s.engines := rfl
@[simp] theorem State.modRing_govs (s : State) (r : Nat) (f : Ring → Ring) : (s.modRing r f).govs = s.govs := rfl
@[simp] theorem State.modRing_nextRid (s : State) (r : Nat) (f : Ring → Ring) : (s.modRing r f).nextRid = s.nextRid := rfl
@[simp] theorem State.modRing_mrcs (s : State) (r : Nat) (f : Ring → Ring) : (s.modRing r f).mrcs = s.mrcs := rfl
@[simp] theorem State.modRing_grss (s : State) (r : Nat) (f : Ring → Ring) : (s.modRing r f).grss = s.grss := rfl
@[simp] theorem State.modRing_gslots (s : State) (r : Nat) (f : Ring → Ring) : (s.modRing r f).gslots = s.gslots := rfl
@[simp] theorem State.modRing_memb (s : State) (r : Nat) (f : Ring → Ring) : (s.modRing r f).memb = s.memb := rfl
@[simp] theorem State.modRing_hdr (s : State) (r : Nat) (f : Ring → Ring) : (s.modRing r f).hdr = s.hdr := rfl
@[simp] theorem State.modRing_ctxs (s : State) (r : Nat) (f : Ring → Ring) : (s.modRing r f).ctxs = s.ctxs := rfl
@[simp] theorem State.modRing_seqs (s : State) (r : Nat) (f : Ring → Ring) : (s.modRing r f).seqs = s.seqs := rfl
@[simp] theorem State.modRing_seqOrder (s : State) (r : Nat) (f : Ring → Ring) : (s.modRing r f).seqOrder = s.seqOrder := rfl
@[simp] theorem State.modRing_millers (s : State) (r : Nat) (f : Ring → Ring) : (s.modRing r f).millers = s.millers := rfl
@[simp] theorem State.modRing_fan (s : State) (r : Nat) (f : Ring → Ring) : (s.modRing r f).fan = s.fan := rfl
@[simp] theorem State.modRing_mgt (s : State) (r : Nat) (f : Ring → Ring) : (s.modRing r f).mgt = s.mgt := rfl
@[simp] theorem State.modRing_i3c (s : State) (r : Nat) (f : Ring → Ring) : (s.modRing r f).i3c = s.i3c := rfl
@[simp] theorem State.modRing_boot (s : State) (r : Nat) (f : Ring → Ring) : (s.modRing r f).boot = s.boot := rfl
@[simp] theorem State.modRing_pins (s : State) (r : Nat) (f : Ring → Ring) : (s.modRing r f).pins = s.pins := rfl
@[simp] theorem State.modRing_crossings (s : State) (r : Nat) (f : Ring → Ring) : (s.modRing r f).crossings = s.crossings := rfl
@[simp] theorem State.modRing_free (s : State) (r : Nat) (f : Ring → Ring) : (s.modRing r f).free = s.free := rfl
@[simp] theorem State.modRing_pending (s : State) (r : Nat) (f : Ring → Ring) : (s.modRing r f).pending = s.pending := rfl

/-! ## modFn -/

@[simp] theorem State.modFn_mem (s : State) (i : Nat) (f : Fn → Fn) : (s.modFn i f).mem = s.mem := rfl
@[simp] theorem State.modFn_chk (s : State) (i : Nat) (f : Fn → Fn) : (s.modFn i f).chk = s.chk := rfl
@[simp] theorem State.modFn_owner (s : State) (i : Nat) (f : Fn → Fn) : (s.modFn i f).owner = s.owner := rfl
@[simp] theorem State.modFn_tiles (s : State) (i : Nat) (f : Fn → Fn) : (s.modFn i f).tiles = s.tiles := rfl
@[simp] theorem State.modFn_ltiles (s : State) (i : Nat) (f : Fn → Fn) : (s.modFn i f).ltiles = s.ltiles := rfl
@[simp] theorem State.modFn_lmap (s : State) (i : Nat) (f : Fn → Fn) : (s.modFn i f).lmap = s.lmap := rfl
@[simp] theorem State.modFn_fuseLmap (s : State) (i : Nat) (f : Fn → Fn) : (s.modFn i f).fuseLmap = s.fuseLmap := rfl
@[simp] theorem State.modFn_engines (s : State) (i : Nat) (f : Fn → Fn) : (s.modFn i f).engines = s.engines := rfl
@[simp] theorem State.modFn_govs (s : State) (i : Nat) (f : Fn → Fn) : (s.modFn i f).govs = s.govs := rfl
@[simp] theorem State.modFn_nextRid (s : State) (i : Nat) (f : Fn → Fn) : (s.modFn i f).nextRid = s.nextRid := rfl
@[simp] theorem State.modFn_mrcs (s : State) (i : Nat) (f : Fn → Fn) : (s.modFn i f).mrcs = s.mrcs := rfl
@[simp] theorem State.modFn_grss (s : State) (i : Nat) (f : Fn → Fn) : (s.modFn i f).grss = s.grss := rfl
@[simp] theorem State.modFn_gslots (s : State) (i : Nat) (f : Fn → Fn) : (s.modFn i f).gslots = s.gslots := rfl
@[simp] theorem State.modFn_memb (s : State) (i : Nat) (f : Fn → Fn) : (s.modFn i f).memb = s.memb := rfl
@[simp] theorem State.modFn_hdr (s : State) (i : Nat) (f : Fn → Fn) : (s.modFn i f).hdr = s.hdr := rfl
@[simp] theorem State.modFn_ctxs (s : State) (i : Nat) (f : Fn → Fn) : (s.modFn i f).ctxs = s.ctxs := rfl
@[simp] theorem State.modFn_seqs (s : State) (i : Nat) (f : Fn → Fn) : (s.modFn i f).seqs = s.seqs := rfl
@[simp] theorem State.modFn_seqOrder (s : State) (i : Nat) (f : Fn → Fn) : (s.modFn i f).seqOrder = s.seqOrder := rfl
@[simp] theorem State.modFn_millers (s : State) (i : Nat) (f : Fn → Fn) : (s.modFn i f).millers = s.millers := rfl
@[simp] theorem State.modFn_fan (s : State) (i : Nat) (f : Fn → Fn) : (s.modFn i f).fan = s.fan := rfl
@[simp] theorem State.modFn_mgt (s : State) (i : Nat) (f : Fn → Fn) : (s.modFn i f).mgt = s.mgt := rfl
@[simp] theorem State.modFn_i3c (s : State) (i : Nat) (f : Fn → Fn) : (s.modFn i f).i3c = s.i3c := rfl
@[simp] theorem State.modFn_boot (s : State) (i : Nat) (f : Fn → Fn) : (s.modFn i f).boot = s.boot := rfl
@[simp] theorem State.modFn_pins (s : State) (i : Nat) (f : Fn → Fn) : (s.modFn i f).pins = s.pins := rfl
@[simp] theorem State.modFn_crossings (s : State) (i : Nat) (f : Fn → Fn) : (s.modFn i f).crossings = s.crossings := rfl
@[simp] theorem State.modFn_free (s : State) (i : Nat) (f : Fn → Fn) : (s.modFn i f).free = s.free := rfl
@[simp] theorem State.modFn_pending (s : State) (i : Nat) (f : Fn → Fn) : (s.modFn i f).pending = s.pending := rfl

/-! ## modCtx -/

@[simp] theorem State.modCtx_mem (s : State) (c : Nat) (f : Ctx → Ctx) : (s.modCtx c f).mem = s.mem := rfl
@[simp] theorem State.modCtx_chk (s : State) (c : Nat) (f : Ctx → Ctx) : (s.modCtx c f).chk = s.chk := rfl
@[simp] theorem State.modCtx_owner (s : State) (c : Nat) (f : Ctx → Ctx) : (s.modCtx c f).owner = s.owner := rfl
@[simp] theorem State.modCtx_tiles (s : State) (c : Nat) (f : Ctx → Ctx) : (s.modCtx c f).tiles = s.tiles := rfl
@[simp] theorem State.modCtx_ltiles (s : State) (c : Nat) (f : Ctx → Ctx) : (s.modCtx c f).ltiles = s.ltiles := rfl
@[simp] theorem State.modCtx_lmap (s : State) (c : Nat) (f : Ctx → Ctx) : (s.modCtx c f).lmap = s.lmap := rfl
@[simp] theorem State.modCtx_fuseLmap (s : State) (c : Nat) (f : Ctx → Ctx) : (s.modCtx c f).fuseLmap = s.fuseLmap := rfl
@[simp] theorem State.modCtx_engines (s : State) (c : Nat) (f : Ctx → Ctx) : (s.modCtx c f).engines = s.engines := rfl
@[simp] theorem State.modCtx_govs (s : State) (c : Nat) (f : Ctx → Ctx) : (s.modCtx c f).govs = s.govs := rfl
@[simp] theorem State.modCtx_nextRid (s : State) (c : Nat) (f : Ctx → Ctx) : (s.modCtx c f).nextRid = s.nextRid := rfl
@[simp] theorem State.modCtx_mrcs (s : State) (c : Nat) (f : Ctx → Ctx) : (s.modCtx c f).mrcs = s.mrcs := rfl
@[simp] theorem State.modCtx_grss (s : State) (c : Nat) (f : Ctx → Ctx) : (s.modCtx c f).grss = s.grss := rfl
@[simp] theorem State.modCtx_gslots (s : State) (c : Nat) (f : Ctx → Ctx) : (s.modCtx c f).gslots = s.gslots := rfl
@[simp] theorem State.modCtx_memb (s : State) (c : Nat) (f : Ctx → Ctx) : (s.modCtx c f).memb = s.memb := rfl
@[simp] theorem State.modCtx_hdr (s : State) (c : Nat) (f : Ctx → Ctx) : (s.modCtx c f).hdr = s.hdr := rfl
@[simp] theorem State.modCtx_hif (s : State) (c : Nat) (f : Ctx → Ctx) : (s.modCtx c f).hif = s.hif := rfl
@[simp] theorem State.modCtx_seqs (s : State) (c : Nat) (f : Ctx → Ctx) : (s.modCtx c f).seqs = s.seqs := rfl
@[simp] theorem State.modCtx_seqOrder (s : State) (c : Nat) (f : Ctx → Ctx) : (s.modCtx c f).seqOrder = s.seqOrder := rfl
@[simp] theorem State.modCtx_millers (s : State) (c : Nat) (f : Ctx → Ctx) : (s.modCtx c f).millers = s.millers := rfl
@[simp] theorem State.modCtx_fan (s : State) (c : Nat) (f : Ctx → Ctx) : (s.modCtx c f).fan = s.fan := rfl
@[simp] theorem State.modCtx_mgt (s : State) (c : Nat) (f : Ctx → Ctx) : (s.modCtx c f).mgt = s.mgt := rfl
@[simp] theorem State.modCtx_i3c (s : State) (c : Nat) (f : Ctx → Ctx) : (s.modCtx c f).i3c = s.i3c := rfl
@[simp] theorem State.modCtx_boot (s : State) (c : Nat) (f : Ctx → Ctx) : (s.modCtx c f).boot = s.boot := rfl
@[simp] theorem State.modCtx_pins (s : State) (c : Nat) (f : Ctx → Ctx) : (s.modCtx c f).pins = s.pins := rfl
@[simp] theorem State.modCtx_crossings (s : State) (c : Nat) (f : Ctx → Ctx) : (s.modCtx c f).crossings = s.crossings := rfl
@[simp] theorem State.modCtx_free (s : State) (c : Nat) (f : Ctx → Ctx) : (s.modCtx c f).free = s.free := rfl
@[simp] theorem State.modCtx_pending (s : State) (c : Nat) (f : Ctx → Ctx) : (s.modCtx c f).pending = s.pending := rfl

/-! ## modSeqEnt -/

@[simp] theorem State.modSeqEnt_mem (s : State) (q : Nat) (f : SeqEnt → SeqEnt) : (s.modSeqEnt q f).mem = s.mem := rfl
@[simp] theorem State.modSeqEnt_chk (s : State) (q : Nat) (f : SeqEnt → SeqEnt) : (s.modSeqEnt q f).chk = s.chk := rfl
@[simp] theorem State.modSeqEnt_owner (s : State) (q : Nat) (f : SeqEnt → SeqEnt) : (s.modSeqEnt q f).owner = s.owner := rfl
@[simp] theorem State.modSeqEnt_tiles (s : State) (q : Nat) (f : SeqEnt → SeqEnt) : (s.modSeqEnt q f).tiles = s.tiles := rfl
@[simp] theorem State.modSeqEnt_ltiles (s : State) (q : Nat) (f : SeqEnt → SeqEnt) : (s.modSeqEnt q f).ltiles = s.ltiles := rfl
@[simp] theorem State.modSeqEnt_lmap (s : State) (q : Nat) (f : SeqEnt → SeqEnt) : (s.modSeqEnt q f).lmap = s.lmap := rfl
@[simp] theorem State.modSeqEnt_fuseLmap (s : State) (q : Nat) (f : SeqEnt → SeqEnt) : (s.modSeqEnt q f).fuseLmap = s.fuseLmap := rfl
@[simp] theorem State.modSeqEnt_engines (s : State) (q : Nat) (f : SeqEnt → SeqEnt) : (s.modSeqEnt q f).engines = s.engines := rfl
@[simp] theorem State.modSeqEnt_govs (s : State) (q : Nat) (f : SeqEnt → SeqEnt) : (s.modSeqEnt q f).govs = s.govs := rfl
@[simp] theorem State.modSeqEnt_nextRid (s : State) (q : Nat) (f : SeqEnt → SeqEnt) : (s.modSeqEnt q f).nextRid = s.nextRid := rfl
@[simp] theorem State.modSeqEnt_mrcs (s : State) (q : Nat) (f : SeqEnt → SeqEnt) : (s.modSeqEnt q f).mrcs = s.mrcs := rfl
@[simp] theorem State.modSeqEnt_grss (s : State) (q : Nat) (f : SeqEnt → SeqEnt) : (s.modSeqEnt q f).grss = s.grss := rfl
@[simp] theorem State.modSeqEnt_gslots (s : State) (q : Nat) (f : SeqEnt → SeqEnt) : (s.modSeqEnt q f).gslots = s.gslots := rfl
@[simp] theorem State.modSeqEnt_memb (s : State) (q : Nat) (f : SeqEnt → SeqEnt) : (s.modSeqEnt q f).memb = s.memb := rfl
@[simp] theorem State.modSeqEnt_hdr (s : State) (q : Nat) (f : SeqEnt → SeqEnt) : (s.modSeqEnt q f).hdr = s.hdr := rfl
@[simp] theorem State.modSeqEnt_hif (s : State) (q : Nat) (f : SeqEnt → SeqEnt) : (s.modSeqEnt q f).hif = s.hif := rfl
@[simp] theorem State.modSeqEnt_ctxs (s : State) (q : Nat) (f : SeqEnt → SeqEnt) : (s.modSeqEnt q f).ctxs = s.ctxs := rfl
@[simp] theorem State.modSeqEnt_seqOrder (s : State) (q : Nat) (f : SeqEnt → SeqEnt) : (s.modSeqEnt q f).seqOrder = s.seqOrder := rfl
@[simp] theorem State.modSeqEnt_millers (s : State) (q : Nat) (f : SeqEnt → SeqEnt) : (s.modSeqEnt q f).millers = s.millers := rfl
@[simp] theorem State.modSeqEnt_fan (s : State) (q : Nat) (f : SeqEnt → SeqEnt) : (s.modSeqEnt q f).fan = s.fan := rfl
@[simp] theorem State.modSeqEnt_mgt (s : State) (q : Nat) (f : SeqEnt → SeqEnt) : (s.modSeqEnt q f).mgt = s.mgt := rfl
@[simp] theorem State.modSeqEnt_i3c (s : State) (q : Nat) (f : SeqEnt → SeqEnt) : (s.modSeqEnt q f).i3c = s.i3c := rfl
@[simp] theorem State.modSeqEnt_boot (s : State) (q : Nat) (f : SeqEnt → SeqEnt) : (s.modSeqEnt q f).boot = s.boot := rfl
@[simp] theorem State.modSeqEnt_pins (s : State) (q : Nat) (f : SeqEnt → SeqEnt) : (s.modSeqEnt q f).pins = s.pins := rfl
@[simp] theorem State.modSeqEnt_crossings (s : State) (q : Nat) (f : SeqEnt → SeqEnt) : (s.modSeqEnt q f).crossings = s.crossings := rfl
@[simp] theorem State.modSeqEnt_free (s : State) (q : Nat) (f : SeqEnt → SeqEnt) : (s.modSeqEnt q f).free = s.free := rfl
@[simp] theorem State.modSeqEnt_pending (s : State) (q : Nat) (f : SeqEnt → SeqEnt) : (s.modSeqEnt q f).pending = s.pending := rfl

/-! ## modMiller -/

@[simp] theorem State.modMiller_mem (s : State) (c : Nat) (f : Miller → Miller) : (s.modMiller c f).mem = s.mem := rfl
@[simp] theorem State.modMiller_chk (s : State) (c : Nat) (f : Miller → Miller) : (s.modMiller c f).chk = s.chk := rfl
@[simp] theorem State.modMiller_owner (s : State) (c : Nat) (f : Miller → Miller) : (s.modMiller c f).owner = s.owner := rfl
@[simp] theorem State.modMiller_tiles (s : State) (c : Nat) (f : Miller → Miller) : (s.modMiller c f).tiles = s.tiles := rfl
@[simp] theorem State.modMiller_ltiles (s : State) (c : Nat) (f : Miller → Miller) : (s.modMiller c f).ltiles = s.ltiles := rfl
@[simp] theorem State.modMiller_lmap (s : State) (c : Nat) (f : Miller → Miller) : (s.modMiller c f).lmap = s.lmap := rfl
@[simp] theorem State.modMiller_fuseLmap (s : State) (c : Nat) (f : Miller → Miller) : (s.modMiller c f).fuseLmap = s.fuseLmap := rfl
@[simp] theorem State.modMiller_engines (s : State) (c : Nat) (f : Miller → Miller) : (s.modMiller c f).engines = s.engines := rfl
@[simp] theorem State.modMiller_govs (s : State) (c : Nat) (f : Miller → Miller) : (s.modMiller c f).govs = s.govs := rfl
@[simp] theorem State.modMiller_nextRid (s : State) (c : Nat) (f : Miller → Miller) : (s.modMiller c f).nextRid = s.nextRid := rfl
@[simp] theorem State.modMiller_mrcs (s : State) (c : Nat) (f : Miller → Miller) : (s.modMiller c f).mrcs = s.mrcs := rfl
@[simp] theorem State.modMiller_grss (s : State) (c : Nat) (f : Miller → Miller) : (s.modMiller c f).grss = s.grss := rfl
@[simp] theorem State.modMiller_gslots (s : State) (c : Nat) (f : Miller → Miller) : (s.modMiller c f).gslots = s.gslots := rfl
@[simp] theorem State.modMiller_memb (s : State) (c : Nat) (f : Miller → Miller) : (s.modMiller c f).memb = s.memb := rfl
@[simp] theorem State.modMiller_hdr (s : State) (c : Nat) (f : Miller → Miller) : (s.modMiller c f).hdr = s.hdr := rfl
@[simp] theorem State.modMiller_hif (s : State) (c : Nat) (f : Miller → Miller) : (s.modMiller c f).hif = s.hif := rfl
@[simp] theorem State.modMiller_ctxs (s : State) (c : Nat) (f : Miller → Miller) : (s.modMiller c f).ctxs = s.ctxs := rfl
@[simp] theorem State.modMiller_seqs (s : State) (c : Nat) (f : Miller → Miller) : (s.modMiller c f).seqs = s.seqs := rfl
@[simp] theorem State.modMiller_seqOrder (s : State) (c : Nat) (f : Miller → Miller) : (s.modMiller c f).seqOrder = s.seqOrder := rfl
@[simp] theorem State.modMiller_fan (s : State) (c : Nat) (f : Miller → Miller) : (s.modMiller c f).fan = s.fan := rfl
@[simp] theorem State.modMiller_mgt (s : State) (c : Nat) (f : Miller → Miller) : (s.modMiller c f).mgt = s.mgt := rfl
@[simp] theorem State.modMiller_i3c (s : State) (c : Nat) (f : Miller → Miller) : (s.modMiller c f).i3c = s.i3c := rfl
@[simp] theorem State.modMiller_boot (s : State) (c : Nat) (f : Miller → Miller) : (s.modMiller c f).boot = s.boot := rfl
@[simp] theorem State.modMiller_pins (s : State) (c : Nat) (f : Miller → Miller) : (s.modMiller c f).pins = s.pins := rfl
@[simp] theorem State.modMiller_crossings (s : State) (c : Nat) (f : Miller → Miller) : (s.modMiller c f).crossings = s.crossings := rfl
@[simp] theorem State.modMiller_free (s : State) (c : Nat) (f : Miller → Miller) : (s.modMiller c f).free = s.free := rfl
@[simp] theorem State.modMiller_pending (s : State) (c : Nat) (f : Miller → Miller) : (s.modMiller c f).pending = s.pending := rfl

/-! ## modStack -/

@[simp] theorem State.modStack_mem (s : State) (i : Nat) (f : Stack → Stack) : (s.modStack i f).mem = s.mem := rfl
@[simp] theorem State.modStack_chk (s : State) (i : Nat) (f : Stack → Stack) : (s.modStack i f).chk = s.chk := rfl
@[simp] theorem State.modStack_owner (s : State) (i : Nat) (f : Stack → Stack) : (s.modStack i f).owner = s.owner := rfl
@[simp] theorem State.modStack_tiles (s : State) (i : Nat) (f : Stack → Stack) : (s.modStack i f).tiles = s.tiles := rfl
@[simp] theorem State.modStack_ltiles (s : State) (i : Nat) (f : Stack → Stack) : (s.modStack i f).ltiles = s.ltiles := rfl
@[simp] theorem State.modStack_lmap (s : State) (i : Nat) (f : Stack → Stack) : (s.modStack i f).lmap = s.lmap := rfl
@[simp] theorem State.modStack_fuseLmap (s : State) (i : Nat) (f : Stack → Stack) : (s.modStack i f).fuseLmap = s.fuseLmap := rfl
@[simp] theorem State.modStack_engines (s : State) (i : Nat) (f : Stack → Stack) : (s.modStack i f).engines = s.engines := rfl
@[simp] theorem State.modStack_govs (s : State) (i : Nat) (f : Stack → Stack) : (s.modStack i f).govs = s.govs := rfl
@[simp] theorem State.modStack_nextRid (s : State) (i : Nat) (f : Stack → Stack) : (s.modStack i f).nextRid = s.nextRid := rfl
@[simp] theorem State.modStack_mrcs (s : State) (i : Nat) (f : Stack → Stack) : (s.modStack i f).mrcs = s.mrcs := rfl
@[simp] theorem State.modStack_grss (s : State) (i : Nat) (f : Stack → Stack) : (s.modStack i f).grss = s.grss := rfl
@[simp] theorem State.modStack_gslots (s : State) (i : Nat) (f : Stack → Stack) : (s.modStack i f).gslots = s.gslots := rfl
@[simp] theorem State.modStack_hdr (s : State) (i : Nat) (f : Stack → Stack) : (s.modStack i f).hdr = s.hdr := rfl
@[simp] theorem State.modStack_hif (s : State) (i : Nat) (f : Stack → Stack) : (s.modStack i f).hif = s.hif := rfl
@[simp] theorem State.modStack_ctxs (s : State) (i : Nat) (f : Stack → Stack) : (s.modStack i f).ctxs = s.ctxs := rfl
@[simp] theorem State.modStack_seqs (s : State) (i : Nat) (f : Stack → Stack) : (s.modStack i f).seqs = s.seqs := rfl
@[simp] theorem State.modStack_seqOrder (s : State) (i : Nat) (f : Stack → Stack) : (s.modStack i f).seqOrder = s.seqOrder := rfl
@[simp] theorem State.modStack_millers (s : State) (i : Nat) (f : Stack → Stack) : (s.modStack i f).millers = s.millers := rfl
@[simp] theorem State.modStack_fan (s : State) (i : Nat) (f : Stack → Stack) : (s.modStack i f).fan = s.fan := rfl
@[simp] theorem State.modStack_mgt (s : State) (i : Nat) (f : Stack → Stack) : (s.modStack i f).mgt = s.mgt := rfl
@[simp] theorem State.modStack_i3c (s : State) (i : Nat) (f : Stack → Stack) : (s.modStack i f).i3c = s.i3c := rfl
@[simp] theorem State.modStack_boot (s : State) (i : Nat) (f : Stack → Stack) : (s.modStack i f).boot = s.boot := rfl
@[simp] theorem State.modStack_pins (s : State) (i : Nat) (f : Stack → Stack) : (s.modStack i f).pins = s.pins := rfl
@[simp] theorem State.modStack_crossings (s : State) (i : Nat) (f : Stack → Stack) : (s.modStack i f).crossings = s.crossings := rfl
@[simp] theorem State.modStack_free (s : State) (i : Nat) (f : Stack → Stack) : (s.modStack i f).free = s.free := rfl
@[simp] theorem State.modStack_pending (s : State) (i : Nat) (f : Stack → Stack) : (s.modStack i f).pending = s.pending := rfl

/-! ## modPort -/

@[simp] theorem State.modPort_mem (s : State) (p : Nat) (f : Port → Port) : (s.modPort p f).mem = s.mem := rfl
@[simp] theorem State.modPort_chk (s : State) (p : Nat) (f : Port → Port) : (s.modPort p f).chk = s.chk := rfl
@[simp] theorem State.modPort_owner (s : State) (p : Nat) (f : Port → Port) : (s.modPort p f).owner = s.owner := rfl
@[simp] theorem State.modPort_tiles (s : State) (p : Nat) (f : Port → Port) : (s.modPort p f).tiles = s.tiles := rfl
@[simp] theorem State.modPort_ltiles (s : State) (p : Nat) (f : Port → Port) : (s.modPort p f).ltiles = s.ltiles := rfl
@[simp] theorem State.modPort_lmap (s : State) (p : Nat) (f : Port → Port) : (s.modPort p f).lmap = s.lmap := rfl
@[simp] theorem State.modPort_fuseLmap (s : State) (p : Nat) (f : Port → Port) : (s.modPort p f).fuseLmap = s.fuseLmap := rfl
@[simp] theorem State.modPort_engines (s : State) (p : Nat) (f : Port → Port) : (s.modPort p f).engines = s.engines := rfl
@[simp] theorem State.modPort_govs (s : State) (p : Nat) (f : Port → Port) : (s.modPort p f).govs = s.govs := rfl
@[simp] theorem State.modPort_nextRid (s : State) (p : Nat) (f : Port → Port) : (s.modPort p f).nextRid = s.nextRid := rfl
@[simp] theorem State.modPort_mrcs (s : State) (p : Nat) (f : Port → Port) : (s.modPort p f).mrcs = s.mrcs := rfl
@[simp] theorem State.modPort_grss (s : State) (p : Nat) (f : Port → Port) : (s.modPort p f).grss = s.grss := rfl
@[simp] theorem State.modPort_gslots (s : State) (p : Nat) (f : Port → Port) : (s.modPort p f).gslots = s.gslots := rfl
@[simp] theorem State.modPort_memb (s : State) (p : Nat) (f : Port → Port) : (s.modPort p f).memb = s.memb := rfl
@[simp] theorem State.modPort_hif (s : State) (p : Nat) (f : Port → Port) : (s.modPort p f).hif = s.hif := rfl
@[simp] theorem State.modPort_ctxs (s : State) (p : Nat) (f : Port → Port) : (s.modPort p f).ctxs = s.ctxs := rfl
@[simp] theorem State.modPort_seqs (s : State) (p : Nat) (f : Port → Port) : (s.modPort p f).seqs = s.seqs := rfl
@[simp] theorem State.modPort_seqOrder (s : State) (p : Nat) (f : Port → Port) : (s.modPort p f).seqOrder = s.seqOrder := rfl
@[simp] theorem State.modPort_millers (s : State) (p : Nat) (f : Port → Port) : (s.modPort p f).millers = s.millers := rfl
@[simp] theorem State.modPort_fan (s : State) (p : Nat) (f : Port → Port) : (s.modPort p f).fan = s.fan := rfl
@[simp] theorem State.modPort_mgt (s : State) (p : Nat) (f : Port → Port) : (s.modPort p f).mgt = s.mgt := rfl
@[simp] theorem State.modPort_i3c (s : State) (p : Nat) (f : Port → Port) : (s.modPort p f).i3c = s.i3c := rfl
@[simp] theorem State.modPort_boot (s : State) (p : Nat) (f : Port → Port) : (s.modPort p f).boot = s.boot := rfl
@[simp] theorem State.modPort_pins (s : State) (p : Nat) (f : Port → Port) : (s.modPort p f).pins = s.pins := rfl
@[simp] theorem State.modPort_crossings (s : State) (p : Nat) (f : Port → Port) : (s.modPort p f).crossings = s.crossings := rfl
@[simp] theorem State.modPort_free (s : State) (p : Nat) (f : Port → Port) : (s.modPort p f).free = s.free := rfl
@[simp] theorem State.modPort_pending (s : State) (p : Nat) (f : Port → Port) : (s.modPort p f).pending = s.pending := rfl

/-! ## modFanTile -/

@[simp] theorem State.modFanTile_mem (s : State) (p : Nat) (f : FanTile → FanTile) : (s.modFanTile p f).mem = s.mem := rfl
@[simp] theorem State.modFanTile_chk (s : State) (p : Nat) (f : FanTile → FanTile) : (s.modFanTile p f).chk = s.chk := rfl
@[simp] theorem State.modFanTile_owner (s : State) (p : Nat) (f : FanTile → FanTile) : (s.modFanTile p f).owner = s.owner := rfl
@[simp] theorem State.modFanTile_tiles (s : State) (p : Nat) (f : FanTile → FanTile) : (s.modFanTile p f).tiles = s.tiles := rfl
@[simp] theorem State.modFanTile_ltiles (s : State) (p : Nat) (f : FanTile → FanTile) : (s.modFanTile p f).ltiles = s.ltiles := rfl
@[simp] theorem State.modFanTile_lmap (s : State) (p : Nat) (f : FanTile → FanTile) : (s.modFanTile p f).lmap = s.lmap := rfl
@[simp] theorem State.modFanTile_fuseLmap (s : State) (p : Nat) (f : FanTile → FanTile) : (s.modFanTile p f).fuseLmap = s.fuseLmap := rfl
@[simp] theorem State.modFanTile_engines (s : State) (p : Nat) (f : FanTile → FanTile) : (s.modFanTile p f).engines = s.engines := rfl
@[simp] theorem State.modFanTile_govs (s : State) (p : Nat) (f : FanTile → FanTile) : (s.modFanTile p f).govs = s.govs := rfl
@[simp] theorem State.modFanTile_nextRid (s : State) (p : Nat) (f : FanTile → FanTile) : (s.modFanTile p f).nextRid = s.nextRid := rfl
@[simp] theorem State.modFanTile_mrcs (s : State) (p : Nat) (f : FanTile → FanTile) : (s.modFanTile p f).mrcs = s.mrcs := rfl
@[simp] theorem State.modFanTile_grss (s : State) (p : Nat) (f : FanTile → FanTile) : (s.modFanTile p f).grss = s.grss := rfl
@[simp] theorem State.modFanTile_gslots (s : State) (p : Nat) (f : FanTile → FanTile) : (s.modFanTile p f).gslots = s.gslots := rfl
@[simp] theorem State.modFanTile_memb (s : State) (p : Nat) (f : FanTile → FanTile) : (s.modFanTile p f).memb = s.memb := rfl
@[simp] theorem State.modFanTile_hdr (s : State) (p : Nat) (f : FanTile → FanTile) : (s.modFanTile p f).hdr = s.hdr := rfl
@[simp] theorem State.modFanTile_hif (s : State) (p : Nat) (f : FanTile → FanTile) : (s.modFanTile p f).hif = s.hif := rfl
@[simp] theorem State.modFanTile_ctxs (s : State) (p : Nat) (f : FanTile → FanTile) : (s.modFanTile p f).ctxs = s.ctxs := rfl
@[simp] theorem State.modFanTile_seqs (s : State) (p : Nat) (f : FanTile → FanTile) : (s.modFanTile p f).seqs = s.seqs := rfl
@[simp] theorem State.modFanTile_seqOrder (s : State) (p : Nat) (f : FanTile → FanTile) : (s.modFanTile p f).seqOrder = s.seqOrder := rfl
@[simp] theorem State.modFanTile_millers (s : State) (p : Nat) (f : FanTile → FanTile) : (s.modFanTile p f).millers = s.millers := rfl
@[simp] theorem State.modFanTile_mgt (s : State) (p : Nat) (f : FanTile → FanTile) : (s.modFanTile p f).mgt = s.mgt := rfl
@[simp] theorem State.modFanTile_i3c (s : State) (p : Nat) (f : FanTile → FanTile) : (s.modFanTile p f).i3c = s.i3c := rfl
@[simp] theorem State.modFanTile_boot (s : State) (p : Nat) (f : FanTile → FanTile) : (s.modFanTile p f).boot = s.boot := rfl
@[simp] theorem State.modFanTile_pins (s : State) (p : Nat) (f : FanTile → FanTile) : (s.modFanTile p f).pins = s.pins := rfl
@[simp] theorem State.modFanTile_crossings (s : State) (p : Nat) (f : FanTile → FanTile) : (s.modFanTile p f).crossings = s.crossings := rfl
@[simp] theorem State.modFanTile_free (s : State) (p : Nat) (f : FanTile → FanTile) : (s.modFanTile p f).free = s.free := rfl
@[simp] theorem State.modFanTile_pending (s : State) (p : Nat) (f : FanTile → FanTile) : (s.modFanTile p f).pending = s.pending := rfl

/-! ## modMpd -/

@[simp] theorem State.modMpd_mem (s : State) (p : Nat) (f : Mpd → Mpd) : (s.modMpd p f).mem = s.mem := rfl
@[simp] theorem State.modMpd_chk (s : State) (p : Nat) (f : Mpd → Mpd) : (s.modMpd p f).chk = s.chk := rfl
@[simp] theorem State.modMpd_owner (s : State) (p : Nat) (f : Mpd → Mpd) : (s.modMpd p f).owner = s.owner := rfl
@[simp] theorem State.modMpd_ltiles (s : State) (p : Nat) (f : Mpd → Mpd) : (s.modMpd p f).ltiles = s.ltiles := rfl
@[simp] theorem State.modMpd_lmap (s : State) (p : Nat) (f : Mpd → Mpd) : (s.modMpd p f).lmap = s.lmap := rfl
@[simp] theorem State.modMpd_fuseLmap (s : State) (p : Nat) (f : Mpd → Mpd) : (s.modMpd p f).fuseLmap = s.fuseLmap := rfl
@[simp] theorem State.modMpd_engines (s : State) (p : Nat) (f : Mpd → Mpd) : (s.modMpd p f).engines = s.engines := rfl
@[simp] theorem State.modMpd_govs (s : State) (p : Nat) (f : Mpd → Mpd) : (s.modMpd p f).govs = s.govs := rfl
@[simp] theorem State.modMpd_nextRid (s : State) (p : Nat) (f : Mpd → Mpd) : (s.modMpd p f).nextRid = s.nextRid := rfl
@[simp] theorem State.modMpd_mrcs (s : State) (p : Nat) (f : Mpd → Mpd) : (s.modMpd p f).mrcs = s.mrcs := rfl
@[simp] theorem State.modMpd_grss (s : State) (p : Nat) (f : Mpd → Mpd) : (s.modMpd p f).grss = s.grss := rfl
@[simp] theorem State.modMpd_gslots (s : State) (p : Nat) (f : Mpd → Mpd) : (s.modMpd p f).gslots = s.gslots := rfl
@[simp] theorem State.modMpd_memb (s : State) (p : Nat) (f : Mpd → Mpd) : (s.modMpd p f).memb = s.memb := rfl
@[simp] theorem State.modMpd_hdr (s : State) (p : Nat) (f : Mpd → Mpd) : (s.modMpd p f).hdr = s.hdr := rfl
@[simp] theorem State.modMpd_hif (s : State) (p : Nat) (f : Mpd → Mpd) : (s.modMpd p f).hif = s.hif := rfl
@[simp] theorem State.modMpd_ctxs (s : State) (p : Nat) (f : Mpd → Mpd) : (s.modMpd p f).ctxs = s.ctxs := rfl
@[simp] theorem State.modMpd_seqs (s : State) (p : Nat) (f : Mpd → Mpd) : (s.modMpd p f).seqs = s.seqs := rfl
@[simp] theorem State.modMpd_seqOrder (s : State) (p : Nat) (f : Mpd → Mpd) : (s.modMpd p f).seqOrder = s.seqOrder := rfl
@[simp] theorem State.modMpd_millers (s : State) (p : Nat) (f : Mpd → Mpd) : (s.modMpd p f).millers = s.millers := rfl
@[simp] theorem State.modMpd_fan (s : State) (p : Nat) (f : Mpd → Mpd) : (s.modMpd p f).fan = s.fan := rfl
@[simp] theorem State.modMpd_mgt (s : State) (p : Nat) (f : Mpd → Mpd) : (s.modMpd p f).mgt = s.mgt := rfl
@[simp] theorem State.modMpd_i3c (s : State) (p : Nat) (f : Mpd → Mpd) : (s.modMpd p f).i3c = s.i3c := rfl
@[simp] theorem State.modMpd_boot (s : State) (p : Nat) (f : Mpd → Mpd) : (s.modMpd p f).boot = s.boot := rfl
@[simp] theorem State.modMpd_pins (s : State) (p : Nat) (f : Mpd → Mpd) : (s.modMpd p f).pins = s.pins := rfl
@[simp] theorem State.modMpd_crossings (s : State) (p : Nat) (f : Mpd → Mpd) : (s.modMpd p f).crossings = s.crossings := rfl
@[simp] theorem State.modMpd_free (s : State) (p : Nat) (f : Mpd → Mpd) : (s.modMpd p f).free = s.free := rfl
@[simp] theorem State.modMpd_pending (s : State) (p : Nat) (f : Mpd → Mpd) : (s.modMpd p f).pending = s.pending := rfl

/-! ## modRun -/

@[simp] theorem State.modRun_mem (s : State) (d rid : Nat) (f : Run → Run) : (s.modRun d rid f).mem = s.mem := rfl
@[simp] theorem State.modRun_chk (s : State) (d rid : Nat) (f : Run → Run) : (s.modRun d rid f).chk = s.chk := rfl
@[simp] theorem State.modRun_owner (s : State) (d rid : Nat) (f : Run → Run) : (s.modRun d rid f).owner = s.owner := rfl
@[simp] theorem State.modRun_tiles (s : State) (d rid : Nat) (f : Run → Run) : (s.modRun d rid f).tiles = s.tiles := rfl
@[simp] theorem State.modRun_ltiles (s : State) (d rid : Nat) (f : Run → Run) : (s.modRun d rid f).ltiles = s.ltiles := rfl
@[simp] theorem State.modRun_lmap (s : State) (d rid : Nat) (f : Run → Run) : (s.modRun d rid f).lmap = s.lmap := rfl
@[simp] theorem State.modRun_fuseLmap (s : State) (d rid : Nat) (f : Run → Run) : (s.modRun d rid f).fuseLmap = s.fuseLmap := rfl
@[simp] theorem State.modRun_engines (s : State) (d rid : Nat) (f : Run → Run) : (s.modRun d rid f).engines = s.engines := rfl
@[simp] theorem State.modRun_nextRid (s : State) (d rid : Nat) (f : Run → Run) : (s.modRun d rid f).nextRid = s.nextRid := rfl
@[simp] theorem State.modRun_mrcs (s : State) (d rid : Nat) (f : Run → Run) : (s.modRun d rid f).mrcs = s.mrcs := rfl
@[simp] theorem State.modRun_grss (s : State) (d rid : Nat) (f : Run → Run) : (s.modRun d rid f).grss = s.grss := rfl
@[simp] theorem State.modRun_gslots (s : State) (d rid : Nat) (f : Run → Run) : (s.modRun d rid f).gslots = s.gslots := rfl
@[simp] theorem State.modRun_memb (s : State) (d rid : Nat) (f : Run → Run) : (s.modRun d rid f).memb = s.memb := rfl
@[simp] theorem State.modRun_hdr (s : State) (d rid : Nat) (f : Run → Run) : (s.modRun d rid f).hdr = s.hdr := rfl
@[simp] theorem State.modRun_hif (s : State) (d rid : Nat) (f : Run → Run) : (s.modRun d rid f).hif = s.hif := rfl
@[simp] theorem State.modRun_ctxs (s : State) (d rid : Nat) (f : Run → Run) : (s.modRun d rid f).ctxs = s.ctxs := rfl
@[simp] theorem State.modRun_seqs (s : State) (d rid : Nat) (f : Run → Run) : (s.modRun d rid f).seqs = s.seqs := rfl
@[simp] theorem State.modRun_seqOrder (s : State) (d rid : Nat) (f : Run → Run) : (s.modRun d rid f).seqOrder = s.seqOrder := rfl
@[simp] theorem State.modRun_millers (s : State) (d rid : Nat) (f : Run → Run) : (s.modRun d rid f).millers = s.millers := rfl
@[simp] theorem State.modRun_fan (s : State) (d rid : Nat) (f : Run → Run) : (s.modRun d rid f).fan = s.fan := rfl
@[simp] theorem State.modRun_mgt (s : State) (d rid : Nat) (f : Run → Run) : (s.modRun d rid f).mgt = s.mgt := rfl
@[simp] theorem State.modRun_i3c (s : State) (d rid : Nat) (f : Run → Run) : (s.modRun d rid f).i3c = s.i3c := rfl
@[simp] theorem State.modRun_boot (s : State) (d rid : Nat) (f : Run → Run) : (s.modRun d rid f).boot = s.boot := rfl
@[simp] theorem State.modRun_pins (s : State) (d rid : Nat) (f : Run → Run) : (s.modRun d rid f).pins = s.pins := rfl
@[simp] theorem State.modRun_crossings (s : State) (d rid : Nat) (f : Run → Run) : (s.modRun d rid f).crossings = s.crossings := rfl
@[simp] theorem State.modRun_free (s : State) (d rid : Nat) (f : Run → Run) : (s.modRun d rid f).free = s.free := rfl
@[simp] theorem State.modRun_pending (s : State) (d rid : Nat) (f : Run → Run) : (s.modRun d rid f).pending = s.pending := rfl

/-! ## setBytes -/

@[simp] theorem State.setBytes_chk (s : State) (k : Nat) (bs : List Byte) : (s.setBytes k bs).chk = s.chk := rfl
@[simp] theorem State.setBytes_owner (s : State) (k : Nat) (bs : List Byte) : (s.setBytes k bs).owner = s.owner := rfl
@[simp] theorem State.setBytes_tiles (s : State) (k : Nat) (bs : List Byte) : (s.setBytes k bs).tiles = s.tiles := rfl
@[simp] theorem State.setBytes_ltiles (s : State) (k : Nat) (bs : List Byte) : (s.setBytes k bs).ltiles = s.ltiles := rfl
@[simp] theorem State.setBytes_lmap (s : State) (k : Nat) (bs : List Byte) : (s.setBytes k bs).lmap = s.lmap := rfl
@[simp] theorem State.setBytes_fuseLmap (s : State) (k : Nat) (bs : List Byte) : (s.setBytes k bs).fuseLmap = s.fuseLmap := rfl
@[simp] theorem State.setBytes_engines (s : State) (k : Nat) (bs : List Byte) : (s.setBytes k bs).engines = s.engines := rfl
@[simp] theorem State.setBytes_govs (s : State) (k : Nat) (bs : List Byte) : (s.setBytes k bs).govs = s.govs := rfl
@[simp] theorem State.setBytes_nextRid (s : State) (k : Nat) (bs : List Byte) : (s.setBytes k bs).nextRid = s.nextRid := rfl
@[simp] theorem State.setBytes_mrcs (s : State) (k : Nat) (bs : List Byte) : (s.setBytes k bs).mrcs = s.mrcs := rfl
@[simp] theorem State.setBytes_grss (s : State) (k : Nat) (bs : List Byte) : (s.setBytes k bs).grss = s.grss := rfl
@[simp] theorem State.setBytes_gslots (s : State) (k : Nat) (bs : List Byte) : (s.setBytes k bs).gslots = s.gslots := rfl
@[simp] theorem State.setBytes_memb (s : State) (k : Nat) (bs : List Byte) : (s.setBytes k bs).memb = s.memb := rfl
@[simp] theorem State.setBytes_hdr (s : State) (k : Nat) (bs : List Byte) : (s.setBytes k bs).hdr = s.hdr := rfl
@[simp] theorem State.setBytes_hif (s : State) (k : Nat) (bs : List Byte) : (s.setBytes k bs).hif = s.hif := rfl
@[simp] theorem State.setBytes_ctxs (s : State) (k : Nat) (bs : List Byte) : (s.setBytes k bs).ctxs = s.ctxs := rfl
@[simp] theorem State.setBytes_seqs (s : State) (k : Nat) (bs : List Byte) : (s.setBytes k bs).seqs = s.seqs := rfl
@[simp] theorem State.setBytes_seqOrder (s : State) (k : Nat) (bs : List Byte) : (s.setBytes k bs).seqOrder = s.seqOrder := rfl
@[simp] theorem State.setBytes_millers (s : State) (k : Nat) (bs : List Byte) : (s.setBytes k bs).millers = s.millers := rfl
@[simp] theorem State.setBytes_fan (s : State) (k : Nat) (bs : List Byte) : (s.setBytes k bs).fan = s.fan := rfl
@[simp] theorem State.setBytes_mgt (s : State) (k : Nat) (bs : List Byte) : (s.setBytes k bs).mgt = s.mgt := rfl
@[simp] theorem State.setBytes_i3c (s : State) (k : Nat) (bs : List Byte) : (s.setBytes k bs).i3c = s.i3c := rfl
@[simp] theorem State.setBytes_boot (s : State) (k : Nat) (bs : List Byte) : (s.setBytes k bs).boot = s.boot := rfl
@[simp] theorem State.setBytes_pins (s : State) (k : Nat) (bs : List Byte) : (s.setBytes k bs).pins = s.pins := rfl
@[simp] theorem State.setBytes_crossings (s : State) (k : Nat) (bs : List Byte) : (s.setBytes k bs).crossings = s.crossings := rfl
@[simp] theorem State.setBytes_free (s : State) (k : Nat) (bs : List Byte) : (s.setBytes k bs).free = s.free := rfl
@[simp] theorem State.setBytes_pending (s : State) (k : Nat) (bs : List Byte) : (s.setBytes k bs).pending = s.pending := rfl

/-! ## setNum -/

@[simp] theorem State.setNum_chk (s : State) (k n v : Nat) : (s.setNum k n v).chk = s.chk := rfl
@[simp] theorem State.setNum_owner (s : State) (k n v : Nat) : (s.setNum k n v).owner = s.owner := rfl
@[simp] theorem State.setNum_tiles (s : State) (k n v : Nat) : (s.setNum k n v).tiles = s.tiles := rfl
@[simp] theorem State.setNum_ltiles (s : State) (k n v : Nat) : (s.setNum k n v).ltiles = s.ltiles := rfl
@[simp] theorem State.setNum_lmap (s : State) (k n v : Nat) : (s.setNum k n v).lmap = s.lmap := rfl
@[simp] theorem State.setNum_fuseLmap (s : State) (k n v : Nat) : (s.setNum k n v).fuseLmap = s.fuseLmap := rfl
@[simp] theorem State.setNum_engines (s : State) (k n v : Nat) : (s.setNum k n v).engines = s.engines := rfl
@[simp] theorem State.setNum_govs (s : State) (k n v : Nat) : (s.setNum k n v).govs = s.govs := rfl
@[simp] theorem State.setNum_nextRid (s : State) (k n v : Nat) : (s.setNum k n v).nextRid = s.nextRid := rfl
@[simp] theorem State.setNum_mrcs (s : State) (k n v : Nat) : (s.setNum k n v).mrcs = s.mrcs := rfl
@[simp] theorem State.setNum_grss (s : State) (k n v : Nat) : (s.setNum k n v).grss = s.grss := rfl
@[simp] theorem State.setNum_gslots (s : State) (k n v : Nat) : (s.setNum k n v).gslots = s.gslots := rfl
@[simp] theorem State.setNum_memb (s : State) (k n v : Nat) : (s.setNum k n v).memb = s.memb := rfl
@[simp] theorem State.setNum_hdr (s : State) (k n v : Nat) : (s.setNum k n v).hdr = s.hdr := rfl
@[simp] theorem State.setNum_hif (s : State) (k n v : Nat) : (s.setNum k n v).hif = s.hif := rfl
@[simp] theorem State.setNum_ctxs (s : State) (k n v : Nat) : (s.setNum k n v).ctxs = s.ctxs := rfl
@[simp] theorem State.setNum_seqs (s : State) (k n v : Nat) : (s.setNum k n v).seqs = s.seqs := rfl
@[simp] theorem State.setNum_seqOrder (s : State) (k n v : Nat) : (s.setNum k n v).seqOrder = s.seqOrder := rfl
@[simp] theorem State.setNum_millers (s : State) (k n v : Nat) : (s.setNum k n v).millers = s.millers := rfl
@[simp] theorem State.setNum_fan (s : State) (k n v : Nat) : (s.setNum k n v).fan = s.fan := rfl
@[simp] theorem State.setNum_mgt (s : State) (k n v : Nat) : (s.setNum k n v).mgt = s.mgt := rfl
@[simp] theorem State.setNum_i3c (s : State) (k n v : Nat) : (s.setNum k n v).i3c = s.i3c := rfl
@[simp] theorem State.setNum_boot (s : State) (k n v : Nat) : (s.setNum k n v).boot = s.boot := rfl
@[simp] theorem State.setNum_pins (s : State) (k n v : Nat) : (s.setNum k n v).pins = s.pins := rfl
@[simp] theorem State.setNum_crossings (s : State) (k n v : Nat) : (s.setNum k n v).crossings = s.crossings := rfl
@[simp] theorem State.setNum_free (s : State) (k n v : Nat) : (s.setNum k n v).free = s.free := rfl
@[simp] theorem State.setNum_pending (s : State) (k n v : Nat) : (s.setNum k n v).pending = s.pending := rfl

/-! ## setWord -/

@[simp] theorem State.setWord_owner (s : State) (k : Nat) (w : Word288) : (s.setWord k w).owner = s.owner := rfl
@[simp] theorem State.setWord_tiles (s : State) (k : Nat) (w : Word288) : (s.setWord k w).tiles = s.tiles := rfl
@[simp] theorem State.setWord_ltiles (s : State) (k : Nat) (w : Word288) : (s.setWord k w).ltiles = s.ltiles := rfl
@[simp] theorem State.setWord_lmap (s : State) (k : Nat) (w : Word288) : (s.setWord k w).lmap = s.lmap := rfl
@[simp] theorem State.setWord_fuseLmap (s : State) (k : Nat) (w : Word288) : (s.setWord k w).fuseLmap = s.fuseLmap := rfl
@[simp] theorem State.setWord_engines (s : State) (k : Nat) (w : Word288) : (s.setWord k w).engines = s.engines := rfl
@[simp] theorem State.setWord_govs (s : State) (k : Nat) (w : Word288) : (s.setWord k w).govs = s.govs := rfl
@[simp] theorem State.setWord_nextRid (s : State) (k : Nat) (w : Word288) : (s.setWord k w).nextRid = s.nextRid := rfl
@[simp] theorem State.setWord_mrcs (s : State) (k : Nat) (w : Word288) : (s.setWord k w).mrcs = s.mrcs := rfl
@[simp] theorem State.setWord_grss (s : State) (k : Nat) (w : Word288) : (s.setWord k w).grss = s.grss := rfl
@[simp] theorem State.setWord_gslots (s : State) (k : Nat) (w : Word288) : (s.setWord k w).gslots = s.gslots := rfl
@[simp] theorem State.setWord_memb (s : State) (k : Nat) (w : Word288) : (s.setWord k w).memb = s.memb := rfl
@[simp] theorem State.setWord_hdr (s : State) (k : Nat) (w : Word288) : (s.setWord k w).hdr = s.hdr := rfl
@[simp] theorem State.setWord_hif (s : State) (k : Nat) (w : Word288) : (s.setWord k w).hif = s.hif := rfl
@[simp] theorem State.setWord_ctxs (s : State) (k : Nat) (w : Word288) : (s.setWord k w).ctxs = s.ctxs := rfl
@[simp] theorem State.setWord_seqs (s : State) (k : Nat) (w : Word288) : (s.setWord k w).seqs = s.seqs := rfl
@[simp] theorem State.setWord_seqOrder (s : State) (k : Nat) (w : Word288) : (s.setWord k w).seqOrder = s.seqOrder := rfl
@[simp] theorem State.setWord_millers (s : State) (k : Nat) (w : Word288) : (s.setWord k w).millers = s.millers := rfl
@[simp] theorem State.setWord_fan (s : State) (k : Nat) (w : Word288) : (s.setWord k w).fan = s.fan := rfl
@[simp] theorem State.setWord_mgt (s : State) (k : Nat) (w : Word288) : (s.setWord k w).mgt = s.mgt := rfl
@[simp] theorem State.setWord_i3c (s : State) (k : Nat) (w : Word288) : (s.setWord k w).i3c = s.i3c := rfl
@[simp] theorem State.setWord_boot (s : State) (k : Nat) (w : Word288) : (s.setWord k w).boot = s.boot := rfl
@[simp] theorem State.setWord_pins (s : State) (k : Nat) (w : Word288) : (s.setWord k w).pins = s.pins := rfl
@[simp] theorem State.setWord_crossings (s : State) (k : Nat) (w : Word288) : (s.setWord k w).crossings = s.crossings := rfl
@[simp] theorem State.setWord_free (s : State) (k : Nat) (w : Word288) : (s.setWord k w).free = s.free := rfl
@[simp] theorem State.setWord_pending (s : State) (k : Nat) (w : Word288) : (s.setWord k w).pending = s.pending := rfl

/-! ## setChk -/

@[simp] theorem State.setChk_mem (s : State) (k : Nat) (d : W32) : (s.setChk k d).mem = s.mem := rfl
@[simp] theorem State.setChk_owner (s : State) (k : Nat) (d : W32) : (s.setChk k d).owner = s.owner := rfl
@[simp] theorem State.setChk_tiles (s : State) (k : Nat) (d : W32) : (s.setChk k d).tiles = s.tiles := rfl
@[simp] theorem State.setChk_ltiles (s : State) (k : Nat) (d : W32) : (s.setChk k d).ltiles = s.ltiles := rfl
@[simp] theorem State.setChk_lmap (s : State) (k : Nat) (d : W32) : (s.setChk k d).lmap = s.lmap := rfl
@[simp] theorem State.setChk_fuseLmap (s : State) (k : Nat) (d : W32) : (s.setChk k d).fuseLmap = s.fuseLmap := rfl
@[simp] theorem State.setChk_engines (s : State) (k : Nat) (d : W32) : (s.setChk k d).engines = s.engines := rfl
@[simp] theorem State.setChk_govs (s : State) (k : Nat) (d : W32) : (s.setChk k d).govs = s.govs := rfl
@[simp] theorem State.setChk_nextRid (s : State) (k : Nat) (d : W32) : (s.setChk k d).nextRid = s.nextRid := rfl
@[simp] theorem State.setChk_mrcs (s : State) (k : Nat) (d : W32) : (s.setChk k d).mrcs = s.mrcs := rfl
@[simp] theorem State.setChk_grss (s : State) (k : Nat) (d : W32) : (s.setChk k d).grss = s.grss := rfl
@[simp] theorem State.setChk_gslots (s : State) (k : Nat) (d : W32) : (s.setChk k d).gslots = s.gslots := rfl
@[simp] theorem State.setChk_memb (s : State) (k : Nat) (d : W32) : (s.setChk k d).memb = s.memb := rfl
@[simp] theorem State.setChk_hdr (s : State) (k : Nat) (d : W32) : (s.setChk k d).hdr = s.hdr := rfl
@[simp] theorem State.setChk_hif (s : State) (k : Nat) (d : W32) : (s.setChk k d).hif = s.hif := rfl
@[simp] theorem State.setChk_ctxs (s : State) (k : Nat) (d : W32) : (s.setChk k d).ctxs = s.ctxs := rfl
@[simp] theorem State.setChk_seqs (s : State) (k : Nat) (d : W32) : (s.setChk k d).seqs = s.seqs := rfl
@[simp] theorem State.setChk_seqOrder (s : State) (k : Nat) (d : W32) : (s.setChk k d).seqOrder = s.seqOrder := rfl
@[simp] theorem State.setChk_millers (s : State) (k : Nat) (d : W32) : (s.setChk k d).millers = s.millers := rfl
@[simp] theorem State.setChk_fan (s : State) (k : Nat) (d : W32) : (s.setChk k d).fan = s.fan := rfl
@[simp] theorem State.setChk_mgt (s : State) (k : Nat) (d : W32) : (s.setChk k d).mgt = s.mgt := rfl
@[simp] theorem State.setChk_i3c (s : State) (k : Nat) (d : W32) : (s.setChk k d).i3c = s.i3c := rfl
@[simp] theorem State.setChk_boot (s : State) (k : Nat) (d : W32) : (s.setChk k d).boot = s.boot := rfl
@[simp] theorem State.setChk_pins (s : State) (k : Nat) (d : W32) : (s.setChk k d).pins = s.pins := rfl
@[simp] theorem State.setChk_crossings (s : State) (k : Nat) (d : W32) : (s.setChk k d).crossings = s.crossings := rfl
@[simp] theorem State.setChk_free (s : State) (k : Nat) (d : W32) : (s.setChk k d).free = s.free := rfl
@[simp] theorem State.setChk_pending (s : State) (k : Nat) (d : W32) : (s.setChk k d).pending = s.pending := rfl

/-! ## zero -/

@[simp] theorem State.zero_owner (s : State) (k n : Nat) : (s.zero k n).owner = s.owner := rfl
@[simp] theorem State.zero_tiles (s : State) (k n : Nat) : (s.zero k n).tiles = s.tiles := rfl
@[simp] theorem State.zero_ltiles (s : State) (k n : Nat) : (s.zero k n).ltiles = s.ltiles := rfl
@[simp] theorem State.zero_lmap (s : State) (k n : Nat) : (s.zero k n).lmap = s.lmap := rfl
@[simp] theorem State.zero_fuseLmap (s : State) (k n : Nat) : (s.zero k n).fuseLmap = s.fuseLmap := rfl
@[simp] theorem State.zero_engines (s : State) (k n : Nat) : (s.zero k n).engines = s.engines := rfl
@[simp] theorem State.zero_govs (s : State) (k n : Nat) : (s.zero k n).govs = s.govs := rfl
@[simp] theorem State.zero_nextRid (s : State) (k n : Nat) : (s.zero k n).nextRid = s.nextRid := rfl
@[simp] theorem State.zero_mrcs (s : State) (k n : Nat) : (s.zero k n).mrcs = s.mrcs := rfl
@[simp] theorem State.zero_grss (s : State) (k n : Nat) : (s.zero k n).grss = s.grss := rfl
@[simp] theorem State.zero_gslots (s : State) (k n : Nat) : (s.zero k n).gslots = s.gslots := rfl
@[simp] theorem State.zero_memb (s : State) (k n : Nat) : (s.zero k n).memb = s.memb := rfl
@[simp] theorem State.zero_hdr (s : State) (k n : Nat) : (s.zero k n).hdr = s.hdr := rfl
@[simp] theorem State.zero_hif (s : State) (k n : Nat) : (s.zero k n).hif = s.hif := rfl
@[simp] theorem State.zero_ctxs (s : State) (k n : Nat) : (s.zero k n).ctxs = s.ctxs := rfl
@[simp] theorem State.zero_seqs (s : State) (k n : Nat) : (s.zero k n).seqs = s.seqs := rfl
@[simp] theorem State.zero_seqOrder (s : State) (k n : Nat) : (s.zero k n).seqOrder = s.seqOrder := rfl
@[simp] theorem State.zero_millers (s : State) (k n : Nat) : (s.zero k n).millers = s.millers := rfl
@[simp] theorem State.zero_fan (s : State) (k n : Nat) : (s.zero k n).fan = s.fan := rfl
@[simp] theorem State.zero_mgt (s : State) (k n : Nat) : (s.zero k n).mgt = s.mgt := rfl
@[simp] theorem State.zero_i3c (s : State) (k n : Nat) : (s.zero k n).i3c = s.i3c := rfl
@[simp] theorem State.zero_boot (s : State) (k n : Nat) : (s.zero k n).boot = s.boot := rfl
@[simp] theorem State.zero_pins (s : State) (k n : Nat) : (s.zero k n).pins = s.pins := rfl
@[simp] theorem State.zero_crossings (s : State) (k n : Nat) : (s.zero k n).crossings = s.crossings := rfl
@[simp] theorem State.zero_free (s : State) (k n : Nat) : (s.zero k n).free = s.free := rfl
@[simp] theorem State.zero_pending (s : State) (k n : Nat) : (s.zero k n).pending = s.pending := rfl

/-! ## Reading a unit after an update of it -/

theorem State.setTile_tile (s : State) (p : Nat) (t : Tile) (j : Nat) :
    (s.setTile p t).tile j = if j = p then t else s.tile j := tget_tset _ _ _ _ _

@[simp] theorem State.setTile_tile_same (s : State) (p : Nat) (t : Tile) : (s.setTile p t).tile p = t := by
  rw [State.setTile_tile]; simp

theorem State.modTile_tile (s : State) (p : Nat) (f : Tile → Tile) (j : Nat) :
    (s.modTile p f).tile j = if j = p then f (s.tile p) else s.tile j := tget_tset _ _ _ _ _

@[simp] theorem State.modTile_tile_same (s : State) (p : Nat) (f : Tile → Tile) : (s.modTile p f).tile p = f (s.tile p) := by
  rw [State.modTile_tile]; simp

theorem State.modLTile_ltile (s : State) (l : Nat) (f : LTile → LTile) (j : Nat) :
    (s.modLTile l f).ltile j = if j = l then f (s.ltile l) else s.ltile j := tget_tset _ _ _ _ _

@[simp] theorem State.modLTile_ltile_same (s : State) (l : Nat) (f : LTile → LTile) : (s.modLTile l f).ltile l = f (s.ltile l) := by
  rw [State.modLTile_ltile]; simp

theorem State.modEngine_engine (s : State) (e : Nat) (f : Engine → Engine) (j : Nat) :
    (s.modEngine e f).engine j = if j = e then f (s.engine e) else s.engine j := tget_tset _ _ _ _ _

@[simp] theorem State.modEngine_engine_same (s : State) (e : Nat) (f : Engine → Engine) : (s.modEngine e f).engine e = f (s.engine e) := by
  rw [State.modEngine_engine]; simp

theorem State.modGov_gov (s : State) (d : Nat) (f : Gov → Gov) (j : Nat) :
    (s.modGov d f).gov j = if j = d then f (s.gov d) else s.gov j := tget_tset _ _ _ _ _

@[simp] theorem State.modGov_gov_same (s : State) (d : Nat) (f : Gov → Gov) : (s.modGov d f).gov d = f (s.gov d) := by
  rw [State.modGov_gov]; simp

theorem State.modMrc_mrc (s : State) (d : Nat) (f : Mrc → Mrc) (j : Nat) :
    (s.modMrc d f).mrc j = if j = d then f (s.mrc d) else s.mrc j := tget_tset _ _ _ _ _

@[simp] theorem State.modMrc_mrc_same (s : State) (d : Nat) (f : Mrc → Mrc) : (s.modMrc d f).mrc d = f (s.mrc d) := by
  rw [State.modMrc_mrc]; simp

theorem State.modGrs_grs (s : State) (d : Nat) (f : Grs → Grs) (j : Nat) :
    (s.modGrs d f).grs j = if j = d then f (s.grs d) else s.grs j := tget_tset _ _ _ _ _

@[simp] theorem State.modGrs_grs_same (s : State) (d : Nat) (f : Grs → Grs) : (s.modGrs d f).grs d = f (s.grs d) := by
  rw [State.modGrs_grs]; simp

theorem State.modGSlot_gslot (s : State) (i : Nat) (f : GSlot → GSlot) (j : Nat) :
    (s.modGSlot i f).gslot j = if j = i then f (s.gslot i) else s.gslot j := tget_tset _ _ _ _ _

@[simp] theorem State.modGSlot_gslot_same (s : State) (i : Nat) (f : GSlot → GSlot) : (s.modGSlot i f).gslot i = f (s.gslot i) := by
  rw [State.modGSlot_gslot]; simp

theorem State.modRing_ring (s : State) (r : Nat) (f : Ring → Ring) (j : Nat) :
    (s.modRing r f).ring j = if j = r then f (s.ring r) else s.ring j := tget_tset _ _ _ _ _

@[simp] theorem State.modRing_ring_same (s : State) (r : Nat) (f : Ring → Ring) : (s.modRing r f).ring r = f (s.ring r) := by
  rw [State.modRing_ring]; simp

theorem State.modFn_fn (s : State) (i : Nat) (f : Fn → Fn) (j : Nat) :
    (s.modFn i f).fn j = if j = i then f (s.fn i) else s.fn j := tget_tset _ _ _ _ _

@[simp] theorem State.modFn_fn_same (s : State) (i : Nat) (f : Fn → Fn) : (s.modFn i f).fn i = f (s.fn i) := by
  rw [State.modFn_fn]; simp

theorem State.modCtx_ctx (s : State) (c : Nat) (f : Ctx → Ctx) (j : Nat) :
    (s.modCtx c f).ctx j = if j = c then f (s.ctx c) else s.ctx j := tget_tset _ _ _ _ _

@[simp] theorem State.modCtx_ctx_same (s : State) (c : Nat) (f : Ctx → Ctx) : (s.modCtx c f).ctx c = f (s.ctx c) := by
  rw [State.modCtx_ctx]; simp

theorem State.modSeqEnt_seqEnt (s : State) (q : Nat) (f : SeqEnt → SeqEnt) (j : Nat) :
    (s.modSeqEnt q f).seqEnt j = if j = q then f (s.seqEnt q) else s.seqEnt j := tget_tset _ _ _ _ _

@[simp] theorem State.modSeqEnt_seqEnt_same (s : State) (q : Nat) (f : SeqEnt → SeqEnt) : (s.modSeqEnt q f).seqEnt q = f (s.seqEnt q) := by
  rw [State.modSeqEnt_seqEnt]; simp

theorem State.modMiller_miller (s : State) (c : Nat) (f : Miller → Miller) (j : Nat) :
    (s.modMiller c f).miller j = if j = c then f (s.miller c) else s.miller j := tget_tset _ _ _ _ _

@[simp] theorem State.modMiller_miller_same (s : State) (c : Nat) (f : Miller → Miller) : (s.modMiller c f).miller c = f (s.miller c) := by
  rw [State.modMiller_miller]; simp

theorem State.modStack_stack (s : State) (i : Nat) (f : Stack → Stack) (j : Nat) :
    (s.modStack i f).stack j = if j = i then f (s.stack i) else s.stack j := tget_tset _ _ _ _ _

@[simp] theorem State.modStack_stack_same (s : State) (i : Nat) (f : Stack → Stack) : (s.modStack i f).stack i = f (s.stack i) := by
  rw [State.modStack_stack]; simp

theorem State.modPort_port (s : State) (p : Nat) (f : Port → Port) (j : Nat) :
    (s.modPort p f).port j = if j = p then f (s.port p) else s.port j := tget_tset _ _ _ _ _

@[simp] theorem State.modPort_port_same (s : State) (p : Nat) (f : Port → Port) : (s.modPort p f).port p = f (s.port p) := by
  rw [State.modPort_port]; simp

theorem State.modFanTile_fanTile (s : State) (p : Nat) (f : FanTile → FanTile) (j : Nat) :
    (s.modFanTile p f).fanTile j = if j = p then f (s.fanTile p) else s.fanTile j := tget_tset _ _ _ _ _

@[simp] theorem State.modFanTile_fanTile_same (s : State) (p : Nat) (f : FanTile → FanTile) : (s.modFanTile p f).fanTile p = f (s.fanTile p) := by
  rw [State.modFanTile_fanTile]; simp

theorem State.modSlot_slot (s : State) (k : Nat) (f : Slot → Slot) (j : Nat) :
    (s.modSlot k f).slot j = if j = k then f (s.slot k) else s.slot j := by
  unfold State.slot State.modSlot
  rw [State.modMrc_mrc]
  by_cases hd : j / 256 = k / 256
  · rw [if_pos hd, tget_tset, hd]
    by_cases hm : j % 256 = k % 256
    · rw [if_pos hm, if_pos (by omega)]
    · rw [if_neg hm, if_neg (by omega)]
  · rw [if_neg hd, if_neg (by omega)]

@[simp] theorem State.modSlot_slot_same (s : State) (k : Nat) (f : Slot → Slot) : (s.modSlot k f).slot k = f (s.slot k) := by
  rw [State.modSlot_slot]; simp

theorem State.modLane_lane (s : State) (k : Nat) (f : Lane → Lane) (j : Nat) :
    (s.modLane k f).lane j = if j = k then f (s.lane k) else s.lane j := by
  unfold State.lane State.modLane
  rw [State.modGrs_grs]
  by_cases hd : j / 8 = k / 8
  · rw [if_pos hd, tget_tset, hd]
    by_cases hm : j % 8 = k % 8
    · rw [if_pos hm, if_pos (by omega)]
    · rw [if_neg hm, if_neg (by omega)]
  · rw [if_neg hd, if_neg (by omega)]

@[simp] theorem State.modLane_lane_same (s : State) (k : Nat) (f : Lane → Lane) : (s.modLane k f).lane k = f (s.lane k) := by
  rw [State.modLane_lane]; simp

/-! ## The sequencer of a core -/

@[simp] theorem State.modSeqr_mem (s : State) (c : Core) (f : Seqr → Seqr) : (s.modSeqr c f).mem = s.mem := by cases c <;> rfl
@[simp] theorem State.modSeqr_chk (s : State) (c : Core) (f : Seqr → Seqr) : (s.modSeqr c f).chk = s.chk := by cases c <;> rfl
@[simp] theorem State.modSeqr_owner (s : State) (c : Core) (f : Seqr → Seqr) : (s.modSeqr c f).owner = s.owner := by cases c <;> rfl
@[simp] theorem State.modSeqr_ltiles (s : State) (c : Core) (f : Seqr → Seqr) : (s.modSeqr c f).ltiles = s.ltiles := by cases c <;> rfl
@[simp] theorem State.modSeqr_lmap (s : State) (c : Core) (f : Seqr → Seqr) : (s.modSeqr c f).lmap = s.lmap := by cases c <;> rfl
@[simp] theorem State.modSeqr_fuseLmap (s : State) (c : Core) (f : Seqr → Seqr) : (s.modSeqr c f).fuseLmap = s.fuseLmap := by cases c <;> rfl
@[simp] theorem State.modSeqr_engines (s : State) (c : Core) (f : Seqr → Seqr) : (s.modSeqr c f).engines = s.engines := by cases c <;> rfl
@[simp] theorem State.modSeqr_govs (s : State) (c : Core) (f : Seqr → Seqr) : (s.modSeqr c f).govs = s.govs := by cases c <;> rfl
@[simp] theorem State.modSeqr_nextRid (s : State) (c : Core) (f : Seqr → Seqr) : (s.modSeqr c f).nextRid = s.nextRid := by cases c <;> rfl
@[simp] theorem State.modSeqr_mrcs (s : State) (c : Core) (f : Seqr → Seqr) : (s.modSeqr c f).mrcs = s.mrcs := by cases c <;> rfl
@[simp] theorem State.modSeqr_grss (s : State) (c : Core) (f : Seqr → Seqr) : (s.modSeqr c f).grss = s.grss := by cases c <;> rfl
@[simp] theorem State.modSeqr_gslots (s : State) (c : Core) (f : Seqr → Seqr) : (s.modSeqr c f).gslots = s.gslots := by cases c <;> rfl
@[simp] theorem State.modSeqr_memb (s : State) (c : Core) (f : Seqr → Seqr) : (s.modSeqr c f).memb = s.memb := by cases c <;> rfl
@[simp] theorem State.modSeqr_hdr (s : State) (c : Core) (f : Seqr → Seqr) : (s.modSeqr c f).hdr = s.hdr := by cases c <;> rfl
@[simp] theorem State.modSeqr_hif (s : State) (c : Core) (f : Seqr → Seqr) : (s.modSeqr c f).hif = s.hif := by cases c <;> rfl
@[simp] theorem State.modSeqr_ctxs (s : State) (c : Core) (f : Seqr → Seqr) : (s.modSeqr c f).ctxs = s.ctxs := by cases c <;> rfl
@[simp] theorem State.modSeqr_seqs (s : State) (c : Core) (f : Seqr → Seqr) : (s.modSeqr c f).seqs = s.seqs := by cases c <;> rfl
@[simp] theorem State.modSeqr_seqOrder (s : State) (c : Core) (f : Seqr → Seqr) : (s.modSeqr c f).seqOrder = s.seqOrder := by cases c <;> rfl
@[simp] theorem State.modSeqr_fan (s : State) (c : Core) (f : Seqr → Seqr) : (s.modSeqr c f).fan = s.fan := by cases c <;> rfl
@[simp] theorem State.modSeqr_mgt (s : State) (c : Core) (f : Seqr → Seqr) : (s.modSeqr c f).mgt = s.mgt := by cases c <;> rfl
@[simp] theorem State.modSeqr_i3c (s : State) (c : Core) (f : Seqr → Seqr) : (s.modSeqr c f).i3c = s.i3c := by cases c <;> rfl
@[simp] theorem State.modSeqr_boot (s : State) (c : Core) (f : Seqr → Seqr) : (s.modSeqr c f).boot = s.boot := by cases c <;> rfl
@[simp] theorem State.modSeqr_pins (s : State) (c : Core) (f : Seqr → Seqr) : (s.modSeqr c f).pins = s.pins := by cases c <;> rfl
@[simp] theorem State.modSeqr_crossings (s : State) (c : Core) (f : Seqr → Seqr) : (s.modSeqr c f).crossings = s.crossings := by cases c <;> rfl
@[simp] theorem State.modSeqr_free (s : State) (c : Core) (f : Seqr → Seqr) : (s.modSeqr c f).free = s.free := by cases c <;> rfl
@[simp] theorem State.modSeqr_pending (s : State) (c : Core) (f : Seqr → Seqr) : (s.modSeqr c f).pending = s.pending := by cases c <;> rfl

@[simp] theorem State.modSeqr_phys (s : State) (c : Core) (f : Seqr → Seqr) (l : Nat) : (s.modSeqr c f).phys l = s.phys l := by
  cases c <;> rfl

@[simp] theorem State.modSeqr_seqr (s : State) (c : Core) (f : Seqr → Seqr) : (s.modSeqr c f).seqr c = f (s.seqr c) := by
  cases c with
  | tile l => simp only [State.modSeqr, State.seqr]; rw [show (s.modTile (s.phys l) _).phys l = s.phys l from rfl]; simp
  | miller m => simp [State.modSeqr, State.seqr]

/-! ## Registers -/

@[simp] theorem Seqr.s_zero (q : Seqr) : q.s 0 = 0 := rfl
@[simp] theorem Seqr.p_zero (q : Seqr) : q.p 0 = true := rfl

theorem Seqr.setS_s (q : Seqr) (n : BitVec 5) (v : W64) (r : BitVec 5) :
    (q.setS n v).s r = if r = n ∧ n ≠ 0 then v else q.s r := by
  unfold Seqr.setS
  by_cases hn : n = 0
  · simp [hn]
  · simp only [hn, if_false, Seqr.s, tget_tset, ne_eq, not_false_eq_true, and_true]
    by_cases hr : r = n
    · subst hr; rw [if_neg hn, if_pos rfl, if_pos rfl]
    · simp [hr, show r.toNat ≠ n.toNat from fun h => hr (BitVec.eq_of_toNat_eq h)]

@[simp] theorem Seqr.setS_pc (q : Seqr) (n : BitVec 5) (v : W64) : (q.setS n v).pc = q.pc := by unfold Seqr.setS; split <;> rfl
@[simp] theorem Seqr.setS_a (q : Seqr) (n : BitVec 5) (v : W64) (r : BitVec 4) : (q.setS n v).a r = q.a r := by
  unfold Seqr.setS; split <;> rfl
@[simp] theorem Seqr.setS_p (q : Seqr) (n : BitVec 5) (v : W64) (r : BitVec 3) : (q.setS n v).p r = q.p r := by
  unfold Seqr.setS; split <;> rfl

theorem Seqr.setA_a (q : Seqr) (n : BitVec 4) (v : W64) (r : BitVec 4) : (q.setA n v).a r = if r = n then v else q.a r := by
  simp only [Seqr.setA, Seqr.a, tget_tset]
  by_cases hr : r = n
  · subst hr; simp
  · simp [hr, show r.toNat ≠ n.toNat from fun h => hr (BitVec.eq_of_toNat_eq h)]

@[simp] theorem Seqr.setA_s (q : Seqr) (n : BitVec 4) (v : W64) (r : BitVec 5) : (q.setA n v).s r = q.s r := rfl
@[simp] theorem Seqr.setA_p (q : Seqr) (n : BitVec 4) (v : W64) (r : BitVec 3) : (q.setA n v).p r = q.p r := rfl
@[simp] theorem Seqr.setA_pc (q : Seqr) (n : BitVec 4) (v : W64) : (q.setA n v).pc = q.pc := rfl

theorem Seqr.setP_p (q : Seqr) (n : BitVec 3) (v : Bool) (r : BitVec 3) :
    (q.setP n v).p r = if r = n ∧ n ≠ 0 then v else q.p r := by
  unfold Seqr.setP
  by_cases hn : n = 0
  · simp [hn]
  · simp only [hn, if_false, Seqr.p, tget_tset, ne_eq, not_false_eq_true, and_true]
    by_cases hr : r = n
    · subst hr; rw [if_neg hn, if_pos rfl, if_pos rfl]
    · simp [hr, show r.toNat ≠ n.toNat from fun h => hr (BitVec.eq_of_toNat_eq h)]

@[simp] theorem Seqr.setP_s (q : Seqr) (n : BitVec 3) (v : Bool) (r : BitVec 5) : (q.setP n v).s r = q.s r := by
  unfold Seqr.setP; split <;> rfl
@[simp] theorem Seqr.setP_a (q : Seqr) (n : BitVec 3) (v : Bool) (r : BitVec 4) : (q.setP n v).a r = q.a r := by
  unfold Seqr.setP; split <;> rfl
@[simp] theorem Seqr.setP_pc (q : Seqr) (n : BitVec 3) (v : Bool) : (q.setP n v).pc = q.pc := by unfold Seqr.setP; split <;> rfl

@[simp] theorem Seqr.writeS_a (q : Seqr) (n : BitVec 5) (v : W64) (r : BitVec 4) : (q.writeS n v).a r = q.a r := Seqr.setS_a q n v r
@[simp] theorem Seqr.writeS_p (q : Seqr) (n : BitVec 5) (v : W64) (r : BitVec 3) : (q.writeS n v).p r = q.p r := Seqr.setS_p q n v r
@[simp] theorem Seqr.writeS_pc (q : Seqr) (n : BitVec 5) (v : W64) : (q.writeS n v).pc = q.pc := Seqr.setS_pc q n v
theorem Seqr.writeS_s (q : Seqr) (n : BitVec 5) (v : W64) (r : BitVec 5) :
    (q.writeS n v).s r = if r = n ∧ n ≠ 0 then v else q.s r := Seqr.setS_s q n v r

end Sys2Proof.Machine
end

