-- ==== Sys2Proof/Laws/Issue.lean ====
section
/-! SUPPORT. Everything the shared issue of instructions can do: it executes, it skips, it holds, it faults or it does nothing. -/

set_option Elab.async false -- one theorem after another: the package as one text then needs few threads

namespace Sys2Proof.Machine
open Sys2Proof

/-- No source register waits where their data is here. -/
theorem waitingReg_none {q : Seqr} {rs : List (BitVec 5)} (h : DataHere q rs) : waitingReg q rs = none := by
  unfold waitingReg
  rw [List.find?_eq_none]
  intro r hr
  simp only [List.any_eq_true, beq_iff_eq, not_exists, not_and]
  exact fun w hw => h r hr w hw

/-- The form of an instruction is allowed to the core. -/
def Form.allowed (f : Form) (c : Core) : Bool := f.wf && (if c.isTile then f.tile else f.svc)

/-- An instruction that executes has its own effect. -/
theorem issue_executes {s : State} {c : Core} {g : Guard} {f : Form} (h : Executes s c g f.reads) (hf : f.allowed c = true)
    (body : State → Iss) : issue s c g f body = .next (finish c f (body s)) := by
  obtain ⟨h1, h2, h3⟩ := h
  obtain ⟨hw, hp⟩ : f.wf = true ∧ (if c.isTile then f.tile else f.svc) = true := by simpa [Form.allowed] using hf
  simp only [issue, h1, hw, hp, h2, waitingReg_none h3]
  simp

/-- An instruction whose guard is false is skipped. R240. -/
theorem issue_skips {s : State} {c : Core} {g : Guard} {f : Form} (h : canIssue s c = true) (hg : guardOn (s.seqr c) g = false)
    (hf : f.allowed c = true) (body : State → Iss) : issue s c g f body = .next (advance s c f.size) := by
  obtain ⟨hw, hp⟩ : f.wf = true ∧ (if c.isTile then f.tile else f.svc) = true := by simpa [Form.allowed] using hf
  simp only [issue, h, hw, hp, hg]
  simp

/-- An undefined form faults whatever its guard. R199, R239. -/
theorem issue_faults {s : State} {c : Core} {g : Guard} {f : Form} (h : canIssue s c = true) (hf : f.allowed c = false)
    (body : State → Iss) : issue s c g f body = .next (coreFault s c .operandInvalid clsIssue) := by
  have : (!f.wf || !(if c.isTile then f.tile else f.svc)) = true := by
    simp only [Form.allowed, Bool.and_eq_false_iff] at hf
    rcases hf with hf | hf <;> rw [hf] <;> simp
  simp only [issue, h, this]
  simp

/-- A sequencer that cannot issue is left as it is. -/
theorem issue_idle {s : State} {c : Core} {g : Guard} {f : Form} (h : canIssue s c = false) (body : State → Iss) :
    issue s c g f body = .next s := by
  simp [issue, h]

/-- A change of one sequencer depends only on what it makes of that sequencer. -/
theorem modSeqr_congr {s : State} {c : Core} {f f' : Seqr → Seqr} (h : f (s.seqr c) = f' (s.seqr c)) :
    s.modSeqr c f = s.modSeqr c f' := by
  cases c <;> simp only [State.modSeqr, State.modTile, State.modMiller, State.seqr] at * <;> rw [h]

/-- An instruction on registers alone. -/
theorem issueReg_executes {s : State} {c : Core} {g : Guard} {f : Form} (h : Executes s c g f.reads) (hf : f.allowed c = true)
    (e : Seqr → Seqr) : issueReg s c g f e = .next (advance (s.modSeqr c e) c f.size) := by
  unfold issueReg
  rw [issue_executes h hf]
  rfl

/-- No check of a list faults. -/
theorem firstFlt_eq_none (fs : List Flt) : firstFlt fs = .none ↔ ∀ f ∈ fs, f = .none := by
  induction fs with
  | nil => simp [firstFlt]
  | cons f fs ih => cases f <;> simp [firstFlt, ih]

@[simp] theorem faultIf_eq_none (b : Bool) (f : Flt) : faultIf b f = .none ↔ b = false ∨ f = .none := by
  cases b <;> simp [faultIf]

/-- Two changes of one tile are one. -/
theorem modTile_modTile (s : State) (p : Nat) (f g : Tile → Tile) :
    (s.modTile p f).modTile p g = s.modTile p (fun t => g (f t)) := by
  simp only [State.modTile, State.setTile, State.tile]
  rw [tget_tset_same, tset_tset]

/-! ## Handshakes -/

/-- Handshakes of a tile change its counts and the progress of its run, and nothing else. -/
theorem tileHs_frame (s : State) (l n : Nat) :
    tileHs s l n = { s with tiles := (tileHs s l n).tiles, govs := (tileHs s l n).govs } := by
  unfold tileHs progress
  simp only
  split
  · rfl
  · split <;> rfl

theorem tileHs_tile (s : State) (l n j : Nat) : (tileHs s l n).tile j =
    (s.modTile (s.phys l) (fun t => { t with hs := (t.hs + n) % 2 ^ 64, window := t.window + n })).tile j := by
  unfold tileHs progress
  simp only
  split
  · rfl
  · split <;> rfl

@[simp] theorem tileHs_phys (s : State) (l n j : Nat) : (tileHs s l n).phys j = s.phys j := by
  rw [tileHs_frame]; rfl

/-- The sequencer after its registers change and its pc advances. -/
theorem advance_seqr (s : State) (c : Core) (n : W64) (e : Seqr → Seqr) :
    (advance (s.modSeqr c e) c n).seqr c = { e (s.seqr c) with pc := (e (s.seqr c)).pc + n } := by
  cases c with
  | tile l =>
    simp only [advance, coreHs, State.seqr]
    rw [tileHs_phys, tileHs_tile]
    simp only [State.modSeqr_phys]
    simp only [State.modSeqr]
    rw [show (s.modTile (s.phys l) _).phys l = s.phys l from rfl]
    simp [State.modTile_tile]
  | miller m => simp [advance, coreHs, State.seqr, State.modSeqr]

end Sys2Proof.Machine
end

