-- ==== Sys2Proof/Tests/States.lean ====
section
/-! SUPPORT. Small states for the tests. -/

set_option Elab.async false -- one theorem after another: the package as one text then needs few threads

namespace Sys2Proof.Tests
open Sys2Proof Sys2Proof.Machine

/-- The state that a chain of changes makes of the state after reset. -/
def from0 (fs : List (State → State)) : State := fs.foldl (fun (s : State) f => f s) State.reset

/-- A run record of context 5 on logical tiles 4 and 6 of die 0. -/
def rec5 : RunRec where
  args := []
  rsvd := false
  tileMask := 80
  cplRing := 0
  limit := 0
  regionList := 0
  nRegions := 1
  ver := true
  nGrist := 0
  nStrm := 0
  nAttn := 1
  die := 0
  ctx := 5
  step := 3
  seqno := 9
  progAddr := 0x10000

/-- Run 7: active, with one region that covers all of Millpond and attention engine 1. -/
def run7 : Run where
  rid := 7
  rr := rec5
  phase := .active
  regions := [{ base := 0, size := 0x600000, scope := 1, rw := true }]
  engines := [1]
  slots := [8]

/-- Owner tags of context 5 over `n` blocks from block `b` of physical tile `p`. -/
def owns (p b n : Nat) (s : State) : State := { s with owner := s.owner ++ (List.range n).map (fun i => (1536 * p + b + i, 6)) }

/-- Logical tile 4 runs under run 7, with its pc at program offset 0x100. -/
def onTile (f : Seqr → Seqr) (s : State) : State :=
  (((s.modTile 4 (fun t => { t with seqr := f { t.seqr with mode := .running, pc := 0x10100 } })).modLTile 4
    (fun t => { t with st := .held, run := some 7 })).modGov 0 (fun g => { g with runs := [run7] }))

/-- Miller core 2 runs. -/
def onCore (f : Seqr → Seqr) (s : State) : State :=
  s.modMiller 2 (fun m => { m with run := .running, seqr := f { m.seqr with mode := .running, pc := 0x4000 } })

/-- Tile 4 of run 7 with a change of its unit state. -/
def withTile (f : Tile → Tile) (s : State) : State := s.modTile 4 f

/-- Logical tile 4 running, Miller core 2 running. -/
def both : State := from0 [onTile id, onCore id]

/-- Context 5 maps its first 2 MiB onto the HBM frame at 0x200000, readable and writable. -/
def mapped (s : State) : State :=
  { s with memb := { s.memb with
    roots := [(5, 0x10001)]
    xlat := [{ ctx := 5, level := 2, idx := 0, entry := 1 }, { ctx := 5, level := 1, idx := 0, entry := 0x200013 }] } }

def gOn : Guard := { g := 0, gn := false }
def gOff : Guard := { g := 0, gn := true }

/-- An instruction of a core that may issue and waits for no data executes under a guard that holds. -/
theorem executes_of {s : State} {c : Core} (h1 : canIssue s c = true) (h2 : (s.seqr c).waiting = []) (rs : List (BitVec 5))
    (h3 : guardOn (s.seqr c) gOn = true) : Executes s c gOn rs :=
  ⟨h1, h3, fun r _ w hw => by simp [h2] at hw⟩

end Sys2Proof.Tests
end

