-- ==== Sys2Proof/Tests/Slice0.lean ====
section
/-! SUPPORT. The smoke test of well-formedness, an ill-formed command for each check; words written out from the spec's encodings; and
small tests whose expected values the spec gives. -/

set_option Elab.async false -- one theorem after another: the package as one text then needs few threads

namespace Sys2Proof.Tests
open Sys2Proof Sys2Proof.Machine

/-! ## Ill-formed commands -/

abbrev t4 : Core := .tile 4
abbrev m2 : Core := .miller 2

theorem test_wf_accepts : Instr.wf (.movRv t4 gOn 3 9) = true ∧ Instr.wf (.cmpCc t4 gOn 1 9 2 0 true 77) = true ∧
    Instr.wf (.tblBuild t4 gOn 1 false 2 2 5 15 15 3 0 false 2816 88) = true ∧ Instr.wf (.laccI2 t4 gOn 2 false 0 15 0 15 0xFFFF 511 0) = true ∧
    Instr.wf (.binOpen t4 gOn 0 0 true 0 0 0 0 0 15 0 0xFFF1 511) = true ∧ Instr.wf (.binClose t4 gOn 0 2 1 0) = true ∧
    Instr.wf (.strmRearm m2 gOn 1 0 3 true false) = true := by decide

/-- R249. -/
theorem test_wf_movRv_index : Instr.wf (.movRv t4 gOn 3 10) = false := by decide
/-- R250. -/
theorem test_wf_cmp_cc : Instr.wf (.cmpCc t4 gOn 1 10 2 3 false 0) = false := by decide
/-- R245. -/
theorem test_wf_cmp_unused : Instr.wf (.cmpCc t4 gOn 1 0 2 3 true 0) = false ∧ Instr.wf (.cmpCc t4 gOn 1 0 2 3 false 1) = false := by decide
/-- R259. -/
theorem test_wf_table_enc : Instr.wf (.tblBuild t4 gOn 1 false 7 2 5 15 15 3 0 false 2816 88) = false := by decide
theorem test_wf_table_bpos : Instr.wf (.tblBuild t4 gOn 1 false 2 3 5 15 15 3 0 false 2816 88) = false := by decide
theorem test_wf_table_ifmt : Instr.wf (.tblLoad t4 gOn 1 false 2 2 0 15 15 3 0 false) = false ∧
    Instr.wf (.tblLoad t4 gOn 1 false 2 2 6 15 15 3 0 false) = false := by decide
theorem test_wf_table_codebook : Instr.wf (.tblLoad t4 gOn 1 false 2 2 5 15 15 3 1 false) = false := by decide
theorem test_wf_table_scale : Instr.wf (.tblLoad t4 gOn 1 false 2 2 5 15 15 3 0 true) = false := by decide
/-- R266. -/
theorem test_wf_lacc_ring : Instr.wf (.laccI2 t4 gOn 2 false 0 15 0 15 7 511 0) = false ∧
    Instr.wf (.laccFp4 t4 gOn 0 false 0 15 0 15 7 511 1) = false := by decide
/-- R272. -/
theorem test_wf_open_src : Instr.wf (.binOpen t4 gOn 0 3 true 0 0 0 0 0 15 0 0 511) = false := by decide
theorem test_wf_open_scales : Instr.wf (.binOpen t4 gOn 0 0 true 0 3 0 0 0 15 0 0 511) = false ∧
    Instr.wf (.binOpen t4 gOn 0 0 true 0 1 3 0 0 15 0 0 511) = false ∧
    Instr.wf (.binOpen t4 gOn 0 0 true 0 0 0 0 1 15 0 0 511) = false := by decide
theorem test_wf_open_preload : Instr.wf (.binOpen t4 gOn 0 0 true 0 0 0 1 0 15 0 0 511) = false := by decide
theorem test_wf_open_anchor : Instr.wf (.binOpen t4 gOn 0 0 true 0 0 0 0 0 15 0 0x8000 511) = false ∧
    Instr.wf (.binOpen t4 gOn 0 0 false 0 0 0 0 0 15 0 1 511) = false := by decide
/-- R274. -/
theorem test_wf_close_dest : Instr.wf (.binClose t4 gOn 0 3 1 0) = false := by decide
/-- R278. -/
theorem test_wf_rearm : Instr.wf (.strmRearm t4 gOn 1 2 3 true false) = false ∧ Instr.wf (.strmRearm t4 gOn 1 0 3 false true) = false := by decide
/-- Cores, units and numbers that the package does not have. -/
theorem test_wf_units : Instr.wf (.nop (.tile 192) gOn) = false ∧ Instr.wf (.nop (.miller 16) gOn) = false ∧
    Instr.wf (.enableComplete (.tile 200)) = false ∧ Instr.wf (.enableFail (.engine 48)) = false ∧
    Instr.wf (.disableComplete (.lane 32)) = false ∧ Instr.wf (.unitEnableRequest (.port 16)) = false ∧
    Instr.wf (.unitDisableRequest (.core 16)) = false := by decide
theorem test_wf_agents : Instr.wf (.stallTick (.tile 200) []) = false ∧ Instr.wf (.stallTick (.engine 48) []) = false ∧
    Instr.wf (.stallTick (.slot 1024) []) = false := by decide
theorem test_wf_numbers : Instr.wf (.dispatch 4 0) = false ∧ Instr.wf (.bind 65536) = false ∧ Instr.wf (.planStep 4096 false [] [] [] 0) = false ∧
    Instr.wf (.vfFlr 0) = false ∧ Instr.wf (.passEnd 1024) = false ∧ Instr.wf (.mapChange 1 16384 true) = false ∧
    Instr.wf (.setpointReached 200) = false ∧ Instr.wf (.patrolScrub 12) = false ∧ Instr.wf (.crossingClockStop 34) = false := by decide

/-! ## Words -/

/-- A word from its fields: lowest bit and value. -/
def bits (fs : List (Nat × Nat)) : W64 := BitVec.ofNat 64 (fs.foldl (fun n f => n + f.2 * 2 ^ f.1) 0)

/-- The example of 06: `tbl.build h0, plane4, 64, int8, rows 16, nb 16, krem 2816, [a1], stride 88, rs [a3]`. -/
theorem test_word_tblBuild : decodeWords t4 0x508094A780780000 0x30000B0000580000 =
    .tblBuild t4 gOn 1 false 2 2 5 15 15 3 0 false 2816 88 := by decide
/-- The three lookup-accumulates of the example of 06. -/
theorem test_word_laccI2 : decodeWords t4 0x5A8101E00001E000 0xFFFF03FE00000000 = .laccI2 t4 gOn 2 false 0 15 0 15 0xFFFF 511 0 ∧
    decodeWords t4 0x5A8141E00001E000 0xFFFF03FE00020000 = .laccI2 t4 gOn 2 true 0 15 0 15 0xFFFF 511 0x20000 ∧
    decodeWords t4 0x5A8101E000016000 0xFFFF03FE00040000 = .laccI2 t4 gOn 2 false 0 15 0 11 0xFFFF 511 0x40000 := by decide
/-- `(p2) add.i s4, s4, 1`. R236, R244. -/
theorem test_word_addI : decodeWords t4 (bits [(56, 0x20), (52, 2), (46, 4), (41, 4), (0, 1)]) 0 = .addI t4 ⟨2, false⟩ 4 4 1 := by decide
theorem test_word_sub : decodeWords m2 (bits [(56, 0x11), (51, 1), (46, 31), (41, 1), (36, 2)]) 0 = .sub m2 gOff 31 1 2 := by decide
theorem test_word_cmp : decodeWords t4 (bits [(56, 0x35), (48, 5), (44, 8), (39, 3), (33, 1), (0, 9)]) 0 = .cmpCc t4 gOn 5 8 3 0 true 9 := by decide
theorem test_word_pLop : decodeWords t4 (bits [(56, 0x36), (48, 1), (45, 2), (42, 3), (40, 2)]) 0 = .pLop t4 gOn 1 2 3 2 := by decide
theorem test_word_adda : decodeWords t4 (bits [(56, 0x34), (42, 1), (38, 1), (0, 1024)]) 0 = .addaI t4 gOn 1 1 1024 := by decide
theorem test_word_ld : decodeWords t4 (bits [(56, 0x40), (46, 7), (42, 9), (40, 2), (39, 1), (0, 0xFFFFFFFC)]) 0 =
    .ld t4 gOn 7 9 2 true 0xFFFFFFFC := by decide
theorem test_word_stc : decodeWords m2 (bits [(56, 0x43), (46, 7), (42, 9), (40, 3), (34, 11), (0, 8)]) 0 = .stc m2 gOn 7 9 3 11 8 := by decide
/-- `bin.open bin 1, zero, rows 16, ch 512, lin 1, fixed, head 0, anch -15, none`. R272. -/
theorem test_word_binOpen : decodeWords t4 (bits [(56, 0x60), (55, 1), (48, 1), (45, 1), (17, 15), (14, 1)])
    (bits [(48, 0xFFF1), (33, 511)]) = .binOpen t4 gOn 1 0 true 0 0 0 0 0 15 1 0xFFF1 511 := by decide
theorem test_word_binClose : decodeWords t4 (bits [(56, 0x61), (48, 3), (46, 2), (42, 5), (0, 64)]) 0 = .binClose t4 gOn 3 2 5 64 := by decide
theorem test_word_attn : decodeWords t4 (bits [(56, 0x68), (47, 6), (43, 11), (0, 128)]) 0 = .attn t4 gOn 6 11 128 := by decide
theorem test_word_rearm : decodeWords m2 (bits [(56, 0x71), (45, 33), (35, 3), (34, 1)]) 0 = .strmRearm m2 gOn 33 0 3 true false := by decide
theorem test_word_ringClaim : decodeWords t4 (bits [(56, 0x7B), (46, 2), (41, 3), (0, 5)]) 0 = .ringClaim t4 gOn 2 3 5 := by decide
theorem test_word_sluiceReset : decodeWords m2 (bits [(56, 0x82), (46, 4), (41, 5), (36, 6)]) 0 = .sluiceReset m2 gOn 4 5 6 := by decide
theorem test_word_hringPeek : decodeWords m2 (bits [(56, 0x84), (48, 1), (41, 2), (37, 3), (0, 64)]) 0 = .hringPeek m2 gOn 1 2 3 64 := by decide
theorem test_word_atom : decodeWords t4 (bits [(56, 0x8A), (46, 1), (41, 2), (37, 3), (0, 8)]) 0 = .atomAddP64 t4 gOn 1 2 3 8 := by decide
theorem test_word_gtab : decodeWords m2 (bits [(56, 0x92), (46, 1), (41, 2), (37, 3), (33, 4), (0, 32)]) 0 = .gtabInstall m2 gOn 1 2 3 4 32 := by decide
theorem test_word_psort : decodeWords m2 (bits [(56, 0xA8), (46, 1), (37, 3), (0, 32)]) 0 = .psort m2 gOn 1 3 32 := by decide
/-- OP 0x00, a bit that a format marks as zero, X of the wrong form, and a mnemonic of the other profile. R238. -/
theorem test_word_undefined : decodeWords t4 0 0 = .undefinedEncoding t4 0 0 ∧
    decodeWords t4 (bits [(56, 0x01), (0, 1)]) 0 = .undefinedEncoding t4 (bits [(56, 0x01), (0, 1)]) 0 ∧
    decodeWords t4 (bits [(56, 0x10), (55, 1)]) 0 = .undefinedEncoding t4 (bits [(56, 0x10), (55, 1)]) 0 ∧
    decodeWords m2 (bits [(56, 0x61)]) 0 = .undefinedEncoding m2 (bits [(56, 0x61)]) 0 := by decide

/-! ## Worked examples of the spec -/

/-- The block of 02: 37.5, −3.140625, 0.0458984375 and −0.0 in FP16, with twelve zeros, has s = 132 and the mantissas 1,200, −100, 1, 0. -/
theorem test_bs12_example :
    bs12 (([0x50B0, 0xC248, 0x29E0, 0x8000] ++ List.replicate 12 0).map (fdecode fmtFp16)) = (132, [1200, -100, 1, 0] ++ List.replicate 12 0, false) := by
  decide +kernel

/-- The sum of 02: 2^47 − 8 at −20 and 3,075 at −28 give 70,368,744,177,666 at −19. -/
theorem test_p64_example : P64.add ⟨140737488355320, -20⟩ ⟨3075, -28⟩ = ⟨70368744177666, -19⟩ := by decide +kernel

/-- The plane group of 01: words 1,300, 175 and −78 at indexes 9, 3 and 6. -/
theorem test_plane_example : [9, 3, 6].map (planeWord [300, -125, 47, 1000]) = [1300, 175, -78] := by decide +kernel

/-- T[20] of a TER group is m0 − m1 + m2. 01. -/
theorem test_ter_example : terWord [300, -125, 47] 20 = 300 + 125 + 47 := by decide +kernel

/-- The codes of the example of 09: 00 and 01 for 121 and 122, 100 for 120, 11100 for 118, 111011 for 125, and 3,840 for 0. -/
theorem test_codes_example :
    let l (i : Nat) : Nat := if i = 121 ∨ i = 122 then 2 else if i = 120 ∨ i = 123 then 3 else if i = 119 ∨ i = 124 then 4 else
      if i = 118 then 5 else if i = 117 ∨ i = 125 then 6 else 12
    let cs := codesOf ((List.range 256).map (fun i => (i, l i)))
    [(121, 2, 0), (122, 2, 1), (120, 3, 4), (118, 5, 28), (125, 6, 59), (0, 12, 3840), (255, 12, 4086)].all (fun c => cs.contains c) = true := by
  decide +kernel

/-- The address of 10: 0x0024_0000_5040 lies on die 1, stack 5, stack block 1 and pseudo-channel 1. -/
theorem test_hbm_address_example :
    (hbmDie 0x2400005040, hbmStack 0x2400005040, hbmSblk 0x2400005040, hbmPc 0x2400005040) = (1, 5, 1, 1) := by decide +kernel

/-- K_M has the syndromes 0, 0, 0 and 1. R431. -/
theorem test_kmark : (List.range 4).map (synd kMark) = [0, 0, 0, 1] := by decide +kernel

/-! ## One step -/

/-- The registers of tile 4 after one command on it. -/
def after (f : Seqr → Seqr) (i : Instr) (r : BitVec 5) : Option W64 :=
  match step { from0 [onTile f] with pending := [i] } with
  | .next t => some ((t.seqr t4).s r)
  | _ => none

/-- R248: sums are modulo 2^64, and the immediate is sign-extended. -/
theorem test_add_wraps : after (fun q => q.setS 1 0xFFFFFFFFFFFFFFFF) (.addI t4 gOn 2 1 1) 2 = some 0 := by decide +kernel
theorem test_add_sign : after (fun q => q.setS 1 5) (.addI t4 gOn 1 1 0xFFFFFFFF) 1 = some 4 := by decide +kernel
/-- `divu` by zero gives all ones and `remu` the dividend. -/
theorem test_divu_zero : after (fun q => q.setS 1 9) (.divu t4 gOn 2 1 0) 2 = some 0xFFFFFFFFFFFFFFFF := by decide +kernel
theorem test_remu_zero : after (fun q => q.setS 1 9) (.remu t4 gOn 2 1 0) 2 = some 9 := by decide +kernel
/-- The shift amount is sb[5:0]. -/
theorem test_shift_amount : after (fun q => (q.setS 1 3).setS 2 65) (.shl t4 gOn 3 1 2) 3 = some 6 := by decide +kernel
/-- −0 lies below +0 for `fmin`, and a NaN gives the canonical NaN. R252. -/
theorem test_fmin_zero : after (fun q => q.setS 1 0x80000000) (.fmin t4 gOn 3 0 1) 3 = some 0x80000000 := by decide +kernel
/-- s0 reads zero and drops what is written. R200. -/
theorem test_s0 : after (fun q => q.setS 1 7) (.addI t4 gOn 0 1 1) 0 = some 0 := by decide +kernel

/-- An empty queue: the clocks tick. -/
theorem test_idle : (match step State.reset with
    | .next t => some ((t.tile 7).ticks, (t.mrc 3).ticks, t.hdr.ticks1, t.fan.mclk)
    | _ => none) = some (1, 1, 1, 1) := by decide +kernel

end Sys2Proof.Tests
end

