-- ==== Sys2Proof/Tests/WitnessA.lean ====
section
/-! SUPPORT. States and operands that meet the hypotheses of the statements about sequencers, clause by clause. -/

set_option Elab.async false -- one theorem after another: the package as one text then needs few threads

namespace Sys2Proof.Tests
open Sys2Proof Sys2Proof.Machine

theorem tile_executes (rs : List (BitVec 5)) : Executes both (.tile 4) gOn rs :=
  executes_of (by decide +kernel) (by decide +kernel) rs (by decide +kernel)

theorem core_executes (rs : List (BitVec 5)) : Executes both (.miller 2) gOn rs :=
  executes_of (by decide +kernel) (by decide +kernel) rs (by decide +kernel)

theorem witness_integerForms : Executes both (.tile 4) gOn [0, 31] ∧ Executes both (.miller 2) gOn [31] :=
  ⟨tile_executes _, core_executes _⟩

theorem witness_movesAndRunValues : Executes both (.tile 4) gOn [] ∧ Executes both (.miller 2) gOn [0] ∧
    (9 : BitVec 32).toNat ≤ 9 ∧ both.runOf 4 = some run7 :=
  ⟨tile_executes _, core_executes _, by decide, by decide +kernel⟩

theorem witness_comparesAndPredicates : Executes both (.tile 4) gOn [0, 31] ∧ Executes both (.miller 2) gOn [31] ∧
    (9 : BitVec 4).toNat ≤ 9 ∧ f32 0x7F800001 = .nan :=
  ⟨tile_executes _, core_executes _, by decide, by decide +kernel⟩

theorem witness_fp32Forms : Executes both (.tile 4) gOn [0, 31] ∧ Executes both (.miller 2) gOn [31] :=
  ⟨tile_executes _, core_executes _⟩

theorem witness_fp32NanIsCanonical : fdiv32 ∈ [fadd32, fsub32, fmul32, fdiv32, fmin32, fmax32] ∧ f32 (fdiv32 0 0x80000000) = .nan ∧
    f32 0xFFFFFFFF = .nan :=
  ⟨by simp, by decide +kernel, by decide +kernel⟩

theorem witness_controlForms : Executes both (.tile 4) gOn [] ∧ Executes both (.miller 2) gOn [31] :=
  ⟨tile_executes _, core_executes _⟩

/-- `nop` with the guard `!p0`. -/
theorem witness_falseGuardSkips : canIssue both (.tile 4) = true ∧ definedWords 0x0108000000000000 0 = true ∧
    profileOk true 0x0108000000000000 = true ∧
    (both.seqr (.tile 4)).p ((0x0108000000000000 : W64).extractLsb' 52 3) = (0x0108000000000000 : W64).getLsbD 51 := by
  decide +kernel

/-- Opcode 0x00 is never defined; `hring.pop` belongs to the service profile, and `tbl.save` to the tile profile. -/
theorem witness_undefinedWordsFault : canIssue both (.tile 4) = true ∧ canIssue both (.miller 2) = true ∧
    (definedWords 0 0 && profileOk true 0) = false ∧ (definedWords 0x8500000000000000 0 && profileOk true 0x8500000000000000) = false ∧
    (definedWords 0x5100000000000000 0 && profileOk false 0x5100000000000000) = false ∧ both.runOf 4 = some run7 := by
  decide +kernel

/-- a0 holds the last word of a block of the A bank, and Miller core 2 the last aligned address of its data memory. -/
def loads : State :=
  from0 [onTile (fun q => q.setA 0 0x300FFC), onCore (fun q => (q.setA 1 0xFFFFFFFFFFFC).setS 3 5), owns 4 768 1, mapped]

theorem loads_tile (rs : List (BitVec 5)) : Executes loads (.tile 4) gOn rs :=
  executes_of (by decide +kernel) (by decide +kernel) rs (by decide +kernel)

theorem loads_core (rs : List (BitVec 5)) : Executes loads (.miller 2) gOn rs :=
  executes_of (by decide +kernel) (by decide +kernel) rs (by decide +kernel)

theorem loads_own (write : Bool) : OwnAccess loads 4 run7 (effAddr (loads.seqr (.tile 4)) 0 0).toNat (2 ^ 2) write 0x300FFC := by
  unfold OwnAccess
  cases write <;> decide +kernel

theorem witness_loadsReadTheirBytes : Executes loads (.tile 4) gOn [] ∧ loads.runOf 4 = some run7 ∧
    OwnAccess loads 4 run7 (effAddr (loads.seqr (.tile 4)) 0 0).toNat (2 ^ 2) false 0x300FFC ∧
    classify (loads.word (millKey (loads.phys 4) 0x300FFC)).2 = .clean ∧ Executes loads (.miller 2) gOn [3] ∧
    (2 ^ 2 ∣ (effAddr (loads.seqr (.miller 2)) 1 0).toNat ∧ (effAddr (loads.seqr (.miller 2)) 1 0).toNat < 2 ^ 48) ∧
    svcPending loads 2 (((loads.seqr (.miller 2)).s 3).toNat % 4096) (effAddr (loads.seqr (.miller 2)) 0 0x100).toNat (2 ^ 3) = false ∧
    (ctxAddr loads (((loads.seqr (.miller 2)).s 3).toNat % 4096) (effAddr (loads.seqr (.miller 2)) 0 0x100).toNat permRead (2 ^ 3) false).2 =
      .here (.hbm 0x200100) ∧
    (classify (loads.word 0x200100).2 = .clean ∧ barred loads (2 / 4) (.hbm 0x200100) = false) ∧ ¬ 2 ^ 3 ∣ (effAddr (loads.seqr (.tile 4)) 0 0).toNat :=
  ⟨loads_tile _, by decide +kernel, loads_own _, by decide +kernel, loads_core _, by decide +kernel, by decide +kernel, by decide +kernel,
    by decide +kernel, by decide +kernel⟩

theorem witness_storesWriteTheirBytes : Executes loads (.tile 4) gOn [0] ∧ loads.runOf 4 = some run7 ∧
    OwnAccess loads 4 run7 (effAddr (loads.seqr (.tile 4)) 0 0).toNat (2 ^ 2) true 0x300FFC ∧
    classify (loads.word (millKey (loads.phys 4) 0x300FFC)).2 = .clean ∧
    (mpTarget run7 4 (effAddr (loads.seqr (.tile 4)) 1 0x40800000).toNat = some (6, 0) ∧ regionOk run7 false true 0 (2 ^ 3) = true ∧
      (loads.tile (loads.phys 4)).atomQ.length < 16) ∧
    Executes loads (.miller 2) gOn [3, 4] ∧
    (2 ^ 2 ∣ (effAddr (loads.seqr (.miller 2)) 1 0).toNat ∧ (effAddr (loads.seqr (.miller 2)) 1 0).toNat < 2 ^ 48) ∧
    (ctxAddr loads (((loads.seqr (.miller 2)).s 3).toNat % 4096) (effAddr (loads.seqr (.miller 2)) 0 0x100).toNat permWrite (2 ^ 3) false).2 =
      .here (.hbm 0x200100) ∧ (classify (loads.word 0x200100).2 = .clean ∧ barred loads (2 / 4) (.hbm 0x200100) = false) :=
  ⟨loads_tile _, by decide +kernel, loads_own _, by decide +kernel, by decide +kernel, loads_core _, by decide +kernel, by decide +kernel,
    by decide +kernel⟩

end Sys2Proof.Tests
end

