-- ==== Sys2Proof/Tests/WitnessB.lean ====
section
/-! SUPPORT. States and operands that meet the hypotheses of the statements about a tile's units, clause by clause. -/

set_option Elab.async false -- one theorem after another: the package as one text then needs few threads

namespace Sys2Proof.Tests
open Sys2Proof Sys2Proof.Machine

/-! ## Table instructions -/

/-- a0 names activations at the start of the A bank, a1 a codebook there, a2 row scales; the saved image lies in the A bank. -/
def tables : State :=
  from0 [onTile (fun q => ((q.setA 0 0x300000).setA 1 0x301000).setA 2 0x302000), owns 4 768 33]

def cbRec : HalfRec := { enc := .cb, bpos := 16, m := 1, nb := 1, rs := some 0x302000, cb := some 0x301000 }

def cbBuild : BuildOp := { pc := 0x10100, half := true, hr := cbRec, ifmt := .bf16, src := 0x300000, krem := 16, rstride := 0 }

theorem tables_executes : Executes tables (.tile 4) gOn [] :=
  executes_of (by decide +kernel) (by decide +kernel) [] (by decide +kernel)

theorem tables_vectors : VectorsOk tables 4 run7 5 2 1 false 1 :=
  ⟨fun _ => by decide +kernel, fun _ => ⟨0x301000, by decide +kernel⟩⟩

theorem tables_rows : ∀ x ∈ cbBuild.rows, x.2 ≠ 0 → inBank 1 x.1 x.2 = true ∧ ownRange tables run7 4 false x.1 x.2 = .none := by
  decide +kernel

theorem witness_tableInstructionsEnqueue : Executes tables (.tile 4) gOn [] ∧ tables.runOf 4 = some run7 ∧
    wfTbl 5 0 1 2 1 false = true ∧ fmtOf (1 : BitVec 4).toNat = some .bf16 ∧ recordOf tables 4 run7 5 0 0 0 2 1 false = cbRec ∧
    ownOff run7 4 ((tables.seqr (.tile 4)).a 0).toNat = some 0x300000 ∧ fmtBytes .bf16 ∣ ((tables.seqr (.tile 4)).a 0).toNat ∧
    buildFits .cb 16 1 1 = true ∧ VectorsOk tables 4 run7 5 2 1 false 1 ∧
    (∀ x ∈ cbBuild.rows, x.2 ≠ 0 → inBank 1 x.1 x.2 = true ∧ ownRange tables run7 4 false x.1 x.2 = .none) ∧
    (tables.tile (tables.phys 4)).hopQ.length < 4 ∧ inBank 1 0x300000 135168 = true ∧
    ownRange tables run7 4 true 0x300000 135168 = .none ∧ ownRange tables run7 4 false 0x300000 135168 = .none :=
  ⟨tables_executes, by decide +kernel, by decide, by decide, by decide +kernel, by decide +kernel, by decide +kernel, by decide +kernel,
    tables_vectors, tables_rows, by decide +kernel, by decide +kernel, by decide +kernel, by decide +kernel⟩

/-! ## Lookup-accumulates -/

def i2Rec : HalfRec := { enc := .plane4, bpos := 16, m := 2, nb := 4, rs := none, cb := none }

/-- Half 0 has a record, and bin 7 is open for two rows of 2,048 channels; ring 9 is a bucket ring of context 5. -/
def lookups : State :=
  from0 [onTile id, owns 4 0 8,
    withTile (fun t => { t with iss0 := some i2Rec, issBins := [(7, { st := .opened, nRow := 2, nCh := 2048 })] }),
    fun s => s.modRing 9 (fun r => { r with kind := .bucket, ctx := 5, entries := 4, entryUnits := 128 })]

theorem lookups_executes : Executes lookups (.tile 4) gOn [] :=
  executes_of (by decide +kernel) (by decide +kernel) [] (by decide +kernel)

theorem lookups_fit : LookupFits lookups 4 run7 .i2 i2Rec 7 2 2048 3 1 := by
  refine ⟨by decide +kernel, by decide +kernel, by decide +kernel, by decide +kernel, ?_⟩
  decide +kernel

theorem witness_lookupsEnqueue : Executes lookups (.tile 4) gOn [] ∧ lookups.runOf 4 = some run7 ∧
    (lookups.tile (lookups.phys 4)).iss0 = some i2Rec ∧ LookupFits lookups 4 run7 .i2 i2Rec 7 2 2048 3 1 ∧
    ownOff run7 4 (effAddr (lookups.seqr (.tile 4)) 0 0).toNat = some 0 ∧
    (let total := 1 * LaccKind.planes .i2 * chWaves i2Rec.width 2048 * waveBytes i2Rec.enc i2Rec.width
     inBank 0 0 total = true ∧ ownRange lookups run7 4 false 0 total = .none) ∧
    (lookups.tile (lookups.phys 4)).lookQ.length < 8 ∧ (9 : BitVec 16) ≠ 0xFFFF ∧
    (let q := lookups.ring 9
     q.kind = .bucket ∧ q.ctx = run7.rr.ctx ∧ waveBytes i2Rec.enc i2Rec.width ≤ q.slotBytes ∧ q.cons = none) :=
  ⟨lookups_executes, by decide +kernel, by decide +kernel, lookups_fit, by decide +kernel, by decide +kernel, by decide +kernel,
    by decide +kernel, by decide +kernel⟩

/-! ## Bins and attention -/

/-- A Tailrace descriptor and an attention descriptor stand in the A bank; bin 0 is open. -/
def binsAt : State :=
  from0 [onTile (fun q => (((q.setA 0 0x500000).setA 1 0x508000).setA 2 0x300000).setA 3 0x300040), owns 4 768 1, owns 4 1280 9,
    withTile (fun t => { t with issBins := [(0, { st := .opened, nRow := 1, nCh := 1 })] }),
    fun s => s.setBytes (millKey 4 0x30000C) (List.replicate 12 0xFF),
    fun s => s.setBytes (millKey 4 0x300040) (natToBytes 0x500000 4 ++ natToBytes 0 4 ++ natToBytes 0x501000 4 ++ natToBytes 0 4 ++
      natToBytes 0x502000 4 ++ natToBytes 1 4 ++ natToBytes 0 16 ++ natToBytes 0 4 ++ natToBytes 4 2 ++
      [1, 0x18, 1, 0] ++ natToBytes 0 4 ++ natToBytes 0xFFFF 2)]

def tailBytes : List Byte := (readBytes binsAt (.mill 4 0x300000) 64).2.1
def attnBytes : List Byte := (readBytes binsAt (.mill 4 0x300040) 64).2.1

theorem binsAt_executes : Executes binsAt (.tile 4) gOn [] :=
  executes_of (by decide +kernel) (by decide +kernel) [] (by decide +kernel)

/-- A preload with CLEAR and group scales, of the last bin. -/
theorem binsAt_open : wfBinOpen 2 true 1 2 0 1 0x7FFF = true ∧ (7 : BitVec 3).toNat < 8 ∧
    (0 : BitVec 3).toNat * 4096 < ((0 : BitVec 12).toNat + 1) * ((0 : BitVec 15).toNat + 1) ∧
    (∃ a, ownOff run7 4 ((binsAt.seqr (.tile 4)).a 0).toNat = some a ∧ 32 ∣ a ∧ inBank 2 a 32768 = true ∧
      ownRange binsAt run7 4 true a 32768 = .none) ∧
    (∃ a, ownOff run7 4 ((binsAt.seqr (.tile 4)).a 1).toNat = some a ∧ 2 ∣ a ∧ (inBank 1 a 2 = true ∨ inBank 2 a 2 = true) ∧
      ownRange binsAt run7 4 false a 2 = .none) ∧
    (tget {} (binsAt.tile (binsAt.phys 4)).issBins 7).st ≠ .opened ∧ (binsAt.tile (binsAt.phys 4)).binQ.length < 8 :=
  ⟨by decide, by decide, by decide, ⟨0x500000, by decide +kernel⟩, ⟨0x508000, by decide +kernel⟩, by decide +kernel, by decide +kernel⟩

theorem binsAt_close : (tget {} (binsAt.tile (binsAt.phys 4)).issBins 0).st = .opened ∧
    ownOff run7 4 (effAddr (binsAt.seqr (.tile 4)) 0 0).toNat = some 0x500000 ∧ 32 ∣ 0x500000 ∧ inBank 2 0x500000 32768 = true ∧
    (0x500000).testBit 30 = false ∧ ownRange binsAt run7 4 true 0x500000 32768 = .none ∧
    mpRange binsAt run7 4 0x500000 true 32768 = .none := by
  decide +kernel

theorem binsAt_tail : ownOff run7 4 (effAddr (binsAt.seqr (.tile 4)) 2 0).toNat = some 0x300000 ∧ 64 ∣ 0x300000 ∧
    inBank 1 0x300000 64 = true ∧ ownRange binsAt run7 4 false 0x300000 64 = .none ∧
    (readBytes binsAt (.mill (binsAt.phys 4) 0x300000) 64).2.2 = .ok ∧
    tailFieldsOk tailBytes (tailDesc run7 4 tailBytes) 1 1 0 = true ∧
    (∀ f ∈ tailPlaces binsAt run7 4 (tailDesc run7 4 tailBytes) true 1 1 0, f = Flt.none) ∧ (tailDesc run7 4 tailBytes).grsEn = false := by
  decide +kernel

theorem binsAt_attn : 64 ∣ (effAddr (binsAt.seqr (.tile 4)) 3 0).toNat ∧
    mpRange binsAt run7 4 (effAddr (binsAt.seqr (.tile 4)) 3 0).toNat false 64 = .none ∧
    mpPlace binsAt run7 4 (effAddr (binsAt.seqr (.tile 4)) 3 0).toNat = some (.mill 4 0x300040) ∧
    (readBytes binsAt (.mill 4 0x300040) 64).2.2 = .ok ∧ attnFieldsOk attnBytes (attnDesc run7 4 attnBytes) = true ∧
    (∀ f ∈ attnPlaces binsAt run7 4 (attnDesc run7 4 attnBytes), f = .none) ∧ run7.engines[(0 : BitVec 4).toNat]? = some 1 ∧
    (binsAt.engine 1).queue.length < 8 := by
  decide +kernel

theorem witness_binAndAttentionEnqueue : Executes binsAt (.tile 4) gOn [] ∧ binsAt.runOf 4 = some run7 :=
  ⟨binsAt_executes, by decide +kernel⟩

/-! ## Queued operations, waves, closes and attention -/

def lop : LaccOp where
  iseq := 1
  pc := 0x10100
  kind := .i2
  half := false
  bin0 := 7
  m := 2
  blk0 := 3
  nblk := 1
  n := 2048
  ring := none
  addr := 0

def opn7 : OpenOp where
  iseq := 2
  pc := 0x10110
  bin := 7
  preload := none
  clear := false
  nRow := 2
  nCh := 2048
  linBase := 0
  fixed := none
  head := 0
  gs := .none
  gsAddr := 0
  gsize := 0

def cls6 : CloseOp := { iseq := 3, pc := 0x10120, bin := 6, dest := .p64Store 0x500000 }

def arm8 : StrmDesc where
  encGen := 0
  grsSlots := []
  grsValid := 0
  codec := 0
  mcast := false
  oclass := 0
  persist := true
  mcastMask := 0
  ctx := 5
  sluice := none
  dstRing := none
  srcRing := none
  listLen := 0
  listAddr := 0
  indexBase := 0
  dataBase := 0

/-- Every unit queue of tile 4 holds an operation that may start. -/
def queuedOps : State :=
  from0 [onTile id, withTile (fun t => { t with
    hopQ := [.build 0 cbBuild]
    binQ := [.opn opn7]
    strmQ := [.arm 4 0x10130 8 1 arm8 [] false] })]

def queuedLook : State :=
  from0 [onTile id, withTile (fun t => { t with lookQ := [lop], half0 := { hr := some i2Rec }, iss0 := some i2Rec })]

def queuedClose : State := from0 [onTile id, withTile (fun t => { t with binQ := [.cls cls6], bins := [(6, { st := .opened })] })]

theorem witness_queuedOperationsStart :
    (queuedOps.tile (queuedOps.phys 4)).hopRun = none ∧ hopReady queuedOps 4 (queuedOps.tile (queuedOps.phys 4)) (.build 0 cbBuild) = true ∧
    (let t0 := queuedLook.tile (queuedLook.phys 4)
     t0.lookQ = [lop] ∧ t0.lookRun = none ∧ (t0.half lop.half).hr = some i2Rec ∧ laccReady queuedLook 4 t0 lop = true) ∧
    (queuedOps.tile (queuedOps.phys 4)).binRun = none ∧ (tget {} (queuedOps.tile (queuedOps.phys 4)).bins 7).st = .closed ∧
    opn7.preload = none ∧ queuedOps.runOf 4 = some run7 ∧ (queuedOps.slot 8).st = .free ∧ passesEnded queuedOps 8 + 1 = 1 ∧
    (let t0 := queuedClose.tile (queuedClose.phys 4)
     t0.binQ = [.cls cls6] ∧ t0.binRun = none ∧ binPending t0 3 6 = false ∧ partialGroup (tget {} t0.bins 6) = none ∧
     blocked queuedClose 4 3 cls6.reads cls6.writes = false) := by
  decide +kernel

theorem witness_tableOperationsComplete :
    cbBuild.krem ≤ 16 ∧
    (∃ s : State, (s.tile (s.phys 4)).hopRun = some (.build 0 cbBuild)) ∧ (∃ s : State, (s.tile (s.phys 4)).hopRun = some (.load 0 cbBuild)) ∧
    ∃ s : State, (s.tile (s.phys 4)).hopRun = some (.save 0 0x10100 true 0x4DF000) ∧ 32 ∣ 0x4DF000 ∧ s.runOf 4 = some run7 ∧
      run7.phase = .active :=
  ⟨by decide, ⟨from0 [withTile (fun t => { t with hopRun := some (.build 0 cbBuild) })], by decide +kernel⟩,
    ⟨from0 [withTile (fun t => { t with hopRun := some (.load 0 cbBuild) })], by decide +kernel⟩,
    ⟨from0 [onTile id, withTile (fun t => { t with hopRun := some (.save 0 0x10100 true 0x4DF000) })], by decide +kernel⟩⟩

/-- The first wave of a lookup-accumulate over four channels of one row, into an open bin that has an anchor. -/
def smallLop : LaccOp := { lop with m := 2, n := 4, blk0 := 0 }
def lrun : LaccRun := { op := smallLop, blk := 0, plane := 0, cw := 0, row := 0, image := 0, slot := none }

def waving : State :=
  from0 [onTile id, owns 4 0 8, withTile (fun t => { t with
    lookRun := some lrun
    half0 := { hr := some i2Rec, blocks := [(0, { s := 129, poison := false })] }
    bins := [(7, { st := .opened, nRow := 2, nCh := 4, anchor := some 0 })] })]

theorem witness_wavesAndRaises_wave :
    (let t0 := waving.tile (waving.phys 4)
     t0.lookRun = some lrun ∧ waving.runOf 4 = some run7 ∧ (t0.half smallLop.half).hr = some i2Rec ∧ run7.phase = .active ∧
     rateOk waving (waving.phys 4) 1 = true ∧ smallLop.ring = none ∧ lrun.next i2Rec.width = some { lrun with row := 1 } ∧
     (lrun.row * smallLop.n + lrun.cw * treesOf i2Rec.width) / 4096 = 0 ∧
     (lrun.row * smallLop.n + min smallLop.n ((lrun.cw + 1) * treesOf i2Rec.width) - 1) / 4096 = 0 ∧
     (tget {} t0.bins 7).raise = none ∧ (tget {} t0.bins 7).gs = .none ∧
     rangeOwned waving run7.rr.ctx (waving.phys 4) (smallLop.addr + lrun.image * waveBytes i2Rec.enc i2Rec.width)
       (waveBytes i2Rec.enc i2Rec.width) = true ∧
     (let off := smallLop.addr + lrun.image * waveBytes i2Rec.enc i2Rec.width
      let img := readImage waving (.mill 4 (off / 32 * 32)) (ceilDiv (off % 32 + waveBytes i2Rec.enc i2Rec.width) 32)
      let vs := waveValues (t0.half false) i2Rec smallLop 0 0 0 0 img.2.1 img.2.2 off
      (waveAnchor (tget {} t0.bins 7) true (valsFor vs 0)).2 = false)) := by
  decide +kernel

theorem witness_wavesAndRaises_raise :
    (let b0 : Bin := { anchor := some 0, raise := some { dest := 5, prods := [] }, acc := [(0, { acc := 48 })] }
     let s := from0 [withTile (fun t => { t with bins := [(7, b0)] })]
     let b := tget {} (s.tile (s.phys 4)).bins 7
     b.raise = some { dest := 5, prods := [] } ∧ b.anchor = some 0 ∧ twf {} b.acc = true) := by
  decide +kernel

/-- A preload, a close that has read its bin, and a close that writes P64 words. -/
def closing : State :=
  from0 [onTile id, withTile (fun t => { t with
    binRun := some (.cls cls6)
    closes := [{ op := cls6, anchor := some 0, acc := [(4095, { acc := 1 })], nRow := 1, nCh := 4096, linBase := 0, rowScale := none }] })]

theorem witness_preloadsAndCloses :
    (∃ s : State, (s.tile (s.phys 4)).binRun = some (.opn { opn7 with preload := some 0x5F8000, clear := true }) ∧ 32 ∣ 0x5F8000 ∧
      s.runOf 4 = some run7 ∧ ∀ i, i < 1024 → classify (s.word (millKey (s.phys 4) 0x5F8000 + 32 * i)).2 = .clean) ∧
    (closing.tile (closing.phys 4)).binRun = some (.cls cls6) ∧ closing.runOf 4 = some run7 ∧
    (∃ c : CloseRun, (closing.tile (closing.phys 4)).closes.find? (fun x => x.op.iseq == c.op.iseq) = some c ∧ c.started = false ∧
      c.op.dest = .p64Store 0x500000 ∧ 32 ∣ 0x500000) :=
  ⟨⟨from0 [onTile id, withTile (fun t => { t with binRun := some (.opn { opn7 with preload := some 0x5F8000, clear := true }) })],
      by decide +kernel, by decide, by decide +kernel, fun i _ => by rfl⟩,
    by decide +kernel, by decide +kernel,
    ⟨{ op := cls6, anchor := some 0, acc := [(4095, { acc := 1 })], nRow := 1, nCh := 4096, linBase := 0, rowScale := none },
      by decide +kernel⟩⟩

def attnOp : AttnOp := { tile := 4, iseq := 0, pc := 0x10100, desc := attnDesc run7 4 attnBytes }

/-- Engine 1 with an operation in its queue; with a posted page; and with every page done. -/
def engineIn (f : Engine → Engine) : State :=
  from0 [onTile id, owns 4 768 1, owns 4 1280 9,
    fun s => s.modEngine 1 (fun e => f { e with grant := some 7, unit := { e.unit with st := .on } })]

def attnAt (page : Nat) : AttnRun := { op := attnOp, heads := [{ o := [0, 0, 0, 0], l := 0x3F800000 }], page := page }

theorem witness_attentionRuns :
    (let s := engineIn (fun e => { e with queue := [attnOp] })
     (s.engine 1).run = none ∧ (s.engine 1).queue = [attnOp] ∧ engineRun s 1 = some run7 ∧ (s.engine 1).unit.st = .on ∧
     blocked s 4 0 (attnOp.desc.foot 0).reads (attnOp.desc.foot 0).writes = false ∧ (s.slot (flumeSlot 1)).st = .free) ∧
    (let s := engineIn (fun e => { e with run := some (attnAt 0), flume := [{ elem := 0, posted := true }] })
     (s.engine 1).run = some (attnAt 0) ∧ engineRun s 1 = some run7 ∧
     (s.engine 1).flume.find? (fun p => p.elem == 0) = some { elem := 0, posted := true } ∧ 0 < attnOp.desc.visits) ∧
    (let s := engineIn (fun e => { e with run := some (attnAt 1) })
     (s.engine 1).run = some (attnAt 1) ∧ engineRun s 1 = some run7 ∧ attnOp.desc.visits ≤ 1 ∧ attnOp.desc.mode = 0 ∧
     attnOp.desc.sluice = none ∧ (attnOutput s 1 run7 attnOp (attnAt 1).heads).2 = .none) := by
  decide +kernel

end Sys2Proof.Tests
end

