-- ==== Sys2Proof/Tests/WitnessC.lean ====
section
/-! SUPPORT. States and operands that meet the hypotheses of the statements about rings, streams, sluices, atomics, runs and Grist
tables, clause by clause. -/

set_option Elab.async false -- one theorem after another: the package as one text then needs few threads

namespace Sys2Proof.Tests
open Sys2Proof Sys2Proof.Machine

def ringAt (n : Nat) (f : Ring → Ring) (s : State) : State := s.modRing n f

/-- Ring 65535 is a bucket ring of context 5; s1 of tile 4 and of core 2 names it. -/
def ringed (f : Ring → Ring) (as_ : List Attach) (t : Tile → Tile) : State :=
  from0 [onTile (fun q => { q.setS 1 65535 with attached := as_ }), onCore (fun q => { q.setS 1 65535 with attached := as_ }),
    ringAt 65535 (fun r => f { r with kind := .bucket, ctx := 5, entries := 4, entryUnits := 8, rank := 2 }), withTile t]

theorem ringed_executes (f : Ring → Ring) (as_ : List Attach) (c : Core) (rs : List (BitVec 5)) (h : c = .tile 4 ∨ c = .miller 2) :
    Executes (ringed f as_ id) c gOn rs := by
  obtain rfl | rfl := h <;> exact executes_of rfl rfl rs rfl

/-- Attachment, on either core. -/
theorem witness_ringAttach :
    Executes (ringed id [] id) (.tile 4) gOn [1] ∧ Executes (ringed id [] id) (.miller 2) gOn [1] ∧
    RingNo (ringed id [] id) (.tile 4) 1 0 65535 ∧ RingNo (ringed id [] id) (.miller 2) 1 0 65535 ∧
    MayAttach (ringed id [] id) (.tile 4) 65535 ∧ MayAttach (ringed id [] id) (.miller 2) 65535 ∧
    ((ringed id [] id).ring 65535).prod = none ∧ isAttached (ringed id [] id) (.tile 4) 65535 true = false ∧
    ((ringed id [] id).ring 65535).cons = none ∧ isAttached (ringed id [] id) (.miller 2) 65535 false = false ∧
    (∃ a, ((ringed (fun r => { r with prod := some (.slot 3) }) [] id).ring 65535).prod = some a ∧ a ≠ .seq (.tile 4)) :=
  ⟨ringed_executes _ _ _ _ (.inl rfl), ringed_executes _ _ _ _ (.inr rfl), by unfold RingNo; decide +kernel,
    by unfold RingNo; decide +kernel,
    ⟨by decide +kernel, fun l h => ⟨run7, by cases h; decide +kernel, by decide +kernel⟩, by decide +kernel⟩,
    ⟨by decide +kernel, fun l h => by simp at h, by decide +kernel⟩, by decide +kernel, by decide +kernel, by decide +kernel,
    by decide +kernel, ⟨.slot 3, by decide +kernel, by decide⟩⟩

theorem witness_ringQueueRoom (f : Ring → Ring) (as_ : List Attach) :
    RingQueueRoom (ringed f as_ id) (.tile 4) ∧ RingQueueRoom (ringed f as_ id) (.miller 2) :=
  ⟨fun l h => by cases h; exact Nat.zero_lt_succ 7, fun l h => by cases h⟩

def prodAt : List Attach := [{ ring := 65535, producer := true, slots := [3] }]
def consAt : List Attach := [{ ring := 65535, producer := false, slots := [3, 0] }]

/-- Slots: a claim with and without room, a take with and without a posted slot, a give and a post. -/
theorem witness_bucketRings :
    (∀ a ∈ ((ringed id [{ ring := 65535, producer := true }] id).seqr (.tile 4)).attached, a.ring = 65535 → a.slots = []) ∧
    isAttached (ringed id prodAt id) (.tile 4) 65535 true = true ∧ isAttached (ringed id consAt id) (.miller 2) 65535 false = true ∧
    (let q := (ringed (fun r => { r with c0 := 3, c3 := 0 }) prodAt id).ring 65535
     (q.c0 - q.c3).toNat < q.entries) ∧
    (let q := (ringed (fun r => { r with c0 := 4, c3 := 0 }) prodAt id).ring 65535
     q.entries ≤ (q.c0 - q.c3).toNat) ∧
    (let q := (ringed (fun r => { r with c1 := 0, c2 := 0xFFFFFFFF }) consAt id).ring 65535
     q.c1 ≠ q.c2) ∧
    (∀ c ∈ [Core.tile 4, .miller 2], ((((ringed id prodAt id).tile 4).strmQ.length < 8 ∧ c = .tile 4) ∨ c ≠ .tile 4)) ∧
    ((ringed id consAt id).ring 65535).c1 = ((ringed id consAt id).ring 65535).c2 ∧
    heldSlots (ringed id consAt id) (.tile 4) 65535 false = [3, 0] ∧ heldSlots (ringed id prodAt id) (.miller 2) 65535 true = [3] ∧
    ((ringed id prodAt id).miller 2).atomQ = [] ∧ ((ringed id prodAt id).tile 4).strmQ.length < 8 ∧
    (let s := ringed id [] (fun t => { t with strmQ := [.post 0 65535] })
     (s.tile (s.phys 4)).strmQ = [.post 0 65535] ∧ (∀ o ∈ [StrmOp.post 1 65535], o.starts = false) ∧ s.runOf 4 = some run7 ∧ releasedBefore s 4 0 = true) := by
  decide +kernel

/-! ## Streams -/

/-- A stream descriptor of one transfer record, with PERSIST, without rings. -/
def strmBytes (ctx : Nat) : List Byte :=
  natToBytes 0 8 ++ natToBytes 0 8 ++ natToBytes 0x200000 8 ++ natToBytes 1 4 ++ natToBytes 0xFFFF 2 ++ natToBytes 0xFFFF 2 ++
  natToBytes 0xFFFF 2 ++ natToBytes ctx 2 ++ natToBytes 0 6 ++ [1] ++ natToBytes 0 21

/-- The descriptor stands in tile 4's A bank and in core 2's data memory. -/
def streams (sl : Slot → Slot) (t : Tile → Tile) : State :=
  from0 [onTile (fun q => q.setA 0 0x300000), onCore (fun q => (q.setA 0 0x1000).setS 2 31), owns 4 768 1,
    fun s => s.setBytes (millKey 4 0x300000) (strmBytes 0), fun s => s.setBytes (svcKey 2 0x1000) (strmBytes 5),
    fun s => s.modSlot 8 sl, fun s => s.modSlot 254 sl, withTile t]

def strmD (ctx : Nat) : StrmDesc := strmDesc (strmBytes ctx)

theorem streams_executes (sl : Slot → Slot) (c : Core) (rs : List (BitVec 5)) (h : c = .tile 4 ∨ c = .miller 2) :
    Executes (streams sl id) c gOn rs := by
  obtain rfl | rfl := h <;> exact executes_of rfl rfl rs rfl

theorem witness_armTile :
    (let s := streams id id
     s.runOf 4 = some run7 ∧ run7.slots[(0 : BitVec 6).toNat]? = some 8 ∧
     (let ea := (effAddr (s.seqr (.tile 4)) 0 0).toNat
      64 ∣ ea ∧ ea < 2 ^ 32 ∧ mpRange s run7 4 ea false 64 = .none ∧ mpPlace s run7 4 ea = some (.mill 4 0x300000)) ∧
     (let x := readBytes s (.mill 4 0x300000) 64
      x.2 = (strmBytes 0, .ok) ∧ strmFieldsOk (strmBytes 0) (strmD 0) true run7.rr.tileList.length run7.rr.nGrist = true ∧
      mcastFlt x.1 8 { ctx := 5, run := some 7, tile := some 4 } (strmD 0) = .none ∧
      (∀ f ∈ strmPlaces x.1 5 (strmD 0) ++ strmStates x.1 (.tile 4) 8 (strmD 0), f = .none) ∧
      (x.1.tile (x.1.phys 4)).strmQ.length < 8)) := by
  decide +kernel

theorem witness_armCore :
    FirmwareSlot (streams id id) 2 30 254 ∧
    (let s := streams id id
     let ea := (effAddr (s.seqr (.miller 2)) 0 0).toNat
     64 ∣ ea ∧ s.bytes (svcKey 2 ea) 64 = strmBytes 5 ∧ strmFieldsOk (strmBytes 5) (strmD 5) false 0 0 = true ∧
     mcastFlt s 254 { ctx := 5, service := some 2 } (strmD 5) = .none ∧
     (∀ f ∈ strmPlaces s 5 (strmD 5) ++ strmStates s (.miller 2) 254 (strmD 5), f = .none) ∧ (s.slot 254).st = .free) := by
  unfold FirmwareSlot
  decide +kernel

theorem witness_streamsArm : Executes (streams id id) (.tile 4) gOn [0] ∧ Executes (streams id id) (.miller 2) gOn [31] ∧
    (let s := streams (fun x => { x with st := .running, ctx := 5, run := some 7, desc := some (strmD 5) }) id
     issStream s (.tile 4) 8 = some (strmD 5) ∧ (strmD 5).persist = true ∧ (s.tile (s.phys 4)).strmQ.length < 8) ∧
    (let s := streams (fun x => { x with st := .passDone, ctx := 5, service := some 2, desc := some (strmD 5) }) id
     FirmwareSlot s 2 30 254 ∧ (s.slot 254).st = .passDone ∧ (s.slot 254).desc = some (strmD 5)) :=
  ⟨streams_executes _ _ _ (.inl rfl), streams_executes _ _ _ (.inr rfl), by decide +kernel, by unfold FirmwareSlot; decide +kernel⟩

theorem witness_streamControl : Executes (streams id id) (.tile 4) gOn [] ∧ Executes (streams id id) (.miller 2) gOn [1, 2] ∧
    (let s := streams (fun x => { x with st := .running }) id
     slotOf s (.tile 4) 0 = some 8 ∧ queuedBy s (.tile 4) 8 = [] ∧ (s.slot 8).st = .running) ∧
    (let s := streams (fun x => { x with st := .passDone }) id
     slotOf s (.tile 4) 0 = some 8 ∧ slotOf s (.miller 2) 30 = some 254 ∧ passesIssued s 8 ≤ passesEnded s 8 ∧
     passesEnded (passIssue s 8).1 8 < passesIssued (passIssue s 8).1 8 ∧ (s.slot 8).st ≠ .running ∧ (s.slot 8).st = .passDone) ∧
    (let s := streams (fun x => { x with st := .halted }) id
     let q := (onCore (fun q => (q.setS 1 4).setS 2 254) s).seqr (.miller 2)
     256 * ((q.s 1).toNat % 4) + (q.s 2).toNat % 256 = 254 ∧ (s.slot 254).st = .halted ∧ (s.slot 254).actionFault = false ∧
     (s.slot 254).notice = false ∧ ((s.modSlot 254 (fun y => { y with notice := true })).slot 254).notice = true) ∧
    (let s := streams (fun x => { x with st := .halted, actionFault := true }) id
     (s.slot 254).st = .halted ∧ (s.slot 254).actionFault = true ∧ (s.slot 254).run = none) :=
  ⟨streams_executes _ _ _ (.inl rfl), streams_executes _ _ _ (.inr rfl), by decide +kernel, by decide +kernel, by decide +kernel,
    by decide +kernel⟩

/-- A queued arm of a run that holds one tile. -/
theorem witness_haltOfQueuedArm :
    (let r1 := { run7 with rr := { rec5 with tileMask := 16 } }
     let s := (streams id (fun t => { t with strmQ := [.arm 0 0x10100 8 1 (strmD 5) [] false] })).modGov 0 (fun g => { g with runs := [r1] })
     canIssue s (.tile 4) = true ∧ s.runOf 4 = some r1 ∧ r1.rr.tileList = [4] ∧ r1.slots[(0 : BitVec 6).toNat]? = some 8 ∧
     (s.tile (s.phys 4)).strmQ = [.arm 0 0x10100 8 1 (strmD 5) [] false]) := by
  decide +kernel

/-! ## Sluices, host rings and atomics -/

/-- Context 5 has 32 sluices; s1 names the last one, s2 a sluice of another device, s3 an expected count. -/
def synced : State :=
  from0 [onTile (fun q => (q.setS 1 31).setS 2 0x800200000000001F),
    onCore (fun q => (((q.setS 1 0x5001F).setS 2 5).setS 3 31).setS 4 1),
    fun s => s.modCtx 5 (fun c => { c with bind := { c.bind with sltCount := 32 } })]

theorem synced_executes (c : Core) (rs : List (BitVec 5)) (h : c = .tile 4 ∨ c = .miller 2) : Executes synced c gOn rs := by
  obtain rfl | rfl := h <;> exact executes_of rfl rfl rs rfl

theorem witness_sluicesAndFence : Executes synced (.tile 4) gOn [1] ∧ Executes synced (.miller 2) gOn [2, 3, 4] ∧
    synced.runOf 4 = some run7 ∧
    (let q := synced.seqr (.tile 4)
     (q.s 1 + BitVec.ofInt 64 (0 : BitVec 32).toInt).toNat < (synced.ctx 5).bind.sltCount ∧
     2 ^ 63 ≤ (q.s 2 + BitVec.ofInt 64 (0 : BitVec 32).toInt).toNat ∧
     (q.s 2 + BitVec.ofInt 64 (0 : BitVec 32).toInt).toNat / 65536 % 2 ^ 33 = 0 ∧ (synced.tile (synced.phys 4)).atomQ.length < 16) ∧
    (let q := synced.seqr (.miller 2)
     let v := (q.s 1 + BitVec.ofInt 64 (0 : BitVec 32).toInt).toNat
     v / 65536 % 4096 = 5 ∧ v % 65536 < (synced.ctx 5).bind.sltCount ∧ (q.s 2).toNat % 4096 = 5 ∧ (q.s 4).toNat % 2 ^ 32 ≠ 0 ∧
     (q.s 3).toNat < (synced.ctx 5).bind.sltCount ∧ (synced.miller 2).atomQ.length < 16) :=
  ⟨synced_executes _ _ (.inl rfl), synced_executes _ _ (.inr rfl), by decide +kernel, by decide +kernel, by decide +kernel⟩

/-- A submission ring with a record, one without; completion and event rings with room and full. -/
def hostRings : State :=
  from0 [onCore (fun q => (((q.setS 1 65535).setS 2 1).setS 3 2).setS 4 3),
    ringAt 65535 (fun r => { r with kind := .submit, st := .on, entries := 4, entryUnits := 2, c1 := 1 }),
    ringAt 1 (fun r => { r with kind := .submit, st := .on, entries := 4, entryUnits := 2 }),
    ringAt 2 (fun r => { r with kind := .complete, st := .on, entries := 4, entryUnits := 2 }),
    ringAt 3 (fun r => { r with kind := .event, st := .on, entries := 4, entryUnits := 2, c1 := 4 })]

theorem witness_hostRingInstructions : Executes hostRings (.miller 2) gOn [1] ∧
    (let q := hostRings.seqr (.miller 2)
     (q.s 1).toNat = 65535 ∧ (hostRings.ring 65535).kind = .submit ∧ (hostRings.ring 65535).st = .on ∧
     (hostRings.ring 65535).c1 ≠ (hostRings.ring 65535).c0 ∧ (hostRings.ring 1).kind = .submit ∧
     (hostRings.ring 1).c1 = (hostRings.ring 1).c0 ∧ (hostRings.ring 2).kind = .complete ∧ (hostRings.ring 2).room = true ∧
     (hostRings.ring 3).kind = .event ∧ (hostRings.ring 3).room = false) :=
  ⟨executes_of rfl rfl _ rfl, by decide +kernel⟩

/-- a0 names the last eight bytes of an owned block of the A bank, a1 a word of the O bank; in core 2 device addresses. -/
def atoms : State :=
  from0 [onTile (fun q => (q.setA 0 0x300FF8).setA 1 0x500000), onCore (fun q => (q.setA 0 0x1000).setA 1 0x100000300000), owns 4 768 1,
    owns 4 1280 1]

theorem witness_atomicsEnqueue : Executes atoms (.tile 4) gOn [1] ∧ Executes atoms (.miller 2) gOn [1] ∧ atoms.runOf 4 = some run7 ∧
    (let ea := (effAddr (atoms.seqr (.tile 4)) 0 0).toNat
     atomFlt atoms run7 4 ea (AtomKind.width .addP64) = .none ∧ (atoms.tile (atoms.phys 4)).atomQ.length < 16) ∧
    (let ea := (effAddr (atoms.seqr (.miller 2)) 0 0).toNat
     AtomKind.width .addP64 ∣ ea ∧ locate atoms ea = some (.hbm 0x1000) ∧ (atoms.miller 2).atomQ.length < 16) ∧
    (let ea := (effAddr (atoms.seqr (.tile 4)) 1 0).toNat
     32 ∣ ea ∧ atomFlt atoms run7 4 ea 32 = .none ∧ ((atoms.seqr (.tile 4)).a 1).toNat < 2 ^ 32 ∧
     ownOff run7 4 ((atoms.seqr (.tile 4)).a 1).toNat = some 0x500000 ∧ 32 ∣ 0x500000 ∧ inBank 2 0x500000 32 = true ∧
     ownRange atoms run7 4 true 0x500000 32 = .none) ∧
    (let w := ((atoms.seqr (.miller 2)).a 1).toNat
     locate atoms w = some (.mill 0 0x300000) ∧ 32 ∣ w ∧ inBank 1 0x300000 32 = true) :=
  ⟨executes_of rfl rfl _ rfl, executes_of rfl rfl _ rfl, by decide +kernel, by decide +kernel, by decide +kernel, by decide +kernel,
    by decide +kernel⟩

def queuedAtom : AtomOp := { iseq := 0, pc := 0x10100, kind := .addI32, addr := 0x300FFC, operand := 1, sd := 31, ctx := 5 }

theorem witness_atomicsAreApplied :
    (let s := from0 [onTile (fun q => { q with waiting := [(31, false)] }), owns 4 768 1, withTile (fun t => { t with atomQ := [queuedAtom] })]
     s.runOf 4 = some run7 ∧ (s.tile (s.phys 4)).atomQ = [queuedAtom] ∧ queuedAtom.sent = false ∧ queuedAtom.kind.width ∣ 0x300FFC ∧
     mpTarget run7 4 queuedAtom.addr.toNat = some (4, 0x300FFC) ∧ ownerOf s (s.phys 4) 0x300FFC = 6 ∧
     classify (s.word (millKey (s.phys 4) 0x300FFC)).2 = .clean ∧ blocked s 4 0 [] (atomFoot s 4 queuedAtom).writes = false ∧
     (31, false) ∈ (s.seqr (.tile 4)).waiting) ∧
    (let pl : Place := .hbm 0x1000
     AtomKind.width .swap64 ∣ pl.key) := by
  decide +kernel

/-! ## Runs, residency, Grist tables and the sorter -/

/-- Run 7 active; run 8 waits. s1 to s4 of core 2: die 0, SEQNO 9, context 5, tile 4; s5 names the last block, s6 two owned ones. -/
def serviced : State :=
  from0 [onTile id, onCore (fun q => ((((((q.setS 1 0).setS 2 9).setS 3 5).setS 4 4).setS 5 0x105FF).setS 6 0x20300).setA 1 0xFFFFFFFFFFFC),
    owns 4 768 2, ringAt 0 (fun r => { r with kind := .internal, st := .on, entries := 4, entryUnits := 4 }),
    fun s => s.modMiller 3 (fun m => { m with freeing := some (5, 0, 0, 1536) })]

theorem serviced_executes (rs : List (BitVec 5)) : Executes serviced (.miller 2) gOn rs := executes_of rfl rfl rs rfl

theorem witness_runsAndResidency : Executes serviced (.miller 2) gOn [3, 4, 5] ∧
    (let q := serviced.seqr (.miller 2)
     (serviced.gov 0).runqRing = 0 ∧ (serviced.ring 0).kind = .internal ∧ (serviced.ring 0).room = true ∧ runsQueued serviced 0 < 1024 ∧
     (serviced.ring (serviced.gov 0).runqRing).count = 0 ∧ (q.s 1).toNat % 4 = 0 ∧
     (serviced.gov 0).runs.find? (fun r => r.rr.seqno == (q.s 2).toNat % 2 ^ 32 && r.phase != .ended) = some run7 ∧
     serviced.run? 0 run7.rid = some run7 ∧ (serviced.modGov 0 (fun g => { g with runs := [{ run7 with phase := .stopping }] })).run? 0 7 =
       some { run7 with phase := .stopping }) ∧
    (let q := serviced.seqr (.miller 2)
     (q.s 4).toNat % 256 = 4 ∧ (q.s 5).toNat % 2048 = 1535 ∧ (q.s 5).toNat / 65536 % 2048 = 1 ∧
     (∀ i, i < 1 → tget 0 serviced.owner (1536 * serviced.phys 4 + 1535 + i) = 0) ∧
     (q.s 6).toNat % 2048 = 768 ∧ (q.s 6).toNat / 65536 % 2048 = 2 ∧
     ∀ i, i < 2 → tget 0 serviced.owner (1536 * serviced.phys 4 + 768 + i) = (q.s 3).toNat % 4096 + 1) ∧
    (serviced.miller 3).freeing = some (5, 0, 0, 1536) ∧ rangeInUse serviced 0 0 1536 = false ∧
    (let s := serviced.modGov 0 (fun g => { g with runs := [{ run7 with phase := .ready, rr := { rec5 with cplRing := 1 } }] })
     (s.ring 1).room = false) :=
  ⟨serviced_executes _, by decide +kernel, by decide +kernel, by decide +kernel, by decide +kernel, by decide +kernel⟩

def oneInstall : Install := { gen := 3, bytes := [], flagCore := 2, flagAddr := 0xFFFFFFFFFFFC }

theorem witness_gristTableInstructions : Executes serviced (.miller 2) gOn [1, 2] ∧
    (let q := serviced.seqr (.miller 2)
     (serviced.gslot 0).entryOf ((q.s 2).toNat % 16) = none ∧ (serviced.gslot 0).installing ((q.s 2).toNat % 16) = false ∧
     32 ∣ (effAddr q 0 0).toNat ∧ 4 ∣ (q.a 1).toNat ∧ (q.a 1).toNat < 2 ^ 48) ∧
    recordOk (List.replicate 160 0) = false ∧ recordOk (0x01 :: List.replicate 127 0 ++ 1 :: List.replicate 31 0) = true ∧
    (let s := serviced.modGSlot 7 (fun x => { x with installs := [oneInstall] })
     (s.gslot 7).installs = [oneInstall] ∧ ((s.gslot 7).entry (s.gslot 7).older).valid = false ∧ oneInstall.flagAddr < 2 ^ 48) ∧
    (let s := serviced.modGSlot 7 (fun x => { x with installs := [oneInstall], e0 := { valid := true, refs := 1 } })
     ((s.gslot 7).entry (s.gslot 7).older).valid = true ∧ ((s.gslot 7).entry (s.gslot 7).older).refs ≠ 0) :=
  ⟨serviced_executes _, by decide +kernel, by decide +kernel, by decide +kernel, by decide +kernel, by decide +kernel⟩

/-- The one largest of two FP32 elements. -/
def sortBytes : List Byte :=
  natToBytes 0x2000 8 ++ natToBytes 0x3000 8 ++ natToBytes 2 4 ++ natToBytes 1 4 ++ [0, 0] ++ natToBytes 0xFFFF 2 ++ natToBytes 0 4

/-- The same record with its elements at 8 in the address space of context 5, whose first page is mapped. -/
def sortBytes5 : List Byte :=
  natToBytes 8 8 ++ natToBytes 0x3000 8 ++ natToBytes 2 4 ++ natToBytes 1 4 ++ [0, 0] ++ natToBytes 5 2 ++ natToBytes 0 4

theorem witness_sortOfContext :
    let s := from0 [mapped, onCore (fun q => q.setA 0 0x1000), fun s => s.setBytes (svcKey 2 0x1000) sortBytes5]
    let f : Nat → Nat := fun _ => 0x200000
    canIssue s (.miller 2) = true ∧ (s.seqr (.miller 2)).waiting = [] ∧ (s.seqr (.miller 2)).desc = none ∧
    sortRec (s.bytes (svcKey 2 (effAddr (s.seqr (.miller 2)) 0 0).toNat) 32) =
      some { ctx := 5, fmt := 0, k := 1, n := 2, dst := 0x3000, src := 8 } ∧
    (∀ i, i < (8 % 32 + 8 + 31) / 32 → 32 ∣ f i ∧ classify (s.word (f i)).2 = .clean ∧
      ctxAddr s 5 (8 - 8 % 32 + 32 * i) permRead 32 false = (s, .here (.hbm (f i)))) := by
  decide +kernel

theorem witness_sortAndResume :
    (let s := from0 [onCore (fun q => q.setA 0 0x1000), fun s => s.setBytes (svcKey 2 0x1000) sortBytes]
     canIssue s (.miller 2) = true ∧ sortRec (s.bytes (svcKey 2 (effAddr (s.seqr (.miller 2)) 0 0).toNat) 32) =
       some { ctx := 0xFFFF, fmt := 0, k := 1, n := 2, dst := 0x3000, src := 0x2000 }) ∧
    sortRec (List.replicate 32 1) = none ∧
    (∀ h ∈ [Hold.reg 3, .hazard, .attnRoom 1, .sluice 5 31, .fence, .strm 254 1, .swap256, .sluiceReset, .resFree, .claim 65535 3,
        .take 65535 3, .halted .fenced 0],
      let s := ringed id prodAt (fun t => t)
      let s' := s.modSeqr (.miller 2) (fun q => { q with hold := h })
      (s'.seqr (.miller 2)).hold = h ∧ (s'.seqr (.miller 2)).again = [] ∧ (s'.seqr (.miller 2)).waiting = [] ∧
        canIssue (s'.modSeqr (.miller 2) (fun q => { q with hold := .none, released := false })) (.miller 2) = true) ∧
    canIssue ((ringed id prodAt id).modSeqr (.miller 2) (fun q => { q with hold := .none, released := false, mode := .idle })) (.miller 2) =
      false ∧
    (let s := ringed (fun r => { r with c1 := 1 }) consAt id
     holdOver s (.tile 4) (.take 65535 31) = true) ∧
    (let s := streams (fun x => { x with st := .passDone }) id
     holdOver s (.tile 4) (.strm 8 0) = true) := by
  decide +kernel

end Sys2Proof.Tests
end

