-- ==== Sys2Proof/Tests/WitnessD.lean ====
section
/-! SUPPORT. States and operands that meet the hypotheses of the statements about the Governor's runs, streams in flight, Grist blocks,
Millpond and the memory block, clause by clause. -/

set_option Elab.async false -- one theorem after another: the package as one text then needs few threads

namespace Sys2Proof.Tests
open Sys2Proof Sys2Proof.Machine

/-- Whether a check answers regions `rs`. -/
def passes (x : Except Flt (List Region)) (rs : List Region) : Bool :=
  match x with
  | .ok v => v == rs
  | .error _ => false

/-- Whether a check answers the cause `f`. -/
def breaks (x : Except Flt (List Region)) (f : Flt) : Bool :=
  match x with
  | .ok _ => false
  | .error g => g == f

/-! ## Runs -/

/-- A record of one tile, 5, without engines, of context 5. -/
def rec9 : RunRec := { rec5 with
  args := List.replicate 8 11
  tileMask := 32
  nAttn := 0
  regionList := 0x2000 }

/-- One region of the whole E bank of tile 5, on HBM at 0x2000. -/
def dispatching (ph : RunPhase) : State :=
  from0 [fun s => s.setBytes 0x2000 (natToBytes 0x01010000 4 ++ natToBytes 0x300000 4 ++ natToBytes 4096 4 ++ natToBytes 0 4),
    owns 5 768 1, fun s => s.modTile 5 (fun t => { t with unit := { t.unit with st := .on } }),
    fun s => s.modRing 0 (fun r => { r with kind := .internal, st := .on, entries := 4, entryUnits := 4, c1 := 1 }),
    fun s => s.modGov 0 (fun g => { g with runs := [{ run7 with rid := 7, rr := rec9, phase := ph, regions := [] }] })]

def region9 : Region := { base := 0x300000, size := 4096, scope := 1, rw := true }

theorem witness_runsDispatch :
    (let s := (dispatching .raw).modGov 0 (fun g => { g with runs := [] })
     firstRaw s 0 = none ∧ (firstRaw (takeRecord s 0) 0).isSome = true ∧ (s.ring (s.gov 0).runqRing).kind = .internal ∧
     (s.ring (s.gov 0).runqRing).st = .on ∧ (s.ring (s.gov 0).runqRing).c1 ≠ (s.ring (s.gov 0).runqRing).c0) ∧
    (let s := dispatching .raw
     let r : Run := { run7 with rid := 7, rr := rec9, phase := .raw, regions := [] }
     firstRaw s 0 = some r ∧ passes (checkRun s rec9).2 [region9] = true ∧ (checkRun s rec9).1.run? 0 7 = some r) ∧
    (let r : Run := { run7 with rid := 7, rr := { rec9 with tileMask := 64, cplRing := 1 }, phase := .raw, regions := [] }
     let s := (dispatching .raw).modGov 0 (fun g => { g with runs := [r] })
     firstRaw s 0 = some r ∧ breaks (checkRun s r.rr).2 .operandInvalid = true ∧ (checkRun s r.rr).1.run? 0 7 = some r ∧
     ((checkRun s r.rr).1.ring 1).room = false) ∧
    (let s := dispatching .ready
     let r : Run := { run7 with rid := 7, rr := rec9, phase := .ready, regions := [] }
     s.run? 0 7 = some r ∧ passes (checkRun s rec9).2 [region9] = true ∧ (checkRun s rec9).1.run? 0 7 = some r ∧
     canDispatch (checkRun s rec9).1 0 r = true ∧ rec9.args.length = 8) := by
  decide +kernel

theorem witness_runsEnd :
    (let r : Run := { run7 with rr := { rec9 with cplRing := 1 }, slots := [] }
     let s := ((dispatching .active).modGov 0 (fun g => { g with runs := [r] })).modSeqr (.tile 5) (fun q => { q with mode := .ended })
     s.run? 0 7 = some r ∧ (s.ring 1).room = false ∧ runQuiet s r = true) ∧
    (let r : Run := { run7 with rr := { rec9 with cplRing := 1 }, phase := .stopping }
     let s := (dispatching .active).modGov 0 (fun g => { g with runs := [r] })
     s.run? 0 7 = some r ∧ (s.ring 1).room = false ∧ runStopped s r = true) ∧
    (let s := dispatching .ended
     let r : Run := { run7 with rid := 7, rr := rec9, phase := .ended, regions := [] }
     s.run? 0 7 = some r ∧ (s.ring 0).kind = .internal ∧ (s.ring 0).room = true ∧
     s.entryPlace (s.ring 0) (s.ring 0).c1.toNat = some (.hbm 128) ∧ frameRetired s (.hbm 128) = false) ∧
    (let s := dispatching .active
     let r : Run := { run7 with rid := 7, rr := rec9, phase := .active, regions := [] }
     s.run? 0 7 = some r) ∧
    (let r : Run := { run7 with rr := rec9, phase := .ready }
     let s := ((dispatching .ready).modGov 0 (fun g => { g with runs := [r], age := 1 })).modMrc 0 (fun m => { m with ticks := 4097 })
     s.run? 0 7 = some r ∧ r.waitFrom + 4096 * (s.gov 0).age < (s.mrc 0).ticks) := by
  decide +kernel

/-! ## Streams in flight -/

/-- A service stream of context 5 with one transfer record: 64 bytes from the A bank of tile 4 to that of tile 5. -/
def strm1 : StrmDesc := strmDesc (natToBytes 0 8 ++ natToBytes 0 8 ++ natToBytes 0x200000 8 ++ natToBytes 1 4 ++ natToBytes 0xFFFF 2 ++
  natToBytes 0xFFFF 2 ++ natToBytes 0xFFFF 2 ++ natToBytes 5 2 ++ natToBytes 0 6 ++ [1] ++ natToBytes 0 21)

def xferSrc : W64 := 0x4000000400300000
def xferDst : W64 := 0x4000000500300000
def xferRec : TDesc := tdescOf (natToBytes xferSrc.toNat 8 ++ natToBytes xferDst.toNat 8 ++ natToBytes 64 4 ++ natToBytes 1 4 ++ natToBytes 0 8)

def flying (f : Slot → Slot) : State :=
  from0 [owns 4 768 1, owns 5 768 1, fun s => s.modSlot 254 (fun x => f { x with
    st := .running
    ctx := 5
    service := some 2
    desc := some strm1
    fetched := [{
      word := 0x10000
      data := BitVec.ofNat 256 (xferSrc.toNat + xferDst.toNat * 2 ^ 64 + 64 * 2 ^ 128 + 2 ^ 160)
      good := true }] })]

def theXfer : Xfer := { xid := 3, pos := {}, src := some xferSrc, dst := [xferDst], bytes := 64 }

theorem witness_transfersMoveWords :
    (let s := flying id
     NextTransfer s 254 strm1 xferRec ∧ strm1.codec = 0 ∧ strm1.mcast = false ∧ strm1.srcRing = none ∧ strm1.dstRing = none ∧
     xferRec.kind = 0 ∧ xferRec.count = 1 ∧ (s.slot 254).next.elem = 0 ∧ (s.slot 254).next.part = 0 ∧ xferRec.srcRel = false ∧
     xferRec.dstRel = false ∧ 32 ∣ xferSrc.toNat ∧ 32 ∣ xferDst.toNat ∧ xferSrc.toNat % 4096 + xferRec.len ≤ 4096 ∧
     xferRec.src = xferSrc ∧ xferRec.dst = xferDst ∧
     StrmPlace s 254 xferSrc.toNat permRead 64 (.mill 4 0x300000) ∧ StrmPlace s 254 xferDst.toNat permWrite 64 (.mill 5 0x300000) ∧
     tagFree s 254 false = true ∧ nextServed s 254 = some 254) ∧
    (let s := flying (fun x => { x with xfers := [theXfer] })
     (s.slot 254).xfers = [theXfer] ∧ (s.slot 254).engine = none ∧ (s.slot 254).desc = some strm1 ∧ theXfer.bytes = 32 * 2 ∧
     StrmPlace s 254 xferSrc.toNat permRead 64 (.mill 4 0x300000) ∧ StrmPlace s 254 xferDst.toNat permWrite 64 (.mill 5 0x300000) ∧
     ∀ i, i < 2 → classify (s.word ((Place.mill 4 0x300000).key + 32 * i)).2 = .clean) := by
  unfold NextTransfer StrmPlace
  decide +kernel

/-- Context 5 has used up its rate on die 0. -/
def rateless (s : State) : State :=
  s.modMrc 0 (fun m => { m with weir := [(5, { rate := 256, depth := 8192, tokens := -1 })] })

theorem witness_stallsCountOnce :
    (let s := onTile id State.reset
     s.logOf 4 = some 4 ∧ (s.ltile 4).run = some run7.rid ∧ s.run? (4 / 48) run7.rid = some run7 ∧ s.phys 4 = 4 ∧
     s.runOf 4 = some run7 ∧ run7.phase = .active) ∧
    (let s := from0 [onTile id, fun s => s.modEngine 1 (fun e => { e with grant := some 7 })]
     (s.engine 1).grant = some run7.rid ∧ s.run? (1 / 12) run7.rid = some run7) ∧
    (∀ h ∈ [Hold.claim 65535 3, .take 65535 3, .sluice 5 31, .hazard, .reg 3, .strm 254 1],
      let s := from0 [onTile (fun q => { q with hold := h, waiting := [(3, true)] }), fun s => s.modSlot 254 (fun x => { x with st := .halted })]
      (s.tile 4).seqr.mode = .running ∧ (s.tile 4).seqr.hold = h ∧ (3, true) ∈ (s.tile 4).seqr.waiting ∧ passesEnded s 254 < 1 ∧
        slotCauses s 254 = [.page]) ∧
    (let s := rateless (flying (fun x => { x with st := .halted }))
     (s.slot 254).st = .halted ∧ weirOk s (254 / 256) (s.slot 254).ctx = false) ∧
    (let s := rateless (flying id)
     slotDesc s (s.slot 254) = some strm1 ∧ strmLive s 254 = true ∧ weirOk s (254 / 256) (s.slot 254).ctx = false) ∧
    (let us := [(0, Cause.table), (0, Cause.rate), (2, Cause.bin)]
     (0, Cause.rate) ∈ us ∧ nth .sluice causeOrder 0 = .rate ∧ (2, Cause.bin) ∈ us ∧ nth .sluice causeOrder 9 = .bin ∧
     ∀ j, j < 9 → (2, nth .sluice causeOrder j) ∉ us) := by
  decide +kernel

/-- Halt ring 1 of die 0; bucket ring 65535 has no slot to give. -/
def haltable (f : Slot → Slot) : State :=
  (flying f).modRing 1 (fun r => { r with kind := .internal, st := .on, entries := 4, entryUnits := 1 }) |>.modMrc 0 (fun m => { m with haltRing := 1 })

theorem witness_passesHaltsAndWeir :
    (let s := flying (fun x => { x with issuedAll := true })
     let sl := s.slot 254
     sl.st = .running ∧ sl.issuedAll = true ∧ sl.xfers = [] ∧ sl.elems = [] ∧ sl.failing = none ∧ sl.engine = none ∧
     sl.desc = some strm1 ∧ strm1.sluice = none) ∧
    (let s := flying (fun x => { x with haltReq := true })
     (s.slot 254).st = .running ∧ (s.slot 254).xfers = [] ∧ (s.slot 254).failing = none ∧ (s.slot 254).haltReq = true) ∧
    (let s := flying (fun x => { x with failing := some ({ desc := 1, elem := 2 }, .eccUncorrectable, 0x300000) })
     (s.slot 254).st = .running ∧ (s.slot 254).xfers = [] ∧
     (s.slot 254).failing = some ({ desc := 1, elem := 2 }, .eccUncorrectable, 0x300000) ∧
     (s.ring (s.mrc (254 / 256)).haltRing).room = false) ∧
    (let s := haltable (fun x => { x with reason := .eccUncorrectable, notice := true })
     (firstNotice s 0).map (fun n => n.2.2) = some (some 254) ∧ 254 / 256 = 0 ∧
     s.entryPlace (s.ring (s.mrc 0).haltRing) (s.ring (s.mrc 0).haltRing).c1.toNat = some (.hbm 0) ∧ frameRetired s (.hbm 0) = false ∧
     (∀ x ∈ (s.mrc 0).slots, x.2.resume = false) ∧ (s.ring (s.mrc 0).haltRing).kind = .internal ∧ (s.ring (s.mrc 0).haltRing).room = true) ∧
    (let s := ((flying (fun x => { x with
        desc := some { strm1 with srcRing := some 65535 }
        ringWait := some (65535, 0, 10) })).modMrc 0 (fun m => { m with ticks := 10 + 4096 * 6103 })).modRing 65535 (fun r => { r with
        kind := .bucket
        ctx := 5 })
     ringAwaited s 254 = some 65535 ∧ (s.slot 254).ringWait = some (65535, BitVec.ofNat 32 0, 10) ∧
     ringMoves s 65535 = BitVec.ofNat 32 0 ∧ (s.mrc 0).wdog ≠ 0 ∧ 10 + 4096 * (s.mrc 0).wdog ≤ (s.mrc 0).ticks ∧
     waiters s (s.slot 254).ctx = [254] ∧ (s.slot 254).xfers = [] ∧ (s.slot 254).run = none) := by
  decide +kernel

/-! ## Grist blocks -/

/-- A code in which values 0 and 1 have one bit each. -/
def twoCode : GGen := { valid := true, gen := 3, kind := 3, lens := [(0, 1), (1, 1)] }

/-- The codec header of a coded block: slot 7, generation 3, kind 3, eight sub-blocks of 64 bytes. -/
def twoHdr : List Byte :=
  [7, 0x33] ++ natToBytes 4096 2 ++ ((List.range 9).flatMap (fun k => natToBytes (32 + 64 * k) 2)) ++ natToBytes 0 10

def gristing (codec flags : Nat) (x : Xfer) : State :=
  (flying (fun y => { y with
    xfers := [x]
    refs := [{ slot := 7, gen := 3 }]
    desc := some { strm1 with codec := codec, encGen := 3, grsSlots := [7], grsValid := 1, indexBase := 0x4000000500300000 }
    fetched := [{
      word := 0x4000000500300000 / 32
      data := BitVec.ofNat 256 flags
      good := true }, {
      word := 0x10000
      data := BitVec.ofNat 256 (bytesToNat twoHdr)
      good := true }] })).modGSlot 7 (fun g => { g with e0 := twoCode })

def gristXfer (n : Nat) : Xfer := { theXfer with
  src := some 0x200020
  bytes := 32 * n
  buf := some (List.replicate n (0, 0)) }

def gristDesc (codec : Nat) : StrmDesc := { strm1 with codec := codec, encGen := 3, grsSlots := [7], grsValid := 1, indexBase := 0x4000000500300000 }

/-- What a fetch that changes nothing gives. -/
def fetched (s : State) (a n : Nat) : Option (List Byte) :=
  match fetchBytes s 254 true a n with
  | (s1, .ok bs true) => if s1 = s then some bs else none
  | _ => none

def decodes (s : State) (cw : List Byte) (ws : List Word288) : Bool :=
  let h := codecHdr cw
  match decodeBlock ((s.gslot h.slot).entry (((s.gslot h.slot).entryOf h.gen).getD false)) h (cw ++ wordBytes ws) with
  | .ok bs => bs.length == 4096
  | .error _ => false

theorem goodWords_zero (n : Nat) : GoodWords (List.replicate n (0, 0)) := by
  intro w h
  rw [List.eq_of_mem_replicate h]
  rfl

theorem witness_gristBlocks :
    (let s := gristing 1 0 (gristXfer 128)
     let sl := s.slot 254
     sl.xfers = [gristXfer 128] ∧ sl.desc = some (gristDesc 1) ∧ (gristXfer 128).coded = false ∧ (gristXfer 128).remote = 0 ∧
     (gristXfer 128).buf = some (List.replicate 128 (0, 0)) ∧ fetched s ((gristDesc 1).indexBase + BitVec.ofNat 64 (8 * (gristXfer 128).block)).toNat 8 = some (natToBytes 0 8) ∧
     (fieldAt (natToBytes 0 8) 0 1).testBit 1 = false) ∧
    (let s := gristing 1 2 (gristXfer 16)
     let sl := s.slot 254
     sl.xfers = [gristXfer 16] ∧ sl.desc = some (gristDesc 1) ∧
     fetched s ((gristDesc 1).indexBase + BitVec.ofNat 64 (8 * (gristXfer 16).block)).toNat 8 = some (natToBytes 2 8) ∧
     (fieldAt (natToBytes 2 8) 0 1).testBit 1 = true ∧ fetched s (((gristXfer 16).src.getD 0) - 32).toNat 32 = some twoHdr ∧
     decodeRest s sl (codecHdr twoHdr) = some 512 ∧ decodes s twoHdr (List.replicate 16 (0, 0)) = true) ∧
    (let s := gristing 2 0 (gristXfer 128)
     let sl := s.slot 254
     sl.xfers = [gristXfer 128] ∧ sl.desc = some (gristDesc 2) ∧ (gristXfer 128).coded = false ∧ (gristXfer 128).remote = 0 ∧
     (gristXfer 128).buf = some (List.replicate 128 (0, 0)) ∧
     StrmPlace s 254 0x4000000500300000 permWrite 8 (.mill 5 0x300000) ∧ 8 ∣ 0x4000000500300000 ∧
     classify (s.word (Place.mill 5 0x300000).key).2 = .clean) := by
  unfold StrmPlace
  refine ⟨?_, ?_, ?_⟩ <;> decide +kernel

/-! ## Millpond and the memory block -/

def marching (pres : Bool) (reps : List RepairEntry) : State :=
  State.reset.modMpd 7 (fun m => { m with
    marchSt := .running
    marchPreserving := pres
    marchBanks := 5
    repairs := reps })

def oneRow : RowFail := { bank := 1, sub := 0, row := 17, badSpares := 0 }

def spares4 : List RepairEntry := (List.range 4).map (fun i => { bank := 1, sub := 0, row := i, spare := i, preserving := false })

theorem witness_banksAndMarch :
    (let s := from0 [fun s => s.modMpd 7 (fun m => { m with writeback := [2] }), fun s => s.setChk (millKey 7 64) 1]
     2 ∈ (s.tile 7).mpd.writeback ∧ classify (s.word (millKey 7 (32 * 2))).2 = .correctable 0 1) ∧
    (let s := from0 [fun s => s.modTile 7 (fun t => { t with ticks := 4096 * 244 })]
     mayRetain s 7 1 = true) ∧
    (∀ b ∈ [BankSt.retained, .waking], let s := State.reset.modMpd 7 (fun m => { m with banks := [(1, { st := b })] })
     (tget {} (s.tile 7).mpd.banks 1).st = b) ∧
    (∀ pres, let s := marching pres []
     (s.tile 7).mpd.marchSt = .running ∧ banksAwake s 7 = true ∧ (s.tile 7).mpd.marchAbort = false ∧
     (s.tile 7).mpd.marchPreserving = pres ∧ (s.tile 7).mpd.marchBanks.getLsbD 2 = true ∧ bankOf 0x500000 = 2 ∧
     (s.tile 7).mpd.sparesUsed oneRow.bank oneRow.sub < 4 ∧ rowExists oneRow.bank oneRow.sub oneRow.row = true) ∧
    (let s := (marching true []).modMpd 7 (fun m => { m with marchAbort := true })
     (s.tile 7).mpd.marchSt = .running ∧ banksAwake s 7 = true ∧ (s.tile 7).mpd.marchAbort = true ∧
     (s.tile 7).mpd.sparesUsed oneRow.bank oneRow.sub < 4) ∧
    (let s := marching true spares4
     (s.tile 7).mpd.marchSt = .running ∧ 4 ≤ (s.tile 7).mpd.sparesUsed oneRow.bank oneRow.sub) := by
  refine ⟨?_, ?_, ?_, ?_, ?_, ?_⟩
  · decide +kernel
  · decide +kernel
  · decide +kernel
  · decide +kernel
  · decide +kernel
  · decide +kernel

theorem witness_retiredTileIsRemapped :
    (let s := from0 [owns 4 768 1, fun s => s.setBytes (millKey 4 0x300000) [1, 2, 3], fun s => s.modLTile 4 (fun l => { l with st := .retiring })]
     Canonical s ∧ s.phys 4 < 200 ∧ (s.ltile 4).st = .retiring ∧ (s.ltile 4).run = none ∧ unusedSpare s (4 / 48) = some 48 ∧
     tget 0 s.owner (1536 * s.phys 4 + 768) ≠ 0) ∧
    (let s := from0 [fun s => s.modTile 48 (fun t => { t with retired := true }), fun s => s.modTile 49 (fun t => { t with retired := true }),
      fun s => s.modLTile 4 (fun l => { l with st := .retiring })]
     Canonical s ∧ (s.ltile 4).st = .retiring ∧ unusedSpare s (4 / 48) = none) := by
  unfold Canonical
  decide +kernel

theorem witness_memoryBlockWork :
    (State.reset.stack 3).scrubInt ≠ 0 ∧
    (∀ i, i < 128 → classify (State.reset.word (hbmBlockAddr 3 (State.reset.stack 3).scrubBlk + 32 * i)).2 = .clean) ∧
    (let s := from0 [fun s => s.setChk 0x1000 0x100]
     classify (s.word 0x1000).2 = .correctable 1 1) ∧
    (let s := State.reset.modStack 3 (fun k => { k with sparing := [5] })
     (s.stack 3).sparing = [5] ∧ channelErrors s 3 5 = []) ∧
    (let s := { State.reset with memb := { State.reset.memb with invBusy := true } }
     s.memb.invBusy = true ∧ ∀ o ∈ s.hdr.outst, reqCtx s o.who ≠ some s.memb.invCtx) ∧
    (∀ k, let s := { State.reset with hdr := { State.reset.hdr with invBusy := true, invKind := k } }
     s.hdr.invBusy = true ∧ s.hdr.invKind = k) := by
  refine ⟨?_, ?_, ?_, ?_, ?_, ?_⟩
  · decide +kernel
  · decide +kernel
  · decide +kernel
  · decide +kernel
  · decide +kernel
  · decide +kernel

end Sys2Proof.Tests
end

