-- ==== Sys2Proof/Tests/WitnessE.lean ====
section
/-! SUPPORT. States and operands that meet the hypotheses of the statements about the ports, the packets and requests of Headrace and
the keepers, clause by clause. -/

set_option Elab.async false -- one theorem after another: the package as one text then needs few threads

namespace Sys2Proof.Tests
open Sys2Proof Sys2Proof.Machine

def withHdr (f : Hdr → Hdr) (s : State) : State := { s with hdr := f s.hdr }

/-! ## Ports -/

def portAt (f : Port → Port) : State := State.reset.modPort 1 (fun p => f { p with unit := { p.unit with st := .on } })

theorem witness_portsTrainAndFall :
    (let s := portAt (fun p => { p with link := .training, lanesOk := 0xFF, idDone := true })
     (s.port 1).link = .training ∧ (s.port 1).unit.st = .on ∧ (s.port 1).lanesOk = 0xFF ∧ (s.port 1).idDone = true) ∧
    (let s := withHdr (fun h => { h with fabSt := .training }) (portAt (fun p => { p with link := .training, lanesOk := 0xFF, idDone := true }))
     (s.port 1).link = .training ∧ s.hdr.fabSt = .training) ∧
    (let s := portAt (fun p => { p with link := .up })
     (s.port 1).unit.st = .on ∧ (s.port 1).link = .up) := by
  decide +kernel

def flit0 : FlitIn := { fecOk := true, fecBytes := 0, crcOk := true, ftype := 0, seq := 0, ack := 2047, nak := false, cclass := 1, cred := 2, kind := 1 }

def load0 : Packet where
  operand := 0
  resp := false
  status := 0
  len := 0
  op := 1
  dst := 3
  src := 1
  oclass := 0
  oseq := 0
  tag := 9
  group := 2
  addr := 0x100002300020
  data := []

/-- The fabric is READY and this device is number 3; device 1 is a member of group 2 of context 5, whose window is the first 64 KiB of
the A bank of logical tile 4. -/
def fab (f : Hdr → Hdr) : State :=
  let ent := [1, 0, 0, 0, 0, 0, 1, 0] ++ natToBytes 5 2 ++ natToBytes 0 22 ++ natToBytes 0x10000230 4 ++ natToBytes 0x10000231 4 ++
    natToBytes 15 8 ++ natToBytes 0 80 ++ natToBytes 2 128
  from0 [owns 4 768 1, fun s => s.modCtx 5 (fun c => { c with
      bound := true
      homes := [(4, 0x300000)]
      bind := { c.bind with sltCount := 4 } }), withHdr (fun h => f { h with
      fabSt := .ready
      devValid := true
      devnum := 3
      slot := 3
      groupLimit := 8
      groupCache := [(2, ent)]
      ports := [(0, { unit := { st := .on }, link := .up, credit := [(0, 768), (4, 1536)] }), (1, { unit := { st := .on }, link := .up })] })]

theorem witness_flitsAndPackets :
    (let s := portAt id
     let t := portAt (fun p => { p with link := .up, rxSeq := 0, naks := 7, nakSeq := 0 })
     (t.port 1).link ≠ .down ∧ stopped t (xPort 1) = false ∧ flit0.fecOk = true ∧ flit0.crcOk = true ∧ flit0.seq = (t.port 1).rxSeq ∧
     flit0.nak = false ∧ flit0.cclass < 5 ∧ { flit0 with fecOk := false }.fecOk = false ∧
     (t.port 1).nakSeq = ({ flit0 with nak := true }.ack + 1) % 2048 ∧ 7 ≤ (t.port 1).naks ∧ (t.port 1).unit.st = .on ∧
     (t.port 1).link = .up ∧ (s.port 1).unit.st = .on) ∧
    (let s := fab (fun h => { h with sendQ := [load0] })
     s.hdr.fabSt = .ready ∧ s.hdr.sendQ = [load0] ∧ mayTake s load0 0 = true ∧
     ∀ j, j < 16 → mayTake s load0 j = true → (s.port 0).lastUse < (s.port j).lastUse ∨ j = 0) := by
  decide +kernel

/-! ## Requests at the target -/

/-- What a target check of the request `k` answers. -/
def target (s : State) (k : Packet) (perm n : Nat) : Option (Nat × Place) :=
  let x := targetPlace (nextExpected s k) k perm n
  if x.1.mem = s.mem ∧ x.1.chk = s.chk then x.2 else some (5000, .hbm 1)

/-- What a check of a write answers, its memory as before. -/
def wtarget (s : State) (k : Packet) (perm n : Nat) : Option Place :=
  let x := writePlace (nextExpected s k) k perm n
  if x.1.mem = s.mem ∧ x.1.chk = s.chk then x.2 else none

def spot (o : Nat) : Place := .mill 4 (0x300000 + o)

theorem witness_requestsReadAndStore :
    Expected (fab id) load0 ∧ (∀ a, spot 32 ≠ .host a) ∧
    target (fab id) { load0 with op := 1, addr := load0.addr / 32 * 32 } permRead 32 = some (5, spot 32) ∧
    (let k := { load0 with len := 2, op := 3 }
     Expected (fab id) k ∧ 1 < k.len % 128 + 1 ∧
     (let (s1, x) := targetPlace (nextExpected (fab id) k) { k with addr := k.addr / 32 * 32 } permRead 32
      x = some (5, spot 32) ∧
      (let (s2, c) := groupCheck s1 k.src k.group permRead (Machine.gOff k.addr.toNat / 32 * 32) 96
       c = some 5 ∧ s2.mem = (fab id).mem ∧ s2.chk = (fab id).chk ∧ serveRead.rangeOwnedAt s2 5 (spot 32) 96 = true))) ∧
    (let k := { load0 with op := 2, operand := 0xFF, data := [(7, 0)] }
     Expected (fab id) k ∧ 32 ∣ (spot 32).key ∧ wtarget (fab id) k permWrite 1 = some (spot 32) ∧
     k.data = [(7, 0)] ∧ classify (0 : W32) = .clean ∧ classify ((fab id).word (spot 32).key).2 = .clean) ∧
    (let k := { load0 with op := 4, len := 1, data := [(7, 0), (8, kMark)] }
     Expected (fab id) k ∧ wtarget (fab id) k permWrite 2 = some (spot 32) ∧ k.data.length = k.len % 128 + 1 ∧
     classify (0 : W32) = .clean ∧ classify kMark = .marked) ∧
    (let k := { load0 with op := 14, data := [(7, 0)] }
     Expected (fab id) k ∧ wtarget (fab id) k permAtomic 1 = some (spot 32)) := by
  refine ⟨by unfold Expected; decide +kernel, fun a h => Place.noConfusion h, by decide +kernel, ?_, ?_, ?_, ?_⟩ <;> (try unfold Expected) <;> decide +kernel

theorem witness_requestsAddAndArrive :
    (∀ a ∈ [AtomKind.addI32, .addF32, .addP64, .swap32, .swap64],
      Expected (fab id) load0 ∧ a.width ∣ (spot 32).key ∧
      target (fab id) { load0 with op := atomOp a } permAtomic a.width = some (5, spot 32) ∧
      classify ((fab id).word (spot 32).key).2 = .clean) ∧
    (let k := { load0 with op := 11, data := [(7, 0)] }
     Expected (fab id) k ∧ 32 ∣ (spot 32).key ∧ k.len % 128 = 0 ∧
     wtarget (fab id) k permAtomic 1 = some (spot 32)) ∧
    (let k := { load0 with op := 10, addr := 3 }
     let n := k.addr.toNat % 65536
     Expected (fab id) k ∧
     (let (s1, c) := groupCheck (nextExpected (fab id) k) k.src k.group permSluice n 0
      c = some 5 ∧ sluiceOwned s1 5 n = true ∧ (sluiceArriveFrom s1 k.src 5 n).2 = .ok)) := by
  refine ⟨?_, ?_, ?_⟩ <;> (try unfold Expected) <;> decide +kernel

theorem witness_requestsOutOfOrder :
    (∀ n ∈ [40000, 5], let k := { load0 with op := 4, oseq := n }
     (fab id).hdr.fabSt = .ready ∧ k.resp = false ∧ (fab id).hdr.devValid = true ∧ k.dst = (fab id).hdr.devnum ∧ k.oclass < 4 ∧
     aheadBy (fab id) k = n) ∧
    (fab id).hdr.reorder.length < 4096 ∧
    (let s := fab (fun h => { h with reorder := List.replicate 4096 load0 })
     4096 ≤ s.hdr.reorder.length) ∧
    (let k := { load0 with group := 9 }
     Expected (fab id) k ∧ target (fab id) { k with op := 1, addr := k.addr / 32 * 32 } permRead 32 = none) ∧
    (∀ n ∈ [0, 40000], let s := fab (fun h => { h with reorder := [{ load0 with oseq := n }] })
     s.hdr.reorder = [{ load0 with oseq := n }] ∧ aheadBy s { load0 with oseq := n } = n) := by
  refine ⟨?_, ?_, ?_, ?_, ?_⟩ <;> (try unfold Expected) <;> decide +kernel

/-! ## Responses -/

def outReq (w : Requester) (op : Nat) : OutReq := { tag := 9, pkt := { load0 with src := 3, dst := 1, op := op }, who := w, since := 0 }

def reply (op st : Nat) : Packet := { load0 with resp := true, status := st, op := op, data := [(5, 0)] }

theorem witness_responsesComplete :
    (let o := outReq (.load (.tile 4) 0x10100 6 2 true) 1
     let s := withHdr (fun h => { h with outst := [o] }) (from0 [onTile (fun q => { q with waiting := [(6, true)] })])
     s.hdr.outst = [o] ∧ answers (reply 1 0) o = true ∧ (reply 1 0).resp = true ∧ (reply 1 0).status = 0 ∧
     answers (reply 1 3) o = true ∧ (reply 1 3).status = 3 ∧ (reply 1 0).data = [(5, 0)] ∧ classify (0 : W32) = .clean ∧
     (6, true) ∈ (s.seqr (.tile 4)).waiting) ∧
    (∀ st ∈ [0, 4], let o := outReq (.atom (.tile 4) 12) 2
     let a : AtomOp := { iseq := 12, pc := 0x10100, kind := .store 4, addr := 0, operand := 0, sd := 0, ctx := 5 }
     let s := withHdr (fun h => { h with outst := [o] }) (from0 [onTile id, withTile (fun t => { t with atomQ := [a] })])
     s.hdr.outst = [o] ∧ answers (reply 2 st) o = true ∧ (reply 2 st).status = st ∧ coreAtoms s (.tile 4) = [a] ∧ o.pkt.op = 2) ∧
    (let o := outReq (.load (.miller 2) 0x4000 6 2 true) 1
     let s := withHdr (fun h => { h with outst := [o], ticks0 := 4096 * 24414 }) both
     s.hdr.outst = [o] ∧ s.hdr.timeout ≠ 0 ∧ 4096 * s.hdr.timeout ≤ o.waited s) := by
  decide +kernel

/-! ## Keepers -/

def kept (h : Hdr → Hdr) (k : Keeper → Keeper) : State := fab (fun x => h { x with keeper := k x.keeper })

theorem witness_keepersEnumerate :
    (let s := kept id id
     ctrlPort s = some 0 ∧ (s.port 0).unacked.length < 1024 ∧ s.hdr.ctrlQ = [] ∧ rackStrap s ≠ 1 ∧ s.hdr.keeper.rackActing = false ∧ s.mgt.restarting = false ∧ s.hdr.outst = []) ∧
    (let s := kept (fun h => { h with rkeep := 1, fabSt := .enumerating }) (fun k => { k with slotMask := 6 })
     ctrlPort s = some 0 ∧ rackStrap s = 1 ∧ s.hdr.fabSt = .enumerating ∧ s.hdr.keeper.announced = false ∧ s.hdr.keeper.standby = false ∧
     s.hdr.keeper.roster = [] ∧ rosterFull { s.hdr.keeper with roster := [⟨3, ownPid s, ownLeaf s, 0⟩] } = false) ∧
    (let s := kept (fun h => { h with rkeep := 2 }) (fun k => { k with slotMask := 6 })
     rackStrap s = 2 ∧ s.hdr.keeper.rackActing = false ∧
     rosterFull { s.hdr.keeper with roster := [⟨3, ownPid s, ownLeaf s, 0⟩] } = false) ∧
    (let s := kept id (fun k => { k with rackActing := true, slotMask := 6 })
     let rs := s.hdr.keeper.roster ++ [⟨1, 77, 0, if 0 ∈ leaves s then 0 else 2⟩]
     s.hdr.keeper.rackActing = true ∧ s.hdr.keeper.rosterClosed = false ∧ (∀ r ∈ s.hdr.keeper.roster, r.slot ≠ 1) ∧
     rosterFull { s.hdr.keeper with roster := rs } = false) ∧
    (let r : Report := ⟨1, 78, 0, 0⟩
     let s := kept id (fun k => { k with rackActing := true, slotMask := 2, roster := [r] })
     s.hdr.keeper.rackActing = true ∧ s.hdr.keeper.rosterClosed = false ∧ s.hdr.keeper.hallActing = false ∧
     s.hdr.keeper.roster = [r] ∧ r.slot = 1 ∧ r.pid ≠ 77 ∧
     rosterFull { s.hdr.keeper with roster := [{ r with out := 3 }, ⟨1, 77, 0, 3⟩] } = true) ∧
    (let s := kept id (fun k => { k with hallActing := true, topology := [(2, 5, 6), (3, 7, 8)] })
     s.hdr.keeper.hallActing = true ∧ s.hdr.keeper.hallClosed = false ∧
     hallFull { s.hdr.keeper with racks := s.hdr.keeper.racks.filter (fun r => r.1 != 5) ++ [(5, 3)] } = false) ∧
    (let s := kept id id
     s.hdr.fabSt ∈ [FabSt.enumerating, .ready, .fenced] ∧ s.hdr.keeper.rackActing = false ∧ s.hdr.outst = [] ∧
     mapHas (mapOf [(0, 2)]) 1 = true ∧ mapHas (mapOf [(0, 2)]) 2 = false) ∧
    (let s := kept (fun h => { h with fabSt := .fenced, joinRefused := true }) id
     ctrlPort s = some 0 ∧ s.hdr.fabSt = .fenced ∧ s.hdr.joinRefused = true) ∧
    (let o := outReq (.load (.miller 2) 0x4000 6 2 true) 1
     let s := kept (fun h => { h with outst := [o] }) id
     s.hdr.outst = [o] ∧ o.pkt.dst = 1 ∧ s.hdr.devValid = true ∧ s.hdr.devnum = 3) ∧
    (let s := kept (fun h => { h with map := [(0, 10)] }) (fun k => { k with rackActing := true, heartbeats := 10 })
     s.hdr.keeper.rackActing = true ∧ s.hdr.keeper.hallActing = false ∧ s.hdr.devValid = true ∧ 10 ≤ s.hdr.keeper.heartbeats ∧
     mapHas s.hdr.map (32 * (s.hdr.devnum / 32) + 1) = true) ∧
    (let s := kept id (fun k => { k with hallActing := true, rosterClosed := true })
     s.hdr.keeper.hallActing = true ∧ s.hdr.keeper.rosterClosed = true ∧ s.hdr.keeper.hallClosed = false ∧ s.hdr.outst = [] ∧
     s.hdr.mapGen = 0) := by
  refine ⟨?_, ?_, ?_, ?_, ?_, ?_, ?_, ?_, ?_, ?_, ?_⟩ <;> decide +kernel

end Sys2Proof.Tests
end

