-- ==== Sys2Proof/Tests/WitnessF.lean ====
section
/-! SUPPORT. States and operands that meet the hypotheses of the statements about submission records, steps, cores and weight packages,
clause by clause. -/

set_option Elab.async false -- one theorem after another: the package as one text then needs few threads

namespace Sys2Proof.Tests
open Sys2Proof Sys2Proof.Machine

/-- The 16 bytes that begin a submission record of context 5. -/
def recBytes (kind : Nat) (body : List Byte) : List Byte :=
  natToBytes 77 8 ++ natToBytes kind 1 ++ [0] ++ natToBytes 5 2 ++ natToBytes 0 4 ++ body ++ natToBytes 0 (112 - body.length)

def bindBytes : List Byte := recBytes 1 (natToBytes 0x100000 8 ++ natToBytes 0x10000 8 ++ natToBytes 64 8 ++ natToBytes 64 4 ++ natToBytes 1 2 ++
  natToBytes 1 2 ++ natToBytes 0 2 ++ natToBytes 1 2 ++ [1, 8] ++ natToBytes 4 2 ++ natToBytes 16 4 ++ natToBytes 0 2 ++
  natToBytes 0xFFFF 2 ++ natToBytes 0 4 ++ natToBytes 4096 4 ++ natToBytes 0 4 ++ natToBytes (2 ^ 64 - 1) 8 ++ natToBytes 0 8 ++
  natToBytes 1 4)

/-- Submission ring 100 with one record, completion ring 101 of the same function, cores 2 and 4 running, context 5 bound to core 4. -/
def serving (bs : List Byte) (f : Ctx → Ctx) (g : Ring → Ring) : State :=
  from0 [fun s => { s with pins := { s.pins with ready := true } },
    fun s => s.modMiller 4 (fun m => { m with run := .running }), fun s => s.modMiller 2 (fun m => { m with run := .running }),
    fun s => s.modTile 0 (fun x => { x with unit := { x.unit with st := .on } }), fun s => s.modFn 0 (fun x => { x with ringsBase := 100, ringsCount := 2 }),
    fun s => s.modRing 100 (fun r => g { r with kind := .submit, st := .on, entries := 4, entryUnits := 4, base := 0x10000, c1 := 1 }),
    fun s => s.modRing 101 (fun r => { r with kind := .complete, st := .on, entries := 4, entryUnits := 2, base := 0x20000, shadow := 0x30000 }),
    fun s => s.setBytes (hostKey 0x10000) bs,
    fun s => s.setBytes (hostKey 0x100000) (natToBytes 1 4),
    fun s => s.modCtx 5 (fun c => f { c with bound := true, ring := 100, core := 4, bind := bindRec bindBytes })]

def binding : State := serving bindBytes id id

/-- What the bind of `binding` reserves. -/
def reserved : Option State := reserve binding 0 0 100 2 (bindRec bindBytes) (binding.bytes (hostKey 0x100000) 16)

/-- An ADMIT of one prompt token. -/
def admBytes : List Byte := recBytes 3 (natToBytes 1 4 ++ natToBytes 4 4 ++ natToBytes 0 8 ++ natToBytes 16 8 ++ natToBytes 64 4 ++ natToBytes 1 2 ++
  [0, 1] ++ natToBytes 0 4 ++ natToBytes 0 4 ++ natToBytes 0x3F800000 4 ++ natToBytes 0 52)

/-- A table in which every context is bound. -/
def allBound : Tab Ctx := (List.range 4096).map (fun i => (i, { bound := true }))

theorem tget_keys (f : Nat → Ctx) (k : Nat) : ∀ ks : List Nat, k ∈ ks → tget {} (ks.map (fun i => (i, f i))) k = f k
  | j :: ks, h => by
    by_cases e : j = k
    · simp [tget, e]
    · simp only [List.map_cons, tget, e, if_false]
      exact tget_keys f k ks ((List.mem_cons.1 h).resolve_left (fun c => e c.symm))

theorem findFrom_none (p : Nat → Bool) : ∀ n k, (∀ i, k ≤ i → i < k + n → p i = false) → findFrom p k n = none
  | 0, _, _ => rfl
  | n + 1, k, h => by
    rw [findFrom, h k (Nat.le_refl _) (by omega)]
    exact findFrom_none p n (k + 1) (fun i h1 h2 => h i (by omega) (by omega))

theorem freeCtx_allBound (s : State) : freeCtx { s with ctxs := allBound } = none := by
  refine findFrom_none _ _ _ (fun i _ h => ?_)
  simp only [State.ctx, allBound]
  rw [tget_keys (fun _ => { bound := true }) i (List.range 4096) (List.mem_range.2 (by omega))]
  rfl

/-- A bind that reserves what it needs, on core 2, which goes on running. -/
theorem reserved_runs : ∀ s1, reserved = some s1 → ∀ tab, ((setUp s1 0 tab).miller 2).run ≠ .halted := by
  have h : reserved.all (fun s1 => (s1.miller 2).run == .running) = true := by decide +kernel
  intro s1 h1 tab
  rw [h1] at h
  have h2 : (s1.miller 2).run = .running := by simpa using h
  unfold State.miller at h2 ⊢
  rw [setUp_millers, h2]
  decide

theorem witness_contextsAndSequences_taken :
    (let bs := recBytes 0x7F []
     let s := serving bs id id
     subRecord s 100 = some bs ∧ kindDefined (fieldAt bs 8 1) = false ∧ doneRing s (s.ring 100).func = some 101 ∧ TakesRecord s 101) ∧
    (let s := binding
     subOf s 100 0x01 = some bindBytes ∧ bindsBusy s = false ∧ freeCtx s = some 0 ∧ groupTaken s (bindRec bindBytes) = (s, false) ∧
     bindOk s bindBytes (bindRec bindBytes) = true ∧ (bindRec bindBytes).spillTab = none ∧
     (let hd := s.bytes (hostKey 0x100000) 16
      let tab := s.bytes (hostKey 0x100000) (detokSize hd)
      (bindRec bindBytes).hostBase + (bindRec bindBytes).detokOff = 0x100000 ∧ detokHead (bindRec bindBytes) hd = true ∧
      detokOk (bindRec bindBytes) tab = true ∧ fewestCore s = some 2 ∧ reserved.isSome = true)) ∧
    (let s := serving bindBytes id (fun r => { r with waitFull := true })
     let s := { s with ctxs := allBound }
     subOf s 100 0x01 = some bindBytes ∧ bindsBusy s = false ∧ freeCtx s = none ∧ (s.ring 100).waitFull = true) ∧
    (let bs := recBytes 2 []
     let s := serving bs id id
     subOf s 100 0x02 = some bs ∧ recBound s 100 bs = true ∧ recRsvd bs = true ∧ fieldAt bs 16 1 < 2 ∧ zeroAt bs 17 111 = true ∧
     doneRing s (s.ring 100).func = some 101 ∧ TakesRecord s 101 ∧ coreRuns s 4 = true ∧ heldSeqs s 5 = [] ∧
     (s.ctx 5).inFlight = none ∧ (s.ctx 5).cancels = [] ∧ ∀ v, ((s.ctx 5).ver v).loading = none ∧ ((s.ctx 5).ver v).load = none ∧
       ((s.ctx 5).ver v).activate = none ∧ ((s.ctx 5).ver v).discard = none) := by
  unfold TakesRecord
  refine ⟨?_, ?_, ?_, ?_⟩
  · decide +kernel
  · decide +kernel
  · exact ⟨by decide +kernel, by decide +kernel, freeCtx_allBound _, by decide +kernel⟩
  · decide +kernel

/-- A sequence of context 5 in slot 0 of its table, entry 7. -/
def seq7 : SeqEnt := { held := true, ctx := 5, slot := 0, reqId := 77, tokens := [1] }

def aRun : PlanRun where
  progAddr := 0x10000
  die := 0
  tileMask := 32
  nAttn := 0
  nStrm := 0
  nGrist := 0
  nRegions := 1
  regionList := 0x2000
  runLimit := 0
  cplRing := 1
  seqno := 9

def aStep : StepRun where
  step := 1
  ver := false
  runs := [aRun]
  unsent := []
  live := [aRun]
  entries := [{ seq := 7, row0 := 0, rows := 1, sample := none }]
  nRows := 1
  logitFmt := 0
  sluices := []
  combine := []

theorem witness_contextsAndSequences_given :
    (let s := serving admBytes (fun c => { c with ver0 := { st := .active } }) id
     subOf s 100 0x03 = some admBytes ∧ recBound s 100 admBytes = true ∧ (s.ctx 5).hasActive = true ∧
     cplRingOf s (s.ring 100).func admBytes = some 101 ∧ TakesRecord s 101 ∧ admitOk s (s.ctx 5).bind admBytes = true ∧
     freeSeq s = some 0 ∧ freeSeqSlot s 5 = some 0) ∧
    (let s := serving admBytes (fun c => { c with ver0 := { st := .active } }) (fun r => { r with held := true })
     subRecord s 100 = some admBytes ∧ (s.ring 100).held = true ∧ fieldAt admBytes 8 1 = 0x03) ∧
    (let bs := recBytes 4 (natToBytes 7 2)
     let s := (serving bs (fun c => { c with inFlight := some aStep }) id).modSeqEnt 7 (fun _ => seq7)
     subOf s 100 0x04 = some bs ∧ recBound s 100 bs = true ∧ recRsvd bs = true ∧ zeroAt bs 18 110 = true ∧ fieldAt bs 16 2 = 7 ∧
     (s.seqEnt 7).held = true ∧ (s.seqEnt 7).ended = false ∧ (s.seqEnt 7).ctx = recCtx bs ∧ (s.seqEnt 7).reqId = recReq bs ∧
     (s.seqEnt 7).paused = false ∧ (s.ctx 5).inFlight.isSome = true ∧ coreRuns s (s.ctx 5).core = true) ∧
    (let w : Waiting := { bytes := [1], sub := none, seq := none }
     let s := (serving [] id id).modRing 101 (fun r => { r with waiting := [w] })
     (s.ring 101).waiting = [w] ∧ (s.ring 101).kind = .complete ∧ (s.ring 101).room = true ∧ w.seq = none) := by
  unfold TakesRecord
  decide +kernel

/-! ## Steps and cores -/

/-- Sequence 7 decodes: its page is held, and token 0 has no KV yet. -/
def seqDec : SeqEnt := { seq7 with tokens := [0], decoding := true, pages := 1 }

def planning (f : Ctx → Ctx) (q : SeqEnt) : State :=
  from0 [fun _ => serving [] (fun c => f { c with ver0 := { st := .active } }) id, fun s => s.modSeqEnt 7 (fun _ => q),
    fun s => s.modRing 0 (fun r => { r with kind := .internal, st := .on, entries := 4, entryUnits := 4 })]

/-- What a plan chooses. -/
def planned (s : State) : State × List SeqRow :=
  let x := fitStep (resumeAll (moveRetired s) 5 32768) 5 false 65536
  dropBad x.1 5 x.2

theorem witness_stepsAndCores_plan :
    (let s := planning id seqDec
     (s.ctx 5).bind.prefillMin ≤ (s.ctx 5).bind.stepRows ∧ (s.ctx 5).bound = true ∧ coreRuns s 4 = true ∧ (s.ctx 5).core = 4 ∧
     (s.ctx 5).handTo = none ∧ (s.ctx 5).inFlight = none ∧ mayPlan s 5 false = true ∧ settle s 5 = s ∧ (planned s).2 ≠ [] ∧ (stepPages (planned s).1 (planned s).2).isSome = true ∧
     ((planStep s 5 false [aRun] [] [] 0).miller (s.ctx 5).core).run ≠ .halted) ∧
    (let r : StepRun := { aStep with unsent := [aRun], live := [] }
     let s := planning (fun c => { c with inFlight := some r }) seqDec
     (s.ctx 5).bound = true ∧ coreRuns s (s.ctx 5).core = true ∧ (s.ctx 5).handTo = none ∧ (s.ctx 5).inFlight = some r ∧
     r.unsent = [aRun] ∧ queueRoom s (aRun.die % 4) = true ∧
     (let q := s.ring (s.gov (aRun.die % 4)).runqRing
      s.entryPlace q q.c1.toNat = some (.hbm 0) ∧ frameRetired s (.hbm 0) = false)) := by
  decide +kernel

theorem witness_stepsAndCores_steps :
    (let sp : Spill := { tier2 := false, blocks := [] }
     let s := planning id { seqDec with pausing := true, pages := 0, spilled := some sp }
     (s.seqEnt 7).held = true ∧ (s.seqEnt 7).ctx = 5 ∧ (s.seqEnt 7).pausing = true ∧ (s.ctx 5).inFlight = none ∧
     coreRuns s (s.ctx 5).core = true ∧ (s.seqEnt 7).spilled = some sp ∧ (s.seqEnt 7).refused = false ∧ spillWriting s 7 = false ∧
     ((spillEntries s 7 sp).miller (s.ctx 5).core).run ≠ .halted) ∧
    (let s := planning (fun c => { c with bind := { c.bind with spill := 1 } }) { seqDec with pausing := true }
     (s.seqEnt 7).pausing = true ∧ (s.seqEnt 7).spilled = none ∧ (copySlot s 5).isSome = true ∧
     (spillPlaces (s.ctx 5) ((s.ctx 5).rows * (s.seqEnt 7).pages)).isSome = true) ∧
    (let s := planning id { seqDec with pausing := true }
     (s.seqEnt 7).pausing = true ∧ (s.seqEnt 7).spilled = none ∧ (copySlot s 5).isSome = true ∧
     spillPlaces (s.ctx 5) ((s.ctx 5).rows * (s.seqEnt 7).pages) = none) ∧
    (let s := (planning (fun c => { c with inFlight := some aStep }) seqDec).modGov 0 (fun g => { g with
       outcomes := [{ ctx := 5, seqno := 9, status := 0, fault := .none, cls := 0 }] })
     (s.ctx 5).bound = true ∧ coreRuns s (s.ctx 5).core = true ∧ (s.ctx 5).inFlight = some aStep ∧ aStep.live = [aRun] ∧
     aStep.unsent = [] ∧ aStep.faulted = none ∧ aStep.entries = [{ seq := 7, row0 := 0, rows := 1, sample := none }] ∧
     (s.gov (aRun.die % 4)).outcomes = [{ ctx := 5, seqno := 9, status := 0, fault := .none, cls := 0 }] ∧ aRun.seqno = 9 ∧
     (s.ctx 5).unbinding = none ∧ (s.ctx 5).cancels = [] ∧ (s.ctx 5).handTo = none ∧ ((s.ctx 5).ver (s.ctx 5).spare).st = .empty ∧
     (s.seqEnt 7).held = true ∧ (s.seqEnt 7).ended = false ∧ (s.seqEnt 7).ctx = 5) ∧
    (let s := (planning (fun c => { c with inFlight := some aStep }) seqDec).modGov 0 (fun g => { g with
       outcomes := [{ ctx := 5, seqno := 9, status := 1, fault := .deadlockWatchdog, cls := 3 }] })
     (s.ctx 5).inFlight = some aStep ∧ (s.gov (aRun.die % 4)).outcomes.length = 1 ∧ silenced s 5 = false ∧ retryClass 3 = true ∧ aStep.retried = false ∧
     aStep.sluices = [] ∧ aStep.combine = [] ∧ aStep.runs = [aRun]) ∧
    (f32 (0 : W32)).isZero = true := by
  decide +kernel

theorem witness_stepsAndCores_cores :
    (let s := planning id seqDec
     coreRuns s 2 = true ∧ leaving s 4 = false ∧ (s.ctx 5).bound = true ∧ (s.ctx 5).core = 4 ∧ (s.ctx 5).inFlight = none) ∧
    (let s := planning (fun c => { c with inFlight := some aStep }) seqDec
     coreRuns s 2 = true ∧ leaving s 4 = false ∧ (s.ctx 5).core = 4 ∧ (s.ctx 5).inFlight.isSome = true) ∧
    (let s := (planning id seqDec).modMiller 4 (fun m => { m with run := .halted, image := some 2 })
     (s.miller 4).run = .halted ∧ (s.miller 4).image.isSome = true ∧ coreCtxs s 4 = [5] ∧ (s.ctx 5).inFlight = none ∧
     fewestCore s = some 2 ∧ slotWith s 2 .trial = none ∧ coreRings s 4 = [100]) ∧
    (let s := State.reset.modMiller 4 (fun m => { m with run := .halted })
     (s.miller 4).run = .halted ∧ (s.miller 4).image = none ∧ s.mgt.restarting = false ∧ coreImage s = some 2 ∧ s.mgt.replacing = false) := by
  decide +kernel

/-! ## Weight packages -/

def doneA : Done := { reqId := 5, sub := 100 }

/-- A LOAD of a manifest of two shards at host offset 0x1000. -/
def loadBytes : List Byte := recBytes 0x10 (natToBytes 0 44 ++ natToBytes 320 4 ++ natToBytes 0x1000 8 ++ natToBytes 0x2000 8 ++ [0, 1] ++
  natToBytes 0 2 ++ natToBytes 0 8 ++ natToBytes 0 4 ++ natToBytes 0 8)

/-- A manifest of two shards of 64 KiB each in HBM, without a signature. -/
def manifest : List Byte :=
  natToBytes 0x4D575850 4 ++ natToBytes 0 2 ++ natToBytes 1 2 ++ natToBytes 0 4 ++ natToBytes 6 4 ++ natToBytes 0 32 ++ natToBytes 0 16 ++
  [1] ++ natToBytes 0 2 ++ natToBytes 2 2 ++ natToBytes 1 4 ++ natToBytes 1 2 ++ natToBytes 4 2 ++ [1, 8, 0] ++ natToBytes 0 48 ++
  (natToBytes 0 32 ++ natToBytes 0 4 ++ natToBytes 64 4 ++ natToBytes 0 8 ++ natToBytes 0 48) ++
  (natToBytes 0 32 ++ natToBytes 0 4 ++ natToBytes 64 4 ++ natToBytes 0x200000 8 ++ natToBytes 0 48)

def loading (bs : List Byte) (v : Version) (f : Ctx → Ctx) : State :=
  from0 [fun _ => serving bs (fun c => f { c with ver0 := v }) id, fun s => s.setBytes (hostKey 0x101000) manifest,
    fun s => s.setBytes (hostKey 0x102000) ([1] ++ natToBytes 0 15 ++ natToBytes 0x3000 8)]

def aLoad : LoadRec := loadRec loadBytes

def staged : Version := { st := .staging, load := some aLoad, manifest := manifest }

theorem witness_weightsLoad_records :
    (let s := loading loadBytes {} id
     recBound s 100 loadBytes = true ∧ recCtx loadBytes = 5 ∧ coreRuns s (s.ctx 5).core = true ∧ subOf s 100 0x10 = some loadBytes ∧
     underWay (s.ctx 5) = false ∧ (s.ctx 5).spare = false ∧ ((s.ctx 5).ver false).st = .empty ∧ loadOk s 5 loadBytes aLoad = true) ∧
    (∀ r ∈ [none, some aStep], let bs := recBytes 0x11 []
     let s := loading bs { st := .verified } (fun c => { c with inFlight := r })
     subOf s 100 0x11 = some bs ∧ recRsvd bs = true ∧ zeroAt bs 16 112 = true ∧ (s.ctx 5).spare = false ∧
     ((s.ctx 5).ver false).st = .verified ∧ ((s.ctx 5).ver false).loading = none ∧ ((s.ctx 5).ver false).activate = none ∧
     (s.ctx 5).inFlight = r ∧ (s.ctx 5).cancels = [] ∧ (s.ctx 5).hasActive = false) ∧
    (let bs := recBytes 0x12 []
     let s := loading bs { st := .verified } id
     subOf s 100 0x12 = some bs ∧ recRsvd bs = true ∧ fieldAt bs 16 1 < 2 ∧ zeroAt bs 17 111 = true ∧
     ((s.ctx 5).ver (s.ctx 5).spare).st = .verified ∧ ((s.ctx 5).ver (s.ctx 5).spare).discard = none ∧
     ((stopLoad (consume s 100) 5 (s.ctx 5).spare).miller (s.ctx 5).core).run ≠ .halted) := by
  refine ⟨?_, ?_, ?_⟩
  · decide +kernel
  · decide +kernel
  · decide +kernel

theorem witness_weightsLoad_shards :
    (let s := loading [] { st := .retained } id
     (s.ctx 5).bound = true ∧ coreRuns s (s.ctx 5).core = true ∧ (s.ctx 5).inFlight = none ∧
     ((s.ctx 5).ver (s.ctx 5).spare).st = .retained ∧ pinnedTo s 5 (s.ctx 5).spare = [] ∧ ((s.ctx 5).ver (s.ctx 5).spare).load = none ∧
     ((discardSlot s 5 (s.ctx 5).spare).miller (s.ctx 5).core).run ≠ .halted) ∧
    (let s := loading [] staged id
     let s1 := modVer s 5 (s.ctx 5).spare (fun y => { y with version := BitVec.ofNat 32 (manVersion manifest) })
     ((s.ctx 5).ver (s.ctx 5).spare).load = some aLoad ∧ ((s.ctx 5).ver (s.ctx 5).spare).placed = false ∧ s.mgt.restarting = false ∧
     manifestOk s1 5 aLoad manifest = true ∧
     (takeAll s1 5 (s.ctx 5).spare aLoad (shardEnts manifest)).any (fun s2 => (s2.miller (s.ctx 5).core).run == .running) = true) ∧
    (let x : Version := { staged with placed := true, shards := [(0, { ready := true })] }
     let s := loading [] x id
     ((s.ctx 5).ver (s.ctx 5).spare).placed = true ∧ manShards x.manifest = 2 ∧
     fieldAt (hostBytes s 5 (aLoad.srcListOff + 32 * 0) 1) 0 1 % 2 = 1 ∧ inFetch x aLoad 0 (manShards x.manifest) = true ∧
     shardSource s 5 aLoad 0 0 = 0x3000 ∧ 0x3000 + (shardEnt x.manifest 0).size ≤ (s.ctx 5).bind.hostBytes ∧
     (tget {} x.shards 0).ready = true ∧ (shardEnt x.manifest 0).place = 0 ∧ (tget {} x.shards 1).verified = false) := by
  refine ⟨?_, ?_, ?_⟩
  · decide +kernel
  · decide +kernel
  · decide +kernel

end Sys2Proof.Tests
end

