-- ==== Sys2Proof/Tests/WitnessG.lean ====
section
/-! SUPPORT. States and operands that meet the hypotheses of the statements about the host interface, the registers, the units, Fantail,
bring-up and the I3C target, clause by clause. -/

set_option Elab.async false -- one theorem after another: the package as one text then needs few threads

namespace Sys2Proof.Tests
open Sys2Proof Sys2Proof.Machine

/-! ## The host interface -/

/-- Function 3 has rings 5000 to 5003 and two vectors; ring 5001 is its local ring 1. -/
def hosted (f : Ring → Ring) : State :=
  from0 [fun s => s.modFn 3 (fun x => { x with ringsBase := 5000, ringsCount := 4, vecBase := 100, vecCount := 2 }),
    fun s => s.modRing 5001 (fun r => f { r with entries := 8, entryUnits := 2, func := 3 })]

theorem witness_hostInterface_rings :
    (let s := hosted (fun r => { r with kind := .submit, st := .on, en := true, base := 64 })
     stopped s xPcie = false ∧ localRing s 3 1 = some 5001 ∧ (s.ring 5001).st = .on ∧ s.hif.fwRings ≤ 5001 ∧
     (s.ring 5001).kind = .submit ∧ ((5 : W32) - (s.ring 5001).c0).toNat ≤ (s.ring 5001).entries ∧
     (s.ring 5001).entries < ((9 : W32) - (s.ring 5001).c0).toNat ∧ (s.ring 5001).base ≠ 128 ∧ (s.ring 5001).en = true) ∧
    (let s := hosted (fun r => { r with kind := .complete, st := .on, c1 := 3, modRecs := 2, msixEn := true, vector := 1 })
     (s.ring 5001).kind = .complete ∧ ((2 : W32) - (s.ring 5001).c0).toNat ≤ (s.ring 5001).count ∧
     ({ s.ring 5001 with c0 := 2 } : Ring).count < max 1 (s.ring 5001).modRecs ∧
     max 1 (s.ring 5001).modRecs ≤ ({ s.ring 5001 with c0 := 0 } : Ring).count ∧ (s.ring 5001).msixEn = true ∧
     (s.ring 5001).vector < (s.fn (s.ring 5001).func).vecCount) ∧
    (let s := hosted id
     (s.ring 5001).st = .off ∧ (s.ring 5001).en = false ∧ (s.ring 5001).prod = none ∧ (s.ring 5001).cons = none) ∧
    (∀ b, let s := hosted (fun r => { r with st := .disabling, enPend := b })
     (s.ring 5001).st = .disabling ∧ (s.ring 5001).enPend = b) ∧
    (let s := hosted (fun r => { r with kind := .complete, st := .on, c1 := 3, modTicks := 9, msixEn := true, armed := true, vector := 1 })
     (s.ring 5001).kind = .complete ∧ (s.ring 5001).modTicks ≠ 0 ∧ (s.ring 5001).armed = true ∧ 0 < (s.ring 5001).count ∧
     (s.ring 5001).vector < (s.fn (s.ring 5001).func).vecCount) := by
  decide +kernel

theorem witness_hostInterface_functions :
    (let s := hosted (fun r => { r with st := .on })
     stopped s xPcie = false ∧ overlap 4095 2 0 s.hif.fwRings = true ∧ 65536 < 65535 + 2 ∧
     rangeBusy s (s.fn 3).ringsBase (s.fn 3).ringsCount = true ∧ rangeBusy s (s.fn 4).ringsBase (s.fn 4).ringsCount = false ∧
     overlap 5004 2 0 s.hif.fwRings = false ∧ (∀ x ∈ s.hif.fns, x.1 ≠ 4 → overlap 5004 2 x.2.ringsBase x.2.ringsCount = false)) ∧
    (let s := (hosted id).modFn 0 (fun f => { f with vecCount := 0 })
     1984 + 64 ≤ 2048 ∧ ∀ x ∈ s.hif.fns, x.1 ≠ 4 → overlap 1984 64 x.2.vecBase x.2.vecCount = false) ∧
    (let s := { State.reset with hif := { State.reset.hif with bar4En := true, bar4Base := 1 } }
     s.hif.bar4En = true ∧ 0x1000 + 8 ≤ 2 ^ 32 ∧ locate s (s.hif.bar4Base * 2 ^ 32 + 0x1000) = some (.hbm 0x100001000) ∧
     (readBytes s (.hbm 0x100001000) 8).2.2 = .ok) ∧
    (∀ c ∈ (hosted id).ctxs, c.2.bound = false) ∧
    (let c : Ctx := { bound := true, fn := 3 }
     let s := { hosted id with ctxs := [(5, c)] }
     s.ctxs = [(5, c)] ∧ c.bound = true ∧ c.fn = 3 ∧ c.inFlight = none) ∧
    (let s := { State.reset with boot := { State.reset.boot with pwrGood := true } }
     s.boot.pwrGood = true) := by
  decide +kernel

/-! ## Registers and units -/

theorem witness_registersAndUnits :
    stopped State.reset xPcie = false ∧ barAccess 300 0 4 = false ∧ barAccess 3 0 2 = false ∧ barAccess 3 6 4 = false ∧
    (∀ u ∈ [EnUnit.tile 7, .engine 5, .lane 3, .port 1, .core 2], unitOk u = true ∧
      ∀ st ∈ [EnState.off, .on, .disabling, .disablingThenOn, .enabling], let s := modUnit State.reset u (fun x => { x with st := st })
        (unitOf s u).st = st ∧ disabledWhen s u = true ∧
        ((∀ p, u ≠ .tile p) → enabledWhen s u = true)) := by
  refine ⟨by decide +kernel, by decide +kernel, by decide +kernel, by decide +kernel, ?_⟩
  intro u hu
  simp only [List.mem_cons, List.not_mem_nil, or_false] at hu
  rcases hu with rfl | rfl | rfl | rfl | rfl
  · exact ⟨by decide +kernel, fun st hst => ⟨by revert st; decide +kernel, by revert st; decide +kernel, fun h => absurd rfl (h 7)⟩⟩
  · exact ⟨by decide +kernel, fun st hst => ⟨by revert st; decide +kernel, by revert st; decide +kernel, fun _ => by revert st; decide +kernel⟩⟩
  · exact ⟨by decide +kernel, fun st hst => ⟨by revert st; decide +kernel, by revert st; decide +kernel, fun _ => by revert st; decide +kernel⟩⟩
  · exact ⟨by decide +kernel, fun st hst => ⟨by revert st; decide +kernel, by revert st; decide +kernel, fun _ => by revert st; decide +kernel⟩⟩
  · exact ⟨by decide +kernel, fun st hst => ⟨by revert st; decide +kernel, by revert st; decide +kernel, fun _ => by revert st; decide +kernel⟩⟩

def withFan (f : Fan → Fan) (s : State) : State := { s with fan := f s.fan }

theorem witness_registersAndUnits_tile :
    (let s := (modUnit State.reset (.tile 7) (fun x => { x with st := .enabling })).modFanTile 7 (fun t => { t with setpoint := 700, target := 700 })
     (unitOf s (.tile 7)).st = .enabling ∧ enabledWhen s (.tile 7) = true) ∧
    (let s := State.reset.modFanTile 7 (fun t => { t with target := 650, going := 690 })
     (s.fanTile 7).target < (s.fanTile 7).going) := by
  decide +kernel

/-! ## Fantail -/

def fanned (f : Fan → Fan) : State := withFan f State.reset

def msg0 : FanMsg := { sender := 9, group := 2, subj := 9, mseq := 5, value0 := 40, value1 := 0 }

theorem witness_powerAndGroups :
    (({ State.reset.fanTile 7 with period := 70000 } : FanTile).moved = true) ∧
    (let s := fanned (fun f => { f with samples := [24001] })
     s.mgt.restarting = false ∧ 10 * capEff s < avgPower s) ∧
    (let s := fanned (fun f => { f with samples := [100], raiseHeld := 9, sinceLower := 99 })
     avgPower s ≤ 10 * capEff s ∧ raiseTest s = true ∧ 9 ≤ s.fan.raiseHeld ∧ 99 ≤ s.fan.sinceLower ∧ s.fan.capAll = 0 ∧
     s.fan.levelCap < s.fan.levelOp ∧ canRaise s (s.fan.levelCap + 1) = true) ∧
    (let s := fanned id
     s.fan.brake = false ∧ s.fan.mode = 0) ∧
    (let s := fanned (fun f => { f with brake := true, coolHeld := 100 })
     s.fan.brake = true ∧ 100 ≤ s.fan.coolHeld) ∧
    (let s := fanned (fun f => { f with brakeReleasing := true })
     s.fan.brakeReleasing = true ∧ s.fan.brake = false ∧ s.fan.levelBrake < s.fan.levelOp ∧ canRaise s (s.fan.levelBrake + 1) = true) ∧
    (let s := { State.reset with pins := { State.reset.pins with ready := true } }
     s.pins.ready = true ∧ s.fan.levelBoot < 15 ∧ canRaise s (s.fan.levelBoot + 1) = true) ∧
    (let s := fanned (fun f => { f with avsFails := [(2, 2)] })
     2 ≤ tget 0 s.fan.avsFails 2) := by
  decide +kernel

/-- A group whose entry names members 9 and 12 and head 3. -/
def grouped (f : Fan → Fan) (g : Hdr → Hdr) : State :=
  let ent := [1] ++ natToBytes 0 13 ++ natToBytes 3 2 ++ natToBytes 0 112 ++ natToBytes (2 ^ 9) 128
  let s := fanned (fun x => f { x with group := 2 })
  { s with hdr := g { s.hdr with groupCache := [(2, ent)], map := [(0, 0x208)] } }

theorem witness_powerAndGroups_messages :
    (let s := grouped (fun f => { f with mode := 1 }) id
     (takeMsg s msg0).isSome = true ∧ s.fan.mode = 1 ∧ s.hdr.devValid = false ∧ s.fan.notices = []) ∧
    (let s := grouped (fun f => { f with mode := 1, notices := [⟨9, 40⟩] }) id
     (takeMsg s msg0).isSome = true ∧ s.fan.notices = [⟨msg0.subj, 40⟩]) ∧
    (let s := grouped (fun f => { f with mode := 2 }) (fun h => { h with devValid := true, devnum := 3 })
     s.fan.mode = 2 ∧ (takeMsg s msg0).any (fun s1 => isHead (groupMembers s1).1 (groupMembers s1).2.2) = true ∧
     (takeMsg s { msg0 with subj := 3 }).any (fun s1 => s1.hdr.devValid && s1.hdr.devnum == 3) = true) ∧
    (let s := grouped (fun f => { f with mode := 2 }) id
     (takeMsg s { msg0 with value0 := 0 }).isSome = true ∧ s.fan.mode = 2 ∧ s.hdr.devValid = false) ∧
    (let s := grouped (fun f => { f with mode := 1, slowed := true }) (fun h => { h with devValid := true, devnum := 12, fabSt := .ready })
     s.fan.slowed = true ∧ (groupMembers s).2 = ([9], 3) ∧ (groupMembers s).1.hdr.devValid = true ∧ inMap (groupMembers s).1 9 = true ∧
     3 ≠ (groupMembers s).1.hdr.devnum) := by
  decide +kernel

/-! ## Bring-up -/

def booting (f : Boot → Boot) (g : Mgt → Mgt) : State :=
  { State.reset with
    boot := f { State.reset.boot with pwrGood := true }
    mgt := g State.reset.mgt }

theorem witness_bringUp :
    (State.reset.boot.pwrGood = false ∧ slotWith State.reset 1 .trial = none) ∧
    (∀ k ∈ [0, 3, 4, 5, 6, 9], let s := booting (fun b => { b with step := k }) id
     s.boot.pwrGood = true ∧ s.boot.stopped = false ∧ s.boot.resumed = false ∧ s.boot.step < 10 ∧
     stepBound (s.boot.step + 1) < 9001 ∧ 200 ≤ stepBound (s.boot.step + 1)) ∧
    (let s := booting id (fun m => { m with restartDue := true })
     s.boot.pwrGood = true ∧ s.mgt.restartDue = true ∧ s.mgt.recovery = false ∧ slotWith s 1 .trial = none) ∧
    (let s := booting id (fun m => { m with restarting := true })
     s.mgt.restarting = true ∧ slotWith s 1 .trial = none) ∧
    (let s := booting id (fun m => { m with restarting := true, mgtB := { st := .trial } })
     s.mgt.restarting = true ∧ s.mgt.mgtA.st ≠ .trial ∧ s.mgt.mgtB.st = .trial) ∧
    (let s := booting (fun b => { b with drainUpd := true }) (fun m => { m with svcA := { st := .fallback }, svcB := { st := .trial } })
     s.boot.drainUpd = true ∧ (∀ c ∈ s.ctxs, c.2.bound = false) ∧ s.mgt.restarting = false ∧ s.mgt.svcA.st = .fallback ∧
     s.mgt.svcB.st = .trial) := by
  decide +kernel

/-! ## I3C -/

theorem witness_i3cTarget :
    (let s := booting (fun b => { b with step := 2 }) id
     onBus s = true ∧ s.i3c.addr = none) ∧
    (let s := { booting (fun b => { b with step := 2 }) (fun m => { m with
        i3cRsp := some { opc := 1, status := 0, auditSeq := none, data := [] } }) with i3c := { addr := some 9 } }
     onBus s = true ∧ s.i3c.addr.isSome = true ∧ s.mgt.restarting = false ∧ s.mgt.i3cRsp.isSome = true) := by
  decide +kernel

end Sys2Proof.Tests
end

