-- ==== Sys2Proof/Tests/WitnessH.lean ====
section
/-! SUPPORT. States and operands that meet the hypotheses of the statements about management frames and about the machine as a whole. -/

set_option Elab.async false -- one theorem after another: the package as one text then needs few threads

namespace Sys2Proof.Tests
open Sys2Proof Sys2Proof.Machine

/-- The I3C target has its address; step 2 of bring-up is done. -/
def managed (g : Mgt → Mgt) : State := { booting (fun b => { b with step := 2 }) g with i3c := { addr := some 9 } }

/-- A frame without credentials of role 1. -/
def bare (payload : List Byte) : Frame := { role := 1, signed := false, nonce := 0, keyFpr := 0, payload := payload, sig := [] }

def pay (ws : List Nat) : Frame := bare (ws.flatMap (fun w => natToBytes w 4))

/-- SET_CAP of 900 W by an operator, in the mailbox. -/
def mailboxed : State :=
  managed (fun m => { m with
    mboxBusy := true
    req := [(0, 0x00000010), (1, 4), (16, 900)] })

def capFrame : Frame := { pay [900] with role := 0 }

def audited : Mgt → Mgt := fun m => { m with
  audit := [{ seq := 3, role := 1, overI3c := true, action := 5, result := 0, target := 0, keyFpr := 0, detail := 0, prev := 0 }]
  auditNext := 4 }

/-- A key that is installed, and a frame that names it by its digest. -/
def someKey : List Byte := List.replicate 97 7

def digestFrame : Frame := bare (natToBytes (Config.sha384 someKey).toNat 48)

theorem digestFrame_length : digestFrame.payload.length = 48 := by simp [digestFrame, bare]

theorem digestFrame_names : payDigest digestFrame = Config.sha384 someKey := by
  have h : (Config.sha384 someKey).toNat < 256 ^ 48 :=
    Nat.lt_of_lt_of_eq (Config.sha384 someKey).isLt (by decide)
  rw [payDigest, digestFrame, bare, fieldAt_natToBytes _ _ h]
  simp

/-- A frame that is taken for any audited command, by length of payload alone. -/
def taken (g : Mgt → Mgt) (f : Frame) : Prop :=
  (∀ opc, arrives (managed g) .i3c opc f = true) ∧ auditOpen (managed g) + 2 ≤ auditArea

theorem taken_i3c (g : Mgt → Mgt) (f : Frame) (h : mgtServes (managed g) = true) (h1 : frameLen f ≤ 4096)
    (h2 : auditOpen (managed g) + 2 ≤ auditArea) : taken g f := by
  refine ⟨fun opc => ?_, h2⟩
  simp only [arrives, h, Bool.true_and]
  exact decide_eq_true h1

theorem witness_framesThatSet_taken :
    AuditedArrives mailboxed .mailbox 0x0010 capFrame ∧ capFrame.payload.length = 4 ∧ payWord capFrame 0 = 900 ∧
    mailboxed.fan.capMin ≤ 900 ∧ 900 ≤ mailboxed.fan.capMax ∧ frameStatus mailboxed .mailbox 0x0010 [0] capFrame = 0 ∧
    taken id (pay []) ∧ (0x7777 : BitVec 16).toNat ∉ knownOpcs ∧ frameStatus (managed id) .i3c 0x0001 [0, 1, 2] (pay []) = 0 ∧
    (let s := managed audited
     taken audited (pay [3, 0]) ∧ (pay [3, 0]).payload.length = 8 ∧ hasEntry s (fieldAt (pay [3, 0]).payload 0 8) = true ∧
     fieldAt (pay [3, 0]).payload 0 8 < s.mgt.auditNext ∧ taken audited (pay []) ∧ s.mgt.audit ≠ []) ∧
    (let f := pay [1, 256, 5]
     let s := managed id
     taken id f ∧ 8 ≤ f.payload.length ∧ fwKindOk s (payWord f 0) = true ∧ payWord f 1 + 4 ≤ slotBytes (payWord f 0) ∧
     kindBusy s (payWord f 0) = false ∧ inactiveSlot s (payWord f 0) = some 1) := by
  refine ⟨by unfold AuditedArrives; decide +kernel, by decide, by decide, by decide +kernel, by decide +kernel, by decide +kernel,
    taken_i3c _ _ (by decide +kernel) (by decide +kernel) (by decide +kernel), by decide, by decide +kernel,
    ⟨taken_i3c _ _ (by decide +kernel) (by decide +kernel) (by decide +kernel), by decide, by decide +kernel, by decide +kernel,
      taken_i3c _ _ (by decide +kernel) (by decide +kernel) (by decide +kernel), by decide +kernel⟩,
    ⟨taken_i3c _ _ (by decide +kernel) (by decide +kernel) (by decide +kernel), by decide, by decide +kernel, by decide +kernel,
      by decide +kernel, by decide +kernel⟩⟩

theorem witness_framesThatSet_values :
    (∀ ws ∈ [[600, 2400], [255, 4095, 4095], [30], [120], [199, 15], [0, 6], [3600]], taken id (pay ws)) ∧
    (600 ≤ payWord (pay [600, 2400]) 0 ∧ payWord (pay [600, 2400]) 0 ≤ payWord (pay [600, 2400]) 1 ∧ payWord (pay [600, 2400]) 1 ≤ 2400) ∧
    (payWord (pay [255, 4095, 4095]) 0 < 256 ∧ payWord (pay [255, 4095, 4095]) 1 < 4096 ∧ payWord (pay [255, 4095, 4095]) 2 < 4096) ∧
    (30 ≤ payWord (pay [30]) 0 ∧ payWord (pay [120]) 0 ≤ 120) ∧ (payWord (pay [199, 15]) 0 < 200 ∧ payWord (pay [199, 15]) 1 < 16) ∧
    (topologyOk (pay [0, 6]) = true ∧ topologyOk (bare (natToBytes 1 4 ++ natToBytes 511 2 ++ natToBytes 5 2 ++ natToBytes 6 2)) = true ∧
      (managed id).hdr.keeper.rackActing = false) ∧
    (1 ≤ payWord (pay [3600]) 0 ∧ payWord (pay [3600]) 0 ≤ 3600) := by
  refine ⟨?_, by decide, by decide, by decide, by decide, by decide, by decide⟩
  intro ws h
  refine taken_i3c _ _ (by decide +kernel) ?_ (by decide +kernel)
  revert ws
  decide +kernel

theorem witness_framesThatSet_keys :
    (let f := bare (natToBytes 1 4 ++ someKey)
     taken id f ∧ pubKeyStatus (managed id) f = 0) ∧
    (let g : Mgt → Mgt := fun m => { m with pubKeys := [⟨1, someKey, Config.sha384 someKey⟩] }
     taken g digestFrame ∧ digestFrame.payload.length = 48 ∧ (managed g).mgt.pubKeys.any (fun k => k.fpr == payDigest digestFrame) = true) ∧
    (let f := bare someKey
     taken id f ∧ f.payload.length = 97 ∧ (managed id).mgt.operatorKeys.any (fun k => fprOf k == fprOf f.payload) = false ∧
     (managed id).mgt.operatorKeys.length < 16 ∧ frameStatus (managed id) .i3c 0x003A [1] f = 0) ∧
    (let g : Mgt → Mgt := fun m => { m with operatorKeys := [someKey] }
     taken g digestFrame ∧ (managed g).mgt.operatorKeys.any (fun k => Config.sha384 k == payDigest digestFrame) = true) := by
  have hl : frameLen digestFrame ≤ 4096 := by
    have h := digestFrame_length
    simp only [frameLen, h]
    decide
  refine ⟨⟨taken_i3c _ _ (by decide +kernel) (by decide +kernel) (by decide +kernel), by decide +kernel⟩,
    ⟨taken_i3c _ _ (by decide +kernel) hl (by decide +kernel), digestFrame_length, ?_⟩,
    ⟨taken_i3c _ _ (by decide +kernel) (by decide +kernel) (by decide +kernel), by decide, by decide, by decide, by decide +kernel⟩,
    ⟨taken_i3c _ _ (by decide +kernel) hl (by decide +kernel), ?_⟩⟩
  · simp [digestFrame_names, managed, booting]
  · simp [digestFrame_names, managed, booting]

theorem witness_framesThatChangeParts :
    (∀ ws ∈ [[1, 256], [2], [], [7, 15], [7, 11], [20], [11, 63], [131071]], taken id (pay ws)) ∧
    (let f := pay [1, 256]
     f.payload.length = 8 ∧ fwKindOk (managed id) (payWord f 0) = true ∧ 256 ≤ payWord f 1 ∧ payWord f 1 ≤ slotBytes (payWord f 0) ∧
     kindBusy (managed id) (payWord f 0) = false ∧ inactiveSlot (managed id) (payWord f 0) = some 1) ∧
    (let g : Mgt → Mgt := fun m => { m with svcB := { st := .staged } }
     taken g (pay [3]) ∧ kindBusy (managed g) (slotKind (payWord (pay [3]) 0)) = false ∧ (fwSlot (managed g) (payWord (pay [3]) 0)).st = .staged) ∧
    (anyTrial (managed id) = false ∧ lowerSvn (managed id) = some 0) ∧
    (let s := modUnit (managed id) (.tile 7) (fun u => { u with st := .on })
     marchStatus s (pay [7, 15]) = 0 ∧ s.logOf 7 = some 7 ∧ (s.ltile 7).run = none ∧ (s.ltile 7).st = .free ∧
     marchStatus s { pay [48, 7] with role := 2 } = 0) ∧
    retireStatus (managed id) 20 = 0 ∧
    (20 * 65536 < hbmEnd ∧ 20 ∉ (managed id).memb.retired ∧ retiredOf (managed id) (hbmDie (20 * 65536)) < 4096) ∧
    ((managed id).stack 11).spared.getLsbD (63 / 4) = false ∧
    (payWord (pay [131071]) 0 < 2 ^ 17 ∧ bar4Status (managed id) (pay [131071]) = 0) ∧
    (let f := { bare (List.replicate 160 0) with role := 2 }
     taken id f ∧ f.payload.length = 160 ∧ anyBound (managed id) = false) ∧
    (let g : Mgt → Mgt := fun m => { m with rtv := true }
     let f := bare (natToBytes 0 4 ++ natToBytes 199 4 ++ natToBytes 1300 4 ++ natToBytes 600 4 ++ natToBytes 0 64)
     taken g f ∧ provisionOk f = true ∧ payWord f 0 = 0 ∧ (managed g).mgt.rtv = true) := by
  refine ⟨?_, by decide +kernel, ⟨taken_i3c _ _ (by decide +kernel) (by decide +kernel) (by decide +kernel), by decide +kernel,
    by decide +kernel⟩, by decide +kernel, by decide +kernel, by decide +kernel, by decide +kernel, by decide +kernel, by decide +kernel,
    ⟨taken_i3c _ _ (by decide +kernel) (by decide +kernel) (by decide +kernel), by decide +kernel, by decide +kernel⟩,
    ⟨taken_i3c _ _ (by decide +kernel) (by decide +kernel) (by decide +kernel), by decide +kernel, by decide +kernel, by decide +kernel⟩⟩
  intro ws h
  refine taken_i3c _ _ (by decide +kernel) ?_ (by decide +kernel)
  revert ws
  decide +kernel

/-! ## The machine as a whole -/

theorem witness_stepRunsFront :
    (let s := { State.reset with pending := [.enec, .disec] }
     s.pending = .enec :: [.disec]) ∧ State.reset.pending = [] := ⟨rfl, rfl⟩

theorem witness_stepsKeepCanonical : Canonical State.reset := by
  unfold Canonical
  decide +kernel

/-- A two-word instruction and a one-word one. -/
theorem witness_decodeOfEncode :
    (let i : Instr := .nop (.tile 4) gOn
     coreOf i = some (.tile 4) ∧ i.wf = true ∧ (words i).isSome = true ∧
     (words i).all (fun w => profileOk true w.1 && definedWords w.1 0 && decide (w.2 = none)) = true) ∧
    (let i : Instr := .ld (.miller 2) gOn 3 1 2 false 0x100
     i.wf = true ∧ (words i).all (fun w => profileOk false w.1) = true) := by
  decide +kernel

end Sys2Proof.Tests
end

section
/-! The scalar results: what a core's sequencer holds after an instruction that writes one register, and what the write and the advance of
the pc leave unchanged (05: R200, R243). -/

namespace Sys2Proof.Proofs
open Sys2Proof Sys2Proof.Machine

/-! ## A change of one sequencer, unit by unit -/

theorem modSeqr_tile (s : State) (l : Nat) (e : Seqr → Seqr) (j : Nat) :
    (s.modSeqr (.tile l) e).tile j =
      if j = s.phys l then { s.tile (s.phys l) with seqr := e (s.seqr (.tile l)) } else s.tile j :=
  State.modTile_tile ..

theorem modSeqr_miller (s : State) (m : Nat) (e : Seqr → Seqr) (j : Nat) :
    (s.modSeqr (.miller m) e).miller j =
      if j = m then { s.miller m with seqr := e (s.seqr (.miller m)) } else s.miller j :=
  State.modMiller_miller ..

/-! ## The pc past the instruction -/

/-- An advance of a tile touches the tiles and, through the progress of its run, the governors. -/
theorem advance_tile_frame (s : State) (l : Nat) (n : W64) :
    advance s (.tile l) n = { s with tiles := (advance s (.tile l) n).tiles, govs := (advance s (.tile l) n).govs } :=
  tileHs_frame (s.modSeqr (.tile l) _) l 1

/-- The advance counts one handshake of the tile, for its total and for its rate window, and no other tile changes. -/
theorem advance_tile (s : State) (l : Nat) (n : W64) (j : Nat) :
    (advance s (.tile l) n).tile j =
      if j = s.phys l then { s.tile (s.phys l) with
        hs := ((s.tile (s.phys l)).hs + 1) % 2 ^ 64
        window := (s.tile (s.phys l)).window + 1
        seqr := { s.seqr (.tile l) with pc := (s.seqr (.tile l)).pc + n } }
      else s.tile j := by
  unfold advance coreHs
  rw [tileHs_tile, State.modTile_tile, State.modSeqr_phys, modSeqr_tile, modSeqr_tile]
  split <;> simp

/-- A Miller core's advance is the change of its pc alone: no handshake is counted. -/
theorem advance_miller (s : State) (m : Nat) (n : W64) :
    advance s (.miller m) n = s.modSeqr (.miller m) (fun q => { q with pc := q.pc + n }) := rfl

/-! ## The sequencer after a register write -/

theorem wroteS_seqr (s : State) (c : Core) (sd : BitVec 5) (v n : W64) :
    (WroteS s c sd v n).seqr c = { (s.seqr c).writeS sd v with pc := (s.seqr c).pc + n } := by
  rw [WroteS, advance_seqr, Seqr.writeS_pc]

theorem wroteA_seqr (s : State) (c : Core) (ad : BitVec 4) (v : W64) :
    (WroteA s c ad v).seqr c = { (s.seqr c).setA ad v with pc := (s.seqr c).pc + 8 } := by
  rw [WroteA, advance_seqr, Seqr.setA_pc]

theorem wroteP_seqr (s : State) (c : Core) (pd : BitVec 3) (v : Bool) :
    (WroteP s c pd v).seqr c = { (s.seqr c).setP pd v with pc := (s.seqr c).pc + 8 } := by
  rw [WroteP, advance_seqr, Seqr.setP_pc]

/-- The registers do not depend on the pc. -/
@[simp] theorem seqr_withPc_s (q : Seqr) (pc : W64) (r : BitVec 5) : ({ q with pc := pc } : Seqr).s r = q.s r := rfl
@[simp] theorem seqr_withPc_a (q : Seqr) (pc : W64) (r : BitVec 4) : ({ q with pc := pc } : Seqr).a r = q.a r := rfl
@[simp] theorem seqr_withPc_p (q : Seqr) (pc : W64) (r : BitVec 3) : ({ q with pc := pc } : Seqr).p r = q.p r := rfl

/-! ## The rest of the device after a write of a scalar register -/

theorem wroteS_tile_frame (s : State) (l : Nat) (sd : BitVec 5) (v n : W64) :
    WroteS s (.tile l) sd v n =
      { s with tiles := (WroteS s (.tile l) sd v n).tiles, govs := (WroteS s (.tile l) sd v n).govs } :=
  advance_tile_frame (s.modSeqr (.tile l) _) l n

theorem wroteS_tile (s : State) (l : Nat) (sd : BitVec 5) (v n : W64) (j : Nat) :
    (WroteS s (.tile l) sd v n).tile j =
      if j = s.phys l then { s.tile (s.phys l) with
        hs := ((s.tile (s.phys l)).hs + 1) % 2 ^ 64
        window := (s.tile (s.phys l)).window + 1
        seqr := { (s.seqr (.tile l)).writeS sd v with pc := (s.seqr (.tile l)).pc + n } }
      else s.tile j := by
  unfold WroteS
  rw [advance_tile, State.modSeqr_phys, modSeqr_tile, modSeqr_tile]
  split <;> simp

theorem wroteS_miller_frame (s : State) (m : Nat) (sd : BitVec 5) (v n : W64) :
    WroteS s (.miller m) sd v n = { s with millers := (WroteS s (.miller m) sd v n).millers } := rfl

theorem wroteS_miller (s : State) (m : Nat) (sd : BitVec 5) (v n : W64) (j : Nat) :
    (WroteS s (.miller m) sd v n).miller j =
      if j = m then { s.miller m with
        seqr := { (s.seqr (.miller m)).writeS sd v with pc := (s.seqr (.miller m)).pc + n } }
      else s.miller j := by
  unfold WroteS
  simp only [advance_miller, modSeqr_miller, State.modSeqr_seqr, Seqr.writeS_pc, if_true]
  split <;> rfl

/-- Settles O8: each kind of register reads through the sequencer that the write leaves, and the other units through the frame of the
advance. -/
theorem scalarResultFrame : Obligations.ScalarResultFrame := by
  unfold Obligations.ScalarResultFrame
  refine ⟨fun s c sd v n => ⟨Seqr.s_zero _, Seqr.p_zero _, ?_⟩, fun s c ad v => ?_, fun s c pd v => ?_,
    fun s l sd v n => ?_, fun s m sd v n => ?_⟩
  · simp [wroteS_seqr, Seqr.writeS_s]
  · simp [wroteA_seqr, Seqr.setA_a]
  · simp [wroteP_seqr, Seqr.setP_p]
  · exact ⟨wroteS_tile_frame s l sd v n, fun p hp => by rw [wroteS_tile, if_neg hp], by rw [wroteS_tile, if_pos rfl]⟩
  · exact ⟨wroteS_miller_frame s m sd v n, fun j hj => by rw [wroteS_miller, if_neg hj], by rw [wroteS_miller, if_pos rfl]⟩

end Sys2Proof.Proofs
end

section
/-! The scalar results of 06: the value that each integer instruction, comparison and predicate operation writes (R248, R250, R251). -/

namespace Sys2Proof.Proofs
open Sys2Proof Sys2Proof.Machine

/-! ## An instruction whose result is one register -/

theorem issueReg_writesS {s : State} {c : Core} {g : Guard} {f : Form} {e : Seqr → Seqr} {sd : BitVec 5} {v : W64}
    (h : Executes s c g f.reads) (hf : f.allowed c = true) (he : e (s.seqr c) = (s.seqr c).writeS sd v) :
    issueReg s c g f e = .next (WroteS s c sd v f.size) := by
  rw [issueReg_executes h hf, modSeqr_congr (f' := fun q => q.writeS sd v) he, WroteS]

/-- Every core has the RR and RI forms. -/
theorem allowed_of_reads (c : Core) (rs : List (BitVec 5)) : ({ reads := rs } : Form).allowed c = true := by cases c <;> rfl

/-- An RR form writes the result of its operation on the two registers. -/
theorem rr_writes {s : State} {c : Core} {g : Guard} {sd sa sb : BitVec 5} {f : W64 → W64 → W64} {v : W64}
    (h : Executes s c g [sa, sb]) (hv : f ((s.seqr c).s sa) ((s.seqr c).s sb) = v) :
    rr s c g sd sa sb f = .next (WroteS s c sd v 8) :=
  issueReg_writesS h (allowed_of_reads c _) (congrArg _ hv)

/-- An RI form writes the result of its operation on the register and the sign-extended immediate. -/
theorem ri_writes {s : State} {c : Core} {g : Guard} {sd sa : BitVec 5} {imm : BitVec 32} {f : W64 → W64 → W64} {v : W64}
    (h : Executes s c g [sa]) (hv : f ((s.seqr c).s sa) (sext32 imm) = v) :
    ri s c g sd sa imm f = .next (WroteS s c sd v 8) :=
  issueReg_writesS h (allowed_of_reads c _) (congrArg _ hv)

/-! ## The immediate -/

theorem sext32_toInt (imm : BitVec 32) : (sext32 imm).toInt = imm.toInt := BitVec.toInt_signExtend_of_le (by decide)

theorem sext32_eq (imm : BitVec 32) : sext32 imm = BitVec.ofInt 64 imm.toInt := by
  rw [← sext32_toInt, BitVec.ofInt_toInt]

theorem sext32_eq_zero (imm : BitVec 32) : sext32 imm = 0 ↔ imm = 0 := by
  simp [← BitVec.toInt_inj, sext32_toInt]

/-- The sign extension leaves the bits of the immediate that a shift takes as its count. -/
theorem sext32_low (imm : BitVec 32) : (sext32 imm).extractLsb' 0 6 = imm.extractLsb' 0 6 := by
  ext i hi
  simp [sext32, BitVec.getElem_signExtend, show i < 64 by omega, show i < 32 by omega]

/-! ## The operation table of 06 -/

theorem mulHigh_eq (a b : W64) : mulHigh a b = (a.setWidth 128 * b.setWidth 128).extractLsb' 64 64 := by
  have hlt : a.toNat * b.toNat < 2 ^ 128 := by
    calc a.toNat * b.toNat < 2 ^ 64 * 2 ^ 64 := Nat.mul_lt_mul'' a.isLt b.isLt
      _ = 2 ^ 128 := by norm_num
  apply BitVec.eq_of_toNat_eq
  have ha : a.toNat % 2 ^ 128 = a.toNat := Nat.mod_eq_of_lt (by omega)
  have hb : b.toNat % 2 ^ 128 = b.toNat := Nat.mod_eq_of_lt (by omega)
  simp only [mulHigh, BitVec.toNat_ofNat, BitVec.extractLsb'_toNat, BitVec.toNat_mul, BitVec.toNat_setWidth, ha, hb,
    Nat.mod_eq_of_lt hlt, Nat.shiftRight_eq_div_pow]

/-- A shift takes its count from the low six bits. -/
theorem shiftCount_eq (b : W64) : b.toNat % 64 = (b.extractLsb' 0 6).toNat := by simp

theorem shlOp_eq (a b : W64) : shlOp a b = a <<< b.extractLsb' 0 6 := by rw [shlOp, shiftCount_eq]; rfl
theorem shrOp_eq (a b : W64) : shrOp a b = a >>> b.extractLsb' 0 6 := by rw [shrOp, shiftCount_eq]; rfl
theorem sraOp_eq (a b : W64) : sraOp a b = a.sshiftRight' (b.extractLsb' 0 6) := by rw [sraOp, shiftCount_eq]; rfl

theorem minOp_eq (a b : W64) : minOp a b = BitVec.ofInt 64 (min a.toInt b.toInt) := by
  rw [minOp, min_def_lt, apply_ite (BitVec.ofInt 64), BitVec.ofInt_toInt, BitVec.ofInt_toInt]
  simp [BitVec.slt]

theorem maxOp_eq (a b : W64) : maxOp a b = BitVec.ofInt 64 (max a.toInt b.toInt) := by
  rw [maxOp, max_def_lt, apply_ite (BitVec.ofInt 64), BitVec.ofInt_toInt, BitVec.ofInt_toInt]
  simp [BitVec.slt]

theorem minuOp_eq (a b : W64) : minuOp a b = BitVec.ofNat 64 (min a.toNat b.toNat) := by
  rw [minuOp, min_def_lt, apply_ite (BitVec.ofNat 64), BitVec.ofNat_toNat, BitVec.ofNat_toNat]
  simp [BitVec.ult]

theorem maxuOp_eq (a b : W64) : maxuOp a b = BitVec.ofNat 64 (max a.toNat b.toNat) := by
  rw [maxuOp, max_def_lt, apply_ite (BitVec.ofNat 64), BitVec.ofNat_toNat, BitVec.ofNat_toNat]
  simp [BitVec.ult]

theorem divuOp_eq (a b : W64) : divuOp a b = if b = 0 then BitVec.allOnes 64 else BitVec.ofNat 64 (a.toNat / b.toNat) := by
  rw [divuOp, BitVec.udiv_def]

theorem remuOp_eq (a b : W64) : remuOp a b = if b = 0 then a else BitVec.ofNat 64 (a.toNat % b.toNat) := by
  rw [remuOp, BitVec.umod_def]

/-- Settles O1: each form writes its operation's value, and the operation table says which value that is. -/
theorem integerForms : Obligations.IntegerForms := by
  unfold Obligations.IntegerForms
  refine ⟨fun s c g sd sa sb h => ?_, fun s c g sd sa imm h => ?_⟩
  · exact ⟨rr_writes h rfl, rr_writes h rfl, rr_writes h rfl, rr_writes h (mulHigh_eq ..), rr_writes h rfl, rr_writes h rfl,
      rr_writes h rfl, rr_writes h (shlOp_eq ..), rr_writes h (shrOp_eq ..), rr_writes h (sraOp_eq ..), rr_writes h (minOp_eq ..),
      rr_writes h (maxOp_eq ..), rr_writes h (minuOp_eq ..), rr_writes h (maxuOp_eq ..), rr_writes h (divuOp_eq ..),
      rr_writes h (remuOp_eq ..)⟩
  · rw [← sext32_low, ← sext32_toInt]
    simp only [← sext32_eq_zero, BitVec.ofInt_toInt]
    exact ⟨ri_writes h rfl, ri_writes h rfl, ri_writes h rfl, ri_writes h (mulHigh_eq ..), ri_writes h rfl, ri_writes h rfl,
      ri_writes h rfl, ri_writes h (shlOp_eq ..), ri_writes h (shrOp_eq ..), ri_writes h (sraOp_eq ..), ri_writes h (minOp_eq ..),
      ri_writes h (maxOp_eq ..), ri_writes h (minuOp_eq ..), ri_writes h (maxuOp_eq ..), ri_writes h (divuOp_eq ..),
      ri_writes h (remuOp_eq ..)⟩

/-! ## Comparisons and predicate operations -/

theorem issueReg_writesP {s : State} {c : Core} {g : Guard} {f : Form} {e : Seqr → Seqr} {pd : BitVec 3} {v : Bool}
    (h : Executes s c g f.reads) (hf : f.allowed c = true) (hl : f.long = false) (he : e (s.seqr c) = (s.seqr c).setP pd v) :
    issueReg s c g f e = .next (WroteP s c pd v) := by
  rw [issueReg_executes h hf, modSeqr_congr (f' := fun q => q.setP pd v) he, WroteP, Form.size, hl]
  rfl

/-- The form of a comparison is defined where CC is one of the ten and the field that I does not select is zero. -/
theorem cmp_allowed (c : Core) {cc : BitVec 4} {sb : BitVec 5} {i : Bool} {imm : BitVec 32} (rs : List (BitVec 5))
    (hcc : cc.toNat ≤ 9) (hz : if i then sb = 0 else imm = 0) : ({ wf := wfCmp cc sb i imm, reads := rs } : Form).allowed c = true := by
  have hwf : wfCmp cc sb i imm = true := by
    have hult : cc.ult 10 = true := decide_eq_true (Nat.lt_succ_of_le hcc)
    rw [wfCmp, hult]
    cases i <;> simpa using hz
  cases c <;> simpa [Form.allowed, Core.isTile] using hwf

/-- The ten comparisons, by their codes. -/
theorem ccHolds_eq (a b : W64) {cc : Nat} (hcc : cc ≤ 9) :
    let x := f32 (a.setWidth 32)
    let y := f32 (b.setWidth 32)
    ccHolds cc a b = nth false
      [decide (a = b), decide (a ≠ b), decide (a.toInt < b.toInt), decide (b.toInt ≤ a.toInt), decide (a.toNat < b.toNat),
       decide (b.toNat ≤ a.toNat), x.lt y, x.lt y || x.eq y, x.eq y, !x.eq y] cc := by
  have hne : (!decide (a = b)) = decide (a ≠ b) := decide_not.symm
  have hge : (!decide (a.toInt < b.toInt)) = decide (b.toInt ≤ a.toInt) := by rw [← decide_not, decide_eq_decide, not_lt]
  have hgeu : (!decide (a.toNat < b.toNat)) = decide (b.toNat ≤ a.toNat) := by rw [← decide_not, decide_eq_decide, not_lt]
  interval_cases cc
  exacts [rfl, hne, rfl, hge, rfl, hgeu, rfl, rfl, rfl, rfl]

theorem lopVal_eq (a b : Bool) (lop : BitVec 2) :
    lopVal lop.toNat a b = nth false [a && b, a || b, xor a b, a && !b] lop.toNat := by
  revert lop a b
  decide

theorem fv_lt_nan (x : FV) : x.lt .nan = false := by cases x <;> rfl
theorem fv_eq_nan (x : FV) : x.eq .nan = false := by cases x <;> rfl

/-- A NaN operand makes the order and the equality of FP32 values false. -/
theorem lt_eq_false_of_nan {x y : FV} (h : x = .nan ∨ y = .nan) : x.lt y = false ∧ x.eq y = false := by
  rcases h with rfl | rfl
  · exact ⟨rfl, rfl⟩
  · exact ⟨fv_lt_nan x, fv_eq_nan x⟩

/-- Settles O3: the result of each comparison and predicate operation by its code, the NaN cases by the operand that is a NaN, and the
two zeros by evaluation. -/
theorem comparesAndPredicates : Obligations.ComparesAndPredicates := by
  unfold Obligations.ComparesAndPredicates
  refine ⟨fun s c g pd cc sa sb i imm h hcc hz => ?_, fun s c g pd pa pb lop h => ?_, fun x y h => ?_, by decide⟩
  · refine issueReg_writesP h (cmp_allowed c _ hcc hz) rfl (congrArg _ ?_)
    rw [ccHolds_eq _ _ hcc, sext32_eq]
  · exact issueReg_writesP h (allowed_of_reads c []) rfl (congrArg _ (lopVal_eq ..))
  · obtain ⟨hlt, heq⟩ := lt_eq_false_of_nan h
    simp [hlt, heq]

end Sys2Proof.Proofs
end

section
/-! Skipped instructions (06, R240): the words of every Jaend instruction decode to one that issues with the guard and the form that the
words give, and a skip is the advance of the pc with its handshake. -/

namespace Sys2Proof.Proofs
open Sys2Proof Sys2Proof.Machine

/-! ## Handshakes and the progress of a run -/

/-- A change of a run that keeps its number is what the run reads as. -/
theorem modRun_run? (s : State) (d rid : Nat) (f : Run → Run) (hf : ∀ r, (f r).rid = r.rid) (d' rid' : Nat) :
    (s.modRun d rid f).run? d' rid' = if d' = d ∧ rid' = rid then (s.run? d rid).map f else s.run? d' rid' := by
  have hrid (x : Run) : (if x.rid == rid then f x else x).rid = x.rid := by split <;> simp [hf]
  unfold State.run? State.modRun
  rw [State.modGov_gov]
  by_cases hd : d' = d
  · subst hd
    simp only [if_true, true_and, mapWhere, List.find?_map, Function.comp_def, hrid]
    cases hr : (s.gov d').runs.find? (fun r => r.rid == rid') with
    | none => split <;> simp_all
    | some r =>
      have hr' : r.rid = rid' := by simpa using List.find?_some hr
      split <;> simp_all
  · simp [hd]

/-- The run with its last progress at tick `n`. R226. -/
def progressAt (n : Nat) (r : Run) : Run := { r with progressTick := n }

theorem progress_run? (s : State) (d rid d' rid' : Nat) :
    (progress s d rid).run? d' rid' =
      if d' = d ∧ rid' = rid then (s.run? d rid).map (fun r => progressAt (runTicks s r) r) else s.run? d' rid' := by
  unfold progress
  cases h : s.run? d rid with
  | none => split <;> simp_all
  | some r => exact (modRun_run? s d rid (progressAt (runTicks s r)) (fun _ => rfl) d' rid').trans (by rw [h]; rfl)

/-- A change of a tile that keeps its ticks keeps those of every run. -/
theorem modTile_runTicks (s : State) (p : Nat) (f : Tile → Tile) (hf : (f (s.tile p)).ticks = (s.tile p).ticks) (r : Run) :
    runTicks (s.modTile p f) r = runTicks s r := by
  have hticks (j : Nat) : ((s.modTile p f).tile j).ticks = (s.tile j).ticks := by
    rw [State.modTile_tile]
    split
    · next h => rw [hf, h]
    · rfl
  exact hticks _

theorem tileHs_runTicks (s : State) (l n : Nat) (r : Run) : runTicks (tileHs s l n) r = runTicks s r := by
  unfold runTicks
  rw [tileHs_tile, tileHs_phys]
  exact modTile_runTicks s _ _ rfl r

/-- A handshake of a tile is progress of the run that holds it. -/
theorem tileHs_run? (s : State) (l n d rid : Nat) :
    (tileHs s l n).run? d rid = if d = l / 48 ∧ (s.ltile l).run = some rid
      then (s.run? d rid).map (fun r => progressAt (runTicks s r) r) else s.run? d rid := by
  unfold tileHs
  cases h : (s.ltile l).run with
  | none => rw [if_neg (by simp)]; rfl
  | some held =>
    refine (progress_run? ..).trans ?_
    simp only [modTile_runTicks, Option.some.injEq, eq_comm (a := held)]
    split
    · next he => obtain ⟨rfl, rfl⟩ := he; rfl
    · rfl

theorem advance_tile_run? (s : State) (l : Nat) (n : W64) (d rid : Nat) :
    (advance s (.tile l) n).run? d rid = if d = l / 48 ∧ (s.ltile l).run = some rid
      then (s.run? d rid).map (fun r => progressAt (runTicks (advance s (.tile l) n) r) r) else s.run? d rid := by
  simp only [advance, coreHs, tileHs_runTicks]
  exact tileHs_run? ..

/-! ## The fields of a word -/

theorem wf_eq_toNat (w : W64) (lo n : Nat) : wf w.toNat lo n = (w.extractLsb' lo n).toNat := by
  simp [wf, Nat.shiftRight_eq_div_pow]

theorem wf_bit (w : W64) (lo : Nat) : wf w.toNat lo 1 = (w.getLsbD lo).toNat := by
  rw [wf, pow_one, BitVec.getLsbD, Nat.toNat_testBit]

/-- A field holds a number of its width where it is that value. -/
theorem toNat_beq_ofNat {n k : Nat} (x : BitVec n) (hk : k < 2 ^ n) : (x.toNat == k) = (x == BitVec.ofNat n k) := by
  rw [Bool.eq_iff_iff, beq_iff_eq, beq_iff_eq, ← BitVec.toNat_inj, BitVec.toNat_ofNat, Nat.mod_eq_of_lt hk]

theorem toNat_beq_zero (b : Bool) : (b.toNat == 0) = !b := by cases b <;> rfl
theorem toNat_beq_one (b : Bool) : (b.toNat == 1) = b := by cases b <;> rfl

/-! ## The form of a defined instruction -/

/-- The checks of R238 and R245 on the fields of the words, as the instructions of opcode `op` state them of their operands. -/
def operandsDefined (op : Nat) (w0 w1 : W64) : Bool :=
  if op = 0x31 then wfMovRv (w0.extractLsb' 0 32)
  else if op = 0x35 then wfCmp (w0.extractLsb' 44 4) (w0.extractLsb' 34 5) (w0.getLsbD 33) (w0.extractLsb' 0 32)
  else if op = 0x50 ∨ op = 0x52 then
    wfTbl (w0.extractLsb' 43 3) (w0.extractLsb' 41 2) (w0.extractLsb' 37 4) (w1.extractLsb' 60 4) (w1.extractLsb' 56 4) (w1.getLsbD 55)
  else if 0x58 ≤ op ∧ op ≤ 0x5E then wfLacc (w0.extractLsb' 47 4) (w1.extractLsb' 48 16) (w1.extractLsb' 0 32)
  else if op = 0x60 then
    wfBinOpen (w0.extractLsb' 46 2) (w0.getLsbD 45) (w0.extractLsb' 39 2) (w0.extractLsb' 37 2) (w0.extractLsb' 33 4)
      (w0.extractLsb' 29 4) (w1.extractLsb' 48 16)
  else if op = 0x61 then wfBinClose (w0.extractLsb' 46 2)
  else if op = 0x71 then wfRearm (w0.extractLsb' 40 5) (w0.extractLsb' 35 5) (w0.getLsbD 34) (w0.getLsbD 33)
  else true

theorem fieldsOk_eq (op : Nat) (w0 w1 : W64) : fieldsOk op w0.toNat w1.toNat = operandsDefined op w0 w1 := by
  unfold fieldsOk operandsDefined
  simp only [wf_bit, Bool.toNat_eq_one, bne, toNat_beq_zero, toNat_beq_one]
  simp (disch := decide) only [wf_eq_toNat, toNat_beq_ofNat]
  rfl

/-- The form that the row of an opcode gives its instruction. R199, R236. -/
def rowForm (r : Row) (w0 w1 : W64) : Form :=
  { wf := operandsDefined r.op w0 w1, tile := r.prof != .svc, svc := r.prof != .tile, long := r.x }

/-- Words that are defined for the core have a row, whose form is allowed and as long as bit X says. R199, R236 to R238. -/
theorem rowForm_of_defined {c : Core} {w0 w1 : W64} (hd : definedWords w0 w1 = true) (hp : profileOk c.isTile w0 = true) :
    ∃ r ∈ rows, (w0.extractLsb' 56 8).toNat = r.op ∧ (rowForm r w0 w1).allowed c = true ∧
      (rowForm r w0 w1).size = if w0.getLsbD 55 then 16 else 8 := by
  cases hr : rowOf (wf w0.toNat 56 8) with
  | none => simp [definedWords, hr] at hd
  | some r =>
    have hop : r.op = (w0.extractLsb' 56 8).toNat := by rw [← wf_eq_toNat]; simpa using List.find?_some hr
    simp only [definedWords, hr, Bool.and_eq_true, fieldsOk_eq, wf_bit, beq_iff_eq] at hd
    obtain ⟨⟨⟨hx, -⟩, -⟩, hf⟩ := hd
    refine ⟨r, List.mem_of_find?_eq_some hr, hop.symm, ?_, ?_⟩
    · have hprof : (if c.isTile then r.prof != .svc else r.prof != .tile) = true := by
        simp only [profileOk, hr] at hp
        cases hc : r.prof <;> simp_all
      simp [Form.allowed, rowForm, hf, hprof]
    · have hlong : w0.getLsbD 55 = r.x := by rw [Bool.eq_iff_iff, ← Bool.toNat_eq_one, hx, Bool.toNat_eq_one]
      rw [Form.size, rowForm, hlong]

/-! ## Issue up to the guard -/

/-- What `issue` comes to where only the checks before the guard and the guard itself are told apart, and `rest` is whatever the
instruction leaves once its guard is true. R199, R239, R240. -/
def issueTo (s : State) (c : Core) (g : Guard) (f : Form) (rest : State) : Out :=
  .next (if canIssue s c then
      (if !f.wf || !(if c.isTile then f.tile else f.svc) then coreFault s c .operandInvalid clsIssue
       else if !guardOn (s.seqr c) g then advance s c f.size
       else rest)
     else s)

theorem issueTo_skips {s : State} {c : Core} {g : Guard} {f : Form} (h : canIssue s c = true) (hg : guardOn (s.seqr c) g = false)
    (hf : f.allowed c = true) (rest : State) : issueTo s c g f rest = .next (advance s c f.size) := by
  obtain ⟨hw, hp⟩ : f.wf = true ∧ (if c.isTile then f.tile else f.svc) = true := by simpa [Form.allowed] using hf
  simp [issueTo, h, hw, hp, hg]

/-- Every Jaend instruction issues with the guard of its first word and the form of its opcode's row: one case for each row, whose
opcode picks the instruction and with it the arm of `exec`. -/
theorem readFields_issues (c : Core) (w0 w1 : W64) (s : State) (r : Row) (hr : r ∈ rows) (hop : (w0.extractLsb' 56 8).toNat = r.op) :
    ∃ rest, exec (readFields c w0 w1) s =
      issueTo s c { g := w0.extractLsb' 52 3, gn := w0.getLsbD 51 } (rowForm r w0 w1) rest := by
  unfold readFields
  rw [hop]
  clear hop
  fin_cases hr
  all_goals exact ⟨_, rfl⟩

/-- A defined instruction of the core's profile whose guard is false is skipped. R240. -/
theorem decodeWords_skips {s : State} {c : Core} {w0 w1 : W64} (hs : canIssue s c = true) (hd : definedWords w0 w1 = true)
    (hp : profileOk c.isTile w0 = true) (hg : (s.seqr c).p (w0.extractLsb' 52 3) = w0.getLsbD 51) :
    exec (decodeWords c w0 w1) s = .next (advance s c (if w0.getLsbD 55 then 16 else 8)) := by
  obtain ⟨r, hr, hop, hallowed, hsize⟩ := rowForm_of_defined hd hp
  obtain ⟨rest, hexec⟩ := readFields_issues c w0 w1 s r hr hop
  have hguard : guardOn (s.seqr c) { g := w0.extractLsb' 52 3, gn := w0.getLsbD 51 } = false := by simp [guardOn, hg]
  rw [decodeWords, hd, hp, Bool.and_self, if_pos rfl, hexec, issueTo_skips hs hguard hallowed, hsize]

/-- Settles O7: the words decode to an instruction that issues up to its guard and is skipped, and the advance is what a skip does. -/
theorem falseGuardSkips : Obligations.FalseGuardSkips := by
  unfold Obligations.FalseGuardSkips
  refine ⟨fun s c w0 w1 => decodeWords_skips, fun s l n => ?_, fun s m n => ?_⟩
  · exact ⟨advance_tile_frame s l n, fun p hp => by rw [advance_tile, if_neg hp], by rw [advance_tile, if_pos rfl],
      advance_tile_run? s l n⟩
  · rw [advance_miller]
    exact ⟨rfl, fun j hj => by rw [modSeqr_miller, if_neg hj], by rw [modSeqr_miller, if_pos rfl]; rfl⟩

end Sys2Proof.Proofs
end

section
/-! The scalar results of 05 and 06 that are left: moves and run values, the FP32 instructions, control instructions, and words that no
instruction has. -/

namespace Sys2Proof.Proofs
open Sys2Proof Sys2Proof.Machine

/-! ## Moves and run values (R249) -/

/-- An instruction whose result is one address register. -/
theorem issueReg_writesA {s : State} {c : Core} {g : Guard} {f : Form} {e : Seqr → Seqr} {ad : BitVec 4} {v : W64}
    (h : Executes s c g f.reads) (hf : f.allowed c = true) (hl : f.long = false) (he : e (s.seqr c) = (s.seqr c).setA ad v) :
    issueReg s c g f e = .next (WroteA s c ad v) := by
  rw [issueReg_executes h hf, modSeqr_congr (f' := fun q => q.setA ad v) he, WroteA, Form.size, hl]
  rfl

/-- The form of a run value is defined for the ten run values. -/
theorem movRv_allowed (c : Core) {imm : BitVec 32} (hi : imm.toNat ≤ 9) : ({ wf := wfMovRv imm } : Form).allowed c = true := by
  have hwf : wfMovRv imm = true := decide_eq_true (Nat.lt_succ_of_le hi)
  cases c <;> simpa [Form.allowed, Core.isTile] using hwf

/-- The run values of a tile, by their numbers. -/
theorem runValue_tile {s : State} {l i : Nat} {r : Run} (hr : s.runOf l = some r) (hi : i ≤ 9) :
    runValue s (.tile l) i = BitVec.ofNat 64 (nth 0
      [r.rr.indexOf l, r.rr.tileList.length, r.rr.ctx, r.rr.seqno, r.rr.step, r.rr.die, l, s.hdr.devnum, r.rr.ver.toNat, 0] i) := by
  simp only [runValue, hr]
  interval_cases i <;> rfl

/-- The run values of a Miller core, by their numbers. -/
theorem runValue_miller (s : State) (m : Nat) {i : Nat} (hi : i ≤ 9) :
    runValue s (.miller m) i = BitVec.ofNat 64 (nth 0 [0, 0, 0, 0, 0, m / 4, 0, s.hdr.devnum, 0, m] i) := by
  interval_cases i <;> rfl

/-- Settles O2: each move writes one register, and the run values are read off by their numbers. -/
theorem movesAndRunValues : Obligations.MovesAndRunValues := by
  unfold Obligations.MovesAndRunValues
  refine ⟨fun s c g sd imm h => ?_, fun s c g sd ab imm h => ?_, fun s c g ad sa imm h => ?_, fun s c g ad ab imm h => ?_,
    fun s l g sd imm r h hi hr => ?_, fun s m g sd imm h hi => ?_⟩
  · exact issueReg_writesS (f := { long := true }) h (by cases c <;> rfl) rfl
  · rw [← sext32_eq]
    exact issueReg_writesS (f := {}) h (allowed_of_reads c []) rfl
  · rw [← sext32_eq]
    exact issueReg_writesA (f := { reads := [sa] }) h (allowed_of_reads c [sa]) rfl rfl
  · rw [← sext32_eq]
    exact issueReg_writesA (f := {}) h (allowed_of_reads c []) rfl rfl
  · rw [← runValue_tile hr hi]
    exact issueReg_writesS (f := { wf := wfMovRv imm }) h (movRv_allowed _ hi) rfl
  · rw [← runValue_miller s m hi]
    exact issueReg_writesS (f := { wf := wfMovRv imm }) h (movRv_allowed _ hi) rfl

/-! ## FP32 (R252) -/

/-- Settles O4: each form writes its operation's value on bits [31:0], and the rounding is the operation's own. -/
theorem fp32Forms : Obligations.Fp32Forms := by
  unfold Obligations.Fp32Forms
  refine ⟨fun s c g sd sa sb h => ?_, fun s c g sd sa h => ?_⟩
  · exact ⟨rr_writes h rfl, rr_writes h rfl, rr_writes h rfl, rr_writes h rfl, rr_writes h rfl, rr_writes h rfl⟩
  · exact ⟨issueReg_writesS (f := { reads := [sa] }) h (allowed_of_reads c _) rfl,
      issueReg_writesS (f := { reads := [sa] }) h (allowed_of_reads c _) rfl⟩

/-! ## Control instructions (R243, R246, R247) -/

/-- A change of a Miller core's sequencer is a change of that core. -/
theorem modSeqr_miller_frame (s : State) (m : Nat) (f : Seqr → Seqr) : ∃ ms, s.modSeqr (.miller m) f = { s with millers := ms } :=
  ⟨_, rfl⟩

/-- So are a change of the core and then of its sequencer. -/
theorem modMiller_modSeqr_frame (s : State) (as : List (Nat × Miller)) (m : Nat) (f : Miller → Miller) (g : Seqr → Seqr) :
    (({ s with millers := as }.modMiller m f).modSeqr (.miller m) g) =
      { s with millers := (({ s with millers := as }.modMiller m f).modSeqr (.miller m) g).millers } :=
  rfl

/-- Settles O6: an instruction that executes leaves what the shared issue makes of its own effect. -/
theorem controlForms : Obligations.ControlForms := by
  unfold Obligations.ControlForms
  refine ⟨fun s c g sd imm h => ?_, fun s c g sa h => ?_, fun s l g h => ?_, fun s m g h => ?_⟩
  · have ha := allowed_of_reads c []
    rw [← sext32_eq]
    refine ⟨?_, ?_, ?_⟩
    · change execNop c g s = _
      rw [execNop, issue_executes h ha]
      rfl
    · change execBr c g imm s = _
      rw [execBr, issue_executes h ha]
      rfl
    · change execJal c g sd imm s = _
      rw [execJal, issue_executes h ha]
      simp only [finish, Jumped]
      rw [modSeqr_congr (s := s) (f := fun q => q.writeS sd (q.pc + 8)) (f' := fun q => q.writeS sd ((s.seqr c).pc + 8)) rfl]
  · change execJr c g sa s = _
    rw [execJr, issue_executes h (allowed_of_reads c [sa])]
    simp only [Nat.dvd_iff_mod_eq_zero]
    split <;> rfl
  · change execOpEnd (.tile l) g s = _
    rw [execOpEnd, issue_executes h rfl]
    rfl
  · change ∃ t, execOpEnd (.miller m) g s = .next t ∧ _
    rw [execOpEnd, issue_executes h rfl]
    simp only [finish, advance_miller]
    refine ⟨_, rfl, ?_, ?_, fun j hj => ?_⟩
    · obtain ⟨as, ha⟩ := modSeqr_miller_frame s m (fun q => { q with mode := .ended })
      rw [ha, modMiller_modSeqr_frame]
    · simp [modSeqr_miller, State.seqr, Form.size]
    · simp [modSeqr_miller, State.modMiller_miller, hj]

end Sys2Proof.Proofs
end

section
/-! The empty queue: a copy to a spared channel moves on with the tick. -/

namespace Sys2Proof.Proofs
open Sys2Proof Sys2Proof.Machine

/-- A device after reset on which a copy off pseudo-channel 0 of stack 0 is under way. R443. -/
def copying : State := { State.reset with memb := { stks := [(0, { sparing := [0] })] } }

/-- The tick moves the copy on by one block. -/
theorem copied_after_idleTick : ((idleTick copying).stack 0).copied = 1 := by decide +kernel

/-- Refutes O56: on an empty queue the copy to a spared channel moves on (R443), so that more than tiles, Millraces, Fantail and
Headrace change. -/
theorem not_stepRunsFront : ¬ Obligations.StepRunsFront := by
  unfold Obligations.StepRunsFront
  rintro ⟨-, hidle⟩
  obtain ⟨t, hstep, -, -, -, -, hframe⟩ := hidle copying rfl
  have ht : t = idleTick copying := (Host.Outcome.next.inj hstep).symm
  have hcopied : (t.stack 0).copied = (copying.stack 0).copied := by rw [hframe]; rfl
  rw [ht, copied_after_idleTick] at hcopied
  exact absurd hcopied (by decide)

end Sys2Proof.Proofs
end

section
/-! The register map after reset: each conjunct is about one kind of unit, whose registers read alike for every unit of the kind. -/

namespace Sys2Proof.Proofs
open Sys2Proof Sys2Proof.Machine

/-! ## Where the blocks of the units lie (log 65) -/

/-- The offsets of the Millrace block of die `d`. -/
theorem regWord_mrc (s : State) {d o : Nat} (hd : d < 4) (ho : o < 0x10000) :
    regWord s 0 (0x500000 + 0x10000 * d + o) = mrcReg s d o % 2 ^ 32 := by
  have hb : blockFor 0 (0x500000 + 0x10000 * d + o) = .mrc d o := by
    simp only [blockFor, blockOf, if_true]
    repeat rw [if_neg (by omega)]
    rw [if_pos (by omega)]
    congr <;> omega
  simp only [regWord, hb]

/-- The offsets of the counter block of physical tile `p`. -/
theorem regWord_tile (s : State) {p o : Nat} (hp : p < 200) (ho : o < 0x1000) :
    regWord s 0 (0x800000 + 0x1000 * p + o) = tileReg s p o % 2 ^ 32 := by
  have hb : blockFor 0 (0x800000 + 0x1000 * p + o) = .tile p o := by
    simp only [blockFor, blockOf, if_true]
    repeat rw [if_neg (by omega)]
    rw [if_pos (by omega)]
    congr <;> omega
  simp only [regWord, hb]

/-- The offsets of the Fantail block of physical tile `p`. -/
theorem regWord_fanTile (s : State) {p o : Nat} (hp : p < 200) (ho : o < 0x80) :
    regWord s 0 (0xB10000 + (0x80 * p + o)) = fanTileReg s p o % 2 ^ 32 := by
  have hb : blockFor 0 (0xB10000 + (0x80 * p + o)) = .fanTile p o := by
    simp only [blockFor, blockOf, if_true]
    repeat rw [if_neg (by omega)]
    rw [if_pos (by omega)]
    congr <;> omega
  simp only [regWord, hb]

/-- The offsets of a Grist table slot. -/
theorem regWord_gslot (s : State) {k o : Nat} (hk : k < 256) (ho : o < 16) :
    regWord s 0 (0x680000 + (16 * k + o)) = gslotReg s k o % 2 ^ 32 := by
  have hb : blockFor 0 (0x680000 + (16 * k + o)) = .gslot k o := by
    simp only [blockFor, blockOf, if_true]
    repeat rw [if_neg (by omega)]
    rw [if_pos (by omega)]
    congr <;> omega
  simp only [regWord, hb]

/-! ## Registers that read alike for every unit -/

/-- No stream slot holds anything after reset. -/
theorem slotReg_reset (k o : Nat) : slotReg State.reset k o = 0 := by
  have h (n : Nat) : half 0 n = 0 := by simp [half, bitsOf]
  have hs : State.reset.slot k = {} := rfl
  simp only [slotReg, hs]
  split
  · decide
  · split
    · exact h _
    · split
      · exact h _
      · split
        · exact h _
        · rfl

/-- The slot registers of a die's Millrace read zero after reset. -/
theorem mrcReg_slots_reset (d : Nat) {k : Nat} (hk : k < 2048) : mrcReg State.reset d (0x1000 + 4 * k) = 0 := by
  have hlow : entryAt 0x100 8 11 (0x1000 + 4 * k) = none := if_neg (by omega)
  have hslot : entryAt 0x1000 32 256 (0x1000 + 4 * k) = some (k / 8, 4 * (k % 8)) := by
    rw [entryAt, if_pos (by omega), show (0x1000 + 4 * k - 0x1000) / 32 = k / 8 by omega,
      show (0x1000 + 4 * k - 0x1000) % 32 = 4 * (k % 8) by omega]
  simp only [mrcReg, hlow, hslot, slotReg_reset]
  repeat rw [if_neg (by omega)]

theorem tileReg_reset (p o : Nat) : tileReg State.reset p o = tileReg State.reset 0 o := rfl
theorem fanTileReg_reset (p o : Nat) : fanTileReg State.reset p o = fanTileReg State.reset 0 o := rfl
theorem gslotReg_reset (k o : Nat) : gslotReg State.reset k o = gslotReg State.reset 0 o := rfl

/-- The counter block of a physical tile after reset. -/
theorem tileBlock_reset :
    let at32 (o v : Nat) : Prop := o < 0x1000 ∧ tileReg State.reset 0 o % 2 ^ 32 = v
    at32 0x0E0 1 ∧ (∀ i < 4, at32 (0x0F0 + 4 * i) 0) ∧ (∀ i < 22, at32 (0x100 + 4 * i) 0) ∧ at32 0x400 0 ∧ at32 0x408 0xF407 ∧
    at32 0x410 0 ∧ at32 0x414 0 ∧ at32 0x420 0 ∧ at32 0x424 0 ∧ ∀ i < 16, at32 (0x440 + 4 * i) 0 := by
  decide +kernel

/-- A register of every physical tile whose value does not depend on the tile. -/
theorem regWord_tile_reset {p o v : Nat} (hp : p < 200) (h : o < 0x1000 ∧ tileReg State.reset 0 o % 2 ^ 32 = v) :
    regWord State.reset 0 (0x800000 + 0x1000 * p + o) = v := by
  rw [regWord_tile _ hp h.1, tileReg_reset, h.2]

/-- Settles O57: the arrays of slots and of tiles by the register that every entry of them reads alike, the other registers by their
values in the state after reset. -/
theorem resetValues : Obligations.ResetValues := by
  unfold Obligations.ResetValues
  refine ⟨by decide +kernel, fun d hd => ?_, by decide +kernel, fun k hk i hi => ?_, fun p hp => ?_, ?_⟩
  · have hlow : ∀ d < 4, let b := 0x500000 + 0x10000 * d
        let at32 (o v : Nat) : Prop := regWord State.reset 0 (b + o) = v
        at32 0x000 0 ∧ at32 0x008 0 ∧ at32 0x00C 0x20 ∧ at32 0x010 0x17D7 ∧ at32 0x020 0 ∧ at32 0x024 0 ∧ at32 0x028 0 ∧
        at32 0x030 0 ∧ at32 0x034 0 ∧ at32 0x038 0x100000 ∧ at32 0x03C 0x100000 ∧ ∀ i < 22, at32 (0x100 + 4 * i) 0 := by decide +kernel
    obtain ⟨h0, h1, h2, h3, h4, h5, h6, h7, h8, h9, h10, h11⟩ := hlow d hd
    refine ⟨h0, h1, h2, h3, h4, h5, h6, h7, h8, h9, h10, h11, fun k hk => ?_⟩
    exact (regWord_mrc _ hd (by omega)).trans (congrArg (· % 2 ^ 32) (mrcReg_slots_reset d hk))
  · refine (regWord_gslot _ hk (by omega)).trans ?_
    rw [gslotReg_reset]
    revert i
    decide
  · obtain ⟨h0, h1, h2, h3, h4, h5, h6, h7, h8, h9⟩ := tileBlock_reset
    have reads := fun {o v : Nat} => regWord_tile_reset (p := p) (o := o) (v := v) hp
    exact ⟨reads h0, fun i hi => reads (h1 i hi), fun i hi => reads (h2 i hi), reads h3, reads h4, reads h5, reads h6, reads h7, reads h8,
      fun i hi => reads (h9 i hi)⟩
  · refine ⟨by decide +kernel, by decide +kernel, by decide +kernel, by decide +kernel, by decide +kernel, by decide +kernel, by decide +kernel,
      by decide +kernel, by decide +kernel, by decide +kernel, by decide +kernel, by decide +kernel, by decide +kernel, by decide +kernel,
      by decide +kernel, by decide +kernel, by decide +kernel, by decide +kernel, by decide +kernel, by decide +kernel, by decide +kernel,
      by decide +kernel, by decide +kernel, fun p hp => ⟨?_, ?_⟩, by decide +kernel⟩
    · exact (regWord_fanTile _ hp (by omega)).trans (by rw [fanTileReg_reset]; decide)
    · exact (regWord_fanTile _ hp (by omega)).trans (by rw [fanTileReg_reset]; decide)

end Sys2Proof.Proofs
end

section
/-! NaN results of the FP32 instructions (R56, R252): a rounding gives a NaN only for a NaN, and then the canonical one. -/

namespace Sys2Proof.Proofs
open Sys2Proof Sys2Proof.Machine

/-! ## The reset state -/

/-- Settles O58. -/
theorem resetIsCanonical : Obligations.ResetIsCanonical := ⟨canonical_reset, rfl⟩

/-! ## NaN bits -/

/-- The bits of an FP32 NaN: the exponent field is all ones and the fraction is not zero. R57. -/
theorem fdecode_fp32_eq_nan (b : Nat) : fdecode fmtFp32 b = .nan ↔ b / 2 ^ 23 % 256 = 255 ∧ b % 2 ^ 23 ≠ 0 := by
  simp only [fdecode, fmtFp32]
  norm_num
  (repeat' split) <;> simp_all

/-- Sign and magnitude of finite bits, or of an infinity: no NaN. -/
theorem fdecode_fp32_ne_nan {b : Nat} (neg : Bool) (h : b ≤ 0x7F800000) : fdecode fmtFp32 ((fsign fmtFp32 neg + b) % 2 ^ 32) ≠ .nan := by
  rw [Ne, fdecode_fp32_eq_nan]
  have hs : fsign fmtFp32 neg = 0 ∨ fsign fmtFp32 neg = 0x80000000 := by cases neg <;> decide
  omega

theorem f32_rne32 (v : FV) : f32 (rne32 v) = fdecode fmtFp32 (fround fmtFp32 false v % 2 ^ 32) := by
  rw [f32, rne32, BitVec.toNat_ofNat]

/-- A finite value rounds to a finite value or an infinity. R55. -/
theorem froundFin_fp32 (m e : Int) : ∃ neg, ∃ b ≤ 0x7F800000, froundFin fmtFp32 false m e = fsign fmtFp32 neg + b := by
  unfold froundFin
  extract_lets neg a top q k bits
  by_cases h : fmaxBits fmtFp32 < bits
  · exact ⟨neg, 0x7F800000, le_refl _, by rw [if_pos h]; rfl⟩
  · exact ⟨neg, bits, le_trans (not_lt.1 h) (by decide), if_neg h⟩

/-- Only a NaN rounds to a NaN. -/
theorem f32_rne32_ne_nan {v : FV} (hv : v ≠ .nan) : f32 (rne32 v) ≠ .nan := by
  rw [f32_rne32]
  cases v with
  | nan => exact absurd rfl hv
  | inf n => exact fdecode_fp32_ne_nan n (le_refl _)
  | zero n => exact fdecode_fp32_ne_nan n (Nat.zero_le _)
  | fin m e =>
    simp only [fround]
    split
    · decide
    · obtain ⟨neg, b, hb, h⟩ := froundFin_fp32 m e
      rw [h]
      exact fdecode_fp32_ne_nan neg hb

theorem rne32_nan : rne32 .nan = 0x7FC00000 := rfl

/-- A NaN that a rounding gives is the canonical one. R56. -/
theorem rne32_canonical {v : FV} (h : f32 (rne32 v) = .nan) : rne32 v = 0x7FC00000 := by
  have hv : v = .nan := by
    by_contra hv
    exact f32_rne32_ne_nan hv h
  rw [hv, rne32_nan]

/-! ## NaN operands -/

theorem add_eq_nan {x y : FV} (h : x = .nan ∨ y = .nan) : x.add y = .nan := by
  rcases h with rfl | rfl
  · rfl
  · cases x <;> rfl

theorem mul_eq_nan {x y : FV} (h : x = .nan ∨ y = .nan) : x.mul y = .nan := by
  rcases h with rfl | rfl
  · rfl
  · cases x <;> rfl

theorem div_eq_nan {x y : FV} (h : x = .nan ∨ y = .nan) : x.div y = .nan := by
  rcases h with rfl | rfl
  · rfl
  · cases x <;> rfl

theorem isNan_iff (x : FV) : x.isNan = true ↔ x = .nan := by cases x <;> simp [FV.isNan]

/-- The smaller and the larger value are NaN where an operand is, and else one of the operands. -/
theorem fmin32_cases (a b : W32) :
    if f32 a = .nan ∨ f32 b = .nan then fmin32 a b = 0x7FC00000 else fmin32 a b = a ∨ fmin32 a b = b := by
  unfold fmin32
  simp only [Bool.or_eq_true, isNan_iff]
  split
  · rfl
  · (repeat' split) <;> simp

theorem fmax32_cases (a b : W32) :
    if f32 a = .nan ∨ f32 b = .nan then fmax32 a b = 0x7FC00000 else fmax32 a b = a ∨ fmax32 a b = b := by
  unfold fmax32
  simp only [Bool.or_eq_true, isNan_iff]
  split
  · rfl
  · (repeat' split) <;> simp

/-- A value chosen among its operands is a NaN only where an operand is, and then the canonical one. -/
theorem canonical_of_choice {a b r : W32} (h : if f32 a = .nan ∨ f32 b = .nan then r = 0x7FC00000 else r = a ∨ r = b) :
    (f32 r = .nan → r = 0x7FC00000) ∧ (f32 a = .nan ∨ f32 b = .nan → r = 0x7FC00000) := by
  split at h
  · exact ⟨fun _ => h, fun _ => h⟩
  · next hn =>
    refine ⟨fun hr => absurd ?_ hn, fun hab => absurd hab hn⟩
    rcases h with rfl | rfl
    · exact .inl hr
    · exact .inr hr

/-- A rounded value is a NaN only where the exact one is, and a NaN operand makes that one a NaN. -/
theorem canonical_of_rne32 {a b : W32} {v : FV} (h : f32 a = .nan ∨ f32 b = .nan → v = .nan) :
    (f32 (rne32 v) = .nan → rne32 v = 0x7FC00000) ∧ (f32 a = .nan ∨ f32 b = .nan → rne32 v = 0x7FC00000) :=
  ⟨rne32_canonical, fun hab => by rw [h hab, rne32_nan]⟩

/-- Settles O5: four operations round one exact value, and two choose an operand. -/
theorem fp32NanIsCanonical : Obligations.Fp32NanIsCanonical := by
  unfold Obligations.Fp32NanIsCanonical
  intro a b f hf
  simp only [List.mem_cons, List.not_mem_nil, or_false] at hf
  rcases hf with rfl | rfl | rfl | rfl | rfl | rfl
  · exact canonical_of_rne32 add_eq_nan
  · exact canonical_of_rne32 (fun h => add_eq_nan (h.imp id (fun hb => by rw [hb]; rfl)))
  · exact canonical_of_rne32 mul_eq_nan
  · exact canonical_of_rne32 div_eq_nan
  · exact canonical_of_choice (fmin32_cases a b)
  · exact canonical_of_choice (fmax32_cases a b)

end Sys2Proof.Proofs
end

section
/-! Faults of a run (R203, R228, R230): what step 1 of R228 changes, what the run keeps, and what a fault at issue leaves. -/

namespace Sys2Proof.Proofs
open Sys2Proof Sys2Proof.Machine

/-! ## What the stop of a run changes -/

theorem dropRefs_frame (s : State) (rs : List GRef) : dropRefs s rs = { s with gslots := (dropRefs s rs).gslots } := by
  induction rs generalizing s with
  | nil => rfl
  | cons r rs ih => exact ih (gdrop s r.slot r.gen)

theorem stopTile_frame (s : State) (p : Nat) :
    stopTile s p = { s with tiles := (stopTile s p).tiles, gslots := (stopTile s p).gslots } := by
  unfold stopTile
  rw [dropRefs_frame]
  rfl

theorem dropRefs_tile (s : State) (rs : List GRef) (p : Nat) : (dropRefs s rs).tile p = s.tile p := by
  rw [dropRefs_frame]; rfl

theorem stopTile_tile (s : State) (p j : Nat) :
    (stopTile s p).tile j = if j = p then (s.tile p).stop .stopped else s.tile j := by
  unfold stopTile
  rw [State.modTile_tile, dropRefs_tile, dropRefs_tile]

/-- The stop of tiles touches the tiles and the references that their queued operations held. -/
theorem stopTiles_frame (s : State) (ls : List Nat) : ∃ ts gs,
    ls.foldl (fun s l => stopTile s (s.phys l)) s = { s with tiles := ts, gslots := gs } := by
  induction ls generalizing s with
  | nil => exact ⟨_, _, rfl⟩
  | cons l ls ih =>
    obtain ⟨ts, gs, h⟩ := ih (stopTile s (s.phys l))
    exact ⟨ts, gs, by rw [List.foldl_cons, h, stopTile_frame]⟩

/-- The queues of engines emptied. -/
theorem emptyQueues_frame (s : State) (es : List Nat) : ∃ gs,
    es.foldl (fun s e => s.modEngine e (fun g => { g with queue := [] })) s = { s with engines := gs } := by
  induction es generalizing s with
  | nil => exact ⟨_, rfl⟩
  | cons e es ih => exact ih (s.modEngine e (fun g => { g with queue := [] }))

/-- Step 1 of R228 touches tiles, engines and Grist references. -/
theorem stopRun_frame (s : State) (r : Run) :
    stopRun s r = { s with
      tiles := (stopRun s r).tiles
      engines := (stopRun s r).engines
      gslots := (stopRun s r).gslots } := by
  obtain ⟨ts, gs, h⟩ := stopTiles_frame s r.rr.tileList
  obtain ⟨es, h'⟩ := emptyQueues_frame (r.rr.tileList.foldl (fun s l => stopTile s (s.phys l)) s) r.engines
  unfold stopRun
  simp only
  rw [h', h]

/-- A tile that has faulted stays so when its run stops. -/
theorem stop_mode_faulted {t : Tile} (m : SeqMode) (h : t.seqr.mode = .faulted) : (t.stop m).seqr.mode = .faulted := by
  simp [Tile.stop, h]

theorem stopTiles_mode_faulted {s : State} {p : Nat} (ls : List Nat) (h : (s.tile p).seqr.mode = .faulted) :
    ((ls.foldl (fun s l => stopTile s (s.phys l)) s).tile p).seqr.mode = .faulted := by
  induction ls generalizing s with
  | nil => exact h
  | cons l ls ih =>
    refine ih ?_
    rw [stopTile_tile]
    split
    · next hp => exact stop_mode_faulted _ (hp ▸ h)
    · exact h

theorem stopRun_mode_faulted {s : State} {p : Nat} (r : Run) (h : (s.tile p).seqr.mode = .faulted) :
    ((stopRun s r).tile p).seqr.mode = .faulted := by
  obtain ⟨es, h'⟩ := emptyQueues_frame (r.rr.tileList.foldl (fun s l => stopTile s (s.phys l)) s) r.engines
  unfold stopRun
  simp only
  rw [h']
  exact stopTiles_mode_faulted _ h

/-! ## Runs -/

/-- The run found by a number has that number. -/
theorem rid_of_run? {s : State} {d rid : Nat} {r : Run} (h : s.run? d rid = some r) : r.rid = rid := by
  simpa using List.find?_some h

/-- The run that holds a tile is found by its number. -/
theorem run?_of_runOf {s : State} {l : Nat} {r : Run} (h : s.runOf l = some r) : s.run? (l / 48) r.rid = some r := by
  unfold State.runOf at h
  split at h
  · cases h
  · next rid _ => rwa [rid_of_run? h]

/-- A tile that may issue is held by an active run. -/
theorem active_of_canIssue {s : State} {l : Nat} {r : Run} (h : canIssue s (.tile l) = true) (hr : s.runOf l = some r) :
    r.phase = .active := by
  simp only [canIssue, hr, Bool.and_eq_true, beq_iff_eq] at h
  exact h.2.2

theorem stopRun_run? (s : State) (r : Run) (d rid : Nat) : (stopRun s r).run? d rid = s.run? d rid := by
  rw [stopRun_frame]; rfl

/-! ## A fault of an active run -/

/-- An active run that faults stops, and keeps the fault. R203, R231. -/
theorem faultRun_active {s : State} {d rid : Nat} {r : Run} (hr : s.run? d rid = some r) (ha : r.phase = .active) (f : Flt)
    (pc : Option W64) (tile cls : Nat) : faultRun s d rid f pc tile cls =
      (stopRun s r).modRun d rid
        (fun r => { r with phase := .stopping, fault := f, faultPc := pc, faultTile := tile, faultClass := cls }) := by
  simp [faultRun, hr, ha]

theorem faultRun_run? {s : State} {d rid : Nat} {r : Run} (hr : s.run? d rid = some r) (ha : r.phase = .active) (f : Flt)
    (pc : Option W64) (tile cls : Nat) : (faultRun s d rid f pc tile cls).run? d rid =
      some { r with phase := .stopping, fault := f, faultPc := pc, faultTile := tile, faultClass := cls } := by
  rw [faultRun_active hr ha, modRun_run?, if_pos ⟨rfl, rfl⟩, stopRun_run?, hr, Option.map_some]
  exact fun _ => rfl

/-- A fault of a run touches no memory. -/
theorem faultRun_frame (s : State) (d rid : Nat) (f : Flt) (pc : Option W64) (tile cls : Nat) :
    faultRun s d rid f pc tile cls = { s with
      tiles := (faultRun s d rid f pc tile cls).tiles
      engines := (faultRun s d rid f pc tile cls).engines
      gslots := (faultRun s d rid f pc tile cls).gslots
      govs := (faultRun s d rid f pc tile cls).govs } := by
  unfold faultRun
  split
  · rfl
  · split
    · rw [stopRun_frame]; rfl
    · rfl

/-! ## A fault at issue -/

theorem modSeqr_runOf (s : State) (c : Core) (e : Seqr → Seqr) (l : Nat) : (s.modSeqr c e).runOf l = s.runOf l := by
  cases c <;> rfl

/-- The state in which the sequencer of a tile has faulted and its run has not yet stopped. -/
theorem coreFault_tile {s : State} {l : Nat} {r : Run} (hr : s.runOf l = some r) (f : Flt) (cls : Nat) :
    coreFault s (.tile l) f cls = faultRun (s.modSeqr (.tile l) (fun q => { q with mode := .faulted })) (l / 48) r.rid f
      (some ((s.seqr (.tile l)).pc - r.rr.progAddr)) (r.rr.indexOf l) cls := by
  simp only [coreFault, faultTile, modSeqr_runOf, hr]

/-- A fault at issue of a tile: the sequencer stays faulted, the run keeps the fault and begins to stop. R203, R228, R231. -/
theorem coreFault_tile_active {s : State} {l : Nat} {r : Run} (hr : s.runOf l = some r) (ha : r.phase = .active) (f : Flt) (cls : Nat) :
    (coreFault s (.tile l) f cls).mem = s.mem ∧ ((coreFault s (.tile l) f cls).seqr (.tile l)).mode = .faulted ∧
    (coreFault s (.tile l) f cls).run? (l / 48) r.rid = some { r with
      phase := .stopping, fault := f, faultPc := some ((s.seqr (.tile l)).pc - r.rr.progAddr), faultTile := r.rr.indexOf l,
      faultClass := cls } := by
  have hr' : (s.modSeqr (.tile l) (fun q => { q with mode := .faulted })).run? (l / 48) r.rid = some r := run?_of_runOf (l := l) hr
  rw [coreFault_tile hr]
  refine ⟨?_, ?_, faultRun_run? hr' ha ..⟩
  · rw [faultRun_frame]; rfl
  · rw [faultRun_active hr' ha]
    have hphys : (stopRun (s.modSeqr (.tile l) (fun q => { q with mode := .faulted })) r).phys l = s.phys l := by
      rw [stopRun_frame]; rfl
    change ((stopRun _ r).tile ((stopRun _ r).phys l)).seqr.mode = .faulted
    rw [hphys]
    exact stopRun_mode_faulted r (by simp [modSeqr_tile])

/-- Words that have no meaning for the core fault at issue. R199, R238. -/
theorem undefinedEncoding_faults {s : State} {c : Core} {w0 w1 : W64} (hi : canIssue s c = true)
    (hw : (definedWords w0 w1 && profileOk c.isTile w0) = false) :
    exec (.undefinedEncoding c w0 w1) s = .next (coreFault s c .operandInvalid clsIssue) := by
  change execUndefinedEncoding c w0 w1 s = _
  rw [execUndefinedEncoding, hi, hw]
  rfl

/-- Settles O9: the words fault at issue; a tile's run keeps the fault and stops, a Miller core halts. -/
theorem undefinedWordsFault : Obligations.UndefinedWordsFault := by
  unfold Obligations.UndefinedWordsFault
  refine ⟨fun s l w0 w1 r hi hw hr => ?_, fun s m w0 w1 hi hw => ?_⟩
  · exact ⟨_, undefinedEncoding_faults hi hw, coreFault_tile_active hr (active_of_canIssue hi hr) ..⟩
  · exact ⟨_, undefinedEncoding_faults hi hw, rfl, State.modMiller_miller_same ..⟩

end Sys2Proof.Proofs
end

section
/-! Encoding and decoding of Jaend instructions (06, R236 to R238, R244, R245). An instruction's words are laid out from fields; what lies
in the fields of a word reads back from it, and a defined word is made of the fields of its opcode's row. -/

namespace Sys2Proof.Proofs
open Sys2Proof Sys2Proof.Machine

/-! ## The bits of a word in a list of fields -/

theorem wf_eq (w lo n : Nat) : wf w lo n = w / 2 ^ lo % 2 ^ n := rfl

theorem keepFields_nil (w : Nat) : keepFields w [] = 0 := rfl

theorem keepFields_cons (w lo n : Nat) (fs : List (Nat × Nat)) :
    keepFields w ((lo, n) :: fs) = wf w lo n * 2 ^ lo + keepFields w fs := by
  simp only [keepFields, ← List.sum_eq_foldl, List.map_cons, List.sum_cons]

/-! ## Words laid out from fields -/

/-- A field of a word: bits from `lo` on, or one bit. -/
inductive Field
  | bits (lo n : Nat) (v : BitVec n)
  | bit (lo : Nat) (b : Bool)

def Field.lo : Field → Nat
  | .bits lo _ _ => lo
  | .bit lo _ => lo

def Field.width : Field → Nat
  | .bits _ n _ => n
  | .bit _ _ => 1

def Field.num : Field → Nat
  | .bits _ _ v => v.toNat
  | .bit _ b => b.toNat

/-- The fields stand from the top down, below bit `top`, without overlap. -/
def laidOut : Nat → List Field → Bool
  | _, [] => true
  | top, f :: fs => decide (f.lo + f.width ≤ top) && laidOut f.lo fs

/-- The word that fields make, every other bit zero. -/
def place : List Field → Nat
  | [] => 0
  | f :: fs => f.num * 2 ^ f.lo + place fs

/-- `P` holds where word `w` reads the fields `fs`. -/
def Reading (w : W64) : List Field → Prop → Prop
  | [], P => P
  | .bits lo n v :: fs, P => w.extractLsb' lo n = v → Reading w fs P
  | .bit lo b :: fs, P => w.getLsbD lo = b → Reading w fs P

theorem Field.num_lt (f : Field) : f.num < 2 ^ f.width := by
  cases f with
  | bits lo n v => exact v.isLt
  | bit lo b => exact b.toNat_lt

theorem le_of_laidOut {fs : List Field} {top : Nat} (h : laidOut top fs = true) {f : Field} (hf : f ∈ fs) : f.lo + f.width ≤ top := by
  induction fs generalizing top with
  | nil => cases hf
  | cons x fs ih =>
    obtain ⟨htop, hfs⟩ : x.lo + x.width ≤ top ∧ laidOut x.lo fs = true := by simpa [laidOut] using h
    rcases List.mem_cons.1 hf with rfl | hf
    · exact htop
    · exact le_trans (ih hfs hf) (le_trans (Nat.le_add_right ..) htop)

theorem place_lt {fs : List Field} {top : Nat} (h : laidOut top fs = true) : place fs < 2 ^ top := by
  induction fs generalizing top with
  | nil => exact Nat.two_pow_pos top
  | cons f fs ih =>
    obtain ⟨htop, hfs⟩ : f.lo + f.width ≤ top ∧ laidOut f.lo fs = true := by simpa [laidOut] using h
    calc place (f :: fs) = f.num * 2 ^ f.lo + place fs := rfl
      _ < f.num * 2 ^ f.lo + 2 ^ f.lo := Nat.add_lt_add_left (ih hfs) _
      _ = (f.num + 1) * 2 ^ f.lo := by ring
      _ ≤ 2 ^ f.width * 2 ^ f.lo := Nat.mul_le_mul_right _ f.num_lt
      _ = 2 ^ (f.lo + f.width) := by rw [← pow_add, add_comm]
      _ ≤ 2 ^ top := Nat.pow_le_pow_right (by decide) htop

/-- What stands from bit `k` on does not reach a field below it. -/
theorem wf_add_high {a b k lo n : Nat} (h : lo + n ≤ k) : wf (a * 2 ^ k + b) lo n = wf b lo n := by
  obtain ⟨m, rfl⟩ := Nat.exists_eq_add_of_le h
  rw [wf, wf, ← Nat.mod_mul_right_div_self, ← Nat.mod_mul_right_div_self, ← pow_add, pow_add 2 (lo + n), ← mul_assoc,
    mul_right_comm, Nat.mul_add_mod']

/-- A word reads the fields that it is made of. -/
theorem wf_place {fs : List Field} {top : Nat} (h : laidOut top fs = true) {f : Field} (hf : f ∈ fs) :
    wf (place fs) f.lo f.width = f.num := by
  induction fs generalizing top with
  | nil => cases hf
  | cons x fs ih =>
    obtain ⟨-, hfs⟩ : x.lo + x.width ≤ top ∧ laidOut x.lo fs = true := by simpa [laidOut] using h
    rcases List.mem_cons.1 hf with rfl | hf
    · rw [wf, place, Nat.mul_comm, Nat.mul_add_div (Nat.two_pow_pos _), Nat.div_eq_of_lt (place_lt hfs), Nat.add_zero,
        Nat.mod_eq_of_lt f.num_lt]
    · rw [place, wf_add_high (le_of_laidOut hfs hf), ih hfs hf]

/-- The bits of a word in the fields that it is made of are the whole word. -/
theorem keepFields_place {fs : List Field} {top : Nat} (h : laidOut top fs = true) :
    keepFields (place fs) (fs.map (fun f => (f.lo, f.width))) = place fs := by
  have hsum (gs : List Field) (hg : ∀ f ∈ gs, wf (place fs) f.lo f.width = f.num) :
      keepFields (place fs) (gs.map (fun f => (f.lo, f.width))) = place gs := by
    induction gs with
    | nil => rfl
    | cons g gs ih =>
      rw [List.map_cons, keepFields_cons, hg g (List.mem_cons_self ..), ih (fun f hf => hg f (List.mem_cons_of_mem _ hf)), place]
  exact hsum fs (fun f hf => wf_place h hf)

/-- What holds of a word that reads the fields holds of one that has them. -/
theorem Reading.elim {w : W64} {fs : List Field} {P : Prop} (h : Reading w fs P)
    (hw : ∀ f ∈ fs, wf w.toNat f.lo f.width = f.num) : P := by
  induction fs with
  | nil => exact h
  | cons f fs ih =>
    have hf := hw f (List.mem_cons_self ..)
    cases f with
    | bits lo n v =>
      exact ih (h (BitVec.eq_of_toNat_eq ((wf_eq_toNat w lo n).symm.trans hf))) (fun f hf => hw f (List.mem_cons_of_mem _ hf))
    | bit lo b =>
      refine ih (h ?_) (fun f hf => hw f (List.mem_cons_of_mem _ hf))
      rw [Bool.eq_iff_iff, ← Bool.toNat_eq_one, ← wf_bit, ← Bool.toNat_eq_one]
      exact Eq.congr_left hf

/-! ## The fields of an encoded first word -/

/-- What makes the words of an opcode that has a row defined. R238. -/
theorem definedWords_iff {w0 w1 : W64} {r : Row} (hr : rowOf (wf w0.toNat 56 8) = some r) :
    definedWords w0 w1 = true ↔ wf w0.toNat 55 1 = r.x.toNat ∧ keepFields w0.toNat r.used = w0.toNat % 2 ^ 51 ∧
      (r.x = true → keepFields w1.toNat r.ext = w1.toNat) ∧ operandsDefined r.op w0 w1 = true := by
  simp only [definedWords, hr, Bool.and_eq_true, beq_iff_eq, fieldsOk_eq, and_assoc, Bool.or_eq_true, Bool.not_eq_true',
    Bool.eq_false_iff, ne_eq, ← imp_iff_not_or]

/-- The first word of an instruction with opcode `op`, form `x` and a body. R236. -/
def firstWord (op : Nat) (x : Bool) (g : Guard) (body : Nat) : W64 := BitVec.ofNat 64 (head op x g + body)

section
variable {op body : Nat} {x : Bool} {g : Guard} (hop : op < 256) (hb : body < 2 ^ 51)
include hop hb

theorem firstWord_toNat : (firstWord op x g body).toNat = head op x g + body := by
  have hg := g.g.isLt
  have hx := x.toNat_lt
  have hn := g.gn.toNat_lt
  rw [firstWord, BitVec.toNat_ofNat, head, at_, at_, at_, at_, Nat.mod_eq_of_lt (by omega)]

theorem wf_firstWord_op : wf (firstWord op x g body).toNat 56 8 = op := by
  have hg := g.g.isLt
  have hx := x.toNat_lt
  have hn := g.gn.toNat_lt
  rw [firstWord_toNat hop hb, wf, head, at_, at_, at_, at_]
  omega

theorem opcode_firstWord : ((firstWord op x g body).extractLsb' 56 8).toNat = op := by
  rw [← wf_eq_toNat, wf_firstWord_op hop hb]

theorem getLsbD_firstWord_x : (firstWord op x g body).getLsbD 55 = x := by
  have hg := g.g.isLt
  have hn := g.gn.toNat_lt
  have h : wf (firstWord op x g body).toNat 55 1 = x.toNat := by
    have hx := x.toNat_lt
    rw [firstWord_toNat hop hb, wf, head, at_, at_, at_, at_]
    omega
  rw [Bool.eq_iff_iff, ← Bool.toNat_eq_one, ← wf_bit, h, Bool.toNat_eq_one]

theorem extract_firstWord_g : (firstWord op x g body).extractLsb' 52 3 = g.g := by
  apply BitVec.eq_of_toNat_eq
  have hg := g.g.isLt
  have hx := x.toNat_lt
  have hn := g.gn.toNat_lt
  rw [← wf_eq_toNat, firstWord_toNat hop hb, wf, head, at_, at_, at_, at_]
  omega

theorem getLsbD_firstWord_gn : (firstWord op x g body).getLsbD 51 = g.gn := by
  have h : wf (firstWord op x g body).toNat 51 1 = g.gn.toNat := by
    have hg := g.g.isLt
    have hx := x.toNat_lt
    have hn := g.gn.toNat_lt
    rw [firstWord_toNat hop hb, wf, head, at_, at_, at_, at_]
    omega
  rw [Bool.eq_iff_iff, ← Bool.toNat_eq_one, ← wf_bit, h, Bool.toNat_eq_one]

theorem firstWord_mod : (firstWord op x g body).toNat % 2 ^ 51 = body := by
  rw [firstWord_toNat hop hb, head, at_, at_, at_, at_]
  omega

/-- A field of the body reads as in the body alone. -/
theorem wf_firstWord {lo n : Nat} (h : lo + n ≤ 51) : wf (firstWord op x g body).toNat lo n = wf body lo n := by
  have hdvd : (2 : Nat) ^ lo * 2 ^ n ∣ 2 ^ 51 := by rw [← pow_add]; exact pow_dvd_pow 2 h
  have hm := firstWord_mod (x := x) (g := g) hop hb
  rw [wf, wf, ← Nat.mod_mul_right_div_self, ← Nat.mod_mul_right_div_self, ← Nat.mod_mod_of_dvd _ hdvd, hm]

/-- The bits of the body in fields of the body. -/
theorem keepFields_firstWord {fs : List (Nat × Nat)} (h : ∀ f ∈ fs, f.1 + f.2 ≤ 51) :
    keepFields (firstWord op x g body).toNat fs = keepFields body fs := by
  unfold keepFields
  congr 1
  exact List.map_congr_left fun f hf => by rw [wf_firstWord hop hb (h f hf)]

/-- Words whose body lies in the fields of the opcode's row, with operands that are defined, decode to what the fields read as. -/
theorem firstWord_decodes {c : Core} {w1 : W64} {r : Row} {i : Instr} (hr : rowOf op = some r) (hx : r.x = x)
    (hu : ∀ f ∈ r.used, f.1 + f.2 ≤ 51) (hk : keepFields body r.used = body)
    (he : r.x = true → keepFields w1.toNat r.ext = w1.toNat) (hf : operandsDefined op (firstWord op x g body) w1 = true)
    (hp : profileOk c.isTile (firstWord op x g body) = true) (hi : readFields c (firstWord op x g body) w1 = i) :
    definedWords (firstWord op x g body) w1 = true ∧ decodeWords c (firstWord op x g body) w1 = i := by
  have hrop : r.op = op := beq_iff_eq.1 (List.find?_some (p := fun r : Row => r.op == op) hr)
  have hbit : wf (firstWord op x g body).toNat 55 1 = r.x.toNat := by rw [wf_bit, getLsbD_firstWord_x hop hb, hx]
  have hkeep : keepFields (firstWord op x g body).toNat r.used = (firstWord op x g body).toNat % 2 ^ 51 := by
    rw [keepFields_firstWord hop hb hu, hk, firstWord_mod hop hb]
  have hd : definedWords (firstWord op x g body) w1 = true := by
    rw [definedWords_iff (by rw [wf_firstWord_op hop hb, hr])]
    exact ⟨hbit, hkeep, he, by rw [hrop, hf]⟩
  exact ⟨hd, by rw [decodeWords, hd, hp, Bool.and_self, if_pos rfl, hi]⟩
end

/-- The operand checks of an opcode that has none. R238. -/
theorem operandsDefined_of {op : Nat} (h : op ∉ [0x31, 0x35, 0x50, 0x52, 0x58, 0x59, 0x5A, 0x5B, 0x5C, 0x5D, 0x5E, 0x60, 0x61, 0x71])
    (w0 w1 : W64) : operandsDefined op w0 w1 = true := by
  simp only [List.mem_cons, List.not_mem_nil, or_false, not_or] at h
  obtain ⟨h1, h2, h3, h4, h5, h6, h7, h8, h9, h10, h11, h12, h13, h14⟩ := h
  have h58 : ¬ (0x58 ≤ op ∧ op ≤ 0x5E) := by omega
  simp [operandsDefined, *]

/-- The guard of a first word. R236. -/
theorem guard_firstWord {op body : Nat} {x : Bool} {g : Guard} (hop : op < 256) (hb : body < 2 ^ 51) :
    ({ g := (firstWord op x g body).extractLsb' 52 3, gn := (firstWord op x g body).getLsbD 51 } : Guard) = g := by
  rw [extract_firstWord_g hop hb, getLsbD_firstWord_gn hop hb]

/-! ## From an instruction to its words and back -/

/-- What an instruction of opcode `op` with fields `fs` reads as: from every word with the opcode, the guard and these fields. -/
def ReadsAs (c : Core) (op : Nat) (g : Guard) (fs : List Field) (w1 : W64) (i : Instr) : Prop :=
  ∀ w : W64, (w.extractLsb' 56 8).toNat = op → ({ g := w.extractLsb' 52 3, gn := w.getLsbD 51 } : Guard) = g →
    Reading w fs (readFields c w w1 = i)

/-- Words made of fields that lie in the fields of the opcode's row, with operands that are defined, decode to what they read as. -/
theorem fields_decode {op : Nat} {x : Bool} {g : Guard} {fs : List Field} {c : Core} {w1 : W64} {i : Instr} {r : Row}
    (hop : op < 256) (hl : laidOut 51 fs = true) (hr : rowOf op = some r) (hx : r.x = x)
    (hu : ∀ f ∈ r.used, f.1 + f.2 ≤ 51) (hk : keepFields (place fs) r.used = place fs)
    (he : r.x = true → keepFields w1.toNat r.ext = w1.toNat) (hf : ∀ w : W64, Reading w fs (operandsDefined op w w1 = true))
    (hp : profileOk c.isTile (firstWord op x g (place fs)) = true) (hi : ReadsAs c op g fs w1 i) :
    definedWords (firstWord op x g (place fs)) w1 = true ∧ decodeWords c (firstWord op x g (place fs)) w1 = i := by
  have hb := place_lt hl
  have hreads : ∀ f ∈ fs, wf (firstWord op x g (place fs)).toNat f.lo f.width = f.num := fun f hmem => by
    rw [wf_firstWord hop hb (le_of_laidOut hl hmem), wf_place hl hmem]
  exact firstWord_decodes hop hb hr hx hu hk he ((hf _).elim hreads) hp
    ((hi _ (opcode_firstWord hop hb) (guard_firstWord hop hb)).elim hreads)

/-- The fields of a row that are the instruction's own fields, in order. -/
theorem used_of_spans {fs : List Field} {r : Row} {top : Nat} (hl : laidOut top fs = true)
    (hused : r.used = fs.map (fun f => (f.lo, f.width))) :
    (∀ f ∈ r.used, f.1 + f.2 ≤ top) ∧ keepFields (place fs) r.used = place fs := by
  rw [hused]
  refine ⟨fun f hf => ?_, keepFields_place hl⟩
  obtain ⟨x, hx, rfl⟩ := List.mem_map.1 hf
  exact le_of_laidOut hl hx

/-- An instruction of one word decodes from its word, whatever follows. -/
theorem short_decodes {op body : Nat} {g : Guard} {c : Core} {w0 w1 : W64} {ow : Option W64} {i : Instr}
    (hw : some (short op g body) = some (w0, ow)) (hp : profileOk c.isTile w0 = true) (fs : List Field) (hbody : body = place fs)
    {r : Row} (hr : rowOf op = some r) (hx : r.x = false) (hop : op < 256) (hl : laidOut 51 fs = true)
    (hused : (∀ f ∈ r.used, f.1 + f.2 ≤ 51) ∧ keepFields (place fs) r.used = place fs)
    (hf : ∀ w : W64, Reading w fs (operandsDefined op w w1 = true))
    (hi : ReadsAs c op g fs w1 i) : definedWords w0 w1 = true ∧ decodeWords c w0 w1 = i := by
  subst hbody
  have h0 : firstWord op false g (place fs) = w0 := congrArg Prod.fst (Option.some.inj hw)
  subst h0
  exact fields_decode hop hl hr hx hused.1 hused.2 (fun h => absurd (h.symm.trans hx) (by decide)) hf hp hi

theorem Reading.of_forall {w : W64} {fs : List Field} {P : Prop} (h : P) : Reading w fs P := by
  induction fs with
  | nil => exact h
  | cons f fs ih => cases f <;> exact fun _ => ih

/-- An instruction whose opcode has no operand checks and whose row lists its fields. -/
theorem plain_decodes {op body : Nat} {g : Guard} {c : Core} {w0 w1 : W64} {ow : Option W64} {i : Instr}
    (hw : some (short op g body) = some (w0, ow)) (hp : profileOk c.isTile w0 = true) (fs : List Field)
    (h : body = place fs ∧ ReadsAs c op g fs w1 i)
    {r : Row} (hr : rowOf op = some r) (hx : r.x = false) (hop : op < 256) (hl : laidOut 51 fs = true)
    (hused : r.used = fs.map (fun f => (f.lo, f.width)))
    (hplain : op ∉ [0x31, 0x35, 0x50, 0x52, 0x58, 0x59, 0x5A, 0x5B, 0x5C, 0x5D, 0x5E, 0x60, 0x61, 0x71]) :
    definedWords w0 w1 = true ∧ decodeWords c w0 w1 = i :=
  short_decodes hw hp fs h.1 hr hx hop hl (used_of_spans hl hused) (fun w => .of_forall (operandsDefined_of hplain w w1)) h.2

/-- The second word of an instruction of two words. R237. -/
theorem ext_place {es : List Field} (hl : laidOut 64 es = true) : (BitVec.ofNat 64 (place es)).toNat = place es := by
  rw [BitVec.toNat_ofNat, Nat.mod_eq_of_lt (place_lt hl)]

/-- An instruction of two words decodes from them. -/
theorem long_decodes {op body ext : Nat} {g : Guard} {c : Core} {w0 w1 : W64} {ow : Option W64} {i : Instr}
    (hw : some (long op g body ext) = some (w0, ow)) (h1 : ∀ w, ow = some w → w1 = w) (hp : profileOk c.isTile w0 = true)
    (fs es : List Field) (hbody : body = place fs) (hext : ext = place es)
    {r : Row} (hr : rowOf op = some r) (hx : r.x = true) (hop : op < 256) (hl : laidOut 51 fs = true) (hle : laidOut 64 es = true)
    (hused : (∀ f ∈ r.used, f.1 + f.2 ≤ 51) ∧ keepFields (place fs) r.used = place fs)
    (hused1 : r.ext = es.map (fun f => (f.lo, f.width)))
    (hf : ∀ w e : W64, Reading e es (Reading w fs (operandsDefined op w e = true)))
    (hi : ∀ e : W64, Reading e es (ReadsAs c op g fs e i)) : definedWords w0 w1 = true ∧ decodeWords c w0 w1 = i := by
  subst hbody hext
  have h0 : firstWord op true g (place fs) = w0 := congrArg Prod.fst (Option.some.inj hw)
  have h2 : w1 = BitVec.ofNat 64 (place es) := h1 _ (congrArg Prod.snd (Option.some.inj hw)).symm
  subst h0 h2
  have hreads : ∀ f ∈ es, wf (BitVec.ofNat 64 (place es)).toNat f.lo f.width = f.num := fun f hmem => by
    rw [ext_place hle, wf_place hle hmem]
  refine fields_decode hop hl hr hx hused.1 hused.2 (fun _ => ?_) (fun w => (hf w _).elim hreads) hp ((hi _).elim hreads)
  rw [ext_place hle, hused1, keepFields_place hle]

end Sys2Proof.Proofs
end

section
/-! From a Jaend instruction to its words and back (06, R236 to R238). -/

namespace Sys2Proof.Proofs
open Sys2Proof Sys2Proof.Machine

/-- What is checked besides the core is checked. -/
theorem and_of_wf {a b : Bool} (h : (a && b) = true) : b = true := (Bool.and_eq_true_iff.1 h).2

/-- The fields of a lookup-accumulate. R266. -/
def laccFields (aw : BitVec 4) (h : Bool) (bin0 : BitVec 3) (m : BitVec 6) (blk0 nblk : BitVec 12) : List Field :=
  [.bits 47 4 aw, .bit 46 h, .bits 43 3 bin0, .bits 37 6 m, .bits 25 12 blk0, .bits 13 12 nblk]

def laccExtFields (wring : BitVec 16) (n : BitVec 15) (woff : BitVec 32) : List Field := [.bits 48 16 wring, .bits 33 15 n, .bits 0 32 woff]

theorem laccBody_eq (aw : BitVec 4) (h : Bool) (bin0 : BitVec 3) (m : BitVec 6) (blk0 nblk : BitVec 12) :
    laccBody aw h bin0 m blk0 nblk = place (laccFields aw h bin0 m blk0 nblk) := by
  simp [laccFields, place, Field.num, Field.lo, laccBody, at_, add_assoc]

theorem laccExt_eq (wring : BitVec 16) (n : BitVec 15) (woff : BitVec 32) :
    laccExt wring n woff = place (laccExtFields wring n woff) := by
  simp [laccExtFields, place, Field.num, Field.lo, laccExt, at_, add_assoc]

/-- A lookup-accumulate decodes from its words. -/
theorem lacc_decodes {op : Nat} {g : Guard} {aw : BitVec 4} {half : Bool} {bin0 : BitVec 3} {m : BitVec 6} {blk0 nblk : BitVec 12}
    {wring : BitVec 16} {n : BitVec 15} {woff : BitVec 32} {c : Core} {w0 w1 : W64} {ow : Option W64} {i : Instr}
    (hw : some (long op g (laccBody aw half bin0 m blk0 nblk) (laccExt wring n woff)) = some (w0, ow)) (h1 : ∀ w, ow = some w → w1 = w)
    (hp : profileOk c.isTile w0 = true) {r : Row} (hr : rowOf op = some r) (hx : r.x = true) (hop : op < 256)
    (hused : r.used = (laccFields aw half bin0 m blk0 nblk).map (fun f => (f.lo, f.width)))
    (hext : r.ext = (laccExtFields wring n woff).map (fun f => (f.lo, f.width)))
    (hf : ∀ w e : W64, Reading e (laccExtFields wring n woff)
      (Reading w (laccFields aw half bin0 m blk0 nblk) (operandsDefined op w e = true)))
    (hi : ∀ e : W64, Reading e (laccExtFields wring n woff) (ReadsAs c op g (laccFields aw half bin0 m blk0 nblk) e i)) :
    definedWords w0 w1 = true ∧ decodeWords c w0 w1 = i :=
  long_decodes hw h1 hp _ _ (laccBody_eq ..) (laccExt_eq ..) hr hx hop rfl rfl (used_of_spans rfl hused) hext hf hi

/-- An instruction that the profile has is defined by its words, and they decode to it. -/
theorem words_decode (i : Instr) (c : Core) (w0 : W64) (ow : Option W64) (hc : coreOf i = some c)
    (hu : ∀ a b, i ≠ .undefinedEncoding c a b) (hwf : i.wf = true) (hw : words i = some (w0, ow))
    (hp : profileOk c.isTile w0 = true) (w1 : W64) (h1 : ∀ w, ow = some w → w1 = w) :
    definedWords w0 w1 = true ∧ decodeWords c w0 w1 = i := by
  cases i
  case undefinedEncoding => cases hc; exact absurd rfl (hu _ _)
  all_goals cases hc
  case movRv g sd imm =>
    refine short_decodes hw hp [.bits 46 5 sd, .bits 0 32 imm] ?_ rfl rfl (by decide) rfl (used_of_spans rfl rfl)
      (fun w _ himm => (congrArg wfMovRv himm).trans (and_of_wf hwf)) ?_
    · simp [place, Field.num, Field.lo, bodyRI, at_]
    · rintro w h rfl rfl rfl
      unfold readFields
      rw [h]
      rfl
  case cmpCc g pd cc sa sb i imm =>
    refine short_decodes hw hp [.bits 48 3 pd, .bits 44 4 cc, .bits 39 5 sa, .bits 34 5 sb, .bit 33 i, .bits 0 32 imm] ?_ rfl rfl
      (by decide) rfl (used_of_spans rfl rfl) ?_ ?_
    · simp [place, Field.num, Field.lo, bodyPC, at_, add_assoc]
    · rintro w rfl rfl rfl rfl rfl rfl
      exact and_of_wf hwf
    · rintro w h rfl rfl rfl rfl rfl rfl rfl
      unfold readFields
      rw [h]
      rfl
  case binClose g bin dest ab off =>
    refine short_decodes hw hp [.bits 48 3 bin, .bits 46 2 dest, .bits 42 4 ab, .bits 0 32 off] ?_ rfl rfl (by decide) rfl
      ⟨by decide, ?_⟩ ?_ ?_
    · simp [place, Field.num, Field.lo, at_, add_assoc]
    · simp only [keepFields_cons, keepFields_nil, place, Field.num, Field.lo, wf_eq]
      omega
    · rintro w rfl rfl rfl rfl
      exact and_of_wf hwf
    · rintro w h rfl rfl rfl rfl rfl
      unfold readFields
      rw [h]
      rfl
  case strmRearm g slot sa sb kd ki =>
    refine short_decodes hw hp [.bits 45 6 slot, .bits 40 5 sa, .bits 35 5 sb, .bit 34 kd, .bit 33 ki] ?_ rfl rfl (by decide) rfl
      ⟨by decide, ?_⟩ ?_ ?_
    · simp [place, Field.num, Field.lo, at_, add_assoc]
    · have hkd := kd.toNat_lt
      have hki := ki.toNat_lt
      simp only [keepFields_cons, keepFields_nil, place, Field.num, Field.lo, wf_eq]
      omega
    · rintro w rfl rfl rfl rfl rfl
      exact and_of_wf hwf
    · rintro w h rfl rfl rfl rfl rfl rfl
      unfold readFields
      rw [h]
      rfl
  case attn g ab eng off =>
    refine short_decodes hw hp [.bits 47 4 ab, .bits 43 4 eng, .bits 0 32 off] ?_ rfl rfl (by decide) rfl ⟨by decide, ?_⟩
      (fun w => .of_forall (operandsDefined_of (by decide) w w1)) ?_
    · simp [place, Field.num, Field.lo, at_, add_assoc]
    · simp only [keepFields_cons, keepFields_nil, place, Field.num, Field.lo, wf_eq]
      omega
    · rintro w h rfl rfl rfl rfl
      unfold readFields
      rw [h]
      rfl
  case strmArm g ab slot off =>
    refine short_decodes hw hp [.bits 47 4 ab, .bits 41 6 slot, .bits 0 32 off] ?_ rfl rfl (by decide) rfl ⟨by decide, ?_⟩
      (fun w => .of_forall (operandsDefined_of (by decide) w w1)) ?_
    · simp [place, Field.num, Field.lo, at_, add_assoc]
    · simp only [keepFields_cons, keepFields_nil, place, Field.num, Field.lo, wf_eq]
      omega
    · rintro w h rfl rfl rfl rfl
      unfold readFields
      rw [h]
      rfl
  case li g sd imm =>
    refine long_decodes hw h1 hp [.bits 46 5 sd] [.bits 0 64 imm] ?_ ?_ rfl rfl (by decide) rfl rfl (used_of_spans rfl rfl) rfl
      (fun w e => .of_forall (.of_forall (operandsDefined_of (by decide) w e))) ?_
    · simp [place, Field.num, Field.lo, bodyRI, at_]
    · simp [place, Field.num, Field.lo]
    · rintro e rfl w h rfl rfl
      rw [BitVec.extractLsb'_eq_self]
      unfold readFields
      rw [h]
      rfl
  case binOpen g bin src anchMode hd gsMode gsize apre ags nRow linb anch nCh =>
    refine long_decodes hw h1 hp [.bits 48 3 bin, .bits 46 2 src, .bit 45 anchMode, .bits 41 4 hd, .bits 39 2 gsMode, .bits 37 2 gsize,
      .bits 33 4 apre, .bits 29 4 ags, .bits 17 12 nRow, .bits 14 3 linb] [.bits 48 16 anch, .bits 33 15 nCh] ?_ ?_ rfl rfl (by decide)
      rfl rfl ⟨by decide, ?_⟩ rfl ?_ ?_
    · simp [place, Field.num, Field.lo, at_, add_assoc]
    · simp [place, Field.num, Field.lo, at_]
    · have hanch := anchMode.toNat_lt
      simp only [keepFields_cons, keepFields_nil, place, Field.num, Field.lo, wf_eq]
      omega
    · rintro w e rfl rfl rfl rfl rfl rfl rfl rfl rfl rfl rfl rfl
      exact and_of_wf hwf
    · rintro e rfl rfl w h rfl rfl rfl rfl rfl rfl rfl rfl rfl rfl rfl
      unfold readFields
      rw [h]
      rfl
  case tblBuild g a h enc bpos ifmt m nb ars acb rsn krem rstride =>
    refine long_decodes hw h1 hp [.bits 47 4 a, .bit 46 h, .bits 43 3 enc, .bits 41 2 bpos, .bits 37 4 ifmt, .bits 31 6 m, .bits 19 12 nb]
      [.bits 60 4 ars, .bits 56 4 acb, .bit 55 rsn, .bits 32 16 krem, .bits 16 16 rstride] ?_ ?_ rfl rfl (by decide) rfl rfl
      (used_of_spans rfl rfl) rfl ?_ ?_
    · simp [place, Field.num, Field.lo, tblBody, at_, add_assoc]
    · simp [place, Field.num, Field.lo, tblExt, at_, add_assoc]
    · rintro w e rfl rfl rfl rfl rfl rfl rfl rfl rfl rfl rfl rfl
      exact and_of_wf hwf
    · rintro e rfl rfl rfl rfl rfl w h rfl rfl rfl rfl rfl rfl rfl rfl
      unfold readFields
      rw [h]
      rfl
  case tblLoad g a h enc bpos ifmt m nb ars acb rsn =>
    refine long_decodes hw h1 hp [.bits 47 4 a, .bit 46 h, .bits 43 3 enc, .bits 41 2 bpos, .bits 37 4 ifmt, .bits 31 6 m, .bits 19 12 nb]
      [.bits 60 4 ars, .bits 56 4 acb, .bit 55 rsn] ?_ ?_ rfl rfl (by decide) rfl rfl (used_of_spans rfl rfl) rfl ?_ ?_
    · simp [place, Field.num, Field.lo, tblBody, at_, add_assoc]
    · simp [place, Field.num, Field.lo, tblExt, at_, add_assoc]
    · rintro w e rfl rfl rfl rfl rfl rfl rfl rfl rfl rfl
      exact and_of_wf hwf
    · rintro e rfl rfl rfl w h rfl rfl rfl rfl rfl rfl rfl rfl
      unfold readFields
      rw [h]
      rfl
  case' laccBin g aw h bin0 m blk0 nblk wring n woff |
      laccTer g aw h bin0 m blk0 nblk wring n woff |
      laccI2 g aw h bin0 m blk0 nblk wring n woff |
      laccI3 g aw h bin0 m blk0 nblk wring n woff |
      laccI4 g aw h bin0 m blk0 nblk wring n woff |
      laccCb g aw h bin0 m blk0 nblk wring n woff |
      laccFp4 g aw h bin0 m blk0 nblk wring n woff =>
    refine lacc_decodes hw h1 hp rfl rfl (by decide) rfl rfl
      (by rintro w e rfl rfl rfl rfl rfl rfl rfl rfl rfl; exact and_of_wf hwf) ?_
  case laccBin | laccTer | laccI2 | laccI3 | laccI4 | laccCb | laccFp4 =>
    rintro e rfl rfl rfl w h rfl rfl rfl rfl rfl rfl rfl
    unfold readFields
    rw [h]
    rfl
  case' nop g | opEnd g | fence g =>
    refine plain_decodes hw hp [] ?_ rfl rfl (by decide) rfl rfl (by decide)
  case' br g imm =>
    refine plain_decodes hw hp [.bits 0 32 imm] ?_ rfl rfl (by decide) rfl rfl (by decide)
  case' jal g sd imm =>
    refine plain_decodes hw hp [.bits 46 5 sd, .bits 0 32 imm] ?_ rfl rfl (by decide) rfl rfl (by decide)
  case' jr g sa | hringPop g sa | gtabRevoke g sa =>
    refine plain_decodes hw hp [.bits 41 5 sa] ?_ rfl rfl (by decide) rfl rfl (by decide)
  case' add g sd sa sb | sub g sd sa sb | mul g sd sa sb | mulhu g sd sa sb | opAnd g sd sa sb | opOr g sd sa sb | opXor g sd sa sb |
      shl g sd sa sb | shr g sd sa sb | sra g sd sa sb | opMin g sd sa sb | opMax g sd sa sb | minu g sd sa sb | maxu g sd sa sb |
      divu g sd sa sb | remu g sd sa sb | fadd g sd sa sb | fsub g sd sa sb | fmul g sd sa sb | fdiv g sd sa sb | fmin g sd sa sb |
      fmax g sd sa sb | sluiceReset g sd sa sb | resGrant g sd sa sb | resFree g sd sa sb =>
    refine plain_decodes hw hp [.bits 46 5 sd, .bits 41 5 sa, .bits 36 5 sb] ?_ rfl rfl (by decide) rfl rfl (by decide)
  case' addI g sd sa imm | subI g sd sa imm | mulI g sd sa imm | mulhuI g sd sa imm | andI g sd sa imm | orI g sd sa imm |
      xorI g sd sa imm | shlI g sd sa imm | shrI g sd sa imm | sraI g sd sa imm | minI g sd sa imm | maxI g sd sa imm |
      minuI g sd sa imm | maxuI g sd sa imm | divuI g sd sa imm | remuI g sd sa imm | ringClaim g sd sa imm | ringTake g sd sa imm =>
    refine plain_decodes hw hp [.bits 46 5 sd, .bits 41 5 sa, .bits 0 32 imm] ?_ rfl rfl (by decide) rfl rfl (by decide)
  case' movSa g sd ab imm =>
    refine plain_decodes hw hp [.bits 46 5 sd, .bits 38 4 ab, .bits 0 32 imm] ?_ rfl rfl (by decide) rfl rfl (by decide)
  case' movAs g ad sa imm =>
    refine plain_decodes hw hp [.bits 42 4 ad, .bits 33 5 sa, .bits 0 32 imm] ?_ rfl rfl (by decide) rfl rfl (by decide)
  case' addaI g ad ab imm =>
    refine plain_decodes hw hp [.bits 42 4 ad, .bits 38 4 ab, .bits 0 32 imm] ?_ rfl rfl (by decide) rfl rfl (by decide)
  case' pLop g pd pa pb lop =>
    refine plain_decodes hw hp [.bits 48 3 pd, .bits 45 3 pa, .bits 42 3 pb, .bits 40 2 lop] ?_ rfl rfl (by decide) rfl rfl (by decide)
  case' fcvtFI g sd sa | fcvtIF g sd sa =>
    refine plain_decodes hw hp [.bits 46 5 sd, .bits 41 5 sa] ?_ rfl rfl (by decide) rfl rfl (by decide)
  case' ld g sd ab sz sx off =>
    refine plain_decodes hw hp [.bits 46 5 sd, .bits 42 4 ab, .bits 40 2 sz, .bit 39 sx, .bits 0 32 off]
      ?_ rfl rfl (by decide) rfl rfl (by decide)
  case' st g sd ab sz off =>
    refine plain_decodes hw hp [.bits 46 5 sd, .bits 42 4 ab, .bits 40 2 sz, .bits 0 32 off] ?_ rfl rfl (by decide) rfl rfl (by decide)
  case' ldc g sd ab sz sx sc off =>
    refine plain_decodes hw hp [.bits 46 5 sd, .bits 42 4 ab, .bits 40 2 sz, .bit 39 sx, .bits 34 5 sc, .bits 0 32 off]
      ?_ rfl rfl (by decide) rfl rfl (by decide)
  case' stc g sd ab sz sc off =>
    refine plain_decodes hw hp [.bits 46 5 sd, .bits 42 4 ab, .bits 40 2 sz, .bits 34 5 sc, .bits 0 32 off]
      ?_ rfl rfl (by decide) rfl rfl (by decide)
  case' tblSave g ab h off =>
    refine plain_decodes hw hp [.bits 47 4 ab, .bit 46 h, .bits 0 32 off] ?_ rfl rfl (by decide) rfl rfl (by decide)
  case' strmWait g slot | strmHalt g slot =>
    refine plain_decodes hw hp [.bits 45 6 slot] ?_ rfl rfl (by decide) rfl rfl (by decide)
  case' strmResume g sa sb | gtabGrant g sa sb | runCancel g sa sb =>
    refine plain_decodes hw hp [.bits 41 5 sa, .bits 36 5 sb] ?_ rfl rfl (by decide) rfl rfl (by decide)
  case' ringAttachP g sa imm | ringAttachC g sa imm | ringDetach g sa imm | ringPost g sa imm | ringGive g sa imm |
      sluiceArrive g sa imm | sluiceWait g sa imm =>
    refine plain_decodes hw hp [.bits 41 5 sa, .bits 0 32 imm] ?_ rfl rfl (by decide) rfl rfl (by decide)
  case' hringPeek g pd sa ab off | hringPush g pd sa ab off | evtPost g pd sa ab off =>
    refine plain_decodes hw hp [.bits 48 3 pd, .bits 41 5 sa, .bits 37 4 ab, .bits 0 32 off] ?_ rfl rfl (by decide) rfl rfl (by decide)
  case' atomAddI32 g sd sa ab off | atomAddF32 g sd sa ab off | atomAddP64 g sd sa ab off | atomSwap32 g sd sa ab off |
      atomSwap64 g sd sa ab off =>
    refine plain_decodes hw hp [.bits 46 5 sd, .bits 41 5 sa, .bits 37 4 ab, .bits 0 32 off] ?_ rfl rfl (by decide) rfl rfl (by decide)
  case' atomSwap256 g aw ab off =>
    refine plain_decodes hw hp [.bits 37 4 ab, .bits 33 4 aw, .bits 0 32 off] ?_ rfl rfl (by decide) rfl rfl (by decide)
  case' gtabInstall g sd sa ab aw off =>
    refine plain_decodes hw hp [.bits 46 5 sd, .bits 41 5 sa, .bits 37 4 ab, .bits 33 4 aw, .bits 0 32 off]
      ?_ rfl rfl (by decide) rfl rfl (by decide)
  case' runSubmit g pd ab off =>
    refine plain_decodes hw hp [.bits 48 3 pd, .bits 37 4 ab, .bits 0 32 off] ?_ rfl rfl (by decide) rfl rfl (by decide)
  case' psort g sd ab off =>
    refine plain_decodes hw hp [.bits 46 5 sd, .bits 37 4 ab, .bits 0 32 off] ?_ rfl rfl (by decide) rfl rfl (by decide)
  all_goals
    constructor
    · simp [place, Field.num, Field.lo, bodyRR, bodyRI, bodyAR, bodyPL, bodyM, bodyAT, bodyHR, at_, add_assoc]
    · rintro w h rfl
      repeat rintro rfl
      unfold readFields
      rw [h]
      rfl
end Sys2Proof.Proofs
end

section
/-! From the words of a defined encoding to the instruction that they decode to and back (06, R236 to R238). -/

namespace Sys2Proof.Proofs
open Sys2Proof Sys2Proof.Machine

/-- The guard that a first word names. R236. -/
def guardOf (w0 : W64) : Guard := { g := w0.extractLsb' 52 3, gn := w0.getLsbD 51 }

/-- A first word is its opcode, form, guard and body. R236. -/
theorem head_add_body (w0 : W64) :
    head (w0.extractLsb' 56 8).toNat (w0.getLsbD 55) (guardOf w0) + w0.toNat % 2 ^ 51 = w0.toNat := by
  have hw := w0.isLt
  simp only [head, guardOf, at_, ← wf_eq_toNat, ← wf_bit, wf_eq]
  omega

theorem short_encodes {w0 w1 : W64} {op body : Nat} (hop : (w0.extractLsb' 56 8).toNat = op) (hx : w0.getLsbD 55 = false)
    (hb : body = w0.toNat % 2 ^ 51) : some (short op (guardOf w0) body) = some (w0, if w0.getLsbD 55 then some w1 else none) := by
  rw [short, ← hop, hb, ← hx, head_add_body, BitVec.ofNat_toNat, BitVec.setWidth_eq, if_neg (by rw [hx]; exact Bool.false_ne_true)]

theorem long_encodes {w0 w1 : W64} {op body ext : Nat} (hop : (w0.extractLsb' 56 8).toNat = op) (hx : w0.getLsbD 55 = true)
    (hb : body = w0.toNat % 2 ^ 51) (he : ext = w1.toNat) :
    some (long op (guardOf w0) body ext) = some (w0, if w0.getLsbD 55 then some w1 else none) := by
  rw [long, ← hop, hb, he, ← hx, head_add_body, BitVec.ofNat_toNat, BitVec.setWidth_eq, BitVec.ofNat_toNat, BitVec.setWidth_eq, if_pos rfl]

theorem readFields_coreOf (c : Core) (w0 w1 : W64) {r : Row} (hr : r ∈ rows) (hop : (w0.extractLsb' 56 8).toNat = r.op) :
    coreOf (readFields c w0 w1) = some c := by
  unfold readFields
  rw [hop]
  clear hop
  fin_cases hr <;> rfl

theorem readFields_wf (c : Core) (w0 w1 : W64) {r : Row} (hr : r ∈ rows) (hop : (w0.extractLsb' 56 8).toNat = r.op) :
    (readFields c w0 w1).wf = (operandsDefined r.op w0 w1 && c.wf) := by
  unfold readFields
  rw [hop]
  clear hop
  fin_cases hr
  any_goals rfl
  all_goals exact Bool.and_comm ..

theorem readFields_words_short {c : Core} {w0 w1 : W64} {r : Row} (hr : r ∈ rows) (hop : (w0.extractLsb' 56 8).toNat = r.op)
    (hrx : r.x = false) (hx : w0.getLsbD 55 = false) (hk : keepFields w0.toNat r.used = w0.toNat % 2 ^ 51) :
    words (readFields c w0 w1) = some (w0, if w0.getLsbD 55 then some w1 else none) := by
  have hop' := hop
  unfold readFields
  rw [hop]
  clear hop
  fin_cases hr
  all_goals cases hrx
  all_goals
    refine short_encodes hop' hx (Eq.trans ?_ hk)
    simp only [bodyRR, bodyRI, bodyAR, bodyPL, bodyPC, bodyM, bodyAT, bodyHR, at_, fRR, fRI, fAT, fHR, BitVec.ofNat_eq_ofNat,
      BitVec.toNat_zero, Bool.toNat_false, ← wf_eq_toNat, ← wf_bit, keepFields_cons, keepFields_nil, wf_eq]
  all_goals omega

theorem laccBody_read (w0 : W64) :
    laccBody (w0.extractLsb' 47 4) (w0.getLsbD 46) (w0.extractLsb' 43 3) (w0.extractLsb' 37 6) (w0.extractLsb' 25 12)
      (w0.extractLsb' 13 12) = keepFields w0.toNat fLacc := by
  simp only [laccBody, at_, fLacc, ← wf_eq_toNat, ← wf_bit, keepFields_cons, keepFields_nil, add_assoc, add_zero]

theorem laccExt_read (w1 : W64) :
    laccExt (w1.extractLsb' 48 16) (w1.extractLsb' 33 15) (w1.extractLsb' 0 32) = keepFields w1.toNat eLacc := by
  simp only [laccExt, at_, eLacc, ← wf_eq_toNat, keepFields_cons, keepFields_nil, add_assoc, add_zero, pow_zero, mul_one]

theorem tblBody_read (w0 : W64) :
    tblBody (w0.extractLsb' 47 4) (w0.getLsbD 46) (w0.extractLsb' 43 3) (w0.extractLsb' 41 2) (w0.extractLsb' 37 4)
      (w0.extractLsb' 31 6) (w0.extractLsb' 19 12) = keepFields w0.toNat fTbl := by
  simp only [tblBody, at_, fTbl, ← wf_eq_toNat, ← wf_bit, keepFields_cons, keepFields_nil, add_assoc, add_zero]

/-- Two fields side by side are one. -/
theorem wf_join {w hi m n : Nat} (lo k : Nat) (hhi : hi = lo + n) (hk : k = m + n) :
    wf w hi m * 2 ^ hi + wf w lo n * 2 ^ lo = wf w lo k * 2 ^ lo := by
  subst hhi hk
  rw [wf, wf, wf, pow_add, ← mul_assoc, mul_right_comm, ← Nat.add_mul, ← Nat.div_div_eq_div_mul, Nat.add_comm m n, pow_add 2 n m,
    Nat.mod_mul, Nat.add_comm, mul_comm (2 ^ n)]

/-- The fields of a `bin.open` stand side by side. R269. -/
theorem binOpenBody_read (w0 : W64) :
    at_ (w0.extractLsb' 48 3).toNat 48 + at_ (w0.extractLsb' 46 2).toNat 46 + at_ (w0.getLsbD 45).toNat 45 +
      at_ (w0.extractLsb' 41 4).toNat 41 + at_ (w0.extractLsb' 39 2).toNat 39 + at_ (w0.extractLsb' 37 2).toNat 37 +
      at_ (w0.extractLsb' 33 4).toNat 33 + at_ (w0.extractLsb' 29 4).toNat 29 + at_ (w0.extractLsb' 17 12).toNat 17 +
      at_ (w0.extractLsb' 14 3).toNat 14 = keepFields w0.toNat [(14, 37)] := by
  simp only [at_, ← wf_eq_toNat, ← wf_bit, keepFields_cons, keepFields_nil, add_zero]
  rw [wf_join 46 5, wf_join 45 6, wf_join 41 10, wf_join 39 12, wf_join 37 14, wf_join 33 18, wf_join 29 22, wf_join 17 34, wf_join 14 37]
  all_goals rfl

theorem readFields_words_long {c : Core} {w0 w1 : W64} {r : Row} (hr : r ∈ rows) (hop : (w0.extractLsb' 56 8).toNat = r.op)
    (hrx : r.x = true) (hx : w0.getLsbD 55 = true) (hk : keepFields w0.toNat r.used = w0.toNat % 2 ^ 51)
    (he : keepFields w1.toNat r.ext = w1.toNat) :
    words (readFields c w0 w1) = some (w0, if w0.getLsbD 55 then some w1 else none) := by
  have hop' := hop
  unfold readFields
  rw [hop]
  clear hop
  fin_cases hr
  all_goals cases hrx
  all_goals refine long_encodes hop' hx (Eq.trans ?_ hk) (Eq.trans ?_ he)
  any_goals rw [laccBody_read]
  any_goals rw [laccExt_read]
  any_goals rw [tblBody_read]
  any_goals rw [binOpenBody_read]
  all_goals
    simp only [bodyRI, tblExt, at_, BitVec.ofNat_eq_ofNat, BitVec.toNat_zero, ← wf_eq_toNat, ← wf_bit, keepFields_cons, keepFields_nil,
      wf_eq]
    omega

theorem toNat_injective {a b : Bool} (h : a.toNat = b.toNat) : a = b := by
  rw [Bool.eq_iff_iff, ← Bool.toNat_eq_one, h, Bool.toNat_eq_one]

/-- A row of an opcode is one of the rows and has the opcode. -/
theorem rowOf_some {op : Nat} {r : Row} (h : rowOf op = some r) : r ∈ rows ∧ r.op = op :=
  ⟨List.mem_of_find?_eq_some h, beq_iff_eq.1 (List.find?_some (p := fun r : Row => r.op == op) h)⟩

/-- The words of a defined encoding of the profile are those of the instruction that they decode to. -/
theorem decodeWords_words {c : Core} {w0 w1 : W64} (hc : c.wf = true) (hd : definedWords w0 w1 = true)
    (hp : profileOk c.isTile w0 = true) :
    words (decodeWords c w0 w1) = some (w0, if w0.getLsbD 55 then some w1 else none) ∧ (decodeWords c w0 w1).wf = true ∧
      coreOf (decodeWords c w0 w1) = some c := by
  rw [decodeWords, hd, hp, Bool.and_self, if_pos rfl]
  cases hrow : rowOf (wf w0.toNat 56 8) with
  | none => simp [definedWords, hrow] at hd
  | some r =>
    obtain ⟨hr, hrop⟩ := rowOf_some hrow
    obtain ⟨hx, hk, he, hf⟩ := (definedWords_iff hrow).1 hd
    have hop : (w0.extractLsb' 56 8).toNat = r.op := by rw [hrop, wf_eq_toNat]
    have hbit : w0.getLsbD 55 = r.x := toNat_injective ((wf_bit w0 55).symm.trans hx)
    refine ⟨?_, by rw [readFields_wf c w0 w1 hr hop, hf, hc, Bool.and_self], readFields_coreOf c w0 w1 hr hop⟩
    cases hrx : r.x with
    | false => exact readFields_words_short hr hop hrx (hbit.trans hrx) hk
    | true => exact readFields_words_long hr hop hrx (hbit.trans hrx) hk (he hrx)

/-- Settles O60: an instruction's fields read back from its words, and a defined word is nothing but its opcode, guard and fields. -/
theorem decodeOfEncode : Obligations.DecodeOfEncode :=
  ⟨words_decode, fun _ _ _ => decodeWords_words⟩

end Sys2Proof.Proofs
end

section
/-! Bytes within words: what a number's bytes are, what a read within a word returns and what a write within a word leaves (R2, R253,
R314). -/

namespace Sys2Proof.Proofs
open Sys2Proof Sys2Proof.Machine

/-! ## Bytes of a number -/

/-- Byte `i` of a number, little-endian. R2. -/
def byteOf (v i : Nat) : Byte := BitVec.ofNat 8 (v / 256 ^ i)

theorem getLsbD_byteOf (v i j : Nat) : (byteOf v i).getLsbD j = (decide (j < 8) && v.testBit (8 * i + j)) := by
  rw [byteOf, BitVec.getLsbD_ofNat, show (256 : Nat) = 2 ^ 8 from rfl, ← pow_mul, Nat.testBit_div_two_pow, Nat.add_comm]

theorem nth_natToBytes (v : Nat) {n i : Nat} (h : i < n) : nth 0 (natToBytes v n) i = byteOf v i := by
  induction n generalizing v i with
  | zero => omega
  | succ n ih =>
    cases i with
    | zero => simp [natToBytes, nth, byteOf]
    | succ i => rw [natToBytes, nth, ih _ (by omega), byteOf, byteOf, Nat.div_div_eq_div_mul, pow_succ']

/-- The bytes of a truncated number. -/
theorem byteOf_mod (v : Nat) {n i : Nat} (h : i < n) : byteOf (v % 2 ^ (8 * n)) i = byteOf v i := by
  apply BitVec.eq_of_getLsbD_eq
  intro j hj
  simp only [getLsbD_byteOf, Nat.testBit_mod_two_pow, show 8 * i + j < 8 * n by omega, decide_true, Bool.true_and]

/-! ## Bytes of memory -/

theorem tgetList_length {α : Type} (d : α) (t : Tab α) (k n : Nat) : (tgetList d t k n).length = n := by
  induction n generalizing k with
  | zero => rfl
  | succ n ih => simp [tgetList, ih]

theorem bytes_length (s : State) (k n : Nat) : (s.bytes k n).length = n := tgetList_length ..

theorem num_zero (s : State) (k : Nat) : s.num k 0 = 0 := rfl

theorem num_succ (s : State) (k n : Nat) : s.num k (n + 1) = (s.byte k).toNat + 256 * s.num (k + 1) n := rfl

theorem num_lt (s : State) (k n : Nat) : s.num k n < 256 ^ n := by
  have h := bytesToNat_lt (s.bytes k n)
  rwa [bytes_length] at h

theorem num_add (s : State) (k i n : Nat) : s.num k (i + n) = s.num k i + 256 ^ i * s.num (k + i) n := by
  induction i generalizing k with
  | zero => simp [num_zero]
  | succ i ih =>
    rw [show i + 1 + n = (i + n) + 1 by omega, num_succ, ih, num_succ, show k + (i + 1) = k + 1 + i by omega]
    ring

/-- `n` bytes within a longer run of bytes. -/
theorem num_sub (s : State) (k : Nat) {i n m : Nat} (h : i + n ≤ m) : s.num k m / 256 ^ i % 256 ^ n = s.num (k + i) n := by
  obtain ⟨j, rfl⟩ := Nat.exists_eq_add_of_le h
  rw [Nat.add_assoc, num_add, Nat.add_mul_div_left _ _ (by positivity), Nat.div_eq_of_lt (num_lt ..), Nat.zero_add, num_add,
    Nat.add_mul_mod_self_left, Nat.mod_eq_of_lt (num_lt ..)]

theorem byteOf_num (s : State) (k : Nat) {n i : Nat} (h : i < n) : byteOf (s.num k n) i = s.byte (k + i) := by
  have h1 : s.num k n / 256 ^ i % 256 = (s.byte (k + i)).toNat := by
    have h2 := num_sub s k (show i + 1 ≤ n from h)
    rwa [pow_one, num_succ, num_zero, Nat.mul_zero, Nat.add_zero] at h2
  apply BitVec.eq_of_toNat_eq
  rw [byteOf, BitVec.toNat_ofNat, h1]

theorem num_lt_word (s : State) (k : Nat) : s.num k 32 < 2 ^ 256 := num_lt s k 32

theorem word_toNat (s : State) (k : Nat) : (s.word k).1.toNat = s.num (k / 32 * 32) 32 := by
  rw [State.word, BitVec.toNat_ofNat, Nat.mod_eq_of_lt (num_lt_word ..)]

/-- Bytes within one word, read from the word. -/
theorem word_sub (s : State) {k n : Nat} (h : k % 32 + n ≤ 32) :
    (s.word k).1.toNat / 2 ^ (8 * (k % 32)) % 2 ^ (8 * n) = s.num k n := by
  have h256 (i : Nat) : 2 ^ (8 * i) = 256 ^ i := pow_mul 2 8 i
  rw [word_toNat, h256, h256, num_sub s _ h, Nat.div_add_mod']

theorem byteOf_word (s : State) (k : Nat) {i : Nat} (h : i < 32) : byteOf (s.word k).1.toNat i = s.byte (k / 32 * 32 + i) := by
  rw [word_toNat, byteOf_num s _ h]

/-- An aligned access of up to 8 bytes lies in one word. -/
theorem aligned_in_word {k : Nat} {sz : BitVec 2} (h : 2 ^ sz.toNat ∣ k) : k % 32 + 2 ^ sz.toNat ≤ 32 := by
  obtain ⟨m, rfl⟩ := h
  have hsz := sz.isLt
  interval_cases sz.toNat <;> omega

/-! ## Writes within one word -/

theorem getLsbD_byteMask {o n b : Nat} (hb : b < 256) : (byteMask o n).getLsbD b = decide (8 * o ≤ b ∧ b < 8 * (o + n)) := by
  rw [byteMask, BitVec.getLsbD_ofNat, Nat.testBit_mul_two_pow, Nat.testBit_two_pow_sub_one]
  simp only [hb, decide_true, Bool.true_and, ← Bool.decide_and]
  exact decide_eq_decide.2 (by omega)

/-- The bytes of a word of which `n` bytes at byte `o` are replaced. -/
theorem byteOf_maskWord (d : BitVec 256) (o n v : Nat) {i : Nat} (hi : i < 32) :
    byteOf (maskWord d (byteMask o n) (BitVec.ofNat 256 (v * 2 ^ (8 * o)))).toNat i =
      if o ≤ i ∧ i < o + n then byteOf v (i - o) else byteOf d.toNat i := by
  apply BitVec.eq_of_getLsbD_eq
  intro j hj
  have hb : 8 * i + j < 256 := by omega
  rw [getLsbD_byteOf, BitVec.testBit_toNat, maskWord, BitVec.getLsbD_or, BitVec.getLsbD_and, BitVec.getLsbD_and, BitVec.getLsbD_not,
    getLsbD_byteMask hb, BitVec.getLsbD_ofNat, Nat.testBit_mul_two_pow]
  by_cases h : o ≤ i ∧ i < o + n
  · rw [if_pos h, getLsbD_byteOf]
    have h1 : 8 * o ≤ 8 * i + j ∧ 8 * i + j < 8 * (o + n) := by omega
    simp [h1, hb, hj, show 8 * i + j - 8 * o = 8 * (i - o) + j by omega]
  · rw [if_neg h, getLsbD_byteOf]
    have h1 : ¬ (8 * o ≤ 8 * i + j ∧ 8 * i + j < 8 * (o + n)) := by omega
    simp [h1, hb, hj, BitVec.getElem_eq_testBit_toNat]

theorem byte_setWord (s : State) (k : Nat) (w : Word288) (j : Nat) :
    (s.setWord k w).byte j = if j / 32 = k / 32 then byteOf w.1.toNat (j % 32) else s.byte j := by
  split
  · next h =>
    have hj : k / 32 * 32 ≤ j ∧ j < k / 32 * 32 + 32 := by omega
    have hb : (s.setWord k w).byte j = (s.setBytes (k / 32 * 32) (natToBytes w.1.toNat 32)).byte j := rfl
    rw [hb, byte_setBytes, natToBytes_length, if_pos hj, nth_natToBytes _ (by omega)]
    congr 1
    omega
  · next h => exact byte_setWord_outside s k j w h

/-- A word of which `n` bytes are replaced holds them, and every other byte stays. R253, R314. -/
theorem storedBytes_setWord {s t : State} {k n v : Nat} (hk : k % 32 + n ≤ 32) {c : W32}
    (ht : ∀ j, t.byte j = (s.setWord k (maskWord (s.word k).1 (byteMask (k % 32) n)
      (BitVec.ofNat 256 (v % 2 ^ (8 * n) * 2 ^ (8 * (k % 32)))), c)).byte j) : StoredBytes s t k n v := by
  intro j
  rw [ht, byte_setWord]
  by_cases hj : j / 32 = k / 32
  · rw [if_pos hj, byteOf_maskWord _ _ _ _ (by omega)]
    by_cases h : k ≤ j ∧ j < k + n
    · rw [if_pos h, if_pos (by omega), byteOf_mod _ (by omega), byteOf, show j % 32 - k % 32 = j - k by omega]
    · rw [if_neg h, if_neg (by omega), byteOf_word _ _ (by omega)]
      congr 1
      omega
  · rw [if_neg hj, if_neg (by omega)]

/-- A number stored at a key. -/
theorem storedBytes_setNum (s : State) (k n v : Nat) : StoredBytes s (s.setNum k n (v % 2 ^ (8 * n))) k n v := by
  intro j
  rw [State.setNum, byte_setBytes, natToBytes_length]
  split
  · next h => rw [nth_natToBytes _ (by omega), byteOf_mod _ (by omega), byteOf]
  · rfl

end Sys2Proof.Proofs
end

section
/-! Loads and stores of the sequencers (06, R253 to R258). -/

namespace Sys2Proof.Proofs
open Sys2Proof Sys2Proof.Machine

/-! ## The sequencer past an instruction -/

theorem advance_tile_phys (s : State) (l : Nat) (n : W64) (j : Nat) : (advance s (.tile l) n).phys j = s.phys j := by
  rw [advance_tile_frame]; rfl

theorem advance_core (s : State) (c : Core) (n : W64) :
    (advance s c n).seqr c = { s.seqr c with pc := (s.seqr c).pc + n } := by
  cases c with
  | tile l =>
    show ((advance s (.tile l) n).tile ((advance s (.tile l) n).phys l)).seqr = _
    rw [advance_tile_phys, advance_tile, if_pos rfl]
  | miller m => rw [advance_miller, State.modSeqr_seqr]

/-- A tile that may issue belongs to a run. -/
theorem runOf_of_canIssue {s : State} {l : Nat} (h : canIssue s (.tile l) = true) : ∃ r, s.runOf l = some r := by
  cases hr : s.runOf l with
  | none => simp [canIssue, hr] at h
  | some r => exact ⟨r, rfl⟩

theorem onTile_run {s : State} {l : Nat} {r : Run} (hr : s.runOf l = some r) (k : Nat → Run → Iss) :
    onTile s (.tile l) k = k l r := by
  rw [onTile, hr]

/-! ## Data of a load -/

/-- The extension of loaded data is that of its bits. 06. -/
theorem extendData_eq (sz : BitVec 2) (sx : Bool) (v : Nat) : extendData sz sx v = extended sz sx v := by
  have h64 : 8 * 2 ^ sz.toNat ≤ 64 := by
    have hsz := sz.isLt
    interval_cases sz.toNat <;> decide
  have hpow : 2 ^ (8 * 2 ^ sz.toNat) ≤ 2 ^ 64 := Nat.pow_le_pow_right (by decide) h64
  have hlt : v % 2 ^ (8 * 2 ^ sz.toNat) < 2 ^ (8 * 2 ^ sz.toNat) := Nat.mod_lt _ (Nat.two_pow_pos _)
  unfold extendData extended accessBytes
  cases sx with
  | false =>
    apply BitVec.eq_of_toNat_eq
    simp [BitVec.toNat_setWidth]
  | true =>
    apply BitVec.eq_of_toNat_eq
    rw [if_pos rfl, BitVec.toNat_signExtend, BitVec.msb_eq_decide, BitVec.toNat_setWidth, BitVec.toNat_ofNat]
    simp only [true_and]
    have h1 : v % 2 ^ (8 * 2 ^ sz.toNat) % 2 ^ 64 = v % 2 ^ (8 * 2 ^ sz.toNat) := Nat.mod_eq_of_lt (hlt.trans_le hpow)
    by_cases hs : 2 ^ (8 * 2 ^ sz.toNat - 1) ≤ v % 2 ^ (8 * 2 ^ sz.toNat)
    · rw [if_pos hs, if_pos (decide_eq_true hs), BitVec.toNat_ofNat, h1, Nat.add_sub_assoc hpow]
      exact Nat.mod_eq_of_lt (by omega)
    · rw [if_neg hs, if_neg (by simpa using hs), BitVec.toNat_ofNat, Nat.add_zero]

/-! ## Words that hold good data -/

/-- A read within a good word of Millpond. R253, R257. -/
theorem readSub_mill {s : State} {p off n : Nat} (hc : classify (s.word (millKey p off)).2 = .clean)
    (hn : millKey p off % 32 + n ≤ 32) : readSub s (.mill p off) n = (touch s (.mill p off), s.num (millKey p off) n, .ok) := by
  simp only [readSub, readWord, Place.key, hc, word_sub s hn]

/-- A read within a good word of HBM. -/
theorem readSub_hbm {s : State} {a n : Nat} (hc : classify (s.word a).2 = .clean) (hn : a % 32 + n ≤ 32) :
    readSub s (.hbm a) n = (s, s.num a n, .ok) := by
  simp only [readSub, readWord, touch, Place.key, hc, word_sub s hn]

theorem millKey_aligned {p off : Nat} {sz : BitVec 2} (h : 2 ^ sz.toNat ∣ off) : millKey p off % 32 + 2 ^ sz.toNat ≤ 32 := by
  have hk : millKey p off % 32 = off % 32 := by unfold millKey; omega
  rw [hk]
  exact aligned_in_word h

/-- An access of a tile to its own Millpond that passes every check. -/
theorem ownAccess_mpAccess {s : State} {l a n off : Nat} {r : Run} {write : Bool} (h : OwnAccess s l r a n write off) :
    mpAccess s r l a n write = .none := by
  obtain ⟨-, htarget, -, hregion, howned, -⟩ := h
  simp [mpAccess, htarget, hregion, howned]

/-- A Millpond address lies below 2^32. -/
theorem mpTarget_lt {r : Run} {l a : Nat} {x : Nat × Nat} (h : mpTarget r l a = some x) : a < 2 ^ 32 := by
  by_contra hge
  rw [mpTarget, mpDecode, if_pos (by omega)] at h
  cases h

/-! ## Loads -/

/-- A load from a good word of the tile's own Millpond. -/
theorem ldTile_own {s : State} {l off : Nat} {r : Run} {sd : BitVec 5} {sz : BitVec 2} {sx : Bool} {ea : W64}
    (h : OwnAccess s l r ea.toNat (2 ^ sz.toNat) false off) (hc : classify (s.word (millKey (s.phys l) off)).2 = .clean) :
    ldTile s (.tile l) l r sd sz sx ea = .done ((touch s (.mill (s.phys l) off)).modSeqr (.tile l)
      (fun q => q.writeS sd (extended sz sx (s.num (millKey (s.phys l) off) (2 ^ sz.toNat))))) := by
  have hacc := ownAccess_mpAccess h
  obtain ⟨halign, htarget, hoff, -, -, howner, hstore, hblocked⟩ := h
  have hown : owned s r.rr.ctx (.mill (s.phys l) off) = true := beq_iff_eq.2 howner
  simp only [Bool.false_eq_true, if_false] at hblocked
  simp only [ldTile, accessBytes, Nat.mod_eq_zero_of_dvd halign, mpTarget_lt htarget, hacc, htarget, hown, hblocked, hstore, loadWord,
    readSub_mill hc (millKey_aligned hoff), loaded, extendData_eq]
  simp

/-- A load of a Miller core from its service memory. R258. -/
theorem ldSvc_memory {s : State} {m : Nat} {sd : BitVec 5} {sz : BitVec 2} {sx : Bool} {ea : W64} (halign : 2 ^ sz.toNat ∣ ea.toNat)
    (hlt : ea.toNat < 2 ^ 48) : ldSvc s (.miller m) m sd sz sx ea = .done (s.modSeqr (.miller m)
      (fun q => q.writeS sd (extended sz sx (s.num (svcKey m ea.toNat) (2 ^ sz.toNat))))) := by
  have hwin : ¬ regWindow ≤ ea.toNat := Nat.not_le_of_lt hlt
  simp only [ldSvc, accessBytes, Nat.mod_eq_zero_of_dvd halign, svcRead, hwin, loaded, extendData_eq]
  simp

/-- Settles O10: an access that passes the checks reads the addressed bytes of its word, and one that is not aligned fails the first
check. -/
theorem loadsReadTheirBytes : Obligations.LoadsReadTheirBytes := by
  unfold Obligations.LoadsReadTheirBytes
  refine ⟨fun s l off g sd ab sz sx o32 r h hr hown hc => ?_, fun s m g sd ab sz sx o32 h halign hlt => ?_,
    fun s s1 m d g sd sc ab sz sx o32 h halign hpend haddr hbar hd hc => ?_, fun s c g sd ab sz sx o32 h halign => ?_⟩
  · change execLd (.tile l) g sd ab sz sx o32 s = _
    rw [execLd, issue_executes h rfl]
    simp only [onTile_run hr, ldTile_own hown hc]
    rfl
  · change execLd (.miller m) g sd ab sz sx o32 s = _
    rw [execLd, issue_executes h rfl]
    simp only [ldSvc_memory halign hlt]
    rfl
  · change execLdc (.miller m) g sd ab sz sx sc o32 s = _
    rw [execLdc, issue_executes h rfl]
    simp only [accessBytes, Nat.mod_eq_zero_of_dvd halign, hpend, haddr, hbar, loadWord, readSub_hbm hc (aligned_in_word hd), loaded,
      extendData_eq]
    rfl
  · have hmod : ¬ (effAddr (s.seqr c) ab o32).toNat % 2 ^ sz.toNat = 0 := fun h0 => halign (Nat.dvd_of_mod_eq_zero h0)
    change execLd c g sd ab sz sx o32 s = _
    rw [execLd, issue_executes h (allowed_of_reads c [])]
    cases c with
    | tile l =>
      obtain ⟨r, hr⟩ := runOf_of_canIssue h.1
      simp only [onTile_run hr, ldTile, accessBytes, ne_eq, hmod, not_false_eq_true, if_true]
      rfl
    | miller m =>
      simp only [ldSvc, accessBytes, ne_eq, hmod, not_false_eq_true, if_true]
      rfl

end Sys2Proof.Proofs
end

section
/-! Stores of the sequencers (06, R253, R258, R314). -/

namespace Sys2Proof.Proofs
open Sys2Proof Sys2Proof.Machine

/-! ## Words that are written -/

/-- A check difference that is clean is zero. R432. -/
theorem eq_zero_of_clean {k : W32} (h : classify k = .clean) : k = 0 := by
  by_contra h0
  unfold classify at h
  rw [if_neg h0] at h
  split at h
  · cases h
  · dsimp only at h
    split at h
    · cases h
    · split at h <;> cases h

/-- The word that `n` bytes of `v` at place `pl` leave. -/
def mergedWord (s : State) (pl : Place) (n v : Nat) : BitVec 256 :=
  maskWord (s.word pl.key).1 (byteMask (pl.key % 32) n) (BitVec.ofNat 256 (v % 2 ^ (8 * n) * 2 ^ (8 * (pl.key % 32))))

/-- The state after a write of `n` bytes within a good word. -/
def stored (s : State) (pl : Place) (n v : Nat) : State :=
  (dropWriteback (touch s pl) pl).setWord pl.key (mergedWord s pl n v, 0)

theorem writeSub_mill {s : State} {p off n v : Nat} (hc : classify (s.word (millKey p off)).2 = .clean) :
    writeSub s (.mill p off) n (v % 2 ^ (8 * n)) = (stored s (.mill p off) n v, .none) := by
  simp only [writeSub, writeMask, Place.key, hc, stored, mergedWord]

theorem writeSub_hbm {s : State} {a n v : Nat} (hc : classify (s.word a).2 = .clean) :
    writeSub s (.hbm a) n (v % 2 ^ (8 * n)) = (stored s (.hbm a) n v, .none) := by
  simp only [writeSub, writeMask, Place.key, hc, stored, mergedWord]

theorem stored_byte (s : State) (pl : Place) (n v j : Nat) :
    (stored s pl n v).byte j = (s.setWord pl.key (mergedWord s pl n v, 0)).byte j := by cases pl <;> rfl

/-- A write within a good word leaves every check difference as it is. -/
theorem stored_chk {s : State} {pl : Place} {n v : Nat} (hc : classify (s.word pl.key).2 = .clean) (j : Nat) :
    tget 0 (stored s pl n v).chk j = tget 0 s.chk j := by
  have h0 : tget 0 s.chk (pl.key / 32) = 0 := eq_zero_of_clean hc
  have hchk : (stored s pl n v).chk = tset 0 s.chk (pl.key / 32) 0 := by cases pl <;> rfl
  rw [hchk, tget_tset]
  split
  · next h => rw [h, h0]
  · rfl

/-- A write of bytes into a tile's Millpond changes memory, its check bits and that tile. -/
theorem stored_mill_frame (s : State) (p off n v : Nat) :
    stored s (.mill p off) n v = { s with
      mem := (stored s (.mill p off) n v).mem
      chk := (stored s (.mill p off) n v).chk
      tiles := (stored s (.mill p off) n v).tiles } := by
  obtain ⟨ts, hts⟩ : ∃ ts, dropWriteback (touch s (.mill p off)) (.mill p off) = { s with tiles := ts } := by
    obtain ⟨us, hus⟩ : ∃ us, touch s (.mill p off) = { s with tiles := us } := by
      unfold touch
      exact ⟨_, rfl⟩
    rw [hus]
    unfold dropWriteback
    exact ⟨_, rfl⟩
  unfold stored
  rw [hts, State.setWord]
  rfl

/-- After a change of memory and tiles, an advance of a tile changes memory, tiles and the runs' counts. -/
theorem advance_frame_of_mem {s t : State} (h : t = { s with mem := t.mem, chk := t.chk, tiles := t.tiles }) (l : Nat) (n : W64) :
    advance t (.tile l) n = { s with
      mem := (advance t (.tile l) n).mem
      chk := (advance t (.tile l) n).chk
      tiles := (advance t (.tile l) n).tiles
      govs := (advance t (.tile l) n).govs } := by
  obtain ⟨tiles, govs, hu⟩ : ∃ tiles govs, advance t (.tile l) n = { t with tiles := tiles, govs := govs } :=
    ⟨_, _, advance_tile_frame t l n⟩
  rw [hu, h]

theorem stored_mill_tile (s : State) (p off n v q : Nat) : (stored s (.mill p off) n v).tile q =
    if q = p then { s.tile p with mpd := ((stored s (.mill p off) n v).tile p).mpd } else s.tile q := by
  have h : (stored s (.mill p off) n v).tile = (dropWriteback (touch s (.mill p off)) (.mill p off)).tile := rfl
  rw [h]
  by_cases hq : q = p
  · subst hq
    simp [dropWriteback, touch, State.modMpd]
  · simp [dropWriteback, touch, State.modMpd, State.modTile_tile, hq]

theorem stored_mill_seqr (s : State) (p off n v l : Nat) :
    (stored s (.mill p off) n v).seqr (.tile l) = s.seqr (.tile l) := by
  show ((stored s (.mill p off) n v).tile (s.phys l)).seqr = (s.tile (s.phys l)).seqr
  rw [stored_mill_tile]
  split
  · next h => rw [h]
  · rfl

/-- An advance of a sequencer leaves memory and its check bits. -/
theorem advance_mem (s : State) (c : Core) (n : W64) : (advance s c n).mem = s.mem := by
  cases c with
  | tile l => rw [advance_tile_frame]
  | miller m => rfl

theorem advance_chk (s : State) (c : Core) (n : W64) : (advance s c n).chk = s.chk := by
  cases c with
  | tile l => rw [advance_tile_frame]
  | miller m => rfl

theorem byte_congr {s t : State} (h : t.mem = s.mem) (j : Nat) : t.byte j = s.byte j := by rw [State.byte, State.byte, h]

theorem advance_tile_other {s : State} {l p : Nat} (h : p ≠ s.phys l) (n : W64) : (advance s (.tile l) n).tile p = s.tile p := by
  rw [advance_tile, if_neg h]

/-- A change of a tile's units leaves its sequencer. -/
theorem modTile_seqr {s : State} (p : Nat) {f : Tile → Tile} (hf : ∀ t, (f t).seqr = t.seqr) (l : Nat) :
    (s.modTile p f).seqr (.tile l) = s.seqr (.tile l) := by
  show ((s.modTile p f).tile (s.phys l)).seqr = (s.tile (s.phys l)).seqr
  rw [State.modTile_tile]
  split
  · next h => rw [hf, h]
  · rfl

/-- An advance changes no unit of a tile but its counts and its sequencer. -/
theorem advance_tile_units (s : State) (l : Nat) (n : W64) (p : Nat) :
    ∃ hs window seqr, (advance s (.tile l) n).tile p = { s.tile p with hs := hs, window := window, seqr := seqr } := by
  rw [advance_tile]
  split
  · next h => exact h ▸ ⟨_, _, _, rfl⟩
  · exact ⟨_, _, _, rfl⟩

/-- A store within a good word, after the instruction's advance. -/
theorem storedBytes_advance {s t : State} {pl : Place} {n v : Nat} (hk : pl.key % 32 + n ≤ 32) (ht : t.mem = (stored s pl n v).mem) :
    StoredBytes s t pl.key n v :=
  storedBytes_setWord hk (c := 0) (fun j => (byte_congr ht j).trans (stored_byte s pl n v j))

/-! ## Stores -/

theorem stTile_own {s : State} {l off : Nat} {r : Run} {v : W64} {sz : BitVec 2} {ea : W64}
    (h : OwnAccess s l r ea.toNat (2 ^ sz.toNat) true off) (hc : classify (s.word (millKey (s.phys l) off)).2 = .clean) :
    stTile s (.tile l) l r v sz ea = .done (stored s (.mill (s.phys l) off) (2 ^ sz.toNat) v.toNat) := by
  have hacc := ownAccess_mpAccess h
  obtain ⟨halign, htarget, hoff, -, -, -, hstore, hblocked⟩ := h
  simp only [if_true] at hblocked
  simp only [stTile, accessBytes, Nat.mod_eq_zero_of_dvd halign, mpTarget_lt htarget, hacc, htarget, hblocked, hstore, writeSub_mill hc]
  simp

/-- A tile with an operation more in its atomic queue. R222. -/
def withAtom (s : State) (l : Nat) (o : AtomOp) : State :=
  s.modTile (s.phys l) (fun t => { t with iseq := t.iseq + 1, atomQ := t.atomQ ++ [{ o with iseq := t.iseq }] })

theorem queueAtom_room {s : State} {l : Nat} (o : AtomOp) (h : (s.tile (s.phys l)).atomQ.length < 16) :
    queueAtom s l o = .done (withAtom s l o) := by
  simp only [queueAtom, takeIseq, Nat.not_le_of_lt h, if_false]
  congr 1
  exact modTile_modTile ..

theorem withAtom_seqr (s : State) (l : Nat) (o : AtomOp) : (withAtom s l o).seqr (.tile l) = s.seqr (.tile l) := by
  unfold withAtom
  apply modTile_seqr
  exact fun _ => rfl

/-- A store to another tile's Millpond passes through the atomic queue. R255. -/
theorem stTile_other {s : State} {l u off : Nat} {r : Run} {v : W64} {sz : BitVec 2} {ea : W64} (halign : 2 ^ sz.toNat ∣ ea.toNat)
    (htarget : mpTarget r l ea.toNat = some (u, off)) (hu : u ≠ l) (hregion : regionOk r false true off (2 ^ sz.toNat) = true)
    (hroom : (s.tile (s.phys l)).atomQ.length < 16) :
    stTile s (.tile l) l r v sz ea = .done (withAtom s l {
      iseq := 0
      pc := (s.seqr (.tile l)).pc
      kind := .store (2 ^ sz.toNat)
      addr := ea
      operand := v
      ctx := r.rr.ctx }) := by
  have hul : (u == l) = false := by simpa using hu
  have hacc : mpAccess s r l ea.toNat (2 ^ sz.toNat) true = .none := by simp [mpAccess, htarget, hul, hregion, hu]
  simp only [stTile, accessBytes, Nat.mod_eq_zero_of_dvd halign, mpTarget_lt htarget, hacc, htarget, queueAtom_room _ hroom]
  simp [hu]

theorem stSvc_memory {s : State} {m : Nat} {v : W64} {sz : BitVec 2} {ea : W64} (halign : 2 ^ sz.toNat ∣ ea.toNat)
    (hlt : ea.toNat < 2 ^ 48) :
    stSvc s m v sz ea = .done (s.setNum (svcKey m ea.toNat) (2 ^ sz.toNat) (v.toNat % 2 ^ (8 * 2 ^ sz.toNat))) := by
  have hwin : ¬ regWindow ≤ ea.toNat := Nat.not_le_of_lt hlt
  simp only [stSvc, accessBytes, Nat.mod_eq_zero_of_dvd halign, svcWrite, hwin]
  simp

/-- Settles O11: a store that passes the checks merges its bytes into its word, and another tile's waits in the atomic queue. -/
theorem storesWriteTheirBytes : Obligations.StoresWriteTheirBytes := by
  unfold Obligations.StoresWriteTheirBytes
  refine ⟨fun s l off g sd ab sz o32 r h hr hown hc => ?_, fun s l u off g sd ab sz o32 r h hr halign htarget hu hregion hroom => ?_,
    fun s m g sd ab sz o32 h halign hlt => ?_, fun s s1 m d g sd sc ab sz o32 h halign haddr hbar hd hc => ?_⟩
  · have hkey := millKey_aligned (p := s.phys l) hown.2.2.1
    refine ⟨advance (stored s (.mill (s.phys l) off) (2 ^ sz.toNat) ((s.seqr (.tile l)).s sd).toNat) (.tile l) 8, ?_,
      ?_, fun j => ?_, ?_, ?_, fun p hp => ?_⟩
    · change execSt (.tile l) g sd ab sz o32 s = _
      rw [execSt, issue_executes h rfl]
      simp only [onTile_run hr, stTile_own hown hc]
      rfl
    · exact storedBytes_advance (pl := .mill (s.phys l) off) hkey (advance_mem ..)
    · exact (congrArg (fun c => tget 0 c j) (advance_chk ..)).trans (stored_chk (pl := .mill (s.phys l) off) hc j)
    · exact advance_frame_of_mem (stored_mill_frame ..) l 8
    · rw [advance_core, stored_mill_seqr]
    · refine (advance_tile_other ?_ 8).trans ((stored_mill_tile ..).trans (if_neg hp))
      exact hp
  · refine ⟨advance (withAtom s l {
      iseq := 0
      pc := (s.seqr (.tile l)).pc
      kind := .store (2 ^ sz.toNat)
      addr := effAddr (s.seqr (.tile l)) ab o32
      operand := (s.seqr (.tile l)).s sd
      ctx := r.rr.ctx }) (.tile l) 8, ?_, advance_mem .., ?_, ?_⟩
    · change execSt (.tile l) g sd ab sz o32 s = _
      rw [execSt, issue_executes h rfl]
      simp only [onTile_run hr, stTile_other halign htarget hu hregion hroom]
      rfl
    · obtain ⟨hs, window, seqr, ht⟩ := advance_tile_units (withAtom s l {
        iseq := 0
        pc := (s.seqr (.tile l)).pc
        kind := .store (2 ^ sz.toNat)
        addr := effAddr (s.seqr (.tile l)) ab o32
        operand := (s.seqr (.tile l)).s sd
        ctx := r.rr.ctx }) l 8 (s.phys l)
      rw [ht]
      simp [withAtom]
    · rw [advance_core, withAtom_seqr]
  · refine ⟨advance (s.setNum (svcKey m (effAddr (s.seqr (.miller m)) ab o32).toNat) (2 ^ sz.toNat)
      (((s.seqr (.miller m)).s sd).toNat % 2 ^ (8 * 2 ^ sz.toNat))) (.miller m) 8, ?_, storedBytes_setNum s _ _ _, rfl⟩
    change execSt (.miller m) g sd ab sz o32 s = _
    rw [execSt, issue_executes h rfl]
    simp only [stSvc_memory halign hlt]
    rfl
  · refine ⟨advance (stored s1 (.hbm d) (2 ^ sz.toNat) ((s.seqr (.miller m)).s sd).toNat) (.miller m) 8, ?_,
      storedBytes_advance (pl := .hbm d) (aligned_in_word hd) rfl, rfl⟩
    change execStc (.miller m) g sd ab sz sc o32 s = _
    rw [execStc, issue_executes h rfl]
    simp only [accessBytes, Nat.mod_eq_zero_of_dvd halign, haddr, hbar, writeSub_hbm hc]
    rfl

end Sys2Proof.Proofs
end

section
/-! Unit instructions that enter a queue of their tile: the table instructions (06, R259 to R265). -/

namespace Sys2Proof.Proofs
open Sys2Proof Sys2Proof.Machine

/-! ## Operations that enter a queue -/

/-- A change of one tile depends only on what it makes of that tile. -/
theorem modTile_congr {s : State} {p : Nat} {f g : Tile → Tile} (h : f (s.tile p) = g (s.tile p)) : s.modTile p f = s.modTile p g := by
  rw [State.modTile, State.modTile, h]

/-- A tile that takes its next issue-order number and changes by `upd` is one change of the tile. R202. -/
theorem takeIseq_modTile (s : State) (l : Nat) (upd : Tile → Tile) :
    (takeIseq s l).1.modTile (s.phys l) upd = s.modTile (s.phys l) (fun t => upd { t with iseq := t.iseq + 1 }) :=
  (modTile_modTile s _ _ _).trans (modTile_congr rfl)

/-- An operation that finds room in the Hopper queue. R204. -/
theorem enqHop_room {s : State} {l : Nat} (mk : Nat → HopOp) (upd : Tile → Tile) (h : (s.tile (s.phys l)).hopQ.length < 4) :
    enqHop s l mk upd = .done (s.modTile (s.phys l) (fun t =>
      upd { t with iseq := t.iseq + 1, hopQ := t.hopQ ++ [mk (s.tile (s.phys l)).iseq] })) := by
  rw [enqHop, if_neg (Nat.not_le_of_lt h)]
  exact congrArg Iss.done (takeIseq_modTile s l _)

/-! ## The checks of table instructions -/

theorem firstFlt_append (xs ys : List Flt) : firstFlt (xs ++ ys) = .none ↔ firstFlt xs = .none ∧ firstFlt ys = .none := by
  simp only [firstFlt_eq_none, List.mem_append, or_imp, forall_and]

theorem firstFlt_cons (x : Flt) (xs : List Flt) : firstFlt (x :: xs) = .none ↔ x = .none ∧ firstFlt xs = .none := by
  simp only [firstFlt_eq_none, List.mem_cons, forall_eq_or_imp]

theorem firstFlt_nil : firstFlt [] = .none := rfl

/-- A range that passes is a range of a tile of the set. -/
theorem mpTarget_of_mpRange {s : State} {r : Run} {l a n : Nat} {write : Bool} (h : mpRange s r l a write n = .none) :
    ∃ x, mpTarget r l a = some x := by
  cases hm : mpTarget r l a with
  | none => simp [mpRange, hm] at h
  | some x => exact ⟨x, rfl⟩

section
variable {s : State} {l : Nat} {r : Run} {enc : BitVec 3} {ars acb : BitVec 4} {rsn : Bool} {rows : Nat}

/-- Row-scale vector and codebook that a build or load may name pass its checks. R70, R261. -/
theorem vecRegsFlt_of_ok (h : VectorsOk s l r enc ars acb rsn rows) : firstFlt (vecRegsFlt s r l ars acb rsn (enc == 5)) = .none := by
  obtain ⟨hrs, hcb⟩ := h
  simp only [vecRegsFlt, firstFlt_cons, faultIf_eq_none, firstFlt_nil, and_true]
  constructor
  · cases rsn with
    | true => simp
    | false =>
      obtain ⟨hdvd, hrange⟩ := hrs rfl
      obtain ⟨x, hx⟩ := mpTarget_of_mpRange hrange
      simp [Nat.mod_eq_zero_of_dvd hdvd, hx]
  · by_cases he : enc = 5
    · obtain ⟨o, ho, -, halign, -⟩ := hcb he
      simp [regOff, ho, Nat.mod_eq_zero_of_dvd halign]
    · rw [beq_eq_false_iff_ne.2 he]
      exact .inl rfl

theorem rowScaleFlt_of_ok (h : VectorsOk s l r enc ars acb rsn rows) : firstFlt (rowScaleFlt s r l ars rsn rows) = .none := by
  cases rsn with
  | true => rfl
  | false => simpa [rowScaleFlt, firstFlt_cons, firstFlt_nil] using (h.1 rfl).2

theorem codebookFlt_of_ok (h : VectorsOk s l r enc ars acb rsn rows) : firstFlt (codebookFlt s r l acb (enc == 5)) = .none := by
  by_cases he : enc = 5
  · obtain ⟨o, ho, -, -, hbank, hrange⟩ := h.2 he
    simp [codebookFlt, he, regOff, ho, hbank, hrange, firstFlt_cons, firstFlt_nil]
  · rw [beq_eq_false_iff_ne.2 he]
    rfl
end

/-- An image that lies whole in the A bank, where the tile may reach it. R264, R265. -/
theorem imageFlt_of_ok {s : State} {l a : Nat} {r : Run} {write : Bool} (hbank : inBank 1 a 135168 = true)
    (hrange : ownRange s r l write a 135168 = .none) : firstFlt (imageFlt s r l write (some a)) = .none := by
  simp [imageFlt, imageBytes, hbank, hrange, firstFlt_cons, firstFlt_nil]

theorem imageRegFlt_of_aligned {a : Nat} (h : 32 ∣ a) : imageRegFlt (some a) = .none := by
  simp [imageRegFlt, Nat.mod_eq_zero_of_dvd h]

/-- Settles O12: operands that pass every check leave the first fault of the list empty, and the operation finds room in the queue. -/
theorem tableInstructionsEnqueue : Obligations.TableInstructionsEnqueue := by
  unfold Obligations.TableInstructionsEnqueue
  refine ⟨?_, ?_, ?_⟩
  · intro s l src g as_ h enc bpos ifmt m nb ars acb rsn krem rstride r f hx hr hwf hf hrec o hsrc halign hfits hvec hrows hroom
    change execTblBuild (.tile l) g as_ h enc bpos ifmt m nb ars acb rsn krem rstride s = _
    have hregs : regOff s r l as_ = some src := hsrc
    rw [execTblBuild, issue_executes hx (by simpa [Form.allowed, Core.isTile] using hwf), onTile_run hr]
    have hrowFits : (o.rows.any (fun x => x.2 != 0 && !inBank 1 x.1 x.2)) = false := by
      simp only [List.any_eq_false, Bool.and_eq_true, bne_iff_ne, Bool.not_eq_true', not_and, Bool.not_eq_false]
      exact fun x hx h0 => (hrows x hx h0).1
    have hrowRange : firstFlt (o.rows.map (fun x => ownRange s r l false x.1 x.2)) = .none := by
      simp only [firstFlt_eq_none, List.forall_mem_map]
      intro x hx
      by_cases h0 : x.2 = 0
      · simp [ownRange, h0]
      · exact (hrows x hx h0).2
    simp only [hf, Option.getD_some, hregs]
    rw [if_neg (not_not_intro ?_), enqHop_room _ _ hroom]
    · rfl
    · simp only [firstFlt_append, firstFlt_cons, firstFlt_nil, and_true, faultIf_eq_none, Bool.not_eq_false', reduceCtorEq, or_false]
      exact ⟨⟨⟨⟨⟨⟨hfits, by simp [Nat.mod_eq_zero_of_dvd halign]⟩, vecRegsFlt_of_ok hvec⟩, hrowFits⟩, codebookFlt_of_ok hvec⟩, hrowRange⟩,
        rowScaleFlt_of_ok hvec⟩
  · intro s l a g ab h off r hx hr ha halign hbank hrange hroom
    change execTblSave (.tile l) g ab h off s = _
    rw [execTblSave, issue_executes hx rfl, onTile_run hr]
    simp only [ha]
    rw [if_neg (not_not_intro ((firstFlt_cons ..).2 ⟨imageRegFlt_of_aligned halign, imageFlt_of_ok hbank hrange⟩)), enqHop_room _ _ hroom]
    rfl
  · intro s l src g as_ h enc bpos ifmt m nb ars acb rsn r f hx hr hwf hf hrec o hsrc halign hbank hrange hfits hvec hroom
    change execTblLoad (.tile l) g as_ h enc bpos ifmt m nb ars acb rsn s = _
    have hregs : regOff s r l as_ = some src := hsrc
    rw [execTblLoad, issue_executes hx (by simpa [Form.allowed, Core.isTile] using hwf), onTile_run hr]
    simp only [hf, Option.getD_some, hregs]
    rw [if_neg (not_not_intro ?_), enqHop_room _ _ hroom]
    · rfl
    · simp only [firstFlt_append, firstFlt_cons, firstFlt_nil, and_true, faultIf_eq_none, Bool.not_eq_false', reduceCtorEq, or_false]
      exact ⟨⟨⟨⟨⟨hfits, imageRegFlt_of_aligned halign⟩, vecRegsFlt_of_ok hvec⟩, imageFlt_of_ok hbank hrange⟩, codebookFlt_of_ok hvec⟩,
        rowScaleFlt_of_ok hvec⟩

end Sys2Proof.Proofs
end

section
/-! Lookup-accumulates that enter the lookup queue (06, R266 to R271). -/

namespace Sys2Proof.Proofs
open Sys2Proof Sys2Proof.Machine

/-- Every lookup-accumulate has the one meaning of its weight class. -/
theorem exec_laccOf (k : LaccKind) (c : Core) (g : Guard) (aw : BitVec 4) (h : Bool) (bin0 : BitVec 3) (m : BitVec 6)
    (blk0 nblk : BitVec 12) (wring : BitVec 16) (n : BitVec 15) (woff : BitVec 32) (s : State) :
    exec (laccOf k c g aw h bin0 m blk0 nblk wring n woff) s = issueLookup k c g aw h bin0 m blk0 nblk wring n woff s := by
  cases k <;> rfl

/-- The scales of every bin of the range lie where the tile may read them. R95. -/
theorem scales_of_fits {s : State} {l : Nat} {r : Run} {k : LaccKind} {hr : HalfRec} {b0 rows ch blk0 nb : Nat}
    (h : LookupFits s l r k hr b0 rows ch blk0 nb) :
    firstFlt ((List.range (laccBins rows ch)).map (fun b =>
      if (tget {} (s.tile (s.phys l)).issBins (b0 + b)).gs = .array then
        ownRange s r l false (gsRange (tget {} (s.tile (s.phys l)).issBins (b0 + b)) (nb * hr.bpos)).1
          (gsRange (tget {} (s.tile (s.phys l)).issBins (b0 + b)) (nb * hr.bpos)).2
      else .none)) = .none := by
  obtain ⟨-, -, -, -, hbins⟩ := h
  simp only [firstFlt_eq_none, List.forall_mem_map, List.mem_range]
  intro b hb
  split
  · next hgs => exact (hbins b hb).2.2 hgs
  · rfl

/-- No bin of the range has another shape. R83, R97, R99. -/
theorem binsMatch_of_fits {s : State} {l : Nat} {r : Run} {k : LaccKind} {hr : HalfRec} {b0 rows ch blk0 nb : Nat}
    (h : LookupFits s l r k hr b0 rows ch blk0 nb) :
    (List.range (laccBins rows ch)).any (fun b =>
      !binMatches (tget {} (s.tile (s.phys l)).issBins (b0 + b)) k b rows ch hr.bpos) = false := by
  obtain ⟨-, -, -, -, hbins⟩ := h
  simp only [List.any_eq_false, List.mem_range, Bool.not_eq_true', Bool.not_eq_false]
  exact fun b hb => (hbins b hb).1

/-- No bin of the range passes the limit of accumulations. R91. -/
theorem binLimit_of_fits {s : State} {l : Nat} {r : Run} {k : LaccKind} {hr : HalfRec} {b0 rows ch blk0 nb : Nat}
    (h : LookupFits s l r k hr b0 rows ch blk0 nb) :
    (List.range (laccBins rows ch)).any (fun b =>
      decide (65536 < (tget {} (s.tile (s.phys l)).issBins (b0 + b)).count + nb * k.planes)) = false := by
  obtain ⟨-, -, -, -, hbins⟩ := h
  simp only [List.any_eq_false, List.mem_range, decide_eq_true_eq, Nat.not_lt]
  exact fun b hb => (hbins b hb).2.1

/-- A ring that the lookup path may take from. R207 to R209. -/
theorem ringPlaceFlt_of_ok {s : State} {ctx q : Nat} (hk : (s.ring q).kind = .bucket) (hc : (s.ring q).ctx = ctx) :
    firstFlt (ringPlaceFlt s ctx q) = .none := by
  simp [ringPlaceFlt, hk, hc, firstFlt_cons, firstFlt_nil]

theorem consFree_of_ok {g : Ring} {a : Agent} (h : g.cons = none ∨ g.cons = some a) : consFree g a = true := by
  rcases h with h | h <;> simp [consFree, h]

/-! ## What an operation that enters the lookup queue leaves -/

/-- Tile `l` with a lookup-accumulate more in its queue, counted in its bins. R91, R271. -/
def lookQueued (s : State) (l : Nat) (op : LaccOp) (b0 bins add pos : Nat) (rs : Option Nat) : State :=
  s.modTile (s.phys l) (fun t => issueLacc { t with iseq := t.iseq + 1, lookQ := t.lookQ ++ [op] } b0 bins add pos rs)

/-- Ring `q` with the lookup path of tile `l` as its consumer. R208, R270. -/
def lookAttached (s : State) (l q : Nat) : State :=
  (s.modRing q (fun g => { g with cons := some (.look l) })).modTile (s.phys l)
    (fun t => { t with lookRings := if q ∈ t.lookRings then t.lookRings else t.lookRings ++ [q] })

theorem mem_attached (q : Nat) (qs : List Nat) : q ∈ if q ∈ qs then qs else qs ++ [q] := by
  split
  · assumption
  · simp

theorem lookQueued_lookQ (s : State) (l : Nat) (op : LaccOp) (b0 bins add pos : Nat) (rs : Option Nat) :
    ((lookQueued s l op b0 bins add pos rs).tile (s.phys l)).lookQ = (s.tile (s.phys l)).lookQ ++ [op] := by
  rw [lookQueued, State.modTile_tile_same]
  rfl

theorem lookQueued_seqr (s : State) (l : Nat) (op : LaccOp) (b0 bins add pos : Nat) (rs : Option Nat) :
    (lookQueued s l op b0 bins add pos rs).seqr (.tile l) = s.seqr (.tile l) := by
  unfold lookQueued
  apply modTile_seqr
  exact fun _ => rfl

theorem lookAttached_lookQ (s : State) (l q p : Nat) : ((lookAttached s l q).tile p).lookQ = (s.tile p).lookQ := by
  rw [lookAttached, State.modTile_tile]
  split
  · next h => exact h ▸ rfl
  · rfl

theorem lookAttached_lookRings (s : State) (l q : Nat) : q ∈ ((lookAttached s l q).tile (s.phys l)).lookRings := by
  rw [lookAttached, State.modTile_tile_same]
  exact mem_attached ..

theorem lookAttached_cons (s : State) (l q : Nat) : ((lookAttached s l q).ring q).cons = some (.look l) := by
  have h : (lookAttached s l q).ring q = (s.modRing q (fun g => { g with cons := some (.look l) })).ring q := rfl
  rw [h, State.modRing_ring_same]

theorem advance_lookQ (s : State) (l : Nat) (n : W64) (p : Nat) : ((advance s (.tile l) n).tile p).lookQ = (s.tile p).lookQ := by
  obtain ⟨hs, window, seqr, ht⟩ := advance_tile_units s l n p
  rw [ht]

theorem advance_lookRings (s : State) (l : Nat) (n : W64) (p : Nat) :
    ((advance s (.tile l) n).tile p).lookRings = (s.tile p).lookRings := by
  obtain ⟨hs, window, seqr, ht⟩ := advance_tile_units s l n p
  rw [ht]

theorem lookAttached_seqr (s : State) (l q : Nat) : (lookAttached s l q).seqr (.tile l) = s.seqr (.tile l) := by
  unfold lookAttached
  rw [modTile_seqr]
  · rfl
  · exact fun _ => rfl

theorem advance_tile_ring (s : State) (l : Nat) (n : W64) (r : Nat) : (advance s (.tile l) n).ring r = s.ring r := by
  rw [advance_tile_frame]
  rfl

/-- Settles O13: an operation that keeps the rules passes every check and finds room in the lookup queue. -/
theorem lookupsEnqueue : Obligations.LookupsEnqueue := by
  unfold Obligations.LookupsEnqueue
  refine ⟨?_, ?_⟩
  · intro s l a k g aw h bin0 m blk0 nblk n woff r hr hx hrun t0 rows ch nb total hhalf hfits ha hbank hrange hroom
    have hhr : (if h = true then (s.tile (s.phys l)).iss1 else (s.tile (s.phys l)).iss0) = some hr := hhalf
    have hwf : ({ wf := wfLacc aw 0xFFFF woff, svc := false, long := true } : Form).allowed (.tile l) = true := rfl
    rw [exec_laccOf, issueLookup, issue_executes hx hwf, onTile_run hrun]
    simp only [hhr, if_true, ha, Option.getD_some]
    rw [if_neg (not_not_intro ?_), if_neg (Nat.not_le_of_lt hroom), takeIseq_modTile]
    · rfl
    · obtain ⟨haccepts, hrows, hblks, hbins, -⟩ := id hfits
      simp only [firstFlt_append, firstFlt_cons, firstFlt_nil, and_true, faultIf_eq_none, Bool.not_eq_false', reduceCtorEq, or_false,
        Bool.or_eq_false_iff, decide_eq_false_iff_not, Nat.not_lt]
      exact ⟨⟨⟨⟨hbank, hrange⟩, scales_of_fits hfits⟩, haccepts, ⟨hrows, hblks⟩, hbins, binsMatch_of_fits hfits⟩, binLimit_of_fits hfits⟩
  · intro s l k g h bin0 m blk0 nblk wring n r hr hx hrun hwring t0 q hhalf hfits hkind hctx hslot hcons hroom
    have hhr : (if h = true then (s.tile (s.phys l)).iss1 else (s.tile (s.phys l)).iss0) = some hr := hhalf
    have hwf : ({ wf := wfLacc 0 wring 0, svc := false, long := true } : Form).allowed (.tile l) = true := by
      simp [Form.allowed, wfLacc, Core.isTile]
    rw [exec_laccOf, issueLookup, issue_executes hx hwf, onTile_run hrun]
    simp only [hhr, hwring, if_false]
    rw [if_neg (not_not_intro ?_), if_neg (Nat.not_le_of_lt hroom), takeIseq_modTile]
    · simp only [finish]
      refine ⟨advance (lookAttached (lookQueued s l _ _ _ _ _ _) l wring.toNat) (.tile l) 16, rfl, advance_mem .., ?_, ?_, ?_, ?_⟩
      · rw [advance_tile_ring, lookAttached_cons]
      · exact ⟨_, (advance_lookQ ..).trans ((lookAttached_lookQ ..).trans (lookQueued_lookQ ..)), rfl, rfl, rfl, rfl, rfl, rfl, rfl, rfl⟩
      · rw [advance_lookRings]
        exact lookAttached_lookRings ..
      · rw [advance_core, lookAttached_seqr, lookQueued_seqr]
    · obtain ⟨haccepts, hrows, hblks, hbins, -⟩ := id hfits
      simp only [firstFlt_append, firstFlt_cons, firstFlt_nil, and_true, faultIf_eq_none, Bool.not_eq_false', reduceCtorEq, or_false,
        Bool.or_eq_false_iff, decide_eq_false_iff_not, Nat.not_lt]
      exact ⟨⟨⟨⟨ringPlaceFlt_of_ok hkind hctx, hslot⟩, scales_of_fits hfits⟩, haccepts, ⟨hrows, hblks⟩, hbins, binsMatch_of_fits hfits,
        consFree_of_ok hcons⟩, binLimit_of_fits hfits⟩

end Sys2Proof.Proofs
end

section
/-! Opens and closes of bins and attention operations that enter their queues (06, R272 to R275). -/

namespace Sys2Proof.Proofs
open Sys2Proof Sys2Proof.Machine

/-! ## Reads of Millpond -/

theorem modMpd_modMpd (s : State) (p : Nat) (f g : Mpd → Mpd) : (s.modMpd p f).modMpd p g = s.modMpd p (fun m => g (f m)) :=
  modTile_modTile ..

theorem touch_mill (s : State) (p o : Nat) : touch s (.mill p o) =
    s.modMpd p (fun m => { m with banks := tmod {} m.banks (bankOf o) (fun b => b.reach (s.tile p).ticks) }) := rfl

theorem countCe_mill (s : State) (p o : Nat) : countCe s (.mill p o) = s.modMpd p (fun m => { m with ce := satAdd 32 m.ce 1 }) := rfl

theorem countUe_mill (s : State) (p o src : Nat) :
    countUe s (.mill p o) src = s.modMpd p (fun m => { m with ue := satAdd 32 m.ue 1 }) := rfl

/-- State `t` is `s` but for what tiles keep of their own Millpond: its counts, its banks and its pending write-backs. -/
def MpdOnly (s t : State) : Prop :=
  t = { s with tiles := t.tiles } ∧ ∀ q, t.tile q = { s.tile q with mpd := (t.tile q).mpd }

theorem MpdOnly.refl (s : State) : MpdOnly s s := ⟨rfl, fun _ => rfl⟩

theorem MpdOnly.trans {s t u : State} (h : MpdOnly s t) (h' : MpdOnly t u) : MpdOnly s u := by
  refine ⟨?_, fun q => ?_⟩
  · rw [h'.1, h.1]
  · rw [h'.2, h.2]

theorem mpdOnly_modMpd (s : State) (p : Nat) (f : Mpd → Mpd) : MpdOnly s (s.modMpd p f) := by
  refine ⟨rfl, fun q => ?_⟩
  rw [State.modMpd, State.modTile_tile]
  split
  · next h => rw [h]
  · rfl

theorem mpdOnly_readWord (s : State) (p o : Nat) : MpdOnly s (readWord s (.mill p o)).1 := by
  simp only [readWord, countCe_mill, countUe_mill, touch_mill, modMpd_modMpd]
  split
  all_goals
    dsimp only
    exact mpdOnly_modMpd ..

theorem mpdOnly_readWords (n : Nat) (s : State) (p o : Nat) : MpdOnly s (readWords s (.mill p o) n).1 := by
  induction n generalizing s o with
  | zero => exact .refl s
  | succ n ih => exact (mpdOnly_readWord s p o).trans (ih ..)

/-- A read of bytes reads whole words from the word that holds its first byte. -/
theorem readBytes_readWords (s : State) (pl : Place) (n : Nat) : ∃ base k, (readBytes s pl n).1 = (readWords s base k).1 ∧
    ∀ p o, pl = .mill p o → ∃ o', base = .mill p o' := by
  refine ⟨_, _, rfl, ?_⟩
  rintro p o rfl
  exact ⟨_, rfl⟩

/-- A read of bytes of Millpond changes what its tile keeps of its Millpond, and nothing else. R315 to R317. -/
theorem mpdOnly_readBytes {s s1 : State} {p o n : Nat} {bs : List Byte} {st : RdSt}
    (h : readBytes s (.mill p o) n = (s1, bs, st)) : MpdOnly s s1 := by
  obtain ⟨base, k, h1, hbase⟩ := readBytes_readWords s (.mill p o) n
  obtain ⟨o', rfl⟩ := hbase p o rfl
  rw [h] at h1
  have h2 : s1 = (readWords s (.mill p o') k).1 := h1
  exact h2 ▸ mpdOnly_readWords k s p o'

section
variable {s t : State} (h : MpdOnly s t)
include h

theorem MpdOnly.phys (l : Nat) : t.phys l = s.phys l := by rw [h.1]; rfl

theorem MpdOnly.mem_eq : t.mem = s.mem := by rw [h.1]

theorem MpdOnly.engine_eq (e : Nat) : t.engine e = s.engine e := by rw [h.1]; rfl

theorem MpdOnly.seqr_tile (l : Nat) : t.seqr (.tile l) = s.seqr (.tile l) := by
  show (t.tile (t.phys l)).seqr = (s.tile (s.phys l)).seqr
  rw [h.phys, h.2]
end

/-! ## bin.open -/

/-- The values of an open, read at issue. R241, R272. -/
def openOf (s : State) (l : Nat) (bin : BitVec 3) (src : BitVec 2) (anchMode : Bool) (head : BitVec 4) (gsMode gsize : BitVec 2)
    (nRow : BitVec 12) (linb : BitVec 3) (anch : BitVec 16) (nCh : BitVec 15) (pre gsa : Option Nat) : OpenOp where
  iseq := (s.tile (s.phys l)).iseq
  pc := (s.seqr (.tile l)).pc
  bin := bin.toNat
  preload := if src = 0 then none else some (pre.getD 0)
  clear := src == 2
  nRow := nRow.toNat + 1
  nCh := nCh.toNat + 1
  linBase := linb.toNat * 4096
  fixed := if anchMode then some anch.toInt else none
  head := head.toNat
  gs := gsModeOf gsMode.toNat
  gsAddr := if gsMode = 1 then gsa.getD 0 else 0
  gsize := if gsMode = 1 then gsizeOf gsize.toNat else 0

theorem gsModeOf_eq (m : BitVec 2) : nth .codebook [.none, .array] m.toNat = gsModeOf m.toNat := by
  have h := m.isLt
  interval_cases m.toNat <;> rfl

theorem gsizeOf_eq (m : BitVec 2) : nth 256 [64, 128] m.toNat = gsizeOf m.toNat := by
  have h := m.isLt
  interval_cases m.toNat <;> rfl

/-- The places of an open that passes: PRE_ADDR in the O bank, GS_ADDR in the A or O bank. R273. -/
theorem openPlaces_of_ok {s : State} {l ch : Nat} {r : Run} {src gsMode : BitVec 2} {pre gsa : Option Nat}
    (hpre : src ≠ 0 → ∃ a, pre = some a ∧ 32 ∣ a ∧ inBank 2 a 32768 = true ∧ ownRange s r l (src == 2) a 32768 = .none)
    (hgs : gsMode = 1 → ∃ a, gsa = some a ∧ 2 ∣ a ∧ (inBank 1 a 2 = true ∨ inBank 2 a 2 = true) ∧ ownRange s r l false a (2 * ch) = .none) :
    firstFlt (openRegsFlt src.toNat gsMode.toNat pre gsa) = .none ∧
      firstFlt (openPlaceFlt s r l src.toNat gsMode.toNat ch pre gsa) = .none := by
  have hsrc2 : (src.toNat == 2) = (src == 2) := toNat_beq_ofNat (k := 2) src (by decide)
  have hsrc : src.toNat ≠ 0 → src ≠ 0 := fun h h' => h (congrArg BitVec.toNat h')
  have hmode : gsMode.toNat = 1 → gsMode = 1 := fun h => BitVec.eq_of_toNat_eq h
  constructor
  · unfold openRegsFlt
    rw [firstFlt_cons, firstFlt_cons]
    refine ⟨?_, ?_, rfl⟩
    · by_cases h0 : src.toNat = 0
      · simp [h0]
      · obtain ⟨b, rfl, halign, -, -⟩ := hpre (hsrc h0)
        simp [Nat.mod_eq_zero_of_dvd halign]
    · by_cases h1 : gsMode.toNat = 1
      · obtain ⟨b, rfl, halign, -, -⟩ := hgs (hmode h1)
        simp [Nat.mod_eq_zero_of_dvd halign]
      · simp [h1]
  · refine (firstFlt_append _ _).2 ⟨?_, ?_⟩
    · by_cases h0 : src.toNat = 0
      · rw [if_pos h0, firstFlt_nil]
      · obtain ⟨b, rfl, -, hbank, hrange⟩ := hpre (hsrc h0)
        simp only [if_neg h0, hsrc2, hbank, hrange]
        rfl
    · by_cases h1 : gsMode.toNat = 1
      · obtain ⟨b, rfl, -, hbank, hrange⟩ := hgs (hmode h1)
        have hbanks : (inBank 1 b 2 || inBank 2 b 2) = true := by simpa using hbank
        simp only [if_neg (not_not_intro h1), hbanks, hrange]
        rfl
      · rw [if_pos h1, firstFlt_nil]

/-! ## bin.close -/

/-- A tile with a close more in its bin queue. R100, R202. -/
theorem enqClose_queued (s : State) (l bin : Nat) (dest : CloseDest) :
    enqClose s (.tile l) l bin dest = s.modTile (s.phys l) (fun t => { t with
      iseq := t.iseq + 1
      binQ := t.binQ ++ [.cls (({ iseq := (s.tile (s.phys l)).iseq, pc := (s.seqr (.tile l)).pc, bin := bin, dest := dest } :
        CloseOp).withFoot s l (tget {} (s.tile (s.phys l)).issBins bin))]
      issBins := tmod {} t.issBins bin BinIss.closing }) := by
  simp only [enqClose, takeIseq, modTile_modTile]
  exact modTile_congr rfl

theorem closeStore_enters {s : State} {l a ea : Nat} {r : Run} {bin : Nat} (hopen : (tget {} (s.tile (s.phys l)).issBins bin).st = .opened)
    (hroom : (s.tile (s.phys l)).binQ.length < 8) (ha : ownOff r l ea = some a) (halign : 32 ∣ a) (hbank : inBank 2 a 32768 = true)
    (hbit : ea.testBit 30 = false) (hrange : ownRange s r l true a 32768 = .none) :
    closeStore s (.tile l) l r bin ea = .done (enqClose s (.tile l) l bin (.p64Store a)) := by
  have hflt : firstFlt [faultIf (a % 32 != 0 || ea.testBit 30) .operandInvalid, faultIf (!inBank 2 a 32768) .operandInvalid,
      ownRange s r l true a 32768, faultIf ((tget {} (s.tile (s.phys l)).issBins bin).st != .opened) .operandInvalid] = .none := by
    simp [firstFlt_cons, firstFlt_nil, Nat.mod_eq_zero_of_dvd halign, hbank, hbit, hrange, hopen]
  simp only [closeStore, ha, hflt]
  rw [if_neg (not_not_intro rfl), if_neg (Nat.not_le_of_lt hroom)]

theorem closeAdd_enters {s : State} {l ea : Nat} {r : Run} {bin : Nat} (hopen : (tget {} (s.tile (s.phys l)).issBins bin).st = .opened)
    (hroom : (s.tile (s.phys l)).binQ.length < 8) (halign : 32 ∣ ea) (hrange : 2 ^ 63 ≤ ea ∨ mpRange s r l ea true 32768 = .none) :
    closeAdd s (.tile l) l r bin ea = .done (enqClose s (.tile l) l bin
      (.p64Add (BitVec.ofNat 64 (if 2 ^ 63 ≤ ea then ea else (mpNorm r l ea).getD ea)))) := by
  have hglob : (if 2 ^ 63 ≤ ea then Flt.none else mpRange s r l ea true 32768) = .none := by
    split
    · rfl
    · next h => exact hrange.resolve_left h
  have hflt : firstFlt [faultIf (ea % 32 != 0) .operandInvalid, if 2 ^ 63 ≤ ea then .none else mpRange s r l ea true 32768,
      faultIf ((tget {} (s.tile (s.phys l)).issBins bin).st != .opened) .operandInvalid] = .none := by
    rw [hglob]
    simp [firstFlt_cons, firstFlt_nil, Nat.mod_eq_zero_of_dvd halign, hopen]
  simp only [closeAdd, decide_eq_true_eq, hflt]
  rw [if_neg (not_not_intro rfl), if_neg (Nat.not_le_of_lt hroom)]

/-- Tile `l` with a close to the Tailrace in its bin queue, and a reference to the Grist slot that it names. R110, R210. -/
def closedTail (s : State) (l bin : Nat) (d : TailDesc) : State :=
  if d.grsEn then gtake (enqClose s (.tile l) l bin (.tailrace d)) d.grsSlot d.grsGen else enqClose s (.tile l) l bin (.tailrace d)

/-- A reference to a Grist slot changes that slot alone. -/
theorem closedTail_frame (s : State) (l bin : Nat) (d : TailDesc) :
    ∃ gs, closedTail s l bin d = { enqClose s (.tile l) l bin (.tailrace d) with gslots := gs } := by
  unfold closedTail
  split <;> exact ⟨_, rfl⟩

theorem closedTail_mem (s : State) (l bin : Nat) (d : TailDesc) : (closedTail s l bin d).mem = s.mem := by
  obtain ⟨gs, h⟩ := closedTail_frame s l bin d
  rw [h]
  rfl

theorem closedTail_tile {s : State} {l p : Nat} (hp : s.phys l = p) (bin : Nat) (d : TailDesc) : (closedTail s l bin d).tile p = {
    s.tile p with
      iseq := (s.tile p).iseq + 1
      binQ := (s.tile p).binQ ++ [.cls (({ iseq := (s.tile p).iseq, pc := (s.seqr (.tile l)).pc, bin := bin, dest := .tailrace d } :
        CloseOp).withFoot s l (tget {} (s.tile p).issBins bin))]
      issBins := tmod {} (s.tile p).issBins bin BinIss.closing } := by
  subst hp
  obtain ⟨gs, h⟩ := closedTail_frame s l bin d
  have htile : (closedTail s l bin d).tile (s.phys l) = (enqClose s (.tile l) l bin (.tailrace d)).tile (s.phys l) := by
    rw [h]
    rfl
  rw [htile, enqClose_queued, State.modTile_tile_same]

theorem closedTail_seqr (s : State) (l bin : Nat) (d : TailDesc) : (closedTail s l bin d).seqr (.tile l) = s.seqr (.tile l) := by
  have hphys : (closedTail s l bin d).phys l = s.phys l := by
    obtain ⟨gs, h⟩ := closedTail_frame s l bin d
    rw [h]
    rfl
  show ((closedTail s l bin d).tile ((closedTail s l bin d).phys l)).seqr = _
  rw [hphys, closedTail_tile rfl]
  rfl

/-- A close to the Tailrace that passes its checks. R110, R121, R210, R213. -/
theorem closeTail_enters {s s1 : State} {l a ea bin : Nat} {r : Run} {bs : List Byte} (ha : ownOff r l ea = some a) (halign : 64 ∣ a)
    (hbank : inBank 1 a 64 = true ∨ inBank 2 a 64 = true) (hrange : ownRange s r l false a 64 = .none)
    (hroom : (s.tile (s.phys l)).binQ.length < 8) (hread : readBytes s (.mill (s.phys l) a) 64 = (s1, bs, .ok))
    (hopen : (tget {} (s.tile (s.phys l)).issBins bin).st = .opened)
    (hfields : tailFieldsOk bs (tailDesc r l bs) (tget {} (s.tile (s.phys l)).issBins bin).nRow
      (tget {} (s.tile (s.phys l)).issBins bin).nCh r.rr.nGrist = true)
    (hplaces : ∀ f ∈ tailPlaces s r l (tailDesc r l bs) true (tget {} (s.tile (s.phys l)).issBins bin).nRow
      (tget {} (s.tile (s.phys l)).issBins bin).nCh (tget {} (s.tile (s.phys l)).issBins bin).linBase, f = Flt.none)
    (hgrist : (tailDesc r l bs).grsEn = true → (s.gslot (tailDesc r l bs).grsSlot).entryOf (tailDesc r l bs).grsGen ≠ none ∨
      (s.gslot (tailDesc r l bs).grsSlot).installing (tailDesc r l bs).grsGen = true) :
    closeTail s (.tile l) l r bin ea = .done (closedTail s1 l bin (tailDesc r l bs)) := by
  have hbanks : ¬ (a % 64 ≠ 0 ∨ (!(inBank 1 a 64 || inBank 2 a 64)) = true) := by
    rcases hbank with h | h <;> simp [Nat.mod_eq_zero_of_dvd halign, h]
  have hslot : ((tailDesc r l bs).grsEn && (s.gslot (tailDesc r l bs).grsSlot).entryOf (tailDesc r l bs).grsGen == none &&
      !(s.gslot (tailDesc r l bs).grsSlot).installing (tailDesc r l bs).grsGen) = false := by
    cases hen : (tailDesc r l bs).grsEn with
    | false => rfl
    | true => rcases hgrist hen with h | h <;> simp [h]
  unfold closeTail
  rw [ha]
  refine (if_neg hbanks).trans ((if_neg (not_not_intro hrange)).trans ((if_neg (Nat.not_le_of_lt hroom)).trans ?_))
  rw [hread]
  refine (if_neg (not_not_intro ?_)).trans rfl
  simp only [firstFlt_append, firstFlt_cons, firstFlt_nil, and_true, faultIf_eq_none, reduceCtorEq, or_false, hopen, hfields, hslot,
    beq_self_eq_true, bne_self_eq_false, Bool.not_true, true_and]
  exact (firstFlt_eq_none _).2 hplaces

/-! ## attn -/

theorem advance_tile_engine (s : State) (l : Nat) (n : W64) (e : Nat) : (advance s (.tile l) n).engine e = s.engine e := by
  rw [advance_tile_frame]
  rfl

theorem modEngine_seqr (s : State) (e l : Nat) (f : Engine → Engine) : (s.modEngine e f).seqr (.tile l) = s.seqr (.tile l) := rfl

theorem takeIseq_seqr (s : State) (l : Nat) : (takeIseq s l).1.seqr (.tile l) = s.seqr (.tile l) := by
  unfold takeIseq
  apply modTile_seqr
  exact fun _ => rfl

theorem execAttn_enters {s s1 : State} {l e : Nat} {g : Guard} {ab eng : BitVec 4} {off : BitVec 32} {r : Run} {pl : Place} {bs : List Byte}
    (hx : Executes s (.tile l) g []) (hrun : s.runOf l = some r) (halign : 64 ∣ (effAddr (s.seqr (.tile l)) ab off).toNat)
    (hrange : mpRange s r l (effAddr (s.seqr (.tile l)) ab off).toNat false 64 = .none)
    (hplace : mpPlace s r l (effAddr (s.seqr (.tile l)) ab off).toNat = some pl) (hread : readBytes s pl 64 = (s1, bs, .ok))
    (hfields : attnFieldsOk bs (attnDesc r l bs) = true) (hplaces : ∀ f ∈ attnPlaces s r l (attnDesc r l bs), f = .none)
    (he : r.engines[eng.toNat]? = some e) (hroom : (s.engine e).queue.length < 8) :
    execAttn (.tile l) g ab eng off s = .next (advance (((takeIseq s1 l).1).modEngine e (fun x => { x with
      queue := x.queue ++ [{ tile := l, iseq := (takeIseq s1 l).2, pc := (s.seqr (.tile l)).pc, desc := attnDesc r l bs }] }))
      (.tile l) 8) := by
  rw [execAttn, issue_executes hx rfl, onTile_run hrun]
  have hflt0 : firstFlt [faultIf ((effAddr (s.seqr (.tile l)) ab off).toNat % 64 != 0) .operandInvalid,
      mpRange s r l (effAddr (s.seqr (.tile l)) ab off).toNat false 64] = .none := by
    simp [firstFlt_cons, firstFlt_nil, Nat.mod_eq_zero_of_dvd halign, hrange]
  have hflt : firstFlt ([faultIf (RdSt.ok != .ok) .eccUncorrectable, faultIf (!attnFieldsOk bs (attnDesc r l bs)) .operandInvalid] ++
      attnPlaces s r l (attnDesc r l bs) ++ [faultIf (r.engines[eng.toNat]?).isNone .operandInvalid]) = .none := by
    rw [firstFlt_append, firstFlt_append, (firstFlt_eq_none _).2 hplaces, he, hfields]
    exact ⟨⟨rfl, rfl⟩, rfl⟩
  refine congrArg (fun i => Host.Outcome.next (finish (.tile l) { svc := false } i)) (a₂ := .done _) ?_
  refine (if_neg (not_not_intro hflt0)).trans ?_
  rw [hplace]
  dsimp only
  rw [hread]
  refine (if_neg (not_not_intro hflt)).trans ?_
  rw [he]
  exact if_neg (Nat.not_le_of_lt hroom)

/-- Settles O14: an instruction that keeps the rules passes every check of its list and finds room in its queue. -/
theorem binAndAttentionEnqueue : Obligations.BinAndAttentionEnqueue := by
  unfold Obligations.BinAndAttentionEnqueue
  refine ⟨?_, ?_, ?_, ?_⟩
  · intro s l g bin src anchMode head gsMode gsize apre ags nRow linb anch nCh r hx hr hwf t0 pre gsa hlin hpre hgs hst hroom o
    change execBinOpen (.tile l) g bin src anchMode head gsMode gsize apre ags nRow linb anch nCh s = _
    rw [execBinOpen, issue_executes hx (by simpa [Form.allowed, Core.isTile] using hwf), onTile_run hr]
    have ho : o = openOf s l bin src anchMode head gsMode gsize nRow linb anch nCh pre gsa := by
      simp only [o, openOf, gsModeOf_eq, gsizeOf_eq]
      rfl
    obtain ⟨hregs, hplaces⟩ := openPlaces_of_ok hpre hgs
    refine (congrArg (fun i => Host.Outcome.next (finish (.tile l) _ i)) ((if_neg (not_not_intro ?_)).trans
      ((if_neg (Nat.not_le_of_lt hroom)).trans (congrArg Iss.done (takeIseq_modTile s l _))))).trans ?_
    · simp only [firstFlt_append, firstFlt_cons, firstFlt_nil, and_true, faultIf_eq_none, reduceCtorEq, or_false,
        decide_eq_false_iff_not, Nat.not_le, beq_eq_false_iff_ne]
      exact ⟨⟨⟨hlin, hregs⟩, hplaces⟩, hst⟩
    · rw [ho]
      rfl
  · intro s l a g bin ab off r hx hr t0 ea b cls hst hroom
    refine ⟨fun ha halign hbank hbit hrange => ?_, fun halign hrange => ?_⟩
    · change execBinClose (.tile l) g bin 1 ab off s = _
      rw [execBinClose, issue_executes hx rfl, onTile_run hr]
      refine (congrArg (fun i => Host.Outcome.next (finish (.tile l) _ i))
        (closeStore_enters hst hroom ha halign hbank hbit hrange)).trans ?_
      rw [enqClose_queued]
      rfl
    · change execBinClose (.tile l) g bin 2 ab off s = _
      rw [execBinClose, issue_executes hx rfl, onTile_run hr]
      refine (congrArg (fun i => Host.Outcome.next (finish (.tile l) _ i)) (closeAdd_enters hst hroom halign hrange)).trans ?_
      rw [enqClose_queued]
      rfl
  · intro s s1 l a g bin ab off r bs hx hr t0 d b ha halign hbank hrange hroom hread hfields hst hplaces hgrist
    have hs1 := mpdOnly_readBytes hread
    have hex : exec (.binClose (.tile l) g bin 0 ab off) s = .next (advance (closedTail s1 l bin.toNat d) (.tile l) 8) := by
      change execBinClose (.tile l) g bin 0 ab off s = _
      rw [execBinClose, issue_executes hx rfl, onTile_run hr]
      exact congrArg (fun i => Host.Outcome.next (finish (.tile l) _ i))
        (closeTail_enters ha halign hbank hrange hroom hread hst hfields hplaces hgrist)
    obtain ⟨hs, window, seqr, ht⟩ := advance_tile_units (closedTail s1 l bin.toNat d) l 8 (s.phys l)
    have htile := closedTail_tile (hs1.phys l) bin.toNat d
    refine ⟨_, hex, ?_, ?_, ?_, ?_⟩
    · rw [advance_mem, closedTail_mem, hs1.mem_eq]
    · rw [ht, htile, hs1.2, hs1.seqr_tile]
      rfl
    · rw [ht, htile, hs1.2]
      dsimp only
      rw [tget_tmod, if_pos rfl]
      rfl
    · rw [advance_core, closedTail_seqr, hs1.seqr_tile]
  · intro s s1 l e g ab eng off r pl bs hx hr ea d halign hrange hplace hread hfields hplaces he hroom
    obtain ⟨x, -, rfl⟩ := Option.map_eq_some_iff.1 hplace
    have hs1 := mpdOnly_readBytes hread
    refine ⟨_, execAttn_enters hx hr halign hrange hplace hread hfields hplaces he hroom, ?_, ?_, ?_⟩
    · rw [advance_mem]
      exact hs1.mem_eq
    · rw [advance_tile_engine, State.modEngine_engine_same]
      exact congrArg (fun x => x.queue ++ _) (hs1.engine_eq e)
    · rw [advance_core, modEngine_seqr, takeIseq_seqr, hs1.seqr_tile]

end Sys2Proof.Proofs
end

section
/-! Operations that leave their queue and start (05, R204; 03, R105, R108, R109). -/

namespace Sys2Proof.Proofs
open Sys2Proof Sys2Proof.Machine

/-- No operation orders one that reads and writes nothing. R205. -/
theorem blocked_nothing (s : State) (l n : Nat) : blocked s l n [] [] = false := by
  simp [blocked, Foot.blocks, rngsHit]

/-- Handshakes of a tile change its counts alone. -/
theorem tileHs_units (s : State) (l n p : Nat) : (tileHs s l n).tile p = { s.tile p with
    hs := ((tileHs s l n).tile p).hs
    window := ((tileHs s l n).tile p).window } := by
  rw [tileHs_tile, State.modTile_tile]
  split
  · next h => rw [h]
  · rfl

theorem startHop_head {s : State} {l : Nat} {o : HopOp} {q : List HopOp} (hq : (s.tile (s.phys l)).hopQ = o :: q)
    (hrun : (s.tile (s.phys l)).hopRun = none) (hready : hopReady s l (s.tile (s.phys l)) o = true) :
    startHop s l = s.modTile (s.phys l) (fun t => { t with hopQ := q, hopRun := some o }) := by
  simp only [startHop, hq, hrun, List.head?_cons, hready, if_true]
  exact modTile_congr (by rw [hq]; rfl)

theorem startLook_head {s : State} {l : Nat} {o : LaccOp} {q : List LaccOp} {hr : HalfRec} (hq : (s.tile (s.phys l)).lookQ = o :: q)
    (hrun : (s.tile (s.phys l)).lookRun = none) (hhalf : ((s.tile (s.phys l)).half o.half).hr = some hr)
    (hready : laccReady s l (s.tile (s.phys l)) o = true) : startLook s l = s.modTile (s.phys l) (fun t => startLacc t o hr) := by
  simp only [startLook, hq, hrun, List.head?_cons, hhalf, hready, if_true]

/-- An open without a preload of a CLOSED bin takes its turn in one handshake. R105, R108. -/
theorem startBin_open {s : State} {l : Nat} {o : OpenOp} {q : List BinOp} (hq : (s.tile (s.phys l)).binQ = .opn o :: q)
    (hrun : (s.tile (s.phys l)).binRun = none) (hst : (tget {} (s.tile (s.phys l)).bins o.bin).st = .closed) (hpre : o.preload = none) :
    startBin s l = tileHs (s.modTile (s.phys l) (fun t => { t with binQ := q, bins := tset {} t.bins o.bin (openBin o) })) l 1 := by
  have hcauses : binCauses s l (.opn o) = [] := by
    simp [binCauses, hst, OpenOp.foot, hpre, blocked_nothing]
  simp only [startBin, hq, hrun, List.head?_cons, hcauses, hpre, List.isEmpty_nil, Bool.not_true, Bool.false_eq_true, if_false]
  exact congrArg (fun u => tileHs u l 1) (modTile_congr (by rw [hq]; rfl))

theorem startBin_close {s : State} {l : Nat} {o : CloseOp} {q : List BinOp} (hq : (s.tile (s.phys l)).binQ = .cls o :: q)
    (hrun : (s.tile (s.phys l)).binRun = none) (hpend : binPending (s.tile (s.phys l)) o.iseq o.bin = false)
    (hgroup : partialGroup (tget {} (s.tile (s.phys l)).bins o.bin) = none) (hblocked : blocked s l o.iseq o.reads o.writes = false) :
    startBin s l = s.modTile (s.phys l) (fun t => { t with
      binQ := q
      binRun := some (.cls o)
      bins := tset {} t.bins o.bin { tget {} (s.tile (s.phys l)).bins o.bin with st := .closing } }) := by
  have hcauses : binCauses s l (.cls o) = [] := by
    simp [binCauses, hpend, hgroup, CloseOp.foot, hblocked]
  simp only [startBin, hq, hrun, List.head?_cons, hcauses, hgroup, List.isEmpty_nil, Bool.not_true, Bool.false_eq_true, if_false]
  exact modTile_congr (by rw [hq]; rfl)

/-- An arm at the head of the stream and ring queue whose slot is free is the first operation that can start. R278, R722. -/
theorem startable_arm {s : State} {l n k i : Nat} {pc : W64} {d : StrmDesc} {refs : List GRef} {halt : Bool} {q : List StrmOp}
    (hfree : (s.slot k).st = .free) (hpass : passesEnded s k + 1 = i) :
    startable s l (.arm n pc k i d refs halt :: q) = some (.arm n pc k i d refs halt) := by
  have harms : ((StrmOp.arm n pc k i d refs halt :: q).filter StrmOp.starts).head? = some (.arm n pc k i d refs halt) := by
    rw [List.filter_cons_of_pos rfl, List.head?_cons]
  unfold startable
  rw [harms]
  exact List.find?_cons_of_pos (by simp [hfree, hpass])

theorem startStrmQ_arm {s : State} {l n k i : Nat} {pc : W64} {d : StrmDesc} {refs : List GRef} {halt : Bool} {q : List StrmOp} {r : Run}
    (hq : (s.tile (s.phys l)).strmQ = .arm n pc k i d refs halt :: q) (hr : s.runOf l = some r) (hfree : (s.slot k).st = .free)
    (hpass : passesEnded s k + 1 = i) : startStrmQ s l = startStrm (s.modTile (s.phys l) (fun t => { t with strmQ := q })) k r.rr.ctx
      (some r.rid) (some l) none (BitVec.ofNat 32 r.rr.seqno) d refs halt := by
  simp only [startStrmQ, hq, startable_arm hfree hpass, hr, List.erase_cons_head]

theorem startStrm_tile (s : State) (k ctx : Nat) (run tile svc : Option Nat) (seqno : W32) (d : StrmDesc) (refs : List GRef) (halt : Bool)
    (p : Nat) : (startStrm s k ctx run tile svc seqno d refs halt).tile p = s.tile p := rfl

/-- Settles O15: each unit's start is the one branch that its conditions select. -/
theorem queuedOperationsStart : Obligations.QueuedOperationsStart := by
  unfold Obligations.QueuedOperationsStart
  refine ⟨?_, ?_, ?_, ?_, ?_⟩
  · intro s l o q hq hrun hready
    exact congrArg Host.Outcome.next (startHop_head hq hrun hready)
  · intro s l o q hr hq hrun hhalf hready
    refine ⟨_, congrArg Host.Outcome.next (startLook_head hq hrun hhalf hready), ?_, ?_, rfl⟩
    · rw [State.modTile_tile_same, startLacc, hq]
      rfl
    · rw [State.modTile_tile_same]
      rfl
  · intro s l o q hq hrun hst hpre
    refine ⟨_, congrArg Host.Outcome.next (startBin_open hq hrun hst hpre), ?_, ?_, ?_, fun j hj => ?_⟩
    · rw [tileHs_units, State.modTile_tile_same]
    · rw [tileHs_frame]
      rfl
    · rw [tileHs_units, State.modTile_tile_same, tget_tset_same]
      simp [openBin, hpre]
    · rw [tileHs_units, State.modTile_tile_same, tget_tset_other _ _ _ hj]
  · intro s l o q hq hrun t0 b hpend hgroup hblocked
    exact congrArg Host.Outcome.next (startBin_close hq hrun hpend hgroup hblocked)
  · intro s l n k i pc d refs halt q r hq hr hfree hpass
    refine ⟨_, congrArg Host.Outcome.next (startStrmQ_arm hq hr hfree hpass), ?_, rfl, ?_⟩
    · rw [startStrm_tile, State.modTile_tile_same]
    · rw [startStrm]
      simp only [State.modSlot_slot_same]
      exact ⟨rfl, rfl, rfl, rfl, rfl, rfl, fun j hj => by rw [State.modSlot_slot, if_neg hj]; rfl⟩

end Sys2Proof.Proofs
end

section
/-! Words and bytes that a unit writes: what they leave in memory, and what else they change (05, R2; 07, R314). -/

namespace Sys2Proof.Proofs
open Sys2Proof Sys2Proof.Machine

/-! ## Places -/

theorem millKey_add (p o n : Nat) : millKey p (o + n) = millKey p o + n := by
  unfold millKey
  omega

theorem millKey_mod (p o : Nat) : millKey p o % 32 = o % 32 := by
  unfold millKey
  omega

theorem hostKey_add (a n : Nat) : hostKey (a + n) = hostKey a + n := by
  unfold hostKey
  omega

theorem key_plus (pl : Place) (n : Nat) : (pl.plus n).key = pl.key + n := by
  cases pl with
  | hbm a => rfl
  | mill p o => exact millKey_add p o n
  | host a => exact hostKey_add a n

/-! ## What words leave in memory -/

theorem byte_writeWord {s : State} {pl : Place} (h : pl.key % 32 = 0) (w : Word288) (j : Nat) :
    (writeWord s pl w).byte j = if pl.key ≤ j ∧ j < pl.key + 32 then byteOf w.1.toNat (j - pl.key) else s.byte j := by
  have hword (u : State) (hu : ∀ j, u.byte j = s.byte j) : (u.setWord pl.key w).byte j =
      if pl.key ≤ j ∧ j < pl.key + 32 then byteOf w.1.toNat (j - pl.key) else s.byte j := by
    rw [byte_setWord, hu]
    by_cases hj : j / 32 = pl.key / 32
    · rw [if_pos hj, if_pos (by omega), show j % 32 = j - pl.key by omega]
    · rw [if_neg hj, if_neg (by omega)]
  cases pl with
  | hbm a => exact hword _ (fun _ => rfl)
  | mill p o => exact hword _ (fun _ => rfl)
  | host a =>
    show (s.setNum (hostKey a) 32 w.1.toNat).byte j = if hostKey a ≤ j ∧ j < hostKey a + 32 then _ else _
    rw [State.setNum, byte_setBytes, natToBytes_length]
    split
    · next hj => exact nth_natToBytes _ (by omega)
    · rfl

theorem byte_writeWords (ws : List (BitVec 256)) {s : State} {pl : Place} (h : pl.key % 32 = 0) (j : Nat) :
    (writeWords s pl ws).byte j = if pl.key ≤ j ∧ j < pl.key + 32 * ws.length
      then byteOf (nth 0 ws ((j - pl.key) / 32)).toNat ((j - pl.key) % 32) else s.byte j := by
  induction ws generalizing s pl with
  | nil => rw [if_neg (by simp)]; rfl
  | cons w ws ih =>
    have hkey := key_plus pl 32
    rw [writeWords, ih (by omega), byte_writeWord h, hkey, List.length_cons]
    by_cases h1 : pl.key ≤ j ∧ j < pl.key + 32
    · rw [if_neg (by omega), if_pos h1, if_pos (by omega), show (j - pl.key) / 32 = 0 by omega,
        Nat.mod_eq_of_lt (show j - pl.key < 32 by omega)]
      rfl
    · rw [if_neg h1]
      by_cases h2 : pl.key + 32 ≤ j ∧ j < pl.key + 32 + 32 * ws.length
      · rw [if_pos h2, if_pos (by omega), show (j - pl.key) / 32 = (j - (pl.key + 32)) / 32 + 1 by omega,
          show (j - pl.key) % 32 = (j - (pl.key + 32)) % 32 by omega]
        rfl
      · rw [if_neg h2, if_neg (by omega)]

/-! ## What else a write to Millpond changes -/

/-- State `t` is `s` but for memory, its check bits and what tiles keep of their own Millpond. -/
def MillOnly (s t : State) : Prop :=
  t = { s with mem := t.mem, chk := t.chk, tiles := t.tiles } ∧ ∀ q, t.tile q = { s.tile q with mpd := (t.tile q).mpd }

theorem MillOnly.refl (s : State) : MillOnly s s := ⟨rfl, fun _ => rfl⟩

theorem MillOnly.trans {s t u : State} (h : MillOnly s t) (h' : MillOnly t u) : MillOnly s u := by
  refine ⟨?_, fun q => ?_⟩
  · rw [h'.1, h.1]
  · rw [h'.2, h.2]

theorem MpdOnly.millOnly {s t : State} (h : MpdOnly s t) : MillOnly s t := by
  refine ⟨?_, h.2⟩
  conv => lhs; rw [h.1]
  rw [h.1]

theorem millOnly_setWord (s : State) (k : Nat) (w : Word288) : MillOnly s (s.setWord k w) := ⟨rfl, fun _ => rfl⟩

theorem mpdOnly_dropWriteback (s : State) (p o : Nat) : MpdOnly s (dropWriteback (touch s (.mill p o)) (.mill p o)) := by
  have h := (mpdOnly_modMpd s p (fun m => { m with banks := tmod {} m.banks (bankOf o) (fun b => b.reach (s.tile p).ticks) })).trans
    (mpdOnly_modMpd _ p (fun m => { m with writeback := m.writeback.filter (fun w => w != o / 32) }))
  exact h

theorem millOnly_writeWord (s : State) (p o : Nat) (w : Word288) : MillOnly s (writeWord s (.mill p o) w) :=
  (mpdOnly_dropWriteback s p o).millOnly.trans (millOnly_setWord _ (millKey p o) w)

theorem millOnly_writeWords (ws : List (BitVec 256)) (s : State) (p o : Nat) : MillOnly s (writeWords s (.mill p o) ws) := by
  induction ws generalizing s o with
  | nil => exact .refl s
  | cons w ws ih => exact (millOnly_writeWord s p o _).trans (ih ..)

section
variable {s t : State} (h : MillOnly s t)
include h

theorem MillOnly.phys (l : Nat) : t.phys l = s.phys l := by rw [h.1]; rfl

theorem MillOnly.seqr_tile (l : Nat) : t.seqr (.tile l) = s.seqr (.tile l) := by
  show (t.tile (t.phys l)).seqr = (s.tile (s.phys l)).seqr
  rw [h.phys, h.2]
end

/-! ## Bytes as words -/

theorem chunks_length {α : Type} (n : Nat) (xs : List α) (k : Nat) : (chunks n xs k).length = k := by
  induction k generalizing xs with
  | zero => rfl
  | succ k ih => simp [chunks, ih]

theorem nth_eq_getElem {α : Type} (d : α) (xs : List α) {i : Nat} (h : i < xs.length) : nth d xs i = xs[i] := by
  induction xs generalizing i with
  | nil => simp at h
  | cons x xs ih =>
    cases i with
    | zero => rfl
    | succ i => exact ih (by simpa using h)

theorem nth_eq_getD {α : Type} (d : α) (xs : List α) (i : Nat) : nth d xs i = xs.getD i d := by
  induction xs generalizing i with
  | nil => simp [nth]
  | cons x xs ih =>
    cases i with
    | zero => rfl
    | succ i => rw [nth, ih, List.getD_cons_succ]

theorem nth_map {α β : Type} (d : α) (d' : β) (f : α → β) (xs : List α) {i : Nat} (h : i < xs.length) :
    nth d' (xs.map f) i = f (nth d xs i) := by
  rw [nth_eq_getElem _ _ (by simpa using h), nth_eq_getElem _ _ h, List.getElem_map]

theorem nth_chunks {α : Type} (d : List α) (n : Nat) (xs : List α) {k i : Nat} (h : i < k) :
    nth d (chunks n xs k) i = (xs.drop (n * i)).take n := by
  induction k generalizing xs i with
  | zero => omega
  | succ k ih =>
    cases i with
    | zero => simp [chunks, nth]
    | succ i => rw [chunks, nth, ih _ (by omega), List.drop_drop, show n + n * i = n * (i + 1) by ring]

/-- The bytes of a number that bytes make. R2. -/
theorem byteOf_bytesToNat (bs : List Byte) {i : Nat} (h : i < bs.length) : byteOf (bytesToNat bs) i = nth 0 bs i := by
  have h1 := nth_natToBytes (bytesToNat bs) h
  rw [natToBytes_bytesToNat] at h1
  exact h1.symm

theorem toWords_length (bs : List Byte) : (toWords bs).length = bs.length / 32 := by
  simp [toWords, chunks_length]

/-- The words of a byte string hold its bytes in order. -/
theorem byteOf_toWords {bs : List Byte} {i : Nat} (h : i < bs.length / 32 * 32) :
    byteOf (nth 0 (toWords bs) (i / 32)).toNat (i % 32) = nth 0 bs i := by
  have hi : i / 32 < bs.length / 32 := by omega
  have hlen : ((bs.drop (32 * (i / 32))).take 32).length = 32 := by
    rw [List.length_take, List.length_drop]
    omega
  have hlt : bytesToNat ((bs.drop (32 * (i / 32))).take 32) < 2 ^ 256 := by
    have h1 := bytesToNat_lt ((bs.drop (32 * (i / 32))).take 32)
    rw [hlen] at h1
    exact h1
  rw [toWords, nth_map ([] : List Byte) _ _ _ (by simpa [chunks_length] using hi), nth_chunks _ _ _ hi, BitVec.toNat_ofNat,
    Nat.mod_eq_of_lt hlt, byteOf_bytesToNat _ (by omega), nth_eq_getD, nth_eq_getD, List.getD_eq_getElem?_getD, List.getD_eq_getElem?_getD,
    List.getElem?_take_of_lt (by omega), List.getElem?_drop, Nat.div_add_mod]

end Sys2Proof.Proofs
end

section
/-! Builds, loads and saves of the table file complete (01, R16 to R44; 06, R260 to R265). -/

namespace Sys2Proof.Proofs
open Sys2Proof Sys2Proof.Machine

/-! ## Builds and loads -/

theorem mpdOnly_readAct (s : State) (p : Nat) (o : BuildOp) (r i : Nat) : MpdOnly s (readAct s p o r i).1 := by
  unfold readAct
  split
  · exact .refl s
  · exact mpdOnly_readWord ..

theorem mpdOnly_readActs (s : State) (p : Nat) (o : BuildOp) (r i n : Nat) : MpdOnly s (readActs s p o r i n).1 := by
  induction n generalizing s i with
  | zero => exact .refl s
  | succ n ih => exact (mpdOnly_readAct s p o r i).trans (ih ..)

theorem mpdOnly_readBytes_fst (s : State) (p o n : Nat) : MpdOnly s (readBytes s (.mill p o) n).1 := by
  obtain ⟨base, k, h, hbase⟩ := readBytes_readWords s (.mill p o) n
  obtain ⟨o', rfl⟩ := hbase p o rfl
  rw [h]
  exact mpdOnly_readWords ..

theorem mpdOnly_readCodebook (s : State) (p : Nat) (cb : Option Nat) : MpdOnly s (readCodebook s p cb).1 := by
  have h := fun a => mpdOnly_readBytes_fst s p a 1024
  obtain ⟨F, hF⟩ : ∃ F, F = readCodebook := ⟨_, rfl⟩
  obtain ⟨f, hf⟩ : ∃ f, f = readBytes := ⟨_, rfl⟩
  rw [← hF]
  delta readCodebook at hF
  rw [← hf] at h
  rw [← hf] at hF
  rw [hF]
  cases cb with
  | none => exact .refl s
  | some a => exact h a

theorem mpdOnly_buildBlocks (s : State) (p : Nat) (o : BuildOp) (cw : List (List Int)) (bad : Bool) (i : Nat) (h : Half) (n : Nat) :
    MpdOnly s (buildBlocks s p o cw bad i h n).1 ∧ (buildBlocks s p o cw bad i h n).2.hr = h.hr := by
  induction n generalizing s i h with
  | zero => exact ⟨.refl s, rfl⟩
  | succ n ih =>
    obtain ⟨hm, hh⟩ := ih (buildBlock s p o cw bad (i / o.hr.nb) (i % o.hr.nb) h).1 (i + 1)
      (buildBlock s p o cw bad (i / o.hr.nb) (i % o.hr.nb) h).2
    exact ⟨(mpdOnly_readActs ..).trans hm, hh⟩

/-- A build reads Millpond, and its half takes the record. R43, R262. -/
theorem buildHalf_spec (s : State) (p : Nat) (o : BuildOp) (h : Half) :
    MpdOnly s (buildHalf s p o h).1 ∧ (buildHalf s p o h).2.hr = some o.hr := by
  have h1 := mpdOnly_readCodebook s p o.hr.cb
  unfold buildHalf
  revert h1
  generalize readCodebook s p o.hr.cb = x
  obtain ⟨s1, cw, ok⟩ := x
  intro h1
  obtain ⟨hm, hh⟩ := mpdOnly_buildBlocks s1 p o cw (!ok) 0 { h with blocks := [], hr := some o.hr } (o.hr.m * o.hr.nb)
  exact ⟨h1.trans hm, hh⟩

theorem loadHalf_spec (s : State) (p : Nat) (o : BuildOp) :
    MpdOnly s (loadHalf s p o).1 ∧ (loadHalf s p o).2.hr = some o.hr := by
  have h := mpdOnly_readBytes_fst s p o.src imageBytes
  obtain ⟨F, hF⟩ : ∃ F, F = loadHalf := ⟨_, rfl⟩
  obtain ⟨f, hf⟩ : ∃ f, f = readBytes := ⟨_, rfl⟩
  rw [← hF]
  delta loadHalf at hF
  rw [← hf] at h hF
  rw [hF]
  exact ⟨h, rfl⟩

/-- The half that a build or load fills, in a tile whose Hopper is done. R39. -/
def halfDone (s : State) (l : Nat) (h : Bool) (x : Half) : State :=
  tileHs (s.modTile (s.phys l) (fun t => { t.setHalf h x with hopRun := none })) l 1

theorem half_setHalf (t : Tile) (h : Bool) (x : Half) : (t.setHalf h x).half h = x ∧ (t.setHalf h x).half (!h) = t.half (!h) := by
  cases h <;> exact ⟨rfl, rfl⟩

/-- Only one half of one tile changes, and its Hopper is free. -/
theorem halfDone_spec {s s1 : State} (hs : MpdOnly s s1) (l : Nat) (h : Bool) (x : Half) :
    (halfDone s1 l h x).mem = s.mem ∧ ((halfDone s1 l h x).tile (s.phys l)).hopRun = none ∧
      ((halfDone s1 l h x).tile (s.phys l)).half h = x ∧
      ((halfDone s1 l h x).tile (s.phys l)).half (!h) = (s.tile (s.phys l)).half (!h) := by
  have hmem : (halfDone s1 l h x).mem = s1.mem := by
    rw [halfDone, tileHs_frame]
    rfl
  have htile : ∃ hs window, (halfDone s1 l h x).tile (s.phys l) =
      { (s1.tile (s.phys l)).setHalf h x with hopRun := none, hs := hs, window := window } := by
    rw [halfDone, tileHs_units, hs.phys, State.modTile_tile_same]
    exact ⟨_, _, rfl⟩
  obtain ⟨n, w, htile⟩ := htile
  rw [hmem, htile]
  refine ⟨hs.mem_eq, rfl, (half_setHalf _ h x).1, (half_setHalf _ h x).2.trans ?_⟩
  rw [hs.2]
  cases h <;> rfl

theorem tableBuildDone_build {s : State} {l n : Nat} {o : BuildOp} (h : (s.tile (s.phys l)).hopRun = some (.build n o)) :
    execTableBuildDone l s = .next (halfDone (buildHalf s (s.phys l) o ((s.tile (s.phys l)).half o.half)).1 l o.half
      (buildHalf s (s.phys l) o ((s.tile (s.phys l)).half o.half)).2) := by
  have hphys := (buildHalf_spec s (s.phys l) o ((s.tile (s.phys l)).half o.half)).1.phys l
  rw [halfDone]
  obtain ⟨F, hF⟩ : ∃ F, F = execTableBuildDone := ⟨_, rfl⟩
  obtain ⟨f, hf⟩ : ∃ f, f = buildHalf := ⟨_, rfl⟩
  obtain ⟨f', hf'⟩ : ∃ f, f = loadHalf := ⟨_, rfl⟩
  rw [← hF]
  delta execTableBuildDone at hF
  rw [← hf, ← hf'] at hF
  rw [← hf] at hphys ⊢
  rw [hF]
  simp only [h, hphys]

theorem tableBuildDone_load {s : State} {l n : Nat} {o : BuildOp} (h : (s.tile (s.phys l)).hopRun = some (.load n o)) :
    execTableBuildDone l s = .next (halfDone (loadHalf s (s.phys l) o).1 l o.half (loadHalf s (s.phys l) o).2) := by
  have hphys := (loadHalf_spec s (s.phys l) o).1.phys l
  rw [halfDone]
  obtain ⟨F, hF⟩ : ∃ F, F = execTableBuildDone := ⟨_, rfl⟩
  obtain ⟨f, hf⟩ : ∃ f, f = buildHalf := ⟨_, rfl⟩
  obtain ⟨f', hf'⟩ : ∃ f, f = loadHalf := ⟨_, rfl⟩
  rw [← hF]
  delta execTableBuildDone at hF
  rw [← hf, ← hf'] at hF
  rw [← hf'] at hphys ⊢
  rw [hF]
  simp only [h, hphys]

/-! ## Saves -/

theorem length_flatMap_const {α β : Type} (f : α → List β) (n : Nat) (hf : ∀ x, (f x).length = n) (xs : List α) :
    (xs.flatMap f).length = n * xs.length := by
  induction xs with
  | nil => rfl
  | cons x xs ih => rw [List.flatMap_cons, List.length_append, hf, ih, List.length_cons]; ring

/-- The image of a half is 65,536 table words and 2,048 block records. R264. -/
theorem saveImage_length (h : Half) : (saveImage h).length = 135168 := by
  unfold saveImage
  rw [List.length_append, length_flatMap_const _ 2 (fun i => natToBytes_length ..), length_flatMap_const _ 2 ?_, List.length_range,
    List.length_range]
  intro b
  dsimp only
  split <;> split <;> rfl

/-- The state after a save. R44. -/
def saveDone (s : State) (l a : Nat) (img : List Byte) : State :=
  tileHs ((writeWords s (.mill (s.phys l) a) (toWords img)).modTile (s.phys l) (fun t => { t with hopRun := none })) l 1

theorem tableSaveDone_save {s : State} {l n a : Nat} {pc : W64} {h : Bool} {r : Run}
    (hrun : (s.tile (s.phys l)).hopRun = some (.save n pc h a)) (hr : s.runOf l = some r) (hact : r.phase = .active) :
    execTableSaveDone l s = .next (saveDone s l a (saveImage ((s.tile (s.phys l)).half h))) := by
  have htile : tileActive s l = true := by simp [tileActive, hr, hact]
  rw [execTableSaveDone, saveDone]
  dsimp only
  rw [hrun]
  simp only [htile, Bool.not_true, Bool.false_eq_true, if_false]

theorem saveDone_byte {s : State} {l a : Nat} {img : List Byte} (ha : 32 ∣ a) (himg : img.length = 135168) (j : Nat) :
    (saveDone s l a img).byte j = if millKey (s.phys l) a ≤ j ∧ j < millKey (s.phys l) a + 135168
      then nth 0 img (j - millKey (s.phys l) a) else s.byte j := by
  have hmem : (saveDone s l a img).mem = (writeWords s (.mill (s.phys l) a) (toWords img)).mem := by
    rw [saveDone, tileHs_frame]
    rfl
  have hkey : (Place.mill (s.phys l) a).key % 32 = 0 := (millKey_mod ..).trans (Nat.mod_eq_zero_of_dvd ha)
  have hplace : (Place.mill (s.phys l) a).key = millKey (s.phys l) a := rfl
  rw [byte_congr hmem, byte_writeWords _ hkey, toWords_length, himg, hplace]
  split
  · next h => exact byteOf_toWords (by omega)
  · rfl

theorem saveDone_hopRun (s : State) (l a : Nat) (img : List Byte) : ((saveDone s l a img).tile (s.phys l)).hopRun = none := by
  rw [saveDone, tileHs_units, State.modTile_tile_same]

/-- Settles O16: a build or load fills its half from what it reads, and a save writes the words of its image. -/
theorem tableOperationsComplete : Obligations.TableOperationsComplete := by
  unfold Obligations.TableOperationsComplete
  refine ⟨?_, ?_, ?_, ?_, ?_⟩
  · intro s p r i o h
    rw [readAct, if_pos h]
  · intro s p r k o cw bad h d vs h'
    exact ⟨tget_tset_same .., fun j hj => tget_tset_other _ _ _ hj⟩
  · intro s l n o h
    obtain ⟨hmpd, hhr⟩ := buildHalf_spec s (s.phys l) o ((s.tile (s.phys l)).half o.half)
    obtain ⟨hmem, hrun, hhalf, hother⟩ := halfDone_spec hmpd l o.half (buildHalf s (s.phys l) o ((s.tile (s.phys l)).half o.half)).2
    exact ⟨_, tableBuildDone_build h, hmem, hrun, by rw [hhalf, hhr], hhalf, hother⟩
  · intro s l n o h
    obtain ⟨hmpd, hhr⟩ := loadHalf_spec s (s.phys l) o
    obtain ⟨hmem, hrun, hhalf, hother⟩ := halfDone_spec hmpd l o.half (loadHalf s (s.phys l) o).2
    exact ⟨_, tableBuildDone_load h, hmem, hrun, by rw [hhalf, hhr], hhalf, hother⟩
  · intro s l n a pc h r hrun ha hr hact
    have hbyte := saveDone_byte (s := s) (l := l) ha (saveImage_length ((s.tile (s.phys l)).half h))
    refine ⟨_, tableSaveDone_save hrun hr hact, saveDone_hopRun .., fun i hi => ?_, fun j hj => ?_⟩
    · rw [hbyte, if_pos (by omega), Nat.add_sub_cancel_left]
    · rw [hbyte, if_neg (by omega)]

end Sys2Proof.Proofs
end

section
/-! Waves of a lookup-accumulate add to their bins, and raises move the anchor (01, R45 to R48; 03, R81 to R98). -/

namespace Sys2Proof.Proofs
open Sys2Proof Sys2Proof.Machine

/-! ## The values of a wave -/

theorem mpdOnly_readImage (n : Nat) (s : State) (p o : Nat) : MpdOnly s (readImage s (.mill p o) n).1 := by
  induction n generalizing s o with
  | zero => exact .refl s
  | succ n ih => exact (mpdOnly_readWord s p o).trans (ih ..)

/-- Every value of a wave has an accumulator of its own. R47. -/
theorem waveValues_nodup (h : Half) (hr : HalfRec) (o : LaccOp) (blk plane cw row : Nat) (bs : List Byte) (bad : List Bool) (base : Nat) :
    ((waveValues h hr o blk plane cw row bs bad base).map Prod.fst).Nodup := by
  rw [waveValues, List.map_map]
  refine List.Nodup.map_on ?_ List.nodup_range
  intro i _ j _ hij
  exact Nat.add_left_cancel hij

theorem valsFor_nodup {vs : List (Nat × Int × Int × Bool)} (h : (vs.map Prod.fst).Nodup) (k : Nat) :
    ((valsFor vs k).map Prod.fst).Nodup := by
  rw [valsFor, List.map_map]
  have hsub : ((vs.filter (fun v => v.1 / 4096 == k)).map Prod.fst).Nodup := h.sublist (List.filter_sublist.map _)
  refine (List.nodup_map_iff_inj_on (List.Nodup.of_map _ hsub)).2 ?_
  intro v hv w hw hvw
  have hv' := beq_iff_eq.1 (List.mem_filter.1 hv).2
  have hw' := beq_iff_eq.1 (List.mem_filter.1 hw).2
  have hkey : v.1 = w.1 := by
    have hmod : v.1 % 4096 = w.1 % 4096 := hvw
    omega
  exact List.inj_on_of_nodup_map hsub hv hw hkey

theorem mem_valsFor {vs : List (Nat × Int × Int × Bool)} {v : Nat × Int × Int × Bool} (hv : v ∈ vs) {k : Nat} (hk : v.1 / 4096 = k) :
    (v.1 % 4096, v.2) ∈ valsFor vs k :=
  List.mem_map.2 ⟨v, List.mem_filter.2 ⟨hv, beq_iff_eq.2 hk⟩, rfl⟩

/-! ## Entering the values -/

/-- What an accumulator holds after a value has entered it without group scaling. R81, R87. -/
def entered (a : Option Int) (v : Int × Int × Bool) (was : Acc) : Acc :=
  if v.2.2 then { was with poison := true }
  else match a with
    | none => was
    | some a => { was with acc := was.acc + rneAt v.1 v.2.1 a }

theorem tget_enterVal (a : Option Int) (t : Tab Acc) (v : Nat × Int × Int × Bool) (j : Nat) :
    tget {} (enterVal false a t v) j = if j = v.1 then entered a v.2 (tget {} t j) else tget {} t j := by
  unfold enterVal entered
  split
  · rw [tget_tmod]
    split
    · next h => rw [h]
    · rfl
  · cases a with
    | none => exact (ite_self _).symm
    | some a =>
      dsimp only
      rw [tget_tmod]
      split
      · next h => rw [h]; rfl
      · rfl

theorem tget_enterVals_other (a : Option Int) (vs : List (Nat × Int × Int × Bool)) (t : Tab Acc) {j : Nat}
    (hj : j ∉ vs.map Prod.fst) : tget {} (vs.foldl (enterVal false a) t) j = tget {} t j := by
  induction vs generalizing t with
  | nil => rfl
  | cons v vs ih =>
    rw [List.map_cons, List.mem_cons, not_or] at hj
    rw [List.foldl_cons, ih _ hj.2, tget_enterVal, if_neg hj.1]

/-- Each accumulator takes the one value that is for it. -/
theorem tget_enterVals (a : Option Int) {vs : List (Nat × Int × Int × Bool)} (t : Tab Acc) (hvs : (vs.map Prod.fst).Nodup)
    {v : Nat × Int × Int × Bool} (hv : v ∈ vs) :
    tget {} (vs.foldl (enterVal false a) t) v.1 = entered a v.2 (tget {} t v.1) := by
  induction vs generalizing t with
  | nil => cases hv
  | cons w vs ih =>
    rw [List.map_cons, List.nodup_cons] at hvs
    rw [List.foldl_cons]
    rcases List.mem_cons.1 hv with rfl | hv
    · rw [tget_enterVals_other _ _ _ hvs.1, tget_enterVal, if_pos rfl]
    · have hne : v.1 ≠ w.1 := fun h => hvs.1 (h ▸ List.mem_map_of_mem hv)
      rw [ih _ hvs.2 hv, tget_enterVal, if_neg hne]

/-! ## A wave of one bin -/

theorem hits_one {r : LaccRun} {hr : HalfRec}
    (h : (r.row * r.op.n + min r.op.n ((r.cw + 1) * treesOf hr.width) - 1) / 4096 = (r.row * r.op.n + r.cw * treesOf hr.width) / 4096) :
    r.hits hr = [(r.row * r.op.n + r.cw * treesOf hr.width) / 4096] := by
  unfold LaccRun.hits
  dsimp only
  rw [h, Nat.sub_self]
  rfl

/-- A wave without a raise gives the bin at most an anchor. R86. -/
theorem waveAnchor_fields {b : Bin} {nz : Bool} {vs : List (Nat × Int × Int × Bool)} (h : (waveAnchor b nz vs).2 = false) :
    (waveAnchor b nz vs).1 = { b with anchor := (waveAnchor b nz vs).1.anchor } := by
  unfold waveAnchor at h ⊢
  split
  · rfl
  · split
    · dsimp only
      split <;> rfl
    · next hb =>
      split
      · next hlt => simp_all
      · rfl

theorem groupEnds_none {b : Bin} (h : b.gs = .none) (r : LaccRun) (bpos : Nat) : groupEnds b r bpos = none := by
  unfold groupEnds
  dsimp only
  rw [h]
  exact ite_self _

/-- The tile after a wave of one bin. R81, R87. -/
def waved (t : Tile) (bi : Nat) (b : Bin) (vs : List (Nat × Int × Int × Bool)) (r : LaccRun) : Tile :=
  { t with
    bins := tset {} t.bins bi { b with acc := vs.foldl (enterVal false b.anchor) b.acc }
    lookRun := some r }

/-- A bin that has its anchor takes the values of the wave. R81, R87. -/
theorem deliver_anchored (s : State) (p bi : Nat) {b : Bin} (hb : b.gs = .none) (r : LaccRun) (bpos : Nat)
    (vs : List (Nat × Int × Int × Bool)) (r' : LaccRun) :
    (deliver (s.modTile p (fun t => { t with bins := tset {} t.bins bi b })) p bi
        (groupEnds (tget {} ((s.modTile p (fun t => { t with bins := tset {} t.bins bi b })).tile p).bins bi) r bpos) vs).modTile p
      (fun t => { t with lookRun := some r' }) = s.modTile p (fun t => waved t bi b vs r') := by
  have hbin : tget {} ((s.modTile p (fun t => { t with bins := tset {} t.bins bi b })).tile p).bins bi = b := by
    rw [State.modTile_tile_same]
    exact tget_tset_same ..
  have hgroup : (b.gs != .none) = false := by
    rw [hb]
    rfl
  rw [hbin, groupEnds_none hb, deliver, hbin, hgroup, modTile_modTile, modTile_modTile]
  refine modTile_congr ?_
  dsimp only
  rw [tset_tset]
  rfl

theorem doWave_one {s s2 : State} {l k : Nat} {run : Run} {r r' : LaccRun} {hr : HalfRec} {bs : List Byte} {bad : List Bool}
    (hring : r.op.ring = none) (hnext : r.next hr.width = some r') (hhits : r.hits hr = [k])
    (hown : rangeOwned s run.rr.ctx (s.phys l) (r.op.addr + r.image * waveBytes hr.enc hr.width) (waveBytes hr.enc hr.width) = true)
    (hraise : (tget {} (s.tile (s.phys l)).bins (r.op.bin0 + k)).raise = none)
    (hgs : (tget {} (s.tile (s.phys l)).bins (r.op.bin0 + k)).gs = .none)
    (hread : readImage s (.mill (s.phys l) ((r.op.addr + r.image * waveBytes hr.enc hr.width) / 32 * 32))
      (ceilDiv ((r.op.addr + r.image * waveBytes hr.enc hr.width) % 32 + waveBytes hr.enc hr.width) 32) = (s2, bs, bad))
    (hbins : (s2.tile (s.phys l)).bins = (s.tile (s.phys l)).bins)
    {vs : List (Nat × Int × Int × Bool)} (hvs : vs = waveValues ((s.tile (s.phys l)).half r.op.half) hr r.op r.blk r.plane r.cw r.row bs bad
      (r.op.addr + r.image * waveBytes hr.enc hr.width))
    {w : Bin × Bool} (hw : w = waveAnchor (tget {} (s.tile (s.phys l)).bins (r.op.bin0 + k))
      ((tget {} ((s.tile (s.phys l)).half r.op.half).blocks (r.row * hr.nb + r.blk)).s != 0) (valsFor vs k))
    (hw2 : w.2 = false) :
    doWave s l run r hr = tileHs (s2.modTile (s.phys l) (fun t => waved t (r.op.bin0 + k) w.1 (valsFor vs k) r')) l 1 := by
  have hwgs : w.1.gs = .none := by
    rw [hw] at hw2
    rw [hw, waveAnchor_fields hw2]
    exact hgs
  have hholds : raiseHolds (s.tile (s.phys l)) r hr = false := by
    rw [raiseHolds, hhits, List.any_cons, hraise]
    rfl
  have hslot : waveSlot s l r = some (s, r, r.image) := by
    rw [waveSlot, hring]
  obtain ⟨F, hF⟩ : ∃ F, F = doWave := ⟨_, rfl⟩
  obtain ⟨f, hf⟩ : ∃ f, f = readImage := ⟨_, rfl⟩
  rw [← hF]
  delta doWave at hF
  rw [← hf] at hF hread
  rw [hF]
  simp only [hholds, hslot, hhits, hring, hread, hown, hbins, ← hvs, ← hw, hw2, hnext, List.map_cons, List.map_nil, List.any_cons, List.any_nil,
    Option.isSome_none, Bool.false_eq_true, if_false, Bool.not_true, Bool.or_self, List.foldl_cons, List.foldl_nil]
  exact congrArg (fun x => tileHs x l 1) (deliver_anchored s2 (s.phys l) (r.op.bin0 + k) hwgs r hr.bpos (valsFor vs k) r')

/-! ## A raise -/

theorem rneDiv_zero (n : Nat) : rneDiv 0 n = 0 := by
  have hpos : (0 : Int) < 2 ^ (n - 1) := by positivity
  unfold rneDiv
  simp [hpos]

/-- An accumulator rounded to an anchor that is `n` higher. R90. -/
def Acc.shifted (x : Acc) (n : Nat) : Acc := { x with acc := rneDiv x.acc n, grp := rneDiv x.grp n }

theorem Acc.shifted_default (n : Nat) : Acc.shifted {} n = {} := by
  rw [Acc.shifted, rneDiv_zero]

theorem tget_of_tfree {α : Type} (d : α) {t : Tab α} {j : Nat} (h : tfree t j) : tget d t j = d := by
  induction t with
  | nil => rfl
  | cons p t ih =>
    rw [tget_cons, if_neg (h p (List.mem_cons_self ..))]
    exact ih fun q hq => h q (List.mem_cons_of_mem _ hq)

/-- Changing every value of a table with one entry for each key. -/
theorem tget_map_filter {α : Type} [DecidableEq α] (d : α) (f : α → α) (hf : f d = d) (t : Tab α) (h : tsorted t = true) (j : Nat) :
    tget d ((t.map (fun x => (x.1, f x.2))).filter (fun x => x.2 != d)) j = f (tget d t j) := by
  induction t with
  | nil => exact hf.symm
  | cons p t ih =>
    obtain ⟨i, v⟩ := p
    obtain ⟨hlt, ht⟩ := (tsorted_cons ..).1 h
    have hfree : tfree t i := fun x hx => (hlt x hx).ne'
    rw [List.map_cons, List.filter_cons, tget_cons]
    split
    · rw [tget_cons, ih ht]
      split <;> rfl
    · next hd =>
      have hd : f v = d := by simpa using hd
      rw [ih ht]
      split
      · next hij => rw [← hij, tget_of_tfree d hfree, hf, hd]
      · rfl

theorem raised_acc {b : Bin} {rs : Raise} {a : Int} (ha : b.anchor = some a) (hp : rs.prods = []) (hwf : twf {} b.acc = true) (j : Nat) :
    tget {} (b.raised rs).acc j = Acc.shifted (tget {} b.acc j) (rs.dest - a).toNat := by
  rw [Bin.raised, ha, hp]
  exact tget_map_filter {} (fun x => Acc.shifted x (rs.dest - a).toNat) (Acc.shifted_default _) b.acc ((twf_iff ..).1 hwf).1 j

theorem raised_anchor (b : Bin) (rs : Raise) : (b.raised rs).anchor = some rs.dest ∧ (b.raised rs).raise = none := by
  unfold Bin.raised
  split <;> exact ⟨rfl, rfl⟩

/-- Handshakes of a tile that has changed no memory. -/
theorem tileHs_modTile (s : State) (l n : Nat) (f : Tile → Tile) :
    (tileHs (s.modTile (s.phys l) f) l n).mem = s.mem ∧
    (tileHs (s.modTile (s.phys l) f) l n).tile (s.phys l) = { f (s.tile (s.phys l)) with
      hs := ((f (s.tile (s.phys l))).hs + n) % 2 ^ 64
      window := (f (s.tile (s.phys l))).window + n } := by
  constructor
  · rw [tileHs_frame]
    rfl
  · have hphys : (s.modTile (s.phys l) f).phys l = s.phys l := rfl
    rw [tileHs_tile, hphys, State.modTile_tile_same, State.modTile_tile_same]

theorem execWave_runs {s : State} {l : Nat} {r : LaccRun} {run : Run} {hr : HalfRec} (hlook : (s.tile (s.phys l)).lookRun = some r)
    (hrun : s.runOf l = some run) (hhalf : ((s.tile (s.phys l)).half r.op.half).hr = some hr) (hact : run.phase = .active)
    (hrate : rateOk s (s.phys l) 1 = true) : exec (.wave l) s = .next (doWave s l run r hr) := by
  change execWave l s = _
  rw [execWave]
  simp only [hlook, hrun, hhalf, hact, hrate, decide_true, Bool.and_self, if_true]

/-- Settles O17: the values of a wave enter their own accumulators, and a raise rounds every accumulator. -/
theorem wavesAndRaises : Obligations.WavesAndRaises := by
  unfold Obligations.WavesAndRaises
  refine ⟨?_, ?_⟩
  · intro s l r r' run hr p o t0 hlook hrun hhalf hact hrate hring hnext k hk b off img vs nz w hown hraise hgs hw2
    have hmpd : MpdOnly s img.1 := mpdOnly_readImage ..
    have htile : img.1.tile p = { s.tile p with mpd := (img.1.tile p).mpd } := hmpd.2 p
    have hwave : doWave s l run r hr = tileHs (img.1.modTile p (fun t => waved t (o.bin0 + k) w.1 (valsFor vs k) r')) l 1 :=
      doWave_one hring hnext (hits_one hk) hown hraise hgs rfl (by rw [htile]) rfl rfl hw2
    have hw1 : w.1 = { b with anchor := w.1.anchor } := waveAnchor_fields hw2
    refine ⟨_, execWave_runs hlook hrun hhalf hact hrate, ?_⟩
    obtain ⟨hmem, hafter⟩ := tileHs_modTile img.1 l 1 (fun t => waved t (o.bin0 + k) w.1 (valsFor vs k) r')
    rw [hmpd.phys l] at hmem hafter
    rw [htile] at hafter
    have hbins : ((doWave s l run r hr).tile p).bins = tset {} t0.bins (o.bin0 + k)
        { w.1 with acc := (valsFor vs k).foldl (enterVal false w.1.anchor) w.1.acc } := by
      rw [hwave, hafter]
      rfl
    rw [hbins, tget_tset_same]
    refine ⟨?_, ?_, ?_, fun j hj => tget_tset_other _ _ _ hj, rfl, ?_⟩
    · rw [hwave, hmem, hmpd.mem_eq]
    · rw [hwave, hafter]
      rfl
    · rw [hwave, hafter]
      rfl
    · intro v hv hvk was now
      have hnow : now = entered w.1.anchor v.2 was := by
        have hacc : w.1.acc = b.acc := by rw [hw1]
        dsimp only [now]
        rw [hacc]
        exact tget_enterVals w.1.anchor b.acc (valsFor_nodup (waveValues_nodup ..) k) (mem_valsFor hv hvk)
      rw [hnow]
      unfold entered
      split
      · rfl
      · cases w.1.anchor <;> rfl
  · intro s l i rs a t0 b hraise ha hp hwf
    refine ⟨tileHs (s.modTile (s.phys l) (fun t => { t with bins := tset {} t.bins i (b.raised rs) })) l
      (if b.gs = .none then 4 else 8), ?_, ?_⟩
    · change execAnchorRaise l i s = _
      rw [execAnchorRaise]
      rw [hraise]
    · obtain ⟨hmem, htile⟩ := tileHs_modTile s l (if b.gs = .none then 4 else 8)
        (fun t => { t with bins := tset {} t.bins i (b.raised rs) })
      rw [htile]
      refine ⟨hmem, rfl, fun j hj => tget_tset_other _ _ _ hj, ?_⟩
      rw [tget_tset_same]
      exact ⟨(raised_anchor b rs).1, (raised_anchor b rs).2, raised_acc ha hp hwf⟩

end Sys2Proof.Proofs
end

section
/-! Preloads and closes of a bin (03, R102 to R115). -/

namespace Sys2Proof.Proofs
open Sys2Proof Sys2Proof.Machine

/-! ## Preloads -/

theorem readWord_clean {s : State} {p o : Nat} (h : classify (s.word (millKey p o)).2 = .clean) :
    readWord s (.mill p o) = (touch s (.mill p o), (s.word (millKey p o)).1, .ok) := by
  have hkey : (Place.mill p o).key = millKey p o := rfl
  rw [readWord.eq_def]
  dsimp only
  rw [hkey, h]

theorem byte_touch_mill (s : State) (p o j : Nat) : (touch s (.mill p o)).byte j = s.byte j := by
  rw [touch_mill]
  rfl

theorem mpdOnly_readPre (n : Nat) (s : State) (p o : Nat) : MpdOnly s (readPre s (.mill p o) false n).1 := by
  induction n generalizing s o with
  | zero => exact .refl s
  | succ n ih =>
    have hread := mpdOnly_readWord s p o
    have hrest := ih (readWord s (.mill p o)).1 (o + 32)
    exact hread.trans hrest

/-- The check bits of the other words stay. R314. -/
theorem chk_writeWord_other {s : State} {p o k : Nat} (w : Word288) (h : k / 32 ≠ millKey p o / 32) :
    ((writeWord s (.mill p o) w).word k).2 = (s.word k).2 := by
  refine (tget_tset_other 0 _ _ h).trans ?_
  rw [touch_mill]
  rfl

/-- A word that is read for a preload with CLEAR is swapped with zero. R103, R716. -/
theorem readPre_clear {s : State} {p o : Nat} (h : classify (s.word (millKey p o)).2 = .clean) (n : Nat) :
    (readPre s (.mill p o) true (n + 1)).1 =
      (readPre (writeWord (touch s (.mill p o)) (.mill p o) (0, 0)) (.mill p (o + 32)) true n).1 ∧
    (readPre s (.mill p o) true (n + 1)).2.2 =
      RdSt.max .ok (readPre (writeWord (touch s (.mill p o)) (.mill p o) (0, 0)) (.mill p (o + 32)) true n).2.2 := by
  rw [readPre.eq_def]
  dsimp only
  rw [readWord_clean h]
  exact ⟨rfl, rfl⟩

/-- The words of a preload with CLEAR, all good, are read and are then zero. R103. -/
theorem readPre_cleared {p : Nat} (n : Nat) (s : State) {o : Nat} (ho : o % 32 = 0)
    (h : ∀ i, i < n → classify (s.word (millKey p o + 32 * i)).2 = .clean) :
    MillOnly s (readPre s (.mill p o) true n).1 ∧ (readPre s (.mill p o) true n).2.2 = .ok ∧
      ∀ j, (readPre s (.mill p o) true n).1.byte j = if millKey p o ≤ j ∧ j < millKey p o + 32 * n then 0 else s.byte j := by
  induction n generalizing s o with
  | zero => exact ⟨.refl s, rfl, fun j => by rw [if_neg (by omega)]; rfl⟩
  | succ n ih =>
    have hkey : (Place.mill p o).key % 32 = 0 := (millKey_mod p o).trans ho
    have h0 : classify (s.word (millKey p o)).2 = .clean := h 0 (Nat.succ_pos n)
    obtain ⟨hst, hok⟩ := readPre_clear h0 n
    have htouch : MillOnly s (touch s (.mill p o)) := by
      rw [touch_mill]
      exact (mpdOnly_modMpd ..).millOnly
    have hwords : ∀ i, i < n → classify ((writeWord (touch s (.mill p o)) (.mill p o) (0, 0)).word (millKey p (o + 32) + 32 * i)).2 =
        .clean := by
      intro i hi
      have hk : millKey p (o + 32) + 32 * i = millKey p o + 32 * (i + 1) := by
        rw [millKey_add]
        ring
      have hmod : millKey p o % 32 = 0 := hkey
      rw [hk, chk_writeWord_other _ (by omega), touch_mill]
      exact h (i + 1) (by omega)
    obtain ⟨hm, hok', hb⟩ := ih (writeWord (touch s (.mill p o)) (.mill p o) (0, 0)) (o := o + 32) (by omega) hwords
    rw [hst, hok, hok']
    refine ⟨htouch.trans ((millOnly_writeWord ..).trans hm), rfl, fun j => ?_⟩
    have hplace : (Place.mill p o).key = millKey p o := rfl
    rw [hb, byte_writeWord hkey, byte_touch_mill, millKey_add, hplace]
    by_cases h1 : millKey p o ≤ j ∧ j < millKey p o + 32
    · rw [if_neg (by omega), if_pos h1, if_pos (by omega)]
      simp [byteOf]
    · rw [if_neg h1]
      by_cases h2 : millKey p o + 32 ≤ j ∧ j < millKey p o + 32 + 32 * n
      · rw [if_pos h2, if_pos (by omega)]
      · rw [if_neg h2, if_neg (by omega)]

theorem tileActive_of {s : State} {l : Nat} {r : Run} (hr : s.runOf l = some r) (hact : r.phase = .active) : tileActive s l = true := by
  simp [tileActive, hr, hact]

theorem preloadDone_loads {s s1 : State} {l a : Nat} {o : OpenOp} {vs : List P64} {st : RdSt}
    (hrun : (s.tile (s.phys l)).binRun = some (.opn o)) (ha : o.preload = some a) (hact : tileActive s l = true)
    (hread : readPre s (.mill (s.phys l) a) o.clear 1024 = (s1, vs, st)) (hst : ¬(o.clear = true ∧ st ≠ .ok)) :
    exec (.preloadDone l) s = .next (tileHs (s1.modTile (s.phys l)
      (fun t => { t with binRun := none, bins := tset {} t.bins o.bin (preloadBin o vs) })) l (if o.clear then 128 else 64)) := by
  change execPreloadDone l s = _
  obtain ⟨F, hF⟩ : ∃ F, F = execPreloadDone := ⟨_, rfl⟩
  obtain ⟨f, hf⟩ : ∃ f, f = readPre := ⟨_, rfl⟩
  rw [← hF]
  delta execPreloadDone at hF
  rw [← hf] at hF hread
  rw [hF]
  simp only [hrun, ha, hact, hread, hst, Bool.not_true, Bool.false_eq_true, if_false]

/-! ## Closes -/

/-- The bytes of memory at a key are the bytes of a number. R2. -/
theorem num_of_bytes {s : State} {v : Nat} (n : Nat) {k i : Nat} (h : ∀ j, j < n → s.byte (k + j) = byteOf v (i + j)) :
    s.num k n = v / 256 ^ i % 256 ^ n := by
  induction n generalizing k i with
  | zero => rw [num_zero, pow_zero, Nat.mod_one]
  | succ n ih =>
    have h0 : (s.byte k).toNat = v / 256 ^ i % 256 := by
      have h0 := h 0 (Nat.succ_pos n)
      rw [Nat.add_zero] at h0
      rw [h0, Nat.add_zero, byteOf, BitVec.toNat_ofNat]
    have h1 : s.num (k + 1) n = v / 256 ^ (i + 1) % 256 ^ n := ih fun j hj => by
      have hj' := h (j + 1) (by omega)
      rwa [show k + 1 + j = k + (j + 1) by ring, show i + 1 + j = i + (j + 1) by ring]
    rw [num_succ, h0, h1, pow_succ 256 i, ← Nat.div_div_eq_div_mul, pow_succ' 256 n, Nat.mod_mul]

/-- A value of an exported word, in the place of its lane. R111. -/
theorem exportWord_lane (c : CloseRun) {k i : Nat} (h : i < 4) :
    (exportWord c k).toNat / 256 ^ (8 * i) % 256 ^ 8 = (exportVal c (4 * k + i)).toNat := by
  have h0 := (exportVal c (4 * k)).isLt
  have h1 := (exportVal c (4 * k + 1)).isLt
  have h2 := (exportVal c (4 * k + 2)).isLt
  have h3 := (exportVal c (4 * k + 3)).isLt
  rw [exportWord, BitVec.toNat_append, BitVec.toNat_append, BitVec.toNat_append, ← Nat.shiftLeft_add_eq_or_of_lt h0,
    ← Nat.shiftLeft_add_eq_or_of_lt h1, ← Nat.shiftLeft_add_eq_or_of_lt h2]
  interval_cases i
  · simp only [Nat.add_zero, Nat.mul_zero, pow_zero, Nat.div_one]
    omega
  all_goals omega

/-- The words of a close to P64 words. R111. -/
def exportWords (c : CloseRun) : List (BitVec 256) := (List.range 1024).map (exportWord c)

theorem exportWords_length (c : CloseRun) : (exportWords c).length = 1024 := by
  rw [exportWords, List.length_map, List.length_range]

theorem nth_exportWords (c : CloseRun) {k : Nat} (h : k < 1024) : nth 0 (exportWords c) k = exportWord c k := by
  rw [exportWords, nth_map 0 _ _ _ (by rwa [List.length_range]), nth_eq_getElem _ _ (by rwa [List.length_range]), List.getElem_range]

/-- The state after a close has written its words: it has left the tile. R111, R112. -/
def storeDone (s : State) (l a iseq : Nat) (ws : List (BitVec 256)) : State :=
  (writeWords s (.mill (s.phys l) a) ws).modTile (s.phys l) (fun t => { t with closes := t.closes.filter (fun x => x.op.iseq != iseq) })

theorem storeDone_byte {s : State} {l a : Nat} (c : CloseRun) (ha : 32 ∣ a) (j : Nat) :
    (storeDone s l a c.op.iseq (exportWords c)).byte j =
      if millKey (s.phys l) a ≤ j ∧ j < millKey (s.phys l) a + 32768
      then byteOf (exportWord c ((j - millKey (s.phys l) a) / 32)).toNat ((j - millKey (s.phys l) a) % 32) else s.byte j := by
  have hkey : (Place.mill (s.phys l) a).key % 32 = 0 := (millKey_mod ..).trans (Nat.mod_eq_zero_of_dvd ha)
  have hplace : (Place.mill (s.phys l) a).key = millKey (s.phys l) a := rfl
  have hbyte := byte_writeWords (exportWords c) (s := s) hkey j
  rw [exportWords_length, hplace] at hbyte
  refine (byte_congr (State.modTile_mem ..) j).trans (hbyte.trans ?_)
  split
  · next h => rw [nth_exportWords c (by omega)]
  · rfl

theorem closeWrites_store {c : CloseRun} {a : Nat} (hdest : c.op.dest = .p64Store a) (s : State) (r : Run) (l : Nat) :
    closeWrites s r l c = { s := writeWords s (.mill (s.phys l) a) (exportWords c) } := by
  rw [closeWrites.eq_def]
  dsimp only
  rw [hdest]
  exact Eq.refl _

theorem binCloseDone_stores {s : State} {l a : Nat} {c : CloseRun} {r : Run}
    (hc : (s.tile (s.phys l)).closes.find? (fun x => x.op.iseq == c.op.iseq) = some c) (hr : s.runOf l = some r)
    (hact : r.phase = .active) (hstart : c.started = false) (hdest : c.op.dest = .p64Store a) :
    exec (.binCloseDone l c.op.iseq) s = .next (storeDone s l a c.op.iseq (exportWords c)) := by
  have hready : closeReady s r c = true := by rw [closeReady, hdest]
  have hwrites := closeWrites_store hdest s r l
  obtain ⟨ws, hws⟩ : ∃ ws, ws = exportWords c := ⟨_, rfl⟩
  rw [← hws] at hwrites ⊢
  have hmill := millOnly_writeWords ws s (s.phys l) a
  have hfind : ((writeWords s (.mill (s.phys l) a) ws).tile (s.phys l)).closes.find? (fun x => x.op.iseq == c.op.iseq) = some c := by
    rw [hmill.2]
    exact hc
  have hend : endClose (writeWords s (.mill (s.phys l) a) ws) l c.op.iseq = storeDone s l a c.op.iseq ws := by
    rw [endClose, hmill.phys]
    dsimp only
    rw [hfind]
    dsimp only
    rw [hdest]
    rfl
  change execBinCloseDone l c.op.iseq s = _
  rw [execBinCloseDone]
  dsimp only
  rw [hc, hr]
  simp only [hstart, hact, hready, hwrites, hend, Bool.false_eq_true, if_false]
  rfl

/-- Handshakes in which a close reads its bin. R105, R115. -/
def closeHandshakes (o : CloseOp) : Nat :=
  match o.dest with
  | .tailrace d => if d.kvqEn then 32 else 16
  | _ => 64

/-- Settles O18: a preload reads its words and with CLEAR leaves zeros, and a close hands on and writes what its bin holds. -/
theorem preloadsAndCloses : Obligations.PreloadsAndCloses := by
  unfold Obligations.PreloadsAndCloses
  refine ⟨?_, ?_, ?_⟩
  · intro s l a o r hrun ha hdvd hr hact hclean
    have ho : a % 32 = 0 := Nat.mod_eq_zero_of_dvd hdvd
    have hspec : MillOnly s (readPre s (.mill (s.phys l) a) o.clear 1024).1 ∧
        ¬(o.clear = true ∧ (readPre s (.mill (s.phys l) a) o.clear 1024).2.2 ≠ .ok) ∧
        ∀ j, (readPre s (.mill (s.phys l) a) o.clear 1024).1.byte j =
          if o.clear ∧ millKey (s.phys l) a ≤ j ∧ j < millKey (s.phys l) a + 32768 then 0 else s.byte j := by
      cases hclear : o.clear with
      | true =>
        have hcleared := readPre_cleared (p := s.phys l) 1024 s ho (hclean hclear)
        obtain ⟨hm, hok, hb⟩ := hcleared
        refine ⟨hm, fun h => h.2 hok, fun j => (hb j).trans ?_⟩
        simp only [true_and]
      | false =>
        have hm := mpdOnly_readPre 1024 s (s.phys l) a
        refine ⟨hm.millOnly, fun h => Bool.false_ne_true h.1, fun j => (byte_congr hm.mem_eq j).trans ?_⟩
        rw [if_neg fun h => Bool.false_ne_true h.1]
    obtain ⟨hmill, hst, hbyte⟩ := hspec
    obtain ⟨x, hx⟩ : ∃ x, x = readPre s (.mill (s.phys l) a) o.clear 1024 := ⟨_, rfl⟩
    rw [← hx] at hmill hst hbyte ⊢
    obtain ⟨s1, vs, st⟩ := x
    refine ⟨_, preloadDone_loads hrun ha (tileActive_of hr hact) hx.symm hst, ?_⟩
    obtain ⟨hmem, htile⟩ := tileHs_modTile s1 l (if o.clear then 128 else 64)
      (fun t => { t with binRun := none, bins := tset {} t.bins o.bin (preloadBin o vs) })
    rw [hmill.phys] at hmem htile
    rw [htile, hmill.2]
    exact ⟨rfl, tget_tset_same {} (s.tile (s.phys l)).bins o.bin (preloadBin o vs), rfl, fun j => (byte_congr hmem j).trans (hbyte j)⟩
  · intro s l o t0 b hrun
    refine ⟨tileHs (s.modTile (s.phys l) (fun t => { t with
      binRun := none
      bins := tset {} t.bins o.bin {}
      closes := t.closes ++ [{ op := o, anchor := b.anchor, acc := b.acc, nRow := b.nRow, nCh := b.nCh, linBase := b.linBase,
                               rowScale := b.rowScale }] })) l
      (closeHandshakes o), ?_, ?_⟩
    · change execBinCloseReadDone l s = _
      rw [execBinCloseReadDone]
      dsimp only
      rw [hrun]
      rfl
    · obtain ⟨hmem, htile⟩ := tileHs_modTile s l (closeHandshakes o) (fun t => { t with
          binRun := none
          bins := tset {} t.bins o.bin {}
          closes := t.closes ++ [{ op := o, anchor := b.anchor, acc := b.acc, nRow := b.nRow, nCh := b.nCh, linBase := b.linBase,
                                   rowScale := b.rowScale }] })
      rw [htile]
      exact ⟨hmem, rfl, tget_tset_same {} t0.bins o.bin {}, rfl⟩
  · intro s l a c r t0 hc hr hact hstart hdest hdvd
    have hbyte := storeDone_byte (s := s) (l := l) c hdvd
    have hmill := millOnly_writeWords (exportWords c) s (s.phys l) a
    refine ⟨_, binCloseDone_stores hc hr hact hstart hdest, ?_, ?_, ?_⟩
    · rw [storeDone, State.modTile_tile_same, hmill.2]
    · intro i hi
      have hlane : ∀ j, j < 8 → (storeDone s l a c.op.iseq (exportWords c)).byte (millKey (s.phys l) a + 8 * i + j) =
          byteOf (exportWord c (i / 4)).toNat (8 * (i % 4) + j) := by
        intro j hj
        have hd : millKey (s.phys l) a + 8 * i + j - millKey (s.phys l) a = 8 * i + j := by omega
        rw [hbyte, if_pos (by omega), hd, show (8 * i + j) / 32 = i / 4 by omega, show (8 * i + j) % 32 = 8 * (i % 4) + j by omega]
      rw [num_of_bytes 8 hlane, exportWord_lane c (Nat.mod_lt i (by norm_num)), Nat.div_add_mod]
    · intro j hj
      rw [hbyte, if_neg (by omega)]

end Sys2Proof.Proofs
end

section
/-! Attention operations (04, R149 to R173). -/

namespace Sys2Proof.Proofs
open Sys2Proof Sys2Proof.Machine

/-- What a run's progress changes: nothing but what the Governor keeps of the run. R226. -/
theorem progress_frame (s : State) (d rid : Nat) : progress s d rid = { s with govs := (progress s d rid).govs } := by
  unfold progress
  split <;> rfl

theorem mpdOnly_readRaw (n : Nat) (s : State) (p o : Nat) : MpdOnly s (readRaw s (.mill p o) n).1 := by
  induction n generalizing s o with
  | zero => exact .refl s
  | succ n ih => exact (mpdOnly_readWord s p o).trans (ih ..)

theorem mpdOnly_readVals (s : State) (p o w n : Nat) : MpdOnly s (readVals s (.mill p o) w n).1 :=
  mpdOnly_readRaw ..

/-- The query heads of an operation are read from the Millpond of a tile of its run. R152. -/
theorem mpdOnly_startHeads (s : State) (r : Run) (op : AttnOp) : MpdOnly s (startHeads s r op).1 := by
  unfold startHeads
  dsimp only
  split
  · exact .refl s
  · split
    · exact .refl s
    · next pl hpl =>
      obtain ⟨x, _, rfl⟩ := Option.map_eq_some_iff.1 hpl
      exact mpdOnly_readVals ..

/-! ## The start of an operation -/

/-- The engine has taken the operation at the head of its queue. R149. -/
def tookOp (s : State) (e : Nat) (r : Run) (op : AttnOp) : State :=
  (startHeads s r op).1.modEngine e (fun x => { x with
    queue := x.queue.drop 1, run := some { op := op, heads := (startHeads s r op).2, page := 0 }, flume := [] })

/-- The flume stream of the operation begins its pass. R149, R355. -/
def flumeStarted (s : State) (e : Nat) (r : Run) (op : AttnOp) : State :=
  if op.desc.visits = 0 then s
  else s.modSlot (flumeSlot e) (fun y => { y with
    ctx := r.rr.ctx, run := some r.rid, engine := some e, reported := [], seqno := BitVec.ofNat 32 r.rr.seqno }.launch {} 0 0)

theorem attnOperationStart_head {s : State} {e : Nat} {op : AttnOp} {q : List AttnOp} {r : Run} (hrun : (s.engine e).run = none)
    (hq : (s.engine e).queue = op :: q) (hr : engineRun s e = some r) (hon : (s.engine e).unit.st = .on) (hact : r.phase = .active)
    (hfree : blocked s op.tile op.iseq (op.desc.foot op.iseq).reads (op.desc.foot op.iseq).writes = false)
    (hslot : (s.slot (flumeSlot e)).st = .free ∨ (s.slot (flumeSlot e)).st = .passDone) :
    exec (.attnOperationStart e) s = .next (progress (flumeStarted (tookOp s e r op) e r op) (e / 12) r.rid) := by
  change execAttnOperationStart e s = _
  have hhead : (s.engine e).queue.head? = some op := by rw [hq]; rfl
  have hslot' : ¬((s.slot (flumeSlot e)).st ≠ .free ∧ (s.slot (flumeSlot e)).st ≠ .passDone) := by
    rintro ⟨h1, h2⟩
    exact hslot.elim h1 h2
  obtain ⟨F, hF⟩ : ∃ F, F = execAttnOperationStart := ⟨_, rfl⟩
  rw [tookOp]
  obtain ⟨f, hf⟩ : ∃ f, f = startHeads := ⟨_, rfl⟩
  rw [← hF, ← hf]
  delta execAttnOperationStart at hF
  rw [← hf] at hF
  rw [hF]
  simp only [hrun, hhead, hr, hon, hact, hfree, hslot', ne_eq, not_true_eq_false, Bool.false_eq_true, or_self, if_false]
  rfl

theorem flumeStarted_frame (s : State) (e : Nat) (r : Run) (op : AttnOp) :
    flumeStarted s e r op = { s with mrcs := (flumeStarted s e r op).mrcs } := by
  unfold flumeStarted
  split <;> rfl

/-- What stands once the operation has started. R149, R152. -/
theorem started_fields (s : State) (e : Nat) (r : Run) {op : AttnOp} {q : List AttnOp} (hq : (s.engine e).queue = op :: q) :
    (progress (flumeStarted (tookOp s e r op) e r op) (e / 12) r.rid).mem = s.mem ∧
    (progress (flumeStarted (tookOp s e r op) e r op) (e / 12) r.rid).engine e = { s.engine e with
      queue := q, run := some { op := op, heads := (startHeads s r op).2, page := 0 }, flume := [] } ∧
    (progress (flumeStarted (tookOp s e r op) e r op) (e / 12) r.rid).slot (flumeSlot e) =
      (flumeStarted (tookOp s e r op) e r op).slot (flumeSlot e) := by
  have hmpd := mpdOnly_startHeads s r op
  rw [progress_frame, flumeStarted_frame]
  refine ⟨hmpd.mem_eq, ?_, rfl⟩
  refine (tget_tset_same ..).trans ?_
  have hq' : (s.engine e).queue.drop 1 = q := by rw [hq]; rfl
  rw [hmpd.engine_eq, ← hq']

theorem flumeStarted_slot (s : State) (e : Nat) (r : Run) {op : AttnOp} (h : op.desc.visits ≠ 0) :
    ((flumeStarted s e r op).slot (flumeSlot e)).st = .running ∧ ((flumeStarted s e r op).slot (flumeSlot e)).engine = some e ∧
      ((flumeStarted s e r op).slot (flumeSlot e)).next = {} := by
  rw [flumeStarted, if_neg h, State.modSlot_slot, if_pos rfl]
  exact ⟨rfl, rfl, rfl⟩

/-! ## Pages and the end -/

theorem attnPage_posted {s : State} {e : Nat} {a : AttnRun} {pg : FlumePage} {r : Run} (hrun : (s.engine e).run = some a)
    (hr : engineRun s e = some r) (hact : r.phase = .active) (hfind : (s.engine e).flume.find? (fun p => p.elem == a.page) = some pg)
    (hpost : pg.posted = true) (hgood : pg.bad = []) (hmore : a.page < a.op.desc.visits) :
    exec (.attnPage e) s = .next (progress (s.modEngine e (fun x => { x with
      run := some { a with
        heads := a.heads.map (mixPage a.op.desc pg (visible a.op.desc (a.op.desc.pageFirst + a.page))), page := a.page + 1 }
      flume := x.flume.filter (fun p => p.elem != a.page) })) (e / 12) r.rid) := by
  have hbad (ts : List Nat) (b w : Nat) : ts.any (fun t => (tokenWords b w t).any (fun x => pg.bad.contains x)) = false := by
    rw [hgood]
    simp
  change execAttnPage e s = _
  rw [execAttnPage]
  simp only [hrun, hr, hfind, hpost, hact, hbad, Nat.not_le.2 hmore, Bool.or_false, bne_self_eq_false,
    Bool.not_true, Bool.or_self, decide_false, Bool.false_eq_true, if_false]

theorem attnOperationDone_plain {s s1 : State} {e : Nat} {a : AttnRun} {r : Run} (hrun : (s.engine e).run = some a)
    (hr : engineRun s e = some r) (hact : r.phase = .active) (hend : a.op.desc.visits ≤ a.page) (hnot : a.ending = false)
    (hmode : a.op.desc.mode = 0) (hsluice : a.op.desc.sluice = none) (hout : attnOutput s e r a.op a.heads = (s1, .none)) :
    exec (.attnOperationDone e) s = .next (progress (s1.modEngine e (fun x => { x with run := none, flume := [] })) (e / 12) r.rid) := by
  have hwrite : writeAttn s e r a a.heads = s1.modEngine e (fun x => { x with run := none, flume := [] }) := by
    obtain ⟨f, hf⟩ : ∃ f, f = attnOutput := ⟨_, rfl⟩
    obtain ⟨F, hF⟩ : ∃ F, F = writeAttn := ⟨_, rfl⟩
    rw [← hF]
    delta writeAttn at hF
    rw [← hf] at hF hout
    rw [hF]
    simp only [hmode, hout, endAttn, hsluice]
    rfl
  change execAttnOperationDone e s = _
  rw [execAttnOperationDone]
  simp only [hrun, hr, hact, hnot, hmode, hwrite, Nat.not_lt.2 hend]
  rfl

theorem engine_progress_modEngine (s : State) (e d rid : Nat) (f : Engine → Engine) :
    (progress (s.modEngine e f) d rid).engine e = f (s.engine e) := by
  rw [progress_frame]
  exact tget_tset_same ..

theorem mem_progress (s : State) (d rid : Nat) : (progress s d rid).mem = s.mem := by
  rw [progress_frame]

/-- Settles O19: an operation starts, consumes its pages, and ends. -/
theorem attentionRuns : Obligations.AttentionRuns := by
  unfold Obligations.AttentionRuns
  refine ⟨?_, ?_, ?_⟩
  · intro s e op q r k f hrun hq hr hon hact hfree hslot
    obtain ⟨hmem, heng, hsl⟩ := started_fields s e r hq
    refine ⟨_, attnOperationStart_head hrun hq hr hon hact hfree hslot, hmem, ?_⟩
    rw [heng, hsl]
    exact ⟨rfl, rfl, ⟨_, rfl, rfl, rfl, rfl⟩, flumeStarted_slot _ e r⟩
  · intro s e a pg r hrun hr hact hfind hpost hgood hmore
    refine ⟨_, attnPage_posted hrun hr hact hfind hpost hgood hmore, mem_progress .., ?_⟩
    rw [engine_progress_modEngine]
    exact ⟨rfl, rfl⟩
  · intro s s1 e a r hrun hr hact hend hnot hmode hsluice hout
    refine ⟨_, attnOperationDone_plain hrun hr hact hend hnot hmode hsluice hout, mem_progress .., ?_⟩
    rw [engine_progress_modEngine]
    exact ⟨rfl, rfl⟩

end Sys2Proof.Proofs
end

section
/-! Bucket rings: attachment, slots and their counts (06, R283 to R287; 08, R360 to R362). -/

namespace Sys2Proof.Proofs
open Sys2Proof Sys2Proof.Machine

/-! ## Rings and what sequencers hold of them -/

theorem ring_congr {s t : State} (h : t.hif = s.hif) (n : Nat) : t.ring n = s.ring n := by rw [State.ring, State.ring, h]

theorem advance_hif (s : State) (c : Core) (n : W64) : (advance s c n).hif = s.hif := by
  cases c with
  | tile l => rw [advance_tile_frame]
  | miller m => rfl

theorem heldSlots_congr {s t : State} {c : Core} (h : (t.seqr c).attached = (s.seqr c).attached) (r : Nat) (p : Bool) :
    heldSlots t c r p = heldSlots s c r p := by rw [heldSlots, heldSlots, h]

theorem heldSlots_advance (s : State) (c : Core) (n : W64) (r : Nat) (p : Bool) : heldSlots (advance s c n) c r p = heldSlots s c r p :=
  heldSlots_congr (by rw [advance_core]) r p

theorem withRing_named {s : State} {c : Core} {sa : BitVec 5} {imm : BitVec 32} {n : Nat} (h : RingNo s c sa imm n) (k : Nat → Iss) :
    withRing s c sa imm k = k n := by
  obtain ⟨hn, hlt⟩ := h
  have hring : ringOf (s.seqr c) sa imm = some n := by
    rw [ringOf, sext32_eq, hn, if_pos hlt]
  rw [withRing, hring]

theorem ringRoom_of_room {s : State} {c : Core} (h : RingQueueRoom s c) (k : Iss) : ringRoom s c k = k := by
  cases c with
  | tile l => exact if_neg (Nat.not_le_of_lt (h l rfl))
  | miller m => rfl

/-- Changing the slots of an attachment. R286. -/
theorem find_mapWhere (p : Attach → Bool) (f : List Nat → List Nat) (hp : ∀ a xs, p { a with slots := xs } = p a) (as : List Attach) :
    (mapWhere p (fun a => { a with slots := f a.slots }) as).find? p =
      (as.find? p).map (fun a => { a with slots := f a.slots }) := by
  induction as with
  | nil => rfl
  | cons a as ih =>
    rw [mapWhere] at ih
    rw [mapWhere, List.map_cons]
    cases h : p a with
    | true => rw [if_pos rfl, List.find?_cons_of_pos (by rw [hp, h]), List.find?_cons_of_pos h, Option.map_some]
    | false => rw [if_neg (by simp), List.find?_cons_of_neg (by simp [h]), List.find?_cons_of_neg (by simp [h]), ih]

theorem heldSlots_modHeld {s : State} {c : Core} {r : Nat} {p : Bool} (f : List Nat → List Nat) (h : isAttached s c r p = true) :
    heldSlots (modHeld s c r p f) c r p = f (heldSlots s c r p) := by
  have hsome : ∃ a, (s.seqr c).attached.find? (fun a => a.ring == r && a.producer == p) = some a :=
    Option.isSome_iff_exists.1 (by rw [List.find?_isSome]; exact List.any_eq_true.1 h)
  obtain ⟨a, ha⟩ := hsome
  rw [heldSlots, modHeld, State.modSeqr_seqr]
  dsimp only
  rw [find_mapWhere _ f (fun _ _ => rfl), heldSlots, ha]
  rfl

theorem isAttached_of_held {s : State} {c : Core} {r i : Nat} {p : Bool} {is : List Nat} (h : heldSlots s c r p = i :: is) :
    isAttached s c r p = true := by
  rw [heldSlots] at h
  split at h
  · next a ha => exact List.any_eq_true.2 ⟨a, List.mem_of_find?_eq_some ha, List.find?_some (p := fun a : Attach => a.ring == r && a.producer == p) ha⟩
  · cases h

/-! ## Attaching and detaching -/

/-- Checks that pass leave the result to those after them. -/
theorem firstFlt_after {xs : List Flt} (h : firstFlt xs = .none) (ys : List Flt) : firstFlt (xs ++ ys) = firstFlt ys := by
  induction xs with
  | nil => rfl
  | cons x xs ih =>
    obtain ⟨hx, hxs⟩ := List.forall_mem_cons.1 ((firstFlt_eq_none _).1 h)
    rw [List.cons_append, hx]
    exact ih ((firstFlt_eq_none _).2 hxs)

theorem attachRanks_of_may {s : State} {c : Core} {n : Nat} (h : MayAttach s c n) (p : Bool) : attachRanks s c n p = true := by
  obtain ⟨-, -, hranks⟩ := h
  refine List.all_eq_true.2 fun a ha => ?_
  simp [hranks a ha]

theorem attachPlace_of_may {s : State} {c : Core} {n : Nat} (h : MayAttach s c n) : ∀ f ∈ attachPlace s c n, f = .none := by
  obtain ⟨hkind, hctx, -⟩ := h
  cases c with
  | tile l =>
    obtain ⟨r, hr, hc⟩ := hctx l rfl
    simp [attachPlace, ringPlaceFlt, hr, hkind, hc]
  | miller m => simp [attachPlace, hkind]

/-- The end of the ring at which a sequencer attaches. -/
def Ring.joined (x : Ring) (p : Bool) (a : Agent) : Ring := if p then { x with prod := some a } else { x with cons := some a }

theorem attach_free {s : State} {c : Core} {n : Nat} {p : Bool} (h : MayAttach s c n) (hroom : RingQueueRoom s c)
    (hfree : (if p then prodFree (s.ring n) (.seq c) else consFree (s.ring n) (.seq c)) = true) (hnot : isAttached s c n p = false) :
    attach s c n p = .done ((s.modRing n (fun x => Ring.joined x p (.seq c))).modSeqr c
      (fun q => { q with attached := q.attached ++ [{ ring := n, producer := p }] })) := by
  have hflt : firstFlt (attachPlace s c n ++ [faultIf (!true) .operandInvalid, faultIf (!attachRanks s c n p) .rankOrder]) = .none := by
    rw [firstFlt_eq_none, attachRanks_of_may h]
    intro f hf
    rcases List.mem_append.1 hf with hf | hf
    · exact attachPlace_of_may h f hf
    · simpa [faultIf] using hf
  rw [attach, hfree, hflt, if_neg (by simp), ringRoom_of_room hroom, hnot]
  rfl

theorem attach_taken {s : State} {c : Core} {n : Nat} {p : Bool} (h : MayAttach s c n)
    (htaken : (if p then prodFree (s.ring n) (.seq c) else consFree (s.ring n) (.seq c)) = false) :
    attach s c n p = .fault s .operandInvalid := by
  have hflt : firstFlt (attachPlace s c n ++ [faultIf (!false) .operandInvalid, faultIf (!attachRanks s c n p) .rankOrder]) =
      .operandInvalid := by
    have hplace := (firstFlt_eq_none _).2 (attachPlace_of_may h)
    rw [firstFlt_after hplace]
    rfl
  rw [attach, htaken, hflt, if_pos (by simp)]

theorem ringAttachP_executes {s : State} {c : Core} {g : Guard} {sa : BitVec 5} {imm : BitVec 32} {n : Nat} (hx : Executes s c g [sa])
    (hn : RingNo s c sa imm n) : exec (.ringAttachP c g sa imm) s = .next (finish c { reads := [sa] } (attach s c n true)) := by
  change execRingAttachP c g sa imm s = _
  rw [execRingAttachP, issue_executes hx (by cases c <;> rfl), withRing_named hn]

theorem ringAttachC_executes {s : State} {c : Core} {g : Guard} {sa : BitVec 5} {imm : BitVec 32} {n : Nat} (hx : Executes s c g [sa])
    (hn : RingNo s c sa imm n) : exec (.ringAttachC c g sa imm) s = .next (finish c { reads := [sa] } (attach s c n false)) := by
  change execRingAttachC c g sa imm s = _
  rw [execRingAttachC, issue_executes hx (by cases c <;> rfl), withRing_named hn]

theorem heldSlots_empty {s : State} {c : Core} {n : Nat} (h : ∀ a ∈ (s.seqr c).attached, a.ring = n → a.slots = []) (p : Bool) :
    heldSlots s c n p = [] := by
  rw [heldSlots]
  split
  · next a ha =>
    have hp := List.find?_some (p := fun a : Attach => a.ring == n && a.producer == p) ha
    simp only [Bool.and_eq_true, beq_iff_eq] at hp
    exact h a (List.mem_of_find?_eq_some ha) hp.1
  · rfl

theorem ringDetach_executes {s : State} {c : Core} {g : Guard} {sa : BitVec 5} {imm : BitVec 32} {n : Nat} (hx : Executes s c g [sa])
    (hn : RingNo s c sa imm n) (hkind : (s.ring n).kind = .bucket) (hheld : ∀ a ∈ (s.seqr c).attached, a.ring = n → a.slots = [])
    (hroom : RingQueueRoom s c) :
    exec (.ringDetach c g sa imm) s = .next (advance ((s.modRing n (fun x => x.leave (.seq c))).modSeqr c
      (fun q => { q with attached := q.attached.filter (fun a => a.ring != n) })) c 8) := by
  have hhost : hostRing s c n = false := by simp [hostRing, hkind]
  change execRingDetach c g sa imm s = _
  rw [execRingDetach, issue_executes hx (by cases c <;> rfl), withRing_named hn, hhost, heldSlots_empty hheld, heldSlots_empty hheld,
    ringRoom_of_room hroom]
  rfl

/-! ## Claims, takes, gives and posts -/

theorem ringClaim_executes {s : State} {c : Core} {g : Guard} {sd sa : BitVec 5} {imm : BitVec 32} {n : Nat} (hx : Executes s c g [sa])
    (hn : RingNo s c sa imm n) (hat : isAttached s c n true = true) (hroom : RingQueueRoom s c) :
    exec (.ringClaim c g sd sa imm) s = .next (finish c { reads := [sa] }
      (if (s.ring n).canClaim then .done (claimSlot s c n sd) else .hold s (.claim n sd.toNat))) := by
  change execRingClaim c g sd sa imm s = _
  rw [execRingClaim, issue_executes hx (by cases c <;> rfl), withRing_named hn, hat, ringRoom_of_room hroom]
  rfl

theorem ringTake_executes {s : State} {c : Core} {g : Guard} {sd sa : BitVec 5} {imm : BitVec 32} {n : Nat} (hx : Executes s c g [sa])
    (hn : RingNo s c sa imm n) (hat : isAttached s c n false = true) (hroom : RingQueueRoom s c) :
    exec (.ringTake c g sd sa imm) s = .next (finish c { reads := [sa] }
      (if (s.ring n).canTake then .done (takeSlot s c n sd) else .hold s (.take n sd.toNat))) := by
  change execRingTake c g sd sa imm s = _
  rw [execRingTake, issue_executes hx (by cases c <;> rfl), withRing_named hn, hat, ringRoom_of_room hroom]
  rfl

/-- A slot of ring `n` that its producer or consumer receives: the slot joins those it holds and its address goes to a register. R286. -/
def received (s : State) (c : Core) (n : Nat) (p : Bool) (f : Ring → Ring) (i : Nat) (sd : BitVec 5) (v : W64) : State :=
  advance ((modHeld (s.modRing n f) c n p (fun xs => xs ++ [i])).modSeqr c (fun q => q.writeS sd v)) c 8

theorem received_mem (s : State) (c : Core) (n : Nat) (p : Bool) (f : Ring → Ring) (i : Nat) (sd : BitVec 5) (v : W64) :
    (received s c n p f i sd v).mem = s.mem := by
  rw [received, advance_mem, State.modSeqr_mem, modHeld, State.modSeqr_mem, State.modRing_mem]

theorem received_ring (s : State) (c : Core) (n : Nat) (p : Bool) (f : Ring → Ring) (i : Nat) (sd : BitVec 5) (v : W64) (j : Nat) :
    (received s c n p f i sd v).ring j = if j = n then f (s.ring n) else s.ring j := by
  have hhif : (received s c n p f i sd v).hif = (s.modRing n f).hif := by
    rw [received, advance_hif, State.modSeqr_hif, modHeld, State.modSeqr_hif]
  rw [ring_congr hhif, State.modRing_ring]

theorem modRing_seqr (s : State) (n : Nat) (f : Ring → Ring) (c : Core) : (s.modRing n f).seqr c = s.seqr c := by
  cases c <;> rfl

theorem heldSlots_modRing (s : State) (n : Nat) (f : Ring → Ring) (c : Core) (r : Nat) (p : Bool) :
    heldSlots (s.modRing n f) c r p = heldSlots s c r p := heldSlots_congr (by rw [modRing_seqr]) r p

theorem received_seqr (s : State) (c : Core) (n : Nat) (p : Bool) (f : Ring → Ring) (i : Nat) (sd : BitVec 5) (v : W64) :
    ((received s c n p f i sd v).seqr c).pc = (s.seqr c).pc + 8 ∧
      ∀ r, ((received s c n p f i sd v).seqr c).s r = if r = sd ∧ sd ≠ 0 then v else (s.seqr c).s r := by
  rw [received, advance_core, State.modSeqr_seqr, modHeld, State.modSeqr_seqr, modRing_seqr]
  exact ⟨by rw [Seqr.writeS_pc], fun r => Seqr.writeS_s _ sd v r⟩

theorem received_s (s : State) (c : Core) (n : Nat) (p : Bool) (f : Ring → Ring) (i : Nat) (sd : BitVec 5) (v : W64) :
    ((received s c n p f i sd v).seqr c).s sd = if sd = 0 then 0 else v := by
  rw [(received_seqr ..).2]
  by_cases h : sd = 0
  · rw [if_neg fun h' => h'.2 h, if_pos h]
    exact if_pos h
  · rw [if_pos ⟨rfl, h⟩, if_neg h]

theorem canTake_iff (x : Ring) : x.canTake = true ↔ x.c1 ≠ x.c2 := by
  rw [Ring.canTake, decide_eq_true_eq, Nat.pos_iff_ne_zero, ne_eq, ne_eq, ← sub_eq_zero (a := x.c1), ← BitVec.toNat_inj]
  rfl

theorem received_held {s : State} {c : Core} {n : Nat} {p : Bool} (h : isAttached s c n p = true) (f : Ring → Ring) (i : Nat)
    (sd : BitVec 5) (v : W64) : heldSlots (received s c n p f i sd v) c n p = heldSlots s c n p ++ [i] := by
  have hat : isAttached (s.modRing n f) c n p = true := by rw [isAttached, modRing_seqr]; exact h
  have hseq : ((modHeld (s.modRing n f) c n p (fun xs => xs ++ [i])).modSeqr c (fun q => q.writeS sd v)).seqr c =
      ((modHeld (s.modRing n f) c n p (fun xs => xs ++ [i])).seqr c).writeS sd v := State.modSeqr_seqr ..
  have hattached (q : Seqr) : (q.writeS sd v).attached = q.attached := by
    unfold Seqr.writeS Seqr.setS
    split <;> rfl
  have hwrite := heldSlots_congr (s := modHeld (s.modRing n f) c n p (fun xs => xs ++ [i])) (by rw [hseq, hattached]) n p
  rw [received, heldSlots_advance, hwrite, heldSlots_modHeld _ hat, heldSlots_modRing]

theorem ringGive_executes {s : State} {c : Core} {g : Guard} {sa : BitVec 5} {imm : BitVec 32} {n i : Nat} {is : List Nat}
    (hx : Executes s c g [sa]) (hn : RingNo s c sa imm n) (hheld : heldSlots s c n false = i :: is) (hroom : RingQueueRoom s c) :
    exec (.ringGive c g sa imm) s = .next (advance ((modHeld s c n false (fun xs => xs.drop 1)).modRing n Ring.give) c 8) := by
  change execRingGive c g sa imm s = _
  rw [execRingGive, issue_executes hx (by cases c <;> rfl), withRing_named hn, hheld, ringRoom_of_room hroom]
  rfl

theorem ringPost_miller {s : State} {m : Nat} {g : Guard} {sa : BitVec 5} {imm : BitVec 32} {n i : Nat} {is : List Nat}
    (hx : Executes s (.miller m) g [sa]) (hn : RingNo s (.miller m) sa imm n) (hheld : heldSlots s (.miller m) n true = i :: is)
    (hq : (s.miller m).atomQ = []) :
    exec (.ringPost (.miller m) g sa imm) s =
      .next (advance ((modHeld s (.miller m) n true (fun xs => xs.drop 1)).modRing n Ring.post) (.miller m) 8) := by
  change execRingPost (.miller m) g sa imm s = _
  rw [execRingPost, issue_executes hx rfl, withRing_named hn, hheld]
  dsimp only
  rw [hq]
  rfl

/-- A slot that its producer or consumer returns to the ring. R285. -/
theorem returned_fields {s : State} {c : Core} {n i : Nat} {p : Bool} {is : List Nat} (h : heldSlots s c n p = i :: is) (f : Ring → Ring)
    {t : State} (ht : t = advance ((modHeld s c n p (fun xs => xs.drop 1)).modRing n f) c 8) :
    t.mem = s.mem ∧ t.ring n = f (s.ring n) ∧ (∀ j, j ≠ n → t.ring j = s.ring j) ∧ heldSlots t c n p = is ∧
      (t.seqr c).pc = (s.seqr c).pc + 8 := by
  have hring (j : Nat) : t.ring j = if j = n then f (s.ring n) else s.ring j := by
    have hsame (k : Nat) : (modHeld s c n p (fun xs => xs.drop 1)).ring k = s.ring k := ring_congr (State.modSeqr_hif ..) k
    rw [ht, ring_congr (advance_hif ..), State.modRing_ring, hsame, hsame]
  refine ⟨?_, ?_, fun j hj => ?_, ?_, ?_⟩
  · rw [ht, advance_mem, State.modRing_mem, modHeld, State.modSeqr_mem]
  · rw [hring, if_pos rfl]
  · rw [hring, if_neg hj]
  · rw [ht, heldSlots_advance, heldSlots_modRing, heldSlots_modHeld _ (isAttached_of_held h), h]
    rfl
  · rw [ht, advance_core, modRing_seqr, modHeld, State.modSeqr_seqr]

/-! ## A tile's posts -/

/-- A sequencer whose oldest slot of ring `n` is posted. R285. -/
def Seqr.posted (q : Seqr) (n : Nat) : Seqr :=
  { q with attached := mapWhere (fun a => a.ring == n && a.producer == true) (fun a => { a with slots := a.slots.drop 1 }) q.attached }

/-- A tile's post in its stream and ring queue. R287. -/
def postQueued (s : State) (l n : Nat) : State :=
  s.modTile (s.phys l) (fun t => { t with seqr := Seqr.posted t.seqr n, iseq := t.iseq + 1, strmQ := t.strmQ ++ [.post t.iseq n] })

theorem ringPost_tile {s : State} {l : Nat} {g : Guard} {sa : BitVec 5} {imm : BitVec 32} {n i : Nat} {is : List Nat}
    (hx : Executes s (.tile l) g [sa]) (hn : RingNo s (.tile l) sa imm n) (hheld : heldSlots s (.tile l) n true = i :: is)
    (hroom : (s.tile (s.phys l)).strmQ.length < 8) :
    exec (.ringPost (.tile l) g sa imm) s = .next (advance (postQueued s l n) (.tile l) 8) := by
  have hhold : modHeld s (.tile l) n true (fun xs => xs.drop 1) =
      s.modTile (s.phys l) (fun t => { t with seqr := Seqr.posted t.seqr n }) := rfl
  have hqueue : (takeIseq (modHeld s (.tile l) n true (fun xs => xs.drop 1)) l).1.modTile (s.phys l) (fun t => { t with
      strmQ := t.strmQ ++ [.post (takeIseq (modHeld s (.tile l) n true (fun xs => xs.drop 1)) l).2 n] }) = postQueued s l n := by
    have hphys : (s.modTile (s.phys l) (fun t => { t with seqr := Seqr.posted t.seqr n })).phys l = s.phys l := rfl
    rw [hhold, takeIseq, hphys, State.modTile_tile_same, modTile_modTile, modTile_modTile]
    exact modTile_congr rfl
  change execRingPost (.tile l) g sa imm s = _
  rw [execRingPost, issue_executes hx rfl, withRing_named hn, hheld, ← hqueue]
  dsimp only
  rw [if_neg (Nat.not_le_of_lt hroom)]
  rfl

theorem postQueued_seqr (s : State) (l n : Nat) : (postQueued s l n).seqr (.tile l) = Seqr.posted (s.seqr (.tile l)) n :=
  congrArg Tile.seqr (State.modTile_tile_same ..)

theorem postQueued_held {s : State} {l n i : Nat} {is : List Nat} (h : heldSlots s (.tile l) n true = i :: is) :
    heldSlots (postQueued s l n) (.tile l) n true = is := by
  have hhold : (modHeld s (.tile l) n true (fun xs => xs.drop 1)).seqr (.tile l) = Seqr.posted (s.seqr (.tile l)) n :=
    State.modSeqr_seqr ..
  rw [heldSlots_congr (s := modHeld s (.tile l) n true (fun xs => xs.drop 1)) (by rw [postQueued_seqr, hhold]),
    heldSlots_modHeld _ (isAttached_of_held h), h]
  rfl

theorem startStrmQ_post {s : State} {l k n : Nat} {q : List StrmOp} {r : Run} (hq : (s.tile (s.phys l)).strmQ = .post k n :: q)
    (hr : s.runOf l = some r) (hposts : ∀ o ∈ q, o.starts = false) (hrel : releasedBefore s l k = true) :
    exec (.queuedOperationStart l .stream) s =
      .next ((s.modTile (s.phys l) (fun t => { t with strmQ := q })).modRing n Ring.post) := by
  have harms : (StrmOp.post k n :: q).filter StrmOp.starts = [] := by
    refine List.filter_eq_nil_iff.2 fun o ho => ?_
    rcases List.mem_cons.1 ho with rfl | ho
    · exact Bool.false_ne_true
    · rw [hposts o ho]
      exact Bool.false_ne_true
  have hstart : startable s l (.post k n :: q) = some (.post k n) := by
    rw [startable, harms]
    simp [StrmOp.starts, hrel]
  change execQueuedOperationStart l .stream s = _
  rw [execQueuedOperationStart, startStrmQ, hq]
  dsimp only
  rw [hstart, hr]
  dsimp only
  rw [List.erase_cons_head]

/-- Settles O20: a ring instruction that keeps the rules changes its end of the ring and what its sequencer holds. -/
theorem bucketRings : Obligations.BucketRings := by
  unfold Obligations.BucketRings
  refine ⟨?_, ?_, ?_, ?_, ?_, ?_, ?_, ?_⟩
  · intro s c g sa imm n hx hn hmay hroom
    refine ⟨fun hprod hnot => ?_, fun hcons hnot => ?_, fun ⟨a, ha, hne⟩ => ?_⟩
    · rw [ringAttachP_executes hx hn, attach_free hmay hroom (by simp [prodFree, hprod]) hnot]
      rfl
    · rw [ringAttachC_executes hx hn, attach_free hmay hroom (by simp [consFree, hcons]) hnot]
      rfl
    · rw [ringAttachP_executes hx hn, attach_taken hmay (by simp [prodFree, ha, hne])]
      rfl
  · intro s c g sa imm n hx hn hkind hheld hroom
    exact ringDetach_executes hx hn hkind hheld hroom
  · intro s c g sd sa imm n hx hn hat hroom q
    refine ⟨fun hlt => ?_, fun hge => ?_⟩
    · refine ⟨received s c n true Ring.claim q.i0 sd (slotFor s c n q.i0), ?_, received_mem .., ?_, ?_, received_held hat .., ?_, ?_,
        (received_seqr ..).1⟩
      · rw [ringClaim_executes hx hn hat hroom, Ring.canClaim, decide_eq_true hlt]
        rfl
      · rw [received_ring, if_pos rfl]
        rfl
      · intro j hj
        rw [received_ring, if_neg hj]
      · rw [received_s]
      · intro r hr
        rw [(received_seqr ..).2, if_neg fun h => hr h.1]
    · rw [ringClaim_executes hx hn hat hroom, Ring.canClaim, decide_eq_false (Nat.not_lt.2 hge)]
      rfl
  · intro s c g sd sa imm n hx hn hat hroom q
    refine ⟨fun hne => ?_, fun heq => ?_⟩
    · refine ⟨received s c n false Ring.take q.i2 sd (slotFor s c n q.i2), ?_, received_mem .., ?_, ?_, received_held hat .., ?_, ?_,
        (received_seqr ..).1⟩
      · have htake : (s.ring n).canTake = true := (canTake_iff _).2 hne
        rw [ringTake_executes hx hn hat hroom, htake]
        rfl
      · rw [received_ring, if_pos rfl]
        rfl
      · intro j hj
        rw [received_ring, if_neg hj]
      · rw [received_s]
      · intro r hr
        rw [(received_seqr ..).2, if_neg fun h => hr h.1]
    · have htake : (s.ring n).canTake = false := Bool.eq_false_iff.2 fun h => (canTake_iff _).1 h heq
      rw [ringTake_executes hx hn hat hroom, htake]
      rfl
  · intro s c g sa imm n i is hx hn hheld hroom
    exact ⟨_, ringGive_executes hx hn hheld hroom, returned_fields hheld Ring.give rfl⟩
  · intro s m g sa imm n i is hx hn hheld hq
    exact ⟨_, ringPost_miller hx hn hheld hq, returned_fields hheld Ring.post rfl⟩
  · intro s l g sa imm n i is hx hn hheld t0 hroom
    obtain ⟨hs, window, seqr, htile⟩ := advance_tile_units (postQueued s l n) l 8 (s.phys l)
    refine ⟨_, ringPost_tile hx hn hheld hroom, advance_mem .., advance_hif .., ?_, ?_, ?_⟩
    · rw [htile, postQueued, State.modTile_tile_same]
    · rw [heldSlots_advance, postQueued_held hheld]
    · rw [advance_core, postQueued_seqr]
      rfl
  · intro s l k n q r hq hr hposts hrel
    refine ⟨_, startStrmQ_post hq hr hposts hrel, rfl, ?_, ?_⟩
    · exact congrArg Tile.strmQ (State.modTile_tile_same s (s.phys l) (fun t => { t with strmQ := q }))
    · exact State.modRing_ring_same ..

end Sys2Proof.Proofs
end

section
/-! `strm.arm` and `strm.rearm` (06, R276 to R279; 08, R349, R350, R355). -/

namespace Sys2Proof.Proofs
open Sys2Proof Sys2Proof.Machine

/-! ## Frames -/

/-- References change the generations of Grist slots only. R211. -/
theorem takeRefs_frame (rs : List GRef) (s : State) : takeRefs s rs = { s with gslots := (takeRefs s rs).gslots } := by
  induction rs generalizing s with
  | nil => rfl
  | cons r rs ih =>
    have h := ih (gtake s r.slot r.gen)
    exact h

/-- Ring changes in a row. -/
theorem modRings_frame (f : Ring → Ring) (qs : List Nat) (s : State) :
    qs.foldl (fun s r => s.modRing r f) s = { s with hif := (qs.foldl (fun s r => s.modRing r f) s).hif } := by
  induction qs generalizing s with
  | nil => rfl
  | cons q qs ih =>
    have h := ih (s.modRing q f)
    exact h

theorem modRings_field {α : Type} (get : Ring → α) {f : Ring → Ring} {v : α} (hf : ∀ x, get (f x) = v) (qs : List Nat) {s : State}
    {q : Nat} (h : q ∈ qs ∨ get (s.ring q) = v) : get ((qs.foldl (fun s r => s.modRing r f) s).ring q) = v := by
  induction qs generalizing s with
  | nil => exact h.resolve_left List.not_mem_nil
  | cons p qs ih =>
    refine ih ?_
    rw [State.modRing_ring]
    split
    · exact .inr (hf _)
    · next hne =>
      rcases h with h | h
      · exact (List.mem_cons.1 h).elim (fun h => absurd h hne) .inl
      · exact .inr h

theorem modRings_keeps {α : Type} (get : Ring → α) {f : Ring → Ring} (hf : ∀ x, get (f x) = get x) (qs : List Nat) (s : State) (q : Nat) :
    get ((qs.foldl (fun s r => s.modRing r f) s).ring q) = get (s.ring q) := by
  induction qs generalizing s with
  | nil => rfl
  | cons p qs ih =>
    refine (ih _).trans ?_
    rw [State.modRing_ring]
    split
    · next h => rw [hf, h]
    · rfl

theorem attachRings_frame (s : State) (k : Nat) (d : StrmDesc) :
    attachRings s k d = { s with hif := (attachRings s k d).hif } := by
  unfold attachRings
  dsimp only
  rw [modRings_frame, modRings_frame _ d.srcRing.toList]

/-- The destination rings have the stream as their producer. R208. -/
theorem attachRings_prod (s : State) (k : Nat) (d : StrmDesc) {q : Nat} (h : q ∈ d.dstRings) :
    ((attachRings s k d).ring q).prod = some (.slot k) :=
  modRings_field Ring.prod (f := fun g => { g with prod := some (.slot k) }) (fun _ => rfl) d.dstRings (.inl h)

/-- The source ring has the stream as its consumer. R208. -/
theorem attachRings_cons (s : State) (k : Nat) (d : StrmDesc) {q : Nat} (h : d.srcRing = some q) :
    ((attachRings s k d).ring q).cons = some (.slot k) := by
  have hmem : q ∈ d.srcRing.toList := by rw [h]; exact List.mem_singleton_self q
  exact (modRings_keeps Ring.cons (f := fun g => { g with prod := some (.slot k) }) (fun _ => rfl) d.dstRings _ q).trans
    (modRings_field Ring.cons (f := fun g => { g with cons := some (.slot k) }) (fun _ => rfl) d.srcRing.toList (.inl hmem))

/-- A stream's rings and references are taken. R208, R211. -/
def taken (s : State) (k : Nat) (d : StrmDesc) (refs : List GRef) : State := takeRefs (attachRings s k d) refs

theorem taken_frame (s : State) (k : Nat) (d : StrmDesc) (refs : List GRef) :
    taken s k d refs = { s with hif := (attachRings s k d).hif, gslots := (taken s k d refs).gslots } := by
  have hattach := attachRings_frame s k d
  unfold taken
  rw [takeRefs_frame]
  generalize attachRings s k d = a at hattach ⊢
  rw [hattach]

/-! ## Passes -/

theorem passIssue_count (s : State) (k : Nat) : passesIssued (passIssue s k).1 k = passesIssued s k + 1 ∧
    (passIssue s k).2 = passesIssued s k + 1 := by
  refine ⟨?_, rfl⟩
  rw [passesIssued, passIssue, State.modMrc_mrc_same]
  exact tget_tset_same 0 (s.mrc (k / 256)).passIss (k % 256) (passesIssued s k + 1)

theorem passIssue_slot (s : State) (k j : Nat) : (passIssue s k).1.slot j = s.slot j := by
  rw [State.slot, passIssue, State.modMrc_mrc]
  split
  · next h => rw [State.slot, h]
  · rfl

theorem passIssue_modTile (s : State) (p k : Nat) (f : Tile → Tile) :
    passIssue (s.modTile p f) k = ((passIssue s k).1.modTile p f, passesIssued s k + 1) := rfl

/-! ## A tile's arm -/

/-- An arm of a tile in its stream and ring queue: rings and references are taken at issue. R213, R277, R722. -/
def armQueued (s : State) (l k : Nat) (d : StrmDesc) (refs : List GRef) : State :=
  (passIssue (taken s k d refs) k).1.modTile (s.phys l) (fun t => { t with
    iseq := t.iseq + 1
    strmQ := t.strmQ ++ [.arm t.iseq t.seqr.pc k (passesIssued s k + 1) d refs false] })

theorem armTile_queues {s : State} {l k : Nat} {r : Run} {bs : List Byte}
    (hf : strmFieldsOk bs (strmDesc bs) true r.rr.tileList.length r.rr.nGrist = true)
    (hm : mcastFlt s k { ctx := r.rr.ctx, run := some r.rid, tile := some l } (strmDesc bs) = .none)
    (hp : ∀ f ∈ strmPlaces s r.rr.ctx (strmDesc bs) ++ strmStates s (.tile l) k (strmDesc bs), f = Flt.none)
    (hroom : (s.tile (s.phys l)).strmQ.length < 8) :
    armTile s (.tile l) l r k bs true = .done (armQueued s l k (strmDesc bs) (strmRefs s r.rr.ctx (strmDesc bs))) := by
  have hflt : firstFlt ([faultIf (!true) .eccUncorrectable,
      faultIf (!strmFieldsOk bs (strmDesc bs) true r.rr.tileList.length r.rr.nGrist) .operandInvalid,
      mcastFlt s k { ctx := r.rr.ctx, run := some r.rid, tile := some l } (strmDesc bs)] ++ strmPlaces s r.rr.ctx (strmDesc bs) ++
      strmStates s (.tile l) k (strmDesc bs)) = .none := by
    rw [List.append_assoc, firstFlt_after, (firstFlt_eq_none _).2 hp]
    rw [hf, hm]
    rfl
  have hframe := taken_frame s k (strmDesc bs) (strmRefs s r.rr.ctx (strmDesc bs))
  rw [armTile, hflt, if_neg (by simp), if_neg (Nat.not_le_of_lt hroom), armQueued]
  rw [taken] at hframe ⊢
  dsimp only
  generalize takeRefs (attachRings s k (strmDesc bs)) (strmRefs s r.rr.ctx (strmDesc bs)) = x at hframe ⊢
  have hphys : x.phys l = s.phys l := by rw [hframe]; rfl
  have htile : x.tile (s.phys l) = s.tile (s.phys l) := by rw [hframe]; rfl
  have hpasses : passesIssued x k = passesIssued s k := by rw [hframe]; rfl
  rw [takeIseq, hphys, htile, ← hpasses]
  dsimp only
  rw [passIssue_modTile, modTile_modTile]
  refine congrArg Iss.done (modTile_congr ?_)
  have hsame : (passIssue x k).1.tile (s.phys l) = s.tile (s.phys l) := htile
  rw [hsame]
  rfl

theorem armQueued_frame (s : State) (l k : Nat) (d : StrmDesc) (refs : List GRef) : armQueued s l k d refs = { s with
    tiles := (armQueued s l k d refs).tiles
    hif := (attachRings s k d).hif
    gslots := (taken s k d refs).gslots
    mrcs := (passIssue s k).1.mrcs } := by
  have h := taken_frame s k d refs
  rw [armQueued]
  generalize taken s k d refs = x at h ⊢
  rw [h]
  rfl

theorem armQueued_tile (s : State) (l k : Nat) (d : StrmDesc) (refs : List GRef) :
    (armQueued s l k d refs).tile (s.phys l) = { s.tile (s.phys l) with
      iseq := (s.tile (s.phys l)).iseq + 1
      strmQ := (s.tile (s.phys l)).strmQ ++
        [.arm (s.tile (s.phys l)).iseq (s.seqr (.tile l)).pc k (passesIssued s k + 1) d refs false] } := by
  have h := taken_frame s k d refs
  rw [armQueued, State.modTile_tile_same]
  generalize taken s k d refs = x at h ⊢
  rw [h]
  rfl

theorem armQueued_mem (s : State) (l k : Nat) (d : StrmDesc) (refs : List GRef) : (armQueued s l k d refs).mem = s.mem := by
  rw [armQueued_frame]

theorem armQueued_ring (s : State) (l k : Nat) (d : StrmDesc) (refs : List GRef) {q : Nat} :
    (advance (armQueued s l k d refs) (.tile l) 8).ring q = (attachRings s k d).ring q := by
  refine ring_congr ?_ q
  rw [advance_hif, armQueued_frame]

theorem armQueued_mrcs (s : State) (l k : Nat) (d : StrmDesc) (refs : List GRef) :
    (advance (armQueued s l k d refs) (.tile l) 8).mrcs = (passIssue s k).1.mrcs := by
  rw [advance_tile_frame, armQueued_frame]

theorem armQueued_seqr (s : State) (l k : Nat) (d : StrmDesc) (refs : List GRef) :
    (armQueued s l k d refs).seqr (.tile l) = s.seqr (.tile l) := by
  have hphys : (armQueued s l k d refs).phys l = s.phys l := by
    rw [armQueued_frame]
    rfl
  rw [State.seqr, hphys, armQueued_tile]
  rfl

theorem passesIssued_congr {s t : State} (h : t.mrcs = s.mrcs) (k : Nat) : passesIssued t k = passesIssued s k := by
  rw [passesIssued, passesIssued, State.mrc, State.mrc, h]

theorem slot_congr {s t : State} (h : t.mrcs = s.mrcs) (j : Nat) : t.slot j = s.slot j := by
  rw [State.slot, State.slot, State.mrc, State.mrc, h]

theorem strmArm_tile {s s1 : State} {l k : Nat} {g : Guard} {ab : BitVec 4} {slot : BitVec 6} {off : BitVec 32} {r : Run} {pl : Place}
    {bs : List Byte} (hx : Executes s (.tile l) g []) (hr : s.runOf l = some r) (hk : r.slots[slot.toNat]? = some k)
    (halign : 64 ∣ (effAddr (s.seqr (.tile l)) ab off).toNat) (hlt : (effAddr (s.seqr (.tile l)) ab off).toNat < 2 ^ 32)
    (hrange : mpRange s r l (effAddr (s.seqr (.tile l)) ab off).toNat false 64 = .none)
    (hpl : mpPlace s r l (effAddr (s.seqr (.tile l)) ab off).toNat = some pl) (hread : readBytes s pl 64 = (s1, bs, .ok)) :
    exec (.strmArm (.tile l) g ab slot off) s = .next (finish (.tile l) {} (armTile s1 (.tile l) l r k bs true)) := by
  have hslot : slotOf s (.tile l) slot.toNat = some k := by
    rw [slotOf, hr]
    exact hk
  have hat : armTileAt s (.tile l) l r k (effAddr (s.seqr (.tile l)) ab off) = armTile s1 (.tile l) l r k bs true := by
    obtain ⟨F, hF⟩ : ∃ F, F = armTileAt := ⟨_, rfl⟩
    obtain ⟨f, hf⟩ : ∃ f, f = readBytes := ⟨_, rfl⟩
    rw [← hF]
    delta armTileAt at hF
    rw [← hf] at hF hread
    rw [hF]
    simp only [Nat.mod_eq_zero_of_dvd halign, hlt, hrange, hpl, hread, ne_eq, not_true_eq_false, if_false, if_true]
    rfl
  change execStrmArm (.tile l) g ab slot off s = _
  rw [execStrmArm, issue_executes hx rfl]
  dsimp only
  rw [hslot]
  dsimp only
  rw [onTile_run hr, hat]

/-! ## An arm by a Miller core -/

/-- A stream that a Miller core starts at once. R258, R277. -/
def armStarted (s : State) (m k : Nat) (d : StrmDesc) (refs : List GRef) : State :=
  startStrm (passIssue (taken s k d refs) k).1 k d.ctx none none (some m) 0xFFFFFFFF d refs false

theorem slotOf_firmware {s : State} {m i k : Nat} (h : FirmwareSlot s m i k) : slotOf s (.miller m) i = some k := by
  obtain ⟨hi, hflume, rfl⟩ := h
  rw [slotOf]
  simp [hi, hflume]

theorem strmArm_miller {s : State} {m k : Nat} {g : Guard} {ab : BitVec 4} {slot : BitVec 6} {off : BitVec 32}
    (hx : Executes s (.miller m) g []) (hk : FirmwareSlot s m slot.toNat k) {ea : Nat}
    (hea : ea = (effAddr (s.seqr (.miller m)) ab off).toNat) (halign : 64 ∣ ea) {d : StrmDesc}
    (hd : d = strmDesc (s.bytes (svcKey m ea) 64)) (hf : strmFieldsOk (s.bytes (svcKey m ea) 64) d false 0 0 = true)
    (hm : mcastFlt s k { ctx := d.ctx, service := some m } d = .none)
    (hp : ∀ f ∈ strmPlaces s d.ctx d ++ strmStates s (.miller m) k d, f = Flt.none) (hfree : (s.slot k).st = .free) :
    exec (.strmArm (.miller m) g ab slot off) s = .next (advance (armStarted s m k d (strmRefs s d.ctx d)) (.miller m) 8) := by
  have hflt : firstFlt ([faultIf (!strmFieldsOk (s.bytes (svcKey m ea) 64) d false 0 0) .operandInvalid,
      mcastFlt s k { ctx := d.ctx, service := some m } d] ++ strmPlaces s d.ctx d ++ strmStates s (.miller m) k d) = .none := by
    rw [List.append_assoc, firstFlt_after, (firstFlt_eq_none _).2 hp]
    rw [hf, hm]
    rfl
  have harm : armSvc s (.miller m) m k (effAddr (s.seqr (.miller m)) ab off) = .done (armStarted s m k d (strmRefs s d.ctx d)) := by
    rw [armSvc, ← hea]
    dsimp only
    rw [← hd, hflt, if_neg (by simp [Nat.mod_eq_zero_of_dvd halign]), if_neg (by simp), if_neg (by simp [hfree])]
    rfl
  change execStrmArm (.miller m) g ab slot off s = _
  rw [execStrmArm, issue_executes hx rfl]
  dsimp only
  rw [slotOf_firmware hk]
  dsimp only
  rw [harm]
  rfl

theorem armStarted_slot (s : State) (m k : Nat) (d : StrmDesc) (refs : List GRef) (j : Nat) : (armStarted s m k d refs).slot j =
    if j = k then { st := .running, ctx := d.ctx, service := some m, desc := some d, refs := refs } else s.slot j := by
  have h := taken_frame s k d refs
  rw [armStarted, startStrm, State.modSlot_slot, passIssue_slot]
  split
  · rfl
  · rw [h]
    rfl

theorem armStarted_frame (s : State) (m k : Nat) (d : StrmDesc) (refs : List GRef) : armStarted s m k d refs = { s with
    hif := (attachRings s k d).hif
    gslots := (taken s k d refs).gslots
    mrcs := (armStarted s m k d refs).mrcs } := by
  have h := taken_frame s k d refs
  rw [armStarted]
  generalize taken s k d refs = x at h ⊢
  rw [h]
  rfl

theorem armStarted_ring (s : State) (m k : Nat) (d : StrmDesc) (refs : List GRef) {q : Nat} :
    (advance (armStarted s m k d refs) (.miller m) 8).ring q = (attachRings s k d).ring q := by
  refine ring_congr ?_ q
  rw [advance_hif, armStarted_frame]

theorem armStarted_seqr (s : State) (m k : Nat) (d : StrmDesc) (refs : List GRef) :
    (armStarted s m k d refs).seqr (.miller m) = s.seqr (.miller m) := by
  have hmillers : (armStarted s m k d refs).millers = s.millers := by rw [armStarted_frame]
  rw [State.seqr, State.miller, hmillers]
  rfl

theorem advance_mrcs (s : State) (c : Core) (n : W64) : (advance s c n).mrcs = s.mrcs := by
  cases c with
  | tile l => rw [advance_tile_frame]
  | miller m => rfl

/-! ## Re-arms -/

theorem executes_fewer {s : State} {c : Core} {g : Guard} {rs rs' : List (BitVec 5)} (h : Executes s c g rs) (hsub : rs' ⊆ rs) :
    Executes s c g rs' := by
  obtain ⟨hissue, hguard, hdata⟩ := h
  exact ⟨hissue, hguard, fun r hr => hdata r (hsub hr)⟩

theorem strmRearm_tile {s : State} {l k : Nat} {g : Guard} {slot : BitVec 6} {sa sb : BitVec 5} {kd ki : Bool} {r : Run} {d : StrmDesc}
    (hx : Executes s (.tile l) g ((if kd then [] else [sa]) ++ (if ki then [] else [sb]))) (hwf : wfRearm sa sb kd ki = true)
    (hr : s.runOf l = some r) (hk : r.slots[slot.toNat]? = some k) (hd : issStream s (.tile l) k = some d) (hp : d.persist = true)
    (hroom : (s.tile (s.phys l)).strmQ.length < 8) :
    exec (.strmRearm (.tile l) g slot sa sb kd ki) s = .next (Queued (passIssue s k).1 l 8 (fun t => { t with
      strmQ := t.strmQ ++ [.rearm (s.tile (s.phys l)).iseq (s.seqr (.tile l)).pc k (passesIssued s k + 1)
        (if kd then none else some ((s.seqr (.tile l)).s sa)) (if ki then none else some ((s.seqr (.tile l)).s sb)) false] })) := by
  have hslot : slotOf s (.tile l) slot.toNat = some k := by
    rw [slotOf, hr]
    exact hk
  change execStrmRearm (.tile l) g slot sa sb kd ki s = _
  rw [execStrmRearm, issue_executes hx (by simpa [Form.allowed, Core.isTile] using hwf)]
  dsimp only
  rw [hslot]
  dsimp only
  rw [hd]
  dsimp only
  rw [hp, if_neg (show ¬(!true) = true by simp), if_neg (Nat.not_le_of_lt hroom), takeIseq]
  dsimp only
  rw [passIssue_modTile, modTile_modTile]
  rfl

theorem strmRearm_miller {s : State} {m k : Nat} {g : Guard} {slot : BitVec 6} {sa sb : BitVec 5} {d : StrmDesc}
    (hx : Executes s (.miller m) g [sa, sb]) (hk : FirmwareSlot s m slot.toNat k) (hst : (s.slot k).st = .passDone)
    (hd : (s.slot k).desc = some d) (hp : d.persist = true) :
    exec (.strmRearm (.miller m) g slot sa sb false false) s = .next (advance (rearmSlot (passIssue s k).1 k
      (some ((s.seqr (.miller m)).s sa)) (some ((s.seqr (.miller m)).s sb)) false) (.miller m) 8) := by
  have hiss : issStream s (.miller m) k = some d := by
    have harm : lastArm s (.miller m) k = none := rfl
    rw [issStream, harm]
    simp only [hst, hd]
    rfl
  change execStrmRearm (.miller m) g slot sa sb false false s = _
  rw [execStrmRearm, issue_executes hx rfl]
  dsimp only
  rw [slotOf_firmware hk]
  dsimp only
  rw [hiss]
  dsimp only
  rw [hp, if_neg (show ¬(!true) = true by simp), if_pos hst]
  rfl

/-- The next pass of a persistent stream. R278, R350, R355. -/
theorem rearmSlot_fields {s : State} {k : Nat} {d : StrmDesc} (hd : (s.slot k).desc = some d) (data index : W64) {t : State}
    (ht : t = rearmSlot s k (some data) (some index) false) :
    t.mem = s.mem ∧ t.hif = s.hif ∧ t.millers = s.millers ∧ (t.slot k).st = .running ∧ (t.slot k).next = {} ∧
      (t.slot k).issuedAll = false ∧ (t.slot k).desc = some { d with dataBase := data, indexBase := index } ∧
      ∀ j, j ≠ k → t.slot j = s.slot j := by
  rw [rearmSlot, hd] at ht
  dsimp only [Option.getD_some] at ht
  rw [takeRefs_frame, dropRefs_frame] at ht
  have hslot (j : Nat) := congrArg (fun x => State.slot x j) ht
  simp only [State.modSlot_slot] at hslot
  refine ⟨by rw [ht]; rfl, by rw [ht]; rfl, by rw [ht]; rfl, ?_, ?_, ?_, ?_, fun j hj => ?_⟩
  · rw [hslot, if_pos rfl]
    rfl
  · rw [hslot, if_pos rfl]
    rfl
  · rw [hslot, if_pos rfl]
    rfl
  · rw [hslot, if_pos rfl]
    rfl
  · rw [hslot, if_neg hj]
    rfl

/-- Settles O21: an arm and a re-arm pass their checks; a tile's waits in its queue and a Miller core's starts. -/
theorem streamsArm : Obligations.StreamsArm := by
  unfold Obligations.StreamsArm
  refine ⟨?_, ?_, ?_, ?_⟩
  · intro s s1 l k g ab slot off r pl bs hx hr hk ea d halign hlt hrange hpl hread hf hm hp hroom
    obtain ⟨hs, window, seqr, htile⟩ := advance_tile_units (armQueued s1 l k d (strmRefs s1 r.rr.ctx d)) l 8 (s1.phys l)
    refine ⟨advance (armQueued s1 l k d (strmRefs s1 r.rr.ctx d)) (.tile l) 8, ?_, ?_, ?_, ?_, ?_, ?_, ?_, ?_⟩
    · rw [strmArm_tile hx hr hk halign hlt hrange hpl hread, armTile_queues hf hm hp hroom]
      rfl
    · rw [advance_mem, armQueued_mem]
    · rw [htile, armQueued_tile]
    · exact (passesIssued_congr (armQueued_mrcs ..) k).trans (passIssue_count s1 k).1
    · intro q hq
      rw [armQueued_ring, attachRings_prod s1 k d hq]
    · intro q hq
      rw [armQueued_ring, attachRings_cons s1 k d hq]
    · exact fun j => (slot_congr (armQueued_mrcs ..) j).trans (passIssue_slot s1 k j)
    · rw [advance_core, armQueued_seqr]
  · intro s m k g ab slot off hx hk ea bs d halign hf hm hp hfree
    have hframe := armStarted_frame s m k d (strmRefs s d.ctx d)
    refine ⟨advance (armStarted s m k d (strmRefs s d.ctx d)) (.miller m) 8, strmArm_miller hx hk rfl halign rfl hf hm hp hfree, ?_, ?_, ?_, ?_, ?_, ?_⟩
    · rw [advance_mem, hframe]
    · rw [slot_congr (advance_mrcs ..), armStarted_slot, if_pos rfl]
    · intro j hj
      rw [slot_congr (advance_mrcs ..), armStarted_slot, if_neg hj]
    · intro q hq
      rw [armStarted_ring, attachRings_prod s k d hq]
    · intro q hq
      rw [armStarted_ring, attachRings_cons s k d hq]
    · rw [advance_core, armStarted_seqr]
  · intro s l k g slot sa sb r d hx hr hk hd t0 rearm s1 hp hroom
    refine ⟨(passIssue_count s k).1, passIssue_slot s k, ?_, ?_⟩
    · exact strmRearm_tile (kd := false) (ki := false) hx rfl hr hk hd hp hroom
    · exact strmRearm_tile (kd := true) (ki := true) (executes_fewer hx (List.nil_subset _)) rfl hr hk hd hp hroom
  · intro s m k g slot sa sb d hx hk hst hd hp
    have hd' : ((passIssue s k).1.slot k).desc = some d := by rw [passIssue_slot, hd]
    obtain ⟨hmem, hhif, hmillers, h1, h2, h3, h4, h5⟩ :=
      rearmSlot_fields hd' ((s.seqr (.miller m)).s sa) ((s.seqr (.miller m)).s sb) rfl
    refine ⟨_, strmRearm_miller hx hk hst hd hp, ?_, ?_, ?_⟩
    · rw [advance_mem, hmem]
      rfl
    · rw [advance_hif, hhif]
      rfl
    · have hslot (j : Nat) := slot_congr (advance_mrcs (rearmSlot (passIssue s k).1 k (some ((s.seqr (.miller m)).s sa))
        (some ((s.seqr (.miller m)).s sb)) false) (.miller m) 8) j
      rw [hslot]
      refine ⟨h1, h2, h3, h4, fun j hj => ?_, ?_⟩
      · rw [hslot, h5 j hj, passIssue_slot]
      · rw [advance_core]
        dsimp only
        rw [State.seqr, State.miller, hmillers]
        rfl

end Sys2Proof.Proofs
end

section
/-! `strm.wait`, `strm.halt` and `strm.resume` (06, R280 to R282; 08, R376). -/

namespace Sys2Proof.Proofs
open Sys2Proof Sys2Proof.Machine

theorem strmWait_executes {s : State} {c : Core} {k : Nat} {g : Guard} {slot : BitVec 6} (hx : Executes s c g [])
    (hk : slotOf s c slot.toNat = some k) :
    exec (.strmWait c g slot) s = .next (if passesIssued s k ≤ passesEnded s k
      then advance s c 8 else s.modSeqr c (fun q => { q with hold := .strm k (passesIssued s k) })) := by
  change execStrmWait c g slot s = _
  rw [execStrmWait, issue_executes hx (by cases c <;> rfl)]
  simp only [hk]
  by_cases h : passesIssued s k ≤ passesEnded s k
  · simp only [passOver, h, decide_true, if_true]
    rfl
  · simp only [passOver, h, decide_false, Bool.false_eq_true, if_false]
    rfl

theorem strmHalt_executes {s : State} {c : Core} {k : Nat} {g : Guard} {slot : BitVec 6} (hx : Executes s c g [])
    (hk : slotOf s c slot.toNat = some k) : exec (.strmHalt c g slot) s = .next (advance (haltStrm s c k) c 8) := by
  change execStrmHalt c g slot s = _
  rw [execStrmHalt, issue_executes hx (by cases c <;> rfl)]
  simp only [hk]
  rfl

theorem lastArm_none {s : State} {c : Core} {k : Nat} (h : queuedBy s c k = []) : lastArm s c k = none := by
  rw [lastArm, h]
  rfl

theorem haltStrm_running {s : State} {c : Core} {k : Nat} (h : queuedBy s c k = []) (hst : (s.slot k).st = .running) :
    haltStrm s c k = s.modSlot k (fun y => { y with haltReq := true }) := by
  rw [haltStrm, lastArm_none h]
  exact if_pos hst

theorem haltStrm_not_running {s : State} {c : Core} {k : Nat} (h : queuedBy s c k = []) (hst : (s.slot k).st ≠ .running) :
    haltStrm s c k = s := by
  rw [haltStrm, lastArm_none h]
  dsimp only
  rw [if_neg hst, h]
  exact ite_self _

/-- The one arm that waits is the one to halt. R281. -/
theorem haltStrm_queued {s : State} {l k n i : Nat} {r : Run} {pc : W64} {d : StrmDesc} {refs : List GRef} {h : Bool}
    (hr : s.runOf l = some r) (htiles : r.rr.tileList = [l]) (hq : (s.tile (s.phys l)).strmQ = [.arm n pc k i d refs h]) :
    haltStrm s (.tile l) k =
      s.modTile (s.phys l) (fun t => { t with strmQ := t.strmQ.map (StrmOp.noteHalt k i) }) := by
  have hqueued : queuedBy s (.tile l) k = [.arm n pc k i d refs h] := by
    rw [queuedBy, hr]
    dsimp only
    rw [queuedFor, htiles, List.flatMap_singleton, hq]
    simp
  have hlast : lastArm s (.tile l) k = some (i, d) := by
    rw [lastArm, hqueued]
    simp [armsOf]
  rw [haltStrm, hlast]
  dsimp only
  rw [noteHalt, hr]
  dsimp only
  rw [htiles]
  rfl

/-! ## Resumption -/

theorem strmResume_executes {s : State} {m : Nat} {g : Guard} {sa sb : BitVec 5} (hx : Executes s (.miller m) g [sa, sb]) :
    exec (.strmResume (.miller m) g sa sb) s = .next (advance (resumeSlot s
      (256 * (((s.seqr (.miller m)).s sa).toNat % 4) + ((s.seqr (.miller m)).s sb).toNat % 256)) (.miller m) 8) := by
  change execStrmResume (.miller m) g sa sb s = _
  rw [execStrmResume, issue_executes hx rfl]
  rfl

theorem resumeSlot_idle {s : State} {k : Nat} (h : (s.slot k).st ≠ .halted) : resumeSlot s k = s := by
  rw [resumeSlot]
  exact if_pos h

theorem resumeSlot_goes_on {s : State} {k : Nat} (h : (s.slot k).st = .halted) (hact : (s.slot k).actionFault = false) :
    resumeSlot s k = s.modSlot k (fun y => if (s.slot k).notice then { y with resume := true }
      else { y with reason := .none, resume := false }.launch (s.slot k).pos (s.slot k).idxPos (s.slot k).posBlock) := by
  simp only [resumeSlot, h, hact, ne_eq, not_true_eq_false, Bool.not_false, if_false, if_true]

theorem resumeSlot_ends {s : State} {k : Nat} (h : (s.slot k).st = .halted) (hact : (s.slot k).actionFault = true)
    (hrun : (s.slot k).run = none) : resumeSlot s k = passReset (freeSlot s k) k := by
  rw [resumeSlot]
  simp only [h, hact, hrun, ne_eq, not_true_eq_false, Bool.not_true, Bool.false_eq_true, if_false]

/-- A freed slot holds nothing. R354. -/
theorem freeSlot_slot (s : State) (k : Nat) : (freeSlot s k).slot k = {} := State.modSlot_slot_same ..

theorem passReset_slot (s : State) (k j : Nat) : (passReset s k).slot j = s.slot j := by
  rw [State.slot, passReset, State.modMrc_mrc]
  split
  · next h => rw [State.slot, h]
  · rfl

/-- Settles O22: a wait compares passes, a halt reaches the stream or the operation that starts it, and a resume goes on or ends. -/
theorem streamControl : Obligations.StreamControl := by
  unfold Obligations.StreamControl
  refine ⟨?_, ?_, ?_⟩
  · intro s c k g slot hx hk
    refine ⟨strmWait_executes hx hk, fun hq hst => ?_, fun hq hst => ?_⟩
    · rw [strmHalt_executes hx hk, haltStrm_running hq hst]
    · rw [strmHalt_executes hx hk, haltStrm_not_running hq hst]
  · intro s l k n i g slot r pc d refs h hx hr htiles hk hq
    have hslot : slotOf s (.tile l) slot.toNat = some k := by
      rw [slotOf, hr]
      exact hk
    obtain ⟨hs, window, seqr, htile⟩ := advance_tile_units (haltStrm s (.tile l) k) l 8 (s.phys l)
    refine ⟨_, strmHalt_executes hx hslot, ?_⟩
    rw [htile, haltStrm_queued hr htiles hq, State.modTile_tile_same]
    dsimp only
    rw [hq]
    simp [StrmOp.noteHalt]
  · intro s m g sa sb hx q k
    have hexec := strmResume_executes hx
    refine ⟨fun h => ?_, fun h hact hn => ?_, fun h hact hn => ?_, fun h hact hrun => ?_⟩
    · rw [hexec, resumeSlot_idle h]
    · rw [hexec, resumeSlot_goes_on h hact]
      simp only [k, q] at hn
      simp only [hn, if_true, k, q]
    · refine ⟨_, hexec, ?_⟩
      have hgo := resumeSlot_goes_on h hact
      have hat : (advance (resumeSlot s k) (.miller m) 8).slot k =
          { s.slot k with reason := .none, resume := false }.launch (s.slot k).pos (s.slot k).idxPos (s.slot k).posBlock := by
        rw [slot_congr (advance_mrcs ..), hgo, State.modSlot_slot_same]
        exact if_neg (by rw [hn]; exact Bool.false_ne_true)
      refine ⟨?_, ?_, ?_, ?_, ?_, ?_, ?_, fun j hj => ?_⟩
      · rw [advance_mem, hgo, State.modSlot_mem]
      · exact (congrArg Slot.st hat).trans rfl
      · exact (congrArg Slot.next hat).trans rfl
      · exact (congrArg Slot.nextIdx hat).trans rfl
      · exact (congrArg Slot.reason hat).trans rfl
      · exact (congrArg Slot.notice hat).trans hn
      · exact (congrArg Slot.desc hat).trans rfl
      · rw [slot_congr (advance_mrcs ..), hgo, State.modSlot_slot, if_neg hj]
    · refine ⟨_, hexec, ?_⟩
      rw [resumeSlot_ends h hact hrun, slot_congr (advance_mrcs ..), passReset_slot, freeSlot_slot]

end Sys2Proof.Proofs
end

section
/-! Sluice instructions and `fence` (06, R292, R293; 05, R222 to R224). -/

namespace Sys2Proof.Proofs
open Sys2Proof Sys2Proof.Machine

theorem queueAtom_queued {s : State} {l : Nat} {o : AtomOp} (h : (s.tile (s.phys l)).atomQ.length < 16) (f : Form) (hf : f.size = 8) :
    finish (.tile l) f (queueAtom s l o) = Queued s l 8 (fun t => { t with
      atomQ := t.atomQ ++ [{ o with iseq := (s.tile (s.phys l)).iseq }] }) := by
  rw [queueAtom_room o h, finish, hf, Queued, withAtom]
  exact congrArg (fun x => advance x (.tile l) 8) (modTile_congr rfl)

theorem localSluice_tile {s : State} {l v : Nat} {r : Run} (hr : s.runOf l = some r) (hv : v < 65536)
    (hn : v < (s.ctx r.rr.ctx).bind.sltCount) : localSluice s (.tile l) v = some (r.rr.ctx, v) := by
  have hbits : bitsOf v 16 47 = 0 := by
    rw [bitsOf]
    omega
  rw [localSluice, hr]
  simp only [hbits, Nat.mod_eq_of_lt hv, hn, ne_eq, not_true_eq_false, if_false, if_true]

theorem localSluice_miller {s : State} {m v : Nat} (hn : v % 65536 < (s.ctx (v / 65536 % 4096)).bind.sltCount) :
    localSluice s (.miller m) v = some (v / 65536 % 4096, v % 65536) := by
  have hbits : bitsOf v 16 12 = v / 65536 % 4096 := rfl
  rw [localSluice]
  simp only [hbits, hn, if_true]

theorem sluiceArrive_executes {s : State} {c : Core} {g : Guard} {sa : BitVec 5} {imm : BitVec 32} (hx : Executes s c g [sa]) {v : Nat}
    (hv : v = ((s.seqr c).s sa + BitVec.ofInt 64 imm.toInt).toNat) {ctx n : Nat} (hlocal : localSluice s c v = some (ctx, n))
    (hlt : c.isTile = false ∨ v < 2 ^ 63) :
    exec (.sluiceArrive c g sa imm) s = .next (finish c { reads := [sa] } (arriveAt s c {
      iseq := 0, pc := (s.seqr c).pc, kind := .arrive, addr := 0, operand := 1, ctx := ctx, sluice := n })) := by
  have hnot : ¬((c.isTile && decide (2 ^ 63 ≤ v)) = true) := by
    rcases hlt with h | h
    · simp [h]
    · rw [decide_eq_false (Nat.not_le.2 h), Bool.and_false]
      exact Bool.false_ne_true
  change execSluiceArrive c g sa imm s = _
  rw [execSluiceArrive, issue_executes hx (by cases c <;> rfl), sext32_eq]
  dsimp only
  rw [← hv, if_neg hnot, hlocal]

theorem sluiceArrive_global {s : State} {l : Nat} {g : Guard} {sa : BitVec 5} {imm : BitVec 32} {r : Run}
    (hx : Executes s (.tile l) g [sa]) (hr : s.runOf l = some r) {v : Nat}
    (hv : v = ((s.seqr (.tile l)).s sa + BitVec.ofInt 64 imm.toInt).toNat) (hge : 2 ^ 63 ≤ v) (hz : v / 65536 % 2 ^ 33 = 0) :
    exec (.sluiceArrive (.tile l) g sa imm) s = .next (finish (.tile l) { reads := [sa] } (queueAtom s l {
      iseq := 0, pc := (s.seqr (.tile l)).pc, kind := .arrive, addr := BitVec.ofNat 64 v, operand := 1, ctx := r.rr.ctx })) := by
  have hbits : ¬(bitsOf v 16 33 ≠ 0) := fun h => h hz
  have hyes : ((Core.tile l).isTile && decide (2 ^ 63 ≤ v)) = true := decide_eq_true hge
  have haddr : (s.seqr (.tile l)).s sa + BitVec.ofInt 64 imm.toInt = BitVec.ofNat 64 v := by
    rw [hv, BitVec.ofNat_toNat, BitVec.setWidth_eq]
  change execSluiceArrive (.tile l) g sa imm s = _
  rw [execSluiceArrive, issue_executes hx rfl, sext32_eq]
  dsimp only
  rw [← hv, if_pos hyes, if_neg hbits, onTile_run hr, haddr]

theorem sluiceWait_executes {s : State} {c : Core} {g : Guard} {sa : BitVec 5} {imm : BitVec 32} (hx : Executes s c g [sa]) {v : Nat}
    (hv : v = ((s.seqr c).s sa + BitVec.ofInt 64 imm.toInt).toNat) {ctx n : Nat} (hlocal : localSluice s c v = some (ctx, n))
    (hlt : c.isTile = false ∨ v < 2 ^ 63) :
    exec (.sluiceWait c g sa imm) s = .next (if sluiceReleased s ctx n then advance s c 8
      else s.modSeqr c (fun x => { x with hold := .sluice ctx n })) := by
  have hnot : ¬((c.isTile && decide (2 ^ 63 ≤ v)) = true) := by
    rcases hlt with h | h
    · simp [h]
    · rw [decide_eq_false (Nat.not_le.2 h), Bool.and_false]
      exact Bool.false_ne_true
  change execSluiceWait c g sa imm s = _
  rw [execSluiceWait, issue_executes hx (by cases c <;> rfl), sext32_eq]
  dsimp only
  rw [← hv, if_neg hnot, hlocal]
  dsimp only
  cases sluiceReleased s ctx n <;> rfl

theorem fence_executes {s : State} {c : Core} {g : Guard} (hx : Executes s c g []) :
    exec (.fence c g) s = .next (if fenceOver s c then advance s c 8 else s.modSeqr c (fun q => { q with hold := .fence })) := by
  change execFence c g s = _
  rw [execFence, issue_executes hx (by cases c <;> rfl)]
  cases fenceOver s c <;> rfl

/-! ## Millers -/

/-- A Miller core's operation in its queue. R222. -/
def svcQueued (s : State) (m : Nat) (o : AtomOp) : State :=
  s.modMiller m (fun k => { k with iseq := k.iseq + 1, atomQ := k.atomQ ++ [{ o with iseq := k.iseq }] })

theorem queueSvc_room {s : State} {m : Nat} (o : AtomOp) (h : (s.miller m).atomQ.length < 16) :
    queueSvc s m o = .done (svcQueued s m o) := if_neg (Nat.not_le_of_lt h)

/-- A Miller core after an instruction that its queue has taken. R222, R243. -/
theorem svcDone_miller (s : State) (m : Nat) (o : AtomOp) : (advance (svcQueued s m o) (.miller m) 8).miller m = { s.miller m with
    iseq := (s.miller m).iseq + 1
    atomQ := (s.miller m).atomQ ++ [{ o with iseq := (s.miller m).iseq }]
    seqr := { (s.miller m).seqr with pc := (s.miller m).seqr.pc + 8 } } := by
  have h : advance (svcQueued s m o) (.miller m) 8 =
      (svcQueued s m o).modMiller m (fun k => { k with seqr := { k.seqr with pc := k.seqr.pc + 8 } }) := rfl
  rw [h, State.modMiller_miller_same, svcQueued, State.modMiller_miller_same]

/-- A Miller core that waits for what its queue has taken. R293. -/
theorem svcHeld_miller (s : State) (m : Nat) (o : AtomOp) (hold : Hold) :
    ((svcQueued s m o).modSeqr (.miller m) (fun q => { q with hold := hold })).miller m = { s.miller m with
      iseq := (s.miller m).iseq + 1
      atomQ := (s.miller m).atomQ ++ [{ o with iseq := (s.miller m).iseq }]
      seqr := { (s.miller m).seqr with hold := hold } } := by
  have h : (svcQueued s m o).modSeqr (.miller m) (fun q => { q with hold := hold }) =
      (svcQueued s m o).modMiller m (fun k => { k with seqr := { k.seqr with hold := hold } }) := rfl
  rw [h, State.modMiller_miller_same, svcQueued, State.modMiller_miller_same]

theorem sluiceReset_executes {s : State} {m : Nat} {g : Guard} {sd sa sb : BitVec 5} (hx : Executes s (.miller m) g [sa, sb, sd])
    {ctx n e : Nat} (hctx : ctx = ((s.seqr (.miller m)).s sa).toNat % 4096) (hn : n = ((s.seqr (.miller m)).s sb).toNat)
    (he : e = ((s.seqr (.miller m)).s sd).toNat % 2 ^ 32) (hok : ¬(e = 0 ∨ (s.ctx ctx).bind.sltCount ≤ n))
    (hroom : (s.miller m).atomQ.length < 16) :
    exec (.sluiceReset (.miller m) g sd sa sb) s = .next ((svcQueued s m {
      iseq := 0
      pc := (s.seqr (.miller m)).pc
      kind := .sluiceReset
      addr := 0
      operand := BitVec.ofNat 64 e
      ctx := ctx
      sluice := n }).modSeqr (.miller m) (fun q => { q with hold := .sluiceReset })) := by
  change execSluiceReset (.miller m) g sd sa sb s = _
  rw [execSluiceReset, issue_executes hx rfl]
  dsimp only
  rw [← hctx, ← hn, ← he, if_neg hok, queueSvc_room _ hroom]
  rfl

/-- Settles O23: arrivals and resets join the queue, and waits and fences go on or hold. -/
theorem sluicesAndFence : Obligations.SluicesAndFence := by
  unfold Obligations.SluicesAndFence
  refine ⟨?_, ?_, ?_, ?_, ?_⟩
  · intro s l g sa imm r hx hr q v t0
    refine ⟨fun hn hlt => ?_, fun hge hz hroom => ?_⟩
    · have hlocal := localSluice_tile hr hlt hn
      have h63 : v < 2 ^ 63 := Nat.lt_trans hlt (by norm_num)
      refine ⟨fun hroom => ?_, sluiceWait_executes hx rfl hlocal (.inr h63)⟩
      rw [sluiceArrive_executes hx rfl hlocal (.inr h63), arriveAt, queueAtom_queued hroom _ rfl]
    · rw [sluiceArrive_global hx hr rfl hge hz, queueAtom_queued hroom _ rfl]
  · intro s m g sa imm hx q v ctx hn
    have hlocal := localSluice_miller (m := m) hn
    refine ⟨fun hroom => ?_, sluiceWait_executes hx rfl hlocal (.inl rfl)⟩
    refine ⟨_, sluiceArrive_executes hx rfl hlocal (.inl rfl), ?_⟩
    rw [arriveAt, queueSvc_room _ hroom]
    refine ⟨rfl, ?_, ?_⟩
    · exact congrArg Miller.atomQ (svcDone_miller ..)
    · exact congrArg (fun k : Miller => k.seqr.pc) (svcDone_miller ..)
  · intro s m g sd sa sb hx q ctx e he hn hroom
    have hok : ¬(e = 0 ∨ (s.ctx ctx).bind.sltCount ≤ (q.s sb).toNat) := fun h => h.elim he (Nat.not_le_of_lt hn)
    refine ⟨_, sluiceReset_executes hx rfl rfl rfl hok hroom, rfl, ?_, ?_⟩
    · exact congrArg Miller.seqr (svcHeld_miller ..)
    · exact congrArg Miller.atomQ (svcHeld_miller ..)
  · intro s l g hx
    rw [fence_executes hx]
    rfl
  · intro s m g hx
    have hover : fenceOver s (.miller m) = true ↔ ¬∃ a ∈ (s.miller m).atomQ, a.kind ≠ .arrive := by
      simp [fenceOver]
    rw [fence_executes hx]
    by_cases h : ∃ a ∈ (s.miller m).atomQ, a.kind ≠ .arrive
    · rw [if_pos h, if_neg fun h' => hover.1 h' h]
    · rw [if_neg h, if_pos (hover.2 h)]

end Sys2Proof.Proofs
end

section
/-! Host ring instructions and `evt.post` (06, R288 to R291, R301). -/

namespace Sys2Proof.Proofs
open Sys2Proof Sys2Proof.Machine

/-! ## Reads of host memory -/

theorem bytes_add (s : State) (k m n : Nat) : s.bytes k (m + n) = s.bytes k m ++ s.bytes (k + m) n := by
  induction m generalizing k with
  | zero => simp [State.bytes, tgetList]
  | succ m ih =>
    have h := ih (k + 1)
    rw [Nat.succ_add]
    simp only [State.bytes, tgetList] at h ⊢
    rw [h, show k + 1 + m = k + (m + 1) by ring]
    rfl

/-- Part of a byte string of memory. -/
theorem bytes_part (s : State) (k : Nat) {o n m : Nat} (h : o + n ≤ m) : ((s.bytes k m).drop o).take n = s.bytes (k + o) n := by
  obtain ⟨r, rfl⟩ := Nat.exists_eq_add_of_le h
  rw [bytes_add, bytes_add, List.take_drop]
  rw [List.take_left' (by rw [List.length_append, bytes_length, bytes_length]), List.drop_left' (bytes_length ..)]

theorem word_bytes (s : State) {k : Nat} (h : k % 32 = 0) : natToBytes (s.word k).1.toNat 32 = s.bytes k 32 := by
  have hk : k / 32 * 32 = k := by omega
  have hl := bytes_length s k 32
  rw [word_toNat, hk, State.num]
  conv => lhs; rw [← hl]
  exact natToBytes_bytesToNat ..

theorem readWords_host (n : Nat) (s : State) {a : Nat} (h : a % 32 = 0) :
    readWords s (.host a) n = (s, s.bytes (hostKey a) (32 * n), .ok) := by
  induction n generalizing a with
  | zero => rfl
  | succ n ih =>
    have hkey : hostKey a % 32 = 0 := by
      unfold hostKey
      omega
    have hread : readWord s (.host a) = (s, (s.word (hostKey a)).1, .ok) := rfl
    have hrest := ih (a := a + 32) (by omega)
    rw [readWords, hread]
    dsimp only
    rw [show Place.plus (.host a) 32 = .host (a + 32) from rfl, hrest, word_bytes s hkey, hostKey_add, show 32 * (n + 1) = 32 + 32 * n by ring,
      bytes_add]
    rfl

/-- A read of host memory gives its bytes and changes nothing. R436. -/
theorem readBytes_host (s : State) (a n : Nat) : readBytes s (.host a) n = (s, s.bytes (hostKey a) n, .ok) := by
  have hkey : (Place.host a).key % 32 = a % 32 := by
    show hostKey a % 32 = a % 32
    unfold hostKey
    omega
  have hbase : hostKey (a - a % 32) + a % 32 = hostKey a := by
    unfold hostKey
    omega
  have hlen : a % 32 + n ≤ 32 * ceilDiv (a % 32 + n) 32 := by
    unfold ceilDiv
    omega
  have hwords := readWords_host (ceilDiv (a % 32 + n) 32) s (a := a - a % 32) (by omega)
  obtain ⟨F, hF⟩ : ∃ F, F = readBytes := ⟨_, rfl⟩
  obtain ⟨f, hf⟩ : ∃ f, f = readWords := ⟨_, rfl⟩
  rw [← hF]
  delta readBytes at hF
  rw [← hf] at hF hwords
  rw [hF]
  simp only [hkey, hwords]
  rw [bytes_part _ _ hlen, hbase]

theorem nth_bytes (s : State) (k : Nat) {n i : Nat} (h : i < n) : nth 0 (s.bytes k n) i = s.byte (k + i) := by
  induction n generalizing k i with
  | zero => omega
  | succ n ih =>
    cases i with
    | zero => rfl
    | succ i =>
      have hrest := ih (k + 1) (i := i) (by omega)
      rw [show k + 1 + i = k + (i + 1) by ring] at hrest
      exact hrest

/-! ## Records at the head -/

theorem headRecord_submit {s : State} {n : Nat} (h : (s.ring n).kind = .submit) :
    headRecord s n = (s, s.bytes (hostEntry (s.ring n) (s.ring n).c0.toNat) (32 * (s.ring n).entryUnits), .ok) := by
  have hhost : (s.ring n).inHost = true := by simp [Ring.inHost, h]
  have hplace : s.entryPlace (s.ring n) (s.ring n).c0.toNat =
      some (.host ((s.ring n).base.toNat + 32 * (s.ring n).entryUnits * ((s.ring n).c0.toNat % (s.ring n).entries))) := by
    rw [State.entryPlace, hhost]
    rfl
  rw [headRecord, ringEntry, hplace]
  dsimp only
  rw [readBytes_host, hostEntry]

theorem count_pos (x : Ring) : 0 < x.count ↔ x.c1 ≠ x.c0 := by
  rw [Ring.count, Nat.pos_iff_ne_zero, ne_eq, ne_eq, ← sub_eq_zero (a := x.c1), ← BitVec.toNat_inj]
  rfl

theorem hasRecord_iff (x : Ring) : (x.isOn && decide (0 < x.count)) = true ↔ x.st = .on ∧ x.c1 ≠ x.c0 := by
  rw [Bool.and_eq_true, decide_eq_true_eq, count_pos, Ring.isOn, beq_iff_eq]

theorem hringOf_named {s : State} {q : Seqr} {sa : BitVec 5} {kind : RingKind} {n : Nat} (hn : n = (q.s sa).toNat) (hlt : n < 65536)
    (hk : (s.ring n).kind = kind) : hringOf s q sa kind = some n := by
  rw [hringOf, ← hn]
  exact if_pos ⟨hlt, hk⟩

/-- A record pushed where there is room. R290, R301. -/
theorem pushFrom_wrote (s : State) (m n : Nat) (pd : BitVec 3) (k : Nat) (a : W64) (f : Form) (hf : f.size = 8) :
    finish (.miller m) f (pushFrom s (.miller m) m n k pd a) = if (s.ring n).room
      then WroteP (pushRecord s n (s.bytes (svcKey m a.toNat) k)) (.miller m) pd true else WroteP s (.miller m) pd false := by
  rw [pushFrom]
  cases h : (s.ring n).room
  · simp only [Bool.false_eq_true, if_false, finish, hf, WroteP]
  · simp only [if_true, finish, hf, WroteP]

section
variable {s : State} {m n : Nat} {g : Guard} {pd : BitVec 3} {sa : BitVec 5} {ab : BitVec 4} {off : BitVec 32}
  (hx : Executes s (.miller m) g [sa]) (hn : n = ((s.seqr (.miller m)).s sa).toNat) (hlt : n < 65536)
include hx hn hlt

theorem hringPeek_executes (hk : (s.ring n).kind = .submit) : exec (.hringPeek (.miller m) g pd sa ab off) s = .next (WroteP
    (if (s.ring n).isOn && decide (0 < (s.ring n).count)
      then s.setBytes (svcKey m (effAddr (s.seqr (.miller m)) ab off).toNat)
        (s.bytes (hostEntry (s.ring n) (s.ring n).c0.toNat) (32 * (s.ring n).entryUnits)) else s)
    (.miller m) pd ((s.ring n).isOn && decide (0 < (s.ring n).count))) := by
  change execHringPeek (.miller m) g pd sa ab off s = _
  rw [execHringPeek, issue_executes hx rfl]
  dsimp only
  rw [hringOf_named hn hlt hk]
  dsimp only
  rw [headRecord_submit hk]
  rfl

theorem hringPop_executes (hk : (s.ring n).kind = .submit) : exec (.hringPop (.miller m) g sa) s = .next (advance
    (if (s.ring n).isOn && decide (0 < (s.ring n).count) then popHead s n else s) (.miller m) 8) := by
  change execHringPop (.miller m) g sa s = _
  rw [execHringPop, issue_executes hx rfl, hringOf_named hn hlt hk]
  rfl

theorem hringPush_executes (hk : (s.ring n).kind = .complete) : exec (.hringPush (.miller m) g pd sa ab off) s =
    .next (if (s.ring n).room then WroteP (pushRecord s n (s.bytes (svcKey m (effAddr (s.seqr (.miller m)) ab off).toNat)
      (32 * (s.ring n).entryUnits))) (.miller m) pd true else WroteP s (.miller m) pd false) := by
  change execHringPush (.miller m) g pd sa ab off s = _
  rw [execHringPush, issue_executes hx rfl]
  dsimp only
  rw [hringOf_named hn hlt hk]
  exact congrArg Host.Outcome.next (pushFrom_wrote s m n pd _ _ _ rfl)

theorem evtPost_executes (hk : (s.ring n).kind = .event) : exec (.evtPost (.miller m) g pd sa ab off) s =
    .next (if (s.ring n).room then WroteP (pushRecord s n (s.bytes (svcKey m (effAddr (s.seqr (.miller m)) ab off).toNat) 64))
      (.miller m) pd true else WroteP s (.miller m) pd false) := by
  change execEvtPost (.miller m) g pd sa ab off s = _
  rw [execEvtPost, issue_executes hx rfl]
  dsimp only
  rw [hringOf_named hn hlt hk]
  exact congrArg Host.Outcome.next (pushFrom_wrote s m n pd _ _ _ rfl)
end

theorem setNum_ring (s : State) (k n v r : Nat) : (s.setNum k n v).ring r = s.ring r := rfl

theorem wroteP_mem (s : State) (c : Core) (pd : BitVec 3) (v : Bool) : (WroteP s c pd v).mem = s.mem := by
  rw [WroteP, advance_mem, State.modSeqr_mem]

theorem popHead_submit {s : State} {n : Nat} (hk : (s.ring n).kind = .submit) : popHead s n =
    (s.modRing n (fun x => { x with c0 := x.c0 + 1 })).setNum (hostKey (s.ring n).shadow.toNat) 8 ((s.ring n).c0 + 1).toNat := by
  have hring := State.modRing_ring_same s n (fun x => { x with c0 := x.c0 + 1 })
  have hhost : ((s.modRing n (fun x => { x with c0 := x.c0 + 1 })).ring n).inHost = true := by
    rw [hring]
    simp [Ring.inHost, hk]
  rw [popHead, if_pos hk, shadowWrite, if_pos hhost, hring]

/-- Settles O24: the record at the head, and a record that joins the tail. -/
theorem hostRingInstructions : Obligations.HostRingInstructions := by
  unfold Obligations.HostRingInstructions
  refine ⟨?_, ?_⟩
  · intro s m g pd sa ab off hx q n ea hlt hk
    have hpeek := hringPeek_executes (pd := pd) (ab := ab) (off := off) hx rfl hlt hk
    have hpop := hringPop_executes hx rfl hlt hk
    refine ⟨fun hon hne => ?_, fun hno => ?_⟩
    · have hhas := (hasRecord_iff (s.ring n)).2 ⟨hon, hne⟩
      rw [hhas] at hpeek hpop
      rw [if_pos rfl] at hpeek hpop
      rw [popHead_submit hk] at hpop
      refine ⟨⟨_, hpeek, rfl, fun j => ?_, ?_⟩, ⟨_, hpop, ?_, ?_, fun j hj => ?_, ?_, ?_⟩⟩
      · rw [byte_congr (wroteP_mem ..), byte_setBytes, bytes_length]
        split
        · rw [nth_bytes _ _ (by omega)]
        · rfl
      · rw [WroteP, advance_core, State.modSeqr_seqr]
        dsimp only
        rw [Seqr.setP_pc]
        rfl
      · rw [ring_congr (advance_hif ..), setNum_ring, State.modRing_ring_same]
      · rw [ring_congr (advance_hif ..), setNum_ring, State.modRing_ring_same]
      · rw [ring_congr (advance_hif ..), setNum_ring, State.modRing_ring, if_neg hj]
      · intro j
        have hlt64 : ((s.ring n).c0 + 1).toNat < 2 ^ (8 * 8) := Nat.lt_trans ((s.ring n).c0 + 1).isLt (by norm_num)
        have hstored := storedBytes_setNum (s.modRing n (fun x => { x with c0 := x.c0 + 1 })) (hostKey (s.ring n).shadow.toNat) 8
          ((s.ring n).c0 + 1).toNat j
        rw [Nat.mod_eq_of_lt hlt64] at hstored
        rw [byte_congr (advance_mem ..)]
        exact hstored
      · rw [advance_core]
        rfl
    · have hhas : ((s.ring n).isOn && decide (0 < (s.ring n).count)) = false := by
        refine Bool.eq_false_iff.2 fun h => ?_
        obtain ⟨hon, hne⟩ := (hasRecord_iff _).1 h
        exact hno.elim (fun h => h hon) hne
      rw [hhas] at hpeek hpop
      exact ⟨hpeek, hpop⟩
  · intro s m g pd sa ab off hx q n ea hlt
    exact ⟨hringPush_executes hx rfl hlt, evtPost_executes hx rfl hlt⟩

end Sys2Proof.Proofs
end

section
/-! Atomic instructions join the queue of their core (06, R294 to R297). -/

namespace Sys2Proof.Proofs
open Sys2Proof Sys2Proof.Machine

/-! ## Registers that wait -/

/-- The queue as it was, but for the registers that its operations answer. R242. -/
def SameButRegisters (os os' : List AtomOp) : Prop := os.map (fun a => { a with sd := 0 }) = os'.map (fun a => { a with sd := 0 })

theorem sameButRegisters_forget (n : Nat) (os : List AtomOp) :
    SameButRegisters (os.map (fun a => if a.sd = n then { a with sd := 0 } else a)) os := by
  rw [SameButRegisters, List.map_map]
  refine List.map_congr_left fun a _ => ?_
  simp only [Function.comp_apply]
  split <;> rfl

/-- What a core is once register `sd` waits: only its queue's registers and what it waits for change. R242. -/
structure Awaited (sd : BitVec 5) (b : Bool) (q q' : Seqr) (os os' : List AtomOp) : Prop where
  same : SameButRegisters os' os
  seqr : q' = { q with waiting := q'.waiting }
  waits : sd ≠ 0 → (sd.toNat, b) ∈ q'.waiting
  none : sd = 0 → q'.waiting = q.waiting

theorem await_frame (s : State) (c : Core) (sd : BitVec 5) (b : Bool) :
    await s c sd b = { s with tiles := (await s c sd b).tiles, millers := (await s c sd b).millers, hdr := (await s c sd b).hdr } := by
  unfold await
  split
  · rfl
  · cases c <;> rfl

theorem modAtoms_tile (s : State) (l : Nat) (f : List AtomOp → List AtomOp) :
    (modAtoms s (.tile l) f).tile (s.phys l) = { s.tile (s.phys l) with atomQ := f (s.tile (s.phys l)).atomQ } :=
  State.modTile_tile_same ..

theorem modAtoms_miller (s : State) (m : Nat) (f : List AtomOp → List AtomOp) :
    (modAtoms s (.miller m) f).miller m = { s.miller m with atomQ := f (s.miller m).atomQ } :=
  State.modMiller_miller_same ..

theorem await_tile (s : State) (l : Nat) (sd : BitVec 5) (b : Bool) :
    ∃ os q, (await s (.tile l) sd b).tile (s.phys l) = { s.tile (s.phys l) with atomQ := os, seqr := q } ∧
      Awaited sd b (s.seqr (.tile l)) q (s.tile (s.phys l)).atomQ os := by
  unfold await
  split
  · next h => exact ⟨_, _, rfl, rfl, rfl, fun h' => absurd h h', fun _ => rfl⟩
  · next h =>
    refine ⟨(s.tile (s.phys l)).atomQ.map (fun a => if a.sd = sd.toNat then { a with sd := 0 } else a),
      { s.seqr (.tile l) with waiting := (s.seqr (.tile l)).waiting.filter (fun w => w.1 != sd.toNat) ++ [(sd.toNat, b)] }, ?_, ?_, rfl, ?_, ?_⟩
    · have hforget : (forget s (.tile l) sd).tile (s.phys l) = { s.tile (s.phys l) with
          atomQ := (s.tile (s.phys l)).atomQ.map (fun a => if a.sd = sd.toNat then { a with sd := 0 } else a) } :=
        modAtoms_tile s l (List.map (fun a : AtomOp => if a.sd = sd.toNat then { a with sd := 0 } else a))
      refine (State.modTile_tile_same (forget s (.tile l) sd) (s.phys l) _).trans ?_
      rw [hforget]
      rfl
    · exact sameButRegisters_forget ..
    · exact fun _ => List.mem_append_right _ (List.mem_singleton_self _)
    · exact fun h' => absurd h' h

theorem await_miller (s : State) (m : Nat) (sd : BitVec 5) (b : Bool) :
    ∃ os q, (await s (.miller m) sd b).miller m = { s.miller m with atomQ := os, seqr := q } ∧
      Awaited sd b (s.seqr (.miller m)) q (s.miller m).atomQ os := by
  unfold await
  split
  · next h => exact ⟨_, _, rfl, rfl, rfl, fun h' => absurd h h', fun _ => rfl⟩
  · next h =>
    refine ⟨(s.miller m).atomQ.map (fun a => if a.sd = sd.toNat then { a with sd := 0 } else a),
      { s.seqr (.miller m) with waiting := (s.seqr (.miller m)).waiting.filter (fun w => w.1 != sd.toNat) ++ [(sd.toNat, b)] }, ?_, ?_, rfl, ?_, ?_⟩
    · have hforget : (forget s (.miller m) sd).miller m = { s.miller m with
          atomQ := (s.miller m).atomQ.map (fun a => if a.sd = sd.toNat then { a with sd := 0 } else a) } :=
        modAtoms_miller s m (List.map (fun a : AtomOp => if a.sd = sd.toNat then { a with sd := 0 } else a))
      refine (State.modMiller_miller_same (forget s (.miller m) sd) m _).trans ?_
      rw [hforget]
      rfl
    · exact sameButRegisters_forget ..
    · exact fun _ => List.mem_append_right _ (List.mem_singleton_self _)
    · exact fun h' => absurd h' h

/-! ## The atomics of 32 and 64 bits -/

theorem exec_atomInstr {k : AtomKind} (hk : k ∈ [AtomKind.addI32, .addF32, .addP64, .swap32, .swap64]) (c : Core) (g : Guard)
    (sd sa : BitVec 5) (ab : BitVec 4) (off : BitVec 32) (s : State) :
    exec (atomInstr k c g sd sa ab off) s = issueAtom c g k sd sa ab off s := by
  simp only [List.mem_cons, List.not_mem_nil, or_false] at hk
  rcases hk with rfl | rfl | rfl | rfl | rfl <;> rfl

theorem atomQ_length_await {s : State} {l : Nat} (sd : BitVec 5) (b : Bool) :
    ((await s (.tile l) sd b).tile (s.phys l)).atomQ.length = (s.tile (s.phys l)).atomQ.length := by
  obtain ⟨os, q, htile, haw⟩ := await_tile s l sd b
  have h := congrArg List.length haw.same
  rw [List.length_map, List.length_map] at h
  rw [htile]
  exact h

theorem atomQ_length_await_miller {s : State} {m : Nat} (sd : BitVec 5) (b : Bool) :
    ((await s (.miller m) sd b).miller m).atomQ.length = (s.miller m).atomQ.length := by
  obtain ⟨os, q, hm, haw⟩ := await_miller s m sd b
  have h := congrArg List.length haw.same
  rw [List.length_map, List.length_map] at h
  rw [hm]
  exact h

theorem await_phys (s : State) (c : Core) (sd : BitVec 5) (b : Bool) (l : Nat) : (await s c sd b).phys l = s.phys l := by
  rw [await_frame]
  rfl

theorem issueAtom_tile {s : State} {l : Nat} {k : AtomKind} {g : Guard} {sd sa : BitVec 5} {ab : BitVec 4} {off : BitVec 32} {r : Run}
    (hx : Executes s (.tile l) g [sa]) (hr : s.runOf l = some r) {ea : W64} (hea : ea = effAddr (s.seqr (.tile l)) ab off)
    (hflt : atomFlt s r l ea.toNat k.width = .none) (hroom : (s.tile (s.phys l)).atomQ.length < 16) :
    issueAtom (.tile l) g k sd sa ab off s = .next (advance (withAtom (await s (.tile l) sd (decide (2 ^ 63 ≤ ea.toNat))) l {
      iseq := 0
      pc := (s.seqr (.tile l)).pc
      kind := k
      addr := ea
      operand := (s.seqr (.tile l)).s sa
      sd := sd.toNat
      ctx := r.rr.ctx }) (.tile l) 8) := by
  have hroom' : ((await s (.tile l) sd (decide (2 ^ 63 ≤ ea.toNat))).tile
      ((await s (.tile l) sd (decide (2 ^ 63 ≤ ea.toNat))).phys l)).atomQ.length < 16 := by
    rw [await_phys, atomQ_length_await]
    exact hroom
  rw [issueAtom, issue_executes hx rfl]
  dsimp only
  rw [onTile_run hr, ← hea, hflt, if_neg (by simp), if_neg (Nat.not_le_of_lt hroom), queueAtom_room _ hroom']
  rfl

theorem issueAtom_miller {s : State} {m : Nat} {k : AtomKind} {g : Guard} {sd sa : BitVec 5} {ab : BitVec 4} {off : BitVec 32}
    (hx : Executes s (.miller m) g [sa]) {ea : W64} (hea : ea = effAddr (s.seqr (.miller m)) ab off)
    (hflt : svcAtomFlt s ea.toNat k.width = .none) (hroom : (s.miller m).atomQ.length < 16) :
    issueAtom (.miller m) g k sd sa ab off s = .next (advance (svcQueued (await s (.miller m) sd false) m {
      iseq := 0
      pc := (s.seqr (.miller m)).pc
      kind := k
      addr := ea
      operand := (s.seqr (.miller m)).s sa
      sd := sd.toNat }) (.miller m) 8) := by
  rw [issueAtom, issue_executes hx rfl]
  dsimp only
  rw [← hea, hflt, if_neg (by simp), if_neg (Nat.not_le_of_lt hroom), queueSvc_room _ (by rwa [atomQ_length_await_miller])]
  rfl

theorem svcAtomFlt_of_place {s : State} {a n : Nat} (hn : n ∣ a) (h : ∃ pl, locate s a = some pl) : svcAtomFlt s a n = .none := by
  obtain ⟨pl, hpl⟩ := h
  rw [svcAtomFlt, if_neg (by simp [Nat.mod_eq_zero_of_dvd hn]), hpl]
  rfl

/-! ## 256-bit swaps -/

theorem atomSwap256_tile {s : State} {l o : Nat} {g : Guard} {aw ab : BitVec 4} {off : BitVec 32} {r : Run} (hx : Executes s (.tile l) g [])
    (hr : s.runOf l = some r) {ea : W64} (hea : ea = effAddr (s.seqr (.tile l)) ab off) (halign : 32 ∣ ea.toNat)
    (hflt : atomFlt s r l ea.toNat 32 = .none) (hlocal : swapLocal s r l ((s.seqr (.tile l)).a aw).toNat = .ok o)
    (hroom : (s.tile (s.phys l)).atomQ.length < 16) :
    exec (.atomSwap256 (.tile l) g aw ab off) s = .next ((withAtom s l {
      iseq := 0
      pc := (s.seqr (.tile l)).pc
      kind := .swap256
      addr := ea
      operand := 0
      local256 := o
      ctx := r.rr.ctx }).modSeqr (.tile l) (fun q => { q with hold := .swap256 })) := by
  change execAtomSwap256 (.tile l) g aw ab off s = _
  rw [execAtomSwap256, issue_executes hx rfl]
  dsimp only
  rw [onTile_run hr, ← hea, if_neg (by simp [Nat.mod_eq_zero_of_dvd halign]), hflt, hlocal]
  dsimp only
  rw [queueAtom_room _ hroom]
  rfl

theorem swapLocal_own {s : State} {r : Run} {l a o : Nat} (hlt : a < 2 ^ 32) (ho : ownOff r l a = some o) (hdvd : 32 ∣ o)
    (hbank : inBank 1 o 32 = true ∨ inBank 2 o 32 = true) (hrange : ownRange s r l true o 32 = .none) : swapLocal s r l a = .ok o := by
  have hin : (inBank 1 o 32 || inBank 2 o 32) = true := Bool.or_eq_true_iff.2 hbank
  rw [swapLocal, if_pos hlt, ho]
  dsimp only
  rw [hin, if_neg (by simp [Nat.mod_eq_zero_of_dvd hdvd]), hrange]

theorem atomSwap256_miller {s : State} {m : Nat} {g : Guard} {aw ab : BitVec 4} {off : BitVec 32} (hx : Executes s (.miller m) g [])
    {ea : W64} (hea : ea = effAddr (s.seqr (.miller m)) ab off) (hflt : svcAtomFlt s ea.toNat 32 = .none)
    (hlocal : svcSwapLocal s ((s.seqr (.miller m)).a aw).toNat = true) (hroom : (s.miller m).atomQ.length < 16) :
    exec (.atomSwap256 (.miller m) g aw ab off) s = .next ((svcQueued s m {
      iseq := 0
      pc := (s.seqr (.miller m)).pc
      kind := .swap256
      addr := ea
      operand := 0
      local256 := ((s.seqr (.miller m)).a aw).toNat }).modSeqr (.miller m) (fun q => { q with hold := .swap256 })) := by
  change execAtomSwap256 (.miller m) g aw ab off s = _
  rw [execAtomSwap256, issue_executes hx rfl]
  dsimp only
  rw [← hea, hflt, hlocal, if_neg (by simp), if_neg (by simp), queueSvc_room _ hroom]
  rfl

theorem svcSwapLocal_of_place {s : State} {w p o : Nat} (h : locate s w = some (.mill p o)) (hdvd : 32 ∣ w)
    (hbank : inBank 1 o 32 = true ∨ inBank 2 o 32 = true) : svcSwapLocal s w = true := by
  rw [svcSwapLocal, h]
  simp [Nat.mod_eq_zero_of_dvd hdvd, hbank]

theorem modHold_tile (s : State) (l : Nat) (h : Hold) :
    (s.modSeqr (.tile l) (fun q => { q with hold := h })).tile (s.phys l) =
      { s.tile (s.phys l) with seqr := { (s.tile (s.phys l)).seqr with hold := h } } := State.modTile_tile_same ..

/-- Settles O25: the operation joins its queue, and its register, or the sequencer, waits. -/
theorem atomicsEnqueue : Obligations.AtomicsEnqueue := by
  unfold Obligations.AtomicsEnqueue
  refine ⟨?_, ?_, ?_, ?_⟩
  · intro s l k g sd sa ab off r hx hr hk q ea t0 hflt hroom
    obtain ⟨os, q', htile, haw⟩ := await_tile s l sd (decide (2 ^ 63 ≤ ea.toNat))
    have hframe := await_frame s (.tile l) sd (decide (2 ^ 63 ≤ ea.toNat))
    have hphys := await_phys s (.tile l) sd (decide (2 ^ 63 ≤ ea.toNat)) l
    refine ⟨_, (exec_atomInstr hk ..).trans (issueAtom_tile hx hr rfl hflt hroom), ?_⟩
    obtain ⟨x, hxe⟩ : ∃ x, x = await s (.tile l) sd (decide (2 ^ 63 ≤ ea.toNat)) := ⟨_, rfl⟩
    rw [← hxe] at htile hframe hphys ⊢
    obtain ⟨hs, window, seqr, hadv⟩ := advance_tile_units (withAtom x l {
      iseq := 0
      pc := q.pc
      kind := k
      addr := ea
      operand := q.s sa
      sd := sd.toNat
      ctx := r.rr.ctx }) l 8 (s.phys l)
    have hseqr : x.seqr (.tile l) = q' := by
      rw [State.seqr, hphys, htile]
    refine ⟨?_, ?_, ?_, ⟨os, ?_, haw.same⟩, ?_⟩
    · rw [advance_mem, withAtom, State.modTile_mem, hframe]
    · rw [advance_hif, withAtom, State.modTile_hif, hframe]
    · rw [advance_mrcs, withAtom, State.modTile_mrcs, hframe]
    · rw [hadv, withAtom, hphys, State.modTile_tile_same, htile]
    · rw [advance_core, withAtom_seqr, hseqr]
      refine ⟨haw.waits, haw.none, ?_, fun y => ?_⟩
      · rw [haw.seqr]
      · rw [haw.seqr]
        rfl
  · intro s m k g sd sa ab off hx hk q ea hdvd hpl hroom
    obtain ⟨os, q', hm, haw⟩ := await_miller s m sd false
    refine ⟨_, (exec_atomInstr hk ..).trans (issueAtom_miller hx rfl (svcAtomFlt_of_place hdvd hpl) hroom), ?_⟩
    have hframe := await_frame s (.miller m) sd false
    obtain ⟨x, hxe⟩ : ∃ x, x = await s (.miller m) sd false := ⟨_, rfl⟩
    rw [← hxe] at hm hframe ⊢
    have hdone := svcDone_miller x m {
      iseq := 0
      pc := q.pc
      kind := k
      addr := ea
      operand := q.s sa
      sd := sd.toNat }
    rw [hm] at hdone
    refine ⟨?_, ⟨os, congrArg Miller.atomQ hdone⟩, ?_, ?_⟩
    · rw [advance_mem, hframe]
      rfl
    · intro h
      rw [show (advance _ (.miller m) 8).seqr (.miller m) = _ from congrArg Miller.seqr hdone]
      exact haw.waits h
    · refine (congrArg (fun k : Miller => k.seqr.pc) hdone).trans ?_
      dsimp only
      rw [haw.seqr]
  · intro s l o g aw ab off r hx hr q ea t0 halign hflt hlt ho hdvd hbank hrange hroom
    refine ⟨_, atomSwap256_tile hx hr rfl halign hflt (swapLocal_own hlt ho hdvd hbank hrange) hroom, rfl, ?_, ?_⟩
    · rw [State.modSeqr_seqr, withAtom_seqr]
    · refine (congrArg Tile.atomQ (modHold_tile (withAtom s l _) l .swap256)).trans ?_
      exact congrArg Tile.atomQ (State.modTile_tile_same ..)
  · intro s m g aw ab off hx q ea w hdvd hpl hloc hroom
    obtain ⟨p, o, hloc, hw, hbank⟩ := hloc
    refine ⟨_, atomSwap256_miller hx rfl (svcAtomFlt_of_place hdvd hpl) (svcSwapLocal_of_place hloc hw hbank) hroom, rfl, ?_, ?_⟩
    · exact congrArg Miller.seqr (svcHeld_miller ..)
    · exact congrArg Miller.atomQ (svcHeld_miller ..)

end Sys2Proof.Proofs
end

section
/-! An atomic is made at its word and answers the old value (06, R294; 07, R324). -/

namespace Sys2Proof.Proofs
open Sys2Proof Sys2Proof.Machine

/-! ## A word of which some bytes are replaced -/

theorem nth_append {α : Type} (d : α) (xs ys : List α) (i : Nat) :
    nth d (xs ++ ys) i = if i < xs.length then nth d xs i else nth d ys (i - xs.length) := by
  rw [nth_eq_getD, nth_eq_getD, nth_eq_getD]
  split
  · next h => exact List.getD_append _ _ _ _ h
  · next h => exact List.getD_append_right _ _ _ _ (Nat.not_lt.1 h)

theorem byteOf_mergeWord (d : BitVec 256) {o n v i : Nat} (ho : o + n ≤ 32) (hi : i < 32) :
    byteOf (mergeWord d o n v).toNat i = if o ≤ i ∧ i < o + n then byteOf v (i - o) else byteOf d.toNat i := by
  have hd : (natToBytes d.toNat 32).length = 32 := natToBytes_length ..
  have htake : ((natToBytes d.toNat 32).take o).length = o := by rw [List.length_take, hd]; omega
  have hlen : ((natToBytes d.toNat 32).take o ++ natToBytes v n ++ (natToBytes d.toNat 32).drop (o + n)).length = 32 := by
    rw [List.length_append, List.length_append, htake, natToBytes_length, List.length_drop, hd]
    omega
  have hlt : bytesToNat ((natToBytes d.toNat 32).take o ++ natToBytes v n ++ (natToBytes d.toNat 32).drop (o + n)) < 2 ^ 256 := by
    have h := bytesToNat_lt ((natToBytes d.toNat 32).take o ++ natToBytes v n ++ (natToBytes d.toNat 32).drop (o + n))
    rw [hlen] at h
    exact Nat.lt_of_lt_of_le h (by norm_num)
  rw [mergeWord, BitVec.toNat_ofNat, Nat.mod_eq_of_lt hlt, byteOf_bytesToNat _ (by rw [hlen]; exact hi), nth_append, nth_append,
    List.length_append, htake, natToBytes_length]
  by_cases h1 : i < o
  · rw [if_pos (by omega), if_pos h1, if_neg (by omega), nth_eq_getD, List.getD_eq_getElem?_getD, List.getElem?_take, if_pos h1,
      ← List.getD_eq_getElem?_getD, ← nth_eq_getD, nth_natToBytes _ hi]
  · by_cases h2 : i < o + n
    · rw [if_pos h2, if_neg h1, if_pos ⟨Nat.not_lt.1 h1, h2⟩, nth_natToBytes _ (by omega)]
    · rw [if_neg h2, if_neg (by omega), nth_eq_getD, List.getD_eq_getElem?_getD, List.getElem?_drop, ← List.getD_eq_getElem?_getD,
        ← nth_eq_getD, show o + n + (i - (o + n)) = i by omega, nth_natToBytes _ hi]

/-! ## The word after an atomic -/

/-- The state after a word has taken `n` bytes of a number. R324. -/
def merged (s : State) (pl : Place) (n v : Nat) : State := writeWord (touch s pl) pl (mergeWord (s.word pl.key).1 (pl.key % 32) n v, 0)

/-- What a written word leaves depends on the storage alone. -/
theorem setWord_storage {s t : State} (hm : t.mem = s.mem) (hc : t.chk = s.chk) (k : Nat) (w : Word288) :
    (t.setWord k w).mem = (s.setWord k w).mem ∧ (t.setWord k w).chk = (s.setWord k w).chk := by
  simp only [State.setWord, State.setNum, State.setBytes, hm, hc]
  exact ⟨trivial, trivial⟩

theorem touch_storage (s : State) (pl : Place) : (touch s pl).mem = s.mem ∧ (touch s pl).chk = s.chk := by
  cases pl <;> exact ⟨rfl, rfl⟩

theorem dropWriteback_storage (s : State) (pl : Place) : (dropWriteback s pl).mem = s.mem ∧ (dropWriteback s pl).chk = s.chk := by
  cases pl <;> exact ⟨rfl, rfl⟩

/-- A word written by a unit of the device. -/
theorem writeWord_storage (s : State) {pl : Place} (h : ∀ a, pl ≠ .host a) (w : Word288) :
    (writeWord s pl w).mem = (s.setWord pl.key w).mem ∧ (writeWord s pl w).chk = (s.setWord pl.key w).chk := by
  have ht := touch_storage s pl
  have hd := dropWriteback_storage (touch s pl) pl
  have hw : writeWord s pl w = (dropWriteback (touch s pl) pl).setWord pl.key w := by
    cases pl with
    | host a => exact absurd rfl (h a)
    | hbm a => rfl
    | mill p o => rfl
  rw [hw]
  exact setWord_storage (hd.1.trans ht.1) (hd.2.trans ht.2) _ _

theorem merged_setWord {s : State} {pl : Place} (h : ∀ a, pl ≠ .host a) (n v : Nat) :
    (merged s pl n v).mem = (s.setWord pl.key (mergeWord (s.word pl.key).1 (pl.key % 32) n v, 0)).mem ∧
      (merged s pl n v).chk = tset 0 s.chk (pl.key / 32) 0 := by
  have ht := touch_storage s pl
  generalize hw : (mergeWord (s.word pl.key).1 (pl.key % 32) n v, (0 : W32)) = w
  have h0 : w.2 = 0 := by rw [← hw]
  obtain ⟨h1, h2⟩ := writeWord_storage (touch s pl) h w
  obtain ⟨h3, h4⟩ := setWord_storage ht.1 ht.2 pl.key w
  rw [merged, hw]
  exact ⟨h1.trans h3, h2.trans (h4.trans (congrArg (tset 0 s.chk (pl.key / 32)) h0))⟩

theorem millOnly_merged (s : State) (p o n v : Nat) : MillOnly s (merged s (.mill p o) n v) := by
  rw [merged, touch_mill]
  exact (mpdOnly_modMpd s p _).millOnly.trans (millOnly_writeWord ..)

theorem merged_stored {s : State} {pl : Place} (h : ∀ a, pl ≠ .host a) {n v : Nat} (hn : pl.key % 32 + n ≤ 32) :
    StoredBytes s (merged s pl n v) pl.key n v := by
  intro j
  rw [byte_congr (merged_setWord h n v).1, byte_setWord]
  by_cases hj : j / 32 = pl.key / 32
  · rw [if_pos hj, byteOf_mergeWord _ hn (by omega)]
    by_cases h' : pl.key ≤ j ∧ j < pl.key + n
    · rw [if_pos (by omega), if_pos h', byteOf, show j % 32 - pl.key % 32 = j - pl.key by omega]
    · rw [if_neg (by omega), if_neg h', byteOf_word _ _ (by omega), show pl.key / 32 * 32 + j % 32 = j by omega]
  · rw [if_neg hj, if_neg (by omega)]

theorem merged_chk {s : State} {pl : Place} (h : ∀ a, pl ≠ .host a) (hc : classify (s.word pl.key).2 = .clean) (n v j : Nat) :
    tget 0 (merged s pl n v).chk j = tget 0 s.chk j := by
  have h0 : tget 0 s.chk (pl.key / 32) = 0 := eq_zero_of_clean hc
  rw [(merged_setWord h n v).2, tget_tset]
  split
  · next hj => rw [hj, h0]
  · rfl

theorem readWord_good {s : State} {pl : Place} (h : ∀ a, pl ≠ .host a) (hc : classify (s.word pl.key).2 = .clean) :
    readWord s pl = (touch s pl, (s.word pl.key).1, .ok) := by
  cases pl with
  | host a => exact absurd rfl (h a)
  | hbm a => simp only [readWord, hc]
  | mill p o => exact readWord_clean hc

theorem width_fits {k : AtomKind} (hk : k ∈ [AtomKind.addI32, .addF32, .addP64, .swap32, .swap64]) {a : Nat} (h : k.width ∣ a) :
    a % 32 + k.width ≤ 32 ∧ (k.width = 4 ∨ k.width = 8) := by
  have hw : k.width = 4 ∨ k.width = 8 := by
    simp only [List.mem_cons, List.not_mem_nil, or_false] at hk
    rcases hk with rfl | rfl | rfl | rfl | rfl <;> simp [AtomKind.width]
  refine ⟨?_, hw⟩
  rcases hw with hw | hw
  all_goals
    rw [hw] at h ⊢
    omega

/-- An atomic at a good word. R324. -/
theorem atomApply_good {s : State} {pl : Place} {k : AtomKind} (h : ∀ a, pl ≠ .host a) (hc : classify (s.word pl.key).2 = .clean)
    (hk : k ∈ [AtomKind.addI32, .addF32, .addP64, .swap32, .swap64]) (hn : k.width ∣ pl.key) (v : W64) :
    atomApply s pl k v = (merged s pl k.width (atomNew k (s.num pl.key k.width) v), BitVec.ofNat 64 (s.num pl.key k.width), .ok) := by
  have hread := readWord_good h hc
  have hsub := word_sub s (width_fits hk hn).1
  obtain ⟨F, hF⟩ : ∃ F, F = atomApply := ⟨_, rfl⟩
  obtain ⟨f, hf⟩ : ∃ f, f = readWord := ⟨_, rfl⟩
  rw [← hF]
  delta atomApply at hF
  rw [← hf] at hF hread
  rw [hF]
  simp only [hread, hsub]
  rfl

/-- The low bytes of a number are those of its remainder. -/
theorem storedBytes_mod {s t : State} {k n v w : Nat} (h : StoredBytes s t k n v) (hvw : v % 2 ^ (8 * n) = w % 2 ^ (8 * n)) :
    StoredBytes s t k n w := by
  intro j
  rw [h]
  split
  · next hj =>
    have hb := byteOf_mod v (n := n) (i := j - k) (by omega)
    rw [hvw, byteOf_mod w (by omega)] at hb
    exact hb.symm
  · rfl

/-! ## A tile's atomic at its own Millpond -/

theorem dropAtom_only {s : State} {l : Nat} {a : AtomOp} (h : (s.tile (s.phys l)).atomQ = [a]) :
    (dropAtom s (.tile l) a.iseq).tile (s.phys l) = { s.tile (s.phys l) with atomQ := [] } := by
  rw [dropAtom, modAtoms_tile, h]
  simp

theorem dropAtom_mem (s : State) (c : Core) (n : Nat) : (dropAtom s c n).mem = s.mem := by
  cases c <;> rfl

theorem deliverReg_mem (s : State) (c : Core) (sd : Nat) (v : W64) : (deliverReg s c sd v).mem = s.mem := State.modSeqr_mem ..

theorem atomOld_mem (s : State) (c : Core) (a : AtomOp) (v : W64) : (atomOld s c a v).mem = s.mem := by
  unfold atomOld
  split
  · rfl
  · exact deliverReg_mem ..

/-- The tile after the old value has reached the register that waits for it. R294. -/
theorem atomOld_tile (s : State) (l : Nat) (a : AtomOp) (v : W64) :
    (atomOld s (.tile l) a v).phys l = s.phys l ∧
    ∃ q, (atomOld s (.tile l) a v).tile (s.phys l) = { s.tile (s.phys l) with seqr := q } ∧
      (a.sd = 0 → q = s.seqr (.tile l)) ∧
      (0 < a.sd → a.sd < 32 → (∃ b, (a.sd, b) ∈ (s.seqr (.tile l)).waiting) → q.s (BitVec.ofNat 5 a.sd) = v) := by
  unfold atomOld
  split
  · next h => exact ⟨rfl, _, rfl, fun _ => rfl, fun h' => absurd h (Nat.ne_of_gt h')⟩
  · next h =>
    refine ⟨State.modSeqr_phys .., _, State.modTile_tile_same .., fun h' => absurd h' h, fun h0 hlt ⟨b, hb⟩ => ?_⟩
    have hany : (s.seqr (.tile l)).waiting.any (fun w => w.1 == a.sd) = true := List.any_eq_true.2 ⟨_, hb, beq_self_eq_true _⟩
    have hne : BitVec.ofNat 5 a.sd ≠ 0 := by
      intro hz
      have hz := congrArg BitVec.toNat hz
      rw [BitVec.toNat_ofNat, Nat.mod_eq_of_lt hlt] at hz
      exact h hz
    have hany : (s.tile (s.phys l)).seqr.waiting.any (fun w => w.1 == a.sd) = true := hany
    beta_reduce
    rw [if_pos hany]
    exact (Seqr.setS_s ..).trans (if_pos ⟨rfl, hne⟩)

theorem width_dvd_key {k : AtomKind} (hk : k ∈ [AtomKind.addI32, .addF32, .addP64, .swap32, .swap64]) {p off : Nat} (h : k.width ∣ off) :
    k.width ∣ (Place.mill p off).key := by
  have hmod : (Place.mill p off).key % 32 = off % 32 := millKey_mod p off
  rcases (width_fits hk h).2 with hw | hw
  all_goals
    rw [hw] at h ⊢
    omega

theorem atomHere_of_ok {s : State} {c : Core} {a : AtomOp} {pl : Place}
    (hk : a.kind ∈ [AtomKind.addI32, .addF32, .addP64, .swap32, .swap64]) (h : (atomApply s pl a.kind a.operand).2.2 = .ok) :
    atomHere s c a pl = dropAtom (atomOld (atomApply s pl a.kind a.operand).1 c a (atomApply s pl a.kind a.operand).2.1) c a.iseq := by
  obtain ⟨f, hf⟩ : ∃ f, f = atomApply := ⟨_, rfl⟩
  obtain ⟨F, hF⟩ : ∃ F, F = atomHere := ⟨_, rfl⟩
  rw [← hf] at h ⊢
  rw [← hF]
  delta atomHere at hF
  rw [← hf] at hF
  rw [hF]
  obtain ⟨⟨s1, old, st⟩, hx⟩ : ∃ x, x = f s pl a.kind a.operand := ⟨_, rfl⟩
  rw [← hx] at h
  rw [← hx]
  obtain rfl : st = .ok := h
  simp only [List.mem_cons, List.not_mem_nil, or_false] at hk
  rcases hk with h' | h' | h' | h' | h'
  all_goals
    rw [h'] at hx
    simp only [h', ← hx]

theorem bankAtomicApply_own {s : State} {l off : Nat} {a : AtomOp} {r : Run} (hr : s.runOf l = some r)
    (hq : (s.tile (s.phys l)).atomQ = [a]) (hsent : a.sent = false) (hn : a.kind.width ∣ off)
    (hk : a.kind ∈ [AtomKind.addI32, .addF32, .addP64, .swap32, .swap64]) (ht : mpTarget r l a.addr.toNat = some (l, off))
    (hown : ownerOf s (s.phys l) off = r.rr.ctx + 1) (hc : classify (s.word (millKey (s.phys l) off)).2 = .clean)
    (hfree : blocked s l a.iseq [] (atomFoot s l a).writes = false) :
    exec (.bankAtomicApply (.tile l)) s = .next (dropAtom (atomOld (merged s (.mill (s.phys l) off) a.kind.width
      (atomNew a.kind (s.num (millKey (s.phys l) off) a.kind.width) a.operand)) (.tile l) a
      (BitVec.ofNat 64 (s.num (millKey (s.phys l) off) a.kind.width))) (.tile l) a.iseq) := by
  have hplace : mpPlace s r l a.addr.toNat = some (.mill (s.phys l) off) := by
    rw [mpPlace, ht]
    rfl
  have hwhere : atomWhere s (.tile l) a = (s, .here (.mill (s.phys l) off)) := by
    rw [atomWhere, hr]
    simp only [mpTarget_lt ht, hplace, owned, hown, beq_self_eq_true, if_true]
  have happly := atomApply_good (s := s) (pl := .mill (s.phys l) off) (k := a.kind) (fun _ h => nomatch h) hc hk
    (width_dvd_key hk hn) a.operand
  have hmake : atomMake s (.tile l) a = atomHere s (.tile l) a (.mill (s.phys l) off) := by
    simp only [List.mem_cons, List.not_mem_nil, or_false] at hk
    rcases hk with h | h | h | h | h <;> simp only [atomMake, h, hwhere]
  have hhere : atomHere s (.tile l) a (.mill (s.phys l) off) = dropAtom (atomOld (atomApply s (.mill (s.phys l) off) a.kind a.operand).1 (.tile l) a
      (atomApply s (.mill (s.phys l) off) a.kind a.operand).2.1) (.tile l) a.iseq := by
    rw [atomHere_of_ok hk (congrArg (fun x : State × W64 × RdSt => x.2.2) happly)]
  have hready : atomReady s (.tile l) [a] a = true := by
    simp only [List.mem_cons, List.not_mem_nil, or_false] at hk
    rcases hk with h | h | h | h | h <;> simp [atomReady, h, hsent, hfree]
  have hbar : atomBarred s (.tile l) a = false := by
    have hb : barredAt s (l / 48) (.here (.mill (s.phys l) off)) = false := rfl
    simp only [List.mem_cons, List.not_mem_nil, or_false] at hk
    rcases hk with h | h | h | h | h <;> simp only [atomBarred, h, hwhere, hb]
  have hcore : coreAtoms s (.tile l) = [a] := hq
  have hfind : [a].find? (fun b => atomReady s (.tile l) [a] b && !atomBarred s (.tile l) b) = some a :=
    List.find?_cons_of_pos (by rw [hready, hbar]; rfl)
  change execBankAtomicApply (.tile l) s = _
  rw [execBankAtomicApply, hcore, hfind]
  dsimp only
  rw [hmake, hhere, happly]
  obtain ⟨k, hk⟩ : ∃ k, k = millKey (s.phys l) off := ⟨_, rfl⟩
  rw [show (Place.mill (s.phys l) off).key = k from hk.symm, ← hk]

/-- Settles O26: a good word takes its new value, and the old one reaches the register. -/
theorem atomicsAreApplied : Obligations.AtomicsAreApplied := by
  unfold Obligations.AtomicsAreApplied
  refine ⟨?_, ?_⟩
  · intro s pl k v h hc hk hn old x
    have hx : x = _ := atomApply_good h hc hk hn v
    rw [hx]
    refine ⟨rfl, rfl, merged_chk h hc _ _, ?_⟩
    refine storedBytes_mod (merged_stored h (width_fits hk hn).1) ?_
    simp only [List.mem_cons, List.not_mem_nil, or_false] at hk
    rcases hk with rfl | rfl | rfl | rfl | rfl
    · change (BitVec.ofNat 32 old + v.setWidth 32).toNat % 2 ^ 32 = (old + v.toNat) % 2 ^ 32 % 2 ^ 32
      simp
    · rfl
    · rfl
    · change (v.setWidth 32).toNat % 2 ^ 32 = v.toNat % 2 ^ 32
      simp
    · rfl
  · intro s l off a r hr hq hsent hn hk ht hown hc hfree
    refine ⟨_, bankAtomicApply_own hr hq hsent hn hk ht hown hc hfree, ?_⟩
    have happly := atomApply_good (s := s) (pl := .mill (s.phys l) off) (k := a.kind) (fun _ h => nomatch h) hc hk
      (width_dvd_key hk hn) a.operand
    obtain ⟨n, hn'⟩ : ∃ n, n = atomNew a.kind (s.num (millKey (s.phys l) off) a.kind.width) a.operand := ⟨_, rfl⟩
    obtain ⟨old, hold⟩ : ∃ old, old = BitVec.ofNat 64 (s.num (millKey (s.phys l) off) a.kind.width) := ⟨_, rfl⟩
    have hm : MillOnly s (merged s (.mill (s.phys l) off) a.kind.width n) := millOnly_merged ..
    have hmem : (merged s (.mill (s.phys l) off) a.kind.width n).mem = (atomApply s (.mill (s.phys l) off) a.kind a.operand).1.mem := by
      rw [hn']
      exact (congrArg (fun x : State × W64 × RdSt => x.1.mem) happly).symm
    rw [← hn', ← hold]
    generalize merged s (.mill (s.phys l) off) a.kind.width n = u at hm hmem
    have hphys : u.phys l = s.phys l := hm.phys l
    obtain ⟨hp, q, htile, hq0, hqv⟩ := atomOld_tile u l a old
    have hqu : (u.tile (u.phys l)).atomQ = [a] := by rw [hphys, hm.2, ← hq]
    have hqo : ((atomOld u (.tile l) a old).tile ((atomOld u (.tile l) a old).phys l)).atomQ = [a] := by rw [hp, htile, ← hqu]
    have hdrop := dropAtom_only hqo
    rw [hp, htile, hphys] at hdrop
    have hseqr : (dropAtom (atomOld u (.tile l) a old) (.tile l) a.iseq).seqr (.tile l) = q := by
      change ((dropAtom (atomOld u (.tile l) a old) (.tile l) a.iseq).tile ((atomOld u (.tile l) a old).phys l)).seqr = q
      rw [hp, hphys, hdrop]
    refine ⟨?_, ?_, fun h0 => ?_, fun h0 hlt hw => ?_⟩
    · rw [dropAtom_mem, atomOld_mem, hmem]
    · rw [hdrop]
    · rw [hseqr, hq0 h0, hm.seqr_tile]
    · rw [hseqr]
      rw [← hm.seqr_tile] at hw
      exact hqv h0 hlt hw

end Sys2Proof.Proofs
end

section
/-! Every function of the model that returns a state keeps the canonical forms of storage (part 1). -/

namespace Sys2Proof.Proofs
open Sys2Proof Sys2Proof.Machine

/-! ## Machine/Ops -/

theorem canonical_disown {s : State} (h : Canonical s) (p : Requester → Bool) : Canonical (State.disown s p) := by
  unfold State.disown
  grind only [Canonical]

/-! ## Machine/Memory -/

theorem canonical_ringEntry {s : State} (h : Canonical s) (r : Ring) (i : Nat) : Canonical (ringEntry s r i).1 := by
  unfold ringEntry
  grind only [! canonical_readBytes]

theorem canonical_headRecord {s : State} (h : Canonical s) (r : Nat) : Canonical (headRecord s r).1 := by
  unfold headRecord
  grind only [! canonical_ringEntry]

/-! ## Machine/Operands -/

theorem canonical_readEntry {s : State} (h : Canonical s) (ctx level idx a : Nat) : Canonical (readEntry s ctx level idx a).1 := by
  unfold readEntry
  grind only [! canonical_readSub, Canonical]

theorem canonical_translate {s : State} (h : Canonical s) (ctx va : Nat) (write exec : Bool) : Canonical
    (Machine.translate s ctx va write exec).1 := by
  unfold Machine.translate
  repeat' split
  all_goals grind only [! canonical_readEntry]

theorem canonical_peekWords (n : Nat) {s : State} (h : Canonical s) (a : Nat) : Canonical (peekWords s a n).1 := by
  induction n generalizing s a with
  | zero => exact h
  | succ n ih => exact ih (canonical_readWord h (.hbm a)) (a + 32)

theorem canonical_rightsTable {s : State} (h : Canonical s) (ctx : Nat) : Canonical (rightsTable s ctx).1 := by
  unfold rightsTable
  grind only [! canonical_peekWords, Canonical]

theorem canonical_groupEntry {s : State} (h : Canonical s) (g : Nat) : Canonical (groupEntry s g).1 := by
  unfold groupEntry
  grind only [! canonical_peekWords, Canonical]

theorem canonical_groupCheck {s : State} (h : Canonical s) (src group perm off n : Nat) : Canonical
    (groupCheck s src group perm off n).1 := by
  unfold groupCheck
  grind only [! canonical_groupEntry]

theorem canonical_bumpHdr {s : State} (h : Canonical s) (i : Nat) : Canonical (bumpHdr s i) := by
  unfold bumpHdr
  grind only [Canonical]

theorem canonical_resolveGlobal {s : State} (h : Canonical s) (ctx a perm n : Nat) : Canonical (resolveGlobal s ctx a perm n).1 := by
  unfold resolveGlobal
  grind only [canonical_bumpHdr, ! canonical_rightsTable, ! canonical_groupCheck]

theorem canonical_sendReq {s : State} (h : Canonical s) (dev group oclass op len : Nat) (addr operand : W64) (data : List Word288)
    (who : Requester) : Canonical (sendReq s dev group oclass op len addr operand data who) := by
  unfold sendReq
  grind only [Canonical]

theorem canonical_requestFor {s : State} (h : Canonical s) (ctx : Nat) : Canonical (State.requestFor s ctx) := by
  unfold State.requestFor
  grind only [Canonical]

theorem canonical_globalAddr {s : State} (h : Canonical s) (ctx a perm n : Nat) : Canonical (globalAddr s ctx a perm n).1 := by
  unfold globalAddr
  grind only [! canonical_resolveGlobal]

theorem canonical_ctxAddr {s : State} (h : Canonical s) (ctx a perm n : Nat) (exec : Bool) : Canonical (ctxAddr s ctx a perm n exec).1 := by
  unfold ctxAddr
  grind only [! canonical_globalAddr, ! canonical_translate]

theorem canonical_gtake {s : State} (h : Canonical s) (slot gen : Nat) : Canonical (gtake s slot gen) := by
  unfold gtake
  grind only [canonical_modGSlot]

theorem canonical_gdrop {s : State} (h : Canonical s) (slot gen : Nat) : Canonical (gdrop s slot gen) := by
  unfold gdrop
  grind only [canonical_modGSlot]

theorem canonical_takeRefs {s : State} (h : Canonical s) (rs : List GRef) : Canonical (takeRefs s rs) := by
  unfold takeRefs
  grind only [canonical_foldl, canonical_gtake]

theorem canonical_dropRefs {s : State} (h : Canonical s) (rs : List GRef) : Canonical (dropRefs s rs) := by
  unfold dropRefs
  grind only [canonical_foldl, canonical_gdrop]

/-! ## Machine/Ports -/

theorem canonical_modCrossing {s : State} (h : Canonical s) (x : Nat) (f : Crossing → Crossing) : Canonical (State.modCrossing s x f) := by
  unfold State.modCrossing
  grind only [Canonical]

theorem canonical_resetGroup {s : State} (h : Canonical s) (x : Nat) : Canonical (resetGroup s x) := by
  unfold resetGroup
  grind only [canonical_modCrossing]

theorem canonical_resetPort {s : State} (h : Canonical s) (p : Nat) : Canonical (resetPort s p) := by
  unfold resetPort
  grind only [canonical_resetGroup, canonical_modPort, Canonical]

theorem canonical_portDown {s : State} (h : Canonical s) (p cause : Nat) : Canonical (portDown s p cause) := by
  unfold portDown
  grind only [canonical_resetPort, canonical_modPort, canonical_postEvent]

theorem canonical_ctrlOut {s : State} (h : Canonical s) (p : Nat) (m : CtrlMsg) : Canonical (ctrlOut s p m) := by
  unfold ctrlOut
  grind only [canonical_modPort, Canonical]

theorem canonical_ctrlNext {s : State} (h : Canonical s) : Canonical (ctrlNext s) := by
  unfold ctrlNext
  grind only [canonical_ctrlOut, Canonical]

/-! ## Machine/Audit -/

theorem canonical_raiseIbi {s : State} (h : Canonical s) (b : Byte) : Canonical (raiseIbi s b) := by
  unfold raiseIbi
  grind only [Canonical]

theorem canonical_refreshAlert {s : State} (h : Canonical s) : Canonical (refreshAlert s) := by
  unfold refreshAlert
  grind only [canonical_raiseIbi, Canonical]

theorem canonical_auditAppend {s : State} (h : Canonical s) (role : Nat) (overI3c : Bool) (action result target : Nat) (key : BitVec 128)
    (detail : Nat) : Canonical (auditAppend s role overI3c action result target key detail) := by
  unfold auditAppend
  grind only [canonical_refreshAlert, Canonical]

theorem canonical_auditDevice {s : State} (h : Canonical s) (action result target detail : Nat) : Canonical
    (auditDevice s action result target detail) := by
  unfold auditDevice
  grind only [canonical_auditAppend]

theorem canonical_auditEnd {s : State} (h : Canonical s) (action target result : Nat) : Canonical (auditEnd s action target result) := by
  unfold auditEnd
  grind only [canonical_auditAppend, Canonical]

/-! ## Machine/Power -/

theorem canonical_setTileRate {s : State} (h : Canonical s) (p : Nat) : Canonical (setTileRate s p) := by
  unfold setTileRate
  grind only [canonical_modFanTile]

theorem canonical_setTileGcap {s : State} (h : Canonical s) (p g : Nat) : Canonical (setTileGcap s p g) := by
  unfold setTileGcap
  grind only [canonical_setTileRate, canonical_modFanTile]

theorem canonical_startStep {s : State} (h : Canonical s) (d p : Nat) : Canonical (startStep s d p) := by
  unfold startStep
  grind only [canonical_modFanTile]

theorem canonical_driveDie {s : State} (h : Canonical s) (d : Nat) : Canonical (driveDie s d) := by
  unfold driveDie
  grind only [canonical_foldl, canonical_startStep, Canonical]

theorem canonical_driveAll {s : State} (h : Canonical s) : Canonical (driveAll s) := by
  unfold driveAll
  grind only [canonical_foldl, canonical_driveDie]

theorem canonical_applyTile {s : State} (h : Canonical s) (p : Nat) : Canonical (applyTile s p) := by
  unfold applyTile
  grind only [canonical_setTileRate, canonical_modFanTile]

theorem canonical_groupMembers {s : State} (h : Canonical s) : Canonical (groupMembers s).1 := by
  unfold groupMembers
  grind only [! canonical_groupEntry]

theorem canonical_fanSend {s : State} (h : Canonical s) (type subj : Nat) (v0 v1 : W32) (dev : Nat) : Canonical
    (fanSend s type subj v0 v1 dev) := by
  unfold fanSend
  grind only [canonical_sendReq, Canonical]

theorem canonical_fanSendAll {s : State} (h : Canonical s) (type subj : Nat) (v0 v1 : W32) (devs : List Nat) : Canonical
    (fanSendAll s type subj v0 v1 devs) := by
  unfold fanSendAll
  grind only [canonical_foldl, canonical_fanSend]

theorem canonical_setGcap {s : State} (h : Canonical s) (g : Nat) : Canonical (setGcap s g) := by
  unfold setGcap
  grind only [canonical_modCtx, canonical_foldl, canonical_setTileGcap, Canonical]

theorem canonical_refreshGcap {s : State} (h : Canonical s) : Canonical (refreshGcap s) := by
  unfold refreshGcap
  grind only [canonical_setGcap]

theorem canonical_setBalance {s : State} (h : Canonical s) (dev : Nat) (v : Int) : Canonical (setBalance s dev v) := by
  unfold setBalance
  grind only [canonical_fanSend, Canonical]

theorem canonical_moveTokens {s : State} (h : Canonical s) (dev : Nat) : Canonical (moveTokens s dev) := by
  unfold moveTokens
  grind only [canonical_setBalance]

theorem canonical_sendMode {s : State} (h : Canonical s) (devs : List Nat) : Canonical (sendMode s devs) := by
  unfold sendMode
  grind only [canonical_fanSendAll]

theorem canonical_headSlow {s : State} (h : Canonical s) (devs : List Nat) (dev floor : Nat) : Canonical (headSlow s devs dev floor) := by
  unfold headSlow
  grind only [canonical_moveTokens, canonical_refreshGcap, canonical_sendMode, Canonical]

theorem canonical_sendSlowdown {s : State} (h : Canonical s) : Canonical (sendSlowdown s) := by
  unfold sendSlowdown
  grind only [! canonical_groupMembers, canonical_fanSendAll, canonical_headSlow]

theorem canonical_postSlowdown {s : State} (h : Canonical s) (dev floor : Nat) : Canonical (postSlowdown s dev floor) := by
  unfold postSlowdown
  grind only [canonical_postEvent]

theorem canonical_checkSlowed {s : State} (h : Canonical s) : Canonical (checkSlowed s) := by
  unfold checkSlowed
  grind only [canonical_postSlowdown, canonical_sendSlowdown, ! canonical_groupMembers, canonical_fanSendAll, Canonical]

theorem canonical_applyLevel {s : State} (h : Canonical s) : Canonical (applyLevel s) := by
  unfold applyLevel
  grind only [canonical_checkSlowed, canonical_driveAll, canonical_foldl, canonical_applyTile, Canonical]

theorem canonical_sendSkew {s : State} (h : Canonical s) (r : GroupRound) : Canonical (sendSkew s r) := by
  unfold sendSkew
  grind only [! canonical_groupMembers, canonical_moveTokens, canonical_fanSend, Canonical]

theorem canonical_endRound {s : State} (h : Canonical s) (r : GroupRound) : Canonical (endRound s r) := by
  unfold endRound
  grind only [canonical_sendSkew, Canonical]

theorem canonical_stampArrival {s : State} (h : Canonical s) (ctx n dev : Nat) (released : Bool) : Canonical
    (stampArrival s ctx n dev released) := by
  unfold stampArrival
  grind only [canonical_endRound, Canonical]

/-! ## Machine/Firmware -/

theorem canonical_modFwSlot {s : State} (h : Canonical s) (i : Nat) (f : FwSlot → FwSlot) : Canonical (modFwSlot s i f) := by
  unfold modFwSlot
  grind only [Canonical]

theorem canonical_setFwSt {s : State} (h : Canonical s) (i : Nat) (st : FwSt) : Canonical (setFwSt s i st) := by
  unfold setFwSt
  grind only [canonical_modFwSlot]

theorem canonical_checkTrial {s : State} (h : Canonical s) : Canonical (checkTrial s) := by
  unfold checkTrial
  grind only [canonical_auditEnd, canonical_auditDevice, canonical_setFwSt, Canonical]

theorem canonical_failTrial {s : State} (h : Canonical s) (kind t : Nat) : Canonical (failTrial s kind t) := by
  unfold failTrial
  grind only [canonical_setFwSt, canonical_auditEnd, canonical_auditDevice, Canonical]

/-! ## Machine/Issue -/

theorem canonical_stopTile {s : State} (h : Canonical s) (p : Nat) : Canonical (stopTile s p) := by
  unfold stopTile
  grind only [canonical_dropRefs, canonical_modTile]

theorem canonical_stopRun {s : State} (h : Canonical s) (r : Run) : Canonical (stopRun s r) := by
  unfold stopRun
  grind only [canonical_foldl, canonical_stopTile, canonical_modEngine]

theorem canonical_faultRun {s : State} (h : Canonical s) (d rid : Nat) (f : Flt) (pc : Option W64) (tile cls : Nat) : Canonical
    (faultRun s d rid f pc tile cls) := by
  unfold faultRun
  grind only [canonical_stopRun, canonical_modRun]

theorem canonical_faultTile {s : State} (h : Canonical s) (l : Nat) (f : Flt) (pc : W64) (cls : Nat) : Canonical
    (faultTile s l f pc cls) := by
  unfold faultTile
  grind only [canonical_faultRun]

end Sys2Proof.Proofs
end

section
/-! Every function of the model that returns a state keeps the canonical forms of storage (part 2). -/

namespace Sys2Proof.Proofs
open Sys2Proof Sys2Proof.Machine

/-! ## Machine/Issue -/

theorem canonical_machineFault {s : State} (h : Canonical s) (l : Nat) (pc : W64) (counted : Bool) : Canonical
    (machineFault s l pc counted) := by
  unfold machineFault
  grind only [canonical_faultTile, canonical_modTile]

theorem canonical_serviceFault {s : State} (h : Canonical s) (m : Nat) : Canonical (serviceFault s m) := by
  unfold serviceFault
  grind only [canonical_modMiller]

theorem canonical_coreFault {s : State} (h : Canonical s) (c : Core) (f : Flt) (cls : Nat) : Canonical (coreFault s c f cls) := by
  unfold coreFault
  grind only [canonical_faultTile, canonical_modSeqr, canonical_serviceFault]

theorem canonical_progress {s : State} (h : Canonical s) (d rid : Nat) : Canonical (progress s d rid) := by
  unfold progress
  grind only [canonical_modRun]

theorem canonical_tileHs {s : State} (h : Canonical s) (l n : Nat) : Canonical (tileHs s l n) := by
  unfold tileHs
  grind only [canonical_modTile, canonical_progress]

theorem canonical_coreHs {s : State} (h : Canonical s) (c : Core) (n : Nat) : Canonical (coreHs s c n) := by
  unfold coreHs
  grind only [canonical_tileHs]

theorem canonical_advance {s : State} (h : Canonical s) (c : Core) (n : W64) : Canonical (advance s c n) := by
  unfold advance
  grind only [canonical_coreHs, canonical_modSeqr]

/-- The state that an instruction's own effect leaves. -/
def issState : Iss → State
  | .done s | .jump s _ | .fault s _ | .hold s _ | .stay s => s

theorem canonical_finish (c : Core) (f : Form) {i : Iss} (h : Canonical (issState i)) : Canonical (finish c f i) := by
  cases i with
  | done s => exact canonical_advance h ..
  | jump s pc => exact canonical_coreHs ((canonical_modSeqr ..).2 h) ..
  | fault s e => exact canonical_coreFault h ..
  | hold s q => exact (canonical_modSeqr ..).2 h
  | stay s => exact h

/-! ## Machine/Units -/

theorem canonical_wakeBanks {s : State} (h : Canonical s) (p : Nat) : Canonical (wakeBanks s p) := by
  unfold wakeBanks
  grind only [canonical_modMpd, canonical_foldl]

theorem canonical_retainBanks {s : State} (h : Canonical s) (p : Nat) : Canonical (retainBanks s p) := by
  unfold retainBanks
  grind only [canonical_modMpd, canonical_foldl]

theorem canonical_serviceRetire {s : State} (h : Canonical s) (p : Nat) : Canonical (serviceRetire s p) := by
  unfold serviceRetire
  grind only [canonical_modLTile]

theorem canonical_abortMarch {s : State} (h : Canonical s) (p : Nat) : Canonical (abortMarch s p) := by
  unfold abortMarch
  grind only [canonical_modMpd]

theorem canonical_marchZero {s : State} (h : Canonical s) (p : Nat) (banks : BitVec 3) : Canonical (marchZero s p banks) :=
  canonical_foldl _ _ (fun u b hu => by
    dsimp only
    split
    · exact ⟨(canonical_zero hu _ _).1, (canonical_zero hu _ _).2.1, twf_filter 0 u.owner _ hu.2.2⟩
    · exact hu) h

theorem canonical_driveTile {s : State} (h : Canonical s) (p : Nat) : Canonical (driveTile s p) := by
  unfold driveTile
  grind only [canonical_checkSlowed, canonical_driveDie, canonical_applyTile]

theorem canonical_tileOff {s : State} (h : Canonical s) (p : Nat) : Canonical (tileOff s p) := by
  unfold tileOff
  grind only [canonical_driveTile, canonical_retainBanks, canonical_modFanTile]

theorem canonical_beginEnable {s : State} (h : Canonical s) (u : EnUnit) : Canonical (beginEnable s u) := by
  unfold beginEnable
  grind only [canonical_driveTile, canonical_wakeBanks, canonical_modMiller]

theorem canonical_beginDisable {s : State} (h : Canonical s) (u : EnUnit) : Canonical (beginDisable s u) := by
  unfold beginDisable
  grind only [canonical_abortMarch, canonical_modMiller]

theorem canonical_turnOff {s : State} (h : Canonical s) (u : EnUnit) : Canonical (turnOff s u) := by
  unfold turnOff
  grind only [canonical_tileOff, canonical_resetPort, canonical_modPort, canonical_modMiller]

theorem canonical_requestUnit {s : State} (h : Canonical s) (u : EnUnit) (on : Bool) : Canonical (requestUnit s u on) := by
  unfold requestUnit
  grind only [canonical_modUnit, canonical_beginEnable, canonical_beginDisable]

theorem canonical_startCore {s : State} (h : Canonical s) (c : Nat) : Canonical (startCore s c) := by
  unfold startCore
  grind only [canonical_modMiller, canonical_checkTrial, canonical_auditDevice]

theorem canonical_turnOn {s : State} (h : Canonical s) (u : EnUnit) : Canonical (turnOn s u) := by
  unfold turnOn
  grind only [canonical_driveTile, canonical_modPort, canonical_startCore]

/-! ## Machine/Fantail -/

theorem canonical_setPeriod {s : State} (h : Canonical s) (p : Nat) (v : W32) : Canonical (setPeriod s p v) := by
  unfold setPeriod
  grind only [canonical_modFanTile, canonical_setTileRate]

theorem canonical_lowerCapAll {s : State} (h : Canonical s) : Canonical (lowerCapAll s) := by
  unfold lowerCapAll
  grind only [Canonical]

theorem canonical_capLower {s : State} (h : Canonical s) : Canonical (capLower s) := by
  unfold capLower
  grind only [canonical_lowerCapAll, canonical_applyLevel, Canonical]

theorem canonical_capRaise {s : State} (h : Canonical s) : Canonical (capRaise s) := by
  unfold capRaise
  grind only [canonical_applyLevel, Canonical]

theorem canonical_postBrake {s : State} (h : Canonical s) (d1 : Nat) : Canonical (postBrake s d1) := by
  unfold postBrake
  grind only [canonical_postEvent]

theorem canonical_brakeDown {s : State} (h : Canonical s) (from_ : Nat) : Canonical (brakeDown s from_) := by
  unfold brakeDown
  grind only [canonical_lowerCapAll, Canonical]

theorem canonical_brakeOn {s : State} (h : Canonical s) : Canonical (brakeOn s) := by
  unfold brakeOn
  grind only [canonical_applyLevel, canonical_brakeDown, canonical_refreshAlert, canonical_postBrake, Canonical]

theorem canonical_refreshAvs {s : State} (h : Canonical s) : Canonical (refreshAvs s) := by
  unfold refreshAvs
  grind only [canonical_refreshAlert, Canonical]

theorem canonical_hasGroup {s : State} (h : Canonical s) : Canonical (hasGroup s).1 := by
  unfold hasGroup
  grind only [! canonical_groupEntry]

theorem canonical_takeMsg {s : State} (h : Canonical s) (m : FanMsg) {t : State} (e : takeMsg s m = some t) : Canonical t := by
  unfold takeMsg at e
  grind only [! canonical_hasGroup, Canonical]

theorem canonical_setNotice {s : State} (h : Canonical s) (dev floor : Nat) : Canonical (setNotice s dev floor) := by
  unfold setNotice
  grind only [Canonical]

theorem canonical_dropNotice {s : State} (h : Canonical s) (dev : Nat) : Canonical (dropNotice s dev) := by
  unfold dropNotice
  grind only [canonical_refreshGcap, Canonical]

theorem canonical_setMode {s : State} (h : Canonical s) (mode ref common : Nat) : Canonical (setMode s mode ref common) := by
  unfold setMode
  grind only [canonical_checkSlowed, canonical_refreshGcap, Canonical]

theorem canonical_writeFanGroup {s : State} (h : Canonical s) (mode ctx group : Nat) : Canonical (writeFanGroup s mode ctx group) := by
  unfold writeFanGroup
  grind only [canonical_setMode, ! canonical_groupMembers, canonical_sendMode, Canonical]

/-! ## Machine/Hazard -/

theorem canonical_takeIseq {s : State} (h : Canonical s) (l : Nat) : Canonical (takeIseq s l).1 := by
  unfold takeIseq
  grind only [canonical_modTile]

/-! ## Machine/Tables -/

theorem canonical_enqHop {s : State} (h : Canonical s) (l : Nat) (mk : Nat → HopOp) (upd : Tile → Tile) : Canonical (issState
    (enqHop s l mk upd)) := by
  unfold enqHop
  grind only [issState, ! canonical_takeIseq, canonical_modTile]

theorem canonical_onTile {s : State} (h : Canonical s) (c : Core) (k : Nat → Run → Iss) (hk : ∀ l r, Canonical (issState (k l r))) :
    Canonical (issState (onTile s c k)) := by
  unfold onTile
  grind only [issState]

theorem canonical_readAct {s : State} (h : Canonical s) (p : Nat) (o : BuildOp) (r i : Nat) : Canonical (readAct s p o r i).1 := by
  unfold readAct
  grind only [canonical_zero, ! canonical_readSub]

theorem canonical_readActs (n : Nat) {s : State} (h : Canonical s) (p : Nat) (o : BuildOp) (r i : Nat) : Canonical
    (readActs s p o r i n).1 := by
  induction n generalizing s p o r i with
  | zero => exact h
  | succ n ih =>
    unfold readActs
    grind only [! canonical_readAct]

theorem canonical_readCodebook {s : State} (h : Canonical s) (p : Nat) (cb : Option Nat) : Canonical (readCodebook s p cb).1 := by
  have hread := fun a => canonical_readBytes h (.mill p a) 1024
  obtain ⟨f, hf⟩ : ∃ f, f = readBytes := ⟨_, rfl⟩
  obtain ⟨F, hF⟩ : ∃ F, F = readCodebook := ⟨_, rfl⟩
  rw [← hF]
  delta readCodebook at hF
  rw [← hf] at hF hread
  rw [hF]
  cases cb with
  | none => exact h
  | some a => exact hread a

theorem canonical_buildBlock {s : State} (hs : Canonical s) (p : Nat) (o : BuildOp) (cw : List (List Int)) (bad : Bool) (r k : Nat)
    (h : Half) : Canonical (buildBlock s p o cw bad r k h).1 := by
  unfold buildBlock
  grind only [! canonical_readActs]

theorem canonical_buildBlocks (n : Nat) {s : State} (hs : Canonical s) (p : Nat) (o : BuildOp) (cw : List (List Int)) (bad : Bool)
    (i : Nat) (h : Half) : Canonical (buildBlocks s p o cw bad i h n).1 := by
  induction n generalizing s p o cw bad i h with
  | zero => exact hs
  | succ n ih =>
    unfold buildBlocks
    grind only [! canonical_buildBlock]

theorem canonical_buildHalf {s : State} (hs : Canonical s) (p : Nat) (o : BuildOp) (h : Half) : Canonical (buildHalf s p o h).1 := by
  unfold buildHalf
  grind only [! canonical_readCodebook, ! canonical_buildBlocks]

theorem canonical_loadHalf {s : State} (h : Canonical s) (p : Nat) (o : BuildOp) : Canonical (loadHalf s p o).1 := by
  have hread := canonical_readBytes h (.mill p o.src) imageBytes
  obtain ⟨f, hf⟩ : ∃ f, f = readBytes := ⟨_, rfl⟩
  obtain ⟨F, hF⟩ : ∃ F, F = loadHalf := ⟨_, rfl⟩
  rw [← hF]
  delta loadHalf at hF
  rw [← hf] at hF hread
  rw [hF]
  exact hread

/-! ## Machine/Lookup -/

theorem canonical_readImage (n : Nat) {s : State} (h : Canonical s) (pl : Place) : Canonical (readImage s pl n).1 := by
  induction n generalizing s pl with
  | zero => exact h
  | succ n ih =>
    unfold readImage
    grind only [! canonical_readWord]

theorem canonical_groupScale {s : State} (h : Canonical s) (p : Nat) (b : Bin) (g c : Nat) : Canonical (groupScale s p b g c).1 := by
  unfold groupScale
  grind only [! canonical_readSub]

theorem canonical_groupScales (xs : List Nat) {s : State} (h : Canonical s) (p : Nat) (b : Bin) (g : Nat) : Canonical
    (groupScales s p b g xs).1 := by
  induction xs generalizing s p b g with
  | nil => exact h
  | cons x xs ih =>
    unfold groupScales
    grind only [! canonical_groupScale]

theorem canonical_deliver {s : State} (h : Canonical s) (p bi : Nat) (groupEnd : Option Nat) (vs : List
    (Nat × Int × Int × Bool)) : Canonical (deliver s p bi groupEnd vs) := by
  unfold deliver
  grind only [canonical_foldl, canonical_modTile, ! canonical_groupScales]

theorem canonical_waveSlot {s : State} (h : Canonical s) (l : Nat) (r : LaccRun) {t : State} {w : LaccRun × Nat}
    (e : waveSlot s l r = some (t, w)) : Canonical t := by
  unfold waveSlot at e
  split at e
  · grind only
  · dsimp only at e
    split at e
    · obtain ⟨o, -, ho⟩ := Option.map_eq_some_iff.1 e
      grind only
    · split at e
      · obtain ⟨o, -, ho⟩ := Option.map_eq_some_iff.1 e
        grind only [canonical_modRing]
      · grind only

theorem canonical_doWave {s : State} (h : Canonical s) (l : Nat) (run : Run) (r : LaccRun) (hr : HalfRec) : Canonical
    (doWave s l run r hr) := by
  unfold doWave
  grind only [→ canonical_waveSlot, canonical_faultTile, ! canonical_readImage, canonical_modTile, canonical_foldl, canonical_deliver,
      canonical_modRing, canonical_tileHs]

theorem canonical_startLook {s : State} (h : Canonical s) (l : Nat) : Canonical (startLook s l) := by
  unfold startLook
  grind only [canonical_modTile]

/-! ## Machine/Bins -/

theorem canonical_readPre (n : Nat) {s : State} (h : Canonical s) (pl : Place) (clear : Bool) : Canonical (readPre s pl clear n).1 := by
  induction n generalizing s pl clear with
  | zero => exact h
  | succ n ih =>
    unfold readPre
    grind only [! canonical_readWord, canonical_writeWord]

theorem canonical_closeGroup {s : State} (h : Canonical s) (p bi g : Nat) : Canonical (closeGroup s p bi g) := by
  unfold closeGroup
  grind only [! canonical_groupScales, canonical_modTile]

theorem canonical_startBin {s : State} (h : Canonical s) (l : Nat) : Canonical (startBin s l) := by
  unfold startBin
  grind only [canonical_tileHs, canonical_modTile, canonical_closeGroup]

/-! ## Machine/Sluice -/

theorem canonical_sluiceAccess {s : State} (h : Canonical s) (pl : Place) (f : Nat → Nat) : Canonical (sluiceAccess s pl f).1 := by
  unfold sluiceAccess
  grind only [! canonical_readWord, canonical_writeWord]

theorem canonical_tellRelease {s : State} (h : Canonical s) (ctx n : Nat) : Canonical (tellRelease s ctx n) := by
  unfold tellRelease
  grind only [Canonical]

theorem canonical_sluiceArriveFrom {s : State} (h : Canonical s) (src ctx n : Nat) : Canonical (sluiceArriveFrom s src ctx n).1 := by
  unfold sluiceArriveFrom
  grind only [! canonical_sluiceAccess, canonical_stampArrival, canonical_tellRelease]

theorem canonical_sluiceArrive {s : State} (h : Canonical s) (ctx n : Nat) : Canonical (sluiceArrive s ctx n).1 := by
  unfold sluiceArrive
  grind only [! canonical_sluiceArriveFrom]

/-! ## Machine/Codec -/

theorem canonical_countEnc {s : State} (h : Canonical s) (d : Nat) (e : Option Escape) : Canonical (countEnc s d e) := by
  unfold countEnc
  grind only [canonical_modGrs]

/-! ## Machine/Tailrace -/

theorem canonical_enqClose {s : State} (h : Canonical s) (c : Core) (l bin : Nat) (dest : CloseDest) : Canonical
    (enqClose s c l bin dest) := by
  unfold enqClose
  grind only [! canonical_takeIseq, canonical_modTile]

theorem canonical_closeTail {s : State} (h : Canonical s) (c : Core) (l : Nat) (r : Run) (bin ea : Nat) : Canonical (issState
    (closeTail s c l r bin ea)) := by
  unfold closeTail
  repeat' split
  all_goals grind only [issState, ! canonical_readBytes, canonical_enqClose, canonical_gtake]

theorem canonical_closeStore {s : State} (h : Canonical s) (c : Core) (l : Nat) (r : Run) (bin ea : Nat) : Canonical (issState
    (closeStore s c l r bin ea)) := by
  unfold closeStore
  grind only [issState, canonical_enqClose]

theorem canonical_closeAdd {s : State} (h : Canonical s) (c : Core) (l : Nat) (r : Run) (bin ea : Nat) : Canonical (issState
    (closeAdd s c l r bin ea)) := by
  unfold closeAdd
  grind only [issState, canonical_enqClose]

theorem canonical_readRaw (n : Nat) {s : State} (h : Canonical s) (pl : Place) : Canonical (readRaw s pl n).1 := by
  induction n generalizing s pl with
  | zero => exact h
  | succ n ih =>
    unfold readRaw
    grind only [! canonical_readWord]

theorem canonical_readVals {s : State} (h : Canonical s) (pl : Place) (w n : Nat) : Canonical (readVals s pl w n).1 := by
  unfold readVals
  grind only [! canonical_readRaw]

theorem canonical_readVec {s : State} (h : Canonical s) (r : Run) (l : Nat) (a : Option Nat) (w n : Nat) : Canonical
    (readVec s r l a w n).1 := by
  unfold readVec
  grind only [! canonical_readVals]

theorem canonical_closeEls {s : State} (h : Canonical s) (r : Run) (l : Nat) (c : CloseRun) (d : TailDesc) : Canonical
    (closeEls s r l c d).1 := by
  unfold closeEls
  grind only [! canonical_readVec]

theorem canonical_rmwSub {s : State} (h : Canonical s) (pl : Place) (n : Nat) (f : Nat → Nat) : Canonical (rmwSub s pl n f).1 := by
  unfold rmwSub
  grind only [! canonical_writeSub]

theorem canonical_untilFlt {α : Type} (xs : List α) {s : State} (h : Canonical s) (f : State → α → State × Flt)
    (hf : ∀ u x, Canonical u → Canonical (f u x).1) : Canonical (untilFlt xs f s).1 := by
  induction xs generalizing s with
  | nil => exact h
  | cons x xs ih =>
    have hx := hf s x h
    unfold untilFlt
    grind only

theorem canonical_writeOutputs {s : State} (h : Canonical s) (p out ph hdr fmt w : Nat) (es : List OutEl) : Canonical
    (writeOutputs s p out ph hdr fmt w es).1 := by
  unfold writeOutputs
  grind only [! canonical_untilFlt, ! canonical_writeBytes, ! canonical_rmwSub]

theorem canonical_codeOutput {s : State} (h : Canonical s) (p d out hdr fmt w slot gen : Nat) (es : List OutEl) (k : Nat) : Canonical
    (codeOutput s p d out hdr fmt w slot gen es k).1 := by
  unfold codeOutput
  grind only [! canonical_writeBytes, canonical_countEnc, ! canonical_rmwSub]

theorem canonical_closeOut {s : State} (h : Canonical s) (p die : Nat) (d : TailDesc) (els : List El) : Canonical
    (closeOut s p die d els).1 := by
  unfold closeOut
  grind only [! canonical_untilFlt, ! canonical_codeOutput, ! canonical_writeOutputs]

theorem canonical_kvWord {k : KvSt} (h : Canonical k.s) (ctx l iseq : Nat) (x : Nat × BitVec 256 × BitVec 256) : Canonical
    (kvWord ctx l iseq k x).s := by
  unfold kvWord
  grind only [! canonical_ctxAddr, canonical_writeWord, ! canonical_writeMask, canonical_sendReq]

/-- A fold of writes of which each keeps the form. -/
theorem canonical_foldl_kvSt {α : Type} (f : KvSt → α → KvSt) (xs : List α) (k : KvSt) (hf : ∀ u a, Canonical u.s → Canonical (f u a).s)
    (h : Canonical k.s) : Canonical (xs.foldl f k).s := by
  induction xs generalizing k with
  | nil => exact h
  | cons a xs ih => exact ih _ (hf k a h)

theorem canonical_kvEntry {k : KvSt} (h : Canonical k.s) (ctx l iseq w b : Nat) (entry : List Byte) (q : List Int) (scale : Nat) :
    Canonical (kvEntry ctx l iseq w b k entry q scale).s :=
  canonical_foldl_kvSt _ _ _ (fun _ _ hu => canonical_kvWord hu ..) h

theorem canonical_kvFetch (n : Nat) {k : KvSt} (h : Canonical k.s) (ctx l iseq w b : Nat) (a : Nat) (got : List Byte) (q : List Int)
    (scale : Nat) : Canonical (kvFetch ctx l iseq w b k a got q scale n).s := by
  induction n generalizing k ctx l iseq w b a got q scale with
  | zero => exact h
  | succ n ih =>
    unfold kvFetch
    grind only [! canonical_kvEntry, ! canonical_ctxAddr, canonical_sendReq, ! canonical_readBytes]

theorem canonical_kvHead {k : KvSt} (h : Canonical k.s) (ctx l iseq w b : Nat) (list : W64) (x : Nat × List Int × Nat) : Canonical
    (kvHead ctx l iseq w b list k x).s := by
  unfold kvHead
  grind only [! canonical_kvFetch]

theorem canonical_addWords (xs : List (BitVec 256)) {s : State} (h : Canonical s) (pl : Place) : Canonical (addWords s pl xs) := by
  induction xs generalizing s pl with
  | nil => exact h
  | cons x xs ih =>
    unfold addWords
    grind only [canonical_atomP64x4]

theorem canonical_globalAdds {k : KvSt} (h : Canonical k.s) (ctx l iseq : Nat) (x : Nat × List (BitVec 256)) : Canonical
    (globalAdds ctx l iseq k x).s := by
  unfold globalAdds
  grind only [! canonical_globalAddr, canonical_addWords, canonical_sendReq]

theorem canonical_endClose {s : State} (h : Canonical s) (l iseq : Nat) : Canonical (endClose s l iseq) := by
  unfold endClose
  grind only [canonical_modTile, canonical_gdrop]

theorem canonical_failClose {s : State} (h : Canonical s) (l : Nat) (c : CloseRun) (f : Flt) (cls : Nat) (counted : Bool) : Canonical
    (failClose s l c f cls counted) := by
  unfold failClose
  grind only [canonical_endClose, canonical_machineFault, canonical_faultTile]

theorem canonical_closeWrites {s : State} (h : Canonical s) (r : Run) (l : Nat) (c : CloseRun) : Canonical (closeWrites s r l c).s := by
  obtain ⟨ws, hws⟩ : ∃ ws, ws = (List.range 1024).map (exportWord c) := ⟨_, rfl⟩
  unfold closeWrites
  rw [← hws]
  dsimp only
  split
  · exact canonical_writeWords _ _ h
  · split
    · exact canonical_foldl_kvSt _ _ _ (fun _ _ hu => canonical_globalAdds hu ..) h
    · split
      · exact h
      · split
        · exact canonical_addWords _ h _
        · exact h
  · grind only [! canonical_closeEls, ! canonical_closeOut, canonical_foldl_kvSt, ! canonical_kvHead]

theorem canonical_closeAnswer {s : State} (h : Canonical s) (l iseq more : Nat) (f : Flt) (cls : Nat) (counted : Bool) : Canonical
    (closeAnswer s l iseq more f cls counted) := by
  unfold closeAnswer
  grind only [canonical_failClose, canonical_modTile]

/-! ## Machine/Streams -/

theorem canonical_attachRings {s : State} (h : Canonical s) (k : Nat) (d : StrmDesc) : Canonical (attachRings s k d) := by
  unfold attachRings
  grind only [canonical_foldl, canonical_modRing]

theorem canonical_detachRings {s : State} (h : Canonical s) (k : Nat) (keep : List Nat) : Canonical (detachRings s k keep) := by
  unfold detachRings
  grind only [canonical_foldl, canonical_modRing]

theorem canonical_strmAddr {s : State} (h : Canonical s) (k : Nat) (sl : Slot) (a perm n : Nat) : Canonical
    (strmAddr s k sl a perm n).1 := by
  unfold strmAddr
  grind only [! canonical_ctxAddr]

theorem canonical_srcAddr {s : State} (h : Canonical s) (k : Nat) (sl : Slot) (page : Bool) (a n : Nat) : Canonical
    (srcAddr s k sl page a n).1 := by
  unfold srcAddr
  grind only [! canonical_ctxAddr, ! canonical_strmAddr]

theorem canonical_rawRead {s : State} (h : Canonical s) (pl : Place) : Canonical (rawRead s pl).1 := by
  unfold rawRead
  grind only [canonical_touch]

theorem canonical_fetchWord {s : State} (h : Canonical s) (k : Nat) (lane : Bool) (a : Nat) : Canonical (fetchWord s k lane a).1 := by
  unfold fetchWord
  grind only [! canonical_strmAddr, ! canonical_readWord, ! canonical_rawRead, canonical_modSlot, canonical_sendReq]

theorem canonical_fetchBytes {s : State} (h : Canonical s) (k : Nat) (lane : Bool) (a n : Nat) : Canonical (fetchBytes s k lane a n).1 := by
  unfold fetchBytes
  grind only [! canonical_fetchWord]

theorem canonical_fetchGood {s : State} (h : Canonical s) (k : Nat) (a n : Nat) : Canonical (fetchGood s k a n).1 := by
  unfold fetchGood
  grind only [! canonical_fetchBytes]

theorem canonical_failAt {s : State} (h : Canonical s) (k : Nat) (p : Pos) (f : Flt) (a : W64) : Canonical (failAt s k p f a) := by
  unfold failAt
  grind only [canonical_modSlot]

theorem canonical_curTDesc {s : State} (h : Canonical s) (k : Nat) : Canonical (curTDesc s k).1 := by
  unfold curTDesc
  grind only [! canonical_fetchGood]

theorem canonical_takeSrc {s : State} (h : Canonical s) (d : StrmDesc) (r : ElemRec) {t : State} {w : ElemRec} (e : takeSrc s d r = some
    (t, w)) : Canonical t := by
  unfold takeSrc at e
  grind only [canonical_modRing]

theorem canonical_claimDst {s : State} (h : Canonical s) (d : StrmDesc) (r : ElemRec) {t : State} {w : ElemRec} (e : claimDst s d r = some
    (t, w)) : Canonical t := by
  unfold claimDst at e
  grind only [canonical_foldl, canonical_modRing]

theorem canonical_acquire {s : State} (h : Canonical s) (k : Nat) (d : StrmDesc) (r : ElemRec) : Canonical (acquire s k d r).1 := by
  unfold acquire
  grind only [→ canonical_takeSrc, → canonical_claimDst, canonical_modSlot]

theorem canonical_claimFlume {s : State} (h : Canonical s) (e : Nat) (r : ElemRec) (len : Nat) {t : State}
    (e : claimFlume s e r len = some t) : Canonical t := by
  unfold claimFlume at e
  grind only [canonical_modEngine]

theorem canonical_elemSrc {s : State} (h : Canonical s) (k : Nat) (t : TDesc) (ib db : W64) (elem : Nat) : Canonical
    (elemSrc s k t ib db elem).1 := by
  unfold elemSrc
  grind only [! canonical_fetchGood]

theorem canonical_modWeir {s : State} (h : Canonical s) (die ctx : Nat) (f : Weir → Weir) : Canonical (State.modWeir s die ctx f) := by
  unfold State.modWeir
  grind only [canonical_modMrc]

theorem canonical_weirCharge {s : State} (h : Canonical s) (die ctx bytes : Nat) : Canonical (weirCharge s die ctx bytes) := by
  unfold weirCharge
  grind only [canonical_modWeir]

end Sys2Proof.Proofs
end

section
/-! Every function of the model that returns a state keeps the canonical forms of storage (part 3). -/

namespace Sys2Proof.Proofs
open Sys2Proof Sys2Proof.Machine

/-! ## Machine/Streams -/

theorem canonical_checkSpan (xs : List (Nat × Nat)) {s : State} (h : Canonical s) (at_ : State → Nat → Nat → State × CA)
    (hat : ∀ u a n, Canonical u → Canonical (at_ u a n).1) : Canonical (checkSpan s at_ xs).1 := by
  induction xs generalizing s with
  | nil => exact h
  | cons x xs ih =>
    have hx := hat s x.1 x.2 h
    unfold checkSpan
    grind only

theorem canonical_checkDsts (xs : List W64) {s : State} (h : Canonical s) (k : Nat) (sl : Slot) (mcast : Bool) (n : Nat) : Canonical
    (checkDsts s k sl mcast n xs).1 := by
  induction xs generalizing s k sl mcast n with
  | nil => exact h
  | cons x xs ih =>
    unfold checkDsts
    grind only [! canonical_checkSpan, ! canonical_strmAddr]

theorem canonical_readRemote (xs : List (Nat × Nat)) {s : State} (h : Canonical s) (k xid : Nat) (sl : Slot) (page : Bool)
    (oclass base : Nat) : Canonical (readRemote s k xid sl page oclass base xs).1 := by
  induction xs generalizing s k xid sl page oclass base with
  | nil => exact h
  | cons x xs ih =>
    unfold readRemote
    grind only [! canonical_srcAddr, canonical_sendReq]

theorem canonical_mergeMore (n : Nat) {s : State} (h : Canonical s) (k : Nat) (d : StrmDesc) (t : TDesc) (src : W64) (dst : List W64)
    (room : Nat) : Canonical (mergeMore s k d t src dst room n).1 := by
  induction n generalizing s k d t src dst room with
  | zero => exact h
  | succ n ih =>
    unfold mergeMore
    grind only [! canonical_acquire, canonical_modSlot]

theorem canonical_enterXfer {s : State} (h : Canonical s) (k : Nat) (x : Xfer) (charge : Nat) : Canonical (enterXfer s k x charge) := by
  unfold enterXfer
  grind only [canonical_weirCharge, canonical_modLane, canonical_modMrc, canonical_modSlot]

theorem canonical_issueDecode {s : State} (h : Canonical s) (k : Nat) (sl : Slot) (d : StrmDesc) (t : TDesc) (r : ElemRec) (src : W64)
    (dst : List W64) : Canonical (issueDecode s k sl d t r src dst).1 := by
  unfold issueDecode
  dsimp only
  split
  · grind only [! canonical_fetchBytes]
  · grind only [! canonical_fetchBytes, canonical_failAt]
  · next s1 hb good he =>
    have h1 : Canonical s1 := by grind only [! canonical_fetchBytes]
    obtain ⟨x, hx⟩ : ∃ x : State × FW (List Byte), x = if (fieldAt hb 0 1).testBit 1 = true then
        fetchBytes s1 k true (src + BitVec.ofNat 64 (4096 * sl.next.part)).toNat 32 else (s1, .ok [] true) := ⟨_, rfl⟩
    have h2 : Canonical x.1 := by grind only [! canonical_fetchBytes]
    rw [← hx]
    split
    · exact h2
    · exact canonical_failAt h2 ..
    · split
      · grind only [! canonical_checkSpan, ! canonical_srcAddr, canonical_failAt]
      · next s3 fab hc =>
        have h3 : Canonical s3 := by grind only [! canonical_checkSpan, ! canonical_srcAddr]
        split
        · grind only [! canonical_checkDsts, canonical_failAt]
        · next s4 fab2 hd =>
          have h4 : Canonical s4 := by grind only [! canonical_checkDsts]
          split
          · exact h4
          · split
            · exact h4
            · grind only [! canonical_readRemote, canonical_modSlot, canonical_enterXfer]

theorem canonical_checkXfer {s : State} (h : Canonical s) (k : Nat) (sl : Slot) (page mcast : Bool) (a : Option W64) (outs : List W64)
    (n m : Nat) : Canonical (checkXfer s k sl page mcast a outs n m).1 := by
  unfold checkXfer
  grind only [! canonical_checkSpan, ! canonical_srcAddr, ! canonical_checkDsts]

theorem canonical_issuePlain {s : State} (h : Canonical s) (k : Nat) (sl : Slot) (d : StrmDesc) (t : TDesc) (r : ElemRec)
    (src : Option W64) (page : Bool) (dst : List W64) : Canonical (issuePlain s k sl d t r src page dst).1 := by
  unfold issuePlain
  grind only [! canonical_checkXfer, canonical_failAt, canonical_modSlot, ! canonical_mergeMore, ! canonical_readRemote,
      canonical_enterXfer]

theorem canonical_issueElem {s : State} (h : Canonical s) (k : Nat) (sl : Slot) (d : StrmDesc) (t : TDesc) : Canonical
    (issueElem s k sl d t).1 := by
  unfold issueElem
  grind only [→ canonical_claimFlume, ! canonical_acquire, ! canonical_elemSrc, canonical_failAt, ! canonical_issueDecode,
      ! canonical_issuePlain]

theorem canonical_issueNext {s : State} (h : Canonical s) (k : Nat) : Canonical (issueNext s k).1 := by
  unfold issueNext
  grind only [! canonical_curTDesc, canonical_failAt, ! canonical_issueElem]

theorem canonical_markServed {s : State} (h : Canonical s) (k : Nat) : Canonical (markServed s k) := by
  unfold markServed
  grind only [canonical_modMrc]

theorem canonical_gather (xs : List (Nat × Nat)) {s : State} (h : Canonical s) (k : Nat) (sl : Slot) (page : Bool) : Canonical
    (gather s k sl page xs).1 := by
  induction xs generalizing s k sl page with
  | nil => exact h
  | cons x xs ih =>
    unfold gather
    grind only [! canonical_srcAddr, canonical_touch]

theorem canonical_xferWords {s : State} (h : Canonical s) (k : Nat) (sl : Slot) (x : Xfer) : Canonical (xferWords s k sl x).1 := by
  unfold xferWords
  grind only [! canonical_gather]

theorem canonical_hostPoison {s : State} (h : Canonical s) (k : Nat) (a : Nat) : Canonical (hostPoison s k a) := by
  unfold hostPoison
  grind only [canonical_postEvent, canonical_modSlot]

theorem canonical_storeWords (xs : List Word288) {s : State} (h : Canonical s) (k : Nat) (pl : Place) (n o : Nat) : Canonical
    (storeWords s k pl n o xs).1 := by
  induction xs generalizing s k pl n o with
  | nil => exact h
  | cons x xs ih =>
    unfold storeWords
    grind only [! canonical_writeMask, ! canonical_arriveWord, canonical_hostPoison]

theorem canonical_storeSpan (xs : List (Nat × Nat)) {s : State} (h : Canonical s) (k xid : Nat) (sl : Slot) (oclass : Nat)
    (ws : List Word288) : Canonical (storeSpan s k xid sl oclass ws xs).1 := by
  induction xs generalizing s k xid sl oclass ws with
  | nil => exact h
  | cons x xs ih =>
    unfold storeSpan
    grind only [! canonical_strmAddr, ! canonical_storeWords, canonical_sendReq]

theorem canonical_storeAll (xs : List W64) {s : State} (h : Canonical s) (k xid : Nat) (sl : Slot) (oclass n : Nat)
    (ws : List Word288) : Canonical (storeAll s k xid sl oclass n ws xs).1 := by
  induction xs generalizing s k xid sl oclass n ws with
  | nil => exact h
  | cons x xs ih =>
    unfold storeAll
    grind only [! canonical_storeSpan]

theorem canonical_retireElems (n : Nat) {s : State} (h : Canonical s) (k : Nat) : Canonical (retireElems s k n) := by
  induction n generalizing s k with
  | zero => exact h
  | succ n ih =>
    unfold retireElems
    grind only [canonical_foldl, canonical_modRing, canonical_modEngine, canonical_modSlot, Canonical]

theorem canonical_leaveXfer {s : State} (h : Canonical s) (k : Nat) (x : Xfer) : Canonical (leaveXfer s k x) := by
  unfold leaveXfer
  grind only [canonical_modSlot, canonical_modLane]

theorem canonical_ackXfer {s : State} (h : Canonical s) (k : Nat) (x : Xfer) : Canonical (ackXfer s k x) := by
  unfold ackXfer
  grind only [canonical_retireElems, canonical_leaveXfer, canonical_progress]

theorem canonical_failXfer {s : State} (h : Canonical s) (k : Nat) (x : Xfer) (f : Flt) (a : Nat) : Canonical (failXfer s k x f a) := by
  unfold failXfer
  grind only [canonical_failAt, canonical_leaveXfer]

theorem canonical_flumeWord {s : State} (h : Canonical s) (e : Nat) (elem o : Nat) (d : BitVec 256) (good : Bool) : Canonical
    (flumeWord s e elem o d good) := by
  unfold flumeWord
  grind only [canonical_modEngine]

theorem canonical_fillFlume (xs : List (Nat × Nat)) {s : State} (h : Canonical s) (k : Nat) (sl : Slot) (e : Nat) (x : Xfer)
    (o : Nat) : Canonical (fillFlume s k sl e x o xs).1 := by
  induction xs generalizing s k sl e x o with
  | nil => exact h
  | cons x xs ih =>
    unfold fillFlume
    grind only [! canonical_srcAddr, ! canonical_readRaw, canonical_foldl, canonical_flumeWord]

theorem canonical_passDown {s : State} (h : Canonical s) (k : Nat) : Canonical (passDown s k) := by
  unfold passDown
  grind only [canonical_modMrc]

theorem canonical_freeSlot {s : State} (h : Canonical s) (k : Nat) : Canonical (freeSlot s k) := by
  unfold freeSlot
  grind only [canonical_dropRefs, canonical_detachRings, canonical_foldl, canonical_leaveXfer, canonical_disown, canonical_modMrc,
      canonical_modSlot]

theorem canonical_passArrival {s : State} (h : Canonical s) (k : Nat) (sl : Slot) (n : Nat) : Canonical (passArrival s k sl n) := by
  unfold passArrival
  grind only [canonical_faultRun, canonical_serviceFault, ! canonical_sluiceArrive, canonical_modTile]

theorem canonical_writeNotice {s : State} (h : Canonical s) (die : Nat) : Canonical (writeNotice s die) := by
  unfold writeNotice
  grind only [canonical_pushRecord, canonical_modSlot, canonical_modMrc]

theorem canonical_haltSlot {s : State} (h : Canonical s) (k : Nat) (p : Pos) (f : Flt) (a : W64) : Canonical (haltSlot s k p f a) := by
  unfold haltSlot
  grind only [canonical_modSlot, canonical_writeNotice, canonical_modMrc]

theorem canonical_wdogFault {s : State} (h : Canonical s) (k : Nat) : Canonical (wdogFault s k) := by
  unfold wdogFault
  grind only [canonical_faultRun]

theorem canonical_noteWait {s : State} (h : Canonical s) (k : Nat) : Canonical (noteWait s k) := by
  unfold noteWait
  grind only [canonical_modSlot]

theorem canonical_wdogSlot {s : State} (h : Canonical s) (k : Nat) : Canonical (wdogSlot s k) := by
  unfold wdogSlot
  grind only [canonical_wdogFault, canonical_haltSlot, canonical_modSlot]

/-- A fold with a state and a value of which each step keeps the form. -/
theorem canonical_foldl_fst {α β : Type} (f : State × β → α → State × β) (xs : List α) (x : State × β)
    (hf : ∀ u a, Canonical u.1 → Canonical (f u a).1) (h : Canonical x.1) : Canonical (xs.foldl f x).1 := by
  induction xs generalizing x with
  | nil => exact h
  | cons a xs ih => exact ih _ (hf x a h)

theorem canonical_laneWords {s : State} (h : Canonical s) (k : Nat) (sl : Slot) (x : Xfer) : Canonical (laneWords s k sl x).1 := by
  unfold laneWords
  split
  · exact h
  · split
    · exact h
    · refine canonical_foldl_fst _ _ _ (fun u p hu => ?_) h
      grind only [! canonical_srcAddr, ! canonical_readRaw]

theorem canonical_servedXfer {s : State} (h : Canonical s) (k xid : Nat) (ws : List Word288) (n : Nat) : Canonical
    (servedXfer s k xid ws n) := by
  unfold servedXfer
  grind only [canonical_modSlot]

theorem canonical_freeBytes {s : State} (h : Canonical s) (n : Nat) : Canonical (freeBytes s n).1 := by
  unfold freeBytes
  grind only [Canonical]

theorem canonical_reportCause {s : State} (h : Canonical s) (k : Nat) (c : Cause3) (place : W64) : Canonical (reportCause s k c place) := by
  unfold reportCause
  grind only [canonical_postEvent, canonical_modSlot]

theorem canonical_countDec {s : State} (h : Canonical s) (die : Nat) (coded : Bool) (bad : Option Nat) (nread nout : Nat) : Canonical
    (countDec s die coded bad nread nout) := by
  unfold countDec
  grind only [canonical_modGrs]

/-! ## Machine/StrmIsa -/

theorem canonical_passIssue {s : State} (h : Canonical s) (k : Nat) : Canonical (passIssue s k).1 := by
  unfold passIssue
  grind only [canonical_modMrc]

theorem canonical_startStrm {s : State} (h : Canonical s) (k ctx : Nat) (run tile svc : Option Nat) (seqno : W32) (d : StrmDesc)
    (refs : List GRef) (halt : Bool) : Canonical (startStrm s k ctx run tile svc seqno d refs halt) := by
  unfold startStrm
  grind only [canonical_modSlot]

theorem canonical_armTile {s : State} (h : Canonical s) (c : Core) (l : Nat) (r : Run) (k : Nat) (bs : List Byte) (good : Bool)
    : Canonical (issState (armTile s c l r k bs good)) := by
  unfold armTile
  grind only [issState, ! canonical_takeIseq, canonical_takeRefs, canonical_attachRings, ! canonical_passIssue, canonical_modTile]

theorem canonical_dropDesc {s : State} (h : Canonical s) (c : Core) : Canonical (dropDesc s c) := by
  unfold dropDesc
  grind only [canonical_modSeqr]

theorem canonical_armTileAt {s : State} (h : Canonical s) (c : Core) (l : Nat) (r : Run) (k : Nat) (ea : W64) : Canonical (issState
    (armTileAt s c l r k ea)) := by
  unfold armTileAt
  grind only [issState, ! canonical_readBytes, canonical_armTile, canonical_dropDesc, ! canonical_globalAddr, canonical_sendReq]

theorem canonical_armSvc {s : State} (h : Canonical s) (c : Core) (m k : Nat) (ea : W64) : Canonical (issState (armSvc s c m k ea)) := by
  unfold armSvc
  grind only [issState, canonical_startStrm, ! canonical_passIssue, canonical_takeRefs, canonical_attachRings]

theorem canonical_rearmSlot {s : State} (h : Canonical s) (k : Nat) (data index : Option W64) (halt : Bool) : Canonical
    (rearmSlot s k data index halt) := by
  unfold rearmSlot
  grind only [canonical_dropRefs, canonical_takeRefs, canonical_modSlot]

theorem canonical_noteHalt {s : State} (h : Canonical s) (c : Core) (k n : Nat) : Canonical (noteHalt s c k n) := by
  unfold noteHalt
  grind only [canonical_foldl, canonical_modTile]

theorem canonical_haltStrm {s : State} (h : Canonical s) (c : Core) (k : Nat) : Canonical (haltStrm s c k) := by
  unfold haltStrm
  grind only [canonical_noteHalt, canonical_modSlot]

theorem canonical_startHop {s : State} (h : Canonical s) (l : Nat) : Canonical (startHop s l) := by
  unfold startHop
  grind only [canonical_modTile]

theorem canonical_startStrmQ {s : State} (h : Canonical s) (l : Nat) : Canonical (startStrmQ s l) := by
  unfold startStrmQ
  grind only [canonical_modTile, canonical_startStrm, canonical_rearmSlot, canonical_modRing]

/-! ## Machine/Attention -/

theorem canonical_startHeads {s : State} (h : Canonical s) (r : Run) (op : AttnOp) : Canonical (startHeads s r op).1 := by
  unfold startHeads
  grind only [! canonical_readVals]

theorem canonical_failAttn {s : State} (h : Canonical s) (e : Nat) (r : Run) (op : AttnOp) (f : Flt) (p : Option Nat) : Canonical
    (failAttn s e r op f p) := by
  unfold failAttn
  grind only [canonical_modTile, canonical_faultRun]

theorem canonical_engWrite (n : Nat) {k : KvSt} (h : Canonical k.s) (ctx e : Nat) (a : Nat) (bs : List Byte) : Canonical
    (engWrite ctx e k a bs n).s := by
  induction n generalizing k ctx e a bs with
  | zero => exact h
  | succ n ih =>
    unfold engWrite
    grind only [! canonical_ctxAddr, canonical_writeWord, ! canonical_writeSub, canonical_sendReq]

theorem canonical_engWord {s : State} (h : Canonical s) (ctx e a : Nat) : Canonical (engWord s ctx e a).1 := by
  unfold engWord
  grind only [! canonical_ctxAddr, ! canonical_readWord, canonical_modEngine, canonical_sendReq]

theorem canonical_engWords (n : Nat) {s : State} (h : Canonical s) (ctx e a : Nat) : Canonical (engWords s ctx e a n).1 := by
  induction n generalizing s ctx e a with
  | zero => exact h
  | succ n ih =>
    unfold engWords
    repeat' split
    all_goals grind only [! canonical_engWord]

theorem canonical_mergeParts (n : Nat) {s : State} (hs : Canonical s) (ctx e : Nat) (d : AttnDesc) (i k : Nat) (h : Head)
    (some_ : Bool) : Canonical (mergeParts s ctx e d i k h some_ n).1 := by
  induction n generalizing s ctx e d i k h some_ with
  | zero => exact hs
  | succ n ih =>
    unfold mergeParts
    grind only [! canonical_engWords]

theorem canonical_mergeHeads (xs : List Head) {s : State} (h : Canonical s) (ctx e : Nat) (d : AttnDesc) (i : Nat) : Canonical
    (mergeHeads s ctx e d i xs).1 := by
  induction xs generalizing s ctx e d i with
  | nil => exact h
  | cons x xs ih =>
    unfold mergeHeads
    grind only [! canonical_mergeParts]

theorem canonical_attnOutput {s : State} (h : Canonical s) (e : Nat) (r : Run) (op : AttnOp) (hs : List Head) : Canonical
    (attnOutput s e r op hs).1 := by
  unfold attnOutput
  grind only [! canonical_writeOutputs, canonical_postEvent]

theorem canonical_attnParts {s : State} (h : Canonical s) (e : Nat) (r : Run) (op : AttnOp) (hs : List Head) :
    Canonical (attnParts s e r op hs).s :=
  canonical_foldl_kvSt _ _ _ (fun _ _ hu => canonical_engWrite _ hu ..) h

theorem canonical_endAttn {s : State} (h : Canonical s) (e : Nat) (r : Run) (op : AttnOp) : Canonical (endAttn s e r op) := by
  unfold endAttn
  grind only [canonical_modEngine, canonical_faultRun, ! canonical_sluiceArrive, canonical_modTile]

theorem canonical_writeAttn {s : State} (h : Canonical s) (e : Nat) (r : Run) (a : AttnRun) (hs : List Head) : Canonical
    (writeAttn s e r a hs) := by
  unfold writeAttn
  grind only [! canonical_attnParts, canonical_failAttn, canonical_endAttn, canonical_modEngine, ! canonical_attnOutput]

theorem canonical_engineAnswer {s : State} (h : Canonical s) (e : Nat) (f : Flt) (word : Bool) : Canonical (engineAnswer s e f word) := by
  unfold engineAnswer
  grind only [canonical_faultRun, canonical_failAttn, canonical_modEngine]

/-! ## Machine/MemCmds -/

theorem canonical_scrubWord {s : State} (h : Canonical s) (a : Nat) : Canonical (scrubWord s a) := by
  unfold scrubWord
  grind only [canonical_countCe, canonical_setWord, canonical_countUe]

theorem canonical_scrubWords (n : Nat) {s : State} (h : Canonical s) (a : Nat) : Canonical (scrubWords s a n) := by
  induction n generalizing s a with
  | zero => exact h
  | succ n ih =>
    unfold scrubWords
    grind only [canonical_scrubWord]

theorem canonical_copyWord {s : State} (h : Canonical s) (a : Nat) : Canonical (copyWord s a) := by
  unfold copyWord
  grind only [canonical_setWord, canonical_countUe, canonical_setChk]

theorem canonical_copyPiece {s : State} (h : Canonical s) (stk : Nat) : Canonical (copyPiece s stk) := by
  unfold copyPiece
  grind only [canonical_copyWord, canonical_modStack]

theorem canonical_copyPieces {s : State} (h : Canonical s) : Canonical (copyPieces s) := by
  unfold copyPieces
  grind only [canonical_foldl, canonical_copyPiece]

theorem canonical_startXlatInval {s : State} (h : Canonical s) (v : Nat) : Canonical (startXlatInval s v) := by
  unfold startXlatInval
  grind only [Canonical]

theorem canonical_endXlatInval {s : State} (h : Canonical s) : Canonical (endXlatInval s) := by
  unfold endXlatInval
  grind only [Canonical]

theorem canonical_startTblInval {s : State} (h : Canonical s) (v : Nat) : Canonical (startTblInval s v) := by
  unfold startTblInval
  grind only [Canonical]

theorem canonical_endTblInval {s : State} (h : Canonical s) : Canonical (endTblInval s) := by
  unfold endTblInval
  grind only [Canonical]

/-! ## Machine/Governor -/

theorem canonical_regionsOf {s : State} (h : Canonical s) (rr : RunRec) : Canonical (regionsOf s rr).1 := by
  unfold regionsOf
  grind only [! canonical_readBytes]

theorem canonical_checkRun {s : State} (h : Canonical s) (rr : RunRec) : Canonical (checkRun s rr).1 := by
  unfold checkRun
  grind only [! canonical_regionsOf]

theorem canonical_writeCpl {s : State} (h : Canonical s) (d rid : Nat) : Canonical (writeCpl s d rid) := by
  unfold writeCpl
  grind only [canonical_pushRecord, canonical_modGov]

theorem canonical_endUnstarted {s : State} (h : Canonical s) (d rid : Nat) (f : Run → Run) : Canonical (endUnstarted s d rid f) := by
  unfold endUnstarted
  grind only [canonical_writeCpl, canonical_modRun]

theorem canonical_leaveTile {s : State} (h : Canonical s) (l : Nat) : Canonical (leaveTile s l) := by
  unfold leaveTile
  grind only [canonical_auditDevice, canonical_modLTile]

theorem canonical_clearTile {s : State} (h : Canonical s) (l : Nat) : Canonical (clearTile s l) := by
  unfold clearTile
  grind only [canonical_leaveTile, canonical_setTileGcap, canonical_dropRefs, canonical_modTile]

theorem canonical_detachAgents {s : State} (h : Canonical s) (dead : Agent → Bool) : Canonical (detachAgents s dead) := by
  unfold detachAgents
  grind only [canonical_foldl, canonical_modRing]

theorem canonical_passReset {s : State} (h : Canonical s) (k : Nat) : Canonical (passReset s k) := by
  unfold passReset
  grind only [canonical_modMrc]

theorem canonical_tearDown {s : State} (h : Canonical s) (d : Nat) (r : Run) : Canonical (tearDown s d r) := by
  unfold tearDown
  grind only [canonical_foldl, canonical_passReset, canonical_freeSlot, canonical_disown, canonical_detachAgents, canonical_modEngine,
      canonical_modLane, canonical_clearTile, canonical_writeCpl, canonical_modRun]

theorem canonical_cancelRun {s : State} (h : Canonical s) (d rid : Nat) : Canonical (cancelRun s d rid) := by
  unfold cancelRun
  grind only [canonical_endUnstarted, canonical_stopRun, canonical_modRun]

theorem canonical_recordAt {s : State} (h : Canonical s) (q : Ring) (i : Nat) : Canonical (recordAt s q i).1 := by
  unfold recordAt
  grind only [! canonical_ringEntry]

theorem canonical_takeRecord {s : State} (h : Canonical s) (d : Nat) : Canonical (takeRecord s d) := by
  unfold takeRecord
  grind only [! canonical_recordAt, canonical_popHead, canonical_modGov, Canonical]

theorem canonical_startTile {s : State} (h : Canonical s) (r : Run) (rs : List Region) (l : Nat) : Canonical (startTile s r rs l) := by
  unfold startTile
  grind only [canonical_modTile, canonical_setTileGcap, canonical_touch, canonical_modLTile]

theorem canonical_idleTick {s : State} (h : Canonical s) : Canonical (idleTick s) := by
  unfold idleTick
  grind only [canonical_foldl, canonical_modTile, canonical_modMrc, canonical_copyPieces, Canonical]

theorem canonical_moveBlock {s : State} (h : Canonical s) (p q : Nat) (failed : Bool) (b tag : Nat) :
    Canonical (moveBlock s p q failed b tag) := by
  have h0 := canonical_touchRange h q (4096 * b) 4096
  have h1 : Canonical (if failed then (touchRange s q (4096 * b) 4096).zero (millKey q (4096 * b)) 4096
      else (touchRange (touchRange s q (4096 * b) 4096) p (4096 * b) 4096).setWords (millKey q (4096 * b))
        (s.words (millKey p (4096 * b)) 128)) := by
    split
    · exact canonical_zero h0 ..
    · exact canonical_setWords _ _ (canonical_touchRange h0 ..)
  exact ⟨h1.1, h1.2.1, twf_tset 0 _ _ tag h1.2.2⟩

theorem canonical_postRetired {s : State} (h : Canonical s) (p l : Nat) (failed : Bool) : Canonical (postRetired s p l failed) := by
  unfold postRetired
  grind only [canonical_postEvents]

theorem canonical_takeUntil (n : Nat) {s : State} (h : Canonical s) (d seqno : Nat) : Canonical (takeUntil s d seqno n) := by
  induction n generalizing s d seqno with
  | zero => exact h
  | succ n ih =>
    unfold takeUntil
    grind only [canonical_takeRecord]

theorem canonical_cancelSeqno {s : State} (h : Canonical s) (d seqno : Nat) : Canonical (cancelSeqno s d seqno) := by
  unfold cancelSeqno
  grind only [canonical_takeUntil, canonical_cancelRun]

theorem canonical_freeBlocks {s : State} (h : Canonical s) (l b n : Nat) : Canonical (freeBlocks s l b n) := by
  unfold freeBlocks
  grind only [canonical_setOwners, canonical_touchRange, canonical_zero]

theorem canonical_resumeSlot {s : State} (h : Canonical s) (k : Nat) : Canonical (resumeSlot s k) := by
  unfold resumeSlot
  grind only [canonical_modSlot, canonical_cancelRun, canonical_faultRun, canonical_passReset, canonical_freeSlot]

/-! ## Machine/Rings -/

theorem canonical_descErr {s : State} (h : Canonical s) (f : Nat) : Canonical (descErr s f) := by
  unfold descErr
  grind only [canonical_modFn]

theorem canonical_ringWrite {s : State} (h : Canonical s) (f r off n v : Nat) (fw : Bool) : Canonical (ringWrite s f r off n v fw) := by
  unfold ringWrite
  grind only [canonical_modRing, canonical_descErr]

theorem canonical_ringError {s : State} (h : Canonical s) (r k : Nat) (v : W32) : Canonical (ringError s r k v) := by
  unfold ringError
  grind only [canonical_postEvent, canonical_modRing]

theorem canonical_armRing {s : State} (h : Canonical s) (r : Nat) : Canonical (armRing s r) := by
  unfold armRing
  grind only [canonical_notify, canonical_modRing]

theorem canonical_doorbell {s : State} (h : Canonical s) (f k : Nat) (arm : Bool) (v : W32) : Canonical (doorbell s f k arm v) := by
  unfold doorbell
  grind only [canonical_ringError, canonical_modRing, canonical_armRing]

theorem canonical_hostWrites {s : State} (h : Canonical s) (ws : List (Nat × Byte)) : Canonical (hostWrites s ws) := by
  unfold hostWrites
  grind only [canonical_foldl, canonical_setBytes]

theorem canonical_writeFnRings {s : State} (h : Canonical s) (f base count : Nat) : Canonical (writeFnRings s f base count) := by
  unfold writeFnRings
  grind only [canonical_descErr, canonical_modFn]

theorem canonical_writeFnVec {s : State} (h : Canonical s) (f base count : Nat) : Canonical (writeFnVec s f base count) := by
  unfold writeFnVec
  grind only [canonical_descErr, canonical_modFn]

theorem canonical_bar4Read {s : State} (h : Canonical s) (pl : Place) (n : Nat) : Canonical (bar4Read s pl n).1 := by
  unfold bar4Read
  grind only [! canonical_readBytes, ! canonical_takeFree]

theorem canonical_setRdata {s : State} (h : Canonical s) (v : Option W64) : Canonical (setRdata s v) := by
  unfold setRdata
  grind only [Canonical]

/-! ## Machine/Registers -/

theorem canonical_readClears {s : State} (h : Canonical s) (fn a : Nat) : Canonical (readClears s fn a) := by
  unfold readClears
  grind only [canonical_modFn, canonical_modGov, canonical_modMrc, canonical_modGrs, canonical_modStack, canonical_modTile,
      canonical_modMpd, canonical_modPort, Canonical]

theorem canonical_writeEnReg {s : State} (h : Canonical s) (u : EnUnit) (v : Nat) : Canonical (writeEnReg s u v) := by
  unfold writeEnReg
  grind only [canonical_requestUnit, canonical_modUnit]

theorem canonical_writeLevelOp {s : State} (h : Canonical s) (v : Nat) : Canonical (writeLevelOp s v) := by
  unfold writeLevelOp
  grind only [canonical_applyLevel, Canonical]

theorem canonical_writeHost {s : State} (h : Canonical s) (b : Blk) (fn v : Nat) : Canonical (writeHost s b fn v) := by
  unfold writeHost
  grind only [canonical_modFn, canonical_descErr, canonical_modGov, canonical_writeEnReg, canonical_modMrc, canonical_modMpd,
      canonical_wakeBanks, canonical_writeLevelOp, Canonical]

theorem canonical_writeFw {s : State} (h : Canonical s) (b : Blk) (v : Nat) : Canonical (writeFw s b v) := by
  unfold writeFw
  grind only [canonical_modGov, canonical_modMrc, canonical_modSlot, canonical_modStack, canonical_startTblInval, canonical_writeFanGroup,
      Canonical]

theorem canonical_writeWide {s : State} (h : Canonical s) (b : Blk) (fw : Bool) (v : Nat) : Canonical (writeWide s b fw v) := by
  unfold writeWide
  grind only [canonical_writeFnRings, canonical_writeFnVec, canonical_startXlatInval, Canonical]

theorem canonical_regWrite {s : State} (h : Canonical s) (fw : Bool) (fn a size v : Nat) : Canonical (regWrite s fw fn a size v) := by
  unfold regWrite
  grind only [canonical_ringWrite, canonical_writeWide, canonical_writeHost, canonical_writeFw]

theorem canonical_regRead {s : State} (h : Canonical s) (fn a size : Nat) : Canonical (regRead s fn a size).1 := by
  unfold regRead
  grind only [canonical_readClears]

/-! ## Machine/LoadStore -/

theorem canonical_loaded {s : State} (h : Canonical s) (c : Core) (sd : BitVec 5) (sz : BitVec 2) (sx : Bool) (v : Nat) : Canonical
    (loaded s c sd sz sx v) := by
  unfold loaded
  grind only [canonical_modSeqr]

theorem canonical_modAtoms {s : State} (h : Canonical s) (c : Core) (f : List AtomOp → List AtomOp) : Canonical (modAtoms s c f) := by
  unfold modAtoms
  grind only [canonical_modTile, canonical_modMiller]

theorem canonical_forget {s : State} (h : Canonical s) (c : Core) (sd : BitVec 5) : Canonical (forget s c sd) := by
  unfold forget
  grind only [canonical_modAtoms, Canonical]

theorem canonical_await {s : State} (h : Canonical s) (c : Core) (sd : BitVec 5) (fabric : Bool) : Canonical (await s c sd fabric) := by
  unfold await
  grind only [canonical_forget, canonical_modSeqr]

theorem canonical_deliverReg {s : State} (h : Canonical s) (c : Core) (sd : Nat) (v : W64) : Canonical (deliverReg s c sd v) := by
  unfold deliverReg
  grind only [canonical_modSeqr]

theorem canonical_loadWord {s : State} (h : Canonical s) (c : Core) (pl : Place) (sd : BitVec 5) (sz : BitVec 2) (sx : Bool)
    (a : Nat) : Canonical (issState (loadWord s c pl sd sz sx a)) := by
  unfold loadWord
  grind only [issState, ! canonical_readSub, canonical_loaded]

theorem canonical_loadRemote {s : State} (h : Canonical s) (c : Core) (dev group oclass off : Nat) (sd : BitVec 5) (sz : BitVec 2)
    (sx : Bool) : Canonical (issState (loadRemote s c dev group oclass off sd sz sx)) := by
  unfold loadRemote
  grind only [issState, canonical_sendReq, canonical_await]

theorem canonical_ldTile {s : State} (h : Canonical s) (c : Core) (l : Nat) (r : Run) (sd : BitVec 5) (sz : BitVec 2) (sx : Bool)
    (ea : W64) : Canonical (issState (ldTile s c l r sd sz sx ea)) := by
  unfold ldTile
  grind only [issState, canonical_loadWord, ! canonical_globalAddr, canonical_loadRemote]

theorem canonical_queueAtom {s : State} (h : Canonical s) (l : Nat) (o : AtomOp) : Canonical (issState (queueAtom s l o)) := by
  unfold queueAtom
  grind only [issState, ! canonical_takeIseq, canonical_modTile]

theorem canonical_stTile {s : State} (h : Canonical s) (c : Core) (l : Nat) (r : Run) (v : W64) (sz : BitVec 2) (ea : W64) : Canonical
    (issState (stTile s c l r v sz ea)) := by
  unfold stTile
  grind only [issState, canonical_queueAtom, ! canonical_writeSub, canonical_machineFault]

theorem canonical_fwRead {s : State} (h : Canonical s) (o n : Nat) : Canonical (fwRead s o n).1 := by
  unfold fwRead
  grind only [! canonical_regRead]

theorem canonical_fwWrite {s : State} (h : Canonical s) (o n v : Nat) : Canonical (fwWrite s o n v) := by
  unfold fwWrite
  grind only [canonical_regWrite, canonical_ringWrite]

theorem canonical_svcRead {s : State} (h : Canonical s) (m a n : Nat) : Canonical (svcRead s m a n).1 := by
  unfold svcRead
  grind only [! canonical_fwRead]

theorem canonical_svcWrite {s : State} (h : Canonical s) (m a n v : Nat) : Canonical (svcWrite s m a n v) := by
  unfold svcWrite
  grind only [canonical_fwWrite, canonical_setNum]

theorem canonical_ldSvc {s : State} (h : Canonical s) (c : Core) (m : Nat) (sd : BitVec 5) (sz : BitVec 2) (sx : Bool)
    (ea : W64) : Canonical (issState (ldSvc s c m sd sz sx ea)) := by
  unfold ldSvc
  grind only [issState, ! canonical_svcRead, canonical_loaded]

theorem canonical_stSvc {s : State} (h : Canonical s) (m : Nat) (v : W64) (sz : BitVec 2) (ea : W64) : Canonical (issState
    (stSvc s m v sz ea)) := by
  unfold stSvc
  grind only [issState, canonical_svcWrite]

theorem canonical_svcWhere {s : State} (h : Canonical s) (x : AtomOp) : Canonical (svcWhere s x).1 := by
  unfold svcWhere
  grind only [! canonical_ctxAddr]

theorem canonical_queueSvc {s : State} (h : Canonical s) (m : Nat) (o : AtomOp) : Canonical (issState (queueSvc s m o)) := by
  unfold queueSvc
  grind only [issState, canonical_modMiller]

/-! ## Machine/Atomics -/

theorem canonical_holdSwap {i : Iss} (h : Canonical (issState i)) : Canonical (issState (holdSwap i)) := by
  cases i <;> exact h

theorem canonical_markSent {s : State} (h : Canonical s) (c : Core) (n : Nat) : Canonical (markSent s c n) := by
  unfold markSent
  grind only [canonical_modAtoms]

theorem canonical_dropAtom {s : State} (h : Canonical s) (c : Core) (n : Nat) : Canonical (dropAtom s c n) := by
  unfold dropAtom
  grind only [canonical_modAtoms]

theorem canonical_atomFail {s : State} (h : Canonical s) (c : Core) (a : AtomOp) (f : Flt) (machine counted : Bool) : Canonical
    (atomFail s c a f machine counted) := by
  unfold atomFail
  grind only [canonical_dropAtom, canonical_machineFault, canonical_faultTile, canonical_serviceFault]

theorem canonical_atomOld {s : State} (h : Canonical s) (c : Core) (a : AtomOp) (v : W64) : Canonical (atomOld s c a v) := by
  unfold atomOld
  grind only [canonical_deliverReg]

theorem canonical_atomHere {s : State} (h : Canonical s) (c : Core) (a : AtomOp) (pl : Place) : Canonical (atomHere s c a pl) := by
  unfold atomHere
  grind only [! canonical_writeSub, canonical_dropAtom, canonical_atomFail, ! canonical_atomSwap256, canonical_writeWord,
      ! canonical_atomApply, canonical_atomOld]

theorem canonical_atomSend {s : State} (h : Canonical s) (c : Core) (a : AtomOp) (dev group off : Nat) : Canonical
    (atomSend s c a dev group off) := by
  unfold atomSend
  grind only [canonical_sendReq, canonical_markSent]

theorem canonical_atomWhere {s : State} (h : Canonical s) (c : Core) (a : AtomOp) : Canonical (atomWhere s c a).1 := by
  unfold atomWhere
  grind only [! canonical_globalAddr, ! canonical_svcWhere]

theorem canonical_atomArrive {s : State} (h : Canonical s) (c : Core) (a : AtomOp) : Canonical (atomArrive s c a) := by
  unfold atomArrive
  grind only [canonical_atomFail, ! canonical_sluiceArrive, canonical_dropAtom, ! canonical_resolveGlobal, canonical_atomSend]

theorem canonical_atomReset {s : State} (h : Canonical s) (c : Core) (a : AtomOp) : Canonical (atomReset s c a) := by
  unfold atomReset
  grind only [canonical_atomFail, ! canonical_sluiceAccess, canonical_dropAtom, Canonical]

theorem canonical_atomMake {s : State} (h : Canonical s) (c : Core) (a : AtomOp) : Canonical (atomMake s c a) := by
  unfold atomMake
  grind only [canonical_atomArrive, canonical_atomReset, ! canonical_atomWhere, canonical_atomFail, canonical_atomHere, canonical_atomSend]

/-! ## Machine/Sync -/

theorem canonical_withRing {s : State} (h : Canonical s) (c : Core) (sa : BitVec 5) (imm : BitVec 32) (k : Nat → Iss)
    (hk : ∀ r, Canonical (issState (k r))) : Canonical (issState (withRing s c sa imm k)) := by
  unfold withRing
  grind only [issState]

theorem canonical_ringRoom {s : State} (h : Canonical s) (c : Core) (k : Iss) (hk : Canonical (issState k)) :
    Canonical (issState (ringRoom s c k)) := by
  unfold ringRoom
  grind only [issState]

theorem canonical_modHeld {s : State} (h : Canonical s) (c : Core) (r : Nat) (producer : Bool) (f : List Nat → List Nat) : Canonical
    (modHeld s c r producer f) := by
  unfold modHeld
  grind only [canonical_modSeqr]

theorem canonical_attach {s : State} (h : Canonical s) (c : Core) (r : Nat) (producer : Bool) : Canonical (issState
    (attach s c r producer)) := by
  unfold attach
  grind only [issState, canonical_ringRoom, canonical_modRing, canonical_modSeqr]

theorem canonical_claimSlot {s : State} (h : Canonical s) (c : Core) (r : Nat) (sd : BitVec 5) : Canonical (claimSlot s c r sd) := by
  unfold claimSlot
  grind only [canonical_modHeld, canonical_modRing, canonical_modSeqr]

end Sys2Proof.Proofs
end

section
/-! Every function of the model that returns a state keeps the canonical forms of storage (part 4). -/

namespace Sys2Proof.Proofs
open Sys2Proof Sys2Proof.Machine

/-! ## Machine/Sync -/

theorem canonical_takeSlot {s : State} (h : Canonical s) (c : Core) (r : Nat) (sd : BitVec 5) : Canonical (takeSlot s c r sd) := by
  unfold takeSlot
  grind only [canonical_modHeld, canonical_modRing, canonical_modSeqr]

theorem canonical_arriveAt {s : State} (h : Canonical s) (c : Core) (o : AtomOp) : Canonical (issState (arriveAt s c o)) := by
  unfold arriveAt
  grind only [issState, canonical_queueSvc, canonical_queueAtom]

theorem canonical_holdReset {i : Iss} (h : Canonical (issState i)) : Canonical (issState (holdReset i)) := by
  cases i <;> exact h

theorem canonical_pushFrom {s : State} (h : Canonical s) (c : Core) (m r n : Nat) (pd : BitVec 3) (ea : W64) : Canonical (issState
    (pushFrom s c m r n pd ea)) := by
  unfold pushFrom
  grind only [issState, canonical_pushRecord, canonical_modSeqr]

theorem canonical_sortWords (n : Nat) {s : State} (h : Canonical s) (c : Core) (ctx base i : Nat) (have_ : List Word288)
    (acc : List Byte) : Canonical (sortWords s c ctx base i have_ acc n).1 := by
  induction n generalizing s c ctx base i have_ acc with
  | zero => exact h
  | succ n ih =>
    unfold sortWords
    grind only [! canonical_ctxAddr, ! canonical_readWord, canonical_sendReq, canonical_requestFor]

theorem canonical_sortDone {s : State} (h : Canonical s) (c : Core) (m : Nat) (sd : BitVec 5) (r : SortRec) (bs : List Byte) : Canonical
    (issState (sortDone s c m sd r bs)) := by
  unfold sortDone
  grind only [issState, canonical_setBytes, canonical_modSeqr]

theorem canonical_loadAgain {s : State} (h : Canonical s) (c : Core) : Canonical (loadAgain s c) := by
  unfold loadAgain
  grind only [canonical_foldl, canonical_sendReq, canonical_modSeqr]

/-! ## Machine/Fabric -/

theorem canonical_respond {s : State} (h : Canonical s) (k : Packet) (status : Nat) (operand : W64) (data : List Word288) : Canonical
    (respond s k status operand data) := by
  unfold respond
  grind only [Canonical]

theorem canonical_targetPlace {s : State} (h : Canonical s) (k : Packet) (perm n : Nat) : Canonical (targetPlace s k perm n).1 := by
  unfold targetPlace
  grind only [! canonical_groupCheck]

theorem canonical_refuse {s : State} (h : Canonical s) (k : Packet) : Canonical (refuse s k) := by
  unfold refuse
  grind only [canonical_respond, canonical_bumpHdr]

theorem canonical_serveRead {s : State} (h : Canonical s) (k : Packet) (n : Nat) : Canonical (serveRead s k n) := by
  unfold serveRead
  grind only [! canonical_targetPlace, canonical_refuse, canonical_respond, canonical_touch, ! canonical_groupCheck]

theorem canonical_storeEach (xs : List Word288) {s : State} (h : Canonical s) (pl : Place) : Canonical (storeEach s pl xs).1 := by
  induction xs generalizing s pl with
  | nil => exact h
  | cons x xs ih =>
    unfold storeEach
    grind only [! canonical_arriveWord]

theorem canonical_storePart {s : State} (h : Canonical s) (pl : Place) (m : Nat) (w : Word288) : Canonical (storePart s pl m w).1 := by
  unfold storePart
  grind only [! canonical_arriveWord, canonical_countUe, canonical_countCe, ! canonical_writeMask, canonical_setChk]

theorem canonical_writePlace {s : State} (h : Canonical s) (k : Packet) (perm n : Nat) : Canonical (writePlace s k perm n).1 := by
  unfold writePlace
  grind only [! canonical_targetPlace, ! canonical_groupCheck, canonical_serveRead]

theorem canonical_serveAtom {s : State} (h : Canonical s) (k : Packet) (a : AtomKind) : Canonical (serveAtom s k a) := by
  unfold serveAtom
  grind only [! canonical_targetPlace, canonical_refuse, ! canonical_atomApply, canonical_respond]

theorem canonical_addEach (xs : List Word288) {s : State} (h : Canonical s) (pl : Place) : Canonical (addEach s pl xs) := by
  induction xs generalizing s pl with
  | nil => exact h
  | cons x xs ih =>
    unfold addEach
    grind only [canonical_atomP64x4]

theorem canonical_serve {s : State} (h : Canonical s) (k : Packet) : Canonical (serve s k) := by
  unfold serve
  grind only [canonical_serveRead, ! canonical_writePlace, canonical_refuse, ! canonical_storePart, canonical_respond,
      ! canonical_storeEach, canonical_serveAtom, canonical_addEach, ! canonical_atomSwap256, ! canonical_groupCheck,
      ! canonical_sluiceArriveFrom]

theorem canonical_perform {s : State} (h : Canonical s) (k : Packet) : Canonical (perform s k) := by
  unfold perform
  grind only [canonical_serve, Canonical]

theorem canonical_receive {s : State} (h : Canonical s) (op : Nat) (k0 : Packet) : Canonical (receive s op k0) := by
  unfold receive
  dsimp only
  split
  · exact h
  · split
    · exact canonical_perform h _
    · split
      · exact canonical_respond (canonical_bumpHdr h _) ..
      · split
        · exact canonical_respond (canonical_bumpHdr h _) ..
        · exact h

theorem canonical_accessFault {s : State} (h : Canonical s) (c : Core) (pc : W64) (f : Flt) : Canonical (accessFault s c pc f) := by
  unfold accessFault
  grind only [canonical_faultTile, canonical_serviceFault]

theorem canonical_answerLoad_halt {s : State} (h : Canonical s) (o : OutReq) (c : Core) (pc : W64) (sd sz : Nat) (sx : Bool) :
    Canonical (answerLoad.halt o c pc sd sz sx s) := by
  unfold answerLoad.halt
  grind only [canonical_serviceFault, canonical_modSeqr]

theorem canonical_answerLoad {s : State} (h : Canonical s) (o : OutReq) (c : Core) (pc : W64) (sd sz : Nat) (sx : Bool) (a : Ans)
    (data : List Word288) : Canonical (answerLoad s o c pc sd sz sx a data) := by
  unfold answerLoad
  grind only [canonical_accessFault, canonical_deliverReg, canonical_answerLoad_halt]

theorem canonical_answerAtom {s : State} (h : Canonical s) (c : Core) (n : Nat) (a : Ans) (old : W64) : Canonical
    (answerAtom s c n a old) := by
  unfold answerAtom
  grind only [canonical_dropAtom, canonical_atomOld, canonical_atomFail]

theorem canonical_answerSwap {s : State} (h : Canonical s) (c : Core) (n : Nat) (a : Ans) (data : List Word288) : Canonical
    (answerSwap s c n a data) := by
  unfold answerSwap
  grind only [canonical_dropAtom, canonical_writeWord, canonical_atomFail]

theorem canonical_answerDesc {s : State} (h : Canonical s) (c : Core) (a : W64) (r : Ans) (data : List Word288) : Canonical
    (answerDesc s c a r data) := by
  unfold answerDesc
  grind only [canonical_coreFault, canonical_modSeqr]

theorem canonical_answerStrmWord {s : State} (h : Canonical s) (k word : Nat) (a : Ans) (data : List Word288) : Canonical
    (answerStrmWord s k word a data) := by
  unfold answerStrmWord
  grind only [canonical_failAt, canonical_modSlot]

theorem canonical_answerXferRead {s : State} (h : Canonical s) (k xid off : Nat) (a : Ans) (data : List Word288) : Canonical
    (answerXferRead s k xid off a data) := by
  unfold answerXferRead
  grind only [canonical_failXfer, canonical_modSlot, canonical_foldl, canonical_flumeWord]

theorem canonical_answerXferWrite {s : State} (h : Canonical s) (k xid : Nat) (a : Ans) : Canonical (answerXferWrite s k xid a) := by
  unfold answerXferWrite
  grind only [canonical_failXfer, canonical_modSlot]

theorem canonical_answerKvEntry {s : State} (h : Canonical s) (l iseq at_ : Nat) (got : List Byte) (q : List Int) (scale : Nat) (a : Ans)
    (data : List Word288) : Canonical (answerKvEntry s l iseq at_ got q scale a data) := by
  unfold answerKvEntry
  grind only [! canonical_kvFetch, canonical_closeAnswer]

theorem canonical_loadAfter {s : State} (h : Canonical s) (k : Packet) : Canonical (loadAfter s k) := by
  unfold loadAfter
  grind only [! canonical_kvWord, Canonical]

theorem canonical_answerKvWord {s : State} (h : Canonical s) (o : OutReq) (l iseq : Nat) (mask val : BitVec 256) (again : Bool) (a : Ans)
    (data : List Word288) : Canonical (answerKvWord s o l iseq mask val again a data) := by
  unfold answerKvWord
  grind only [canonical_closeAnswer, canonical_sendReq, ! canonical_kvWord, canonical_loadAfter]

theorem canonical_answerEngineWord {s : State} (h : Canonical s) (e word : Nat) (a : Ans) (data : List Word288) : Canonical
    (answerEngineWord s e word a data) := by
  unfold answerEngineWord
  grind only [canonical_engineAnswer, canonical_modEngine]

theorem canonical_copyRefused {s : State} (h : Canonical s) (q : Nat) : Canonical (copyRefused s q) := by
  unfold copyRefused
  grind only [canonical_serviceFault, canonical_modSeqEnt]

theorem canonical_answerSpill {s : State} (h : Canonical s) (q place : Nat) (a : Ans) (data : List Word288) : Canonical
    (answerSpill s q place a data) := by
  unfold answerSpill
  grind only [canonical_modSeqEnt, canonical_copyRefused]

theorem canonical_completeReq {s : State} (h : Canonical s) (o : OutReq) (status : Nat) (operand : W64) (data : List Word288) : Canonical
    (completeReq s o status operand data) := by
  unfold completeReq
  grind only [canonical_answerLoad, canonical_answerAtom, canonical_answerSwap, canonical_answerDesc, canonical_answerStrmWord,
      canonical_closeAnswer, ! canonical_kvEntry, canonical_answerKvEntry, ! canonical_kvWord, canonical_answerKvWord,
      canonical_answerXferRead, canonical_answerXferWrite, canonical_engineAnswer, canonical_answerEngineWord, canonical_serviceFault,
      canonical_answerSpill, canonical_copyRefused, Canonical]

theorem canonical_fenceRequests {s : State} (h : Canonical s) (p : Nat → Bool) : Canonical (fenceRequests s p) := by
  unfold fenceRequests
  grind only [canonical_foldl, canonical_completeReq, Canonical]

/-! ## Machine/Keepers -/

theorem canonical_modKeeper {s : State} (h : Canonical s) (f : Keeper → Keeper) : Canonical (State.modKeeper s f) := by
  unfold State.modKeeper
  grind only [Canonical]

theorem canonical_sendCtrl {s : State} (h : Canonical s) (m : CtrlMsg) : Canonical (sendCtrl s m) := by
  unfold sendCtrl
  grind only [canonical_ctrlOut, Canonical]

theorem canonical_sendAll {s : State} (h : Canonical s) (ms : List CtrlMsg) : Canonical (sendAll s ms) := by
  unfold sendAll
  grind only [canonical_foldl, canonical_sendCtrl]

theorem canonical_restartDevs {s : State} (h : Canonical s) (p : Nat → Bool) : Canonical (restartDevs s p) := by
  unfold restartDevs
  grind only [Canonical]

theorem canonical_changeMap {s : State} (h : Canonical s) (gen : W32) (map : Tab W32) : Canonical (changeMap s gen map) := by
  unfold changeMap
  grind only [canonical_restartDevs, canonical_fenceRequests, Canonical]

theorem canonical_fenceSelf {s : State} (h : Canonical s) (cause : Nat) : Canonical (fenceSelf s cause) := by
  unfold fenceSelf
  grind only [Canonical]

theorem canonical_applyMap {s : State} (h : Canonical s) (gen : W32) (map : Tab W32) (dev : Option Nat) (cause : Nat) : Canonical
    (applyMap s gen map dev cause) := by
  unfold applyMap
  grind only [canonical_changeMap, canonical_fenceSelf, Canonical]

theorem canonical_applyChange {s : State} (h : Canonical s) (gen : W32) (dev : Nat) (present : Bool) : Canonical
    (applyChange s gen dev present) := by
  unfold applyChange
  grind only [canonical_postEvent, canonical_restartDevs, canonical_fenceRequests, canonical_fenceSelf, Canonical]

theorem canonical_relayMap {s : State} (h : Canonical s) (gen : W32) (map : Tab W32) : Canonical (relayMap s gen map) := by
  unfold relayMap
  grind only [canonical_sendAll]

theorem canonical_takeMap {s : State} (h : Canonical s) (gen : W32) (map : Tab W32) (dev : Option Nat) (cause : Nat) : Canonical
    (takeMap s gen map dev cause) := by
  unfold takeMap
  grind only [canonical_applyMap, canonical_relayMap]

theorem canonical_closeHall {s : State} (h : Canonical s) : Canonical (closeHall s) := by
  unfold closeHall
  grind only [canonical_modKeeper, canonical_takeMap, canonical_sendCtrl]

theorem canonical_takeRackReport {s : State} (h : Canonical s) (leaf : BitVec 16) (slots : W32) : Canonical
    (takeRackReport s leaf slots) := by
  unfold takeRackReport
  grind only [canonical_modKeeper, canonical_closeHall]

theorem canonical_closeRack {s : State} (h : Canonical s) : Canonical (closeRack s) := by
  unfold closeRack
  grind only [canonical_modKeeper, canonical_sendCtrl, canonical_takeRackReport]

theorem canonical_takeSlotReport {s : State} (h : Canonical s) (slot : Nat) (pid : BitVec 48) (leaf : BitVec 16) : Canonical
    (takeSlotReport s slot pid leaf) := by
  unfold takeSlotReport
  grind only [canonical_closeRack, canonical_modKeeper]

theorem canonical_hallChange {s : State} (h : Canonical s) (dev : Nat) (present : Bool) : Canonical (hallChange s dev present) := by
  unfold hallChange
  grind only [canonical_applyChange, canonical_sendCtrl]

theorem canonical_clearDev {s : State} (h : Canonical s) (dev : Nat) : Canonical (clearDev s dev) := by
  unfold clearDev
  grind only [canonical_hallChange, canonical_sendCtrl]

theorem canonical_hallJoin {s : State} (h : Canonical s) (dev : Nat) : Canonical (hallJoin s dev) := by
  unfold hallJoin
  grind only [canonical_hallChange, canonical_sendCtrl]

theorem canonical_refuseJoin {s : State} (h : Canonical s) (slot cause : Nat) : Canonical (refuseJoin s slot cause) := by
  unfold refuseJoin
  grind only [canonical_sendCtrl]

theorem canonical_rackJoin {s : State} (h : Canonical s) (slot : Nat) (pid : BitVec 48) (leaf : BitVec 16) : Canonical
    (rackJoin s slot pid leaf) := by
  unfold rackJoin
  grind only [canonical_refuseJoin, canonical_clearDev, canonical_modKeeper, canonical_hallJoin, canonical_sendCtrl]

theorem canonical_sendJoin {s : State} (h : Canonical s) : Canonical (sendJoin s) := by
  unfold sendJoin
  grind only [canonical_sendCtrl, Canonical]

theorem canonical_noMap {s : State} (h : Canonical s) : Canonical (noMap s) := by
  unfold noMap
  grind only [canonical_fenceSelf]

theorem canonical_failoverEvent {s : State} (h : Canonical s) (hall : Bool) (dev : Nat) : Canonical (failoverEvent s hall dev) := by
  unfold failoverEvent
  grind only [canonical_postEvent]

theorem canonical_failover_other {s : State} (h : Canonical s) (hall : Bool) : Canonical (failover.other s hall) := by
  unfold failover.other
  grind only [canonical_takeFree, canonical_failoverEvent]

theorem canonical_failover {s : State} (h : Canonical s) (hall : Bool) : Canonical (failover s hall) := by
  unfold failover
  grind only [canonical_modKeeper, canonical_sendCtrl, canonical_failoverEvent, canonical_takeSlotReport, canonical_failover_other]

/-! ## Machine/Serve -/

theorem canonical_pushCpl {s : State} (h : Canonical s) (r : Nat) (bs : List Byte) : Canonical (pushCpl s r bs) := by
  unfold pushCpl
  grind only [canonical_pushRecord, canonical_modRing]

theorem canonical_writeRec {s : State} (h : Canonical s) (r : Nat) (c : Cpl) (sub seq : Option Nat) : Canonical
    (writeRec s r c sub seq) := by
  unfold writeRec
  grind only [canonical_pushCpl, canonical_modRing]

theorem canonical_finishDone {s : State} (h : Canonical s) (d : Done) (ctx status : Nat) : Canonical (finishDone s d ctx status) := by
  unfold finishDone
  grind only [canonical_writeRec]

theorem canonical_consume {s : State} (h : Canonical s) (ring : Nat) : Canonical (consume s ring) := by
  unfold consume
  grind only [canonical_popHead, canonical_modRing]

theorem canonical_refuseRec {s : State} (h : Canonical s) (ring : Nat) (bs : List Byte) (ctx status : Nat) : Canonical
    (refuseRec s ring bs ctx status) := by
  unfold refuseRec
  grind only [canonical_finishDone, canonical_consume]

theorem canonical_svRead {s : State} (h : Canonical s) (core : Nat) (pl : Place) (n : Nat) : Canonical (svRead s core pl n).1 := by
  unfold svRead
  grind only [! canonical_readSub, canonical_serviceFault]

theorem canonical_svPut {s : State} (h : Canonical s) (core : Nat) (pl : Place) (n v : Nat) : Canonical (svPut s core pl n v) := by
  unfold svPut
  grind only [canonical_serviceFault, ! canonical_writeSub]

theorem canonical_svAtom {s : State} (h : Canonical s) (core : Nat) (pl : Place) (k : AtomKind) (v : W64) : Canonical
    (svAtom s core pl k v).1 := by
  unfold svAtom
  grind only [canonical_serviceFault, ! canonical_atomApply]

theorem canonical_keepCounts {s : State} (h : Canonical s) (t : State) : Canonical (keepCounts s t) := by
  unfold keepCounts
  grind only [canonical_foldl, canonical_retireFrame, canonical_modTile, Canonical]

theorem canonical_fwDo {s : State} (h : Canonical s) (core : Nat) (f : State → State) (hf : Canonical (f s)) : Canonical
    (fwDo s core f) := by
  unfold fwDo
  grind only [canonical_serviceFault, canonical_keepCounts]

theorem canonical_bldTake {b : Bld} (h : Canonical b.s) (n : Nat) : Canonical (Bld.take b n).1.s := by
  unfold Bld.take
  dsimp only
  split <;> exact h

theorem canonical_bldTakeZero {b : Bld} (h : Canonical b.s) (n : Nat) : Canonical (Bld.takeZero b n).1.s := by
  unfold Bld.takeZero
  grind only [! canonical_bldTake, canonical_zero]

theorem canonical_bldTable {b : Bld} (h : Canonical b.s) (core at_ n : Nat) : Canonical (Bld.table b core at_ n).1.s := by
  unfold Bld.table
  grind only [! canonical_bldTakeZero, canonical_svPut]

theorem canonical_bldPage {b : Bld} (h : Canonical b.s) (core root va target bits : Nat) (big : Bool) : Canonical
    (Bld.page b core root va target bits big).s := by
  unfold Bld.page
  grind only [! canonical_bldTable, canonical_svPut]

theorem canonical_bldPages (k : Nat) {b : Bld} (h : Canonical b.s) (core root va target bits n : Nat) : Canonical
    (Bld.pages b core root va target bits n k).s := by
  induction k generalizing b core root va target bits n with
  | zero => exact h
  | succ k ih =>
    unfold Bld.pages
    grind only [! canonical_bldPage]

theorem canonical_bldMap {b : Bld} (h : Canonical b.s) (core root va target bytes tier : Nat) (exec write : Bool) : Canonical
    (Bld.map b core root va target bytes tier exec write).s := by
  unfold Bld.map
  grind only [! canonical_bldPages]

theorem canonical_invalCtx {s : State} (h : Canonical s) (ctx : Nat) : Canonical (invalCtx s ctx) := by
  unfold invalCtx
  grind only [canonical_startXlatInval, canonical_endXlatInval]

theorem canonical_moveEntry {b : Bld} (h : Canonical b.s) (f a : Nat) (m : Mapping) : Canonical (moveEntry b f a m).s := by
  unfold moveEntry
  dsimp only
  split
  · exact h
  · split
    · exact canonical_svPut h ..
    · have hz := canonical_bldTakeZero h 256
      generalize b.takeZero 256 = r at hz ⊢
      split
      · exact hz
      · dsimp only
        refine canonical_svPut ?_ ..
        refine canonical_foldl _ _ ?_ hz
        exact fun u k hu => canonical_svPut hu ..

theorem canonical_retrySlots {s : State} (h : Canonical s) (p : Slot → Bool) : Canonical (retrySlots s p) := by
  unfold retrySlots
  grind only [canonical_foldl, canonical_resumeSlot, canonical_modSlot]

/-- A fold of steps of a build of which each keeps the form. -/
theorem canonical_foldl_bld {α β : Type} (f : Bld × β → α → Bld × β) (xs : List α) (x : Bld × β)
    (hf : ∀ u a, Canonical u.1.s → Canonical (f u a).1.s) (h : Canonical x.1.s) : Canonical (xs.foldl f x).1.s := by
  induction xs generalizing x with
  | nil => exact h
  | cons a xs ih => exact ih _ (hf x a h)

theorem canonical_movePage {s : State} (h : Canonical s) (f : Nat) : Canonical (movePage s f) := by
  have h1 : Canonical (Bld.take { s := s } 65536).1.s := canonical_bldTake h _
  obtain ⟨n, hn⟩ : ∃ n, n = 2048 := ⟨_, rfl⟩
  unfold movePage
  rw [← hn]
  dsimp only
  split
  · exact h
  · split
    · exact h
    · split
      · exact h
      · refine canonical_retrySlots (canonical_foldl _ _ (fun u c hu => (canonical_modCtx ..).2 (canonical_invalCtx hu c)) ?_) _
        refine canonical_foldl_bld _ _ _ (fun u m hu => ?_) (canonical_setWords _ _ h1)
        split
        · exact hu
        · exact canonical_moveEntry hu ..

theorem canonical_moveRetired {s : State} (h : Canonical s) : Canonical (moveRetired s) := by
  unfold moveRetired
  grind only [canonical_foldl, canonical_movePage]

theorem canonical_poolAvail {s : State} (h : Canonical s) (ctx : Nat) : Canonical (poolAvail s ctx).1 := by
  unfold poolAvail
  grind only [! canonical_svRead]

theorem canonical_poolAdd {s : State} (h : Canonical s) (ctx o : Nat) (d : Int) : Canonical (poolAdd s ctx o d).1 := by
  unfold poolAdd
  grind only [! canonical_svAtom]

theorem canonical_poolAlloc {s : State} (h : Canonical s) (ctx : Nat) : Canonical (poolAlloc s ctx).1 := by
  unfold poolAlloc
  grind only [! canonical_poolAdd, ! canonical_svAtom]

theorem canonical_poolFree {s : State} (h : Canonical s) (ctx e : Nat) : Canonical (poolFree s ctx e) := by
  unfold poolFree
  grind only [! canonical_poolAdd, canonical_svPut]

theorem canonical_poolPaused {s : State} (h : Canonical s) (ctx : Nat) (d : Int) : Canonical (poolPaused s ctx d) := by
  unfold poolPaused
  grind only [! canonical_poolAdd]

theorem canonical_enterPages (xs : List (Nat × Nat)) {s : State} (h : Canonical s) (q : Nat) {t : State} (e : enterPages s q xs = some t) :
    Canonical t := by
  induction xs generalizing s with
  | nil => grind only [enterPages]
  | cons x xs ih =>
    unfold enterPages at e
    grind only [! canonical_poolAlloc, canonical_svPut]

theorem canonical_takePages {s : State} (h : Canonical s) (q n : Nat) {t : State} (e : takePages s q n = some t) : Canonical t := by
  obtain ⟨u, hu, rfl⟩ := Option.map_eq_some_iff.1 e
  exact (canonical_modSeqEnt ..).2 (canonical_enterPages _ h _ hu)

theorem canonical_freePages {s : State} (h : Canonical s) (q : Nat) : Canonical (freePages s q) := by
  unfold freePages
  grind only [canonical_foldl, ! canonical_svRead, canonical_poolFree, canonical_svPut]

theorem canonical_seqRecord {s : State} (h : Canonical s) (q kind status detail : Nat) : Canonical (seqRecord s q kind status detail) := by
  unfold seqRecord
  grind only [canonical_modSeqEnt, canonical_writeRec]

theorem canonical_releaseSeq {s : State} (h : Canonical s) (q : Nat) : Canonical (releaseSeq s q) := by
  unfold releaseSeq
  grind only [canonical_modSeqEnt]

theorem canonical_endSeq {s : State} (h : Canonical s) (q status detail : Nat) : Canonical (endSeq s q status detail) := by
  unfold endSeq
  grind only [canonical_freePages, canonical_poolPaused, canonical_modCtx, canonical_modSeqEnt, canonical_releaseSeq, canonical_seqRecord]

/-! ## Machine/Versions -/

theorem canonical_modVer {s : State} (h : Canonical s) (ctx : Nat) (v : Bool) (f : Version → Version) : Canonical (modVer s ctx v f) := by
  unfold modVer
  grind only [canonical_modCtx]

theorem canonical_unmapWindow {s : State} (h : Canonical s) (ctx : Nat) (v : Bool) : Canonical (unmapWindow s ctx v) := by
  unfold unmapWindow
  grind only [canonical_invalCtx, canonical_foldl, canonical_svPut]

theorem canonical_freeAll {s : State} (h : Canonical s) (bs : List (Nat × Nat × Nat)) : Canonical (freeAll s bs) := by
  unfold freeAll
  grind only [canonical_foldl, canonical_freeBlocks]

theorem canonical_discardSlot {s : State} (h : Canonical s) (ctx : Nat) (v : Bool) : Canonical (discardSlot s ctx v) := by
  unfold discardSlot
  grind only [canonical_freeAll, canonical_unmapWindow, canonical_modVer, canonical_finishDone]

theorem canonical_stopLoad {s : State} (h : Canonical s) (ctx : Nat) (v : Bool) : Canonical (stopLoad s ctx v) := by
  unfold stopLoad
  grind only [canonical_modVer, canonical_discardSlot, canonical_finishDone]

theorem canonical_copyManifest {s : State} (h : Canonical s) (ctx : Nat) (v : Bool) : Canonical (copyManifest s ctx v) := by
  unfold copyManifest
  grind only [canonical_modVer]

theorem canonical_switchVer {s : State} (h : Canonical s) (ctx : Nat) (v : Bool) : Canonical (switchVer s ctx v) := by
  unfold switchVer
  grind only [canonical_modVer, canonical_modCtx, canonical_discardSlot, canonical_postEvent, canonical_finishDone]

theorem canonical_settleVer {s : State} (h : Canonical s) (ctx : Nat) : Canonical (settleVer s ctx) := by
  unfold settleVer
  grind only [canonical_foldl, canonical_modSeqEnt, canonical_copyManifest, canonical_discardSlot, canonical_switchVer]

theorem canonical_applyCancels {s : State} (h : Canonical s) (ctx : Nat) : Canonical (applyCancels s ctx) := by
  unfold applyCancels
  grind only [canonical_foldl, canonical_finishDone, canonical_endSeq, canonical_modCtx]

theorem canonical_clearRights {s : State} (h : Canonical s) (ctx : Nat) : Canonical (clearRights s ctx) := by
  unfold clearRights
  grind only [canonical_endTblInval, canonical_startTblInval, canonical_zero]

theorem canonical_refreshLed {s : State} (h : Canonical s) : Canonical (refreshLed s) := by
  unfold refreshLed
  grind only [Canonical]

theorem canonical_teardown {s : State} (h : Canonical s) (ctx : Nat) : Canonical (teardown s ctx) := by
  unfold teardown
  grind only [canonical_clearRights, canonical_foldl, canonical_modGSlot, canonical_modWeir, canonical_freeAll, canonical_invalCtx,
      canonical_refreshLed, canonical_modCtx, Canonical]

theorem canonical_cancelAll {s : State} (h : Canonical s) (ctx : Nat) : Canonical (cancelAll s ctx) := by
  unfold cancelAll
  grind only [canonical_foldl, canonical_endSeq]

theorem canonical_stopLoads {s : State} (h : Canonical s) (ctx : Nat) (silent : Bool) : Canonical (stopLoads s ctx silent) := by
  unfold stopLoads
  grind only [canonical_foldl, canonical_stopLoad]

theorem canonical_endAsked {s : State} (h : Canonical s) (ctx : Nat) : Canonical (endAsked s ctx) := by
  unfold endAsked
  grind only [canonical_foldl, canonical_finishDone, canonical_modVer]

theorem canonical_settleUnbind {s : State} (h : Canonical s) (ctx : Nat) (d : Option Done) : Canonical (settleUnbind s ctx d) := by
  unfold settleUnbind
  grind only [canonical_stopLoads, canonical_cancelAll, canonical_applyCancels, canonical_endAsked, canonical_foldl, canonical_modSeqEnt,
      canonical_teardown, canonical_finishDone]

theorem canonical_settle {s : State} (h : Canonical s) (ctx : Nat) : Canonical (settle s ctx) := by
  unfold settle
  grind only [canonical_settleUnbind, canonical_settleVer, canonical_applyCancels]

/-! ## Machine/Bind -/

theorem canonical_takeHomes (fuel : Nat) {s : State} (h : Canonical s) (ctx slt i l : Nat) (got : List (Nat × Nat)) (n : Nat) {t : State}
    {w : List (Nat × Nat)} (e : takeHomes s ctx slt i l got n fuel = some (t, w)) : Canonical t := by
  induction fuel generalizing s i l got n with
  | zero => grind only [takeHomes]
  | succ fuel ih =>
    unfold takeHomes at e
    grind only [canonical_setOwners]

theorem canonical_initPool {s : State} (h : Canonical s) (ctx : Nat) : Canonical (initPool s ctx) := by
  unfold initPool
  grind only [canonical_writeWord, canonical_setBytes]

theorem canonical_mapSpill {b : Bld} (h : Canonical b.s) (core root : Nat) (r : BindRec) : Canonical (mapSpill b core root r).s := by
  unfold mapSpill
  grind only [! canonical_takeFree, ! canonical_bldMap]

end Sys2Proof.Proofs
end

section
/-! Every function of the model that returns a state keeps the canonical forms of storage (part 5). -/

namespace Sys2Proof.Proofs
open Sys2Proof Sys2Proof.Machine

/-! ## Machine/Bind -/

theorem canonical_reserve {s : State} (h : Canonical s) (ctx fn ring core : Nat) (b : BindRec) (hd : List Byte) {t : State}
    (e : reserve s ctx fn ring core b hd = some t) : Canonical t := by
  unfold reserve at e
  grind only [! canonical_bldTakeZero, ! canonical_bldTake, ! canonical_bldMap, ! canonical_mapSpill, → canonical_takeHomes,
      canonical_foldl, canonical_modGSlot, canonical_modCtx, Canonical]

theorem canonical_writeRights {s : State} (h : Canonical s) (ctx : Nat) (group : Option Nat) : Canonical (writeRights s ctx group) := by
  unfold writeRights
  grind only [canonical_endTblInval, canonical_startTblInval, canonical_zero, ! canonical_freeBytes, canonical_setBytes]

theorem canonical_setUp {s : State} (h : Canonical s) (ctx : Nat) (tab : List Byte) : Canonical (setUp s ctx tab) := by
  unfold setUp
  grind only [canonical_initPool, canonical_foldl, canonical_modWeir, canonical_setBytes, canonical_modGSlot, canonical_refreshLed,
      canonical_writeRights]

theorem canonical_groupTaken {s : State} (h : Canonical s) (b : BindRec) : Canonical (groupTaken s b).1 := by
  unfold groupTaken
  grind only [! canonical_peekWords]

theorem canonical_bindTaken {s : State} (h : Canonical s) (ring : Nat) (bs : List Byte) : Canonical (bindTaken s ring bs) := by
  unfold bindTaken
  repeat' split
  all_goals grind only [canonical_refuseRec, canonical_modRing, ! canonical_groupTaken, → canonical_reserve, canonical_fwDo,
      canonical_finishDone, canonical_consume, canonical_setUp]

/-! ## Machine/Admit -/

theorem canonical_refuseAdmit {s : State} (h : Canonical s) (ring : Nat) (bs : List Byte) (status detail : Nat) : Canonical
    (refuseAdmit s ring bs status detail) := by
  unfold refuseAdmit
  grind only [canonical_consume, canonical_writeRec]

theorem canonical_seqFull {s : State} (h : Canonical s) (ring : Nat) (bs : List Byte) (detail : Nat) : Canonical
    (seqFull s ring bs detail) := by
  unfold seqFull
  grind only [canonical_modRing, canonical_refuseAdmit]

theorem canonical_admitTaken {s : State} (h : Canonical s) (ring : Nat) (bs : List Byte) : Canonical (admitTaken s ring bs) := by
  unfold admitTaken
  dsimp only
  split
  · exact canonical_refuseAdmit h ..
  · split
    · exact canonical_refuseAdmit h ..
    · split
      · exact canonical_refuseAdmit h ..
      · split
        · exact canonical_refuseAdmit h ..
        · split
          · exact canonical_seqFull h ..
          · exact canonical_seqFull h ..
          · refine canonical_writeRec ?_ ..
            rw [canonical_modSeqEnt]
            exact canonical_of_same (canonical_consume h ring) rfl rfl rfl

/-! ## Machine/Resets -/

theorem canonical_unbindFn {s : State} (h : Canonical s) (f : Nat) : Canonical (unbindFn s f) := by
  unfold unbindFn
  grind only [canonical_foldl, canonical_settle, canonical_modCtx]

theorem canonical_ringsOff {s : State} (h : Canonical s) (f : Nat) : Canonical (ringsOff s f) := by
  unfold ringsOff
  grind only [canonical_foldl, canonical_modRing]

theorem canonical_resetFn {s : State} (h : Canonical s) (f : Nat) : Canonical (resetFn s f) := by
  unfold resetFn
  grind only [canonical_ringsOff, canonical_unbindFn, canonical_modFn]

theorem canonical_resetRanges {s : State} (h : Canonical s) : Canonical (resetRanges s) := by
  unfold resetRanges
  grind only [canonical_foldl, canonical_modFn]

theorem canonical_resetAllFns {s : State} (h : Canonical s) : Canonical (resetAllFns s) := by
  unfold resetAllFns
  grind only [canonical_resetRanges, canonical_foldl, canonical_resetFn]

/-! ## Machine/Spill -/

theorem canonical_pageWords (n : Nat) {s : State} (h : Canonical s) (ctx va : Nat) : Canonical (pageWords s ctx va n).1 := by
  induction n generalizing s ctx va with
  | zero => exact h
  | succ n ih =>
    unfold pageWords
    grind only [! canonical_ctxAddr, ! canonical_readWord, canonical_serviceFault]

theorem canonical_codeCopy {s : State} (h : Canonical s) (ctx : Nat) (ws : List (BitVec 256 × Bool)) : Canonical (codeCopy s ctx ws).1 := by
  unfold codeCopy
  grind only [canonical_modGrs, canonical_countEnc]

theorem canonical_codeBlocks (n : Nat) {s : State} (h : Canonical s) (ctx : Nat) (ws : List (BitVec 256 × Bool)) : Canonical
    (codeBlocks s ctx ws n).1 := by
  induction n generalizing s ctx ws with
  | zero => exact h
  | succ n ih =>
    unfold codeBlocks
    grind only [canonical_weirCharge, ! canonical_codeCopy]

theorem canonical_putWords (xs : List Word288) {s : State} (h : Canonical s) (core : Nat) (pl : Place) (n : Nat) : Canonical
    (putWords s core pl n xs) := by
  induction xs generalizing s core pl n with
  | nil => exact h
  | cons x xs ih =>
    unfold putWords
    grind only [! canonical_writeMask, canonical_serviceFault, canonical_writeWord]

theorem canonical_putBlock {s : State} (h : Canonical s) (q : Nat) (tier2 : Bool) (block : Nat) (b : CopyBlk) : Canonical
    (putBlock s q tier2 block b) := by
  unfold putBlock
  grind only [canonical_putWords, ! canonical_ctxAddr, canonical_sendReq, canonical_serviceFault]

theorem canonical_copyPoison {s : State} (h : Canonical s) (ctx k : Nat) (bls : List (CopyBlk × Nat)) : Canonical
    (copyPoison s ctx k bls) := by
  unfold copyPoison
  grind only [canonical_postEvent]

theorem canonical_putCopy {s : State} (h : Canonical s) (q k : Nat) (sp : Spill) (first va : Nat) : Canonical
    (putCopy s q k sp first va) := by
  unfold putCopy
  grind only [! canonical_pageWords, ! canonical_codeBlocks, canonical_foldl, canonical_putBlock, canonical_copyPoison]

theorem canonical_ptGet {s : State} (h : Canonical s) (q : Nat) (p : Nat × Nat) : Canonical (ptGet s q p).1 := by
  unfold ptGet
  grind only [! canonical_svRead]

theorem canonical_spillCopies {s : State} (h : Canonical s) (q k : Nat) (sp : Spill) : Canonical (spillCopies s q k sp) := by
  unfold spillCopies
  grind only [canonical_foldl, ! canonical_ptGet, canonical_putCopy, canonical_modSeqEnt]

theorem canonical_spillEntries {s : State} (h : Canonical s) (q : Nat) (sp : Spill) : Canonical (spillEntries s q sp) := by
  unfold spillEntries
  grind only [canonical_foldl, ! canonical_ptGet, canonical_svPut, canonical_poolFree, canonical_modSeqEnt]

theorem canonical_spillRest {s : State} (h : Canonical s) (q : Nat) (sp : Spill) : Canonical (spillRest s q sp) := by
  unfold spillRest
  grind only [canonical_spillEntries]

theorem canonical_spillSeq {s : State} (h : Canonical s) (q : Nat) : Canonical (spillSeq s q) := by
  unfold spillSeq
  grind only [canonical_spillRest, canonical_spillCopies, canonical_modSeqEnt, canonical_modCtx]

theorem canonical_readCopy {s : State} (h : Canonical s) (q : Nat) (sp : Spill) (r : Nat × Nat) : Canonical (readCopy s q sp r) := by
  unfold readCopy
  grind only [! canonical_readRaw, canonical_modSeqEnt, ! canonical_ctxAddr, canonical_sendReq, canonical_serviceFault]

theorem canonical_fetchCopies (n : Nat) {s : State} (h : Canonical s) (q : Nat) (sp : Spill) : Canonical (fetchCopies s q sp n) := by
  induction n generalizing s q sp with
  | zero => exact h
  | succ n ih =>
    unfold fetchCopies
    grind only [canonical_foldl, canonical_readCopy]

theorem canonical_uncode {s : State} (h : Canonical s) (x : SeqEnt) (w b : Nat) : Canonical (uncode s x w b).1 := by
  unfold uncode
  grind only [canonical_weirCharge, canonical_countDec, ! canonical_freeBytes]

theorem canonical_restoreWords (n : Nat) {s : State} (h : Canonical s) (q k w b : Nat) (sp : Spill) (told : List Nat) : Canonical
    (restoreWords s q k w b sp told n).1 := by
  induction n generalizing s q k w b sp told with
  | zero => exact h
  | succ n ih =>
    unfold restoreWords
    grind only [! canonical_uncode, canonical_postEvent]

theorem canonical_putPage (xs : List Word288) {s : State} (h : Canonical s) (ctx va : Nat) : Canonical (putPage s ctx va xs) := by
  induction xs generalizing s ctx va with
  | nil => exact h
  | cons x xs ih =>
    unfold putPage
    grind only [! canonical_ctxAddr, canonical_writeWord, canonical_serviceFault]

theorem canonical_fillPages (xs : List (Nat × Nat)) {s : State} (h : Canonical s) (q k : Nat) (sp : Spill) (p : Nat) : Canonical
    (fillPages s q k sp p xs) := by
  induction xs generalizing s q k sp p with
  | nil => exact h
  | cons x xs ih =>
    unfold fillPages
    grind only [! canonical_ptGet, ! canonical_restoreWords, canonical_putPage]

theorem canonical_restoreSeq {s : State} (h : Canonical s) (q k : Nat) (sp : Spill) {t : State} (e : restoreSeq s q k sp = some t) :
    Canonical t := by
  obtain ⟨u, hu, rfl⟩ := Option.map_eq_some_iff.1 e
  exact (canonical_modSeqEnt ..).2 ((canonical_modCtx ..).2 (canonical_fillPages _ (canonical_enterPages _ h _ hu) ..))

theorem canonical_unpause {s : State} (h : Canonical s) (q : Nat) : Canonical (unpause s q) := by
  unfold unpause
  grind only [canonical_poolPaused, canonical_modSeqEnt]

theorem canonical_startReading {s : State} (h : Canonical s) (q : Nat) : Canonical (startReading s q) := by
  unfold startReading
  grind only [canonical_modSeqEnt]

theorem canonical_resumeSeq {s : State} (h : Canonical s) (q : Nat) : Canonical (resumeSeq s q) := by
  unfold resumeSeq
  grind only [canonical_unpause, canonical_fetchCopies, canonical_startReading, → canonical_restoreSeq]

/-! ## Machine/Plan -/

theorem canonical_resumeAll (n : Nat) {s : State} (h : Canonical s) (ctx : Nat) : Canonical (resumeAll s ctx n) := by
  induction n generalizing s ctx with
  | zero => exact h
  | succ n ih =>
    unfold resumeAll
    grind only [! canonical_poolAvail, canonical_resumeSeq]

theorem canonical_pauseSeq {s : State} (h : Canonical s) (q need : Nat) (avail : Int) : Canonical (pauseSeq s q need avail) := by
  unfold pauseSeq
  grind only [canonical_postEvent, canonical_poolPaused, canonical_modSeqEnt]

theorem canonical_pauseOrEnd {s : State} (h : Canonical s) (ctx : Nat) (rs : List SeqRow) (q need : Nat) (avail : Int) : Canonical
    (pauseOrEnd s ctx rs q need avail) := by
  unfold pauseOrEnd
  grind only [canonical_endSeq, canonical_pauseSeq]

theorem canonical_fitStep (n : Nat) {s : State} (h : Canonical s) (ctx : Nat) (v : Bool) : Canonical (fitStep s ctx v n).1 := by
  induction n generalizing s ctx v with
  | zero => exact h
  | succ n ih =>
    unfold fitStep
    grind only [canonical_endSeq, canonical_resumeAll, ! canonical_poolAvail, canonical_pauseOrEnd]

theorem canonical_dropBad {s : State} (h : Canonical s) (ctx : Nat) (rs : List SeqRow) : Canonical (dropBad s ctx rs).1 := by
  refine canonical_foldl_fst _ _ _ (fun u r hu => ?_) h
  split
  · exact canonical_endSeq hu ..
  · exact hu

theorem canonical_svWrite {s : State} (h : Canonical s) (core a : Nat) (bs : List Byte) : Canonical (svWrite s core a bs) := by
  have hw := canonical_writeBytes h (.hbm a) bs
  unfold svWrite
  generalize writeBytes s (.hbm a) bs = r at hw ⊢
  split
  · exact canonical_serviceFault h core
  · split
    · exact hw
    · exact canonical_serviceFault hw core

theorem canonical_slotList {s : State} (h : Canonical s) (c : Ctx) (es : List StepEnt) : Canonical (slotList s c es).1 :=
  canonical_foldl_fst _ _ _ (fun u p hu => by
    dsimp only
    grind only [! canonical_ptGet]) h

theorem canonical_writeStep {s : State} (h : Canonical s) (ctx : Nat) (r : StepRun) (toks : List W32) : Canonical
    (writeStep s ctx r toks) := by
  unfold writeStep
  grind only [canonical_svWrite, ! canonical_slotList]

theorem canonical_resetSluices {s : State} (h : Canonical s) (ctx : Nat) (xs : List (Nat × Nat)) : Canonical (resetSluices s ctx xs) := by
  unfold resetSluices
  grind only [canonical_foldl, canonical_serviceFault, ! canonical_sluiceAccess]

theorem canonical_zeroCombine {s : State} (h : Canonical s) (ctx : Nat) (xs : List (Nat × Nat)) : Canonical (zeroCombine s ctx xs) := by
  unfold zeroCombine
  grind only [canonical_foldl, canonical_serviceFault, canonical_writeWords]

theorem canonical_submitRuns (n : Nat) {s : State} (h : Canonical s) (ctx : Nat) : Canonical (submitRuns s ctx n) := by
  induction n generalizing s ctx with
  | zero => exact h
  | succ n ih =>
    unfold submitRuns
    grind only [canonical_pushRecord, canonical_modCtx]

theorem canonical_stepPages (xs : List SeqRow) {s : State} (h : Canonical s) {t : State} (e : stepPages s xs = some t) : Canonical t := by
  induction xs generalizing s with
  | nil => grind only [stepPages]
  | cons r rs ih =>
    obtain ⟨u, hu, hv⟩ := Option.bind_eq_some_iff.1 e
    exact ih (canonical_takePages h _ _ hu) hv

theorem canonical_planStep {s : State} (h : Canonical s) (ctx : Nat) (v : Bool) (runs : List PlanRun) (sluices combine : List (Nat × Nat))
    (logitFmt : Nat) : Canonical (planStep s ctx v runs sluices combine logitFmt) := by
  unfold planStep
  grind only [canonical_resumeAll, canonical_moveRetired, ! canonical_fitStep, ! canonical_dropBad, → canonical_stepPages, canonical_foldl,
      canonical_writeStep, canonical_modSeqEnt, canonical_zeroCombine, canonical_resetSluices, canonical_submitRuns, canonical_modCtx]

/-! ## Machine/Sample -/

theorem canonical_sampleRow {s : State} (h : Canonical s) (q i fmt : Nat) : Canonical (sampleRow s q i fmt).1 := by
  unfold sampleRow
  grind only [! canonical_readBytes, canonical_foldl, canonical_svPut, canonical_serviceFault]

theorem canonical_tokenBytes {s : State} (h : Canonical s) (ctx : Nat) (t : Nat) : Canonical (tokenBytes s ctx t).1 := by
  unfold tokenBytes
  grind only [! canonical_readBytes, canonical_serviceFault]

theorem canonical_deliverTokens (xs : List W32) {s : State} (h : Canonical s) (q : Nat) : Canonical (deliverTokens s q xs).1 := by
  induction xs generalizing s q with
  | nil => exact h
  | cons x xs ih =>
    unfold deliverTokens
    grind only [! canonical_tokenBytes, canonical_setBytes, canonical_modSeqEnt, canonical_seqRecord]

theorem canonical_endWith {s : State} (h : Canonical s) (q status : Nat) (ts : List W32) : Canonical (endWith s q status ts) := by
  unfold endWith
  grind only [! canonical_deliverTokens, canonical_endSeq]

theorem canonical_takeToken {s : State} (h : Canonical s) (q t : Nat) : Canonical (takeToken s q t) := by
  unfold takeToken
  grind only [canonical_modSeqEnt, canonical_endWith, ! canonical_deliverTokens, canonical_endSeq]

theorem canonical_endEntry {s : State} (h : Canonical s) (ctx fmt : Nat) (e : StepEnt) : Canonical (endEntry s ctx fmt e) := by
  unfold endEntry
  grind only [canonical_modSeqEnt, ! canonical_sampleRow, canonical_takeToken, canonical_postEvent, canonical_endSeq]

theorem canonical_takeOutcome {s : State} (h : Canonical s) (ctx : Nat) (p : PlanRun) : Canonical (takeOutcome s ctx p).1 := by
  unfold takeOutcome
  grind only [canonical_modGov, canonical_popHead]

theorem canonical_collect {s : State} (h : Canonical s) (ctx : Nat) : Canonical (collect s ctx) := by
  unfold collect
  split
  · exact h
  · refine (canonical_modCtx ..).2 (canonical_foldl_fst _ _ _ (fun u p hu => ?_) h)
    grind only [! canonical_takeOutcome]

theorem canonical_cancelLive {s : State} (h : Canonical s) (ctx : Nat) : Canonical (cancelLive s ctx) := by
  unfold cancelLive
  grind only [canonical_foldl, canonical_cancelSeqno, canonical_modCtx]

theorem canonical_handContext {s : State} (h : Canonical s) (ctx : Nat) : Canonical (handContext s ctx) := by
  unfold handContext
  grind only [canonical_modCtx]

theorem canonical_endStep {s : State} (h : Canonical s) (ctx : Nat) : Canonical (endStep s ctx) := by
  unfold endStep
  grind only [canonical_settle, canonical_handContext, canonical_modCtx]

theorem canonical_finishStep {s : State} (h : Canonical s) (ctx : Nat) (r : StepRun) : Canonical (finishStep s ctx r) := by
  unfold finishStep
  grind only [canonical_endStep, canonical_postEvent, canonical_resetSluices, canonical_zeroCombine, canonical_submitRuns,
      canonical_modCtx, canonical_applyCancels, canonical_foldl, canonical_endSeq, canonical_endEntry]

theorem canonical_moveRings {s : State} (h : Canonical s) (c dest : Nat) : Canonical (moveRings s c dest) := by
  unfold moveRings
  grind only [canonical_foldl, canonical_modRing, canonical_modSlot]

theorem canonical_replan {s : State} (h : Canonical s) (ctx : Nat) : Canonical (replan s ctx) := by
  unfold replan
  grind only [canonical_foldl, canonical_modSeqEnt, canonical_cancelLive, canonical_modCtx]

/-! ## Machine/Weights -/

theorem canonical_askDiscard {s : State} (h : Canonical s) (ctx : Nat) (v : Bool) (d : Done) : Canonical (askDiscard s ctx v d) := by
  unfold askDiscard
  grind only [canonical_settle, canonical_modVer]

theorem canonical_failLoad {s : State} (h : Canonical s) (ctx : Nat) (v : Bool) (status shard cause : Nat) : Canonical
    (failLoad s ctx v status shard cause) := by
  unfold failLoad
  grind only [canonical_postEvent, canonical_discardSlot, canonical_modVer, canonical_finishDone]

theorem canonical_grantBlocks (xs : List (Nat × Nat × Nat)) {s : State} (h : Canonical s) (ctx : Nat) {t : State}
    (e : grantBlocks s ctx xs = some t) : Canonical t := by
  induction xs generalizing s with
  | nil => grind only [grantBlocks]
  | cons b bs ih =>
    unfold grantBlocks at e
    grind only [canonical_setOwners]

theorem canonical_takeShards (xs : List ShardEnt) {b : Bld} (h : Canonical b.s) (places : Tab Nat) (i : Nat) : Canonical
    (takeShards b places i xs).1.s := by
  induction xs generalizing b places i with
  | nil => exact h
  | cons x xs ih =>
    unfold takeShards
    grind only [! canonical_bldTakeZero]

theorem canonical_takeAll {s : State} (h : Canonical s) (ctx : Nat) (v : Bool) (l : LoadRec) (es : List ShardEnt) {t : State}
    (e : takeAll s ctx v l es = some t) : Canonical t := by
  unfold takeAll at e
  grind only [! canonical_takeShards, canonical_foldl, ! canonical_grantBlocks, canonical_modVer]

theorem canonical_modShard {s : State} (h : Canonical s) (ctx : Nat) (v : Bool) (i : Nat) (f : Shard → Shard) : Canonical
    (modShard s ctx v i f) := by
  unfold modShard
  grind only [canonical_modVer]

theorem canonical_peerWrite (xs : List (List Byte)) {s : State} (h : Canonical s) (ctx core a : Nat) : Canonical
    (peerWrite s ctx core a xs) := by
  induction xs generalizing s ctx core a with
  | nil => exact h
  | cons x xs ih =>
    unfold peerWrite
    grind only [! canonical_ctxAddr, canonical_sendReq, canonical_writeWords, canonical_serviceFault]

theorem canonical_placeShard {s : State} (h : Canonical s) (ctx : Nat) (x : Version) (l : LoadRec) (i : Nat) (e : ShardEnt)
    (bs : List Byte) : Canonical (placeShard s ctx x l i e bs) := by
  unfold placeShard
  grind only [canonical_writeWords, canonical_peerWrite, canonical_foldl]

/-- A fold of maps of a build of which each keeps the form. -/
theorem canonical_foldl_maps {α : Type} (f : Bld → α → Bld) (xs : List α) (b : Bld) (hf : ∀ u a, Canonical u.s → Canonical (f u a).s)
    (h : Canonical b.s) : Canonical (xs.foldl f b).s := by
  induction xs generalizing b with
  | nil => exact h
  | cons a xs ih => exact ih _ (hf b a h)

theorem canonical_mapShards {b : Bld} (h : Canonical b.s) (ctx : Nat) (v : Bool) (x : Version) (es : List ShardEnt) :
    Canonical (mapShards b ctx v x es).s := by
  unfold mapShards
  dsimp only
  split
  · exact h
  · refine canonical_foldl_maps _ _ _ (fun u e hu => ?_) h
    obtain ⟨f, hf⟩ : ∃ f, f = Bld.map := ⟨_, rfl⟩
    have hm (core root va target bytes tier : Nat) (exec write : Bool) : Canonical (f u core root va target bytes tier exec write).s := by
      rw [hf]
      exact canonical_bldMap hu ..
    rw [← hf]
    split
    · exact hm ..
    · exact hm ..
    · exact hm ..
    · exact hu

theorem canonical_verifyLoad {s : State} (h : Canonical s) (ctx : Nat) (v : Bool) (l : LoadRec) : Canonical (verifyLoad s ctx v l) := by
  unfold verifyLoad
  grind only [! canonical_mapShards, canonical_failLoad, canonical_modVer, canonical_invalCtx, canonical_finishDone, canonical_settle]

theorem canonical_shardMismatch {s : State} (h : Canonical s) (ctx : Nat) (v : Bool) (i attempts : Nat) : Canonical
    (shardMismatch s ctx v i attempts) := by
  unfold shardMismatch
  grind only [canonical_postEvent, canonical_failLoad, canonical_modShard]

theorem canonical_shardMatch {s : State} (h : Canonical s) (ctx : Nat) (v : Bool) (l : LoadRec) (i : Nat) (e : ShardEnt)
    (src : Nat) : Canonical (shardMatch s ctx v l i e src) := by
  unfold shardMatch
  grind only [canonical_modShard, canonical_modVer, canonical_verifyLoad]

theorem canonical_takeShard {s : State} (h : Canonical s) (ctx : Nat) (v : Bool) (x : Version) (l : LoadRec) (i : Nat) (src : Nat)
    (bs : List Byte) : Canonical (takeShard s ctx v x l i src bs) := by
  unfold takeShard
  grind only [canonical_placeShard, canonical_shardMatch, canonical_shardMismatch]

/-! ## Machine/Boot -/

theorem canonical_resetDevice {s : State} (h : Canonical s) : Canonical (resetDevice s) :=
  ⟨twf_filter 0 s.mem _ h.1, h.2.1, rfl⟩

theorem canonical_bootMgt {s : State} (h : Canonical s) : Canonical (bootMgt s) := by
  unfold bootMgt
  grind only [canonical_failTrial, canonical_modFwSlot]

theorem canonical_reachService {s : State} (h : Canonical s) : Canonical (reachService s) := by
  unfold reachService
  grind only [canonical_refreshAlert, canonical_auditEnd, canonical_modFwSlot]

theorem canonical_dropNonces {s : State} (h : Canonical s) : Canonical (dropNonces s) := by
  unfold dropNonces
  grind only [Canonical]

theorem canonical_failBoot {s : State} (h : Canonical s) (cause ms : Nat) : Canonical (failBoot s cause ms) := by
  unfold failBoot
  grind only [Canonical]

theorem canonical_failTile {s : State} (h : Canonical s) (err : Bool) (p : Nat) : Canonical (failTile s err p) := by
  unfold failTile
  grind only [canonical_modTile, canonical_modFanTile, Canonical]

theorem canonical_backTile {s : State} (h : Canonical s) (l : Nat) : Canonical (backTile s l) := by
  unfold backTile
  grind only [canonical_setPhys, canonical_auditDevice, canonical_modLTile, Canonical]

theorem canonical_failTiles {s : State} (h : Canonical s) (err : Bool) (ps : List Nat) : Canonical (failTiles s err ps) := by
  unfold failTiles
  grind only [canonical_foldl, canonical_backTile, canonical_failTile]

theorem canonical_settleRegs {s : State} (h : Canonical s) : Canonical (settleRegs s) := by
  unfold settleRegs
  grind only [canonical_foldl, canonical_modFanTile, Canonical]

theorem canonical_raiseRails {s : State} (h : Canonical s) : Canonical (raiseRails s) := by
  unfold raiseRails
  grind only [canonical_settleRegs, canonical_foldl, canonical_modFanTile, Canonical]

theorem canonical_tilesUp {s : State} (h : Canonical s) : Canonical (tilesUp s) := by
  unfold tilesUp
  grind only [canonical_settleRegs, canonical_applyLevel, canonical_foldl, canonical_modTile]

theorem canonical_marchAll {s : State} (h : Canonical s) (fails : List (Nat × List RowFail)) : Canonical (marchAll s fails) := by
  refine canonical_foldl _ _ (fun _ _ hu => canonical_backTile hu _) (canonical_foldl _ _ (fun u f hu => ?_)
    (canonical_foldl _ _ (fun u p hu => ?_) ⟨twf_filter 0 s.mem _ h.1, twf_filter 0 s.chk _ h.2.1, rfl⟩))
  · dsimp only
    split
    · exact hu
    · split
      · exact (canonical_modMpd ..).2 hu
      · exact canonical_failTile ((canonical_modMpd ..).2 hu) ..
  · split
    · exact hu
    · exact (canonical_modMpd ..).2 hu

theorem canonical_bootRetire {s : State} (h : Canonical s) (f : Nat) : Canonical (bootRetire s f) := by
  unfold bootRetire
  grind only [canonical_auditDevice, Canonical]

theorem canonical_bootSpare {s : State} (h : Canonical s) (stk pc : Nat) : Canonical (bootSpare s stk pc) := by
  unfold bootSpare
  grind only [canonical_modStack, canonical_auditDevice, Canonical]

theorem canonical_testHbm {s : State} (h : Canonical s) (frames : List Nat) (pcs : List (Nat × Nat)) : Canonical (testHbm s frames pcs) :=
  canonical_foldl _ _ (fun _ _ hu => canonical_bootSpare hu ..) (canonical_foldl _ _ (fun _ _ hu => canonical_bootRetire hu _)
    ⟨twf_filter 0 s.mem _ h.1, twf_filter 0 s.chk _ h.2.1, h.2.2⟩)

theorem canonical_startCores {s : State} (h : Canonical s) : Canonical (startCores s) := by
  unfold startCores
  grind only [canonical_checkTrial, canonical_foldl, canonical_startCore, canonical_modMiller]

theorem canonical_openService {s : State} (h : Canonical s) : Canonical (openService s) := by
  unfold openService
  grind only [canonical_foldl, canonical_modRing, canonical_modGov, canonical_modMrc, canonical_modEngine, canonical_modLane, Canonical]

theorem canonical_driveReady {s : State} (h : Canonical s) (ms : Nat) : Canonical (driveReady s ms) := by
  unfold driveReady
  grind only [canonical_foldl, canonical_requestUnit, canonical_applyLevel, Canonical]

theorem canonical_stepDone {s : State} (h : Canonical s) (n : Nat) : Canonical (stepDone s n) := by
  unfold stepDone
  grind only [Canonical]

theorem canonical_bootStep {s : State} (h : Canonical s) (n : Nat) (o : BootOutcome) (ms : Nat) {t : State}
    (e : bootStep s n o ms = some t) : Canonical t := by
  unfold bootStep at e
  grind only [canonical_stepDone, canonical_failBoot, canonical_reachService, canonical_raiseRails, canonical_failTiles, canonical_tilesUp,
      canonical_marchAll, canonical_testHbm, canonical_startCores, canonical_openService, canonical_driveReady, Canonical]

/-! ## Machine/I3cBus -/

theorem canonical_setAnswer {s : State} (h : Canonical s) (a : Option (List Byte)) : Canonical (setAnswer s a) := by
  unfold setAnswer
  grind only [Canonical]

theorem canonical_cccRead {s : State} (h : Canonical s) (bs : List Byte) : Canonical (cccRead s bs) := by
  unfold cccRead
  grind only [canonical_setAnswer]

/-! ## Machine/Mgmt -/

theorem canonical_setNonces {s : State} (h : Canonical s) (t : Transport) (ns : List W64) : Canonical (setNonces s t ns) := by
  unfold setNonces
  grind only [Canonical]

theorem canonical_useNonce {s : State} (h : Canonical s) (t : Transport) (f : Frame) : Canonical (useNonce s t f) := by
  unfold useNonce
  grind only [canonical_setNonces]

theorem canonical_freshNonce {s : State} (h : Canonical s) : Canonical (freshNonce s).1 := by
  unfold freshNonce
  grind only [Canonical]

theorem canonical_answer {s : State} (h : Canonical s) (t : Transport) (r : Resp) : Canonical (answer s t r) := by
  unfold answer
  grind only [canonical_raiseIbi, Canonical]

theorem canonical_servePlain {s : State} (h : Canonical s) (t : Transport) (f : Frame) (row : MgtRow) (check : State → Nat)
    (act : State → Act) (hact : ∀ u, Canonical u → Canonical (act u).s) : Canonical (servePlain s t f row check act) := by
  unfold servePlain
  grind only [canonical_useNonce, canonical_answer]

theorem canonical_serveAudited {s : State} (h : Canonical s) (t : Transport) (f : Frame) (row : MgtRow) (target detail : Nat) (later : Bool)
    (check : State → Nat) (act : State → Act) (hact : ∀ u, Canonical u → Canonical (act u).s) :
    Canonical (serveAudited s t f row target detail later check act) := by
  unfold serveAudited
  grind only [canonical_useNonce, canonical_answer, canonical_auditAppend, Canonical]

/-! ## Machine/MgmtCmds -/

theorem canonical_setWithdrawn {s : State} (h : Canonical s) (p i : Nat) (on : Bool) : Canonical (setWithdrawn s p i on) := by
  unfold setWithdrawn
  grind only [canonical_modFanTile, canonical_checkSlowed, canonical_driveDie, canonical_applyTile]

theorem canonical_setSlotMask {s : State} (h : Canonical s) (mask : Nat) : Canonical (setSlotMask s mask) := by
  unfold setSlotMask
  grind only [canonical_modKeeper, canonical_foldl, canonical_clearDev]

theorem canonical_zeroMemories {s : State} (h : Canonical s) : Canonical (zeroMemories s) :=
  ⟨twf_filter 0 s.mem _ h.1, twf_filter 0 s.chk _ h.2.1, h.2.2⟩

theorem canonical_provisionVtab {s : State} (h : Canonical s) (f : Frame) : Canonical (provisionVtab s f) := by
  unfold provisionVtab
  grind only [canonical_modFanTile, canonical_foldl, canonical_checkSlowed, canonical_driveDie, canonical_applyTile]

theorem canonical_provisionMap {s : State} (h : Canonical s) (f : Frame) : Canonical (provisionMap s f) := by
  unfold provisionMap
  grind only [canonical_foldl, canonical_setPhys, Canonical]

/-! ## Machine/MgmtFw -/

theorem canonical_trialSlot {s : State} (h : Canonical s) (i : Nat) : Canonical (trialSlot s i) := by
  unfold trialSlot
  grind only [canonical_setFwSt]

theorem canonical_approve {s : State} (h : Canonical s) (i : Nat) : Canonical (approve s i) := by
  unfold approve
  grind only [canonical_trialSlot, Canonical]

theorem canonical_startMarch {s : State} (h : Canonical s) (p : Nat) (banks : Nat) (preserving : Bool) : Canonical
    (startMarch s p banks preserving) := by
  unfold startMarch
  grind only [canonical_wakeBanks, canonical_modMpd]

/-! ## Machine/Stall -/

theorem canonical_bumpRun {s : State} (h : Canonical s) (d : Nat) (run : Option Nat) (cs : List Cause) : Canonical
    (bumpRun s d run cs) := by
  unfold bumpRun
  grind only [canonical_modRun]

/-! ## Machine/Step -/

theorem canonical_withFetchWord {s : State} (h : Canonical s) (nbits w : Nat) : Canonical (State.withFetchWord s nbits w) := by
  unfold State.withFetchWord
  grind only [Canonical]

end Sys2Proof.Proofs
end

section
/-! Every command keeps the canonical forms of storage (part 1). -/

namespace Sys2Proof.Proofs
open Sys2Proof Sys2Proof.Machine

/-! ## Machine/Issue -/

/-- An outcome that continues in the canonical forms. -/
inductive Kept : Out → Prop
  | next {t : State} (h : Canonical t) : Kept (.next t)

theorem kept_next {t : State} (h : Canonical t) : Kept (.next t) := .next h

theorem kept_issue {s : State} (h : Canonical s) {c : Core} {g : Guard} {f : Form} {body : State → Iss}
    (hb : ∀ u, Canonical u → Canonical (issState (body u))) : Kept (issue s c g f body) := by
  have hf := canonical_finish c f (hb s h)
  unfold issue
  refine .next ?_
  grind only [canonical_coreFault, canonical_advance, canonical_modSeqr]

theorem kept_issueReg {s : State} (h : Canonical s) (c : Core) (g : Guard) (f : Form) (eff : Seqr → Seqr) : Kept (issueReg s c g f eff) :=
  kept_issue h fun _ hu => (canonical_modSeqr ..).2 hu

/-! ## Machine/Lookup -/

theorem canonical_issState_ite {p : Prop} [Decidable p] {x y : Iss} (hx : Canonical (issState x)) (hy : Canonical (issState y)) :
    Canonical (issState (if p then x else y)) := by
  split <;> assumption

theorem kept_issueLookup {s : State} (hs : Canonical s) (k : LaccKind) (c : Core) (g : Guard) (aw : BitVec 4) (h : Bool) (bin0 : BitVec 3)
    (m : BitVec 6) (blk0 nblk : BitVec 12) (wring : BitVec 16) (n : BitVec 15) (woff : BitVec 32) :
    Kept (issueLookup k c g aw h bin0 m blk0 nblk wring n woff s) := by
  unfold issueLookup
  refine kept_issue hs fun u hu => canonical_onTile hu _ _ fun l r => ?_
  have ht := canonical_takeIseq hu l
  dsimp only
  generalize (if wring = 0xFFFF then none else some wring.toNat) = ring
  generalize (if h then (u.tile (u.phys l)).iss1 else (u.tile (u.phys l)).iss0) = hr
  cases hr with
  | none => exact hu
  | some hr =>
    refine canonical_issState_ite hu (canonical_issState_ite hu ?_)
    cases ring with
    | none =>
      simp only [issState, canonical_modTile]
      exact ht
    | some q =>
      simp only [issState, canonical_modTile, canonical_modRing]
      exact ht

/-! ## Machine/Atomics -/

theorem kept_issueAtom {s : State} (h : Canonical s) (c : Core) (g : Guard) (k : AtomKind) (sd sa : BitVec 5) (ab : BitVec 4)
    (off : BitVec 32) : Kept (issueAtom c g k sd sa ab off s) := by
  unfold issueAtom
  refine kept_issue h fun u hu => ?_
  grind only [issState, canonical_onTile, canonical_queueAtom, canonical_await, canonical_queueSvc]

/-! ## Machine/Scalar -/

theorem kept_rr {s : State} (h : Canonical s) (c : Core) (g : Guard) (sd sa sb : BitVec 5) (f : W64 → W64 → W64) :
    Kept (rr s c g sd sa sb f) := kept_issueReg h ..

theorem kept_ri {s : State} (h : Canonical s) (c : Core) (g : Guard) (sd sa : BitVec 5) (imm : BitVec 32) (f : W64 → W64 → W64) :
    Kept (ri s c g sd sa imm f) := kept_issueReg h ..

/-! ## Machine/Ports -/

theorem kept_execCrossingClockStop {s : State} (h : Canonical s) (x : Nat) : Kept (execCrossingClockStop x s) := by
  unfold execCrossingClockStop
  refine kept_next ?_
  grind only [canonical_modCrossing]

theorem kept_execCrossingClockReturn {s : State} (h : Canonical s) (x : Nat) : Kept (execCrossingClockReturn x s) := by
  unfold execCrossingClockReturn
  refine kept_next ?_
  grind only [canonical_modCrossing]

theorem kept_execLaneAlignmentLoss {s : State} (h : Canonical s) (port : Nat) : Kept (execLaneAlignmentLoss port s) := by
  unfold execLaneAlignmentLoss
  refine kept_next ?_
  grind only [canonical_portDown, canonical_modPort]

theorem kept_execPortSilence {s : State} (h : Canonical s) (port : Nat) : Kept (execPortSilence port s) := by
  unfold execPortSilence
  refine kept_next ?_
  grind only [canonical_portDown]

theorem kept_execLaneAlignment {s : State} (h : Canonical s) (port : Nat) (lanes : BitVec 8) : Kept (execLaneAlignment port lanes s) := by
  unfold execLaneAlignment
  refine kept_next ?_
  grind only [canonical_modPort]

theorem kept_execPortId {s : State} (h : Canonical s) (port : Nat) (switchId : BitVec 16) (switchPort : BitVec 8) (plane : BitVec 4)
    : Kept (execPortId port switchId switchPort plane s) := by
  unfold execPortId
  refine kept_next ?_
  grind only [canonical_modPort]

theorem kept_execCreditInit {s : State} (h : Canonical s) (port : Nat) : Kept (execCreditInit port s) := by
  unfold execCreditInit
  refine kept_next ?_
  grind only [canonical_modPort, Canonical]

theorem kept_execFlitReceive {s : State} (h : Canonical s) (port : Nat) (f : FlitIn) : Kept (execFlitReceive port f s) := by
  unfold execFlitReceive
  refine kept_next ?_
  grind only [canonical_modPort, canonical_portDown]

theorem kept_execPacketSend {s : State} (h : Canonical s) : Kept (execPacketSend s) := by
  unfold execPacketSend
  refine kept_next ?_
  grind only [canonical_ctrlNext, canonical_modPort, Canonical]

theorem kept_execStackRetraining {s : State} (h : Canonical s) (stack : Nat) : Kept (execStackRetraining stack s) := by
  unfold execStackRetraining
  refine kept_next ?_
  grind only [canonical_resetGroup]

theorem kept_execD2dLinkRetraining {s : State} (h : Canonical s) (link : Nat) : Kept (execD2dLinkRetraining link s) := by
  unfold execD2dLinkRetraining
  refine kept_next ?_
  grind only [canonical_resetGroup]

/-! ## Machine/Units -/

theorem kept_execMarchDone {s : State} (h : Canonical s) (p : Nat) (fails : List RowFail) : Kept (execMarchDone p fails s) := by
  unfold execMarchDone
  refine kept_next ?_
  grind only [canonical_auditEnd, canonical_modMpd, canonical_marchZero, canonical_serviceRetire]

theorem kept_execEccWriteback {s : State} (h : Canonical s) (p word : Nat) : Kept (execEccWriteback p word s) := by
  unfold execEccWriteback
  refine kept_next ?_
  grind only [canonical_modMpd, canonical_setWord]

theorem kept_execRetentionEntry {s : State} (h : Canonical s) (p bank : Nat) : Kept (execRetentionEntry p bank s) := by
  unfold execRetentionEntry
  refine kept_next ?_
  grind only [canonical_modMpd]

theorem kept_execBankWakeRequest {s : State} (h : Canonical s) (p : Nat) : Kept (execBankWakeRequest p s) := by
  unfold execBankWakeRequest
  refine kept_next ?_
  grind only [canonical_wakeBanks]

theorem kept_execBankWakeDone {s : State} (h : Canonical s) (p bank : Nat) : Kept (execBankWakeDone p bank s) := by
  unfold execBankWakeDone
  refine kept_next ?_
  grind only [canonical_modMpd]

theorem kept_execUnitEnableRequest {s : State} (h : Canonical s) (u : EnUnit) : Kept (execUnitEnableRequest u s) := by
  unfold execUnitEnableRequest
  refine kept_next ?_
  grind only [canonical_requestUnit]

theorem kept_execUnitDisableRequest {s : State} (h : Canonical s) (u : EnUnit) : Kept (execUnitDisableRequest u s) := by
  unfold execUnitDisableRequest
  refine kept_next ?_
  grind only [canonical_requestUnit]

theorem kept_execEnableComplete {s : State} (h : Canonical s) (u : EnUnit) : Kept (execEnableComplete u s) := by
  unfold execEnableComplete
  refine kept_next ?_
  grind only [canonical_turnOn, canonical_modUnit]

theorem kept_execEnableFail {s : State} (h : Canonical s) (u : EnUnit) : Kept (execEnableFail u s) := by
  unfold execEnableFail
  refine kept_next ?_
  grind only [canonical_turnOff, canonical_modUnit, canonical_auditDevice]

theorem kept_execDisableComplete {s : State} (h : Canonical s) (u : EnUnit) : Kept (execDisableComplete u s) := by
  unfold execDisableComplete
  refine kept_next ?_
  grind only [canonical_turnOff, canonical_modUnit, canonical_beginEnable]

theorem kept_execSetpointReached {s : State} (h : Canonical s) (p : Nat) : Kept (execSetpointReached p s) := by
  unfold execSetpointReached
  refine kept_next ?_
  grind only [canonical_driveDie, canonical_modFanTile]

/-! ## Machine/Fantail -/

theorem kept_execRateWindow {s : State} (h : Canonical s) (p : Nat) : Kept (execRateWindow p s) := by
  unfold execRateWindow
  refine kept_next ?_
  grind only [canonical_modTile]

theorem kept_execOscCalibration {s : State} (h : Canonical s) (tiles dies ports : List (Nat × W32)) : Kept
    (execOscCalibration tiles dies ports s) := by
  unfold execOscCalibration
  refine kept_next ?_
  grind only [canonical_foldl, canonical_setPeriod, canonical_modMrc, Canonical]

theorem kept_execPowerSample {s : State} (h : Canonical s) (deciwatts : Nat) : Kept (execPowerSample deciwatts s) := by
  unfold execPowerSample
  refine kept_next ?_
  grind only [Canonical]

theorem kept_execCapLoop {s : State} (h : Canonical s) : Kept (execCapLoop s) := by
  unfold execCapLoop
  refine kept_next ?_
  grind only [canonical_capLower, canonical_capRaise, Canonical]

theorem kept_execSensorRead {s : State} (h : Canonical s) (readings : List (Nat × Int)) : Kept (execSensorRead readings s) := by
  unfold execSensorRead
  refine kept_next ?_
  grind only [canonical_foldl, canonical_modFanTile, canonical_brakeOn, Canonical]

theorem kept_execBrakeRelease {s : State} (h : Canonical s) : Kept (execBrakeRelease s) := by
  unfold execBrakeRelease
  refine kept_next ?_
  grind only [Canonical]

theorem kept_execBrakeLevelRaise {s : State} (h : Canonical s) : Kept (execBrakeLevelRaise s) := by
  unfold execBrakeLevelRaise
  refine kept_next ?_
  grind only [canonical_applyLevel, canonical_refreshAlert, canonical_postBrake, Canonical]

theorem kept_execReadyLevelRaise {s : State} (h : Canonical s) : Kept (execReadyLevelRaise s) := by
  unfold execReadyLevelRaise
  refine kept_next ?_
  grind only [canonical_applyLevel, Canonical]

theorem kept_execThermalTrip {s : State} (h : Canonical s) (p : Nat) : Kept (execThermalTrip p s) := by
  unfold execThermalTrip
  refine kept_next ?_
  grind only [canonical_foldl, canonical_modFanTile, Canonical]

theorem kept_execAvsTransactionDone {s : State} (h : Canonical s) (rail : Nat) (good : Bool) : Kept
    (execAvsTransactionDone rail good s) := by
  unfold execAvsTransactionDone
  refine kept_next ?_
  grind only [canonical_driveDie, canonical_refreshAvs, Canonical]

theorem kept_execSlowdown {s : State} (h : Canonical s) (m : FanMsg) : Kept (execSlowdown m s) := by
  unfold execSlowdown
  refine kept_next ?_
  grind only [→ canonical_takeMsg, canonical_refreshGcap, canonical_setNotice, canonical_postSlowdown, ! canonical_groupMembers,
      canonical_headSlow]

theorem kept_execRecover {s : State} (h : Canonical s) (m : FanMsg) : Kept (execRecover m s) := by
  unfold execRecover
  refine kept_next ?_
  grind only [→ canonical_takeMsg, canonical_dropNotice]

theorem kept_execSkew {s : State} (h : Canonical s) (m : FanMsg) : Kept (execSkew m s) := by
  unfold execSkew
  refine kept_next ?_
  grind only [→ canonical_takeMsg, ! canonical_groupMembers, canonical_moveTokens, Canonical]

theorem kept_execTokens {s : State} (h : Canonical s) (m : FanMsg) : Kept (execTokens m s) := by
  unfold execTokens
  refine kept_next ?_
  grind only [→ canonical_takeMsg, Canonical]

theorem kept_execMode {s : State} (h : Canonical s) (m : FanMsg) : Kept (execMode m s) := by
  unfold execMode
  refine kept_next ?_
  grind only [→ canonical_takeMsg, canonical_setMode]

theorem kept_execSlowdownRepeat {s : State} (h : Canonical s) : Kept (execSlowdownRepeat s) := by
  unfold execSlowdownRepeat
  refine kept_next ?_
  grind only [canonical_sendSlowdown]

theorem kept_execSlowdownNoticeExpiry {s : State} (h : Canonical s) (dev : Nat) : Kept (execSlowdownNoticeExpiry dev s) := by
  unfold execSlowdownNoticeExpiry
  refine kept_next ?_
  grind only [canonical_dropNotice]

/-! ## Machine/Tables -/

theorem kept_execTblBuild {s : State} (hs : Canonical s) (c : Core) (g : Guard) (as_ : BitVec 4) (h : Bool) (enc : BitVec 3)
    (bpos : BitVec 2) (ifmt : BitVec 4) (m : BitVec 6) (nb : BitVec 12) (ars acb : BitVec 4) (rsn : Bool) (krem rstride : BitVec 16)
    : Kept (execTblBuild c g as_ h enc bpos ifmt m nb ars acb rsn krem rstride s) := by
  unfold execTblBuild
  refine kept_issue hs fun u hu => ?_
  grind only [issState, canonical_onTile, canonical_enqHop]

theorem kept_execTblSave {s : State} (hs : Canonical s) (c : Core) (g : Guard) (ab : BitVec 4) (h : Bool) (off : BitVec 32) : Kept
    (execTblSave c g ab h off s) := by
  unfold execTblSave
  refine kept_issue hs fun u hu => ?_
  grind only [issState, canonical_onTile, canonical_enqHop]

theorem kept_execTblLoad {s : State} (hs : Canonical s) (c : Core) (g : Guard) (as_ : BitVec 4) (h : Bool) (enc : BitVec 3)
    (bpos : BitVec 2) (ifmt : BitVec 4) (m : BitVec 6) (nb : BitVec 12) (ars acb : BitVec 4) (rsn : Bool) : Kept
    (execTblLoad c g as_ h enc bpos ifmt m nb ars acb rsn s) := by
  unfold execTblLoad
  refine kept_issue hs fun u hu => ?_
  grind only [issState, canonical_onTile, canonical_enqHop]

theorem kept_execTableBuildDone {s : State} (h : Canonical s) (l : Nat) : Kept (execTableBuildDone l s) := by
  have hbuild := canonical_buildHalf h (s.phys l)
  have hload := canonical_loadHalf h (s.phys l)
  obtain ⟨f, hf⟩ : ∃ f, f = buildHalf := ⟨_, rfl⟩
  obtain ⟨f', hf'⟩ : ∃ f, f = loadHalf := ⟨_, rfl⟩
  obtain ⟨F, hF⟩ : ∃ F, F = execTableBuildDone := ⟨_, rfl⟩
  rw [← hF]
  delta execTableBuildDone at hF
  rw [← hf, ← hf'] at hF
  rw [← hf] at hbuild
  rw [← hf'] at hload
  rw [hF]
  refine .next ?_
  split
  · exact canonical_tileHs ((canonical_modTile ..).2 (hbuild ..)) ..
  · exact canonical_tileHs ((canonical_modTile ..).2 (hload ..)) ..
  · exact h

theorem kept_execTableSaveDone {s : State} (h : Canonical s) (l : Nat) : Kept (execTableSaveDone l s) := by
  unfold execTableSaveDone
  refine kept_next ?_
  grind only [canonical_writeWords, canonical_tileHs, canonical_modTile]

/-! ## Machine/Lookup -/

theorem kept_execLaccBin {s : State} (hs : Canonical s) (c : Core) (g : Guard) (aw : BitVec 4) (h : Bool) (bin0 : BitVec 3) (m : BitVec 6)
    (blk0 nblk : BitVec 12) (wring : BitVec 16) (n : BitVec 15) (woff : BitVec 32) : Kept
    (execLaccBin c g aw h bin0 m blk0 nblk wring n woff s) := kept_issueLookup hs ..

theorem kept_execLaccTer {s : State} (hs : Canonical s) (c : Core) (g : Guard) (aw : BitVec 4) (h : Bool) (bin0 : BitVec 3) (m : BitVec 6)
    (blk0 nblk : BitVec 12) (wring : BitVec 16) (n : BitVec 15) (woff : BitVec 32) : Kept
    (execLaccTer c g aw h bin0 m blk0 nblk wring n woff s) := kept_issueLookup hs ..

theorem kept_execLaccI2 {s : State} (hs : Canonical s) (c : Core) (g : Guard) (aw : BitVec 4) (h : Bool) (bin0 : BitVec 3) (m : BitVec 6)
    (blk0 nblk : BitVec 12) (wring : BitVec 16) (n : BitVec 15) (woff : BitVec 32) : Kept
    (execLaccI2 c g aw h bin0 m blk0 nblk wring n woff s) := kept_issueLookup hs ..

theorem kept_execLaccI3 {s : State} (hs : Canonical s) (c : Core) (g : Guard) (aw : BitVec 4) (h : Bool) (bin0 : BitVec 3) (m : BitVec 6)
    (blk0 nblk : BitVec 12) (wring : BitVec 16) (n : BitVec 15) (woff : BitVec 32) : Kept
    (execLaccI3 c g aw h bin0 m blk0 nblk wring n woff s) := kept_issueLookup hs ..

theorem kept_execLaccI4 {s : State} (hs : Canonical s) (c : Core) (g : Guard) (aw : BitVec 4) (h : Bool) (bin0 : BitVec 3) (m : BitVec 6)
    (blk0 nblk : BitVec 12) (wring : BitVec 16) (n : BitVec 15) (woff : BitVec 32) : Kept
    (execLaccI4 c g aw h bin0 m blk0 nblk wring n woff s) := kept_issueLookup hs ..

theorem kept_execLaccCb {s : State} (hs : Canonical s) (c : Core) (g : Guard) (aw : BitVec 4) (h : Bool) (bin0 : BitVec 3) (m : BitVec 6)
    (blk0 nblk : BitVec 12) (wring : BitVec 16) (n : BitVec 15) (woff : BitVec 32) : Kept
    (execLaccCb c g aw h bin0 m blk0 nblk wring n woff s) := kept_issueLookup hs ..

theorem kept_execLaccFp4 {s : State} (hs : Canonical s) (c : Core) (g : Guard) (aw : BitVec 4) (h : Bool) (bin0 : BitVec 3) (m : BitVec 6)
    (blk0 nblk : BitVec 12) (wring : BitVec 16) (n : BitVec 15) (woff : BitVec 32) : Kept
    (execLaccFp4 c g aw h bin0 m blk0 nblk wring n woff s) := kept_issueLookup hs ..

theorem kept_execWave {s : State} (h : Canonical s) (l : Nat) : Kept (execWave l s) := by
  unfold execWave
  refine kept_next ?_
  grind only [canonical_doWave]

theorem kept_execAnchorRaise {s : State} (h : Canonical s) (l bin : Nat) : Kept (execAnchorRaise l bin s) := by
  unfold execAnchorRaise
  refine kept_next ?_
  grind only [canonical_tileHs, canonical_modTile]

/-! ## Machine/Bins -/

theorem kept_execBinOpen {s : State} (h : Canonical s) (c : Core) (g : Guard) (bin : BitVec 3) (src : BitVec 2) (anchMode : Bool)
    (head : BitVec 4) (gsMode gsize : BitVec 2) (apre ags : BitVec 4) (nRow : BitVec 12) (linb : BitVec 3) (anch : BitVec 16)
    (nCh : BitVec 15) : Kept (execBinOpen c g bin src anchMode head gsMode gsize apre ags nRow linb anch nCh s) := by
  unfold execBinOpen
  refine kept_issue h fun u hu => ?_
  grind only [issState, canonical_onTile, ! canonical_takeIseq, canonical_modTile]

theorem kept_execPreloadDone {s : State} (h : Canonical s) (l : Nat) : Kept (execPreloadDone l s) := by
  unfold execPreloadDone
  refine kept_next ?_
  grind only [! canonical_readPre, canonical_machineFault, canonical_tileHs, canonical_modTile]

theorem kept_execBinCloseReadDone {s : State} (h : Canonical s) (l : Nat) : Kept (execBinCloseReadDone l s) := by
  unfold execBinCloseReadDone
  refine kept_next ?_
  grind only [canonical_tileHs, canonical_modTile]

/-! ## Machine/Tailrace -/

theorem kept_execBinClose {s : State} (h : Canonical s) (c : Core) (g : Guard) (bin : BitVec 3) (dest : BitVec 2) (ab : BitVec 4)
    (off : BitVec 32) : Kept (execBinClose c g bin dest ab off s) := by
  unfold execBinClose
  refine kept_issue h fun u hu => ?_
  grind only [issState, canonical_onTile, canonical_closeTail, canonical_closeStore, canonical_closeAdd]

theorem kept_execBinCloseDone {s : State} (h : Canonical s) (l iseq : Nat) : Kept (execBinCloseDone l iseq s) := by
  unfold execBinCloseDone
  refine kept_next ?_
  grind only [canonical_endClose, ! canonical_closeWrites, canonical_failClose, canonical_modTile]

/-! ## Machine/Streams -/

theorem kept_execTransferIssue {s : State} (h : Canonical s) (k : Nat) : Kept (execTransferIssue k s) := by
  unfold execTransferIssue
  refine kept_next ?_
  grind only [! canonical_issueNext, canonical_markServed]

theorem kept_execTransferAck {s : State} (h : Canonical s) (k xid : Nat) : Kept (execTransferAck k xid s) := by
  unfold execTransferAck
  refine kept_next ?_
  grind only [canonical_ackXfer, ! canonical_fillFlume, canonical_failXfer, ! canonical_xferWords, ! canonical_storeAll, canonical_modSlot]

theorem kept_execPassEnd {s : State} (h : Canonical s) (k : Nat) : Kept (execPassEnd k s) := by
  unfold execPassEnd
  refine kept_next ?_
  grind only [canonical_passArrival, canonical_modSlot, canonical_freeSlot, canonical_passDown, canonical_progress]

theorem kept_execStreamHalt {s : State} (h : Canonical s) (k : Nat) : Kept (execStreamHalt k s) := by
  unfold execStreamHalt
  refine kept_next ?_
  grind only [canonical_haltSlot, canonical_wdogFault]

theorem kept_execDeadlockWatchdog {s : State} (h : Canonical s) (k : Nat) : Kept (execDeadlockWatchdog k s) := by
  unfold execDeadlockWatchdog
  refine kept_next ?_
  grind only [canonical_postEvent, canonical_foldl, canonical_wdogSlot]

theorem kept_execWeirRefill {s : State} (h : Canonical s) (die ctx : Nat) : Kept (execWeirRefill die ctx s) := by
  unfold execWeirRefill
  refine kept_next ?_
  grind only [canonical_modWeir]

theorem kept_execGristDecodeBlock {s : State} (h : Canonical s) (k xid : Nat) : Kept (execGristDecodeBlock k xid s) := by
  unfold execGristDecodeBlock
  refine kept_next ?_
  repeat' split
  all_goals grind only [! canonical_fetchBytes, ! canonical_laneWords, canonical_failXfer, canonical_countDec, canonical_servedXfer,
      ! canonical_freeBytes, canonical_reportCause]

theorem kept_execGristEncodeBlock {s : State} (h : Canonical s) (k xid : Nat) : Kept (execGristEncodeBlock k xid s) := by
  unfold execGristEncodeBlock
  refine kept_next ?_
  grind only [! canonical_laneWords, canonical_failXfer, canonical_modGrs, canonical_countEnc, canonical_servedXfer, ! canonical_strmAddr,
      ! canonical_writeSub, canonical_sendReq, canonical_modSlot]

/-! ## Machine/StrmIsa -/

theorem kept_execStrmArm {s : State} (h : Canonical s) (c : Core) (g : Guard) (ab : BitVec 4) (slot : BitVec 6) (off : BitVec 32) : Kept
    (execStrmArm c g ab slot off s) := by
  unfold execStrmArm
  refine kept_issue h fun u hu => ?_
  grind only [issState, canonical_onTile, canonical_armTileAt, canonical_armSvc]

theorem kept_execStrmRearm {s : State} (h : Canonical s) (c : Core) (g : Guard) (slot : BitVec 6) (sa sb : BitVec 5) (kd ki : Bool) : Kept
    (execStrmRearm c g slot sa sb kd ki s) := by
  unfold execStrmRearm
  refine kept_issue h fun u hu => ?_
  grind only [issState, ! canonical_takeIseq, ! canonical_passIssue, canonical_modTile, canonical_rearmSlot]

theorem kept_execStrmWait {s : State} (h : Canonical s) (c : Core) (g : Guard) (slot : BitVec 6) : Kept (execStrmWait c g slot s) := by
  unfold execStrmWait
  refine kept_issue h fun u hu => ?_
  grind only [issState]

theorem kept_execStrmHalt {s : State} (h : Canonical s) (c : Core) (g : Guard) (slot : BitVec 6) : Kept (execStrmHalt c g slot s) := by
  unfold execStrmHalt
  refine kept_issue h fun u hu => ?_
  grind only [issState, canonical_haltStrm]

theorem kept_execQueuedOperationStart {s : State} (h : Canonical s) (l : Nat) (u : TileUnit) : Kept (execQueuedOperationStart l u s) := by
  unfold execQueuedOperationStart
  refine kept_next ?_
  grind only [canonical_startHop, canonical_startLook, canonical_startBin, canonical_startStrmQ]

/-! ## Machine/Attention -/

theorem kept_execAttn {s : State} (h : Canonical s) (c : Core) (g : Guard) (ab eng : BitVec 4) (off : BitVec 32) : Kept
    (execAttn c g ab eng off s) := by
  unfold execAttn
  refine kept_issue h fun u hu => ?_
  grind only [issState, canonical_onTile, ! canonical_readBytes, ! canonical_takeIseq, canonical_modEngine]

theorem kept_execAttnOperationStart {s : State} (h : Canonical s) (e : Nat) : Kept (execAttnOperationStart e s) := by
  unfold execAttnOperationStart
  refine kept_next ?_
  grind only [! canonical_startHeads, canonical_modEngine, canonical_modSlot, canonical_progress]

theorem kept_execAttnPage {s : State} (h : Canonical s) (e : Nat) : Kept (execAttnPage e s) := by
  unfold execAttnPage
  refine kept_next ?_
  grind only [canonical_progress, canonical_modEngine]

theorem kept_execAttnOperationDone {s : State} (h : Canonical s) (e : Nat) : Kept (execAttnOperationDone e s) := by
  unfold execAttnOperationDone
  refine kept_next ?_
  grind only [canonical_progress, canonical_endAttn, ! canonical_mergeHeads, canonical_failAttn, canonical_writeAttn]

/-! ## Machine/MemCmds -/

theorem kept_execPatrolScrub {s : State} (h : Canonical s) (stack : Nat) : Kept (execPatrolScrub stack s) := by
  unfold execPatrolScrub
  refine kept_next ?_
  grind only [canonical_scrubWords, canonical_modStack]

theorem kept_execSparingCopyDone {s : State} (h : Canonical s) (stack : Nat) : Kept (execSparingCopyDone stack s) := by
  unfold execSparingCopyDone
  refine kept_next ?_
  grind only [canonical_foldl, canonical_copyWord, canonical_modStack, canonical_postEvent]

theorem kept_execMemXlatInvalWrite {s : State} (h : Canonical s) (val : W64) (va48 : Bool) : Kept (execMemXlatInvalWrite val va48 s) := by
  unfold execMemXlatInvalWrite
  refine kept_next ?_
  grind only [canonical_startXlatInval, Canonical]

theorem kept_execXlatInvalDone {s : State} (h : Canonical s) : Kept (execXlatInvalDone s) := by
  unfold execXlatInvalDone
  refine kept_next ?_
  grind only [canonical_endXlatInval]

theorem kept_execHdrTblInvalWrite {s : State} (h : Canonical s) (val : W32) : Kept (execHdrTblInvalWrite val s) := by
  unfold execHdrTblInvalWrite
  refine kept_next ?_
  grind only [canonical_startTblInval]

theorem kept_execTblInvalDone {s : State} (h : Canonical s) : Kept (execTblInvalDone s) := by
  unfold execTblInvalDone
  refine kept_next ?_
  grind only [canonical_endTblInval]

/-! ## Machine/Governor -/

theorem kept_execRunEnd {s : State} (h : Canonical s) (die : Nat) (rid : Nat) : Kept (execRunEnd die rid s) := by
  unfold execRunEnd
  refine kept_next ?_
  grind only [canonical_tearDown, canonical_writeCpl]

theorem kept_execRunStopped {s : State} (h : Canonical s) (die : Nat) (rid : Nat) : Kept (execRunStopped die rid s) := by
  unfold execRunStopped
  refine kept_next ?_
  grind only [canonical_tearDown, canonical_writeCpl]

theorem kept_execDispatchCheck {s : State} (h : Canonical s) (die : Nat) : Kept (execDispatchCheck die s) := by
  unfold execDispatchCheck
  refine kept_next ?_
  grind only [canonical_takeRecord, ! canonical_checkRun, canonical_endUnstarted, canonical_modRun]

theorem kept_execDispatch {s : State} (h : Canonical s) (die : Nat) (rid : Nat) : Kept (execDispatch die rid s) := by
  unfold execDispatch
  refine kept_next ?_
  grind only [! canonical_checkRun, canonical_endUnstarted, canonical_foldl, canonical_modEngine, canonical_modLane, canonical_startTile,
      canonical_modRun]

end Sys2Proof.Proofs
end

section
/-! Every command keeps the canonical forms of storage (part 2). -/

namespace Sys2Proof.Proofs
open Sys2Proof Sys2Proof.Machine

/-! ## Machine/Governor -/

theorem kept_execRunAged {s : State} (h : Canonical s) (die : Nat) (rid : Nat) : Kept (execRunAged die rid s) := by
  unfold execRunAged
  refine kept_next ?_
  grind only [canonical_modRun]

theorem kept_execRunDeadlockWatchdog {s : State} (h : Canonical s) (die : Nat) (rid : Nat) : Kept (execRunDeadlockWatchdog die rid s) := by
  unfold execRunDeadlockWatchdog
  refine kept_next ?_
  grind only [canonical_faultRun]

theorem kept_execRunLimit {s : State} (h : Canonical s) (die : Nat) (rid : Nat) : Kept (execRunLimit die rid s) := by
  unfold execRunLimit
  refine kept_next ?_
  grind only [canonical_faultRun]

theorem kept_execTileRemapComplete {s : State} (h : Canonical s) (l : Nat) : Kept (execTileRemapComplete l s) := by
  unfold execTileRemapComplete
  refine kept_next ?_
  grind only [canonical_postRetired, canonical_auditEnd, canonical_modLTile, canonical_foldl, canonical_moveBlock, canonical_setPhys,
      canonical_modTile, canonical_postEvent]

theorem kept_execRunSubmit {s : State} (h : Canonical s) (c : Core) (g : Guard) (pd : BitVec 3) (ab : BitVec 4) (off : BitVec 32) : Kept
    (execRunSubmit c g pd ab off s) := by
  unfold execRunSubmit
  refine kept_issue h fun u hu => ?_
  grind only [issState, canonical_pushRecord, canonical_modSeqr]

theorem kept_execRunCancel {s : State} (h : Canonical s) (c : Core) (g : Guard) (sa sb : BitVec 5) : Kept (execRunCancel c g sa sb s) := by
  unfold execRunCancel
  refine kept_issue h fun u hu => ?_
  grind only [issState, canonical_cancelSeqno]

theorem kept_execResGrant {s : State} (h : Canonical s) (c : Core) (g : Guard) (sd sa sb : BitVec 5) : Kept
    (execResGrant c g sd sa sb s) := by
  unfold execResGrant
  refine kept_issue h fun u hu => ?_
  grind only [issState, canonical_setOwners]

theorem kept_execResFree {s : State} (h : Canonical s) (c : Core) (g : Guard) (sd sa sb : BitVec 5) : Kept
    (execResFree c g sd sa sb s) := by
  unfold execResFree
  refine kept_issue h fun u hu => ?_
  grind only [issState, canonical_modMiller]

theorem kept_execResFreeDone {s : State} (h : Canonical s) (c : Nat) : Kept (execResFreeDone c s) := by
  unfold execResFreeDone
  refine kept_next ?_
  grind only [canonical_freeBlocks, canonical_modMiller]

theorem kept_execHaltNoticeWrite {s : State} (h : Canonical s) (die : Nat) : Kept (execHaltNoticeWrite die s) := by
  unfold execHaltNoticeWrite
  refine kept_next ?_
  grind only [canonical_writeNotice, canonical_foldl, canonical_resumeSlot]

theorem kept_execStrmResume {s : State} (h : Canonical s) (c : Core) (g : Guard) (sa sb : BitVec 5) : Kept
    (execStrmResume c g sa sb s) := by
  unfold execStrmResume
  refine kept_issue h fun u hu => ?_
  grind only [issState, canonical_resumeSlot]

/-! ## Machine/Rings -/

theorem kept_execRingDescWrite {s : State} (h : Canonical s) (fn k : Nat) (off size : Nat) (val : W64) : Kept
    (execRingDescWrite fn k off size val s) := by
  unfold execRingDescWrite
  refine kept_next ?_
  grind only [canonical_ringWrite]

theorem kept_execRingEnable {s : State} (h : Canonical s) (fn k : Nat) : Kept (execRingEnable fn k s) := by
  unfold execRingEnable
  refine kept_next ?_
  grind only [canonical_modRing]

theorem kept_execRingDisable {s : State} (h : Canonical s) (fn k : Nat) : Kept (execRingDisable fn k s) := by
  unfold execRingDisable
  refine kept_next ?_
  grind only [canonical_modRing]

theorem kept_execRingDisableDone {s : State} (h : Canonical s) (ring : Nat) : Kept (execRingDisableDone ring s) := by
  unfold execRingDisableDone
  refine kept_next ?_
  grind only [canonical_modRing]

theorem kept_execSubmitDoorbell {s : State} (h : Canonical s) (fn k : Nat) (value : W32) (written : List (Nat × Byte)) : Kept
    (execSubmitDoorbell fn k value written s) := by
  unfold execSubmitDoorbell
  refine kept_next ?_
  grind only [canonical_hostWrites, canonical_doorbell]

theorem kept_execHeadDoorbell {s : State} (h : Canonical s) (fn k : Nat) (value : W32) : Kept (execHeadDoorbell fn k value s) := by
  unfold execHeadDoorbell
  refine kept_next ?_
  grind only [canonical_doorbell]

theorem kept_execRingArm {s : State} (h : Canonical s) (fn k : Nat) (value : W32) : Kept (execRingArm fn k value s) := by
  unfold execRingArm
  refine kept_next ?_
  grind only [canonical_doorbell]

theorem kept_execModerationExpiry {s : State} (h : Canonical s) (ring : Nat) : Kept (execModerationExpiry ring s) := by
  unfold execModerationExpiry
  refine kept_next ?_
  grind only [canonical_notify]

theorem kept_execHifFnRingsWrite {s : State} (h : Canonical s) (f : Nat) (val : W64) : Kept (execHifFnRingsWrite f val s) := by
  unfold execHifFnRingsWrite
  refine kept_next ?_
  grind only [canonical_writeFnRings]

theorem kept_execHifFnVecWrite {s : State} (h : Canonical s) (f : Nat) (val : W64) : Kept (execHifFnVecWrite f val s) := by
  unfold execHifFnVecWrite
  refine kept_next ?_
  grind only [canonical_writeFnVec]

theorem kept_execBar4Access {s : State} (h : Canonical s) (off : Nat) (data : Option (List Byte)) (size : Nat) : Kept
    (execBar4Access off data size s) := by
  unfold execBar4Access
  refine kept_next ?_
  repeat' split
  all_goals grind only [canonical_setRdata, ! canonical_bar4Read, ! canonical_writeBytes]

/-! ## Machine/Registers -/

theorem kept_execRegisterWrite {s : State} (h : Canonical s) (fn off size : Nat) (val : W64) : Kept
    (execRegisterWrite fn off size val s) := by
  unfold execRegisterWrite
  refine kept_next ?_
  grind only [canonical_regWrite]

theorem kept_execRegisterReadClear {s : State} (h : Canonical s) (fn off size : Nat) : Kept (execRegisterReadClear fn off size s) := by
  unfold execRegisterReadClear
  refine kept_next ?_
  grind only [canonical_setRdata, ! canonical_regRead]

/-! ## Machine/LoadStore -/

theorem kept_execLd {s : State} (h : Canonical s) (c : Core) (g : Guard) (sd : BitVec 5) (ab : BitVec 4) (sz : BitVec 2) (sx : Bool)
    (off : BitVec 32) : Kept (execLd c g sd ab sz sx off s) := by
  unfold execLd
  refine kept_issue h fun u hu => ?_
  grind only [issState, canonical_onTile, canonical_ldTile, canonical_ldSvc]

theorem kept_execSt {s : State} (h : Canonical s) (c : Core) (g : Guard) (sd : BitVec 5) (ab : BitVec 4) (sz : BitVec 2)
    (off : BitVec 32) : Kept (execSt c g sd ab sz off s) := by
  unfold execSt
  refine kept_issue h fun u hu => ?_
  grind only [issState, canonical_onTile, canonical_stTile, canonical_stSvc]

theorem canonical_issMap {i : Iss} (h : Canonical (issState i)) (f : State → State) (hf : ∀ u, Canonical u → Canonical (f u)) :
    Canonical (issState (i.map f)) := by
  cases i <;> exact hf _ h

theorem kept_execLdc {s : State} (h : Canonical s) (c : Core) (g : Guard) (sd : BitVec 5) (ab : BitVec 4) (sz : BitVec 2) (sx : Bool)
    (sc : BitVec 5) (off : BitVec 32) : Kept (execLdc c g sd ab sz sx sc off s) := by
  unfold execLdc
  refine kept_issue h fun u hu => ?_
  grind only [issState, ! canonical_ctxAddr, canonical_loadWord, canonical_loadRemote, canonical_requestFor, canonical_issMap]

theorem kept_execStc {s : State} (h : Canonical s) (c : Core) (g : Guard) (sd : BitVec 5) (ab : BitVec 4) (sz : BitVec 2) (sc : BitVec 5)
    (off : BitVec 32) : Kept (execStc c g sd ab sz sc off s) := by
  unfold execStc
  refine kept_issue h fun u hu => ?_
  grind only [issState, ! canonical_ctxAddr, ! canonical_writeSub, canonical_queueSvc]

/-! ## Machine/Atomics -/

theorem kept_execAtomAddI32 {s : State} (h : Canonical s) (c : Core) (g : Guard) (sd sa : BitVec 5) (ab : BitVec 4) (off : BitVec 32)
    : Kept (execAtomAddI32 c g sd sa ab off s) := kept_issueAtom h ..

theorem kept_execAtomAddF32 {s : State} (h : Canonical s) (c : Core) (g : Guard) (sd sa : BitVec 5) (ab : BitVec 4) (off : BitVec 32)
    : Kept (execAtomAddF32 c g sd sa ab off s) := kept_issueAtom h ..

theorem kept_execAtomAddP64 {s : State} (h : Canonical s) (c : Core) (g : Guard) (sd sa : BitVec 5) (ab : BitVec 4) (off : BitVec 32)
    : Kept (execAtomAddP64 c g sd sa ab off s) := kept_issueAtom h ..

theorem kept_execAtomSwap32 {s : State} (h : Canonical s) (c : Core) (g : Guard) (sd sa : BitVec 5) (ab : BitVec 4) (off : BitVec 32)
    : Kept (execAtomSwap32 c g sd sa ab off s) := kept_issueAtom h ..

theorem kept_execAtomSwap64 {s : State} (h : Canonical s) (c : Core) (g : Guard) (sd sa : BitVec 5) (ab : BitVec 4) (off : BitVec 32)
    : Kept (execAtomSwap64 c g sd sa ab off s) := kept_issueAtom h ..

theorem kept_execAtomSwap256 {s : State} (h : Canonical s) (c : Core) (g : Guard) (aw ab : BitVec 4) (off : BitVec 32) : Kept
    (execAtomSwap256 c g aw ab off s) := by
  unfold execAtomSwap256
  refine kept_issue h fun u hu => ?_
  grind only [issState, canonical_onTile, canonical_holdSwap, canonical_queueAtom, canonical_queueSvc]

theorem kept_execBankAtomicApply {s : State} (h : Canonical s) (c : Core) : Kept (execBankAtomicApply c s) := by
  unfold execBankAtomicApply
  refine kept_next ?_
  grind only [canonical_atomMake]

/-! ## Machine/Sync -/

theorem kept_execRingAttachP {s : State} (h : Canonical s) (c : Core) (g : Guard) (sa : BitVec 5) (imm : BitVec 32) : Kept
    (execRingAttachP c g sa imm s) := by
  unfold execRingAttachP
  refine kept_issue h fun u hu => ?_
  grind only [issState, canonical_withRing, canonical_attach]

theorem kept_execRingAttachC {s : State} (h : Canonical s) (c : Core) (g : Guard) (sa : BitVec 5) (imm : BitVec 32) : Kept
    (execRingAttachC c g sa imm s) := by
  unfold execRingAttachC
  refine kept_issue h fun u hu => ?_
  grind only [issState, canonical_withRing, canonical_attach]

theorem kept_execRingDetach {s : State} (h : Canonical s) (c : Core) (g : Guard) (sa : BitVec 5) (imm : BitVec 32) : Kept
    (execRingDetach c g sa imm s) := by
  unfold execRingDetach
  refine kept_issue h fun u hu => ?_
  grind only [issState, canonical_withRing, canonical_ringRoom, canonical_modRing, canonical_modSeqr]

theorem kept_execRingClaim {s : State} (h : Canonical s) (c : Core) (g : Guard) (sd sa : BitVec 5) (imm : BitVec 32) : Kept
    (execRingClaim c g sd sa imm s) := by
  unfold execRingClaim
  refine kept_issue h fun u hu => ?_
  grind only [issState, canonical_withRing, canonical_ringRoom, canonical_claimSlot]

theorem kept_execRingTake {s : State} (h : Canonical s) (c : Core) (g : Guard) (sd sa : BitVec 5) (imm : BitVec 32) : Kept
    (execRingTake c g sd sa imm s) := by
  unfold execRingTake
  refine kept_issue h fun u hu => ?_
  grind only [issState, canonical_withRing, canonical_ringRoom, canonical_takeSlot]

theorem kept_execRingPost {s : State} (h : Canonical s) (c : Core) (g : Guard) (sa : BitVec 5) (imm : BitVec 32) : Kept
    (execRingPost c g sa imm s) := by
  unfold execRingPost
  refine kept_issue h fun u hu => ?_
  grind only [issState, canonical_withRing, canonical_modHeld, canonical_modRing, ! canonical_takeIseq, canonical_modTile]

theorem kept_execRingGive {s : State} (h : Canonical s) (c : Core) (g : Guard) (sa : BitVec 5) (imm : BitVec 32) : Kept
    (execRingGive c g sa imm s) := by
  unfold execRingGive
  refine kept_issue h fun u hu => ?_
  grind only [issState, canonical_withRing, canonical_ringRoom, canonical_modHeld, canonical_modRing]

theorem kept_execSluiceArrive {s : State} (h : Canonical s) (c : Core) (g : Guard) (sa : BitVec 5) (imm : BitVec 32) : Kept
    (execSluiceArrive c g sa imm s) := by
  unfold execSluiceArrive
  refine kept_issue h fun u hu => ?_
  grind only [issState, canonical_onTile, canonical_queueAtom, canonical_arriveAt]

theorem kept_execSluiceWait {s : State} (h : Canonical s) (c : Core) (g : Guard) (sa : BitVec 5) (imm : BitVec 32) : Kept
    (execSluiceWait c g sa imm s) := by
  unfold execSluiceWait
  refine kept_issue h fun u hu => ?_
  grind only [issState]

theorem kept_execSluiceReset {s : State} (h : Canonical s) (c : Core) (g : Guard) (sd sa sb : BitVec 5) : Kept
    (execSluiceReset c g sd sa sb s) := by
  unfold execSluiceReset
  refine kept_issue h fun u hu => ?_
  grind only [issState, canonical_holdReset, canonical_queueSvc]

theorem kept_execFence {s : State} (h : Canonical s) (c : Core) (g : Guard) : Kept (execFence c g s) := by
  unfold execFence
  refine kept_issue h fun u hu => ?_
  grind only [issState]

theorem kept_execHringPeek {s : State} (h : Canonical s) (c : Core) (g : Guard) (pd : BitVec 3) (sa : BitVec 5) (ab : BitVec 4)
    (off : BitVec 32) : Kept (execHringPeek c g pd sa ab off s) := by
  unfold execHringPeek
  refine kept_issue h fun u hu => ?_
  grind only [issState, canonical_setBytes, ! canonical_headRecord, canonical_modSeqr]

theorem kept_execHringPop {s : State} (h : Canonical s) (c : Core) (g : Guard) (sa : BitVec 5) : Kept (execHringPop c g sa s) := by
  unfold execHringPop
  refine kept_issue h fun u hu => ?_
  grind only [issState, canonical_popHead]

theorem kept_execHringPush {s : State} (h : Canonical s) (c : Core) (g : Guard) (pd : BitVec 3) (sa : BitVec 5) (ab : BitVec 4)
    (off : BitVec 32) : Kept (execHringPush c g pd sa ab off s) := by
  unfold execHringPush
  refine kept_issue h fun u hu => ?_
  grind only [issState, canonical_pushFrom]

theorem kept_execEvtPost {s : State} (h : Canonical s) (c : Core) (g : Guard) (pd : BitVec 3) (sa : BitVec 5) (ab : BitVec 4)
    (off : BitVec 32) : Kept (execEvtPost c g pd sa ab off s) := by
  unfold execEvtPost
  refine kept_issue h fun u hu => ?_
  grind only [issState, canonical_pushFrom]

theorem kept_execGtabGrant {s : State} (h : Canonical s) (c : Core) (g : Guard) (sa sb : BitVec 5) : Kept (execGtabGrant c g sa sb s) := by
  unfold execGtabGrant
  refine kept_issue h fun u hu => ?_
  grind only [issState, canonical_modGSlot]

theorem kept_execGtabRevoke {s : State} (h : Canonical s) (c : Core) (g : Guard) (sa : BitVec 5) : Kept (execGtabRevoke c g sa s) := by
  unfold execGtabRevoke
  refine kept_issue h fun u hu => ?_
  grind only [issState, canonical_modGSlot]

theorem kept_execGtabInstall {s : State} (h : Canonical s) (c : Core) (g : Guard) (sd sa : BitVec 5) (ab aw : BitVec 4)
    (off : BitVec 32) : Kept (execGtabInstall c g sd sa ab aw off s) := by
  unfold execGtabInstall
  refine kept_issue h fun u hu => ?_
  grind only [issState, canonical_svcWrite, canonical_modGSlot]

theorem kept_execGtabInstallDone {s : State} (h : Canonical s) (slot : Nat) : Kept (execGtabInstallDone slot s) := by
  unfold execGtabInstallDone
  refine kept_next ?_
  grind only [canonical_svcWrite, canonical_modGSlot]

theorem canonical_sortWords_wait (n : Nat) {s : State} (h : Canonical s) (c : Core) (ctx base i : Nat) (have_ : List Word288)
    (acc : List Byte) {t : State} (e : (sortWords s c ctx base i have_ acc n).2 = .wait t) : Canonical t := by
  induction n generalizing s i have_ acc with
  | zero => grind only [sortWords]
  | succ n ih =>
    unfold sortWords at e
    split at e
    · grind only
    · grind only [! canonical_ctxAddr, ! canonical_readWord]
    · split at e
      · grind only [! canonical_ctxAddr]
      · grind only [! canonical_ctxAddr, canonical_requestFor, canonical_sendReq]

theorem kept_execPsort {s : State} (h : Canonical s) (c : Core) (g : Guard) (sd : BitVec 5) (ab : BitVec 4) (off : BitVec 32) :
    Kept (execPsort c g sd ab off s) := by
  unfold execPsort
  refine kept_issue h fun u hu => ?_
  dsimp only
  split
  · exact hu
  · next m =>
    split
    · exact hu
    · split
      · exact canonical_sortDone hu ..
      · split
        · grind only [issState, ! canonical_sortWords]
        · next he =>
          have hw := canonical_sortWords_wait _ hu _ _ _ _ _ _ (congrArg Prod.snd he)
          grind only [issState, canonical_modSeqr]
        · grind only [! canonical_sortWords, canonical_sortDone]

theorem kept_execSequencerResume {s : State} (h : Canonical s) (c : Core) : Kept (execSequencerResume c s) := by
  unfold execSequencerResume
  refine kept_next ?_
  grind only [canonical_modSeqr, canonical_loadAgain, canonical_advance, canonical_claimSlot, canonical_takeSlot]

/-! ## Machine/Fabric -/

theorem kept_execFabricLoad {s : State} (h : Canonical s) (pkt : Packet) : Kept (execFabricLoad pkt s) := by
  unfold execFabricLoad
  refine kept_next ?_
  grind only [canonical_receive]

theorem kept_execFabricStore {s : State} (h : Canonical s) (pkt : Packet) : Kept (execFabricStore pkt s) := by
  unfold execFabricStore
  refine kept_next ?_
  grind only [canonical_receive]

theorem kept_execFabricRead {s : State} (h : Canonical s) (pkt : Packet) : Kept (execFabricRead pkt s) := by
  unfold execFabricRead
  refine kept_next ?_
  grind only [canonical_receive]

theorem kept_execFabricWrite {s : State} (h : Canonical s) (pkt : Packet) : Kept (execFabricWrite pkt s) := by
  unfold execFabricWrite
  refine kept_next ?_
  grind only [canonical_receive]

theorem kept_execFabricAddI32 {s : State} (h : Canonical s) (pkt : Packet) : Kept (execFabricAddI32 pkt s) := by
  unfold execFabricAddI32
  refine kept_next ?_
  grind only [canonical_receive]

theorem kept_execFabricAddF32 {s : State} (h : Canonical s) (pkt : Packet) : Kept (execFabricAddF32 pkt s) := by
  unfold execFabricAddF32
  refine kept_next ?_
  grind only [canonical_receive]

theorem kept_execFabricAddP64 {s : State} (h : Canonical s) (pkt : Packet) : Kept (execFabricAddP64 pkt s) := by
  unfold execFabricAddP64
  refine kept_next ?_
  grind only [canonical_receive]

theorem kept_execFabricAddP64x4 {s : State} (h : Canonical s) (pkt : Packet) : Kept (execFabricAddP64x4 pkt s) := by
  unfold execFabricAddP64x4
  refine kept_next ?_
  grind only [canonical_receive]

theorem kept_execFabricSwap32 {s : State} (h : Canonical s) (pkt : Packet) : Kept (execFabricSwap32 pkt s) := by
  unfold execFabricSwap32
  refine kept_next ?_
  grind only [canonical_receive]

theorem kept_execFabricSwap64 {s : State} (h : Canonical s) (pkt : Packet) : Kept (execFabricSwap64 pkt s) := by
  unfold execFabricSwap64
  refine kept_next ?_
  grind only [canonical_receive]

theorem kept_execFabricSwap256 {s : State} (h : Canonical s) (pkt : Packet) : Kept (execFabricSwap256 pkt s) := by
  unfold execFabricSwap256
  refine kept_next ?_
  grind only [canonical_receive]

theorem kept_execFabricSluiceArrive {s : State} (h : Canonical s) (pkt : Packet) : Kept (execFabricSluiceArrive pkt s) := by
  unfold execFabricSluiceArrive
  refine kept_next ?_
  grind only [canonical_receive]

theorem kept_execReorderRelease {s : State} (h : Canonical s) (src oclass : Nat) : Kept (execReorderRelease src oclass s) := by
  unfold execReorderRelease
  refine kept_next ?_
  grind only [canonical_perform, canonical_respond, canonical_bumpHdr, Canonical]

theorem kept_execFabricResponse {s : State} (h : Canonical s) (pkt : Packet) : Kept (execFabricResponse pkt s) := by
  unfold execFabricResponse
  refine kept_next ?_
  grind only [canonical_completeReq, Canonical]

theorem kept_execRequestTimeout {s : State} (h : Canonical s) (tag : Nat) : Kept (execRequestTimeout tag s) := by
  unfold execRequestTimeout
  refine kept_next ?_
  grind only [canonical_completeReq, canonical_bumpHdr]

/-! ## Machine/Keepers -/

theorem kept_execKeeperAnnounce {s : State} (h : Canonical s) : Kept (execKeeperAnnounce s) := by
  unfold execKeeperAnnounce
  refine kept_next ?_
  grind only [canonical_modKeeper, canonical_takeSlotReport, canonical_sendCtrl]

theorem kept_execSlotReport {s : State} (h : Canonical s) (slot : Nat) (pid : BitVec 48) (leaf : BitVec 16) : Kept
    (execSlotReport slot pid leaf s) := by
  unfold execSlotReport
  refine kept_next ?_
  grind only [canonical_takeSlotReport]

theorem kept_execRackReport {s : State} (h : Canonical s) (leaf : BitVec 16) (slots : W32) : Kept (execRackReport leaf slots s) := by
  unfold execRackReport
  refine kept_next ?_
  grind only [canonical_takeRackReport]

theorem kept_execHallWait {s : State} (h : Canonical s) : Kept (execHallWait s) := by
  unfold execHallWait
  refine kept_next ?_
  grind only [canonical_closeHall]

theorem kept_execMapDistribution {s : State} (h : Canonical s) (gen : W32) (map : List (Nat × W32)) (devnum : Option Nat)
    (cause : Nat) : Kept (execMapDistribution gen map devnum cause s) := by
  unfold execMapDistribution
  refine kept_next ?_
  grind only [canonical_takeMap]

theorem kept_execJoin {s : State} (h : Canonical s) (slot : Nat) (pid : BitVec 48) (leaf : BitVec 16) : Kept
    (execJoin slot pid leaf s) := by
  unfold execJoin
  refine kept_next ?_
  grind only [canonical_noMap, canonical_sendJoin, canonical_hallJoin, canonical_rackJoin]

theorem kept_execMapChange {s : State} (h : Canonical s) (gen : W32) (dev : Nat) (present : Bool) : Kept
    (execMapChange gen dev present s) := by
  unfold execMapChange
  refine kept_next ?_
  grind only [canonical_applyChange]

theorem kept_execJoinRetry {s : State} (h : Canonical s) : Kept (execJoinRetry s) := by
  unfold execJoinRetry
  refine kept_next ?_
  grind only [canonical_sendJoin]

theorem kept_execKeeperHeartbeat {s : State} (h : Canonical s) : Kept (execKeeperHeartbeat s) := by
  unfold execKeeperHeartbeat
  refine kept_next ?_
  grind only [canonical_sendCtrl, canonical_modKeeper]

theorem kept_execHeartbeatMiss {s : State} (h : Canonical s) (slot : Nat) : Kept (execHeartbeatMiss slot s) := by
  unfold execHeartbeatMiss
  refine kept_next ?_
  grind only [canonical_clearDev]

theorem kept_execKeeperFailover {s : State} (h : Canonical s) (hall : Bool) : Kept (execKeeperFailover hall s) := by
  unfold execKeeperFailover
  refine kept_next ?_
  grind only [canonical_failover]

/-! ## Machine/Bind -/

theorem kept_execBind {s : State} (h : Canonical s) (ring : Nat) : Kept (execBind ring s) := by
  unfold execBind
  refine kept_next ?_
  grind only [canonical_bindTaken]

theorem kept_execUnbind {s : State} (h : Canonical s) (ring : Nat) : Kept (execUnbind ring s) := by
  unfold execUnbind
  refine kept_next ?_
  grind only [canonical_refuseRec, canonical_fwDo, canonical_consume, canonical_modCtx, canonical_stopLoads, canonical_settle]

/-! ## Machine/Admit -/

theorem kept_execOpAdmit {s : State} (h : Canonical s) (ring : Nat) : Kept (execOpAdmit ring s) := by
  unfold execOpAdmit
  refine kept_next ?_
  grind only [canonical_admitTaken]

theorem kept_execHeldRecordRetake {s : State} (h : Canonical s) (ring : Nat) : Kept (execHeldRecordRetake ring s) := by
  unfold execHeldRecordRetake
  refine kept_next ?_
  grind only [canonical_modRing, canonical_bindTaken, canonical_admitTaken]

theorem kept_execCancel {s : State} (h : Canonical s) (ring : Nat) : Kept (execCancel ring s) := by
  unfold execCancel
  refine kept_next ?_
  grind only [canonical_refuseRec, canonical_consume, canonical_fwDo, canonical_settle, canonical_finishDone, canonical_endSeq,
      canonical_modCtx]

theorem kept_execSubmissionUndefinedKind {s : State} (h : Canonical s) (ring : Nat) : Kept (execSubmissionUndefinedKind ring s) := by
  unfold execSubmissionUndefinedKind
  refine kept_next ?_
  grind only [canonical_refuseRec]

theorem kept_execCompletionRecordRetry {s : State} (h : Canonical s) (ring : Nat) : Kept (execCompletionRecordRetry ring s) := by
  unfold execCompletionRecordRetry
  refine kept_next ?_
  grind only [canonical_pushCpl, canonical_modRing, canonical_settle, canonical_releaseSeq]

/-! ## Machine/Resets -/

theorem kept_execVfFlr {s : State} (h : Canonical s) (v : Nat) : Kept (execVfFlr v s) := by
  unfold execVfFlr
  refine kept_next ?_
  grind only [canonical_resetFn]

theorem kept_execPfFlr {s : State} (h : Canonical s) : Kept (execPfFlr s) := by
  unfold execPfFlr
  refine kept_next ?_
  grind only [canonical_resetAllFns]

theorem kept_execHotReset {s : State} (h : Canonical s) : Kept (execHotReset s) := by
  unfold execHotReset
  refine kept_next ?_
  grind only [canonical_resetGroup, canonical_resetAllFns]

theorem kept_execPcieLinkDown {s : State} (h : Canonical s) : Kept (execPcieLinkDown s) := by
  unfold execPcieLinkDown
  refine kept_next ?_
  grind only [canonical_resetGroup, canonical_resetAllFns, Canonical]

theorem kept_execPcieLinkUp {s : State} (h : Canonical s) (width speed : Nat) : Kept (execPcieLinkUp width speed s) := by
  unfold execPcieLinkUp
  refine kept_next ?_
  grind only [Canonical]

theorem kept_execPerstNRelease {s : State} (h : Canonical s) : Kept (execPerstNRelease s) := by
  unfold execPerstNRelease
  refine kept_next ?_
  grind only [Canonical]

/-! ## Machine/Spill -/

theorem kept_execSequenceSpill {s : State} (h : Canonical s) (ctx seq : Nat) : Kept (execSequenceSpill ctx seq s) := by
  unfold execSequenceSpill
  refine kept_next ?_
  grind only [canonical_fwDo, canonical_spillSeq]

/-! ## Machine/Plan -/

theorem kept_execPlanStep {s : State} (h : Canonical s) (ctx : Nat) (ver : Bool) (runs : List PlanRun) (sluices combine : List
    (Nat × Nat)) (logitFmt : Nat) : Kept (execPlanStep ctx ver runs sluices combine logitFmt s) := by
  unfold execPlanStep
  refine kept_next ?_
  grind only [canonical_fwDo, canonical_submitRuns, canonical_settle, canonical_planStep]

/-! ## Machine/Sample -/

theorem kept_execStepSample {s : State} (h : Canonical s) (ctx : Nat) : Kept (execStepSample ctx s) := by
  unfold execStepSample
  refine kept_next ?_
  grind only [canonical_fwDo, canonical_collect, canonical_cancelLive, canonical_finishStep]

theorem kept_execCoreHandover {s : State} (h : Canonical s) (c : Nat) (ctx : Nat) (dest : Nat) : Kept (execCoreHandover c ctx dest s) := by
  unfold execCoreHandover
  refine kept_next ?_
  grind only [canonical_requestUnit, canonical_modCtx, canonical_moveRings, canonical_modMiller]

theorem kept_execCoreHalt {s : State} (h : Canonical s) (c : Nat) : Kept (execCoreHalt c s) := by
  unfold execCoreHalt
  refine kept_next ?_
  grind only [canonical_foldl, canonical_replan, canonical_modCtx, canonical_moveRings, canonical_modMiller, canonical_failTrial, Canonical]

theorem kept_execMillerCoreRestart {s : State} (h : Canonical s) (c : Nat) : Kept (execMillerCoreRestart c s) := by
  unfold execMillerCoreRestart
  refine kept_next ?_
  grind only [canonical_startCore]

/-! ## Machine/Weights -/

theorem kept_execLoad {s : State} (h : Canonical s) (ring : Nat) : Kept (execLoad ring s) := by
  unfold execLoad
  refine kept_next ?_
  grind only [canonical_refuseRec, canonical_fwDo, canonical_modVer, canonical_consume, canonical_settle, canonical_copyManifest]

theorem kept_execActivate {s : State} (h : Canonical s) (ring : Nat) : Kept (execActivate ring s) := by
  unfold execActivate
  refine kept_next ?_
  grind only [canonical_refuseRec, canonical_fwDo, canonical_settle, canonical_modVer, canonical_consume]

theorem kept_execDiscard {s : State} (h : Canonical s) (ring : Nat) : Kept (execDiscard ring s) := by
  unfold execDiscard
  refine kept_next ?_
  grind only [canonical_refuseRec, canonical_fwDo, canonical_stopLoad, canonical_askDiscard, canonical_consume, canonical_finishDone]

theorem kept_execSlotDiscard {s : State} (h : Canonical s) (ctx : Nat) : Kept (execSlotDiscard ctx s) := by
  unfold execSlotDiscard
  refine kept_next ?_
  grind only [canonical_fwDo, canonical_copyManifest, canonical_discardSlot]

theorem kept_execManifestVerified {s : State} (h : Canonical s) (ctx : Nat) : Kept (execManifestVerified ctx s) := by
  unfold execManifestVerified
  refine kept_next ?_
  grind only [canonical_modVer, canonical_fwDo, canonical_failLoad, canonical_postEvent, → canonical_takeAll]

theorem kept_execSourceReadyPoll {s : State} (h : Canonical s) (ctx shard : Nat) : Kept (execSourceReadyPoll ctx shard s) := by
  unfold execSourceReadyPoll
  refine kept_next ?_
  grind only [canonical_modShard]

theorem kept_execShardFetchDone {s : State} (h : Canonical s) (ctx shard : Nat) : Kept (execShardFetchDone ctx shard s) := by
  unfold execShardFetchDone
  refine kept_next ?_
  repeat' split
  all_goals grind only [canonical_fwDo, canonical_failLoad, canonical_takeShard, ! canonical_resolveGlobal, ! canonical_readBytes,
      canonical_serviceFault, ! canonical_freeBytes]

theorem kept_execShardMissing {s : State} (h : Canonical s) (ctx shard : Nat) : Kept (execShardMissing ctx shard s) := by
  unfold execShardMissing
  refine kept_next ?_
  grind only [canonical_fwDo, canonical_failLoad, canonical_postEvent]

/-! ## Machine/Boot -/

theorem kept_execPwrGoodFall {s : State} (h : Canonical s) (ns : Nat) : Kept (execPwrGoodFall ns s) := by
  unfold execPwrGoodFall
  refine kept_next ?_
  grind only [canonical_resetDevice]

end Sys2Proof.Proofs
end

section
/-! Every command keeps the canonical forms of storage (part 3). -/

namespace Sys2Proof.Proofs
open Sys2Proof Sys2Proof.Machine

/-! ## Machine/Boot -/

theorem kept_execMgtRestart {s : State} (h : Canonical s) : Kept (execMgtRestart s) := by
  unfold execMgtRestart
  refine kept_next ?_
  grind only [canonical_resetGroup, canonical_dropNonces, canonical_bootMgt, Canonical]

theorem kept_execMgtReachesService {s : State} (h : Canonical s) : Kept (execMgtReachesService s) := by
  unfold execMgtReachesService
  refine kept_next ?_
  grind only [canonical_reachService, Canonical]

theorem kept_execBringupStepDone {s : State} (h : Canonical s) (o : BootOutcome) (ms : Nat) : Kept (execBringupStepDone o ms s) := by
  refine kept_next (canonical_ite _ h ?_)
  cases hb : bootStep s (s.boot.step + 1) o ms with
  | none => exact h
  | some t => exact canonical_bootStep h _ _ _ hb

theorem kept_execBringupBoundMissed {s : State} (h : Canonical s) (ms : Nat) : Kept (execBringupBoundMissed ms s) := by
  unfold execBringupBoundMissed
  refine kept_next ?_
  grind only [canonical_failBoot]

theorem kept_execPowerGoodRise {s : State} (h : Canonical s) (slot : BitVec 5) (rkeep hkeep : BitVec 2) : Kept
    (execPowerGoodRise slot rkeep hkeep s) := by
  unfold execPowerGoodRise
  refine kept_next ?_
  grind only [canonical_bootMgt, Canonical]

theorem kept_execDrainedUpdate {s : State} (h : Canonical s) : Kept (execDrainedUpdate s) := by
  unfold execDrainedUpdate
  refine kept_next ?_
  grind only [canonical_setFwSt, canonical_foldl, canonical_startCore, canonical_turnOff, canonical_modMiller, canonical_auditDevice,
      canonical_openService, canonical_auditEnd, Canonical]

/-! ## Machine/I3cBus -/

theorem kept_execEntdaa {s : State} (h : Canonical s) (addr : BitVec 7) : Kept (execEntdaa addr s) := by
  unfold execEntdaa
  refine kept_next ?_
  grind only [Canonical]

theorem kept_execRstdaa {s : State} (h : Canonical s) : Kept (execRstdaa s) := by
  unfold execRstdaa
  refine kept_next ?_
  grind only [Canonical]

theorem kept_execSetnewda {s : State} (h : Canonical s) (addr : BitVec 7) : Kept (execSetnewda addr s) := by
  unfold execSetnewda
  refine kept_next ?_
  grind only [Canonical]

theorem kept_execHotJoin {s : State} (h : Canonical s) : Kept (execHotJoin s) := by
  unfold execHotJoin
  refine kept_next ?_
  grind only [Canonical]

theorem kept_execGetpid {s : State} (h : Canonical s) : Kept (execGetpid s) := by
  unfold execGetpid
  refine kept_next ?_
  grind only [canonical_cccRead]

theorem kept_execGetbcr {s : State} (h : Canonical s) : Kept (execGetbcr s) := by
  unfold execGetbcr
  refine kept_next ?_
  grind only [canonical_cccRead]

theorem kept_execGetdcr {s : State} (h : Canonical s) : Kept (execGetdcr s) := by
  unfold execGetdcr
  refine kept_next ?_
  grind only [canonical_cccRead]

theorem kept_execGetstatus {s : State} (h : Canonical s) : Kept (execGetstatus s) := by
  unfold execGetstatus
  refine kept_next ?_
  grind only [! canonical_takeFree, canonical_cccRead]

theorem kept_execSetmwl {s : State} (h : Canonical s) (n : Nat) : Kept (execSetmwl n s) := by
  unfold execSetmwl
  refine kept_next ?_
  grind only [Canonical]

theorem kept_execGetmwl {s : State} (h : Canonical s) : Kept (execGetmwl s) := by
  unfold execGetmwl
  refine kept_next ?_
  grind only [canonical_cccRead]

theorem kept_execSetmrl {s : State} (h : Canonical s) (n : Nat) : Kept (execSetmrl n s) := by
  unfold execSetmrl
  refine kept_next ?_
  grind only [Canonical]

theorem kept_execGetmrl {s : State} (h : Canonical s) : Kept (execGetmrl s) := by
  unfold execGetmrl
  refine kept_next ?_
  grind only [canonical_cccRead]

theorem kept_execEnec {s : State} (h : Canonical s) : Kept (execEnec s) := by
  unfold execEnec
  refine kept_next ?_
  grind only [Canonical]

theorem kept_execDisec {s : State} (h : Canonical s) : Kept (execDisec s) := by
  unfold execDisec
  refine kept_next ?_
  grind only [Canonical]

theorem kept_execRstact {s : State} (h : Canonical s) (action : Byte) : Kept (execRstact action s) := by
  unfold execRstact
  refine kept_next ?_
  grind only [Canonical]

theorem kept_execI3cPrivateRead {s : State} (h : Canonical s) : Kept (execI3cPrivateRead s) := by
  unfold execI3cPrivateRead
  refine kept_next ?_
  grind only [canonical_setAnswer, Canonical]

/-! ## Machine/MgmtCmds -/

theorem kept_execGetInfo {s : State} (h : Canonical s) (t : Transport) (f : Frame) : Kept (execGetInfo t f s) := by
  unfold execGetInfo
  refine kept_next ?_
  grind only [canonical_servePlain]

theorem kept_execGetNonce {s : State} (h : Canonical s) (t : Transport) (f : Frame) : Kept (execGetNonce t f s) := by
  unfold execGetNonce
  refine kept_next ?_
  grind only [canonical_servePlain, ! canonical_freshNonce, canonical_setNonces]

theorem kept_execNonceExpiry {s : State} (h : Canonical s) (t : Transport) (nonce : W64) : Kept (execNonceExpiry t nonce s) := by
  unfold execNonceExpiry
  refine kept_next ?_
  grind only [canonical_setNonces]

theorem kept_execAuditRead {s : State} (h : Canonical s) (t : Transport) (f : Frame) : Kept (execAuditRead t f s) := by
  unfold execAuditRead
  refine kept_next ?_
  grind only [canonical_servePlain]

theorem kept_execAuditHead {s : State} (h : Canonical s) (t : Transport) (f : Frame) : Kept (execAuditHead t f s) := by
  unfold execAuditHead
  refine kept_next ?_
  grind only [canonical_servePlain]

theorem kept_execAuditAck {s : State} (h : Canonical s) (t : Transport) (f : Frame) : Kept (execAuditAck t f s) := by
  unfold execAuditAck
  refine kept_next ?_
  grind only [canonical_serveAudited, canonical_refreshAlert, Canonical]

theorem kept_execSetCap {s : State} (h : Canonical s) (t : Transport) (f : Frame) : Kept (execSetCap t f s) := by
  unfold execSetCap
  refine kept_next ?_
  grind only [canonical_serveAudited, Canonical]

theorem kept_execSetCapRange {s : State} (h : Canonical s) (t : Transport) (f : Frame) : Kept (execSetCapRange t f s) := by
  unfold execSetCapRange
  refine kept_next ?_
  grind only [canonical_serveAudited, Canonical]

theorem kept_execSetGroupCfg {s : State} (h : Canonical s) (t : Transport) (f : Frame) : Kept (execSetGroupCfg t f s) := by
  unfold execSetGroupCfg
  refine kept_next ?_
  grind only [canonical_serveAudited, Canonical]

theorem kept_execSetDroop {s : State} (h : Canonical s) (t : Transport) (f : Frame) : Kept (execSetDroop t f s) := by
  unfold execSetDroop
  refine kept_next ?_
  grind only [canonical_serveAudited, canonical_applyLevel, Canonical]

theorem kept_execVtabWithdraw {s : State} (h : Canonical s) (t : Transport) (f : Frame) : Kept (execVtabWithdraw t f s) := by
  unfold execVtabWithdraw
  refine kept_next ?_
  grind only [canonical_serveAudited, canonical_setWithdrawn]

theorem kept_execVtabRestore {s : State} (h : Canonical s) (t : Transport) (f : Frame) : Kept (execVtabRestore t f s) := by
  unfold execVtabRestore
  refine kept_next ?_
  grind only [canonical_serveAudited, canonical_setWithdrawn]

theorem kept_execSetTopology {s : State} (h : Canonical s) (t : Transport) (f : Frame) : Kept (execSetTopology t f s) := by
  unfold execSetTopology
  refine kept_next ?_
  grind only [canonical_serveAudited, canonical_setSlotMask, canonical_modKeeper]

theorem kept_execSetLoadSpan {s : State} (h : Canonical s) (t : Transport) (f : Frame) : Kept (execSetLoadSpan t f s) := by
  unfold execSetLoadSpan
  refine kept_next ?_
  grind only [canonical_serveAudited, Canonical]

theorem kept_execPubkeyAdd {s : State} (h : Canonical s) (t : Transport) (f : Frame) : Kept (execPubkeyAdd t f s) := by
  unfold execPubkeyAdd
  refine kept_next ?_
  grind only [canonical_serveAudited, Canonical]

theorem kept_execPubkeyRemove {s : State} (h : Canonical s) (t : Transport) (f : Frame) : Kept (execPubkeyRemove t f s) := by
  unfold execPubkeyRemove
  refine kept_next ?_
  grind only [canonical_serveAudited, Canonical]

theorem kept_execPubkeyList {s : State} (h : Canonical s) (t : Transport) (f : Frame) : Kept (execPubkeyList t f s) := by
  unfold execPubkeyList
  refine kept_next ?_
  grind only [canonical_servePlain]

theorem kept_execOpkeyAdd {s : State} (h : Canonical s) (t : Transport) (f : Frame) : Kept (execOpkeyAdd t f s) := by
  unfold execOpkeyAdd
  refine kept_next ?_
  grind only [canonical_serveAudited, Canonical]

theorem kept_execOpkeyRemove {s : State} (h : Canonical s) (t : Transport) (f : Frame) : Kept (execOpkeyRemove t f s) := by
  unfold execOpkeyRemove
  refine kept_next ?_
  grind only [canonical_serveAudited, Canonical]

theorem kept_execInstallerKeySet {s : State} (h : Canonical s) (t : Transport) (f : Frame) : Kept (execInstallerKeySet t f s) := by
  unfold execInstallerKeySet
  refine kept_next ?_
  grind only [canonical_serveAudited, Canonical]

theorem kept_execRtvConsent {s : State} (h : Canonical s) (t : Transport) (f : Frame) : Kept (execRtvConsent t f s) := by
  unfold execRtvConsent
  refine kept_next ?_
  grind only [canonical_serveAudited, ! canonical_freshNonce, Canonical]

theorem kept_execRtvEnter {s : State} (h : Canonical s) (t : Transport) (f : Frame) : Kept (execRtvEnter t f s) := by
  unfold execRtvEnter
  refine kept_next ?_
  grind only [canonical_serveAudited, canonical_zeroMemories, Canonical]

theorem kept_execMakerDiag {s : State} (h : Canonical s) (t : Transport) (f : Frame) : Kept (execMakerDiag t f s) := by
  unfold execMakerDiag
  refine kept_next ?_
  grind only [canonical_serveAudited, ! canonical_takeFree]

theorem kept_execMakerProvision {s : State} (h : Canonical s) (t : Transport) (f : Frame) : Kept (execMakerProvision t f s) := by
  unfold execMakerProvision
  refine kept_next ?_
  grind only [canonical_serveAudited, canonical_provisionVtab, canonical_provisionMap]

/-! ## Machine/MgmtFw -/

theorem kept_execFwChunk {s : State} (h : Canonical s) (t : Transport) (f : Frame) : Kept (execFwChunk t f s) := by
  unfold execFwChunk
  refine kept_next ?_
  grind only [canonical_servePlain, canonical_modFwSlot]

theorem kept_execFwStage {s : State} (h : Canonical s) (t : Transport) (f : Frame) : Kept (execFwStage t f s) := by
  unfold execFwStage
  refine kept_next ?_
  grind only [canonical_serveAudited, canonical_modFwSlot, Canonical]

theorem kept_execFwApprove {s : State} (h : Canonical s) (t : Transport) (f : Frame) : Kept (execFwApprove t f s) := by
  unfold execFwApprove
  refine kept_next ?_
  grind only [canonical_serveAudited, canonical_approve]

theorem kept_execFwCommitSvn {s : State} (h : Canonical s) (t : Transport) (f : Frame) : Kept (execFwCommitSvn t f s) := by
  unfold execFwCommitSvn
  refine kept_next ?_
  grind only [canonical_serveAudited, Canonical]

theorem kept_execMarchReq {s : State} (h : Canonical s) (t : Transport) (f : Frame) : Kept (execMarchReq t f s) := by
  unfold execMarchReq
  refine kept_next ?_
  grind only [canonical_serveAudited, canonical_startMarch]

theorem kept_execTileRetire {s : State} (h : Canonical s) (t : Transport) (f : Frame) : Kept (execTileRetire t f s) := by
  unfold execTileRetire
  refine kept_next ?_
  grind only [canonical_serveAudited, canonical_serviceRetire]

theorem kept_execFrameRetire {s : State} (h : Canonical s) (t : Transport) (f : Frame) : Kept (execFrameRetire t f s) := by
  unfold execFrameRetire
  refine kept_next ?_
  grind only [canonical_serveAudited, canonical_retireFrame]

theorem kept_execPcSpare {s : State} (h : Canonical s) (t : Transport) (f : Frame) : Kept (execPcSpare t f s) := by
  unfold execPcSpare
  refine kept_next ?_
  grind only [canonical_serveAudited, canonical_sparePc]

theorem kept_execBar4Open {s : State} (h : Canonical s) (t : Transport) (f : Frame) : Kept (execBar4Open t f s) := by
  unfold execBar4Open
  refine kept_next ?_
  grind only [canonical_serveAudited, Canonical]

theorem kept_execBar4Close {s : State} (h : Canonical s) (t : Transport) (f : Frame) : Kept (execBar4Close t f s) := by
  unfold execBar4Close
  refine kept_next ?_
  grind only [canonical_serveAudited, Canonical]

theorem kept_execUnknownCommand {s : State} (h : Canonical s) (t : Transport) (opc : BitVec 16) (f : Frame) : Kept
    (execUnknownCommand t opc f s) := by
  unfold execUnknownCommand
  refine kept_next ?_
  grind only [canonical_answer, canonical_useNonce]

/-! ## Machine/Scalar -/

theorem kept_execNop {s : State} (h : Canonical s) (c : Core) (g : Guard) : Kept (execNop c g s) := by
  unfold execNop
  refine kept_issue h fun u hu => ?_
  grind only [issState]

theorem kept_execOpEnd {s : State} (h : Canonical s) (c : Core) (g : Guard) : Kept (execOpEnd c g s) := by
  unfold execOpEnd
  refine kept_issue h fun u hu => ?_
  grind only [issState, canonical_modSeqr, canonical_modMiller]

theorem kept_execBr {s : State} (h : Canonical s) (c : Core) (g : Guard) (imm : BitVec 32) : Kept (execBr c g imm s) := by
  unfold execBr
  refine kept_issue h fun u hu => ?_
  grind only [issState]

theorem kept_execJal {s : State} (h : Canonical s) (c : Core) (g : Guard) (sd : BitVec 5) (imm : BitVec 32) : Kept
    (execJal c g sd imm s) := by
  unfold execJal
  refine kept_issue h fun u hu => ?_
  grind only [issState, canonical_modSeqr]

theorem kept_execJr {s : State} (h : Canonical s) (c : Core) (g : Guard) (sa : BitVec 5) : Kept (execJr c g sa s) := by
  unfold execJr
  refine kept_issue h fun u hu => ?_
  grind only [issState]

theorem kept_execUndefinedEncoding {s : State} (h : Canonical s) (c : Core) (w0 w1 : W64) : Kept (execUndefinedEncoding c w0 w1 s) := by
  unfold execUndefinedEncoding
  refine kept_next ?_
  grind only [canonical_coreFault]

theorem kept_execAdd {s : State} (h : Canonical s) (c : Core) (g : Guard) (sd sa sb : BitVec 5) : Kept
    (execAdd c g sd sa sb s) := kept_rr h ..

theorem kept_execSub {s : State} (h : Canonical s) (c : Core) (g : Guard) (sd sa sb : BitVec 5) : Kept
    (execSub c g sd sa sb s) := kept_rr h ..

theorem kept_execMul {s : State} (h : Canonical s) (c : Core) (g : Guard) (sd sa sb : BitVec 5) : Kept
    (execMul c g sd sa sb s) := kept_rr h ..

theorem kept_execMulhu {s : State} (h : Canonical s) (c : Core) (g : Guard) (sd sa sb : BitVec 5) : Kept
    (execMulhu c g sd sa sb s) := kept_rr h ..

theorem kept_execOpAnd {s : State} (h : Canonical s) (c : Core) (g : Guard) (sd sa sb : BitVec 5) : Kept
    (execOpAnd c g sd sa sb s) := kept_rr h ..

theorem kept_execOpOr {s : State} (h : Canonical s) (c : Core) (g : Guard) (sd sa sb : BitVec 5) : Kept
    (execOpOr c g sd sa sb s) := kept_rr h ..

theorem kept_execOpXor {s : State} (h : Canonical s) (c : Core) (g : Guard) (sd sa sb : BitVec 5) : Kept
    (execOpXor c g sd sa sb s) := kept_rr h ..

theorem kept_execShl {s : State} (h : Canonical s) (c : Core) (g : Guard) (sd sa sb : BitVec 5) : Kept
    (execShl c g sd sa sb s) := kept_rr h ..

theorem kept_execShr {s : State} (h : Canonical s) (c : Core) (g : Guard) (sd sa sb : BitVec 5) : Kept
    (execShr c g sd sa sb s) := kept_rr h ..

theorem kept_execSra {s : State} (h : Canonical s) (c : Core) (g : Guard) (sd sa sb : BitVec 5) : Kept
    (execSra c g sd sa sb s) := kept_rr h ..

theorem kept_execOpMin {s : State} (h : Canonical s) (c : Core) (g : Guard) (sd sa sb : BitVec 5) : Kept
    (execOpMin c g sd sa sb s) := kept_rr h ..

theorem kept_execOpMax {s : State} (h : Canonical s) (c : Core) (g : Guard) (sd sa sb : BitVec 5) : Kept
    (execOpMax c g sd sa sb s) := kept_rr h ..

theorem kept_execMinu {s : State} (h : Canonical s) (c : Core) (g : Guard) (sd sa sb : BitVec 5) : Kept
    (execMinu c g sd sa sb s) := kept_rr h ..

theorem kept_execMaxu {s : State} (h : Canonical s) (c : Core) (g : Guard) (sd sa sb : BitVec 5) : Kept
    (execMaxu c g sd sa sb s) := kept_rr h ..

theorem kept_execDivu {s : State} (h : Canonical s) (c : Core) (g : Guard) (sd sa sb : BitVec 5) : Kept
    (execDivu c g sd sa sb s) := kept_rr h ..

theorem kept_execRemu {s : State} (h : Canonical s) (c : Core) (g : Guard) (sd sa sb : BitVec 5) : Kept
    (execRemu c g sd sa sb s) := kept_rr h ..

theorem kept_execAddI {s : State} (h : Canonical s) (c : Core) (g : Guard) (sd sa : BitVec 5) (imm : BitVec 32) : Kept
    (execAddI c g sd sa imm s) := kept_ri h ..

theorem kept_execSubI {s : State} (h : Canonical s) (c : Core) (g : Guard) (sd sa : BitVec 5) (imm : BitVec 32) : Kept
    (execSubI c g sd sa imm s) := kept_ri h ..

theorem kept_execMulI {s : State} (h : Canonical s) (c : Core) (g : Guard) (sd sa : BitVec 5) (imm : BitVec 32) : Kept
    (execMulI c g sd sa imm s) := kept_ri h ..

theorem kept_execMulhuI {s : State} (h : Canonical s) (c : Core) (g : Guard) (sd sa : BitVec 5) (imm : BitVec 32) : Kept
    (execMulhuI c g sd sa imm s) := kept_ri h ..

theorem kept_execAndI {s : State} (h : Canonical s) (c : Core) (g : Guard) (sd sa : BitVec 5) (imm : BitVec 32) : Kept
    (execAndI c g sd sa imm s) := kept_ri h ..

theorem kept_execOrI {s : State} (h : Canonical s) (c : Core) (g : Guard) (sd sa : BitVec 5) (imm : BitVec 32) : Kept
    (execOrI c g sd sa imm s) := kept_ri h ..

theorem kept_execXorI {s : State} (h : Canonical s) (c : Core) (g : Guard) (sd sa : BitVec 5) (imm : BitVec 32) : Kept
    (execXorI c g sd sa imm s) := kept_ri h ..

theorem kept_execShlI {s : State} (h : Canonical s) (c : Core) (g : Guard) (sd sa : BitVec 5) (imm : BitVec 32) : Kept
    (execShlI c g sd sa imm s) := kept_ri h ..

theorem kept_execShrI {s : State} (h : Canonical s) (c : Core) (g : Guard) (sd sa : BitVec 5) (imm : BitVec 32) : Kept
    (execShrI c g sd sa imm s) := kept_ri h ..

theorem kept_execSraI {s : State} (h : Canonical s) (c : Core) (g : Guard) (sd sa : BitVec 5) (imm : BitVec 32) : Kept
    (execSraI c g sd sa imm s) := kept_ri h ..

theorem kept_execMinI {s : State} (h : Canonical s) (c : Core) (g : Guard) (sd sa : BitVec 5) (imm : BitVec 32) : Kept
    (execMinI c g sd sa imm s) := kept_ri h ..

theorem kept_execMaxI {s : State} (h : Canonical s) (c : Core) (g : Guard) (sd sa : BitVec 5) (imm : BitVec 32) : Kept
    (execMaxI c g sd sa imm s) := kept_ri h ..

theorem kept_execMinuI {s : State} (h : Canonical s) (c : Core) (g : Guard) (sd sa : BitVec 5) (imm : BitVec 32) : Kept
    (execMinuI c g sd sa imm s) := kept_ri h ..

theorem kept_execMaxuI {s : State} (h : Canonical s) (c : Core) (g : Guard) (sd sa : BitVec 5) (imm : BitVec 32) : Kept
    (execMaxuI c g sd sa imm s) := kept_ri h ..

theorem kept_execDivuI {s : State} (h : Canonical s) (c : Core) (g : Guard) (sd sa : BitVec 5) (imm : BitVec 32) : Kept
    (execDivuI c g sd sa imm s) := kept_ri h ..

theorem kept_execRemuI {s : State} (h : Canonical s) (c : Core) (g : Guard) (sd sa : BitVec 5) (imm : BitVec 32) : Kept
    (execRemuI c g sd sa imm s) := kept_ri h ..

theorem kept_execLi {s : State} (h : Canonical s) (c : Core) (g : Guard) (sd : BitVec 5) (imm : W64) : Kept
    (execLi c g sd imm s) := kept_issueReg h ..

theorem kept_execMovRv {s : State} (h : Canonical s) (c : Core) (g : Guard) (sd : BitVec 5) (imm : BitVec 32) : Kept
    (execMovRv c g sd imm s) := kept_issueReg h ..

theorem kept_execMovSa {s : State} (h : Canonical s) (c : Core) (g : Guard) (sd : BitVec 5) (ab : BitVec 4) (imm : BitVec 32) : Kept
    (execMovSa c g sd ab imm s) := kept_issueReg h ..

theorem kept_execMovAs {s : State} (h : Canonical s) (c : Core) (g : Guard) (ad : BitVec 4) (sa : BitVec 5) (imm : BitVec 32) : Kept
    (execMovAs c g ad sa imm s) := kept_issueReg h ..

theorem kept_execAddaI {s : State} (h : Canonical s) (c : Core) (g : Guard) (ad ab : BitVec 4) (imm : BitVec 32) : Kept
    (execAddaI c g ad ab imm s) := kept_issueReg h ..

theorem kept_execCmpCc {s : State} (h : Canonical s) (c : Core) (g : Guard) (pd : BitVec 3) (cc : BitVec 4) (sa sb : BitVec 5) (i : Bool)
    (imm : BitVec 32) : Kept (execCmpCc c g pd cc sa sb i imm s) := kept_issueReg h ..

theorem kept_execPLop {s : State} (h : Canonical s) (c : Core) (g : Guard) (pd pa pb : BitVec 3) (lop : BitVec 2) : Kept
    (execPLop c g pd pa pb lop s) := kept_issueReg h ..

theorem kept_execFadd {s : State} (h : Canonical s) (c : Core) (g : Guard) (sd sa sb : BitVec 5) : Kept
    (execFadd c g sd sa sb s) := kept_rr h ..

theorem kept_execFsub {s : State} (h : Canonical s) (c : Core) (g : Guard) (sd sa sb : BitVec 5) : Kept
    (execFsub c g sd sa sb s) := kept_rr h ..

theorem kept_execFmul {s : State} (h : Canonical s) (c : Core) (g : Guard) (sd sa sb : BitVec 5) : Kept
    (execFmul c g sd sa sb s) := kept_rr h ..

theorem kept_execFdiv {s : State} (h : Canonical s) (c : Core) (g : Guard) (sd sa sb : BitVec 5) : Kept
    (execFdiv c g sd sa sb s) := kept_rr h ..

theorem kept_execFmin {s : State} (h : Canonical s) (c : Core) (g : Guard) (sd sa sb : BitVec 5) : Kept
    (execFmin c g sd sa sb s) := kept_rr h ..

theorem kept_execFmax {s : State} (h : Canonical s) (c : Core) (g : Guard) (sd sa sb : BitVec 5) : Kept
    (execFmax c g sd sa sb s) := kept_rr h ..

theorem kept_execFcvtFI {s : State} (h : Canonical s) (c : Core) (g : Guard) (sd sa : BitVec 5) : Kept
    (execFcvtFI c g sd sa s) := kept_issueReg h ..

theorem kept_execFcvtIF {s : State} (h : Canonical s) (c : Core) (g : Guard) (sd sa : BitVec 5) : Kept
    (execFcvtIF c g sd sa s) := kept_issueReg h ..

/-! ## Machine/Stall -/

theorem kept_execStallTick {s : State} (h : Canonical s) (a : StallAgent) (phys : List (Nat × Cause)) : Kept (execStallTick a phys s) := by
  unfold execStallTick
  refine kept_next ?_
  grind only [canonical_modTile, canonical_bumpRun, canonical_modEngine, canonical_noteWait, canonical_modMrc]

end Sys2Proof.Proofs
end

section
/-! Every step keeps the canonical forms of memory, of the check bits and of the owner tags. -/

namespace Sys2Proof.Proofs
open Sys2Proof Sys2Proof.Machine

/-- A command keeps the canonical forms: the case of each command is the lemma of its function. -/
theorem kept_exec {s : State} (h : Canonical s) (i : Instr) : Kept (exec i s) := by
  cases i with
  | nop => exact kept_execNop h ..
  | opEnd => exact kept_execOpEnd h ..
  | br => exact kept_execBr h ..
  | jal => exact kept_execJal h ..
  | jr => exact kept_execJr h ..
  | undefinedEncoding => exact kept_execUndefinedEncoding h ..
  | add => exact kept_execAdd h ..
  | sub => exact kept_execSub h ..
  | mul => exact kept_execMul h ..
  | mulhu => exact kept_execMulhu h ..
  | opAnd => exact kept_execOpAnd h ..
  | opOr => exact kept_execOpOr h ..
  | opXor => exact kept_execOpXor h ..
  | shl => exact kept_execShl h ..
  | shr => exact kept_execShr h ..
  | sra => exact kept_execSra h ..
  | opMin => exact kept_execOpMin h ..
  | opMax => exact kept_execOpMax h ..
  | minu => exact kept_execMinu h ..
  | maxu => exact kept_execMaxu h ..
  | divu => exact kept_execDivu h ..
  | remu => exact kept_execRemu h ..
  | addI => exact kept_execAddI h ..
  | subI => exact kept_execSubI h ..
  | mulI => exact kept_execMulI h ..
  | mulhuI => exact kept_execMulhuI h ..
  | andI => exact kept_execAndI h ..
  | orI => exact kept_execOrI h ..
  | xorI => exact kept_execXorI h ..
  | shlI => exact kept_execShlI h ..
  | shrI => exact kept_execShrI h ..
  | sraI => exact kept_execSraI h ..
  | minI => exact kept_execMinI h ..
  | maxI => exact kept_execMaxI h ..
  | minuI => exact kept_execMinuI h ..
  | maxuI => exact kept_execMaxuI h ..
  | divuI => exact kept_execDivuI h ..
  | remuI => exact kept_execRemuI h ..
  | li => exact kept_execLi h ..
  | movRv => exact kept_execMovRv h ..
  | movSa => exact kept_execMovSa h ..
  | movAs => exact kept_execMovAs h ..
  | addaI => exact kept_execAddaI h ..
  | cmpCc => exact kept_execCmpCc h ..
  | pLop => exact kept_execPLop h ..
  | fadd => exact kept_execFadd h ..
  | fsub => exact kept_execFsub h ..
  | fmul => exact kept_execFmul h ..
  | fdiv => exact kept_execFdiv h ..
  | fmin => exact kept_execFmin h ..
  | fmax => exact kept_execFmax h ..
  | fcvtFI => exact kept_execFcvtFI h ..
  | fcvtIF => exact kept_execFcvtIF h ..
  | ld => exact kept_execLd h ..
  | st => exact kept_execSt h ..
  | ldc => exact kept_execLdc h ..
  | stc => exact kept_execStc h ..
  | tblBuild => exact kept_execTblBuild h ..
  | tblSave => exact kept_execTblSave h ..
  | tblLoad => exact kept_execTblLoad h ..
  | laccBin => exact kept_execLaccBin h ..
  | laccTer => exact kept_execLaccTer h ..
  | laccI2 => exact kept_execLaccI2 h ..
  | laccI3 => exact kept_execLaccI3 h ..
  | laccI4 => exact kept_execLaccI4 h ..
  | laccCb => exact kept_execLaccCb h ..
  | laccFp4 => exact kept_execLaccFp4 h ..
  | binOpen => exact kept_execBinOpen h ..
  | binClose => exact kept_execBinClose h ..
  | attn => exact kept_execAttn h ..
  | strmArm => exact kept_execStrmArm h ..
  | strmRearm => exact kept_execStrmRearm h ..
  | strmWait => exact kept_execStrmWait h ..
  | strmHalt => exact kept_execStrmHalt h ..
  | strmResume => exact kept_execStrmResume h ..
  | ringAttachP => exact kept_execRingAttachP h ..
  | ringAttachC => exact kept_execRingAttachC h ..
  | ringDetach => exact kept_execRingDetach h ..
  | ringClaim => exact kept_execRingClaim h ..
  | ringPost => exact kept_execRingPost h ..
  | ringTake => exact kept_execRingTake h ..
  | ringGive => exact kept_execRingGive h ..
  | sluiceArrive => exact kept_execSluiceArrive h ..
  | sluiceWait => exact kept_execSluiceWait h ..
  | sluiceReset => exact kept_execSluiceReset h ..
  | fence => exact kept_execFence h ..
  | hringPeek => exact kept_execHringPeek h ..
  | hringPop => exact kept_execHringPop h ..
  | hringPush => exact kept_execHringPush h ..
  | atomAddI32 => exact kept_execAtomAddI32 h ..
  | atomAddF32 => exact kept_execAtomAddF32 h ..
  | atomAddP64 => exact kept_execAtomAddP64 h ..
  | atomSwap32 => exact kept_execAtomSwap32 h ..
  | atomSwap64 => exact kept_execAtomSwap64 h ..
  | atomSwap256 => exact kept_execAtomSwap256 h ..
  | gtabGrant => exact kept_execGtabGrant h ..
  | gtabRevoke => exact kept_execGtabRevoke h ..
  | gtabInstall => exact kept_execGtabInstall h ..
  | evtPost => exact kept_execEvtPost h ..
  | runSubmit => exact kept_execRunSubmit h ..
  | runCancel => exact kept_execRunCancel h ..
  | resGrant => exact kept_execResGrant h ..
  | resFree => exact kept_execResFree h ..
  | psort => exact kept_execPsort h ..
  | queuedOperationStart => exact kept_execQueuedOperationStart h ..
  | sequencerResume => exact kept_execSequencerResume h ..
  | tableBuildDone => exact kept_execTableBuildDone h ..
  | tableSaveDone => exact kept_execTableSaveDone h ..
  | wave => exact kept_execWave h ..
  | anchorRaise => exact kept_execAnchorRaise h ..
  | preloadDone => exact kept_execPreloadDone h ..
  | binCloseReadDone => exact kept_execBinCloseReadDone h ..
  | binCloseDone => exact kept_execBinCloseDone h ..
  | attnOperationStart => exact kept_execAttnOperationStart h ..
  | attnPage => exact kept_execAttnPage h ..
  | attnOperationDone => exact kept_execAttnOperationDone h ..
  | dispatchCheck => exact kept_execDispatchCheck h ..
  | dispatch => exact kept_execDispatch h ..
  | runEnd => exact kept_execRunEnd h ..
  | runStopped => exact kept_execRunStopped h ..
  | runDeadlockWatchdog => exact kept_execRunDeadlockWatchdog h ..
  | runLimit => exact kept_execRunLimit h ..
  | runAged => exact kept_execRunAged h ..
  | stallTick => exact kept_execStallTick h ..
  | transferIssue => exact kept_execTransferIssue h ..
  | transferAck => exact kept_execTransferAck h ..
  | passEnd => exact kept_execPassEnd h ..
  | streamHalt => exact kept_execStreamHalt h ..
  | haltNoticeWrite => exact kept_execHaltNoticeWrite h ..
  | deadlockWatchdog => exact kept_execDeadlockWatchdog h ..
  | weirRefill => exact kept_execWeirRefill h ..
  | bankAtomicApply => exact kept_execBankAtomicApply h ..
  | eccWriteback => exact kept_execEccWriteback h ..
  | retentionEntry => exact kept_execRetentionEntry h ..
  | bankWakeDone => exact kept_execBankWakeDone h ..
  | marchDone => exact kept_execMarchDone h ..
  | tileRemapComplete => exact kept_execTileRemapComplete h ..
  | gristDecodeBlock => exact kept_execGristDecodeBlock h ..
  | gristEncodeBlock => exact kept_execGristEncodeBlock h ..
  | gtabInstallDone => exact kept_execGtabInstallDone h ..
  | resFreeDone => exact kept_execResFreeDone h ..
  | patrolScrub => exact kept_execPatrolScrub h ..
  | sparingCopyDone => exact kept_execSparingCopyDone h ..
  | memXlatInvalWrite => exact kept_execMemXlatInvalWrite h ..
  | xlatInvalDone => exact kept_execXlatInvalDone h ..
  | hdrTblInvalWrite => exact kept_execHdrTblInvalWrite h ..
  | tblInvalDone => exact kept_execTblInvalDone h ..
  | flitReceive => exact kept_execFlitReceive h ..
  | laneAlignmentLoss => exact kept_execLaneAlignmentLoss h ..
  | portSilence => exact kept_execPortSilence h ..
  | portId => exact kept_execPortId h ..
  | creditInit => exact kept_execCreditInit h ..
  | packetSend => exact kept_execPacketSend h ..
  | fabricLoad => exact kept_execFabricLoad h ..
  | fabricStore => exact kept_execFabricStore h ..
  | fabricRead => exact kept_execFabricRead h ..
  | fabricWrite => exact kept_execFabricWrite h ..
  | fabricAddI32 => exact kept_execFabricAddI32 h ..
  | fabricAddF32 => exact kept_execFabricAddF32 h ..
  | fabricAddP64 => exact kept_execFabricAddP64 h ..
  | fabricAddP64x4 => exact kept_execFabricAddP64x4 h ..
  | fabricSwap32 => exact kept_execFabricSwap32 h ..
  | fabricSwap64 => exact kept_execFabricSwap64 h ..
  | fabricSwap256 => exact kept_execFabricSwap256 h ..
  | fabricSluiceArrive => exact kept_execFabricSluiceArrive h ..
  | fabricResponse => exact kept_execFabricResponse h ..
  | reorderRelease => exact kept_execReorderRelease h ..
  | requestTimeout => exact kept_execRequestTimeout h ..
  | keeperAnnounce => exact kept_execKeeperAnnounce h ..
  | slotReport => exact kept_execSlotReport h ..
  | rackReport => exact kept_execRackReport h ..
  | hallWait => exact kept_execHallWait h ..
  | mapDistribution => exact kept_execMapDistribution h ..
  | join => exact kept_execJoin h ..
  | mapChange => exact kept_execMapChange h ..
  | joinRetry => exact kept_execJoinRetry h ..
  | keeperHeartbeat => exact kept_execKeeperHeartbeat h ..
  | keeperFailover => exact kept_execKeeperFailover h ..
  | heartbeatMiss => exact kept_execHeartbeatMiss h ..
  | bind => exact kept_execBind h ..
  | unbind => exact kept_execUnbind h ..
  | opAdmit => exact kept_execOpAdmit h ..
  | cancel => exact kept_execCancel h ..
  | load => exact kept_execLoad h ..
  | activate => exact kept_execActivate h ..
  | discard => exact kept_execDiscard h ..
  | heldRecordRetake => exact kept_execHeldRecordRetake h ..
  | planStep => exact kept_execPlanStep h ..
  | sequenceSpill => exact kept_execSequenceSpill h ..
  | stepSample => exact kept_execStepSample h ..
  | completionRecordRetry => exact kept_execCompletionRecordRetry h ..
  | manifestVerified => exact kept_execManifestVerified h ..
  | shardFetchDone => exact kept_execShardFetchDone h ..
  | sourceReadyPoll => exact kept_execSourceReadyPoll h ..
  | shardMissing => exact kept_execShardMissing h ..
  | slotDiscard => exact kept_execSlotDiscard h ..
  | coreHandover => exact kept_execCoreHandover h ..
  | coreHalt => exact kept_execCoreHalt h ..
  | millerCoreRestart => exact kept_execMillerCoreRestart h ..
  | drainedUpdate => exact kept_execDrainedUpdate h ..
  | submitDoorbell => exact kept_execSubmitDoorbell h ..
  | headDoorbell => exact kept_execHeadDoorbell h ..
  | ringArm => exact kept_execRingArm h ..
  | moderationExpiry => exact kept_execModerationExpiry h ..
  | ringDescWrite => exact kept_execRingDescWrite h ..
  | ringEnable => exact kept_execRingEnable h ..
  | ringDisable => exact kept_execRingDisable h ..
  | ringDisableDone => exact kept_execRingDisableDone h ..
  | hifFnRingsWrite => exact kept_execHifFnRingsWrite h ..
  | hifFnVecWrite => exact kept_execHifFnVecWrite h ..
  | bar4Access => exact kept_execBar4Access h ..
  | vfFlr => exact kept_execVfFlr h ..
  | pfFlr => exact kept_execPfFlr h ..
  | hotReset => exact kept_execHotReset h ..
  | pcieLinkDown => exact kept_execPcieLinkDown h ..
  | perstNRelease => exact kept_execPerstNRelease h ..
  | registerWrite => exact kept_execRegisterWrite h ..
  | registerReadClear => exact kept_execRegisterReadClear h ..
  | bankWakeRequest => exact kept_execBankWakeRequest h ..
  | unitEnableRequest => exact kept_execUnitEnableRequest h ..
  | unitDisableRequest => exact kept_execUnitDisableRequest h ..
  | enableComplete => exact kept_execEnableComplete h ..
  | enableFail => exact kept_execEnableFail h ..
  | disableComplete => exact kept_execDisableComplete h ..
  | rateWindow => exact kept_execRateWindow h ..
  | oscCalibration => exact kept_execOscCalibration h ..
  | powerSample => exact kept_execPowerSample h ..
  | capLoop => exact kept_execCapLoop h ..
  | sensorRead => exact kept_execSensorRead h ..
  | brakeRelease => exact kept_execBrakeRelease h ..
  | brakeLevelRaise => exact kept_execBrakeLevelRaise h ..
  | readyLevelRaise => exact kept_execReadyLevelRaise h ..
  | avsTransactionDone => exact kept_execAvsTransactionDone h ..
  | thermalTrip => exact kept_execThermalTrip h ..
  | slowdown => exact kept_execSlowdown h ..
  | recover => exact kept_execRecover h ..
  | skew => exact kept_execSkew h ..
  | tokens => exact kept_execTokens h ..
  | mode => exact kept_execMode h ..
  | slowdownRepeat => exact kept_execSlowdownRepeat h ..
  | slowdownNoticeExpiry => exact kept_execSlowdownNoticeExpiry h ..
  | powerGoodRise => exact kept_execPowerGoodRise h ..
  | bringupStepDone => exact kept_execBringupStepDone h ..
  | bringupBoundMissed => exact kept_execBringupBoundMissed h ..
  | pwrGoodFall => exact kept_execPwrGoodFall h ..
  | entdaa => exact kept_execEntdaa h ..
  | rstdaa => exact kept_execRstdaa h ..
  | setnewda => exact kept_execSetnewda h ..
  | getpid => exact kept_execGetpid h ..
  | getbcr => exact kept_execGetbcr h ..
  | getdcr => exact kept_execGetdcr h ..
  | getstatus => exact kept_execGetstatus h ..
  | enec => exact kept_execEnec h ..
  | disec => exact kept_execDisec h ..
  | setmwl => exact kept_execSetmwl h ..
  | getmwl => exact kept_execGetmwl h ..
  | setmrl => exact kept_execSetmrl h ..
  | getmrl => exact kept_execGetmrl h ..
  | rstact => exact kept_execRstact h ..
  | hotJoin => exact kept_execHotJoin h ..
  | i3cPrivateRead => exact kept_execI3cPrivateRead h ..
  | getInfo => exact kept_execGetInfo h ..
  | getNonce => exact kept_execGetNonce h ..
  | nonceExpiry => exact kept_execNonceExpiry h ..
  | auditRead => exact kept_execAuditRead h ..
  | auditHead => exact kept_execAuditHead h ..
  | auditAck => exact kept_execAuditAck h ..
  | setCap => exact kept_execSetCap h ..
  | setCapRange => exact kept_execSetCapRange h ..
  | setGroupCfg => exact kept_execSetGroupCfg h ..
  | setDroop => exact kept_execSetDroop h ..
  | vtabWithdraw => exact kept_execVtabWithdraw h ..
  | vtabRestore => exact kept_execVtabRestore h ..
  | setTopology => exact kept_execSetTopology h ..
  | setLoadSpan => exact kept_execSetLoadSpan h ..
  | pubkeyAdd => exact kept_execPubkeyAdd h ..
  | pubkeyRemove => exact kept_execPubkeyRemove h ..
  | pubkeyList => exact kept_execPubkeyList h ..
  | opkeyAdd => exact kept_execOpkeyAdd h ..
  | opkeyRemove => exact kept_execOpkeyRemove h ..
  | installerKeySet => exact kept_execInstallerKeySet h ..
  | fwStage => exact kept_execFwStage h ..
  | fwApprove => exact kept_execFwApprove h ..
  | fwCommitSvn => exact kept_execFwCommitSvn h ..
  | fwChunk => exact kept_execFwChunk h ..
  | marchReq => exact kept_execMarchReq h ..
  | tileRetire => exact kept_execTileRetire h ..
  | frameRetire => exact kept_execFrameRetire h ..
  | pcSpare => exact kept_execPcSpare h ..
  | bar4Open => exact kept_execBar4Open h ..
  | bar4Close => exact kept_execBar4Close h ..
  | rtvConsent => exact kept_execRtvConsent h ..
  | rtvEnter => exact kept_execRtvEnter h ..
  | makerDiag => exact kept_execMakerDiag h ..
  | makerProvision => exact kept_execMakerProvision h ..
  | unknownCommand => exact kept_execUnknownCommand h ..
  | mgtRestart => exact kept_execMgtRestart h ..
  | pcieLinkUp => exact kept_execPcieLinkUp h ..
  | laneAlignment => exact kept_execLaneAlignment h ..
  | crossingClockStop => exact kept_execCrossingClockStop h ..
  | crossingClockReturn => exact kept_execCrossingClockReturn h ..
  | setpointReached => exact kept_execSetpointReached h ..
  | stackRetraining => exact kept_execStackRetraining h ..
  | d2dLinkRetraining => exact kept_execD2dLinkRetraining h ..
  | mgtReachesService => exact kept_execMgtReachesService h ..
  | submissionUndefinedKind => exact kept_execSubmissionUndefinedKind h ..

/-- Settles O59: a step is a command on the rest of the queue, or an idle tick. -/
theorem stepsKeepCanonical : Obligations.StepsKeepCanonical := by
  unfold Obligations.StepsKeepCanonical
  intro s t h hst
  have hk : Kept (step s) := by
    unfold step
    split
    · exact .next (canonical_idleTick h)
    · next c cs _ => exact kept_exec (s := { s with pending := cs }) h c
  rw [hst] at hk
  cases hk
  assumption

end Sys2Proof.Proofs
end

section
/-! Runs and Millpond blocks from the service profile (06, R302 to R307; 05, R191 to R193). -/

namespace Sys2Proof.Proofs
open Sys2Proof Sys2Proof.Machine

/-! ## Owner tags -/

theorem setOwners_frame (s : State) (p b tag n : Nat) : setOwners s p b tag n = { s with owner := (setOwners s p b tag n).owner } := by
  induction n generalizing s b with
  | zero => rfl
  | succ n ih => exact (ih ..).trans rfl

theorem tget_setOwners (s : State) (p b tag n j : Nat) : tget 0 (setOwners s p b tag n).owner j =
    if 1536 * p + b ≤ j ∧ j < 1536 * p + b + n then tag else tget 0 s.owner j := by
  induction n generalizing s b with
  | zero => rw [if_neg (by omega)]; rfl
  | succ n ih =>
    refine (ih ..).trans ?_
    change (if _ then tag else tget 0 (tset 0 s.owner (1536 * p + b) tag) j) = _
    rw [tget_tset]
    split <;> split <;> grind

/-- The range that a grant names. R305. -/
theorem resRange_of_fits {sb sd : W64} (hl : sb.toNat % 256 < 192) (h0 : 0 < sd.toNat / 65536 % 2048) (hn : sd.toNat / 65536 % 2048 ≤ 1536)
    (hb : sd.toNat % 2048 + sd.toNat / 65536 % 2048 ≤ 1536) :
    resRange sb sd = some (sb.toNat % 256, sd.toNat % 2048, sd.toNat / 65536 % 2048) := by
  have hbits : bitsOf sd.toNat 16 11 = sd.toNat / 65536 % 2048 := rfl
  unfold resRange
  rw [hbits]
  exact if_neg (by omega)

theorem owned_all {s : State} {p b n tag : Nat} (h : ∀ i, i < n → tget 0 s.owner (1536 * p + b + i) = tag) :
    (List.range n).all (fun i => ownerOf s p (4096 * (b + i)) == tag) = true := by
  refine List.all_eq_true.2 fun i hi => beq_iff_eq.2 ?_
  rw [ownerOf, Nat.mul_div_cancel_left _ (by norm_num), ← Nat.add_assoc]
  exact h i (List.mem_range.1 hi)

/-! ## A cancelled run -/

theorem cancelSeqno_empty {s : State} {d n : Nat} {r : Run} (hq : (s.ring (s.gov d).runqRing).count = 0)
    (hr : (s.gov d).runs.find? (fun r => r.rr.seqno == n && r.phase != .ended) = some r) : cancelSeqno s d n = cancelRun s d r.rid := by
  have hnone : queuedRecords s d = [] := by
    simp only [queuedRecords, hq]
    rfl
  simp only [cancelSeqno, hnone, List.any_nil, Bool.false_eq_true, if_false, hr]

theorem modRun_self {s : State} {d rid : Nat} {r : Run} (hr : s.run? d rid = some r) (f : Run → Run) (hf : ∀ x, (f x).rid = x.rid) :
    (s.modRun d rid f).run? d rid = some (f r) := by
  rw [modRun_run? _ _ _ _ hf, if_pos ⟨rfl, rfl⟩, hr, Option.map_some]

/-- A run that never started, at a ring without room, waits for its completion record. R303. -/
theorem endUnstarted_waits {s : State} {d rid : Nat} {r : Run} (hr : s.run? d rid = some r) (hroom : (s.ring r.rr.cplRing).room = false)
    (f : Run → Run) (hf : (f r).rr = r.rr) (hid : ∀ x, (f x).rid = x.rid) :
    endUnstarted s d rid f = s.modRun d rid (fun r => { f r with phase := .ended }) := by
  have hrun := modRun_self hr (fun x => { f x with phase := .ended }) hid
  have hring : ((s.modRun d rid (fun r => { f r with phase := .ended })).ring r.rr.cplRing).room = false := hroom
  unfold endUnstarted
  generalize s.modRun d rid (fun r => { f r with phase := .ended }) = u at hrun hring ⊢
  simp [writeCpl, hrun, hf, hring]

theorem cancelRun_active {s : State} {d rid : Nat} {r : Run} (hr : s.run? d rid = some r) (hp : r.phase = .active) :
    cancelRun s d rid = (stopRun s r).modRun d rid (fun x => { x with phase := .stopping, cancelled := true, haltWhy := haltedFlt s r }) := by
  simp only [cancelRun, hr, hp]

theorem cancelRun_stopping {s : State} {d rid : Nat} {r : Run} (hr : s.run? d rid = some r) (hp : r.phase = .stopping) :
    cancelRun s d rid = s.modRun d rid (fun x => { x with cancelled := true }) := by
  simp only [cancelRun, hr, hp]

theorem cancelRun_unstarted {s : State} {d rid : Nat} {r : Run} (hr : s.run? d rid = some r) (hp : r.phase = .raw ∨ r.phase = .ready) :
    cancelRun s d rid = endUnstarted s d rid (fun r => { r with cancelled := true }) := by
  rcases hp with hp | hp <;> simp only [cancelRun, hr, hp]

theorem runCancel_step {s : State} {m : Nat} {g : Guard} {sa sb : BitVec 5} (hx : Executes s (.miller m) g [sa, sb]) {d n : Nat}
    (hd : d = ((s.seqr (.miller m)).s sa).toNat % 4) (hn : n = ((s.seqr (.miller m)).s sb).toNat % 2 ^ 32) :
    exec (.runCancel (.miller m) g sa sb) s = .next (advance (cancelSeqno s d n) (.miller m) 8) := by
  change execRunCancel (.miller m) g sa sb s = _
  rw [execRunCancel, issue_executes hx rfl, hd, hn]
  rfl

theorem advance_miller_seqr (s : State) (m : Nat) (n : W64) :
    (advance s (.miller m) n).seqr (.miller m) = { s.seqr (.miller m) with pc := (s.seqr (.miller m)).pc + n } :=
  congrArg Miller.seqr (State.modMiller_miller_same ..)

/-- A change of a Miller core that keeps its sequencer keeps every sequencer. -/
theorem modMiller_seqr (s : State) (m : Nat) (f : Miller → Miller) (hf : ∀ k, (f k).seqr = k.seqr) (c : Core) :
    (s.modMiller m f).seqr c = s.seqr c := by
  cases c with
  | tile l => rfl
  | miller j =>
    refine (congrArg Miller.seqr (State.modMiller_miller s m f j)).trans ?_
    split
    · next h => rw [hf, h]; rfl
    · rfl

theorem advance_run? (s : State) (m : Nat) (n : W64) (d rid : Nat) : (advance s (.miller m) n).run? d rid = s.run? d rid := rfl

/-! ## Freed blocks -/

theorem tget_filter_key {α : Type} (d : α) (p : Nat → Bool) (t : Tab α) (j : Nat) :
    tget d (t.filter (fun c => p c.1)) j = if p j then tget d t j else d := by
  induction t with
  | nil => simp [tget]
  | cons x t ih =>
    obtain ⟨i, v⟩ := x
    rw [List.filter_cons, tget_cons]
    split
    · rw [tget_cons, ih]
      grind
    · rw [ih]
      grind

theorem byte_zero (s : State) (k n j : Nat) : (s.zero k n).byte j = if k ≤ j ∧ j < k + n then 0 else s.byte j := by
  refine (tget_filter_key 0 (fun i => !(decide (k ≤ i) && decide (i < k + n))) s.mem j).trans ?_
  by_cases h : k ≤ j ∧ j < k + n
  · rw [if_pos h, if_neg (by simp [h])]
  · rw [if_neg h, if_pos (by simpa [and_comm, imp_iff_not_or] using h)]
    rfl

theorem mpdOnly_touch (s : State) (p o : Nat) : MpdOnly s (touch s (.mill p o)) := by
  rw [touch_mill]
  exact mpdOnly_modMpd ..

theorem mpdOnly_touchRange (s : State) (p o n : Nat) : MpdOnly s (touchRange s p o n) := by
  unfold touchRange
  refine List.foldlRecOn _ _ (MpdOnly.refl s) fun u hu b _ => ?_
  dsimp only
  split
  · exact hu.trans (mpdOnly_touch ..)
  · exact hu

theorem byte_freeBlocks (s : State) (l b n j : Nat) : (freeBlocks s l b n).byte j =
    if millKey (s.phys l) (4096 * b) ≤ j ∧ j < millKey (s.phys l) (4096 * b) + 4096 * n then 0 else s.byte j := by
  unfold freeBlocks
  rw [setOwners_frame]
  refine (byte_zero ..).trans ?_
  rw [State.byte, (mpdOnly_touchRange ..).mem_eq]
  rfl

theorem freeBlocks_seqr (s : State) (l b n : Nat) (c : Core) : (freeBlocks s l b n).seqr c = s.seqr c := by
  unfold freeBlocks
  rw [setOwners_frame]
  have h := mpdOnly_touchRange s (s.phys l) (4096 * b) (4096 * n)
  cases c with
  | tile j => exact h.seqr_tile j
  | miller m =>
    change (tget {} (touchRange s (s.phys l) (4096 * b) (4096 * n)).millers m).seqr = _
    rw [h.1]
    rfl

theorem resFreeDone_step {s : State} {m ctx l b n : Nat} (hfree : (s.miller m).freeing = some (ctx, l, b, n))
    (huse : rangeInUse s l b n = false) :
    exec (.resFreeDone m) s = .next ((freeBlocks s l b n).modMiller m (fun k => { k with freeing := none })) := by
  change execResFreeDone m s = _
  simp only [execResFreeDone, hfree, huse, Bool.false_eq_true, if_false]

/-- Settles O27: submission, cancellation, grants and freed blocks. -/
theorem runsAndResidency : Obligations.RunsAndResidency := by
  unfold Obligations.RunsAndResidency
  refine ⟨?_, ?_, ?_, ?_⟩
  · intro s m g pd ab off hx bs d q
    change execRunSubmit (.miller m) g pd ab off s = _
    rw [execRunSubmit, issue_executes hx rfl]
    dsimp only
    by_cases h : (s.ring q).kind = .internal ∧ (s.ring q).room = true ∧ runsQueued s d < 1024
    · rw [if_pos h, show ((s.ring q).kind == .internal && (s.ring q).room && decide (runsQueued s d < 1024)) = true by simp [h], if_pos rfl]
      rfl
    · rw [if_neg h, show ((s.ring q).kind == .internal && (s.ring q).room && decide (runsQueued s d < 1024)) = false by
        simpa [and_assoc] using h, if_neg Bool.false_ne_true]
      rfl
  · intro s m g sa sb r hx d n hq hfind hr
    rw [runCancel_step hx rfl rfl, cancelSeqno_empty hq hfind]
    refine ⟨fun hp => ⟨_, rfl, ?_⟩, fun hp => ⟨_, rfl, ?_⟩, fun hp hroom => ⟨_, rfl, ?_⟩⟩
    · rw [advance_mem, advance_run?, cancelRun_active hr hp]
      refine ⟨?_, modRun_self (by rw [stopRun_run?, hr]) _ fun _ => rfl⟩
      change (stopRun s r).mem = s.mem
      rw [stopRun_frame]
    · rw [advance_mem, advance_run?, cancelRun_stopping hr hp]
      exact ⟨rfl, modRun_self hr _ fun _ => rfl⟩
    · rw [advance_mem, advance_run?, cancelRun_unstarted hr hp, endUnstarted_waits hr hroom (fun x => { x with cancelled := true }) rfl fun _ => rfl]
      exact ⟨rfl, modRun_self hr (fun x => { x with phase := .ended, cancelled := true }) fun _ => rfl⟩
  · intro s m g sd sa sb hx q ctx l b n hl h0 hn hb
    have hrange : resRange (q.s sb) (q.s sd) = some (l, b, n) := resRange_of_fits hl h0 hn hb
    refine ⟨fun hfree => ?_, fun hown => ?_⟩
    · refine ⟨advance (setOwners s (s.phys l) b (ctx + 1) n) (.miller m) 8, ?_, ?_, fun j => ?_, ?_⟩
      · change execResGrant (.miller m) g sd sa sb s = _
        rw [execResGrant, issue_executes hx rfl]
        dsimp only
        rw [hrange]
        dsimp only
        rw [if_pos (owned_all hfree)]
        rfl
      · rw [setOwners_frame]; rfl
      · exact tget_setOwners ..
      · rw [advance_miller_seqr, setOwners_frame]; rfl
    · refine ⟨(s.modMiller m (fun k => { k with freeing := some (ctx, l, b, n) })).modSeqr (.miller m) (fun q => { q with hold := .resFree }),
        ?_, rfl, ?_, ?_⟩
      · change execResFree (.miller m) g sd sa sb s = _
        rw [execResFree, issue_executes hx rfl]
        dsimp only
        rw [hrange]
        dsimp only
        rw [if_pos (owned_all hown)]
        rfl
      · rw [modSeqr_miller, if_pos rfl, State.modMiller_miller_same]
      · refine (congrArg Miller.seqr (State.modMiller_miller_same ..)).trans ?_
        exact congrArg (fun k : Miller => { k.seqr with hold := .resFree }) (State.modMiller_miller_same ..)
  · intro s m ctx l b n hfree huse
    refine ⟨_, resFreeDone_step hfree huse, ?_, fun j => ?_, fun j => ?_, fun c => ?_⟩
    · rw [State.modMiller_miller_same]
    · exact byte_freeBlocks ..
    · exact (tget_setOwners ..).trans (by rw [(mpdOnly_touchRange ..).1]; rfl)
    · exact (modMiller_seqr _ m (fun k => { k with freeing := none }) (fun _ => rfl) c).trans (freeBlocks_seqr ..)

end Sys2Proof.Proofs
end

section
/-! Grist tables from the service profile (06, R299, R300; 05, R210 to R214; 09, R395). -/

namespace Sys2Proof.Proofs
open Sys2Proof Sys2Proof.Machine

theorem svcWrite_low {a : Nat} (h : a < 2 ^ 48) (s : State) (m n v : Nat) : svcWrite s m a n v = s.setNum (svcKey m a) n v :=
  if_neg (Nat.not_le_of_lt h)

theorem storedBytes_svcWrite {s t : State} {m a n v : Nat} (h : a < 2 ^ 48) (hv : v < 2 ^ (8 * n)) (hm : t.mem = (svcWrite s m a n v).mem) :
    StoredBytes s t (svcKey m a) n v := by
  intro j
  rw [byte_congr hm, svcWrite_low h]
  have hs := storedBytes_setNum s (svcKey m a) n v j
  rwa [Nat.mod_eq_of_lt hv] at hs

theorem gtabInstall_step {s : State} {m : Nat} {g : Guard} {sd sa : BitVec 5} {ab aw : BitVec 4} {off : BitVec 32}
    (hx : Executes s (.miller m) g [sa, sd]) {i n ea flag : Nat} (hi : i = ((s.seqr (.miller m)).s sa).toNat % 256)
    (hn : n = ((s.seqr (.miller m)).s sd).toNat % 16) (hea : ea = (effAddr (s.seqr (.miller m)) ab off).toNat)
    (hflag : flag = ((s.seqr (.miller m)).a aw).toNat) (hnone : (s.gslot i).entryOf n = none) (hinst : (s.gslot i).installing n = false)
    (ha : 32 ∣ ea) (hf : 4 ∣ flag) : exec (.gtabInstall (.miller m) g sd sa ab aw off) s = .next (advance
      (if recordOk (s.bytes (svcKey m ea) 160) then (svcWrite s m flag 4 0).modGSlot i (fun x => { x with
          installs := x.installs ++ [{ gen := n, bytes := s.bytes (svcKey m ea) 160, flagCore := m, flagAddr := flag }] })
        else svcWrite s m flag 4 2) (.miller m) 8) := by
  change execGtabInstall (.miller m) g sd sa ab aw off s = _
  rw [execGtabInstall, issue_executes hx rfl]
  dsimp only
  rw [← hi, ← hn, ← hea, ← hflag, hnone, hinst, Nat.mod_eq_zero_of_dvd ha, Nat.mod_eq_zero_of_dvd hf, if_neg (by simp)]
  split <;> rfl

theorem entry_install_same (x : GSlot) (i : Install) : (x.install i).entry x.older =
    { valid := true, gen := i.gen, kind := fieldAt i.bytes 128 1 % 8, lens := recordLens i.bytes, refs := i.refs } := by
  unfold GSlot.install GSlot.modEntry GSlot.entry
  split <;> rfl

theorem entry_install_other (x : GSlot) (i : Install) : (x.install i).entry (!x.older) = x.entry (!x.older) := by
  unfold GSlot.install GSlot.modEntry GSlot.entry
  cases x.older <;> rfl

theorem install_ctx (x : GSlot) (i : Install) : (x.install i).ctx = x.ctx := by
  unfold GSlot.install GSlot.modEntry
  split <;> rfl

theorem install_installs (x : GSlot) (i : Install) : (x.install i).installs = x.installs.drop 1 := rfl

theorem install_older (x : GSlot) (i : Install) : (x.install i).older = !x.older := rfl

/-- Settles O28: grants, revocations, and an install with its end. -/
theorem gristTableInstructions : Obligations.GristTableInstructions := by
  unfold Obligations.GristTableInstructions
  refine ⟨?_, ?_, ?_⟩
  · intro s m g sa sb hx q i
    refine ⟨?_, ?_⟩
    · change execGtabGrant (.miller m) g sa sb s = _
      rw [execGtabGrant, issue_executes hx rfl]
      rfl
    · change execGtabRevoke (.miller m) g sa s = _
      rw [execGtabRevoke, issue_executes (executes_fewer hx (by simp)) rfl]
      rfl
  · intro s m g sd sa ab aw off hx q i n ea flag bs hnone hinst ha hf hlow
    refine ⟨_, gtabInstall_step hx rfl rfl rfl rfl hnone hinst ha hf, ?_, fun hok => ?_, fun hbad => ?_⟩
    · rw [advance_miller_seqr, svcWrite_low hlow, svcWrite_low hlow]
      split <;> rfl
    · refine ⟨storedBytes_svcWrite hlow (v := 0) (by norm_num) ?_, ?_⟩
      all_goals rw [if_pos hok]
      · exact advance_mem ..
      · rw [svcWrite_low hlow]
        exact State.modGSlot_gslot_same (s.setNum (svcKey m flag) 4 0) i (fun y => { y with
          installs := y.installs ++ [{ gen := n, bytes := bs, flagCore := m, flagAddr := flag }] })
    · refine ⟨storedBytes_svcWrite hlow (v := 2) (by norm_num) ?_, ?_⟩
      all_goals rw [if_neg (by rw [hbad]; exact Bool.false_ne_true)]
      · exact advance_mem ..
      · rw [svcWrite_low hlow]
        rfl
  · intro s i x xs hxs old new
    refine ⟨fun hfree hlow => ?_, fun hv hr => ?_⟩
    · have hslot : ((svcWrite (s.modGSlot i (fun y => y.install x)) x.flagCore x.flagAddr 4 1).gslot i) = (s.gslot i).install x := by
        rw [svcWrite_low hlow]
        exact State.modGSlot_gslot_same s i (fun y => y.install x)
      refine ⟨svcWrite (s.modGSlot i (fun y => y.install x)) x.flagCore x.flagAddr 4 1, ?_, ?_, ?_, ?_, ?_, ?_, ?_⟩
      · change execGtabInstallDone i s = _
        have hno : (old.valid && old.refs != 0) = false := by
          rcases hfree with h | h <;> simp [h]
        rw [execGtabInstallDone, hxs]
        exact congrArg _ (if_neg (by rw [hno]; exact Bool.false_ne_true))
      · exact storedBytes_svcWrite (s := s.modGSlot i (fun y => y.install x)) hlow (v := 1) (by norm_num) rfl
      · rw [hslot, install_installs, hxs]
        rfl
      · rw [hslot, install_older]
      · rw [hslot, entry_install_same]
      · rw [hslot, entry_install_other]
      · rw [hslot, install_ctx]
    · change execGtabInstallDone i s = _
      rw [execGtabInstallDone, hxs]
      dsimp only
      rw [if_pos (by simpa [old] using ⟨hv, hr⟩)]

end Sys2Proof.Proofs
end

section
/-! The end of a hold (06, R204, R242, R257), and the partial sorter (R308 to R310). -/

namespace Sys2Proof.Proofs
open Sys2Proof Sys2Proof.Machine

/-! ## The end of a hold -/

theorem modSeqr_modSeqr (s : State) (c : Core) (f g : Seqr → Seqr) : (s.modSeqr c f).modSeqr c g = s.modSeqr c (fun q => g (f q)) := by
  cases c with
  | tile l => exact modTile_modTile s (s.phys l) (fun t => { t with seqr := f t.seqr }) (fun t => { t with seqr := g t.seqr })
  | miller m =>
    simp only [State.modSeqr, State.modMiller, State.miller]
    rw [tget_tset_same, tset_tset]

/-- The state in which a sequencer goes on. -/
def letGo (s : State) (c : Core) : State := s.modSeqr c (fun q => { q with hold := .none, released := false })

/-- What the end of a hold does. -/
def wentOn (s : State) (c : Core) : Hold → State
  | .reg _ | .hazard | .attnRoom _ => letGo s c
  | .halted _ _ => loadAgain (letGo s c) c
  | .claim r sd => advance (claimSlot (letGo s c) c r (BitVec.ofNat 5 sd)) c 8
  | .take r sd => advance (takeSlot (letGo s c) c r (BitVec.ofNat 5 sd)) c 8
  | _ => advance (letGo s c) c 8

theorem sequencerResume_idle {s : State} {c : Core} (h : canIssue (letGo s c) c = false) : exec (.sequencerResume c) s = .next s := by
  change execSequencerResume c s = _
  have h : canIssue (s.modSeqr c (fun q => { q with hold := .none, released := false })) c = false := h
  simp [execSequencerResume, h]

theorem sequencerResume_holds {s : State} {c : Core} (h : canIssue (letGo s c) c = true) {k : Hold} (hk : (s.seqr c).hold = k) :
    exec (.sequencerResume c) s = .next (if holdOver s c k then wentOn s c k else s) := by
  change execSequencerResume c s = _
  have h : canIssue (s.modSeqr c (fun q => { q with hold := .none, released := false })) c = true := h
  unfold execSequencerResume
  rw [hk]
  dsimp only
  rw [h]
  cases holdOver s c k
  · rfl
  · cases k <;> rfl

/-- A choice by an entry that stands in a list. -/
theorem if_not_any {α β : Type} (xs : List α) (p : α → Bool) (q : α → Prop) (hp : ∀ a, p a = true ↔ q a) [Decidable (∃ a ∈ xs, q a)]
    (x y : β) : (if (!xs.any p) = true then x else y) = if ∃ a ∈ xs, q a then y else x := by
  have h : xs.any p = true ↔ ∃ a ∈ xs, q a := List.any_eq_true.trans (by simp only [hp])
  by_cases hq : ∃ a ∈ xs, q a
  · rw [if_pos hq, h.2 hq]
    rfl
  · rw [if_neg hq, Bool.not_eq_true _ |>.mp fun h' => hq (h.1 h')]
    rfl

theorem if_canTake {β : Type} (r : Ring) (x y : β) : (if r.canTake = true then x else y) = if r.c1 = r.c2 then y else x := by
  have h : r.canTake = true ↔ r.c1 ≠ r.c2 := by
    rw [Ring.canTake, decide_eq_true_eq]
    bv_omega
  by_cases hc : r.c1 = r.c2
  · rw [if_pos hc, if_neg fun h' => h.1 h' hc]
  · rw [if_neg hc, if_pos (h.2 hc)]

/-- A load that nothing asks for again is issued anew. -/
theorem loadAgain_nothing {s : State} {c : Core} (h : (s.seqr c).again = []) : loadAgain (letGo s c) c = letGo s c := by
  have hag : ((letGo s c).seqr c).again = [] := by rw [← h, letGo, State.modSeqr_seqr]
  unfold loadAgain
  rw [hag]
  refine (modSeqr_modSeqr ..).trans (modSeqr_congr ?_)
  rw [← h]

/-! ## The order of the sorter -/

/-- The order of the entries: larger values first, equal values by index. R309. -/
def Before (a b : Nat × W32) : Prop := sortKey b.2 < sortKey a.2 ∨ (sortKey a.2 = sortKey b.2 ∧ a.1 < b.1)

theorem mem_insertEnt (x e : Nat × W32) (ys : List (Nat × W32)) : e ∈ insertEnt x ys ↔ e = x ∨ e ∈ ys := by
  induction ys with
  | nil => simp [insertEnt]
  | cons y ys ih =>
    unfold insertEnt
    split
    · rw [List.mem_cons, ih, List.mem_cons]
      tauto
    · rw [List.mem_cons]

theorem insertEnt_length (x : Nat × W32) (ys : List (Nat × W32)) : (insertEnt x ys).length = ys.length + 1 := by
  induction ys with
  | nil => rfl
  | cons y ys ih =>
    unfold insertEnt
    split
    · rw [List.length_cons, ih, List.length_cons]
    · rfl

/-- An entry of a later index keeps the order. -/
theorem pairwise_insertEnt {x : Nat × W32} {ys : List (Nat × W32)} (h : ys.Pairwise Before) (hx : ∀ y ∈ ys, y.1 < x.1) :
    (insertEnt x ys).Pairwise Before := by
  induction ys with
  | nil => simp [insertEnt]
  | cons y ys ih =>
    obtain ⟨hy, hys⟩ := List.pairwise_cons.1 h
    unfold insertEnt
    split
    · next hle =>
      refine List.pairwise_cons.2 ⟨fun e he => ?_, ih hys fun z hz => hx z (List.mem_cons_of_mem _ hz)⟩
      rcases (mem_insertEnt ..).1 he with rfl | he
      · rcases lt_or_eq_of_le hle with h' | h'
        · exact .inl h'
        · exact .inr ⟨h'.symm, hx y (List.mem_cons_self ..)⟩
      · exact hy e he
    · next hlt =>
      have hlt : sortKey y.2 < sortKey x.2 := not_le.1 hlt
      refine List.pairwise_cons.2 ⟨fun e he => ?_, h⟩
      rcases List.mem_cons.1 he with rfl | he
      · exact .inl hlt
      · rcases hy e he with h' | ⟨h', -⟩
        · exact .inl (h'.trans hlt)
        · exact .inl (h' ▸ hlt)

/-- Entries in the order of their indexes are sorted. -/
theorem sorted_foldl {es acc : List (Nat × W32)} (hes : es.Pairwise (fun a b => a.1 < b.1)) (hacc : acc.Pairwise Before)
    (hlt : ∀ a ∈ acc, ∀ e ∈ es, a.1 < e.1) : let top := es.foldl (fun acc e => insertEnt e acc) acc
    (∀ e, e ∈ top ↔ e ∈ es ∨ e ∈ acc) ∧ top.length = es.length + acc.length ∧ top.Pairwise Before := by
  induction es generalizing acc with
  | nil => simpa using hacc
  | cons x es ih =>
    obtain ⟨hx, hes⟩ := List.pairwise_cons.1 hes
    obtain ⟨hmem, hlen, hpair⟩ := ih hes (pairwise_insertEnt hacc fun a ha => hlt a ha x (List.mem_cons_self ..)) fun a ha e he => by
      rcases (mem_insertEnt ..).1 ha with rfl | ha
      · exact hx e he
      · exact hlt a ha e (List.mem_cons_of_mem _ he)
    refine ⟨fun e => ?_, ?_, hpair⟩
    · rw [List.foldl_cons, hmem, mem_insertEnt, List.mem_cons]
      tauto
    · rw [List.foldl_cons, hlen, insertEnt_length, List.length_cons]
      omega

theorem zipIdx_increasing (vs : List W32) (k : Nat) : ((vs.zipIdx k).map (fun p => (p.2, p.1))).Pairwise (fun a b => a.1 < b.1) := by
  induction vs generalizing k with
  | nil => simp
  | cons v vs ih =>
    rw [List.zipIdx_cons, List.map_cons]
    refine List.pairwise_cons.2 ⟨fun e he => ?_, ih _⟩
    obtain ⟨⟨w, j⟩, hp, rfl⟩ := List.mem_map.1 he
    exact Nat.lt_of_succ_le (List.le_snd_of_mem_zipIdx hp)

theorem count_nan (vs : List W32) (k : Nat) : ((vs.zipIdx k).map (fun p => (p.2, p.1))).length -
    (((vs.zipIdx k).map (fun p => (p.2, p.1))).filter (fun e => !(f32 e.2).isNan)).length = (vs.filter (fun v => (f32 v).isNan)).length := by
  have h : (((vs.zipIdx k).map (fun p => (p.2, p.1))).filter (fun e => !(f32 e.2).isNan)).length =
      (vs.filter (fun v => !(f32 v).isNan)).length := by
    induction vs generalizing k with
    | nil => rfl
    | cons v vs ih =>
      rw [List.zipIdx_cons, List.map_cons, List.filter_cons, List.filter_cons]
      split <;> simp [ih]
  rw [h, List.length_map, List.length_zipIdx]
  have := List.length_eq_length_filter_add (l := vs) (fun v => (f32 v).isNan)
  omega

/-! ## The source words of the sorter -/

theorem chunks_take {α : Type} (n : Nat) (xs : List α) (k : Nat) : chunks n (xs.take (n * k)) k = chunks n xs k := by
  induction k generalizing xs with
  | zero => rfl
  | succ k ih =>
    change (xs.take (n * (k + 1))).take n :: chunks n ((xs.take (n * (k + 1))).drop n) k = xs.take n :: chunks n (xs.drop n) k
    rw [List.take_take, List.drop_take, Nat.mul_succ, Nat.add_sub_cancel, ih, Nat.min_eq_left (Nat.le_add_left ..)]

/-- The words of a source that lies in clean words of HBM. -/
theorem sortWords_hbm {s : State} {c : Core} {ctx base : Nat} {f : Nat → Nat} (n i : Nat) (acc : List Byte)
    (h : ∀ j, i ≤ j → j < i + n → 32 ∣ f j ∧ classify (s.word (f j)).2 = .clean ∧
      ctxAddr s ctx (base + 32 * j) permRead 32 false = (s, .here (.hbm (f j)))) :
    ∃ bs, sortWords s c ctx base i [] acc n = (s, .all (acc ++ bs)) ∧ bs.length = 32 * n ∧
      ∀ j, j < 32 * n → nth 0 bs j = s.byte (f (i + j / 32) + j % 32) := by
  induction n generalizing i acc with
  | zero => exact ⟨[], by rw [List.append_nil]; rfl, rfl, fun j hj => absurd hj (Nat.not_lt_zero _)⟩
  | succ n ih =>
    obtain ⟨hdvd, hclean, haddr⟩ := h i (Nat.le_refl _) (by omega)
    have hread : readWord s (.hbm (f i)) = (s, (s.word (f i)).1, .ok) := readWord_good (fun _ h => nomatch h) hclean
    obtain ⟨bs, hbs, hlen, hnth⟩ := ih (i + 1) (acc ++ natToBytes (s.word (f i)).1.toNat 32) fun j h1 h2 => h j (by omega) (by omega)
    refine ⟨natToBytes (s.word (f i)).1.toNat 32 ++ bs, ?_, ?_, fun j hj => ?_⟩
    · rw [sortWords, haddr]
      dsimp only
      rw [hread]
      dsimp only
      rw [hbs, List.append_assoc]
    · rw [List.length_append, natToBytes_length, hlen]
      omega
    · rw [nth_append, natToBytes_length]
      split
      · next hlt =>
        rw [nth_natToBytes _ hlt, byteOf_word _ _ hlt, Nat.div_mul_cancel hdvd, Nat.div_eq_of_lt hlt, Nat.mod_eq_of_lt hlt, Nat.add_zero]
      · next hge =>
        rw [hnth _ (by omega), show (j - 32) % 32 = j % 32 by omega, show i + 1 + (j - 32) / 32 = i + j / 32 by omega]

/-- The sorter reads no byte beyond its elements. -/
theorem sortVals_congr {r : SortRec} {bs src : List Byte} {n : Nat} (hn : n = (if r.fmt = 0 then 4 else 2) * r.n) (h : bs.take n = src) :
    sortVals r bs = sortVals r src := by
  unfold sortVals
  dsimp only
  rw [← h, hn, chunks_take]

/-! ## What the sorter leaves -/

/-- The state after the sorter. R309. -/
def sorted (s : State) (m : Nat) (sd : BitVec 5) (r : SortRec) (vs : List W32) : State :=
  advance ((s.setBytes (svcKey m r.dst) (sortOut r vs).1).modSeqr (.miller m)
    (fun q => { q.writeS sd (BitVec.ofNat 64 (sortOut r vs).2) with desc := none })) (.miller m) 8

theorem psort_sorted {s : State} {m : Nat} {g : Guard} {sd : BitVec 5} {ab : BitVec 4} {off : BitVec 32} {r : SortRec}
    (hx : Executes s (.miller m) g []) {n : Nat} (hn : n = r.n * if r.fmt = 0 then 4 else 2) {src : List Byte}
    (hr : sortRec (s.bytes (svcKey m (effAddr (s.seqr (.miller m)) ab off).toNat) 32) = some r)
    (hsrc : if r.ctx = 0xFFFF then src = s.bytes (svcKey m r.src) n
     else (s.seqr (.miller m)).desc = none ∧ ∃ f : Nat → Nat,
      (∀ i, i < (r.src % 32 + n + 31) / 32 → 32 ∣ f i ∧ classify (s.word (f i)).2 = .clean ∧
        ctxAddr s r.ctx (r.src - r.src % 32 + 32 * i) permRead 32 false = (s, .here (.hbm (f i)))) ∧
      src = (List.range n).map (fun j => s.byte (f ((r.src % 32 + j) / 32) + (r.src % 32 + j) % 32))) :
    exec (.psort (.miller m) g sd ab off) s = .next (sorted s m sd r (sortVals r src)) := by
  change execPsort (.miller m) g sd ab off s = _
  rw [execPsort, issue_executes hx rfl]
  dsimp only
  rw [hr]
  dsimp only
  by_cases hctx : r.ctx = 0xFFFF
  · rw [if_pos hctx] at hsrc
    rw [if_pos hctx, ← hn, ← hsrc]
    rfl
  · rw [if_neg hctx] at hsrc
    obtain ⟨hdesc, f, hf, hsrc⟩ := hsrc
    obtain ⟨bs, hbs, hlen, hnth⟩ := sortWords_hbm (c := .miller m) ((r.src % 32 + n + 31) / 32) 0 []
      (fun j _ hj => hf j (by omega))
    have hvals : sortVals r (bs.drop (r.src % 32)) = sortVals r src := by
      refine sortVals_congr (hn.trans (Nat.mul_comm ..)) (List.ext_getElem ?_ fun j h1 h2 => ?_)
      · rw [hsrc, List.length_take, List.length_drop, hlen, List.length_map, List.length_range]
        omega
      · rw [List.length_take, List.length_drop, hlen] at h1
        rw [List.getElem_take, List.getElem_drop, ← nth_eq_getElem 0, hnth _ (by omega), Nat.zero_add]
        simp only [hsrc, List.getElem_map, List.getElem_range]
    rw [if_neg hctx, hdesc, ← hn]
    dsimp only
    rw [show ceilDiv (r.src % 32 + n) 32 = (r.src % 32 + n + 31) / 32 from rfl, hbs]
    dsimp only
    rw [List.nil_append]
    unfold sortDone
    rw [hvals]
    rfl

theorem sorted_fields (s : State) (m : Nat) (sd : BitVec 5) (r : SortRec) (vs : List W32) :
    sorted s m sd r vs = { s with mem := (sorted s m sd r vs).mem, millers := (sorted s m sd r vs).millers } ∧
    (∀ j, (sorted s m sd r vs).byte j = (s.setBytes (svcKey m r.dst) (sortOut r vs).1).byte j) ∧
    ((sorted s m sd r vs).seqr (.miller m)).s sd = (if sd = 0 then 0 else BitVec.ofNat 64 (sortOut r vs).2) ∧
    ((sorted s m sd r vs).seqr (.miller m)).pc = (s.seqr (.miller m)).pc + 8 := by
  have hq : (sorted s m sd r vs).seqr (.miller m) =
      { { (s.seqr (.miller m)).writeS sd (BitVec.ofNat 64 (sortOut r vs).2) with desc := none } with
        pc := ((s.seqr (.miller m)).writeS sd (BitVec.ofNat 64 (sortOut r vs).2)).pc + 8 } := advance_seqr ..
  refine ⟨rfl, fun j => rfl, ?_, ?_⟩
  · rw [hq]
    refine (Seqr.writeS_s ..).trans ?_
    by_cases h : sd = 0
    · rw [if_neg (fun h' => h'.2 h), if_pos h, h]
      rfl
    · rw [if_pos ⟨rfl, h⟩, if_neg h]
  · rw [hq]
    exact congrArg (· + 8) (Seqr.writeS_pc ..)

/-- Settles O29: the sorter's output, and what each hold waits for. -/
theorem sortAndResume : Obligations.SortAndResume := by
  unfold Obligations.SortAndResume
  refine ⟨?_, ?_, ?_, ?_⟩
  · intro s m g sd ab off r hx q n src hr hsrc vs
    obtain ⟨h1, h2, h3, h4⟩ := sorted_fields s m sd r vs
    refine ⟨_, psort_sorted hx rfl hr hsrc, h1, fun i hi => ?_, fun j hj => ?_, h3, h4⟩
    · rw [h2, byte_setBytes, if_pos (by omega), Nat.add_sub_cancel_left]
    · rw [h2, byte_setBytes_outside _ _ _ _ hj]
  · intro s m g sd ab off hx hr
    change execPsort (.miller m) g sd ab off s = _
    rw [execPsort, issue_executes hx rfl]
    dsimp only
    rw [hr]
    rfl
  · intro s c q s1
    refine ⟨sequencerResume_idle, fun hcan => ⟨fun r hk => ?_, fun hk => ?_, fun e hk => ?_, fun x n hk => ?_, fun hk => ?_,
      fun k n hk => ?_, fun hk => ?_, fun hk => ?_, fun m hc hk => ?_, fun n sd hk => ?_, fun n sd hk => ?_, fun f a hk hag => ?_⟩⟩
    all_goals rw [sequencerResume_holds hcan hk]
    · exact congrArg _ (if_not_any _ _ _ (fun w => beq_iff_eq) _ _)
    · rfl
    · simp only [holdOver, decide_eq_true_eq]
      rfl
    · simp only [holdOver, Bool.or_eq_true]
      rfl
    · rfl
    · simp only [holdOver, passOver, decide_eq_true_eq]
      rfl
    · exact congrArg _ (if_not_any _ _ _ (fun w => beq_iff_eq) _ _)
    · exact congrArg _ (if_not_any _ _ _ (fun w => beq_iff_eq) _ _)
    · subst hc
      simp only [holdOver, Option.isNone_iff_eq_none]
      rfl
    · simp only [holdOver, Ring.canClaim, decide_eq_true_eq]
      rfl
    · exact congrArg _ (if_canTake ..)
    · exact congrArg _ (loadAgain_nothing hag)
  · intro r vs es good top
    have hes := zipIdx_increasing vs 0
    obtain ⟨hmem, hlen, hpair⟩ := sorted_foldl (es := good) (acc := []) (hes.filter _) List.Pairwise.nil (by simp)
    exact ⟨fun e => (hmem e).trans (by simp), hlen, hpair, count_nan vs 0⟩

end Sys2Proof.Proofs
end

section
/-! The Governor checks and dispatches runs (05, R186, R195 to R198, R201). -/

namespace Sys2Proof.Proofs
open Sys2Proof Sys2Proof.Machine

/-! ## A record is taken -/

theorem popHead_internal {s : State} {q : Nat} (h : (s.ring q).kind = .internal) :
    popHead s q = s.modRing q (fun g => { g with c0 := g.c0 + 1 }) := by
  rw [popHead, h, if_neg (by simp)]

/-- The record at the head of a die's run queue becomes a run. R195. -/
theorem takeRecord_good {s : State} {d : Nat} {bs : List Byte} (hk : (s.ring (s.gov d).runqRing).kind = .internal)
    (hon : (s.ring (s.gov d).runqRing).st = .on) (hne : (s.ring (s.gov d).runqRing).c1 ≠ (s.ring (s.gov d).runqRing).c0)
    (hread : headRecord s (s.gov d).runqRing = (s, bs, .ok)) :
    takeRecord s d = ({ s.modRing (s.gov d).runqRing (fun g => { g with c0 := g.c0 + 1 }) with nextRid := s.nextRid + 1 } : State).modGov d
      (fun g => { g with runs := g.runs ++ [{ rid := s.nextRid, rr := runRec bs, waitFrom := (s.mrc d).ticks }] }) := by
  have hcount : 0 < (s.ring (s.gov d).runqRing).count := by
    rw [Ring.count]
    bv_omega
  have hrec : recordAt s (s.ring (s.gov d).runqRing) (s.ring (s.gov d).runqRing).c0.toNat = (s, runRec bs) := by
    have hread : ringEntry s (s.ring (s.gov d).runqRing) (s.ring (s.gov d).runqRing).c0.toNat = (s, bs, .ok) := hread
    rw [recordAt, hread]
    rfl
  rw [takeRecord]
  dsimp only
  rw [if_pos ⟨hk, by rw [Ring.isOn, hon]; rfl, hcount⟩, hrec, popHead_internal hk]

/-! ## A checked run -/

theorem dispatchCheck_raw {s : State} {d : Nat} {r : Run} (hr : firstRaw s d = some r) {s1 : State} :
    (∀ rs, checkRun s r.rr = (s1, .ok rs) →
      exec (.dispatchCheck d) s = .next (s1.modRun d r.rid (fun r => { r with phase := .ready, regions := rs }))) ∧
    (∀ f, checkRun s r.rr = (s1, .error f) →
      exec (.dispatchCheck d) s = .next (endUnstarted s1 d r.rid (fun r => { r with fault := f, faultClass := clsDispatch }))) := by
  have h : exec (.dispatchCheck d) s = execDispatchCheck d s := rfl
  rw [h, execDispatchCheck, hr, Option.isSome_some, if_pos rfl, hr]
  dsimp only
  exact ⟨fun rs hc => by rw [hc], fun f hc => by rw [hc]⟩

/-! ## What a dispatched run holds -/

theorem foldl_modEngine (es : List Nat) (f : Engine → Engine) (hf : ∀ x, f (f x) = f x) (s : State) :
    es.foldl (fun s e => s.modEngine e f) s = { s with engines := (es.foldl (fun s e => s.modEngine e f) s).engines } ∧
    ∀ j, (es.foldl (fun s e => s.modEngine e f) s).engine j = if j ∈ es then f (s.engine j) else s.engine j := by
  induction es generalizing s with
  | nil => exact ⟨rfl, fun j => rfl⟩
  | cons e es ih =>
    obtain ⟨h1, h2⟩ := ih (s.modEngine e f)
    refine ⟨h1.trans rfl, fun j => (h2 j).trans ?_⟩
    rw [State.modEngine_engine]
    by_cases hje : j = e
    · subst hje
      simp [hf]
    · simp [hje]

theorem foldl_modLane (ls : List Nat) (f : Lane → Lane) (hf : ∀ x, f (f x) = f x) (s : State) :
    ls.foldl (fun s n => s.modLane n f) s = { s with grss := (ls.foldl (fun s n => s.modLane n f) s).grss } ∧
    ∀ j, (ls.foldl (fun s n => s.modLane n f) s).lane j = if j ∈ ls then f (s.lane j) else s.lane j := by
  induction ls generalizing s with
  | nil => exact ⟨rfl, fun j => rfl⟩
  | cons e ls ih =>
    obtain ⟨h1, h2⟩ := ih (s.modLane e f)
    refine ⟨h1.trans rfl, fun j => (h2 j).trans ?_⟩
    rw [State.modLane_lane]
    by_cases hje : j = e
    · subst hje
      simp [hf]
    · simp [hje]

theorem setTileGcap_frame (s : State) (p g : Nat) : setTileGcap s p g = { s with fan := (setTileGcap s p g).fan } := rfl

/-- The state of a tile's storage units before it takes its GCAP. -/
def woken (s : State) (r : Run) (rs : List Region) (p : Nat) : State :=
  touch (touch (touch (s.modTile p (fun t => { t.clear with seqr := startSeqr r rs })) (.mill p 0)) (.mill p 0x300000)) (.mill p 0x500000)

theorem woken_tile (s : State) (r : Run) (rs : List Region) (p j : Nat) :
    woken s r rs p = { s with tiles := (woken s r rs p).tiles } ∧
    ((woken s r rs p).tile j).seqr = if j = p then startSeqr r rs else (s.tile j).seqr := by
  have h := ((mpdOnly_touch (s.modTile p (fun t => { t.clear with seqr := startSeqr r rs })) p 0).trans (mpdOnly_touch _ p 0x300000)).trans
    (mpdOnly_touch _ p 0x500000)
  refine ⟨h.1, ?_⟩
  refine (congrArg Tile.seqr (h.2 j)).trans ?_
  rw [State.modTile_tile]
  split <;> rfl

/-- A tile of a run starts. R201. -/
theorem startTile_fields (s : State) (r : Run) (rs : List Region) (l j : Nat) :
    startTile s r rs l = { s with tiles := (startTile s r rs l).tiles, ltiles := (startTile s r rs l).ltiles, fan := (startTile s r rs l).fan } ∧
    ((startTile s r rs l).tile j).seqr = (if j = s.phys l then startSeqr r rs else (s.tile j).seqr) ∧
    (startTile s r rs l).ltile j = if j = l then { s.ltile l with st := .held, run := some r.rid } else s.ltile j := by
  obtain ⟨h1, h2⟩ := woken_tile s r rs (s.phys l) j
  have h : startTile s r rs l = (setTileGcap (woken s r rs (s.phys l)) (s.phys l) (s.ctx r.rr.ctx).gcap).modLTile l
      (fun x => { x with st := .held, run := some r.rid }) := rfl
  rw [h, setTileGcap_frame]
  generalize (setTileGcap (woken s r rs (s.phys l)) (s.phys l) (s.ctx r.rr.ctx).gcap).fan = fan
  generalize woken s r rs (s.phys l) = u at h1 h2
  refine ⟨?_, h2, ?_⟩
  · rw [h1]
    rfl
  · rw [State.modLTile_ltile, h1]
    rfl

/-- The tiles of a run start. R201. -/
theorem foldl_startTile (ls : List Nat) (r : Run) (rs : List Region) (s : State) :
    let t := ls.foldl (fun s l => startTile s r rs l) s
    t = { s with tiles := t.tiles, ltiles := t.ltiles, fan := t.fan } ∧
    (∀ j, (t.tile j).seqr = startSeqr r rs ∨ (t.tile j).seqr = (s.tile j).seqr) ∧
    (∀ l ∈ ls, (t.tile (s.phys l)).seqr = startSeqr r rs ∧ (t.ltile l).st = .held ∧ (t.ltile l).run = some r.rid) ∧
    (∀ l, t.ltile l = s.ltile l ∨ (t.ltile l).st = .held ∧ (t.ltile l).run = some r.rid) := by
  induction ls generalizing s with
  | nil => exact ⟨rfl, fun j => .inr rfl, fun l h => absurd h List.not_mem_nil, fun l => .inl rfl⟩
  | cons k ls ih =>
    obtain ⟨h1, h2, h3, h4⟩ := ih (startTile s r rs k)
    have hs := startTile_fields s r rs k
    rw [List.foldl_cons]
    generalize ls.foldl (fun s l => startTile s r rs l) (startTile s r rs k) = t at h1 h2 h3 h4
    generalize startTile s r rs k = u at hs h1 h2 h3 h4
    have hphys : ∀ l, u.phys l = s.phys l := fun l => by rw [(hs 0).1]; rfl
    refine ⟨?_, fun j => ?_, fun l hl => ?_, fun l => ?_⟩
    · refine h1.trans ?_
      rw [(hs 0).1]
    · have := h2 j
      rw [(hs j).2.1] at this
      split at this
      · exact .inl (this.elim id id)
      · exact this
    · by_cases hin : l ∈ ls
      · have := h3 l hin
        rwa [hphys] at this
      · obtain rfl : l = k := (List.mem_cons.1 hl).resolve_right hin
        have hseq := h2 (s.phys l)
        rw [(hs (s.phys l)).2.1, if_pos rfl] at hseq
        refine ⟨hseq.elim id id, ?_⟩
        rcases h4 l with h | h
        · rw [h, (hs l).2.2, if_pos rfl]
          exact ⟨rfl, rfl⟩
        · exact h
    · rcases h4 l with h | h
      · rw [h, (hs l).2.2]
        split
        · exact .inr ⟨rfl, rfl⟩
        · exact .inl rfl
      · exact .inr h

theorem startSeqr_s (r : Run) (rs : List Region) (h : r.rr.args.length = 8) {i : Nat} (hi : i < 8) :
    (startSeqr r rs).s (BitVec.ofNat 5 (i + 1)) = nth 0 r.rr.args i := by
  have hn : (BitVec.ofNat 5 (i + 1)).toNat = i + 1 := by
    rw [BitVec.toNat_ofNat]
    omega
  have h0 : BitVec.ofNat 5 (i + 1) ≠ 0 := by bv_omega
  rw [Seqr.s, if_neg h0, hn]
  refine (tget_tsetList ..).trans ?_
  rw [if_pos (by omega), Nat.add_sub_cancel]

theorem startSeqr_a (r : Run) (rs : List Region) {i : Nat} (hi : i < rs.length) (h16 : rs.length ≤ 16) :
    (startSeqr r rs).a (BitVec.ofNat 4 i) = BitVec.ofNat 64 (nth 0 (rs.map (fun g => g.base)) i) := by
  have hn : (BitVec.ofNat 4 i).toNat = i := by
    rw [BitVec.toNat_ofNat]
    omega
  rw [Seqr.a, hn]
  refine (tget_tsetList ..).trans ?_
  rw [if_pos (by rw [List.length_map]; omega), Nat.sub_zero, nth_eq_getElem _ _ (by rwa [List.length_map]),
    nth_eq_getElem _ _ (by rwa [List.length_map]), List.getElem_map, List.getElem_map]

/-- The state in which a run holds its engines and lanes. R196. -/
def granted (s : State) (d : Nat) (r : Run) : State :=
  ((freeLanes s d).take r.rr.nGrist).foldl (fun s n => s.modLane n (fun x => { x with run := some r.rid }))
    (((freeEngines s d).take r.rr.nAttn).foldl (fun s e => s.modEngine e (fun x => { x with grant := some r.rid })) s)

/-- The run as its dispatch leaves it. R196, R226. -/
def dispatchedRun (s : State) (d : Nat) (r : Run) (rs : List Region) (now : Nat) (x : Run) : Run :=
  { x with
    phase := .active, regions := rs, engines := (freeEngines s d).take r.rr.nAttn, slots := pickSlots 0 (freeSlots s d) r.rr.nStrm,
    lanes := (freeLanes s d).take r.rr.nGrist, startTick := now, progressTick := now }

/-- The tiles of a run that is dispatched. -/
def started (s : State) (d : Nat) (r : Run) (rs : List Region) : State :=
  r.rr.tileList.foldl (fun s l => startTile s r rs l) (granted s d r)

theorem dispatch_ready {s s1 : State} {d : Nat} {r : Run} {rs : List Region} (hr : s.run? d r.rid = some r) (hp : r.phase = .ready)
    (hc : checkRun s r.rr = (s1, .ok rs)) (hcan : canDispatch s1 d r = true) : exec (.dispatch d r.rid) s =
      .next ((started s1 d r rs).modRun d r.rid (dispatchedRun s1 d r rs (runTicks (started s1 d r rs) r))) := by
  have h : exec (.dispatch d r.rid) s = execDispatch d r.rid s := rfl
  rw [h, execDispatch, hr]
  dsimp only
  rw [if_neg (not_not.2 hp), hc]
  dsimp only
  rw [hcan]
  rfl

theorem granted_fields (s : State) (d : Nat) (r : Run) :
    granted s d r = { s with engines := (granted s d r).engines, grss := (granted s d r).grss } ∧
    (∀ e ∈ (freeEngines s d).take r.rr.nAttn, ((granted s d r).engine e).grant = some r.rid) ∧
    ∀ n ∈ (freeLanes s d).take r.rr.nGrist, ((granted s d r).lane n).run = some r.rid := by
  unfold granted
  obtain ⟨h1, h2⟩ := foldl_modEngine ((freeEngines s d).take r.rr.nAttn) (fun x => { x with grant := some r.rid }) (fun _ => rfl) s
  generalize ((freeEngines s d).take r.rr.nAttn).foldl (fun s e => s.modEngine e (fun x => { x with grant := some r.rid })) s = u at h1 h2
  obtain ⟨h3, h4⟩ := foldl_modLane ((freeLanes s d).take r.rr.nGrist) (fun x => { x with run := some r.rid }) (fun _ => rfl) u
  generalize ((freeLanes s d).take r.rr.nGrist).foldl (fun s n => s.modLane n (fun x => { x with run := some r.rid })) u = v at h3 h4
  refine ⟨?_, fun e he => ?_, fun n hn => ?_⟩
  · have heng : v.engines = u.engines := by rw [h3]
    rw [heng]
    refine h3.trans ?_
    rw [h1]
  · have hve : v.engine e = u.engine e := by rw [h3]; rfl
    rw [hve, h2, if_pos he]
  · rw [h4, if_pos hn]

theorem canDispatch_room {s : State} {d : Nat} {r : Run} (h : canDispatch s d r = true) :
    r.rr.nAttn ≤ (freeEngines s d).length ∧ r.rr.nGrist ≤ (freeLanes s d).length := by
  simp only [canDispatch, Bool.and_eq_true, decide_eq_true_eq] at h
  exact ⟨h.1.1.1.2, h.1.2⟩

/-- Settles O30: records, checks and dispatch. -/
theorem runsDispatch : Obligations.RunsDispatch := by
  unfold Obligations.RunsDispatch
  refine ⟨?_, ?_, ?_, ?_, ?_⟩
  · intro s d hnone hsome
    change execDispatchCheck d s = execDispatchCheck d (takeRecord s d)
    rw [execDispatchCheck, execDispatchCheck, hnone, hsome]
    rfl
  · intro s d bs q hk hon hne hread
    rw [takeRecord_good hk hon hne hread]
    refine ⟨?_, rfl, rfl, ?_⟩
    · exact congrArg Ring.c0 (State.modRing_ring_same s q (fun g => { g with c0 := g.c0 + 1 }))
    · rw [State.modGov_gov_same]
      rfl
  · intro s s1 d r rs hr hc hrun
    exact ⟨_, (dispatchCheck_raw hr).1 rs hc, rfl, modRun_self hrun (fun r => { r with phase := .ready, regions := rs }) fun _ => rfl⟩
  · intro s s1 d r f hr hc hrun hroom
    refine ⟨_, (dispatchCheck_raw hr).2 f hc, ?_⟩
    rw [endUnstarted_waits hrun hroom (fun r => { r with fault := f, faultClass := clsDispatch }) rfl fun _ => rfl]
    exact ⟨rfl, modRun_self hrun (fun r => { r with phase := .ended, fault := f, faultClass := clsDispatch }) fun _ => rfl⟩
  · intro s s1 d r rs hrun hphase hc hrun1 hcan hargs hregs
    obtain ⟨hattn, hgrist⟩ := canDispatch_room hcan
    obtain ⟨g1, g2, g3⟩ := granted_fields s1 d r
    obtain ⟨h1, -, h3, -⟩ := foldl_startTile r.rr.tileList r rs (granted s1 d r)
    have hstep := dispatch_ready hrun hphase hc hcan
    generalize hu : started s1 d r rs = u at hstep
    have hu' : r.rr.tileList.foldl (fun s l => startTile s r rs l) (granted s1 d r) = u := hu
    rw [hu'] at h1 h3
    generalize granted s1 d r = v at g1 g2 g3 h1 h3
    have hphys : ∀ l, u.phys l = v.phys l := fun l => by rw [h1]; rfl
    have hgov : u.run? d r.rid = s1.run? d r.rid := by
      rw [State.run?, State.run?, State.gov, h1, g1]
      rfl
    refine ⟨_, dispatchedRun s1 d r rs (runTicks u r) r, hstep, ?_, ?_, rfl, rfl, rfl, ?_, ?_, fun e he => ?_, fun n hn => ?_,
      fun l hl => ?_⟩
    · change u.mem = s1.mem
      rw [h1, g1]
    · exact modRun_self (hgov.trans hrun1) (dispatchedRun s1 d r rs (runTicks u r)) fun _ => rfl
    · exact List.length_take_of_le hattn
    · exact List.length_take_of_le hgrist
    · change (u.engine e).grant = _
      rw [← g2 e he, h1]
      rfl
    · change (u.lane n).run = _
      rw [← g3 n hn, h1]
      rfl
    · obtain ⟨hseq, hst, hr⟩ := h3 l hl
      have hseqr : ((u.modRun d r.rid (dispatchedRun s1 d r rs (runTicks u r))).seqr (.tile l)) = startSeqr r rs := by
        rw [← hseq, ← hphys]
        rfl
      rw [hseqr]
      exact ⟨hst, hr, rfl, rfl, fun i hi => startSeqr_s r rs hargs hi, fun i hi => startSeqr_a r rs hi hregs⟩

end Sys2Proof.Proofs
end

section
/-! The ends of runs (05, R198, R225 to R231). -/

namespace Sys2Proof.Proofs
open Sys2Proof Sys2Proof.Machine

/-! ## What the steps of a teardown touch -/

theorem foldl_frame {α : Type} (P : State → State → Prop) (hrefl : ∀ s, P s s) (htrans : ∀ s t u, P s t → P t u → P s u)
    (f : State → α → State) (xs : List α) (hf : ∀ s x, P s (f s x)) (s : State) : P s (xs.foldl f s) := by
  induction xs generalizing s with
  | nil => exact hrefl s
  | cons x xs ih => exact htrans _ _ _ (hf s x) (ih _)

/-- State `t` has the runs, engines and logical tiles of `s`, who runs on each lane, and every ring's room. -/
structure SameRuns (s t : State) : Prop where
  govs : t.govs = s.govs
  engines : t.engines = s.engines
  ltiles : t.ltiles = s.ltiles
  lane : ∀ n, (t.lane n).run = (s.lane n).run
  room : ∀ q, (t.ring q).room = (s.ring q).room

theorem SameRuns.refl (s : State) : SameRuns s s := ⟨rfl, rfl, rfl, fun _ => rfl, fun _ => rfl⟩

theorem SameRuns.trans {s t u : State} (h : SameRuns s t) (h' : SameRuns t u) : SameRuns s u :=
  ⟨h'.govs.trans h.govs, h'.engines.trans h.engines, h'.ltiles.trans h.ltiles, fun n => (h'.lane n).trans (h.lane n),
    fun q => (h'.room q).trans (h.room q)⟩

theorem sameRuns_foldl {α : Type} (f : State → α → State) (xs : List α) (hf : ∀ s x, SameRuns s (f s x)) (s : State) :
    SameRuns s (xs.foldl f s) :=
  foldl_frame SameRuns .refl (fun _ _ _ => .trans) f xs hf s

theorem sameRuns_modRing (s : State) (q : Nat) (f : Ring → Ring) (hf : ∀ g, (f g).room = g.room) : SameRuns s (s.modRing q f) := by
  refine ⟨rfl, rfl, rfl, fun _ => rfl, fun j => ?_⟩
  rw [State.modRing_ring]
  split
  · next h => rw [hf, h]
  · rfl

theorem sameRuns_modLane (s : State) (n : Nat) (f : Lane → Lane) (hf : ∀ x, (f x).run = x.run) : SameRuns s (s.modLane n f) := by
  refine ⟨rfl, rfl, rfl, fun j => ?_, fun _ => rfl⟩
  rw [State.modLane_lane]
  split
  · next h => rw [hf, h]
  · rfl

theorem sameRuns_detachRings (s : State) (k : Nat) (keep : List Nat) : SameRuns s (detachRings s k keep) := by
  unfold detachRings
  split
  · exact .refl s
  · refine sameRuns_foldl _ _ (fun u q => ?_) s
    exact sameRuns_modRing u q _ fun _ => rfl

theorem sameRuns_detachAgents (s : State) (dead : Agent → Bool) : SameRuns s (detachAgents s dead) := by
  refine sameRuns_foldl _ _ (fun u q => ?_) s
  exact sameRuns_modRing u q _ fun _ => rfl

theorem sameRuns_dropRefs (s : State) (rs : List GRef) : SameRuns s (dropRefs s rs) := by
  rw [dropRefs_frame]
  exact ⟨rfl, rfl, rfl, fun _ => rfl, fun _ => rfl⟩

theorem sameRuns_leaveXfer (s : State) (k : Nat) (x : Xfer) : SameRuns s (leaveXfer s k x) := by
  have h : SameRuns s (s.modSlot k (fun y => { y with xfers := y.xfers.filter (fun t => t.xid != x.xid) })) :=
    ⟨rfl, rfl, rfl, fun _ => rfl, fun _ => rfl⟩
  unfold leaveXfer
  dsimp only
  split
  · exact h.trans (sameRuns_modLane _ _ _ fun _ => rfl)
  · exact h

/-- A state with the same runs, engines, tiles, lanes and rings. -/
theorem SameRuns.of_same {s t : State} (h1 : t.govs = s.govs) (h2 : t.engines = s.engines) (h3 : t.ltiles = s.ltiles)
    (h4 : t.grss = s.grss) (h5 : t.hif = s.hif) : SameRuns s t :=
  ⟨h1, h2, h3, fun n => by rw [State.lane, State.grs, h4]; rfl, fun q => by rw [State.ring, h5]; rfl⟩

theorem sameRuns_freeSlot (s : State) (k : Nat) : SameRuns s (freeSlot s k) := by
  have h1 := (sameRuns_detachRings s k (keptRings s k)).trans (sameRuns_dropRefs _ (s.slot k).refs)
  have h2 := h1.trans (sameRuns_foldl (fun s x => leaveXfer s k x) (s.slot k).xfers (fun u x => sameRuns_leaveXfer u k x) _)
  unfold freeSlot
  dsimp only
  generalize (s.slot k).xfers.foldl (fun s x => leaveXfer s k x) (dropRefs (detachRings s k (keptRings s k)) (s.slot k).refs) = u at h2
  split
  · exact h2.trans (.of_same rfl rfl rfl rfl rfl)
  · exact h2.trans (.of_same rfl rfl rfl rfl rfl)

theorem sameRuns_passReset (s : State) (k : Nat) : SameRuns s (passReset s k) := .of_same rfl rfl rfl rfl rfl

/-! ## Slots that are freed -/

theorem modMrc_slot (s : State) (d : Nat) (f : Mrc → Mrc) (hf : ∀ m, (f m).slots = m.slots) (j : Nat) : (s.modMrc d f).slot j = s.slot j := by
  rw [State.slot, State.modMrc_mrc]
  split
  · next h => rw [hf, ← h]; rfl
  · rfl

theorem slot_congr_mrcs {s t : State} (h : t.mrcs = s.mrcs) (j : Nat) : t.slot j = s.slot j := by
  rw [State.slot, State.mrc, h]
  rfl

theorem detachRings_mrcs (s : State) (k : Nat) (keep : List Nat) : (detachRings s k keep).mrcs = s.mrcs := by
  unfold detachRings
  split
  · rfl
  · refine foldl_frame (fun u v => v.mrcs = u.mrcs) (fun _ => rfl) (fun _ _ _ h h' => h'.trans h) _ _ (fun u q => ?_) s
    rfl

theorem leaveXfer_slot_other (s : State) (k : Nat) (x : Xfer) {j : Nat} (h : j ≠ k) : (leaveXfer s k x).slot j = s.slot j := by
  have hs : (s.modSlot k (fun y => { y with xfers := y.xfers.filter (fun t => t.xid != x.xid) })).slot j = s.slot j := by
    rw [State.modSlot_slot, if_neg h]
  unfold leaveXfer
  dsimp only
  split <;> exact hs

theorem freeSlot_slot_eq (s : State) (k j : Nat) : (freeSlot s k).slot j = if j = k then {} else s.slot j := by
  by_cases h : j = k
  · rw [if_pos h, h, freeSlot_slot]
  · have h1 : (dropRefs (detachRings s k (keptRings s k)) (s.slot k).refs).slot j = s.slot j := by
      rw [dropRefs_frame]
      exact slot_congr_mrcs (detachRings_mrcs s k _) j
    have h2 := foldl_frame (fun u v => v.slot j = u.slot j) (fun _ => rfl) (fun _ _ _ h h' => h'.trans h) (fun s x => leaveXfer s k x)
      (s.slot k).xfers (fun u x => leaveXfer_slot_other u k x h) (dropRefs (detachRings s k (keptRings s k)) (s.slot k).refs)
    rw [if_neg h, ← h1, ← h2, freeSlot]
    generalize (s.slot k).xfers.foldl (fun s x => leaveXfer s k x) (dropRefs (detachRings s k (keptRings s k)) (s.slot k).refs) = u
    rw [State.modSlot_slot, if_neg h]
    split
    · refine (modMrc_slot _ _ _ ?_ j).trans ?_
      · exact fun _ => rfl
      · rfl
    · rfl

theorem foldl_freeSlot (ks : List Nat) (s : State) (j : Nat) :
    (ks.foldl (fun s k => passReset (freeSlot s k) k) s).slot j = if j ∈ ks then {} else s.slot j := by
  induction ks generalizing s with
  | nil => rfl
  | cons k ks ih =>
    rw [List.foldl_cons, ih, passReset_slot, freeSlot_slot_eq]
    by_cases h : j = k <;> by_cases h' : j ∈ ks <;> simp [h, h']

/-! ## Tiles that are cleared -/

theorem auditDevice_frame (s : State) (action result target detail : Nat) : ∃ m p i,
    auditDevice s action result target detail = { s with mgt := m, pins := p, i3c := i } := by
  unfold auditDevice auditAppend refreshAlert raiseIbi
  dsimp only
  repeat' split
  all_goals exact ⟨_, _, _, rfl⟩

theorem leaveTile_fields (s : State) (l : Nat) : ∃ x m p i, leaveTile s l = { s.modLTile l (fun _ => x) with mgt := m, pins := p, i3c := i } ∧
    x.run = none ∧ x.st ≠ .held := by
  unfold leaveTile
  dsimp only
  split
  · obtain ⟨m, p, i, h⟩ := auditDevice_frame (s.modLTile l (fun x => { x with st := .retiring, run := none, retire := false, failed := true }))
      opcTileRetire resDone (s.phys l) 0
    exact ⟨{ s.ltile l with st := .retiring, run := none, retire := false, failed := true }, m, p, i, h, rfl, by simp⟩
  · refine ⟨{ s.ltile l with st := if (s.ltile l).retire then .retiring else .free, run := none, retire := false }, _, _, _, rfl, rfl, ?_⟩
    dsimp only
    split <;> simp

/-- A cleared tile leaves its run, and no unit but the tiles changes. -/
theorem clearTile_fields (s : State) (l : Nat) : let t := clearTile s l
    t.govs = s.govs ∧ t.engines = s.engines ∧ t.grss = s.grss ∧ t.hif = s.hif ∧ t.mrcs = s.mrcs ∧
    (∀ j, j ≠ l → t.ltile j = s.ltile j) ∧ (t.ltile l).run = none ∧ (t.ltile l).st ≠ .held := by
  obtain ⟨u, hu⟩ : ∃ u, u = (dropRefs s ((s.tile (s.phys l)).queuedRefs ++ ((s.tile (s.phys l)).binRun.toList).flatMap BinOp.refs ++
    ((s.tile (s.phys l)).closes.filter (fun c => c.started)).flatMap (fun c => c.op.refs))) := ⟨_, rfl⟩
  obtain ⟨x, m, p, i, h, hrun, hst⟩ := leaveTile_fields (setTileGcap (u.modTile (s.phys l) Tile.clear) (s.phys l) 0) l
  have hc : clearTile s l = leaveTile (setTileGcap (u.modTile (s.phys l) Tile.clear) (s.phys l) 0) l := by rw [hu]; rfl
  have hfr := dropRefs_frame s ((s.tile (s.phys l)).queuedRefs ++ ((s.tile (s.phys l)).binRun.toList).flatMap BinOp.refs ++
    ((s.tile (s.phys l)).closes.filter (fun c => c.started)).flatMap (fun c => c.op.refs))
  rw [← hu] at hfr
  dsimp only
  rw [hc, h, setTileGcap_frame]
  generalize (setTileGcap (u.modTile (s.phys l) Tile.clear) (s.phys l) 0).fan = fan
  rw [hfr]
  refine ⟨rfl, rfl, rfl, rfl, rfl, fun j hj => ?_, ?_, ?_⟩
  · exact tget_tset_other {} s.ltiles x hj
  · change (tget ({} : LTile) (tset {} s.ltiles l x) l).run = none
    rw [tget_tset_same, hrun]
  · change (tget ({} : LTile) (tset {} s.ltiles l x) l).st ≠ .held
    rw [tget_tset_same]
    exact hst

theorem foldl_clearTile (ls : List Nat) (s : State) : let t := ls.foldl clearTile s
    t.govs = s.govs ∧ t.engines = s.engines ∧ t.grss = s.grss ∧ t.hif = s.hif ∧ t.mrcs = s.mrcs ∧
    (∀ l, (l ∈ ls ∨ ((s.ltile l).run = none ∧ (s.ltile l).st ≠ .held)) → (t.ltile l).run = none ∧ (t.ltile l).st ≠ .held) := by
  induction ls generalizing s with
  | nil => exact ⟨rfl, rfl, rfl, rfl, rfl, fun l h => h.resolve_left List.not_mem_nil⟩
  | cons k ls ih =>
    obtain ⟨h1, h2, h3, h4, h5, h6⟩ := ih (clearTile s k)
    obtain ⟨c1, c2, c3, c4, c5, c6, c7, c8⟩ := clearTile_fields s k
    rw [List.foldl_cons]
    generalize ls.foldl clearTile (clearTile s k) = t at h1 h2 h3 h4 h5 h6
    generalize clearTile s k = u at h1 h2 h3 h4 h5 h6 c1 c2 c3 c4 c5 c6 c7 c8
    refine ⟨h1.trans c1, h2.trans c2, h3.trans c3, h4.trans c4, h5.trans c5, fun l hl => h6 l ?_⟩
    by_cases hlk : l = k
    · exact .inr (hlk ▸ ⟨c7, c8⟩)
    · rw [c6 l hlk]
      exact hl.imp_left fun h => (List.mem_cons.1 h).resolve_left hlk

/-! ## A run that is torn down -/

/-- Without room for its record a run that has ended waits. R229. -/
theorem writeCpl_waits {s : State} {d rid : Nat} {r : Run} (hr : s.run? d rid = some r) (hroom : (s.ring r.rr.cplRing).room = false) :
    writeCpl s d rid = s := by
  simp [writeCpl, hr, hroom]

/-- What a torn-down run leaves. R228. -/
structure Torn (s t : State) (d : Nat) (r : Run) : Prop where
  run : ∃ x, t.run? d r.rid = some x ∧ x.phase = .ended ∧ x.fault = r.fault ∧ x.cancelled = r.cancelled
  tiles : ∀ l ∈ r.rr.tileList, (t.ltile l).run = none ∧ (t.ltile l).st ≠ .held
  engines : ∀ e ∈ r.engines, (t.engine e).grant = none ∧ (t.engine e).run = none ∧ (t.engine e).queue = []
  slots : ∀ k ∈ r.slots, t.slot k = {}
  lanes : ∀ n ∈ r.lanes, (t.lane n).run = none

theorem tearDown_torn {s : State} {d : Nat} {r : Run} (hr : s.run? d r.rid = some r) (hroom : (s.ring r.rr.cplRing).room = false) :
    Torn s (tearDown s d r) d r := by
  obtain ⟨u1, hu1⟩ : ∃ u, u = (runSlots r).foldl (fun s k => passReset (freeSlot s k) k) (s.disown (waitsFor r)) := ⟨_, rfl⟩
  have h1 : SameRuns s u1 := by
    have h0 : SameRuns s (s.disown (waitsFor r)) := .of_same rfl rfl rfl rfl rfl
    rw [hu1]
    exact h0.trans (sameRuns_foldl _ _ (fun u k => (sameRuns_freeSlot u k).trans (sameRuns_passReset _ k)) _)
  have hslot1 : ∀ j, j ∈ runSlots r → u1.slot j = {} := fun j hj => by rw [hu1, foldl_freeSlot, if_pos hj]
  obtain ⟨u2, hu2⟩ : ∃ u, u = detachAgents u1 (ofRun r) := ⟨_, rfl⟩
  have h2 : SameRuns s u2 := hu2 ▸ h1.trans (sameRuns_detachAgents u1 _)
  have hm2 : u2.mrcs = u1.mrcs := by
    rw [hu2]
    refine foldl_frame (fun u v => v.mrcs = u.mrcs) (fun _ => rfl) (fun _ _ _ h h' => h'.trans h) _ _ (fun u q => ?_) u1
    rfl
  obtain ⟨e1, e2⟩ := foldl_modEngine r.engines (fun x => { x with grant := none, queue := [], run := none, flume := [] }) (fun _ => rfl) u2
  obtain ⟨u3, hu3⟩ : ∃ u, u = r.engines.foldl (fun s e => s.modEngine e (fun x => { x with grant := none, queue := [], run := none, flume := [] }))
    u2 := ⟨_, rfl⟩
  rw [← hu3] at e1 e2
  obtain ⟨l1, l2⟩ := foldl_modLane r.lanes (fun x => { x with run := none }) (fun _ => rfl) u3
  obtain ⟨u4, hu4⟩ : ∃ u, u = r.lanes.foldl (fun s n => s.modLane n (fun x => { x with run := none })) u3 := ⟨_, rfl⟩
  rw [← hu4] at l1 l2
  obtain ⟨c1, c2, c3, c4, c5, c6⟩ := foldl_clearTile r.rr.tileList u4
  obtain ⟨u5, hu5⟩ : ∃ u, u = r.rr.tileList.foldl clearTile u4 := ⟨_, rfl⟩
  rw [← hu5] at c1 c2 c3 c4 c5 c6
  have hdef : tearDown s d r =
      writeCpl (u5.modRun d r.rid (fun x => { x with phase := .ended, endTick := runTicks u4 r })) d r.rid := by
    rw [hu5, hu4, hu3, hu2, hu1]
    rfl
  have hgov : u5.govs = s.govs := by rw [c1, l1, e1]; exact h2.govs
  have hrun : (u5.modRun d r.rid (fun x => { x with phase := .ended, endTick := runTicks u4 r })).run? d r.rid =
      some { r with phase := .ended, endTick := runTicks u4 r } := by
    refine modRun_self ?_ (fun x => { x with phase := .ended, endTick := runTicks u4 r }) fun _ => rfl
    rw [← hr, State.run?, State.gov, hgov]
    rfl
  have hring : u5.hif = u2.hif := by rw [c4, l1, e1]
  have hroom5 : ((u5.modRun d r.rid (fun x => { x with phase := .ended, endTick := runTicks u4 r })).ring r.rr.cplRing).room = false := by
    rw [← hroom, ← h2.room, State.ring, State.ring]
    exact congrArg (fun h : Hif => (tget {} h.rings r.rr.cplRing).room) hring
  rw [hdef, writeCpl_waits hrun hroom5]
  refine ⟨⟨_, hrun, rfl, rfl, rfl⟩, fun l hl => c6 l (.inl hl), fun e he => ?_, fun k hk => ?_, fun n hn => ?_⟩
  · have h : u5.engine e = u3.engine e := by rw [State.engine, c2, l1]; rfl
    change (u5.engine e).grant = none ∧ (u5.engine e).run = none ∧ (u5.engine e).queue = []
    rw [h, e2, if_pos he]
    exact ⟨rfl, rfl, rfl⟩
  · change u5.slot k = {}
    rw [slot_congr_mrcs (s := u1) (by rw [c5, l1, e1]; exact hm2), hslot1 k (List.mem_append_left _ hk)]
  · change (u5.lane n).run = none
    have h : u5.lane n = u4.lane n := by rw [State.lane, State.grs, c3]; rfl
    rw [h, l2, if_pos hn]

/-! ## The completion record -/

theorem notify_fields (s : State) (q : Nat) (b : Bool) : let t := notify s q b
    t.mem = s.mem ∧ t.govs = s.govs ∧ (t.ring q).c1 = (s.ring q).c1 := by
  have hm : ∀ f e, (msixSend s f e).mem = s.mem := fun f e => by unfold msixSend; split <;> rfl
  unfold notify msixSend
  dsimp only
  split
  · have hc : ((s.modRing q (fun g => { g with armed := false })).ring q).c1 = (s.ring q).c1 := by
      rw [State.modRing_ring_same]
    split
    · exact ⟨rfl, rfl, hc⟩
    · exact ⟨rfl, rfl, hc⟩
  · exact ⟨rfl, rfl, rfl⟩

/-- A record pushed onto an internal ring. -/
theorem pushRecord_internal {s : State} {q : Nat} {pl : Place} (hk : (s.ring q).kind = .internal)
    (hpl : s.entryPlace (s.ring q) (s.ring q).c1.toNat = some pl) (hf : frameRetired s pl = false) (bs : List Byte) :
    let t := pushRecord s q bs
    t.mem = (s.setBytes pl.key bs).mem ∧ t.govs = s.govs ∧ (t.ring q).c1 = (s.ring q).c1 + 1 := by
  have hput : s.putEntry (s.ring q) (s.ring q).c1.toNat bs = s.putBytes pl.key bs := by
    rw [State.putEntry, hpl]
    dsimp only
    rw [hf]
    rfl
  have hring : ((s.putBytes pl.key bs).modRing q (fun g => { g with c1 := g.c1 + 1 })).ring q = { s.ring q with c1 := (s.ring q).c1 + 1 } :=
    State.modRing_ring_same (s.putBytes pl.key bs) q (fun g => { g with c1 := g.c1 + 1 })
  have hshadow : shadowWrite ((s.putBytes pl.key bs).modRing q (fun g => { g with c1 := g.c1 + 1 })) q ((s.ring q).c1 + 1) =
      (s.putBytes pl.key bs).modRing q (fun g => { g with c1 := g.c1 + 1 }) := by
    have hin : ({ s.ring q with c1 := (s.ring q).c1 + 1 } : Ring).inHost = false := by rw [Ring.inHost]; dsimp only; rw [hk]; rfl
    rw [shadowWrite, hring, hin]
    rfl
  have hdef : pushRecord s q bs = notify ((s.putBytes pl.key bs).modRing q (fun g => { g with c1 := g.c1 + 1 })) q false := by
    unfold pushRecord
    dsimp only
    rw [hput, hshadow]
  obtain ⟨h1, h2, h3⟩ := notify_fields ((s.putBytes pl.key bs).modRing q (fun g => { g with c1 := g.c1 + 1 })) q false
  dsimp only
  rw [hdef]
  exact ⟨h1.trans rfl, h2.trans rfl, h3.trans (congrArg Ring.c1 hring)⟩

theorem run?_removed (s : State) (d rid : Nat) (f : Gov → Gov) (hf : (f (s.gov d)).runs = (s.gov d).runs.filter (fun x => x.rid != rid)) :
    (s.modGov d f).run? d rid = none := by
  rw [State.run?, State.modGov_gov, if_pos rfl, hf, List.find?_eq_none]
  intro x hx
  have := (List.mem_filter.1 hx).2
  simpa using this

/-- The record of a run that has ended is written. R231. -/
theorem writeCpl_written {s : State} {d rid : Nat} {r : Run} {pl : Place} (hr : s.run? d rid = some r) (hp : r.phase = .ended)
    (hk : (s.ring r.rr.cplRing).kind = .internal) (hroom : (s.ring r.rr.cplRing).room = true)
    (hpl : s.entryPlace (s.ring r.rr.cplRing) (s.ring r.rr.cplRing).c1.toNat = some pl) (hf : frameRetired s pl = false) :
    let t := writeCpl s d rid
    t.mem = (s.setBytes pl.key (cplBytes r (r.endTick - r.startTick))).mem ∧
      (t.ring r.rr.cplRing).c1 = (s.ring r.rr.cplRing).c1 + 1 ∧ t.run? d rid = none ∧
      (t.gov d).faultCnt = (if r.status = 1 ∨ r.status = 3 then min ((s.gov d).faultCnt + 1) (2 ^ 32 - 1) else (s.gov d).faultCnt) := by
  obtain ⟨h1, h2, h3⟩ := pushRecord_internal hk hpl hf (cplBytes r (r.endTick - r.startTick))
  have hg : (pushRecord s r.rr.cplRing (cplBytes r (r.endTick - r.startTick))).gov d = s.gov d := by
    rw [State.gov, h2]
    rfl
  dsimp only
  rw [writeCpl, hr]
  dsimp only
  rw [if_pos ⟨hp, hk, hroom⟩]
  generalize pushRecord s r.rr.cplRing (cplBytes r (r.endTick - r.startTick)) = u at h1 h2 h3 hg
  refine ⟨h1, h3, run?_removed u d rid _ rfl, ?_⟩
  rw [State.modGov_gov, if_pos rfl, hg]
  rfl

/-! ## A run that is stopped -/

theorem stop_not_running (t : Tile) : (t.stop .stopped).seqr.mode ≠ .running := by
  rw [Tile.stop]
  dsimp only
  split <;> simp

theorem stopTiles_not_running (ls : List Nat) (s : State) {p : Nat} (h : p ∈ ls.map s.phys ∨ (s.tile p).seqr.mode ≠ .running) :
    ((ls.foldl (fun s l => stopTile s (s.phys l)) s).tile p).seqr.mode ≠ .running := by
  induction ls generalizing s with
  | nil => exact h.resolve_left List.not_mem_nil
  | cons l ls ih =>
    refine ih (stopTile s (s.phys l)) ?_
    have hphys : (stopTile s (s.phys l)).phys = s.phys := by rw [stopTile_frame]; rfl
    rw [stopTile_tile, hphys]
    by_cases hp : p = s.phys l
    · rw [if_pos hp]
      exact .inr (stop_not_running _)
    · rw [if_neg hp]
      exact h.imp_left fun h => (List.mem_cons.1 h).resolve_left hp

theorem stopRun_not_running (s : State) (r : Run) {l : Nat} (hl : l ∈ r.rr.tileList) :
    ((stopRun s r).tile (s.phys l)).seqr.mode ≠ .running := by
  obtain ⟨es, h'⟩ := emptyQueues_frame (r.rr.tileList.foldl (fun s l => stopTile s (s.phys l)) s) r.engines
  unfold stopRun
  simp only
  rw [h']
  exact stopTiles_not_running _ s (.inl (List.mem_map_of_mem hl))

theorem stopRun_phys (s : State) (r : Run) (l : Nat) : (stopRun s r).phys l = s.phys l := by
  rw [stopRun_frame]
  rfl

/-- Settles O31: the ends of runs, the two watchdogs and ageing. -/
theorem runsEnd : Obligations.RunsEnd := by
  unfold Obligations.RunsEnd
  refine ⟨?_, ?_, ?_, ?_⟩
  · intro s d rid r hr hid hroom
    subst hid
    obtain ⟨h1, h2, h3, h4, h5⟩ := tearDown_torn hr hroom
    refine ⟨fun hp hq => ⟨tearDown s d r, ?_, h1, h2, h3, h4, h5⟩, fun hp hq => ⟨tearDown s d r, ?_, h1, h2, h3, h4, h5⟩⟩
    · change execRunEnd d r.rid s = _
      simp only [execRunEnd, hr, hp, hq, and_self, if_true]
    · change execRunStopped d r.rid s = _
      simp only [execRunStopped, hr, hp, hq, and_self, if_true]
  · intro s d rid r pl hr hp q bs hk hroom hpl hf
    obtain ⟨h1, h2, h3, h4⟩ := writeCpl_written hr hp hk hroom hpl hf
    refine ⟨writeCpl s d rid, ?_, ?_, h1, h2, h3, h4⟩
    · change execRunEnd d rid s = _
      simp [execRunEnd, hr, hp]
    · change execRunStopped d rid s = _
      simp [execRunStopped, hr, hp]
  · intro s d rid r hr hp w
    refine ⟨?_, ?_, fun f => ⟨faultRun_run? hr hp .., ?_, fun l hl => ?_⟩⟩
    · change execRunDeadlockWatchdog d rid s = _
      rw [execRunDeadlockWatchdog, hr]
      rfl
    · change execRunLimit d rid s = _
      rw [execRunLimit, hr]
      rfl
    · rw [faultRun_frame]
    · rw [faultRun_active hr hp]
      change ((stopRun s r).tile ((stopRun s r).phys l)).seqr.mode ≠ .running
      rw [stopRun_phys]
      exact stopRun_not_running s r hl
  · intro s d rid r hr hp hage
    refine ⟨s.modRun d rid (fun x => { x with aged := true }), ?_, rfl, modRun_self hr (fun x => { x with aged := true }) fun _ => rfl⟩
    change execRunAged d rid s = _
    simp only [execRunAged, hr, hp, hage, and_self, if_true]

end Sys2Proof.Proofs
end

section
/-! Counting stalls (05, R231 to R235). -/

namespace Sys2Proof.Proofs
open Sys2Proof Sys2Proof.Machine

/-! ## The counts of a tick -/

theorem causeCode_inj {a b : Cause} (h : causeCode a = causeCode b) : a = b := by
  revert h
  cases a <;> cases b <;> decide

/-- The counts of the causes `cs`, each counted once, from a list without repetitions. -/
theorem tget_bumpAll {cs : List Cause} (hcs : cs.Nodup) (bits : Nat) (t : Tab Nat) (c : Cause) :
    tget 0 (bumpAll bits t cs) (causeCode c) =
      if c ∈ cs then min (tget 0 t (causeCode c) + 1) (2 ^ bits - 1) else tget 0 t (causeCode c) := by
  induction cs generalizing t with
  | nil => rfl
  | cons x xs ih =>
    obtain ⟨hx, hxs⟩ := List.nodup_cons.1 hcs
    refine (ih hxs _).trans ?_
    rw [tget_tmod]
    by_cases hcx : c = x
    · subst hcx
      rw [if_neg hx, if_pos rfl, if_pos List.mem_cons_self]
      rfl
    · rw [if_neg (fun h => hcx (causeCode_inj h))]
      simp only [List.mem_cons, hcx, false_or]

theorem tickCauses_nodup (us : List (Nat × Cause)) : (tickCauses us).Nodup :=
  List.Nodup.filter _ (by decide)

theorem mem_causeOrder (c : Cause) : c ∈ causeOrder := by cases c <;> decide

theorem mem_tickCauses (us : List (Nat × Cause)) (c : Cause) :
    c ∈ tickCauses us ↔ ∃ u, (∃ c', (u, c') ∈ us) ∧ firstCause us u = some c := by
  rw [tickCauses, List.mem_filter, and_iff_right (mem_causeOrder c)]
  simp only [List.any_eq_true, beq_iff_eq, Prod.exists]
  constructor
  · rintro ⟨u, c', hu, hf⟩
    exact ⟨u, ⟨c', hu⟩, hf⟩
  · rintro ⟨u, ⟨c', hu⟩, hf⟩
    exact ⟨u, c', hu, hf⟩

theorem causeOrder_split {i : Nat} (hi : i < 11) :
    causeOrder = causeOrder.take i ++ nth .sluice causeOrder i :: causeOrder.drop (i + 1) := by
  interval_cases i <;> rfl

theorem mem_take_causeOrder {i : Nat} {c : Cause} (hc : c ∈ causeOrder.take i) :
    ∃ j, j < i ∧ nth .sluice causeOrder j = c := by
  obtain ⟨j, hj, rfl⟩ := List.getElem_of_mem hc
  have hji : j < i := by simp only [List.length_take] at hj; omega
  refine ⟨j, hji, ?_⟩
  rw [List.getElem_take]
  exact nth_eq_getElem ..

/-- The first cause in the order of R234 that a unit stalls for is the unit's cause. -/
theorem firstCause_of_first {us : List (Nat × Cause)} {u i : Nat} {c : Cause} (hi : i < 11) (hc : nth .sluice causeOrder i = c)
    (hu : (u, c) ∈ us) (hno : ∀ j, j < i → (u, nth .sluice causeOrder j) ∉ us) : firstCause us u = some c := by
  rw [firstCause, causeOrder_split hi, List.find?_append, List.find?_eq_none.2, Option.none_or, hc]
  · exact List.find?_cons_of_pos (List.contains_iff_mem.2 hu)
  · intro x hx
    obtain ⟨j, hj, rfl⟩ := mem_take_causeOrder hx
    rw [List.contains_iff_mem]
    exact hno j hj

/-! ## The state after a tick -/

theorem bumpRun_frame (s : State) (d : Nat) (run : Option Nat) (cs : List Cause) :
    bumpRun s d run cs = { s with govs := (bumpRun s d run cs).govs } := by
  cases run <;> rfl

theorem bumpRun_run {s : State} {d : Nat} {r : Run} (hr : s.run? d r.rid = some r) (cs : List Cause) :
    (bumpRun s d (some r.rid) cs).run? d r.rid = some { r with stall := bumpAll 32 r.stall cs } :=
  modRun_self hr (fun r => { r with stall := bumpAll 32 r.stall cs }) (fun _ => rfl)

theorem modSlot_stall (s : State) (k d : Nat) (f : Slot → Slot) : ((s.modSlot k f).mrc d).stall = (s.mrc d).stall := by
  rw [State.modSlot, State.modMrc_mrc]
  split
  · next h => rw [h]
  · rfl

theorem noteWait_frame (s : State) (k : Nat) : noteWait s k = { s with mrcs := (noteWait s k).mrcs } := by
  unfold noteWait
  dsimp only
  split <;> rfl

theorem noteWait_stall (s : State) (k d : Nat) : ((noteWait s k).mrc d).stall = (s.mrc d).stall := by
  unfold noteWait
  dsimp only
  split <;> exact modSlot_stall ..

/-! ## What stalls -/

theorem tileStalls_of {s : State} {l : Nat} {r : Run} (hl : s.logOf (s.phys l) = some l) (hr : s.runOf l = some r)
    (ha : r.phase = .active) {c : Cause} (hc : c ∈ seqCauses s l) : (0, c) ∈ tileStalls s (s.phys l) := by
  simp only [tileStalls, hl, hr]
  rw [if_neg (not_not_intro ha)]
  simp only [List.mem_append, List.mem_map]
  exact .inl (.inl (.inl (.inl ⟨c, .inl hc, rfl⟩)))

/-- A sequencer that holds stalls for the cause of its hold. -/
theorem held_stalls {s : State} {l : Nat} {r : Run} (us : List (Nat × Cause)) (hl : s.logOf (s.phys l) = some l)
    (hr : s.runOf l = some r) (ha : r.phase = .active) {c : Cause} (hc : c ∈ seqCauses s l) :
    (0, c) ∈ agentStalls s (.tile (s.phys l)) us :=
  List.mem_append_left _ (tileStalls_of hl hr ha hc)

theorem waits_fabric_iff (q : Seqr) (i : Nat) :
    q.waiting.any (fun w => w.1 == i && w.2) = decide ((i, true) ∈ q.waiting) := by
  rw [Bool.eq_iff_iff, decide_eq_true_iff]
  simp only [List.any_eq_true, Bool.and_eq_true, beq_iff_eq, Prod.exists]
  constructor
  · rintro ⟨a, b, h, rfl, rfl⟩
    exact h
  · intro h
    exact ⟨i, true, h, rfl, rfl⟩

theorem slot_stalls {s : State} {k : Nat} {c : Cause} (us : List (Nat × Cause)) (hc : c ∈ slotCauses s k) :
    (0, c) ∈ agentStalls s (.slot k) us :=
  List.mem_append_left _ (List.mem_map.2 ⟨c, hc, rfl⟩)

theorem slotCauses_halted {s : State} {k : Nat} (h : (s.slot k).st = .halted) :
    slotCauses s k = (if weirOk s (k / 256) (s.slot k).ctx then [] else [.rate]) ++ [.page] := by
  rw [slotCauses, h]

theorem strmLive_running {s : State} {k : Nat} (h : strmLive s k = true) : (s.slot k).st = .running := by
  simp only [strmLive, Bool.and_eq_true, beq_iff_eq] at h
  exact h.1.1.1.1

theorem slotCauses_empty_bucket {s : State} {k : Nat} {d : StrmDesc} (hd : slotDesc s (s.slot k) = some d)
    (hl : strmLive s k = true) (hw : weirOk s (k / 256) (s.slot k).ctx = false) : slotCauses s k = [.rate] := by
  rw [slotCauses, strmLive_running hl]
  simp only [issueNext, hd, hl, hw]
  rfl

/-! ## The three agents -/

theorem tile_tick (s : State) (p : Nat) (us : List (Nat × Cause)) :
    ∃ t, exec (.stallTick (.tile p) us) s = .next t ∧ t = { s with tiles := t.tiles, govs := t.govs } ∧
      (t.tile p).stall = bumpAll 64 (s.tile p).stall (tickCauses (agentStalls s (.tile p) us)) ∧
      (∀ j, j ≠ p → t.tile j = s.tile j) ∧
      ∀ l r, s.logOf p = some l → (s.ltile l).run = some r.rid → s.run? (l / 48) r.rid = some r →
        t.run? (l / 48) r.rid = some { r with stall := bumpAll 32 r.stall (tickCauses (agentStalls s (.tile p) us)) } := by
  change ∃ t, execStallTick (.tile p) us s = .next t ∧ _
  simp only [execStallTick]
  generalize tickCauses (agentStalls s (.tile p) us) = cs
  refine ⟨_, rfl, ?_⟩
  cases hlog : s.logOf p with
  | none =>
    refine ⟨rfl, congrArg Tile.stall (State.modTile_tile_same ..), fun j hj => ?_, fun l r hl => nomatch hl⟩
    rw [State.modTile_tile, if_neg hj]
  | some l =>
    dsimp only
    have hf := bumpRun_frame (s.modTile p (fun t => { t with stall := bumpAll 64 t.stall cs })) (l / 48) (s.ltile l).run cs
    have ht : ∀ j, (bumpRun (s.modTile p (fun t => { t with stall := bumpAll 64 t.stall cs })) (l / 48) (s.ltile l).run cs).tile j =
        (s.modTile p (fun t => { t with stall := bumpAll 64 t.stall cs })).tile j := by
      intro j; rw [hf]; rfl
    refine ⟨by rw [hf]; rfl, by rw [ht, State.modTile_tile_same], fun j hj => ?_, fun l' r hl hrun hr => ?_⟩
    · rw [ht, State.modTile_tile, if_neg hj]
    · cases hl
      rw [hrun]
      exact bumpRun_run hr cs

theorem engine_tick (s : State) (e : Nat) (us : List (Nat × Cause)) :
    ∃ t, exec (.stallTick (.engine e) us) s = .next t ∧ t = { s with engines := t.engines, govs := t.govs } ∧
      (t.engine e).stall = bumpAll 64 (s.engine e).stall (tickCauses (agentStalls s (.engine e) us)) ∧
      (∀ j, j ≠ e → t.engine j = s.engine j) ∧
      ∀ r, (s.engine e).grant = some r.rid → s.run? (e / 12) r.rid = some r →
        t.run? (e / 12) r.rid = some { r with stall := bumpAll 32 r.stall (tickCauses (agentStalls s (.engine e) us)) } := by
  change ∃ t, execStallTick (.engine e) us s = .next t ∧ _
  simp only [execStallTick]
  generalize tickCauses (agentStalls s (.engine e) us) = cs
  refine ⟨_, rfl, ?_⟩
  have hf := bumpRun_frame (s.modEngine e (fun x => { x with stall := bumpAll 64 x.stall cs })) (e / 12) (s.engine e).grant cs
  have ht : ∀ j, (bumpRun (s.modEngine e (fun x => { x with stall := bumpAll 64 x.stall cs })) (e / 12) (s.engine e).grant cs).engine j =
      (s.modEngine e (fun x => { x with stall := bumpAll 64 x.stall cs })).engine j := by
    intro j; rw [hf]; rfl
  refine ⟨by rw [hf]; rfl, by rw [ht, State.modEngine_engine_same], fun j hj => ?_, fun r hg hr => ?_⟩
  · rw [ht, State.modEngine_engine, if_neg hj]
  · rw [hg]
    exact bumpRun_run hr cs

theorem slot_tick (s : State) (k : Nat) (us : List (Nat × Cause)) :
    ∃ t, exec (.stallTick (.slot k) us) s = .next t ∧ t = { s with mrcs := t.mrcs } ∧
      (t.mrc (k / 256)).stall = bumpAll 64 (s.mrc (k / 256)).stall (tickCauses (agentStalls s (.slot k) us)) := by
  change ∃ t, execStallTick (.slot k) us s = .next t ∧ _
  simp only [execStallTick]
  generalize tickCauses (agentStalls s (.slot k) us) = cs
  refine ⟨_, rfl, ?_, ?_⟩
  · exact (noteWait_frame _ k).trans rfl
  · rw [noteWait_stall, State.modMrc_mrc_same]

/-- Settles O32: the causes of a tick are a list without repetitions, each counted once by `bumpAll`. -/
theorem stallsCountOnce : Obligations.StallsCountOnce := by
  unfold Obligations.StallsCountOnce
  refine ⟨fun s p us => ?_, fun s e us => ?_, fun s k us => ?_, mem_tickCauses, fun us u i c hi hc hu hno =>
    firstCause_of_first hi hc hu hno, ?_, fun s k us h => ?_, fun s k d us hd hl hw => ?_⟩
  · obtain ⟨t, ht, hframe, hstall, hother, hrun⟩ := tile_tick s p us
    refine ⟨t, ht, hframe, fun c => ?_, hother, fun l r hl hlr hr => ⟨_, hrun l r hl hlr hr, fun c => ?_⟩⟩
    · rw [hstall, tget_bumpAll (tickCauses_nodup _)]
    · exact tget_bumpAll (tickCauses_nodup _) 32 r.stall c
  · obtain ⟨t, ht, hframe, hstall, hother, hrun⟩ := engine_tick s e us
    refine ⟨t, ht, hframe, fun c => ?_, hother, fun r hg hr => ⟨_, hrun r hg hr, fun c => ?_⟩⟩
    · rw [hstall, tget_bumpAll (tickCauses_nodup _)]
    · exact tget_bumpAll (tickCauses_nodup _) 32 r.stall c
  · obtain ⟨t, ht, hframe, hstall⟩ := slot_tick s k us
    refine ⟨t, ht, hframe, fun c => ?_⟩
    rw [hstall, tget_bumpAll (tickCauses_nodup _)]
  · intro s l r us q hl hr ha hq
    have hold : ∀ {c}, c ∈ seqCauses s l → (0, c) ∈ agentStalls s (.tile (s.phys l)) us := held_stalls us hl hr ha
    have hmode : ¬ (s.tile (s.phys l)).seqr.mode ≠ .running := not_not_intro hq
    refine ⟨fun n sd h => ?_, fun n sd h => ?_, fun x n h => ?_, fun h => ?_, fun i h => ?_, fun k n h hn c hc => ?_⟩ <;>
      refine hold ?_ <;> rw [seqCauses, if_neg hmode, show (s.tile (s.phys l)).seqr.hold = _ from h]
    · exact List.mem_singleton_self _
    · exact List.mem_singleton_self _
    · exact List.mem_singleton_self _
    · exact List.mem_singleton_self _
    · dsimp only
      rw [waits_fabric_iff]
      by_cases hw : (i, true) ∈ q.waiting
      · rw [if_pos hw, if_pos (decide_eq_true hw)]
        exact List.mem_singleton_self _
      · rw [if_neg hw, if_neg (by rwa [decide_eq_true_iff])]
        exact List.mem_singleton_self _
    · dsimp only
      rw [if_neg (by rw [passOver, decide_eq_true_iff]; omega)]
      exact hc
  · refine ⟨slot_stalls us ?_, fun hw => slot_stalls us ?_⟩
    · rw [slotCauses_halted h]
      exact List.mem_append_right _ (List.mem_singleton_self _)
    · rw [slotCauses_halted h, hw]
      exact List.mem_append_left _ (List.mem_singleton_self _)
  · refine slot_stalls us ?_
    rw [slotCauses_empty_bucket hd hl hw]
    exact List.mem_singleton_self _

end Sys2Proof.Proofs
end

section
/-! Transfers between two Millpond places (08, R340 to R352, R381, R433). -/

namespace Sys2Proof.Proofs
open Sys2Proof Sys2Proof.Machine

/-! ## The places of stream addresses -/

/-- State `t` has the runs, owner tags and tile maps of `s`: what decides the place of a Millpond address. -/
structure SamePlaces (s t : State) : Prop where
  govs : t.govs = s.govs
  owner : t.owner = s.owner
  lmap : t.lmap = s.lmap
  fuseLmap : t.fuseLmap = s.fuseLmap
  memb : t.memb = s.memb

theorem SamePlaces.refl (s : State) : SamePlaces s s := ⟨rfl, rfl, rfl, rfl, rfl⟩

theorem SamePlaces.phys {s t : State} (h : SamePlaces s t) (l : Nat) : t.phys l = s.phys l := by
  unfold State.phys fusedPhys
  rw [h.lmap, h.fuseLmap]

theorem SamePlaces.placeFor {s t : State} (h : SamePlaces s t) (ctx : Nat) (write : Bool) (a : Nat) :
    placeFor t ctx write a = placeFor s ctx write a := by
  have hl : locate t a = locate s a := by
    unfold locate
    dsimp only
    rw [h.phys]
  have ho (pl : Place) : owned t ctx pl = owned s ctx pl := by
    unfold owned ownerOf
    rw [h.owner]
  have hr (pl : Place) : frameRetired t pl = frameRetired s pl := by
    unfold frameRetired
    rw [h.memb]
  unfold Machine.placeFor
  rw [hl]
  simp only [ho, hr]

/-- A Millpond address keeps the state, and its place is the same where runs, owners and tile maps are. -/
theorem strmAddr_places {s t : State} (h : SamePlaces s t) (k : Nat) (sl : Slot) {a : Nat} (ha : a / 2 ^ 62 = 1) (perm n : Nat) :
    strmAddr t k sl a perm n = (t, (strmAddr s k sl a perm n).2) := by
  have hb : bitsOf a 62 2 = 1 := by rw [bitsOf, ha]; rfl
  have hrun : slotRun t k sl = slotRun s k sl := by
    unfold slotRun State.run? State.gov
    rw [h.govs]
  unfold strmAddr
  rw [if_pos hb, if_pos hb, hrun]
  simp only [h.placeFor]
  repeat' split
  all_goals rfl

theorem strmPlace_here {s t : State} (h : SamePlaces s t) {k a perm n : Nat} {pl : Place} (hp : StrmPlace s k a perm n pl) :
    strmAddr t k (s.slot k) a perm n = (t, .here pl) := by
  rw [strmAddr_places h k _ hp.1, hp.2.1]

theorem locate_mill {s : State} {a : Nat} {pl : Place} (ha : hbmEnd ≤ a) (h : locate s a = some pl) :
    ∃ p, pl = .mill p ((a - 0x100000000000) % 0x800000) := by
  unfold locate at h
  rw [if_neg (Nat.not_lt.2 ha)] at h
  dsimp only at h
  split at h
  · split at h
    · exact ⟨_, (Option.some.inj h).symm⟩
    · cases h
  · cases h

theorem placeFor_located {s : State} {ctx a : Nat} {write : Bool} {pl : Place} (h : placeFor s ctx write a = .here pl) :
    locate s a = some pl := by
  unfold placeFor at h
  split at h
  · cases h
  · next hl =>
    split at h
    · cases h
    · cases h
      exact hl

theorem placeFor_mill {s : State} {ctx : Nat} {write : Bool} {x off : Nat} (hoff : off < 0x800000) {pl : Place}
    (h : placeFor s ctx write (0x100000000000 + x * 0x800000 + off) = .here pl) : ∃ p, pl = .mill p off := by
  obtain ⟨p, hp⟩ := locate_mill (by unfold hbmEnd; omega) (placeFor_located h)
  have hmod : (0x100000000000 + x * 0x800000 + off - 0x100000000000) % 0x800000 = off := by omega
  exact ⟨p, hp.trans (congrArg (Place.mill p) hmod)⟩

theorem mpTarget_off {r : Run} {l a t off : Nat} (h : mpTarget r l a = some (t, off)) : off = a % 0x800000 := by
  unfold mpTarget at h
  split at h
  · cases h
  · next m hm =>
    obtain ⟨t', -, ht⟩ := Option.map_eq_some_iff.1 h
    cases ht
    unfold mpDecode at hm
    repeat' split at hm
    all_goals cases hm
    all_goals rfl

/-- A Millpond address of a stream names the byte at its offset modulo 8 MiB, of some tile. -/
theorem strmPlace_mill {s : State} {k a perm n : Nat} {pl : Place} (hp : StrmPlace s k a perm n pl) :
    ∃ p, pl = .mill p (a % 0x800000) := by
  obtain ⟨ha, h, -⟩ := hp
  have hb : bitsOf a 62 2 = 1 := by rw [bitsOf, ha]; rfl
  unfold strmAddr at h
  rw [if_pos hb] at h
  have hlt : a % 0x800000 < 0x800000 := Nat.mod_lt _ (by norm_num)
  split at h
  · split at h
    · cases h
    · exact placeFor_mill hlt h
  · split at h
    · cases h
    · split at h
      · cases h
      · next ht =>
        have hoff := mpTarget_off ht
        rw [show a % 2 ^ 32 % 0x800000 = a % 0x800000 by omega] at hoff
        subst hoff
        split at h
        · cases h
        · exact placeFor_mill hlt h
  · cases h

theorem pieces_one {a n : Nat} (hn : 0 < n) (h : a % 4096 + n ≤ 4096) (f : Nat) : pieces a n (f + 2) = [(a, n)] := by
  rw [pieces, if_neg (by omega)]
  dsimp only
  rw [Nat.min_eq_left (by omega), Nat.sub_self, pieces, if_pos rfl]

/-! ## The issue of a transfer -/

theorem samePlaces_modSlot {s t : State} (h : SamePlaces s t) (k : Nat) (f : Slot → Slot) : SamePlaces s (t.modSlot k f) :=
  ⟨h.govs, h.owner, h.lmap, h.fuseLmap, h.memb⟩

theorem issueNext_element {s : State} {k : Nat} {d : StrmDesc} {x : TDesc} (h : NextTransfer s k d x) (hc : d.codec = 0) :
    issueNext s k = issueElem s k (s.slot k) d x := by
  obtain ⟨he, hd, hlive, hweir, hcur, hok⟩ := h
  have hdesc : slotDesc s (s.slot k) = some d := by rw [slotDesc, he]; exact hd
  have henc : encReady s d = true := by rw [encReady, hc]; rfl
  simp only [issueNext, hdesc, hlive, hweir, henc, hcur, hok]
  rfl

theorem dstRings_none {d : StrmDesc} (h : d.dstRing = none) : d.dstRings = [] := by rw [StrmDesc.dstRings, h]

/-- An element without rings begins with its record. -/
theorem acquire_without_rings (s : State) (k : Nat) {d : StrmDesc} (r : ElemRec) (hs : d.srcRing = none) (hd : d.dstRing = none) :
    acquire s k d r = ((s.modSlot k (fun x => x.setRec r)).modSlot k (fun x => x.setRec r), r, true) := by
  have htake (u : State) : takeSrc u d r = some (u, r) := by rw [takeSrc, hs]
  have hclaim (u : State) : claimDst u d r = some (u, r) := by rw [claimDst, dstRings_none hd]; rfl
  simp only [acquire, hs, hd, if_true, htake, hclaim]

theorem rec?_names {sl : Slot} {p : Pos} {r : ElemRec} (h : sl.rec? p.desc p.elem = some r) : r.desc = p.desc ∧ r.elem = p.elem := by
  have := List.find?_some h
  simpa using this

/-- The record of the element at the next position. -/
def nextRec (sl : Slot) : ElemRec :=
  (sl.rec? sl.next.desc sl.next.elem).getD { desc := sl.next.desc, elem := sl.next.elem, idx := sl.nextIdx, block := sl.nextBlock }

theorem nextRec_elem (sl : Slot) : (nextRec sl).elem = sl.next.elem := by
  unfold nextRec
  cases h : sl.rec? sl.next.desc sl.next.elem with
  | none => rfl
  | some r => exact (rec?_names h).2

theorem partSpan_whole {da len : Nat} (hda : da % 4096 + len ≤ 4096) : partSpan [da] len 0 = (0, len) := by
  have hr : roomAt [da] 0 = 4096 - da % 4096 := by
    simp [roomAt, listMin]
  rw [partSpan, hr, Nat.min_eq_left (by omega)]

theorem checkSpan_here {s : State} {f : State → Nat → Nat → State × CA} {a n p o : Nat} (h : f s a n = (s, .here (.mill p o))) :
    checkSpan s f [(a, n)] = (s, false, none) := by
  simp only [checkSpan, h]
  rfl

/-- A transfer between two Millpond places takes no request of the fabric. -/
theorem checkXfer_mill {s u : State} (hu : SamePlaces s u) {k m : Nat} {sa da : W64} {p1 p2 : Place}
    (hm : 0 < m) (hsa : sa.toNat % 4096 + m ≤ 4096) (hda : da.toNat % 4096 + m ≤ 4096)
    (h1 : StrmPlace s k sa.toNat permRead m p1) (h2 : StrmPlace s k da.toNat permWrite m p2) :
    checkXfer u k (s.slot k) false false (some sa) [da] m m = (u, false, none) := by
  obtain ⟨q1, hq1⟩ := strmPlace_mill h1
  obtain ⟨q2, hq2⟩ := strmPlace_mill h2
  have hsrc : srcAddr u k (s.slot k) false sa.toNat m = (u, .here (.mill q1 (sa.toNat % 0x800000))) := by
    rw [srcAddr, if_neg (by simp), strmPlace_here hu h1, hq1]
  have hdst : strmAddr u k (s.slot k) da.toNat permWrite m = (u, .here (.mill q2 (da.toNat % 0x800000))) := by
    rw [strmPlace_here hu h2, hq2]
  rw [checkXfer, srcPieces, pieces_one hm hsa, checkSpan_here (f := fun s a n => srcAddr s k _ false a n) hsrc]
  dsimp only
  rw [checkDsts, pieces_one hm hda, checkSpan_here (f := fun s a n => strmAddr s k _ a permWrite n) hdst]
  rfl

theorem mergeMore_first (s : State) (k : Nat) (d : StrmDesc) (t : TDesc) (src : W64) (dst : List W64) (room n : Nat)
    (h : (s.slot k).next.elem = 0) : mergeMore s k d t src dst room n = (s, 0, 0) := by
  cases n with
  | zero => rfl
  | succ n =>
    rw [mergeMore]
    dsimp only
    rw [if_pos (.inr (.inr h))]

/-- The transfer of a one-part element. -/
def wholeXfer (s : State) (k : Nat) (sa da : W64) (n : Nat) : Xfer where
  xid := (s.mrc (k / 256)).nextXid
  pos := (s.slot k).next
  src := some sa
  dst := [da]
  bytes := n
  block := (s.slot k).nextBlock

/-- A slot whose element has begun and whose one part issues. -/
def partIssued (sl : Slot) (d : StrmDesc) (t : TDesc) : Slot :=
  advancePos (((sl.setRec (nextRec sl)).setRec (nextRec sl)).setRec (nextRec sl)) t d.listLen true 0

theorem issuePlain_whole {s u : State} (hu : SamePlaces s u) {k : Nat} {d : StrmDesc} {t : TDesc} {r : ElemRec} {sa da : W64} {p1 p2 : Place}
    (henc : d.codec = 0) (hmc : d.mcast = false) (hpart : (s.slot k).next.part = 0) (he : (s.slot k).engine = none) (hkind : t.kind = 0)
    (hpos : 0 < t.len) (hsa : sa.toNat % 4096 + t.len ≤ 4096) (hda : da.toNat % 4096 + t.len ≤ 4096)
    (h1 : StrmPlace s k sa.toNat permRead t.len p1) (h2 : StrmPlace s k da.toNat permWrite t.len p2)
    (hnext : ((u.modSlot k (fun y => advancePos (y.setRec r) t d.listLen true 0)).slot k).next.elem = 0) :
    (issuePlain u k (s.slot k) d t r (some sa) false [da]).1 =
      if tagFree u k false then
        let v := u.modSlot k (fun y => advancePos (y.setRec r) t d.listLen true 0)
        enterXfer v k { wholeXfer s k sa da t.len with xid := (v.mrc (k / 256)).nextXid } t.len
      else u := by
  have hlast : decide (t.len ≤ 0 + t.len) = true := by simp
  obtain ⟨v, hv⟩ : ∃ v, v = u.modSlot k (fun y => advancePos (y.setRec r) t d.listLen true 0) := ⟨_, rfl⟩
  have hsv : SamePlaces s v := hv ▸ samePlaces_modSlot hu k _
  rw [← hv] at hnext ⊢
  obtain ⟨q1, hq1⟩ := strmPlace_mill h1
  have hrd : srcAddr v k (s.slot k) false sa.toNat t.len = (v, .here (.mill q1 (sa.toNat % 0x800000))) := by
    rw [srcAddr, if_neg (by simp), strmPlace_here hsv h1, hq1]
  have henc' : (d.codec == 2) = false := by rw [henc]; rfl
  unfold issuePlain
  simp only [he, henc', hpart, Option.isSome_none, Bool.or_self, Bool.false_eq_true, if_false, List.map_cons, List.map_nil, partSpan_whole hda, Option.map_some,
    BitVec.add_zero, hmc, checkXfer_mill hu hpos hsa hda h1 h2, hlast, ← hv, hkind, Option.isNone_none, beq_self_eq_true, Bool.and_self,
    Bool.not_false, if_true, mergeMore_first v k d t _ _ _ _ hnext, Nat.add_zero, srcPieces, pieces_one hpos hsa, readRemote, hrd, tagCauses]
  by_cases htag : tagFree u k false = true
  · rw [if_pos htag, if_pos htag]
    rfl
  · rw [if_neg htag, if_neg htag]
    rfl

/-- The source of an element. R347. -/
def srcOf (d : StrmDesc) (t : TDesc) : W64 := if t.srcRel then d.dataBase + t.src else t.src

/-- The destination of an element. R347. -/
def dstOf (d : StrmDesc) (t : TDesc) : W64 := if t.dstRel then d.dataBase + t.dst else t.dst

theorem elemSrc_first (s : State) (k : Nat) (d : StrmDesc) (t : TDesc) (ib : W64) (h : t.kind = 0) :
    elemSrc s k t ib d.dataBase 0 = (s, .ok (some (srcOf d t), false) true) := by
  rw [elemSrc]
  dsimp only
  rw [if_pos h]
  rw [Nat.cast_zero, zero_mul, show BitVec.ofInt 64 0 = 0#64 from rfl, BitVec.add_zero]
  rfl

theorem elemDst_first (s : State) (k : Nat) {d : StrmDesc} (t : TDesc) {r : ElemRec} (hr : d.dstRing = none) (hm : d.mcast = false)
    (he : r.elem = 0) : elemDst s k d t r = [dstOf d t] := by
  simp only [elemDst, dstRings_none hr, hm, he, Nat.zero_mul, BitVec.add_zero]
  rfl

/-- An element of one part between two places on the words' boundaries. -/
theorem issueElem_whole {s : State} {k : Nat} {d : StrmDesc} {t : TDesc} (hc : d.codec = 0) (hm : d.mcast = false)
    (hsr : d.srcRing = none) (hdr : d.dstRing = none) (hkind : t.kind = 0) (helem : (s.slot k).next.elem = 0)
    (he : (s.slot k).engine = none) (hsa : 32 ∣ (srcOf d t).toNat) (hda : 32 ∣ (dstOf d t).toNat) :
    issueElem s k (s.slot k) d t =
      issuePlain ((s.modSlot k (fun x => x.setRec (nextRec (s.slot k)))).modSlot k (fun x => x.setRec (nextRec (s.slot k)))) k (s.slot k) d t
        (nextRec (s.slot k)) (some (srcOf d t)) false [dstOf d t] := by
  have hrec : (nextRec (s.slot k)).elem = 0 := (nextRec_elem _).trans helem
  have hok : mcastDstOk d t (nextRec (s.slot k)) = true := by rw [mcastDstOk, hm]; rfl
  have hs0 : ((srcOf d t).toNat % 32 != 0) = false := by rw [bne_eq_false_iff_eq]; omega
  have hd0 : ((dstOf d t).toNat % 32 != 0) = false := by rw [bne_eq_false_iff_eq]; omega
  unfold issueElem
  simp only [he]
  rw [show ((s.slot k).rec? (s.slot k).next.desc (s.slot k).next.elem).getD
    { desc := (s.slot k).next.desc, elem := (s.slot k).next.elem, idx := (s.slot k).nextIdx, block := (s.slot k).nextBlock } =
    nextRec (s.slot k) from rfl, acquire_without_rings s k _ hsr hdr]
  dsimp only
  rw [hsr]
  dsimp only
  rw [helem, elemSrc_first _ k d t _ hkind]
  simp only [elemDst_first _ k t hdr hm hrec, hok, hc, hs0, hd0, Option.isSome_none, Bool.false_eq_true, if_false, List.any_cons,
    List.any_nil]
  rfl

theorem setRec_next (sl : Slot) (r : ElemRec) : (sl.setRec r).next = sl.next := rfl

/-- What the issue of a whole one-part element leaves of its slot. -/
theorem partIssued_fields (sl : Slot) (d : StrmDesc) (t : TDesc) (he : sl.next.elem = 0) (hcount : t.count = 1) :
    (partIssued sl d t).next = { desc := sl.next.desc + 1 } ∧
      (partIssued sl d t).issuedAll = decide (d.listLen ≤ sl.next.desc + 1) ∧ (partIssued sl d t).xfers = sl.xfers ∧
      (partIssued sl d t).ctx = sl.ctx := by
  obtain ⟨y, hy⟩ : ∃ y, y = ((sl.setRec (nextRec sl)).setRec (nextRec sl)).setRec (nextRec sl) := ⟨_, rfl⟩
  have hnext : y.next = sl.next := by rw [hy]; rfl
  have hx : y.xfers = sl.xfers ∧ y.ctx = sl.ctx := by rw [hy]; exact ⟨rfl, rfl⟩
  have hlt : ¬ (y.next.elem + 1 < t.count) := by rw [hnext]; omega
  rw [partIssued, ← hy, advancePos, if_neg (by simp)]
  dsimp only
  rw [if_neg hlt, hnext]
  exact ⟨rfl, rfl, hx⟩

theorem modSlot_nextXid (s : State) (k d : Nat) (f : Slot → Slot) : ((s.modSlot k f).mrc d).nextXid = (s.mrc d).nextXid := by
  rw [State.modSlot, State.modMrc_mrc]
  split
  · next h => rw [h]
  · rfl

theorem modSlot_weir (s : State) (k d ctx : Nat) (f : Slot → Slot) : (s.modSlot k f).weir d ctx = s.weir d ctx := by
  rw [State.weir, State.modSlot, State.modMrc_mrc]
  split
  · next h => rw [h]; rfl
  · rfl

/-- A transfer without a lane that joins its slot. -/
theorem enterXfer_fields (s : State) (k : Nat) {x : Xfer} (hx : x.lane = none) (n : Nat) : let t := enterXfer s k x n
    t.mem = s.mem ∧ t.slot k = { s.slot k with xfers := (s.slot k).xfers ++ [x] } ∧
      (t.mrc (k / 256)).nextXid = (s.mrc (k / 256)).nextXid + 1 ∧
      t.weir (k / 256) (s.slot k).ctx = (let w := s.weir (k / 256) (s.slot k).ctx
        if w.rate = 0 then w else { w with tokens := w.tokens - (max n 3584 : Nat) }) := by
  have hw : (weirCharge s (k / 256) (s.slot k).ctx n).slot k = s.slot k := by
    refine modMrc_slot _ _ _ ?_ k
    exact fun _ => rfl
  have hxid : ∀ u : State, (u.modMrc (k / 256) (fun m => { m with nextXid := m.nextXid + 1 })).slot k = u.slot k := by
    intro u
    refine modMrc_slot _ _ _ ?_ k
    exact fun _ => rfl
  unfold enterXfer
  simp only [hx]
  refine ⟨rfl, ?_, ?_, ?_⟩
  · rw [State.modSlot_slot_same, hxid, hw]
  · rw [modSlot_nextXid, State.modMrc_mrc_same, weirCharge, State.modWeir, State.modMrc_mrc_same]
  · rw [modSlot_weir, State.weir, State.modMrc_mrc_same, weirCharge, State.modWeir, State.modMrc_mrc_same]
    dsimp only
    rw [tget_tmod, if_pos rfl]
    rfl

theorem markServed_fields (s : State) (k : Nat) : let t := markServed s k
    t.mem = s.mem ∧ t.slot k = s.slot k ∧ tget 0 (t.mrc (k / 256)).served (k % 256 / 32) = (k + 1) % 32 ∧
      ∀ ctx, t.weir (k / 256) ctx = s.weir (k / 256) ctx := by
  refine ⟨rfl, ?_, ?_, fun ctx => ?_⟩
  · refine modMrc_slot _ _ _ ?_ k
    exact fun _ => rfl
  · rw [markServed, State.modMrc_mrc_same]
    exact tget_tset_same ..
  · rw [State.weir, markServed, State.modMrc_mrc_same]
    rfl

theorem findFrom_holds {p : Nat → Bool} {n k i : Nat} (h : findFrom p k n = some i) : p i = true := by
  induction n generalizing k with
  | zero => cases h
  | succ n ih =>
    rw [findFrom] at h
    split at h
    · next hk => exact Option.some.inj h ▸ hk
    · exact ih h

/-- A slot whose turn it is can issue. -/
theorem hasIssued_of_served {s : State} {k : Nat} (h : nextServed s k = some k) : hasIssued s (issueNext s k).1 k = true := by
  obtain ⟨i, hi, hk⟩ := Option.map_eq_some_iff.1 h
  have hp := findFrom_holds hi
  dsimp only at hp
  rwa [hk] at hp

/-- The stream whose turn it is issues the transfer of a one-part element between two Millpond places. -/
theorem issue_whole {s : State} {k : Nat} {d : StrmDesc} {x : TDesc} {p1 p2 : Place} (h : NextTransfer s k d x) (hc : d.codec = 0)
    (hm : d.mcast = false) (hsr : d.srcRing = none) (hdr : d.dstRing = none) (hkind : x.kind = 0) (hcount : x.count = 1)
    (helem : (s.slot k).next.elem = 0) (hpart : (s.slot k).next.part = 0)
    (hsa : 32 ∣ (srcOf d x).toNat) (hda : 32 ∣ (dstOf d x).toNat) (hsp : (srcOf d x).toNat % 4096 + x.len ≤ 4096)
    (hdp : (dstOf d x).toNat % 4096 + x.len ≤ 4096) (h1 : StrmPlace s k (srcOf d x).toNat permRead x.len p1)
    (h2 : StrmPlace s k (dstOf d x).toNat permWrite x.len p2) (hserved : nextServed s k = some k) :
    ∃ t, exec (.transferIssue k) s = .next t ∧ t.mem = s.mem ∧ tget 0 (t.mrc (k / 256)).served (k % 256 / 32) = (k + 1) % 32 ∧
      t.slot k = { partIssued (s.slot k) d x with xfers := (s.slot k).xfers ++ [wholeXfer s k (srcOf d x) (dstOf d x) x.len] } ∧
      t.weir (k / 256) (s.slot k).ctx = (let w := s.weir (k / 256) (s.slot k).ctx
        if w.rate = 0 then w else { w with tokens := w.tokens - (max x.len 3584 : Nat) }) := by
  have hiss := hasIssued_of_served hserved
  obtain ⟨he, -, -, -, -, hok⟩ := id h
  have hpos : 0 < x.len := by
    simp only [tdescOk, Bool.and_eq_true, decide_eq_true_eq] at hok
    omega
  obtain ⟨u, hu⟩ : ∃ u, u = (s.modSlot k (fun y => y.setRec (nextRec (s.slot k)))).modSlot k (fun y => y.setRec (nextRec (s.slot k))) :=
    ⟨_, rfl⟩
  obtain ⟨v, hv⟩ : ∃ v, v = u.modSlot k (fun y => advancePos (y.setRec (nextRec (s.slot k))) x d.listLen true 0) := ⟨_, rfl⟩
  have hslot : v.slot k = partIssued (s.slot k) d x := by
    rw [hv, hu, State.modSlot_slot_same, State.modSlot_slot_same, State.modSlot_slot_same]
    rfl
  have hxid : (v.mrc (k / 256)).nextXid = (s.mrc (k / 256)).nextXid := by
    rw [hv, hu, modSlot_nextXid, modSlot_nextXid, modSlot_nextXid]
  have hxid' : (u.mrc (k / 256)).nextXid = (s.mrc (k / 256)).nextXid := by
    rw [hu, modSlot_nextXid, modSlot_nextXid]
  have hw : v.weir (k / 256) (s.slot k).ctx = s.weir (k / 256) (s.slot k).ctx := by
    rw [hv, hu, modSlot_weir, modSlot_weir, modSlot_weir]
  have hmem : v.mem = s.mem := by rw [hv, hu]; rfl
  obtain ⟨hnext, -, hxfers, hctx⟩ := partIssued_fields (s.slot k) d x helem hcount
  have hplain := issuePlain_whole (samePlaces_modSlot (samePlaces_modSlot (.refl s) k _) k _) hc hm hpart he hkind hpos hsp hdp h1 h2
    (by rw [← hu, ← hv, hslot, hnext])
  have hissue := (issueNext_element h hc).trans (issueElem_whole hc hm hsr hdr hkind helem he hsa hda)
  rw [← hu] at hissue hplain
  rw [← hv] at hplain
  rw [← hissue] at hplain
  by_cases htag : tagFree u k false = true
  · rw [if_pos htag] at hplain
    dsimp only at hplain
    rw [hxid] at hplain
    obtain ⟨hm', hs', hx', hw'⟩ := enterXfer_fields v k (x := wholeXfer s k (srcOf d x) (dstOf d x) x.len) rfl x.len
    rw [hslot, hxfers] at hs'
    rw [hslot, hctx] at hw'
    change (issueNext s k).1 = enterXfer v k (wholeXfer s k (srcOf d x) (dstOf d x) x.len) x.len at hplain
    obtain ⟨w, hw0⟩ : ∃ w, w = enterXfer v k (wholeXfer s k (srcOf d x) (dstOf d x) x.len) x.len := ⟨_, rfl⟩
    rw [← hw0] at hm' hs' hx' hw' hplain
    obtain ⟨m1, m2, m3, m4⟩ := markServed_fields w k
    refine ⟨markServed w k, ?_, m1.trans (hm'.trans hmem), m3, m2.trans hs', (m4 _).trans (hw'.trans ?_)⟩
    · change execTransferIssue k s = _
      rw [execTransferIssue, hiss, hplain, if_pos hserved]
      rfl
    · rw [hw]
  · rw [if_neg htag] at hplain
    rw [hplain, hasIssued, hxid', bne_self_eq_false] at hiss
    cases hiss

/-! ## Words that move -/

theorem num_congr {s t : State} {k : Nat} (n : Nat) (h : ∀ i, i < n → t.byte (k + i) = s.byte (k + i)) : t.num k n = s.num k n := by
  induction n generalizing k with
  | zero => rfl
  | succ n ih =>
    have h0 : t.byte k = s.byte k := h 0 (Nat.succ_pos n)
    rw [num_succ, num_succ, h0, ih (k := k + 1) (fun i hi => ?_)]
    have := h (i + 1) (by omega)
    rwa [show k + (i + 1) = k + 1 + i by omega] at this

theorem word_setWord_other (s : State) {k j : Nat} (w : Word288) (h : j / 32 ≠ k / 32) : (s.setWord k w).word j = s.word j := by
  have hn : (s.setWord k w).num (j / 32 * 32) 32 = s.num (j / 32 * 32) 32 :=
    num_congr 32 (fun i hi => byte_setWord_outside s k _ w (by omega))
  have hc : tget 0 (s.setWord k w).chk (j / 32) = tget 0 s.chk (j / 32) := tget_tset_other 0 s.chk w.2 h
  exact Prod.ext (congrArg (BitVec.ofNat 256) hn) hc

theorem word_storage {s t : State} (h : t.mem = s.mem ∧ t.chk = s.chk) (j : Nat) : t.word j = s.word j := by
  unfold State.word State.num State.bytes
  rw [h.1, h.2]

/-- The words after one of Millpond is written. -/
theorem word_writeWord (s : State) (p o j : Nat) (w : Word288) :
    (writeWord s (.mill p o) w).word j = if j / 32 = millKey p o / 32 then w else s.word j := by
  have h := writeWord_storage s (pl := .mill p o) (fun a => Place.noConfusion) w
  rw [word_storage h]
  split
  · next hj =>
    have hk := word_setWord s (Place.mill p o).key w
    unfold State.word at hk ⊢
    rw [hj]
    exact hk
  · next hj => exact word_setWord_other s w hj

theorem rawWords_mill (s : State) (p o n : Nat) : rawWords s (.mill p o) n = (List.range n).map (fun i => s.word (millKey p o + 32 * i)) := by
  induction n generalizing o with
  | zero => rfl
  | succ n ih =>
    have hstep : rawWords s (.mill p o) (n + 1) = s.word (millKey p o) :: rawWords s (.mill p (o + 32)) n := rfl
    rw [hstep, ih, List.range_succ_eq_map, List.map_cons, List.map_map]
    refine congrArg₂ _ rfl (List.map_congr_left fun i _ => ?_)
    show s.word (millKey p (o + 32) + 32 * i) = s.word (millKey p o + 32 * (i + 1))
    rw [millKey_add]
    congr 1
    omega

theorem arriveWord_clean (s : State) (pl : Place) {w : Word288} (h : classify w.2 = .clean) : arriveWord s pl w = (writeWord s pl w, true) := by
  unfold arriveWord
  rw [h]

theorem nth_cons_zero {α : Type} (d x : α) (xs : List α) : nth d (x :: xs) 0 = x := rfl

theorem nth_cons_succ {α : Type} (d x : α) (xs : List α) (i : Nat) : nth d (x :: xs) (i + 1) = nth d xs i := rfl

/-- Clean words stored at consecutive places of Millpond. -/
theorem storeWords_clean (ws : List Word288) {s : State} {p q : Nat} (k o : Nat) (hq : q % 32 = 0) (hws : ∀ w ∈ ws, classify w.2 = .clean) :
    ∃ t, storeWords s k (.mill p q) (32 * ws.length) o ws = (t, none) ∧ MillOnly s t ∧
      (∀ j, t.word j = if millKey p q ≤ j ∧ j < millKey p q + 32 * ws.length then nth (0, 0) ws ((j - millKey p q) / 32) else s.word j) ∧
      (∀ j, (j < millKey p q ∨ millKey p q + 32 * ws.length ≤ j) → t.byte j = s.byte j) := by
  induction ws generalizing s q o with
  | nil => exact ⟨s, rfl, .refl s, fun j => by rw [if_neg (by simp)], fun j _ => rfl⟩
  | cons w ws ih =>
    obtain ⟨t, ht, hmo, hword, hbyte⟩ := ih (s := writeWord s (.mill p q) w) (q := q + 32) (o + 32) (by omega)
      (fun x hx => hws x (List.mem_cons_of_mem _ hx))
    have hkey := millKey_mod p q
    rw [millKey_add] at hword hbyte
    rw [List.length_cons]
    refine ⟨t, ?_, (millOnly_writeWord s p q w).trans hmo, fun j => ?_, fun j hj => ?_⟩
    · rw [storeWords, if_neg (by omega), if_neg (by omega), arriveWord_clean s _ (hws w List.mem_cons_self)]
      dsimp only
      rw [show 32 * (ws.length + 1) - 32 = 32 * ws.length by omega, show (Place.mill p q).plus 32 = .mill p (q + 32) from rfl, ht]
      rfl
    · rw [hword, word_writeWord]
      by_cases h1 : j / 32 = millKey p q / 32
      · rw [if_neg (by omega), if_pos h1, if_pos (by omega), show (j - millKey p q) / 32 = 0 by omega, nth_cons_zero]
      · rw [if_neg h1]
        by_cases h2 : millKey p q + 32 ≤ j ∧ j < millKey p q + 32 + 32 * ws.length
        · rw [if_pos h2, if_pos (by omega), show (j - millKey p q) / 32 = (j - (millKey p q + 32)) / 32 + 1 by omega,
            nth_cons_succ]
        · rw [if_neg h2, if_neg (by omega)]
    · rw [hbyte j (by omega), byte_writeWord (by rw [Place.key]; omega), if_neg (by rw [Place.key]; omega)]

/-! ## The acknowledgement -/

/-- State `t` holds the words of `s`, and slot `k` its transfers. -/
structure SameWords (k : Nat) (s t : State) : Prop where
  mem : t.mem = s.mem
  chk : t.chk = s.chk
  xfers : (t.slot k).xfers = (s.slot k).xfers

theorem SameWords.refl (k : Nat) (s : State) : SameWords k s s := ⟨rfl, rfl, rfl⟩

theorem SameWords.trans {k : Nat} {s t u : State} (h : SameWords k s t) (h' : SameWords k t u) : SameWords k s u :=
  ⟨h'.mem.trans h.mem, h'.chk.trans h.chk, h'.xfers.trans h.xfers⟩

theorem SameWords.of_mrcs {k : Nat} {s t : State} (hm : t.mem = s.mem) (hc : t.chk = s.chk) (h : t.mrcs = s.mrcs) : SameWords k s t :=
  ⟨hm, hc, by rw [slot_congr_mrcs h]⟩

theorem sameWords_modRings (k : Nat) (f : Ring → Ring) (qs : List Nat) (s : State) :
    SameWords k s (qs.foldl (fun s q => s.modRing q f) s) :=
  foldl_frame (SameWords k) (.refl k) (fun _ _ _ h h' => h.trans h') (fun s q => s.modRing q f) qs (fun _ _ => .of_mrcs rfl rfl rfl) s

/-- The rings of an element whose transfers are all acknowledged. -/
def ringsRetired (s : State) (k : Nat) (r : ElemRec) : State :=
  match slotDesc s (s.slot k) with
  | none => s
  | some d =>
    let a := if r.src.isSome then d.srcRing.toList.foldl (fun (s : State) q => s.modRing q Ring.give) s else s
    if r.dst.isEmpty then a else d.dstRings.foldl (fun (s : State) q => s.modRing q Ring.post) a

theorem sameWords_ringsRetired (s : State) (k : Nat) (r : ElemRec) : SameWords k s (ringsRetired s k r) := by
  unfold ringsRetired
  split
  · exact .refl k s
  · dsimp only
    split
    · split
      · exact sameWords_modRings k ..
      · exact .refl k s
    · split
      · exact (sameWords_modRings k Ring.give _ s).trans (sameWords_modRings k ..)
      · exact sameWords_modRings k ..

theorem sameWords_retireElems (n : Nat) (s : State) (k : Nat) : SameWords k s (retireElems s k n) := by
  induction n generalizing s with
  | zero => exact .refl k s
  | succ n ih =>
    have hstep (u : State) (rs : List ElemRec) : SameWords k u (u.modSlot k (fun y => { y with elems := rs })) :=
      ⟨rfl, rfl, by rw [State.modSlot_slot_same]⟩
    rw [retireElems]
    split
    · exact .refl k s
    · next r rs _ =>
      split
      · refine (sameWords_ringsRetired s k r).trans ?_
        refine SameWords.trans ?_ (ih _)
        refine SameWords.trans ?_ (hstep _ rs)
        split
        · exact .of_mrcs rfl rfl rfl
        · exact .refl ..
      · exact .refl k s

theorem leaveXfer_words (s : State) (k : Nat) {x : Xfer} : (leaveXfer s k x).mem = s.mem ∧ (leaveXfer s k x).chk = s.chk ∧
    ((leaveXfer s k x).slot k).xfers = (s.slot k).xfers.filter (fun t => t.xid != x.xid) := by
  have hs : ((s.modSlot k (fun y => { y with xfers := y.xfers.filter (fun t => t.xid != x.xid) })).slot k).xfers =
      (s.slot k).xfers.filter (fun t => t.xid != x.xid) := by rw [State.modSlot_slot_same]
  unfold leaveXfer
  dsimp only
  split <;> exact ⟨rfl, rfl, hs⟩

/-- An acknowledged transfer leaves its slot, and no word changes. -/
theorem ackXfer_words (s : State) (k : Nat) (x : Xfer) : (ackXfer s k x).mem = s.mem ∧ (ackXfer s k x).chk = s.chk ∧
    ((ackXfer s k x).slot k).xfers = (s.slot k).xfers.filter (fun t => t.xid != x.xid) := by
  obtain ⟨hm, hc, hx⟩ := leaveXfer_words s k (x := x)
  have hr := sameWords_retireElems (s.slot k).elems.length (leaveXfer s k x) k
  have hp (u : State) (d rid : Nat) : SameWords k u (progress u d rid) := by
    rw [progress_frame]
    exact .of_mrcs rfl rfl rfl
  unfold ackXfer
  dsimp only
  split
  · obtain ⟨h1, h2, h3⟩ := hr.trans (hp _ (k / 256) _)
    exact ⟨h1.trans hm, h2.trans hc, h3.trans hx⟩
  · exact ⟨hr.mem.trans hm, hr.chk.trans hc, hr.xfers.trans hx⟩

theorem samePlaces_millOnly {s t : State} (h : MillOnly s t) : SamePlaces s t := by
  rw [h.1]
  exact ⟨rfl, rfl, rfl, rfl, rfl⟩

/-- The words of a transfer from one Millpond place. -/
theorem gather_mill {s : State} {k n : Nat} {sa : W64} {p o : Nat} (hsa : sa.toNat % 4096 + 32 * n ≤ 4096)
    (hp : StrmPlace s k sa.toNat permRead (32 * n) (.mill p o)) :
    ∃ u, gather s k (s.slot k) false (pieces sa.toNat (32 * n) 3) = (u, .ok ((List.range n).map (fun i => s.word (millKey p o + 32 * i)))) ∧
      MpdOnly s u := by
  obtain rfl | hn := Nat.eq_zero_or_pos n
  · exact ⟨s, rfl, .refl s⟩
  · have hsrc : srcAddr s k (s.slot k) false sa.toNat (32 * n) = (s, .here (.mill p o)) := by
      rw [srcAddr, if_neg (by simp), strmPlace_here (.refl s) hp]
    refine ⟨touch s (.mill p o), ?_, mpdOnly_touch s p o⟩
    rw [pieces_one (by omega) hsa]
    simp only [gather, hsrc, rawWords_mill, List.append_nil, Nat.mul_div_cancel_left n (show 0 < 32 by norm_num)]

/-- Clean words stored at one Millpond place. -/
theorem storeAll_mill {s u : State} {k xid oclass n : Nat} {da : W64} {p : Nat} (ws : List Word288) (hu : SamePlaces s u) (hn : ws.length = n)
    (hda : da.toNat % 4096 + 32 * n ≤ 4096) (hal : 32 ∣ da.toNat)
    (hp : StrmPlace s k da.toNat permWrite (32 * n) (.mill p (da.toNat % 0x800000))) (hws : ∀ w ∈ ws, classify w.2 = .clean) :
    ∃ t, storeAll u k xid (s.slot k) oclass (32 * n) ws [da] = (t, .ok 0) ∧ MillOnly u t ∧
      (let key := millKey p (da.toNat % 0x800000)
      (∀ j, t.word j = if key ≤ j ∧ j < key + 32 * n then nth (0, 0) ws ((j - key) / 32) else u.word j) ∧
      (∀ j, (j < key ∨ key + 32 * n ≤ j) → t.byte j = u.byte j)) := by
  obtain rfl | hpos := Nat.eq_zero_or_pos n
  · refine ⟨u, ?_, .refl u, fun j => by rw [if_neg (by omega)], fun j _ => rfl⟩
    rfl
  · subst hn
    obtain ⟨t, ht, hmo, hword, hbyte⟩ := storeWords_clean ws (s := u) (p := p) (q := da.toNat % 0x800000) k 0 (by omega) hws
    refine ⟨t, ?_, hmo, hword, hbyte⟩
    have hceil : ceilDiv (32 * ws.length) 32 = ws.length := by unfold ceilDiv; omega
    simp only [storeAll, pieces_one (show 0 < 32 * ws.length by omega) hda, storeSpan, strmPlace_here hu hp, hceil, List.take_length, ht]

theorem nth_map_range {α : Type} (d : α) (f : Nat → α) {n i : Nat} (h : i < n) : nth d ((List.range n).map f) i = f i := by
  rw [nth_eq_getElem d _ (by simpa using h), List.getElem_map, List.getElem_range]

theorem xferBarred_mill {s : State} {k : Nat} {x : Xfer} {sa da : W64} {p1 p2 : Place} (hb : x.buf = none) (hpage : x.page = false)
    (hsrc : x.src = some sa) (hdst : x.dst = [da]) (hsa : sa.toNat % 4096 + x.bytes ≤ 4096) (hda : da.toNat % 4096 + x.bytes ≤ 4096)
    (h1 : StrmPlace s k sa.toNat permRead x.bytes p1) (h2 : StrmPlace s k da.toNat permWrite x.bytes p2) :
    xferBarred s k (s.slot k) x x.bytes = false := by
  have hb2 := h2.2.2
  obtain hn | hpos := Nat.eq_zero_or_pos x.bytes
  · simp [xferBarred, hb, hsrc, hdst, hn, pieces]
  · have hs : srcAddr s k (s.slot k) false sa.toNat x.bytes = (s, .here p1) := by
      rw [srcAddr, if_neg (by simp), strmPlace_here (.refl s) h1]
    simp only [xferBarred, hb, hsrc, hdst, hpage, pieces_one hpos hsa, pieces_one hpos hda, hs, strmPlace_here (.refl s) h2, h1.2.2,
      barredAt, hb2, List.any_cons, List.any_nil, Bool.or_self]

/-- A transfer between two Millpond places moves its words with their check bits when it is acknowledged. -/
theorem ack_whole {s : State} {k n : Nat} {d : StrmDesc} {x : Xfer} {sa da : W64} {p1 p2 : Place} (hx : (s.slot k).xfers = [x])
    (he : (s.slot k).engine = none) (hd : (s.slot k).desc = some d) (hc : d.codec = 0) (hr : x.remote = 0) (hw : x.written = false)
    (hb : x.buf = none) (hpage : x.page = false) (hsrc : x.src = some sa) (hdst : x.dst = [da]) (hn : x.bytes = 32 * n)
    (hal : 32 ∣ sa.toNat) (hal' : 32 ∣ da.toNat)
    (hsa : sa.toNat % 4096 + x.bytes ≤ 4096) (hda : da.toNat % 4096 + x.bytes ≤ 4096) (h1 : StrmPlace s k sa.toNat permRead x.bytes p1)
    (h2 : StrmPlace s k da.toNat permWrite x.bytes p2) (hclean : ∀ i, i < n → classify (s.word (p1.key + 32 * i)).2 = .clean) :
    ∃ t, exec (.transferAck k x.xid) s = .next t ∧ (t.slot k).xfers = [] ∧
      (∀ i, i < n → t.word (p2.key + 32 * i) = s.word (p1.key + 32 * i)) ∧
      (∀ j, (j < p2.key ∨ p2.key + 32 * n ≤ j) → t.byte j = s.byte j) := by
  have hbar := xferBarred_mill hb hpage hsrc hdst hsa hda h1 h2
  rw [hn] at h1 h2 hsa hda hbar
  obtain ⟨q1, rfl⟩ := strmPlace_mill h1
  obtain ⟨q2, rfl⟩ := strmPlace_mill h2
  obtain ⟨u, hu, hmpd⟩ := gather_mill hsa h1
  have hlen : ((List.range n).map (fun i => s.word (millKey q1 (sa.toNat % 0x800000) + 32 * i))).length = n := by simp
  obtain ⟨v, hv, hmo, hword, hbyte⟩ := storeAll_mill (xid := x.xid) (oclass := d.oclass)
    ((List.range n).map (fun i => s.word (millKey q1 (sa.toNat % 0x800000) + 32 * i))) (samePlaces_millOnly hmpd.millOnly) hlen hda hal' h2
    (by
      intro w hw
      obtain ⟨i, hi, rfl⟩ := List.mem_map.1 hw
      exact hclean i (List.mem_range.1 hi))
  obtain ⟨hm, hk, hxf⟩ := ackXfer_words v k x
  have hslot : v.slot k = s.slot k := slot_congr_mrcs (by rw [hmo.1, hmpd.1]) k
  have hmem : u.mem = s.mem ∧ u.chk = s.chk := by rw [hmpd.1]; exact ⟨rfl, rfl⟩
  refine ⟨ackXfer v k x, ?_, ?_, fun i hi => ?_, fun j hj => ?_⟩
  · have hdesc : slotDesc s (s.slot k) = some d := by rw [slotDesc, he]; exact hd
    have hfind : (s.slot k).xfers.find? (fun y => y.xid == x.xid) = some x := by rw [hx]; simp
    have hwords : xferWords s k (s.slot k) x = (u, .ok ((List.range n).map (fun i => s.word (millKey q1 (sa.toNat % 0x800000) + 32 * i)))) := by
      rw [xferWords, hb, hsrc, hpage, hn]
      exact hu
    change execTransferAck k x.xid s = _
    rw [execTransferAck]
    simp only [hfind, hdesc, hr, hw, hc, he, hbar, hwords, hdst, hn, hv, if_true, ne_eq, not_true_eq_false, if_false, Bool.false_eq_true,
      false_and]
  · rw [hxf, hslot, hx]
    simp
  · have hj : (Place.mill q2 (da.toNat % 0x800000)).key = millKey q2 (da.toNat % 0x800000) := rfl
    rw [word_storage ⟨hm, hk⟩, hword, hj, if_pos (by omega), show (millKey q2 (da.toNat % 0x800000) + 32 * i -
      millKey q2 (da.toNat % 0x800000)) / 32 = i by omega, nth_map_range _ _ hi]
    rfl
  · rw [byte_congr hm, hbyte j hj, byte_congr hmem.1]

/-- Settles O33: the slot whose turn it is issues (R343), and clean words are stored as they were gathered. -/
theorem transfersMoveWords : Obligations.TransfersMoveWords := by
  unfold Obligations.TransfersMoveWords
  refine ⟨?_, ?_⟩
  · intro s k d x p1 p2 h sl sa da hc hm hsr hdr hkind hcount helem hpart hsa hda hsp hdp h1 h2 _ hserved
    obtain ⟨t, ht, hmem, hserv, hslot, hweir⟩ := issue_whole h hc hm hsr hdr hkind hcount helem hpart hsa hda hsp hdp h1 h2 hserved
    obtain ⟨hnext, hall, -, -⟩ := partIssued_fields (s.slot k) d x helem hcount
    refine ⟨t, ht, hmem, hserv, ?_, ?_, ?_, hweir⟩
    · rw [hslot]
      rfl
    · rw [hslot]
      exact hnext
    · rw [hslot]
      exact hall
  · intro s k n d x sa da p1 p2 sl hx he hd hc hr hw hb hpage hsrc hdst hn hal hal' hsa hda h1 h2 hclean
    exact ack_whole hx he hd hc hr hw hb hpage hsrc hdst hn hal hal' hsa hda h1 h2 hclean

end Sys2Proof.Proofs
end

section
/-! Records and events that the device writes, and the ends of passes, halts and watchdogs (08, R353 to R380; 14, R576 to R583). -/

namespace Sys2Proof.Proofs
open Sys2Proof Sys2Proof.Machine

/-! ## What a record or an event writes -/

/-- State `t` is `s` but for memory, its check bits, the rings and functions of the host interface and the messages sent. -/
def Wrote (s t : State) : Prop :=
  t = { s with mem := t.mem, chk := t.chk, hif := { s.hif with rings := t.hif.rings, fns := t.hif.fns, msix := t.hif.msix } }

theorem Wrote.refl (s : State) : Wrote s s := rfl

theorem Wrote.trans {s t u : State} (h : Wrote s t) (h' : Wrote t u) : Wrote s u := by
  unfold Wrote at h h' ⊢
  rw [h'] at ⊢
  rw [h]

theorem wrote_modRing (s : State) (q : Nat) (f : Ring → Ring) : Wrote s (s.modRing q f) := rfl

theorem wrote_modFn (s : State) (i : Nat) (f : Fn → Fn) : Wrote s (s.modFn i f) := rfl

theorem wrote_msixSend (s : State) (f e : Nat) : Wrote s (msixSend s f e) := by
  unfold msixSend
  split <;> rfl

theorem wrote_notify (s : State) (q : Nat) (b : Bool) : Wrote s (notify s q b) := by
  unfold notify
  dsimp only
  split
  · exact (wrote_modRing s q _).trans (wrote_msixSend ..)
  · exact .refl s

theorem wrote_putEntry (s : State) (r : Ring) (i : Nat) (bs : List Byte) : Wrote s (s.putEntry r i bs) := by
  unfold State.putEntry
  split
  · exact .refl s
  · split <;> rfl

theorem wrote_shadowWrite (s : State) (q : Nat) (v : W32) : Wrote s (shadowWrite s q v) := by
  unfold shadowWrite
  split <;> rfl

theorem wrote_pushRecord (s : State) (q : Nat) (bs : List Byte) : Wrote s (pushRecord s q bs) :=
  (wrote_putEntry s _ _ bs).trans (((wrote_modRing _ q _).trans (wrote_shadowWrite ..)).trans (wrote_notify ..))

theorem wrote_evtTo (s : State) (f : Nat) (e : Evt) (c : Option Nat) (esq : W32) : Wrote s (evtTo s f e c esq) := by
  unfold evtTo
  dsimp only
  split
  · exact wrote_modFn ..
  · split
    · exact (wrote_pushRecord ..).trans (wrote_modRing ..)
    · exact (wrote_modFn ..).trans (wrote_modRing ..)

/-- An event counts in the event sequence, and its records are written. R582. -/
theorem wrote_postEvent (s : State) (c : Option Nat) (e : Evt) :
    Wrote { s with hif := { s.hif with esq := s.hif.esq + 1 } } (postEvent s c e) := by
  unfold postEvent
  dsimp only
  split
  · exact wrote_evtTo ..
  · split
    · exact (wrote_evtTo ..).trans (wrote_evtTo ..)
    · exact wrote_evtTo ..

theorem postEvent_esq (s : State) (c : Option Nat) (e : Evt) : (postEvent s c e).hif.esq = s.hif.esq + 1 := by
  rw [wrote_postEvent s c e]

/-- An event leaves all but memory and the host interface. -/
theorem postEvent_frame (s : State) (c : Option Nat) (e : Evt) :
    postEvent s c e = { s with mem := (postEvent s c e).mem, chk := (postEvent s c e).chk, hif := (postEvent s c e).hif } := by
  have h := wrote_postEvent s c e
  generalize postEvent s c e = t at h
  rw [h]

/-! ## The end of a pass -/

theorem passDown_slot (s : State) (k j : Nat) : (passDown s k).slot j = s.slot j := by
  refine modMrc_slot _ _ _ ?_ j
  exact fun _ => rfl

theorem passesEnded_passDown (s : State) (k : Nat) : passesEnded (passDown s k) k = passesEnded s k + 1 := by
  rw [passesEnded, passDown, State.modMrc_mrc_same, tget_tmod, if_pos rfl]
  rfl

theorem modSlot_passEnd (s : State) (k d : Nat) (f : Slot → Slot) : ((s.modSlot k f).mrc d).passEnd = (s.mrc d).passEnd := by
  rw [State.modSlot, State.modMrc_mrc]
  split
  · next h => rw [h]
  · rfl

theorem leaveXfer_passEnd (s : State) (k d : Nat) (x : Xfer) : ((leaveXfer s k x).mrc d).passEnd = (s.mrc d).passEnd := by
  have hs := modSlot_passEnd s k d (fun y => { y with xfers := y.xfers.filter (fun t => t.xid != x.xid) })
  unfold leaveXfer
  dsimp only
  split <;> exact hs

theorem mrc_congr {s t : State} (h : t.mrcs = s.mrcs) (d : Nat) : t.mrc d = s.mrc d := by rw [State.mrc, h]; rfl

theorem dropRefs_mrcs (s : State) (refs : List GRef) : (dropRefs s refs).mrcs = s.mrcs := by rw [dropRefs_frame]

theorem freeSlot_passEnd (s : State) (k d : Nat) : ((freeSlot s k).mrc d).passEnd = (s.mrc d).passEnd := by
  have h1 : ((dropRefs (detachRings s k (keptRings s k)) (s.slot k).refs).mrc d).passEnd = (s.mrc d).passEnd := by
    rw [mrc_congr ((dropRefs_mrcs _ _).trans (detachRings_mrcs s k _))]
  have h2 := foldl_frame (fun u v => (v.mrc d).passEnd = (u.mrc d).passEnd) (fun _ => rfl) (fun _ _ _ h h' => h'.trans h)
    (fun s x => leaveXfer s k x) (s.slot k).xfers (fun u x => leaveXfer_passEnd u k d x)
    (dropRefs (detachRings s k (keptRings s k)) (s.slot k).refs)
  rw [← h1, ← h2, freeSlot]
  generalize (s.slot k).xfers.foldl (fun s x => leaveXfer s k x) (dropRefs (detachRings s k (keptRings s k)) (s.slot k).refs) = u
  rw [modSlot_passEnd]
  split
  · rw [State.modMrc_mrc]
    split
    · next h => rw [h]; rfl
    · rfl
  · rfl

theorem detachRings_mem (s : State) (k : Nat) (keep : List Nat) : (detachRings s k keep).mem = s.mem := by
  unfold detachRings
  split
  · rfl
  · refine foldl_frame (fun u v => v.mem = u.mem) (fun _ => rfl) (fun _ _ _ h h' => h'.trans h) _ _ (fun u q => ?_) s
    rfl

theorem freeSlot_mem (s : State) (k : Nat) : (freeSlot s k).mem = s.mem := by
  have h1 : (dropRefs (detachRings s k (keptRings s k)) (s.slot k).refs).mem = s.mem := by
    rw [dropRefs_frame]
    exact detachRings_mem s k _
  have h2 := foldl_frame (fun u v => v.mem = u.mem) (fun _ => rfl) (fun _ _ _ h h' => h'.trans h)
    (fun s x => leaveXfer s k x) (s.slot k).xfers (fun u x => (leaveXfer_words u k).1)
    (dropRefs (detachRings s k (keptRings s k)) (s.slot k).refs)
  rw [← h1, ← h2, freeSlot]
  generalize (s.slot k).xfers.foldl (fun s x => leaveXfer s k x) (dropRefs (detachRings s k (keptRings s k)) (s.slot k).refs) = u
  split <;> rfl

/-- A pass over without an arrival. R353, R354. -/
theorem passEnd_without_sluice {s : State} {k : Nat} {d : StrmDesc} (hst : (s.slot k).st = .running) (hall : (s.slot k).issuedAll = true)
    (hx : (s.slot k).xfers = []) (hel : (s.slot k).elems = []) (hf : (s.slot k).failing = none) (he : (s.slot k).engine = none)
    (hd : (s.slot k).desc = some d) (hs : d.sluice = none) :
    ∃ t, exec (.passEnd k) s = .next t ∧ t.mem = s.mem ∧ (t.slot k) = (if d.persist then { s.slot k with st := .passDone } else {}) ∧
      passesEnded t k = passesEnded s k + 1 ∧ ∀ j, j ≠ k → t.slot j = s.slot j := by
  obtain ⟨u, hu⟩ : ∃ u, u = if d.persist then s.modSlot k (fun y => { y with st := .passDone }) else freeSlot s k := ⟨_, rfl⟩
  have hmem : u.mem = s.mem := by
    rw [hu]
    split
    · rfl
    · exact freeSlot_mem s k
  have hslot (j : Nat) : u.slot j = if j = k then (if d.persist then { s.slot k with st := .passDone } else {}) else s.slot j := by
    rw [hu]
    split
    · rw [State.modSlot_slot]
    · exact freeSlot_slot_eq s k j
  have hend : passesEnded u k = passesEnded s k := by
    rw [hu, passesEnded]
    split
    · rw [modSlot_passEnd]; rfl
    · rw [freeSlot_passEnd]; rfl
  have hexec (v : State) (hv : exec (.passEnd k) s = .next v) (hvm : v.mem = u.mem ∧ v.mrcs = (passDown u k).mrcs) :
      ∃ t, exec (.passEnd k) s = .next t ∧ t.mem = s.mem ∧ (t.slot k) = (if d.persist then { s.slot k with st := .passDone } else {}) ∧
        passesEnded t k = passesEnded s k + 1 ∧ ∀ j, j ≠ k → t.slot j = s.slot j := by
    have hvs (j : Nat) : v.slot j = u.slot j := (slot_congr_mrcs hvm.2 j).trans (passDown_slot u k j)
    refine ⟨v, hv, hvm.1.trans hmem, ?_, ?_, fun j hj => ?_⟩
    · rw [hvs, hslot, if_pos rfl]
    · rw [passesEnded, mrc_congr hvm.2]
      exact (passesEnded_passDown u k).trans (by rw [hend])
    · rw [hvs, hslot, if_neg hj]
  have hrun : exec (.passEnd k) s = execPassEnd k s := rfl
  rw [execPassEnd] at hrun
  dsimp only at hrun
  rw [if_pos ⟨hst, hall, hx, hel, hf⟩, hd] at hrun
  simp only [Option.bind_some, hs, he, Option.isSome_none, Bool.false_or, Bool.false_eq_true, if_false] at hrun
  rw [← hu] at hrun
  cases hr : (s.slot k).run with
  | none =>
    rw [hr] at hrun
    exact hexec _ hrun ⟨rfl, rfl⟩
  | some rid =>
    rw [hr] at hrun
    exact hexec (progress (passDown u k) (k / 256) rid) hrun (by rw [progress_frame]; exact ⟨rfl, rfl⟩)

/-! ## Halts -/

/-- A slot that halts. -/
def haltedSlot (sl : Slot) (p : Pos) (f : Flt) (a : W64) (n : Nat) : Slot :=
  let want := f != .none && f != .deadlockWatchdog
  { sl with
    st := .halted, reason := f, pos := p, faddr := a, idxPos := (savedIdx sl p).1, posBlock := (savedIdx sl p).2, failing := none,
    haltReq := false, notice := want, noticeOrder := if want then n else sl.noticeOrder, ringWait := none }

/-- A slot that has just become HALTED. -/
def haltedState (s : State) (k : Nat) (p : Pos) (f : Flt) (a : W64) : State :=
  s.modSlot k (fun _ => haltedSlot (s.slot k) p f a (s.mrc (k / 256)).nextNotice)

theorem haltSlot_eq (s : State) (k : Nat) (p : Pos) (f : Flt) (a : W64) :
    haltSlot s k p f a = if f != .none && f != .deadlockWatchdog then
        writeNotice ((haltedState s k p f a).modMrc (k / 256) (fun m => { m with nextNotice := m.nextNotice + 1 })) (k / 256)
      else haltedState s k p f a := rfl

/-- A halt without a notice. R373. -/
theorem haltSlot_quiet (s : State) (k : Nat) (p : Pos) {f : Flt} (a : W64) (hf : f = .none ∨ f = .deadlockWatchdog) :
    let t := haltSlot s k p f a
    t.mem = s.mem ∧ t.hif = s.hif ∧ t.slot k = haltedSlot (s.slot k) p f a 0 := by
  have hwant : (f != .none && f != .deadlockWatchdog) = false := by rcases hf with rfl | rfl <;> rfl
  rw [haltSlot_eq, hwant, if_neg (by simp)]
  refine ⟨rfl, rfl, ?_⟩
  rw [haltedState, State.modSlot_slot_same, haltedSlot, haltedSlot, hwant]
  rfl

theorem writeNotice_full {s : State} {d : Nat} (h : (s.ring (s.mrc d).haltRing).room = false) : writeNotice s d = s := by
  unfold writeNotice
  split
  · rfl
  · dsimp only
    rw [if_neg (by rw [h]; simp)]

theorem modSlot_haltRing (s : State) (k d : Nat) (f : Slot → Slot) : ((s.modSlot k f).mrc d).haltRing = (s.mrc d).haltRing := by
  rw [State.modSlot, State.modMrc_mrc]
  split
  · next h => rw [h]
  · rfl

/-- A halt whose notice waits for room. R374, R375. -/
theorem haltSlot_waits {s : State} (k : Nat) (p : Pos) {f : Flt} (a : W64) (h0 : f ≠ .none) (h1 : f ≠ .deadlockWatchdog)
    (hroom : (s.ring (s.mrc (k / 256)).haltRing).room = false) :
    (haltSlot s k p f a).mem = s.mem ∧ (haltSlot s k p f a).slot k = haltedSlot (s.slot k) p f a (s.mrc (k / 256)).nextNotice := by
  have hwant : (f != .none && f != .deadlockWatchdog) = true := by simp [h0, h1]
  have hring : (((haltedState s k p f a).modMrc (k / 256) (fun m => { m with nextNotice := m.nextNotice + 1 })).ring
      (((haltedState s k p f a).modMrc (k / 256) (fun m => { m with nextNotice := m.nextNotice + 1 })).mrc (k / 256)).haltRing).room =
      false := by
    rw [State.modMrc_mrc_same, haltedState, modSlot_haltRing]
    exact hroom
  rw [haltSlot_eq, if_pos hwant, writeNotice_full hring]
  refine ⟨rfl, ?_⟩
  refine (modMrc_slot _ _ _ ?_ k).trans (State.modSlot_slot_same ..)
  exact fun _ => rfl

/-! ## The halt notice -/

theorem mem_tset {α : Type} [DecidableEq α] {d v : α} {t : Tab α} {k : Nat} {p : Nat × α} (h : p ∈ tset d t k v) : p = (k, v) ∨ p ∈ t := by
  unfold tset at h
  split at h
  · exact .inr (List.mem_of_mem_filter h)
  · exact (mem_tins _ _ _ _ h).imp id List.mem_of_mem_filter

theorem tget_mem {α : Type} {d : α} {t : Tab α} {k : Nat} : tget d t k = d ∨ (k, tget d t k) ∈ t := by
  induction t with
  | nil => exact .inl rfl
  | cons x t ih =>
    obtain ⟨j, v⟩ := x
    rw [tget_cons]
    split
    · next h => exact .inr (h ▸ List.mem_cons_self)
    · exact ih.imp id (List.mem_cons_of_mem _)

theorem slot_not_resumed {s : State} {k : Nat} (h : ∀ x ∈ (s.mrc (k / 256)).slots, x.2.resume = false) : (s.slot k).resume = false := by
  rcases tget_mem (d := ({} : Slot)) (t := (s.mrc (k / 256)).slots) (k := k % 256) with h' | h'
  · exact (congrArg Slot.resume h').trans rfl
  · exact h _ h'

/-- The state after a notice is written: its slot, or the notices of freed slots, no longer keep it. R375. -/
def noticeWritten (s : State) (d n : Nat) : Option Nat → State
  | some k => s.modSlot k (fun y => { y with notice := false })
  | none => s.modMrc d (fun m => { m with orphans := m.orphans.filter (fun x => x.1 != n) })

theorem writeNotice_first {s : State} {d n : Nat} {bs : List Byte} {o : Option Nat} (h : firstNotice s d = some (n, bs, o))
    (hk : (s.ring (s.mrc d).haltRing).kind = .internal) (hroom : (s.ring (s.mrc d).haltRing).room = true) :
    writeNotice s d = noticeWritten (pushRecord s (s.mrc d).haltRing bs) d n o := by
  rw [writeNotice, h]
  dsimp only
  rw [if_pos ⟨hk, hroom⟩]
  cases o <;> rfl

theorem noticeWritten_frame (s : State) (d n : Nat) (o : Option Nat) : noticeWritten s d n o = { s with mrcs := (noticeWritten s d n o).mrcs } := by
  cases o <;> rfl

/-- No slot of a die waits to go on after a notice is written, if none did before. -/
theorem noticeWritten_resume {s : State} {d n : Nat} (o : Option Nat) (h : ∀ x ∈ (s.mrc d).slots, x.2.resume = false) :
    ∀ x ∈ ((noticeWritten s d n o).mrc d).slots, x.2.resume = false := by
  cases o with
  | none =>
    intro x hx
    rw [noticeWritten, State.modMrc_mrc_same] at hx
    exact h x hx
  | some k =>
    intro x hx
    rw [noticeWritten, State.modSlot, State.modMrc_mrc] at hx
    split at hx
    · next hd =>
      rcases mem_tset hx with rfl | hx
      · exact slot_not_resumed (hd ▸ h)
      · exact h x (hd ▸ hx)
    · exact h x hx

/-- A pending notice is written. R374, R375. -/
theorem haltNoticeWrite_first {s : State} {d n : Nat} {bs : List Byte} {o : Option Nat} {pl : Place}
    (h : firstNotice s d = some (n, bs, o)) (hk : (s.ring (s.mrc d).haltRing).kind = .internal)
    (hroom : (s.ring (s.mrc d).haltRing).room = true)
    (hpl : s.entryPlace (s.ring (s.mrc d).haltRing) (s.ring (s.mrc d).haltRing).c1.toNat = some pl) (hf : frameRetired s pl = false)
    (hres : ∀ x ∈ (s.mrc d).slots, x.2.resume = false) :
    ∃ t, exec (.haltNoticeWrite d) s = .next t ∧ t.mem = (s.setBytes pl.key bs).mem ∧
      (t.ring (s.mrc d).haltRing).c1 = (s.ring (s.mrc d).haltRing).c1 + 1 ∧
      (∀ k, o = some k → k / 256 = d → t.slot k = { s.slot k with notice := false }) ∧
      (o = none → ∀ x ∈ (t.mrc d).orphans, x.1 ≠ n) := by
  obtain ⟨hm, -, hc⟩ := pushRecord_internal hk hpl hf bs
  have hmrcs : (pushRecord s (s.mrc d).haltRing bs).mrcs = s.mrcs := by rw [wrote_pushRecord s (s.mrc d).haltRing bs]
  obtain ⟨u, hu⟩ : ∃ u, u = pushRecord s (s.mrc d).haltRing bs := ⟨_, rfl⟩
  have hw := writeNotice_first h hk hroom
  rw [← hu] at hm hc hmrcs hw
  have hframe := noticeWritten_frame u d n o
  have hnone : ((noticeWritten u d n o).mrc d).slots.filter (fun x => x.2.resume && !x.2.notice) = [] := by
    refine List.filter_eq_nil_iff.2 fun x hx => ?_
    rw [noticeWritten_resume o (by rw [mrc_congr hmrcs]; exact hres) x hx]
    simp
  refine ⟨noticeWritten u d n o, ?_, by rw [hframe]; exact hm, by rw [hframe]; exact hc, ?_, ?_⟩
  · change execHaltNoticeWrite d s = _
    rw [execHaltNoticeWrite, hw]
    rw [hnone]
    rfl
  · rintro k rfl -
    rw [noticeWritten, State.modSlot_slot_same, slot_congr_mrcs hmrcs]
  · rintro rfl x hx
    rw [noticeWritten, State.modMrc_mrc_same] at hx
    have := (List.mem_filter.1 hx).2
    simpa using this

/-! ## The ring watchdog and the Weir -/

/-- The ring watchdog stops the only waiting stream of a context. R363. -/
theorem deadlockWatchdog_stops {s : State} {k q c t : Nat} (hq : ringAwaited s k = some q)
    (hw : (s.slot k).ringWait = some (q, BitVec.ofNat 32 c, t)) (hc : ringMoves s q = BitVec.ofNat 32 c) (hd : (s.mrc (k / 256)).wdog ≠ 0)
    (ht : t + 4096 * (s.mrc (k / 256)).wdog ≤ (s.mrc (k / 256)).ticks) (hwait : waiters s (s.slot k).ctx = [k])
    (hx : (s.slot k).xfers = []) (hr : (s.slot k).run = none) :
    ∃ t', exec (.deadlockWatchdog k) s = .next t' ∧ (t'.slot k).st = .halted ∧ (t'.slot k).reason = .deadlockWatchdog ∧
      (t'.slot k).pos = (s.slot k).next ∧ t'.hif.esq = s.hif.esq + 1 := by
  obtain ⟨u, hu⟩ : ∃ u, u = postEvent s (some (s.slot k).ctx) { code := 0x12, sev := 2, srcKind := 3, srcDie := k / 256, srcIndex := k % 256 } :=
    ⟨_, rfl⟩
  have hslot : u.slot k = s.slot k := slot_congr_mrcs (by rw [hu, postEvent_frame]) k
  have hesq : u.hif.esq = s.hif.esq + 1 := by rw [hu, postEvent_esq]
  obtain ⟨-, hhif, hhalt⟩ := haltSlot_quiet u k (s.slot k).next 0 (.inr rfl)
  have hdef : wdogSlot u k = haltSlot u k (s.slot k).next .deadlockWatchdog 0 := by
    rw [wdogSlot, hslot, if_pos hx, wdogFault, hhalt, hslot]
    simp only [haltedSlot, hr]
  refine ⟨wdogSlot u k, ?_, ?_, ?_, ?_, ?_⟩
  · change execDeadlockWatchdog k s = _
    rw [execDeadlockWatchdog, hq, hw]
    dsimp only
    rw [if_pos ⟨rfl, hc.symm, hd, ht⟩, hwait, ← hu]
    rfl
  · rw [hdef, hhalt]; rfl
  · rw [hdef, hhalt]; rfl
  · rw [hdef, hhalt]; rfl
  · rw [hdef, hhif, hesq]

theorem weirRefill_weir (s : State) (d c : Nat) : (s.modWeir d c Weir.refill).weir d c = (s.weir d c).refill := by
  rw [State.weir, State.modWeir, State.modMrc_mrc_same, tget_tmod, if_pos rfl]
  rfl

/-- Settles O34: the end of a pass, halts and their notices, the ring watchdog and the Weir. -/
theorem passesHaltsAndWeir : Obligations.PassesHaltsAndWeir := by
  unfold Obligations.PassesHaltsAndWeir
  refine ⟨?_, ?_, ?_, ?_, ?_⟩
  · intro s k d sl hst hall hx hel hf he hd hs
    exact passEnd_without_sluice hst hall hx hel hf he hd hs
  · intro s k p f a sl hst hx
    refine ⟨fun hf hreq => ?_, fun hf h0 h1 hroom => ?_⟩
    · obtain ⟨hm, -, hs⟩ := haltSlot_quiet s k (s.slot k).next (f := .none) 0 (.inl rfl)
      refine ⟨haltSlot s k (s.slot k).next .none 0, ?_, hm, ?_⟩
      · change execStreamHalt k s = _
        rw [execStreamHalt]
        dsimp only
        rw [if_pos ⟨hst, hx⟩, show (s.slot k).failing = none from hf]
        dsimp only
        rw [if_pos hreq]
      · rw [hs]
        exact ⟨rfl, rfl, rfl, rfl⟩
    · obtain ⟨hm, hs⟩ := haltSlot_waits k p a h0 h1 hroom
      refine ⟨haltSlot s k p f a, ?_, hm, ?_⟩
      · change execStreamHalt k s = _
        rw [execStreamHalt]
        dsimp only
        rw [if_pos ⟨hst, hx⟩, show (s.slot k).failing = some (p, f, a) from hf]
        dsimp only
        rw [if_neg h1]
      · rw [hs]
        refine ⟨rfl, rfl, rfl, rfl, ?_⟩
        simp [haltedSlot, h0, h1]
  · intro s d n bs o pl h q hk hroom hpl hf hres
    exact haltNoticeWrite_first h hk hroom hpl hf hres
  · intro s k q c t m hq hw hc hd ht hwait hx hr
    exact deadlockWatchdog_stops hq hw hc hd ht hwait hx hr
  · intro s d c w rate depth
    refine ⟨s.modWeir d c Weir.refill, rfl, rfl, ?_⟩
    rw [weirRefill_weir, Weir.refill, Weir.settle]

end Sys2Proof.Proofs
end

section
/-! Codec lanes: a block of good words is decoded and encoded (09, R387 to R410). -/

namespace Sys2Proof.Proofs
open Sys2Proof Sys2Proof.Machine

/-- Good words at the lane, each with its data. R403. -/
theorem laneWords_good {s : State} {k : Nat} {sl : Slot} {x : Xfer} {ws : List Word288} (hb : x.buf = some ws) (hg : GoodWords ws) :
    laneWords s k sl x = (s, .ok (ws.map (fun w => (w.1, true)))) := by
  simp only [laneWords, hb]
  refine congrArg (fun l => (s, Except.ok l)) (List.map_congr_left fun w hw => ?_)
  rw [hg w hw]

theorem flatMap_good (ws : List Word288) :
    (ws.map (fun w => (w.1, true))).flatMap (fun w : BitVec 256 × Bool => natToBytes w.1.toNat 32) = wordBytes ws := by
  rw [List.flatMap_map]
  rfl

theorem none_bad (ws : List Word288) : (ws.map (fun w => (w.1, true))).any (fun w : BitVec 256 × Bool => !w.2) = false := by
  simp

/-- The transfer of a slot that has only this one, once its lane has served it. -/
theorem servedXfer_one {s : State} {k : Nat} {x : Xfer} (hx : (s.slot k).xfers = [x]) (ws : List Word288) (n : Nat) :
    ((servedXfer s k x.xid ws n).slot k).xfers = [{ x with buf := some ws, off := n, coded := true }] := by
  rw [servedXfer, State.modSlot_slot_same]
  dsimp only
  rw [hx]
  simp [mapWhere]

theorem servedXfer_grs (s : State) (k xid d : Nat) (ws : List Word288) (n : Nat) : (servedXfer s k xid ws n).grs d = s.grs d := rfl

theorem countDec_slot (s : State) (d : Nat) (coded : Bool) (bad : Option Nat) (m n k : Nat) : (countDec s d coded bad m n).slot k = s.slot k :=
  rfl

/-- What a served block leaves. -/
theorem decoded_fields {s : State} {k : Nat} {x : Xfer} (hx : (s.slot k).xfers = [x]) (coded : Bool) (bad : Option Nat) (m : Nat)
    (ws : List Word288) : let t := servedXfer (countDec s (k / 256) coded bad m x.off) k x.xid ws x.off
    t.mem = s.mem ∧ (t.slot k).xfers = [{ x with buf := some ws, coded := true }] ∧
      (t.grs (k / 256)).decBlocks = min ((s.grs (k / 256)).decBlocks + 1) (2 ^ 64 - 1) ∧
      (t.grs (k / 256)).decRaw = if coded then (s.grs (k / 256)).decRaw else min ((s.grs (k / 256)).decRaw + 1) (2 ^ 64 - 1) := by
  obtain ⟨u, hu⟩ : ∃ u, u = countDec s (k / 256) coded bad m x.off := ⟨_, rfl⟩
  have hslot : u.slot k = s.slot k := by rw [hu]; rfl
  have hgrs : u.grs (k / 256) = (countDec s (k / 256) coded bad m x.off).grs (k / 256) := by rw [hu]
  have hmem : u.mem = s.mem := by rw [hu]; rfl
  rw [countDec, State.modGrs_grs_same] at hgrs
  dsimp only
  rw [← hu]
  refine ⟨hmem, servedXfer_one (hslot ▸ hx) ws x.off, ?_, ?_⟩
  · rw [servedXfer_grs, hgrs]
    rfl
  · rw [servedXfer_grs, hgrs]
    rfl

section
variable {s : State} {k : Nat} {x : Xfer} {d : StrmDesc} {hb : List Byte} {ws : List Word288}
  (hx : (s.slot k).xfers = [x]) (hd : (s.slot k).desc = some d) (hc : d.codec = 1) (hcoded : x.coded = false) (hr : x.remote = 0)
  (hbuf : x.buf = some ws) (hg : GoodWords ws)
  (hhdr : fetchBytes s k true (d.indexBase + BitVec.ofNat 64 (8 * x.block)).toNat 8 = (s, .ok hb true))
include hx hd hc hcoded hr hbuf hg hhdr

/-- A raw block passes as it is. R409. -/
theorem decode_raw (hraw : (fieldAt hb 0 1).testBit 1 = false) :
    exec (.gristDecodeBlock k x.xid) s = .next (servedXfer
      (countDec s (k / 256) false (if (fieldAt hb 0 1).testBit 0 then some 3 else none) x.bytes x.off) k x.xid
      (blockWords (wordBytes ws) ((fieldAt hb 0 1).testBit 0)) x.off) := by
  have hfind : (s.slot k).xfers.find? (fun y => y.xid == x.xid) = some x := by rw [hx]; simp
  have hact : ¬ (d.codec ≠ 1 ∨ x.coded = true ∨ x.remote ≠ 0) := by simp [hc, hcoded, hr]
  change execGristDecodeBlock k x.xid s = _
  rw [execGristDecodeBlock]
  simp only [hfind, hd]
  rw [if_neg hact]
  simp only [hhdr, hraw, Bool.false_eq_true, if_false, laneWords_good hbuf hg, none_bad, flatMap_good, Bool.not_true, Bool.or_self, decodeOutcome,
    Nat.add_zero, Bool.not_false, if_true]

/-- A coded block that the code accepts gives its decoded bytes. R409. -/
theorem decode_coded {cw bs : List Byte} {n : Nat} (hcod : (fieldAt hb 0 1).testBit 1 = true)
    (hcw : fetchBytes s k true ((x.src.getD 0) - 32).toNat 32 = (s, .ok cw true))
    (hrest : decodeRest s (s.slot k) (codecHdr cw) = some n)
    (hdec : decodeBlock ((s.gslot (codecHdr cw).slot).entry (((s.gslot (codecHdr cw).slot).entryOf (codecHdr cw).gen).getD false))
      (codecHdr cw) (cw ++ wordBytes ws) = .ok bs) :
    exec (.gristDecodeBlock k x.xid) s = .next (servedXfer
      (countDec s (k / 256) true (if ((fieldAt hb 0 1).testBit 0 || (codecHdr cw).poison) then some 3 else none) (x.bytes + 32) x.off) k x.xid
      (blockWords bs ((fieldAt hb 0 1).testBit 0 || (codecHdr cw).poison)) x.off) := by
  have hfind : (s.slot k).xfers.find? (fun y => y.xid == x.xid) = some x := by rw [hx]; simp
  have hact : ¬ (d.codec ≠ 1 ∨ x.coded = true ∨ x.remote ≠ 0) := by simp [hc, hcoded, hr]
  change execGristDecodeBlock k x.xid s = _
  rw [execGristDecodeBlock]
  simp only [hfind, hd]
  rw [if_neg hact]
  simp only [hhdr, hcod, if_true, hcw, laneWords_good hbuf hg, none_bad, flatMap_good, Bool.not_true, Bool.or_self, decodeOutcome,
    Bool.false_eq_true, if_false, hrest, hdec]

end

/-! ## Encoding -/

theorem countEnc_grs (s : State) (d : Nat) (e : Option Escape) :
    ((countEnc s d e).grs d).encBlocks = min ((s.grs d).encBlocks + 1) (2 ^ 64 - 1) := by
  rw [countEnc, State.modGrs_grs_same]
  rfl

/-- The words of a coded block are all clean. -/
theorem coded_words (ws : List Word288) (vs : List (BitVec 256)) :
    vs.zipIdx.map (fun w => (w.1, if (nth ((0 : BitVec 256), true) (ws.map (fun w => (w.1, true))) w.2).2 then (0 : W32) else kMark)) =
      vs.map (fun w => (w, 0)) := by
  have hgood (i : Nat) : (nth ((0 : BitVec 256), true) (ws.map (fun w : Word288 => (w.1, true))) i).2 = true := by
    induction ws generalizing i with
    | nil => rfl
    | cons w ws ih =>
      cases i with
      | zero => rfl
      | succ i => exact ih i
  have hmap : vs.map (fun w => (w, (0 : W32))) = (vs.zipIdx.map Prod.fst).map (fun w => (w, 0)) := by rw [List.zipIdx_map_fst]
  rw [hmap, List.map_map]
  refine List.map_congr_left fun w _ => ?_
  rw [hgood, if_pos rfl]
  rfl

/-- The block header of R402. -/
def encHdr (esc : Option Escape) (kind : Nat) : Nat := (if esc = none then 2 else 0) + 256 * kindFmt kind

theorem encHdr_lt (esc : Option Escape) (kind : Nat) : encHdr esc kind < 2 ^ 64 := by
  have hk : kindFmt kind < 256 := by
    unfold kindFmt
    split
    · norm_num
    · split <;> norm_num
  unfold encHdr
  split <;> omega

theorem samePlaces_served (s : State) (k xid d : Nat) (e : Option Escape) (ws : List Word288) (n : Nat) :
    SamePlaces s (servedXfer (countEnc s d e) k xid ws n) := ⟨rfl, rfl, rfl, rfl, rfl⟩

/-- A block of good words is encoded, and its block header written. R396, R402. -/
theorem encode_good {s : State} {k : Nat} {x : Xfer} {d : StrmDesc} {ws : List Word288} {pl : Place} {g : GGen} {n ha : Nat}
    {e : List Byte × Option Escape}
    (hx : (s.slot k).xfers = [x]) (hd : (s.slot k).desc = some d) (hc : d.codec = 2) (hcoded : x.coded = false) (hr : x.remote = 0)
    (hbuf : x.buf = some ws) (hgood : GoodWords ws) (hha : ha = (d.indexBase + BitVec.ofNat 64 (8 * x.block)).toNat)
    (hp : StrmPlace s k ha permWrite 8 pl) (hclean : classify (s.word pl.key).2 = .clean)
    (hn : n = nth 0 d.grsSlots 0) (hg : g = (s.gslot n).entry (((s.gslot n).entryOf d.encGen).getD false))
    (he : encodeBlock g n false true (wordBytes ws ++ natToBytes 0 (4096 - 32 * ws.length)) = e) :
    exec (.gristEncodeBlock k x.xid) s = .next (stored
      (servedXfer (countEnc s (k / 256) e.2) k x.xid ((toWords (e.1 ++ natToBytes 0 (4096 - e.1.length))).map (fun w => (w, 0))) e.1.length)
      pl 8 (encHdr e.2 g.kind)) := by
  obtain ⟨q, rfl⟩ := strmPlace_mill hp
  have hfind : (s.slot k).xfers.find? (fun y => y.xid == x.xid) = some x := by rw [hx]; simp
  have hact : ¬ (d.codec ≠ 2 ∨ x.coded = true ∨ x.remote ≠ 0) := by simp [hc, hcoded, hr]
  have hlane := laneWords_good (s := s) (k := k) (sl := s.slot k) hbuf hgood
  have haddr : (codedHdrAddr d x).toNat = ha := hha.symm
  subst hn
  change execGristEncodeBlock k x.xid s = _
  obtain ⟨F, hF⟩ : ∃ F, F = execGristEncodeBlock := ⟨_, rfl⟩
  obtain ⟨enc, henc⟩ : ∃ f, f = encodeBlock := ⟨_, rfl⟩
  rw [← hF]
  delta execGristEncodeBlock at hF
  rw [← henc] at hF he
  obtain ⟨b, hb⟩ : ∃ b, b = 4096 := ⟨_, rfl⟩
  rw [← hb] at he hF ⊢
  rw [hF]
  simp only [hfind, hd]
  rw [if_neg hact, hlane]
  simp only [none_bad, flatMap_good, List.length_map, Bool.false_eq_true, if_false, ← hg, he, coded_words, haddr]
  obtain ⟨u, hu⟩ : ∃ u, u = servedXfer (countEnc s (k / 256) e.2) k x.xid
    ((toWords (e.1 ++ natToBytes 0 (b - e.1.length))).map (fun w => (w, (0 : W32)))) e.1.length := ⟨_, rfl⟩
  have hsame : SamePlaces s u := by rw [hu]; exact samePlaces_served ..
  have hword : u.word (millKey q (ha % 0x800000)) = s.word (millKey q (ha % 0x800000)) :=
    word_storage (by rw [hu]; exact ⟨rfl, rfl⟩) _
  have hv : (0 + if e.2.isNone = true then 2 else 0) + 256 * kindFmt g.kind = encHdr e.2 g.kind % 2 ^ (8 * 8) := by
    rw [Nat.mod_eq_of_lt (encHdr_lt ..), encHdr, Nat.zero_add]
    simp only [Option.isNone_iff_eq_none]
  have hwrite := writeSub_mill (s := u) (p := q) (off := ha % 0x800000) (n := 8) (v := encHdr e.2 g.kind) (by rw [hword]; exact hclean)
  rw [← hu, strmPlace_here hsame hp]
  dsimp only
  rw [hv, hwrite]

theorem encoded_fields {s : State} {k p o : Nat} {x : Xfer} (hx : (s.slot k).xfers = [x]) (ho : 8 ∣ o) (esc : Option Escape) (kind : Nat)
    (ws : List Word288) (n : Nat) :
    let t := stored (servedXfer (countEnc s (k / 256) esc) k x.xid ws n) (.mill p o) 8 (encHdr esc kind)
    (t.slot k).xfers = [{ x with buf := some ws, off := n, coded := true }] ∧ StoredBytes s t (Place.mill p o).key 8 (encHdr esc kind) ∧
      (t.grs (k / 256)).encBlocks = min ((s.grs (k / 256)).encBlocks + 1) (2 ^ 64 - 1) := by
  obtain ⟨u, hu⟩ : ∃ u, u = servedXfer (countEnc s (k / 256) esc) k x.xid ws n := ⟨_, rfl⟩
  have hxf : (u.slot k).xfers = [{ x with buf := some ws, off := n, coded := true }] := by
    rw [hu]
    exact servedXfer_one (s := countEnc s (k / 256) esc) hx ws n
  have hgrs : (u.grs (k / 256)).encBlocks = min ((s.grs (k / 256)).encBlocks + 1) (2 ^ 64 - 1) := by
    rw [hu, servedXfer_grs]
    exact countEnc_grs ..
  have hmem : u.mem = s.mem := by rw [hu]; rfl
  have hkey := millKey_mod p o
  dsimp only
  rw [← hu]
  refine ⟨?_, fun j => ?_, ?_⟩
  · rw [slot_congr_mrcs (s := u) (t := stored u (.mill p o) 8 (encHdr esc kind)) rfl, hxf]
  · rw [storedBytes_advance (s := u) (pl := .mill p o) (by rw [Place.key]; omega) rfl j, byte_congr hmem]
  · exact hgrs

/-- Settles O35: a raw block passes, a coded one is decoded, and a block is encoded with its header. -/
theorem gristBlocks : Obligations.GristBlocks := by
  unfold Obligations.GristBlocks
  refine ⟨?_, ?_⟩
  · intro s k x d hb ws sl hx hd hc hcoded hr hbuf hg hhdr hp
    constructor
    · intro hraw
      obtain ⟨hm, hxf, hdb, hdr⟩ := decoded_fields hx false (if (fieldAt hb 0 1).testBit 0 then some 3 else none) x.bytes
        (blockWords (wordBytes ws) ((fieldAt hb 0 1).testBit 0))
      exact ⟨_, decode_raw hx hd hc hcoded hr hbuf hg hhdr hraw, hm, hxf, hdb, hdr⟩
    · intro cw bs n hcod hcw hrest h hdec
      obtain ⟨hm, hxf, hdb, hdr⟩ := decoded_fields hx true
        (if ((fieldAt hb 0 1).testBit 0 || (codecHdr cw).poison) then some 3 else none) (x.bytes + 32)
        (blockWords bs ((fieldAt hb 0 1).testBit 0 || (codecHdr cw).poison))
      exact ⟨_, decode_coded hx hd hc hcoded hr hbuf hg hhdr hcod hcw hrest hdec, hm, hxf, hdb, hdr⟩
  · intro s k x d ws pl sl ha hx hd hc hcoded hr hbuf hgood hp hal hclean n g e
    have hexec := encode_good hx hd hc hcoded hr hbuf hgood (rfl : ha = _) hp hclean (rfl : n = _) (rfl : g = _) (rfl : _ = e)
    obtain ⟨q, rfl⟩ := strmPlace_mill hp
    obtain ⟨hxf, hst, hcnt⟩ := encoded_fields hx (o := ha % 0x800000) (p := q) (by omega) e.2 g.kind
      ((toWords (e.1 ++ natToBytes 0 (4096 - e.1.length))).map (fun w => (w, 0))) e.1.length
    exact ⟨_, hexec, hxf, hst, hcnt⟩

end Sys2Proof.Proofs
end

section
/-! Bank states, write-backs and the end of a march (07, R316, R326 to R337). -/

namespace Sys2Proof.Proofs
open Sys2Proof Sys2Proof.Machine

/-! ## The audit record -/

theorem auditAppend_frame (s : State) (role : Nat) (i3c : Bool) (action result target : Nat) (key : BitVec 128) (detail : Nat) :
    auditAppend s role i3c action result target key detail =
      { s with
        mgt := (auditAppend s role i3c action result target key detail).mgt
        pins := (auditAppend s role i3c action result target key detail).pins
        i3c := (auditAppend s role i3c action result target key detail).i3c } := by
  unfold auditAppend refreshAlert raiseIbi
  dsimp only
  repeat' split
  all_goals rfl

/-- The outcome of a command touches the management controller and its pins alone. -/
theorem auditEnd_frame (s : State) (action target result : Nat) : auditEnd s action target result =
    { s with
      mgt := (auditEnd s action target result).mgt
      pins := (auditEnd s action target result).pins
      i3c := (auditEnd s action target result).i3c } := by
  unfold auditEnd
  split
  · rfl
  · rw [auditAppend_frame]

theorem serviceRetire_frame (s : State) (p : Nat) : serviceRetire s p = { s with ltiles := (serviceRetire s p).ltiles } := by
  unfold serviceRetire
  split <;> rfl

/-! ## The write-back of a corrected word -/

theorem dropFirst_length {α : Type} {p : α → Bool} {xs : List α} (h : ∃ x ∈ xs, p x = true) : (dropFirst p xs).length + 1 = xs.length := by
  induction xs with
  | nil => obtain ⟨x, hx, -⟩ := h; cases hx
  | cons x xs ih =>
    rw [dropFirst]
    by_cases hp : p x = true
    · rw [if_pos hp, List.length_cons]
    · rw [if_neg hp, List.length_cons, List.length_cons, ih]
      obtain ⟨y, hy, hpy⟩ := h
      rcases List.mem_cons.1 hy with rfl | hy
      · exact absurd hpy hp
      · exact ⟨y, hy, hpy⟩

theorem modMpd_mpd (s : State) (p : Nat) (f : Mpd → Mpd) : ((s.modMpd p f).tile p).mpd = f (s.tile p).mpd := by
  rw [State.modMpd, State.modTile_tile_same]

/-- The corrected word is written back. R316. -/
theorem eccWriteback_corrects {s : State} {p w i : Nat} {sym : Byte} (hw : w ∈ (s.tile p).mpd.writeback)
    (hc : classify (s.word (millKey p (32 * w))).2 = .correctable i sym) :
    ∃ t, exec (.eccWriteback p w) s = .next t ∧ t.word (millKey p (32 * w)) = (correct (s.word (millKey p (32 * w))).1 i sym, 0) ∧
      (∀ j, (j < millKey p (32 * w) ∨ millKey p (32 * w) + 32 ≤ j) → t.byte j = s.byte j) ∧
      (t.tile p).mpd.writeback.length + 1 = (s.tile p).mpd.writeback.length := by
  have hkey : millKey p (32 * w) % 32 = 0 := by rw [millKey_mod]; omega
  obtain ⟨u, hu⟩ : ∃ u, u = s.modMpd p (fun m => { m with writeback := dropFirst (fun x => x == w) m.writeback }) := ⟨_, rfl⟩
  have hmpd : (u.tile p).mpd.writeback = dropFirst (fun x => x == w) (s.tile p).mpd.writeback := by rw [hu, modMpd_mpd]
  have hmem : u.mem = s.mem := by rw [hu]; rfl
  refine ⟨u.setWord (millKey p (32 * w)) (correct (s.word (millKey p (32 * w))).1 i sym, 0), ?_, word_setWord .., fun j hj => ?_, ?_⟩
  · change execEccWriteback p w s = _
    rw [execEccWriteback, if_pos hw]
    dsimp only
    rw [hc, ← hu]
  · rw [byte_setWord_outside _ _ _ _ (by omega), byte_congr hmem]
  · change (u.tile p).mpd.writeback.length + 1 = _
    rw [hmpd]
    exact dropFirst_length ⟨w, hw, by simp⟩

/-! ## Bank states -/

theorem tget_foldl_tmod {α : Type} [DecidableEq α] (d : α) (f : α → α) (is : List Nat) (t : Tab α) {b : Nat} (hb : b ∈ is) (hnd : is.Nodup) :
    tget d (is.foldl (fun t i => tmod d t i f) t) b = f (tget d t b) := by
  have hother (is : List Nat) (t : Tab α) (hb : b ∉ is) : tget d (is.foldl (fun t i => tmod d t i f) t) b = tget d t b := by
    induction is generalizing t with
    | nil => rfl
    | cons i is ih =>
      rw [List.foldl_cons, ih _ (fun h => hb (List.mem_cons_of_mem _ h)), tget_tmod, if_neg (fun h => hb (by rw [h]; exact List.mem_cons_self))]
  induction is generalizing t with
  | nil => cases hb
  | cons i is ih =>
    obtain ⟨hi, his⟩ := List.nodup_cons.1 hnd
    rw [List.foldl_cons]
    rcases List.mem_cons.1 hb with rfl | hb
    · rw [hother _ _ hi, tget_tmod, if_pos rfl]
    · rw [ih _ hb his, tget_tmod, if_neg (fun h => hi (by rw [← h]; exact hb))]

theorem wakeBanks_bank (s : State) (p : Nat) {b : Nat} (hb : b < 3) (h : (tget {} (s.tile p).mpd.banks b).st = .retained) :
    (tget {} ((wakeBanks s p).tile p).mpd.banks b).st = .waking := by
  rw [wakeBanks, modMpd_mpd]
  dsimp only
  refine (congrArg Bank.st (tget_foldl_tmod ({} : Bank) (fun k => { k with st := if k.st = .retained then .waking else k.st }) [0, 1, 2]
    (s.tile p).mpd.banks (by interval_cases b <;> simp) (by decide))).trans ?_
  dsimp only
  rw [if_pos h]

/-! ## What a destructive march leaves -/

/-- One bank of a tile zeroed and its blocks freed. R331. -/
def zeroBank (s : State) (p b : Nat) : State :=
  { (s.zero (millKey p (bankRange b).1) (bankRange b).2) with
    owner := s.owner.filter (fun x => !(decide (1536 * p + (bankRange b).1 / 4096 ≤ x.1) &&
      decide (x.1 < 1536 * p + ((bankRange b).1 + (bankRange b).2) / 4096))) }

theorem marchZero_eq (s : State) (p : Nat) (banks : BitVec 3) :
    marchZero s p banks = [0, 1, 2].foldl (fun s b => if banks.getLsbD b then zeroBank s p b else s) s := rfl

theorem zeroBank_byte (s : State) (p b j : Nat) : (zeroBank s p b).byte j =
    if millKey p (bankRange b).1 ≤ j ∧ j < millKey p (bankRange b).1 + (bankRange b).2 then 0 else s.byte j := byte_zero ..

theorem zeroBank_owner (s : State) (p b j : Nat) : tget 0 (zeroBank s p b).owner j =
    if 1536 * p + (bankRange b).1 / 4096 ≤ j ∧ j < 1536 * p + ((bankRange b).1 + (bankRange b).2) / 4096 then 0 else tget 0 s.owner j := by
  refine (tget_filter_key 0 (fun i => !(decide (1536 * p + (bankRange b).1 / 4096 ≤ i) &&
      decide (i < 1536 * p + ((bankRange b).1 + (bankRange b).2) / 4096))) s.owner j).trans ?_
  by_cases h : 1536 * p + (bankRange b).1 / 4096 ≤ j ∧ j < 1536 * p + ((bankRange b).1 + (bankRange b).2) / 4096
  · rw [if_pos h, if_neg (by simp [h])]
  · rw [if_neg h, if_pos (by simpa [and_comm, imp_iff_not_or] using h)]

theorem zeroBank_frame (s : State) (p b : Nat) :
    zeroBank s p b = { s with mem := (zeroBank s p b).mem, chk := (zeroBank s p b).chk, owner := (zeroBank s p b).owner } := rfl

/-- The offsets of a bank. R312. -/
theorem bankRange_of {o b : Nat} (ho : bankOf o = b) (hlt : o < 0x600000) :
    b < 3 ∧ (bankRange b).1 ≤ o ∧ o < (bankRange b).1 + (bankRange b).2 ∧ 4096 ∣ (bankRange b).1 ∧ 4096 ∣ (bankRange b).2 := by
  unfold bankOf at ho
  split at ho
  · subst ho
    rw [show bankRange 0 = (0, 0x300000) from rfl]
    dsimp only
    omega
  · split at ho
    · subst ho
      rw [show bankRange 1 = (0x300000, 0x200000) from rfl]
      dsimp only
      omega
    · subst ho
      rw [show bankRange 2 = (0x500000, 0x100000) from rfl]
      dsimp only
      omega

theorem foldl_zeroBank (bs : List Nat) (s : State) (p o : Nat) (banks : BitVec 3) (hlt : o < 0x600000)
    (h : (bankOf o ∈ bs ∧ banks.getLsbD (bankOf o) = true) ∨ (s.byte (millKey p o) = 0 ∧ ownerOf s p o = 0)) :
    let t := bs.foldl (fun s b => if banks.getLsbD b then zeroBank s p b else s) s
    t.byte (millKey p o) = 0 ∧ ownerOf t p o = 0 := by
  induction bs generalizing s with
  | nil => exact h.resolve_left (fun h => nomatch h.1)
  | cons b bs ih =>
    refine ih _ ?_
    dsimp only
    by_cases hb : bankOf o = b
    · obtain ⟨-, h1, h2, ⟨q1, hq1⟩, ⟨q2, hq2⟩⟩ := bankRange_of hb hlt
      by_cases hg : banks.getLsbD b = true
      · refine .inr ?_
        rw [if_pos hg]
        constructor
        · rw [zeroBank_byte, if_pos]
          unfold millKey
          omega
        · rw [ownerOf, zeroBank_owner, if_pos]
          omega
      · rw [if_neg hg]
        exact h.elim (fun h => absurd (hb ▸ h.2) hg) .inr
    · rcases h with h | h
      · exact .inl ⟨(List.mem_cons.1 h.1).resolve_left hb, h.2⟩
      · refine .inr ?_
        split
        · rw [zeroBank_byte, ownerOf, zeroBank_owner]
          refine ⟨?_, ?_⟩
          · split
            · rfl
            · exact h.1
          · split
            · rfl
            · exact h.2
        · exact h

theorem marchZero_clears (s : State) (p o : Nat) (banks : BitVec 3) (hlt : o < 0x600000) (hg : banks.getLsbD (bankOf o) = true) :
    (marchZero s p banks).byte (millKey p o) = 0 ∧ ownerOf (marchZero s p banks) p o = 0 := by
  rw [marchZero_eq]
  have hb := (bankRange_of (rfl : bankOf o = _) hlt).1
  refine foldl_zeroBank [0, 1, 2] s p o banks hlt (.inl ⟨?_, hg⟩)
  simp only [List.mem_cons, List.not_mem_nil, or_false]
  omega

/-! ## The end of a march -/

/-- The state of a march that ended by itself. R334, R335. -/
def endSt (m1 : Mpd) (ok : Bool) : MarchSt := if !ok then .fail else if m1.rowsRepaired = 0 then .pass else .repaired

/-- The Millpond of a tile after the banks, before the march's outcome is recorded. -/
def sweptState (s : State) (p : Nat) (m : Mpd) : State := if m.marchPreserving then s else marchZero s p m.marchBanks

theorem marchZero_frame (s : State) (p : Nat) (banks : BitVec 3) : marchZero s p banks =
    { s with mem := (marchZero s p banks).mem, chk := (marchZero s p banks).chk, owner := (marchZero s p banks).owner } := by
  rw [marchZero_eq]
  refine foldl_frame (fun u v : State => v = { u with mem := v.mem, chk := v.chk, owner := v.owner }) (fun _ => rfl)
    (fun u v w h h' => ?_) _ _ (fun u b => ?_) s
  · rw [h', h]
  · split
    · exact zeroBank_frame u p b
    · rfl

theorem sweptState_frame (s : State) (p : Nat) (m : Mpd) : sweptState s p m =
    { s with mem := (sweptState s p m).mem, chk := (sweptState s p m).chk, owner := (sweptState s p m).owner } := by
  unfold sweptState
  split
  · rfl
  · exact marchZero_frame ..

/-- A march that ends by itself: banks, repairs and status. -/
theorem marchDone_fields {s : State} {p : Nat} {fs : List RowFail} {m1 : Mpd} {ok : Bool}
    (hm : (s.tile p).mpd.marchSt = .running) (ha : banksAwake s p = true) (hab : (s.tile p).mpd.marchAbort = false)
    (hrep : repairRows { (s.tile p).mpd with rowsFailed := 0, rowsRepaired := 0 } fs = (m1, ok)) :
    ∃ t, exec (.marchDone p fs) s = .next t ∧ t.mem = (sweptState s p (s.tile p).mpd).mem ∧
      t.owner = (sweptState s p (s.tile p).mpd).owner ∧ (t.tile p).mpd.marchSt = endSt m1 ok ∧ (t.tile p).mpd.repairs = m1.repairs ∧
      (t.tile p).mpd.rowsFailed = m1.rowsFailed ∧ (t.tile p).mpd.rowsRepaired = m1.rowsRepaired := by
  have hrun : (s.tile p).mpd.marching = true := by rw [Mpd.marching, hm]; rfl
  obtain ⟨u, hu⟩ : ∃ u, u = (sweptState s p (s.tile p).mpd).modMpd p (fun x => { m1 with
    marchSt := endSt m1 ok, marchStart := false, ce := x.ce, ue := x.ue,
    writeback := if (s.tile p).mpd.marchPreserving then x.writeback else [] }) := ⟨_, rfl⟩
  have hmem : u.mem = (sweptState s p (s.tile p).mpd).mem ∧ u.owner = (sweptState s p (s.tile p).mpd).owner := by
    rw [hu]
    exact ⟨rfl, rfl⟩
  have hmpd : (u.tile p).mpd.marchSt = endSt m1 ok ∧ (u.tile p).mpd.repairs = m1.repairs ∧ (u.tile p).mpd.rowsFailed = m1.rowsFailed ∧
      (u.tile p).mpd.rowsRepaired = m1.rowsRepaired := by
    rw [hu, modMpd_mpd]
    exact ⟨rfl, rfl, rfl, rfl⟩
  obtain ⟨v, hv⟩ : ∃ v, v = auditEnd u opcMarchReq p (if ok then resDone else resFailed) := ⟨_, rfl⟩
  have hvf : v.mem = u.mem ∧ v.owner = u.owner ∧ v.tiles = u.tiles := by
    rw [hv, auditEnd_frame]
    exact ⟨rfl, rfl, rfl⟩
  obtain ⟨w, hw⟩ : ∃ w, w = if !ok && (s.tile p).mpd.marchPreserving then serviceRetire v p else v := ⟨_, rfl⟩
  have hwf : w.mem = v.mem ∧ w.owner = v.owner ∧ w.tiles = v.tiles := by
    rw [hw]
    split
    · rw [serviceRetire_frame]
      exact ⟨rfl, rfl, rfl⟩
    · exact ⟨rfl, rfl, rfl⟩
  have htile : w.tile p = u.tile p := by rw [State.tile, hwf.2.2, hvf.2.2]; rfl
  refine ⟨w, ?_, hwf.1.trans (hvf.1.trans hmem.1), hwf.2.1.trans (hvf.2.1.trans hmem.2), ?_⟩
  · change execMarchDone p fs s = _
    rw [execMarchDone]
    dsimp only
    rw [hrep, hrun, ha, hab]
    simp only [Bool.not_true, Bool.or_self, Bool.false_eq_true, if_false]
    rw [hw, hv, hu]
    rfl
  · rw [htile]
    exact hmpd

/-- A march that was to end early. R337. -/
theorem marchDone_aborted {s : State} {p : Nat} {fs : List RowFail} {m1 : Mpd} {ok : Bool}
    (hm : (s.tile p).mpd.marchSt = .running) (ha : banksAwake s p = true) (hab : (s.tile p).mpd.marchAbort = true)
    (hrep : repairRows { (s.tile p).mpd with rowsFailed := 0, rowsRepaired := 0 } fs = (m1, ok)) :
    ∃ t, exec (.marchDone p fs) s = .next t ∧ t.mem = s.mem ∧ t.owner = s.owner ∧ (t.tile p).mpd.marchSt = .aborted ∧
      (t.tile p).mpd.repairs = m1.repairs := by
  have hrun : (s.tile p).mpd.marching = true := by rw [Mpd.marching, hm]; rfl
  obtain ⟨u, hu⟩ : ∃ u, u = s.modMpd p (fun _ => { m1 with marchSt := .aborted, marchStart := false, marchAbort := false }) := ⟨_, rfl⟩
  have hmpd : (u.tile p).mpd.marchSt = .aborted ∧ (u.tile p).mpd.repairs = m1.repairs := by
    rw [hu, modMpd_mpd]
    exact ⟨rfl, rfl⟩
  have hmem : u.mem = s.mem ∧ u.owner = s.owner := by
    rw [hu]
    exact ⟨rfl, rfl⟩
  obtain ⟨v, hv⟩ : ∃ v, v = auditEnd u opcMarchReq p resFailed := ⟨_, rfl⟩
  have hvf : v.mem = u.mem ∧ v.owner = u.owner ∧ v.tiles = u.tiles := by
    rw [hv, auditEnd_frame]
    exact ⟨rfl, rfl, rfl⟩
  have htile : v.tile p = u.tile p := by rw [State.tile, hvf.2.2]; rfl
  refine ⟨v, ?_, hvf.1.trans hmem.1, hvf.2.1.trans hmem.2, ?_⟩
  · change execMarchDone p fs s = _
    rw [execMarchDone]
    dsimp only
    rw [hrep, hrun, ha, hab, hv, hu]
    rfl
  · rw [htile]
    exact hmpd

/-- A row that fails where its sub-bank has a spare row. R334. -/
theorem repairRows_spare (m : Mpd) {f : RowFail} (he : rowExists f.bank f.sub f.row = true) (hb : f.badSpares = 0)
    (hs : m.sparesUsed f.bank f.sub < 4) :
    ∃ m1, repairRows { m with rowsFailed := 0, rowsRepaired := 0 } [f] = (m1, true) ∧ m1.rowsFailed = 1 ∧ m1.rowsRepaired = 1 ∧
      m1.repairs = m.repairs ++ [{ bank := f.bank, sub := f.sub, row := f.row, spare := m.sparesUsed f.bank f.sub,
                                   preserving := m.marchPreserving }] := by
  have hu (a b : Nat) : ({ m with rowsFailed := a, rowsRepaired := b } : Mpd).sparesUsed f.bank f.sub = m.sparesUsed f.bank f.sub := rfl
  obtain ⟨e, hent⟩ : ∃ e : RepairEntry, e = ⟨f.bank, f.sub, f.row, m.sparesUsed f.bank f.sub, m.marchPreserving⟩ := ⟨_, rfl⟩
  refine ⟨{ m with rowsFailed := 1, rowsRepaired := 1, repairs := m.repairs ++ [e], log := (e :: m.log).take 16 }, ?_, rfl, rfl, by rw [hent]⟩
  simp only [repairRows, he, hb, repairRow, hu, if_neg (Nat.not_le.2 hs), Bool.not_true, Bool.false_eq_true, if_false]
  rw [hent]
  rfl

/-- A row that fails where no spare row is left. R335. -/
theorem repairRows_full (m : Mpd) {f : RowFail} (he : rowExists f.bank f.sub f.row = true) (hs : 4 ≤ m.sparesUsed f.bank f.sub) :
    ∃ m1, repairRows { m with rowsFailed := 0, rowsRepaired := 0 } [f] = (m1, false) ∧ m1.repairs = m.repairs := by
  have hu (a b : Nat) : ({ m with rowsFailed := a, rowsRepaired := b } : Mpd).sparesUsed f.bank f.sub = m.sparesUsed f.bank f.sub := rfl
  refine ⟨{ m with rowsFailed := 1, rowsRepaired := 0 }, ?_, rfl⟩
  simp only [repairRows, he, repairRow, hu, if_pos hs, Bool.not_true, Bool.false_eq_true, if_false]
  rfl

/-- Settles O36: bank states, the write-back of a corrected word, and the outcomes of a march. -/
theorem banksAndMarch : Obligations.BanksAndMarch := by
  unfold Obligations.BanksAndMarch
  refine ⟨?_, ?_, ?_, ?_⟩
  · intro s p w i sym hw k hc
    exact eccWriteback_corrects hw hc
  · intro s p b hp hb
    refine ⟨fun h => ?_, fun h => ?_, fun h => ?_⟩
    · refine ⟨s.modMpd p (fun m => { m with banks := tmod {} m.banks b (fun k => { k with st := .retained }) }), ?_, rfl, ?_⟩
      · change execRetentionEntry p b s = _
        rw [execRetentionEntry, if_pos ⟨hp, hb, h⟩]
      · rw [modMpd_mpd]
        dsimp only
        rw [tget_tmod, if_pos rfl]
    · refine ⟨wakeBanks s p, ?_, rfl, wakeBanks_bank s p hb h⟩
      change execBankWakeRequest p s = _
      rw [execBankWakeRequest, if_pos hp]
    · refine ⟨s.modMpd p (fun m => { m with banks := tmod {} m.banks b (fun k => { k with st := .awake }) }), ?_, rfl, ?_⟩
      · change execBankWakeDone p b s = _
        rw [execBankWakeDone, if_pos ⟨hp, hb, h⟩]
      · rw [modMpd_mpd]
        dsimp only
        rw [tget_tmod, if_pos rfl]
  · intro s p fs m hm ha hab
    obtain ⟨t, ht, hmem, howner, hst, hreps, hfailed, hrepaired⟩ := marchDone_fields hm ha hab
      (rfl : repairRows { (s.tile p).mpd with rowsFailed := 0, rowsRepaired := 0 } fs = (_, _))
    refine ⟨t, ht, fun h => ?_, fun h b _ hg o ho hlt => ?_, ?_, ?_, ?_⟩
    · rw [hmem, howner, sweptState, if_pos h]
      exact ⟨rfl, rfl⟩
    · subst ho
      have hz := marchZero_clears s p o m.marchBanks hlt hg
      have hsw : sweptState s p (s.tile p).mpd = marchZero s p m.marchBanks := by rw [sweptState, if_neg (by rw [h]; simp)]
      rw [hsw] at hmem howner
      rw [byte_congr hmem, ownerOf, howner]
      exact hz
    · rintro rfl
      exact ⟨hst, hreps⟩
    · rintro f rfl he hb hs
      obtain ⟨m1, h1, h2, h3, h4⟩ := repairRows_spare m he hb hs
      rw [h1] at hst hreps hfailed hrepaired
      refine ⟨hst.trans ?_, hfailed.trans h2, hrepaired.trans h3, hreps.trans h4⟩
      simp [endSt, h3]
    · rintro f rfl he hs
      obtain ⟨m1, h1, h2⟩ := repairRows_full m he hs
      rw [h1] at hst hreps
      exact ⟨hst, hreps.trans h2⟩
  · intro s p fs m hm ha hab
    obtain ⟨t, ht, hmem, howner, hst, hreps⟩ := marchDone_aborted hm ha hab
      (rfl : repairRows { (s.tile p).mpd with rowsFailed := 0, rowsRepaired := 0 } fs = (_, _))
    refine ⟨t, ht, hmem, howner, hst, ?_⟩
    rintro f rfl he hb hs
    obtain ⟨m1, h1, -, -, h4⟩ := repairRows_spare m he hb hs
    rw [h1] at hreps
    exact hreps.trans h4

end Sys2Proof.Proofs
end

section
/-! A retiring tile is remapped onto a spare (05, R215 to R217). -/

namespace Sys2Proof.Proofs
open Sys2Proof Sys2Proof.Machine

/-! ## Events are written in host memory -/

theorem evtTo_byte (s : State) (f : Nat) (e : Evt) (c : Option Nat) (esq : W32) {j : Nat} (hj : j < 2 ^ 64) :
    (evtTo s f e c esq).byte j = s.byte j := by
  have hpush (q : Nat) (bs : List Byte) (hk : (s.ring q).kind = .event) : (pushRecord s q bs).byte j = s.byte j := by
    have hin : (s.ring q).inHost = true := by rw [Ring.inHost, hk]; rfl
    have hput : (s.putEntry (s.ring q) (s.ring q).c1.toNat bs).byte j = s.byte j := by
      rw [State.putEntry, State.entryPlace, if_pos hin]
      dsimp only
      rw [if_neg (by simp [frameRetired])]
      refine (byte_setBytes_outside s _ j bs (.inl ?_))
      rw [Place.key, hostKey]
      omega
    have hshadow (u : State) (v : W32) : (shadowWrite u q v).byte j = u.byte j := by
      unfold shadowWrite
      split
      · refine byte_setNum_outside u _ _ _ j (.inl ?_)
        rw [hostKey]
        omega
      · rfl
    refine (byte_congr (notify_fields _ q false).1 j).trans ((hshadow _ _).trans hput)
  unfold evtTo
  dsimp only
  split
  · exact byte_congr (State.modFn_mem ..) j
  · next q hq =>
    split
    · next h => exact (byte_congr (State.modRing_mem ..) j).trans (hpush q _ h.1)
    · exact byte_congr ((State.modRing_mem ..).trans (State.modFn_mem ..)) j

theorem postEvent_byte (s : State) (c : Option Nat) (e : Evt) {j : Nat} (hj : j < 2 ^ 64) : (postEvent s c e).byte j = s.byte j := by
  unfold postEvent
  dsimp only
  split
  · exact evtTo_byte _ _ _ _ _ hj
  · split
    · exact (evtTo_byte _ _ _ _ _ hj).trans (evtTo_byte _ _ _ _ _ hj)
    · exact evtTo_byte _ _ _ _ _ hj

theorem foldl_postEvent_frame (cs : List Nat) (e : Evt) (s : State) : let t := cs.foldl (fun s c => postEvent s (some c) e) s
    t = { s with mem := t.mem, chk := t.chk, hif := t.hif } := by
  refine foldl_frame (fun u v : State => v = { u with mem := v.mem, chk := v.chk, hif := v.hif }) (fun _ => rfl)
    (fun u v w h h' => ?_) (fun s c => postEvent s (some c) e) cs (fun u c => postEvent_frame u _ e) s
  rw [h', h]

theorem postEvents_frame (s : State) (cs : List Nat) (e : Evt) :
    postEvents s cs e = { s with mem := (postEvents s cs e).mem, chk := (postEvents s cs e).chk, hif := (postEvents s cs e).hif } := by
  have h1 := foldl_postEvent_frame cs e s
  dsimp only at h1
  have h2 := postEvent_frame (cs.foldl (fun s c => postEvent s (some c) e) s) none e
  rw [postEvents]
  generalize cs.foldl (fun s c => postEvent s (some c) e) s = u at h1 h2
  generalize postEvent u none e = v at h2
  rw [h2, h1]

theorem postEvents_byte (s : State) (cs : List Nat) (e : Evt) {j : Nat} (hj : j < 2 ^ 64) : (postEvents s cs e).byte j = s.byte j := by
  rw [postEvents, postEvent_byte _ _ _ hj]
  exact foldl_frame (fun u v => v.byte j = u.byte j) (fun _ => rfl) (fun _ _ _ h h' => h'.trans h) (fun s c => postEvent s (some c) e) cs
    (fun u c => postEvent_byte u _ e hj) s

/-! ## A block moved -/

theorem byte_setWords (ws : List Word288) {s : State} {k : Nat} (h : k % 32 = 0) (j : Nat) :
    (s.setWords k ws).byte j = if k ≤ j ∧ j < k + 32 * ws.length
      then byteOf (nth (0, 0) ws ((j - k) / 32)).1.toNat ((j - k) % 32) else s.byte j := by
  induction ws generalizing s k with
  | nil => rw [if_neg (by simp)]; rfl
  | cons w ws ih =>
    rw [State.setWords, ih (by omega), byte_setWord, List.length_cons]
    by_cases h1 : k ≤ j ∧ j < k + 32
    · rw [if_neg (by omega), if_pos (by omega), if_pos (by omega), show (j - k) / 32 = 0 by omega, nth_cons_zero,
        show (j - k) % 32 = j % 32 by omega]
    · rw [if_neg (show ¬ j / 32 = k / 32 by omega)]
      by_cases h2 : k + 32 ≤ j ∧ j < k + 32 + 32 * ws.length
      · rw [if_pos h2, if_pos (by omega), show (j - k) / 32 = (j - (k + 32)) / 32 + 1 by omega, nth_cons_succ,
          show (j - k) % 32 = (j - (k + 32)) % 32 by omega]
      · rw [if_neg h2, if_neg (by omega)]

theorem words_length (s : State) (k n : Nat) : (s.words k n).length = n := by
  induction n generalizing k with
  | zero => rfl
  | succ n ih => rw [State.words, List.length_cons, ih]

theorem nth_words (s : State) (k : Nat) {n i : Nat} (h : i < n) : nth (0, 0) (s.words k n) i = s.word (k + 32 * i) := by
  induction n generalizing k i with
  | zero => omega
  | succ n ih =>
    rw [State.words]
    cases i with
    | zero => rw [nth_cons_zero, Nat.mul_zero, Nat.add_zero]
    | succ i => rw [nth_cons_succ, ih _ (by omega), show k + 32 + 32 * i = k + 32 * (i + 1) by omega]

/-- Words copied keep their bytes. -/
theorem byte_copyWords {s u : State} {k k' : Nat} (n : Nat) (hk : k % 32 = 0) (hk' : k' % 32 = 0) (j : Nat) :
    (u.setWords k (s.words k' n)).byte j = if k ≤ j ∧ j < k + 32 * n then s.byte (k' + (j - k)) else u.byte j := by
  rw [byte_setWords _ hk, words_length]
  split
  · rw [nth_words _ _ (by omega), byteOf_word _ _ (by omega),
      show (k' + 32 * ((j - k) / 32)) / 32 * 32 + (j - k) % 32 = k' + (j - k) by omega]
  · rfl

/-- State `t` is `s` but for memory, its check bits, the owner tags and what tiles keep of their own Millpond. -/
def BlocksOnly (s t : State) : Prop :=
  t = { s with mem := t.mem, chk := t.chk, owner := t.owner, tiles := t.tiles } ∧ ∀ q, t.tile q = { s.tile q with mpd := (t.tile q).mpd }

theorem BlocksOnly.refl (s : State) : BlocksOnly s s := ⟨rfl, fun _ => rfl⟩

theorem BlocksOnly.trans {s t u : State} (h : BlocksOnly s t) (h' : BlocksOnly t u) : BlocksOnly s u := by
  refine ⟨?_, fun q => ?_⟩
  · rw [h'.1, h.1]
  · rw [h'.2, h.2]

theorem MpdOnly.blocksOnly {s t : State} (h : MpdOnly s t) : BlocksOnly s t := by
  refine ⟨?_, h.2⟩
  conv => lhs; rw [h.1]
  rw [h.1]

theorem setWords_frame (ws : List Word288) (s : State) (k : Nat) :
    s.setWords k ws = { s with mem := (s.setWords k ws).mem, chk := (s.setWords k ws).chk } := by
  induction ws generalizing s k with
  | nil => rfl
  | cons w ws ih =>
    rw [State.setWords, ih]
    rfl

/-- A block of the old tile on its spare. R216, R217. -/
theorem moveBlock_fields (s : State) {p q : Nat} (failed : Bool) (b tag : Nat) :
    BlocksOnly s (moveBlock s p q failed b tag) ∧
    (∀ j, tget 0 (moveBlock s p q failed b tag).owner j = if j = 1536 * q + b then tag else tget 0 s.owner j) ∧
    (∀ j, (moveBlock s p q failed b tag).byte j = if millKey q (4096 * b) ≤ j ∧ j < millKey q (4096 * b) + 4096
      then (if failed then 0 else s.byte (millKey p (4096 * b) + (j - millKey q (4096 * b)))) else s.byte j) := by
  obtain ⟨u, hu⟩ : ∃ u, u = touchRange s q (4096 * b) 4096 := ⟨_, rfl⟩
  have hmu : MpdOnly s u := hu ▸ mpdOnly_touchRange s q (4096 * b) 4096
  obtain ⟨v, hv⟩ : ∃ v, v = touchRange u p (4096 * b) 4096 := ⟨_, rfl⟩
  have hmv : MpdOnly u v := hv ▸ mpdOnly_touchRange u p (4096 * b) 4096
  have hkq := millKey_mod q (4096 * b)
  have hkp := millKey_mod p (4096 * b)
  obtain ⟨w, hw⟩ : ∃ w, w = if failed then u.zero (millKey q (4096 * b)) 4096
    else v.setWords (millKey q (4096 * b)) (s.words (millKey p (4096 * b)) 128) := ⟨_, rfl⟩
  have hdef : moveBlock s p q failed b tag = { w with owner := tset 0 w.owner (1536 * q + b) tag } := by
    rw [hw, hv, hu]
    rfl
  have hus : u.mem = s.mem ∧ u.owner = s.owner := by rw [hmu.1]; exact ⟨rfl, rfl⟩
  have hvs : v.mem = s.mem ∧ v.owner = s.owner := by rw [hmv.1]; exact hus
  have hwb : BlocksOnly s w ∧ w.owner = s.owner := by
    rw [hw]
    split
    · exact ⟨hmu.blocksOnly.trans ⟨rfl, fun _ => rfl⟩, hus.2⟩
    · rw [setWords_frame]
      exact ⟨(hmu.blocksOnly.trans hmv.blocksOnly).trans ⟨rfl, fun _ => rfl⟩, hvs.2⟩
  rw [hdef]
  refine ⟨hwb.1.trans ⟨rfl, fun _ => rfl⟩, fun j => ?_, fun j => ?_⟩
  · refine (tget_tset 0 w.owner _ _ j).trans ?_
    rw [hwb.2]
  · refine (byte_congr (s := w) rfl j).trans ?_
    rw [hw]
    split
    · rw [byte_zero, byte_congr hus.1]
    · rw [byte_copyWords 128 (by omega) (by omega), byte_congr hvs.1]

/-! ## All blocks moved -/

/-- Block `b` of tile `q` has the tag of `tag` and the bytes of `src`, or zeros where the old tile failed. -/
def Moved (q : Nat) (failed : Bool) (tag : Nat → Nat) (src : Nat → Byte) (u : State) (b : Nat) : Prop :=
  tget 0 u.owner (1536 * q + b) = tag b ∧ ∀ i, i < 4096 → u.byte (millKey q (4096 * b + i)) = if failed then 0 else src (4096 * b + i)

theorem foldl_moveBlock (xs : List (Nat × Nat)) {p q : Nat} (hpq : p ≠ q) (failed : Bool) {tag : Nat → Nat} {src : Nat → Byte} (u : State)
    (hxs : ∀ x ∈ xs, x.1 < 1536 ∧ x.2 = tag x.1) (hsrc : ∀ o, o < 0x600000 → u.byte (millKey p o) = src o) :
    let t := xs.foldl (fun s b => moveBlock s p q failed b.1 b.2) u
    BlocksOnly u t ∧ ∀ b, b < 1536 → (b ∈ xs.map Prod.fst ∨ Moved q failed tag src u b) → Moved q failed tag src t b := by
  induction xs generalizing u with
  | nil => exact ⟨.refl u, fun b _ h => h.resolve_left List.not_mem_nil⟩
  | cons x xs ih =>
    obtain ⟨hlt, htag⟩ := hxs x List.mem_cons_self
    obtain ⟨hbo, howner, hbyte⟩ := moveBlock_fields u (p := p) (q := q) failed x.1 x.2
    obtain ⟨v, hv⟩ : ∃ v, v = moveBlock u p q failed x.1 x.2 := ⟨_, rfl⟩
    rw [← hv] at hbo howner hbyte
    have hvsrc (o : Nat) (ho : o < 0x600000) : v.byte (millKey p o) = src o := by
      rw [hbyte, if_neg, hsrc o ho]
      unfold millKey
      omega
    obtain ⟨h1, h2⟩ := ih v (fun y hy => hxs y (List.mem_cons_of_mem _ hy)) hvsrc
    rw [List.foldl_cons, ← hv]
    refine ⟨hbo.trans h1, fun b hb h => h2 b hb ?_⟩
    by_cases hbx : b = x.1
    · refine .inr ⟨?_, fun i hi => ?_⟩
      · rw [howner, hbx, if_pos rfl, htag]
      · rw [hbyte, hbx, if_pos (by unfold millKey; omega), millKey_add, Nat.add_sub_cancel_left, ← millKey_add, hsrc _ (by omega)]
    · refine h.imp (fun h => (List.mem_cons.1 h).resolve_left hbx) fun h => ⟨?_, fun i hi => ?_⟩
      · rw [howner, if_neg (by omega), h.1]
      · rw [hbyte, if_neg (by unfold millKey; omega), h.2 i hi]

theorem tget_of_mem {α : Type} {d v : α} {t : Tab α} {k : Nat} (hs : tsorted t = true) (h : (k, v) ∈ t) : tget d t k = v := by
  induction t with
  | nil => cases h
  | cons x t ih =>
    obtain ⟨j, w⟩ := x
    obtain ⟨hlt, hst⟩ := (tsorted_cons j w t).1 hs
    rw [tget_cons]
    rcases List.mem_cons.1 h with h | h
    · cases h
      rw [if_pos rfl]
    · have := hlt _ h
      rw [if_neg (by dsimp only at this; omega), ih hst h]

theorem ownedBlocks_spec {s : State} (h : Canonical s) (p : Nat) :
    (∀ x ∈ ownedBlocks s p, x.1 < 1536 ∧ x.2 = tget 0 s.owner (1536 * p + x.1)) ∧
      ∀ b, b < 1536 → tget 0 s.owner (1536 * p + b) ≠ 0 → b ∈ (ownedBlocks s p).map Prod.fst := by
  have hs := ((twf_iff 0 s.owner).1 h.2.2).1
  refine ⟨fun x hx => ?_, fun b hb hne => ?_⟩
  · obtain ⟨y, hy, rfl⟩ := List.mem_map.1 hx
    obtain ⟨hmem, hrange⟩ := List.mem_filter.1 hy
    simp only [Bool.and_eq_true, decide_eq_true_eq] at hrange
    refine ⟨by dsimp only; omega, ?_⟩
    dsimp only
    rw [show 1536 * p + (y.1 - 1536 * p) = y.1 by omega, tget_of_mem hs hmem]
  · rcases tget_mem (d := 0) (t := s.owner) (k := 1536 * p + b) with h | h
    · exact absurd h hne
    · refine List.mem_map.2 ⟨(1536 * p + b - 1536 * p, _), List.mem_map.2 ⟨_, List.mem_filter.2 ⟨h, ?_⟩, rfl⟩, ?_⟩
      · simp only [Bool.and_eq_true, decide_eq_true_eq]
        omega
      · dsimp only
        omega

/-! ## The spare -/

theorem findFrom_some_of {p : Nat → Bool} {n k i : Nat} (hk : k ≤ i) (hi : i < k + n) (h : p i = true) : (findFrom p k n).isSome = true := by
  induction n generalizing k with
  | zero => omega
  | succ n ih =>
    rw [findFrom]
    split
    · rfl
    · next hp =>
      refine ih ?_ (by omega)
      rcases Nat.eq_or_lt_of_le hk with rfl | hk
      · exact absurd h hp
      · exact hk

theorem findFrom_lt {p : Nat → Bool} {n k i : Nat} (h : findFrom p k n = some i) : k ≤ i ∧ i < k + n := by
  induction n generalizing k with
  | zero => cases h
  | succ n ih =>
    rw [findFrom] at h
    split at h
    · cases h
      omega
    · have := ih h
      omega

/-- An unused spare is none of the tiles that stand behind a logical tile. -/
theorem unusedSpare_ne {s : State} {l d q : Nat} (hl : l < 192) (h : unusedSpare s d = some q) : s.phys l ≠ q := by
  rintro rfl
  have hp := findFrom_holds h
  simp only [Bool.and_eq_true, Option.isNone_iff_eq_none] at hp
  have hsome : (s.logOf (s.phys l)).isSome = true := findFrom_some_of (Nat.zero_le l) (by omega) (by simp)
  rw [hp.1] at hsome
  cases hsome

theorem setPhys_phys (s : State) (l q j : Nat) : (s.setPhys l q).phys j = if j = l then q else s.phys j := by
  have htab : tget 0 (s.setPhys l q).lmap j = if j = l then q + 1 else tget 0 s.lmap j := tget_tset 0 s.lmap l (q + 1) j
  by_cases h : j = l
  · rw [if_pos h, State.phys, htab, if_pos h]
  · rw [if_neg h, State.phys, htab, if_neg h]
    rfl

/-! ## The remapping -/

theorem postRetired_frame (s : State) (p l : Nat) (failed : Bool) : postRetired s p l failed =
    { s with mem := (postRetired s p l failed).mem, chk := (postRetired s p l failed).chk, hif := (postRetired s p l failed).hif } :=
  postEvents_frame ..

theorem postRetired_byte (s : State) (p l : Nat) (failed : Bool) {j : Nat} (hj : j < 2 ^ 64) : (postRetired s p l failed).byte j = s.byte j :=
  postEvents_byte _ _ _ hj

theorem phys_congr {s t : State} (h1 : t.lmap = s.lmap) (h2 : t.fuseLmap = s.fuseLmap) (l : Nat) : t.phys l = s.phys l := by
  unfold State.phys fusedPhys
  rw [h1, h2]

/-- The state once the blocks of tile `p` stand on tile `q`, and `q` stands behind logical tile `l`. R216. -/
def remapped (u : State) (l p q : Nat) : State :=
  ((u.setPhys l q).modTile p (fun x => { x with retired := true })).modLTile l (fun _ => {})

theorem remapped_fields (u : State) (l p q : Nat) : let t := remapped u l p q
    t.mem = u.mem ∧ t.owner = u.owner ∧ (∀ j, t.phys j = if j = l then q else u.phys j) ∧ t.ltile l = {} ∧ (t.tile p).retired = true := by
  refine ⟨rfl, rfl, setPhys_phys u l q, State.modLTile_ltile_same .., ?_⟩
  refine (congrArg Tile.retired (State.modTile_tile_same (u.setPhys l q) p (fun x => { x with retired := true }))).trans rfl

/-- What the report of a remapping leaves. R217, R682. -/
theorem reported_fields (u : State) (failed : Bool) (e : Evt) (p : Nat) :
    let v := if failed then postEvent u none e else auditEnd (postEvent u none e) opcTileRetire p resDone
    v.owner = u.owner ∧ v.tiles = u.tiles ∧ v.ltiles = u.ltiles ∧ v.lmap = u.lmap ∧ v.fuseLmap = u.fuseLmap ∧
      ∀ j, j < 2 ^ 64 → v.byte j = u.byte j := by
  have hf := postEvent_frame u none e
  have hb (j : Nat) (hj : j < 2 ^ 64) := postEvent_byte u none e hj
  generalize postEvent u none e = v at hf hb
  have ha := auditEnd_frame v opcTileRetire p resDone
  generalize auditEnd v opcTileRetire p resDone = w at ha
  cases failed with
  | true =>
    rw [hf] at hb ⊢
    exact ⟨rfl, rfl, rfl, rfl, rfl, hb⟩
  | false =>
    rw [ha]
    rw [hf] at hb ⊢
    exact ⟨rfl, rfl, rfl, rfl, rfl, hb⟩

/-- A retiring tile is remapped onto an unused spare. R216, R217. -/
theorem tileRemap_spare {s : State} {l q : Nat} (hc : Canonical s) (hl : l < 192) (hp : s.phys l < 200) (hst : (s.ltile l).st = .retiring)
    (hrun : (s.ltile l).run = none) (hq : unusedSpare s (l / 48) = some q) :
    ∃ t, exec (.tileRemapComplete l) s = .next t ∧ t.phys l = q ∧ (∀ j, j ≠ l → t.phys j = s.phys j) ∧
      t.ltile l = {} ∧ (t.tile (s.phys l)).retired = true ∧
      ∀ b, b < 1536 → tget 0 s.owner (1536 * s.phys l + b) ≠ 0 →
        tget 0 t.owner (1536 * q + b) = tget 0 s.owner (1536 * s.phys l + b) ∧
        ∀ i, i < 4096 → t.byte (millKey q (4096 * b + i)) =
          if (s.ltile l).failed then 0 else s.byte (millKey (s.phys l) (4096 * b + i)) := by
  have hpq := unusedSpare_ne hl hq
  have hq200 : q < 200 := by
    have := findFrom_lt hq
    omega
  have hkey {x : Nat} (hx : x < 200) {o : Nat} (ho : o < 0x600000) : millKey x o < 2 ^ 64 := by
    unfold millKey
    omega
  obtain ⟨hspec, hown⟩ := ownedBlocks_spec hc (s.phys l)
  obtain ⟨u, hu⟩ : ∃ u, u = postRetired s (s.phys l) l (s.ltile l).failed := ⟨_, rfl⟩
  have huf := postRetired_frame s (s.phys l) l (s.ltile l).failed
  have hub (j : Nat) (hj : j < 2 ^ 64) := postRetired_byte s (s.phys l) l (s.ltile l).failed hj
  rw [← hu] at huf hub
  obtain ⟨hbo, hmoved⟩ := foldl_moveBlock (ownedBlocks s (s.phys l)) hpq (s.ltile l).failed
    (tag := fun b => tget 0 s.owner (1536 * s.phys l + b)) (src := fun o => s.byte (millKey (s.phys l) o)) u hspec
    (fun o ho => hub _ (hkey hp ho))
  obtain ⟨v, hv⟩ : ∃ v, v = (ownedBlocks s (s.phys l)).foldl (fun a b => moveBlock a (s.phys l) q (s.ltile l).failed b.1 b.2) u := ⟨_, rfl⟩
  rw [← hv] at hbo hmoved
  obtain ⟨hm, ho, hphys, hlt, hret⟩ := remapped_fields v l (s.phys l) q
  obtain ⟨e, he⟩ : ∃ e : Evt, e = { code := 0x41, sev := 0, srcKind := 1, srcDie := s.phys l / 50, srcIndex := s.phys l, d0 := q } := ⟨_, rfl⟩
  obtain ⟨r1, r2, r3, r4, r5, r6⟩ := reported_fields (remapped v l (s.phys l) q) (s.ltile l).failed e (s.phys l)
  obtain ⟨w, hw⟩ : ∃ w, w = if (s.ltile l).failed then postEvent (remapped v l (s.phys l) q) none e
    else auditEnd (postEvent (remapped v l (s.phys l) q) none e) opcTileRetire (s.phys l) resDone := ⟨_, rfl⟩
  rw [← hw] at r1 r2 r3 r4 r5 r6
  have hvp (j : Nat) : v.phys j = s.phys j := phys_congr (by rw [hbo.1, huf]) (by rw [hbo.1, huf]) j
  refine ⟨w, ?_, ?_, fun j hj => ?_, ?_, ?_, fun b hb hne => ?_⟩
  · change execTileRemapComplete l s = _
    rw [execTileRemapComplete]
    dsimp only
    rw [if_neg (by simp [hst, hrun]), hq]
    dsimp only
    rw [← hu, ← hv, ← he, hw]
    rfl
  · rw [phys_congr r4 r5, hphys, if_pos rfl]
  · rw [phys_congr r4 r5, hphys, if_neg hj, hvp]
  · rw [State.ltile, r3]
    exact hlt
  · rw [State.tile, r2]
    exact hret
  · obtain ⟨h1, h2⟩ := hmoved b hb (.inl (hown b hb hne))
    refine ⟨?_, fun i hi => ?_⟩
    · rw [r1, ho, h1]
    · rw [r6 _ (hkey hq200 (by omega)), byte_congr hm, h2 i hi]

/-- Settles O37: the owned blocks are moved one by one, and the spare takes the logical tile's place. -/
theorem retiredTileIsRemapped : Obligations.RetiredTileIsRemapped := by
  unfold Obligations.RetiredTileIsRemapped
  intro s l hc hl hp hst hrun
  refine ⟨fun q hq => tileRemap_spare hc hl hp hst hrun hq, fun hq => ?_⟩
  obtain ⟨u, hu⟩ : ∃ u, u = postRetired s (s.phys l) l (s.ltile l).failed := ⟨_, rfl⟩
  have huf := postRetired_frame s (s.phys l) l (s.ltile l).failed
  rw [← hu] at huf
  have hf := auditEnd_frame (u.modLTile l (fun x => { x with st := .off, failed := false })) opcTileRetire (s.phys l) resDone
  refine ⟨auditEnd (u.modLTile l (fun x => { x with st := .off, failed := false })) opcTileRetire (s.phys l) resDone, ?_, ?_, ?_⟩
  · change execTileRemapComplete l s = _
    rw [execTileRemapComplete]
    dsimp only
    rw [if_neg (by simp [hst, hrun]), hq, ← hu]
  · rw [hf]
    exact congrArg LTile.st (State.modLTile_ltile_same u l (fun x => { x with st := .off, failed := false }))
  · refine phys_congr ?_ ?_ l
    · rw [hf]
      change u.lmap = s.lmap
      rw [huf]
    · rw [hf]
      change u.fuseLmap = s.fuseLmap
      rw [huf]

end Sys2Proof.Proofs
end

section
/-! The memory block's own work: patrol scrub, sparing and invalidations (10, R428, R437, R443; 11, R479). -/

namespace Sys2Proof.Proofs
open Sys2Proof Sys2Proof.Machine

/-! ## Events that no function takes -/

/-- No function has an event ring. -/
def Unheard (s : State) : Prop := ∀ f, (s.fn f).evtValid = false

/-- State `t` is `s` but for what an event that no function takes counts. -/
def Lost (s t : State) : Prop := t = { s with hif := t.hif } ∧ Unheard t

theorem evtTo_unheard {s : State} (h : Unheard s) (f : Nat) (e : Evt) (c : Option Nat) (esq : W32) : Lost s (evtTo s f e c esq) := by
  have hdef : evtTo s f e c esq = s.modFn f (fun n => { n with evtLost := satAdd 32 n.evtLost 1 }) := by
    unfold evtTo
    dsimp only
    rw [if_neg (by rw [h f]; simp)]
  rw [hdef]
  refine ⟨rfl, fun g => ?_⟩
  rw [State.modFn_fn]
  split
  · exact h f
  · exact h g

theorem Lost.trans {s t u : State} (h : Lost s t) (h' : Lost t u) : Lost s u := by
  refine ⟨?_, h'.2⟩
  rw [h'.1, h.1]

theorem postEvent_unheard {s : State} (h : Unheard s) (c : Option Nat) (e : Evt) : Lost s (postEvent s c e) := by
  have h1 : Lost s { s with hif := { s.hif with esq := s.hif.esq + 1 } } := ⟨rfl, h⟩
  unfold postEvent
  dsimp only
  split
  · exact h1.trans (evtTo_unheard h1.2 ..)
  · split
    · exact h1.trans ((evtTo_unheard h1.2 ..).trans (evtTo_unheard (evtTo_unheard h1.2 ..).2 ..))
    · exact h1.trans (evtTo_unheard h1.2 ..)

theorem postEvents_unheard {s : State} (h : Unheard s) (cs : List Nat) (e : Evt) : Lost s (postEvents s cs e) := by
  have hf (cs : List Nat) (u : State) (hu : Unheard u) : Lost u (cs.foldl (fun s c => postEvent s (some c) e) u) := by
    induction cs generalizing u with
    | nil => exact ⟨rfl, hu⟩
    | cons c cs ih => exact (postEvent_unheard hu (some c) e).trans (ih _ (postEvent_unheard hu (some c) e).2)
  exact (hf cs s h).trans (postEvent_unheard (hf cs s h).2 none e)

/-! ## What counting an error changes -/

/-- State `t` is `s` but for the memory block's counts and lists and what lost events count; only frame `f` may have been retired. -/
structure Counted (f : Nat) (s t : State) : Prop where
  frame : t = { s with memb := t.memb, hif := t.hif }
  unheard : Unheard t
  scrub : ∀ k, (t.stack k).scrubBlk = (s.stack k).scrubBlk
  kept : ∀ g, g ∈ s.memb.retired → g ∈ t.memb.retired
  only : f ∉ t.memb.retired → t.memb.retired = s.memb.retired

theorem Counted.refl {f : Nat} {s : State} (h : Unheard s) : Counted f s s := ⟨rfl, h, fun _ => rfl, fun _ h => h, fun _ => rfl⟩

theorem Counted.trans {f : Nat} {s t u : State} (h : Counted f s t) (h' : Counted f t u) : Counted f s u := by
  refine ⟨?_, h'.unheard, fun k => (h'.scrub k).trans (h.scrub k), fun g hg => h'.kept g (h.kept g hg), fun hf => ?_⟩
  · rw [h'.frame, h.frame]
  · rw [h'.only hf, h.only (fun hg => hf (h'.kept f hg))]

theorem Lost.counted {s t : State} (h : Lost s t) (f : Nat) : Counted f s t := by
  have hm : t.memb = s.memb := by rw [h.1]
  refine ⟨?_, h.2, fun k => ?_, fun g hg => by rw [hm]; exact hg, fun _ => by rw [hm]⟩
  · conv => lhs; rw [h.1]
    rw [hm]
  · rw [State.stack, hm]
    rfl

theorem counted_modStack {f : Nat} {s : State} (h : Unheard s) (i : Nat) (g : Stack → Stack) (hg : ∀ t, (g t).scrubBlk = t.scrubBlk) :
    Counted f s (s.modStack i g) := by
  refine ⟨rfl, h, fun k => ?_, fun _ hg => hg, fun _ => rfl⟩
  rw [State.modStack_stack]
  split
  · next hk => rw [hg, hk]
  · rfl

theorem counted_retireFrame {f : Nat} {s : State} (h : Unheard s) (cause : Nat) : Counted f s (retireFrame s f cause) := by
  unfold retireFrame
  split
  · exact .refl h
  · next hf =>
    dsimp only
    refine Counted.trans (t := if retiredOf s (hbmDie (f * 65536)) < 4096 then
      { s with memb := { s.memb with retired := s.memb.retired ++ [f] } } else s) ?_ ?_
    · split
      · exact ⟨rfl, h, fun _ => rfl, fun g hg => List.mem_append_left _ hg,
          fun hn => absurd (List.mem_append_right _ (List.mem_singleton_self f)) hn⟩
      · exact .refl h
    · refine (postEvents_unheard ?_ _ _).counted f
      split
      · exact h
      · exact h

/-- A frame is on the list after its retirement, unless its die's list is full. R441. -/
theorem retireFrame_listed {s : State} {f : Nat} (h : Unheard s) (cause : Nat) (hn : retiredOf s (hbmDie (f * 65536)) < 4096) :
    f ∈ (retireFrame s f cause).memb.retired := by
  unfold retireFrame
  split
  · next hf => exact hf
  · dsimp only
    rw [if_pos hn]
    have hl := postEvents_unheard (s := { s with memb := { s.memb with retired := s.memb.retired ++ [f] } }) h (frameCtxs s f)
      { code := 0x42, sev := 1, srcKind := 6, srcDie := hbmDie (f * 65536), srcIndex := hbmStack (f * 65536), addr := f * 65536, d0 := cause }
    rw [hl.1]
    exact List.mem_append_right _ (List.mem_singleton_self f)

theorem counted_sparePc {f : Nat} {s : State} (h : Unheard s) (stk pc : Nat) : Counted f s (sparePc s stk pc) := by
  unfold sparePc
  dsimp only
  split
  · refine (counted_modStack h stk _ ?_).trans ((postEvent_unheard ?_ none _).counted f)
    · exact fun _ => rfl
    · exact h
  · refine counted_modStack h stk _ ?_
    exact fun _ => rfl

theorem counted_countCe {s : State} (h : Unheard s) (a : Nat) : Counted (a / 65536) s (countCe s (.hbm a)) := by
  unfold countCe
  dsimp only
  have h1 : Counted (a / 65536) s (s.modStack (hbmStack a) (fun t => { t with
      ce := satAdd 32 t.ce 1
      pcCe := tset 0 t.pcCe ((s.stack (hbmStack a)).serving (hbmPc a) (hbmSblk a))
        (satAdd 32 (tget 0 t.pcCe ((s.stack (hbmStack a)).serving (hbmPc a) (hbmSblk a))) 1)
      frameCe := bumpFrame t.frameCe (a / 65536) })) := by
    refine counted_modStack h _ _ ?_
    exact fun _ => rfl
  generalize s.modStack (hbmStack a) (fun t => { t with
      ce := satAdd 32 t.ce 1
      pcCe := tset 0 t.pcCe ((s.stack (hbmStack a)).serving (hbmPc a) (hbmSblk a))
        (satAdd 32 (tget 0 t.pcCe ((s.stack (hbmStack a)).serving (hbmPc a) (hbmSblk a))) 1)
      frameCe := bumpFrame t.frameCe (a / 65536) }) = s1 at h1 ⊢
  have h2 (c : Prop) [Decidable c] : Counted (a / 65536) s (if c then retireFrame s1 (a / 65536) 1 else s1) := by
    split
    · exact h1.trans (counted_retireFrame h1.unheard 1)
    · exact h1
  split
  · exact (h2 _).trans (counted_sparePc (h2 _).unheard ..)
  · exact h2 _

/-- An uncorrectable word that the scrubber finds retires its frame. R437. -/
theorem counted_countUe {s : State} (h : Unheard s) (a : Nat) : Counted (a / 65536) s (countUe s (.hbm a) 1) ∧
    (retiredOf s (hbmDie (a / 65536 * 65536)) < 4096 → a / 65536 ∈ (countUe s (.hbm a) 1).memb.retired) := by
  unfold countUe
  dsimp only
  rw [if_pos (.inr rfl)]
  have h1 : Counted (a / 65536) s (s.modStack (hbmStack a) (fun t => { t with
      ue := satAdd 32 t.ue 1
      ueLog := ({ src := 1, addr := a / 32 * 32 } :: t.ueLog).take 8 })) := by
    refine counted_modStack h _ _ ?_
    exact fun _ => rfl
  exact ⟨h1.trans (counted_retireFrame h1.unheard 0), fun hn => retireFrame_listed h1.unheard 0 hn⟩

end Sys2Proof.Proofs
end

section
/-! The patrol scrubber, the sparing copy and the two invalidations (10, R428, R437, R443; 11, R479). -/

namespace Sys2Proof.Proofs
open Sys2Proof Sys2Proof.Machine

/-! ## Patrol scrub -/

/-- What the scrubber leaves of a word. R437. -/
def scrubbedWord (w : Word288) : Word288 :=
  match classify w.2 with
  | .correctable p sym => (correct w.1 p sym, 0)
  | .clean => w
  | .marked => w
  | .uncorrectable => w

/-- The lists of the memory block after words of frame `f` were scrubbed. -/
structure Patrolled (f : Nat) (s t : State) : Prop where
  frame : t = { s with mem := t.mem, chk := t.chk, memb := t.memb, hif := t.hif }
  unheard : Unheard t
  scrub : ∀ k, (t.stack k).scrubBlk = (s.stack k).scrubBlk
  kept : ∀ g, g ∈ s.memb.retired → g ∈ t.memb.retired
  only : f ∉ t.memb.retired → t.memb.retired = s.memb.retired

theorem Patrolled.trans {f : Nat} {s t u : State} (h : Patrolled f s t) (h' : Patrolled f t u) : Patrolled f s u := by
  refine ⟨?_, h'.unheard, fun k => (h'.scrub k).trans (h.scrub k), fun g hg => h'.kept g (h.kept g hg), fun hf => ?_⟩
  · rw [h'.frame, h.frame]
  · rw [h'.only hf, h.only (fun hg => hf (h'.kept f hg))]

theorem Counted.patrolled {f : Nat} {s t : State} (h : Counted f s t) : Patrolled f s t := by
  refine ⟨?_, h.unheard, h.scrub, h.kept, h.only⟩
  rw [h.frame]

theorem Counted.storage {f : Nat} {s t : State} (h : Counted f s t) : t.mem = s.mem ∧ t.chk = s.chk := by
  rw [h.frame]
  exact ⟨rfl, rfl⟩

theorem patrolled_setWord {f : Nat} {s : State} (h : Unheard s) (a : Nat) (w : Word288) : Patrolled f s (s.setWord a w) :=
  ⟨rfl, h, fun _ => rfl, fun _ hg => hg, fun _ => rfl⟩

/-- State `t` is `s` after the words of frame `f` from `a` on, `n` of them, were scrubbed. -/
structure Scrubbed (f a n : Nat) (s t : State) : Prop where
  lists : Patrolled f s t
  inside : ∀ i, i < n → t.word (a + 32 * i) = scrubbedWord (s.word (a + 32 * i))
  outside : ∀ j, j < a ∨ a + 32 * n ≤ j → t.byte j = s.byte j ∧ t.word j = s.word j
  retires : ∀ i, i < n → classify (s.word (a + 32 * i)).2 = .uncorrectable → retiredOf s (hbmDie (f * 65536)) < 4096 → f ∈ t.memb.retired
  clean : (∀ i, i < n → classify (s.word (a + 32 * i)).2 = .clean) → t = s

theorem Counted.scrubbed {s t : State} {a : Nat} (h : Counted (a / 65536) s t) (hw : scrubbedWord (s.word a) = s.word a)
    (hr : classify (s.word a).2 = .uncorrectable → retiredOf s (hbmDie (a / 65536 * 65536)) < 4096 → a / 65536 ∈ t.memb.retired)
    (hc : classify (s.word a).2 = .clean → t = s) : Scrubbed (a / 65536) a 1 s t := by
  refine ⟨h.patrolled, fun i hi => ?_, fun j _ => ⟨byte_congr h.storage.1 j, word_storage h.storage j⟩, fun i hi => ?_, fun hcl => ?_⟩
  · obtain rfl : i = 0 := by omega
    exact (word_storage h.storage _).trans hw.symm
  · obtain rfl : i = 0 := by omega
    exact hr
  · exact hc (hcl 0 Nat.one_pos)

/-- One word is left as R437 says. -/
theorem scrubWord_scrubbed {s : State} (h : Unheard s) {a : Nat} (ha : a % 32 = 0) : Scrubbed (a / 65536) a 1 s (scrubWord s a) := by
  unfold scrubWord
  dsimp only
  split
  case h_1 hc =>
    exact (Counted.refl h).scrubbed (by unfold scrubbedWord; rw [hc]) (fun hu => by rw [hc] at hu; cases hu) fun _ => rfl
  case h_2 hc =>
    exact (Counted.refl h).scrubbed (by unfold scrubbedWord; rw [hc]) (fun hu => by rw [hc] at hu; cases hu) fun _ => rfl
  case h_3 p sym hc =>
    have hcount := counted_countCe h a
    refine ⟨hcount.patrolled.trans (patrolled_setWord hcount.unheard a _), fun i hi => ?_, fun j hj => ⟨?_, ?_⟩, fun i hi => ?_, fun hcl => ?_⟩
    · obtain rfl : i = 0 := by omega
      refine (word_setWord ..).trans ?_
      unfold scrubbedWord
      rw [Nat.mul_zero, Nat.add_zero, hc]
    · exact (byte_setWord_outside _ _ _ _ (by omega)).trans (byte_congr hcount.storage.1 j)
    · exact (word_setWord_other _ _ (by omega)).trans (word_storage hcount.storage j)
    · obtain rfl : i = 0 := by omega
      intro hu
      rw [Nat.mul_zero, Nat.add_zero, hc] at hu
      cases hu
    · have hu := hcl 0 Nat.one_pos
      rw [Nat.mul_zero, Nat.add_zero, hc] at hu
      cases hu
  case h_4 hc =>
    obtain ⟨hcount, hlisted⟩ := counted_countUe h a
    exact hcount.scrubbed (by unfold scrubbedWord; rw [hc]) (fun _ => hlisted) fun hcl => by rw [hc] at hcl; cases hcl

/-- The frame's list has room as long as the frame is not on it. -/
theorem Patrolled.room {f : Nat} {s t : State} (h : Patrolled f s t) (hf : f ∉ t.memb.retired) (d : Nat) : retiredOf t d = retiredOf s d := by
  unfold retiredOf
  rw [h.only hf]

theorem Scrubbed.cons {f a n : Nat} {s t u : State} (ha : a % 32 = 0) (h : Scrubbed f a 1 s t) (h' : Scrubbed f (a + 32) n t u) :
    Scrubbed f a (n + 1) s u := by
  have hother (i : Nat) : t.word (a + 32 + 32 * i) = s.word (a + 32 + 32 * i) := (h.outside _ (.inr (by omega))).2
  have hshift (i : Nat) : a + 32 * (i + 1) = a + 32 + 32 * i := by omega
  refine ⟨h.lists.trans h'.lists, fun i hi => ?_, fun j hj => ?_, fun i hi hu hroom => ?_, fun hcl => ?_⟩
  · cases i with
    | zero => exact (h'.outside _ (.inl (by omega))).2.trans (h.inside 0 Nat.one_pos)
    | succ i => rw [hshift, h'.inside i (by omega), hother]
  · have h1 := h.outside j (by omega)
    have h2 := h'.outside j (by omega)
    exact ⟨h2.1.trans h1.1, h2.2.trans h1.2⟩
  · by_cases hf : f ∈ t.memb.retired
    · exact h'.lists.kept f hf
    · cases i with
      | zero => exact absurd (h.retires 0 Nat.one_pos hu hroom) hf
      | succ i =>
        rw [hshift] at hu
        exact h'.retires i (by omega) (by rw [hother]; exact hu) (by rw [h.lists.room hf]; exact hroom)
  · have h1 : t = s := h.clean fun i hi => by
      obtain rfl : i = 0 := by omega
      exact hcl 0 (by omega)
    refine (h'.clean fun i hi => ?_).trans h1
    rw [hother, ← hshift]
    exact hcl (i + 1) (by omega)

/-- The words of one frame are scrubbed one after the other. R437. -/
theorem scrubWords_scrubbed (n : Nat) {s : State} (h : Unheard s) {a f : Nat} (ha : a % 32 = 0) (hf : ∀ i, i < n → (a + 32 * i) / 65536 = f) :
    Scrubbed f a n s (scrubWords s a n) := by
  induction n generalizing s a with
  | zero =>
    exact ⟨(Counted.refl h).patrolled, fun i hi => absurd hi (Nat.not_lt_zero i), fun _ _ => ⟨rfl, rfl⟩, fun i hi => absurd hi (Nat.not_lt_zero i), fun _ => rfl⟩
  | succ n ih =>
    have h0 : a / 65536 = f := hf 0 (Nat.succ_pos n)
    have h1 : Scrubbed f a 1 s (scrubWord s a) := h0 ▸ scrubWord_scrubbed h ha
    refine h1.cons ha (ih h1.lists.unheard (by omega) fun i hi => ?_)
    have := hf (i + 1) (by omega)
    rw [← this]
    congr 1
    omega

/-- A stack block lies in one frame, of its own die. R419. -/
theorem hbmBlockAddr_frame (k b : Nat) :
    hbmBlockAddr k b % 32 = 0 ∧ (∀ i, i < 128 → (hbmBlockAddr k b + 32 * i) / 65536 = hbmBlockAddr k b / 65536) ∧
      hbmDie (hbmBlockAddr k b / 65536 * 65536) = hbmDie (hbmBlockAddr k b) := by
  unfold hbmBlockAddr hbmDie
  refine ⟨by omega, fun i hi => by omega, by omega⟩

/-- The scrubber's place after the block that stands in `b`. -/
def scrubOn (b : Nat) (t : Stack) : Stack :=
  { t with
    scrubBlk := if decide (stackBlocks ≤ b + 1) then 0 else t.scrubBlk + 1
    scrubPasses := if decide (stackBlocks ≤ b + 1) then (t.scrubPasses + 1) % 2 ^ 40 else t.scrubPasses }

theorem exec_patrolScrub {s : State} {k : Nat} (hk : k < 12) (hint : (s.stack k).scrubInt ≠ 0) :
    exec (.patrolScrub k) s =
      .next ((scrubWords s (hbmBlockAddr k (s.stack k).scrubBlk) 128).modStack k (scrubOn (s.stack k).scrubBlk)) := by
  change execPatrolScrub k s = _
  unfold execPatrolScrub
  obtain ⟨f, hf⟩ : ∃ f, f = scrubWords := ⟨_, rfl⟩
  rw [← hf]
  have hon : ¬ (12 ≤ k ∨ (s.stack k).scrubInt = 0) := by omega
  dsimp only
  rw [if_neg hon]
  rfl

/-- The scrubber's counts leave all but the memory block, and its lists of frames. -/
theorem modStack_keeps (u : State) (k : Nat) (f : Stack → Stack) :
    u.modStack k f = { u with memb := (u.modStack k f).memb } ∧ (u.modStack k f).memb.retired = u.memb.retired := ⟨rfl, rfl⟩

/-- What a step of the scrubber on the block at `a` leaves. R437. -/
def PatrolStep (k b a : Nat) (s t : State) : Prop :=
  (t.stack k).scrubBlk = (if b + 1 = 12582912 then 0 else b + 1) ∧
    (∀ i, i < 128 → t.word (a + 32 * i) = scrubbedWord (s.word (a + 32 * i))) ∧
    (∀ j, (j < a ∨ a + 4096 ≤ j) → t.byte j = s.byte j) ∧
    (∀ i, i < 128 → classify (s.word (a + 32 * i)).2 = .uncorrectable → retiredOf s (hbmDie a) < 4096 →
      a / 65536 ∈ t.memb.retired) ∧
    ((∀ i, i < 128 → classify (s.word (a + 32 * i)).2 = .clean) → t = { s with memb := t.memb })

theorem Scrubbed.patrolStep {s u : State} {k a b : Nat} (hb : b < 12582912) (hk : (s.stack k).scrubBlk = b) (hs : Scrubbed (a / 65536) a 128 s u)
    (hdie : hbmDie (a / 65536 * 65536) = hbmDie a) : PatrolStep k b a s (u.modStack k (scrubOn b)) := by
  have hon : ((u.modStack k (scrubOn b)).stack k).scrubBlk = if b + 1 = 12582912 then 0 else b + 1 := by
    rw [State.modStack_stack_same]
    have hlast : decide (stackBlocks ≤ b + 1) = decide (b + 1 = 12582912) := decide_eq_decide.mpr (by unfold stackBlocks; omega)
    unfold scrubOn
    rw [hlast, (hs.lists.scrub k).trans hk]
    simp only [decide_eq_true_eq]
  obtain ⟨hframe, hretired⟩ := modStack_keeps u k (scrubOn b)
  generalize u.modStack k (scrubOn b) = t at hon hframe hretired ⊢
  have hstore : t.mem = u.mem ∧ t.chk = u.chk := by
    rw [hframe]
    exact ⟨rfl, rfl⟩
  refine ⟨hon, fun i hi => ?_, fun j hj => ?_, fun i hi hue hroom => ?_, fun hcl => ?_⟩
  · rw [word_storage hstore, hs.inside i hi]
  · exact (byte_congr hstore.1 j).trans (hs.outside j hj).1
  · rw [hretired]
    exact hs.retires i hi hue (hdie ▸ hroom)
  · rw [hframe, hs.clean hcl]

theorem exec_patrolScrub_step {s : State} {k : Nat} (hk : k < 12) (hint : (s.stack k).scrubInt ≠ 0)
    (hb : (s.stack k).scrubBlk < 12582912) (h : Unheard s) :
    ∃ t, exec (.patrolScrub k) s = .next t ∧ PatrolStep k (s.stack k).scrubBlk (hbmBlockAddr k (s.stack k).scrubBlk) s t := by
  obtain ⟨halign, hframe, hdie⟩ := hbmBlockAddr_frame k (s.stack k).scrubBlk
  exact ⟨_, exec_patrolScrub hk hint, Scrubbed.patrolStep hb rfl (scrubWords_scrubbed 128 h halign hframe) hdie⟩

/-! ## The sparing copy -/

/-- An uncorrectable word of a copy is counted, and memory stays. -/
theorem countUe_copy (s : State) (a : Nat) : (countUe s (.hbm a) 2).mem = s.mem ∧ (countUe s (.hbm a) 2).chk = s.chk := by
  unfold countUe
  dsimp only
  rw [if_neg (by decide)]
  exact ⟨rfl, rfl⟩

/-- A check difference that is set leaves the word's data. -/
theorem word_setChk (s : State) (a : Nat) (d : W32) : (s.setChk a d).word a = ((s.word a).1, d) :=
  Prod.ext rfl (tget_tset_same 0 s.chk (a / 32) d)

/-- A correctable word is copied corrected, and an uncorrectable one marked. R443. -/
theorem copyWord_word (s : State) (a p : Nat) (sym : Byte) :
    (classify (s.word a).2 = .correctable p sym → (copyWord s a).word a = (correct (s.word a).1 p sym, 0)) ∧
    (classify (s.word a).2 = .uncorrectable → (copyWord s a).word a = ((s.word a).1, kMark)) := by
  unfold copyWord
  dsimp only
  refine ⟨fun h => ?_, fun h => ?_⟩
  · rw [h]
    exact word_setWord ..
  · rw [h]
    rw [← word_storage (countUe_copy s a) a]
    exact word_setChk ..

/-- The copy of a channel without an error in what is left of it only takes the place on and posts its event. R443. -/
theorem sparingCopyDone_ends {s : State} {k pc : Nat} {rest : List Nat} (h : (s.stack k).sparing = pc :: rest)
    (herr : channelErrors s k pc = []) :
    ∃ t, exec (.sparingCopyDone k) s = .next t ∧ (t.stack k).sparing = rest ∧ (t.stack k).spared = (s.stack k).spared ∧
      t.hif.esq = s.hif.esq + 1 := by
  obtain ⟨u, hu⟩ : ∃ u, u = s.modStack k (fun t => { t with sparing := rest, copied := 0 }) := ⟨_, rfl⟩
  have hstack : u.stack k = { s.stack k with sparing := rest, copied := 0 } := by rw [hu, State.modStack_stack_same]
  have hesq : u.hif.esq = s.hif.esq := by rw [hu]; rfl
  have hpost (e : Evt) : (postEvent u none e).stack k = u.stack k := by
    have hmemb : (postEvent u none e).memb = u.memb := by rw [postEvent_frame]
    unfold State.stack
    rw [hmemb]
  refine ⟨postEvent u none { code := 0x41, sev := 0, srcKind := 6, srcDie := k / 3, srcIndex := k, d0 := pc }, ?_, ?_, ?_, ?_⟩
  · change execSparingCopyDone k s = _
    rw [execSparingCopyDone, h]
    dsimp only
    rw [herr, List.foldl_nil, ← hu]
  · exact (congrArg Stack.sparing (hpost _)).trans (congrArg Stack.sparing hstack :)
  · exact (congrArg Stack.spared (hpost _)).trans (congrArg Stack.spared hstack :)
  · rw [postEvent_esq, hesq]

/-! ## Invalidations -/

/-- A field of a register's value is the slice of its word. R1. -/
theorem bitsOf_toNat {w : Nat} (v : BitVec w) (lo n : Nat) : bitsOf v.toNat lo n = (v.extractLsb' lo n).toNat := by
  rw [BitVec.extractLsb'_toNat, Nat.shiftRight_eq_div_pow]
  rfl

theorem exec_memXlatInvalWrite (s : State) (v : W64) (b : Bool) :
    exec (.memXlatInvalWrite v b) s = .next { s with memb := { s.memb with
      xlat := if s.memb.invBusy then s.memb.xlat.filter (fun x => !invalCovers s.memb x.ctx x.level x.idx) else s.memb.xlat
      invOld := if s.memb.invBusy then s.memb.invOld ++ [s.memb.invCtx] else s.memb.invOld
      invVa48 := b
      invHi := b
      invDone := false
      invBusy := true
      invAll := v.getLsbD 62
      invCtx := (v.extractLsb' 48 12).toNat
      invVpage := (v.extractLsb' 16 32).toNat
      invCount := (v.extractLsb' 0 16).toNat } } := by
  change execMemXlatInvalWrite v b s = _
  rw [execMemXlatInvalWrite, startXlatInval, bitsOf_toNat, bitsOf_toNat, bitsOf_toNat]
  rfl

theorem exec_xlatInvalDone_waits {s : State} (h : invalWaits s = true) : exec .xlatInvalDone s = .next s := by
  change execXlatInvalDone s = _
  rw [execXlatInvalDone, if_pos h]

/-- At the end of an invalidation no cached translation is left that it names. R428. -/
theorem exec_xlatInvalDone_ends {s : State} (hbusy : s.memb.invBusy = true) (h : invalWaits s = false) :
    ∃ t, exec .xlatInvalDone s = .next t ∧ t = { s with memb := t.memb } ∧ t.memb.invDone = true ∧ t.memb.invBusy = false ∧
      ∀ x, x ∈ t.memb.xlat ↔ x ∈ s.memb.xlat ∧ invalCovers s.memb x.ctx x.level x.idx = false := by
  refine ⟨endXlatInval s, ?_, ?_⟩
  · change execXlatInvalDone s = _
    rw [execXlatInvalDone, h]
    rfl
  · rw [endXlatInval, if_pos hbusy]
    refine ⟨rfl, rfl, rfl, fun x => ?_⟩
    rw [keptXlat, if_pos hbusy, List.mem_filter, Bool.not_eq_true']

theorem exec_hdrTblInvalWrite (s : State) (v : W32) :
    exec (.hdrTblInvalWrite v) s = .next { s with hdr := { s.hdr with
      invDone := false
      invBusy := true
      invKind := v.getLsbD 30
      invIndex := (v.extractLsb' 0 16).toNat } } := by
  change execHdrTblInvalWrite v s = _
  rw [execHdrTblInvalWrite, startTblInval, bitsOf_toNat]
  rfl

theorem exec_tblInvalDone {s : State} (hbusy : s.hdr.invBusy = true) :
    ∃ t, exec .tblInvalDone s = .next t ∧ t = { s with hdr := t.hdr } ∧ t.hdr.invDone = true ∧ t.hdr.invBusy = false ∧
      (s.hdr.invKind = true → (∀ x ∈ t.hdr.groupCache, x.1 ≠ s.hdr.invIndex) ∧ t.hdr.rightsCache = s.hdr.rightsCache) ∧
      (s.hdr.invKind = false → (∀ x ∈ t.hdr.rightsCache, x.1 ≠ s.hdr.invIndex % 4096) ∧ t.hdr.groupCache = s.hdr.groupCache) := by
  refine ⟨endTblInval s, rfl, ?_⟩
  rw [endTblInval, hbusy]
  cases hkind : s.hdr.invKind with
  | true =>
    refine ⟨rfl, rfl, rfl, fun _ => ⟨fun x hx => ?_, rfl⟩, nofun⟩
    exact bne_iff_ne.mp (List.mem_filter.mp hx).2
  | false =>
    refine ⟨rfl, rfl, rfl, nofun, fun _ => ⟨fun x hx => ?_, rfl⟩⟩
    exact bne_iff_ne.mp (List.mem_filter.mp hx).2

/-- Settles O38: the scrubber by induction on the words of its block, the copy word by word, the invalidations by their two steps. -/
theorem memoryBlockWork : Obligations.MemoryBlockWork := by
  unfold Obligations.MemoryBlockWork
  refine ⟨fun s k hk hint => ?_, fun s k h => ?_, copyWord_word, fun s k pc rest h herr => sparingCopyDone_ends h herr, exec_memXlatInvalWrite,
    fun s h => exec_xlatInvalDone_waits h, fun s hbusy h => exec_xlatInvalDone_ends hbusy h, exec_hdrTblInvalWrite,
    fun s hbusy => exec_tblInvalDone hbusy⟩
  · intro b a hb h
    exact exec_patrolScrub_step hk hint hb h
  · change execPatrolScrub k s = _
    unfold execPatrolScrub
    exact congrArg Host.Outcome.next (if_pos h)

end Sys2Proof.Proofs
end

section
/-! Ports that train and fall, and crossings (11, R448, R455 to R457, R472; 16, R627, R630). -/

namespace Sys2Proof.Proofs
open Sys2Proof Sys2Proof.Machine

/-! ## Training -/

/-- A change of a port is what it makes of the port as it is. -/
theorem modPort_congr {s : State} {p : Nat} {f g : Port → Port} (h : f (s.port p) = g (s.port p)) : s.modPort p f = s.modPort p g := by
  unfold State.modPort
  rw [h]

theorem aligned_of {s : State} {p : Nat} (hp : p < 16) (hl : (s.port p).link = .training) (hu : (s.port p).unit.st = .on)
    (hok : (s.port p).lanesOk = 0xFF) : aligned s p = true := by
  unfold aligned
  rw [hl, hu, hok, decide_eq_true hp]
  rfl

theorem exec_laneAlignment {s : State} {p : Nat} (lanes : BitVec 8) (hp : p < 16) (hl : (s.port p).link = .training)
    (hu : (s.port p).unit.st = .on) : exec (.laneAlignment p lanes) s = .next (s.modPort p (fun q => { q with lanesOk := lanes })) :=
  congrArg Host.Outcome.next (if_pos ⟨hp, hl, hu⟩)

theorem exec_portId {s : State} {p : Nat} (hl : (s.port p).link = .training) (ha : aligned s p = true) (sw : BitVec 16)
    (sp : BitVec 8) (pn : BitVec 4) :
    exec (.portId p sw sp pn) s = .next (s.modPort p (fun q => { q with
      switchId := sw
      switchPort := sp
      plane := pn.toNat
      idDone := true
      link := if pn.toNat = p then .training else .miswired })) := by
  change execPortId p sw sp pn s = _
  rw [execPortId, if_pos ha]
  refine congrArg Host.Outcome.next (modPort_congr ?_)
  rw [hl]

/-- A port that its credit takes UP. R457. -/
def portUp (s : State) (p : Nat) : State :=
  s.modPort p (fun q => { q with
    link := .up
    credit := [(0, 768), (1, 768), (2, 768), (3, 768), (4, 1536)] })

/-- The credit of a port that comes UP. R457. -/
theorem firstCredit : (∀ c, c < 4 → tget 0 [(0, 768), (1, 768), (2, 768), (3, 768), (4, 1536)] c = 768) ∧
    tget 0 [(0, 768), (1, 768), (2, 768), (3, 768), (4, 1536)] 4 = 1536 := by decide

/-- Enumeration follows once port 0 or 1 is UP. R483. -/
theorem exec_creditInit {s : State} {p : Nat} (ha : aligned s p = true) (hid : (s.port p).idDone = true) :
    ∃ t, exec (.creditInit p) s = .next t ∧ t = { s with hdr := t.hdr } ∧ (t.port p).link = .up ∧
      (∀ c, c < 4 → tget 0 (t.port p).credit c = 768) ∧ tget 0 (t.port p).credit 4 = 1536 ∧
      (s.hdr.fabSt = .training → p < 2 → t.hdr.fabSt = .enumerating) := by
  obtain ⟨u, hu⟩ : ∃ u, u = portUp s p := ⟨_, rfl⟩
  have hframe : u = { s with hdr := u.hdr } := by rw [hu]; rfl
  have hport : u.port p = { s.port p with
      link := .up
      credit := [(0, 768), (1, 768), (2, 768), (3, 768), (4, 1536)] } := by rw [hu, portUp, State.modPort_port_same]
  have hst : u.hdr.fabSt = s.hdr.fabSt := by rw [hu]; rfl
  have hexec : exec (.creditInit p) s =
      .next (if u.hdr.fabSt = .training ∧ enumPortUp u then { u with hdr := { u.hdr with fabSt := .enumerating } } else u) := by
    change execCreditInit p s = _
    rw [execCreditInit, if_pos (by rw [ha, hid]; rfl), hu]
    rfl
  have hcredit : (∀ c, c < 4 → tget 0 (u.port p).credit c = 768) ∧ tget 0 (u.port p).credit 4 = 1536 := by
    rw [hport]
    exact firstCredit
  have hlink : (u.port p).link = .up := by rw [hport]
  refine ⟨_, hexec, ?_⟩
  split
  · exact ⟨by rw [hframe], hlink, hcredit.1, hcredit.2, fun _ _ => rfl⟩
  · next hno =>
    refine ⟨hframe, hlink, hcredit.1, hcredit.2, fun htr hp => absurd ⟨hst.trans htr, ?_⟩ hno⟩
    obtain rfl | rfl : p = 0 ∨ p = 1 := by omega
    · rw [enumPortUp, hlink]
      rfl
    · rw [enumPortUp, hlink]
      exact Bool.or_true _

/-! ## A port that falls -/

/-- What a fall makes of the state. R455, R472. -/
def Fell (p : Nat) (s t : State) : Prop :=
  (t.port p).link = .training ∧ (t.port p).unacked = [] ∧ (t.port p).lanesOk = 0 ∧ (t.port p).idDone = false ∧
  (t.port p).downs = min ((s.port p).downs + 1) (2 ^ 64 - 1) ∧
  t.hdr.sendQ = (s.port p).unseen ++ s.hdr.sendQ ∧ t.hif.esq = s.hif.esq + 1 ∧
  ∀ j, j ≠ p → t.port j = s.port j

theorem port_congr {s t : State} (h : t.hdr = s.hdr) (j : Nat) : t.port j = s.port j := by
  unfold State.port
  rw [h]

/-- A reset port holds nothing of its flits. -/
theorem resetPort_port (s : State) (p j : Nat) :
    (resetPort s p).port j = if j = p then { s.port p with
      txSeq := 0
      rxSeq := 0
      unacked := []
      naks := 0
      nakSeq := 0
      sendNak := false
      credit := []
      lanesOk := 0
      idDone := false } else s.port j := by
  rw [resetPort]
  dsimp only
  rw [State.modPort_port]
  rfl

theorem portDown_fell {s : State} {p : Nat} (hu : (s.port p).unit.st = .on) (hl : (s.port p).link = .up) (cause : Nat) :
    Fell p s (portDown s p cause) := by
  obtain ⟨r, hr⟩ : ∃ r, r = resetPort s p := ⟨_, rfl⟩
  have hport := resetPort_port s p
  have hq : r.hdr.sendQ = (s.port p).unseen ++ s.hdr.sendQ := by rw [hr]; rfl
  have hesq : r.hif.esq = s.hif.esq := by rw [hr]; rfl
  rw [← hr] at hport
  obtain ⟨e, he⟩ : ∃ e : Evt, portDown s p cause = postEvent (r.modPort p (fun x => { x with
      link := .training
      downs := satAdd 64 x.downs 1 })) none e := by
    unfold portDown
    dsimp only
    rw [if_neg (by rw [hu, hl]; decide), ← hr]
    simp only [hl, if_true]
    exact ⟨_, rfl⟩
  obtain ⟨t, ht⟩ : ∃ t, t = r.modPort p (fun x => { x with
      link := .training
      downs := satAdd 64 x.downs 1 }) := ⟨_, rfl⟩
  have htport (j : Nat) : t.port j = if j = p then { r.port p with
      link := .training
      downs := satAdd 64 (r.port p).downs 1 } else r.port j := by rw [ht, State.modPort_port]
  have htq : t.hdr.sendQ = r.hdr.sendQ := by rw [ht]; rfl
  have htesq : t.hif.esq = r.hif.esq := by rw [ht]; rfl
  rw [he, ← ht]
  have hhdr : (postEvent t none e).hdr = t.hdr := by rw [postEvent_frame]
  have hp : (postEvent t none e).port p = _ := (port_congr hhdr p).trans ((htport p).trans (if_pos rfl))
  rw [hport, if_pos rfl] at hp
  refine ⟨?_, ?_, ?_, ?_, ?_, ?_, ?_, fun j hj => ?_⟩
  · rw [hp]
  · rw [hp]
  · rw [hp]
  · rw [hp]
  · rw [hp]
    rfl
  · rw [hhdr, htq, hq]
  · rw [postEvent_esq, htesq, hesq]
  · rw [port_congr hhdr, htport, if_neg hj, hport, if_neg hj]

/-- Settles O39: training through the port's own fields, the falls by the one reset that both events make. -/
theorem portsTrainAndFall : Obligations.PortsTrainAndFall := by
  unfold Obligations.PortsTrainAndFall
  refine ⟨fun s p lanes hp hl hu => ⟨exec_laneAlignment lanes hp hl hu,
      fun hok sw sp pn => exec_portId hl (aligned_of hp hl hu hok) sw sp pn, fun hok hid => exec_creditInit (aligned_of hp hl hu hok) hid⟩,
    fun s p hp hu hl => ?_, fun s x hx => ⟨congrArg Host.Outcome.next (if_pos hx), congrArg Host.Outcome.next (if_pos hx)⟩,
    fun s n => ⟨fun hn => congrArg Host.Outcome.next (if_pos hn), fun hn => congrArg Host.Outcome.next (if_pos hn)⟩⟩
  have hdown : p < 16 ∧ (s.port p).link ≠ .training := ⟨hp, by rw [hl]; decide⟩
  intro _
  exact ⟨⟨portDown s p 1, congrArg Host.Outcome.next (if_pos hdown), portDown_fell hu hl 1⟩,
    ⟨portDown s p 2, congrArg Host.Outcome.next (if_pos hdown), portDown_fell hu hl 2⟩⟩

end Sys2Proof.Proofs
end

section
/-! Flits and packets on a port (11, R451, R453 to R455, R457, R458). -/

namespace Sys2Proof.Proofs
open Sys2Proof Sys2Proof.Machine

/-! ## Flits that arrive -/

/-- The bytes that the code corrected are counted. R453. -/
def flitCounted (s : State) (p : Nat) (f : FlitIn) : State :=
  s.modPort p (fun q => { q with fecBytes := if f.fecOk then satAdd 64 q.fecBytes f.fecBytes else q.fecBytes })

theorem exec_flitReceive {s : State} {p : Nat} (f : FlitIn) (hp : p < 16) (hl : (s.port p).link ≠ .down) (hst : stopped s (xPort p) = false) :
    exec (.flitReceive p f) s = .next (
      if f.fecOk ∧ f.crcOk ∧ f.seq = (s.port p).rxSeq then
        if 8 ≤ (((flitCounted s p f).modPort p (fun q => q.accept f)).port p).naks
          then portDown ((flitCounted s p f).modPort p (fun q => q.accept f)) p 0
          else (flitCounted s p f).modPort p (fun q => q.accept f)
      else (flitCounted s p f).modPort p (fun q => { q with sendNak := true })) := by
  change execFlitReceive p f s = _
  rw [execFlitReceive]
  dsimp only
  rw [if_neg (by simp only [hst, hl]; simpa using hp)]
  rfl

theorem flitCounted_port (s : State) (p : Nat) (f : FlitIn) : (flitCounted s p f).port p =
    { s.port p with fecBytes := if f.fecOk then satAdd 64 (s.port p).fecBytes f.fecBytes else (s.port p).fecBytes } := by
  rw [flitCounted, State.modPort_port_same]

/-- The port after an accepted flit. -/
theorem accepted_port (s : State) (p : Nat) (f : FlitIn) :
    ((flitCounted s p f).modPort p (fun q => q.accept f)).port p = Port.accept { s.port p with
      fecBytes := if f.fecOk then satAdd 64 (s.port p).fecBytes f.fecBytes else (s.port p).fecBytes } f := by
  rw [State.modPort_port_same, flitCounted_port]

/-- A flit changes only the port that it arrives at. -/
theorem flitCounted_frame (s : State) (p : Nat) (f : FlitIn) (g : Port → Port) :
    (flitCounted s p f).modPort p g = { s with hdr := ((flitCounted s p f).modPort p g).hdr } := rfl

/-- A flit without a NAK ends the count of NAKs. R455. -/
theorem accept_naks (q : Port) {f : FlitIn} (h : f.nak = false) : (q.accept f).naks = 0 := by
  unfold Port.accept
  rw [h]
  rfl

/-- A NAK for the same SEQ is one more. R455. -/
theorem accept_nak_again {q : Port} {f : FlitIn} (h : f.nak = true) (hq : q.nakSeq = (f.ack + 1) % 2048) : (q.accept f).naks = q.naks + 1 := by
  unfold Port.accept
  rw [h]
  exact if_pos hq

/-- The credit of a flit joins its class. R457. -/
theorem accept_credit (q : Port) {f : FlitIn} (h : f.cclass < 5) :
    tget 0 (q.accept f).credit f.cclass = tget 0 q.credit f.cclass + 32 * f.cred := by
  have hc : (q.accept f).credit = tmod 0 q.credit f.cclass (fun c => c + 32 * f.cred) := if_pos h
  rw [hc, tget_tmod, if_pos rfl]

theorem flitReceive_accepted {s : State} {p : Nat} {f : FlitIn} (hp : p < 16) (hl : (s.port p).link ≠ .down)
    (hst : stopped s (xPort p) = false) (hfec : f.fecOk = true) (hcrc : f.crcOk = true) (hseq : f.seq = (s.port p).rxSeq)
    (hnak : f.nak = false) :
    ∃ t, exec (.flitReceive p f) s = .next t ∧ t = { s with hdr := t.hdr } ∧
      (t.port p).rxSeq = (if idleFlit f then (s.port p).rxSeq else ((s.port p).rxSeq + 1) % 2048) ∧
      (t.port p).unacked = (s.port p).after (f.ack % 2048) ∧ (t.port p).naks = 0 ∧ (t.port p).sendNak = false ∧
      (f.cclass < 5 → tget 0 (t.port p).credit f.cclass = tget 0 (s.port p).credit f.cclass + 32 * f.cred) := by
  have hport := accepted_port s p f
  have hnaks : (((flitCounted s p f).modPort p (fun q => q.accept f)).port p).naks = 0 := by rw [hport, accept_naks _ hnak]
  refine ⟨(flitCounted s p f).modPort p (fun q => q.accept f), ?_, flitCounted_frame .., ?_, ?_, hnaks, ?_, fun hc => ?_⟩
  · rw [exec_flitReceive f hp hl hst, if_pos ⟨hfec, hcrc, hseq⟩, if_neg (by rw [hnaks]; decide)]
  · rw [hport]
    rfl
  · rw [hport]
    rfl
  · rw [hport]
    rfl
  · rw [hport]
    exact accept_credit _ hc

theorem flitReceive_discarded {s : State} {p : Nat} {f : FlitIn} (hp : p < 16) (hl : (s.port p).link ≠ .down)
    (hst : stopped s (xPort p) = false) (hbad : f.fecOk = false ∨ f.crcOk = false ∨ f.seq ≠ (s.port p).rxSeq) :
    ∃ t, exec (.flitReceive p f) s = .next t ∧ t = { s with hdr := t.hdr } ∧ (t.port p).sendNak = true ∧
      (t.port p).rxSeq = (s.port p).rxSeq ∧ (t.port p).unacked = (s.port p).unacked ∧ (t.port p).credit = (s.port p).credit := by
  have hport := (State.modPort_port_same (flitCounted s p f) p (fun q => { q with sendNak := true })).trans
    (congrArg (fun q : Port => { q with sendNak := true }) (flitCounted_port s p f))
  refine ⟨(flitCounted s p f).modPort p (fun q => { q with sendNak := true }), ?_, flitCounted_frame .., ?_, ?_, ?_, ?_⟩
  · have hno : ¬ (f.fecOk = true ∧ f.crcOk = true ∧ f.seq = (s.port p).rxSeq) := by
      rintro ⟨hfec, hcrc, hseq⟩
      simp [hfec, hcrc, hseq] at hbad
    rw [exec_flitReceive f hp hl hst, if_neg hno]
  all_goals rw [hport]

/-- The eighth NAK in a row for one SEQ takes the port DOWN, and it trains again. R455. -/
theorem flitReceive_falls {s : State} {p : Nat} {f : FlitIn} (hp : p < 16) (hst : stopped s (xPort p) = false) (hfec : f.fecOk = true)
    (hcrc : f.crcOk = true) (hseq : f.seq = (s.port p).rxSeq) (hnak : f.nak = true) (hagain : (s.port p).nakSeq = (f.ack + 1) % 2048)
    (h7 : 7 ≤ (s.port p).naks) (hu : (s.port p).unit.st = .on) (hl : (s.port p).link = .up) :
    ∃ t, exec (.flitReceive p f) s = .next t ∧ (t.port p).link = .training := by
  have hport := accepted_port s p f
  have hnaks : 8 ≤ (((flitCounted s p f).modPort p (fun q => q.accept f)).port p).naks := by
    have hq := accept_nak_again (q := (flitCounted s p f).port p) hnak (by rw [flitCounted_port]; exact hagain)
    rw [State.modPort_port_same, hq, flitCounted_port]
    exact Nat.succ_le_succ h7
  refine ⟨portDown ((flitCounted s p f).modPort p (fun q => q.accept f)) p 0, ?_, (portDown_fell ?_ ?_ 0).1⟩
  · rw [exec_flitReceive f hp (by rw [hl]; decide) hst, if_pos ⟨hfec, hcrc, hseq⟩, if_pos hnaks]
  · rw [hport]
    exact hu
  · rw [hport]
    exact hl

/-! ## Packets that leave -/

/-- The port used least recently among those that may take a packet is chosen. R458. -/
theorem choosePort_least {s : State} {k : Packet} {p : Nat} (hp : p < 16) (hm : mayTake s k p = true)
    (hleast : ∀ j, j < 16 → mayTake s k j = true → (s.port p).lastUse < (s.port j).lastUse ∨ j = p) : choosePort s k = some p := by
  have hmem (j : Nat) : j ∈ (List.range 16).filter (mayTake s k) ↔ j < 16 ∧ mayTake s k j = true := by
    rw [List.mem_filter, List.mem_range]
  have hall : ((List.range 16).filter (mayTake s k)).all (fun j => decide ((s.port p).lastUse ≤ (s.port j).lastUse)) = true := by
    refine List.all_eq_true.mpr fun j hj => decide_eq_true ?_
    obtain ⟨hj16, hjm⟩ := (hmem j).mp hj
    obtain hlt | rfl := hleast j hj16 hjm
    · exact hlt.le
    · exact le_rfl
  unfold choosePort
  dsimp only
  cases hf : ((List.range 16).filter (mayTake s k)).find?
      (fun p => ((List.range 16).filter (mayTake s k)).all (fun j => decide ((s.port p).lastUse ≤ (s.port j).lastUse))) with
  | none => exact absurd hall (by simpa using List.find?_eq_none.mp hf p ((hmem p).mpr ⟨hp, hm⟩))
  | some q =>
    obtain ⟨hq16, hqm⟩ := (hmem q).mp (List.mem_of_find?_eq_some hf)
    have hqall := List.find?_some hf
    have hq := List.all_eq_true.mp hqall p ((hmem p).mpr ⟨hp, hm⟩)
    obtain hlt | rfl := hleast q hq16 hqm
    · exact absurd (of_decide_eq_true hq) (Nat.not_le_of_lt hlt)
    · rfl

/-- A packet costs its slots. R457. -/
theorem send_credit (q : Port) (k : Packet) (use : Nat) :
    tget 0 (q.send k use).credit (pktClass k) = tget 0 q.credit (pktClass k) - pktSlots k := by
  unfold Port.send
  dsimp only
  rw [tget_tmod, if_pos rfl]

/-- The fabric after packet `k` left on port `p`, but for the port. R458, R469. -/
def departed (s : State) (k : Packet) (ks : List Packet) (p : Nat) : State :=
  { s with hdr := { s.hdr with
      sendQ := ks
      outst := if k.resp then s.hdr.outst else mapWhere (fun o => o.tag == k.tag) (fun o => { o with port := some p }) s.hdr.outst
      useCount := s.hdr.useCount + 1 } }

theorem exec_packetSend {s : State} {k : Packet} {ks : List Packet} {p : Nat} (hready : s.hdr.fabSt = .ready) (hq : s.hdr.sendQ = k :: ks)
    (hc : choosePort s k = some p) :
    exec .packetSend s = .next ((departed s k ks p).modPort p (fun q => q.send k (s.hdr.useCount + 1))) := by
  have hsome : (choosePort s k).isSome = true := by rw [hc]; rfl
  change execPacketSend s = _
  rw [execPacketSend, if_neg (by rw [hready]; decide), hq, List.find?_cons_of_pos (p := fun x => (choosePort s x).isSome) hsome]
  dsimp only
  rw [hc]
  dsimp only
  rw [dropFirst, if_pos hsome]
  rfl

/-- Settles O40: a flit by its three outcomes, a packet by the port that is chosen. -/
theorem flitsAndPackets : Obligations.FlitsAndPackets := by
  unfold Obligations.FlitsAndPackets
  refine ⟨fun s p f hp hl hst => ⟨fun hfec hcrc hseq hnak => flitReceive_accepted hp hl hst hfec hcrc hseq hnak,
      fun hbad => flitReceive_discarded hp hl hst hbad,
      fun hfec hcrc hseq hnak hagain h7 hu hup => flitReceive_falls hp hst hfec hcrc hseq hnak hagain h7 hu hup⟩,
    fun s k ks p hready hq hp hm hleast => ?_⟩
  have hport (j : Nat) : ((departed s k ks p).modPort p (fun q => q.send k (s.hdr.useCount + 1))).port j =
      if j = p then (s.port p).send k (s.hdr.useCount + 1) else s.port j := State.modPort_port ..
  refine ⟨_, exec_packetSend hready hq (choosePort_least hp hm hleast), rfl, rfl, ?_, ?_, ?_, fun j hj => ?_⟩
  · rw [hport, if_pos rfl]
    exact send_credit ..
  · rw [hport, if_pos rfl]
    rfl
  · rw [hport, if_pos rfl]
    rfl
  · rw [hport, if_neg hj]

end Sys2Proof.Proofs
end

section
/-! Fabric requests at their target: what their checks leave, and the requests that read or store words (11, R434, R464, R466, R477). -/

namespace Sys2Proof.Proofs
open Sys2Proof Sys2Proof.Machine

/-! ## The fabric's own state through reads and checks -/

theorem postEvent_hdr (s : State) (c : Option Nat) (e : Evt) : (postEvent s c e).hdr = s.hdr := by rw [postEvent_frame]

theorem postEvents_hdr (s : State) (cs : List Nat) (e : Evt) : (postEvents s cs e).hdr = s.hdr := by
  have hf (cs : List Nat) (u : State) : (cs.foldl (fun s c => postEvent s (some c) e) u).hdr = u.hdr := by
    induction cs generalizing u with
    | nil => rfl
    | cons c cs ih => exact (ih _).trans (postEvent_hdr ..)
  exact (postEvent_hdr ..).trans (hf cs s)

theorem retireFrame_hdr (s : State) (f cause : Nat) : (retireFrame s f cause).hdr = s.hdr := by
  unfold retireFrame
  split
  · rfl
  · refine (postEvents_hdr ..).trans ?_
    split <;> rfl

theorem sparePc_hdr (s : State) (stk pc : Nat) : (sparePc s stk pc).hdr = s.hdr := by
  unfold sparePc
  dsimp only
  split
  · exact (postEvent_hdr ..).trans rfl
  · rfl

theorem countCe_hdr (s : State) (pl : Place) : (countCe s pl).hdr = s.hdr := by
  cases pl with
  | host a => rfl
  | mill p o => rfl
  | hbm a =>
    have hr (u : State) (c : Prop) [Decidable c] : (if c then retireFrame u (a / 65536) 1 else u).hdr = u.hdr := by
      split
      · exact retireFrame_hdr ..
      · rfl
    unfold countCe
    dsimp only
    split
    · exact (sparePc_hdr ..).trans (hr ..)
    · exact hr ..

theorem countUe_hdr (s : State) (pl : Place) (src : Nat) : (countUe s pl src).hdr = s.hdr := by
  cases pl with
  | host a => rfl
  | mill p o => rfl
  | hbm a =>
    unfold countUe
    dsimp only
    split
    · exact retireFrame_hdr ..
    · rfl

theorem touch_hdr (s : State) (pl : Place) : (touch s pl).hdr = s.hdr := by cases pl <;> rfl

theorem readWord_hdr (s : State) (pl : Place) : (readWord s pl).1.hdr = s.hdr := by
  have ht := touch_hdr s pl
  unfold readWord
  dsimp only
  split
  · exact ht
  · split
    · exact ht
    · exact ht
    · exact (countUe_hdr ..).trans ht
    · refine Eq.trans ?_ ((countCe_hdr _ pl).trans ht)
      split <;> rfl

theorem peekWords_hdr (n : Nat) (s : State) (a : Nat) : (peekWords s a n).1.hdr = s.hdr := by
  induction n generalizing s a with
  | zero => rfl
  | succ n ih =>
    unfold peekWords
    dsimp only
    rw [ih, readWord_hdr]

/-- State `t` sends what `s` does, as the same device. -/
def SameSends (s t : State) : Prop := t.hdr.sendQ = s.hdr.sendQ ∧ t.hdr.devnum = s.hdr.devnum

theorem SameSends.trans {s t u : State} (h : SameSends s t) (h' : SameSends t u) : SameSends s u :=
  ⟨h'.1.trans h.1, h'.2.trans h.2⟩

theorem sameSends_hdr {s t : State} (h : t.hdr = s.hdr) : SameSends s t := by
  unfold SameSends
  rw [h]
  exact ⟨rfl, rfl⟩

theorem sameSends_groupEntry (s : State) (g : Nat) : SameSends s (groupEntry s g).1 := by
  unfold groupEntry
  split
  · exact ⟨rfl, rfl⟩
  · have h := peekWords_hdr 8 s (s.hdr.groupBase + 256 * g)
    unfold SameSends
    dsimp only
    rw [h]
    exact ⟨rfl, rfl⟩

theorem sameSends_groupCheck (s : State) (src group perm off n : Nat) : SameSends s (groupCheck s src group perm off n).1 := by
  have h := sameSends_groupEntry s group
  unfold groupCheck
  split
  · exact ⟨rfl, rfl⟩
  · dsimp only
    repeat' split
    all_goals exact h

theorem sameSends_targetPlace (s : State) (k : Packet) (perm n : Nat) : SameSends s (targetPlace s k perm n).1 := by
  have h := sameSends_groupCheck s k.src k.group perm (gOff k.addr.toNat / n * n) n
  unfold targetPlace
  dsimp only
  split
  · next hc =>
    rw [hc] at h
    exact h
  · next hc =>
    rw [hc] at h
    split <;> exact h

theorem sameSends_writePlace (s : State) (k : Packet) (perm n : Nat) : SameSends s (writePlace s k perm n).1 := by
  have h := sameSends_targetPlace s { k with addr := k.addr / 32 * 32 } perm 32
  unfold writePlace
  dsimp only
  split
  · next hc =>
    rw [hc] at h
    exact h
  · next s1 c pl hc =>
    rw [hc] at h
    split
    · exact h
    · have h2 := h.trans (sameSends_groupCheck s1 k.src k.group perm (gOff (k.addr / 32 * 32).toNat) (32 * n))
      split
      · next hg =>
        rw [hg] at h2
        exact h2
      · next hg =>
        rw [hg] at h2
        split <;> exact h2

/-! ## An expected request -/

theorem sameSends_nextExpected (s : State) (k : Packet) : SameSends s (nextExpected s k) := ⟨rfl, rfl⟩

theorem receive_expected {s : State} {k : Packet} (h : Expected s k) (op : Nat) : receive s op k = serve (nextExpected s k) { k with op := op } := by
  obtain ⟨hready, hresp, hvalid, hdst, hclass, hahead⟩ := h
  have hk : { k with op := op, oclass := k.oclass % 4 } = { k with op := op } := by rw [Nat.mod_eq_of_lt hclass]
  unfold receive
  rw [hk]
  dsimp only
  rw [if_neg (by simp [hready, hresp, hvalid, hdst]), if_pos (show aheadBy s { k with op := op } = 0 from hahead)]
  rfl

/-- A response answers the request that it was made for. R466. -/
theorem answered_respond {s t : State} (h : SameSends s t) (k : Packet) (op status : Nat) (operand : W64) (data : List Word288) :
    Answered s (respond t { k with op := op } status operand data) k op status operand data := by
  unfold Answered respond
  rw [← h.1, ← h.2]

/-! ## Words that are read -/

theorem rawWords_words (n : Nat) (s : State) {pl : Place} (h : ∀ a, pl ≠ .host a) :
    rawWords s pl n = (List.range n).map (fun i => s.word (pl.key + 32 * i)) := by
  induction n generalizing pl with
  | zero => rfl
  | succ n ih =>
    have hplus : ∀ a, pl.plus 32 ≠ .host a := by
      cases pl with
      | host a => exact absurd rfl (h a)
      | hbm a => nofun
      | mill p o => nofun
    have hhead : rawWords s pl (n + 1) = s.word pl.key :: rawWords s (pl.plus 32) n := by
      cases pl with
      | host a => exact absurd rfl (h a)
      | hbm a => rfl
      | mill p o => rfl
    rw [hhead, ih hplus, List.range_succ_eq_map, List.map_cons, List.map_map, key_plus]
    refine congrArg (List.cons _) (List.map_congr_left fun i _ => ?_)
    dsimp only [Function.comp]
    congr 1
    omega

theorem serveRead_one {s s1 : State} {k : Packet} {c : Nat} {pl : Place} (h : targetPlace s { k with addr := k.addr / 32 * 32 } permRead 32 =
    (s1, some (c, pl))) {n : Nat} (hn : n ≤ 1) : serveRead s k n = respond (touch s1 pl) k stOk 0 (rawWords s1 pl 1) := by
  unfold serveRead
  rw [h]
  exact if_pos hn

theorem serveRead_more {s s1 s2 : State} {k : Packet} {c : Nat} {pl : Place} (h : targetPlace s { k with addr := k.addr / 32 * 32 } permRead 32 =
    (s1, some (c, pl))) {n : Nat} (hn : 1 < n) (hg : groupCheck s1 k.src k.group permRead (gOff k.addr.toNat / 32 * 32) (32 * n) = (s2, some c))
    (ho : serveRead.rangeOwnedAt s2 c pl (32 * n) = true) : serveRead s k n = respond (touch s2 pl) k stOk 0 (rawWords s2 pl n) := by
  unfold serveRead
  rw [h]
  dsimp only
  rw [if_neg (Nat.not_le_of_lt hn), hg]
  exact if_pos ho

/-- Words sent as they are: memory stays, and the response holds them with their check bits. R315. -/
theorem respond_words {s u : State} (hsend : SameSends s u) (hmem : SameMemory s u) (k : Packet) (op n : Nat) {pl : Place}
    (hpl : ∀ a, pl ≠ .host a) :
    let t := respond (touch u pl) { k with op := op } stOk 0 (rawWords u pl n)
    t.mem = s.mem ∧ t.chk = s.chk ∧ Answered s t k op 0 0 ((List.range n).map (fun i => s.word (pl.key + 32 * i))) := by
  have hword : rawWords u pl n = (List.range n).map (fun i => s.word (pl.key + 32 * i)) := by
    rw [rawWords_words n u hpl]
    exact List.map_congr_left fun i _ => word_storage hmem _
  rw [hword]
  have ht := touch_storage u pl
  exact ⟨ht.1.trans hmem.1, ht.2.trans hmem.2, answered_respond (hsend.trans (sameSends_hdr (touch_hdr ..))) ..⟩

theorem targetPlace_sends {s s1 : State} {k k' : Packet} {perm n c : Nat} {pl : Place}
    (h : targetPlace (nextExpected s k) k' perm n = (s1, some (c, pl))) : SameSends s s1 := by
  have hs := (sameSends_nextExpected s k).trans (sameSends_targetPlace (nextExpected s k) k' perm n)
  rw [h] at hs
  exact hs

theorem writePlace_sends {s s1 : State} {k k' : Packet} {perm n : Nat} {pl : Place}
    (h : writePlace (nextExpected s k) k' perm n = (s1, some pl)) : SameSends s s1 := by
  have hs := (sameSends_nextExpected s k).trans (sameSends_writePlace (nextExpected s k) k' perm n)
  rw [h] at hs
  exact hs

theorem fabricLoad_answers {s s1 : State} {k : Packet} {c : Nat} {pl : Place} (he : Expected s k) (hpl : ∀ a, pl ≠ .host a)
    (h : targetPlace (nextExpected s k) { k with op := 0x01, addr := k.addr / 32 * 32 } permRead 32 = (s1, some (c, pl)))
    (hmem : SameMemory s s1) :
    ∃ t, exec (.fabricLoad k) s = .next t ∧ t.mem = s.mem ∧ t.chk = s.chk ∧ Answered s t k 0x01 0 0 [s.word pl.key] := by
  refine ⟨_, ?_, respond_words (targetPlace_sends h) hmem k 0x01 1 hpl⟩
  change Host.Outcome.next (receive s 0x01 k) = _
  rw [receive_expected he]
  exact congrArg Host.Outcome.next (serveRead_one (k := { k with op := 0x01 }) h (n := 1) le_rfl)

theorem fabricRead_answers {s s1 s2 : State} {k : Packet} {c : Nat} {pl : Place} (he : Expected s k) (hpl : ∀ a, pl ≠ .host a)
    (h : targetPlace (nextExpected s k) { k with op := 0x03, addr := k.addr / 32 * 32 } permRead 32 = (s1, some (c, pl)))
    (hmem : SameMemory s s1)
    (hg : 1 < k.len % 128 + 1 → groupCheck s1 k.src k.group permRead (gOff k.addr.toNat / 32 * 32) (32 * (k.len % 128 + 1)) = (s2, some c) ∧
      SameMemory s s2 ∧ serveRead.rangeOwnedAt s2 c pl (32 * (k.len % 128 + 1)) = true) :
    ∃ t, exec (.fabricRead k) s = .next t ∧ t.mem = s.mem ∧ t.chk = s.chk ∧
      Answered s t k 0x03 0 0 ((List.range (k.len % 128 + 1)).map (fun i => s.word (pl.key + 32 * i))) := by
  have hexec : exec (.fabricRead k) s = .next (serveRead (nextExpected s k) { k with op := 0x03 } (k.len % 128 + 1)) := by
    change Host.Outcome.next (receive s 0x03 k) = _
    rw [receive_expected he]
    rfl
  rcases Nat.lt_or_ge 1 (k.len % 128 + 1) with hn | hn
  · obtain ⟨hgroup, hmem2, howned⟩ := hg hn
    have hsend := (targetPlace_sends h).trans (sameSends_groupCheck s1 k.src k.group permRead (gOff k.addr.toNat / 32 * 32)
      (32 * (k.len % 128 + 1)))
    rw [hgroup] at hsend
    refine ⟨_, hexec, ?_⟩
    rw [serveRead_more (k := { k with op := 0x03 }) h hn hgroup howned]
    exact respond_words hsend hmem2 k 0x03 _ hpl
  · refine ⟨_, hexec, ?_⟩
    rw [serveRead_one (k := { k with op := 0x03 }) h hn]
    have hone : k.len % 128 + 1 = 1 := by omega
    rw [hone]
    exact respond_words (targetPlace_sends h) hmem k 0x03 1 hpl

end Sys2Proof.Proofs
end

section
/-! Fabric requests that store words (11, R434, R464, R466, R477; 07, R314, R324). -/

namespace Sys2Proof.Proofs
open Sys2Proof Sys2Proof.Machine

/-! ## The mask of a STORE -/

theorem nth_mapRange {α : Type} (d : α) (f : Nat → α) {n i : Nat} (h : i < n) : nth d ((List.range n).map f) i = f i := by
  rw [nth_eq_getD, List.getD_eq_getElem?_getD, List.getElem?_map, List.getElem?_range h]
  rfl

/-- A byte of the mask is whole or empty. R463. -/
theorem byteOf_storeMask (m : Nat) {i : Nat} (hi : i < 32) : byteOf (storeMask m).toNat i = if m.testBit i then 0xFF else 0 := by
  have hlen : ((List.range 32).map (fun i => if m.testBit i then (0xFF : Byte) else 0)).length = 32 := by simp
  have hlt := bytesToNat_lt ((List.range 32).map (fun i => if m.testBit i then (0xFF : Byte) else 0))
  rw [hlen] at hlt
  rw [storeMask, BitVec.toNat_ofNat, Nat.mod_eq_of_lt (Nat.lt_of_lt_of_le hlt (by norm_num)), byteOf_bytesToNat _ (by rw [hlen]; exact hi),
    nth_mapRange _ _ hi]

theorem getLsbD_ff {j : Nat} (h : j < 8) : (0xFF : Byte).getLsbD j = true := by
  interval_cases j <;> rfl

/-- Bit `8 i + j` of a word is bit `j` of its byte `i`. -/
theorem getLsbD_byte (d : BitVec 256) (i : Nat) {j : Nat} (hj : j < 8) : d.getLsbD (8 * i + j) = (byteOf d.toNat i).getLsbD j := by
  rw [getLsbD_byteOf, decide_eq_true hj, Bool.true_and, BitVec.testBit_toNat]

/-- A masked word takes the bytes of the mask. R463. -/
theorem byteOf_maskWord_storeMask (d v : BitVec 256) (m : Nat) {i : Nat} (hi : i < 32) :
    byteOf (maskWord d (storeMask m) v).toNat i = if m.testBit i then byteOf v.toNat i else byteOf d.toNat i := by
  apply BitVec.eq_of_getLsbD_eq
  intro j hj
  have hmask : (storeMask m).getLsbD (8 * i + j) = m.testBit i := by
    rw [getLsbD_byte _ _ hj, byteOf_storeMask m hi]
    cases m.testBit i with
    | true => exact getLsbD_ff hj
    | false => exact BitVec.getLsbD_zero
  rw [← getLsbD_byte _ _ hj, maskWord, BitVec.getLsbD_or, BitVec.getLsbD_and, BitVec.getLsbD_and, BitVec.getLsbD_not, hmask,
    decide_eq_true (show 8 * i + j < 256 by omega)]
  cases m.testBit i with
  | true => simp [getLsbD_byte _ _ hj]
  | false => simp [getLsbD_byte _ _ hj]

/-- The mask of a whole word has every byte. -/
theorem testBit_of_whole {m i : Nat} (h : m % 2 ^ 32 = 2 ^ 32 - 1) (hi : i < 32) : m.testBit i = true := by
  have hb := congrArg (fun x => x.testBit i) h
  simp only [Nat.testBit_mod_two_pow, Nat.testBit_two_pow_sub_one, hi, decide_true, Bool.true_and] at hb
  exact hb

/-! ## Words that are written -/

theorem dropWriteback_hdr (s : State) (pl : Place) : (dropWriteback s pl).hdr = s.hdr := by cases pl <;> rfl

theorem writeWord_hdr (s : State) (pl : Place) (w : Word288) : (writeWord s pl w).hdr = s.hdr := by
  cases pl with
  | host a => rfl
  | hbm a => rfl
  | mill p o => exact (dropWriteback_hdr _ (.mill p o)).trans (touch_hdr s (.mill p o))

theorem writeWord_same (s : State) {pl : Place} (h : ∀ a, pl ≠ .host a) (w : Word288) : (writeWord s pl w).word pl.key = w :=
  (word_storage (writeWord_storage s h w) _).trans (word_setWord ..)

theorem writeWord_outside (s : State) {pl : Place} (h : ∀ a, pl ≠ .host a) (w : Word288) {j : Nat} (hj : j / 32 ≠ pl.key / 32) :
    (writeWord s pl w).byte j = s.byte j ∧ (writeWord s pl w).word j = s.word j :=
  ⟨(byte_congr (writeWord_storage s h w).1 j).trans (byte_setWord_outside s _ _ _ hj),
    (word_storage (writeWord_storage s h w) j).trans (word_setWord_other s w hj)⟩

/-- A word that a requester sends clean or marked is stored as it comes. R434. -/
theorem arriveWord_stored (s : State) (pl : Place) {w : Word288} (h : classify w.2 = .clean ∨ classify w.2 = .marked) :
    arriveWord s pl w = (writeWord s pl w, true) := by
  unfold arriveWord
  rcases h with h | h <;> rw [h]

theorem notHost_plus {pl : Place} (h : ∀ a, pl ≠ .host a) (n : Nat) : ∀ a, pl.plus n ≠ .host a := by
  cases pl with
  | host a => exact absurd rfl (h a)
  | hbm a => nofun
  | mill p o => nofun

/-- Words stored one after the other stand at their places, and no other word changes. R434. -/
theorem storeEach_stored (ws : List Word288) (s : State) {pl : Place} (h : ∀ a, pl ≠ .host a) (hk : pl.key % 32 = 0)
    (hws : ∀ w ∈ ws, classify w.2 = .clean ∨ classify w.2 = .marked) :
    ∃ t, storeEach s pl ws = (t, true) ∧ t.hdr = s.hdr ∧ (∀ i, i < ws.length → t.word (pl.key + 32 * i) = nth (0, 0) ws i) ∧
      ∀ j, (j < pl.key ∨ pl.key + 32 * ws.length ≤ j) → t.byte j = s.byte j ∧ t.word j = s.word j := by
  induction ws generalizing s pl with
  | nil => exact ⟨s, rfl, rfl, fun i hi => absurd hi (Nat.not_lt_zero i), fun _ _ => ⟨rfl, rfl⟩⟩
  | cons w ws ih =>
    have hkey := key_plus pl 32
    obtain ⟨t, ht, hhdr, hin, hout⟩ := ih (writeWord s pl w) (notHost_plus h 32) (by omega) fun w hw => hws w (List.mem_cons_of_mem _ hw)
    rw [hkey] at hin hout
    refine ⟨t, ?_, hhdr.trans (writeWord_hdr ..), fun i hi => ?_, fun j hj => ?_⟩
    · unfold storeEach
      rw [arriveWord_stored s pl (hws w List.mem_cons_self)]
      dsimp only
      rw [ht]
      rfl
    · cases i with
      | zero => exact (hout _ (.inl (by omega))).2.trans (writeWord_same s h w)
      | succ i =>
        rw [nth_cons_succ, ← hin i (Nat.lt_of_succ_lt_succ hi)]
        congr 1
        omega
    · rw [List.length_cons] at hj
      obtain ⟨hb, hw⟩ := hout j (by omega)
      obtain ⟨hb', hw'⟩ := writeWord_outside s h w (j := j) (by omega)
      exact ⟨hb.trans hb', hw.trans hw'⟩

/-- The words of a packet whose LEN says how many it has. R463. -/
theorem pktWords_data {k : Packet} {n : Nat} (h : k.data.length = n) : pktWords k n = k.data := by
  unfold pktWords
  refine List.ext_getElem (by simp [h]) fun i hi hi' => ?_
  rw [List.getElem_map, List.getElem_range, nth_eq_getD, List.getD_eq_getElem _ _ hi']

/-! ## Stores at the target -/

/-- A STORE of a clean word at a clean word. R314, R463. -/
theorem storePart_clean {s : State} {pl : Place} (h : ∀ a, pl ≠ .host a) (hk : 32 ∣ pl.key) (m : Nat) {w : Word288}
    (hw : classify w.2 = .clean) (hc : classify (s.word pl.key).2 = .clean) :
    ∃ t, storePart s pl m w = (t, true) ∧ t.hdr = s.hdr ∧
      ∀ j, t.byte j = if pl.key ≤ j ∧ j < pl.key + 32 ∧ m.testBit (j - pl.key) = true then byteOf w.1.toNat (j - pl.key) else s.byte j := by
  have hin {j : Nat} (hj : pl.key ≤ j ∧ j < pl.key + 32) : j / 32 = pl.key / 32 ∧ j % 32 = j - pl.key := by omega
  by_cases hm : m % 2 ^ 32 = 2 ^ 32 - 1
  · refine ⟨writeWord s pl w, ?_, writeWord_hdr .., fun j => ?_⟩
    · unfold storePart
      rw [if_pos hm, arriveWord_clean s pl hw]
    · rw [byte_congr (writeWord_storage s h w).1, byte_setWord]
      by_cases hj : pl.key ≤ j ∧ j < pl.key + 32
      · obtain ⟨h1, h2⟩ := hin hj
        rw [if_pos h1, h2, if_pos ⟨hj.1, hj.2, testBit_of_whole hm (by omega)⟩]
      · rw [if_neg (by omega), if_neg fun h' => hj ⟨h'.1, h'.2.1⟩]
  · obtain ⟨d, hd⟩ : ∃ d, d = maskWord (s.word pl.key).1 (storeMask m) w.1 := ⟨_, rfl⟩
    have hmask : writeMask s pl (storeMask m) w.1 = (writeWord s pl (d, 0), .none) := by
      cases pl with
      | host a => exact absurd rfl (h a)
      | hbm a =>
        unfold writeMask
        dsimp only
        rw [hc, ← hd]
        rfl
      | mill p o =>
        unfold writeMask
        dsimp only
        rw [hc, ← hd]
        rfl
    refine ⟨writeWord s pl (d, 0), ?_, writeWord_hdr .., fun j => ?_⟩
    · unfold storePart
      rw [if_neg hm, hw]
      dsimp only
      rw [hmask]
      rfl
    · rw [byte_congr (writeWord_storage s h (d, 0)).1, byte_setWord]
      by_cases hj : pl.key ≤ j ∧ j < pl.key + 32
      · obtain ⟨h1, h2⟩ := hin hj
        rw [if_pos h1, h2, hd, byteOf_maskWord_storeMask _ _ _ (by omega)]
        by_cases hb : m.testBit (j - pl.key) = true
        · rw [if_pos hb, if_pos ⟨hj.1, hj.2, hb⟩]
        · rw [if_neg hb, if_neg fun h' => hb h'.2.2, byteOf_word _ _ (by omega)]
          congr 1
          omega
      · rw [if_neg (by omega), if_neg fun h' => hj ⟨h'.1, h'.2.1⟩]

theorem nth_single (w : Word288) : nth (0, 0) [w] 0 = w := rfl

theorem fabricStore_answers {s s1 : State} {k : Packet} {pl : Place} {w : Word288} (he : Expected s k) (hpl : ∀ a, pl ≠ .host a)
    (hk : 32 ∣ pl.key) (h : writePlace (nextExpected s k) { k with op := 0x02 } permWrite 1 = (s1, some pl)) (hmem : SameMemory s s1)
    (hd : k.data = [w]) (hw : classify w.2 = .clean) (hc : classify (s.word pl.key).2 = .clean) :
    ∃ t, exec (.fabricStore k) s = .next t ∧ Answered s t k 0x02 0 0 [] ∧
      (∀ j, t.byte j = if pl.key ≤ j ∧ j < pl.key + 32 ∧ k.operand.toNat.testBit (j - pl.key) = true
        then byteOf w.1.toNat (j - pl.key) else s.byte j) := by
  obtain ⟨u, hu, hhdr, hbyte⟩ := storePart_clean hpl hk k.operand.toNat hw (by rw [word_storage hmem]; exact hc)
  refine ⟨respond u { k with op := 0x02 } stOk 0 [], ?_, answered_respond ((writePlace_sends h).trans (sameSends_hdr hhdr)) .., fun j => ?_⟩
  · change Host.Outcome.next (receive s 0x02 k) = _
    rw [receive_expected he]
    unfold serve
    dsimp only
    rw [h]
    dsimp only
    rw [hd, nth_single, hu]
    rfl
  · rw [← byte_congr hmem.1 j]
    exact hbyte j

theorem fabricWrite_answers {s s1 : State} {k : Packet} {pl : Place} (he : Expected s k) (hpl : ∀ a, pl ≠ .host a) (hk : 32 ∣ pl.key)
    (h : writePlace (nextExpected s k) { k with op := 0x04 } permWrite (k.len % 128 + 1) = (s1, some pl)) (hmem : SameMemory s s1)
    (hd : k.data.length = k.len % 128 + 1) (hws : ∀ w ∈ k.data, classify w.2 = .clean ∨ classify w.2 = .marked) :
    ∃ t, exec (.fabricWrite k) s = .next t ∧ Answered s t k 0x04 0 0 [] ∧
      (∀ i, i < k.len % 128 + 1 → t.word (pl.key + 32 * i) = nth (0, 0) k.data i) ∧
      ∀ j, (j < pl.key ∨ pl.key + 32 * (k.len % 128 + 1) ≤ j) → t.byte j = s.byte j := by
  obtain ⟨u, hu, hhdr, hin, hout⟩ := storeEach_stored k.data s1 hpl (Nat.mod_eq_zero_of_dvd hk) hws
  rw [hd] at hin hout
  refine ⟨respond u { k with op := 0x04 } stOk 0 [], ?_, answered_respond ((writePlace_sends h).trans (sameSends_hdr hhdr)) .., hin,
    fun j hj => (hout j hj).1.trans (byte_congr hmem.1 j)⟩
  change Host.Outcome.next (receive s 0x04 k) = _
  rw [receive_expected he]
  unfold serve
  dsimp only
  rw [h]
  dsimp only
  rw [pktWords_data (k := { k with op := 0x04 }) hd, hu]
  rfl

/-- A 256-bit swap at a clean word. R324, R325. -/
theorem atomSwap256_clean {s : State} {pl : Place} (h : ∀ a, pl ≠ .host a) (hc : classify (s.word pl.key).2 = .clean) (w : Word288) :
    atomSwap256 s pl w = (writeWord (touch s pl) pl w, s.word pl.key) := by
  have hold : ((s.word pl.key).1, (0 : W32)) = s.word pl.key := Prod.ext rfl (eq_zero_of_clean hc).symm
  unfold atomSwap256
  rw [readWord_good h hc]
  dsimp only
  rw [hold]

theorem fabricSwap256_answers {s s1 : State} {k : Packet} {pl : Place} {w : Word288} (he : Expected s k) (hpl : ∀ a, pl ≠ .host a)
    (hk : 32 ∣ pl.key) (h : writePlace (nextExpected s k) { k with op := 0x0E } permAtomic 1 = (s1, some pl)) (hmem : SameMemory s s1)
    (hd : k.data = [w]) (hc : classify (s.word pl.key).2 = .clean) :
    ∃ t, exec (.fabricSwap256 k) s = .next t ∧ Answered s t k 0x0E 0 0 [s.word pl.key] ∧ t.word pl.key = w ∧
      ∀ j, (j < pl.key ∨ pl.key + 32 ≤ j) → t.byte j = s.byte j := by
  have hswap := atomSwap256_clean (s := s1) hpl (by rw [word_storage hmem]; exact hc) w
  rw [word_storage hmem] at hswap
  have hhdr : (writeWord (touch s1 pl) pl w).hdr = s1.hdr := (writeWord_hdr ..).trans (touch_hdr ..)
  refine ⟨respond (writeWord (touch s1 pl) pl w) { k with op := 0x0E } stOk 0 [s.word pl.key], ?_,
    answered_respond ((writePlace_sends h).trans (sameSends_hdr hhdr)) .., writeWord_same _ hpl w, fun j hj => ?_⟩
  · change Host.Outcome.next (receive s 0x0E k) = _
    rw [receive_expected he]
    unfold serve
    dsimp only
    rw [h]
    dsimp only
    rw [hd, nth_single, hswap]
    rfl
  · have hout := (writeWord_outside (touch s1 pl) hpl w (j := j) (by omega)).1
    exact hout.trans ((byte_congr (touch_storage s1 pl).1 j).trans (byte_congr hmem.1 j))

/-- Settles O41: each request by what its place holds before and after, and one response. -/
theorem requestsReadAndStore : Obligations.RequestsReadAndStore := by
  unfold Obligations.RequestsReadAndStore
  refine ⟨fun s s1 k c pl he hpl h hmem => fabricLoad_answers he hpl h hmem, fun s s1 s2 k c pl he hpl => ?_,
    fun s s1 k pl w he hpl hk h hmem hd hw hc => fabricStore_answers he hpl hk h hmem hd hw hc, fun s s1 k pl he hpl hk => ?_,
    fun s s1 k pl w he hpl hk h hmem hd hc => fabricSwap256_answers he hpl hk h hmem hd hc⟩
  · intro n k' h hmem hg
    exact fabricRead_answers he hpl h hmem hg
  · intro n h hmem hd hws
    exact fabricWrite_answers he hpl hk h hmem hd hws

end Sys2Proof.Proofs
end

section
/-! Fabric requests that add, swap or arrive (11, R464, R466, R477; 07, R324; 08, R365, R367, R371). -/

namespace Sys2Proof.Proofs
open Sys2Proof Sys2Proof.Machine

/-! ## Atomics at the target -/

theorem exec_fabricAtom {a : AtomKind} (ha : a ∈ [AtomKind.addI32, .addF32, .addP64, .swap32, .swap64]) (k : Packet) (s : State) :
    exec (fabricAtom a k) s = .next (receive s (atomOp a) k) := by
  simp only [List.mem_cons, List.not_mem_nil, or_false] at ha
  rcases ha with rfl | rfl | rfl | rfl | rfl <;> rfl

theorem serve_atom {a : AtomKind} (ha : a ∈ [AtomKind.addI32, .addF32, .addP64, .swap32, .swap64]) (k : Packet) (s : State) :
    serve s { k with op := atomOp a } = serveAtom s { k with op := atomOp a } a := by
  simp only [List.mem_cons, List.not_mem_nil, or_false] at ha
  rcases ha with rfl | rfl | rfl | rfl | rfl <;> rfl

theorem merged_hdr (s : State) (pl : Place) (n v : Nat) : (merged s pl n v).hdr = s.hdr :=
  (writeWord_hdr ..).trans (touch_hdr ..)

theorem num_storage {s t : State} (h : t.mem = s.mem) (k n : Nat) : t.num k n = s.num k n := num_congr n fun _ _ => byte_congr h _

theorem storedBytes_storage {s s1 t : State} {k n v : Nat} (h : s1.mem = s.mem) (ht : StoredBytes s1 t k n v) : StoredBytes s t k n v := by
  intro j
  rw [ht j, byte_congr h j]

theorem serveAtom_made {s s1 s2 : State} {k : Packet} {a : AtomKind} {c : Nat} {pl : Place} {old : W64}
    (h : targetPlace s k permAtomic a.width = (s1, some (c, pl))) (ha : atomApply s1 pl a k.operand = (s2, old, .ok)) :
    serveAtom s k a = respond s2 k stOk old [] := by
  unfold serveAtom
  rw [h]
  dsimp only
  rw [ha]

theorem fabricAtom_answers {s s1 : State} {k : Packet} {a : AtomKind} {c : Nat} {pl : Place} (he : Expected s k) (hpl : ∀ x, pl ≠ .host x)
    (ha : a ∈ [AtomKind.addI32, .addF32, .addP64, .swap32, .swap64]) (hw : a.width ∣ pl.key)
    (h : targetPlace (nextExpected s k) { k with op := atomOp a } permAtomic a.width = (s1, some (c, pl))) (hmem : SameMemory s s1)
    (hc : classify (s.word pl.key).2 = .clean) :
    ∃ t, exec (fabricAtom a k) s = .next t ∧
      Answered s t k (atomOp a) 0 (BitVec.ofNat 64 (s.num pl.key a.width)) [] ∧
      StoredBytes s t pl.key a.width (atomNew a (s.num pl.key a.width) k.operand) := by
  have happly := atomApply_good (s := s1) hpl (by rw [word_storage hmem]; exact hc) ha hw k.operand
  rw [num_storage hmem.1] at happly
  generalize atomNew a (s.num pl.key a.width) k.operand = v at happly ⊢
  have hsend := (targetPlace_sends h).trans (sameSends_hdr (merged_hdr s1 pl a.width v))
  refine ⟨respond (merged s1 pl a.width v) { k with op := atomOp a } stOk (BitVec.ofNat 64 (s.num pl.key a.width)) [], ?_,
    answered_respond hsend .., storedBytes_storage hmem.1 (merged_stored hpl (width_fits ha hw).1)⟩
  rw [exec_fabricAtom ha, receive_expected he, serve_atom ha, serveAtom_made h happly]

/-- A four-lane P64 add at a clean word. R324. -/
theorem atomP64x4_clean {s : State} {pl : Place} (h : ∀ a, pl ≠ .host a) (hc : classify (s.word pl.key).2 = .clean) (v : BitVec 256) :
    atomP64x4 s pl v = writeWord (touch s pl) pl (p64x4 (s.word pl.key).1 v, 0) := by
  unfold atomP64x4
  rw [readWord_good h hc]

theorem fabricAddP64x4_answers {s s1 : State} {k : Packet} {pl : Place} {w : Word288} (he : Expected s k) (hpl : ∀ a, pl ≠ .host a)
    (hk : 32 ∣ pl.key) (hlen : k.len % 128 = 0) (h : writePlace (nextExpected s k) { k with op := 0x0B } permAtomic 1 = (s1, some pl))
    (hmem : SameMemory s s1) (hd : k.data = [w]) (hc : classify (s.word pl.key).2 = .clean) :
    ∃ t, exec (.fabricAddP64x4 k) s = .next t ∧ Answered s t k 0x0B 0 0 [] ∧
      t.word pl.key = (p64x4 (s.word pl.key).1 w.1, 0) ∧ ∀ j, (j < pl.key ∨ pl.key + 32 ≤ j) → t.byte j = s.byte j := by
  have hadd := atomP64x4_clean (s := s1) hpl (by rw [word_storage hmem]; exact hc) w.1
  rw [word_storage hmem] at hadd
  generalize p64x4 (s.word pl.key).1 w.1 = d at hadd ⊢
  have hhdr : (writeWord (touch s1 pl) pl (d, 0)).hdr = s1.hdr := (writeWord_hdr ..).trans (touch_hdr ..)
  refine ⟨respond (writeWord (touch s1 pl) pl (d, 0)) { k with op := 0x0B } stOk 0 [], ?_,
    answered_respond ((writePlace_sends h).trans (sameSends_hdr hhdr)) .., writeWord_same _ hpl (d, 0), fun j hj => ?_⟩
  · have hwords : pktWords { k with op := 0x0B } (k.len % 128 + 1) = [w] :=
      (pktWords_data (by rw [hlen]; exact congrArg List.length hd)).trans hd
    change Host.Outcome.next (receive s 0x0B k) = _
    rw [receive_expected he]
    unfold serve
    dsimp only
    rw [hwords, hlen, h]
    dsimp only
    rw [addEach, addEach, hadd]
    rfl
  · have hout := (writeWord_outside (touch s1 pl) hpl (d, 0) (j := j) (by omega)).1
    exact hout.trans ((byte_congr (touch_storage s1 pl).1 j).trans (byte_congr hmem.1 j))

theorem fabricSluiceArrive_answers {s s1 s2 : State} {k : Packet} {c : Nat} (he : Expected s k)
    (h : groupCheck (nextExpected s k) k.src k.group permSluice (k.addr.toNat % 65536) 0 = (s1, some c))
    (ho : sluiceOwned s1 c (k.addr.toNat % 65536) = true) (ha : sluiceArriveFrom s1 k.src c (k.addr.toNat % 65536) = (s2, .ok)) :
    ∃ t, exec (.fabricSluiceArrive k) s = .next t ∧ t.mem = s2.mem ∧ t.hdr.sendQ.length = s2.hdr.sendQ.length + 1 ∧ t.ctxs = s2.ctxs := by
  refine ⟨respond s2 { k with op := 0x10 } stOk 0 [], ?_, rfl, List.length_append, rfl⟩
  change Host.Outcome.next (receive s 0x10 k) = _
  rw [receive_expected he]
  unfold serve
  dsimp only
  rw [h]
  dsimp only
  rw [ho, ha]
  rfl

/-! ## The sluice word -/

/-- A sluice word whose state bits are `st`. R365. -/
def sluiceWord (a e st hi : Nat) : Nat := a + 2 ^ 32 * e + 2 ^ 64 * st + hi * 2 ^ 66

theorem sluiceWord_fields {a e st : Nat} (ha : a < 2 ^ 32) (he : e < 2 ^ 32) (hst : st < 4) (hi : Nat) :
    sluiceWord a e st hi % 2 ^ 32 = a ∧ sluiceWord a e st hi / 2 ^ 32 % 2 ^ 32 = e ∧ sluiceWord a e st hi / 2 ^ 66 = hi ∧
      (sluiceWord a e st hi).testBit 64 = st.testBit 0 ∧ (sluiceWord a e st hi).testBit 65 = st.testBit 1 := by
  unfold sluiceWord
  rw [Nat.testBit_eq_decide_div_mod_eq, Nat.testBit_eq_decide_div_mod_eq, Nat.testBit_eq_decide_div_mod_eq, Nat.testBit_eq_decide_div_mod_eq]
  refine ⟨by omega, by omega, by omega, ?_, ?_⟩
  · rw [show (a + 2 ^ 32 * e + 2 ^ 64 * st + hi * 2 ^ 66) / 2 ^ 64 % 2 = st / 2 ^ 0 % 2 by omega]
  · rw [show (a + 2 ^ 32 * e + 2 ^ 64 * st + hi * 2 ^ 66) / 2 ^ 65 % 2 = st / 2 ^ 1 % 2 by omega]

/-- The state bits after an arrival, which completes the count or not. R367, R368. -/
def sluiceState (rel full : Bool) (st : Nat) : Nat := if rel then st ||| 2 else if full then st ||| 1 else st

theorem sluiceAfter_eq (v : Nat) : sluiceAfter v =
    sluiceWord ((v % 2 ^ 32 + 1) % 2 ^ 32) (v / 2 ^ 32 % 2 ^ 32)
      (sluiceState (v.testBit 64) (decide ((v % 2 ^ 32 + 1) % 2 ^ 32 = v / 2 ^ 32 % 2 ^ 32)) (v / 2 ^ 64 % 4)) (v / 2 ^ 66) := by
  unfold sluiceAfter sluiceWord sluiceState bitsOf
  simp only [pow_zero, Nat.div_one, decide_eq_true_eq]
  rfl

theorem sluiceState_bits {st : Nat} (rel full : Bool) (hst : st < 4) : sluiceState rel full st < 4 ∧
    (sluiceState rel full st).testBit 0 = (st.testBit 0 || (!rel && full)) ∧
    (sluiceState rel full st).testBit 1 = (st.testBit 1 || rel) := by
  cases rel <;> cases full <;> interval_cases st <;> decide

theorem sluiceAfter_arrives (v : Nat) : let v' := sluiceAfter v
    v' % 2 ^ 32 = (v % 2 ^ 32 + 1) % 2 ^ 32 ∧ v' / 2 ^ 32 % 2 ^ 32 = v / 2 ^ 32 % 2 ^ 32 ∧
    (v.testBit 64 = false → (v'.testBit 64 = true ↔ (v % 2 ^ 32 + 1) % 2 ^ 32 = v / 2 ^ 32 % 2 ^ 32) ∧ v'.testBit 65 = v.testBit 65) ∧
    (v.testBit 64 = true → v'.testBit 64 = true ∧ v'.testBit 65 = true) ∧ v' / 2 ^ 66 = v / 2 ^ 66 := by
  have h0 : (v / 2 ^ 64 % 4).testBit 0 = v.testBit 64 := by
    rw [Nat.testBit_mod_two_pow (j := 2), Nat.testBit_div_two_pow]
    simp
  have h1 : (v / 2 ^ 64 % 4).testBit 1 = v.testBit 65 := by
    rw [Nat.testBit_mod_two_pow (j := 2), Nat.testBit_div_two_pow]
    simp
  obtain ⟨hst, hb0, hb1⟩ := sluiceState_bits (v.testBit 64) (decide ((v % 2 ^ 32 + 1) % 2 ^ 32 = v / 2 ^ 32 % 2 ^ 32))
    (st := v / 2 ^ 64 % 4) (Nat.mod_lt _ (by decide))
  obtain ⟨hcount, hexpect, hhi, hrel, hover⟩ := sluiceWord_fields (a := (v % 2 ^ 32 + 1) % 2 ^ 32) (e := v / 2 ^ 32 % 2 ^ 32)
    (Nat.mod_lt _ (by decide)) (Nat.mod_lt _ (by decide)) hst (v / 2 ^ 66)
  rw [hb0, h0] at hrel
  rw [hb1, h1] at hover
  intro v'
  rw [← sluiceAfter_eq] at hcount hexpect hhi hrel hover
  refine ⟨hcount, hexpect, fun h => ⟨?_, ?_⟩, fun h => ⟨?_, ?_⟩, hhi⟩
  · rw [hrel, h]
    simp
  · rw [hover, h, Bool.or_false]
  · rw [hrel, h]
    rfl
  · rw [hover, h, Bool.or_true]

/-- Settles O42: an atomic by what its word holds, an arrival by the sluice word's fields. -/
theorem requestsAddAndArrive : Obligations.RequestsAddAndArrive := by
  unfold Obligations.RequestsAddAndArrive
  refine ⟨fun s s1 k a c pl he hpl ha hw h hmem hc => fabricAtom_answers he hpl ha hw h hmem hc,
    fun s s1 k pl w he hpl hk hlen h hmem hd hc => fabricAddP64x4_answers he hpl hk hlen h hmem hd hc, fun s s1 s2 k c he => ?_,
    fun v _ => sluiceAfter_arrives v⟩
  intro n h ho ha
  exact fabricSluiceArrive_answers he h ho ha

end Sys2Proof.Proofs
end

section
/-! Fabric requests out of order, refused or parked (11, R470, R471, R477). -/

namespace Sys2Proof.Proofs
open Sys2Proof Sys2Proof.Machine

/-! ## Requests of this device that are not the expected one -/

/-- Request `k` of another device reaches this one, and the fabric is READY. R483. -/
def Reaches (s : State) (k : Packet) : Prop :=
  s.hdr.fabSt = .ready ∧ k.resp = false ∧ s.hdr.devValid = true ∧ k.dst = s.hdr.devnum ∧ k.oclass < 4

theorem sameSends_bumpHdr (s : State) (i : Nat) : SameSends s (bumpHdr s i) := ⟨rfl, rfl⟩

theorem bumpHdr_cnt (s : State) (i : Nat) : tget 0 (bumpHdr s i).hdr.cnt i = min (tget 0 s.hdr.cnt i + 1) (2 ^ 64 - 1) :=
  tget_tset_same 0 s.hdr.cnt i _

/-- A response without data, counted in HDR_CNT. R466. -/
theorem respond_bumped (s : State) (i : Nat) (k : Packet) (op status : Nat) :
    let t := respond (bumpHdr s i) { k with op := op } status 0 []
    t.mem = s.mem ∧ Answered s t k op status 0 [] ∧ tget 0 t.hdr.cnt i = min (tget 0 s.hdr.cnt i + 1) (2 ^ 64 - 1) :=
  ⟨rfl, answered_respond (sameSends_bumpHdr s i) .., bumpHdr_cnt s i⟩

/-- A request that is not the expected one is a copy, or is early and finds room or none. R470, R471. -/
theorem receive_unexpected {s : State} {k : Packet} (h : Reaches s k) (op : Nat) (ha : 0 < aheadBy s k) :
    receive s op k = if 32768 ≤ aheadBy s k then respond (bumpHdr s 3) { k with op := op } stDup 0 []
      else if 4096 ≤ s.hdr.reorder.length then respond (bumpHdr s 2) { k with op := op } stRetry 0 []
      else { s with hdr := { s.hdr with reorder := s.hdr.reorder ++ [{ k with op := op }] } } := by
  obtain ⟨hready, hresp, hvalid, hdst, hclass⟩ := h
  have hk : { k with op := op, oclass := k.oclass % 4 } = { k with op := op } := by rw [Nat.mod_eq_of_lt hclass]
  have hne : ¬ aheadBy s { k with op := op } = 0 := Nat.ne_of_gt ha
  unfold receive
  rw [hk]
  dsimp only
  rw [if_neg (by simp [hready, hresp, hvalid, hdst]), if_neg hne]
  rfl

theorem fabricWrite_duplicate {s : State} {k : Packet} (h : Reaches s k) (ha : 32768 ≤ aheadBy s k) :
    ∃ t, exec (.fabricWrite k) s = .next t ∧ t.mem = s.mem ∧ Answered s t k 0x04 4 0 [] ∧
      tget 0 t.hdr.cnt 3 = min (tget 0 s.hdr.cnt 3 + 1) (2 ^ 64 - 1) := by
  refine ⟨_, ?_, respond_bumped s 3 k 0x04 4⟩
  change Host.Outcome.next (receive s 0x04 k) = _
  rw [receive_unexpected h _ (by omega), if_pos ha]
  rfl

theorem fabricWrite_early {s : State} {k : Packet} (h : Reaches s k) (h0 : 0 < aheadBy s k) (ha : aheadBy s k < 32768) :
    (s.hdr.reorder.length < 4096 → exec (.fabricWrite k) s =
      .next { s with hdr := { s.hdr with reorder := s.hdr.reorder ++ [{ k with op := 0x04 }] } }) ∧
    (4096 ≤ s.hdr.reorder.length → ∃ t, exec (.fabricWrite k) s = .next t ∧ t.mem = s.mem ∧ Answered s t k 0x04 3 0 [] ∧
      tget 0 t.hdr.cnt 2 = min (tget 0 s.hdr.cnt 2 + 1) (2 ^ 64 - 1)) := by
  have hexec : exec (.fabricWrite k) s = .next (receive s 0x04 k) := rfl
  rw [hexec, receive_unexpected h _ h0, if_neg (Nat.not_le_of_lt ha)]
  refine ⟨fun hroom => ?_, fun hfull => ⟨_, ?_, respond_bumped s 2 k 0x04 3⟩⟩
  · rw [if_neg (Nat.not_le_of_lt hroom)]
  · rw [if_pos hfull]
    rfl

/-- A request that the checks refuse is answered FENCED, and memory stays. R477. -/
theorem fabricLoad_refused {s s1 : State} {k : Packet} (he : Expected s k)
    (h : targetPlace (nextExpected s k) { k with op := 0x01, addr := k.addr / 32 * 32 } permRead 32 = (s1, none)) (hmem : SameMemory s s1) :
    ∃ t, exec (.fabricLoad k) s = .next t ∧ t.mem = s.mem ∧ Answered s t k 0x01 1 0 [] := by
  have hsend := (sameSends_nextExpected s k).trans
    (sameSends_targetPlace (nextExpected s k) { k with op := 0x01, addr := k.addr / 32 * 32 } permRead 32)
  rw [h] at hsend
  refine ⟨respond (bumpHdr s1 1) { k with op := 0x01 } stFenced 0 [], ?_, hmem.1, answered_respond (hsend.trans (sameSends_bumpHdr s1 1)) ..⟩
  have hserve : serveRead (nextExpected s k) { k with op := 0x01 } 1 = refuse s1 { k with op := 0x01 } := by
    unfold serveRead
    rw [h]
  change Host.Outcome.next (receive s 0x01 k) = _
  rw [receive_expected he]
  exact congrArg Host.Outcome.next hserve

/-! ## Parked requests -/

/-- The first parked request whose turn has come, or has passed, leaves the parked ones. R470, R471. -/
theorem exec_reorderRelease {s : State} {k : Packet} {ks : List Packet} (h : s.hdr.reorder = k :: ks)
    (ha : aheadBy s k = 0 ∨ 32768 ≤ aheadBy s k) :
    exec (.reorderRelease k.src k.oclass) s = .next (if aheadBy s k = 0
      then perform { s with hdr := { s.hdr with reorder := ks } } k
      else respond (bumpHdr { s with hdr := { s.hdr with reorder := ks } } 3) k stDup 0 []) := by
  have hready : (k.src == k.src && k.oclass == k.oclass && (aheadBy s k == 0 || decide (32768 ≤ aheadBy s k))) = true := by
    simpa using ha
  change execReorderRelease k.src k.oclass s = _
  unfold execReorderRelease
  dsimp only
  rw [h, List.find?_cons, hready]
  dsimp only
  rw [dropFirst, if_pos hready]

/-- Settles O43: a request by how far it is ahead, a parked one by its turn. -/
theorem requestsOutOfOrder : Obligations.RequestsOutOfOrder := by
  unfold Obligations.RequestsOutOfOrder
  refine ⟨fun s k hready hresp hvalid hdst hclass => ⟨fun ha => fabricWrite_duplicate ⟨hready, hresp, hvalid, hdst, hclass⟩ ha,
      fun h0 ha => fabricWrite_early ⟨hready, hresp, hvalid, hdst, hclass⟩ h0 ha⟩,
    fun s s1 k he h hmem => fabricLoad_refused he h hmem, fun s k ks h _ => ?_⟩
  intro s1
  refine ⟨fun ha => ?_, fun ha => ⟨_, (exec_reorderRelease h (.inr ha)).trans (congrArg Host.Outcome.next (if_neg (by omega))), rfl, rfl, ?_⟩⟩
  · rw [exec_reorderRelease h (.inl ha), if_pos ha]
    rfl
  · exact answered_respond (s := s) ⟨rfl, rfl⟩ k k.op 4 0 []

end Sys2Proof.Proofs
end

section
/-! Responses and timeouts complete requests (11, R466, R473; 06, R256, R294, R295). -/

namespace Sys2Proof.Proofs
open Sys2Proof Sys2Proof.Machine

/-! ## Requests that are answered -/

/-- The state after the answered request has left the outstanding ones. R466. -/
def noLonger (s : State) (o : OutReq) : State :=
  { s with hdr := { s.hdr with outst := s.hdr.outst.filter (fun x => x.tag != o.tag) } }

theorem noLonger_outst {s : State} {o : OutReq} (h : s.hdr.outst = [o]) : (noLonger s o).hdr.outst = [] := by
  change s.hdr.outst.filter (fun x => x.tag != o.tag) = []
  rw [h]
  simp

theorem exec_fabricResponse {s : State} {k : Packet} {o : OutReq} (h : s.hdr.outst = [o]) (ha : answers k o = true) (hr : k.resp = true) :
    exec (.fabricResponse k) s = .next (if k.status = 3 then { s with hdr := { s.hdr with sendQ := s.hdr.sendQ ++ [o.pkt] } }
      else completeReq s o k.status k.operand k.data) := by
  change execFabricResponse k s = _
  unfold execFabricResponse
  rw [h, hr, List.find?_cons, ha]
  rfl

/-! ## Loads -/

/-- A register that waits takes the value, and waits no longer. R242. -/
theorem deliverReg_delivers {s : State} {c : Core} {sd : Nat} (h0 : 0 < sd) (h32 : sd < 32) (hw : ∃ b, (sd, b) ∈ (s.seqr c).waiting) (v : W64) :
    ((deliverReg s c sd v).seqr c).s (BitVec.ofNat 5 sd) = v ∧ ∀ b, (sd, b) ∉ ((deliverReg s c sd v).seqr c).waiting := by
  obtain ⟨b, hb⟩ := hw
  have hany : (s.seqr c).waiting.any (fun w => w.1 == sd) = true := List.any_eq_true.2 ⟨_, hb, beq_self_eq_true _⟩
  have hne : BitVec.ofNat 5 sd ≠ 0 := by
    intro hz
    have hz := congrArg BitVec.toNat hz
    rw [BitVec.toNat_ofNat, Nat.mod_eq_of_lt h32] at hz
    exact Nat.ne_of_gt h0 hz
  have hseqr : (deliverReg s c sd v).seqr c =
      { (s.seqr c).setS (BitVec.ofNat 5 sd) v with waiting := (s.seqr c).waiting.filter (fun w => w.1 != sd) } := by
    unfold deliverReg
    rw [State.modSeqr_seqr]
    exact if_pos hany
  rw [hseqr]
  refine ⟨(Seqr.setS_s ..).trans (if_pos ⟨rfl, hne⟩), fun b hb => ?_⟩
  have := (List.mem_filter.1 hb).2
  simp at this

theorem answerLoad_ok {s : State} {o : OutReq} {c : Core} {pc : W64} {sd sz : Nat} {sx : Bool} {w : Word288} (hw : classify w.2 = .clean) :
    answerLoad s o c pc sd sz sx .ok [w] =
      deliverReg s c sd (extended (BitVec.ofNat 2 sz) sx (w.1.toNat / 2 ^ (8 * (o.pkt.addr.toNat % 32)))) := by
  have hgood : checkedWord (nth (0, 0) [w] 0) = (w.1, true) := by
    rw [nth_single]
    unfold checkedWord
    rw [hw]
  unfold answerLoad
  rw [hgood]
  dsimp only
  rw [if_pos rfl, extendData_eq]

theorem fabricResponse_load {s : State} {k : Packet} {o : OutReq} {c : Core} {pc : W64} {sd sz : Nat} {sx : Bool} {w : Word288}
    (h : s.hdr.outst = [o]) (ha : answers k o = true) (hr : k.resp = true) (hwho : o.who = .load c pc sd sz sx) (hst : k.status = 0)
    (hd : k.data = [w]) (hw : classify w.2 = .clean) (h0 : 0 < sd) (h32 : sd < 32) (hwait : ∃ b, (sd, b) ∈ (s.seqr c).waiting) :
    ∃ t, exec (.fabricResponse k) s = .next t ∧ t.mem = s.mem ∧ t.hdr.outst = [] ∧
      (t.seqr c).s (BitVec.ofNat 5 sd) = extended (BitVec.ofNat 2 sz) sx (w.1.toNat / 2 ^ (8 * (o.pkt.addr.toNat % 32))) ∧
      ∀ b, (sd, b) ∉ (t.seqr c).waiting := by
  generalize hv : extended (BitVec.ofNat 2 sz) sx (w.1.toNat / 2 ^ (8 * (o.pkt.addr.toNat % 32))) = v
  have hexec : exec (.fabricResponse k) s = .next (deliverReg (noLonger s o) c sd v) := by
    rw [exec_fabricResponse h ha hr, if_neg (by rw [hst]; decide)]
    unfold completeReq
    rw [hwho, hst, hd]
    change Host.Outcome.next (answerLoad (noLonger s o) o c pc sd sz sx .ok [w]) = _
    rw [answerLoad_ok hw, hv]
  have hseqr : (noLonger s o).seqr c = s.seqr c := by cases c <;> rfl
  have hwait' : ∃ b, (sd, b) ∈ ((noLonger s o).seqr c).waiting := by
    rw [hseqr]
    exact hwait
  obtain ⟨hval, hno⟩ := deliverReg_delivers h0 h32 hwait' v
  refine ⟨_, hexec, deliverReg_mem .., ?_, hval, hno⟩
  unfold deliverReg
  rw [State.modSeqr_hdr]
  exact noLonger_outst h

/-! ## Posted stores -/

theorem modAtoms_coreAtoms (s : State) (c : Core) (f : List AtomOp → List AtomOp) : coreAtoms (modAtoms s c f) c = f (coreAtoms s c) := by
  cases c with
  | tile l =>
    change ((s.modTile (s.phys l) _).tile (s.phys l)).atomQ = _
    rw [State.modTile_tile_same]
    rfl
  | miller m =>
    change ((s.modMiller m _).miller m).atomQ = _
    rw [State.modMiller_miller_same]
    rfl

/-- A store returns no data: an answer OK or DUPLICATE says that it is made. R466. -/
theorem answerOf_store {k : Packet} (h : k.op = 0x02) (posted : Bool) {status : Nat} (hst : status = 0 ∨ status = 4) :
    answerOf k posted status = .ok := by
  unfold answerOf returnsData
  rw [h]
  rcases hst with rfl | rfl <;> rfl

theorem answerAtom_store {s : State} {c : Core} {a : AtomOp} {bytes : Nat} (hq : coreAtoms s c = [a]) (hk : a.kind = .store bytes) (old : W64) :
    answerAtom s c a.iseq .ok old = dropAtom s c a.iseq := by
  unfold answerAtom
  rw [hq, List.find?_cons, beq_self_eq_true]
  dsimp only
  rw [hk]

theorem fabricResponse_store {s : State} {k : Packet} {o : OutReq} {c : Core} {n bytes : Nat} {a : AtomOp}
    (h : s.hdr.outst = [o]) (ha : answers k o = true) (hr : k.resp = true) (hwho : o.who = .atom c n) (hst : k.status = 0 ∨ k.status = 4)
    (hq : coreAtoms s c = [a]) (hn : a.iseq = n) (hk : a.kind = .store bytes) (hop : o.pkt.op = 0x02) :
    ∃ t, exec (.fabricResponse k) s = .next t ∧ t.mem = s.mem ∧ t.hdr.outst = [] ∧ coreAtoms t c = [] := by
  have hq' : coreAtoms (noLonger s o) c = [a] := by
    cases c <;> exact hq
  have hexec : exec (.fabricResponse k) s = .next (dropAtom (noLonger s o) c n) := by
    rw [exec_fabricResponse h ha hr, if_neg (by omega)]
    unfold completeReq
    rw [hwho]
    change Host.Outcome.next (answerAtom (noLonger s o) c n (answerOf o.pkt (isPosted s (.atom c n)) k.status) k.operand) = _
    rw [answerOf_store hop _ hst, ← hn, answerAtom_store hq' hk]
  refine ⟨_, hexec, dropAtom_mem .., ?_, ?_⟩
  · have hhdr : (dropAtom (noLonger s o) c n).hdr = (noLonger s o).hdr := by cases c <;> rfl
    rw [hhdr]
    exact noLonger_outst h
  · unfold dropAtom
    rw [modAtoms_coreAtoms, hq', ← hn]
    simp

/-! ## Timeouts -/

theorem requestTimeout_fences {s : State} {o : OutReq} {m : Nat} {pc : W64} {sd sz : Nat} {sx : Bool} (h : s.hdr.outst = [o])
    (hwho : o.who = .load (.miller m) pc sd sz sx) (h0 : s.hdr.timeout ≠ 0) (ht : 4096 * s.hdr.timeout ≤ o.waited s) :
    ∃ t, exec (.requestTimeout o.tag) s = .next t ∧ t.mem = s.mem ∧ t.hdr.outst = [] ∧ (t.miller m).run = .halted ∧
      tget 0 t.hdr.cnt 4 = min (tget 0 s.hdr.cnt 4 + 1) (2 ^ 64 - 1) := by
  obtain ⟨u, hu⟩ : ∃ u, u = noLonger (bumpHdr s 4) o := ⟨_, rfl⟩
  have hmem : u.mem = s.mem := by rw [hu]; rfl
  have hout : u.hdr.outst = [] := by
    rw [hu]
    exact noLonger_outst (s := bumpHdr s 4) h
  have hcnt : tget 0 u.hdr.cnt 4 = min (tget 0 s.hdr.cnt 4 + 1) (2 ^ 64 - 1) := by
    rw [hu]
    exact bumpHdr_cnt s 4
  refine ⟨serviceFault u m, ?_, hmem, hout, ?_, hcnt⟩
  · change execRequestTimeout o.tag s = _
    unfold execRequestTimeout
    rw [h, List.find?_cons, beq_self_eq_true]
    dsimp only
    rw [if_pos ⟨h0, ht⟩]
    unfold completeReq
    rw [hwho, hu]
    rfl
  · unfold serviceFault
    rw [State.modMiller_miller_same]

/-- Settles O44: each answer by the requester that it goes to. -/
theorem responsesComplete : Obligations.ResponsesComplete := by
  unfold Obligations.ResponsesComplete
  refine ⟨fun s k o h ha hr => ⟨fun hst => ?_, fun c pc sd sz sx w hwho _ hst hd hw h0 h32 _ hwait =>
        fabricResponse_load h ha hr hwho hst hd hw h0 h32 hwait,
      fun c n bytes a hwho hst hq hn hk hop => fabricResponse_store h ha hr hwho hst hq hn hk hop⟩,
    fun s o m pc sd sz sx h hwho h0 ht => requestTimeout_fences h hwho h0 ht⟩
  rw [exec_fabricResponse h ha hr, if_pos hst]

end Sys2Proof.Proofs
end

section
/-! Keepers: enumeration messages, rosters and failover (11, R483 to R487; 18, R687, R690). -/

namespace Sys2Proof.Proofs
open Sys2Proof Sys2Proof.Machine

/-! ## Enumeration messages -/

theorem ctrlOut_port (s : State) (p : Nat) (m : CtrlMsg) (j : Nat) :
    (ctrlOut s p m).port j = if j = p then (s.port p).sendCtrl m else s.port j := State.modPort_port ..

/-- A message leaves as a flit with the next SEQ of its port. R451, R454. -/
theorem ctrlOut_sends (s : State) (p : Nat) (m : CtrlMsg) : let t := ctrlOut s p m
    t = { s with hdr := t.hdr } ∧ t.hdr.ctrl = s.hdr.ctrl ++ [m] ∧ t.hdr.ctrlQ = s.hdr.ctrlQ ∧ t.hdr.keeper = s.hdr.keeper ∧
    (t.port p).txSeq = ((s.port p).txSeq + 1) % 2048 ∧ (t.port p).unacked.length = (s.port p).unacked.length + 1 ∧
    ∀ j, j ≠ p → t.port j = s.port j := by
  intro t
  have hp : t.port p = (s.port p).sendCtrl m := (ctrlOut_port s p m p).trans (if_pos rfl)
  refine ⟨rfl, rfl, rfl, rfl, ?_, ?_, fun j hj => (ctrlOut_port s p m j).trans (if_neg hj)⟩
  · rw [hp]
    rfl
  · rw [hp]
    exact List.length_append

/-- Port `p` carries enumeration messages and takes one now. R454, R483. -/
structure CanSend (s : State) (p : Nat) : Prop where
  port : ctrlPort s = some p
  room : (s.port p).unacked.length < 1024
  queue : s.hdr.ctrlQ = []

theorem CanSend.sends {s : State} {p : Nat} (h : CanSend s p) (m : CtrlMsg) : sendCtrl s m = ctrlOut s p m := by
  unfold sendCtrl
  rw [h.port]
  dsimp only
  rw [h.queue, decide_eq_true h.room]
  rfl

/-- What carries a message is the fabric's own state. -/
theorem CanSend.of_ports {s t : State} {p : Nat} (h : CanSend s p) (hp : t.hdr.ports = s.hdr.ports) (hq : t.hdr.ctrlQ = s.hdr.ctrlQ) :
    CanSend t p := by
  have hport (j : Nat) : t.port j = s.port j := by
    unfold State.port
    rw [hp]
  refine ⟨?_, ?_, hq.trans h.queue⟩
  · unfold ctrlPort
    rw [hport, hport]
    exact h.port
  · rw [hport]
    exact h.room

theorem CanSend.up {s : State} {p : Nat} (h : CanSend s p) : enumPortUp s = true := by
  have hp := h.port
  unfold ctrlPort at hp
  unfold enumPortUp
  by_cases h0 : (s.port 0).link = .up
  · rw [h0]
    rfl
  · by_cases h1 : (s.port 1).link = .up
    · rw [h1]
      exact Bool.or_true _
    · rw [if_neg h0, if_neg h1] at hp
      cases hp

/-- The leaf that a device names as its own is one that its messages reach. R456, R483. -/
theorem ownLeaf_mem {s : State} (h : enumPortUp s = true) : ownLeaf s ∈ leaves s := by
  have hne : leaves s ≠ [] := by
    intro hnil
    have hnone : ∀ x, x ∈ (List.range 2).filter (fun p => (s.port p).link == .up) → False := by
      intro x hx
      rw [leaves, List.map_eq_nil_iff] at hnil
      rw [hnil] at hx
      cases hx
    rcases Bool.or_eq_true _ _ ▸ h with h0 | h1
    · exact hnone 0 (List.mem_filter.2 ⟨by decide, h0⟩)
    · exact hnone 1 (List.mem_filter.2 ⟨by decide, h1⟩)
  unfold ownLeaf
  cases hl : leaves s with
  | nil => exact absurd hl hne
  | cons x xs => exact List.mem_cons_self

theorem modKeeper_canSend {s : State} {p : Nat} (h : CanSend s p) (f : Keeper → Keeper) : CanSend (s.modKeeper f) p := h.of_ports rfl rfl

/-- A message of a device whose keeper state has changed. -/
theorem ctrlOut_modKeeper (s : State) (p : Nat) (f : Keeper → Keeper) (m : CtrlMsg) :
    ctrlOut (s.modKeeper f) p m = { s with hdr := { (ctrlOut s p m).hdr with keeper := f s.hdr.keeper } } := rfl

theorem ctrlOut_hdr {s t : State} (h : t.hdr = s.hdr) (p : Nat) (m : CtrlMsg) : (ctrlOut t p m).hdr = (ctrlOut s p m).hdr := by
  unfold ctrlOut State.modPort State.port
  rw [h]

/-- A flit that leaves changes neither the links nor the identities of the ports. -/
theorem leaves_ctrlOut (s : State) (p : Nat) (m : CtrlMsg) : leaves (ctrlOut s p m) = leaves s := by
  have hport (j : Nat) : ((ctrlOut s p m).port j).link = (s.port j).link ∧ ((ctrlOut s p m).port j).switchId = (s.port j).switchId := by
    rw [ctrlOut_port]
    split
    · next h =>
      rw [h]
      exact ⟨rfl, rfl⟩
    · exact ⟨rfl, rfl⟩
  unfold leaves
  simp only [hport]

theorem leaves_congr {s t : State} (h : t.hdr.ports = s.hdr.ports) : leaves t = leaves s := by
  unfold leaves State.port
  rw [h]

/-! ## Reports -/

/-- The first report of an empty roster. R484. -/
theorem addReport_first {ok : List (BitVec 16)} {leaf : BitVec 16} (h : leaf ∈ ok) (slot : Nat) (pid : BitVec 48) :
    addReport [] ok slot pid leaf = [{ slot := slot, pid := pid, leaf := leaf }] := by
  unfold addReport
  simp [mapWhere, h]

/-- The first report of a slot. R484, R485. -/
theorem addReport_new {rs : List Report} {slot : Nat} (h : ∀ r ∈ rs, r.slot ≠ slot) (ok : List (BitVec 16)) (pid : BitVec 48) (leaf : BitVec 16) :
    addReport rs ok slot pid leaf = rs ++ [⟨slot, pid, leaf, if leaf ∈ ok then 0 else 2⟩] := by
  have hb : ∀ r ∈ rs, (r.slot == slot) = false := fun r hr => beq_false_of_ne (h r hr)
  have hothers : rs.filter (fun r => !(r.slot == slot && r.pid == pid)) = rs :=
    List.filter_eq_self.2 fun r hr => by rw [hb r hr]; rfl
  have hclash : rs.any (fun r => r.slot == slot) = false := by
    rw [List.any_eq_false]
    exact fun r hr => by rw [hb r hr]; decide
  have hsame : mapWhere (fun r => r.slot == slot) (fun r => { r with out := 3 }) rs = rs := by
    unfold mapWhere
    refine (List.map_congr_left fun r hr => ?_).trans (List.map_id rs)
    beta_reduce
    rw [hb r hr]
    rfl
  unfold addReport
  dsimp only
  rw [hothers, hclash, hsame]
  rfl

/-- A slot that another device has reported leaves both out. R485. -/
theorem addReport_clash {r : Report} {slot : Nat} {pid : BitVec 48} (hs : r.slot = slot) (hp : r.pid ≠ pid) (ok : List (BitVec 16)) (leaf : BitVec 16) :
    addReport [r] ok slot pid leaf = [{ r with out := 3 }, ⟨slot, pid, leaf, 3⟩] := by
  unfold addReport
  simp [mapWhere, hs, hp]

/-- A change of the keeper state is what it makes of that state as it is. -/
theorem modKeeper_congr {s : State} {f g : Keeper → Keeper} (h : f s.hdr.keeper = g s.hdr.keeper) : s.modKeeper f = s.modKeeper g := by
  unfold State.modKeeper
  rw [h]

theorem modKeeper_modKeeper (s : State) (f g : Keeper → Keeper) : (s.modKeeper f).modKeeper g = s.modKeeper (fun k => g (f k)) := rfl

theorem takeSlotReport_open {s : State} {slot : Nat} {pid : BitVec 48} {leaf : BitVec 16} {rs : List Report}
    (hrs : addReport s.hdr.keeper.roster (leaves s) slot pid leaf = rs) (hopen : rosterFull { s.hdr.keeper with roster := rs } = false) :
    takeSlotReport s slot pid leaf = s.modKeeper (fun k => { k with roster := rs }) := by
  have hmod : s.modKeeper (fun k => { k with roster := addReport k.roster (leaves s) slot pid leaf }) =
      s.modKeeper (fun k => { k with roster := rs }) := modKeeper_congr (by rw [hrs])
  have hfull : rosterFull (s.modKeeper (fun k => { k with roster := rs })).hdr.keeper = false := hopen
  unfold takeSlotReport
  rw [hmod]
  unfold closeRack
  rw [hfull]
  rfl

theorem takeSlotReport_full {s : State} {p slot : Nat} {pid : BitVec 48} {leaf : BitVec 16} {rs : List Report} (h : CanSend s p)
    (hrs : addReport s.hdr.keeper.roster (leaves s) slot pid leaf = rs) (hfull : rosterFull { s.hdr.keeper with roster := rs } = true)
    (hopen : s.hdr.keeper.rosterClosed = false) (hhall : s.hdr.keeper.hallActing = false) :
    takeSlotReport s slot pid leaf = { s with hdr := {
      (ctrlOut s p (.rackReport (ownLeaf s) (rosterSlots { s.hdr.keeper with roster := rs }))).hdr with
      keeper := { s.hdr.keeper with
        roster := rs
        rosterClosed := true } } } := by
  have hmod : s.modKeeper (fun k => { k with roster := addReport k.roster (leaves s) slot pid leaf }) =
      s.modKeeper (fun k => { k with roster := rs }) := modKeeper_congr (by rw [hrs])
  have hleaf : ownLeaf (s.modKeeper (fun k => { k with roster := rs })) = ownLeaf s := congrArg (List.headD · 0) (leaves_congr rfl)
  have hkeeper : (s.modKeeper (fun k => { k with roster := rs })).hdr.keeper = { s.hdr.keeper with roster := rs } := rfl
  unfold takeSlotReport
  rw [hmod]
  unfold closeRack
  rw [hkeeper, hfull, hleaf]
  dsimp only
  rw [hopen, modKeeper_modKeeper, (modKeeper_canSend h _).sends]
  rw [if_pos (by rfl), ctrlOut_modKeeper]
  exact if_neg (by rw [Bool.not_eq_true]; exact hhall)

theorem takeRackReport_open {s : State} {leaf : BitVec 16} {slots : W32}
    (h : hallFull { s.hdr.keeper with racks := s.hdr.keeper.racks.filter (fun r => r.1 != leaf) ++ [(leaf, slots)] } = false) :
    takeRackReport s leaf slots =
      s.modKeeper (fun k => { k with racks := k.racks.filter (fun r => r.1 != leaf) ++ [(leaf, slots)] }) := by
  have hfull : hallFull (s.modKeeper (fun k => { k with racks := k.racks.filter (fun r => r.1 != leaf) ++ [(leaf, slots)] })).hdr.keeper = false := h
  unfold takeRackReport
  dsimp only
  rw [hfull]
  rfl

/-! ## Announcements and failover -/

/-- The own report of a device. -/
def ownReport (s : State) : Report :=
  { slot := s.hdr.slot.toNat
    pid := ownPid s
    leaf := ownLeaf s }

theorem exec_keeperAnnounce_member {s : State} {p : Nat} (h : CanSend s p) (hr : rackStrap s ≠ 1) (ha : s.hdr.keeper.rackActing = false) :
    exec .keeperAnnounce s = .next (ctrlOut s p (.slotReport s.hdr.slot.toNat (ownPid s) (ownLeaf s))) := by
  have hno : ¬ (rackStrap s = 1 ∧ s.hdr.fabSt = .enumerating ∧ !s.hdr.keeper.announced ∧ !s.hdr.keeper.standby) := fun h' => hr h'.1
  change execKeeperAnnounce s = _
  unfold execKeeperAnnounce
  rw [h.up, if_neg (by decide), if_neg hno, ha, if_neg (by decide), h.sends]

/-- The report of a keeper that has just announced itself is the first of its roster. R484. -/
theorem takeSlotReport_own {s u : State} {p : Nat} {m : CtrlMsg} (h : enumPortUp s = true) (hports : u.hdr.ports = s.hdr.ports)
    (hroster : u.hdr.keeper.roster = []) (hmask : u.hdr.keeper.slotMask = s.hdr.keeper.slotMask)
    (hopen : rosterFull { s.hdr.keeper with roster := [ownReport s] } = false) :
    takeSlotReport (ctrlOut u p m) s.hdr.slot.toNat (ownPid s) (ownLeaf s) =
      (ctrlOut u p m).modKeeper (fun k => { k with roster := [ownReport s] }) := by
  refine takeSlotReport_open ?_ ?_
  · have hkeeper : (ctrlOut u p m).hdr.keeper.roster = [] := hroster
    rw [hkeeper, leaves_ctrlOut, leaves_congr hports]
    exact addReport_first (ownLeaf_mem h) ..
  · rw [← hopen]
    unfold rosterFull
    have hkeeper : (ctrlOut u p m).hdr.keeper.slotMask = s.hdr.keeper.slotMask := hmask
    dsimp only
    rw [hkeeper]

theorem exec_keeperAnnounce_rack {s : State} {p : Nat} (h : CanSend s p) (hopen : rosterFull { s.hdr.keeper with roster := [ownReport s] } = false)
    (hr : rackStrap s = 1) (hst : s.hdr.fabSt = .enumerating) (ha : s.hdr.keeper.announced = false) (hs : s.hdr.keeper.standby = false)
    (hroster : s.hdr.keeper.roster = []) :
    exec .keeperAnnounce s = .next { s with hdr := { (ctrlOut s p .announce).hdr with
      keeper := { s.hdr.keeper with
        rackActing := true
        announced := true
        hallActing := s.hdr.keeper.hallActing || (hallStrap s == 1 && !s.hdr.keeper.hallStandby)
        roster := [ownReport s] } } } := by
  have hyes : rackStrap s = 1 ∧ s.hdr.fabSt = .enumerating ∧ !s.hdr.keeper.announced ∧ !s.hdr.keeper.standby := by
    refine ⟨hr, hst, ?_, ?_⟩
    · rw [ha]
      rfl
    · rw [hs]
      rfl
  change execKeeperAnnounce s = _
  unfold execKeeperAnnounce
  rw [h.up, if_neg (by decide), if_pos hyes]
  dsimp only
  rw [(modKeeper_canSend h _).sends, takeSlotReport_own h.up (by rfl) (by exact hroster) (by rfl) hopen]
  rfl

theorem exec_keeperFailover_backup {s : State} {p : Nat} (h : CanSend s p) (hopen : rosterFull { s.hdr.keeper with roster := [ownReport s] } = false)
    (hr : rackStrap s = 2) (ha : s.hdr.keeper.rackActing = false) :
    ∃ t, exec (.keeperFailover false) s = .next t ∧ t.hif.esq = s.hif.esq + 1 ∧ t.hdr = { (ctrlOut s p .announce).hdr with
      keeper := { s.hdr.keeper with
        rackActing := true
        standby := false
        rosterClosed := false
        heartbeats := 0
        roster := [ownReport s] } } := by
  obtain ⟨v, hv⟩ : ∃ v, v = s.modKeeper (fun k => { k with rackActing := true, standby := false, roster := [], rosterClosed := false, heartbeats := 0 }) :=
    ⟨_, rfl⟩
  have hvhdr : v.hdr = { s.hdr with keeper := { s.hdr.keeper with
      rackActing := true
      standby := false
      roster := []
      rosterClosed := false
      heartbeats := 0 } } := by rw [hv]; rfl
  have hvesq : v.hif.esq = s.hif.esq := by rw [hv]; rfl
  obtain ⟨u, hu⟩ : ∃ u, u = failoverEvent v false s.hdr.devnum := ⟨_, rfl⟩
  have huhdr : u.hdr = v.hdr := by rw [hu]; exact postEvent_hdr ..
  have huesq : u.hif.esq = v.hif.esq + 1 := by rw [hu]; exact postEvent_esq ..
  have hcan : CanSend u p := h.of_ports (by rw [huhdr, hvhdr]) (by rw [huhdr, hvhdr])
  have hown := takeSlotReport_own (u := u) (p := p) (m := .announce) h.up (by rw [huhdr, hvhdr]) (by rw [huhdr, hvhdr]) (by rw [huhdr, hvhdr]) hopen
  refine ⟨(ctrlOut u p .announce).modKeeper (fun k => { k with roster := [ownReport s] }), ?_, huesq.trans (congrArg (· + 1) hvesq), ?_⟩
  · change execKeeperFailover false s = _
    unfold execKeeperFailover
    rw [h.up]
    unfold failover
    dsimp only
    rw [if_pos rfl, if_neg (by decide), ha, if_neg (by decide), if_pos (.inl hr), ← hv, ← hu, hcan.sends, hown]
  · have hout : (ctrlOut u p .announce).hdr = { (ctrlOut s p .announce).hdr with keeper := v.hdr.keeper } := by
      rw [ctrlOut_hdr huhdr, hv]
      rfl
    change { (ctrlOut u p .announce).hdr with keeper := { (ctrlOut u p .announce).hdr.keeper with roster := [ownReport s] } } = _
    rw [hout, hvhdr]

theorem exec_keeperFailover_standby {s : State} {p : Nat} (h : CanSend s p) (ha : s.hdr.keeper.rackActing = true) :
    exec (.keeperFailover false) s = .next { s with hdr := { s.hdr with
      keeper := { s.hdr.keeper with
        rackActing := false
        standby := true } } } := by
  change execKeeperFailover false s = _
  unfold execKeeperFailover
  rw [h.up]
  unfold failover
  dsimp only
  rw [if_pos rfl, if_neg (by decide), ha, if_pos rfl]
  rfl

end Sys2Proof.Proofs
end

section
/-! Keepers: the map, its distribution and its changes, joins and heartbeats (11, R484 to R489; 18, R687 to R689). -/

namespace Sys2Proof.Proofs
open Sys2Proof Sys2Proof.Machine

/-! ## Requests that a change of the map fences -/

theorem fenceRequests_none {s : State} (h : s.hdr.outst = []) (p : Nat → Bool) :
    fenceRequests s p = { s with hdr := { s.hdr with sendQ := s.hdr.sendQ.filter (fun k => k.resp || !p k.dst) } } := by
  unfold fenceRequests
  rw [h]
  rfl

/-- A Miller core whose load is fenced halts. R230, R489. -/
theorem fenceRequests_load {s : State} {p : Nat → Bool} {o : OutReq} {m : Nat} {pc : W64} {sd sz : Nat} {sx : Bool} (h : s.hdr.outst = [o])
    (hwho : o.who = .load (.miller m) pc sd sz sx) (hp : p o.pkt.dst = true) :
    (fenceRequests s p).hdr.outst = [] ∧ ((fenceRequests s p).miller m).run = .halted := by
  obtain ⟨u, hu⟩ : ∃ u : State, u = { s with hdr := { s.hdr with sendQ := s.hdr.sendQ.filter (fun k => k.resp || !p k.dst) } } := ⟨_, rfl⟩
  have hout : u.hdr.outst = [o] := by
    rw [hu]
    exact h
  have hdef : fenceRequests s p = serviceFault (noLonger u o) m := by
    have hreq : completeReq u o stFenced 0 [] = serviceFault (noLonger u o) m := by
      unfold completeReq
      rw [hwho]
      rfl
    unfold fenceRequests
    rw [h, List.filter_cons, if_pos hp, List.filter_nil, ← hu]
    exact hreq
  rw [hdef]
  refine ⟨noLonger_outst hout, ?_⟩
  unfold serviceFault
  rw [State.modMiller_miller_same]

/-! ## The map -/

/-- What a change of the map leaves where no request waits. R469, R489. -/
theorem changeMap_quiet {s : State} (h : s.hdr.outst = []) (gen : W32) (map : Tab W32) : let t := changeMap s gen map
    t.mem = s.mem ∧ t.hdr.map = map ∧ t.hdr.mapGen = gen ∧ t.hdr.keeper = s.hdr.keeper := by
  obtain ⟨u, hu⟩ : ∃ u : State, u = restartDevs { s with hdr := { s.hdr with map := map, mapGen := gen } } (fun d => mapHas map d && !mapHas s.hdr.map d) :=
    ⟨_, rfl⟩
  have hmem : u.mem = s.mem := by rw [hu]; rfl
  have hout : u.hdr.outst = [] := by
    rw [hu]
    exact h
  have hmap : u.hdr.map = map ∧ u.hdr.mapGen = gen ∧ u.hdr.keeper = s.hdr.keeper := by
    rw [hu]
    exact ⟨rfl, rfl, rfl⟩
  intro t
  have ht : t = fenceRequests u (fun d => mapHas s.hdr.map d && !mapHas map d) := by rw [hu]; rfl
  rw [ht, fenceRequests_none hout]
  exact ⟨hmem, hmap⟩

/-- A map that reaches this device takes the place of the one held. R486. -/
theorem applyMap_quiet {s : State} (h : s.hdr.outst = []) (gen : W32) (map : Tab W32) (dev : Option Nat) (cause : Nat) :
    let t := applyMap s gen map dev cause
    t.mem = s.mem ∧ t.hdr.map = map ∧ t.hdr.mapGen = gen ∧ t.hdr.keeper = s.hdr.keeper := by
  have hc := changeMap_quiet h gen map
  unfold applyMap
  generalize changeMap s gen map = u at hc
  dsimp only at hc ⊢
  cases dev with
  | none => exact hc
  | some d =>
    dsimp only
    split <;> exact hc

/-- With a number in the map the device is READY, and without one FENCED. R486. -/
theorem applyMap_number (s : State) (gen : W32) (map : Tab W32) (d cause : Nat) : let t := applyMap s gen map (some d) cause
    (mapHas map d = true → t.hdr.fabSt = .ready ∧ t.hdr.devValid = true ∧ t.hdr.devnum = d ∧ t.hdr.fenceCause = 0) ∧
    (mapHas map d = false → t.hdr.fabSt = .fenced ∧ t.hdr.fenceCause = 1) := by
  unfold applyMap
  generalize changeMap s gen map = u
  dsimp only
  refine ⟨fun hm => ?_, fun hm => ?_⟩
  · rw [if_pos hm]
    exact ⟨rfl, rfl, rfl, rfl⟩
  · rw [if_neg (by rw [hm]; decide)]
    exact ⟨rfl, rfl⟩

theorem exec_mapDistribution {s : State} {p : Nat} (h : CanSend s p) (gen : W32) (map : List (Nat × W32)) {d : Nat} (cause : Nat)
    (hst : s.hdr.fabSt ∈ [FabSt.enumerating, .ready, .fenced]) (hr : s.hdr.keeper.rackActing = false) (hout : s.hdr.outst = [])
    (hd : d < 16384) :
    ∃ t, exec (.mapDistribution gen map (some d) cause) s = .next t ∧ t.mem = s.mem ∧ t.hdr.mapGen = gen ∧
      t.hdr.map = mapOf map ∧
      (mapHas (mapOf map) d = true → t.hdr.fabSt = .ready ∧ t.hdr.devValid = true ∧ t.hdr.devnum = d ∧ t.hdr.fenceCause = 0) ∧
      (mapHas (mapOf map) d = false → t.hdr.fabSt = .fenced ∧ t.hdr.fenceCause = 1) := by
  have hst' : s.hdr.fabSt = .enumerating ∨ s.hdr.fabSt = .ready ∨ s.hdr.fabSt = .fenced := by simpa using hst
  obtain ⟨hmem, hmap, hgen, hkeeper⟩ := applyMap_quiet hout gen (mapOf map) (some d) cause
  refine ⟨applyMap s gen (mapOf map) (some d) cause, ?_, hmem, hgen, hmap, applyMap_number ..⟩
  have htake : takeMap s gen (mapOf map) (some d) cause = applyMap s gen (mapOf map) (some d) cause := by
    unfold takeMap
    dsimp only
    rw [hkeeper, hr]
    rfl
  change execMapDistribution gen map (some d) cause s = _
  unfold execMapDistribution
  rw [if_pos ⟨h.up, hst'⟩, Option.map_some, Nat.mod_eq_of_lt hd, htake]

/-! ## Changes of one bit -/

theorem getLsbD_one_shift (k j : Nat) : ((1 : W32) <<< k).getLsbD j = (decide (j < 32) && decide (j = k)) := by
  rw [show (1 : W32) = 1#32 from rfl, BitVec.getLsbD_shiftLeft, BitVec.getLsbD_one]
  by_cases h : j = k
  · subst h
    simp
  · by_cases hlt : j < k
    · simp [hlt, h]
    · have : j - k ≠ 0 := by omega
      simp [h, this]

/-- The bits of a map of which one changes. R488. -/
theorem mapHas_mapWith (m : Tab W32) (dev : Nat) (present : Bool) (d : Nat) :
    mapHas (mapWith m dev present) d = if d = dev then present else mapHas m d := by
  unfold mapHas mapWith
  rw [tget_tmod]
  by_cases hw : d / 32 = dev / 32
  · have heq : d = dev ↔ d % 32 = dev % 32 := by omega
    have hlt : d % 32 < 32 := Nat.mod_lt _ (by decide)
    rw [if_pos hw, ← hw]
    simp only [heq]
    cases present with
    | true =>
      simp only [if_true, BitVec.getLsbD_or, getLsbD_one_shift, hlt, decide_true, Bool.true_and]
      by_cases hb : d % 32 = dev % 32 <;> simp [hb]
    | false =>
      simp only [Bool.false_eq_true, if_false, BitVec.getLsbD_and, BitVec.getLsbD_not, getLsbD_one_shift, hlt, decide_true, Bool.true_and]
      by_cases hb : d % 32 = dev % 32 <;> simp [hb]
  · have hne : d ≠ dev := fun h => hw (by rw [h])
    rw [if_neg hw, if_neg hne]

theorem exec_mapChange {s : State} {p : Nat} (h : CanSend s p) (gen : W32) {dev : Nat} (hd : dev < 16384) (present : Bool) :
    exec (.mapChange gen dev present) s = .next (applyChange s gen dev present) :=
  congrArg Host.Outcome.next (if_pos ⟨hd, h.up⟩)

/-- A device that joins starts again at every other one. R469, R488. -/
theorem applyChange_joins (s : State) (gen : W32) (dev : Nat) : let t := applyChange s gen dev true
    t.hif.esq = s.hif.esq + 1 ∧ t.hdr.mapGen = gen ∧ t.hdr.fabSt = s.hdr.fabSt ∧
      (∀ d, mapHas t.hdr.map d = (mapHas s.hdr.map d || decide (d = dev))) ∧ ∀ o ∈ t.hdr.txOrder ++ t.hdr.rxOrder, o.dev ≠ dev := by
  obtain ⟨u, hu⟩ : ∃ u : State, u = restartDevs { s with hdr := { s.hdr with map := mapWith s.hdr.map dev true, mapGen := gen } } (fun d => d == dev) :=
    ⟨_, rfl⟩
  have hhdr : u.hdr = { s.hdr with
      map := mapWith s.hdr.map dev true
      mapGen := gen
      txOrder := s.hdr.txOrder.filter (fun o => !(o.dev == dev))
      rxOrder := s.hdr.rxOrder.filter (fun o => !(o.dev == dev))
      reorder := s.hdr.reorder.filter (fun k => !(k.src == dev)) } := by rw [hu]; rfl
  have hesq : u.hif.esq = s.hif.esq := by rw [hu]; rfl
  obtain ⟨e, he⟩ : ∃ e, applyChange s gen dev true = postEvent u none e := ⟨_, by rw [hu]; rfl⟩
  intro t
  have hthdr : t.hdr = u.hdr := (congrArg State.hdr he).trans (postEvent_hdr ..)
  have htesq : t.hif.esq = u.hif.esq + 1 := (congrArg (fun s : State => s.hif.esq) he).trans (postEvent_esq ..)
  rw [hthdr, htesq, hesq, hhdr]
  refine ⟨rfl, rfl, rfl, fun d => ?_, fun o ho => ?_⟩
  · rw [mapHas_mapWith]
    by_cases h : d = dev <;> simp [h]
  · rcases List.mem_append.1 ho with h | h
    · simpa using (List.mem_filter.1 h).2
    · simpa using (List.mem_filter.1 h).2

/-- The state in which a dropped device's bit is clear, before its requests are fenced. R489. -/
def dropped (s : State) (gen : W32) (dev : Nat) : State :=
  { s with hdr := { s.hdr with map := mapWith s.hdr.map dev false, mapGen := gen } }

/-- What a device forgets of one that leaves, and whether it leaves itself. R469, R489. -/
def forgotten (s u : State) (dev : Nat) : State :=
  if s.hdr.devValid ∧ s.hdr.devnum = dev
    then fenceSelf { u with fan := { u.fan with lastMseq := u.fan.lastMseq.filter (fun x => x.1 != dev) } } 1
    else { u with fan := { u.fan with lastMseq := u.fan.lastMseq.filter (fun x => x.1 != dev) } }

theorem applyChange_leaves (s : State) (gen : W32) (dev : Nat) :
    applyChange s gen dev false = forgotten s (fenceRequests (dropped s gen dev) (fun d => d == dev)) dev := rfl

/-- What a device forgets is not in its memory, its map or its requests. -/
theorem forgotten_keeps (s u : State) (dev : Nat) : let t := forgotten s u dev
    t.mem = u.mem ∧ t.hdr.mapGen = u.hdr.mapGen ∧ t.hdr.map = u.hdr.map ∧ t.hdr.sendQ = u.hdr.sendQ ∧ t.hdr.outst = u.hdr.outst ∧
      t.millers = u.millers ∧ (s.hdr.devValid = true → s.hdr.devnum = dev → t.hdr.fabSt = .fenced ∧ t.hdr.fenceCause = 1) := by
  unfold forgotten
  split
  · exact ⟨rfl, rfl, rfl, rfl, rfl, rfl, fun _ _ => ⟨rfl, rfl⟩⟩
  · next h => exact ⟨rfl, rfl, rfl, rfl, rfl, rfl, fun h1 h2 => absurd ⟨h1, h2⟩ h⟩

theorem exec_mapChange_leaves {s : State} {p : Nat} (h : CanSend s p) (gen : W32) {dev : Nat} (hd : dev < 16384) (hout : s.hdr.outst = []) :
    ∃ t, exec (.mapChange gen dev false) s = .next t ∧ t.mem = s.mem ∧ t.hdr.mapGen = gen ∧
      (∀ d, mapHas t.hdr.map d = (mapHas s.hdr.map d && decide (d ≠ dev))) ∧
      t.hdr.sendQ = s.hdr.sendQ.filter (fun k => k.resp || k.dst != dev) ∧
      (s.hdr.devValid = true → s.hdr.devnum = dev → t.hdr.fabSt = .fenced ∧ t.hdr.fenceCause = 1) := by
  obtain ⟨u, hu⟩ : ∃ u, u = fenceRequests (dropped s gen dev) (fun d => d == dev) := ⟨_, rfl⟩
  have hout' : (dropped s gen dev).hdr.outst = [] := hout
  have hfence := hu.trans (fenceRequests_none hout' (fun d => d == dev))
  have hmem : u.mem = s.mem := by rw [hfence]; rfl
  have hgen : u.hdr.mapGen = gen := by rw [hfence]; rfl
  have hmap : u.hdr.map = mapWith s.hdr.map dev false := by rw [hfence]; rfl
  have hsend : u.hdr.sendQ = s.hdr.sendQ.filter (fun k => k.resp || k.dst != dev) := by rw [hfence]; rfl
  obtain ⟨kmem, kgen, kmap, ksend, -, -, kself⟩ := forgotten_keeps s u dev
  refine ⟨forgotten s u dev, ?_, kmem.trans hmem, kgen.trans hgen, fun d => ?_, ksend.trans hsend, kself⟩
  · rw [exec_mapChange h gen hd, applyChange_leaves, hu]
  · rw [kmap, hmap, mapHas_mapWith]
    by_cases hdev : d = dev <;> simp [hdev]

theorem exec_mapChange_fences {s : State} {p : Nat} (h : CanSend s p) (gen : W32) {dev : Nat} (hd : dev < 16384) {o : OutReq} {m : Nat}
    {pc : W64} {sd sz : Nat} {sx : Bool} (hout : s.hdr.outst = [o]) (hwho : o.who = .load (.miller m) pc sd sz sx) (hdst : o.pkt.dst = dev) :
    ∃ t, exec (.mapChange gen dev false) s = .next t ∧ t.hdr.outst = [] ∧ (t.miller m).run = .halted := by
  obtain ⟨u, hu⟩ : ∃ u, u = fenceRequests (dropped s gen dev) (fun d => d == dev) := ⟨_, rfl⟩
  have hout' : (dropped s gen dev).hdr.outst = [o] := hout
  obtain ⟨hno, hhalt⟩ := fenceRequests_load hout' hwho (p := fun d => d == dev) (by rw [hdst, beq_self_eq_true])
  rw [← hu] at hno hhalt
  obtain ⟨-, -, -, -, kout, kmillers, -⟩ := forgotten_keeps s u dev
  refine ⟨forgotten s u dev, ?_, kout.trans hno, ?_⟩
  · rw [exec_mapChange h gen hd, applyChange_leaves, hu]
  · have hmiller : (forgotten s u dev).miller m = u.miller m := by
      unfold State.miller
      rw [kmillers]
    rw [hmiller]
    exact hhalt

/-! ## Joins and heartbeats -/

/-- The state of a device that has sent its JOIN. R488. -/
def joining (s : State) (p : Nat) : State :=
  { s with hdr := { (ctrlOut s p (.join s.hdr.slot.toNat (ownPid s) (ownLeaf s))).hdr with
    joinPending := true
    joinRefused := false } }

theorem sendJoin_joining {s : State} {p : Nat} (h : CanSend s p) : sendJoin s = joining s p := by
  unfold sendJoin
  rw [h.sends]
  rfl

theorem exec_join_own {s : State} {p : Nat} (h : CanSend s p) (hst : s.hdr.fabSt = .fenced) :
    exec (.join s.hdr.slot.toNat (ownPid s) (ownLeaf s)) s = .next (joining s p) := by
  have hno : noMap s = s := by
    unfold noMap
    rw [if_neg (by rw [hst]; decide)]
  have hslot : ¬ 32 ≤ s.hdr.slot.toNat := Nat.not_le_of_lt s.hdr.slot.isLt
  change execJoin _ _ _ s = _
  unfold execJoin
  dsimp only
  rw [if_neg hslot, if_pos ⟨rfl, rfl⟩, hno, if_pos ⟨hst, h.up⟩, sendJoin_joining h]

theorem exec_joinRetry {s : State} {p : Nat} (h : CanSend s p) (hst : s.hdr.fabSt = .fenced) (hr : s.hdr.joinRefused = true) :
    exec .joinRetry s = .next (joining s p) := by
  change execJoinRetry s = _
  unfold execJoinRetry
  rw [if_pos ⟨hr, hst, h.up⟩, sendJoin_joining h]

theorem exec_keeperHeartbeat {s : State} {p : Nat} (h : CanSend s p) (hm : s.mgt.restarting = false) (hr : s.hdr.keeper.rackActing = true) :
    exec .keeperHeartbeat s = .next { s with hdr := { (ctrlOut s p .heartbeat).hdr with
      keeper := { s.hdr.keeper with heartbeats := s.hdr.keeper.heartbeats + 1 } } } := by
  change execKeeperHeartbeat s = _
  unfold execKeeperHeartbeat
  rw [h.up, hm, if_neg (by decide), if_pos (.inl hr), (modKeeper_canSend h _).sends]
  rfl

theorem exec_heartbeatMiss {s : State} {p : Nat} (h : CanSend s p) {slot : Nat} (hr : s.hdr.keeper.rackActing = true)
    (hh : s.hdr.keeper.hallActing = false) (hv : s.hdr.devValid = true) (hs : slot < 32) (h10 : 10 ≤ s.hdr.keeper.heartbeats)
    (hm : mapHas s.hdr.map (32 * (s.hdr.devnum / 32) + slot) = true) :
    exec (.heartbeatMiss slot) s = .next (ctrlOut s p (.clearAsk (32 * (s.hdr.devnum / 32) + slot))) := by
  change execHeartbeatMiss slot s = _
  unfold execHeartbeatMiss
  dsimp only
  rw [if_pos ⟨hr, hv, hs, h10, hm, h.up⟩]
  unfold clearDev
  rw [hh, if_neg (by decide), h.sends]

/-! ## The hall's map -/

/-- A message leaves, waits, or finds no port: nothing but the fabric's messages changes. -/
theorem sendCtrl_keeps (s : State) (m : CtrlMsg) : let t := sendCtrl s m
    t.mem = s.mem ∧ t.hdr.map = s.hdr.map ∧ t.hdr.mapGen = s.hdr.mapGen ∧ t.hdr.keeper = s.hdr.keeper ∧ t.hdr.outst = s.hdr.outst := by
  unfold sendCtrl
  split
  · exact ⟨rfl, rfl, rfl, rfl, rfl⟩
  · split
    · exact ⟨rfl, rfl, rfl, rfl, rfl⟩
    · exact ⟨rfl, rfl, rfl, rfl, rfl⟩

theorem sendAll_keeps (ms : List CtrlMsg) (s : State) : let t := sendAll s ms
    t.mem = s.mem ∧ t.hdr.map = s.hdr.map ∧ t.hdr.mapGen = s.hdr.mapGen ∧ t.hdr.keeper = s.hdr.keeper := by
  induction ms generalizing s with
  | nil => exact ⟨rfl, rfl, rfl, rfl⟩
  | cons m ms ih =>
    obtain ⟨h1, h2, h3, h4, -⟩ := sendCtrl_keeps s m
    obtain ⟨i1, i2, i3, i4⟩ := ih (sendCtrl s m)
    exact ⟨i1.trans h1, i2.trans h2, i3.trans h3, i4.trans h4⟩

theorem relayMap_keeps (s : State) (gen : W32) (map : Tab W32) : let t := relayMap s gen map
    t.mem = s.mem ∧ t.hdr.map = s.hdr.map ∧ t.hdr.mapGen = s.hdr.mapGen ∧ t.hdr.keeper = s.hdr.keeper := by
  unfold relayMap
  exact sendAll_keeps _ s

/-- A map that this device takes, and relays where it is a rack keeper. R484. -/
theorem takeMap_quiet {s : State} (h : s.hdr.outst = []) (gen : W32) (map : Tab W32) (dev : Option Nat) (cause : Nat) :
    let t := takeMap s gen map dev cause
    t.mem = s.mem ∧ t.hdr.map = map ∧ t.hdr.mapGen = gen ∧ t.hdr.keeper = s.hdr.keeper := by
  have hc := applyMap_quiet h gen map dev cause
  unfold takeMap
  generalize applyMap s gen map dev cause = u at hc
  dsimp only at hc ⊢
  split
  · obtain ⟨h1, h2, h3, h4⟩ := hc
    obtain ⟨i1, i2, i3, i4⟩ := relayMap_keeps u gen map
    exact ⟨i1.trans h1, i2.trans h2, i3.trans h3, i4.trans h4⟩
  · exact hc

theorem exec_hallWait {s : State} (hh : s.hdr.keeper.hallActing = true) (hr : s.hdr.keeper.rosterClosed = true)
    (hc : s.hdr.keeper.hallClosed = false) (hout : s.hdr.outst = []) :
    ∃ t, exec .hallWait s = .next t ∧ t.mem = s.mem ∧ t.hdr.keeper.hallClosed = true ∧ t.hdr.map = builtMap s.hdr.keeper ∧
      (s.hdr.mapGen = 0 → t.hdr.mapGen = 1) := by
  obtain ⟨v, hv⟩ : ∃ v, v = s.modKeeper (fun k => { k with hallClosed := true }) := ⟨_, rfl⟩
  have hvmem : v.mem = s.mem := by rw [hv]; rfl
  have hvk : v.hdr.keeper.hallClosed = true := by rw [hv]; rfl
  have hvout : v.hdr.outst = [] := by
    rw [hv]
    exact hout
  obtain ⟨gen, hgen⟩ : ∃ gen, gen = if s.hdr.mapGen = 0 then 1 else if builtMap s.hdr.keeper = s.hdr.map then s.hdr.mapGen else s.hdr.mapGen + 1 :=
    ⟨_, rfl⟩
  obtain ⟨dev, hclose⟩ : ∃ dev, closeHall s = takeMap (sendCtrl v (.mapToKeepers gen (builtMap s.hdr.keeper))) gen (builtMap s.hdr.keeper) dev (ownCause s) := by
    unfold closeHall
    dsimp only
    rw [← hv, ← hgen]
    exact ⟨_, rfl⟩
  obtain ⟨h1, -, -, h4, h5⟩ := sendCtrl_keeps v (.mapToKeepers gen (builtMap s.hdr.keeper))
  obtain ⟨i1, i2, i3, i4⟩ := takeMap_quiet (h5.trans hvout) gen (builtMap s.hdr.keeper) dev (ownCause s)
  refine ⟨_, ?_, i1.trans (h1.trans hvmem), ?_, i2, fun h0 => i3.trans (hgen.trans (if_pos h0))⟩
  · change execHallWait s = _
    unfold execHallWait
    rw [if_pos ⟨hh, hr, by rw [hc]; rfl⟩, hclose]
  · rw [i4, h4]
    exact hvk

/-! ## The obligation -/

theorem exec_slotReport {s : State} {p : Nat} (h : CanSend s p) (hr : s.hdr.keeper.rackActing = true) (hc : s.hdr.keeper.rosterClosed = false)
    {slot : Nat} (hs : slot < 32) (pid : BitVec 48) (leaf : BitVec 16) :
    exec (.slotReport slot pid leaf) s = .next (takeSlotReport s slot pid leaf) :=
  congrArg Host.Outcome.next (if_pos ⟨hr, by rw [hc]; rfl, hs, h.up⟩)

/-- The two reports of R485 whose roster the statement gives. -/
theorem addReport_of {s : State} {slot : Nat} {pid : BitVec 48} {leaf : BitVec 16} {rs : List Report}
    (h : (∀ r ∈ s.hdr.keeper.roster, r.slot ≠ slot) ∧ rs = s.hdr.keeper.roster ++ [⟨slot, pid, leaf, if leaf ∈ leaves s then 0 else 2⟩] ∨
      ∃ r : Report, s.hdr.keeper.roster = [r] ∧ r.slot = slot ∧ r.pid ≠ pid ∧ rs = [{ r with out := 3 }, ⟨slot, pid, leaf, 3⟩]) :
    addReport s.hdr.keeper.roster (leaves s) slot pid leaf = rs := by
  obtain ⟨hnew, rfl⟩ | ⟨r, hr, hslot, hpid, rfl⟩ := h
  · exact addReport_new hnew ..
  · rw [hr]
    exact addReport_clash hslot hpid ..

/-- Settles O45: each message from a port that has room, and what the keeper's state becomes. -/
theorem keepersEnumerate : Obligations.KeepersEnumerate := by
  unfold Obligations.KeepersEnumerate
  refine ⟨ctrlOut_sends, fun s p hport hroom hq => ?_, fun s hh hr hc hout => exec_hallWait hh hr hc hout⟩
  have h : CanSend s p := ⟨hport, hroom, hq⟩
  intro Sent
  refine ⟨fun hr ha => exec_keeperAnnounce_member h hr ha, ?_, fun slot pid leaf rs hr hc hs hrs => ⟨fun hopen => ?_, fun hfull hhall => ?_⟩,
    fun leaf slots hh hc => ?_, fun gen map d cause hst hr hout hd => exec_mapDistribution h gen map cause hst hr hout hd, fun hst => ?_,
    fun gen dev hd => ⟨?_, fun hout => exec_mapChange_leaves h gen hd hout,
      fun o m pc sd sz sx hout hwho hdst => exec_mapChange_fences h gen hd hout hwho hdst⟩,
    fun hm hr => exec_keeperHeartbeat h hm hr, fun slot hr hh hv hs h10 hm => exec_heartbeatMiss h hr hh hv hs h10 hm,
    fun ha => exec_keeperFailover_standby h ha⟩
  · intro own hopen
    exact ⟨fun hr hst ha hs hroster => exec_keeperAnnounce_rack h hopen hr hst ha hs hroster, fun hr ha => exec_keeperFailover_backup h hopen hr ha⟩
  · rw [exec_slotReport h hr hc hs, takeSlotReport_open (addReport_of hrs) hopen]
    rfl
  · rw [exec_slotReport h hr hc hs, takeSlotReport_full h (addReport_of hrs) hfull hc hhall]
  · intro k hopen
    refine congrArg Host.Outcome.next ((if_pos ⟨hh, ?_, h.up⟩).trans (takeRackReport_open hopen))
    rw [hc]
    rfl
  · intro joining
    exact ⟨exec_join_own h hst, fun hr => exec_joinRetry h hst hr⟩
  · exact ⟨_, exec_mapChange h gen hd true, applyChange_joins s gen dev⟩

end Sys2Proof.Proofs
end

section
/-! Completion records and submission records (12, R490, R525 to R528; 14, R569 to R579). -/

namespace Sys2Proof.Proofs
open Sys2Proof Sys2Proof.Machine

/-! ## Bytes of a record -/

theorem bytes_eq_of_byte {s t : State} {k : Nat} (n : Nat) (h : ∀ i, i < n → t.byte (k + i) = s.byte (k + i)) : t.bytes k n = s.bytes k n := by
  refine List.ext_getElem ((bytes_length t k n).trans (bytes_length s k n).symm) fun i hi hi' => ?_
  have hn : i < n := by
    rw [bytes_length] at hi
    exact hi
  have h1 := nth_bytes t k hn
  have h2 := nth_bytes s k hn
  rw [nth_eq_getD, List.getD_eq_getElem _ _ hi] at h1
  rw [nth_eq_getD, List.getD_eq_getElem _ _ hi'] at h2
  rw [h1, h2, h i hn]

theorem cplBytes_length (c : Cpl) (n : W32) : (c.bytes n).length = 64 := by
  have hflat : ((List.range 8).flatMap (fun j => natToBytes (nth 0 c.tokens j).toNat 4)).length = 32 := by
    simp [List.length_flatMap, natToBytes_length]
  unfold Cpl.bytes
  simp only [List.length_append, natToBytes_length, hflat]

/-- CSEQ stands in bytes 8 to 11 of a completion record. R526. -/
theorem patch_cplBytes (c : Cpl) (n : W32) : patch (c.bytes 0) 8 4 n.toNat = c.bytes n := by
  obtain ⟨rest, hrest⟩ : ∃ rest, ∀ m : W32, c.bytes m = natToBytes c.reqId.toNat 8 ++ (natToBytes m.toNat 4 ++ rest) := by
    refine ⟨natToBytes c.ctx 2 ++ natToBytes c.seq 2 ++ natToBytes c.kind 1 ++
      natToBytes c.status 1 ++ natToBytes c.detail 1 ++ natToBytes c.tokens.length 1 ++ natToBytes c.genPos 4 ++
      natToBytes c.outPos 4 ++ natToBytes c.outLen 4 ++
      (List.range 8).flatMap (fun j => natToBytes (nth 0 c.tokens j).toNat 4), fun m => ?_⟩
    unfold Cpl.bytes
    simp only [List.append_assoc]
  have h8 : (natToBytes c.reqId.toNat 8).length = 8 := natToBytes_length ..
  have h4 : (natToBytes (0 : W32).toNat 4).length = 4 := natToBytes_length ..
  have hdrop : (natToBytes c.reqId.toNat 8 ++ (natToBytes (0 : W32).toNat 4 ++ rest)).drop (8 + 4) = rest := by
    rw [← List.drop_drop, List.drop_left' h8, List.drop_left' h4]
  unfold patch
  rw [hrest 0, hrest n, List.take_left' h8, hdrop, List.append_assoc]

/-! ## A record pushed onto a completion ring -/

/-- A message leaves memory, and of the rings only whether this one is armed. R579. -/
theorem notify_rings (s : State) (q : Nat) (b : Bool) : let t := notify s q b
    t.mem = s.mem ∧ (∃ a, t.ring q = { s.ring q with armed := a }) ∧ (∀ j, j ≠ q → t.ring j = s.ring j) ∧ t.hif.fns = s.hif.fns := by
  have hm : ∀ (u : State) f e, (msixSend u f e).mem = u.mem ∧ (∀ j, (msixSend u f e).ring j = u.ring j) ∧ (msixSend u f e).hif.fns = u.hif.fns := by
    intro u f e
    unfold msixSend
    split
    · exact ⟨rfl, fun _ => rfl, rfl⟩
    · exact ⟨rfl, fun _ => rfl, rfl⟩
  unfold notify
  dsimp only
  split
  · obtain ⟨h1, h2, h3⟩ := hm (s.modRing q (fun g => { g with armed := false })) (s.ring q).func (s.ring q).vector
    refine ⟨h1, ⟨false, (h2 q).trans (State.modRing_ring_same ..)⟩, fun j hj => (h2 j).trans ?_, h3⟩
    rw [State.modRing_ring, if_neg hj]
  · exact ⟨rfl, ⟨(s.ring q).armed, rfl⟩, fun _ _ => rfl, rfl⟩

/-- A record joins the tail of a completion ring, and the ring's shadow word follows. R578. -/
theorem pushRecord_complete {s : State} {q : Nat} (hk : (s.ring q).kind = .complete) (bs : List Byte) : let t := pushRecord s q bs
    t.mem = ((s.setBytes (hostEntry (s.ring q) (s.ring q).c1.toNat) bs).setNum (hostKey (s.ring q).shadow.toNat) 8 ((s.ring q).c1 + 1).toNat).mem ∧
    (∃ a, t.ring q = { s.ring q with c1 := (s.ring q).c1 + 1, armed := a }) ∧ (∀ j, j ≠ q → t.ring j = s.ring j) ∧ t.hif.fns = s.hif.fns := by
  have hin : (s.ring q).inHost = true := by
    unfold Ring.inHost
    rw [hk]
    rfl
  obtain ⟨pl, hpl, hkey, hret⟩ : ∃ pl, s.entryPlace (s.ring q) (s.ring q).c1.toNat = some pl ∧
      pl.key = hostEntry (s.ring q) (s.ring q).c1.toNat ∧ frameRetired s pl = false := by
    refine ⟨.host _, ?_, rfl, rfl⟩
    unfold State.entryPlace
    dsimp only
    rw [if_pos hin]
  obtain ⟨u, hu⟩ : ∃ u, u = (s.putBytes pl.key bs).modRing q (fun g => { g with c1 := g.c1 + 1 }) := ⟨_, rfl⟩
  have huring (j : Nat) : u.ring j = if j = q then { s.ring q with c1 := (s.ring q).c1 + 1 } else s.ring j := by
    rw [hu, State.modRing_ring]
    rfl
  have humem : u.mem = (s.setBytes (hostEntry (s.ring q) (s.ring q).c1.toNat) bs).mem := by
    rw [hu, hkey]
    rfl
  have hufns : u.hif.fns = s.hif.fns := by
    rw [hu]
    rfl
  have hdef : pushRecord s q bs = notify (u.setNum (hostKey (s.ring q).shadow.toNat) 8 ((s.ring q).c1 + 1).toNat) q false := by
    have hshadow : shadowWrite u q ((s.ring q).c1 + 1) = u.setNum (hostKey (s.ring q).shadow.toNat) 8 ((s.ring q).c1 + 1).toNat := by
      unfold shadowWrite
      rw [huring, if_pos rfl]
      exact if_pos hin
    unfold pushRecord State.putEntry
    dsimp only
    rw [hpl]
    dsimp only
    rw [hret, if_neg (by decide), ← hu, hshadow]
  obtain ⟨v, hv⟩ : ∃ v, v = u.setNum (hostKey (s.ring q).shadow.toNat) 8 ((s.ring q).c1 + 1).toNat := ⟨_, rfl⟩
  have hvring (j : Nat) : v.ring j = u.ring j := by
    rw [hv]
    rfl
  have hvmem : v.mem = ((s.setBytes (hostEntry (s.ring q) (s.ring q).c1.toNat) bs).setNum (hostKey (s.ring q).shadow.toNat) 8
      ((s.ring q).c1 + 1).toNat).mem := by
    rw [hv]
    unfold State.setNum State.setBytes
    dsimp only
    rw [humem]
    rfl
  have hvfns : v.hif.fns = s.hif.fns := by
    rw [hv]
    exact hufns
  obtain ⟨h1, ⟨a, h2⟩, h3, h4⟩ := notify_rings v q false
  intro t
  have ht : t = notify v q false := hdef.trans (by rw [hv])
  rw [ht]
  refine ⟨h1.trans hvmem, ⟨a, ?_⟩, fun j hj => ?_, h4.trans hvfns⟩
  · rw [h2, hvring, huring, if_pos rfl]
  · rw [h3 j hj, hvring, huring, if_neg hj]

/-- A completion record takes the next CSEQ of its ring. R526. -/
theorem pushCpl_complete {s : State} {q : Nat} (hk : (s.ring q).kind = .complete) (bs : List Byte) : let t := pushCpl s q bs
    t.mem = ((s.setBytes (hostEntry (s.ring q) (s.ring q).c1.toNat) (patch bs 8 4 (s.ring q).cseq.toNat)).setNum (hostKey (s.ring q).shadow.toNat) 8
      ((s.ring q).c1 + 1).toNat).mem ∧
    (∃ a, t.ring q = { s.ring q with c1 := (s.ring q).c1 + 1, armed := a, cseq := (s.ring q).cseq + 1 }) ∧
    (∀ j, j ≠ q → t.ring j = s.ring j) ∧ t.hif.fns = s.hif.fns := by
  obtain ⟨h1, ⟨a, h2⟩, h3, h4⟩ := pushRecord_complete hk (patch bs 8 4 (s.ring q).cseq.toNat)
  unfold pushCpl
  dsimp only
  generalize pushRecord s q (patch bs 8 4 (s.ring q).cseq.toNat) = u at h1 h2 h3 h4
  refine ⟨h1, ⟨a, ?_⟩, fun j hj => ?_, h4⟩
  · rw [State.modRing_ring_same, h2]
  · rw [State.modRing_ring, if_neg hj, h3 j hj]

theorem wrote_pushCpl (s : State) (q : Nat) (bs : List Byte) : Wrote s (pushCpl s q bs) := by
  unfold pushCpl
  exact (wrote_pushRecord s q _).trans (wrote_modRing ..)

theorem wrote_writeRec (s : State) (q : Nat) (c : Cpl) (sub seq : Option Nat) : Wrote s (writeRec s q c sub seq) := by
  unfold writeRec
  split
  · exact wrote_pushCpl ..
  · exact wrote_modRing ..

theorem wrote_finishDone (s : State) (d : Done) (ctx status : Nat) : Wrote s (finishDone s d ctx status) := by
  unfold finishDone
  split
  · exact wrote_writeRec ..
  · exact .refl s

/-- A record answers at a ring that takes one, whatever else has changed. R526, R577. -/
theorem writeRec_replied {s u : State} {ring cpl : Nat} (hne : ring ≠ cpl) (hsub : (u.ring ring).c0 = (s.ring ring).c0 + 1)
    (hcpl : u.ring cpl = s.ring cpl) (ht : TakesRecord s cpl) (c : Cpl) (sub seq : Option Nat) :
    Replied s (writeRec u cpl c sub seq) ring cpl c := by
  obtain ⟨hroom, happart⟩ := ht
  have hroom' : cplRoom u cpl = true := by
    unfold cplRoom at hroom ⊢
    rw [hcpl]
    exact hroom
  have hk : (u.ring cpl).kind = .complete := by
    unfold cplRoom at hroom'
    simp only [Bool.and_eq_true, beq_iff_eq] at hroom'
    exact hroom'.1.1
  have hdef : writeRec u cpl c sub seq = pushCpl u cpl (c.bytes 0) := if_pos hroom'
  obtain ⟨h1, ⟨a, h2⟩, h3, -⟩ := pushCpl_complete hk (c.bytes 0)
  rw [hdef]
  generalize pushCpl u cpl (c.bytes 0) = t at h1 h2 h3
  rw [patch_cplBytes, hcpl] at h1
  refine ⟨?_, ?_, ?_, ?_⟩
  · rw [h3 ring hne, hsub]
  · rw [h2, hcpl]
  · rw [h2, hcpl]
  · have hlen := cplBytes_length c (s.ring cpl).cseq
    have hset := bytes_setBytes u (hostEntry (s.ring cpl) (s.ring cpl).c1.toNat) (c.bytes (s.ring cpl).cseq)
    rw [hlen] at hset
    rw [← hset]
    refine bytes_eq_of_byte 64 fun i hi => (byte_congr h1 _).trans (byte_setNum_outside _ _ _ _ _ ?_)
    omega

/-! ## A record that is consumed -/

/-- What consuming a submission record leaves: the head moves on, and only the ring's shadow word is written. R490, R577. -/
theorem consume_submit {s : State} {q : Nat} (hk : (s.ring q).kind = .submit) : let t := consume s q
    t.ring q = { s.ring q with held := false, c0 := (s.ring q).c0 + 1 } ∧ (∀ j, j ≠ q → t.ring j = s.ring j) ∧ t.hif.fns = s.hif.fns := by
  have hring (j : Nat) : (s.modRing q (fun g => { g with held := false })).ring j = if j = q then { s.ring q with held := false } else s.ring j :=
    State.modRing_ring ..
  have hk' : ((s.modRing q (fun g => { g with held := false })).ring q).kind = .submit := by
    rw [hring, if_pos rfl]
    exact hk
  have hdef := popHead_submit hk'
  unfold consume
  rw [hdef]
  refine ⟨?_, fun j hj => ?_, rfl⟩
  · rw [setNum_ring, State.modRing_ring_same, hring, if_pos rfl]
  · rw [setNum_ring, State.modRing_ring, if_neg hj, hring, if_neg hj]

theorem wrote_popHead (s : State) (q : Nat) : Wrote s (popHead s q) := by
  unfold popHead
  dsimp only
  split
  · exact (wrote_modRing s q _).trans (wrote_shadowWrite ..)
  · exact wrote_modRing ..

theorem wrote_consume (s : State) (q : Nat) : Wrote s (consume s q) := (wrote_modRing s q _).trans (wrote_popHead ..)

/-- The ring of a completion is found by kinds and ranges alone. R568. -/
theorem doneRing_congr {s t : State} (hkind : ∀ j, (t.ring j).kind = (s.ring j).kind) (hfn : t.hif.fns = s.hif.fns) (f : Nat) :
    doneRing t f = doneRing s f := by
  unfold doneRing State.fn
  simp only [hkind, hfn]

theorem doneRing_consume {s : State} {q : Nat} (hk : (s.ring q).kind = .submit) (f : Nat) : doneRing (consume s q) f = doneRing s f := by
  obtain ⟨h1, h2, h3⟩ := consume_submit hk
  refine doneRing_congr (fun j => ?_) h3 f
  by_cases hj : j = q
  · rw [hj, h1]
  · rw [h2 j hj]

/-- A submission record is taken from a submission ring. -/
theorem subRecord_submit {s : State} {q : Nat} {bs : List Byte} (h : subRecord s q = some bs) : (s.ring q).kind = .submit := by
  unfold subRecord at h
  dsimp only at h
  split at h
  · next hc => exact hc.2.1
  · cases h

theorem subOf_record {s : State} {q kind : Nat} {bs : List Byte} (h : subOf s q kind = some bs) :
    subRecord s q = some bs ∧ fieldAt bs 8 1 = kind ∧ (s.ring q).held = false := by
  unfold subOf at h
  split at h
  · next b hb =>
    split at h
    · next hc =>
      cases h
      exact ⟨hb, hc.1, by simpa using hc.2⟩
    · cases h
  · cases h

theorem takesRecord_complete {s : State} {r : Nat} (h : TakesRecord s r) : (s.ring r).kind = .complete := by
  have hroom := h.1
  unfold cplRoom at hroom
  simp only [Bool.and_eq_true, beq_iff_eq] at hroom
  exact hroom.1.1

/-- A record's submission ring is not its completion ring. -/
theorem submit_ne_complete {s : State} {ring cpl : Nat} (hs : (s.ring ring).kind = .submit) (hc : (s.ring cpl).kind = .complete) : ring ≠ cpl := by
  intro h
  rw [h, hc] at hs
  cases hs

/-- A DONE record for a record that was consumed. R526. -/
theorem finishDone_replied {s u : State} {ring cpl : Nat} (hs : (s.ring ring).kind = .submit) (hd : doneRing s (s.ring ring).func = some cpl)
    (ht : TakesRecord s cpl) (hu : u.hif = (consume s ring).hif) (reqId : W64) (ctx status : Nat) :
    Replied s (finishDone u { reqId := reqId, sub := ring } ctx status) ring cpl { kind := 1, status := status, reqId := reqId, ctx := ctx } := by
  obtain ⟨h1, h2, h3⟩ := consume_submit hs
  have hne := submit_ne_complete hs (takesRecord_complete ht)
  have huring (j : Nat) : u.ring j = (consume s ring).ring j := ring_congr hu j
  have hdone : doneRing u (u.ring ring).func = some cpl := by
    rw [doneRing_congr (s := consume s ring) (fun j => congrArg Ring.kind (huring j)) (congrArg Hif.fns hu), doneRing_consume hs, huring, h1]
    exact hd
  unfold finishDone
  dsimp only
  rw [hdone]
  refine writeRec_replied hne ?_ ?_ ht ..
  · rw [huring, h1]
  · rw [huring, h2 cpl hne.symm]

end Sys2Proof.Proofs
end

section
/-! What a binding and its end leave of the service's own tables (12, R495 to R503). -/

namespace Sys2Proof.Proofs
open Sys2Proof Sys2Proof.Machine

/-! ## Changes beneath the service's tables -/

/-- State `t` is `s` but for storage, owner tags, tiles, Millraces, the memory block, the fabric and the count of free values. -/
def Beneath (s t : State) : Prop :=
  t = { s with
    mem := t.mem
    chk := t.chk
    owner := t.owner
    tiles := t.tiles
    mrcs := t.mrcs
    memb := t.memb
    hdr := t.hdr
    free := t.free }

theorem Beneath.refl (s : State) : Beneath s s := rfl

theorem Beneath.trans {s t u : State} (h : Beneath s t) (h' : Beneath t u) : Beneath s u := by
  unfold Beneath at h h' ⊢
  rw [h'] at ⊢
  rw [h]

theorem beneath_foldl {α : Type} (f : State → α → State) (xs : List α) (hf : ∀ s x, Beneath s (f s x)) (s : State) : Beneath s (xs.foldl f s) :=
  foldl_frame Beneath .refl (fun _ _ _ => .trans) f xs hf s

theorem beneath_setBytes (s : State) (k : Nat) (bs : List Byte) : Beneath s (s.setBytes k bs) := rfl

theorem beneath_zero (s : State) (k n : Nat) : Beneath s (s.zero k n) := rfl

theorem beneath_tblInval (s : State) (v : Nat) : Beneath s (endTblInval (startTblInval s v)) := by
  have h : Beneath s (startTblInval s v) := rfl
  refine h.trans ?_
  unfold endTblInval
  split
  · exact .refl _
  · split <;> rfl

theorem beneath_modWeir (s : State) (d ctx : Nat) (f : Weir → Weir) : Beneath s (s.modWeir d ctx f) := rfl

theorem MillOnly.beneath {s t : State} (h : MillOnly s t) : Beneath s t := by
  unfold Beneath
  rw [h.1]

theorem beneath_freeBlocks (s : State) (l b n : Nat) : Beneath s (freeBlocks s l b n) := by
  have h1 := (mpdOnly_touchRange s (s.phys l) (4096 * b) (4096 * n)).millOnly.beneath
  unfold freeBlocks
  generalize touchRange s (s.phys l) (4096 * b) (4096 * n) = u at h1
  have h2 : Beneath u (setOwners (u.zero (millKey (s.phys l) (4096 * b)) (4096 * n)) (s.phys l) b 0 n) := by
    rw [setOwners_frame]
    rfl
  exact h1.trans h2

theorem beneath_freeAll (bs : List (Nat × Nat × Nat)) (s : State) : Beneath s (freeAll s bs) := by
  refine beneath_foldl _ bs ?_ s
  exact fun s b => beneath_freeBlocks s b.1 b.2.1 b.2.2

theorem beneath_invalCtx (s : State) (ctx : Nat) : Beneath s (invalCtx s ctx) := by
  have h (v : Nat) : Beneath s (startXlatInval s v) := rfl
  unfold invalCtx
  dsimp only
  split
  · exact h _
  · refine (h (2 ^ 62 + ctx * 2 ^ 48)).trans ?_
    unfold endXlatInval
    split <;> rfl

theorem beneath_clearRights (s : State) (ctx : Nat) : Beneath s (clearRights s ctx) := by
  have h1 := (beneath_zero s (s.hdr.rightsBase + 512 * ctx) 512).trans (beneath_tblInval _ ctx)
  unfold clearRights
  dsimp only
  split
  · exact h1.trans ((beneath_zero ..).trans (beneath_tblInval ..))
  · exact h1

theorem beneath_writeWord (s : State) (p o : Nat) (w : Word288) : Beneath s (writeWord s (.mill p o) w) := (millOnly_writeWord s p o w).beneath

theorem beneath_initPool (s : State) (ctx : Nat) : Beneath s (initPool s ctx) := by
  unfold initPool poolPlace
  exact (beneath_writeWord ..).trans (beneath_setBytes ..)

theorem beneath_writeRights (s : State) (ctx : Nat) (group : Option Nat) : Beneath s (writeRights s ctx group) := by
  have hfree (u : State) (n : Nat) : Beneath u (freeBytes u n).1 := rfl
  unfold writeRights
  cases group with
  | none => exact (beneath_zero ..).trans (beneath_tblInval ..)
  | some g =>
    exact (hfree s 256).trans ((hfree _ 512).trans (((beneath_zero ..).trans (beneath_setBytes ..)).trans
      (((beneath_zero ..).trans (beneath_setBytes ..)).trans ((beneath_tblInval ..).trans (beneath_tblInval ..)))))

theorem Beneath.ctxs {s t : State} (h : Beneath s t) : t.ctxs = s.ctxs := by rw [h]

/-! ## BIND -/

/-- The context that a bind reserves. R497. -/
theorem reserve_ctx {s t : State} {ctx fn ring core : Nat} {b : BindRec} {hd : List Byte} (h : reserve s ctx fn ring core b hd = some t) :
    (t.ctx ctx).bound = true ∧ (t.ctx ctx).fn = fn ∧ (t.ctx ctx).ring = ring ∧ (t.ctx ctx).core = core ∧ (t.ctx ctx).bind = b := by
  unfold reserve at h
  dsimp only at h
  split at h
  · cases h
  · split at h
    · cases h
    · split at h
      · cases h
      · split at h
        · cases h
        · split at h
          · cases h
          · obtain rfl := Option.some.inj h
            rw [State.modCtx_ctx_same]
            exact ⟨rfl, rfl, rfl, rfl, rfl⟩

/-- The last steps of a bind leave the contexts and light LED_ACT. R497, R704. -/
theorem setUp_ctxs (s : State) (ctx : Nat) (tab : List Byte) :
    (setUp s ctx tab).ctxs = s.ctxs ∧ (setUp s ctx tab).pins.ledAct = s.ctxs.any (fun c => c.2.bound) := by
  have h1 := beneath_initPool s ctx
  have h2 : Beneath (initPool s ctx) ((List.range 4).foldl (fun (u : State) d =>
      u.modWeir d ctx (fun w => { w with rateNext := some (s.ctx ctx).bind.weirRate, depthNext := some (s.ctx ctx).bind.weirDepth })) (initPool s ctx)) := by
    refine beneath_foldl _ _ ?_ _
    exact fun u d => beneath_modWeir u d ctx _
  unfold setUp
  dsimp only
  generalize (List.range 4).foldl (fun (u : State) d =>
    u.modWeir d ctx (fun w => { w with rateNext := some (s.ctx ctx).bind.weirRate, depthNext := some (s.ctx ctx).bind.weirDepth })) (initPool s ctx) = u at h2
  have h3 := ((h1.trans h2).trans (beneath_setBytes u (s.ctx ctx).detok tab)).ctxs
  have hlast (v : State) (g : Option Nat) (hv : v.ctxs = s.ctxs) : (refreshLed (writeRights v ctx g)).ctxs = s.ctxs ∧
      (refreshLed (writeRights v ctx g)).pins.ledAct = s.ctxs.any (fun c => c.2.bound) := by
    have hw := (beneath_writeRights v ctx g).ctxs.trans hv
    refine ⟨hw, ?_⟩
    unfold refreshLed
    dsimp only
    rw [hw]
  split
  · exact hlast _ _ h3
  · exact hlast _ _ h3

theorem any_bound {s : State} {ctx : Nat} (h : (s.ctx ctx).bound = true) : s.ctxs.any (fun c => c.2.bound) = true := by
  rcases tget_mem (d := ({} : Ctx)) (t := s.ctxs) (k := ctx) with hd | hm
  · unfold State.ctx at h
    rw [hd] at h
    cases h
  · exact List.any_eq_true.2 ⟨_, hm, h⟩

/-- A firmware command that leaves its core running ends whole. R230. -/
theorem fwDo_runs {s : State} {core : Nat} {f : State → State} (h : ((f s).miller core).run ≠ .halted) : fwDo s core f = f s := if_neg h

theorem Wrote.ctxs {s t : State} (h : Wrote s t) : t.ctxs = s.ctxs := by rw [h]

theorem Wrote.pins {s t : State} (h : Wrote s t) : t.pins = s.pins := by rw [h]

theorem Wrote.millers {s t : State} (h : Wrote s t) : t.millers = s.millers := by rw [h]

theorem Wrote.seqs {s t : State} (h : Wrote s t) : t.seqs = s.seqs := by rw [h]

theorem miller_congr {s t : State} (h : t.millers = s.millers) (c : Nat) : t.miller c = s.miller c := by
  unfold State.miller
  rw [h]

theorem ctx_congr {s t : State} (h : t.ctxs = s.ctxs) (c : Nat) : t.ctx c = s.ctx c := by
  unfold State.ctx
  rw [h]

theorem exec_bind_sub {s : State} {ring : Nat} {bs : List Byte} (h : subOf s ring 0x01 = some bs) :
    exec (.bind ring) s = .next (bindTaken s ring bs) := by
  change execBind ring s = _
  rw [execBind, h]

/-- A bind that finds everything it needs ends with the context set up and its record answered. R497, R498. -/
theorem bindTaken_binds {s s1 : State} {ring ctx core : Nat} {bs : List Byte} (hbusy : bindsBusy s = false) (hfree : freeCtx s = some ctx)
    (hgroup : groupTaken s (bindRec bs) = (s, false)) (hok : bindOk s bs (bindRec bs) = true) (hspill : (bindRec bs).spillTab = none)
    (hhead : detokHead (bindRec bs) (s.bytes (hostKey ((bindRec bs).hostBase + (bindRec bs).detokOff)) 16) = true)
    (htab : detokOk (bindRec bs) (s.bytes (hostKey ((bindRec bs).hostBase + (bindRec bs).detokOff))
      (detokSize (s.bytes (hostKey ((bindRec bs).hostBase + (bindRec bs).detokOff)) 16))) = true)
    (hcore : fewestCore s = some core)
    (hres : reserve s ctx (s.ring ring).func ring core (bindRec bs) (s.bytes (hostKey ((bindRec bs).hostBase + (bindRec bs).detokOff)) 16) = some s1) :
    bindTaken s ring bs = fwDo s core (fun _ => finishDone (consume (setUp s1 ctx (s.bytes (hostKey ((bindRec bs).hostBase + (bindRec bs).detokOff))
      (detokSize (s.bytes (hostKey ((bindRec bs).hostBase + (bindRec bs).detokOff)) 16)))) ring) (recDone bs ring) ctx csOk) := by
  unfold bindTaken
  dsimp only
  rw [hbusy, if_neg (by decide), hfree]
  dsimp only
  rw [hgroup]
  dsimp only
  rw [hok, hspill, hhead, htab]
  dsimp only
  rw [if_neg (by decide), hcore]
  dsimp only
  rw [hres]

theorem bind_binds {s s1 : State} {ring ctx core : Nat} {bs : List Byte} (h : subOf s ring 0x01 = some bs) (hbusy : bindsBusy s = false)
    (hfree : freeCtx s = some ctx) (hgroup : groupTaken s (bindRec bs) = (s, false)) (hok : bindOk s bs (bindRec bs) = true)
    (hspill : (bindRec bs).spillTab = none) :
    let hd := s.bytes (hostKey ((bindRec bs).hostBase + (bindRec bs).detokOff)) 16
    let tab := s.bytes (hostKey ((bindRec bs).hostBase + (bindRec bs).detokOff)) (detokSize hd)
    detokHead (bindRec bs) hd = true → detokOk (bindRec bs) tab = true → fewestCore s = some core →
    reserve s ctx (s.ring ring).func ring core (bindRec bs) hd = some s1 → ((setUp s1 ctx tab).miller core).run ≠ .halted →
    ∃ t, exec (.bind ring) s = .next t ∧ (t.ctx ctx).bound = true ∧ (t.ctx ctx).fn = (s.ring ring).func ∧ (t.ctx ctx).ring = ring ∧
      (t.ctx ctx).core = core ∧ (t.ctx ctx).bind = bindRec bs ∧ t.pins.ledAct = true := by
  intro hd tab hhead htab hcore hres hrun
  obtain ⟨hbound, hfn, hring, hcores, hbind⟩ := reserve_ctx hres
  obtain ⟨hctxs, hled⟩ := setUp_ctxs s1 ctx tab
  rw [any_bound hbound] at hled
  have htaken := bindTaken_binds hbusy hfree hgroup hok hspill hhead htab hcore hres
  obtain ⟨u, hu⟩ : ∃ u, u = setUp s1 ctx tab := ⟨_, rfl⟩
  rw [← hu] at hctxs hled hrun
  change bindTaken s ring bs = fwDo s core (fun _ => finishDone (consume (setUp s1 ctx tab) ring) (recDone bs ring) ctx csOk) at htaken
  rw [← hu] at htaken
  have hw := (wrote_consume u ring).trans (wrote_finishDone (consume u ring) (recDone bs ring) ctx csOk)
  generalize finishDone (consume u ring) (recDone bs ring) ctx csOk = t at htaken hw
  have hctx : t.ctx ctx = s1.ctx ctx := ctx_congr (hw.ctxs.trans hctxs) ctx
  have hdo : fwDo s core (fun _ => t) = t := fwDo_runs (by rw [miller_congr hw.millers]; exact hrun)
  refine ⟨t, ?_, ?_, ?_, ?_, ?_, ?_, ?_⟩
  · rw [exec_bind_sub h, htaken, hdo]
  · rw [hctx, hbound]
  · rw [hctx, hfn]
  · rw [hctx, hring]
  · rw [hctx, hcores]
  · rw [hctx, hbind]
  · rw [hw.pins]
    exact hled

theorem bind_waits {s : State} {ring : Nat} {bs : List Byte} (h : subOf s ring 0x01 = some bs) (hbusy : bindsBusy s = false)
    (hfree : freeCtx s = none) (hwait : (s.ring ring).waitFull = true) :
    exec (.bind ring) s = .next (s.modRing ring (fun g => { g with held := true })) := by
  rw [exec_bind_sub h]
  unfold bindTaken
  dsimp only
  rw [hbusy, if_neg (by decide), hfree]
  dsimp only
  rw [if_pos hwait]

end Sys2Proof.Proofs
end

section
/-! UNBIND, ADMIT, CANCEL and records taken again (12, R494, R500 to R510, R526, R528). -/

namespace Sys2Proof.Proofs
open Sys2Proof Sys2Proof.Machine

/-! ## The end of a binding -/

theorem Beneath.hif {s t : State} (h : Beneath s t) : t.hif = s.hif := by rw [h]

theorem Beneath.millers {s t : State} (h : Beneath s t) : t.millers = s.millers := by rw [h]

theorem Beneath.gslots {s t : State} (h : Beneath s t) : t.gslots = s.gslots := by rw [h]

theorem gslot_congr {s t : State} (h : t.gslots = s.gslots) (g : Nat) : t.gslot g = s.gslot g := by
  unfold State.gslot
  rw [h]

theorem invalCtx_roots (s : State) (ctx : Nat) : (invalCtx s ctx).memb.roots = s.memb.roots := by
  have h (v : Nat) : (startXlatInval s v).memb.roots = s.memb.roots := rfl
  unfold invalCtx
  dsimp only
  split
  · exact h _
  · refine Eq.trans ?_ (h (2 ^ 62 + ctx * 2 ^ 48))
    unfold endXlatInval
    split <;> rfl

/-- Grist slots lose their context, and nothing else changes. R300, R503. -/
theorem unslot_foldl (gs : List Nat) (s : State) : let t := gs.foldl (fun (s : State) g => s.modGSlot g (fun x => { x with ctx := none })) s
    t = { s with gslots := t.gslots } ∧ (∀ g ∈ gs, (t.gslot g).ctx = none) ∧ ∀ g, (s.gslot g).ctx = none → (t.gslot g).ctx = none := by
  induction gs generalizing s with
  | nil => exact ⟨rfl, fun g hg => absurd hg List.not_mem_nil, fun _ h => h⟩
  | cons x gs ih =>
    obtain ⟨h1, h2, h3⟩ := ih (s.modGSlot x (fun x => { x with ctx := none }))
    have hx (g : Nat) (hg : g = x ∨ (s.gslot g).ctx = none) : ((s.modGSlot x (fun x => { x with ctx := none })).gslot g).ctx = none := by
      rw [State.modGSlot_gslot]
      split
      · rfl
      · next hne => exact hg.resolve_left hne
    refine ⟨h1, fun g hg => ?_, fun g hg => h3 g (hx g (.inr hg))⟩
    rcases List.mem_cons.1 hg with rfl | hg
    · exact h3 _ (hx _ (.inl rfl))
    · exact h2 g hg

/-- A context that is torn down is free, with its Grist slots and its page map; the rings and the cores stay. R503. -/
theorem teardown_frees (s : State) (ctx : Nat) : let t := teardown s ctx
    t.hif = s.hif ∧ t.millers = s.millers ∧ t.ctx ctx = {} ∧ tget 0 t.memb.roots ctx = 0 ∧ ∀ g ∈ (s.ctx ctx).grist, (t.gslot g).ctx = none := by
  have h1 := beneath_clearRights s ctx
  obtain ⟨h2, hg, -⟩ := unslot_foldl ((s.ctx ctx).grist ++ (s.ctx ctx).spillSlot.toList) (clearRights s ctx)
  unfold teardown
  dsimp only
  generalize clearRights s ctx = s1 at h1 h2 hg
  generalize ((s.ctx ctx).grist ++ (s.ctx ctx).spillSlot.toList).foldl (fun (s : State) g => s.modGSlot g (fun x => { x with ctx := none })) s1 = s2 at h2 hg
  have h3 : Beneath s2 ((List.range 4).foldl (fun (s : State) d => s.modWeir d ctx (fun w => { w with rateNext := some 0 })) s2) := by
    refine beneath_foldl _ _ ?_ _
    exact fun u d => beneath_modWeir u d ctx _
  generalize (List.range 4).foldl (fun (s : State) d => s.modWeir d ctx (fun w => { w with rateNext := some 0 })) s2 = s3 at h3
  have h4 := h3.trans (beneath_freeAll ((s.ctx ctx).ver0.millpond ++ (s.ctx ctx).ver1.millpond ++ homeBlocks (s.ctx ctx)) s3)
  generalize freeAll s3 ((s.ctx ctx).ver0.millpond ++ (s.ctx ctx).ver1.millpond ++ homeBlocks (s.ctx ctx)) = s4 at h4
  have h5 : Beneath s2 { s4 with memb := { s4.memb with roots := tset 0 s4.memb.roots ctx 0 } } := h4.trans rfl
  have h6 := h5.trans (beneath_invalCtx { s4 with memb := { s4.memb with roots := tset 0 s4.memb.roots ctx 0 } } ctx)
  have hroots := invalCtx_roots { s4 with memb := { s4.memb with roots := tset 0 s4.memb.roots ctx 0 } } ctx
  generalize invalCtx { s4 with memb := { s4.memb with roots := tset 0 s4.memb.roots ctx 0 } } ctx = s5 at h6 hroots
  have hhif : s2.hif = s.hif := by rw [h2]; exact h1.hif
  have hmil : s2.millers = s.millers := by rw [h2]; exact h1.millers
  refine ⟨h6.hif.trans hhif, h6.millers.trans hmil, ?_, ?_, fun g hmem => ?_⟩
  · exact State.modCtx_ctx_same s5 ctx (fun _ => {})
  · change tget 0 s5.memb.roots ctx = 0
    rw [hroots]
    exact tget_tset_same 0 s4.memb.roots ctx 0
  · change (s5.gslot g).ctx = none
    rw [gslot_congr h6.gslots]
    exact hg g (List.mem_append_left _ hmem)

/-! ## UNBIND -/

theorem heldSeqs_congr {s t : State} (h : t.seqs = s.seqs) (ctx : Nat) : heldSeqs t ctx = heldSeqs s ctx := by
  unfold heldSeqs
  rw [h]

theorem stopLoads_none {s : State} {ctx : Nat} (h : ∀ v, ((s.ctx ctx).ver v).load = none ∧ ((s.ctx ctx).ver v).loading = none) (silent : Bool) :
    stopLoads s ctx silent = s := by
  have hno (v : Bool) : ¬ ((((s.ctx ctx).ver v).load.isSome = true ∨ ((s.ctx ctx).ver v).loading.isSome = true) ∧ ((s.ctx ctx).ver v).st ≠ .active) := by
    rintro ⟨hl, -⟩
    rw [(h v).1, (h v).2] at hl
    simp at hl
  unfold stopLoads
  split
  · rfl
  · rw [List.foldl_cons, if_neg (hno false), List.foldl_cons, if_neg (hno true), List.foldl_nil]

theorem applyCancels_none {s : State} {ctx : Nat} (h : (s.ctx ctx).cancels = []) :
    applyCancels s ctx = s.modCtx ctx (fun c => { c with cancels := [] }) := by
  unfold applyCancels
  rw [h, List.foldl_nil]

theorem cancelAll_none {s : State} {ctx : Nat} (h : heldSeqs s ctx = []) : cancelAll s ctx = s := by
  unfold cancelAll liveSeqs
  rw [h]
  rfl

theorem modVer_ctx (s : State) (ctx : Nat) (v : Bool) (f : Version → Version) : (modVer s ctx v f).ctx ctx = (s.ctx ctx).modVer v f :=
  State.modCtx_ctx_same ..

theorem ctxModVer_ver (c : Ctx) (v w : Bool) (f : Version → Version) : (c.modVer v f).ver w = if w = v then f (c.ver w) else c.ver w := by
  cases v <;> cases w <;> rfl

/-- Nothing that a version waits for is asked of it any more; the context keeps its Grist slots. -/
theorem endAsked_none {s : State} {ctx : Nat} (h : ∀ v, ((s.ctx ctx).ver v).activate = none ∧ ((s.ctx ctx).ver v).discard = none) :
    let t := endAsked s ctx
    t = { s with ctxs := t.ctxs } ∧ (t.ctx ctx).grist = (s.ctx ctx).grist := by
  have hver (v : Bool) : (modVer s ctx false (fun y => { y with activate := none, discard := none })).ctx ctx =
      (s.ctx ctx).modVer false (fun y => { y with activate := none, discard := none }) := modVer_ctx ..
  have htrue : ((modVer s ctx false (fun y => { y with activate := none, discard := none })).ctx ctx).ver true = (s.ctx ctx).ver true := by
    rw [hver true, ctxModVer_ver]
    rfl
  have hdef : endAsked s ctx = modVer (modVer s ctx false (fun y => { y with activate := none, discard := none })) ctx true
      (fun y => { y with activate := none, discard := none }) := by
    unfold endAsked
    rw [List.foldl_cons, List.foldl_cons, List.foldl_nil]
    dsimp only
    rw [(h false).1, (h false).2]
    dsimp only
    rw [htrue, (h true).1, (h true).2]
  intro t
  have ht : t = _ := hdef
  rw [ht]
  refine ⟨rfl, ?_⟩
  rw [modVer_ctx, hver true]
  rfl

/-- The state of a context without sequences, loads or anything asked of its versions, as an UNBIND finds it. R502, R503. -/
structure Idle (s : State) (ctx : Nat) : Prop where
  seqs : heldSeqs s ctx = []
  inFlight : (s.ctx ctx).inFlight = none
  cancels : (s.ctx ctx).cancels = []
  vers : ∀ v, ((s.ctx ctx).ver v).loading = none ∧ ((s.ctx ctx).ver v).load = none ∧ ((s.ctx ctx).ver v).activate = none ∧
    ((s.ctx ctx).ver v).discard = none

/-- The binding of an idle context ends at once. R503. -/
theorem settleUnbind_idle {s : State} {ctx : Nat} (h : Idle s ctx) (d : Done) :
    ∃ u, settleUnbind s ctx (some d) = finishDone (teardown u ctx) d ctx csOk ∧ u = { s with ctxs := u.ctxs } ∧
      (u.ctx ctx).grist = (s.ctx ctx).grist := by
  obtain ⟨v, hv⟩ : ∃ v, v = s.modCtx ctx (fun c => { c with cancels := [] }) := ⟨_, rfl⟩
  have hvctx : v.ctx ctx = { s.ctx ctx with cancels := [] } := by rw [hv, State.modCtx_ctx_same]
  have hvframe : v = { s with ctxs := v.ctxs } := by rw [hv]; rfl
  have hvseqs : heldSeqs v ctx = [] := (heldSeqs_congr (by rw [hv]; rfl) ctx).trans h.seqs
  have hver (w : Bool) : (v.ctx ctx).ver w = (s.ctx ctx).ver w := by
    rw [hvctx]
    cases w <;> rfl
  obtain ⟨h1, h2⟩ := endAsked_none (s := v) (ctx := ctx) fun w => by
    rw [hver]
    exact ⟨(h.vers w).2.2.1, (h.vers w).2.2.2⟩
  have hstop : stopLoads v ctx false = v := stopLoads_none (fun w => by
    rw [hver]
    exact ⟨(h.vers w).2.1, (h.vers w).1⟩) false
  have hheld : heldSeqs (endAsked v ctx) ctx = [] := (heldSeqs_congr (by rw [h1]) ctx).trans hvseqs
  refine ⟨endAsked v ctx, ?_, ?_, ?_⟩
  · unfold settleUnbind
    rw [applyCancels_none h.cancels, ← hv, cancelAll_none hvseqs]
    simp only [Option.isNone_some, Bool.false_eq_true, if_false]
    rw [hstop, hheld, if_pos List.isEmpty_nil]
  · rw [h1, hvframe]
  · rw [h2, hvctx]

theorem unbind_unbinds {s : State} {ring cpl : Nat} {bs : List Byte} (h : subOf s ring 0x02 = some bs) (hbound : recBound s ring bs = true)
    (hrsvd : recRsvd bs = true) (hf : fieldAt bs 16 1 < 2) (hz : zeroAt bs 17 111 = true) (hd : doneRing s (s.ring ring).func = some cpl)
    (ht : TakesRecord s cpl) (hcore : coreRuns s (s.ctx (recCtx bs)).core = true) (hidle : Idle s (recCtx bs)) :
    ∃ t, exec (.unbind ring) s = .next t ∧ t.ctx (recCtx bs) = {} ∧ tget 0 t.memb.roots (recCtx bs) = 0 ∧
      (∀ g ∈ (s.ctx (recCtx bs)).grist, (t.gslot g).ctx = none) ∧
      Replied s t ring cpl { kind := 1, status := 0x00, reqId := recReq bs, ctx := recCtx bs } := by
  generalize hctx : recCtx bs = ctx at *
  have hsub := subRecord_submit (subOf_record h).1
  have hbnd : (s.ctx ctx).bound = true := by
    unfold recBound at hbound
    simp only [hctx, Bool.and_eq_true] at hbound
    exact hbound.1.1.2
  obtain ⟨c0, hc0⟩ : ∃ c0, c0 = consume s ring := ⟨_, rfl⟩
  have hcons : Wrote s c0 := hc0 ▸ wrote_consume s ring
  obtain ⟨u, hu⟩ : ∃ u, u = c0.modCtx ctx (fun c => { c with unbinding := some (some (recDone bs ring)) }) := ⟨_, rfl⟩
  have huctx : u.ctx ctx = { s.ctx ctx with unbinding := some (some (recDone bs ring)) } := by
    rw [hu, State.modCtx_ctx_same, ctx_congr hcons.ctxs]
  have huhif : u.hif = (consume s ring).hif := by rw [hu, hc0, State.modCtx_hif]
  have humil : u.millers = s.millers := by rw [hu, State.modCtx_millers, hcons.millers]
  have huseqs : u.seqs = s.seqs := by rw [hu, State.modCtx_seqs, hcons.seqs]
  have huver (w : Bool) : (u.ctx ctx).ver w = (s.ctx ctx).ver w := by
    rw [huctx]
    cases w <;> rfl
  have huidle : Idle u ctx := by
    refine ⟨(heldSeqs_congr huseqs ctx).trans hidle.seqs, ?_, ?_, fun v => ?_⟩
    · rw [huctx]
      exact hidle.inFlight
    · rw [huctx]
      exact hidle.cancels
    · rw [huver]
      exact hidle.vers v
  have hstop (f : Bool) : (if f = true then stopLoads u ctx false else u) = u := by
    split
    · exact stopLoads_none (fun w => by rw [huver]; exact ⟨(hidle.vers w).2.1, (hidle.vers w).1⟩) false
    · rfl
  obtain ⟨v, hv, hvframe, hvgrist⟩ := settleUnbind_idle huidle (recDone bs ring)
  have hsettle : settle u ctx = finishDone (teardown v ctx) (recDone bs ring) ctx csOk := by
    have hin : (u.ctx ctx).inFlight = none := huidle.inFlight
    have hb : (u.ctx ctx).bound = true := by rw [huctx]; exact hbnd
    have hun : (u.ctx ctx).unbinding = some (some (recDone bs ring)) := by rw [huctx]
    unfold settle
    dsimp only
    rw [hb, hin, hun]
    exact (if_neg (by decide)).trans hv
  obtain ⟨t1, t2, t3, t4, t5⟩ := teardown_frees v ctx
  have hthif : (teardown v ctx).hif = (consume s ring).hif := by
    rw [t1, hvframe]
    exact huhif
  have htmil : (teardown v ctx).millers = s.millers := by
    rw [t2, hvframe]
    exact humil
  have hrep : Replied s (finishDone (teardown v ctx) (recDone bs ring) ctx csOk) ring cpl _ := finishDone_replied hsub hd ht hthif (recReq bs) ctx csOk
  have hw := wrote_finishDone (teardown v ctx) (recDone bs ring) ctx csOk
  have hexec : exec (.unbind ring) s = .next (fwDo s (s.ctx ctx).core (fun s => settle (if (fieldAt bs 16 1).testBit 0 = true
      then stopLoads ((consume s ring).modCtx ctx (fun c => { c with unbinding := some (some (recDone bs ring)) })) ctx false
      else (consume s ring).modCtx ctx (fun c => { c with unbinding := some (some (recDone bs ring)) })) ctx)) := by
    have hload : loadUnderWay (s.ctx ctx) = false := by
      have h0 : (s.ctx ctx).ver0.loading = none := (hidle.vers false).1
      have h1 : (s.ctx ctx).ver1.loading = none := (hidle.vers true).1
      unfold loadUnderWay
      rw [h0, h1]
      rfl
    change execUnbind ring s = _
    unfold execUnbind
    rw [h]
    dsimp only
    rw [hctx, hbound, if_neg (by decide), hrsvd, hz, if_neg (by simpa using hf), hidle.seqs, hload, if_neg (by simp)]
  have hdo := fwDo_runs (s := s) (core := (s.ctx ctx).core) (f := fun s => settle (if (fieldAt bs 16 1).testBit 0 = true
      then stopLoads ((consume s ring).modCtx ctx (fun c => { c with unbinding := some (some (recDone bs ring)) })) ctx false
      else (consume s ring).modCtx ctx (fun c => { c with unbinding := some (some (recDone bs ring)) })) ctx) (by
    rw [← hc0, ← hu, hstop, hsettle, miller_congr (hw.millers.trans htmil)]
    intro hhalt
    unfold coreRuns at hcore
    rw [hhalt] at hcore
    cases hcore)
  rw [← hc0, ← hu, hstop, hsettle] at hdo
  generalize finishDone (teardown v ctx) (recDone bs ring) ctx csOk = t at hrep hw hdo
  have hmemb : t.memb = (teardown v ctx).memb := by rw [hw]
  have hgs : t.gslots = (teardown v ctx).gslots := by rw [hw]
  refine ⟨t, by rw [hexec, hdo], ?_, ?_, fun g hg => ?_, hrep⟩
  · rw [ctx_congr hw.ctxs, t3]
  · rw [hmemb, t4]
  · rw [gslot_congr hgs]
    exact t5 g (by rw [hvgrist, huctx]; exact hg)

end Sys2Proof.Proofs
end

section
/-! ADMIT, CANCEL, undefined kinds and completion records that have waited (12, R494, R500 to R510, R526, R528). -/

namespace Sys2Proof.Proofs
open Sys2Proof Sys2Proof.Machine

/-! ## ADMIT -/

/-- What a sequence that is admitted holds. R509. -/
def admitted (s : State) (ctx slot cpl : Nat) (bs : List Byte) : SeqEnt :=
  { held := true
    ctx := ctx
    slot := slot
    reqId := recReq bs
    order := s.seqOrder
    adm := admitRec s (s.ctx ctx).bind.hostBase bs cpl
    pinned := if (fieldAt bs 46 1).testBit 0 then some (s.ctx ctx).activeVer else none }

/-- What an ADMIT leaves that finds its entries free. R509, R526. -/
def Admits (s t : State) (ring cpl q slot : Nat) (bs : List Byte) : Prop :=
  t.seqEnt q = admitted s (recCtx bs) slot cpl bs ∧ t.seqOrder = s.seqOrder + 1 ∧
    Replied s t ring cpl { kind := 2, reqId := recReq bs, ctx := recCtx bs, seq := q }

theorem Wrote.seqOrder {s t : State} (h : Wrote s t) : t.seqOrder = s.seqOrder := by rw [h]

theorem admitTaken_admits {s : State} {ring cpl q slot : Nat} {bs : List Byte} (hsub : (s.ring ring).kind = .submit)
    (hbound : recBound s ring bs = true) (hact : (s.ctx (recCtx bs)).hasActive = true) (hcpl : cplRingOf s (s.ring ring).func bs = some cpl)
    (ht : TakesRecord s cpl) (hok : admitOk s (s.ctx (recCtx bs)).bind bs = true) (hq : freeSeq s = some q)
    (hslot : freeSeqSlot s (recCtx bs) = some slot) :
    Admits s (admitTaken s ring bs) ring cpl q slot bs ∧ ((admitTaken s ring bs).ring ring).held = false := by
  have hne := submit_ne_complete hsub (takesRecord_complete ht)
  obtain ⟨h1, h2, -⟩ := consume_submit hsub
  obtain ⟨c0, hc0⟩ : ∃ c0, c0 = consume s ring := ⟨_, rfl⟩
  rw [← hc0] at h1 h2
  obtain ⟨u, hu⟩ : ∃ u, u = ({ c0 with seqOrder := s.seqOrder + 1 } : State).modSeqEnt q (fun _ => admitted s (recCtx bs) slot cpl bs) :=
    ⟨_, rfl⟩
  have huring (j : Nat) : u.ring j = c0.ring j := by
    rw [hu]
    rfl
  have husub : u.ring ring = { s.ring ring with held := false, c0 := (s.ring ring).c0 + 1 } := (huring ring).trans h1
  have hucpl : u.ring cpl = s.ring cpl := (huring cpl).trans (h2 cpl hne.symm)
  have huseq : u.seqEnt q = admitted s (recCtx bs) slot cpl bs := by rw [hu, State.modSeqEnt_seqEnt_same]
  have huorder : u.seqOrder = s.seqOrder + 1 := by
    rw [hu]
    rfl
  have hdef : admitTaken s ring bs = writeRec u cpl { kind := 2, reqId := recReq bs, ctx := recCtx bs, seq := q } (some ring) none := by
    unfold admitTaken
    dsimp only
    rw [hbound, hact, if_neg (by decide), if_neg (by decide), hcpl]
    dsimp only
    rw [hok, if_neg (by decide), hq, hslot, hu, hc0]
    rfl
  have hrep := writeRec_replied hne (by rw [husub]) hucpl ht { kind := 2, reqId := recReq bs, ctx := recCtx bs, seq := q } (some ring) none
  have hw := wrote_writeRec u cpl { kind := 2, reqId := recReq bs, ctx := recCtx bs, seq := q } (some ring) none
  have hheld : ((writeRec u cpl { kind := 2, reqId := recReq bs, ctx := recCtx bs, seq := q } (some ring) none).ring ring).held = false := by
    have hk : (u.ring cpl).kind = .complete := by
      rw [hucpl]
      exact takesRecord_complete ht
    unfold writeRec
    split
    · rw [(pushCpl_complete hk _).2.2.1 ring hne, husub]
    · rw [State.modRing_ring, if_neg hne, husub]
  rw [hdef]
  generalize writeRec u cpl { kind := 2, reqId := recReq bs, ctx := recCtx bs, seq := q } (some ring) none = t at hrep hw hheld
  refine ⟨⟨?_, ?_, hrep⟩, hheld⟩
  · unfold State.seqEnt at huseq ⊢
    rw [hw.seqs]
    exact huseq
  · rw [hw.seqOrder, huorder]

/-- A record that waits no longer under R506. -/
def unheld (s : State) (ring : Nat) : State := s.modRing ring (fun g => { g with held := false })

theorem unheld_ring (s : State) (ring j : Nat) : (unheld s ring).ring j = if j = ring then { s.ring ring with held := false } else s.ring j :=
  State.modRing_ring ..

theorem unheld_own (s : State) (ring : Nat) : (unheld s ring).ring ring = { s.ring ring with held := false } :=
  (unheld_ring s ring ring).trans (if_pos rfl)

theorem unheld_other (s : State) {ring j : Nat} (h : j ≠ ring) : (unheld s ring).ring j = s.ring j := (unheld_ring s ring j).trans (if_neg h)

/-- A record taken again is admitted as one that did not wait. R506. -/
theorem heldRecordRetake_admits {s : State} {ring cpl q slot : Nat} {bs : List Byte} (hrec : subRecord s ring = some bs)
    (hheld : (s.ring ring).held = true) (hkind : fieldAt bs 8 1 = 0x03) (hbound : recBound s ring bs = true)
    (hact : (s.ctx (recCtx bs)).hasActive = true) (hcpl : cplRingOf s (s.ring ring).func bs = some cpl) (ht : TakesRecord s cpl)
    (hok : admitOk s (s.ctx (recCtx bs)).bind bs = true) (hq : freeSeq s = some q) (hslot : freeSeqSlot s (recCtx bs) = some slot) :
    ∃ t, exec (.heldRecordRetake ring) s = .next t ∧ Admits s t ring cpl q slot bs ∧ (t.ring ring).held = false := by
  have hsub := subRecord_submit hrec
  have hne := submit_ne_complete hsub (takesRecord_complete ht)
  have hown := unheld_own s ring
  have hring : (unheld s ring).ring cpl = s.ring cpl := unheld_other s hne.symm
  have hkinds (j : Nat) : ((unheld s ring).ring j).kind = (s.ring j).kind := by
    by_cases hj : j = ring
    · rw [hj, hown]
    · rw [unheld_other s hj]
  have hcpl' : cplRingOf (unheld s ring) ((unheld s ring).ring ring).func bs = some cpl := by
    rw [← hcpl, hown]
    unfold cplRingOf
    simp only [hkinds]
    rfl
  have hbound' : recBound (unheld s ring) ring bs = true := by
    unfold recBound at hbound ⊢
    rw [hown]
    exact hbound
  have ht' : TakesRecord (unheld s ring) cpl := by
    unfold TakesRecord cplRoom at ht ⊢
    rw [hring]
    exact ht
  obtain ⟨⟨hseq, horder, hrep⟩, hno⟩ := admitTaken_admits (s := unheld s ring) (by rw [hkinds]; exact hsub) hbound' hact hcpl' ht' hok hq hslot
  unfold Replied at hrep
  rw [hown, hring] at hrep
  refine ⟨admitTaken (unheld s ring) ring bs, ?_, ⟨hseq, horder, hrep⟩, hno⟩
  change execHeldRecordRetake ring s = _
  unfold execHeldRecordRetake
  rw [hrec]
  dsimp only
  rw [hheld, hkind]
  rfl

/-! ## CANCEL -/

theorem cancel_waits {s : State} {ring : Nat} {bs : List Byte} (h : subOf s ring 0x04 = some bs) (hbound : recBound s ring bs = true)
    (hrsvd : recRsvd bs = true) (hz : zeroAt bs 18 110 = true) (hq : fieldAt bs 16 2 < 32768)
    (hheld : (s.seqEnt (fieldAt bs 16 2)).held = true) (hend : (s.seqEnt (fieldAt bs 16 2)).ended = false)
    (hctx : (s.seqEnt (fieldAt bs 16 2)).ctx = recCtx bs) (hreq : (s.seqEnt (fieldAt bs 16 2)).reqId = recReq bs)
    (hp : (s.seqEnt (fieldAt bs 16 2)).paused = false) (hin : (s.ctx (recCtx bs)).inFlight.isSome = true)
    (hcore : coreRuns s (s.ctx (recCtx bs)).core = true) :
    ∃ t, exec (.cancel ring) s = .next t ∧ (t.ring ring).c0 = (s.ring ring).c0 + 1 ∧ t.seqs = s.seqs ∧
      t.ctx (recCtx bs) = { s.ctx (recCtx bs) with
        cancels := (s.ctx (recCtx bs)).cancels ++ [(fieldAt bs 16 2, ⟨recReq bs, ring⟩)] } := by
  obtain ⟨h1, -, -⟩ := consume_submit (subRecord_submit (subOf_record h).1)
  obtain ⟨c0, hc0⟩ : ∃ c0, c0 = consume s ring := ⟨_, rfl⟩
  have hcons : Wrote s c0 := hc0 ▸ wrote_consume s ring
  rw [← hc0] at h1
  obtain ⟨t, ht⟩ : ∃ t, t = c0.modCtx (recCtx bs) (fun c => { c with cancels := c.cancels ++ [(fieldAt bs 16 2, recDone bs ring)] }) := ⟨_, rfl⟩
  have htctx : t.ctx (recCtx bs) = { s.ctx (recCtx bs) with
      cancels := (s.ctx (recCtx bs)).cancels ++ [(fieldAt bs 16 2, recDone bs ring)] } := by
    rw [ht, State.modCtx_ctx_same, ctx_congr hcons.ctxs]
  have hthif : t.hif = c0.hif := by rw [ht, State.modCtx_hif]
  have htseqs : t.seqs = s.seqs := by rw [ht, State.modCtx_seqs, hcons.seqs]
  have htmil : t.millers = s.millers := by rw [ht, State.modCtx_millers, hcons.millers]
  have hsettle : settle t (recCtx bs) = t := by
    have hin' : (t.ctx (recCtx bs)).inFlight.isSome = true := by
      rw [htctx]
      exact hin
    unfold settle
    dsimp only
    rw [hin', if_pos (.inr rfl)]
  have hrun : (t.miller (s.ctx (recCtx bs)).core).run ≠ .halted := by
    rw [miller_congr htmil]
    intro hhalt
    unfold coreRuns at hcore
    rw [hhalt] at hcore
    cases hcore
  refine ⟨t, ?_, ?_, htseqs, htctx⟩
  · change execCancel ring s = _
    unfold execCancel
    rw [h]
    dsimp only
    rw [hbound, if_neg (by decide), hrsvd, hz, if_neg (by decide), hheld, hend, hctx, hreq, if_neg (by simpa using hq), hp, ← hc0]
    refine congrArg Host.Outcome.next ?_
    have hno : (if false = true then settle (finishDone (endSeq c0 (fieldAt bs 16 2) csCancelled 0) (recDone bs ring) (recCtx bs) csOk) (recCtx bs)
        else settle (c0.modCtx (recCtx bs) (fun c => { c with cancels := c.cancels ++ [(fieldAt bs 16 2, recDone bs ring)] })) (recCtx bs)) = t := by
      rw [if_neg (by decide), ← ht, hsettle]
    rw [hno]
    exact fwDo_runs hrun
  · rw [ring_congr hthif, h1]

/-! ## Undefined kinds, and records that have waited -/

theorem submissionUndefinedKind_refuses {s : State} {ring cpl : Nat} {bs : List Byte} (h : subRecord s ring = some bs)
    (hk : kindDefined (fieldAt bs 8 1) = false) (hd : doneRing s (s.ring ring).func = some cpl) (ht : TakesRecord s cpl) :
    ∃ t, exec (.submissionUndefinedKind ring) s = .next t ∧
      Replied s t ring cpl { kind := 1, status := 0x05, reqId := recReq bs, ctx := recCtx bs } := by
  refine ⟨refuseRec s ring bs (recCtx bs) csInvalid, ?_, finishDone_replied (subRecord_submit h) hd ht rfl (recReq bs) (recCtx bs) csInvalid⟩
  change execSubmissionUndefinedKind ring s = _
  unfold execSubmissionUndefinedKind
  rw [h]
  dsimp only
  rw [hk]
  rfl

theorem completionRecordRetry_writes {s : State} {ring : Nat} {w : Waiting} {ws : List Waiting} (h : (s.ring ring).waiting = w :: ws)
    (hk : (s.ring ring).kind = .complete) (hroom : (s.ring ring).room = true) (hseq : w.seq = none) :
    ∃ t, exec (.completionRecordRetry ring) s = .next t ∧ (t.ring ring).waiting = ws ∧ (t.ring ring).c1 = (s.ring ring).c1 + 1 ∧
      (t.ring ring).cseq = (s.ring ring).cseq + 1 := by
  obtain ⟨-, ⟨a, hring⟩, -, -⟩ := pushCpl_complete hk w.bytes
  obtain ⟨u, hu⟩ : ∃ u, u = pushCpl s ring w.bytes := ⟨_, rfl⟩
  rw [← hu] at hring
  have hown := State.modRing_ring_same u ring (fun g => { g with waiting := ws })
  refine ⟨u.modRing ring (fun g => { g with waiting := ws }), ?_, ?_, ?_, ?_⟩
  · change execCompletionRecordRetry ring s = _
    unfold execCompletionRecordRetry
    rw [h]
    dsimp only
    rw [if_pos ⟨hk, hroom⟩, hseq, hu]
  · rw [hown]
  · rw [hown, hring]
  · rw [hown, hring]

/-- Settles O46: each record by what it finds, with the completion record that answers it. -/
theorem contextsAndSequences : Obligations.ContextsAndSequences := by
  unfold Obligations.ContextsAndSequences
  refine ⟨fun s ring cpl bs h hk hd ht => submissionUndefinedKind_refuses h hk hd ht,
    fun s s1 ring ctx core bs h hbusy hfree hgroup hok hspill => bind_binds h hbusy hfree hgroup hok hspill,
    fun s ring bs h hbusy hfree hwait => bind_waits h hbusy hfree hwait, fun s ring cpl bs h hbound hrsvd hf hz hd ht => ?_,
    fun s ring cpl q slot bs => ?_, fun s ring bs => ?_, fun s ring w ws h hk hroom hseq => completionRecordRetry_writes h hk hroom hseq⟩
  · intro ctx c hcore hseqs hin hcan hvers
    exact unbind_unbinds h hbound hrsvd hf hz hd ht hcore ⟨hseqs, hin, hcan, hvers⟩
  · intro ctx c hbound hact hcpl ht hok hq hslot Taken
    refine ⟨fun h => ?_, fun h hheld hkind => heldRecordRetake_admits h hheld hkind hbound hact hcpl ht hok hq hslot⟩
    refine ⟨admitTaken s ring bs, ?_, (admitTaken_admits (subRecord_submit (subOf_record h).1) hbound hact hcpl ht hok hq hslot).1⟩
    change execOpAdmit ring s = _
    unfold execOpAdmit
    rw [h]
  · intro ctx q h hbound hrsvd hz hq hheld hend hctx hreq hp hin hcore
    exact cancel_waits h hbound hrsvd hz hq hheld hend hctx hreq hp hin hcore

end Sys2Proof.Proofs
end

section
/-! What the firmware's reads and writes leave: the tables of contexts and of sequences (12; 04, R176 to R183). -/

namespace Sys2Proof.Proofs
open Sys2Proof Sys2Proof.Machine

/-! ## The tables of the serving loop -/

/-- State `s` holds the contexts and sequences of `u`. -/
structure Serves (u s : State) : Prop where
  ctxs : s.ctxs = u.ctxs
  seqs : s.seqs = u.seqs

theorem Serves.refl (u : State) : Serves u u := ⟨rfl, rfl⟩

theorem Serves.trans {u s t : State} (h : Serves u s) (h' : Serves s t) : Serves u t := ⟨h'.ctxs.trans h.ctxs, h'.seqs.trans h.seqs⟩

theorem serves_foldl {α : Type} {u s : State} (h : Serves u s) (f : State → α → State) (xs : List α) (hf : ∀ s x, Serves u s → Serves u (f s x)) :
    Serves u (xs.foldl f s) := by
  induction xs generalizing s with
  | nil => exact h
  | cons x xs ih => exact ih (hf s x h)

theorem serves_postEvent {u s : State} (h : Serves u s) (c : Option Nat) (e : Evt) : Serves u (postEvent s c e) := by
  refine h.trans ?_
  rw [postEvent_frame]
  exact ⟨rfl, rfl⟩

theorem serves_postEvents {u s : State} (h : Serves u s) (cs : List Nat) (e : Evt) : Serves u (postEvents s cs e) :=
  serves_postEvent (serves_foldl h (fun s c => postEvent s (some c) e) cs (fun _ c h' => serves_postEvent h' (some c) e)) none e

theorem serves_retireFrame {u s : State} (h : Serves u s) (f cause : Nat) : Serves u (retireFrame s f cause) := by
  unfold retireFrame
  grind only [serves_postEvents, Serves]

theorem serves_sparePc {u s : State} (h : Serves u s) (stk pc : Nat) : Serves u (sparePc s stk pc) := by
  unfold sparePc State.modStack
  grind only [serves_postEvent, Serves]

theorem serves_countCe {u s : State} (h : Serves u s) (pl : Place) : Serves u (countCe s pl) := by
  have hs (f : Stack → Stack) (k : Nat) : Serves u (s.modStack k f) := ⟨h.ctxs, h.seqs⟩
  have hm (f : Mpd → Mpd) (k : Nat) : Serves u (s.modMpd k f) := ⟨h.ctxs, h.seqs⟩
  unfold countCe
  grind only [serves_retireFrame, serves_sparePc]

theorem serves_countUe {u s : State} (h : Serves u s) (pl : Place) (src : Nat) : Serves u (countUe s pl src) := by
  have hs (f : Stack → Stack) (k : Nat) : Serves u (s.modStack k f) := ⟨h.ctxs, h.seqs⟩
  have hm (f : Mpd → Mpd) (k : Nat) : Serves u (s.modMpd k f) := ⟨h.ctxs, h.seqs⟩
  unfold countUe
  grind only [serves_retireFrame]

theorem serves_touch {u s : State} (h : Serves u s) (pl : Place) : Serves u (touch s pl) := by
  cases pl <;> exact ⟨h.ctxs, h.seqs⟩

theorem serves_dropWriteback {u s : State} (h : Serves u s) (pl : Place) : Serves u (dropWriteback s pl) := by
  cases pl <;> exact ⟨h.ctxs, h.seqs⟩

theorem serves_readWord {u s : State} (h : Serves u s) (pl : Place) : Serves u (readWord s pl).1 := by
  have hm (f : Mpd → Mpd) (t : State) (k : Nat) (ht : Serves u t) : Serves u (t.modMpd k f) := ⟨ht.ctxs, ht.seqs⟩
  unfold readWord
  grind only [serves_touch, serves_countCe, serves_countUe]

theorem serves_setWord {u s : State} (h : Serves u s) (k : Nat) (w : Word288) : Serves u (s.setWord k w) := ⟨h.ctxs, h.seqs⟩

theorem serves_setNum {u s : State} (h : Serves u s) (k n v : Nat) : Serves u (s.setNum k n v) := ⟨h.ctxs, h.seqs⟩

theorem serves_writeWord {u s : State} (h : Serves u s) (pl : Place) (w : Word288) : Serves u (writeWord s pl w) := by
  unfold writeWord
  grind only [serves_setNum, serves_setWord, serves_touch, serves_dropWriteback]

theorem serves_writeMask {u s : State} (h : Serves u s) (pl : Place) (mask v : BitVec 256) : Serves u (writeMask s pl mask v).1 := by
  unfold writeMask
  grind only [serves_setNum, serves_setWord, serves_touch, serves_dropWriteback, serves_countCe, serves_countUe]

theorem serves_readSub {u s : State} (h : Serves u s) (pl : Place) (n : Nat) : Serves u (readSub s pl n).1 := by
  unfold readSub
  grind only [! serves_readWord]

theorem serves_writeSub {u s : State} (h : Serves u s) (pl : Place) (n v : Nat) : Serves u (writeSub s pl n v).1 := serves_writeMask h ..

theorem serves_atomApply {u s : State} (h : Serves u s) (pl : Place) (k : AtomKind) (v : W64) : Serves u (atomApply s pl k v).1 := by
  have hf (t : State) (ht : Serves u t) : Serves u t.takeFree.1 := ⟨ht.ctxs, ht.seqs⟩
  unfold atomApply
  grind only [! serves_readWord, serves_writeWord]

/-! ## The firmware's own accesses (R230, R317, R439) -/

theorem serves_serviceFault {u s : State} (h : Serves u s) (m : Nat) : Serves u (serviceFault s m) := ⟨h.ctxs, h.seqs⟩

theorem serves_svRead {u s : State} (h : Serves u s) (core : Nat) (pl : Place) (n : Nat) : Serves u (svRead s core pl n).1 := by
  unfold svRead
  grind only [! serves_readSub, serves_serviceFault]

theorem serves_svPut {u s : State} (h : Serves u s) (core : Nat) (pl : Place) (n v : Nat) : Serves u (svPut s core pl n v) := by
  unfold svPut
  grind only [! serves_writeSub, serves_serviceFault]

theorem serves_svAtom {u s : State} (h : Serves u s) (core : Nat) (pl : Place) (k : AtomKind) (v : W64) : Serves u (svAtom s core pl k v).1 := by
  unfold svAtom
  grind only [! serves_atomApply, serves_serviceFault]

theorem serves_poolAdd {u s : State} (h : Serves u s) (ctx o : Nat) (d : Int) : Serves u (poolAdd s ctx o d).1 := serves_svAtom h ..

theorem serves_poolAlloc {u s : State} (h : Serves u s) (ctx : Nat) : Serves u (poolAlloc s ctx).1 := by
  unfold poolAlloc
  grind only [! serves_poolAdd, ! serves_svAtom]

theorem serves_poolFree {u s : State} (h : Serves u s) (ctx e : Nat) : Serves u (poolFree s ctx e) := by
  unfold poolFree
  grind only [! serves_poolAdd, serves_svPut]

theorem serves_ptGet {u s : State} (h : Serves u s) (q : Nat) (p : Nat × Nat) : Serves u (ptGet s q p).1 := serves_svRead h ..

/-! ## Addresses of a context (R420 to R428, R461, R474) -/

theorem serves_readEntry {u s : State} (h : Serves u s) (ctx level idx a : Nat) : Serves u (readEntry s ctx level idx a).1 := by
  have hr := serves_readSub h (.hbm a) 8
  unfold readEntry
  dsimp only
  repeat' split
  all_goals first | exact h | exact hr | exact ⟨hr.ctxs, hr.seqs⟩

theorem serves_translate {u s : State} (h : Serves u s) (ctx va : Nat) (write exec : Bool) :
    Serves u (Machine.translate s ctx va write exec).1 := by
  unfold Machine.translate
  repeat' split
  all_goals grind only [! serves_readEntry]

theorem serves_peekWords (n : Nat) {u s : State} (h : Serves u s) (a : Nat) : Serves u (peekWords s a n).1 := by
  induction n generalizing s a with
  | zero => exact h
  | succ n ih => exact ih (serves_readWord h (.hbm a)) (a + 32)

theorem serves_rightsTable {u s : State} (h : Serves u s) (ctx : Nat) : Serves u (rightsTable s ctx).1 := by
  unfold rightsTable
  split
  · exact h
  · have hp := serves_peekWords 16 h (s.hdr.rightsBase + 512 * ctx)
    generalize peekWords s (s.hdr.rightsBase + 512 * ctx) 16 = r at hp ⊢
    exact ⟨hp.ctxs, hp.seqs⟩

theorem serves_groupEntry {u s : State} (h : Serves u s) (g : Nat) : Serves u (groupEntry s g).1 := by
  unfold groupEntry
  split
  · exact h
  · have hp := serves_peekWords 8 h (s.hdr.groupBase + 256 * g)
    generalize peekWords s (s.hdr.groupBase + 256 * g) 8 = r at hp ⊢
    exact ⟨hp.ctxs, hp.seqs⟩

theorem serves_groupCheck {u s : State} (h : Serves u s) (src group perm off n : Nat) : Serves u (groupCheck s src group perm off n).1 := by
  unfold groupCheck
  grind only [! serves_groupEntry]

theorem serves_bumpHdr {u s : State} (h : Serves u s) (i : Nat) : Serves u (bumpHdr s i) := ⟨h.ctxs, h.seqs⟩

theorem serves_resolveGlobal {u s : State} (h : Serves u s) (ctx a perm n : Nat) : Serves u (resolveGlobal s ctx a perm n).1 := by
  unfold resolveGlobal
  grind only [serves_bumpHdr, ! serves_rightsTable, ! serves_groupCheck]

theorem serves_ctxAddr {u s : State} (h : Serves u s) (ctx a perm n : Nat) (exec : Bool) : Serves u (ctxAddr s ctx a perm n exec).1 := by
  unfold ctxAddr globalAddr
  grind only [! serves_resolveGlobal, ! serves_translate]

theorem serves_sendReq {u s : State} (h : Serves u s) (dev group oclass op len : Nat) (addr operand : W64) (data : List Word288)
    (who : Requester) : Serves u (sendReq s dev group oclass op len addr operand data who) := ⟨h.ctxs, h.seqs⟩

/-! ## Copies of pages (R182, R183, R405) -/

theorem serves_pageWords (n : Nat) {u s : State} (h : Serves u s) (ctx va : Nat) : Serves u (pageWords s ctx va n).1 := by
  induction n generalizing s ctx va with
  | zero => exact h
  | succ n ih =>
    unfold pageWords
    grind only [! serves_ctxAddr, ! serves_readWord, serves_serviceFault]

theorem serves_codeCopy {u s : State} (h : Serves u s) (ctx : Nat) (ws : List (BitVec 256 × Bool)) : Serves u (codeCopy s ctx ws).1 := by
  have hg (k : Nat) (f : Grs → Grs) : Serves u (s.modGrs k f) := ⟨h.ctxs, h.seqs⟩
  unfold codeCopy countEnc
  grind only

theorem serves_codeBlocks (n : Nat) {u s : State} (h : Serves u s) (ctx : Nat) (ws : List (BitVec 256 × Bool)) :
    Serves u (codeBlocks s ctx ws n).1 := by
  induction n generalizing s ctx ws with
  | zero => exact h
  | succ n ih =>
    have hw (die k : Nat) : Serves u (weirCharge s die ctx k) := ⟨h.ctxs, h.seqs⟩
    unfold codeBlocks
    grind only [! serves_codeCopy]

theorem serves_putWords (xs : List Word288) {u s : State} (h : Serves u s) (core : Nat) (pl : Place) (n : Nat) :
    Serves u (putWords s core pl n xs) := by
  induction xs generalizing s core pl n with
  | nil => exact h
  | cons x xs ih =>
    unfold putWords
    grind only [! serves_writeMask, serves_serviceFault, serves_writeWord]

theorem serves_putBlock {u s : State} (h : Serves u s) (q : Nat) (tier2 : Bool) (block : Nat) (b : CopyBlk) :
    Serves u (putBlock s q tier2 block b) := by
  unfold putBlock
  grind only [serves_putWords, ! serves_ctxAddr, serves_sendReq, serves_serviceFault]

theorem serves_copyPoison {u s : State} (h : Serves u s) (ctx k : Nat) (bls : List (CopyBlk × Nat)) : Serves u (copyPoison s ctx k bls) := by
  unfold copyPoison
  grind only [serves_postEvent]

theorem serves_putCopy {u s : State} (h : Serves u s) (q k : Nat) (sp : Spill) (first va : Nat) : Serves u (putCopy s q k sp first va) := by
  unfold putCopy
  grind only [! serves_pageWords, ! serves_codeBlocks, serves_foldl, serves_putBlock, serves_copyPoison]

end Sys2Proof.Proofs
end

section
/-! Planning a step: its rows, its runs and their records (12, R188, R511 to R516). -/

namespace Sys2Proof.Proofs
open Sys2Proof Sys2Proof.Machine

/-! ## Rows (R511) -/

theorem chunkRows_rows (xs : List (Nat × SeqEnt)) (left : Nat) : ((chunkRows xs left).map SeqRow.rows).sum ≤ left := by
  induction xs generalizing left with
  | nil => exact Nat.zero_le _
  | cons x xs ih =>
    unfold chunkRows
    dsimp only
    split
    · exact Nat.zero_le _
    · have h := ih (left - min (x.2.adm.promptLen - x.2.done) left)
      rw [List.map_cons, List.sum_cons]
      dsimp only
      omega

theorem decodeRows_rows (xs : List (Nat × SeqEnt)) : ((xs.map (fun x => ({ seq := x.1, rows := 1 } : SeqRow))).map SeqRow.rows).sum = xs.length := by
  induction xs with
  | nil => rfl
  | cons x xs ih =>
    rw [List.map_cons, List.map_cons, List.sum_cons, ih, List.length_cons, Nat.add_comm]

theorem chooseRows_rows {s : State} {ctx : Nat} (v : Bool) (h : (s.ctx ctx).bind.prefillMin ≤ (s.ctx ctx).bind.stepRows) :
    ((chooseRows s ctx v).map SeqRow.rows).sum ≤ (s.ctx ctx).bind.stepRows := by
  unfold chooseRows
  dsimp only
  generalize (runnable s ctx v).filter (fun x => !x.2.decoding) = pre
  generalize ((runnable s ctx v).filter (fun x => x.2.decoding)).foldl (fun l x => insertServed x l) [] = dec
  have hcap : (if pre.isEmpty then (s.ctx ctx).bind.stepRows else (s.ctx ctx).bind.stepRows - (s.ctx ctx).bind.prefillMin) ≤
      (s.ctx ctx).bind.stepRows := by
    split <;> omega
  generalize (if pre.isEmpty then (s.ctx ctx).bind.stepRows else (s.ctx ctx).bind.stepRows - (s.ctx ctx).bind.prefillMin) = cap at hcap ⊢
  have hds : (dec.take cap).length ≤ (s.ctx ctx).bind.stepRows := (List.length_take_le cap dec).trans hcap
  have hch := chunkRows_rows pre ((s.ctx ctx).bind.stepRows - (dec.take cap).length)
  rw [List.map_append, List.sum_append, decodeRows_rows, List.length_map]
  omega

/-! ## Run records (R188) -/

theorem versionArgs_length (c : Ctx) (v : Bool) : (versionArgs c v).length = 6 := by
  unfold versionArgs
  simp

theorem runRecBytes_length (p : PlanRun) (ctx step : Nat) (v : Bool) (args : List W64) (h : args.length = 8) :
    (runRecBytes p ctx step v args).length = 128 := by
  have hargs : (args.flatMap (fun a => natToBytes a.toNat 8)).length = 64 := by
    simp [List.length_flatMap, natToBytes_length, h]
  unfold runRecBytes
  simp only [List.length_append, natToBytes_length, hargs]

/-- The record of run `p` of the step in flight, as the firmware queues it. R188, R516. -/
def stepRecord (c : Ctx) (ctx : Nat) (r : StepRun) (p : PlanRun) : List Byte :=
  runRecBytes p ctx r.step r.ver (BitVec.ofNat 64 c.stepVa :: BitVec.ofNat 64 r.step :: versionArgs c r.ver)

theorem stepRecord_length (c : Ctx) (ctx : Nat) (r : StepRun) (p : PlanRun) : (stepRecord c ctx r p).length = 128 :=
  runRecBytes_length p ctx r.step r.ver _ (by rw [List.length_cons, List.length_cons, versionArgs_length])

/-- The first run that is not yet queued is queued. R516. -/
def runSent (s : State) (ctx : Nat) (r : StepRun) (p : PlanRun) (ps : List PlanRun) : State :=
  (pushRecord s (s.gov (p.die % 4)).runqRing (stepRecord (s.ctx ctx) ctx r p)).modCtx ctx (fun c => { c with
    inFlight := some { r with
      unsent := ps
      live := r.live ++ [p] } })

theorem submitRuns_sends {s : State} {ctx n : Nat} {r : StepRun} {p : PlanRun} {ps : List PlanRun} (hr : (s.ctx ctx).inFlight = some r)
    (hu : r.unsent = p :: ps) (hroom : queueRoom s (p.die % 4) = true) : submitRuns s ctx (n + 1) = submitRuns (runSent s ctx r p ps) ctx n := by
  conv_lhs => unfold submitRuns
  dsimp only
  rw [hr]
  dsimp only
  rw [hu]
  dsimp only
  rw [if_pos hroom]
  rfl

theorem submitRuns_done {s : State} {ctx : Nat} {r : StepRun} (n : Nat) (hr : (s.ctx ctx).inFlight = some r) (hu : r.unsent = []) :
    submitRuns s ctx n = s := by
  cases n with
  | zero => rfl
  | succ n =>
    unfold submitRuns
    dsimp only
    rw [hr]
    dsimp only
    rw [hu]

theorem runSent_ctx (s : State) (ctx : Nat) (r : StepRun) (p : PlanRun) (ps : List PlanRun) :
    (runSent s ctx r p ps).ctx ctx = { s.ctx ctx with
      inFlight := some { r with
        unsent := ps
        live := r.live ++ [p] } } := by
  have h := wrote_pushRecord s (s.gov (p.die % 4)).runqRing (stepRecord (s.ctx ctx) ctx r p)
  unfold runSent
  rw [State.modCtx_ctx_same, ctx_congr h.ctxs]

theorem pushRecord_esq (s : State) (q : Nat) (bs : List Byte) : (pushRecord s q bs).hif.esq = s.hif.esq := by
  rw [wrote_pushRecord s q bs]

/-- State `t` holds the step `r` of `s`, of which some more runs may be queued, and the same cores and count of events. R516. -/
def SameStep (ctx : Nat) (r : StepRun) (s t : State) : Prop :=
  ∃ l u, l ++ u = r.live ++ r.unsent ∧ t.ctx ctx = { s.ctx ctx with
      inFlight := some { r with
        live := l
        unsent := u } } ∧
    t.millers = s.millers ∧ t.hif.esq = s.hif.esq

theorem SameStep.refl {ctx : Nat} {r : StepRun} {s : State} (hr : (s.ctx ctx).inFlight = some r) : SameStep ctx r s s :=
  ⟨r.live, r.unsent, rfl, by rw [← hr], rfl, rfl⟩

theorem runSent_millers (s : State) (ctx : Nat) (r : StepRun) (p : PlanRun) (ps : List PlanRun) :
    (runSent s ctx r p ps).millers = s.millers := by
  have hw := wrote_pushRecord s (s.gov (p.die % 4)).runqRing (stepRecord (s.ctx ctx) ctx r p)
  unfold runSent
  rw [State.modCtx_millers, hw.millers]

theorem runSent_esq (s : State) (ctx : Nat) (r : StepRun) (p : PlanRun) (ps : List PlanRun) : (runSent s ctx r p ps).hif.esq = s.hif.esq := by
  unfold runSent
  rw [State.modCtx_hif, pushRecord_esq]

theorem SameStep.of_sent {ctx : Nat} {r : StepRun} {p : PlanRun} {ps : List PlanRun} {s t : State} (hu : r.unsent = p :: ps)
    (h : SameStep ctx { r with
      unsent := ps
      live := r.live ++ [p] } (runSent s ctx r p ps) t) : SameStep ctx r s t := by
  obtain ⟨l, u, h1, h2, h3, h4⟩ := h
  rw [runSent_ctx] at h2
  rw [runSent_millers] at h3
  rw [runSent_esq] at h4
  have happ : l ++ u = r.live ++ r.unsent := by
    rw [h1, hu]
    exact List.append_assoc r.live [p] ps
  exact ⟨l, u, happ, h2, h3, h4⟩

theorem submitRuns_keeps (n : Nat) {s : State} {ctx : Nat} {r : StepRun} (hr : (s.ctx ctx).inFlight = some r) :
    SameStep ctx r s (submitRuns s ctx n) := by
  induction n generalizing s r with
  | zero => exact .refl hr
  | succ n ih =>
    cases hu : r.unsent with
    | nil =>
      rw [submitRuns_done _ hr hu]
      exact .refl hr
    | cons p ps =>
      by_cases hroom : queueRoom s (p.die % 4) = true
      · rw [submitRuns_sends hr hu hroom]
        exact .of_sent hu (ih (congrArg Ctx.inFlight (runSent_ctx s ctx r p ps)))
      · have hs : submitRuns s ctx (n + 1) = s := by
          unfold submitRuns
          dsimp only
          rw [hr]
          dsimp only
          rw [hu]
          exact if_neg hroom
        rw [hs]
        exact .refl hr

end Sys2Proof.Proofs
end

section
/-! A step that is planned, and one whose runs are queued (12, R180, R511 to R516). -/

namespace Sys2Proof.Proofs
open Sys2Proof Sys2Proof.Machine

theorem exec_planStep {s : State} {ctx : Nat} (v : Bool) (runs : List PlanRun) (sluices combine : List (Nat × Nat)) (f : Nat)
    (hb : (s.ctx ctx).bound = true) (hc : coreRuns s (s.ctx ctx).core = true) (hh : (s.ctx ctx).handTo = none) :
    exec (.planStep ctx v runs sluices combine f) s = execPlanStep ctx v runs sluices combine f s ∧
    ¬(!(s.ctx ctx).bound ∨ !coreRuns s (s.ctx ctx).core ∨ (s.ctx ctx).handTo.isSome) := by
  refine ⟨rfl, ?_⟩
  rw [hb, hc, hh]
  decide

theorem running_not_halted {s : State} {c : Nat} (h : coreRuns s c = true) : (s.miller c).run ≠ .halted := by
  unfold coreRuns at h
  intro hh
  rw [hh] at h
  exact absurd h (by decide)

/-- The last run of a step that is not yet queued is queued. R188, R516. -/
theorem planStep_submits {s : State} {ctx : Nat} (v : Bool) (runs : List PlanRun) (sluices combine : List (Nat × Nat)) (f : Nat)
    (hb : (s.ctx ctx).bound = true) (hc : coreRuns s (s.ctx ctx).core = true) (hh : (s.ctx ctx).handTo = none) {r : StepRun} {p : PlanRun}
    (hr : (s.ctx ctx).inFlight = some r) (hu : r.unsent = [p]) (hroom : queueRoom s (p.die % 4) = true) :
    exec (.planStep ctx v runs sluices combine f) s = .next (runSent s ctx r p []) := by
  obtain ⟨hexec, hgo⟩ := exec_planStep v runs sluices combine f hb hc hh
  have hsub : submitRuns s ctx r.unsent.length = runSent s ctx r p [] := by
    rw [hu]
    exact submitRuns_sends hr hu hroom
  have hm : ((submitRuns s ctx r.unsent.length).miller (s.ctx ctx).core).run ≠ .halted := by
    rw [hsub, miller_congr (runSent_millers ..)]
    exact running_not_halted hc
  rw [hexec]
  unfold execPlanStep
  dsimp only
  rw [if_neg hgo, hr]
  dsimp only
  rw [fwDo_runs hm, hsub]

theorem runSent_ring {s : State} {ctx : Nat} {r : StepRun} {p : PlanRun} (ps : List PlanRun) {pl : Place}
    (hroom : queueRoom s (p.die % 4) = true)
    (hpl : s.entryPlace (s.ring (s.gov (p.die % 4)).runqRing) (s.ring (s.gov (p.die % 4)).runqRing).c1.toNat = some pl)
    (hf : frameRetired s pl = false) :
    ((runSent s ctx r p ps).ring (s.gov (p.die % 4)).runqRing).c1 = (s.ring (s.gov (p.die % 4)).runqRing).c1 + 1 ∧
    (runSent s ctx r p ps).bytes pl.key 128 = stepRecord (s.ctx ctx) ctx r p := by
  have hk : (s.ring (s.gov (p.die % 4)).runqRing).kind = .internal := by
    unfold queueRoom at hroom
    dsimp only at hroom
    rw [Bool.and_eq_true, Bool.and_eq_true, beq_iff_eq] at hroom
    exact hroom.1.1
  have hlen := stepRecord_length (s.ctx ctx) ctx r p
  unfold runSent
  generalize stepRecord (s.ctx ctx) ctx r p = bs at hlen ⊢
  obtain ⟨hmem, -, hc1⟩ := pushRecord_internal hk hpl hf bs
  generalize (s.gov (p.die % 4)).runqRing = q at hc1 hmem ⊢
  generalize pushRecord s q bs = u at hc1 hmem ⊢
  have hbytes := bytes_setBytes s pl.key bs
  rw [hlen] at hbytes
  refine ⟨?_, ?_⟩
  · rw [ring_congr (State.modCtx_hif ..)]
    exact hc1
  · refine Eq.trans (bytes_eq_of_byte 128 (fun i _ => byte_congr ?_ _)) hbytes
    rw [State.modCtx_mem, hmem]

/-! ## A step's data -/

theorem enterPages_serves (ps : List (Nat × Nat)) {u s t : State} {q : Nat} (h : Serves u s) (ht : enterPages s q ps = some t) : Serves u t := by
  induction ps generalizing s with
  | nil =>
    rw [enterPages, Option.some.injEq] at ht
    rwa [← ht]
  | cons p ps ih =>
    have ha := serves_poolAlloc h (s.seqEnt q).ctx
    unfold enterPages at ht
    dsimp only at ht
    split at ht
    · next s1 e hal =>
      rw [hal] at ha
      exact ih (serves_svPut ha ..) ht
    · exact absurd ht (by simp)

theorem stepPages_ctxs (rs : List SeqRow) {s t : State} (h : stepPages s rs = some t) : t.ctxs = s.ctxs := by
  induction rs generalizing s with
  | nil =>
    rw [stepPages, Option.some.injEq] at h
    rw [h]
  | cons r rs ih =>
    unfold stepPages takePages at h
    obtain ⟨s1, htake, hrest⟩ := Option.bind_eq_some_iff.1 h
    obtain ⟨s2, henter, rfl⟩ := Option.map_eq_some_iff.1 htake
    rw [ih hrest, State.modSeqEnt_ctxs, (enterPages_serves _ (.refl s) henter).ctxs]

/-- A step of rows `rs` of version `v` with the runs of its plan, none of them queued yet. R516. -/
def Planned (r : StepRun) (v : Bool) (n : Nat) (rs : List SeqRow) (runs : List PlanRun) : Prop :=
  r.ver = v ∧ r.step = n ∧ r.live = [] ∧ r.unsent = runs ∧ r.nRows = (rs.map SeqRow.rows).sum

theorem rows_foldl (rs : List SeqRow) (n : Nat) : rs.foldl (fun n x => n + x.rows) n = n + (rs.map SeqRow.rows).sum := by
  induction rs generalizing n with
  | nil => rfl
  | cons r rs ih =>
    rw [List.foldl_cons, ih, List.map_cons, List.sum_cons, Nat.add_assoc]

theorem planStep_plans {s s2 s3 s4 : State} {ctx : Nat} {v : Bool} (runs : List PlanRun) (sluices combine : List (Nat × Nat)) (f : Nat)
    {rs0 rs : List SeqRow} (hfit : fitStep (resumeAll (moveRetired s) ctx 32768) ctx v 65536 = (s2, rs0))
    (hdrop : dropBad s2 ctx rs0 = (s3, rs)) (hne : rs ≠ []) (hpages : stepPages s3 rs = some s4) :
    ∃ (u : State) (r : StepRun), planStep s ctx v runs sluices combine f = submitRuns (u.modCtx ctx (fun c => { c with
        step := ((s4.ctx ctx).step + 1) % 2 ^ 32
        lastVer := v
        inFlight := some r })) ctx runs.length ∧ Planned r v ((s4.ctx ctx).step + 1) rs runs := by
  have hemp : ¬rs.isEmpty = true := by rwa [List.isEmpty_iff]
  unfold planStep
  dsimp only
  rw [hfit]
  dsimp only
  rw [hdrop]
  dsimp only
  rw [if_neg hemp, hpages]
  refine ⟨_, _, rfl, rfl, rfl, rfl, rfl, ?_⟩
  exact (rows_foldl rs 0).trans (Nat.zero_add _)

theorem exec_planStep_plans {s s2 s3 : State} {ctx : Nat} {v : Bool} (runs : List PlanRun) (sluices combine : List (Nat × Nat)) (f : Nat)
    (hb : (s.ctx ctx).bound = true) (hc : coreRuns s (s.ctx ctx).core = true) (hh : (s.ctx ctx).handTo = none)
    {rs0 rs : List SeqRow} (hr : (s.ctx ctx).inFlight = none) (hsettle : settle s ctx = s) (hmay : mayPlan s ctx v = true)
    (hfit : fitStep (resumeAll (moveRetired s) ctx 32768) ctx v 65536 = (s2, rs0)) (hdrop : dropBad s2 ctx rs0 = (s3, rs)) (hne : rs ≠ [])
    (hpages : (stepPages s3 rs).isSome = true) (hrun : ((planStep s ctx v runs sluices combine f).miller (s.ctx ctx).core).run ≠ .halted) :
    ∃ t r, exec (.planStep ctx v runs sluices combine f) s = .next t ∧ (t.ctx ctx).lastVer = v ∧
      (t.ctx ctx).step = ((s3.ctx ctx).step + 1) % 2 ^ 32 ∧ (t.ctx ctx).inFlight = some r ∧ r.ver = v ∧
      r.step = (s3.ctx ctx).step + 1 ∧ r.live ++ r.unsent = runs ∧ r.nRows = (rs.map SeqRow.rows).sum := by
  obtain ⟨hexec, hgo⟩ := exec_planStep v runs sluices combine f hb hc hh
  obtain ⟨s4, hs4⟩ := Option.isSome_iff_exists.1 hpages
  obtain ⟨u, r, hplan, hver, hstep, hlive, hunsent, hn⟩ := planStep_plans runs sluices combine f hfit hdrop hne hs4
  have h43 : s4.ctx ctx = s3.ctx ctx := ctx_congr (stepPages_ctxs rs hs4) ctx
  rw [h43] at hplan hstep
  have hw := State.modCtx_ctx_same u ctx (fun c => { c with
    step := ((s3.ctx ctx).step + 1) % 2 ^ 32
    lastVer := v
    inFlight := some r })
  generalize u.modCtx ctx (fun c => { c with
    step := ((s3.ctx ctx).step + 1) % 2 ^ 32
    lastVer := v
    inFlight := some r }) = w at hplan hw
  obtain ⟨l, us, happ, hctx, -, -⟩ := submitRuns_keeps runs.length (congrArg Ctx.inFlight hw)
  rw [hw] at hctx
  have hdo : exec (.planStep ctx v runs sluices combine f) s = .next (submitRuns w ctx runs.length) := by
    rw [hexec]
    unfold execPlanStep
    dsimp only
    rw [if_neg hgo, hr]
    dsimp only
    have hin : (if ((settle s ctx).ctx ctx).bound && mayPlan (settle s ctx) ctx v then planStep (settle s ctx) ctx v runs sluices combine f
        else settle s ctx) = planStep s ctx v runs sluices combine f := by
      rw [hsettle, hb, hmay]
      rfl
    unfold fwDo
    dsimp only
    rw [hin, if_neg hrun, hplan]
  generalize submitRuns w ctx runs.length = t at hctx hdo
  rw [hlive, hunsent, List.nil_append] at happ
  exact ⟨t, _, hdo, congrArg Ctx.lastVer hctx, congrArg Ctx.step hctx, congrArg Ctx.inFlight hctx, hver, hstep, happ, hn⟩

end Sys2Proof.Proofs
end

section
/-! Spills of paused sequences, and the end of a step (12, R510, R516; 04, R182; 05, R229). -/

namespace Sys2Proof.Proofs
open Sys2Proof Sys2Proof.Machine

/-! ## Spills (R182, R183) -/

theorem seqEnt_congr {s t : State} (h : t.seqs = s.seqs) (q : Nat) : t.seqEnt q = s.seqEnt q := by
  rw [State.seqEnt, State.seqEnt, h]

theorem exec_sequenceSpill {s : State} {ctx seq : Nat} (hh : (s.seqEnt seq).held = true) (hctx : (s.seqEnt seq).ctx = ctx)
    (hp : (s.seqEnt seq).pausing = true) (hf : (s.ctx ctx).inFlight = none) (hc : coreRuns s (s.ctx ctx).core = true) :
    exec (.sequenceSpill ctx seq) s = .next (fwDo s (s.ctx ctx).core (fun s => spillSeq s seq)) :=
  congrArg Host.Outcome.next (if_pos ⟨hh, hctx, hp, by rw [hf]; rfl, hc⟩)

theorem spillEntries_seqEnt (s : State) (q : Nat) (sp : Spill) : (spillEntries s q sp).seqEnt q = { s.seqEnt q with pausing := false } := by
  unfold spillEntries
  dsimp only
  rw [State.modSeqEnt_seqEnt_same]
  refine congrArg (fun x : SeqEnt => { x with pausing := false }) (seqEnt_congr (Serves.seqs (u := s) ?_) q)
  refine serves_foldl (.refl s) _ _ (fun t p ht => ?_)
  have h := serves_ptGet ht q p.1
  generalize ptGet t q p.1 = r at h ⊢
  exact serves_svPut (serves_poolFree h ..) ..

theorem spillRest_spilled (s : State) (q : Nat) (sp : Spill) : ((spillRest s q sp).seqEnt q).spilled = (s.seqEnt q).spilled := by
  unfold spillRest
  split
  · rfl
  · rw [spillEntries_seqEnt]

theorem spillCopies_spilled (s : State) (q k : Nat) (sp : Spill) : ((spillCopies s q k sp).seqEnt q).spilled = (s.seqEnt q).spilled := by
  have h : Serves (s.modSeqEnt q (fun y => { y with refused := false })) (spillCopies s q k sp) := by
    refine serves_foldl (.refl _) _ _ (fun t p ht => ?_)
    have h := serves_ptGet ht q p.1
    generalize ptGet t q p.1 = r at h ⊢
    exact serves_putCopy h ..
  rw [seqEnt_congr h.seqs, State.modSeqEnt_seqEnt_same]

theorem spillSeq_acknowledged {s : State} {q : Nat} {sp : Spill} (hsp : (s.seqEnt q).spilled = some sp) (hr : (s.seqEnt q).refused = false)
    (hw : spillWriting s q = false) : spillSeq s q = spillEntries s q sp := by
  have hrest : spillRest s q sp = spillEntries s q sp := if_neg (by rw [hw]; exact Bool.false_ne_true)
  unfold spillSeq
  dsimp only
  rw [hsp]
  cases copySlot s (s.seqEnt q).ctx with
  | none =>
    dsimp only
    rw [hr, hrest]
    rfl
  | some k =>
    dsimp only
    rw [hr, hrest]
    rfl

theorem spillSeq_begins {s : State} {ctx q : Nat} {sp : Spill} (hctx : (s.seqEnt q).ctx = ctx) (hsp : (s.seqEnt q).spilled = none)
    (hk : (copySlot s ctx).isSome = true) (hpl : spillPlaces (s.ctx ctx) ((s.ctx ctx).rows * (s.seqEnt q).pages) = some sp) :
    ((spillSeq s q).seqEnt q).spilled = some sp := by
  obtain ⟨k, hk⟩ := Option.isSome_iff_exists.1 hk
  unfold spillSeq
  dsimp only
  rw [hctx, hsp, hk]
  dsimp only
  rw [hpl]
  dsimp only
  rw [spillRest_spilled, spillCopies_spilled, State.modSeqEnt_seqEnt_same]

theorem spillSeq_in_place {s : State} {ctx q : Nat} (hctx : (s.seqEnt q).ctx = ctx) (hsp : (s.seqEnt q).spilled = none)
    (hk : (copySlot s ctx).isSome = true) (hpl : spillPlaces (s.ctx ctx) ((s.ctx ctx).rows * (s.seqEnt q).pages) = none) :
    spillSeq s q = s.modSeqEnt q (fun y => { y with pausing := false }) := by
  obtain ⟨k, hk⟩ := Option.isSome_iff_exists.1 hk
  unfold spillSeq
  dsimp only
  rw [hctx, hsp, hk]
  dsimp only
  rw [hpl]

theorem fwDo_running {s : State} {core : Nat} (f : State → State) (h : ((fwDo s core f).miller core).run ≠ .halted) : fwDo s core f = f s := by
  refine fwDo_runs (fun hf => h ?_)
  have hd : fwDo s core f = serviceFault (keepCounts s (f s)) core := if_pos hf
  rw [hd, serviceFault, State.modMiller_miller_same]

/-- What a spill does with a sequence that is being paused. -/
theorem sequenceSpill_spills {s : State} {ctx seq : Nat} (hh : (s.seqEnt seq).held = true) (hctx : (s.seqEnt seq).ctx = ctx)
    (hp : (s.seqEnt seq).pausing = true) (hf : (s.ctx ctx).inFlight = none) (hc : coreRuns s (s.ctx ctx).core = true) :
    (∀ sp, (s.seqEnt seq).spilled = some sp → (s.seqEnt seq).refused = false → spillWriting s seq = false →
      ((spillEntries s seq sp).miller (s.ctx ctx).core).run ≠ .halted →
      ∃ t, exec (.sequenceSpill ctx seq) s = .next t ∧ (t.seqEnt seq).pausing = false ∧ (t.seqEnt seq).spilled = some sp) ∧
    (∀ sp, (s.seqEnt seq).spilled = none → (copySlot s ctx).isSome = true →
      spillPlaces (s.ctx ctx) ((s.ctx ctx).rows * (s.seqEnt seq).pages) = some sp →
      ∃ t, exec (.sequenceSpill ctx seq) s = .next t ∧ ((t.miller (s.ctx ctx).core).run ≠ .halted → (t.seqEnt seq).spilled = some sp)) ∧
    ((s.seqEnt seq).spilled = none → (copySlot s ctx).isSome = true →
      spillPlaces (s.ctx ctx) ((s.ctx ctx).rows * (s.seqEnt seq).pages) = none →
      exec (.sequenceSpill ctx seq) s = .next (s.modSeqEnt seq (fun y => { y with pausing := false }))) := by
  have hexec := exec_sequenceSpill hh hctx hp hf hc
  refine ⟨fun sp hsp hr hw hrun => ?_, fun sp hsp hk hpl => ?_, fun hsp hk hpl => ?_⟩
  · have hseq := spillSeq_acknowledged hsp hr hw
    have hdo : fwDo s (s.ctx ctx).core (fun s => spillSeq s seq) = spillEntries s seq sp := by
      rw [← hseq] at hrun ⊢
      exact fwDo_runs hrun
    refine ⟨_, hexec.trans (congrArg _ hdo), ?_, ?_⟩
    · rw [spillEntries_seqEnt]
    · rw [spillEntries_seqEnt]
      exact hsp
  · refine ⟨_, hexec, fun hrun => ?_⟩
    rw [fwDo_running _ hrun]
    exact spillSeq_begins hctx hsp hk hpl
  · have hseq := spillSeq_in_place hctx hsp hk hpl
    rw [hexec, fwDo_runs, hseq]
    rw [hseq, miller_congr (State.modSeqEnt_millers ..)]
    exact running_not_halted hc

/-! ## The ends of runs (R229, R231) -/

theorem Wrote.esq {s t : State} (h : Wrote s t) : t.hif.esq = s.hif.esq := by rw [h]

theorem Wrote.govs {s t : State} (h : Wrote s t) : t.govs = s.govs := by rw [h]

theorem gov_congr {s t : State} (h : t.govs = s.govs) (d : Nat) : t.gov d = s.gov d := by rw [State.gov, State.gov, h]

/-- The completion of the only run that has ended is taken from the Governor. -/
theorem takeOutcome_one {s : State} {ctx : Nat} {p : PlanRun} {o : RunOutcome} (ho : (s.gov (p.die % 4)).outcomes = [o])
    (hoc : o.ctx = ctx) (hos : o.seqno = p.seqno) :
    ∃ u, takeOutcome s ctx p = (u, some o) ∧ Serves s u ∧ u.millers = s.millers ∧ u.hif.esq = s.hif.esq ∧
      (u.gov (p.die % 4)).outcomes = [] := by
  have hmine : (o.ctx == ctx && o.seqno == p.seqno) = true := by rw [hoc, hos, beq_self_eq_true, beq_self_eq_true]; rfl
  obtain ⟨w, hw⟩ : ∃ w, w = s.modGov (p.die % 4) (fun g => { g with
      outcomes := dropFirst (fun o => o.ctx == ctx && o.seqno == p.seqno) g.outcomes }) := ⟨_, rfl⟩
  have hwout : (w.gov (p.die % 4)).outcomes = [] := by
    rw [hw, State.modGov_gov, if_pos rfl, ho]
    exact if_pos hmine
  have hwserves : Serves s w := by rw [hw]; exact ⟨rfl, rfl⟩
  have hwmillers : w.millers = s.millers := by rw [hw]; rfl
  have hwhif : w.hif = s.hif := by rw [hw]; rfl
  have hpop : Wrote w (popHead w p.cplRing) := wrote_popHead ..
  have hfind : [o].find? (fun o => o.ctx == ctx && o.seqno == p.seqno) = some o := List.find?_cons_of_pos hmine
  have htake : takeOutcome s ctx p =
      (if (s.ring p.cplRing).kind = .internal ∧ 0 < (s.ring p.cplRing).count then popHead w p.cplRing else w, some o) := by
    unfold takeOutcome
    dsimp only
    rw [ho, hfind, hw]
  rw [htake]
  split
  · refine ⟨_, rfl, hwserves.trans ⟨hpop.ctxs, hpop.seqs⟩, hpop.millers.trans hwmillers, hpop.esq.trans (congrArg Hif.esq hwhif), ?_⟩
    rw [gov_congr hpop.govs]
    exact hwout
  · exact ⟨w, rfl, hwserves, hwmillers, congrArg Hif.esq hwhif, hwout⟩

/-- The firmware has taken account of the end of the step's only run. -/
def outcomeIn (s : State) (ctx : Nat) (r : StepRun) (o : RunOutcome) : State :=
  s.modCtx ctx (fun c => { c with
    inFlight := some { r with
      live := []
      faulted := if o.fault ≠ .none then some (o.fault, o.cls, o.seqno) else none } })

theorem collect_one {s : State} {ctx : Nat} {r : StepRun} {p : PlanRun} {o : RunOutcome} (hr : (s.ctx ctx).inFlight = some r)
    (hlive : r.live = [p]) (hflt : r.faulted = none) (ho : (s.gov (p.die % 4)).outcomes = [o]) (hoc : o.ctx = ctx)
    (hos : o.seqno = p.seqno) :
    ∃ u, collect s ctx = outcomeIn u ctx r o ∧ Serves s u ∧ u.millers = s.millers ∧ u.hif.esq = s.hif.esq ∧
      (u.gov (p.die % 4)).outcomes = [] := by
  obtain ⟨u, htake, hu⟩ := takeOutcome_one ho hoc hos
  refine ⟨u, ?_, hu⟩
  unfold collect outcomeIn
  rw [hr]
  dsimp only
  rw [hlive, List.foldl_cons, List.foldl_nil]
  dsimp only
  rw [htake, hflt]
  simp only [Option.isNone_none, true_and]

/-- The step whose only run has ended is finished. -/
theorem exec_stepSample_one {s : State} {ctx : Nat} {r : StepRun} {p : PlanRun} {o : RunOutcome} (hb : (s.ctx ctx).bound = true)
    (hc : coreRuns s (s.ctx ctx).core = true) (hr : (s.ctx ctx).inFlight = some r) (hlive : r.live = [p]) (hun : r.unsent = [])
    (hflt : r.faulted = none) (ho : (s.gov (p.die % 4)).outcomes = [o]) (hoc : o.ctx = ctx) (hos : o.seqno = p.seqno) :
    ∃ u, Serves s u ∧ u.millers = s.millers ∧ u.hif.esq = s.hif.esq ∧ (u.gov (p.die % 4)).outcomes = [] ∧
      exec (.stepSample ctx) s = .next (fwDo s (s.ctx ctx).core (fun _ => finishStep (outcomeIn u ctx r o) ctx { r with
        live := []
        faulted := if o.fault ≠ .none then some (o.fault, o.cls, o.seqno) else none })) := by
  obtain ⟨u, hcollect, hserves, hm, he, hout⟩ := collect_one hr hlive hflt ho hoc hos
  refine ⟨u, hserves, hm, he, hout, ?_⟩
  have hgo : ¬(!(s.ctx ctx).bound ∨ (s.ctx ctx).inFlight.isNone ∨
      !(coreRuns s (s.ctx ctx).core ∨ (s.miller (s.ctx ctx).core).run = .handingOver)) := by
    rw [hb, hr, hc]
    simp
  have hin : ((outcomeIn u ctx r o).ctx ctx).inFlight = some { r with
      live := []
      faulted := if o.fault ≠ .none then some (o.fault, o.cls, o.seqno) else none } := by
    rw [outcomeIn, State.modCtx_ctx_same]
  change execStepSample ctx s = _
  unfold execStepSample
  dsimp only
  rw [if_neg hgo]
  refine congrArg Host.Outcome.next ?_
  unfold fwDo
  dsimp only
  rw [hcollect]
  generalize outcomeIn u ctx r o = w at hin
  rw [hin]
  dsimp only
  simp only [hun, List.isEmpty_nil, Bool.and_self, Bool.not_true, Bool.false_eq_true, and_false, if_false, hin, if_true]

/-! ## A step that ends without a fault (R512, R516) -/

/-- A context that has nothing left to do at a boundary but to drop the step and its CANCELs. -/
structure Calm (s : State) (ctx : Nat) : Prop where
  bound : (s.ctx ctx).bound = true
  unbinding : (s.ctx ctx).unbinding = none
  cancels : (s.ctx ctx).cancels = []
  handTo : (s.ctx ctx).handTo = none
  spare : ((s.ctx ctx).ver (s.ctx ctx).spare).st = .empty

theorem settle_calm {s : State} {ctx : Nat} (h : Calm s ctx) (hf : (s.ctx ctx).inFlight = none) :
    settle s ctx = s.modCtx ctx (fun c => { c with cancels := [] }) := by
  have hgo : ¬(!(s.ctx ctx).bound ∨ (s.ctx ctx).inFlight.isSome) := by
    rw [h.bound, hf]
    decide
  have hctx := State.modCtx_ctx_same s ctx (fun c => { c with cancels := [] })
  unfold settle
  dsimp only
  rw [if_neg hgo, h.unbinding]
  dsimp only
  rw [applyCancels_none h.cancels]
  generalize s.modCtx ctx (fun c => { c with cancels := [] }) = t at hctx
  have hst : ((t.ctx ctx).ver (t.ctx ctx).spare).st = .empty := by
    rw [hctx]
    exact h.spare
  have hmay : ¬mayActivate ((t.ctx ctx).ver (t.ctx ctx).spare) = true := by
    unfold mayActivate
    rw [hst]
    exact Bool.false_ne_true
  unfold settleVer
  dsimp only
  rw [if_neg (by rw [hst]; exact fun hh => absurd hh.1 (by decide)), if_neg hmay]

theorem endStep_calm {s : State} {ctx : Nat} (h : Calm s ctx) :
    (endStep s ctx).seqs = s.seqs ∧ (endStep s ctx).govs = s.govs ∧ (endStep s ctx).millers = s.millers ∧
      ((endStep s ctx).ctx ctx).inFlight = none := by
  obtain ⟨u, hu⟩ : ∃ u, u = s.modCtx ctx (fun c => { c with inFlight := none }) := ⟨_, rfl⟩
  have hctx : u.ctx ctx = { s.ctx ctx with inFlight := none } := by rw [hu, State.modCtx_ctx_same]
  have hcalm : Calm u ctx := by
    constructor <;> rw [hctx]
    exacts [h.bound, h.unbinding, h.cancels, h.handTo, h.spare]
  have hin : (u.ctx ctx).inFlight = none := by rw [hctx]
  have hhand : handContext u ctx = u := by
    unfold handContext
    rw [hcalm.handTo]
  have hend : endStep s ctx = u.modCtx ctx (fun c => { c with cancels := [] }) := by
    unfold endStep
    rw [← hu, hhand, settle_calm hcalm hin]
  rw [hend, State.modCtx_ctx_same]
  refine ⟨?_, ?_, ?_, hin⟩
  · rw [State.modCtx_seqs, hu, State.modCtx_seqs]
  · rw [State.modCtx_govs, hu, State.modCtx_govs]
  · rw [State.modCtx_millers, hu, State.modCtx_millers]

theorem endEntry_rows {s : State} {ctx f : Nat} {e : StepEnt} (hs : e.sample = none) (hh : (s.seqEnt e.seq).held = true)
    (he : (s.seqEnt e.seq).ended = false) (hctx : (s.seqEnt e.seq).ctx = ctx) :
    endEntry s ctx f e = s.modSeqEnt e.seq (fun y => { y with
      done := y.done + e.rows
      decoding := y.decoding || e.sample.isSome }) := by
  have hgo : ¬(!(s.seqEnt e.seq).held ∨ (s.seqEnt e.seq).ended ∨ (s.seqEnt e.seq).ctx ≠ ctx) := by
    rw [hh, he, hctx]
    simp
  unfold endEntry
  dsimp only
  rw [if_neg hgo, hs]

theorem silenced_calm {s : State} {ctx : Nat} (h : (s.ctx ctx).unbinding = none) : ¬silenced s ctx = true := by
  unfold silenced
  rw [h]
  decide

theorem finishStep_rows {s : State} {ctx : Nat} {r : StepRun} {e : StepEnt} (h : Calm s ctx) (hf : r.faulted = none) (hr : r.entries = [e])
    (hs : e.sample = none) (hh : (s.seqEnt e.seq).held = true) (he : (s.seqEnt e.seq).ended = false) (hctx : (s.seqEnt e.seq).ctx = ctx) :
    let t := finishStep s ctx r
    t.govs = s.govs ∧ t.millers = s.millers ∧ (t.ctx ctx).inFlight = none ∧
      (t.seqEnt e.seq).done = (s.seqEnt e.seq).done + e.rows ∧ (t.seqEnt e.seq).tokens = (s.seqEnt e.seq).tokens := by
  obtain ⟨u, hu⟩ : ∃ u, u = s.modCtx ctx (fun c => { c with cancels := [] }) := ⟨_, rfl⟩
  have hux : u.ctx ctx = { s.ctx ctx with cancels := [] } := by rw [hu, State.modCtx_ctx_same]
  have huseq : u.seqEnt e.seq = s.seqEnt e.seq := seqEnt_congr (by rw [hu, State.modCtx_seqs]) _
  obtain ⟨w, hw⟩ : ∃ w, w = u.modSeqEnt e.seq (fun y => { y with
      done := y.done + e.rows
      decoding := y.decoding || e.sample.isSome }) := ⟨_, rfl⟩
  have hwctxs : w.ctxs = u.ctxs := by rw [hw, State.modSeqEnt_ctxs]
  have hwx : w.ctx ctx = { s.ctx ctx with cancels := [] } := (ctx_congr hwctxs ctx).trans hux
  have hwseq : w.seqEnt e.seq = { s.seqEnt e.seq with
      done := (s.seqEnt e.seq).done + e.rows
      decoding := (s.seqEnt e.seq).decoding || e.sample.isSome } := by rw [hw, State.modSeqEnt_seqEnt_same, huseq]
  have hwgovs : w.govs = s.govs := by rw [hw, State.modSeqEnt_govs, hu, State.modCtx_govs]
  have hwmillers : w.millers = s.millers := by rw [hw, State.modSeqEnt_millers, hu, State.modCtx_millers]
  have hcalm : Calm w ctx := by
    constructor <;> rw [hwx]
    exacts [h.bound, h.unbinding, h.handTo, h.spare]
  have hend : finishStep s ctx r = endStep w ctx := by
    unfold finishStep
    rw [if_neg (silenced_calm h.unbinding), hf]
    dsimp only
    rw [hr, applyCancels_none h.cancels, ← hu, List.foldl_cons, List.foldl_nil,
      endEntry_rows hs (by rw [huseq]; exact hh) (by rw [huseq]; exact he) (by rw [huseq]; exact hctx), ← hw]
  obtain ⟨h1, h2, h3, h4⟩ := endStep_calm hcalm
  intro t
  have ht : t = endStep w ctx := hend
  rw [ht]
  refine ⟨h2.trans hwgovs, h3.trans hwmillers, h4, ?_, ?_⟩
  · rw [seqEnt_congr h1, hwseq]
  · rw [seqEnt_congr h1, hwseq]

/-! ## The retry of a step (R229) -/

theorem finishStep_retries {s : State} {ctx : Nat} {r : StepRun} {p : PlanRun} {e : StepEnt} {f : Flt} {cls n : Nat}
    (hs : silenced s ctx = false) (hf : r.faulted = some (f, cls, n)) (hr : r.entries = [e])
    (hcls : retryClass cls = true) (hfirst : r.retried = false) (hsl : r.sluices = []) (hco : r.combine = []) (hruns : r.runs = [p]) :
    let t := finishStep s ctx r
    t.millers = s.millers ∧ t.hif.esq = s.hif.esq + 1 ∧
      ∃ r', (t.ctx ctx).inFlight = some r' ∧ r'.retried = true ∧ r'.faulted = none ∧ r'.live ++ r'.unsent = [p] := by
  obtain ⟨u, hu⟩ : ∃ u, u = postEvent s (some ctx)
    { code := 0x11, sev := 2, srcKind := 7, srcDie := (s.ctx ctx).core / 4, srcIndex := (s.ctx ctx).core, d0 := f.code, d1 := n,
      d2 := r.step } := ⟨_, rfl⟩
  have hue : u.hif.esq = s.hif.esq + 1 := by rw [hu, postEvent_esq]
  have hum : u.millers = s.millers := by rw [hu, postEvent_frame]
  obtain ⟨w, hw⟩ : ∃ w, w = u.modCtx ctx (fun c => { c with
    inFlight := some { r with
      retried := true
      faulted := none
      unsent := r.runs
      live := [] } }) := ⟨_, rfl⟩
  have hwin : (w.ctx ctx).inFlight = some { r with
      retried := true
      faulted := none
      unsent := r.runs
      live := [] } := by rw [hw, State.modCtx_ctx_same]
  have hsame : resetSluices (zeroCombine u ctx r.combine) ctx r.sluices = u := by
    rw [hsl, hco]
    rfl
  have hend : finishStep s ctx r = submitRuns w ctx r.runs.length := by
    unfold finishStep
    rw [if_neg (by rw [hs]; exact Bool.false_ne_true), hf]
    dsimp only
    rw [if_neg (by rw [hr]; exact Bool.false_ne_true), if_pos ⟨hcls, by rw [hfirst]; rfl⟩, ← hu, hsame, ← hw]
  obtain ⟨l, us, happ, hctx, hm, he⟩ := submitRuns_keeps r.runs.length hwin
  intro t
  have ht : t = submitRuns w ctx r.runs.length := hend
  rw [ht]
  generalize submitRuns w ctx r.runs.length = x at hctx hm he
  refine ⟨hm.trans ?_, he.trans ?_, _, congrArg Ctx.inFlight hctx, rfl, rfl, ?_⟩
  · rw [hw, State.modCtx_millers, hum]
  · rw [hw, State.modCtx_hif, hue]
  · rw [← hruns]
    exact happ

end Sys2Proof.Proofs
end

section
/-! Steps of the serving loop, and hand-over between cores (12, R510 to R516, R529, R530). -/

namespace Sys2Proof.Proofs
open Sys2Proof Sys2Proof.Machine

/-! ## The end of a step of one run -/

theorem outcomeIn_ctx {s u : State} {ctx : Nat} (h : Serves s u) (r : StepRun) (o : RunOutcome) :
    (outcomeIn u ctx r o).ctx ctx = { s.ctx ctx with
      inFlight := some { r with
        live := []
        faulted := if o.fault ≠ .none then some (o.fault, o.cls, o.seqno) else none } } := by
  rw [outcomeIn, State.modCtx_ctx_same, ctx_congr h.ctxs]

theorem outcomeIn_seqEnt {s u : State} (h : Serves s u) (ctx : Nat) (r : StepRun) (o : RunOutcome) (q : Nat) :
    (outcomeIn u ctx r o).seqEnt q = s.seqEnt q := by
  refine seqEnt_congr ?_ q
  rw [outcomeIn, State.modCtx_seqs, h.seqs]

/-- A step whose run has ended without a fault ends. -/
theorem stepSample_ends {s : State} {ctx : Nat} {r : StepRun} {p : PlanRun} {o : RunOutcome} {e : StepEnt} (hb : (s.ctx ctx).bound = true)
    (hc : coreRuns s (s.ctx ctx).core = true) (hr : (s.ctx ctx).inFlight = some r) (hlive : r.live = [p]) (hun : r.unsent = [])
    (hflt : r.faulted = none) (hent : r.entries = [e]) (ho : (s.gov (p.die % 4)).outcomes = [o]) (hoc : o.ctx = ctx) (hos : o.seqno = p.seqno)
    (hof : o.fault = .none) (hs : e.sample = none) (hub : (s.ctx ctx).unbinding = none) (hca : (s.ctx ctx).cancels = [])
    (hha : (s.ctx ctx).handTo = none) (hsp : ((s.ctx ctx).ver (s.ctx ctx).spare).st = .empty) (hh : (s.seqEnt e.seq).held = true)
    (he : (s.seqEnt e.seq).ended = false) (hctx : (s.seqEnt e.seq).ctx = ctx) :
    ∃ t, exec (.stepSample ctx) s = .next t ∧ (t.ctx ctx).inFlight = none ∧ (t.gov (p.die % 4)).outcomes = [] ∧
      (t.seqEnt e.seq).done = (s.seqEnt e.seq).done + e.rows ∧ (t.seqEnt e.seq).tokens = (s.seqEnt e.seq).tokens := by
  obtain ⟨u, hserves, hm, -, hout, hexec⟩ := exec_stepSample_one hb hc hr hlive hun hflt ho hoc hos
  have hwx := outcomeIn_ctx (ctx := ctx) hserves r o
  have hwseq := outcomeIn_seqEnt hserves ctx r o e.seq
  have hwgovs : (outcomeIn u ctx r o).govs = u.govs := State.modCtx_govs ..
  have hwm : (outcomeIn u ctx r o).millers = s.millers := (State.modCtx_millers ..).trans hm
  generalize outcomeIn u ctx r o = w at hwx hwseq hwgovs hwm hexec
  have hcalm : Calm w ctx := by
    constructor <;> rw [hwx]
    exacts [hb, hub, hca, hha, hsp]
  have hnone : (if o.fault ≠ .none then some (o.fault, o.cls, o.seqno) else none) = none := if_neg (by rw [hof]; simp)
  rw [hnone] at hexec
  obtain ⟨h1, h2, h3, h4, h5⟩ := finishStep_rows (r := { r with
    live := []
    faulted := none }) hcalm rfl hent hs (by rw [hwseq]; exact hh) (by rw [hwseq]; exact he) (by rw [hwseq]; exact hctx)
  generalize finishStep w ctx { r with
    live := []
    faulted := none } = t at h1 h2 h3 h4 h5 hexec
  rw [fwDo_runs (by rw [miller_congr (h2.trans hwm)]; exact running_not_halted hc)] at hexec
  refine ⟨t, hexec, h3, ?_, ?_, ?_⟩
  · rw [gov_congr (h1.trans hwgovs)]
    exact hout
  · rw [h4, hwseq]
  · rw [h5, hwseq]

/-- A step whose run has faulted is tried once more. -/
theorem stepSample_retries {s : State} {ctx : Nat} {r : StepRun} {p : PlanRun} {o : RunOutcome} {e : StepEnt} (hb : (s.ctx ctx).bound = true)
    (hc : coreRuns s (s.ctx ctx).core = true) (hr : (s.ctx ctx).inFlight = some r) (hlive : r.live = [p]) (hun : r.unsent = [])
    (hflt : r.faulted = none) (hent : r.entries = [e]) (ho : (s.gov (p.die % 4)).outcomes = [o]) (hoc : o.ctx = ctx) (hos : o.seqno = p.seqno)
    (hof : o.fault ≠ .none) (hsil : silenced s ctx = false) (hcls : retryClass o.cls = true) (hfirst : r.retried = false)
    (hsl : r.sluices = []) (hco : r.combine = []) (hruns : r.runs = [p]) :
    ∃ t r', exec (.stepSample ctx) s = .next t ∧ (t.ctx ctx).inFlight = some r' ∧ r'.retried = true ∧ r'.faulted = none ∧
      r'.live ++ r'.unsent = [p] ∧ t.hif.esq = s.hif.esq + 1 := by
  obtain ⟨u, hserves, hm, hesq, -, hexec⟩ := exec_stepSample_one hb hc hr hlive hun hflt ho hoc hos
  have hwx := outcomeIn_ctx (ctx := ctx) hserves r o
  have hwm : (outcomeIn u ctx r o).millers = s.millers := (State.modCtx_millers ..).trans hm
  have hwe : (outcomeIn u ctx r o).hif.esq = s.hif.esq := (congrArg Hif.esq (State.modCtx_hif ..)).trans hesq
  generalize outcomeIn u ctx r o = w at hwx hwm hwe hexec
  have hwsil : silenced w ctx = false := by
    unfold silenced at hsil ⊢
    rw [hwx]
    exact hsil
  rw [if_pos hof] at hexec
  obtain ⟨h1, h2, r', h3, h4, h5, h6⟩ := finishStep_retries (r := { r with
    live := []
    faulted := some (o.fault, o.cls, o.seqno) }) hwsil rfl hent hcls hfirst hsl hco hruns
  generalize finishStep w ctx { r with
    live := []
    faulted := some (o.fault, o.cls, o.seqno) } = t at h1 h2 h3 hexec
  rw [fwDo_runs (by rw [miller_congr (h1.trans hwm)]; exact running_not_halted hc)] at hexec
  exact ⟨t, r', hexec, h3, h4, h5, h6, h2.trans (congrArg (· + 1) hwe)⟩

/-! ## Cores (R529, R530) -/

theorem pickToken_first {a : AdmitRec} (pos : Nat) (e : Nat × W32) (es : List (Nat × W32)) (h : (f32 a.temp).isZero = true) :
    pickToken a pos (e :: es) = e.1 := by
  unfold pickToken
  dsimp only
  rw [if_pos h, nth_cons_zero]

/-- A context is handed over by a core that stays: at once between steps, else at the end of the step in flight. -/
theorem coreHandover_hands {s : State} {c ctx dest : Nat} (hc : c < 16) (hd : dest < 16) (hne : c ≠ dest) (hrun : coreRuns s dest = true)
    (hl : leaving s c = false) (hb : (s.ctx ctx).bound = true) (hcore : (s.ctx ctx).core = c) :
    ((s.ctx ctx).inFlight = none → exec (.coreHandover c ctx dest) s = .next (s.modCtx ctx (fun k => { k with core := dest }))) ∧
    ((s.ctx ctx).inFlight.isSome = true →
      exec (.coreHandover c ctx dest) s = .next (s.modCtx ctx (fun k => { k with handTo := some dest }))) := by
  have hgo : ¬(16 ≤ c ∨ 16 ≤ dest ∨ c = dest ∨ !coreRuns s dest) := by
    rw [hrun]
    simp
    omega
  have hexec (t : State) (ht : (if !(s.ctx ctx).bound ∨ (s.ctx ctx).core ≠ c then s
        else if (s.ctx ctx).inFlight.isSome then s.modCtx ctx (fun k => { k with handTo := some dest })
        else s.modCtx ctx (fun k => { k with core := dest })) = t) : exec (.coreHandover c ctx dest) s = .next t := by
    change execCoreHandover c ctx dest s = _
    unfold execCoreHandover
    dsimp only
    rw [if_neg hgo, hl]
    simp only [Bool.false_eq_true, false_and, if_false]
    rw [ht]
  have hmine : ¬(!(s.ctx ctx).bound ∨ (s.ctx ctx).core ≠ c) := by
    rw [hb, hcore]
    simp
  refine ⟨fun h => hexec _ ?_, fun h => hexec _ ?_⟩
  · rw [if_neg hmine, if_neg (by rw [h]; decide)]
  · rw [if_neg hmine, if_pos h]

theorem serverOf_foldl (rs : List Nat) (s : State) (d r : Nat) (h : r ∈ rs ∨ (s.ring r).server = some d) :
    ((rs.foldl (fun (s : State) r => s.modRing r (fun g => { g with server := some d })) s).ring r).server = some d := by
  induction rs generalizing s with
  | nil => exact h.resolve_left (by simp)
  | cons q rs ih =>
    refine ih _ ?_
    by_cases hrq : r = q
    · refine .inr ?_
      rw [hrq, State.modRing_ring_same]
    · refine h.imp (fun hm => (List.mem_cons.1 hm).resolve_left hrq) (fun hs => ?_)
      rw [State.modRing_ring, if_neg hrq]
      exact hs

/-- The rings of a core go to another, and nothing else of the serving loop changes. -/
theorem moveRings_moves (s : State) (c d : Nat) :
    (∀ r ∈ coreRings s c, ((moveRings s c d).ring r).server = some d) ∧ (moveRings s c d).ctxs = s.ctxs := by
  obtain ⟨u, hu⟩ : ∃ u, u = (coreRings s c).foldl (fun (s : State) r => s.modRing r (fun g => { g with server := some d })) s := ⟨_, rfl⟩
  have hctxs : u.ctxs = s.ctxs := by
    rw [hu]
    exact foldl_frame (fun s t => t.ctxs = s.ctxs) (fun _ => rfl) (fun _ _ _ h h' => h'.trans h)
      (fun (s : State) r => s.modRing r (fun g => { g with server := some d })) _ (fun _ _ => rfl) s
  have hslots (ks : List Nat) (v : State) : let t := ks.foldl (fun (s : State) k =>
      if (s.slot k).service = some c then s.modSlot k (fun x => { x with service := some d }) else s) v
      t.hif = v.hif ∧ t.ctxs = v.ctxs := by
    refine foldl_frame (fun s t => t.hif = s.hif ∧ t.ctxs = s.ctxs) (fun _ => ⟨rfl, rfl⟩) (fun _ _ _ h h' => ⟨h'.1.trans h.1, h'.2.trans h.2⟩)
      _ _ (fun v k => ?_) v
    split <;> exact ⟨rfl, rfl⟩
  unfold moveRings
  dsimp only
  rw [← hu]
  generalize List.range 1024 = ks
  obtain ⟨h1, h2⟩ := hslots ks u
  refine ⟨fun r hr => ?_, h2.trans hctxs⟩
  rw [ring_congr h1, hu]
  exact serverOf_foldl _ s d r (.inl hr)

/-- Another core takes over the contexts and rings of a core that has halted. -/
theorem coreHalt_moves {s : State} {c d x : Nat} (hc : c < 16) (hrun : (s.miller c).run = .halted) (him : (s.miller c).image.isSome = true)
    (hx : coreCtxs s c = [x]) (hin : (s.ctx x).inFlight = none) (hd : fewestCore s = some d) (htr : slotWith s 2 .trial = none) :
    ∃ t, exec (.coreHalt c) s = .next t ∧ (t.ctx x).core = d ∧ (t.miller c).image = none ∧
      ∀ r ∈ coreRings s c, (t.ring r).server = some d := by
  have hgo : ¬(16 ≤ c ∨ (s.miller c).run ≠ .halted ∨ (s.miller c).image.isNone) := by
    rw [hrun, Option.isNone_eq_false_iff.2 him]
    simp
    omega
  have hreplan : replan s x = s := by
    unfold replan
    rw [hin]
  obtain ⟨u, hu⟩ : ∃ u, u = s.modCtx x (fun k => { k with
    core := d
    handTo := none }) := ⟨_, rfl⟩
  have hux : (u.ctx x).core = d := by rw [hu, State.modCtx_ctx_same]
  have huh : u.hif = s.hif := by rw [hu, State.modCtx_hif]
  have hrings : coreRings u c = coreRings s c := by
    unfold coreRings ringCore State.ring
    rw [huh]
  obtain ⟨hserver, hctxs⟩ := moveRings_moves u c d
  have hexec : exec (.coreHalt c) s = .next ((moveRings u c d).modMiller c (fun k => { k with image := none })) := by
    change execCoreHalt c s = _
    unfold execCoreHalt
    dsimp only
    rw [if_neg hgo, hx, List.foldl_cons, List.foldl_nil, hd]
    dsimp only
    rw [hreplan, ← hu, htr]
  rw [hrings] at hserver
  generalize moveRings u c d = v at hserver hctxs hexec
  refine ⟨_, hexec, ?_, ?_, fun r hr => ?_⟩
  · rw [ctx_congr (State.modMiller_ctxs ..), ctx_congr hctxs, hux]
  · rw [State.modMiller_miller_same]
  · rw [ring_congr (State.modMiller_hif ..)]
    exact hserver r hr

/-- A halted core that has left its image restarts from the active one. -/
theorem millerCoreRestart_restarts {s : State} {c i : Nat} (hc : c < 16) (hrun : (s.miller c).run = .halted) (him : (s.miller c).image = none)
    (hrs : s.mgt.restarting = false) (hi : coreImage s = some i) (hrep : s.mgt.replacing = false) :
    exec (.millerCoreRestart c) s = .next (s.modMiller c (fun k => { k with
      run := .running
      image := some i
      stateFmt := (fwSlot s i).stateFmt
      seqr := { mode := .running } })) := by
  have hstart : startCore s c = s.modMiller c (fun k => { k with
      run := .running
      image := some i
      stateFmt := (fwSlot s i).stateFmt
      seqr := { mode := .running } }) := by
    unfold startCore
    rw [hi]
    dsimp only
    exact if_neg (by rw [hrep]; exact Bool.false_ne_true)
  rw [← hstart]
  exact congrArg Host.Outcome.next (if_pos ⟨hc, hrun, by rw [him]; rfl, by rw [hrs]; rfl⟩)

/-- Settles O47: a step is planned, queued and sampled through its named parts, and the tables of contexts and sequences pass through the
firmware's own reads and writes. -/
theorem stepsAndCores : Obligations.StepsAndCores := by
  unfold Obligations.StepsAndCores
  refine ⟨fun s ctx v h => chooseRows_rows v h, fun s ctx v runs sluices combine f => ?_,
    fun s ctx seq hh hctx hp hf hc => sequenceSpill_spills hh hctx hp hf hc, fun s ctx r p o e => ?_,
    fun a pos e es h => pickToken_first pos e es h, fun s c ctx dest hc hd hne hrun hl hb hcore => coreHandover_hands hc hd hne hrun hl hb hcore,
    fun s c d x hc hrun him hx hin hd htr => coreHalt_moves hc hrun him hx hin hd htr,
    fun s c i hc hrun him hrs hi hrep => millerCoreRestart_restarts hc hrun him hrs hi hrep⟩
  · intro c hb hc hh
    refine ⟨fun r p pl hr hu hroom => fun hpl hf => ?_, fun s2 s3 rs0 rs hr hsettle hmay hfit hdrop hne hpages hrun =>
      exec_planStep_plans runs sluices combine f hb hc hh hr hsettle hmay hfit hdrop hne hpages hrun⟩
    obtain ⟨hc1, hbytes⟩ := runSent_ring (r := r) (ctx := ctx) [] hroom hpl hf
    exact ⟨_, planStep_submits v runs sluices combine f hb hc hh hr hu hroom, hc1, congrArg Ctx.inFlight (runSent_ctx ..), hbytes⟩
  · intro c hb hc hr hlive hun hflt hent ho hoc hos
    exact ⟨fun hof hs hub hca hha hsp hh he hctx =>
        stepSample_ends hb hc hr hlive hun hflt hent ho hoc hos hof hs hub hca hha hsp hh he hctx,
      fun hof hsil hcls hfirst hsl hco hruns =>
        stepSample_retries hb hc hr hlive hun hflt hent ho hoc hos hof hsil hcls hfirst hsl hco hruns⟩

end Sys2Proof.Proofs
end

section
/-! Versions of weights: their slots, loads and switches (13, R541 to R559). -/

namespace Sys2Proof.Proofs
open Sys2Proof Sys2Proof.Machine

/-! ## Version slots -/

theorem modVer_ver (s : State) (ctx : Nat) (v : Bool) (f : Version → Version) : ((modVer s ctx v f).ctx ctx).ver v = f ((s.ctx ctx).ver v) := by
  rw [modVer_ctx, ctxModVer_ver, if_pos rfl]

theorem modVer_millers (s : State) (ctx : Nat) (v : Bool) (f : Version → Version) : (modVer s ctx v f).millers = s.millers :=
  State.modCtx_millers ..

theorem modVer_hif (s : State) (ctx : Nat) (v : Bool) (f : Version → Version) : (modVer s ctx v f).hif = s.hif := State.modCtx_hif ..

theorem finishDone_ver (s : State) (d : Done) (ctx c status : Nat) (v : Bool) :
    ((finishDone s d ctx status).ctx c).ver v = (s.ctx c).ver v := by rw [ctx_congr (wrote_finishDone ..).ctxs]

/-- A slot that no LOAD waits for is empty once it is discarded. R559. -/
theorem discardSlot_empties {s : State} {ctx : Nat} {v : Bool} (h : ¬(((s.ctx ctx).ver v).st = .retained ∧ ((s.ctx ctx).ver v).load.isSome)) :
    ((discardSlot s ctx v).ctx ctx).ver v = {} := by
  unfold discardSlot
  dsimp only
  generalize freeAll (unmapWindow s ctx v) ((s.ctx ctx).ver v).millpond = u
  rw [if_neg h]
  split
  · rw [finishDone_ver, modVer_ver]
  · rw [modVer_ver]

/-- A LOAD that stops leaves an empty slot. R554. -/
theorem stopLoad_empties {s : State} {ctx : Nat} {v : Bool} (h : ((s.ctx ctx).ver v).st ≠ .retained) :
    ((stopLoad s ctx v).ctx ctx).ver v = {} := by
  have hd : ((discardSlot (modVer s ctx v (fun y => { y with
      load := none
      loading := none
      dropping := false })) ctx v).ctx ctx).ver v = {} := by
    refine discardSlot_empties ?_
    rw [modVer_ver]
    exact fun hh => absurd hh.2 Bool.false_ne_true
  unfold stopLoad
  dsimp only
  rw [if_neg h]
  split
  · rw [finishDone_ver, hd]
  · exact hd

/-- A load that fails leaves an empty slot. R553. -/
theorem failLoad_empties (s : State) (ctx : Nat) (v : Bool) (status shard cause : Nat) :
    ((failLoad s ctx v status shard cause).ctx ctx).ver v = {} := by
  have hd (u : State) : ((discardSlot (modVer u ctx v (fun y => { y with
      load := none
      loading := none })) ctx v).ctx ctx).ver v = {} := by
    refine discardSlot_empties ?_
    rw [modVer_ver]
    exact fun hh => absurd hh.2 Bool.false_ne_true
  unfold failLoad
  dsimp only
  split
  · rw [finishDone_ver, hd]
  · exact hd _

theorem copyManifest_none {s : State} {ctx : Nat} {v : Bool} (h : ((s.ctx ctx).ver v).load = none) : copyManifest s ctx v = s := by
  unfold copyManifest
  rw [h]

/-! ## LOAD -/

theorem recBound_bound {s : State} {ring : Nat} {bs : List Byte} (h : recBound s ring bs = true) :
    (s.ctx (recCtx bs)).bound = true ∧ (s.ctx (recCtx bs)).unbinding = none := by
  unfold recBound at h
  simp only [Bool.and_eq_true, Option.isNone_iff_eq_none] at h
  exact ⟨h.1.1.2, h.2⟩

theorem consume_ctx (s : State) (ring c : Nat) : (consume s ring).ctx c = s.ctx c := ctx_congr (wrote_consume ..).ctxs c

/-- A record of the context that is taken: the version `v` of the context changes by `f`. -/
def verTaken (s : State) (ring ctx : Nat) (v : Bool) (f : Version → Version) : State := modVer (consume s ring) ctx v f

theorem verTaken_keeps {s : State} {ring : Nat} (hk : (s.ring ring).kind = .submit) (ctx : Nat) (v : Bool) (f : Version → Version) :
    let t := verTaken s ring ctx v f
    t.ctx ctx = (s.ctx ctx).modVer v f ∧ t.millers = s.millers ∧ (t.ring ring).c0 = (s.ring ring).c0 + 1 ∧ t.mem = (consume s ring).mem ∧
      t.hif.esq = s.hif.esq := by
  have hw := wrote_consume s ring
  have hring := (consume_submit hk).1
  intro t
  obtain ⟨u, hu⟩ : ∃ u, u = consume s ring := ⟨_, rfl⟩
  have ht : t = u.modCtx ctx (fun c => c.modVer v f) := by rw [hu]; rfl
  rw [← hu] at hw hring ⊢
  rw [ht]
  refine ⟨?_, ?_, ?_, ?_, ?_⟩
  · rw [State.modCtx_ctx_same, ctx_congr hw.ctxs]
  · rw [State.modCtx_millers, hw.millers]
  · rw [ring_congr (State.modCtx_hif ..), hring]
  · rw [State.modCtx_mem]
  · rw [State.modCtx_hif, hw.esq]

theorem load_loads {s : State} {ring : Nat} {bs : List Byte} (hbound : recBound s ring bs = true)
    (hc : coreRuns s (s.ctx (recCtx bs)).core = true) (hsub : subOf s ring 0x10 = some bs) (hway : underWay (s.ctx (recCtx bs)) = false)
    (hst : ((s.ctx (recCtx bs)).ver (s.ctx (recCtx bs)).spare).st = .empty) (hok : loadOk s (recCtx bs) bs (loadRec bs) = true) :
    ∃ t, exec (.load ring) s = .next t ∧ (t.ring ring).c0 = (s.ring ring).c0 + 1 ∧
      (t.ctx (recCtx bs)).ver (s.ctx (recCtx bs)).spare = { (s.ctx (recCtx bs)).ver (s.ctx (recCtx bs)).spare with
        load := some (loadRec bs)
        loading := some ⟨recReq bs, ring⟩
        dropping := false
        st := .staging
        manifest := hostBytes (consume s ring) (recCtx bs) (loadRec bs).manOff (loadRec bs).manBytes } := by
  have hk := subRecord_submit (subOf_record hsub).1
  generalize hctx : recCtx bs = ctx at *
  obtain ⟨c, hcdef⟩ : ∃ c, c = s.ctx ctx := ⟨_, rfl⟩
  rw [← hcdef] at hc hway hst ⊢
  obtain ⟨h1, h2, h3, h4, -⟩ := verTaken_keeps hk ctx c.spare (fun y => { y with
    load := some (loadRec bs)
    loading := some (recDone bs ring)
    dropping := (c.ver c.spare).st == .retained })
  obtain ⟨t, ht⟩ : ∃ t, t = verTaken s ring ctx c.spare (fun y => { y with
    load := some (loadRec bs)
    loading := some (recDone bs ring)
    dropping := (c.ver c.spare).st == .retained }) := ⟨_, rfl⟩
  rw [← ht] at h1 h2 h3 h4
  have htver : (t.ctx ctx).ver c.spare = { c.ver c.spare with
      load := some (loadRec bs)
      loading := some (recDone bs ring)
      dropping := (c.ver c.spare).st == .retained } := by
    rw [h1, ctxModVer_ver, if_pos rfl, ← hcdef]
  have hbase : (t.ctx ctx).bind = ((consume s ring).ctx ctx).bind := by
    rw [h1, consume_ctx, ← hcdef]
    cases c.spare <;> rfl
  have hman : hostBytes t ctx (loadRec bs).manOff (loadRec bs).manBytes =
      hostBytes (consume s ring) ctx (loadRec bs).manOff (loadRec bs).manBytes := by
    unfold hostBytes
    rw [hbase]
    exact bytes_eq_of_byte _ (fun i _ => byte_congr h4 _)
  have hcopy : copyManifest t ctx c.spare = modVer t ctx c.spare (fun y => { y with
      st := .staging
      manifest := hostBytes (consume s ring) ctx (loadRec bs).manOff (loadRec bs).manBytes }) := by
    unfold copyManifest
    rw [htver]
    dsimp only
    rw [hman]
  have hnr : ¬(c.ver c.spare).st = .retained := by rw [hst]; decide
  have hexec : exec (.load ring) s = .next (fwDo s c.core (fun _ => copyManifest t ctx c.spare)) := by
    change execLoad ring s = _
    unfold execLoad
    rw [hsub]
    dsimp only
    rw [hctx, ← hcdef, if_neg (by rw [hbound]; decide), if_neg (by rw [hway, hst]; decide), if_neg (fun hh => hnr hh.1),
      if_neg (by rw [hok]; decide)]
    refine congrArg Host.Outcome.next ?_
    unfold fwDo
    dsimp only
    rw [if_neg hnr, ht]
    rfl
  have hrun : ((copyManifest t ctx c.spare).miller c.core).run ≠ .halted := by
    rw [hcopy, miller_congr ((modVer_millers ..).trans h2)]
    exact running_not_halted hc
  rw [fwDo_runs hrun, hcopy] at hexec
  refine ⟨_, hexec, ?_, ?_⟩
  · rw [ring_congr (modVer_hif ..), h3]
  · rw [modVer_ver, htver, hst]
    rfl

end Sys2Proof.Proofs
end

section
/-! ACTIVATE, DISCARD, the manifest's checks and the shards of a load (13, R542 to R558). -/

namespace Sys2Proof.Proofs
open Sys2Proof Sys2Proof.Machine

/-! ## ACTIVATE -/

theorem exec_activate {s : State} {ring : Nat} {bs : List Byte} (hbound : recBound s ring bs = true) (hsub : subOf s ring 0x11 = some bs)
    (hr : recRsvd bs = true) (hz : zeroAt bs 16 112 = true) (hst : ((s.ctx (recCtx bs)).ver (s.ctx (recCtx bs)).spare).st = .verified)
    (hl : ((s.ctx (recCtx bs)).ver (s.ctx (recCtx bs)).spare).loading = none)
    (ha : ((s.ctx (recCtx bs)).ver (s.ctx (recCtx bs)).spare).activate = none) :
    exec (.activate ring) s = .next (fwDo s (s.ctx (recCtx bs)).core (fun _ => settle (verTaken s ring (recCtx bs) (s.ctx (recCtx bs)).spare
      (fun y => { y with activate := some (recDone bs ring) })) (recCtx bs))) := by
  change execActivate ring s = _
  unfold execActivate
  rw [hsub]
  dsimp only
  rw [if_neg (by rw [hbound]; decide), if_neg (by rw [hr, hz]; decide), if_neg (by rw [hst, hl]; decide), if_neg (by rw [ha]; decide)]
  rfl

/-- An ACTIVATE waits for the end of the step in flight. R555. -/
theorem activate_waits {s : State} {ring : Nat} {bs : List Byte} (hbound : recBound s ring bs = true)
    (hc : coreRuns s (s.ctx (recCtx bs)).core = true) (hsub : subOf s ring 0x11 = some bs)
    (hr : recRsvd bs = true) (hz : zeroAt bs 16 112 = true) (hst : ((s.ctx (recCtx bs)).ver (s.ctx (recCtx bs)).spare).st = .verified)
    (hl : ((s.ctx (recCtx bs)).ver (s.ctx (recCtx bs)).spare).loading = none)
    (ha : ((s.ctx (recCtx bs)).ver (s.ctx (recCtx bs)).spare).activate = none) (hf : (s.ctx (recCtx bs)).inFlight.isSome = true) :
    ∃ t, exec (.activate ring) s = .next t ∧ (t.ring ring).c0 = (s.ring ring).c0 + 1 ∧
      (t.ctx (recCtx bs)).ver (s.ctx (recCtx bs)).spare = { (s.ctx (recCtx bs)).ver (s.ctx (recCtx bs)).spare with
        activate := some ⟨recReq bs, ring⟩ } := by
  have hexec := exec_activate hbound hsub hr hz hst hl ha
  have hk := subRecord_submit (subOf_record hsub).1
  generalize recCtx bs = ctx at *
  obtain ⟨h1, h2, h3, -, -⟩ := verTaken_keeps hk ctx (s.ctx ctx).spare (fun y => { y with activate := some (recDone bs ring) })
  generalize verTaken s ring ctx (s.ctx ctx).spare (fun y => { y with activate := some (recDone bs ring) }) = t at h1 h2 h3 hexec
  have hin : (t.ctx ctx).inFlight = (s.ctx ctx).inFlight := by
    rw [h1]
    cases (s.ctx ctx).spare <;> rfl
  have hsettle : settle t ctx = t := by
    unfold settle
    exact if_pos (.inr (by rw [hin]; exact hf))
  rw [hsettle, fwDo_runs (by rw [miller_congr h2]; exact running_not_halted hc)] at hexec
  refine ⟨t, hexec, h3, ?_⟩
  rw [h1, ctxModVer_ver, if_pos rfl]
  rfl

/-- The first version of a context becomes active. R555, R556. -/
theorem switchVer_first {s : State} {ctx : Nat} {v : Bool} {d : Done} (hact : (s.ctx ctx).hasActive = false)
    (hl : ((s.ctx ctx).ver v).loading = none) (ha : ((s.ctx ctx).ver v).activate = some d) :
    let t := switchVer s ctx v
    (t.ctx ctx).activeVer = v ∧ ((t.ctx ctx).ver v).st = .active ∧ t.hif.esq = s.hif.esq + 1 ∧ t.millers = s.millers := by
  obtain ⟨u, hu⟩ : ∃ u, u = (modVer s ctx v (fun y => { y with
      st := .active
      load := none
      loading := none
      activate := none })).modCtx ctx (fun c => { c with activeVer := v }) := ⟨_, rfl⟩
  have huver : (u.ctx ctx).activeVer = v ∧ ((u.ctx ctx).ver v).st = .active := by
    rw [hu, State.modCtx_ctx_same]
    refine ⟨rfl, ?_⟩
    have h := modVer_ver s ctx v (fun y => { y with
      st := .active
      load := none
      loading := none
      activate := none })
    exact congrArg Version.st h
  have huh : u.hif = s.hif := by rw [hu, State.modCtx_hif, modVer_hif]
  have hum : u.millers = s.millers := by rw [hu, State.modCtx_millers, modVer_millers]
  obtain ⟨e, he⟩ : ∃ e, switchVer s ctx v = finishDone (postEvent u (some ctx) e) d ctx csOk := by
    refine ⟨{ code := 0x24, sev := 0, d0 := 0, d1 := ((s.ctx ctx).ver v).version.toNat, d2 := (pinnedTo s ctx (s.ctx ctx).activeVer).length }, ?_⟩
    unfold switchVer
    dsimp only
    rw [hact, hl, ha, hu]
    rfl
  have hpc : (postEvent u (some ctx) e).ctxs = u.ctxs := by rw [postEvent_frame]
  have hpm : (postEvent u (some ctx) e).millers = u.millers := by rw [postEvent_frame]
  have hpe := postEvent_esq u (some ctx) e
  have hw := wrote_finishDone (postEvent u (some ctx) e) d ctx csOk
  intro t
  have ht : t = finishDone (postEvent u (some ctx) e) d ctx csOk := he
  rw [← ht] at hw
  rw [ctx_congr (hw.ctxs.trans hpc)]
  refine ⟨huver.1, huver.2, ?_, hw.millers.trans (hpm.trans hum)⟩
  rw [hw.esq, hpe, huh]

/-- An ACTIVATE between steps of a context without a version switches at once. R555, R556. -/
theorem activate_switches {s : State} {ring : Nat} {bs : List Byte} (hbound : recBound s ring bs = true)
    (hc : coreRuns s (s.ctx (recCtx bs)).core = true) (hsub : subOf s ring 0x11 = some bs)
    (hr : recRsvd bs = true) (hz : zeroAt bs 16 112 = true) (hst : ((s.ctx (recCtx bs)).ver (s.ctx (recCtx bs)).spare).st = .verified)
    (hl : ((s.ctx (recCtx bs)).ver (s.ctx (recCtx bs)).spare).loading = none)
    (ha : ((s.ctx (recCtx bs)).ver (s.ctx (recCtx bs)).spare).activate = none) (hf : (s.ctx (recCtx bs)).inFlight = none)
    (hcan : (s.ctx (recCtx bs)).cancels = []) (hact : (s.ctx (recCtx bs)).hasActive = false) :
    ∃ t, exec (.activate ring) s = .next t ∧ (t.ctx (recCtx bs)).activeVer = (s.ctx (recCtx bs)).spare ∧
      ((t.ctx (recCtx bs)).ver (s.ctx (recCtx bs)).spare).st = .active ∧ t.hif.esq = s.hif.esq + 1 := by
  have hexec := exec_activate hbound hsub hr hz hst hl ha
  have hk := subRecord_submit (subOf_record hsub).1
  obtain ⟨hb, hub⟩ := recBound_bound hbound
  generalize recCtx bs = ctx at *
  have hspare : (s.ctx ctx).spare = (s.ctx ctx).activeVer := by
    unfold Ctx.spare
    rw [hact]
    rfl
  obtain ⟨h1, h2, -, -, h5⟩ := verTaken_keeps hk ctx (s.ctx ctx).spare (fun y => { y with activate := some (recDone bs ring) })
  generalize verTaken s ring ctx (s.ctx ctx).spare (fun y => { y with activate := some (recDone bs ring) }) = u at h1 h2 h5 hexec
  obtain ⟨w, hw⟩ : ∃ w, w = u.modCtx ctx (fun c => { c with cancels := [] }) := ⟨_, rfl⟩
  have hwver : (w.ctx ctx).ver (s.ctx ctx).spare = { (s.ctx ctx).ver (s.ctx ctx).spare with activate := some (recDone bs ring) } := by
    rw [hw, State.modCtx_ctx_same]
    have h : (u.ctx ctx).ver (s.ctx ctx).spare = { (s.ctx ctx).ver (s.ctx ctx).spare with activate := some (recDone bs ring) } := by
      rw [h1, ctxModVer_ver, if_pos rfl]
    exact h
  have hu4 : (u.ctx ctx).bound = true ∧ (u.ctx ctx).inFlight = none ∧ (u.ctx ctx).unbinding = none ∧ (u.ctx ctx).cancels = [] ∧
      (u.ctx ctx).activeVer = (s.ctx ctx).activeVer := by
    rw [h1]
    cases (s.ctx ctx).spare <;> exact ⟨hb, hf, hub, hcan, rfl⟩
  obtain ⟨hub1, huf, huu, huc, hua⟩ := hu4
  have hwa : (w.ctx ctx).activeVer = (s.ctx ctx).spare := by
    rw [hw, State.modCtx_ctx_same, hspare]
    exact hua
  have hwact : (w.ctx ctx).hasActive = false := by
    unfold Ctx.hasActive
    rw [hwa, hwver, hst]
    rfl
  have hwspare : (w.ctx ctx).spare = (s.ctx ctx).spare := by
    unfold Ctx.spare at hwa ⊢
    rw [hwact]
    exact hwa
  have hsettle : settle u ctx = switchVer w ctx (s.ctx ctx).spare := by
    unfold settle
    dsimp only
    rw [if_neg (by rw [hub1, huf]; decide), huu]
    dsimp only
    rw [applyCancels_none huc, ← hw]
    unfold settleVer
    dsimp only
    rw [hwspare, hwver, if_neg (by rw [hst]; exact fun hh => absurd hh.1 (by decide)), if_pos]
    unfold mayActivate
    rw [hst]
    exact Bool.or_true _
  obtain ⟨g1, g2, g3, g4⟩ := switchVer_first (s := w) (ctx := ctx) (v := (s.ctx ctx).spare) hwact (by rw [hwver]; exact hl) (by rw [hwver])
  rw [hsettle] at hexec
  generalize switchVer w ctx (s.ctx ctx).spare = t at g1 g2 g3 g4 hexec
  have hm : t.millers = s.millers := by rw [g4, hw, State.modCtx_millers, h2]
  rw [fwDo_runs (by rw [miller_congr hm]; exact running_not_halted hc)] at hexec
  refine ⟨t, hexec, g1, g2, ?_⟩
  rw [g3, hw, State.modCtx_hif, h5]

/-! ## DISCARD -/

theorem discard_empties {s : State} {ring : Nat} {bs : List Byte} (hbound : recBound s ring bs = true) (hsub : subOf s ring 0x12 = some bs)
    (hr : recRsvd bs = true) (hf : fieldAt bs 16 1 < 2) (hz : zeroAt bs 17 111 = true)
    (hst : ((s.ctx (recCtx bs)).ver (s.ctx (recCtx bs)).spare).st = .verified)
    (hd : ((s.ctx (recCtx bs)).ver (s.ctx (recCtx bs)).spare).discard = none)
    (ha : ((s.ctx (recCtx bs)).ver (s.ctx (recCtx bs)).spare).activate = none)
    (hrun : ((stopLoad (consume s ring) (recCtx bs) (s.ctx (recCtx bs)).spare).miller (s.ctx (recCtx bs)).core).run ≠ .halted) :
    ∃ t, exec (.discard ring) s = .next t ∧ (t.ctx (recCtx bs)).ver (s.ctx (recCtx bs)).spare = {} := by
  have hexec : exec (.discard ring) s = .next (fwDo s (s.ctx (recCtx bs)).core (fun u =>
      finishDone (stopLoad (consume u ring) (recCtx bs) (s.ctx (recCtx bs)).spare) (recDone bs ring) (recCtx bs) csOk)) := by
    change execDiscard ring s = _
    unfold execDiscard
    rw [hsub]
    dsimp only
    rw [if_neg (by rw [hbound]; decide), if_neg (by rw [hr, hz]; simp; omega), if_neg (by rw [hd]; decide), if_neg (by rw [hst]; decide)]
    refine congrArg (fun f => Host.Outcome.next (fwDo s (s.ctx (recCtx bs)).core f)) (funext fun u => ?_)
    rw [if_neg (by rw [hst]; decide), ha]
  generalize recCtx bs = ctx at *
  have hempty : ((stopLoad (consume s ring) ctx (s.ctx ctx).spare).ctx ctx).ver (s.ctx ctx).spare = {} := by
    refine stopLoad_empties ?_
    rw [consume_ctx, hst]
    decide
  rw [fwDo_runs (by rw [miller_congr (wrote_finishDone ..).millers]; exact hrun)] at hexec
  refine ⟨_, hexec, ?_⟩
  rw [finishDone_ver, hempty]

/-- A retained version without sequences is discarded. R558. -/
theorem slotDiscard_empties {s : State} {ctx : Nat} (hb : (s.ctx ctx).bound = true) (hc : coreRuns s (s.ctx ctx).core = true)
    (hin : ∀ r, (s.ctx ctx).inFlight = some r → r.ver ≠ (s.ctx ctx).spare) (hst : ((s.ctx ctx).ver (s.ctx ctx).spare).st = .retained)
    (hp : pinnedTo s ctx (s.ctx ctx).spare = []) (hl : ((s.ctx ctx).ver (s.ctx ctx).spare).load = none)
    (hrun : ((discardSlot s ctx (s.ctx ctx).spare).miller (s.ctx ctx).core).run ≠ .halted) :
    ∃ t, exec (.slotDiscard ctx) s = .next t ∧ (t.ctx ctx).ver (s.ctx ctx).spare = {} := by
  have hempty : ((discardSlot s ctx (s.ctx ctx).spare).ctx ctx).ver (s.ctx ctx).spare = {} := by
    refine discardSlot_empties ?_
    rw [hl]
    exact fun hh => Bool.false_ne_true hh.2
  have hcopy : copyManifest (discardSlot s ctx (s.ctx ctx).spare) ctx (s.ctx ctx).spare = discardSlot s ctx (s.ctx ctx).spare :=
    copyManifest_none (by rw [hempty])
  have hexec : exec (.slotDiscard ctx) s =
      .next (fwDo s (s.ctx ctx).core (fun u => copyManifest (discardSlot u ctx (s.ctx ctx).spare) ctx (s.ctx ctx).spare)) := by
    change execSlotDiscard ctx s = _
    unfold execSlotDiscard
    dsimp only
    refine congrArg Host.Outcome.next (if_pos ⟨hb, hst, by rw [hp]; rfl, ?_, hc⟩)
    cases h : (s.ctx ctx).inFlight with
    | none => rfl
    | some r =>
      dsimp only
      rw [Bool.not_eq_true', beq_eq_false_iff_ne]
      exact hin r h
  rw [fwDo_runs (by rw [hcopy]; exact hrun), hcopy] at hexec
  exact ⟨_, hexec, hempty⟩

/-! ## The manifest's checks (R548, R549, R553) -/

/-- The checks of a manifest, and what its shards take: what the core does at once. -/
def checkedLoad (ctx : Nat) (v : Bool) (l : LoadRec) (m : List Byte) (s : State) : State :=
  if !manSigned s m then
    failLoad (postEvent s (some ctx) { code := 0x20, sev := 2, srcKind := 0, d0 := manVersion m }) ctx v csSigInvalid 0xFFFF csSigInvalid
  else if !manifestOk s ctx l m then failLoad s ctx v csLoadFailed 0xFFFF csInvalid
  else match takeAll s ctx v l (shardEnts m) with
    | some s2 => s2
    | none => failLoad s ctx v csLoadFailed 0xFFFF csNoResource

theorem checkedLoad_signed {s s2 : State} {ctx : Nat} {v : Bool} {l : LoadRec} {m : List Byte} (hs : manSigned s m = true)
    (hm : manifestOk s ctx l m = true) (ht : takeAll s ctx v l (shardEnts m) = some s2) : checkedLoad ctx v l m s = s2 := by
  unfold checkedLoad
  rw [hs, hm, ht]
  rfl

theorem checkedLoad_unsigned {s : State} {ctx : Nat} {v : Bool} {l : LoadRec} {m : List Byte} (hs : manSigned s m = false) :
    checkedLoad ctx v l m s =
      failLoad (postEvent s (some ctx) { code := 0x20, sev := 2, srcKind := 0, d0 := manVersion m }) ctx v csSigInvalid 0xFFFF csSigInvalid := by
  unfold checkedLoad
  rw [hs]
  rfl

theorem manifestVerified_goes {s : State} {ctx : Nat} (hb : (s.ctx ctx).bound = true) (hc : coreRuns s (s.ctx ctx).core = true)
    (hst : ((s.ctx ctx).ver (s.ctx ctx).spare).st = .staging)
    (hp : ((s.ctx ctx).ver (s.ctx ctx).spare).placed = false) (hr : s.mgt.restarting = false) :
    ¬(!(s.ctx ctx).bound ∨ ((s.ctx ctx).ver (s.ctx ctx).spare).st ≠ .staging ∨ ((s.ctx ctx).ver (s.ctx ctx).spare).placed ∨
      s.mgt.restarting ∨ !coreRuns s (s.ctx ctx).core) := by
  rw [hb, hst, hp, hr, hc]
  decide

theorem takeAll_placed {s s2 : State} {ctx : Nat} {v : Bool} {l : LoadRec} {es : List ShardEnt} (h : takeAll s ctx v l es = some s2) :
    ((s2.ctx ctx).ver v).placed = true := by
  unfold takeAll at h
  dsimp only at h
  split at h
  · cases h
  · split at h
    · cases h
    · cases h
      rw [modVer_ver]

theorem manifestVerified_places {s s2 : State} {ctx : Nat} {l : LoadRec} (hb : (s.ctx ctx).bound = true)
    (hc : coreRuns s (s.ctx ctx).core = true)
    (hl : ((s.ctx ctx).ver (s.ctx ctx).spare).load = some l) (hst : ((s.ctx ctx).ver (s.ctx ctx).spare).st = .staging)
    (hp : ((s.ctx ctx).ver (s.ctx ctx).spare).placed = false) (hr : s.mgt.restarting = false)
    (hok : let s1 := modVer s ctx (s.ctx ctx).spare (fun y => { y with
        version := BitVec.ofNat 32 (manVersion ((s.ctx ctx).ver (s.ctx ctx).spare).manifest) })
      manifestOk s1 ctx l ((s.ctx ctx).ver (s.ctx ctx).spare).manifest = true ∧
      takeAll s1 ctx (s.ctx ctx).spare l (shardEnts ((s.ctx ctx).ver (s.ctx ctx).spare).manifest) = some s2)
    (hrun : (s2.miller (s.ctx ctx).core).run ≠ .halted) :
    ∃ t, exec (.manifestVerified ctx) s = .next t ∧
      (manSigned s ((s.ctx ctx).ver (s.ctx ctx).spare).manifest = true → t = s2 ∧ ((t.ctx ctx).ver (s.ctx ctx).spare).placed = true) ∧
      (manSigned s ((s.ctx ctx).ver (s.ctx ctx).spare).manifest = false → (t.miller (s.ctx ctx).core).run ≠ .halted →
        (t.ctx ctx).ver (s.ctx ctx).spare = {}) := by
  have hgo := manifestVerified_goes hb hc hst hp hr
  obtain ⟨h1, h2⟩ := hok
  have hplaced := takeAll_placed h2
  have hexec : exec (.manifestVerified ctx) s =
      .next (fwDo (modVer s ctx (s.ctx ctx).spare (fun y => { y with
        version := BitVec.ofNat 32 (manVersion ((s.ctx ctx).ver (s.ctx ctx).spare).manifest) })) (s.ctx ctx).core
        (checkedLoad ctx (s.ctx ctx).spare l ((s.ctx ctx).ver (s.ctx ctx).spare).manifest)) := by
    change execManifestVerified ctx s = _
    unfold execManifestVerified
    dsimp only
    rw [hl]
    exact congrArg Host.Outcome.next (if_neg hgo)
  generalize (s.ctx ctx).spare = v at *
  generalize ((s.ctx ctx).ver v).manifest = m at *
  have hsign : manSigned (modVer s ctx v (fun y => { y with version := BitVec.ofNat 32 (manVersion m) })) m = manSigned s m := rfl
  generalize modVer s ctx v (fun y => { y with version := BitVec.ofNat 32 (manVersion m) }) = s1 at h1 h2 hexec hsign
  refine ⟨_, hexec, fun hs => ?_, fun hs hrun => ?_⟩
  · have hcl := checkedLoad_signed (hsign.trans hs) h1 h2
    have ht : fwDo s1 (s.ctx ctx).core (checkedLoad ctx v l m) = s2 := by
      rw [fwDo_runs (by rw [hcl]; exact hrun), hcl]
    exact ⟨ht, by rw [ht]; exact hplaced⟩
  · rw [fwDo_running _ hrun, checkedLoad_unsigned (hsign.trans hs)]
    exact failLoad_empties ..

/-! ## Shards (R544, R550 to R553) -/

theorem sourceReadyPoll_readies {s : State} {ctx i : Nat} {l : LoadRec} (hb : (s.ctx ctx).bound = true)
    (hc : coreRuns s (s.ctx ctx).core = true) (hl : ((s.ctx ctx).ver (s.ctx ctx).spare).load = some l)
    (hst : ((s.ctx ctx).ver (s.ctx ctx).spare).st = .staging) (hp : ((s.ctx ctx).ver (s.ctx ctx).spare).placed = true)
    (hi : i < manShards ((s.ctx ctx).ver (s.ctx ctx).spare).manifest)
    (hr : fieldAt (hostBytes s ctx (l.srcListOff + 32 * i) 1) 0 1 % 2 = 1) :
    exec (.sourceReadyPoll ctx i) s = .next (modShard s ctx (s.ctx ctx).spare i (fun y => { y with ready := true })) := by
  change execSourceReadyPoll ctx i s = _
  unfold execSourceReadyPoll
  dsimp only
  rw [hl]
  exact congrArg Host.Outcome.next (if_pos ⟨hb, hp, hst, hi, hc, hr⟩)

theorem shardMissing_empties {s : State} {ctx i : Nat} {l : LoadRec} (hb : (s.ctx ctx).bound = true)
    (hc : coreRuns s (s.ctx ctx).core = true) (hl : ((s.ctx ctx).ver (s.ctx ctx).spare).load = some l)
    (hst : ((s.ctx ctx).ver (s.ctx ctx).spare).st = .staging) (hp : ((s.ctx ctx).ver (s.ctx ctx).spare).placed = true)
    (hi : inFetch ((s.ctx ctx).ver (s.ctx ctx).spare) l i (manShards ((s.ctx ctx).ver (s.ctx ctx).spare).manifest) = true)
    (hr : s.mgt.restarting = false) :
    ∃ t, exec (.shardMissing ctx i) s = .next t ∧
      ((t.miller (s.ctx ctx).core).run ≠ .halted → (t.ctx ctx).ver (s.ctx ctx).spare = {}) := by
  have hexec : exec (.shardMissing ctx i) s = .next (fwDo s (s.ctx ctx).core (fun u =>
      failLoad (postEvent u (some ctx) { code := 0x22, sev := 2, srcKind := 0, d0 := i }) ctx (s.ctx ctx).spare csLoadFailed i 0x22)) := by
    change execShardMissing ctx i s = _
    unfold execShardMissing
    dsimp only
    rw [hl]
    exact congrArg Host.Outcome.next (if_neg (by rw [hb, hp, hst, hi, hr, hc]; decide))
  refine ⟨_, hexec, fun hrun => ?_⟩
  rw [fwDo_running _ hrun]
  exact failLoad_empties ..

end Sys2Proof.Proofs
end

section
/-! A shard that has been fetched is placed, and its digest decides (13, R550, R551). -/

namespace Sys2Proof.Proofs
open Sys2Proof Sys2Proof.Machine

theorem beneath_writeWords_hbm (ws : List (BitVec 256)) (s : State) (a : Nat) : Beneath s (writeWords s (.hbm a) ws) := by
  induction ws generalizing s a with
  | nil => exact .refl s
  | cons w ws ih =>
    have h : Beneath s (writeWord s (.hbm a) (w, 0)) := rfl
    exact h.trans (ih _ (a + 32))

/-- A shard that is to lie in this device's memory is written there. R548, R549. -/
theorem beneath_placeShard {e : ShardEnt} (h : e.place = 0) (s : State) (ctx : Nat) (x : Version) (l : LoadRec) (i : Nat) (bs : List Byte) :
    Beneath s (placeShard s ctx x l i e bs) := by
  unfold placeShard
  dsimp only
  rw [h]
  exact beneath_writeWords_hbm ..

theorem modShard_shard (s : State) (ctx : Nat) (v : Bool) (i : Nat) (f : Shard → Shard) :
    tget {} (((modShard s ctx v i f).ctx ctx).ver v).shards i = f (tget {} ((s.ctx ctx).ver v).shards i) := by
  unfold modShard
  rw [modVer_ver]
  exact (tget_tmod ..).trans (if_pos rfl)

/-- A shard whose digest matches, while another one has not been fetched yet. -/
theorem shardMatch_verifies {s : State} {ctx : Nat} {v : Bool} {l : LoadRec} {i j src : Nat} {e : ShardEnt} (he : e.place = 0)
    (hj : j < manShards ((s.ctx ctx).ver v).manifest) (hji : j ≠ i) (hv : (tget {} ((s.ctx ctx).ver v).shards j).verified = false) :
    shardMatch s ctx v l i e src = modShard s ctx v i (fun y => { y with verified := true }) := by
  have hver : ((modShard s ctx v i (fun y => { y with verified := true })).ctx ctx).ver v = { (s.ctx ctx).ver v with
      shards := tmod {} ((s.ctx ctx).ver v).shards i (fun y => { y with verified := true }) } := by
    unfold modShard
    rw [modVer_ver]
  have hother : tget {} (tmod {} ((s.ctx ctx).ver v).shards i (fun y => { y with verified := true })) j =
      tget {} ((s.ctx ctx).ver v).shards j := (tget_tmod ..).trans (if_neg hji)
  have hall : ¬(List.range (manShards ((s.ctx ctx).ver v).manifest)).all (fun j =>
      (tget {} (tmod {} ((s.ctx ctx).ver v).shards i (fun y => { y with verified := true })) j).verified) = true := by
    intro h
    have := List.all_eq_true.1 h j (List.mem_range.2 hj)
    rw [hother, hv] at this
    exact Bool.false_ne_true this
  unfold shardMatch
  dsimp only
  have h2 : ¬e.place = 2 := by rw [he]; decide
  rw [if_neg h2, hver]
  exact if_neg hall

/-- What a shard's record holds once its bytes have come. -/
theorem takeShard_decides {s : State} {ctx : Nat} {v : Bool} {l : LoadRec} {i j src : Nat} (bs : List Byte)
    (he : (shardEnt ((s.ctx ctx).ver v).manifest i).place = 0) (ha : (tget {} ((s.ctx ctx).ver v).shards i).attempts < 3)
    (hj : j < manShards ((s.ctx ctx).ver v).manifest) (hji : j ≠ i) (hv : (tget {} ((s.ctx ctx).ver v).shards j).verified = false) :
    let t := takeShard s ctx v ((s.ctx ctx).ver v) l i src bs
    t.millers = s.millers ∧ tget {} ((t.ctx ctx).ver v).shards i =
      (if (Config.sha384 bs).toNat = (shardEnt ((s.ctx ctx).ver v).manifest i).digest then
        { tget {} ((s.ctx ctx).ver v).shards i with verified := true }
      else { tget {} ((s.ctx ctx).ver v).shards i with attempts := (tget {} ((s.ctx ctx).ver v).shards i).attempts + 1 }) := by
  obtain ⟨x, hx⟩ : ∃ x, x = (s.ctx ctx).ver v := ⟨_, rfl⟩
  rw [← hx] at he ha hj hv ⊢
  have hb := beneath_placeShard he s ctx x l i bs
  obtain ⟨u, hu⟩ : ∃ u, u = placeShard s ctx x l i (shardEnt x.manifest i) bs := ⟨_, rfl⟩
  rw [← hu] at hb
  have hux : (u.ctx ctx).ver v = x := by rw [ctx_congr hb.ctxs, hx]
  intro t
  have ht : t = if (Config.sha384 bs).toNat = (shardEnt x.manifest i).digest then shardMatch u ctx v l i (shardEnt x.manifest i) src
      else shardMismatch u ctx v i (tget {} x.shards i).attempts := by rw [hu]; rfl
  rw [ht]
  by_cases hd : (Config.sha384 bs).toNat = (shardEnt x.manifest i).digest
  · rw [if_pos hd, if_pos hd, shardMatch_verifies (j := j) he (by rw [hux]; exact hj) hji (by rw [hux]; exact hv)]
    refine ⟨(modVer_millers ..).trans hb.millers, ?_⟩
    rw [modShard_shard, hux]
  · obtain ⟨w, hw⟩ : ∃ w, w = postEvent u (some ctx) { code := 0x21, sev := 1, srcKind := 0, d0 := i, d1 := (tget {} x.shards i).attempts + 1 } :=
      ⟨_, rfl⟩
    have hwm : w.millers = u.millers := by rw [hw, postEvent_frame]
    have hwc : w.ctxs = u.ctxs := by rw [hw, postEvent_frame]
    have hmis : shardMismatch u ctx v i (tget {} x.shards i).attempts =
        modShard w ctx v i (fun y => { y with attempts := (tget {} x.shards i).attempts + 1 }) := by
      rw [hw]
      exact if_neg (by omega)
    rw [if_neg hd, if_neg hd, hmis]
    refine ⟨(modVer_millers ..).trans (hwm.trans hb.millers), ?_⟩
    rw [modShard_shard, ctx_congr hwc, hux]

theorem shardFetchDone_decides {s : State} {ctx i j : Nat} {l : LoadRec} (hb : (s.ctx ctx).bound = true)
    (hc : coreRuns s (s.ctx ctx).core = true) (hl : ((s.ctx ctx).ver (s.ctx ctx).spare).load = some l)
    (hst : ((s.ctx ctx).ver (s.ctx ctx).spare).st = .staging) (hp : ((s.ctx ctx).ver (s.ctx ctx).spare).placed = true)
    (hi : inFetch ((s.ctx ctx).ver (s.ctx ctx).spare) l i (manShards ((s.ctx ctx).ver (s.ctx ctx).spare).manifest) = true)
    {src : Nat} (hsrc : shardSource s ctx l i (tget {} ((s.ctx ctx).ver (s.ctx ctx).spare).shards i).attempts = src)
    (hin : src + (shardEnt ((s.ctx ctx).ver (s.ctx ctx).spare).manifest i).size ≤ (s.ctx ctx).bind.hostBytes) (h63 : src < 2 ^ 63)
    (hr : (tget {} ((s.ctx ctx).ver (s.ctx ctx).spare).shards i).ready = true)
    (he : (shardEnt ((s.ctx ctx).ver (s.ctx ctx).spare).manifest i).place = 0)
    (ha : (tget {} ((s.ctx ctx).ver (s.ctx ctx).spare).shards i).attempts < 3)
    (hj : j < manShards ((s.ctx ctx).ver (s.ctx ctx).spare).manifest) (hji : j ≠ i)
    (hv : (tget {} ((s.ctx ctx).ver (s.ctx ctx).spare).shards j).verified = false) :
    ∃ t, exec (.shardFetchDone ctx i) s = .next t ∧ tget {} ((t.ctx ctx).ver (s.ctx ctx).spare).shards i =
      (if (Config.sha384 (hostBytes s ctx src (shardEnt ((s.ctx ctx).ver (s.ctx ctx).spare).manifest i).size)).toNat =
          (shardEnt ((s.ctx ctx).ver (s.ctx ctx).spare).manifest i).digest then
        { tget {} ((s.ctx ctx).ver (s.ctx ctx).spare).shards i with verified := true }
      else { tget {} ((s.ctx ctx).ver (s.ctx ctx).spare).shards i with
        attempts := (tget {} ((s.ctx ctx).ver (s.ctx ctx).spare).shards i).attempts + 1 }) := by
  obtain ⟨hm, hdec⟩ := takeShard_decides (l := l) (src := src)
    (hostBytes s ctx src (shardEnt ((s.ctx ctx).ver (s.ctx ctx).spare).manifest i).size) he ha hj hji hv
  have hexec : exec (.shardFetchDone ctx i) s = .next (fwDo s (s.ctx ctx).core (fun u =>
      if (s.ctx ctx).bind.hostBytes < src + (shardEnt ((s.ctx ctx).ver (s.ctx ctx).spare).manifest i).size ∨
          ((shardEnt ((s.ctx ctx).ver (s.ctx ctx).spare).manifest i).place = 2 ∧ src % 65536 ≠ 0) then
        failLoad u ctx (s.ctx ctx).spare csLoadFailed i csInvalid
      else takeShard u ctx (s.ctx ctx).spare ((s.ctx ctx).ver (s.ctx ctx).spare) l i src
        (hostBytes u ctx src (shardEnt ((s.ctx ctx).ver (s.ctx ctx).spare).manifest i).size))) := by
    change execShardFetchDone ctx i s = _
    unfold execShardFetchDone
    dsimp only
    rw [hl]
    dsimp only
    rw [if_neg (by rw [hb, hp, hst, hi, hc]; decide), hsrc, if_pos h63, if_neg (by rw [hr]; decide)]
  have hgo : ¬((s.ctx ctx).bind.hostBytes < src + (shardEnt ((s.ctx ctx).ver (s.ctx ctx).spare).manifest i).size ∨
      ((shardEnt ((s.ctx ctx).ver (s.ctx ctx).spare).manifest i).place = 2 ∧ src % 65536 ≠ 0)) := by
    rintro (h | h)
    · exact absurd hin (Nat.not_le.2 h)
    · rw [he] at h
      exact absurd h.1 (by decide)
  rw [fwDo_runs, if_neg hgo] at hexec
  · exact ⟨_, hexec, hdec⟩
  · rw [if_neg hgo, miller_congr hm]
    exact running_not_halted hc

/-- Settles O48: each record changes one version slot of its context, through the laws of that slot. -/
theorem weightsLoad : Obligations.WeightsLoad := by
  unfold Obligations.WeightsLoad
  refine ⟨fun s ring bs => ?_, fun s ctx => fun hb hc hin hst hp hl hrun => slotDiscard_empties hb hc hin hst hp hl hrun, fun s ctx l => ?_⟩
  · intro ctx c v x hbound hc
    exact ⟨fun hsub hway hst hok => load_loads hbound hc hsub hway hst hok,
      fun hsub hr hz hst hl ha => ⟨fun hf => activate_waits hbound hc hsub hr hz hst hl ha hf,
        fun hf hcan hact => activate_switches hbound hc hsub hr hz hst hl ha hf hcan hact⟩,
      fun hsub hr hf hz hst hd _ ha hrun => discard_empties hbound hsub hr hf hz hst hd ha hrun⟩
  · intro c v x hb hc hl hst
    exact ⟨fun s2 hp hr hm ht hrun => manifestVerified_places hb hc hl hst hp hr ⟨hm, ht⟩ hrun,
      fun hp => ⟨fun i hi hr => sourceReadyPoll_readies hb hc hl hst hp hi hr,
        fun i hi => ⟨fun hr => shardMissing_empties hb hc hl hst hp hi hr,
          fun src j hsrc hin h63 hr he ha hj hji hv =>
            shardFetchDone_decides hb hc hl hst hp hi hsrc hin h63 hr he ha hj hji hv⟩⟩⟩

end Sys2Proof.Proofs
end

section
/-! Ring descriptors, doorbells and notification, from the host's side (14, R567 to R580). -/

namespace Sys2Proof.Proofs
open Sys2Proof Sys2Proof.Machine

/-! ## Fields of a record that is patched -/

theorem fieldAt_patch_same {bs : List Byte} {o : Nat} (n v : Nat) (h : o ≤ bs.length) : fieldAt (patch bs o n v) o n = v % 256 ^ n := by
  have ht : (bs.take o).length = o := List.length_take_of_le h
  unfold fieldAt patch
  rw [List.append_assoc, List.drop_left' ht, List.take_left' (natToBytes_length v n), bytesToNat_natToBytes]

theorem fieldAt_patch_before {bs : List Byte} {o p k : Nat} (n v : Nat) (h : o ≤ bs.length) (hp : p + k ≤ o) :
    fieldAt (patch bs o n v) p k = fieldAt bs p k := by
  have ht : (bs.take o).length = o := List.length_take_of_le h
  have hd : ((bs.take o ++ (natToBytes v n ++ bs.drop (o + n))).drop p).take k = (bs.drop p).take k := by
    rw [List.drop_append_of_le_length (by omega), List.take_append_of_le_length (by rw [List.length_drop]; omega), List.drop_take,
      List.take_take, Nat.min_eq_left (by omega)]
  unfold fieldAt patch
  rw [List.append_assoc, hd]

theorem ringBytes_length (g : Ring) (f : Nat) : (g.bytes f).length = 64 := by
  unfold Ring.bytes
  simp only [List.length_append, natToBytes_length]

theorem fieldAt_flags (g : Ring) (f : Nat) : fieldAt (g.bytes f) 1 1 = g.flags % 256 := by
  obtain ⟨rest, hrest⟩ : ∃ rest, g.bytes f = natToBytes (g.st.code + bit g.enPend 2) 1 ++ (natToBytes g.flags 1 ++ rest) := by
    refine ⟨natToBytes g.kind.code 1 ++ natToBytes f 1 ++ natToBytes g.entries 2 ++ natToBytes g.entryUnits 2 ++ natToBytes g.ctx 2 ++
      natToBytes g.rank 1 ++ natToBytes g.modRecs 1 ++ natToBytes g.modTicks 2 ++ natToBytes g.vector 2 ++ natToBytes g.c0.toNat 4 ++
      natToBytes g.c1.toNat 4 ++ natToBytes g.c2.toNat 4 ++ natToBytes g.c3.toNat 4 ++ natToBytes 0 16 ++ natToBytes g.base.toNat 8 ++
      natToBytes g.shadow.toNat 8, ?_⟩
    unfold Ring.bytes
    simp only [List.append_assoc]
  unfold fieldAt
  rw [hrest, List.drop_left' (natToBytes_length ..), List.take_left' (natToBytes_length ..), bytesToNat_natToBytes]
  rfl

/-- EN is bit 0 of FLAGS. R569. -/
theorem flags_en (g : Ring) : (g.flags % 256).testBit 0 = g.en := by
  have h : ∀ a b c d : Bool, ((bit a 0 + bit b 1 + bit c 2 + bit d 3) % 256).testBit 0 = a := by decide
  exact h ..

/-- A write of BASE leaves EN as it is. -/
theorem patch_base_en (g : Ring) (f v : Nat) : (fieldAt (patch (g.bytes f) 48 8 v) 1 1).testBit 0 = g.en := by
  rw [fieldAt_patch_before 8 v (by rw [ringBytes_length]; omega) (by omega), fieldAt_flags, flags_en]

theorem patch_base (g : Ring) (f : Nat) (v : W64) : field64 (patch (g.bytes f) 48 8 (v.toNat % 2 ^ (8 * 8))) 48 = v := by
  unfold field64
  rw [fieldAt_patch_same 8 _ (by rw [ringBytes_length]; omega)]
  apply BitVec.eq_of_toNat_eq
  rw [BitVec.toNat_ofNat]
  have := v.isLt
  omega

/-! ## Changes of a ring -/

theorem modRing_modRing (s : State) (r : Nat) (f g : Ring → Ring) : (s.modRing r f).modRing r g = s.modRing r (fun x => g (f x)) := by
  have h : (s.modRing r f).ring r = f (s.ring r) := State.modRing_ring_same s r f
  unfold State.modRing at h ⊢
  rw [h, tset_tset]

theorem modRing_congr {s : State} {r : Nat} {f g : Ring → Ring} (h : f (s.ring r) = g (s.ring r)) : s.modRing r f = s.modRing r g := by
  unfold State.modRing
  rw [h]

theorem putEntry_hif (s : State) (g : Ring) (i : Nat) (bs : List Byte) : (s.putEntry g i bs).hif = s.hif := by
  unfold State.putEntry
  split
  · rfl
  · split <;> rfl

theorem shadowWrite_hif (s : State) (q : Nat) (v : W32) : (shadowWrite s q v).hif = s.hif := by
  unfold shadowWrite
  split <;> rfl

theorem pushRecord_other (s : State) {q j : Nat} (bs : List Byte) (h : j ≠ q) : (pushRecord s q bs).ring j = s.ring j := by
  obtain ⟨u, hu⟩ : ∃ u, u = s.putEntry (s.ring q) (s.ring q).c1.toNat bs := ⟨_, rfl⟩
  have huh : u.hif = s.hif := by rw [hu, putEntry_hif]
  obtain ⟨-, -, hother, -⟩ := notify_rings (shadowWrite (u.modRing q (fun g => { g with c1 := g.c1 + 1 })) q ((s.ring q).c1 + 1)) q false
  have hdef : pushRecord s q bs = notify (shadowWrite (u.modRing q (fun g => { g with c1 := g.c1 + 1 })) q ((s.ring q).c1 + 1)) q false := by
    rw [hu]
    rfl
  rw [hdef, hother j h, ring_congr (shadowWrite_hif ..), State.modRing_ring, if_neg h, ring_congr huh]

/-- A ring that is not ON takes no event record: at most its count of lost records changes. R583. -/
theorem evtTo_off {s : State} {r : Nat} (h : (s.ring r).st ≠ .on) (f : Nat) (e : Evt) (c : Option Nat) (esq : W32) :
    ∃ l, (evtTo s f e c esq).ring r = { s.ring r with lost := l } := by
  have hfn (g : Fn → Fn) : (s.modFn f g).ring r = s.ring r := rfl
  unfold evtTo
  dsimp only
  split
  · exact ⟨_, hfn _⟩
  · next q _ =>
    split
    · next hq =>
      have hqr : r ≠ q := by
        rintro rfl
        have hroom := hq.2
        unfold Ring.room Ring.isOn at hroom
        rw [Bool.and_eq_true, beq_iff_eq] at hroom
        exact h hroom.1
      refine ⟨(s.ring r).lost, ?_⟩
      rw [State.modRing_ring, if_neg hqr, pushRecord_other _ _ hqr]
    · rw [State.modRing_ring]
      split
      · next hrq =>
        rw [← hrq, hfn]
        exact ⟨_, rfl⟩
      · exact ⟨_, hfn _⟩

theorem postEvent_off {s : State} {r : Nat} (h : (s.ring r).st ≠ .on) (c : Option Nat) (e : Evt) :
    ∃ l, (postEvent s c e).ring r = { s.ring r with lost := l } := by
  obtain ⟨u, hu⟩ : ∃ u : State, u = { s with hif := { s.hif with esq := s.hif.esq + 1 } } := ⟨_, rfl⟩
  have hur : u.ring r = s.ring r := by rw [hu]; rfl
  rw [← hur] at h ⊢
  cases c with
  | none =>
    have hdef : postEvent s none e = evtTo u 0 e none s.hif.esq := by rw [hu]; rfl
    rw [hdef]
    exact evtTo_off h ..
  | some c =>
    have hdef : postEvent s (some c) e = if (s.fn 0).evtMirror && (s.ctx c).fn != 0 then
        evtTo (evtTo u (s.ctx c).fn e (some c) s.hif.esq) 0 e (some c) s.hif.esq
      else evtTo u (s.ctx c).fn e (some c) s.hif.esq := by rw [hu]; rfl
    obtain ⟨l, hl⟩ := evtTo_off h (s.ctx c).fn e (some c) s.hif.esq
    rw [hdef]
    split
    · obtain ⟨l2, hl2⟩ := evtTo_off (s := evtTo u (s.ctx c).fn e (some c) s.hif.esq) (r := r) (by rw [hl]; exact h) 0 e (some c) s.hif.esq
      exact ⟨l2, by rw [hl2, hl]⟩
    · exact ⟨l, hl⟩

/-! ## Doorbells (R573 to R576) -/

theorem localRing_congr {s t : State} (h : t.hif.fns = s.hif.fns) (fn k : Nat) : localRing t fn k = localRing s fn k := by
  unfold localRing globalRing State.fn
  rw [h]

/-- A doorbell of a ring that is ON and the host's. -/
theorem doorbell_live {s : State} {r : Nat} (hon : (s.ring r).st = .on) (hfw : s.hif.fwRings ≤ r) :
    ¬(!(s.ring r).isOn || decide (r < s.hif.fwRings)) = true := by
  have h1 : (s.ring r).isOn = true := by unfold Ring.isOn; rw [hon]; rfl
  have h2 : decide (r < s.hif.fwRings) = false := decide_eq_false (Nat.not_lt.2 hfw)
  rw [h1, h2]
  decide

theorem doorbell_submit {s : State} {fn k r : Nat} (hr : localRing s fn k = some r) (hon : (s.ring r).st = .on) (hfw : s.hif.fwRings ≤ r)
    (hk : (s.ring r).kind = .submit) (arm : Bool) (v : W32) : doorbell s fn k arm v =
      if (s.ring r).entries < (v - (s.ring r).c0).toNat then ringError s r k v else s.modRing r (fun g => { g with c1 := v }) := by
  unfold doorbell
  rw [hr]
  dsimp only
  rw [if_neg (doorbell_live hon hfw), hk]

theorem doorbell_complete {s : State} {fn k r : Nat} (hr : localRing s fn k = some r) (hon : (s.ring r).st = .on) (hfw : s.hif.fwRings ≤ r)
    (hk : (s.ring r).kind = .complete) (arm : Bool) {v : W32} (hv : (v - (s.ring r).c0).toNat ≤ (s.ring r).count) : doorbell s fn k arm v =
      if arm then armRing (s.modRing r (fun g => { g with c0 := v })) r else s.modRing r (fun g => { g with c0 := v }) := by
  unfold doorbell
  rw [hr]
  dsimp only
  rw [if_neg (doorbell_live hon hfw), hk]
  dsimp only
  rw [if_neg (Nat.not_lt.2 hv)]

/-- TAIL of a submission ring follows the doorbell, after the bytes that the host wrote. -/
theorem submitDoorbell_moves {s : State} {fn k r : Nat} (hs : stopped s xPcie = false) (hr : localRing s fn k = some r)
    {v : W32} (w : Nat × Byte) (hon : (s.ring r).st = .on) (hfw : s.hif.fwRings ≤ r) (hk : (s.ring r).kind = .submit)
    (hv : (v - (s.ring r).c0).toNat ≤ (s.ring r).entries) :
    ∃ t, exec (.submitDoorbell fn k v [w]) s = .next t ∧ t = { (s.modRing r (fun g => { g with c1 := v })) with mem := t.mem } ∧
      ∀ j, t.byte j = if j = hostKey w.1 then w.2 else s.byte j := by
  obtain ⟨u, hu⟩ : ∃ u, u = s.setBytes (hostKey w.1) [w.2] := ⟨_, rfl⟩
  have huh : u.hif = s.hif := by rw [hu]; rfl
  have hur : u.ring r = s.ring r := ring_congr huh r
  have hdo : doorbell u fn k false v = u.modRing r (fun g => { g with c1 := v }) := by
    rw [doorbell_submit ((localRing_congr (congrArg Hif.fns huh) fn k).trans hr) (by rw [hur]; exact hon) (by rw [huh]; exact hfw)
      (by rw [hur]; exact hk), hur]
    exact if_neg (Nat.not_lt.2 hv)
  have hexec : exec (.submitDoorbell fn k v [w]) s = .next (doorbell u fn k false v) := by
    change execSubmitDoorbell fn k v [w] s = _
    unfold execSubmitDoorbell
    rw [hs, hu]
    rfl
  rw [hdo] at hexec
  refine ⟨_, hexec, ?_, fun j => ?_⟩
  · rw [hu]
    rfl
  · have hb : (u.modRing r (fun g => { g with c1 := v })).byte j = u.byte j := byte_congr (State.modRing_mem ..) j
    rw [hb, hu, byte_setBytes, List.length_singleton]
    by_cases hj : j = hostKey w.1
    · rw [if_pos (by omega), if_pos hj, hj, Nat.sub_self, nth_cons_zero]
    · rw [if_neg (by omega), if_neg hj]

/-- A doorbell beyond the entries puts its ring in error. R574. -/
theorem submitDoorbell_errs {s : State} {fn k r : Nat} (hs : stopped s xPcie = false) (hr : localRing s fn k = some r)
    {v : W32} (hon : (s.ring r).st = .on) (hfw : s.hif.fwRings ≤ r) (hk : (s.ring r).kind = .submit)
    (hv : (s.ring r).entries < (v - (s.ring r).c0).toNat) :
    ∃ t, exec (.submitDoorbell fn k v []) s = .next t ∧ (t.ring r).st = .error ∧ (t.ring r).c1 = (s.ring r).c1 ∧
      t.hif.esq = s.hif.esq + 1 := by
  obtain ⟨u, hu⟩ : ∃ u, u = s.modRing r (fun g => { g with st := .error }) := ⟨_, rfl⟩
  have hur : u.ring r = { s.ring r with st := .error } := by rw [hu, State.modRing_ring_same]
  have hue : u.hif.esq = s.hif.esq := by rw [hu]; rfl
  have hexec : exec (.submitDoorbell fn k v []) s = .next (postEvent u none { code := 0x60, sev := 2, d0 := r, d1 := k, d2 := v.toNat }) := by
    change execSubmitDoorbell fn k v [] s = _
    unfold execSubmitDoorbell
    have h : doorbell s fn k false v = ringError s r k v := (doorbell_submit hr hon hfw hk false v).trans (if_pos hv)
    rw [hs]
    refine congrArg Host.Outcome.next (h.trans ?_)
    rw [hu]
    rfl
  obtain ⟨l, hl⟩ := postEvent_off (s := u) (r := r) (by rw [hur]; exact RingSt.noConfusion) none { code := 0x60, sev := 2, d0 := r, d1 := k, d2 := v.toNat }
  have he := postEvent_esq u none { code := 0x60, sev := 2, d0 := r, d1 := k, d2 := v.toNat }
  refine ⟨_, hexec, ?_, ?_, he.trans (congrArg (· + 1) hue)⟩
  · rw [hl, hur]
  · rw [hl, hur]

theorem headDoorbell_moves {s : State} {fn k r : Nat} (hs : stopped s xPcie = false) (hr : localRing s fn k = some r)
    {v : W32} (hon : (s.ring r).st = .on) (hfw : s.hif.fwRings ≤ r) (hk : (s.ring r).kind = .complete)
    (hv : (v - (s.ring r).c0).toNat ≤ (s.ring r).count) :
    exec (.headDoorbell fn k v) s = .next (s.modRing r (fun g => { g with c0 := v })) := by
  change execHeadDoorbell fn k v s = _
  unfold execHeadDoorbell
  rw [hs, doorbell_complete hr hon hfw hk false hv]
  rfl

/-! ## Notification (R579, R580) -/

theorem notify_quiet {s : State} {r : Nat} (h : (s.ring r).count < max 1 (s.ring r).modRecs) : notify s r false = s := by
  unfold notify
  dsimp only
  refine if_neg ?_
  rw [decide_eq_false (Nat.not_le.2 h), Bool.false_and, Bool.or_self, Bool.and_false]
  exact Bool.false_ne_true

/-- A message is sent, and the ring is no longer armed. -/
theorem notify_sends {s : State} {r : Nat} {force : Bool} (hm : (s.ring r).msixEn = true) (ha : (s.ring r).armed = true)
    (hn : max 1 (s.ring r).modRecs ≤ (s.ring r).count ∨ force = true ∧ 0 < (s.ring r).count)
    (hv : (s.ring r).vector < (s.fn (s.ring r).func).vecCount) : let t := notify s r force
    t.ring r = { s.ring r with armed := false } ∧
      t.hif.msix = s.hif.msix ++ [((s.ring r).func, (s.fn (s.ring r).func).vecBase + (s.ring r).vector)] := by
  have hgo : ((s.ring r).msixEn && (s.ring r).armed &&
      (decide (max 1 (s.ring r).modRecs ≤ (s.ring r).count) || (force && decide (0 < (s.ring r).count)))) = true := by
    rw [hm, ha]
    simpa using hn
  have hdef : notify s r force = { (s.modRing r (fun g => { g with armed := false })) with
      hif := { (s.modRing r (fun g => { g with armed := false })).hif with
        msix := s.hif.msix ++ [((s.ring r).func, (s.fn (s.ring r).func).vecBase + (s.ring r).vector)] } } := by
    unfold notify
    dsimp only
    rw [if_pos hgo]
    exact if_pos hv
  intro t
  have ht : t = _ := hdef
  rw [ht]
  exact ⟨State.modRing_ring_same s r (fun g => { g with armed := false }), rfl⟩

theorem exec_ringArm {s : State} {fn k r : Nat} (hs : stopped s xPcie = false) (hr : localRing s fn k = some r)
    {v : W32} (hon : (s.ring r).st = .on) (hfw : s.hif.fwRings ≤ r) (hk : (s.ring r).kind = .complete)
    (hv : (v - (s.ring r).c0).toNat ≤ (s.ring r).count) :
    exec (.ringArm fn k v) s = .next (notify (s.modRing r (fun g => { g with
      c0 := v
      armed := true })) r false) := by
  have hmod := modRing_modRing s r (fun g => { g with c0 := v }) (fun g => { g with armed := true })
  change execRingArm fn k v s = _
  unfold execRingArm
  rw [hs, doorbell_complete hr hon hfw hk true hv, if_pos rfl]
  unfold armRing
  rw [hmod]
  rfl

theorem ringArm_arms {s : State} {fn k r : Nat} (hs : stopped s xPcie = false) (hr : localRing s fn k = some r)
    {v : W32} (hon : (s.ring r).st = .on) (hfw : s.hif.fwRings ≤ r) (hk : (s.ring r).kind = .complete)
    (hv : (v - (s.ring r).c0).toNat ≤ (s.ring r).count) (hc : ({ s.ring r with c0 := v } : Ring).count < max 1 (s.ring r).modRecs) :
    exec (.ringArm fn k v) s = .next (s.modRing r (fun g => { g with
      c0 := v
      armed := true })) := by
  rw [exec_ringArm hs hr hon hfw hk hv, notify_quiet]
  rw [State.modRing_ring_same]
  exact hc

theorem ringArm_sends {s : State} {fn k r : Nat} (hs : stopped s xPcie = false) (hr : localRing s fn k = some r)
    {v : W32} (hon : (s.ring r).st = .on) (hfw : s.hif.fwRings ≤ r) (hk : (s.ring r).kind = .complete)
    (hv : (v - (s.ring r).c0).toNat ≤ (s.ring r).count) (hc : max 1 (s.ring r).modRecs ≤ ({ s.ring r with c0 := v } : Ring).count)
    (hm : (s.ring r).msixEn = true) (hvec : (s.ring r).vector < (s.fn (s.ring r).func).vecCount) :
    ∃ t, exec (.ringArm fn k v) s = .next t ∧ (t.ring r).c0 = v ∧ (t.ring r).armed = false ∧
      t.hif.msix = s.hif.msix ++ [((s.ring r).func, (s.fn (s.ring r).func).vecBase + (s.ring r).vector)] := by
  obtain ⟨u, hu⟩ : ∃ u, u = s.modRing r (fun g => { g with
    c0 := v
    armed := true }) := ⟨_, rfl⟩
  have hur : u.ring r = { s.ring r with
    c0 := v
    armed := true } := by rw [hu, State.modRing_ring_same]
  have hfn (f : Nat) : u.fn f = s.fn f := by rw [hu]; rfl
  have hmsix : u.hif.msix = s.hif.msix := by rw [hu]; rfl
  obtain ⟨h1, h2⟩ := notify_sends (s := u) (r := r) (force := false) (by rw [hur]; exact hm) (by rw [hur]) (.inl (by rw [hur]; exact hc))
    (by rw [hur, hfn]; exact hvec)
  have hexec := exec_ringArm hs hr hon hfw hk hv
  rw [← hu] at hexec
  rw [hur] at h1
  refine ⟨_, hexec, ?_, ?_, ?_⟩
  · rw [h1]
  · rw [h1]
  · rw [h2, hur, hfn, hmsix]

theorem moderationExpiry_sends {s : State} {r : Nat} (hk : (s.ring r).kind = .complete) (ht : (s.ring r).modTicks ≠ 0)
    (hon : (s.ring r).st = .on) (hm : (s.ring r).msixEn = true) (ha : (s.ring r).armed = true) (hc : 0 < (s.ring r).count)
    (hv : (s.ring r).vector < (s.fn (s.ring r).func).vecCount) :
    ∃ t, exec (.moderationExpiry r) s = .next t ∧ (t.ring r).armed = false ∧
      t.hif.msix = s.hif.msix ++ [((s.ring r).func, (s.fn (s.ring r).func).vecBase + (s.ring r).vector)] := by
  obtain ⟨h1, h2⟩ := notify_sends (force := true) hm ha (.inr ⟨rfl, hc⟩) hv
  have hisOn : (s.ring r).isOn = true := by unfold Ring.isOn; rw [hon]; rfl
  exact ⟨_, congrArg Host.Outcome.next (if_pos ⟨.inl hk, ht, hisOn⟩), congrArg Ring.armed h1, h2⟩

end Sys2Proof.Proofs
end

section
/-! Ring descriptors and their enable machine, the functions' ranges, BAR4 and the link (14, R560 to R572). -/

namespace Sys2Proof.Proofs
open Sys2Proof Sys2Proof.Machine

/-! ## Descriptors (R571, R572) -/

theorem exec_ringDescWrite_base {s : State} {fn k r : Nat} (hs : stopped s xPcie = false) (hr : localRing s fn k = some r) (v : W64) :
    exec (.ringDescWrite fn k 48 8 v) s = .next (ringWrite s fn r 48 8 (v.toNat % 2 ^ (8 * 8)) false) := by
  change execRingDescWrite fn k 48 8 v s = _
  unfold execRingDescWrite
  rw [hs, hr]
  rfl

/-- A descriptor of an enabled ring keeps its fields, and the write is an error. -/
theorem ringDescWrite_errs {s : State} {fn k r : Nat} (hs : stopped s xPcie = false) (hr : localRing s fn k = some r) {v : W64}
    (hon : (s.ring r).st = .on) (hv : (s.ring r).base ≠ v) :
    ∃ t, exec (.ringDescWrite fn k 48 8 v) s = .next t ∧ t.ring r = s.ring r ∧ (t.fn fn).descErr = true := by
  have hexec := exec_ringDescWrite_base hs hr v
  have he := patch_base_en (s.ring r) fn (v.toNat % 2 ^ (8 * 8))
  have hb := patch_base (s.ring r) fn v
  have hdo : ringWrite s fn r 48 8 (v.toNat % 2 ^ (8 * 8)) false = descErr s fn := by
    unfold ringWrite
    dsimp only
    generalize patch ((s.ring r).bytes fn) 48 8 (v.toNat % 2 ^ (8 * 8)) = bs at he hb
    rw [if_neg (by rw [hon]; exact RingSt.noConfusion), he, if_pos rfl]
    refine if_neg (fun h => hv ?_)
    have h2 := congrArg Ring.base h
    exact h2.symm.trans hb
  rw [hdo] at hexec
  refine ⟨_, hexec, rfl, ?_⟩
  unfold descErr
  rw [State.modFn_fn_same]

/-- The fields of a disabled ring that nobody is attached to, written through function `f`. -/
def descSet (g : Ring) (f : Nat) (bs : List Byte) : Ring :=
  { (if (g.fields bs false).kind = .bucket then ({ g.fields bs false with func := f } : Ring).zeroed else { g.fields bs false with func := f }) with
    en := false }

theorem descSet_fields (g : Ring) (f : Nat) (bs : List Byte) :
    (descSet g f bs).base = field64 bs 48 ∧ (descSet g f bs).func = f ∧ (descSet g f bs).st = g.st := by
  unfold descSet
  split <;> exact ⟨rfl, rfl, rfl⟩

/-- A descriptor of a ring that is OFF takes its base. -/
theorem ringDescWrite_sets {s : State} {fn k r : Nat} (hs : stopped s xPcie = false) (hr : localRing s fn k = some r) (v : W64)
    (hoff : (s.ring r).st = .off) (hen : (s.ring r).en = false) (hp : (s.ring r).prod = none) (hc : (s.ring r).cons = none) :
    ∃ t, exec (.ringDescWrite fn k 48 8 v) s = .next t ∧ (t.ring r).base = v ∧ (t.ring r).func = fn ∧ (t.ring r).st = .off := by
  have hexec := exec_ringDescWrite_base hs hr v
  have he := patch_base_en (s.ring r) fn (v.toNat % 2 ^ (8 * 8))
  have hb := patch_base (s.ring r) fn v
  generalize hbs : patch ((s.ring r).bytes fn) 48 8 (v.toNat % 2 ^ (8 * 8)) = bs at he hb
  have hdo : ringWrite s fn r 48 8 (v.toNat % 2 ^ (8 * 8)) false = s.modRing r (fun g => descSet g fn bs) := by
    unfold ringWrite
    dsimp only
    rw [if_pos hoff, hbs, he, hen, hp, hc]
    refine modRing_congr ?_
    simp only [Option.isSome_none, Bool.or_self, Bool.false_eq_true, if_false, and_true]
    rfl
  rw [hdo] at hexec
  obtain ⟨h1, h2, h3⟩ := descSet_fields (s.ring r) fn bs
  refine ⟨_, hexec, ?_⟩
  rw [State.modRing_ring_same]
  exact ⟨h1.trans hb, h2, h3.trans hoff⟩

theorem exec_ringEnable_off {s : State} {fn k r : Nat} (hs : stopped s xPcie = false) (hr : localRing s fn k = some r)
    (hoff : (s.ring r).st = .off) : exec (.ringEnable fn k) s = .next (s.modRing r (fun g => { g.zeroed with
      func := fn
      en := true
      st := .on })) := by
  change execRingEnable fn k s = _
  unfold execRingEnable
  rw [hs, hr, if_neg Bool.false_ne_true]
  refine congrArg Host.Outcome.next (modRing_congr ?_)
  unfold Ring.writeEn
  dsimp only
  rw [hoff]
  rfl

theorem exec_ringDisable_on {s : State} {fn k r : Nat} (hs : stopped s xPcie = false) (hr : localRing s fn k = some r)
    (hon : (s.ring r).st = .on) : exec (.ringDisable fn k) s = .next (s.modRing r (fun g => { g with
      en := false
      st := .disabling
      enPend := false })) := by
  change execRingDisable fn k s = _
  unfold execRingDisable
  rw [hs, hr, if_neg Bool.false_ne_true]
  refine congrArg Host.Outcome.next (modRing_congr ?_)
  unfold Ring.writeEn
  dsimp only
  rw [hon]

theorem exec_ringDisableDone {s : State} {r : Nat} (hr : r < 65536) (hst : (s.ring r).st = .disabling) :
    ((s.ring r).enPend = false → exec (.ringDisableDone r) s = .next (s.modRing r (fun g => { g with st := .off }))) ∧
    ((s.ring r).enPend = true → exec (.ringDisableDone r) s = .next (s.modRing r (fun g => { g.zeroed with
      st := .on
      enPend := false }))) := by
  have hexec : exec (.ringDisableDone r) s = .next (s.modRing r Ring.disableDone) := congrArg Host.Outcome.next (if_pos hr)
  have hgo : ¬(s.ring r).st ≠ .disabling := fun h => h hst
  rw [hexec]
  refine ⟨fun h => congrArg Host.Outcome.next (modRing_congr ?_), fun h => congrArg Host.Outcome.next (modRing_congr ?_)⟩
  · unfold Ring.disableDone
    rw [if_neg hgo, if_neg (by rw [h]; exact Bool.false_ne_true)]
  · unfold Ring.disableDone
    rw [if_neg hgo, if_pos h]

/-! ## Ranges of the functions (R566, R567) -/

theorem extract_bits (v : W64) (o n : Nat) : bitsOf v.toNat o n = (v.extractLsb' o n).toNat := by
  rw [BitVec.extractLsb'_toNat, Nat.shiftRight_eq_div_pow]
  rfl

theorem fnConflict_none {s : State} {f : Nat} {p : Fn → Bool} (h : ∀ x ∈ s.hif.fns, x.1 ≠ f → p x.2 = false) : fnConflict s f p = false := by
  unfold fnConflict
  rw [List.any_eq_false]
  intro x hx
  by_cases hf : x.1 = f
  · rw [hf, bne_self_eq_false, Bool.false_and]
    exact Bool.false_ne_true
  · rw [h x hx hf, Bool.and_false]
    exact Bool.false_ne_true

theorem exec_hifFnRingsWrite {s : State} {f : Nat} (v : W64) (hs : stopped s xPcie = false) (hf : f < 256) :
    exec (.hifFnRingsWrite f v) s = .next (writeFnRings s f (v.extractLsb' 0 16).toNat (v.extractLsb' 32 17).toNat) := by
  change execHifFnRingsWrite f v s = _
  unfold execHifFnRingsWrite
  rw [if_neg (by rw [hs]; simp; omega), extract_bits, extract_bits]

theorem writeFnRings_errs {s : State} {f base n : Nat}
    (h : overlap base n 0 s.hif.fwRings = true ∨ 65536 < base + n ∨ rangeBusy s (s.fn f).ringsBase (s.fn f).ringsCount = true) :
    writeFnRings s f base n = s.modFn 0 (fun x => { x with descErr := true }) := by
  unfold writeFnRings
  refine if_pos ?_
  rcases h with h | h | h
  · rw [h, Bool.true_or, Bool.true_or, Bool.true_or]
  · rw [decide_eq_true h, Bool.or_true, Bool.true_or]
  · rw [h, Bool.or_true]

theorem writeFnRings_sets {s : State} {f base n : Nat} (h1 : overlap base n 0 s.hif.fwRings = false) (h2 : base + n ≤ 65536)
    (h3 : rangeBusy s (s.fn f).ringsBase (s.fn f).ringsCount = false)
    (h4 : ∀ x ∈ s.hif.fns, x.1 ≠ f → overlap base n x.2.ringsBase x.2.ringsCount = false) :
    writeFnRings s f base n = s.modFn f (fun x => { x with
      ringsBase := base
      ringsCount := n }) := by
  unfold writeFnRings
  refine if_neg ?_
  rw [h1, fnConflict_none h4, decide_eq_false (Nat.not_lt.2 h2), h3]
  decide

theorem exec_hifFnVecWrite {s : State} {f : Nat} {v : W64} (hs : stopped s xPcie = false) (hf : f < 256) {base n : Nat}
    (hbase : (v.extractLsb' 0 11).toNat = base) (hn : (v.extractLsb' 32 12).toNat = n) (h1 : base + n ≤ 2048)
    (h2 : n ≤ (if f = 0 then 2048 else 64)) (h3 : ∀ x ∈ s.hif.fns, x.1 ≠ f → overlap base n x.2.vecBase x.2.vecCount = false) :
    exec (.hifFnVecWrite f v) s = .next (s.modFn f (fun x => { x with
      vecBase := base
      vecCount := n })) := by
  change execHifFnVecWrite f v s = _
  unfold execHifFnVecWrite
  rw [if_neg (by rw [hs]; simp; omega), extract_bits, extract_bits, hbase, hn]
  unfold writeFnVec
  refine congrArg Host.Outcome.next (if_neg ?_)
  rw [fnConflict_none h3, decide_eq_false (Nat.not_lt.2 h1), decide_eq_false (Nat.not_lt.2 h2)]
  decide

/-! ## BAR4 (R565) -/

theorem bar4Read_good {s s1 : State} {pl : Place} {n : Nat} {bs : List Byte} (h : readBytes s pl n = (s1, bs, .ok)) :
    bar4Read s pl n = (s1, BitVec.ofNat 64 (bytesToNat bs)) := by
  rw [bar4Read.eq_def, h]

theorem exec_bar4Access_read {s s1 : State} {off size : Nat} {pl : Place} {w : W64} (hs : stopped s xPcie = false)
    (hen : s.hif.bar4En = true) (hoff : off + size ≤ 2 ^ 32) (hsize : size ≤ 8) (hpl : locate s (s.hif.bar4Base * 2 ^ 32 + off) = some pl)
    (hread : bar4Read s pl size = (s1, w)) :
    exec (.bar4Access off none size) s = .next (setRdata s1 (some w)) := by
  have hgo : ¬(!s.hif.bar4En ∨ 2 ^ 32 < off + size) := by
    rw [hen]
    simp
    exact hoff
  have hexec : exec (.bar4Access off none size) s = execBar4Access off none size s := rfl
  rw [hexec, execBar4Access.eq_def, hs]
  refine congrArg Host.Outcome.next ((if_neg Bool.false_ne_true).trans ((if_neg hgo).trans ?_))
  rw [hpl, Nat.min_eq_left hsize]
  exact congrArg (fun r : State × W64 => setRdata r.1 (some r.2)) hread

end Sys2Proof.Proofs
end

section
/-! Resets of functions, and the link (14, R560, R585, R586). -/

namespace Sys2Proof.Proofs
open Sys2Proof Sys2Proof.Machine

/-! ## Rings of a function that is reset (R585) -/

theorem tget_of_not_key {α : Type} {d : α} {t : Tab α} {k : Nat} (h : k ∉ t.map (fun p => p.1)) : tget d t k = d := by
  rcases tget_mem (d := d) (t := t) (k := k) with h' | h'
  · exact h'
  · exact absurd (List.mem_map.2 ⟨_, h', rfl⟩) h

theorem modRing_frame (s : State) (r : Nat) (f : Ring → Ring) :
    s.modRing r f = { s with hif := { s.hif with rings := (s.modRing r f).hif.rings } } := rfl

/-- The rings of a range are OFF, each with the rest as it was. -/
theorem ringsOff_fold (base n : Nat) (ks : List Nat) (s : State) :
    let t := ks.foldl (fun (s : State) r => if base ≤ r ∧ r < base + n then s.modRing r Ring.off else s) s
    t = { s with hif := { s.hif with rings := t.hif.rings } } ∧
      ∀ j, t.ring j = if j ∈ ks ∧ base ≤ j ∧ j < base + n then (s.ring j).off else s.ring j := by
  induction ks generalizing s with
  | nil => exact ⟨rfl, fun j => (if_neg (by simp)).symm⟩
  | cons k ks ih =>
    obtain ⟨u, hu⟩ : ∃ u, u = if base ≤ k ∧ k < base + n then s.modRing k Ring.off else s := ⟨_, rfl⟩
    have huf : u = { s with hif := { s.hif with rings := u.hif.rings } } := by
      rw [hu]
      split <;> rfl
    have hur (j : Nat) : u.ring j = if j = k ∧ base ≤ j ∧ j < base + n then (s.ring j).off else s.ring j := by
      rw [hu]
      by_cases hk : base ≤ k ∧ k < base + n
      · rw [if_pos hk, State.modRing_ring]
        by_cases hj : j = k
        · rw [if_pos hj, if_pos ⟨hj, hj ▸ hk⟩, hj]
        · rw [if_neg hj, if_neg (fun h => hj h.1)]
      · rw [if_neg hk, if_neg]
        rintro ⟨rfl, h⟩
        exact hk h
    obtain ⟨h1, h2⟩ := ih u
    intro t
    have ht : t = ks.foldl (fun (s : State) r => if base ≤ r ∧ r < base + n then s.modRing r Ring.off else s) u := by rw [hu]; rfl
    rw [ht]
    refine ⟨?_, fun j => ?_⟩
    · rw [h1] at ⊢
      rw [huf]
    · rw [h2]
      by_cases hr : base ≤ j ∧ j < base + n
      · by_cases hjk : j = k
        · refine Eq.trans ?_ (if_pos ⟨List.mem_cons.2 (.inl hjk), hr⟩).symm
          rw [hur, if_pos (⟨hjk, hr⟩ : j = k ∧ base ≤ j ∧ j < base + n)]
          split <;> rfl
        · rw [hur, if_neg (fun h => hjk h.1 : ¬(j = k ∧ base ≤ j ∧ j < base + n))]
          exact if_congr ⟨fun h => ⟨List.mem_cons_of_mem _ h.1, hr⟩, fun h => ⟨(List.mem_cons.1 h.1).resolve_left hjk, hr⟩⟩ rfl rfl
      · rw [if_neg (fun h => hr h.2), if_neg (fun h => hr h.2), hur, if_neg (fun h => hr h.2)]

theorem ringsOff_off (s : State) (f : Nat) : let t := ringsOff s f
    t = { s with hif := { s.hif with rings := t.hif.rings } } ∧
      ∀ j, t.ring j = if (s.fn f).ringsBase ≤ j ∧ j < (s.fn f).ringsBase + (s.fn f).ringsCount then (s.ring j).off else s.ring j := by
  obtain ⟨h1, h2⟩ := ringsOff_fold (s.fn f).ringsBase (s.fn f).ringsCount (s.hif.rings.map (fun r => r.1)) s
  refine ⟨h1, fun j => (h2 j).trans ?_⟩
  by_cases hj : j ∈ s.hif.rings.map (fun r => r.1)
  · exact if_congr ⟨fun h => h.2, fun h => ⟨hj, h⟩⟩ rfl rfl
  · have hd : s.ring j = {} := tget_of_not_key hj
    rw [if_neg (fun h => hj h.1), hd]
    split <;> rfl

/-- State `t` is `s` but for its rings and functions, whose ranges stay, and its rings that were OFF are OFF. -/
structure Quieted (s t : State) : Prop where
  frame : t = { s with hif := { s.hif with
    rings := t.hif.rings
    fns := t.hif.fns } }
  ranges : ∀ j, (t.fn j).ringsBase = (s.fn j).ringsBase ∧ (t.fn j).ringsCount = (s.fn j).ringsCount
  off : ∀ r, (s.ring r).st = .off → (t.ring r).st = .off

theorem Quieted.refl (s : State) : Quieted s s := ⟨rfl, fun _ => ⟨rfl, rfl⟩, fun _ h => h⟩

theorem Quieted.trans {s t u : State} (h : Quieted s t) (h' : Quieted t u) : Quieted s u := by
  refine ⟨?_, fun j => ⟨(h'.ranges j).1.trans (h.ranges j).1, (h'.ranges j).2.trans (h.ranges j).2⟩, fun r hr => h'.off r (h.off r hr)⟩
  have h1 := h.frame
  have h2 := h'.frame
  rw [h2] at ⊢
  rw [h1]

theorem unbindFn_none {s : State} (h : ∀ c ∈ s.ctxs, c.2.bound = false) (f : Nat) : unbindFn s f = s := by
  have hf : s.ctxs.filter (fun c => c.2.bound && c.2.fn == f) = [] := by
    rw [List.filter_eq_nil_iff]
    intro c hc
    rw [h c hc, Bool.false_and]
    exact Bool.false_ne_true
  unfold unbindFn
  rw [hf]
  rfl

/-- What the reset of a function without contexts does. -/
theorem resetFn_unbound {s : State} (h : ∀ c ∈ s.ctxs, c.2.bound = false) (f : Nat) : let t := resetFn s f
    Quieted s t ∧ (t.fn f).evtValid = false ∧
      ∀ r, (s.fn f).ringsBase ≤ r → r < (s.fn f).ringsBase + (s.fn f).ringsCount → (t.ring r).st = .off ∧ (t.ring r).waiting = [] := by
  obtain ⟨u, hu⟩ : ∃ u, u = ringsOff s f := ⟨_, rfl⟩
  obtain ⟨h1, h2⟩ := ringsOff_off s f
  rw [← hu] at h1 h2
  have hdef : resetFn s f = u.modFn f (fun n => { n with
      evtValid := false
      evtMirror := false
      evtRing := 0 }) := by
    unfold resetFn
    rw [unbindFn_none h, hu]
  have hfn (j : Nat) : u.fn j = s.fn j := by rw [h1]; rfl
  have hring (j : Nat) : (u.modFn f (fun n => { n with
      evtValid := false
      evtMirror := false
      evtRing := 0 })).ring j = u.ring j := rfl
  intro t
  have ht : t = _ := hdef
  rw [ht]
  refine ⟨⟨?_, fun j => ?_, fun r hr => ?_⟩, ?_, fun r hr1 hr2 => ?_⟩
  · rw [h1]
    rfl
  · rw [State.modFn_fn]
    split
    · next hj =>
      rw [hj, hfn]
      exact ⟨rfl, rfl⟩
    · rw [hfn]
      exact ⟨rfl, rfl⟩
  · rw [hring, h2]
    split
    · rfl
    · exact hr
  · rw [State.modFn_fn_same]
  · rw [hring, h2, if_pos ⟨hr1, hr2⟩]
    exact ⟨rfl, rfl⟩

/-- The resets of several functions. -/
theorem resetFns_unbound (fs : List Nat) {s : State} (h : ∀ c ∈ s.ctxs, c.2.bound = false) : let t := fs.foldl resetFn s
    Quieted s t ∧ ∀ f ∈ fs, ∀ r, (s.fn f).ringsBase ≤ r → r < (s.fn f).ringsBase + (s.fn f).ringsCount → (t.ring r).st = .off := by
  induction fs generalizing s with
  | nil => exact ⟨.refl s, fun _ hf => absurd hf (by simp)⟩
  | cons f fs ih =>
    obtain ⟨hq, -, hoff⟩ := resetFn_unbound h f
    have hctxs : (resetFn s f).ctxs = s.ctxs := by rw [hq.frame]
    obtain ⟨hq2, hoff2⟩ := ih (s := resetFn s f) (by rw [hctxs]; exact h)
    refine ⟨hq.trans hq2, fun g hg r hr1 hr2 => ?_⟩
    rcases List.mem_cons.1 hg with rfl | hg
    · exact hq2.off r (hoff r hr1 hr2).1
    · obtain ⟨hb, hc⟩ := hq.ranges g
      exact hoff2 g hg r (by rw [hb]; exact hr1) (by rw [hb, hc]; exact hr2)

/-! ## The ranges at their reset values (R566, R567, R586) -/

theorem rangesZero_fold (ks : List Nat) (s : State) :
    let t := ks.foldl (fun (s : State) f => s.modFn f (fun n => { n with ringsBase := 0, ringsCount := 0, vecBase := 0, vecCount := 0 })) s
    t = { s with hif := { s.hif with fns := t.hif.fns } } ∧
      ∀ j, t.fn j = if j ∈ ks then { s.fn j with ringsBase := 0, ringsCount := 0, vecBase := 0, vecCount := 0 } else s.fn j := by
  induction ks generalizing s with
  | nil => exact ⟨rfl, fun j => (if_neg (by simp)).symm⟩
  | cons k ks ih =>
    obtain ⟨u, hu⟩ : ∃ u, u = s.modFn k (fun n => { n with ringsBase := 0, ringsCount := 0, vecBase := 0, vecCount := 0 }) := ⟨_, rfl⟩
    have huf : u = { s with hif := { s.hif with fns := u.hif.fns } } := by rw [hu]; rfl
    have hun (j : Nat) : u.fn j = if j = k then { s.fn j with ringsBase := 0, ringsCount := 0, vecBase := 0, vecCount := 0 } else s.fn j := by
      rw [hu, State.modFn_fn]
      split
      · next h => rw [h]
      · rfl
    obtain ⟨h1, h2⟩ := ih u
    intro t
    have ht : t = ks.foldl (fun (s : State) f => s.modFn f (fun n => { n with ringsBase := 0, ringsCount := 0, vecBase := 0, vecCount := 0 })) u := by
      rw [hu]
      rfl
    rw [ht]
    refine ⟨?_, fun j => ?_⟩
    · rw [h1] at ⊢
      rw [huf]
    · rw [h2, hun]
      by_cases hjk : j = k
      · rw [if_pos hjk, if_pos (List.mem_cons.2 (.inl hjk))]
        split <;> rfl
      · rw [if_neg hjk]
        exact if_congr ⟨fun h => List.mem_cons_of_mem _ h, fun h => (List.mem_cons.1 h).resolve_left hjk⟩ rfl rfl

theorem resetRanges_zero (s : State) : let t := resetRanges s
    t = { s with hif := { s.hif with fns := t.hif.fns } } ∧
      ∀ f, (t.fn f).ringsCount = 0 ∧ (t.fn f).vecCount = if f = 0 then 2048 else 0 := by
  obtain ⟨u, hu⟩ : ∃ u, u = (s.hif.fns.map (fun f => f.1)).foldl (fun (s : State) f => s.modFn f (fun n =>
    { n with ringsBase := 0, ringsCount := 0, vecBase := 0, vecCount := 0 })) s := ⟨_, rfl⟩
  obtain ⟨h1, h2⟩ := rangesZero_fold (s.hif.fns.map (fun f => f.1)) s
  rw [← hu] at h1 h2
  have hz (f : Nat) : (u.fn f).ringsCount = 0 ∧ (u.fn f).vecCount = 0 := by
    rw [h2]
    by_cases hf : f ∈ s.hif.fns.map (fun f => f.1)
    · rw [if_pos hf]
      exact ⟨rfl, rfl⟩
    · have hd : s.fn f = {} := tget_of_not_key hf
      rw [if_neg hf, hd]
      exact ⟨rfl, rfl⟩
  have hdef : resetRanges s = u.modFn 0 (fun n => { n with vecCount := 2048 }) := by rw [hu]; rfl
  intro t
  have ht : t = _ := hdef
  rw [ht]
  refine ⟨?_, fun f => ?_⟩
  · rw [h1]
    rfl
  · rw [State.modFn_fn]
    split
    · exact ⟨(hz 0).1, rfl⟩
    · exact hz f

/-- What a reset of every function, none of which has a context, does. -/
structure AllReset (s t : State) : Prop where
  frame : t = { s with hif := { s.hif with
    rings := t.hif.rings
    fns := t.hif.fns } }
  ranges : ∀ f, (t.fn f).ringsCount = 0 ∧ (t.fn f).vecCount = if f = 0 then 2048 else 0
  off : ∀ f r, f < 256 → (s.fn f).ringsBase ≤ r → r < (s.fn f).ringsBase + (s.fn f).ringsCount → (t.ring r).st = .off

theorem resetAllFns_unbound {s : State} (h : ∀ c ∈ s.ctxs, c.2.bound = false) : AllReset s (resetAllFns s) := by
  unfold resetAllFns
  obtain ⟨hq, hoff⟩ := resetFns_unbound (List.range 256) h
  obtain ⟨fs, hfs⟩ : ∃ fs, fs = List.range 256 := ⟨_, rfl⟩
  rw [← hfs] at hq hoff ⊢
  generalize fs.foldl resetFn s = u at hq hoff
  obtain ⟨hf, hr⟩ := resetRanges_zero u
  generalize resetRanges u = t at hf hr
  have hring (r : Nat) : t.ring r = u.ring r := by rw [hf]; rfl
  refine ⟨?_, hr, fun f r hlt h1 h2 => ?_⟩
  · have hq' := hq.frame
    rw [hf] at ⊢
    rw [hq']
  · rw [hring]
    exact hoff f (by rw [hfs]; exact List.mem_range.2 hlt) r h1 h2

end Sys2Proof.Proofs
end

section
/-! The context of a function that is reset, and the host interface as a whole (14, R560 to R586). -/

namespace Sys2Proof.Proofs
open Sys2Proof Sys2Proof.Machine

/-! ## A context unbound without a record (R585) -/

theorem mem_insertSeq {q p : Nat × SeqEnt} {xs : List (Nat × SeqEnt)} : p ∈ insertSeq q xs ↔ p = q ∨ p ∈ xs := by
  induction xs with
  | nil => rw [insertSeq, List.mem_singleton]; simp
  | cons x xs ih =>
    unfold insertSeq
    split
    · exact List.mem_cons
    · rw [List.mem_cons, ih, List.mem_cons]
      exact or_left_comm

theorem mem_heldSeqs {s : State} {ctx : Nat} {p : Nat × SeqEnt} : p ∈ heldSeqs s ctx ↔ p ∈ s.seqs ∧ (p.2.held && p.2.ctx == ctx) = true := by
  have h (xs acc : List (Nat × SeqEnt)) : p ∈ xs.foldl (fun l x => insertSeq x l) acc ↔ p ∈ acc ∨ p ∈ xs := by
    induction xs generalizing acc with
    | nil => simp
    | cons x xs ih =>
      rw [List.foldl_cons, ih, mem_insertSeq, List.mem_cons]
      exact or_assoc.trans or_left_comm
  unfold heldSeqs
  rw [h, List.mem_filter]
  simp

/-- Sequences that are dropped leave the table. -/
theorem dropSeqs_seqs (qs : List (Nat × SeqEnt)) (s : State) :
    (qs.foldl (fun (s : State) q => s.modSeqEnt q.1 (fun _ => {})) s).seqs = s.seqs.filter (fun p => p.1 ∉ qs.map (fun q => q.1)) := by
  induction qs generalizing s with
  | nil => simp
  | cons q qs ih =>
    have h : (s.modSeqEnt q.1 (fun _ => {})).seqs = s.seqs.filter (fun p => p.1 != q.1) := by
      unfold State.modSeqEnt tset
      dsimp only
      exact if_pos rfl
    rw [List.foldl_cons, ih, h, List.filter_filter]
    refine List.filter_congr (fun p _ => ?_)
    rw [Bool.eq_iff_iff]
    simp only [List.map_cons, List.mem_cons, not_or, Bool.and_eq_true, decide_eq_true_eq, bne_iff_ne, ne_eq]
    exact And.comm

theorem dropSeqs_none (s : State) (ctx : Nat) :
    heldSeqs ((heldSeqs s ctx).foldl (fun (s : State) q => s.modSeqEnt q.1 (fun _ => {})) s) ctx = [] := by
  rw [List.eq_nil_iff_forall_not_mem]
  intro p hp
  obtain ⟨hmem, hheld⟩ := mem_heldSeqs.1 hp
  rw [dropSeqs_seqs, List.mem_filter] at hmem
  obtain ⟨hs, hnot⟩ := hmem
  exact of_decide_eq_true hnot (List.mem_map.2 ⟨p, mem_heldSeqs.2 ⟨hs, hheld⟩, rfl⟩)

theorem refreshLed_ctx (s : State) (c : Nat) : (refreshLed s).ctx c = s.ctx c := rfl

theorem teardown_empties (s : State) (ctx : Nat) : (teardown s ctx).ctx ctx = {} := by
  unfold teardown
  dsimp only
  rw [refreshLed_ctx, State.modCtx_ctx_same]

theorem settleUnbind_silent (s : State) (ctx : Nat) : (settleUnbind s ctx none).ctx ctx = {} := by
  unfold settleUnbind
  dsimp only
  generalize stopLoads (cancelAll (applyCancels s ctx) ctx) ctx (none : Option Done).isNone = u
  simp only [Option.isNone_none, if_true]
  rw [dropSeqs_none]
  exact teardown_empties ..

theorem vfFlr_unbinds {s : State} {x f : Nat} {c : Ctx} (h1 : 1 ≤ f) (h2 : f < 256) (hs : s.ctxs = [(x, c)]) (hb : c.bound = true)
    (hf : c.fn = f) (hin : c.inFlight = none) : ∃ t, exec (.vfFlr f) s = .next t ∧ t.ctx x = {} := by
  have hx : s.ctx x = c := by
    rw [State.ctx, hs]
    simp [tget]
  obtain ⟨u, hu⟩ : ∃ u, u = s.modCtx x (fun k => { k with
    unbinding := some none
    cancels := [] }) := ⟨_, rfl⟩
  have hux : u.ctx x = { c with
    unbinding := some none
    cancels := [] } := by rw [hu, State.modCtx_ctx_same, hx]
  have hsettle : settle u x = settleUnbind u x none := by
    unfold settle
    dsimp only
    rw [if_neg (by rw [hux]; simp [hb, hin]), hux]
  have hunbind : unbindFn s f = settleUnbind u x none := by
    have hfilter : s.ctxs.filter (fun c => c.2.bound && c.2.fn == f) = [(x, c)] := by
      rw [hs]
      simp [hb, hf]
    unfold unbindFn
    rw [hfilter, List.foldl_cons, List.foldl_nil, ← hsettle, hu]
  have hexec : exec (.vfFlr f) s = .next (resetFn s f) := congrArg Host.Outcome.next (if_pos ⟨h1, h2⟩)
  refine ⟨_, hexec, ?_⟩
  have he := settleUnbind_silent u x
  unfold resetFn
  rw [hunbind]
  generalize settleUnbind u x none = w at he
  obtain ⟨hframe, -⟩ := ringsOff_off w f
  generalize ringsOff w f = y at hframe
  have hctxs : (y.modFn f (fun n => { n with evtValid := false, evtMirror := false, evtRing := 0 })).ctxs = w.ctxs := by
    rw [hframe]
    rfl
  rw [ctx_congr hctxs, he]

/-! ## The link (R560, R679) -/

theorem exec_pcieLinkUp {s : State} {w speed : Nat} (hw : w ∈ [1, 4, 8, 16]) (h1 : 1 ≤ speed) (h2 : speed ≤ 6) :
    exec (.pcieLinkUp w speed) s = .next { s with hif := { s.hif with
      speed := speed
      width := w
      flit := decide (speed = 6) } } := by
  simp only [List.mem_cons, List.not_mem_nil, or_false] at hw
  exact congrArg Host.Outcome.next (if_pos ⟨hw, h1, h2⟩)

theorem resets_unbound {s : State} (h : ∀ c ∈ s.ctxs, c.2.bound = false) :
    (∀ v, 1 ≤ v → v < 256 → ∃ t, exec (.vfFlr v) s = .next t ∧ (t.fn v).evtValid = false ∧ t.mem = s.mem ∧
      ∀ r, (s.fn v).ringsBase ≤ r → r < (s.fn v).ringsBase + (s.fn v).ringsCount → (t.ring r).st = .off ∧ (t.ring r).waiting = []) ∧
    let Reset (t : State) : Prop := t.mem = s.mem ∧ (∀ f, (t.fn f).ringsCount = 0 ∧ (t.fn f).vecCount = if f = 0 then 2048 else 0) ∧
      ∀ f r, f < 256 → (s.fn f).ringsBase ≤ r → r < (s.fn f).ringsBase + (s.fn f).ringsCount → (t.ring r).st = .off
    (∃ t, exec .pfFlr s = .next t ∧ Reset t ∧ t.crossings = s.crossings) ∧
    (∃ t, exec .hotReset s = .next t ∧ Reset t ∧ (t.crossing xPcie).resets = (s.crossing xPcie).resets + 1) ∧
    (∃ t, exec .pcieLinkDown s = .next t ∧ Reset t ∧ (t.crossing xPcie).resets = (s.crossing xPcie).resets + 1 ∧ t.hif.speed = 0 ∧
      t.hif.width = 0 ∧ t.hif.flit = false) := by
  obtain ⟨hframe, hranges, hoff⟩ := resetAllFns_unbound h
  have hmem : (resetAllFns s).mem = s.mem := by rw [hframe]
  have hcross : (resetAllFns s).crossings = s.crossings := by rw [hframe]
  have hcr : (resetAllFns s).crossing xPcie = s.crossing xPcie := by rw [State.crossing, hcross]; rfl
  have hexec1 : exec .pfFlr s = .next (resetAllFns s) := rfl
  have hexec2 : exec .hotReset s = .next (resetGroup (resetAllFns s) xPcie) := rfl
  have hexec3 : exec .pcieLinkDown s = .next { (resetGroup (resetAllFns s) xPcie) with
    hif := { (resetGroup (resetAllFns s) xPcie).hif with
      speed := 0
      width := 0
      flit := false } } := rfl
  generalize resetAllFns s = u at *
  have hresets : ((resetGroup u xPcie).crossing xPcie).resets = (s.crossing xPcie).resets + 1 := by
    rw [resetGroup, State.crossing, State.modCrossing]
    dsimp only
    rw [tget_tset_same, hcr]
  refine ⟨fun v h1 h2 => ?_, ⟨u, hexec1, ⟨hmem, hranges, hoff⟩, hcross⟩, ⟨_, hexec2, ⟨hmem, hranges, hoff⟩, hresets⟩,
    ⟨_, hexec3, ⟨hmem, hranges, hoff⟩, hresets, rfl, rfl, rfl⟩⟩
  obtain ⟨hq, hv, hrings⟩ := resetFn_unbound h v
  have hm : (resetFn s v).mem = s.mem := by rw [hq.frame]
  exact ⟨_, congrArg Host.Outcome.next (if_pos ⟨h1, h2⟩), hv, hm, hrings⟩

/-- Settles O49: each access through the laws of its ring, of its function's range or of the reset that it makes. -/
theorem hostInterface : Obligations.HostInterface := by
  unfold Obligations.HostInterface
  refine ⟨fun s fn k r hs hr => ?_, fun s r hr hst => exec_ringDisableDone hr hst,
    fun s r => fun hk ht hon hm ha hc hv => moderationExpiry_sends hk ht hon hm ha hc hv, fun s f v hs hf => ?_,
    fun s s1 off size pl bs hs hen hoff hsize hpl hread => exec_bar4Access_read hs hen hoff hsize hpl (bar4Read_good hread),
    fun s h => resets_unbound h, fun s x f c h1 h2 hs hb hf hin => vfFlr_unbinds h1 h2 hs hb hf hin,
    fun s w speed hw h1 h2 => exec_pcieLinkUp hw h1 h2, fun s h => congrArg Host.Outcome.next (if_pos h)⟩
  · exact ⟨fun v w hon hfw hk => ⟨fun hv => submitDoorbell_moves hs hr w hon hfw hk hv, fun hv => submitDoorbell_errs hs hr hon hfw hk hv⟩,
      fun v hon hfw hk hv => ⟨headDoorbell_moves hs hr hon hfw hk hv, fun hc => ringArm_arms hs hr hon hfw hk hv hc,
        fun hc hm hvec => ringArm_sends hs hr hon hfw hk hv hc hm hvec⟩,
      fun v => ⟨fun hon hv _ => ringDescWrite_errs hs hr hon hv, fun hoff hen hp hc => ringDescWrite_sets hs hr v hoff hen hp hc⟩,
      fun hoff => exec_ringEnable_off hs hr hoff, fun hon => exec_ringDisable_on hs hr hon⟩
  · have hw := exec_hifFnRingsWrite v hs hf
    refine ⟨⟨fun h => ?_, fun h1 h2 h3 h4 => ?_⟩, fun h1 h2 h3 => exec_hifFnVecWrite hs hf rfl rfl h1 h2 h3⟩
    · rw [hw, writeFnRings_errs h]
    · rw [hw, writeFnRings_sets h1 h2 h3 h4]

end Sys2Proof.Proofs
end

section
/-! A SLOWDOWN whose group entry no longer reads (15, R476, R614, R615; 10, R438). -/

namespace Sys2Proof.Proofs
open Sys2Proof Sys2Proof.Machine

/-- A device without a number in a group in NORMAL mode, whose group entry is not cached and lies in an uncorrectable word of HBM. -/
def badGroupEntry : State := { State.reset with
  fan := { State.reset.fan with mode := 1 }
  chk := [(0, 0x0101)] }

/-- A SLOWDOWN of device 0 to that group. -/
def slowdownOfZero : FanMsg := { sender := 0, group := 0, subj := 0, mseq := 1, value0 := 0, value1 := 0 }

/-- The count of events that a command leaves. -/
def esqAfter (o : Host.Outcome State Fault Refusal) : W32 :=
  match o with
  | .next t => t.hif.esq
  | _ => 0

theorem badGroupEntry_takes : takeMsg badGroupEntry slowdownOfZero =
    some { badGroupEntry with fan := { badGroupEntry.fan with lastMseq := [(0, 1)] } } := rfl

/-- SLOWDOWN_NOTICE is posted, and then FRAME_RETIRED for the frame of the group's entry. -/
theorem slowdown_esq : esqAfter (exec (.slowdown slowdownOfZero) badGroupEntry) = 2 := by decide +kernel

/-- Refutes O51: a SLOWDOWN posts SLOWDOWN_NOTICE, but the read of the group's entry that follows it may meet an uncorrectable word; its frame
is retired with FRAME_RETIRED, and the event sequence has advanced by two. -/
theorem not_powerAndGroups : ¬ Obligations.PowerAndGroups := by
  unfold Obligations.PowerAndGroups
  rintro ⟨-, -, -, -, -, hmsg, -⟩
  obtain ⟨hslow, -⟩ := (hmsg badGroupEntry _ slowdownOfZero badGroupEntry_takes).1 rfl rfl
  obtain ⟨t, ht, -, -, hesq⟩ := hslow rfl
  have htwo := slowdown_esq
  rw [ht] at htwo
  have hone : t.hif.esq = 1 := hesq
  have htwo' : t.hif.esq = 2 := htwo
  rw [hone] at htwo'
  exact absurd htwo' (by decide)

end Sys2Proof.Proofs
end
